-- ==== Sys2Proof/Word.lean ====
section
/-! DEFINITION. Words and bytes, and the little-endian reading of a byte string (R8, R9). -/

namespace Sys2Proof

/-- One byte of memory, of a register page or of a packet. -/
abbrev Byte := BitVec 8

/-- A byte that travels with its poison bit (R619): the bit says that the 64-byte unit it came from is poisoned. -/
abbrev PByte := Byte × Bool

/-- The value of a byte string, least significant byte first (R9). -/
def leNat : List Byte → Nat
  | [] => 0
  | b :: bs => b.toNat + 256 * leNat bs

/-- `n` bytes of the value `v`, least significant byte first (R9). -/
def leBytes : Nat → Nat → List Byte
  | 0, _ => []
  | n + 1, v => BitVec.ofNat 8 v :: leBytes n (v / 256)

/-- Bits [lo + w - 1 : lo] of `v` (R8). -/
def bitsOf (v lo w : Nat) : Nat := v / 2 ^ lo % 2 ^ w

/-- Bit `i` of `v`. -/
def bitOf (v i : Nat) : Bool := v / 2 ^ i % 2 == 1

/-- 1 for true, 0 for false. -/
def natOf (b : Bool) : Nat := if b then 1 else 0

/-- Kinds of request (R665). -/
inductive ReqKind where
  | read | write | atomic
deriving DecidableEq, Repr

/-- A request waiting at an arbitration point (R616, R617): its carried slack and its wait there in ns, its arrival
order and its source port; the page of the unit that sends it and the page it goes to (R28, R615). -/
structure ArbRequest where
  unit : Nat
  target : Nat
  slack : Nat
  waited : Nat
  arrival : Nat
  source : Nat
deriving DecidableEq, Repr

/-- A Kuslight packet: the fields of its 32-byte header and its data (R664). -/
structure Packet where
  type : Nat
  hops : Nat
  dst : Nat
  src : Nat
  len : Nat
  addr : Nat
  tag : Nat
  slack : Nat
  poison : Nat
  data : List Byte
deriving DecidableEq, Repr

/-- A parity mismatch in a pipeline's array while it drives: the array (0 score, 1 value), the key block and slice whose
half it held, the physical columns the check can name (R170, R383). -/
structure PipeParity where
  array : Nat
  block : Nat
  slice : Nat
  columns : List Nat
deriving DecidableEq, Repr

/-- What the codec's standard gives for the next picture of a bitstream (R522 to R524): its geometry, the samples of its
planes by row, its place in output and decode order, what it references, and where its coded data lies. -/
structure Picture where
  /-- The stream uses a feature that R523 leaves out. -/
  unsupported : Bool
  /-- The level that the stream signals, times ten; a JPEG stream has none. -/
  level : Nat
  width : Nat
  height : Nat
  depth : Nat
  /-- 0 monochrome, 1 4:2:0, 2 4:2:2, 3 4:4:4. -/
  chroma : Nat
  /-- `sps_max_dec_pic_buffering` of an HEVC stream (R536). -/
  refs : Nat
  /-- The samples, and those with AV1 film grain applied (R524). -/
  planes : List (List (List Nat))
  grained : List (List (List Nat))
  output : Nat
  decode : Nat
  shown : Bool
  /-- The picture is an IRAP picture or a key frame. -/
  key : Bool
  /-- It ends the stream's output order. -/
  last : Bool
  /-- Buffers it is predicted from, buffers whose pictures the reference rules drop, and whether they hold this one. -/
  uses : List Nat
  drops : List Nat
  keep : Bool
  /-- Byte offset in the sample at which each unit's coded data begins, in the order of units, and where the last ends. -/
  starts : List Nat
  ends : Nat
  /-- Byte offsets at which a syntax element is out of its range, or another error of R541 is met. -/
  errors : List Nat
  /-- First unit of each slice, and the buffer of its RefPicList0[0]; an AV1 frame has one, with its LAST_FRAME (R543). -/
  slices : List (Nat × Option Nat)
  unitW : Nat
  unitH : Nat
deriving DecidableEq, Repr

end Sys2Proof
end

