-- ==== Sys2Proof/Syntax.lean ====
section
/-! DEFINITION. The commands of the block: one constructor for each row of spec/opcode_table.json, with the operands
that tell one occurrence from another (which unit, which address, what the outside brings). -/

namespace Sys2Proof

/-- A pass of pipeline `cluster`, and a mismatch that the check of a bank finds while it drives (R170, R383). -/
structure PassDrive where
  cluster : Nat
  parity : Option PipeParity
deriving DecidableEq, Repr

/-- A first write to the page of `addr` under a running round, and the cycles that the round has taken (R738). -/
structure Touch where
  addr : Nat
  cycles : Nat
deriving DecidableEq, Repr

/-- A configuration request: the doubleword, what it writes there or nothing for a read, and whether the Lockkeeper has
loaded the settings by then (R855). -/
structure ConfigAccess where
  reg : Nat
  data : Option Nat
  loaded : Bool
deriving DecidableEq, Repr

/-- A command of the module. -/
inductive Instr where
  /-- REGISTER_WRITE (R929). A write to a register field that has no row of its own changes the field, and acts only when the value changes. -/
  | registerWrite (inFlight : Nat)
  /-- REQUEST_ISSUE (R47). A master issues a read, write or atomic request, which is handled locally, refused, or routed to a peer over Kuslight. -/
  | requestIssue (page : Nat) (sub : Nat) (kind : ReqKind) (addr : Nat) (len : Nat) (data : List Byte) (poison : Nat) (slack : Nat)
  /-- MEMORY_READ (R624). A well or GDDR7 read returns data corrected, poisoned or as zero for unwritten memory, with write-back and counting. -/
  | memoryRead (page : Nat) (addr : Nat) (len : Nat) (upsets : List (Nat × Nat))
  /-- MEMORY_WRITE (R626). A well or GDDR7 write stores data and check bits, doing read-modify-write, poison handling or a first-write zero fill. -/
  | memoryWrite (page : Nat) (addr : Nat) (data : List Byte) (poison : Nat)
  /-- ATOMIC_ADD_REQUEST (R230). An atomic wrapping 32-bit add reaches its word and is applied. -/
  | atomicAddRequest (inFlight : Nat)
  /-- STATS_ADD_APPLY (R105). A queued statistics add is applied to its pending slot as atomic adds and an atomic maximum, or dropped if its step is resolved. -/
  | statsAddApply (page : Nat)
  /-- ARRAY_ROW_READ (R114). An ARRAY instruction in row-read mode is issued, checked and entered into the hinge array. -/
  | arrayRowRead (tile : Nat)
  /-- ARRAY_COLUMN_READ (R115). An ARRAY instruction in column-read mode is issued, checked and entered into the hinge array. -/
  | arrayColumnRead (tile : Nat)
  /-- ARRAY_LOAD_ONLY (R144). A load-only ARRAY operation is issued and loads its bank without driving. -/
  | arrayLoadOnly (tile : Nat)
  /-- ARRAY_WINDOW_OP (R457). An ARRAY instruction with a window descriptor is issued as one window operation of several passes. -/
  | arrayWindowOp (tile : Nat)
  /-- STATIONARY_LOAD (R140). A stationary load begins once its bank is free and fills it row by row over 64 cycles. -/
  | stationaryLoad (tile : Nat)
  /-- VECTOR_ENTRY (R134). A streamed vector enters the drive lines once its data, bank and accumulator row are ready, and its group values are added. -/
  | vectorEntry (tile : Nat) (parity : Option (List Nat))
  /-- ARRAY_OP_COMPLETE (R226). An array operation writes its last accumulator row, or finishes its load, and completes. -/
  | arrayOpComplete (tile : Nat) (cycles : Nat)
  /-- HA_SPARE_WRITE (R168). A write to HA_SPARE requests a spare-column mapping and sets or clears PENDING. -/
  | haSpareWrite (page : Nat) (array : Nat) (req : Nat) (col : Nat)
  /-- SPARE_MAP_APPLY (R168). A pending spare-column mapping is applied at the tile's next step boundary with no array operation in flight. -/
  | spareMapApply (page : Nat) (array : Nat)
  /-- HA_TEST_START (R172). Writing HA_TEST.START starts the array self-test if the tile is locked, or logs an error otherwise. -/
  | haTestStart (page : Nat) (array : Nat)
  /-- HA_SELF_TEST_DONE (R172). The array self-test finishes and sets DONE, PASS and the fault fields. -/
  | haSelfTestDone (page : Nat) (array : Nat) (columns : List Nat) (beyond : Bool)
  /-- DRAIN (R188). A DRAIN instruction is issued, checked and queued, taking its credits and possibly marking its set logically free. -/
  | drain (tile : Nat)
  /-- DRAIN_START (R197). A drain reads its first row once earlier operations on its set and the previous drain are done. -/
  | drainStart (tile : Nat)
  /-- SET_RELEASE (R200). A release takes effect in the cycle after the drain or tail reads its last row, freeing the set physically. -/
  | setRelease (tile : Nat)
  /-- DRAIN_COMPLETE (R201). A drain's last write is accepted, or a write fails, and the drain completes with its code. -/
  | drainComplete (tile : Nat) (cycles : Nat)
  /-- CL_ARITH_UPDATE (R212). The cluster mirrors tile INVALID bits and captures the first tile within 32 cycles. -/
  | clArithUpdate (cluster : Nat)
  /-- MON_ARITH_UPDATE (R213). The monitor page updates the invalid cluster count and first cluster within 5 us. -/
  | monArithUpdate
  /-- TAIL_BIAS_ACT (R273). A TAIL BIAS_ACT operation adds biases and applies the activation. -/
  | tailBiasAct (tile : Nat) (issue : Bool)
  /-- TAIL_ADD_ACT (R273). A TAIL ADD_ACT operation adds two operands and applies the activation. -/
  | tailAddAct (tile : Nat) (issue : Bool)
  /-- TAIL_MUL (R273). A TAIL MUL operation multiplies two operands element by element. -/
  | tailMul (tile : Nat) (issue : Bool)
  /-- TAIL_NORM (R277). A TAIL NORM operation normalises groups of vectors in two passes. -/
  | tailNorm (tile : Nat) (issue : Bool)
  /-- TAIL_ROWSTAT (R277). A TAIL ROWSTAT operation writes the (s1, s2) sums of each group. -/
  | tailRowstat (tile : Nat) (issue : Bool)
  /-- TAIL_NORM_APPLY (R277). A TAIL NORM_APPLY operation normalises from partial statistics. -/
  | tailNormApply (tile : Nat) (issue : Bool)
  /-- TAIL_CONVERT (R273). A TAIL CONVERT operation scales and re-encodes its source. -/
  | tailConvert (tile : Nat) (issue : Bool)
  /-- TAIL_SPLIT3 (R278). A TAIL SPLIT3 operation splits F32 elements into three K16 piece tensors. -/
  | tailSplit3 (tile : Nat) (issue : Bool)
  /-- TAIL_POOL (R488). A TAIL POOL operation computes max, average or tap-mask pooling over a window. -/
  | tailPool (tile : Nat) (issue : Bool)
  /-- TAIL_SGD (R280). A TAIL SGD operation updates master weight and momentum into the pending slot once it is open. -/
  | tailSgd (tile : Nat) (issue : Bool)
  /-- TAIL_ADAMW (R280). A TAIL ADAMW operation updates weight and both moments into the pending slot once it is open. -/
  | tailAdamw (tile : Nat) (issue : Bool)
  /-- TAIL_COMPLETE (R284). A tail operation's last write is accepted, or a read or write fails, and it completes. -/
  | tailComplete (tile : Nat) (cycles : Nat)
  /-- SEND (R228). A SEND instruction issues once it holds credits and sends its slots to every receiver. -/
  | send (tile : Nat) (issue : Bool)
  /-- SEND_COMPLETE (R226). A SEND completes when every receiver has accepted its last message. -/
  | sendComplete (tile : Nat) (cycles : Nat)
  /-- RECV (R229). A RECV instruction issues and copies received slots to the well. -/
  | recv (tile : Nat) (issue : Bool)
  /-- RECV_COMPLETE (R226). A RECV completes when its last slot is copied and freed. -/
  | recvComplete (tile : Nat) (cycles : Nat)
  /-- PUMP (R600). A PUMP instruction hands its descriptor to the cluster pump once accepted. -/
  | pump (tile : Nat)
  /-- PUMP_INSTR_COMPLETE (R600). The cluster pump reports a descriptor done and the PUMP completes with its code. -/
  | pumpInstrComplete (tile : Nat) (cycles : Nat)
  /-- WAIT (R233). A WAIT instruction issues when its word reaches the value. -/
  | waitCmd (tile : Nat)
  /-- WAIT_POLL (R235). A waiting WAIT re-reads its word at least every 64 cycles. -/
  | waitPoll (tile : Nat)
  /-- SIGNAL (R230). A SIGNAL instruction issues an atomic wrapping add to a global word. -/
  | signal (tile : Nat)
  /-- SIGNAL_ACK (R226). A SIGNAL completes when its add is acknowledged. -/
  | signalAck (tile : Nat) (cycles : Nat)
  /-- SEG (R238). A SEG instruction reads its mark and, if nonzero, issues its recompute segment. -/
  | seg (tile : Nat)
  /-- FILL_ON (R264). FILL_ON opens a fill window once its fill set is logically free. -/
  | fillOn (tile : Nat)
  /-- FILL_OFF (R267). FILL_OFF drains ring entries until the fill set is free, then closes the window or fails. -/
  | fillOff (tile : Nat)
  /-- STEP_END (R240). STEP_END puts the tile at a step boundary once every earlier main-list instruction has completed. -/
  | stepEnd (tile : Nat)
  /-- FILL_RING_ISSUE (R266). The scheduler issues a fill-ring entry when the main-list head cannot issue and a window is open. -/
  | fillRingIssue (tile : Nat)
  /-- MAIN_LIST_PASS_BEGIN (R319). A tile at a step boundary begins its next main-list pass when the next step has opened. -/
  | mainListPassBegin (tile : Nat)
  /-- SCHED_START (R257). Writing SCHED_CTRL.START loads the header, checks it, opens enabled channel endpoints and starts the scheduler. -/
  | schedStart (tile : Nat)
  /-- SCHED_STOP (R288). Writing SCHED_CTRL.STOP stops the scheduler at its next STEP_END. -/
  | schedStop (tile : Nat)
  /-- CHANNEL_OPEN_REQUEST (R257). A receive endpoint that is open answers a sender's open request with its geometry and a grant, or refuses it. -/
  | channelOpenRequest (index : Nat)
  /-- CHANNEL_GRANT (R258). A send endpoint receives a grant and takes its credits, or records a geometry mismatch. -/
  | channelGrant (index : Nat)
  /-- CHANNEL_MESSAGE (R253). A channel message reaches its receiver and is written into the slot its sequence names, or is refused. -/
  | channelMessage (index : Nat)
  /-- CREDIT_RETURN (R255). A credit return from a freed slot reaches its sender. -/
  | creditReturn (index : Nat)
  /-- CHANNEL_REOPEN (R262). An endpoint in PEER_LOCKED reopens at its tile's first step boundary after the peer is open again. -/
  | channelReopen (tile : Nat) (ch : Nat)
  /-- MB_BIND (R296). A write to MB_BIND binds a micro-batch to a generation, or is refused. -/
  | mbBind (mb : Nat) (mode : Nat) (need : Nat)
  /-- BINDING_COPY (R299). The generation unit writes a binding into every unit's copy within 2 us. -/
  | bindingCopy (page : Nat) (mb : Nat)
  /-- GEN_ENABLE (R311). A 0 to 1 write of GEN_CTRL.ENABLE opens step GEN_STEP + 1. -/
  | genEnable (on : Bool)
  /-- STEP_OPEN_NEXT (R312). The next step opens when the previous is resolved, or when its pending slot opens under AHEAD. -/
  | stepOpenNext
  /-- PENDING_SLOT_OPEN (R314). A step's pending slot opens once the previous step is resolved and no hold of G - 2 remains, copying the open list. -/
  | pendingSlotOpen
  /-- MODULE_READY (R321). When the ready conditions hold, the module evaluates the loss monitor, updates scale records and sends READY or VETO. -/
  | moduleReady
  /-- READY (R325). The coordinator receives READY and decides COMMIT when it holds READY from every rank. -/
  | ready (step : Nat) (rank : Nat)
  /-- VETO (R325). The coordinator receives VETO and decides ABORT. -/
  | veto (step : Nat) (code : Nat) (rank : Nat)
  /-- COMMIT_DEADLINE_EXPIRY (R325). GEN_DEADLINE expires at the coordinator and it decides ABORT. -/
  | commitDeadlineExpiry (us : Nat)
  /-- DECISION_RESEND (R327). The coordinator resends its decision to the deputy every 100 us until the ACK arrives. -/
  | decisionResend
  /-- ACK (R326). The coordinator receives the deputy's ACK and sends the decision to every member. -/
  | ack (step : Nat)
  /-- QUERY (R330). The deputy receives QUERY and answers with its decision, or decides ABORT. -/
  | query (step : Nat) (rank : Nat)
  /-- COMMIT (R332). A member receives COMMIT and advances G, committing loss state, RNG step tag, cursor record and snapshot round begin. -/
  | commit (step : Nat) (gen : Nat)
  /-- ABORT (R333). A member receives ABORT and cancels open reductions of the step. -/
  | abort (step : Nat) (code : Nat) (rank : Nat)
  /-- ABORT_DISCARD (R333). Once every unit has finished its pass of the aborted step, the member discards the pending slot and records the cause. -/
  | abortDiscard
  /-- PACK_START (R353). The packer starts a pack descriptor, checks it, drops it or writes the header invalid. -/
  | packStart (cluster : Nat)
  /-- PACK_BODY (R353). After the header is acknowledged, the packer codes chunks and writes body and index. -/
  | packBody (cluster : Nat)
  /-- PACK_HEADER_VALID (R353). After every body and index write is acknowledged, the packer writes the header valid. -/
  | packHeaderValid (cluster : Nat)
  /-- PACK_COMPLETE (R353). After the valid header is acknowledged, the packer writes a zero mark and completes. -/
  | packComplete (cluster : Nat)
  /-- UNPACK (R364). The packer runs an unpack descriptor: mark, header, chunks, scale record. -/
  | unpack (cluster : Nat)
  /-- AP_START (R386). Writing AP_CTRL.START loads the pipeline's header and starts it at the next step boundary. -/
  | apStart (cluster : Nat)
  /-- AP_STOP (R387). Writing AP_CTRL.STOP stops the pipeline at its next step boundary. -/
  | apStop (cluster : Nat)
  /-- AT_FORWARD (R408). A forward attention descriptor starts once bound and its wait word is met, and runs its passes. -/
  | atForward (cluster : Nat)
  /-- AT_BACKWARD (R413). A backward attention descriptor starts once bound and its wait word is met, and writes P and dS blocks. -/
  | atBackward (cluster : Nat)
  /-- AT_WAIT_POLL (R388). A descriptor waiting on AT_WAIT re-reads the word at least every 64 cycles. -/
  | atWaitPoll (cluster : Nat)
  /-- AT_PASS (R398). A pipeline runs one pass of a query group against its key blocks, pinning and unpinning pages. -/
  | atPass (drive : PassDrive)
  /-- AT_DESC_COMPLETE (R389). An attention descriptor completes, signals, writes a completion entry or halts the pipeline. -/
  | atDescComplete (cluster : Nat) (cycles : Nat)
  /-- WH_CMD_PORT_WRITE (R430). A write to WH_CMD_PORT queues a Wellhead command, or is discarded or refused. -/
  | whCmdPortWrite (wellhead : Nat) (off : Nat) (data : List Byte)
  /-- ALLOC (R435). The Wellhead allocates the free-list head page. -/
  | alloc (wellhead : Nat)
  /-- SHARE (R435). The Wellhead adds one to a page's count. -/
  | share (wellhead : Nat)
  /-- FREE (R436). The Wellhead takes one from a page's count, freeing or draining it at zero. -/
  | freePage (wellhead : Nat)
  /-- COW (R438). The Wellhead copies a shared page to a new one and frees the old reference. -/
  | cow (wellhead : Nat)
  /-- PIN (R435). The Wellhead adds one to a page's pins. -/
  | pin (wellhead : Nat)
  /-- UNPIN (R436). The Wellhead takes one from a page's pins, freeing a draining page at zero. -/
  | unpin (wellhead : Nat)
  /-- LOOKUP (R439). The Wellhead looks up a block key in a tree, optionally sharing the hit's pages. -/
  | lookup (wellhead : Nat)
  /-- INSERT (R440). The Wellhead creates a tree node for a block and shares its pages. -/
  | insert (wellhead : Nat)
  /-- EVICT (R435). The Wellhead frees a node's pages and returns it to the free-node list. -/
  | evict (wellhead : Nat)
  /-- HP_START (R469). Writing HP_CTRL.START loads the handpump's header and starts it. -/
  | hpStart (handpump : Nat)
  /-- HP_STOP (R469). Writing HP_CTRL.STOP stops the handpump at its next step boundary. -/
  | hpStop (handpump : Nat)
  /-- CONV (R473). A handpump CONV descriptor computes a small-channel convolution. -/
  | conv (handpump : Nat)
  /-- CROP (R480). A handpump CROP descriptor resamples boxes into fixed-size outputs. -/
  | crop (handpump : Nat)
  /-- WGRAD (R474). A handpump WGRAD descriptor computes a weight gradient. -/
  | wgrad (handpump : Nat)
  /-- HD_DESC_COMPLETE (R469). A handpump descriptor completes, signals, writes a completion entry or halts. -/
  | hdDescComplete (handpump : Nat) (cycles : Nat)
  /-- RNG_PROBE (R500). Writing RNG_PROBE_CTR3 computes a Philox block for the probe key and counter. -/
  | rngProbe (ctr3 : Nat)
  /-- RNG_RESTORE_STAGE (R503). Writing RNG_RESTORE reads, checks and stages an RNG state record. -/
  | rngRestoreStage (addr : Nat)
  /-- LM_LOSS_IN (R505). An 8-byte write to LM_LOSS_IN delivers a step's loss, or is discarded. -/
  | lmLossIn (off : Nat) (data : List Byte)
  /-- TAIL_NONFINITE_ROLLUP (R510). Cluster and module non-finite counters follow their tile sources within 5 us. -/
  | tailNonfiniteRollup (cluster : Nat)
  /-- WR_EXPORT (R512). A work-ring EXPORT entry checks and writes an export pack's header, table and data. -/
  | wrExport (ring : Nat)
  /-- EXPORT_SIGN (R517). After every pack write is acknowledged, the export writes its signature and raises EV_EX_DONE. -/
  | exportSign (ring : Nat)
  /-- VD_JOB_SUBMIT (R527). A write to VD_JOB_PORT queues a decode job, or is discarded. -/
  | vdJobSubmit (decoder : Nat) (off : Nat) (data : List Byte)
  /-- VD_JOB_START (R529). A decoder starts its next queued job. -/
  | vdJobStart (decoder : Nat)
  /-- VD_PICTURE_DECODE (R525). A decoder decodes one picture once it has a free buffer, concealing damage. -/
  | vdPictureDecode (decoder : Nat) (picture : Picture)
  /-- VD_FRAME_ENTRY (R540). After the picture's buffer writes are acknowledged and ring room exists, the decoder writes its frame entry. -/
  | vdFrameEntry (decoder : Nat)
  /-- VD_RELEASE (R533). Writing VD_RELEASE clears the OUT mark of a buffer, or is refused. -/
  | vdRelease (decoder : Nat) (buf : Nat)
  /-- VE_JOB_SUBMIT (R549). A write to VE_JOB_PORT queues an encode job, or is refused. -/
  | veJobSubmit (encoder : Nat) (off : Nat) (data : List Byte)
  /-- VE_JOB_START (R552). An encoder starts its next job and checks it. -/
  | veJobStart (encoder : Nat)
  /-- VE_FRAME_ENCODE (R551). An encoder codes one frame under its rate cap. `upsets` strike the memories before it reads its source (R623). -/
  | veFrameEncode (encoder : Nat) (upsets : List (Nat × Nat))
  /-- VE_RESULT (R554). After output writes are acknowledged, the encoder writes its result code and raises EV_ME_DONE. -/
  | veResult (encoder : Nat)
  /-- CI_DECODE (R564). The cistern takes a DECODE descriptor as one sample. -/
  | ciDecode
  /-- CI_COPY (R565). The cistern takes a COPY descriptor and copies bytes into the sample's slot. -/
  | ciCopy
  /-- CI_SENSOR (R580). The cistern takes a SENSOR descriptor and assembles a sample from sensor streams. -/
  | ciSensor
  /-- CI_PAD (R562). The cistern takes a PAD descriptor and pads the rest of the batch. -/
  | ciPad
  /-- CI_SET_AUG (R566). The cistern takes a SET_AUG descriptor and sets an augmentation counter at a batch boundary. -/
  | ciSetAug
  /-- CI_DISPATCH (R586). The controller dispatches a sample when a reorder entry, buffer and decoder are available. -/
  | ciDispatch
  /-- CI_FRAME_ENTRY (R568). The controller consumes a decoder ring entry and hands the frame to a transform unit. -/
  | ciFrameEntry (decoder : Nat) (cycles : Nat)
  /-- TF_FRAME_TRANSFORM (R571). A transform unit converts a frame into its slot and the buffer is released. -/
  | tfFrameTransform (unit : Nat)
  /-- CI_BUDGET_EXPIRY (R590). A sample's budget expires, marking it SLOW and abandoning it in abandon mode. -/
  | ciBudgetExpiry (sample : Nat) (cycles : Nat)
  /-- SS_TAIL_ADVANCE (R577). A sensor producer advances SS_TAIL, making new records available for settling. -/
  | ssTailAdvance (stream : Nat) (tail : Nat)
  /-- CI_BATCH_RELEASE (R587). A batch whose samples are finished is released in order, with header, mask and notify adds. -/
  | ciBatchRelease
  /-- CI_RETURN (R591). A write to CI_RETURN frees consumed batch buffers, or is refused. -/
  | ciReturn (off : Nat) (data : List Byte)
  /-- CI_RESTORE (R594). Writing CI_RESTORE requests a cursor restore settled against the staged RNG record. -/
  | ciRestore (addr : Nat)
  /-- CURSOR_RECORD_STEP (R593). After the cursor record body is acknowledged, the controller writes its CR_STEP. -/
  | cursorRecordStep
  /-- PM_SUBMIT (R601). A write to PM_SUBMIT queues a hub-pump submission, or is discarded. -/
  | pmSubmit (pump : Nat) (off : Nat) (data : List Byte)
  /-- PUMP_COPY (R606). A pump takes a COPY descriptor into a free slot and copies rows. -/
  | pumpCopy (pump : Nat) (slot : Nat)
  /-- PUMP_CONVERT (R607). A pump takes a CONVERT descriptor into a free slot and converts rows. -/
  | pumpConvert (pump : Nat) (slot : Nat)
  /-- PUMP_STREAM (R610). A pump takes a STREAM descriptor into a free slot and reads its counts. -/
  | pumpStream (pump : Nat) (slot : Nat)
  /-- STREAM_RECORD (R610). A stream copies one record once source and destination permit, and advances its counts. -/
  | streamRecord (pump : Nat) (slot : Nat)
  /-- STREAM_POLL (R611). A stream re-reads its ring words, detecting dry periods and stop. -/
  | streamPoll (pump : Nat) (slot : Nat)
  /-- PUMP_DESC_COMPLETE (R609). A pump descriptor completes, signals and reports or writes its completion record. -/
  | pumpDescComplete (pump : Nat) (slot : Nat)
  /-- ARB_GRANT (R617). An arbitration point grants the eligible request with least remaining slack. -/
  | arbGrant (point : Nat) (requests : List ArbRequest)
  /-- MEM_DISCARD (R631). A write to MEM_DISCARD clears valid bits of a range, or is discarded. -/
  | memDiscard (off : Nat) (data : List Byte)
  /-- MEM_RETIRE (R637). Writing MEM_RETIRE starts retirement of a channel and shrinks the data view. -/
  | memRetire (ch : Nat)
  /-- MIGRATION_COPY (R640). Migration copies one relocated granule to its new place. -/
  | migrationCopy
  /-- MIGRATION_DONE (R640). Migration ends, sets the channel retired and raises EV_MEM_RETIRED. -/
  | migrationDone
  /-- GDDR7_SCRUB (R642). The GDDR7 scrubber visits the next granule on its rate schedule. -/
  | gddr7Scrub (upsets : List (Nat × Nat))
  /-- WELL_SCRUB (R643). A cluster scrubs the next part of its wells on its pass schedule. -/
  | wellScrub (cluster : Nat) (upsets : List (Nat × Nat))
  /-- PORT_ENABLE (R669). A write of KP_CTRL.ENABLE starts or disables a port. -/
  | portEnable (port : Nat) (on : Bool)
  /-- LASER_LOSS (R654). A port's laser input leaves its range and the port enters LASER_WAIT. -/
  | laserLoss (port : Nat)
  /-- LASER_OK (R669). A port's laser input comes within range and the port enters TUNE. -/
  | laserOk (port : Nat)
  /-- PORT_TUNE_DONE (R672). A port locks to its wavelengths and enters TRAIN. -/
  | portTuneDone (port : Nat)
  /-- PORT_TRAIN_DONE (R672). A port finishes equalisation and enters ALIGN. -/
  | portTrainDone (port : Nat)
  /-- PORT_ALIGN_DONE (R672). A port deskews lanes, locks FEC, enters LINK and sends HELLO. -/
  | portAlignDone (port : Nat)
  /-- HELLO (R670). A port receives the peer's HELLO with its module and port number. -/
  | hello (port : Nat) (ack : Nat) (crVc : Nat) (crCount : Nat) (peerModule : Nat) (peerPort : Nat)
  /-- GRANT (R672). A port receives GRANT for its channels and enters UP. -/
  | grant (port : Nat) (ack : Nat) (credits : List Nat)
  /-- DATA_FLIT (R661). A port receives a data flit, acknowledging, returning credits, or discarding and asking for replay. -/
  | dataFlit (port : Nat) (bytes : List Byte) (uncorrectable : Bool) (corrected : Nat)
  /-- IDLE_FLIT (R659). A port receives an idle link flit that returns credits and acknowledges. -/
  | idleFlit (port : Nat) (ack : Nat) (crVc : Nat) (crCount : Nat)
  /-- NAK_REPLAY (R662). A sender receiving a NAK replays every later unacknowledged flit. -/
  | nakReplay (port : Nat) (ack : Nat) (crVc : Nat) (crCount : Nat)
  /-- SWAP (R674). A sender receives SWAP, pauses and moves the named lane onto W8. -/
  | swap (port : Nat) (ack : Nat) (crVc : Nat) (crCount : Nat) (lane : Nat)
  /-- SWAP_DONE (R674). A sender receives SWAP_DONE and resumes sending. -/
  | swapDone (port : Nat) (ack : Nat) (crVc : Nat) (crCount : Nat)
  /-- LANE_FAIL (R673). A receiver detects a failed lane and starts a spare switch, or the port goes DOWN. -/
  | laneFail (port : Nat) (lane : Nat)
  /-- PEER_FLIT_TIMEOUT (R671). The peer's flits stop for 10 us and the port goes DOWN. -/
  | peerFlitTimeout (port : Nat)
  /-- PORT_RETRAIN (R671). Writing KP_CTRL.RETRAIN forces the port DOWN. -/
  | portRetrain (port : Nat)
  /-- PACKET_ARRIVAL (R680). An arriving packet is executed locally, forwarded, or dropped. -/
  | packetArrival (port : Nat) (vc : Nat)
  /-- RESPONSE_ARRIVAL (R681). A response reaches its requester and completes the request, or is discarded as stray. -/
  | responseArrival (port : Nat) (tag : Nat) (code : Nat) (data : List Byte) (poison : Nat)
  /-- REQUEST_TIMEOUT (R681). A request without response completes with ERR_KL_TIMEOUT after KL_REQ_TIMEOUT. -/
  | requestTimeout (tag : Nat)
  /-- KL_RT_DATA (R676). A write to KL_RT_DATA stores a routing entry in both hubs and advances the index. -/
  | klRtData (mask : Nat)
  /-- LOCK_NOTICE (R684). A module receives a lock notice, marks the module locked, fails requests, closes chunks, forwards it and affects commit. -/
  | lockNotice (port : Nat) (module : Nat) (hops : Nat)
  /-- RELEASE_NOTICE (R683). A module receives a release notice, drops its mark and forwards it. -/
  | releaseNotice (port : Nat) (module : Nat) (hops : Nat)
  /-- RD_ENABLE (R693). Setting RD_CTRL.ENABLE validates the group registers and reduction table. -/
  | rdEnable (engine : Nat) (on : Bool)
  /-- REDUCTION_RUN_START (R694). A reduction entry's run starts once enough start signals arrive, and sends contributions. -/
  | reductionRunStart (engine : Nat) (entry : Nat)
  /-- CONTRIB (R708). An owner receives a contribution and adds it into the chunk's accumulator record, closing the chunk when all ranks are in. -/
  | contrib (data : List Byte)
  /-- CHUNK_DEADLINE (R710). RD_DEADLINE expires and open owned chunks close in ascending order. -/
  | chunkDeadline (engine : Nat) (step : Nat) (us : Nat)
  /-- RESULT (R715). A rank receives a result chunk, writes it, forwards it to the twin mirror and may complete its run. -/
  | result (data : List Byte)
  /-- TWIN_FORWARD_FAIL (R730). A failed forwarded mirror write sets TWIN_STALE and raises its event. -/
  | twinForwardFail (engine : Nat) (entry : Nat) (step : Nat) (chunk : Nat)
  /-- RS_ENABLE (R724). Setting RS_CTRL.ENABLE validates the protection table. -/
  | rsEnable (on : Bool)
  /-- ROUND_COPY (R737). After the round record is acknowledged, the round copies entries under write protection. -/
  | roundCopy (cycles : Nat)
  /-- FIRST_TOUCH (R738). A write to a protected uncopied page is held until the copier has read the page. -/
  | firstTouch (touch : Touch)
  /-- ROUND_COMPLETE_WRITE (R737). After every copy write is acknowledged, the round writes COMPLETE = 1. -/
  | roundCompleteWrite (cycles : Nat)
  /-- ROUND_COMPLETE (R737). The COMPLETE write is acknowledged and the round completes, ending the READY hold. -/
  | roundComplete (cycles : Nat)
  /-- RS_RESTORE (R743). Writing RS_CTRL.RESTORE starts a restore from a matching image slot, or refuses it. -/
  | rsRestore
  /-- RS_RESTORE_DONE (R744). The last restore write is acknowledged and the restore completes, or a fill is abandoned. -/
  | rsRestoreDone
  /-- RS_DIGEST (R746). Writing RS_DIGEST_CTRL.GO starts page digests of a range, or refuses. -/
  | rsDigest
  /-- RS_DIGEST_DONE (R749). The last digest is acknowledged and GO reads 0. -/
  | rsDigestDone
  /-- RS_RESOLVE (R750). A write to RS_RESOLVE settles an in-doubt step as commit or abort. -/
  | rsResolve (decision : Nat)
  /-- DOMAIN_LOCK (R760). A LOCK request sets a domain's lock point, refuses new requests, halts its units and sends notices. -/
  | domainLock (kind : Nat) (inst : Nat)
  /-- DOMAIN_RESET (R772). A RESET request locks the domain, dumps if asked and enters RESETTING. -/
  | domainReset (kind : Nat) (inst : Nat) (dump : Bool) (hold : Bool)
  /-- DOMAIN_RELEASE (R769). A RELEASE request opens a locked domain, or is refused. -/
  | domainRelease (kind : Nat) (inst : Nat)
  /-- LOCK_DRAINED (R764). A locking domain drains its outstanding requests, returns what it holds and enters LOCKED. -/
  | lockDrained (kind : Nat) (inst : Nat)
  /-- DRAIN_BOUND_EXPIRY (R761). The drain bound expires and unanswered requests complete with ERR_LOCK_DRAINED. -/
  | drainBoundExpiry (kind : Nat) (inst : Nat)
  /-- RESET_COMPLETE (R773). A domain finishes RESETTING, defaults its pages, counts the reset and becomes LOCKED or OPEN. -/
  | resetComplete (kind : Nat) (inst : Nat) (failed : List Nat)
  /-- COLD_POWER_UP (R921). The supply reaches 50 V and the module runs its cold start-up sequence. -/
  | coldPowerUp (failed : List Nat)
  /-- PERST (R776). PERST_N assertion resets the module warm plus the PCI Express endpoint. -/
  | perst
  /-- FLR (R777). A function-level reset resets the module warm plus the function's configuration state. -/
  | flr
  /-- LK_HEARTBEAT (R781). The Lockkeeper increments its heartbeat every 10 ms. -/
  | lkHeartbeat (phase : Nat)
  /-- LK_WATCHDOG (R782). The always-on watchdog sees 100 ms without a heartbeat and may reset the Lockkeeper. -/
  | lkWatchdog
  /-- CL_TILE_MAP_WRITE (R787). A write to CL_TILE_MAP requests a spare-tile substitution, or is refused. -/
  | clTileMapWrite (cluster : Nat) (active : Nat) (logical : Nat)
  /-- SUBSTITUTION_APPLY (R788). A pending substitution takes effect at the cluster's next step boundary. -/
  | substitutionApply (cluster : Nat)
  /-- PSTATE_TARGET (R793). A write of RC_PSTATE.TARGET enters or leaves M2 or M3, or is refused. -/
  | pstateTarget (target : Nat)
  /-- CLUSTER_GATE (R791). A cluster idle for IDLE_US gates its clocks into M1. -/
  | clusterGate (cluster : Nat)
  /-- CLUSTER_WAKE (R792). A gated cluster wakes when work reaches it. -/
  | clusterWake (cluster : Nat)
  /-- MARKER_GO (R800). Writing MON_MARKER.GO starts a marker wave and sends tokens. -/
  | markerGo
  /-- MARKER_LATCH (R802). A unit latches its counters when the token or a newer-stamped message first reaches it. -/
  | markerLatch (page : Nat)
  /-- MARKER_NOTICE (R810). A receive endpoint takes its sender's marker notice and fills INFLIGHT and RETURNS. -/
  | markerNotice (index : Nat)
  /-- MARKER_WAVE_COMPLETE (R806). A complete wave runs the conservation audits and raises EV_MARKER_DONE. -/
  | markerWaveComplete
  /-- LIFE_SAMPLE (R816). Lockkeeper firmware samples temperature and input voltage once per second. -/
  | lifeSample
  /-- LIFE_SUMMARY_WRITE (R817). Lockkeeper firmware writes the life-log summary on its schedule, shutdown or mapping change. -/
  | lifeSummaryWrite
  /-- JOURNAL_APPEND (R820). Lockkeeper firmware appends a journal entry for an event within 1 s, or counts a drop. -/
  | journalAppend
  /-- KEYRING_SIGN (R827). The keyring signs a 32-byte digest, or refuses. -/
  | keyringSign (digest : List Byte)
  /-- KEYRING_ECDHE (R825). The keyring performs a P-256 ECDHE exchange for an SPDM session. -/
  | keyringEcdhe (peer : List Byte)
  /-- KEYRING_RANDOM (R825). The keyring returns random bytes. -/
  | keyringRandom (count : Nat)
  /-- KEYRING_PUBLIC_KEY (R825). The keyring reports the identity public key. -/
  | keyringPublicKey
  /-- GET_VERSION (R838). The SPDM responder answers GET_VERSION. -/
  | getVersion
  /-- GET_CAPABILITIES (R838). The SPDM responder answers GET_CAPABILITIES. -/
  | getCapabilities
  /-- NEGOTIATE_ALGORITHMS (R838). The SPDM responder answers NEGOTIATE_ALGORITHMS. -/
  | negotiateAlgorithms (common : Bool)
  /-- GET_DIGESTS (R838). The SPDM responder answers GET_DIGESTS. -/
  | getDigests
  /-- GET_CERTIFICATE (R838). The SPDM responder returns the certificate chain of slot 0. -/
  | getCertificate (slot : Nat) (off : Nat) (len : Nat)
  /-- CHALLENGE (R838). The SPDM responder answers CHALLENGE with a signature. -/
  | challenge (slot : Nat) (digest : List Byte)
  /-- GET_MEASUREMENTS (R839). The SPDM responder returns signed measurements. -/
  | getMeasurements (index : Nat) (sign : Bool) (digest : List Byte)
  /-- KEY_EXCHANGE (R838). The SPDM responder starts a secured session. -/
  | keyExchange (slot : Nat) (peer : List Byte) (digest : List Byte)
  /-- FINISH (R838). The SPDM responder finishes session establishment. -/
  | finish (session : Nat) (ok : Bool)
  /-- HEARTBEAT (R838). The SPDM responder answers a session HEARTBEAT. -/
  | heartbeat (session : Nat)
  /-- KEY_UPDATE (R838). The SPDM responder updates session keys. -/
  | keyUpdate (session : Nat)
  /-- END_SESSION (R841). The SPDM responder ends a session and zeroes its keys. -/
  | endSession (session : Nat)
  /-- DEBUG_CHALLENGE (R846). The debug port issues a one-use 32-byte challenge. -/
  | debugChallenge
  /-- DEBUG_AUTH (R846). The debug port checks a key and signature and opens, or counts a failure. -/
  | debugAuth (key : List Byte) (sig : List Byte)
  /-- DEBUG_CHALLENGE_EXPIRY (R846). A debug challenge expires after 60 s. -/
  | debugChallengeExpiry
  /-- BAR0_ACCESS (R859). A host BAR0 access reaches a register page or the directory, or fails by size or alignment. -/
  | bar0Access (off : Nat) (len : Nat) (data : Option (List Byte)) (ep : Bool)
  /-- BAR2_ACCESS (R860). A host BAR2 access is redirected through the aperture to a global address. -/
  | bar2Access (off : Nat) (len : Nat) (data : Option (List Byte)) (ep : Bool)
  /-- HOST_CPL_TIMEOUT (R854). A module read of host memory times out or receives UR or CA, and fails to its master. -/
  | hostCplTimeout (tag : Nat) (refused : Bool)
  /-- DOORBELL (R867). A doorbell or WR_TAIL write advances a work ring's tail, or is refused. -/
  | doorbell (ring : Nat) (tail : Nat)
  /-- WR_ENABLE (R874). Writing WR_CFG.ENABLE 0 then 1 clears HALTED and restarts a ring. -/
  | wrEnable (ring : Nat) (on : Bool)
  /-- WR_NOP (R872). A work-ring NOP entry completes at once. -/
  | wrNop (ring : Nat)
  /-- WR_LOAD_STEP (R872). A work-ring LOAD_STEP entry loads and starts a step program's stages. -/
  | wrLoadStep (ring : Nat)
  /-- WR_WRITE (R872). A work-ring WRITE entry writes 8 bytes at a global address. -/
  | wrWrite (ring : Nat)
  /-- WR_WAIT (R872). A work-ring WAIT entry polls a word until it reaches a value. -/
  | wrWait (ring : Nat)
  /-- WR_ADD (R872). A work-ring ADD entry performs an atomic add at a global address. -/
  | wrAdd (ring : Nat)
  /-- WR_COMPLETION (R873). A ring entry completes, writes its completion record, advances WR_HEAD, signals and may halt the ring. -/
  | wrCompletion (ring : Nat)
  /-- HI_VMAP_DATA (R876). A write to HI_VMAP_DATA stores a vector-map entry and advances the index. -/
  | hiVmapData (entry : Nat)
  /-- GET_STATUS (R880). A mailbox GET_STATUS command returns boot, power-state, throttle and heartbeat status. -/
  | getStatus
  /-- READ_SENSORS (R880). A mailbox READ_SENSORS command returns temperature, voltage, current and power. -/
  | readSensors
  /-- READ_LIFE_LOG (R880). A mailbox READ_LIFE_LOG command returns the summary and journal, optionally signed. -/
  | readLifeLog
  /-- READ_DUMP_SUMMARY (R880). A mailbox command returns a crash-dump summary slot. -/
  | readDumpSummary
  /-- READ_DUMP (R880). A mailbox command returns a crash dump by sequence number. -/
  | readDump
  /-- WRITE_IMAGE (R837). A mailbox command writes a firmware image into the idle slot and verifies it. -/
  | writeImage
  /-- WRITE_CONFIG (R832). A mailbox command writes a verified newer configuration block. -/
  | writeConfig
  /-- SIGN_ROUND (R843). A mailbox command makes a signed round statement with page digests. -/
  | signRound
  /-- RESET_LOCKKEEPER (R880). A mailbox command resets the Lockkeeper domain and completes after it runs again. -/
  | resetLockkeeper
  /-- MAILBOX_LONG_DONE (R881). A long mailbox command ends with its response and EV_LK_MB_DONE. -/
  | mailboxLongDone
  /-- SMBUS_REQUEST (R883). An SMBus MCTP request is answered by the sideband target within 1 ms. -/
  | smbusRequest (op : Nat) (tag : Nat)
  /-- INT_TEST (R888). Writing PAGE_CTRL.INT_TEST sets the page's TEST interrupt status bit. -/
  | intTest (page : Nat)
  /-- POWER_FAIL (R906). The input lies outside 46 V to 60 V for over 100 us and the module stops at once. -/
  | powerFail
  /-- OVERCURRENT_TRIP (R907). Input current above 110 A for 1 ms opens the supply path. -/
  | overcurrentTrip
  /-- POWER_INTERVAL (R908). Each 1 ms the Lockkeeper measures input power and sets the throttle share for cap, thermal and supply limits. -/
  | powerInterval (watts : Nat) (vin : Nat) (deci : Nat) (capCall : Nat) (heatCall : Nat) (supplyCall : Nat)
  /-- PW_CAP_WRITE (R910). A write to PW_CAP.WATTS sets the cap, clamped, for the next interval. -/
  | pwCapWrite (watts : Nat)
  /-- THERMAL_SAMPLE (R914). Each 1 ms the module senses die, inlet and outlet temperatures. -/
  | thermalSample (die : Nat) (inlet : Nat) (outlet : Nat)
  /-- PERST_N_DEASSERTION (R855). PERST_N is deasserted and the endpoint answers configuration requests with Request Retry Status until the Lockkeeper has loaded its settings. -/
  | perstNDeassertion
  /-- CONFIGURATION_REQUEST (R855). A PCI Express configuration request from the host is answered, with Request Retry Status while the endpoint's settings are not yet loaded. -/
  | configurationRequest (request : ConfigAccess)
  /-- HOST_COMPLETION (R864). A completion from the host arrives for a read the module issued to host memory, delivering its data, poisoned when EP is set. -/
  | hostCompletion (tag : Nat) (data : List Byte) (ep : Bool)
  /-- MSIX_TABLE_WRITE (R877). A host write to the MSI-X table or pending-bit array at BAR4 masks or unmasks a vector, sending a pending message when unmasked. -/
  | msixTableWrite (off : Nat) (data : List Byte)
  /-- SPARE_W8_LOCK (R674). The receiver of a failed lane locks W8 and deskews it, then sends SWAP_DONE and a NAK naming the last good flit. -/
  | spareW8Lock (port : Nat)
  /-- HD_WAIT_POLL (R388). A handpump descriptor waiting on HD_WAIT re-reads its word at least every 64 cycles and starts once it reaches HD_WAIT_VALUE. -/
  | hdWaitPoll (handpump : Nat)
deriving DecidableEq, Repr

end Sys2Proof
end

