-- ==== Sys2Proof/Decode.lean ====
section
/-! DEFINITION. Commands as words. No row of the opcode table gives its command bits, so no word spells a command. -/

namespace Sys2Proof

/-- The command that a word spells by the table's bits: none, since the table gives no bits. -/
def decodeTableWord (_nbits _w : Nat) : Option Instr := none

end Sys2Proof
end

