-- ==== Sys2Proof/Machine/Float.lean ====
section
/-! DEFINITION. Exact values and F32 arithmetic (Number Formats and Scales). A finite value is a sign, a magnitude and a
power of two; zero has no sign (R70). Results are formed exactly and rounded once (R88, R92, R927). -/

namespace Sys2Proof.Machine

/-- NaN, an infinity by sign, or (-1)^neg * m * 2^e. -/
inductive Val where
  | nan
  | inf (neg : Bool)
  | fin (neg : Bool) (m : Nat) (e : Int)
deriving DecidableEq, Repr

def Val.zero : Val := .fin false 0 0
def Val.one : Val := .fin false 1 0
/-- A whole number. -/
def Val.ofNat (n : Nat) : Val := .fin false n 0

def Val.isNan : Val → Bool
  | .nan => true
  | _ => false
def Val.isInf : Val → Bool
  | .inf _ => true
  | _ => false
def Val.isFin : Val → Bool
  | .fin _ _ _ => true
  | _ => false
def Val.isZero : Val → Bool
  | .fin _ m _ => m == 0
  | _ => false

/-- The number of bits of `n`; 0 for 0. -/
def bitLen (n : Nat) : Nat := if n = 0 then 0 else Nat.log2 n + 1

/-- floor(log2) of a nonzero magnitude m * 2^e. -/
def floorLog2 (m : Nat) (e : Int) : Int := (Nat.log2 m : Int) + e

/-- m * 2^k for k of either sign where nothing is lost to the right of 2^(-drop). -/
def shiftLeft (m : Nat) (k : Int) : Nat := if 0 ≤ k then m * 2 ^ k.toNat else m / 2 ^ (-k).toNat

/-- Divides by 2^k to nearest, ties to even. -/
def shiftRne (m k : Nat) : Nat :=
  let q := m / 2 ^ k
  let r := m % 2 ^ k
  if k = 0 then m
  else if 2 ^ (k - 1) < r ∨ (r = 2 ^ (k - 1) ∧ q % 2 = 1) then q + 1 else q

/-- Divides by 2^k stochastically with a 16-bit random value (R89). -/
def shiftStoch (rnd m k : Nat) : Nat :=
  let q := m / 2 ^ k
  let r := m % 2 ^ k
  if 65536 ≤ r * 65536 / 2 ^ k + rnd then q + 1 else q

/-- How a magnitude is rounded: to nearest even, or stochastically with a random value (R87). -/
inductive Rounding where
  | rne
  | stoch (rnd : Nat)
deriving DecidableEq, Repr

def shiftRound (r : Rounding) (m k : Nat) : Nat :=
  match r with
  | .rne => shiftRne m k
  | .stoch rnd => shiftStoch rnd m k

/-- Rounds a magnitude to `p` significant bits with an unbounded exponent (R927). -/
def roundBits (r : Rounding) (p : Nat) (m : Nat) (e : Int) : Nat × Int :=
  let l := bitLen m
  if l ≤ p then (m, e) else (shiftRound r m (l - p), e + ((l - p : Nat) : Int))

/-- Rounds to `p` bits, then flushes below 2^-126 to +0 and overflows beyond exponent 127 to an infinity (R927). -/
def roundTo (r : Rounding) (p : Nat) : Val → Val
  | .fin neg m e =>
    if m = 0 then .zero
    else
      let (m, e) := roundBits r p m e
      let l := floorLog2 m e
      if l < -126 then .zero else if 127 < l then .inf neg else .fin neg m e
  | v => v

/-- The exponent and fraction bits of a magnitude that has `f` fraction bits and lies in the normal range of F32. -/
def expFrac (f : Nat) (m : Nat) (e : Int) : Nat :=
  let l := floorLog2 m e
  let frac := shiftLeft m (e - l + f)
  (l + 126).toNat * 2 ^ f + frac

/-- The F32 bit pattern of a value, rounded to nearest even; NaN is canonical (R85, R88, R92, R93). -/
def f32Of (v : Val) : Nat :=
  match roundTo .rne 24 v with
  | .nan => 0x7FC00000
  | .inf neg => 0x7F800000 + natOf neg * 2 ^ 31
  | .fin neg m e => if m = 0 then 0 else expFrac 23 m e + natOf neg * 2 ^ 31

/-- The value of an F32 bit pattern; subnormals read as zero (R63, R67, R69, R92). -/
def f32Val (b : Nat) : Val :=
  let s := bitOf b 31
  let ex := bitsOf b 23 8
  let fr := bitsOf b 0 23
  if ex = 255 then (if fr = 0 then .inf s else .nan)
  else if ex = 0 then .zero
  else .fin s (2 ^ 23 + fr) ((ex : Int) - 150)

/-- An F32 pattern with a zero exponent and a nonzero fraction. -/
def f32Subnormal (b : Nat) : Bool := bitsOf b 23 8 == 0 && bitsOf b 0 23 != 0

/-- The value rounded to F32. -/
def f32Round (v : Val) : Val := roundTo .rne 24 v

/-! ### Exact operations -/

def Val.neg : Val → Val
  | .nan => .nan
  | .inf n => .inf !n
  | .fin n m e => if m = 0 then .zero else .fin (!n) m e

def Val.abs : Val → Val
  | .nan => .nan
  | .inf _ => .inf false
  | .fin _ m e => .fin false m e

/-- The signed integer that a finite value is a multiple of 2^e of. -/
def scaledInt (neg : Bool) (m : Nat) (e base : Int) : Int :=
  let n : Int := (m * 2 ^ (e - base).toNat : Nat)
  if neg then -n else n

def Val.ofInt (n e : Int) : Val := .fin (decide (n < 0)) n.natAbs e

/-- Exact sum (R94). -/
def Val.add : Val → Val → Val
  | .nan, _ => .nan
  | _, .nan => .nan
  | .inf a, .inf b => if a = b then .inf a else .nan
  | .inf a, _ => .inf a
  | _, .inf b => .inf b
  | .fin a m e, .fin b n f =>
    if m = 0 then .fin b n f else if n = 0 then .fin a m e
    else
      let base := min e f
      Val.ofInt (scaledInt a m e base + scaledInt b n f base) base

def Val.sub (a b : Val) : Val := a.add b.neg

/-- Exact product (R94). -/
def Val.mul : Val → Val → Val
  | .nan, _ => .nan
  | _, .nan => .nan
  | .inf a, .inf b => .inf (a != b)
  | .inf a, .fin b n _ => if n = 0 then .nan else .inf (a != b)
  | .fin a m _, .inf b => if m = 0 then .nan else .inf (a != b)
  | .fin a m e, .fin b n f => .fin (a != b) (m * n) (e + f)

/-- Quotient with a sticky last bit: rounding it to 40 bits or fewer rounds the exact quotient (R94). -/
def Val.div : Val → Val → Val
  | .nan, _ => .nan
  | _, .nan => .nan
  | .inf _, .inf _ => .nan
  | .inf a, .fin b _ _ => .inf (a != b)
  | .fin _ _ _, .inf _ => .zero
  | .fin a m e, .fin b n f =>
    if n = 0 then (if m = 0 then .nan else .inf a)
    else if m = 0 then .zero
    else
      let k := bitLen n + 64
      let q := m * 2 ^ k / n
      let st := if m * 2 ^ k % n = 0 then 0 else 1
      .fin (a != b) (2 * q + st) (e - f - k - 1)

/-- Whole square root by bisection on the bits, highest first. -/
def isqrtBits (n : Nat) : Nat → Nat → Nat
  | 0, r => r
  | i + 1, r => let t := r + 2 ^ i; isqrtBits n i (if t * t ≤ n then t else r)

def isqrt (n : Nat) : Nat := isqrtBits n (bitLen n / 2 + 1) 0

/-- Square root with a sticky last bit (R94). -/
def Val.sqrt : Val → Val
  | .nan => .nan
  | .inf neg => if neg then .nan else .inf false
  | .fin neg m e =>
    if m = 0 then .zero
    else if neg then .nan
    else
      let odd : Nat := if e % 2 = 0 then 0 else 1
      let n := m * 2 ^ (128 + odd)
      let r := isqrt n
      let st := if r * r = n then 0 else 1
      .fin false (2 * r + st) ((e - odd) / 2 - 64 - 1)

/-! ### Comparison (R95 to R99) -/

/-- -1, 0 or 1 as the first value is less, equal or greater; none with a NaN. -/
def Val.cmp : Val → Val → Option Int
  | .nan, _ => none
  | _, .nan => none
  | .inf a, .inf b => if a = b then some 0 else if a then some (-1) else some 1
  | .inf a, _ => some (if a then -1 else 1)
  | _, .inf b => some (if b then 1 else -1)
  | .fin a m e, .fin b n f =>
    let base := min e f
    let x := scaledInt a m e base
    let y := scaledInt b n f base
    some (if x < y then -1 else if x = y then 0 else 1)

def Val.lt (a b : Val) : Bool := a.cmp b == some (-1)
def Val.le (a b : Val) : Bool := a.cmp b == some (-1) || a.cmp b == some 0
def Val.eq (a b : Val) : Bool := a.cmp b == some 0

/-- Maximum and minimum: NaN when either is (R98). -/
def Val.max (a b : Val) : Val :=
  if a.isNan || b.isNan then .nan else if a.lt b then b else a
def Val.min (a b : Val) : Val :=
  if a.isNan || b.isNan then .nan else if b.lt a then b else a

/-! ### F32 operations on bit patterns -/

def f32Add (a b : Nat) : Nat := f32Of ((f32Val a).add (f32Val b))
def f32Sub (a b : Nat) : Nat := f32Of ((f32Val a).sub (f32Val b))
def f32Mul (a b : Nat) : Nat := f32Of ((f32Val a).mul (f32Val b))
def f32Div (a b : Nat) : Nat := f32Of ((f32Val a).div (f32Val b))
def f32Sqrt (a : Nat) : Nat := f32Of (f32Val a).sqrt
def f32Neg (a : Nat) : Nat := f32Of (f32Val a).neg
def f32Abs (a : Nat) : Nat := f32Of (f32Val a).abs
def f32Max (a b : Nat) : Nat := f32Of ((f32Val a).max (f32Val b))
def f32Min (a b : Nat) : Nat := f32Of ((f32Val a).min (f32Val b))
/-- a * b + c rounded once. -/
def f32Fma (a b c : Nat) : Nat := f32Of (((f32Val a).mul (f32Val b)).add (f32Val c))
def f32One : Nat := 0x3F800000

/-- NaN or an infinity. -/
def f32NonFinite (b : Nat) : Bool := bitsOf b 23 8 == 255
/-- The magnitude of an F32 pattern, which orders finite magnitudes as numbers. -/
def f32Mag (b : Nat) : Nat := b % 2 ^ 31
/-- Positive, finite and normal (R73, R110). -/
def f32PosNormal (b : Nat) : Bool := !bitOf b 31 && bitsOf b 23 8 != 0 && bitsOf b 23 8 != 255

end Sys2Proof.Machine
end

