-- ==== Sys2Proof/Machine/Flags.lean ====
section
/-! DEFINITION. The counts an encoder keeps for a tensor's statistics record (R111), and how they add up. -/

namespace Sys2Proof.Machine

/-- The fields of a statistics record that one conversion adds to (R111). -/
structure Stats where
  /-- Adds to `CRUSHED` and to `STEP_CRUSHED` (R83). -/
  crushed : Nat := 0
  clipped : Nat := 0
  nonfinite : Nat := 0
  flushed : Nat := 0
  overflow : Nat := 0
  zeroBlocks : Nat := 0
  nanBlocks : Nat := 0
  /-- Largest finite input magnitude, as an F32 pattern. -/
  amax : Nat := 0
  blocks : Nat := 0
  hist : List (Nat × Nat) := []
deriving DecidableEq, Repr

/-- Sums of counts and the larger `STEP_AMAX`: no order matters (R105). -/
def Stats.add (a b : Stats) : Stats where
  crushed := a.crushed + b.crushed
  clipped := a.clipped + b.clipped
  nonfinite := a.nonfinite + b.nonfinite
  flushed := a.flushed + b.flushed
  overflow := a.overflow + b.overflow
  zeroBlocks := a.zeroBlocks + b.zeroBlocks
  nanBlocks := a.nanBlocks + b.nanBlocks
  amax := max a.amax b.amax
  blocks := a.blocks + b.blocks
  hist := b.hist ++ a.hist

/-- How many blocks fell in bin `i`. -/
def Stats.bin (a : Stats) (i : Nat) : Nat :=
  (a.hist.filter fun e => e.1 == i).foldl (fun n e => n + e.2) 0

/-- Adds up a list of counts. -/
def sumStats (l : List Stats) : Stats := l.foldl Stats.add {}

end Sys2Proof.Machine
end

