-- ==== Sys2Proof/Machine/Operands.lean ====
section
/-! DEFINITION. Element formats, block scales, format words, packing, decoding and encoding (Number Formats and Scales). -/

namespace Sys2Proof.Machine

/-! ### Formats (R63, R64) -/

/-- The element formats, by code 0x0 to 0x5. -/
inductive Fmt where
  | f32 | k16 | k8 | g8 | k6 | k4
deriving DecidableEq, Repr

def Fmt.ofCode : Nat → Option Fmt
  | 0 => some .f32
  | 1 => some .k16
  | 2 => some .k8
  | 3 => some .g8
  | 4 => some .k6
  | 5 => some .k4
  | _ => none

/-- Width, exponent bits, fraction bits, bias and rank (R63). -/
def Fmt.bits : Fmt → Nat
  | .f32 => 32 | .k16 => 16 | .k8 => 8 | .g8 => 8 | .k6 => 6 | .k4 => 4
def Fmt.ebits : Fmt → Nat
  | .f32 => 8 | .k16 => 8 | .k8 => 4 | .g8 => 5 | .k6 => 3 | .k4 => 2
def Fmt.fbits : Fmt → Nat
  | .f32 => 23 | .k16 => 7 | .k8 => 3 | .g8 => 2 | .k6 => 2 | .k4 => 1
def Fmt.bias : Fmt → Int
  | .f32 => 127 | .k16 => 127 | .k8 => 7 | .g8 => 15 | .k6 => 3 | .k4 => 1
def Fmt.rank : Fmt → Nat
  | .f32 => 5 | .k16 => 4 | .k8 => 3 | .g8 => 3 | .k6 => 2 | .k4 => 1
/-- The exponent of the largest finite value. -/
def Fmt.emax : Fmt → Int
  | .f32 => 127 | .k16 => 127 | .k8 => 8 | .g8 => 15 | .k6 => 4 | .k4 => 2
/-- The largest finite value as m * 2^e. -/
def Fmt.maxM : Fmt → Nat
  | .f32 => 2 ^ 24 - 1 | .k16 => 255 | .k8 => 15 | .g8 => 7 | .k6 => 7 | .k4 => 3
def Fmt.maxE : Fmt → Int
  | .f32 => 104 | .k16 => 120 | .k8 => 5 | .g8 => 13 | .k6 => 2 | .k4 => 1
/-- Block-scaled formats (R74). -/
def Fmt.blockScaled : Fmt → Bool
  | .f32 => false
  | .k16 => false
  | _ => true
/-- The format has infinity codes (R69). -/
def Fmt.hasInf : Fmt → Bool
  | .f32 => true | .k16 => true | .g8 => true | _ => false

/-- The value of an element code, scales apart (R65 to R70). -/
def elementVal (f : Fmt) (code : Nat) : Val :=
  let fr := bitsOf code 0 f.fbits
  let ex := bitsOf code f.fbits f.ebits
  let s := bitOf code (f.bits - 1)
  if f.hasInf && ex == 2 ^ f.ebits - 1 then (if fr = 0 then .inf s else .nan)
  else if ex = 0 then
    if f.blockScaled && fr != 0 then .fin s fr (1 - f.bias - f.fbits) else .zero
  else .fin s (2 ^ f.fbits + fr) ((ex : Int) - f.bias - f.fbits)

/-- The code of an infinity (R69). -/
def infCode (f : Fmt) (neg : Bool) : Nat := (2 ^ f.ebits - 1) * 2 ^ f.fbits + natOf neg * 2 ^ (f.bits - 1)

/-- The canonical NaN of K16 and F32 (R85). -/
def nanCode : Fmt → Nat
  | .k16 => 0x7FC0
  | _ => 0x7FC00000

/-! ### Packing (R72) -/

/-- Codes packed from bit 0 upward, `w` bits each. -/
def packNat (w : Nat) : List Nat → Nat
  | [] => 0
  | c :: cs => c % 2 ^ w + packNat w cs * 2 ^ w

/-- Bytes that `n` elements take; K6 fills whole 24-bit words. -/
def Fmt.bytesFor (f : Fmt) (n : Nat) : Nat := if f = .k6 then (n + 3) / 4 * 3 else (n * f.bits + 7) / 8

def packCodes (f : Fmt) (cs : List Nat) : List Byte := leBytes (f.bytesFor cs.length) (packNat f.bits cs)

/-- `n` codes of a byte string. -/
def unpackNat (w : Nat) : Nat → Nat → List Nat
  | 0, _ => []
  | n + 1, v => v % 2 ^ w :: unpackNat w n (v / 2 ^ w)

def unpackCodes (f : Fmt) (n : Nat) (bs : List Byte) : List Nat := unpackNat f.bits n (leNat bs)

/-! ### Format words (R100, R101) -/

structure FormatWord where
  fmt : Nat
  block : Nat
  round : Nat
  clip : Bool
  clipGap : Nat
  coarseOne : Bool
  stats : Bool
deriving DecidableEq, Repr

def FormatWord.ofNat (w : Nat) : FormatWord where
  fmt := bitsOf w 0 4
  block := if bitOf w 4 then 32 else 16
  round := bitsOf w 5 2
  clip := bitOf w 7
  clipGap := bitsOf w 8 4
  coarseOne := bitOf w 12
  stats := bitOf w 13

/-- The format of a word. F32 stands for a reserved code, which R101 refuses; where a check that comes before the format's
own needs a size, it is F32's (assumption log 74). -/
def FormatWord.format (w : FormatWord) : Fmt := (Fmt.ofCode w.fmt).getD .f32

/-- The first code of R101 that applies; `scale` and `stat` are the addresses the operation uses. -/
def formatCheck (w : FormatWord) (scale stat : Option Nat) : Option Nat :=
  match Fmt.ofCode w.fmt with
  | none => some 0x0101
  | some f =>
    if 2 ≤ w.round ∨ (w.round = 1 ∧ f = .f32) then some 0x0102
    else if w.clip ∧ f.blockScaled ∧ w.clipGap = 0 then some 0x0103
    else if (!w.coarseOne && (scale.getD 0) % 128 != 0) || (w.stats && (stat.getD 0) % 128 != 0) then some 0x0104
    else none

/-- The elements of one block of a row of `n`. -/
def blockCount (n size : Nat) : Nat := (n + size - 1) / size

/-! ### Decoding (R73 to R79) -/

/-- The exact value of an element under its coarse scale and S8 code (R77, R78). -/
def scaledVal (f : Fmt) (c : Val) (s8 code : Nat) : Val :=
  if !f.blockScaled then c.mul (elementVal f code)
  else if s8 = 0 then .zero
  else if s8 = 0xFF then .nan
  else (c.mul (.fin false 1 ((s8 : Int) - 127))).mul (elementVal f code)

/-- Decodes an element to F32 (R79). -/
def decodeElement (f : Fmt) (c : Nat) (s8 code : Nat) : Nat := f32Of (scaledVal f (f32Val c) s8 code)

/-- Decodes a row: element i has S8 code i / block. -/
def decodeRow (w : FormatWord) (c : Nat) (s8s : List Nat) (codes : List Nat) : List Nat :=
  codes.zipIdx.map fun e => decodeElement w.format c (s8s.getD (e.2 / w.block) 0) e.1

/-! ### Encoding (R80 to R91) -/

/-- The follow-max exponent of a nonzero magnitude m * 2^e (R80). -/
def followMax (f : Fmt) (m : Nat) (e : Int) : Int :=
  let s := floorLog2 m e - f.emax
  let above := (Val.fin false f.maxM (f.maxE + s)).lt (.fin false m e)
  max (-126) (if above then s + 1 else s)

/-- The rounded code of a magnitude m * 2^e within the format's finite range, without its sign (R87 to R89). -/
def encodeMag (f : Fmt) (r : Rounding) (m : Nat) (e : Int) : Nat :=
  if m = 0 then 0
  else
    let k := max (floorLog2 m e) (1 - f.bias)
    let q := k - f.fbits
    let n := if q ≤ e then m * 2 ^ (e - q).toNat else shiftRound r m (q - e).toNat
    n + (k - (1 - f.bias)).toNat * 2 ^ f.fbits

/-- The sign bit of a code. -/
def signCode (f : Fmt) (neg : Bool) (mag : Nat) : Nat := if mag = 0 then 0 else mag + natOf neg * 2 ^ (f.bits - 1)

/-- The rounding of element `i`: from the format word and the element's random value (R87, R90). -/
def roundingOf (w : FormatWord) (rnd : Nat → Nat) (i : Nat) : Rounding :=
  if w.round = 1 then .stoch (rnd i) else .rne

/-- The magnitude of a finite value as an F32 pattern. -/
def magOf (v : Val) : Nat := f32Of v.abs

/-- The largest and second-largest of the finite magnitudes of a block, as values (R81). -/
def topTwo : List Val → Val × Val
  | [] => (.zero, .zero)
  | v :: vs =>
    let (a, b) := topTwo vs
    let v := v.abs
    if !v.isFin then (a, b) else if a.lt v then (v, a) else if b.lt v then (a, v) else (a, b)

/-- The smallest finite nonzero magnitude of a block; zero where there is none. -/
def leastNonzero : List Val → Val
  | [] => .zero
  | v :: vs =>
    let a := leastNonzero vs
    let v := v.abs
    if !v.isFin || v.isZero then a else if a.isZero || v.lt a then v else a

/-- The exponent of a nonzero finite value; 0 for zero. -/
def Val.log2 : Val → Int
  | .fin _ m e => if m = 0 then 0 else floorLog2 m e
  | _ => 0

/-- The block exponent under the format word's rule (R80, R81). -/
def blockExponent (w : FormatWord) (us : List Val) : Int :=
  let (m, m2) := topTwo us
  let fm := fun v => match v with
    | Val.fin _ m e => followMax w.format m e
    | _ => 0
  let s1 := fm m
  if w.clip && !m2.isZero && decide ((w.clipGap : Int) < s1 - fm m2) then fm m2 else s1

/-- What one input of a block becomes: its code and its counts. -/
def encodeElement (w : FormatWord) (s : Int) (r : Rounding) (x u : Val) : Nat × Stats :=
  let f := w.format
  match u with
  | .inf neg => (infCode f neg, if x.isInf then { nonfinite := 1 } else {})
  | .fin neg m e =>
    if (Val.fin false f.maxM f.maxE).lt (.fin false m (e - s)) then
      (signCode f neg (encodeMag f .rne f.maxM f.maxE), { clipped := 1 })
    else
      let c := signCode f neg (encodeMag f r m (e - s))
      (c, if c = 0 ∧ x.isZero = false then { crushed := 1 } else {})
  | .nan => (0, {})

/-- The counts of R92's flush and R928's overflow, and `STEP_AMAX`, of one input; with its flushed and scaled values. -/
def scaleInput (c : Val) (b : Nat) : Val × Val × Stats :=
  let x := f32Val b
  let u := f32Round (x.div c)
  let fl : Stats := { flushed := natOf (f32Subnormal b), amax := if x.isFin then magOf x else 0 }
  (x, u, if x.isFin && u.isInf then { fl with overflow := 1 } else fl)

/-- Encodes one block: its S8 code, its element codes, its counts. `base` is the number of its first element (R90). -/
def encodeBlock (w : FormatWord) (c : Nat) (rnd : Nat → Nat) (base : Nat) (xs : List Nat) : Nat × List Nat × Stats :=
  let f := w.format
  let ins := xs.map (scaleInput (f32Val c))
  let st := sumStats (ins.map fun i => i.2.2)
  let us := ins.map fun i => i.2.1
  let zeros := xs.map fun _ => 0
  if us.any Val.isNan || (f != .g8 && us.any Val.isInf) then
    (0xFF, zeros, st.add { nanBlocks := 1, nonfinite := (ins.filter fun i => !i.1.isFin).length })
  else
    let m := (topTwo us).1
    if m.isZero && !us.any Val.isInf then
      (0, zeros, st.add { zeroBlocks := 1, crushed := (ins.filter fun i => i.1.isFin && !i.1.isZero).length })
    else
      let s := if m.isZero then 0 else blockExponent w us
      let es := ins.zipIdx.map fun i => encodeElement w s (roundingOf w rnd (base + i.2)) i.1.1 i.1.2.1
      let h := if m.isZero then [] else [((min (m.log2 - (leastNonzero us).log2) 15).toNat, 1)]
      ((s + 127).toNat, es.map Prod.fst, (st.add (sumStats (es.map Prod.snd))).add { blocks := 1, hist := h })

/-- Encodes one element of a K16 or F32 tensor (R86, R91, R927). -/
def encodeWide (w : FormatWord) (c : Nat) (r : Rounding) (b : Nat) : Nat × Stats :=
  let f := w.format
  let x := f32Val b
  let fl : Stats := { flushed := natOf (f32Subnormal b), amax := if x.isFin then magOf x else 0 }
  match x with
  | .nan => (nanCode f, { fl with nonfinite := 1 })
  | .inf neg => (infCode f neg, { fl with nonfinite := 1 })
  | _ =>
    match f32Round (x.div (f32Val c)) with
    | .inf neg => (infCode f neg, { fl with overflow := 1 })
    | .nan => (nanCode f, fl)
    | u =>
      match roundTo r (f.fbits + 1) u with
      | .inf neg => (infCode f neg, { fl with overflow := 1 })
      | .nan => (nanCode f, fl)
      | .fin neg m e =>
        if m = 0 then (0, if x.isZero then fl else { fl with crushed := 1 })
        else (expFrac f.fbits m e + natOf neg * 2 ^ (f.bits - 1), fl)

/-- Cuts a list into pieces of `k`. -/
def piecesOfList {α : Type} (k : Nat) : Nat → List α → List (List α)
  | 0, _ => []
  | _ + 1, [] => []
  | fuel + 1, l => l.take k :: piecesOfList k fuel (l.drop k)

/-- Encodes one row of the innermost dimension: S8 codes (none for K16 and F32), element codes, counts (R76). `base` is
the number of the row's first element in the conversion (R90). -/
def encodeRow (w : FormatWord) (c : Nat) (rnd : Nat → Nat) (base : Nat) (xs : List Nat) : List Nat × List Nat × Stats :=
  if w.format.blockScaled then
    let bs := (piecesOfList w.block (xs.length + 1) xs).zipIdx.map fun b =>
      encodeBlock w c rnd (base + b.2 * w.block) b.1
    (bs.map fun b => b.1, (bs.map fun b => b.2.1).flatten, sumStats (bs.map fun b => b.2.2))
  else
    let es := xs.zipIdx.map fun x => encodeWide w c (roundingOf w rnd (base + x.2)) x.1
    ([], es.map Prod.fst, sumStats (es.map Prod.snd))

end Sys2Proof.Machine
end

