-- ==== Sys2Proof/Machine/Coder.lean ====
section
/-! DEFINITION. The exponent-plane coder of packed tensors (Activation Wells). -/

namespace Sys2Proof.Machine

/-- The low `w` bits of a value, bit 0 first. -/
def bitsLe : Nat → Nat → List Bool
  | 0, _ => []
  | w + 1, v => (v % 2 == 1) :: bitsLe w (v / 2)

/-- The value of bits, bit 0 first. -/
def ofBitsLe : List Bool → Nat
  | [] => 0
  | b :: bs => natOf b + 2 * ofBitsLe bs

/-- A block of a packed tensor: its S8 code, its element codes, whether a source unit of it is poisoned. -/
structure PackBlock where
  s8 : Nat
  codes : List Nat
  poison : Bool := false
deriving DecidableEq, Repr

/-- Exponent and fraction widths of a packed format (R362): K8 or K6. -/
def packEw (f : Fmt) : Nat := if f = .k8 then 4 else 3
def packFw (f : Fmt) : Nat := if f = .k8 then 3 else 2
def codeExp (f : Fmt) (c : Nat) : Nat := bitsOf c (packFw f) (packEw f)

/-- The parameter after a Golomb-Rice code with quotient q. -/
def nextK (q k kmax : Nat) : Nat := if q = 0 ∧ 0 < k then k - 1 else if 2 ≤ q ∧ k < kmax then k + 1 else k

/-- A Golomb-Rice code, and the parameter after it (R362). -/
def golomb (x k kmax w : Nat) : List Bool × Nat :=
  let q := x / 2 ^ k
  ((if 8 ≤ q then List.replicate 8 true ++ bitsLe w x else List.replicate q true ++ false :: bitsLe k x), nextK q k kmax)

/-- The exponent plane of a block from a run of `run` zero codes on; `t` is the block's top exponent. -/
def exponentPlane (f : Fmt) (t : Nat) : List Nat → Nat → Nat → Nat → List Bool × Nat × Nat
  | [], run, ke, kr => if run = 0 then ([], ke, kr) else
      let (b, kr) := golomb run kr 5 6
      (b, ke, kr)
  | c :: cs, run, ke, kr =>
    if c = 0 then exponentPlane f t cs (run + 1) ke kr
    else
      let (b, kr) := golomb run kr 5 6
      let (d, ke) := golomb (t - codeExp f c) ke 3 (packEw f)
      let (r, ke, kr) := exponentPlane f t cs 0 ke kr
      (b ++ d ++ r, ke, kr)

/-- The mantissa plane: sign and fraction of each nonzero code. -/
def mantissaPlane (f : Fmt) (cs : List Nat) : List Bool :=
  (cs.filter fun c => c != 0).flatMap fun c => bitsLe 1 (c / 2 ^ (f.bits - 1)) ++ bitsLe (packFw f) c

/-- The bits of a chunk's blocks (R362). -/
def codeBlocks (f : Fmt) : List PackBlock → Nat → Nat → List Bool
  | [], _, _ => []
  | b :: bs, ke, kr =>
    if b.s8 = 0 ∨ b.s8 = 0xFF then bitsLe 8 b.s8 ++ codeBlocks f bs ke kr
    else
      let t := (b.codes.filter fun c => c != 0).foldl (fun m c => max m (codeExp f c)) 0
      let (e, ke, kr) := exponentPlane f t b.codes 0 ke kr
      bitsLe 8 b.s8 ++ bitsLe (packEw f) t ++ e ++ mantissaPlane f b.codes ++ codeBlocks f bs ke kr

/-- Bytes filled from bit 0 upward. -/
def packBits : Nat → List Bool → List Byte
  | 0, _ => []
  | _ + 1, [] => []
  | n + 1, bs => BitVec.ofNat 8 (ofBitsLe (bs.take 8)) :: packBits n (bs.drop 8)

def bitsOfBytes (bs : List Byte) : List Bool := bs.flatMap fun b => bitsLe 8 b.toNat

/-- The coded form of a chunk, unpadded. -/
def codeChunk (f : Fmt) (bs : List PackBlock) : List Byte :=
  let b := codeBlocks f bs 1 0
  packBits (b.length + 1) b

/-- The raw form of a chunk, unpadded: codes block by block, then the S8 bytes (R358). -/
def rawChunk (f : Fmt) (bs : List PackBlock) : List Byte :=
  (bs.flatMap fun b => packCodes f b.codes) ++ bs.map fun b => BitVec.ofNat 8 b.s8

/-! ### Decoding (R360, R363) -/

/-- Takes `w` bits; none beyond the span. -/
def takeBits (w : Nat) (bs : List Bool) : Option (Nat × List Bool) :=
  if bs.length < w then none else some (ofBitsLe (bs.take w), bs.drop w)

/-- Reads a Golomb-Rice code. -/
def ungolomb (k kmax w : Nat) (bs : List Bool) : Option (Nat × Nat × List Bool) :=
  let q := ((bs.take 8).takeWhile fun b => b).length
  if q = 8 then (takeBits w (bs.drop 8)).map fun r => (r.1, nextK (r.1 / 2 ^ k) k kmax, r.2)
  else if bs.length ≤ q then none
  else (takeBits k (bs.drop (q + 1))).map fun r => (q * 2 ^ k + r.1, nextK q k kmax, r.2)

/-- Reads the exponent plane of `n` elements: for each its exponent, none for a zero code. -/
def unplane (f : Fmt) (t : Nat) : Nat → Nat → Nat → Nat → List Bool → Option (List (Option Nat) × Nat × Nat × List Bool)
  | 0, _, ke, kr, bs => some ([], ke, kr, bs)
  | _ + 1, 0, ke, kr, bs => some ([], ke, kr, bs)
  | fuel + 1, n, ke, kr, bs =>
    match ungolomb kr 5 6 bs with
    | none => none
    | some (r, kr, bs) =>
      if n < r then none
      else if n = r then some (List.replicate r none, ke, kr, bs)
      else match ungolomb ke 3 (packEw f) bs with
      | none => none
      | some (d, ke, bs) =>
        if t < d then none
        else match unplane f t fuel (n - r - 1) ke kr bs with
        | none => none
        | some (es, ke, kr, bs) => some (List.replicate r none ++ some (t - d) :: es, ke, kr, bs)

/-- Reads the mantissa plane; a nonzero element whose code is zero is inconsistent. -/
def unmantissa (f : Fmt) : List (Option Nat) → List Bool → Option (List Nat × List Bool)
  | [], bs => some ([], bs)
  | none :: es, bs => (unmantissa f es bs).map fun r => (0 :: r.1, r.2)
  | some e :: es, bs =>
    match takeBits 1 bs with
    | none => none
    | some (sg, bs) =>
      match takeBits (packFw f) bs with
      | none => none
      | some (fr, bs) =>
        let c := sg * 2 ^ (f.bits - 1) + e * 2 ^ packFw f + fr
        if c = 0 then none else (unmantissa f es bs).map fun r => (c :: r.1, r.2)

/-- Reads the blocks of a coded chunk, by their element counts; the padding must be zero. -/
def decodeBlocks (f : Fmt) : List Nat → Nat → Nat → List Bool → Option (List PackBlock)
  | [], _, _, bs => if bs.any fun b => b then none else some []
  | n :: ns, ke, kr, bs =>
    match takeBits 8 bs with
    | none => none
    | some (s8, bs) =>
      if s8 = 0 ∨ s8 = 0xFF then
        (decodeBlocks f ns ke kr bs).map fun r => ⟨s8, List.replicate n 0, false⟩ :: r
      else match takeBits (packEw f) bs with
      | none => none
      | some (t, bs) =>
        match unplane f t (n + 1) n ke kr bs with
        | none => none
        | some (es, ke, kr, bs) =>
          match unmantissa f es bs with
          | none => none
          | some (cs, bs) => (decodeBlocks f ns ke kr bs).map fun r => ⟨s8, cs, false⟩ :: r

/-- Splits off the raw codes of blocks of the given element counts. -/
def splitRaw (f : Fmt) : List Nat → List Byte → List (List Nat) × List Byte
  | [], bs => ([], bs)
  | n :: ns, bs =>
    let k := f.bytesFor n
    let (r, rest) := splitRaw f ns (bs.drop k)
    (unpackCodes f n (bs.take k) :: r, rest)

/-- The blocks of a stored chunk (R358 to R363); blocks of S8 0x00 or 0xFF unpack as zero codes. -/
def decodeChunk (f : Fmt) (raw : Bool) (ns : List Nat) (bs : List Byte) : Option (List PackBlock) :=
  if raw then
    let (cs, rest) := splitRaw f ns bs
    if rest.length < ns.length then none
    else some ((cs.zip (rest.map BitVec.toNat)).map fun e =>
      ⟨e.2, if e.2 = 0 ∨ e.2 = 0xFF then e.1.map fun _ => 0 else e.1, false⟩)
  else decodeBlocks f ns 1 0 (bitsOfBytes bs)

end Sys2Proof.Machine
end

