-- ==== Sys2Proof/Config.lean ====
section
/-! DEFINITION. What the spec leaves open and what one part fixes for itself: constants without a body, so that a
statement about a machine that uses them holds for every value of them. -/

namespace Sys2Proof.Config

/-- The n-th value drawn where the spec says a value results and does not say which (assumption log 3). -/
opaque freeNat : Nat → Nat

/-- The n-th byte of the keyring's random source (R825); the spec fixes no generator (log 4). -/
opaque randomByte : Nat → Byte

/-- Private key that the PUF response gives with helper data (R824), before it is brought into range. -/
opaque identityKey : List Byte → Nat

/-- The boot ROM's version, 4 bytes (R839). -/
opaque romVersion : Nat

/-- Reading of X.509 certificates, which the spec takes from its standard (R829): whether one chains to the Jawald root,
the public key (X then Y) that one certifies, and the root certificate itself. -/
opaque chainsToRoot : List Byte → Bool
opaque certKey : List Byte → List Byte
opaque rootCert : List Byte

/-- What the standards that R547 names give for an encoder's stream: the sequence header of AV1 or the VPS, SPS and PPS of
HEVC, with the lowest level whose limits the stream meets; the temporal delimiter; the bytes of one coded frame. They are
functions of the job's control word, width and height (R548); a frame is one of the frames since its key frame, latest
first, each with its samples and its quantiser (log 11). -/
opaque streamHeader (ctrl width height : Nat) : List Byte
opaque temporalDelimiter : List Byte
opaque codedFrame (ctrl width height : Nat) (frames : List (List Nat × Nat)) : List Byte

/-- A doubleword of the endpoint's configuration space that the spec does not give, with what the host wrote there last:
identifiers, and what the PCI Express Base Specification lays down (R851, R852; log 69). -/
opaque configWord : Nat → Nat → Nat

end Sys2Proof.Config
end

