-- ==== Sys2Proof/Machine/Sparse.lean ====
section
/-! DEFINITION. Finite maps from numbers held as lists in one canonical form: keys strictly rising, and no entry equal
to what an unlisted key reads as. Memory, the register pages and the units of the module are held so. -/

namespace Sys2Proof.Machine

/-- The value at key `k`; `d` where `k` is not listed. -/
def look {α : Type} (d : α) : List (Nat × α) → Nat → α
  | [], _ => d
  | (k', v) :: m, k => if k = k' then v else look d m k

/-- The map without key `k`. -/
def dropKey {α : Type} (m : List (Nat × α)) (k : Nat) : List (Nat × α) :=
  m.filter fun e => e.1 != k

/-- The map with `v` at `k`, at its place in the rising order. -/
def insertKey {α : Type} : List (Nat × α) → Nat → α → List (Nat × α)
  | [], k, v => [(k, v)]
  | (k', v') :: m, k, v =>
    if k < k' then (k, v) :: (k', v') :: m
    else if k = k' then (k, v) :: m
    else (k', v') :: insertKey m k v

/-- Writes `v` at `k`, keeping the canonical form: writing what an unlisted key reads as removes the entry. -/
def put {α : Type} [DecidableEq α] (d : α) (m : List (Nat × α)) (k : Nat) (v : α) : List (Nat × α) :=
  if v = d then dropKey m k else insertKey m k v

/-- The keys rise strictly, from above `lo`. -/
def risingFrom {α : Type} : Option Nat → List (Nat × α) → Bool
  | _, [] => true
  | lo, (k, _) :: m => (match lo with | none => true | some l => decide (l < k)) && risingFrom (some k) m

/-- The canonical form. -/
def sparseWf {α : Type} [DecidableEq α] (d : α) (m : List (Nat × α)) : Bool :=
  risingFrom none m && m.all fun e => decide (e.2 ≠ d)

/-- The map without the keys from `lo` up to, not including, `hi`. -/
def dropRange {α : Type} (m : List (Nat × α)) (lo hi : Nat) : List (Nat × α) :=
  m.filter fun e => !(decide (lo ≤ e.1) && decide (e.1 < hi))

end Sys2Proof.Machine
end

