-- ==== Sys2Proof/Machine/Regs.lean ====
section
/-! DEFINITION. The register fields of the spec's tables, one definition each: place, width, access code and the Reset
column. A field with `n` copies repeats every `stride` bytes. -/

namespace Sys2Proof.Machine

/-- Access codes of R10. `cnt` is a 64-bit RO counter that stops at its maximum (R106). -/
inductive Acc where
  | ro | rw | w1c | w1s | wo | rws | cnt
deriving DecidableEq, Repr

/-- What holds off a write of the field: the `ENABLE` bit of its own page, `GEN_CTRL.ENABLE`, or a port that is UP. -/
inductive Guard where
  | always | own | gen | ports
deriving DecidableEq, Repr

/-- A register field: bit place in its page, width, access, reset value, number of copies and their distance in bytes. -/
structure Field where
  bit : Nat
  w : Nat
  acc : Acc
  rst : Nat := 0
  n : Nat := 1
  stride : Nat := 0
  guard : Guard := .always
deriving DecidableEq, Repr

/-- R888. The page-type code; computed by `fieldVal`. -/
def Reg.PAGE_ID_TYPE : Field := { bit := 0x0 * 8 + 0, w := 8, acc := .ro }
/-- R888. The instance; computed by `fieldVal`. -/
def Reg.PAGE_ID_INSTANCE : Field := { bit := 0x0 * 8 + 8, w := 16, acc := .ro }
/-- R888. -/
def Reg.PAGE_VERSION_LAYOUT : Field := { bit := 0x4 * 8 + 0, w := 16, acc := .ro, rst := 1 }
/-- R888, R926. -/
def Reg.PAGE_VERSION_STEPPING : Field := { bit := 0x4 * 8 + 16, w := 16, acc := .ro, rst := 0x0100 }
/-- R888. -/
def Reg.PAGE_STATUS_DEFAULTED : Field := { bit := 0x8 * 8 + 0, w := 1, acc := .w1c }
/-- R888. -/
def Reg.PAGE_CTRL_INT_TEST : Field := { bit := 0xC * 8 + 0, w := 1, acc := .w1s }
/-- R888. -/
def Reg.PAGE_INT_STATUS : Field := { bit := 0x10 * 8 + 0, w := 32, acc := .w1c }
/-- R888. -/
def Reg.PAGE_INT_ENABLE : Field := { bit := 0x14 * 8 + 0, w := 32, acc := .rws }
/-- R888. -/
def Reg.PAGE_RESET_COUNT : Field := { bit := 0x18 * 8 + 0, w := 32, acc := .ro }
/-- R888. -/
def Reg.PAGE_ERR_COUNT : Field := { bit := 0x1C * 8 + 0, w := 32, acc := .ro }
/-- R888. -/
def Reg.PAGE_ERR_LOG : Field := { bit := 0x20 * 8 + 0, w := 64, acc := .ro, n := 4, stride := 8 }
/-- R822. -/
def Reg.PAGE_MARKER_EPOCH : Field := { bit := 0x40 * 8 + 0, w := 32, acc := .ro }
/-- R795. -/
def Reg.PAGE_LOCK_STATE : Field := { bit := 0x44 * 8 + 0, w := 3, acc := .ro }
/-- R795. -/
def Reg.PAGE_LOCK_OWN : Field := { bit := 0x44 * 8 + 3, w := 1, acc := .ro }
/-- R795. -/
def Reg.PAGE_LOCK_DRAIN_EXPIRED : Field := { bit := 0x44 * 8 + 4, w := 1, acc := .ro }
/-- R174. -/
def Reg.HA_STATUS_BANK_VALID : Field := { bit := 0x100 * 8 + 0, w := 2, acc := .ro }
/-- R174. -/
def Reg.HA_STATUS_BUSY : Field := { bit := 0x100 * 8 + 2, w := 1, acc := .ro }
/-- R174. -/
def Reg.HA_STATUS_SPARE_ACTIVE : Field := { bit := 0x100 * 8 + 3, w := 1, acc := .ro }
/-- R174. -/
def Reg.HA_STATUS_SPARE_COL_ACTIVE : Field := { bit := 0x100 * 8 + 4, w := 6, acc := .ro }
/-- R174. -/
def Reg.HA_STATUS_FAULT : Field := { bit := 0x100 * 8 + 10, w := 1, acc := .ro }
/-- R174. -/
def Reg.HA_STATUS_FAULT_COL : Field := { bit := 0x100 * 8 + 11, w := 7, acc := .ro }
/-- R174. -/
def Reg.HA_STATUS_UNCOVERED : Field := { bit := 0x100 * 8 + 18, w := 1, acc := .ro }
/-- R174. -/
def Reg.HA_SPARE_REQ : Field := { bit := 0x104 * 8 + 0, w := 1, acc := .rws }
/-- R174. -/
def Reg.HA_SPARE_COL : Field := { bit := 0x104 * 8 + 1, w := 6, acc := .rws }
/-- R174. -/
def Reg.HA_SPARE_PENDING : Field := { bit := 0x104 * 8 + 7, w := 1, acc := .ro }
/-- R174. -/
def Reg.HA_TEST_START : Field := { bit := 0x108 * 8 + 0, w := 1, acc := .w1s }
/-- R174. -/
def Reg.HA_TEST_DONE : Field := { bit := 0x108 * 8 + 1, w := 1, acc := .ro }
/-- R174. -/
def Reg.HA_TEST_PASS : Field := { bit := 0x108 * 8 + 2, w := 1, acc := .ro }
/-- R215. -/
def Reg.ACC_SET_OWNED : Field := { bit := 0x140 * 8 + 0, w := 1, acc := .ro, n := 2, stride := 4 }
/-- R215. -/
def Reg.ACC_SET_RELEASING : Field := { bit := 0x140 * 8 + 1, w := 1, acc := .ro, n := 2, stride := 4 }
/-- R215. -/
def Reg.ACC_SET_JOIN : Field := { bit := 0x140 * 8 + 2, w := 1, acc := .ro, n := 2, stride := 4 }
/-- R215. -/
def Reg.ACC_SET_PAIRED : Field := { bit := 0x140 * 8 + 3, w := 1, acc := .ro, n := 2, stride := 4 }
/-- R215. -/
def Reg.ACC_SET_JOINS : Field := { bit := 0x140 * 8 + 8, w := 8, acc := .ro, n := 2, stride := 4 }
/-- R215. -/
def Reg.ACC_SET_OWNER_TAG : Field := { bit := 0x140 * 8 + 16, w := 16, acc := .ro, n := 2, stride := 4 }
/-- R215. -/
def Reg.AS_STATUS_INVALID : Field := { bit := 0x148 * 8 + 0, w := 1, acc := .w1c }
/-- R215. -/
def Reg.AS_STATUS_OVERFLOW : Field := { bit := 0x148 * 8 + 1, w := 1, acc := .w1c }
/-- R215. -/
def Reg.AS_STATUS_INVALID_SUM : Field := { bit := 0x148 * 8 + 2, w := 1, acc := .w1c }
/-- R215. -/
def Reg.AS_STATUS_POISON_DRAINED : Field := { bit := 0x148 * 8 + 3, w := 1, acc := .w1c }
/-- R215. -/
def Reg.WIT_CAPTURE : Field := { bit := 0x14C * 8 + 0, w := 26, acc := .ro }
/-- R215. -/
def Reg.WIT_TAG : Field := { bit := 0x150 * 8 + 0, w := 16, acc := .ro }
/-- R215. -/
def Reg.OVF_CAPTURE : Field := { bit := 0x154 * 8 + 0, w := 32, acc := .ro }
/-- R288. -/
def Reg.SCHED_CTRL_START : Field := { bit := 0x180 * 8 + 0, w := 1, acc := .w1s }
/-- R288. -/
def Reg.SCHED_CTRL_STOP : Field := { bit := 0x180 * 8 + 1, w := 1, acc := .w1s }
/-- R288. -/
def Reg.SCHED_STATUS_STATE : Field := { bit := 0x184 * 8 + 0, w := 2, acc := .ro }
/-- R288. -/
def Reg.SCHED_STATUS_FILL_OPEN : Field := { bit := 0x184 * 8 + 2, w := 1, acc := .ro }
/-- R288. -/
def Reg.SCHED_STATUS_FILL_SET : Field := { bit := 0x184 * 8 + 3, w := 1, acc := .ro }
/-- R288. -/
def Reg.SCHED_STATUS_IN_SEG : Field := { bit := 0x184 * 8 + 4, w := 1, acc := .ro }
/-- R288. -/
def Reg.SCHED_STATUS_CREDIT_WAIT : Field := { bit := 0x184 * 8 + 5, w := 1, acc := .ro }
/-- R288. -/
def Reg.SCHED_STATUS_HALT_CODE : Field := { bit := 0x184 * 8 + 16, w := 16, acc := .ro }
/-- R288. -/
def Reg.SCHED_BASE : Field := { bit := 0x188 * 8 + 0, w := 21, acc := .rw }
/-- R288. -/
def Reg.SCHED_PC_MAIN : Field := { bit := 0x18C * 8 + 0, w := 16, acc := .ro }
/-- R288. -/
def Reg.SCHED_PC_SEG : Field := { bit := 0x18C * 8 + 16, w := 16, acc := .ro }
/-- R288. -/
def Reg.SCHED_STEP : Field := { bit := 0x190 * 8 + 0, w := 32, acc := .ro }
/-- R288. -/
def Reg.SCHED_FILL_HEAD : Field := { bit := 0x194 * 8 + 0, w := 12, acc := .ro }
/-- R288. -/
def Reg.SCHED_FILL_TAIL : Field := { bit := 0x198 * 8 + 0, w := 12, acc := .rw }
/-- R288. -/
def Reg.SCHED_COMP_COUNT : Field := { bit := 0x19C * 8 + 0, w := 32, acc := .ro }
/-- R288. -/
def Reg.CH_STATUS_STATE : Field := { bit := 0x200 * 8 + 0, w := 2, acc := .ro, n := 64, stride := 4 }
/-- R288. -/
def Reg.CH_STATUS_DIR : Field := { bit := 0x200 * 8 + 2, w := 1, acc := .ro, n := 64, stride := 4 }
/-- R288. -/
def Reg.CH_STATUS_COUNT : Field := { bit := 0x200 * 8 + 3, w := 9, acc := .ro, n := 64, stride := 4 }
/-- R288. -/
def Reg.CH_STATUS_UNGRANTED : Field := { bit := 0x200 * 8 + 12, w := 9, acc := .ro, n := 64, stride := 4 }
/-- R288. -/
def Reg.CH_STATUS_MISMATCH : Field := { bit := 0x200 * 8 + 21, w := 1, acc := .ro, n := 64, stride := 4 }
/-- R341. -/
def Reg.GEN_WIN_LO : Field := { bit := 0x300 * 8 + 0, w := 32, acc := .rw, n := 8, stride := 16 }
/-- R341. -/
def Reg.GEN_WIN_HI : Field := { bit := 0x304 * 8 + 0, w := 16, acc := .rw, n := 8, stride := 16 }
/-- R341. -/
def Reg.GEN_WIN_ENABLE : Field := { bit := 0x304 * 8 + 31, w := 1, acc := .rw, n := 8, stride := 16 }
/-- R341. -/
def Reg.GEN_WIN_LEN : Field := { bit := 0x308 * 8 + 0, w := 32, acc := .rw, n := 8, stride := 16 }
/-- R341. -/
def Reg.GEN_WIN_STRIDE : Field := { bit := 0x30C * 8 + 0, w := 32, acc := .rw, n := 8, stride := 16 }
/-- R341. -/
def Reg.GEN_TSTATUS_MB_WAIT : Field := { bit := 0x380 * 8 + 0, w := 1, acc := .ro }
/-- R341. -/
def Reg.GEN_TSTATUS_UPDATE_WAIT : Field := { bit := 0x380 * 8 + 1, w := 1, acc := .ro }
/-- R341. -/
def Reg.GEN_TSTATUS_STATQ : Field := { bit := 0x380 * 8 + 2, w := 5, acc := .ro }
/-- R341. -/
def Reg.GEN_TSTEP : Field := { bit := 0x384 * 8 + 0, w := 32, acc := .ro }
/-- R341. -/
def Reg.GEN_MBMAP : Field := { bit := 0x3C0 * 8 + 0, w := 32, acc := .ro, rst := 0xFFFFFFFF, n := 16, stride := 4 }
/-- R649. -/
def Reg.WL_ERR_UNIT : Field := { bit := 0x400 * 8 + 6, w := 15, acc := .ro }
/-- R649. -/
def Reg.WL_ERR_VALID : Field := { bit := 0x400 * 8 + 31, w := 1, acc := .w1c }
/-- R821. -/
def Reg.CH_MARK_COUNT : Field := { bit := 0x500 * 8 + 0, w := 9, acc := .ro, n := 64, stride := 4 }
/-- R821. -/
def Reg.CH_MARK_INFLIGHT : Field := { bit := 0x500 * 8 + 9, w := 9, acc := .ro, n := 64, stride := 4 }
/-- R821. -/
def Reg.CH_MARK_RETURNS : Field := { bit := 0x500 * 8 + 18, w := 9, acc := .ro, n := 64, stride := 4 }
/-- R821. -/
def Reg.CH_MARK_AUDIT : Field := { bit := 0x500 * 8 + 27, w := 2, acc := .ro, n := 64, stride := 4 }
/-- R216. -/
def Reg.INVALID_COUNT : Field := { bit := 0x800 * 8 + 0, w := 64, acc := .cnt }
/-- R216. -/
def Reg.OVERFLOW_COUNT : Field := { bit := 0x808 * 8 + 0, w := 64, acc := .cnt }
/-- R216. -/
def Reg.INVALID_SUM_COUNT : Field := { bit := 0x810 * 8 + 0, w := 64, acc := .cnt }
/-- R289. -/
def Reg.SCHED_PROGRESS : Field := { bit := 0x818 * 8 + 0, w := 64, acc := .cnt }
/-- R289. -/
def Reg.CREDIT_STALL : Field := { bit := 0x820 * 8 + 0, w := 64, acc := .cnt }
/-- R289. -/
def Reg.DATA_STALL : Field := { bit := 0x828 * 8 + 0, w := 64, acc := .cnt }
/-- R289. -/
def Reg.FILL_ISSUED : Field := { bit := 0x830 * 8 + 0, w := 64, acc := .cnt }
/-- R289. -/
def Reg.TAIL_NONFINITE : Field := { bit := 0x838 * 8 + 0, w := 64, acc := .cnt }
/-- R381. -/
def Reg.SEG_RUNS : Field := { bit := 0x840 * 8 + 0, w := 64, acc := .cnt }
/-- R381. -/
def Reg.SEG_ISSUED : Field := { bit := 0x848 * 8 + 0, w := 64, acc := .cnt }
/-- R493. -/
def Reg.WIN_OPS : Field := { bit := 0x850 * 8 + 0, w := 64, acc := .cnt }
/-- R493. -/
def Reg.WIN_PASSES : Field := { bit := 0x858 * 8 + 0, w := 64, acc := .cnt }
/-- R650. -/
def Reg.WL_CE : Field := { bit := 0x860 * 8 + 0, w := 64, acc := .cnt }
/-- R650. -/
def Reg.WL_UE : Field := { bit := 0x868 * 8 + 0, w := 64, acc := .cnt }
/-- R650. -/
def Reg.WL_ZERO_FILLS : Field := { bit := 0x870 * 8 + 0, w := 64, acc := .cnt }
/-- R650. -/
def Reg.WL_SCRUBBED : Field := { bit := 0x878 * 8 + 0, w := 64, acc := .cnt }
/-- R217. -/
def Reg.CL_ARITH_INV_TILES : Field := { bit := 0x180 * 8 + 0, w := 17, acc := .ro }
/-- R217. -/
def Reg.CL_ARITH_FIRST_TILE : Field := { bit := 0x180 * 8 + 17, w := 5, acc := .ro }
/-- R217. -/
def Reg.CL_ARITH_FIRST_VALID : Field := { bit := 0x180 * 8 + 22, w := 1, acc := .w1c }
/-- R379. -/
def Reg.AW_STATUS_BUSY : Field := { bit := 0x1C0 * 8 + 0, w := 1, acc := .ro }
/-- R379. -/
def Reg.AW_STATUS_QUEUE : Field := { bit := 0x1C0 * 8 + 1, w := 4, acc := .ro }
/-- R379. -/
def Reg.AW_STATUS_LAST_FB_CODE : Field := { bit := 0x1C0 * 8 + 16, w := 16, acc := .ro }
/-- R796. -/
def Reg.CL_TILE_MAP_SUBST_ACTIVE : Field := { bit := 0x1E0 * 8 + 0, w := 1, acc := .rws }
/-- R796. -/
def Reg.CL_TILE_MAP_SUBST_LOGICAL : Field := { bit := 0x1E0 * 8 + 1, w := 4, acc := .rws }
/-- R796. -/
def Reg.CL_TILE_MAP_PENDING : Field := { bit := 0x1E0 * 8 + 5, w := 1, acc := .ro }
/-- R380. -/
def Reg.AW_PACKS : Field := { bit := 0x800 * 8 + 0, w := 64, acc := .cnt }
/-- R380. -/
def Reg.AW_UNPACKS : Field := { bit := 0x808 * 8 + 0, w := 64, acc := .cnt }
/-- R380. -/
def Reg.AW_IN_BYTES : Field := { bit := 0x810 * 8 + 0, w := 64, acc := .cnt }
/-- R380. -/
def Reg.AW_OUT_BYTES : Field := { bit := 0x818 * 8 + 0, w := 64, acc := .cnt }
/-- R380. -/
def Reg.AW_RAW_CHUNKS : Field := { bit := 0x820 * 8 + 0, w := 64, acc := .cnt }
/-- R380. -/
def Reg.AW_FALLBACKS : Field := { bit := 0x828 * 8 + 0, w := 64, acc := .cnt }
/-- R380. -/
def Reg.AW_SKIPS : Field := { bit := 0x830 * 8 + 0, w := 64, acc := .cnt }
/-- R380. -/
def Reg.AW_POISON_CHUNKS : Field := { bit := 0x838 * 8 + 0, w := 64, acc := .cnt }
/-- R380. -/
def Reg.AW_DROPS : Field := { bit := 0x840 * 8 + 0, w := 64, acc := .cnt }
/-- R521. -/
def Reg.CL_TAIL_NONFINITE : Field := { bit := 0x848 * 8 + 0, w := 64, acc := .cnt }
/-- R449. -/
def Reg.AP_CTRL_START : Field := { bit := 0x100 * 8 + 0, w := 1, acc := .w1s }
/-- R449. -/
def Reg.AP_CTRL_STOP : Field := { bit := 0x100 * 8 + 1, w := 1, acc := .w1s }
/-- R449. -/
def Reg.AP_STATUS_STATE : Field := { bit := 0x104 * 8 + 0, w := 2, acc := .ro }
/-- R449. -/
def Reg.AP_STATUS_FALLBACK : Field := { bit := 0x104 * 8 + 2, w := 1, acc := .ro }
/-- R449. -/
def Reg.AP_STATUS_INVALID : Field := { bit := 0x104 * 8 + 3, w := 1, acc := .w1c }
/-- R449. -/
def Reg.AP_STATUS_PINS : Field := { bit := 0x104 * 8 + 8, w := 7, acc := .ro }
/-- R449. -/
def Reg.AP_STATUS_HALT_CODE : Field := { bit := 0x104 * 8 + 16, w := 16, acc := .ro }
/-- R449. -/
def Reg.AP_PC : Field := { bit := 0x108 * 8 + 0, w := 9, acc := .ro }
/-- R449. -/
def Reg.AP_STEP : Field := { bit := 0x10C * 8 + 0, w := 32, acc := .ro }
/-- R449. -/
def Reg.AP_COMP_COUNT : Field := { bit := 0x110 * 8 + 0, w := 32, acc := .ro }
/-- R449, R174. -/
def Reg.AP_HA_BANK_VALID : Field := { bit := 0x140 * 8 + 0, w := 2, acc := .ro, n := 2, stride := 16 }
/-- R449, R174. -/
def Reg.AP_HA_BUSY : Field := { bit := 0x140 * 8 + 2, w := 1, acc := .ro, n := 2, stride := 16 }
/-- R449, R174. -/
def Reg.AP_HA_SPARE_ACTIVE : Field := { bit := 0x140 * 8 + 3, w := 1, acc := .ro, n := 2, stride := 16 }
/-- R449, R174. -/
def Reg.AP_HA_SPARE_COL_ACTIVE : Field := { bit := 0x140 * 8 + 4, w := 6, acc := .ro, n := 2, stride := 16 }
/-- R449, R174. -/
def Reg.AP_HA_FAULT : Field := { bit := 0x140 * 8 + 10, w := 1, acc := .ro, n := 2, stride := 16 }
/-- R449, R174. -/
def Reg.AP_HA_FAULT_COL : Field := { bit := 0x140 * 8 + 11, w := 7, acc := .ro, n := 2, stride := 16 }
/-- R449, R174. -/
def Reg.AP_HA_UNCOVERED : Field := { bit := 0x140 * 8 + 18, w := 1, acc := .ro, n := 2, stride := 16 }
/-- R449, R174. -/
def Reg.AP_HA_SPARE_REQ : Field := { bit := 0x144 * 8 + 0, w := 1, acc := .rws, n := 2, stride := 16 }
/-- R449, R174. -/
def Reg.AP_HA_SPARE_COL : Field := { bit := 0x144 * 8 + 1, w := 6, acc := .rws, n := 2, stride := 16 }
/-- R449, R174. -/
def Reg.AP_HA_SPARE_PENDING : Field := { bit := 0x144 * 8 + 7, w := 1, acc := .ro, n := 2, stride := 16 }
/-- R449, R174. -/
def Reg.AP_HA_TEST_START : Field := { bit := 0x148 * 8 + 0, w := 1, acc := .w1s, n := 2, stride := 16 }
/-- R449, R174. -/
def Reg.AP_HA_TEST_DONE : Field := { bit := 0x148 * 8 + 1, w := 1, acc := .ro, n := 2, stride := 16 }
/-- R449, R174. -/
def Reg.AP_HA_TEST_PASS : Field := { bit := 0x148 * 8 + 2, w := 1, acc := .ro, n := 2, stride := 16 }
/-- R450. -/
def Reg.AT_PROGRESS : Field := { bit := 0x800 * 8 + 0, w := 64, acc := .cnt }
/-- R450. -/
def Reg.AT_PASSES : Field := { bit := 0x808 * 8 + 0, w := 64, acc := .cnt }
/-- R450. -/
def Reg.AT_KEY_BLOCKS : Field := { bit := 0x810 * 8 + 0, w := 64, acc := .cnt }
/-- R450. -/
def Reg.AT_SKIPPED_BLOCKS : Field := { bit := 0x818 * 8 + 0, w := 64, acc := .cnt }
/-- R450. -/
def Reg.AT_PAD_BLOCKS : Field := { bit := 0x820 * 8 + 0, w := 64, acc := .cnt }
/-- R450. -/
def Reg.AT_FALLBACK_RUNS : Field := { bit := 0x828 * 8 + 0, w := 64, acc := .cnt }
/-- R450. -/
def Reg.AT_EMPTY_ROWS : Field := { bit := 0x830 * 8 + 0, w := 64, acc := .cnt }
/-- R450. -/
def Reg.AT_NONFINITE : Field := { bit := 0x838 * 8 + 0, w := 64, acc := .cnt }
/-- R450. -/
def Reg.AT_INVALID : Field := { bit := 0x840 * 8 + 0, w := 64, acc := .cnt }
/-- R648. -/
def Reg.PM_STATUS_BUSY : Field := { bit := 0x100 * 8 + 0, w := 4, acc := .ro }
/-- R648. -/
def Reg.PM_STATUS_QUEUE : Field := { bit := 0x100 * 8 + 4, w := 5, acc := .ro }
/-- R648. -/
def Reg.PM_SLOT_KIND : Field := { bit := 0x140 * 8 + 0, w := 8, acc := .ro, n := 8, stride := 4 }
/-- R648. -/
def Reg.PM_SLOT_BUSY : Field := { bit := 0x140 * 8 + 8, w := 1, acc := .ro, n := 8, stride := 4 }
/-- R648. -/
def Reg.PM_SLOT_DRY : Field := { bit := 0x140 * 8 + 9, w := 1, acc := .ro, n := 8, stride := 4 }
/-- R648. -/
def Reg.PM_SUBMIT : Field := { bit := 0x600 * 8 + 0, w := 128, acc := .wo }
/-- R650. -/
def Reg.PM_DESCS : Field := { bit := 0x800 * 8 + 0, w := 64, acc := .cnt }
/-- R650. -/
def Reg.PM_BYTES : Field := { bit := 0x808 * 8 + 0, w := 64, acc := .cnt }
/-- R650. -/
def Reg.PM_POISON_UNITS : Field := { bit := 0x810 * 8 + 0, w := 64, acc := .cnt }
/-- R650. -/
def Reg.PM_DEADLINE_MISSES : Field := { bit := 0x818 * 8 + 0, w := 64, acc := .cnt }
/-- R650. -/
def Reg.PM_SOURCE_DRY : Field := { bit := 0x820 * 8 + 0, w := 64, acc := .cnt }
/-- R650. -/
def Reg.PM_REFUSED : Field := { bit := 0x828 * 8 + 0, w := 64, acc := .cnt }
/-- R491. -/
def Reg.HP_CTRL_START : Field := { bit := 0x100 * 8 + 0, w := 1, acc := .w1s }
/-- R491. -/
def Reg.HP_CTRL_STOP : Field := { bit := 0x100 * 8 + 1, w := 1, acc := .w1s }
/-- R491. -/
def Reg.HP_STATUS_STATE : Field := { bit := 0x104 * 8 + 0, w := 2, acc := .ro }
/-- R491. -/
def Reg.HP_STATUS_INVALID : Field := { bit := 0x104 * 8 + 2, w := 1, acc := .w1c }
/-- R491. -/
def Reg.HP_STATUS_HALT_CODE : Field := { bit := 0x104 * 8 + 16, w := 16, acc := .ro }
/-- R491. -/
def Reg.HP_PC : Field := { bit := 0x108 * 8 + 0, w := 8, acc := .ro }
/-- R491. -/
def Reg.HP_STEP : Field := { bit := 0x10C * 8 + 0, w := 32, acc := .ro }
/-- R491. -/
def Reg.HP_COMP_COUNT : Field := { bit := 0x110 * 8 + 0, w := 32, acc := .ro }
/-- R492. -/
def Reg.HP_PROGRESS : Field := { bit := 0x800 * 8 + 0, w := 64, acc := .cnt }
/-- R492. -/
def Reg.HP_PRODUCTS : Field := { bit := 0x808 * 8 + 0, w := 64, acc := .cnt }
/-- R492. -/
def Reg.HP_BOXES : Field := { bit := 0x810 * 8 + 0, w := 64, acc := .cnt }
/-- R492. -/
def Reg.HP_BAD_BOXES : Field := { bit := 0x818 * 8 + 0, w := 64, acc := .cnt }
/-- R492. -/
def Reg.HP_NONFINITE : Field := { bit := 0x820 * 8 + 0, w := 64, acc := .cnt }
/-- R492. -/
def Reg.HP_INVALID : Field := { bit := 0x828 * 8 + 0, w := 64, acc := .cnt }
/-- R647. -/
def Reg.CH_STATE : Field := { bit := 0x100 * 8 + 0, w := 2, acc := .ro, rst := 1 }
/-- R647. -/
def Reg.CH_SELF_REFRESH : Field := { bit := 0x100 * 8 + 2, w := 1, acc := .ro }
/-- R647. -/
def Reg.CH_CE_ALARM_BIT : Field := { bit := 0x100 * 8 + 3, w := 1, acc := .w1c }
/-- R647. -/
def Reg.CH_CE_ALARM_N : Field := { bit := 0x104 * 8 + 0, w := 32, acc := .rw }
/-- R647. -/
def Reg.CH_ERR_ADDR : Field := { bit := 0x108 * 8 + 0, w := 48, acc := .ro }
/-- R647. -/
def Reg.CH_ERR_ADDR_VALID : Field := { bit := 0x108 * 8 + 63, w := 1, acc := .w1c }
/-- R650. -/
def Reg.CH_READ_BYTES : Field := { bit := 0x800 * 8 + 0, w := 64, acc := .cnt }
/-- R650. -/
def Reg.CH_WRITE_BYTES : Field := { bit := 0x808 * 8 + 0, w := 64, acc := .cnt }
/-- R650. -/
def Reg.CH_CE : Field := { bit := 0x810 * 8 + 0, w := 64, acc := .cnt }
/-- R650. -/
def Reg.CH_UE : Field := { bit := 0x818 * 8 + 0, w := 64, acc := .cnt }
/-- R650. -/
def Reg.CH_POISON_READS : Field := { bit := 0x820 * 8 + 0, w := 64, acc := .cnt }
/-- R650. -/
def Reg.CH_RMW : Field := { bit := 0x828 * 8 + 0, w := 64, acc := .cnt }
/-- R650. -/
def Reg.CH_ZERO_FILLS : Field := { bit := 0x830 * 8 + 0, w := 64, acc := .cnt }
/-- R650. -/
def Reg.CH_SCRUBBED : Field := { bit := 0x838 * 8 + 0, w := 64, acc := .cnt }
/-- R650. -/
def Reg.CH_LATE_GRANTS : Field := { bit := 0x840 * 8 + 0, w := 64, acc := .cnt }
/-- R686. -/
def Reg.KP_CTRL_ENABLE : Field := { bit := 0x100 * 8 + 0, w := 1, acc := .rw }
/-- R686. -/
def Reg.KP_CTRL_AUTO_RETRAIN : Field := { bit := 0x100 * 8 + 1, w := 1, acc := .rw, rst := 1 }
/-- R686. -/
def Reg.KP_CTRL_DATELINE : Field := { bit := 0x100 * 8 + 2, w := 1, acc := .rw }
/-- R686. -/
def Reg.KP_CTRL_RETRAIN : Field := { bit := 0x100 * 8 + 3, w := 1, acc := .w1s }
/-- R686. -/
def Reg.KP_STATUS_STATE : Field := { bit := 0x104 * 8 + 0, w := 4, acc := .ro }
/-- R686. -/
def Reg.KP_STATUS_LASER : Field := { bit := 0x104 * 8 + 4, w := 1, acc := .ro }
/-- R686. -/
def Reg.KP_PEER_MODULE : Field := { bit := 0x108 * 8 + 0, w := 16, acc := .ro }
/-- R686. -/
def Reg.KP_PEER_PORT : Field := { bit := 0x108 * 8 + 16, w := 5, acc := .ro }
/-- R686. -/
def Reg.KP_PEER_VALID : Field := { bit := 0x108 * 8 + 31, w := 1, acc := .ro }
/-- R686. -/
def Reg.KP_LANE_MAP_TX : Field := { bit := 0x10C * 8 + 0, w := 4, acc := .rws, rst := 0xF }
/-- R686. -/
def Reg.KP_LANE_MAP_RX : Field := { bit := 0x10C * 8 + 4, w := 4, acc := .rws, rst := 0xF }
/-- R686. -/
def Reg.KP_SPARE_CFG_CW_LIMIT : Field := { bit := 0x110 * 8 + 0, w := 8, acc := .rw, rst := 4 }
/-- R686. -/
def Reg.KP_VC_CREDIT : Field := { bit := 0x120 * 8 + 0, w := 13, acc := .rw, rst := 0x200, n := 8, stride := 4 }
/-- R821. -/
def Reg.KP_MARK_VC_CREDITS : Field := { bit := 0x140 * 8 + 0, w := 13, acc := .ro, n := 8, stride := 4 }
/-- R821. -/
def Reg.KP_MARK_VC_BUFFERED : Field := { bit := 0x140 * 8 + 13, w := 13, acc := .ro, n := 8, stride := 4 }
/-- R687. -/
def Reg.KP_TX_FLITS : Field := { bit := 0x800 * 8 + 0, w := 64, acc := .cnt }
/-- R687. -/
def Reg.KP_RX_FLITS : Field := { bit := 0x808 * 8 + 0, w := 64, acc := .cnt }
/-- R687. -/
def Reg.KP_FEC_CORRECTED : Field := { bit := 0x810 * 8 + 0, w := 64, acc := .cnt }
/-- R687. -/
def Reg.KP_FEC_UNCORR : Field := { bit := 0x818 * 8 + 0, w := 64, acc := .cnt }
/-- R687. -/
def Reg.KP_CRC_ERRORS : Field := { bit := 0x820 * 8 + 0, w := 64, acc := .cnt }
/-- R687. -/
def Reg.KP_REPLAYS : Field := { bit := 0x828 * 8 + 0, w := 64, acc := .cnt }
/-- R687. -/
def Reg.KP_RETRAINS : Field := { bit := 0x830 * 8 + 0, w := 64, acc := .cnt }
/-- R687. -/
def Reg.KP_SPARE_SWAPS : Field := { bit := 0x838 * 8 + 0, w := 64, acc := .cnt }
/-- R687. -/
def Reg.KP_TRANSIT_FLITS : Field := { bit := 0x840 * 8 + 0, w := 64, acc := .cnt }
/-- R687. -/
def Reg.KP_HOP_DROPS : Field := { bit := 0x848 * 8 + 0, w := 64, acc := .cnt }
/-- R687. -/
def Reg.KP_STRAY : Field := { bit := 0x850 * 8 + 0, w := 64, acc := .cnt }
/-- R687. -/
def Reg.KP_BAD_PACKETS : Field := { bit := 0x858 * 8 + 0, w := 64, acc := .cnt }
/-- R555. -/
def Reg.VD_CTRL_ENABLE : Field := { bit := 0x100 * 8 + 0, w := 1, acc := .rw }
/-- R555. -/
def Reg.VD_STATUS_QUEUE : Field := { bit := 0x104 * 8 + 0, w := 5, acc := .ro }
/-- R555. -/
def Reg.VD_STATUS_BUSY : Field := { bit := 0x104 * 8 + 5, w := 1, acc := .ro }
/-- R555. -/
def Reg.VD_STATUS_BUF_WAIT : Field := { bit := 0x104 * 8 + 6, w := 1, acc := .ro }
/-- R555. -/
def Reg.VD_STATUS_RING_WAIT : Field := { bit := 0x104 * 8 + 7, w := 1, acc := .ro }
/-- R555. -/
def Reg.VD_POOL_BASE : Field := { bit := 0x108 * 8 + 0, w := 48, acc := .rw, guard := .own }
/-- R555. -/
def Reg.VD_POOL_CFG_COUNT : Field := { bit := 0x110 * 8 + 0, w := 5, acc := .rw, guard := .own }
/-- R555. -/
def Reg.VD_POOL_CFG_SIZE : Field := { bit := 0x110 * 8 + 8, w := 24, acc := .rw, guard := .own }
/-- R555. -/
def Reg.VD_RING_BASE : Field := { bit := 0x118 * 8 + 0, w := 48, acc := .rw, guard := .own }
/-- R555. -/
def Reg.VD_RING_CFG_LOG2 : Field := { bit := 0x120 * 8 + 0, w := 4, acc := .rw, rst := 4, guard := .own }
/-- R555. -/
def Reg.VD_RING_TAIL : Field := { bit := 0x124 * 8 + 0, w := 32, acc := .ro }
/-- R555. -/
def Reg.VD_RING_HEAD : Field := { bit := 0x128 * 8 + 0, w := 32, acc := .rw }
/-- R555. -/
def Reg.VD_RELEASE : Field := { bit := 0x12C * 8 + 0, w := 5, acc := .wo }
/-- R555. -/
def Reg.VD_REF_MARKS : Field := { bit := 0x130 * 8 + 0, w := 32, acc := .ro }
/-- R555. -/
def Reg.VD_OUT_MARKS : Field := { bit := 0x134 * 8 + 0, w := 32, acc := .ro }
/-- R555. -/
def Reg.VD_JOB_PORT : Field := { bit := 0x600 * 8 + 0, w := 256, acc := .wo }
/-- R556. -/
def Reg.VD_FRAMES : Field := { bit := 0x800 * 8 + 0, w := 64, acc := .cnt }
/-- R556. -/
def Reg.VD_PIXELS : Field := { bit := 0x808 * 8 + 0, w := 64, acc := .cnt }
/-- R556. -/
def Reg.VD_DAMAGE : Field := { bit := 0x810 * 8 + 0, w := 64, acc := .cnt }
/-- R556. -/
def Reg.VD_CONCEALED : Field := { bit := 0x818 * 8 + 0, w := 64, acc := .cnt }
/-- R556. -/
def Reg.VD_REFUSED : Field := { bit := 0x820 * 8 + 0, w := 64, acc := .cnt }
/-- R555. -/
def Reg.VE_CTRL_ENABLE : Field := { bit := 0x100 * 8 + 0, w := 1, acc := .rw }
/-- R555. -/
def Reg.VE_STATUS_QUEUE : Field := { bit := 0x104 * 8 + 0, w := 5, acc := .ro }
/-- R555. -/
def Reg.VE_STATUS_BUSY : Field := { bit := 0x104 * 8 + 5, w := 1, acc := .ro }
/-- R555. -/
def Reg.VE_JOB_PORT : Field := { bit := 0x600 * 8 + 0, w := 512, acc := .wo }
/-- R556. -/
def Reg.VE_FRAMES : Field := { bit := 0x800 * 8 + 0, w := 64, acc := .cnt }
/-- R556. -/
def Reg.VE_BYTES : Field := { bit := 0x808 * 8 + 0, w := 64, acc := .cnt }
/-- R556. -/
def Reg.VE_REENCODES : Field := { bit := 0x810 * 8 + 0, w := 64, acc := .cnt }
/-- R556. -/
def Reg.VE_CAP_MISSES : Field := { bit := 0x818 * 8 + 0, w := 64, acc := .cnt }
/-- R556. -/
def Reg.VE_REFUSED : Field := { bit := 0x820 * 8 + 0, w := 64, acc := .cnt }
/-- R898. -/
def Reg.TF_FRAMES : Field := { bit := 0x800 * 8 + 0, w := 64, acc := .cnt }
/-- R898. -/
def Reg.TF_PIXELS : Field := { bit := 0x808 * 8 + 0, w := 64, acc := .cnt }
/-- R451. -/
def Reg.WH_CTRL_ENABLE : Field := { bit := 0x100 * 8 + 0, w := 1, acc := .rw }
/-- R451. -/
def Reg.WH_STATUS_QUEUE : Field := { bit := 0x104 * 8 + 0, w := 7, acc := .ro }
/-- R451. -/
def Reg.WH_STATUS_BUSY : Field := { bit := 0x104 * 8 + 7, w := 1, acc := .ro }
/-- R451. -/
def Reg.WH_STATUS_LOW : Field := { bit := 0x104 * 8 + 8, w := 1, acc := .ro }
/-- R451. -/
def Reg.WH_PT_BASE : Field := { bit := 0x108 * 8 + 0, w := 48, acc := .rw, guard := .own }
/-- R451. -/
def Reg.WH_POOL : Field := { bit := 0x110 * 8 + 0, w := 23, acc := .rw, guard := .own }
/-- R451. -/
def Reg.WH_FREE_HEAD : Field := { bit := 0x114 * 8 + 0, w := 23, acc := .rw, guard := .own }
/-- R451. -/
def Reg.WH_FREE : Field := { bit := 0x118 * 8 + 0, w := 24, acc := .rw, guard := .own }
/-- R451. -/
def Reg.WH_DRAINING : Field := { bit := 0x11C * 8 + 0, w := 24, acc := .ro }
/-- R451. -/
def Reg.WH_LOW_WATER : Field := { bit := 0x120 * 8 + 0, w := 24, acc := .rw }
/-- R451. -/
def Reg.WH_TREE_BASE : Field := { bit := 0x128 * 8 + 0, w := 48, acc := .rw, guard := .own }
/-- R451. -/
def Reg.WH_CMD_PORT : Field := { bit := 0x600 * 8 + 0, w := 256, acc := .wo }
/-- R452. -/
def Reg.WH_CMDS : Field := { bit := 0x800 * 8 + 0, w := 64, acc := .cnt }
/-- R452. -/
def Reg.WH_HITS : Field := { bit := 0x808 * 8 + 0, w := 64, acc := .cnt }
/-- R452. -/
def Reg.WH_MISSES : Field := { bit := 0x810 * 8 + 0, w := 64, acc := .cnt }
/-- R452. -/
def Reg.WH_COLLISIONS : Field := { bit := 0x818 * 8 + 0, w := 64, acc := .cnt }
/-- R452. -/
def Reg.WH_COPIES : Field := { bit := 0x820 * 8 + 0, w := 64, acc := .cnt }
/-- R452. -/
def Reg.WH_REFUSED : Field := { bit := 0x828 * 8 + 0, w := 64, acc := .cnt }
/-- R720. -/
def Reg.RD_CTRL_ENABLE : Field := { bit := 0x100 * 8 + 0, w := 1, acc := .rw }
/-- R720. -/
def Reg.RD_STATUS_ACTIVE : Field := { bit := 0x104 * 8 + 0, w := 1, acc := .ro }
/-- R720. -/
def Reg.RD_STATUS_RUNS_OPEN : Field := { bit := 0x104 * 8 + 1, w := 11, acc := .ro }
/-- R720. -/
def Reg.RD_TABLE : Field := { bit := 0x108 * 8 + 0, w := 64, acc := .rw, guard := .own }
/-- R720. -/
def Reg.RD_TABLE_COUNT : Field := { bit := 0x110 * 8 + 0, w := 11, acc := .rw, guard := .own }
/-- R720. -/
def Reg.RD_DEADLINE : Field := { bit := 0x114 * 8 + 0, w := 24, acc := .rw }
/-- R720. -/
def Reg.RD_LAST_FAIL_CODE : Field := { bit := 0x118 * 8 + 0, w := 16, acc := .ro }
/-- R720. -/
def Reg.RD_LAST_FAIL_ENTRY : Field := { bit := 0x118 * 8 + 16, w := 10, acc := .ro }
/-- R720. -/
def Reg.RD_STEP_NONFINITE : Field := { bit := 0x120 * 8 + 0, w := 32, acc := .ro, n := 3, stride := 4 }
/-- R720. -/
def Reg.RD_GROUP_RANK : Field := { bit := 0x140 * 8 + 0, w := 13, acc := .rw, n := 16, stride := 16, guard := .own }
/-- R720. -/
def Reg.RD_GROUP_SIZE : Field := { bit := 0x140 * 8 + 16, w := 13, acc := .rw, n := 16, stride := 16, guard := .own }
/-- R720. -/
def Reg.RD_MAP : Field := { bit := 0x148 * 8 + 0, w := 64, acc := .rw, n := 16, stride := 16, guard := .own }
/-- R721. -/
def Reg.RD_RUNS : Field := { bit := 0x800 * 8 + 0, w := 64, acc := .cnt }
/-- R721. -/
def Reg.RD_CHUNKS_SENT : Field := { bit := 0x808 * 8 + 0, w := 64, acc := .cnt }
/-- R721. -/
def Reg.RD_CHUNKS_CLOSED : Field := { bit := 0x810 * 8 + 0, w := 64, acc := .cnt }
/-- R721. -/
def Reg.RD_ABSENT : Field := { bit := 0x818 * 8 + 0, w := 64, acc := .cnt }
/-- R721. -/
def Reg.RD_LATE : Field := { bit := 0x820 * 8 + 0, w := 64, acc := .cnt }
/-- R721. -/
def Reg.RD_STRAY : Field := { bit := 0x828 * 8 + 0, w := 64, acc := .cnt }
/-- R721. -/
def Reg.RD_WINDOW_MISMATCH : Field := { bit := 0x830 * 8 + 0, w := 64, acc := .cnt }
/-- R721. -/
def Reg.RD_OVERFLOWS : Field := { bit := 0x838 * 8 + 0, w := 64, acc := .cnt }
/-- R721. -/
def Reg.RD_CHECKSUM_FAILS : Field := { bit := 0x840 * 8 + 0, w := 64, acc := .cnt }
/-- R885. -/
def Reg.WR_BASE : Field := { bit := 0x400 * 8 + 0, w := 64, acc := .rw, n := 32, stride := 32 }
/-- R885. -/
def Reg.WR_CQ_BASE : Field := { bit := 0x408 * 8 + 0, w := 64, acc := .rw, n := 32, stride := 32 }
/-- R885. -/
def Reg.WR_CFG_ENABLE : Field := { bit := 0x410 * 8 + 0, w := 1, acc := .rw, n := 32, stride := 32 }
/-- R885. -/
def Reg.WR_CFG_LOC : Field := { bit := 0x410 * 8 + 1, w := 1, acc := .rw, n := 32, stride := 32 }
/-- R885. -/
def Reg.WR_CFG_LOG2 : Field := { bit := 0x410 * 8 + 2, w := 4, acc := .rw, rst := 4, n := 32, stride := 32 }
/-- R885. -/
def Reg.WR_CFG_HALTED : Field := { bit := 0x410 * 8 + 6, w := 1, acc := .ro, n := 32, stride := 32 }
/-- R885. -/
def Reg.WR_CFG_VECTOR : Field := { bit := 0x410 * 8 + 16, w := 11, acc := .rw, n := 32, stride := 32 }
/-- R885. -/
def Reg.WR_HEAD : Field := { bit := 0x414 * 8 + 0, w := 32, acc := .ro, n := 32, stride := 32 }
/-- R885. -/
def Reg.WR_TAIL : Field := { bit := 0x418 * 8 + 0, w := 32, acc := .rw, n := 32, stride := 32 }
/-- R646. -/
def Reg.MEM_SCRUB_RATE_GBH : Field := { bit := 0x200 * 8 + 0, w := 13, acc := .rw, rst := 0x40 }
/-- R646. -/
def Reg.MEM_SCRUB_WELL_PASS_S : Field := { bit := 0x200 * 8 + 16, w := 16, acc := .rw, rst := 0x258 }
/-- R646. -/
def Reg.MEM_ARB_BE_SLACK_US : Field := { bit := 0x204 * 8 + 0, w := 16, acc := .rw, rst := 0x64 }
/-- R646. -/
def Reg.MEM_RETIRE_CH : Field := { bit := 0x208 * 8 + 0, w := 4, acc := .rw }
/-- R646. -/
def Reg.MEM_RETIRE_GO : Field := { bit := 0x208 * 8 + 4, w := 1, acc := .w1s }
/-- R646. -/
def Reg.MEM_RETIRE_STATUS_STATE : Field := { bit := 0x20C * 8 + 0, w := 2, acc := .ro }
/-- R646. -/
def Reg.MEM_RETIRE_STATUS_CH : Field := { bit := 0x20C * 8 + 2, w := 4, acc := .ro }
/-- R646. -/
def Reg.MEM_LIMIT : Field := { bit := 0x210 * 8 + 0, w := 64, acc := .ro, rst := 102400000000 }
/-- R646. -/
def Reg.MEM_DISCARD : Field := { bit := 0x220 * 8 + 0, w := 128, acc := .wo }
/-- R685. -/
def Reg.KL_MODULE : Field := { bit := 0x240 * 8 + 0, w := 16, acc := .rws, guard := .ports }
/-- R685. -/
def Reg.KL_CFG_HOP_LIMIT : Field := { bit := 0x244 * 8 + 0, w := 6, acc := .rw, rst := 0x3F }
/-- R685. -/
def Reg.KL_REQ_TIMEOUT : Field := { bit := 0x248 * 8 + 0, w := 24, acc := .rw, rst := 0x2710 }
/-- R685. -/
def Reg.KL_RT_INDEX : Field := { bit := 0x24C * 8 + 0, w := 16, acc := .rw }
/-- R685. -/
def Reg.KL_RT_DATA : Field := { bit := 0x250 * 8 + 0, w := 32, acc := .rw }
/-- R685. -/
def Reg.KL_NOTICE_MODULE : Field := { bit := 0x254 * 8 + 0, w := 16, acc := .ro }
/-- R685. -/
def Reg.KL_NOTICE_RELEASED : Field := { bit := 0x254 * 8 + 16, w := 1, acc := .ro }
/-- R685. -/
def Reg.KL_NOTICE_VALID : Field := { bit := 0x254 * 8 + 17, w := 1, acc := .w1c }
/-- R685. -/
def Reg.KL_UNSENT : Field := { bit := 0x800 * 8 + 0, w := 64, acc := .cnt }
/-- R596. -/
def Reg.CI_CTRL_ENABLE : Field := { bit := 0x100 * 8 + 0, w := 1, acc := .rw }
/-- R596. -/
def Reg.CI_CTRL_EXCL_DAMAGED : Field := { bit := 0x100 * 8 + 1, w := 1, acc := .rw }
/-- R596. -/
def Reg.CI_CTRL_EXCL_LATE : Field := { bit := 0x100 * 8 + 2, w := 1, acc := .rw }
/-- R596. -/
def Reg.CI_CTRL_ABANDON : Field := { bit := 0x100 * 8 + 3, w := 1, acc := .rw }
/-- R596. -/
def Reg.CI_STATUS_READY : Field := { bit := 0x104 * 8 + 0, w := 7, acc := .ro }
/-- R596. -/
def Reg.CI_STATUS_FILLING : Field := { bit := 0x104 * 8 + 7, w := 7, acc := .ro }
/-- R596. -/
def Reg.CI_STATUS_LOW : Field := { bit := 0x104 * 8 + 14, w := 1, acc := .ro }
/-- R596. -/
def Reg.CI_STATUS_BLOCKED : Field := { bit := 0x104 * 8 + 15, w := 1, acc := .ro }
/-- R596. -/
def Reg.CI_BASE : Field := { bit := 0x108 * 8 + 0, w := 48, acc := .rw, guard := .own }
/-- R596. -/
def Reg.CI_GEOM_SLOTS : Field := { bit := 0x110 * 8 + 0, w := 10, acc := .rw, guard := .own }
/-- R596. -/
def Reg.CI_GEOM_DEPTH : Field := { bit := 0x110 * 8 + 16, w := 6, acc := .rw, guard := .own }
/-- R596. -/
def Reg.CI_SLOT_BYTES : Field := { bit := 0x114 * 8 + 0, w := 32, acc := .rw, rst := 0x1000, guard := .own }
/-- R596. -/
def Reg.CI_SUB_BASE : Field := { bit := 0x118 * 8 + 0, w := 48, acc := .rw, guard := .own }
/-- R596. -/
def Reg.CI_SUB_CFG_LOG2 : Field := { bit := 0x120 * 8 + 0, w := 4, acc := .rw, rst := 4, guard := .own }
/-- R596. -/
def Reg.CI_SUB_TAIL : Field := { bit := 0x124 * 8 + 0, w := 32, acc := .rw }
/-- R596. -/
def Reg.CI_SUB_HEAD : Field := { bit := 0x128 * 8 + 0, w := 32, acc := .ro }
/-- R596. -/
def Reg.CI_DECODERS_DEC : Field := { bit := 0x12C * 8 + 0, w := 16, acc := .rw, guard := .own }
/-- R596. -/
def Reg.CI_DECODERS_XF : Field := { bit := 0x12C * 8 + 16, w := 8, acc := .rw, guard := .own }
/-- R596. -/
def Reg.CI_BUDGET_MULT : Field := { bit := 0x130 * 8 + 0, w := 8, acc := .rw, rst := 0x14 }
/-- R596. -/
def Reg.CI_BUDGET_MIN_US : Field := { bit := 0x130 * 8 + 8, w := 24, acc := .rw }
/-- R596. -/
def Reg.CI_MEAN : Field := { bit := 0x134 * 8 + 0, w := 32, acc := .rws }
/-- R596. -/
def Reg.CI_LOW_WATER : Field := { bit := 0x138 * 8 + 0, w := 7, acc := .rw }
/-- R596. -/
def Reg.CI_NOTIFY : Field := { bit := 0x140 * 8 + 0, w := 64, acc := .rw, n := 4, stride := 8 }
/-- R596. -/
def Reg.CI_RETURN : Field := { bit := 0x160 * 8 + 0, w := 64, acc := .wo }
/-- R596. -/
def Reg.CI_READY : Field := { bit := 0x168 * 8 + 0, w := 64, acc := .ro }
/-- R596. -/
def Reg.CI_RETURNED : Field := { bit := 0x170 * 8 + 0, w := 64, acc := .ro }
/-- R596. -/
def Reg.CI_NEXT_SAMPLE : Field := { bit := 0x178 * 8 + 0, w := 64, acc := .ro }
/-- R596. -/
def Reg.CI_CURSOR_BASE : Field := { bit := 0x180 * 8 + 0, w := 48, acc := .rw, guard := .own }
/-- R596. -/
def Reg.CI_RESTORE : Field := { bit := 0x188 * 8 + 0, w := 64, acc := .wo }
/-- R596. -/
def Reg.CI_RESTORE_STATUS_STATE : Field := { bit := 0x190 * 8 + 0, w := 2, acc := .ro }
/-- R596. -/
def Reg.CI_RESTORE_STATUS_CODE : Field := { bit := 0x190 * 8 + 16, w := 16, acc := .ro }
/-- R596. -/
def Reg.CI_AUG : Field := { bit := 0x1A0 * 8 + 0, w := 64, acc := .ro, n := 8, stride := 8 }
/-- R596. -/
def Reg.SS_BASE : Field := { bit := 0x400 * 8 + 0, w := 48, acc := .rw, n := 16, stride := 64, guard := .own }
/-- R596. -/
def Reg.SS_CFG_LOG2 : Field := { bit := 0x408 * 8 + 0, w := 4, acc := .rw, rst := 4, n := 16, stride := 64, guard := .own }
/-- R596. -/
def Reg.SS_CFG_REC_BYTES : Field := { bit := 0x408 * 8 + 8, w := 24, acc := .rw, n := 16, stride := 64, guard := .own }
/-- R596. -/
def Reg.SS_TAIL : Field := { bit := 0x40C * 8 + 0, w := 32, acc := .rw, n := 16, stride := 64 }
/-- R596. -/
def Reg.SS_HEAD : Field := { bit := 0x410 * 8 + 0, w := 32, acc := .ro, n := 16, stride := 64 }
/-- R596. -/
def Reg.SS_OFFSET : Field := { bit := 0x418 * 8 + 0, w := 64, acc := .rw, n := 16, stride := 64, guard := .own }
/-- R596. -/
def Reg.SS_RATE : Field := { bit := 0x420 * 8 + 0, w := 64, acc := .rw, n := 16, stride := 64, guard := .own }
/-- R597. -/
def Reg.CI_SAMPLES : Field := { bit := 0x800 * 8 + 0, w := 64, acc := .cnt }
/-- R597. -/
def Reg.CI_DAMAGED : Field := { bit := 0x808 * 8 + 0, w := 64, acc := .cnt }
/-- R597. -/
def Reg.CI_SLOW : Field := { bit := 0x810 * 8 + 0, w := 64, acc := .cnt }
/-- R597. -/
def Reg.CI_LATE : Field := { bit := 0x818 * 8 + 0, w := 64, acc := .cnt }
/-- R597. -/
def Reg.CI_PADDED : Field := { bit := 0x820 * 8 + 0, w := 64, acc := .cnt }
/-- R597. -/
def Reg.CI_ERRORS : Field := { bit := 0x828 * 8 + 0, w := 64, acc := .cnt }
/-- R597. -/
def Reg.CI_REPEATED_FRAMES : Field := { bit := 0x830 * 8 + 0, w := 64, acc := .cnt }
/-- R597. -/
def Reg.SS_DISORDER : Field := { bit := 0x880 * 8 + 0, w := 64, acc := .cnt, n := 16, stride := 8 }
/-- R339. -/
def Reg.GEN_CTRL_ENABLE : Field := { bit := 0x100 * 8 + 0, w := 1, acc := .rw }
/-- R339. -/
def Reg.GEN_CTRL_AHEAD : Field := { bit := 0x100 * 8 + 1, w := 1, acc := .rw }
/-- R339, R337. -/
def Reg.GEN_CTRL_VETO_EN : Field := { bit := 0x100 * 8 + 2, w := 1, acc := .rw }
/-- R339. -/
def Reg.GEN_COMMITTED : Field := { bit := 0x104 * 8 + 0, w := 32, acc := .rw, guard := .gen }
/-- R339. -/
def Reg.GEN_STATUS_PHASE : Field := { bit := 0x108 * 8 + 0, w := 2, acc := .ro }
/-- R339. -/
def Reg.GEN_STATUS_STALL_FOURTH : Field := { bit := 0x108 * 8 + 2, w := 1, acc := .ro }
/-- R339. -/
def Reg.GEN_STATUS_IN_DOUBT : Field := { bit := 0x108 * 8 + 3, w := 1, acc := .ro }
/-- R339. -/
def Reg.GEN_STATUS_COORD : Field := { bit := 0x108 * 8 + 4, w := 1, acc := .ro }
/-- R339. -/
def Reg.GEN_STEP : Field := { bit := 0x10C * 8 + 0, w := 32, acc := .rw, guard := .gen }
/-- R339. -/
def Reg.GEN_HOLD : Field := { bit := 0x110 * 8 + 0, w := 8, acc := .ro, n := 3, stride := 1 }
/-- R339. -/
def Reg.GEN_VETO_THRESHOLD : Field := { bit := 0x114 * 8 + 0, w := 32, acc := .rw }
/-- R339. -/
def Reg.GEN_GROUP_RANK : Field := { bit := 0x118 * 8 + 0, w := 13, acc := .rw, guard := .gen }
/-- R339. -/
def Reg.GEN_GROUP_SIZE : Field := { bit := 0x118 * 8 + 13, w := 13, acc := .rw, guard := .gen }
/-- R339. -/
def Reg.GEN_COORD_COORD_MODULE : Field := { bit := 0x11C * 8 + 0, w := 16, acc := .rw, guard := .gen }
/-- R339. -/
def Reg.GEN_COORD_DEPUTY_MODULE : Field := { bit := 0x11C * 8 + 16, w := 16, acc := .rw, guard := .gen }
/-- R339. -/
def Reg.GEN_DEADLINE : Field := { bit := 0x120 * 8 + 0, w := 24, acc := .rw }
/-- R339. -/
def Reg.GEN_OPEN_LIST : Field := { bit := 0x128 * 8 + 0, w := 64, acc := .rw, guard := .gen }
/-- R339. -/
def Reg.GEN_OPEN_COUNT : Field := { bit := 0x130 * 8 + 0, w := 16, acc := .rw }
/-- R339. -/
def Reg.GEN_ABORT_CAUSE : Field := { bit := 0x134 * 8 + 0, w := 16, acc := .ro }
/-- R339. -/
def Reg.GEN_ABORT_RANK : Field := { bit := 0x134 * 8 + 16, w := 13, acc := .ro }
/-- R339. -/
def Reg.GEN_ABORT_STEP : Field := { bit := 0x138 * 8 + 0, w := 32, acc := .ro }
/-- R339. -/
def Reg.MB_BIND : Field := { bit := 0x140 * 8 + 0, w := 24, acc := .wo }
/-- R339. -/
def Reg.GEN_MAP : Field := { bit := 0x148 * 8 + 6, w := 58, acc := .rw, guard := .gen }
/-- R339. -/
def Reg.MB_ENTRY_NEED : Field := { bit := 0x400 * 8 + 0, w := 8, acc := .ro, n := 255, stride := 4 }
/-- R339. -/
def Reg.MB_ENTRY_DONE : Field := { bit := 0x400 * 8 + 8, w := 8, acc := .rw, n := 255, stride := 4 }
/-- R339. -/
def Reg.MB_ENTRY_BOUND : Field := { bit := 0x400 * 8 + 16, w := 1, acc := .ro, n := 255, stride := 4 }
/-- R339. -/
def Reg.MB_ENTRY_RETIRING : Field := { bit := 0x400 * 8 + 17, w := 1, acc := .ro, n := 255, stride := 4 }
/-- R339. -/
def Reg.MB_ENTRY_SLOT : Field := { bit := 0x400 * 8 + 18, w := 2, acc := .ro, n := 255, stride := 4 }
/-- R340. -/
def Reg.GEN_COMMITS : Field := { bit := 0x800 * 8 + 0, w := 64, acc := .cnt }
/-- R340. -/
def Reg.GEN_ABORTS : Field := { bit := 0x808 * 8 + 0, w := 64, acc := .cnt }
/-- R340. -/
def Reg.GEN_STALLS : Field := { bit := 0x810 * 8 + 0, w := 64, acc := .cnt }
/-- R340. -/
def Reg.GEN_STALL_CYCLES : Field := { bit := 0x818 * 8 + 0, w := 64, acc := .cnt }
/-- R340. -/
def Reg.GEN_STRAY : Field := { bit := 0x820 * 8 + 0, w := 64, acc := .cnt }
/-- R755. -/
def Reg.RS_CTRL_ENABLE : Field := { bit := 0x100 * 8 + 0, w := 1, acc := .rw }
/-- R755. -/
def Reg.RS_CTRL_RESTORE : Field := { bit := 0x100 * 8 + 1, w := 1, acc := .w1s }
/-- R755. -/
def Reg.RS_CTRL_FILL : Field := { bit := 0x100 * 8 + 2, w := 1, acc := .rw }
/-- R755. -/
def Reg.RS_CTRL_K : Field := { bit := 0x100 * 8 + 16, w := 16, acc := .rw }
/-- R755. -/
def Reg.RS_STATUS_ROUND : Field := { bit := 0x104 * 8 + 0, w := 2, acc := .ro }
/-- R755. -/
def Reg.RS_STATUS_NEWEST_SLOT : Field := { bit := 0x104 * 8 + 2, w := 1, acc := .ro }
/-- R755. -/
def Reg.RS_STATUS_NEWEST_VALID : Field := { bit := 0x104 * 8 + 3, w := 1, acc := .ro }
/-- R755. -/
def Reg.RS_STATUS_TWIN_STALE : Field := { bit := 0x104 * 8 + 4, w := 1, acc := .w1c }
/-- R755. -/
def Reg.RS_STATUS_RESTORE : Field := { bit := 0x104 * 8 + 5, w := 2, acc := .ro }
/-- R755. -/
def Reg.RS_STATUS_CODE : Field := { bit := 0x104 * 8 + 16, w := 16, acc := .ro }
/-- R755. -/
def Reg.RS_BUDDY : Field := { bit := 0x108 * 8 + 0, w := 16, acc := .rws, guard := .own }
/-- R755. -/
def Reg.RS_TABLE : Field := { bit := 0x110 * 8 + 0, w := 64, acc := .rw, guard := .own }
/-- R755. -/
def Reg.RS_TABLE_COUNT : Field := { bit := 0x118 * 8 + 0, w := 13, acc := .rw, guard := .own }
/-- R755. -/
def Reg.RS_IMAGE_BASE : Field := { bit := 0x120 * 8 + 0, w := 64, acc := .rw, guard := .own }
/-- R755. -/
def Reg.RS_IMAGE_BYTES : Field := { bit := 0x128 * 8 + 0, w := 64, acc := .rw, guard := .own }
/-- R755. -/
def Reg.RS_NEXT_STEP : Field := { bit := 0x130 * 8 + 0, w := 32, acc := .rw, guard := .own }
/-- R755. -/
def Reg.RS_ROUND_STEP : Field := { bit := 0x134 * 8 + 0, w := 32, acc := .ro }
/-- R755. -/
def Reg.RS_RESTORE_STEP : Field := { bit := 0x138 * 8 + 0, w := 32, acc := .rw }
/-- R755. -/
def Reg.RS_HOLD_BASE : Field := { bit := 0x140 * 8 + 0, w := 64, acc := .rws }
/-- R755. -/
def Reg.RS_HOLD_BYTES : Field := { bit := 0x148 * 8 + 0, w := 64, acc := .rws }
/-- R755. -/
def Reg.RS_DIGEST_SRC : Field := { bit := 0x150 * 8 + 0, w := 64, acc := .rw }
/-- R755. -/
def Reg.RS_DIGEST_LEN : Field := { bit := 0x158 * 8 + 0, w := 64, acc := .rw }
/-- R755. -/
def Reg.RS_DIGEST_DST : Field := { bit := 0x160 * 8 + 0, w := 64, acc := .rw }
/-- R755. -/
def Reg.RS_DIGEST_GO : Field := { bit := 0x168 * 8 + 0, w := 1, acc := .w1s }
/-- R755. -/
def Reg.RS_DIGEST_SHA : Field := { bit := 0x168 * 8 + 1, w := 1, acc := .rw }
/-- R755. -/
def Reg.RS_DIGEST_POISON : Field := { bit := 0x168 * 8 + 2, w := 1, acc := .w1c }
/-- R755. -/
def Reg.RS_DIGEST_CODE : Field := { bit := 0x168 * 8 + 16, w := 16, acc := .ro }
/-- R755. -/
def Reg.RS_RESOLVE : Field := { bit := 0x16C * 8 + 0, w := 2, acc := .wo }
/-- R755. -/
def Reg.RS_PEER_MODULE : Field := { bit := 0x180 * 8 + 0, w := 16, acc := .rw, n := 16, stride := 4 }
/-- R755. -/
def Reg.RS_PEER_VALID : Field := { bit := 0x180 * 8 + 31, w := 1, acc := .rw, n := 16, stride := 4 }
/-- R756. -/
def Reg.RS_ROUNDS : Field := { bit := 0x800 * 8 + 0, w := 64, acc := .cnt }
/-- R756. -/
def Reg.RS_ROUND_FAILS : Field := { bit := 0x808 * 8 + 0, w := 64, acc := .cnt }
/-- R756. -/
def Reg.RS_FIRST_TOUCH : Field := { bit := 0x810 * 8 + 0, w := 64, acc := .cnt }
/-- R756. -/
def Reg.RS_READY_HOLD_CYCLES : Field := { bit := 0x818 * 8 + 0, w := 64, acc := .cnt }
/-- R756. -/
def Reg.RS_COPIED_BYTES : Field := { bit := 0x820 * 8 + 0, w := 64, acc := .cnt }
/-- R756. -/
def Reg.RS_RESTORES : Field := { bit := 0x828 * 8 + 0, w := 64, acc := .cnt }
/-- R756. -/
def Reg.RS_TWIN_FORWARD_FAILS : Field := { bit := 0x830 * 8 + 0, w := 64, acc := .cnt }
/-- R217. -/
def Reg.MON_ARITH_INV_CLUSTERS : Field := { bit := 0x100 * 8 + 0, w := 9, acc := .ro }
/-- R217. -/
def Reg.MON_ARITH_FIRST_CLUSTER : Field := { bit := 0x100 * 8 + 9, w := 8, acc := .ro }
/-- R217. -/
def Reg.MON_ARITH_FIRST_VALID : Field := { bit := 0x100 * 8 + 17, w := 1, acc := .w1c }
/-- R520. -/
def Reg.RNG_SEED : Field := { bit := 0x110 * 8 + 0, w := 32, acc := .rws, guard := .gen }
/-- R520. -/
def Reg.RNG_STEP_TAG : Field := { bit := 0x114 * 8 + 0, w := 32, acc := .ro }
/-- R520. -/
def Reg.RNG_PROBE_KEY : Field := { bit := 0x118 * 8 + 0, w := 64, acc := .rw }
/-- R520. -/
def Reg.RNG_PROBE_CTR : Field := { bit := 0x120 * 8 + 0, w := 32, acc := .rw, n := 4, stride := 4 }
/-- R520. -/
def Reg.RNG_PROBE_OUT : Field := { bit := 0x130 * 8 + 0, w := 32, acc := .ro, n := 4, stride := 4 }
/-- R520. -/
def Reg.RNG_RESTORE : Field := { bit := 0x140 * 8 + 0, w := 64, acc := .wo }
/-- R520. -/
def Reg.RNG_RESTORE_STATUS_STATE : Field := { bit := 0x148 * 8 + 0, w := 2, acc := .ro }
/-- R520. -/
def Reg.RNG_RESTORE_STATUS_CODE : Field := { bit := 0x148 * 8 + 16, w := 16, acc := .ro }
/-- R520. -/
def Reg.LM_CTRL_SPIKE_HOLD : Field := { bit := 0x160 * 8 + 0, w := 1, acc := .rw }
/-- R520. -/
def Reg.LM_ALPHA : Field := { bit := 0x164 * 8 + 0, w := 32, acc := .rw }
/-- R520. -/
def Reg.LM_OMA : Field := { bit := 0x168 * 8 + 0, w := 32, acc := .rw }
/-- R520. -/
def Reg.LM_Z_HI : Field := { bit := 0x16C * 8 + 0, w := 32, acc := .rw }
/-- R520. -/
def Reg.LM_WARMUP : Field := { bit := 0x170 * 8 + 0, w := 32, acc := .rw }
/-- R520. -/
def Reg.LM_LOSS_IN : Field := { bit := 0x178 * 8 + 0, w := 64, acc := .wo }
/-- R520, R509. -/
def Reg.LM_MEAN : Field := { bit := 0x180 * 8 + 0, w := 32, acc := .rw, guard := .gen }
/-- R520, R509. -/
def Reg.LM_VAR : Field := { bit := 0x184 * 8 + 0, w := 32, acc := .rw, guard := .gen }
/-- R520, R509. -/
def Reg.LM_COUNT : Field := { bit := 0x188 * 8 + 0, w := 32, acc := .rw, guard := .gen }
/-- R520. -/
def Reg.LM_LAST : Field := { bit := 0x18C * 8 + 0, w := 32, acc := .ro }
/-- R520. -/
def Reg.LM_LAST_Z : Field := { bit := 0x190 * 8 + 0, w := 32, acc := .ro }
/-- R520. -/
def Reg.LM_LAST_STEP : Field := { bit := 0x194 * 8 + 0, w := 32, acc := .ro }
/-- R520. -/
def Reg.LM_STEP_NONFINITE : Field := { bit := 0x198 * 8 + 0, w := 32, acc := .ro }
/-- R821. -/
def Reg.MON_MARKER_GO : Field := { bit := 0x1A0 * 8 + 0, w := 1, acc := .w1s }
/-- R821. -/
def Reg.MON_MARKER_NUMBER : Field := { bit := 0x1A4 * 8 + 0, w := 32, acc := .ro }
/-- R821. -/
def Reg.MON_AUDIT_FAIL_BIT : Field := { bit := 0x1A8 * 8 + 0, w := 1, acc := .w1c }
/-- R821. -/
def Reg.MON_AUDIT_DONE : Field := { bit := 0x1A8 * 8 + 1, w := 1, acc := .ro }
/-- R821. -/
def Reg.MON_AUDIT_PASSED : Field := { bit := 0x1A8 * 8 + 2, w := 15, acc := .ro }
/-- R821. -/
def Reg.MON_AUDIT_SKIPPED : Field := { bit := 0x1A8 * 8 + 17, w := 15, acc := .ro }
/-- R821. -/
def Reg.MON_AUDIT_FAIL_CLASS : Field := { bit := 0x1AC * 8 + 0, w := 4, acc := .ro }
/-- R821. -/
def Reg.MON_AUDIT_FAIL_INSTANCE : Field := { bit := 0x1AC * 8 + 4, w := 24, acc := .ro }
/-- R520. -/
def Reg.RNG_SAMPLE : Field := { bit := 0x400 * 8 + 0, w := 32, acc := .rw, n := 255, stride := 4 }
/-- R521. -/
def Reg.LM_SPIKES : Field := { bit := 0x800 * 8 + 0, w := 64, acc := .cnt }
/-- R521. -/
def Reg.LM_NONFINITE_LOSS : Field := { bit := 0x808 * 8 + 0, w := 64, acc := .cnt }
/-- R521. -/
def Reg.LM_LATE : Field := { bit := 0x810 * 8 + 0, w := 64, acc := .cnt }
/-- R521. -/
def Reg.LM_MISSING : Field := { bit := 0x818 * 8 + 0, w := 64, acc := .cnt }
/-- R521. -/
def Reg.MON_TAIL_NONFINITE : Field := { bit := 0x820 * 8 + 0, w := 64, acc := .cnt }
/-- R823. -/
def Reg.MON_MARKERS : Field := { bit := 0x828 * 8 + 0, w := 64, acc := .cnt }
/-- R823. -/
def Reg.MON_AUDIT_FAILS : Field := { bit := 0x830 * 8 + 0, w := 64, acc := .cnt }
/-- R823. -/
def Reg.MON_MARKER_SKIPS : Field := { bit := 0x838 * 8 + 0, w := 64, acc := .cnt }
/-- R796. -/
def Reg.RC_REQ : Field := { bit := 0x100 * 8 + 0, w := 22, acc := .wo }
/-- R796. -/
def Reg.RC_STATUS_STATE : Field := { bit := 0x104 * 8 + 0, w := 2, acc := .ro }
/-- R796. -/
def Reg.RC_STATUS_QUEUE : Field := { bit := 0x104 * 8 + 2, w := 4, acc := .ro }
/-- R796. -/
def Reg.RC_STATUS_CODE : Field := { bit := 0x104 * 8 + 16, w := 16, acc := .ro }
/-- R796. -/
def Reg.RC_HEARTBEAT_COUNT : Field := { bit := 0x108 * 8 + 0, w := 24, acc := .ro }
/-- R796. -/
def Reg.RC_HEARTBEAT_PHASE : Field := { bit := 0x108 * 8 + 24, w := 2, acc := .ro, rst := 1 }
/-- R796. -/
def Reg.RC_WDOG_AUTO : Field := { bit := 0x10C * 8 + 0, w := 1, acc := .rws, rst := 1 }
/-- R796. -/
def Reg.RC_WDOG_HANG : Field := { bit := 0x10C * 8 + 1, w := 1, acc := .w1c }
/-- R796. -/
def Reg.RC_THROTTLE_THERMAL : Field := { bit := 0x110 * 8 + 0, w := 1, acc := .ro }
/-- R796. -/
def Reg.RC_THROTTLE_POWER : Field := { bit := 0x110 * 8 + 1, w := 1, acc := .ro }
/-- R796. -/
def Reg.RC_THROTTLE_SUPPLY : Field := { bit := 0x110 * 8 + 2, w := 1, acc := .ro }
/-- R796. -/
def Reg.RC_THROTTLE_WAKE : Field := { bit := 0x110 * 8 + 3, w := 1, acc := .ro }
/-- R796. -/
def Reg.RC_PSTATE_TARGET : Field := { bit := 0x114 * 8 + 0, w := 2, acc := .rw }
/-- R796. -/
def Reg.RC_PSTATE_STATE : Field := { bit := 0x114 * 8 + 2, w := 2, acc := .ro }
/-- R796. -/
def Reg.RC_PSTATE_STOP_PLL : Field := { bit := 0x114 * 8 + 4, w := 1, acc := .rw }
/-- R796. -/
def Reg.RC_PSTATE_IDLE_US : Field := { bit := 0x114 * 8 + 16, w := 16, acc := .rw, rst := 0x64 }
/-- R923. The value of the -LC part; the board strap decides (R923). -/
def Reg.PW_CAP_WATTS : Field := { bit := 0x140 * 8 + 0, w := 13, acc := .rws, rst := 4600 }
/-- R923. The value of the -LC part; the board strap decides (R923). -/
def Reg.PW_CAP_LIMIT : Field := { bit := 0x140 * 8 + 16, w := 13, acc := .ro, rst := 4600 }
/-- R923. The value of the -LC part; the board strap decides (R923). -/
def Reg.PW_CAP_EXTENDED : Field := { bit := 0x140 * 8 + 31, w := 1, acc := .ro }
/-- R923. -/
def Reg.PW_STATUS_WATTS : Field := { bit := 0x144 * 8 + 0, w := 13, acc := .ro }
/-- R923. -/
def Reg.PW_STATUS_VIN : Field := { bit := 0x144 * 8 + 16, w := 10, acc := .ro }
/-- R923. -/
def Reg.PW_STATUS_OVER_V : Field := { bit := 0x144 * 8 + 31, w := 1, acc := .ro }
/-- R923. -/
def Reg.PW_TEMP_DIE_C : Field := { bit := 0x148 * 8 + 0, w := 8, acc := .ro }
/-- R923. -/
def Reg.PW_TEMP_INLET_C : Field := { bit := 0x148 * 8 + 8, w := 8, acc := .ro }
/-- R923. -/
def Reg.PW_TEMP_OUTLET_C : Field := { bit := 0x148 * 8 + 16, w := 8, acc := .ro }
/-- R923. -/
def Reg.PW_THERMAL_THROTTLE_C : Field := { bit := 0x14C * 8 + 0, w := 8, acc := .rws, rst := 0x5F }
/-- R923. -/
def Reg.PW_THERMAL_TRIP_C : Field := { bit := 0x14C * 8 + 8, w := 8, acc := .ro, rst := 0x6E }
/-- R923. -/
def Reg.PW_CURRENT_DECI_A : Field := { bit := 0x150 * 8 + 0, w := 12, acc := .ro }
/-- R849. -/
def Reg.TR_STATUS_KEY_OK : Field := { bit := 0x180 * 8 + 0, w := 1, acc := .ro }
/-- R849. -/
def Reg.TR_STATUS_KEY_LOCKED : Field := { bit := 0x180 * 8 + 1, w := 1, acc := .ro }
/-- R849. -/
def Reg.TR_STATUS_DEBUG_OPEN : Field := { bit := 0x180 * 8 + 2, w := 1, acc := .ro }
/-- R849. -/
def Reg.TR_STATUS_QUEUE : Field := { bit := 0x180 * 8 + 3, w := 4, acc := .ro }
/-- R849. -/
def Reg.TR_STATUS_CODE : Field := { bit := 0x180 * 8 + 16, w := 16, acc := .ro }
/-- R849. -/
def Reg.TR_BOOT_SLOT : Field := { bit := 0x184 * 8 + 0, w := 1, acc := .ro }
/-- R849. -/
def Reg.TR_BOOT_FALLBACK : Field := { bit := 0x184 * 8 + 1, w := 1, acc := .ro }
/-- R849. -/
def Reg.TR_BOOT_RECOVERY : Field := { bit := 0x184 * 8 + 2, w := 1, acc := .ro }
/-- R849. -/
def Reg.TR_BOOT_ATTEMPTS : Field := { bit := 0x184 * 8 + 3, w := 2, acc := .ro }
/-- R849. -/
def Reg.TR_CB_SEQ : Field := { bit := 0x188 * 8 + 0, w := 32, acc := .ro }
/-- R849. -/
def Reg.TR_SVN : Field := { bit := 0x18C * 8 + 0, w := 32, acc := .ro }
/-- R849. -/
def Reg.TR_PUBKEY : Field := { bit := 0x1C0 * 8 + 0, w := 512, acc := .ro }
/-- R879. -/
def Reg.LK_MB_CMD : Field := { bit := 0x200 * 8 + 0, w := 32, acc := .rw, n := 16, stride := 4 }
/-- R879. -/
def Reg.LK_MB_RESP : Field := { bit := 0x240 * 8 + 0, w := 32, acc := .ro, n := 16, stride := 4 }
/-- R885. -/
def Reg.LK_MB_CTRL_GO : Field := { bit := 0x280 * 8 + 0, w := 1, acc := .w1s }
/-- R885. -/
def Reg.LK_MB_STATUS_STATE : Field := { bit := 0x284 * 8 + 0, w := 2, acc := .ro }
/-- R885. -/
def Reg.LK_MB_STATUS_CODE : Field := { bit := 0x284 * 8 + 16, w := 16, acc := .ro }
/-- R797. -/
def Reg.RC_LOCKS : Field := { bit := 0x800 * 8 + 0, w := 64, acc := .cnt }
/-- R797. -/
def Reg.RC_RESETS : Field := { bit := 0x808 * 8 + 0, w := 64, acc := .cnt }
/-- R797. -/
def Reg.RC_DRAIN_EXPIRED : Field := { bit := 0x810 * 8 + 0, w := 64, acc := .cnt }
/-- R797. -/
def Reg.RC_STRAY : Field := { bit := 0x818 * 8 + 0, w := 64, acc := .cnt }
/-- R797. -/
def Reg.RC_DUMPS : Field := { bit := 0x820 * 8 + 0, w := 64, acc := .cnt }
/-- R797. -/
def Reg.RC_LK_HANGS : Field := { bit := 0x828 * 8 + 0, w := 64, acc := .cnt }
/-- R850. -/
def Reg.TR_SIGNATURES : Field := { bit := 0x830 * 8 + 0, w := 64, acc := .cnt }
/-- R850. -/
def Reg.TR_IMAGE_FAILS : Field := { bit := 0x838 * 8 + 0, w := 64, acc := .cnt }
/-- R850. -/
def Reg.TR_DEBUG_OPENS : Field := { bit := 0x840 * 8 + 0, w := 64, acc := .cnt }
/-- R850. -/
def Reg.TR_DEBUG_FAILS : Field := { bit := 0x848 * 8 + 0, w := 64, acc := .cnt }
/-- R850. -/
def Reg.TR_SPDM_SESSIONS : Field := { bit := 0x850 * 8 + 0, w := 64, acc := .cnt }
/-- R924. -/
def Reg.PW_THROTTLE_MS : Field := { bit := 0x858 * 8 + 0, w := 64, acc := .cnt }
/-- R924. -/
def Reg.PW_TRIPS : Field := { bit := 0x860 * 8 + 0, w := 64, acc := .cnt }
/-- R924. -/
def Reg.PW_ENERGY_J : Field := { bit := 0x868 * 8 + 0, w := 64, acc := .cnt }
/-- R885. -/
def Reg.HI_STATUS_EQ_OVERFLOW : Field := { bit := 0x100 * 8 + 0, w := 1, acc := .w1c }
/-- R885. -/
def Reg.HI_APERTURE : Field := { bit := 0x108 * 8 + 30, w := 34, acc := .rw, rst := 0x40 }
/-- R885. -/
def Reg.HI_LAST_FAIL_CODE : Field := { bit := 0x110 * 8 + 0, w := 16, acc := .ro }
/-- R885. -/
def Reg.HI_LAST_FAIL_VALID : Field := { bit := 0x110 * 8 + 31, w := 1, acc := .w1c }
/-- R885. -/
def Reg.HI_LAST_ADDR : Field := { bit := 0x118 * 8 + 0, w := 64, acc := .ro }
/-- R885. -/
def Reg.HI_VMAP_INDEX : Field := { bit := 0x120 * 8 + 0, w := 13, acc := .rw }
/-- R885. -/
def Reg.HI_VMAP_DATA : Field := { bit := 0x124 * 8 + 0, w := 16, acc := .rw }
/-- R885. -/
def Reg.HI_EQ_BASE : Field := { bit := 0x128 * 8 + 0, w := 64, acc := .rw }
/-- R885. -/
def Reg.HI_EQ_CFG_ENABLE : Field := { bit := 0x130 * 8 + 0, w := 1, acc := .rw }
/-- R885. -/
def Reg.HI_EQ_CFG_LOG2 : Field := { bit := 0x130 * 8 + 1, w := 4, acc := .rw, rst := 8 }
/-- R885. -/
def Reg.HI_EQ_TAIL : Field := { bit := 0x134 * 8 + 0, w := 32, acc := .ro }
/-- R885. -/
def Reg.HI_EQ_HEAD : Field := { bit := 0x138 * 8 + 0, w := 32, acc := .rw }
/-- R886. -/
def Reg.HI_FAILS : Field := { bit := 0x800 * 8 + 0, w := 64, acc := .cnt }
/-- R886. -/
def Reg.HI_EQ_DROPS : Field := { bit := 0x808 * 8 + 0, w := 64, acc := .cnt }
/-- R886. -/
def Reg.HI_DOORBELL_REFUSED : Field := { bit := 0x810 * 8 + 0, w := 64, acc := .cnt }
/-- R886. -/
def Reg.HI_POISON_CPL : Field := { bit := 0x818 * 8 + 0, w := 64, acc := .cnt }

/-- The common header of every page (R888). -/
def headerFields : List Field :=
  [Reg.PAGE_ID_TYPE, Reg.PAGE_ID_INSTANCE, Reg.PAGE_VERSION_LAYOUT, Reg.PAGE_VERSION_STEPPING, Reg.PAGE_STATUS_DEFAULTED, Reg.PAGE_CTRL_INT_TEST, Reg.PAGE_INT_STATUS, Reg.PAGE_INT_ENABLE, Reg.PAGE_RESET_COUNT, Reg.PAGE_ERR_COUNT, Reg.PAGE_ERR_LOG, Reg.PAGE_MARKER_EPOCH, Reg.PAGE_LOCK_STATE, Reg.PAGE_LOCK_OWN, Reg.PAGE_LOCK_DRAIN_EXPIRED]
/-- The fields of the tile page (R898).: part 1. -/
def tileFields1 : List Field :=
  [Reg.HA_STATUS_BANK_VALID, Reg.HA_STATUS_BUSY, Reg.HA_STATUS_SPARE_ACTIVE, Reg.HA_STATUS_SPARE_COL_ACTIVE, Reg.HA_STATUS_FAULT, Reg.HA_STATUS_FAULT_COL, Reg.HA_STATUS_UNCOVERED, Reg.HA_SPARE_REQ, Reg.HA_SPARE_COL, Reg.HA_SPARE_PENDING, Reg.HA_TEST_START, Reg.HA_TEST_DONE, Reg.HA_TEST_PASS, Reg.ACC_SET_OWNED, Reg.ACC_SET_RELEASING, Reg.ACC_SET_JOIN, Reg.ACC_SET_PAIRED, Reg.ACC_SET_JOINS, Reg.ACC_SET_OWNER_TAG, Reg.AS_STATUS_INVALID, Reg.AS_STATUS_OVERFLOW, Reg.AS_STATUS_INVALID_SUM, Reg.AS_STATUS_POISON_DRAINED, Reg.WIT_CAPTURE, Reg.WIT_TAG, Reg.OVF_CAPTURE, Reg.SCHED_CTRL_START, Reg.SCHED_CTRL_STOP, Reg.SCHED_STATUS_STATE, Reg.SCHED_STATUS_FILL_OPEN, Reg.SCHED_STATUS_FILL_SET, Reg.SCHED_STATUS_IN_SEG, Reg.SCHED_STATUS_CREDIT_WAIT, Reg.SCHED_STATUS_HALT_CODE, Reg.SCHED_BASE, Reg.SCHED_PC_MAIN, Reg.SCHED_PC_SEG, Reg.SCHED_STEP, Reg.SCHED_FILL_HEAD, Reg.SCHED_FILL_TAIL]
/-- The fields of the tile page (R898).: part 2. -/
def tileFields2 : List Field :=
  [Reg.SCHED_COMP_COUNT, Reg.CH_STATUS_STATE, Reg.CH_STATUS_DIR, Reg.CH_STATUS_COUNT, Reg.CH_STATUS_UNGRANTED, Reg.CH_STATUS_MISMATCH, Reg.GEN_WIN_LO, Reg.GEN_WIN_HI, Reg.GEN_WIN_ENABLE, Reg.GEN_WIN_LEN, Reg.GEN_WIN_STRIDE, Reg.GEN_TSTATUS_MB_WAIT, Reg.GEN_TSTATUS_UPDATE_WAIT, Reg.GEN_TSTATUS_STATQ, Reg.GEN_TSTEP, Reg.GEN_MBMAP, Reg.WL_ERR_UNIT, Reg.WL_ERR_VALID, Reg.CH_MARK_COUNT, Reg.CH_MARK_INFLIGHT, Reg.CH_MARK_RETURNS, Reg.CH_MARK_AUDIT, Reg.INVALID_COUNT, Reg.OVERFLOW_COUNT, Reg.INVALID_SUM_COUNT, Reg.SCHED_PROGRESS, Reg.CREDIT_STALL, Reg.DATA_STALL, Reg.FILL_ISSUED, Reg.TAIL_NONFINITE, Reg.SEG_RUNS, Reg.SEG_ISSUED, Reg.WIN_OPS, Reg.WIN_PASSES, Reg.WL_CE, Reg.WL_UE, Reg.WL_ZERO_FILLS, Reg.WL_SCRUBBED]
/-- The fields of the tile page (R898). -/
def tileFields : List Field :=
  tileFields1 ++ tileFields2
/-- The fields of the cluster page (R898). -/
def clusterFields : List Field :=
  [Reg.CL_ARITH_INV_TILES, Reg.CL_ARITH_FIRST_TILE, Reg.CL_ARITH_FIRST_VALID, Reg.AW_STATUS_BUSY, Reg.AW_STATUS_QUEUE, Reg.AW_STATUS_LAST_FB_CODE, Reg.CL_TILE_MAP_SUBST_ACTIVE, Reg.CL_TILE_MAP_SUBST_LOGICAL, Reg.CL_TILE_MAP_PENDING, Reg.AW_PACKS, Reg.AW_UNPACKS, Reg.AW_IN_BYTES, Reg.AW_OUT_BYTES, Reg.AW_RAW_CHUNKS, Reg.AW_FALLBACKS, Reg.AW_SKIPS, Reg.AW_POISON_CHUNKS, Reg.AW_DROPS, Reg.CL_TAIL_NONFINITE]
/-- The fields of the attention page (R898). -/
def attentionFields : List Field :=
  [Reg.AP_CTRL_START, Reg.AP_CTRL_STOP, Reg.AP_STATUS_STATE, Reg.AP_STATUS_FALLBACK, Reg.AP_STATUS_INVALID, Reg.AP_STATUS_PINS, Reg.AP_STATUS_HALT_CODE, Reg.AP_PC, Reg.AP_STEP, Reg.AP_COMP_COUNT, Reg.AP_HA_BANK_VALID, Reg.AP_HA_BUSY, Reg.AP_HA_SPARE_ACTIVE, Reg.AP_HA_SPARE_COL_ACTIVE, Reg.AP_HA_FAULT, Reg.AP_HA_FAULT_COL, Reg.AP_HA_UNCOVERED, Reg.AP_HA_SPARE_REQ, Reg.AP_HA_SPARE_COL, Reg.AP_HA_SPARE_PENDING, Reg.AP_HA_TEST_START, Reg.AP_HA_TEST_DONE, Reg.AP_HA_TEST_PASS, Reg.AT_PROGRESS, Reg.AT_PASSES, Reg.AT_KEY_BLOCKS, Reg.AT_SKIPPED_BLOCKS, Reg.AT_PAD_BLOCKS, Reg.AT_FALLBACK_RUNS, Reg.AT_EMPTY_ROWS, Reg.AT_NONFINITE, Reg.AT_INVALID]
/-- The fields of the pump page (R898). -/
def pumpFields : List Field :=
  [Reg.PM_STATUS_BUSY, Reg.PM_STATUS_QUEUE, Reg.PM_SLOT_KIND, Reg.PM_SLOT_BUSY, Reg.PM_SLOT_DRY, Reg.PM_SUBMIT, Reg.PM_DESCS, Reg.PM_BYTES, Reg.PM_POISON_UNITS, Reg.PM_DEADLINE_MISSES, Reg.PM_SOURCE_DRY, Reg.PM_REFUSED]
/-- The fields of the handpump page (R898). -/
def handpumpFields : List Field :=
  [Reg.HP_CTRL_START, Reg.HP_CTRL_STOP, Reg.HP_STATUS_STATE, Reg.HP_STATUS_INVALID, Reg.HP_STATUS_HALT_CODE, Reg.HP_PC, Reg.HP_STEP, Reg.HP_COMP_COUNT, Reg.HP_PROGRESS, Reg.HP_PRODUCTS, Reg.HP_BOXES, Reg.HP_BAD_BOXES, Reg.HP_NONFINITE, Reg.HP_INVALID]
/-- The fields of the channel page (R898). -/
def channelFields : List Field :=
  [Reg.CH_STATE, Reg.CH_SELF_REFRESH, Reg.CH_CE_ALARM_BIT, Reg.CH_CE_ALARM_N, Reg.CH_ERR_ADDR, Reg.CH_ERR_ADDR_VALID, Reg.CH_READ_BYTES, Reg.CH_WRITE_BYTES, Reg.CH_CE, Reg.CH_UE, Reg.CH_POISON_READS, Reg.CH_RMW, Reg.CH_ZERO_FILLS, Reg.CH_SCRUBBED, Reg.CH_LATE_GRANTS]
/-- The fields of the port page (R898). -/
def portFields : List Field :=
  [Reg.KP_CTRL_ENABLE, Reg.KP_CTRL_AUTO_RETRAIN, Reg.KP_CTRL_DATELINE, Reg.KP_CTRL_RETRAIN, Reg.KP_STATUS_STATE, Reg.KP_STATUS_LASER, Reg.KP_PEER_MODULE, Reg.KP_PEER_PORT, Reg.KP_PEER_VALID, Reg.KP_LANE_MAP_TX, Reg.KP_LANE_MAP_RX, Reg.KP_SPARE_CFG_CW_LIMIT, Reg.KP_VC_CREDIT, Reg.KP_MARK_VC_CREDITS, Reg.KP_MARK_VC_BUFFERED, Reg.KP_TX_FLITS, Reg.KP_RX_FLITS, Reg.KP_FEC_CORRECTED, Reg.KP_FEC_UNCORR, Reg.KP_CRC_ERRORS, Reg.KP_REPLAYS, Reg.KP_RETRAINS, Reg.KP_SPARE_SWAPS, Reg.KP_TRANSIT_FLITS, Reg.KP_HOP_DROPS, Reg.KP_STRAY, Reg.KP_BAD_PACKETS]
/-- The fields of the decoder page (R898). -/
def decoderFields : List Field :=
  [Reg.VD_CTRL_ENABLE, Reg.VD_STATUS_QUEUE, Reg.VD_STATUS_BUSY, Reg.VD_STATUS_BUF_WAIT, Reg.VD_STATUS_RING_WAIT, Reg.VD_POOL_BASE, Reg.VD_POOL_CFG_COUNT, Reg.VD_POOL_CFG_SIZE, Reg.VD_RING_BASE, Reg.VD_RING_CFG_LOG2, Reg.VD_RING_TAIL, Reg.VD_RING_HEAD, Reg.VD_RELEASE, Reg.VD_REF_MARKS, Reg.VD_OUT_MARKS, Reg.VD_JOB_PORT, Reg.VD_FRAMES, Reg.VD_PIXELS, Reg.VD_DAMAGE, Reg.VD_CONCEALED, Reg.VD_REFUSED]
/-- The fields of the encoder page (R898). -/
def encoderFields : List Field :=
  [Reg.VE_CTRL_ENABLE, Reg.VE_STATUS_QUEUE, Reg.VE_STATUS_BUSY, Reg.VE_JOB_PORT, Reg.VE_FRAMES, Reg.VE_BYTES, Reg.VE_REENCODES, Reg.VE_CAP_MISSES, Reg.VE_REFUSED]
/-- The fields of the transform page (R898). -/
def transformFields : List Field :=
  [Reg.TF_FRAMES, Reg.TF_PIXELS]
/-- The fields of the wellhead page (R898). -/
def wellheadFields : List Field :=
  [Reg.WH_CTRL_ENABLE, Reg.WH_STATUS_QUEUE, Reg.WH_STATUS_BUSY, Reg.WH_STATUS_LOW, Reg.WH_PT_BASE, Reg.WH_POOL, Reg.WH_FREE_HEAD, Reg.WH_FREE, Reg.WH_DRAINING, Reg.WH_LOW_WATER, Reg.WH_TREE_BASE, Reg.WH_CMD_PORT, Reg.WH_CMDS, Reg.WH_HITS, Reg.WH_MISSES, Reg.WH_COLLISIONS, Reg.WH_COPIES, Reg.WH_REFUSED]
/-- The fields of the reduction page (R898). -/
def reductionFields : List Field :=
  [Reg.RD_CTRL_ENABLE, Reg.RD_STATUS_ACTIVE, Reg.RD_STATUS_RUNS_OPEN, Reg.RD_TABLE, Reg.RD_TABLE_COUNT, Reg.RD_DEADLINE, Reg.RD_LAST_FAIL_CODE, Reg.RD_LAST_FAIL_ENTRY, Reg.RD_STEP_NONFINITE, Reg.RD_GROUP_RANK, Reg.RD_GROUP_SIZE, Reg.RD_MAP, Reg.RD_RUNS, Reg.RD_CHUNKS_SENT, Reg.RD_CHUNKS_CLOSED, Reg.RD_ABSENT, Reg.RD_LATE, Reg.RD_STRAY, Reg.RD_WINDOW_MISMATCH, Reg.RD_OVERFLOWS, Reg.RD_CHECKSUM_FAILS]
/-- The fields of the cp page (R898). -/
def cpFields : List Field :=
  [Reg.WR_BASE, Reg.WR_CQ_BASE, Reg.WR_CFG_ENABLE, Reg.WR_CFG_LOC, Reg.WR_CFG_LOG2, Reg.WR_CFG_HALTED, Reg.WR_CFG_VECTOR, Reg.WR_HEAD, Reg.WR_TAIL]
/-- The fields of the hub page (R898). -/
def hubFields : List Field :=
  [Reg.MEM_SCRUB_RATE_GBH, Reg.MEM_SCRUB_WELL_PASS_S, Reg.MEM_ARB_BE_SLACK_US, Reg.MEM_RETIRE_CH, Reg.MEM_RETIRE_GO, Reg.MEM_RETIRE_STATUS_STATE, Reg.MEM_RETIRE_STATUS_CH, Reg.MEM_LIMIT, Reg.MEM_DISCARD, Reg.KL_MODULE, Reg.KL_CFG_HOP_LIMIT, Reg.KL_REQ_TIMEOUT, Reg.KL_RT_INDEX, Reg.KL_RT_DATA, Reg.KL_NOTICE_MODULE, Reg.KL_NOTICE_RELEASED, Reg.KL_NOTICE_VALID, Reg.KL_UNSENT]
/-- The fields of the cistern page (R898).: part 1. -/
def cisternFields1 : List Field :=
  [Reg.CI_CTRL_ENABLE, Reg.CI_CTRL_EXCL_DAMAGED, Reg.CI_CTRL_EXCL_LATE, Reg.CI_CTRL_ABANDON, Reg.CI_STATUS_READY, Reg.CI_STATUS_FILLING, Reg.CI_STATUS_LOW, Reg.CI_STATUS_BLOCKED, Reg.CI_BASE, Reg.CI_GEOM_SLOTS, Reg.CI_GEOM_DEPTH, Reg.CI_SLOT_BYTES, Reg.CI_SUB_BASE, Reg.CI_SUB_CFG_LOG2, Reg.CI_SUB_TAIL, Reg.CI_SUB_HEAD, Reg.CI_DECODERS_DEC, Reg.CI_DECODERS_XF, Reg.CI_BUDGET_MULT, Reg.CI_BUDGET_MIN_US, Reg.CI_MEAN, Reg.CI_LOW_WATER, Reg.CI_NOTIFY, Reg.CI_RETURN, Reg.CI_READY, Reg.CI_RETURNED, Reg.CI_NEXT_SAMPLE, Reg.CI_CURSOR_BASE, Reg.CI_RESTORE, Reg.CI_RESTORE_STATUS_STATE, Reg.CI_RESTORE_STATUS_CODE, Reg.CI_AUG, Reg.SS_BASE, Reg.SS_CFG_LOG2, Reg.SS_CFG_REC_BYTES, Reg.SS_TAIL, Reg.SS_HEAD, Reg.SS_OFFSET, Reg.SS_RATE, Reg.CI_SAMPLES]
/-- The fields of the cistern page (R898).: part 2. -/
def cisternFields2 : List Field :=
  [Reg.CI_DAMAGED, Reg.CI_SLOW, Reg.CI_LATE, Reg.CI_PADDED, Reg.CI_ERRORS, Reg.CI_REPEATED_FRAMES, Reg.SS_DISORDER]
/-- The fields of the cistern page (R898). -/
def cisternFields : List Field :=
  cisternFields1 ++ cisternFields2
/-- The fields of the generation page (R898). -/
def generationFields : List Field :=
  [Reg.GEN_CTRL_ENABLE, Reg.GEN_CTRL_AHEAD, Reg.GEN_CTRL_VETO_EN, Reg.GEN_COMMITTED, Reg.GEN_STATUS_PHASE, Reg.GEN_STATUS_STALL_FOURTH, Reg.GEN_STATUS_IN_DOUBT, Reg.GEN_STATUS_COORD, Reg.GEN_STEP, Reg.GEN_HOLD, Reg.GEN_VETO_THRESHOLD, Reg.GEN_GROUP_RANK, Reg.GEN_GROUP_SIZE, Reg.GEN_COORD_COORD_MODULE, Reg.GEN_COORD_DEPUTY_MODULE, Reg.GEN_DEADLINE, Reg.GEN_OPEN_LIST, Reg.GEN_OPEN_COUNT, Reg.GEN_ABORT_CAUSE, Reg.GEN_ABORT_RANK, Reg.GEN_ABORT_STEP, Reg.MB_BIND, Reg.GEN_MAP, Reg.MB_ENTRY_NEED, Reg.MB_ENTRY_DONE, Reg.MB_ENTRY_BOUND, Reg.MB_ENTRY_RETIRING, Reg.MB_ENTRY_SLOT, Reg.GEN_COMMITS, Reg.GEN_ABORTS, Reg.GEN_STALLS, Reg.GEN_STALL_CYCLES, Reg.GEN_STRAY]
/-- The fields of the resilience page (R898). -/
def resilienceFields : List Field :=
  [Reg.RS_CTRL_ENABLE, Reg.RS_CTRL_RESTORE, Reg.RS_CTRL_FILL, Reg.RS_CTRL_K, Reg.RS_STATUS_ROUND, Reg.RS_STATUS_NEWEST_SLOT, Reg.RS_STATUS_NEWEST_VALID, Reg.RS_STATUS_TWIN_STALE, Reg.RS_STATUS_RESTORE, Reg.RS_STATUS_CODE, Reg.RS_BUDDY, Reg.RS_TABLE, Reg.RS_TABLE_COUNT, Reg.RS_IMAGE_BASE, Reg.RS_IMAGE_BYTES, Reg.RS_NEXT_STEP, Reg.RS_ROUND_STEP, Reg.RS_RESTORE_STEP, Reg.RS_HOLD_BASE, Reg.RS_HOLD_BYTES, Reg.RS_DIGEST_SRC, Reg.RS_DIGEST_LEN, Reg.RS_DIGEST_DST, Reg.RS_DIGEST_GO, Reg.RS_DIGEST_SHA, Reg.RS_DIGEST_POISON, Reg.RS_DIGEST_CODE, Reg.RS_RESOLVE, Reg.RS_PEER_MODULE, Reg.RS_PEER_VALID, Reg.RS_ROUNDS, Reg.RS_ROUND_FAILS, Reg.RS_FIRST_TOUCH, Reg.RS_READY_HOLD_CYCLES, Reg.RS_COPIED_BYTES, Reg.RS_RESTORES, Reg.RS_TWIN_FORWARD_FAILS]
/-- The fields of the monitor page (R898).: part 1. -/
def monitorFields1 : List Field :=
  [Reg.MON_ARITH_INV_CLUSTERS, Reg.MON_ARITH_FIRST_CLUSTER, Reg.MON_ARITH_FIRST_VALID, Reg.RNG_SEED, Reg.RNG_STEP_TAG, Reg.RNG_PROBE_KEY, Reg.RNG_PROBE_CTR, Reg.RNG_PROBE_OUT, Reg.RNG_RESTORE, Reg.RNG_RESTORE_STATUS_STATE, Reg.RNG_RESTORE_STATUS_CODE, Reg.LM_CTRL_SPIKE_HOLD, Reg.LM_ALPHA, Reg.LM_OMA, Reg.LM_Z_HI, Reg.LM_WARMUP, Reg.LM_LOSS_IN, Reg.LM_MEAN, Reg.LM_VAR, Reg.LM_COUNT, Reg.LM_LAST, Reg.LM_LAST_Z, Reg.LM_LAST_STEP, Reg.LM_STEP_NONFINITE, Reg.MON_MARKER_GO, Reg.MON_MARKER_NUMBER, Reg.MON_AUDIT_FAIL_BIT, Reg.MON_AUDIT_DONE, Reg.MON_AUDIT_PASSED, Reg.MON_AUDIT_SKIPPED, Reg.MON_AUDIT_FAIL_CLASS, Reg.MON_AUDIT_FAIL_INSTANCE, Reg.RNG_SAMPLE, Reg.LM_SPIKES, Reg.LM_NONFINITE_LOSS, Reg.LM_LATE, Reg.LM_MISSING, Reg.MON_TAIL_NONFINITE, Reg.MON_MARKERS, Reg.MON_AUDIT_FAILS]
/-- The fields of the monitor page (R898).: part 2. -/
def monitorFields2 : List Field :=
  [Reg.MON_MARKER_SKIPS]
/-- The fields of the monitor page (R898). -/
def monitorFields : List Field :=
  monitorFields1 ++ monitorFields2
/-- The fields of the lockkeeper page (R898).: part 1. -/
def lockkeeperFields1 : List Field :=
  [Reg.RC_REQ, Reg.RC_STATUS_STATE, Reg.RC_STATUS_QUEUE, Reg.RC_STATUS_CODE, Reg.RC_HEARTBEAT_COUNT, Reg.RC_HEARTBEAT_PHASE, Reg.RC_WDOG_AUTO, Reg.RC_WDOG_HANG, Reg.RC_THROTTLE_THERMAL, Reg.RC_THROTTLE_POWER, Reg.RC_THROTTLE_SUPPLY, Reg.RC_THROTTLE_WAKE, Reg.RC_PSTATE_TARGET, Reg.RC_PSTATE_STATE, Reg.RC_PSTATE_STOP_PLL, Reg.RC_PSTATE_IDLE_US, Reg.PW_CAP_WATTS, Reg.PW_CAP_LIMIT, Reg.PW_CAP_EXTENDED, Reg.PW_STATUS_WATTS, Reg.PW_STATUS_VIN, Reg.PW_STATUS_OVER_V, Reg.PW_TEMP_DIE_C, Reg.PW_TEMP_INLET_C, Reg.PW_TEMP_OUTLET_C, Reg.PW_THERMAL_THROTTLE_C, Reg.PW_THERMAL_TRIP_C, Reg.PW_CURRENT_DECI_A, Reg.TR_STATUS_KEY_OK, Reg.TR_STATUS_KEY_LOCKED, Reg.TR_STATUS_DEBUG_OPEN, Reg.TR_STATUS_QUEUE, Reg.TR_STATUS_CODE, Reg.TR_BOOT_SLOT, Reg.TR_BOOT_FALLBACK, Reg.TR_BOOT_RECOVERY, Reg.TR_BOOT_ATTEMPTS, Reg.TR_CB_SEQ, Reg.TR_SVN, Reg.TR_PUBKEY]
/-- The fields of the lockkeeper page (R898).: part 2. -/
def lockkeeperFields2 : List Field :=
  [Reg.LK_MB_CMD, Reg.LK_MB_RESP, Reg.LK_MB_CTRL_GO, Reg.LK_MB_STATUS_STATE, Reg.LK_MB_STATUS_CODE, Reg.RC_LOCKS, Reg.RC_RESETS, Reg.RC_DRAIN_EXPIRED, Reg.RC_STRAY, Reg.RC_DUMPS, Reg.RC_LK_HANGS, Reg.TR_SIGNATURES, Reg.TR_IMAGE_FAILS, Reg.TR_DEBUG_OPENS, Reg.TR_DEBUG_FAILS, Reg.TR_SPDM_SESSIONS, Reg.PW_THROTTLE_MS, Reg.PW_TRIPS, Reg.PW_ENERGY_J]
/-- The fields of the lockkeeper page (R898). -/
def lockkeeperFields : List Field :=
  lockkeeperFields1 ++ lockkeeperFields2
/-- The fields of the host page (R898). -/
def hostFields : List Field :=
  [Reg.HI_STATUS_EQ_OVERFLOW, Reg.HI_APERTURE, Reg.HI_LAST_FAIL_CODE, Reg.HI_LAST_FAIL_VALID, Reg.HI_LAST_ADDR, Reg.HI_VMAP_INDEX, Reg.HI_VMAP_DATA, Reg.HI_EQ_BASE, Reg.HI_EQ_CFG_ENABLE, Reg.HI_EQ_CFG_LOG2, Reg.HI_EQ_TAIL, Reg.HI_EQ_HEAD, Reg.HI_FAILS, Reg.HI_EQ_DROPS, Reg.HI_DOORBELL_REFUSED, Reg.HI_POISON_CPL]
/-- The fields of a page by its type code (R898), the header apart. -/
def blockFields (code : Nat) : List Field :=
  match code with
  | 0x01 => tileFields
  | 0x02 => clusterFields
  | 0x03 => attentionFields
  | 0x04 => pumpFields
  | 0x05 => handpumpFields
  | 0x06 => channelFields
  | 0x07 => portFields
  | 0x08 => decoderFields
  | 0x09 => encoderFields
  | 0x0A => transformFields
  | 0x0B => wellheadFields
  | 0x0C => reductionFields
  | 0x0D => cpFields
  | 0x0E => hubFields
  | 0x0F => cisternFields
  | 0x10 => generationFields
  | 0x11 => resilienceFields
  | 0x12 => monitorFields
  | 0x13 => lockkeeperFields
  | 0x14 => hostFields
  | _ => []

end Sys2Proof.Machine
end

