-- ==== Sys2Proof/Machine/Types.lean ====
section
/-! DEFINITION. The plain-data parts of the state that the memory, the fabric, the optical ports and the host interface
hold beyond their register fields. -/

namespace Sys2Proof.Machine

/-- A requester: the directory number of the issuing unit's page (R677) and a number that tells its slots apart. -/
structure Who where
  page : Nat
  sub : Nat := 0
deriving DecidableEq, Repr

/-- What the module has sent to the outside, oldest first. -/
inductive Out where
  /-- A write to host memory, and whether relaxed ordering is set on it (R852). -/
  | hostWrite (addr : Nat) (data : List PByte) (relaxed : Bool)
  /-- A memory read TLP to host memory, with its tag. -/
  | hostRead (addr len tag : Nat)
  /-- A completion for a host read, with the EP bit. -/
  | hostCpl (data : List Byte) (ep : Bool)
  /-- A completion for a configuration request: Request Retry Status (R855), or what a read found. -/
  | cfgCpl (retry : Bool) (value : Option Nat)
  /-- An MSI-X message. -/
  | msix (vector addr data : Nat)
  /-- A 256-byte flit sent on a Kuslight port, with its logical lane and the wavelength that carries it (R656 to R658). -/
  | flit (port lane wave : Nat) (bytes : List Byte)
  /-- An answer of the SMBus target. -/
  | sideband (bytes : List Byte)
  /-- An answer of the SPDM responder: its response code, and the content that the spec gives it. -/
  | spdm (kind : Nat) (data : List Byte)
  /-- An answer of the debug port (R846). -/
  | debugPort (bytes : List Byte)
deriving DecidableEq, Repr

/-- The wells and the GDDR7 data view (R48, R627), by local address. -/
structure Mem where
  /-- Bytes that are not zero. -/
  cells : List Host.Cell := []
  /-- Valid bits of 256-byte well granules, by local address / 256 (R627). -/
  wellValid : List (Nat × Bool) := []
  /-- Valid bits of 4 KiB data-view pages, by data-view offset / 4 096 (R627). -/
  pageValid : List (Nat × Bool) := []
  /-- 64-byte units stored poisoned, by local address / 64 (R620). -/
  poison : List (Nat × Bool) := []
  /-- Bad bits of the stored 80-bit words, by local address / 8: bits [63:0] data, [79:64] check (R623). -/
  flips : List (Nat × Nat) := []
  /-- Next data-view granule of the GDDR7 scrubber (R642). -/
  scrubNext : Nat := 0
  /-- Next well granule of each cluster's scrubber (R643). -/
  wellScrubNext : List (Nat × Nat) := []
  /-- Relocated granules that migration has passed, as the next k of R639. -/
  migrateK : Nat := 0
  /-- Corrected errors of each channel since the last clear of its alarm (R647). -/
  ceSince : List (Nat × Nat) := []
  /-- 64 KiB pages under the write protection of a running round, by local address / 65 536 (R724, R737). -/
  wprot : List (Nat × Bool) := []
deriving DecidableEq, Repr

/-- A request that has left for a peer or for the host and has no response yet (R681, R854). -/
structure Outstanding where
  tag : Nat
  who : Who
  /-- Its place in the order in which the requester issued its requests. -/
  ord : Nat := 0
  kind : ReqKind
  host : Bool := false
  dst : Nat
  addr : Nat
  len : Nat
  port : Nat := 0
  /-- Its requester's domain has reached a lock point since (R762). -/
  stale : Bool := false
deriving DecidableEq, Repr

/-- Data that a completed read delivered to its requester, or its completion code. -/
structure Arrived where
  who : Who
  host : Bool := false
  addr : Nat
  len : Nat
  code : Nat
  data : List PByte
deriving DecidableEq, Repr

/-- An atomic wrapping 32-bit add on its way to its word (R230). -/
structure Add where
  who : Who
  addr : Nat
  val : Nat
  /-- Its place in the order of issue. -/
  ord : Nat := 0
  /-- Module and tag of the peer that waits for the response. -/
  resp : Option (Nat × Nat) := none
  /-- Its requester's domain has reached a lock point since (R762). -/
  stale : Bool := false
deriving DecidableEq, Repr

/-- A write on its way to a register page, by BAR0 offset. -/
structure RegWrite where
  who : Who
  off : Nat
  data : List Byte
  /-- Its place in the order of issue. -/
  ord : Nat := 0
  /-- Its requester's domain has reached a lock point since (R762). -/
  stale : Bool := false
deriving DecidableEq, Repr

/-- A write that a unit has issued and that waits: for a cluster that wakes, a channel that trains, a page under write
protection, or an earlier request of its master to the same 64-byte unit (R57, R636, R738, R792). By global address. -/
structure HeldWrite where
  who : Who
  addr : Nat
  data : List PByte
  ord : Nat := 0
  /-- Its requester's domain has reached a lock point since (R762). -/
  stale : Bool := false
deriving DecidableEq, Repr

/-- A failed write or add: its requester, its place in the order of issue, its code. -/
structure WriteErr where
  who : Who
  ord : Nat
  code : Nat
deriving DecidableEq, Repr

/-- A link that a packet crosses: a mesh link of a compute die between two of its routers, by die-local index (R22, R24),
or an attach port of a die bridge (R20, R25). -/
inductive Hop where
  | mesh (die src dst : Nat)
  | bridge (db port : Nat)
deriving DecidableEq, Repr

/-- Requests under way in the fabric. -/
structure Bus where
  nextTag : Nat := 0
  /-- Number of the next write or add in the order of issue. -/
  nextOrd : Nat := 0
  /-- Slack in ns that the requests of the work in progress carry, plus one; 0 = the best-effort slack (R613, R616). -/
  slack : Nat := 0
  outstanding : List Outstanding := []
  arrived : List Arrived := []
  /-- Of the writes of each requester that failed and that it has not yet looked at, the one issued first (R201, R936). -/
  writeErr : List WriteErr := []
  /-- Writes that wait, in order of issue. -/
  held : List HeldWrite := []
  adds : List Add := []
  regq : List RegWrite := []
  /-- Source port last granted at each arbitration point (R617). -/
  granted : List (Nat × Nat) := []
  /-- What is left of the slack of the request last granted at each point: it carries that to the next one (R617). -/
  passedOn : List (Nat × Int) := []
  /-- The links that the latest request on the module has crossed, in order (R26). -/
  path : List Hop := []
deriving DecidableEq, Repr

/-- A flit waiting to be sent or acknowledged. -/
structure TxFlit where
  seq : Nat := 0
  vc : Nat
  sop : Bool
  payload : List Byte
  replays : Nat := 0
  /-- The credits that it returns: its channel and how many. A replay changes nothing in them. -/
  crVc : Nat := 0
  crCount : Nat := 0
deriving DecidableEq, Repr

/-- A data flit buffered at this receiver. -/
structure RxFlit where
  vc : Nat
  sop : Bool
  payload : List Byte
deriving DecidableEq, Repr

/-- The link layer of a Kuslight port beyond its page (R658 to R675). -/
structure Port where
  /-- Flits sent and flits arrived since the port entered LINK: flit k travels on lane k mod 8 (R657). -/
  sent : Nat := 0
  heard : Nat := 0
  /-- Sequence number of the next data flit. -/
  txSeq : Nat := 0
  /-- Sequence number of the last data flit received in order. -/
  rxSeq : Nat := 0xFFFF
  /-- Discarding until the sender replays (R661). -/
  discarding : Bool := false
  /-- Flits that wait for credits, oldest first. -/
  waiting : List TxFlit := []
  /-- Flits sent and not yet acknowledged, oldest first (R662). -/
  unacked : List TxFlit := []
  /-- Credits this sender holds, by virtual channel. -/
  credits : List (Nat × Nat) := []
  /-- Flits buffered at this receiver, oldest first (R667). -/
  rx : List RxFlit := []
  /-- Credits freed and not yet returned, by virtual channel. -/
  owed : List (Nat × Nat) := []
  /-- The peer's HELLO of this LINK has come; this receiver has sent its GRANT, and has received the peer's. -/
  greeted : Bool := false
  grantSent : Bool := false
  granted : Bool := false
  /-- Sending is paused for a spare switch (R674). -/
  paused : Bool := false
  /-- Receive lane that has failed and is being switched, plus one; 0 = none. -/
  failing : Nat := 0
deriving DecidableEq, Repr

/-- The hubs' link state beyond their pages. -/
structure Link where
  ports : List (Nat × Port) := []
  /-- Routing entries of both hubs, by module number (R676). -/
  routes : List (Nat × Nat) := []
  /-- Modules marked locked (R684). -/
  marks : List (Nat × Bool) := []
deriving DecidableEq, Repr

/-- One MSI-X table entry with its pending bit. -/
structure Msix where
  addr : Nat := 0
  data : Nat := 0
  masked : Bool := true
  pend : Bool := false
deriving DecidableEq, Repr

/-- A work-ring entry that has been read and runs (R870). -/
structure RingEntry where
  busy : Bool := false
  op : Nat := 0
  flags : Nat := 0
  tag : Nat := 0
  addr : Nat := 0
  arg0 : Nat := 0
  arg1 : Nat := 0
  code : Nat := 0
  finished : Bool := false
  stage : Nat := 0
  /-- EXPORT: digest of the header and table, and where the signature goes. -/
  digest : List Byte := []
  signAt : Nat := 0
  toHost : Bool := false
deriving DecidableEq, Repr

/-- The endpoint and the command processors beyond their pages. -/
structure HostIf where
  /-- Vector map entries by directory number (R876). -/
  vmap : List (Nat × Nat) := []
  msix : List (Nat × Msix) := []
  rings : List (Nat × RingEntry) := []
  /-- The ring that each command processor served last (R870). -/
  served : List (Nat × Nat) := []
  /-- What the host has written to the function's configuration space, by doubleword (R851, R858). -/
  cfg : List (Nat × Nat) := []
  /-- PERST_N is asserted. -/
  perst : Bool := false
  /-- The Lockkeeper has loaded the endpoint's settings (R855). -/
  settings : Bool := true
deriving DecidableEq, Repr

/-- An event that Lockkeeper firmware has still to journal (R820). -/
structure JournalEvent where
  kind : Nat
  code : Nat
  unit : Nat
  data : Nat
deriving DecidableEq, Repr

/-- A journal entry in flash (R819). -/
structure JournalEntry where
  seq : Nat
  minute : Nat
  ev : JournalEvent
deriving DecidableEq, Repr

/-- One copy of the life-log summary in flash: its fields by offset (R816). -/
structure LifeCopy where
  valid : Bool := false
  seq : Nat := 0
  fields : List (Nat × Nat) := []
deriving DecidableEq, Repr

/-- The life log (Counters, Markers and Life Histograms). -/
structure LifeLog where
  /-- Summary fields as firmware holds them, by offset in the summary. -/
  live : List (Nat × Nat) := []
  /-- Samples of a second taken in all (R816). -/
  seconds : Nat := 0
  copyA : LifeCopy := {}
  copyB : LifeCopy := {}
  journal : List JournalEntry := []
  nextEntry : Nat := 0
  waiting : List JournalEvent := []
  /-- Entries appended in the present second (R820). -/
  thisSecond : Nat := 0
deriving DecidableEq, Repr

end Sys2Proof.Machine
end

