-- ==== Sys2Proof/Machine/UnitTypes.lean ====
section
/-! DEFINITION. The plain-data parts of the state that the tiles and the generation unit hold beyond their registers. -/

namespace Sys2Proof.Machine

/-! ### Micro-batches, steps and statistics (Weight Generations and Step Commit) -/

/-- What a bound micro-batch is bound to (R296): its generation, its step in mode 0, its sample base (R499). -/
structure Bind where
  seq : Nat
  gen : Nat
  step : Option Nat
  sample : Nat
deriving DecidableEq, Repr

/-- The counts of one operation on their way to a statistics record (R105, R307, R308). -/
structure StatAdd where
  /-- The page whose statistics queue it uses, and the converting unit's. -/
  page : Nat
  unit : Nat
  step : Nat
  /-- Slot 0 of the statistics record. -/
  addr : Nat
  /-- Slot 0 of the output's scale record, none with `COARSE_ONE` (R112). -/
  scale : Option Nat
  crushed : Nat
  clipped : Nat
  nonfinite : Nat
  flushed : Nat
  overflow : Nat
  zeroBlocks : Nat
  nanBlocks : Nat
  amax : Nat
  blocks : Nat
  hist : List (Nat × Nat)
deriving DecidableEq, Repr

/-- A step that is open and not resolved, with the generation its micro-batches read (R313). -/
structure OpenStep where
  step : Nat
  gen : Nat
deriving DecidableEq, Repr

/-- A decision on a step (R325). -/
structure Decision where
  step : Nat
  commit : Bool
  gen : Nat := 0
  cause : Nat := 0
  rank : Nat := 0
deriving DecidableEq, Repr

/-- An entry of the open list as the opening of a pending slot took it (R316). -/
structure OpenEntry where
  kind : Nat
  addr : Nat
  len : Nat
  stride : Nat
  pair : Nat
deriving DecidableEq, Repr

/-- The generation unit beyond its page. -/
structure GenUnit where
  nextSeq : Nat := 1
  binds : List (Nat × Bind) := []
  /-- Bind each unit's copy shows, by page * 256 + micro-batch: the bind's `seq` (R299). -/
  copies : List (Nat × Nat) := []
  /-- Steps open and not resolved, oldest first; the pending slot is the oldest one's. -/
  opened : List OpenStep := []
  /-- Statistics adds waiting for their pending slot, oldest first (R308). -/
  statq : List StatAdd := []
  /-- The open list of the present pending slot has been copied; its entries. -/
  copied : Bool := false
  listed : List OpenEntry := []
  /-- First cause of a veto of each open step (R322), sent or not. -/
  vetoes : List (Nat × Nat) := []
  /-- Units that have begun a pass of an open step: page and step. -/
  took : List (Nat × Nat) := []
  /-- Units that have finished their pass, by page: last step finished plus one. -/
  finished : List (Nat × Nat) := []
  /-- The ready conditions of the present step have been met and evaluated; READY or VETO has been sent. -/
  evaluated : Bool := false
  vetoSent : Bool := false
  readySent : Bool := false
  /-- Coordinator: ranks whose READY it holds, its decision, and whether the members have been told. -/
  readyRanks : List Nat := []
  decision : Option Decision := none
  told : Bool := false
  /-- Member: an abort is decided and waits for the units to finish their pass (R333). -/
  aborting : Option Decision := none
  /-- Decisions that this module has applied, oldest first (R329, R330). -/
  history : List Decision := []
  /-- Steps for which a lock of the module keeps a deputy from answering or deciding (R329). -/
  cut : List Nat := []
deriving DecidableEq, Repr

/-! ### Tiles -/

/-- An instruction that a tile's scheduler has issued (R225, R242). -/
structure Issued where
  /-- Issue order within the tile. -/
  seq : Nat
  opc : Nat
  flags : Nat := 0
  mb : Nat := 0xFF
  index : Nat := 0
  /-- `C_FLAGS`: bit 0 fill ring, bit 1 segment. -/
  place : Nat := 0
  tag : Nat := 0
  step : Nat := 0
  /-- h mod 3 for the slot its reads use (R302, R306). -/
  slot : Nat := 0
  /-- Sample base of its micro-batch and step of the pass (R495). -/
  sample : Nat := 0xFFFFFFFF
  pass : Nat := 0
  /-- Step whose pending slot takes its statistics adds (R307). -/
  stats : Option Nat := none
  /-- First failing code so far. -/
  code : Nat := 0
deriving DecidableEq, Repr

/-- A stationary operand: exact element values by row, and whether a poisoned unit went into it (R113, R139). -/
structure Bank where
  fmt : Nat := 0
  /-- Element codes by row, and their S8 codes. -/
  codes : List (List Nat) := []
  s8 : List (List Nat) := []
  poison : Bool := false
  /-- Issue number of the operation that loaded it. -/
  by_ : Nat := 0
deriving DecidableEq, Repr

/-- An operation in the hinge array (R144). -/
structure ArrayOp where
  ins : Issued
  desc : List Byte
  /-- Window descriptor; empty where the operation has none (R457). -/
  win : List Byte := []
  cab : Nat
  /-- Its issue made the set owned: it waits for earlier releases of the set (R183). -/
  owns : Bool := false
  /-- Passes loaded, pass that drives, next vector of that pass. -/
  loads : Nat := 0
  pass : Nat := 0
  next : Nat := 0
  /-- A parity mismatch was found while it drove: it poisons every row it adds into (R170). -/
  bad : Bool := false
  /-- It has written its last row, or finished its load. -/
  done : Bool := false
deriving DecidableEq, Repr

/-- A DRAIN or TAIL instruction in the epilogue queue (R285). -/
structure EpiOp where
  ins : Issued
  desc : List Byte
  tail : Bool
  /-- Accumulator set it reads, plus one; 0 = none. -/
  set : Nat := 0
  release : Bool := false
  paired : Bool := false
  /-- Credits of its output channel that it took at issue and has not spent (R236). -/
  taken : Nat := 0
  coarse : Nat := 0
  srcCoarse : Nat := 0
  auxCoarse : Nat := 0
  /-- It has read its last row, or all its source. -/
  started : Bool := false
  /-- Source records consumed from a channel, with their poison. -/
  buf : List (List Byte × Bool) := []
  stats : List StatAdd := []
  statsDone : Bool := false
deriving DecidableEq, Repr

/-- A SEND or RECV in the copy queue. -/
structure CopyOp where
  ins : Issued
  at_ : Nat
  chan : Nat
  left : Nat
deriving DecidableEq, Repr

/-- A slot that a receive endpoint has filled: its record count, poison by record, records consumed (R253). -/
structure RxSlot where
  seq : Nat
  count : Nat
  poison : List Bool
  used : Nat := 0
deriving DecidableEq, Repr

/-- An open request that waits at a receive endpoint (R257). -/
structure OpenReq where
  tile : Nat
  ch : Nat
  session : Nat
deriving DecidableEq, Repr

/-- A channel endpoint beyond `CH_STATUS` (R249, R257). -/
structure Chan where
  send : Bool := false
  /-- The opening it belongs to: the number that the send endpoint took, 0 before any (R257, log 75). -/
  session : Nat := 0
  recBytes : Nat := 0
  recs : Nat := 0
  slots : Nat := 0
  buf : Nat := 0
  peerCl : Nat := 0
  peerCh : Nat := 0
  peerMask : Nat := 0
  /-- Send: credits, messages sent, credits received, geometry granted, by physical tile of the peer cluster. -/
  credits : List (Nat × Nat) := []
  sent : List (Nat × Nat) := []
  back : List (Nat × Nat) := []
  lent : List (Nat × Nat) := []
  /-- Send: receivers that have answered, those that refused, and those whose lock is not over (R260). -/
  answered : Nat := 0
  refused : Nat := 0
  locked : Nat := 0
  nextSeq : Nat := 0
  /-- Credits that issued instructions have taken and not yet spent (R236). -/
  reserved : Nat := 0
  /-- Receive: filled slots in sequence order, next sequence number consumed, messages received, slots freed. -/
  filled : List RxSlot := []
  nextRead : Nat := 0
  got : Nat := 0
  returned : Nat := 0
  waiting : List OpenReq := []
  /-- Marker latch (R803, R810): received, returned and `UNGRANTED` counts; the sender's credits once its notice is
  in, plus one. -/
  markGot : Nat := 0
  markReturned : Nat := 0
  markUngranted : Nat := 0
  markCredits : Nat := 0
deriving DecidableEq, Repr

/-- What a message between channel endpoints carries (R253 to R263, R804). -/
inductive ChanBody where
  | data (seq count : Nat) (poison : List Bool) (bytes : List Byte) (op : Nat)
  | credit
  | openReq (rec recs : Nat)
  | grant (rec recs slots : Nat)
  | refuse
  | notice (epoch credits sent back : Nat)
deriving DecidableEq, Repr

/-- A message on its way between endpoints of two tiles, with the opening it belongs to (log 75) and its sender's marker
number (R802). -/
structure ChanMsg where
  session : Nat
  /-- Its place in the order of issue. -/
  ord : Nat := 0
  tile : Nat
  ch : Nat
  toTile : Nat
  toCh : Nat
  stamp : Nat
  body : ChanBody
deriving DecidableEq, Repr

/-- A tile beyond its page. -/
structure Tile where
  /-- The program header as `START` read it (R223). -/
  mainBase : Nat := 0
  mainLen : Nat := 0
  fillBase : Nat := 0
  fillLen : Nat := 0
  chanBase : Nat := 0
  chanCount : Nat := 0
  compBase : Nat := 0
  compLen : Nat := 0
  /-- Segment start and length while `IN_SEG` is 1 (R238). -/
  segBase : Nat := 0
  segLen : Nat := 0
  nextSeq : Nat := 0
  /-- Next instructions of the main list and of the segment, which `SCHED_PC` shows in 16 bits. -/
  mainIdx : Nat := 0
  segIdx : Nat := 0
  /-- A STOP waits for the next STEP_END; a START waits for the step boundary. -/
  stopping : Bool := false
  starting : Bool := false
  /-- The next pass is the first after START (R319). -/
  fresh : Bool := false
  /-- A START has taken effect and no STOP or reset since (log 30). -/
  loaded : Bool := false
  /-- What the heads of the main list and of the fill ring wait for: 0 nothing that a status bit shows, 1 credits, 2 a
  binding, 3 a pending slot (R288, R341). -/
  mainWait : Nat := 0
  ringWait : Nat := 0
  live : List Issued := []
  array : List ArrayOp := []
  epi : List EpiOp := []
  copy : List CopyOp := []
  /-- Releases issued and not yet in effect: set, and whether the last row has been read (R182, R200). -/
  releases : List (Nat × Nat × Bool) := []
  banks : List (Nat × Bank) := []
  /-- Accumulator elements by (set * 256 + row) * 64 + lane, and poisoned rows by set * 256 + row. -/
  acc : List (Nat × Nat) := []
  accPoison : List (Nat × Bool) := []
  chans : List (Nat × Chan) := []
deriving DecidableEq, Repr

/-! ### Pumps (Pumps, GDDR7 and Well Memory; Activation Wells) -/

/-- A descriptor in a transfer slot of a pump, or one that the packer executes (R343, R599). -/
structure Xfer where
  desc : List Byte
  /-- Its address, the issuing tile and the PUMP instruction's issue number, or the completion record (R600, R601). -/
  addr : Nat
  tile : Option (Nat × Nat) := none
  record : Nat := 0
  mb : Nat := 0xFF
  slot : Nat := 0
  sample : Nat := 0xFFFFFFFF
  pass : Nat := 0
  stats : Option Nat := none
  /-- Checked and started; its work done; its completion code; its signal add sent. -/
  started : Bool := false
  finished : Bool := false
  code : Nat := 0
  signaled : Bool := false
  adds : List StatAdd := []
  bytes : Nat := 0
  /-- Stream: records taken and delivered, the last words read at the tail and head, records since the start. -/
  taken : Nat := 0
  delivered : Nat := 0
  srcTail : Nat := 0
  dstHead : Nat := 0
  count : Nat := 0
  dry : Bool := false
  stopped : Bool := false
  /-- A record is copied and its words are still to be written. -/
  copied : Bool := false
  /-- Packer: it has fallen back (R375); steps of R353 done, and the header it writes. -/
  fell : Bool := false
  stage : Nat := 0
  header : List Byte := []
deriving DecidableEq, Repr

/-- A pump beyond its page: its slots, its submissions (descriptor and record address), packer order (R344, R601), and
completions on their way to the issuing tiles: tile, issue number, code (R600). -/
structure Pump where
  slots : List (Nat × Xfer) := []
  queue : List (Nat × Nat) := []
  packs : List Nat := []
  reports : List (Nat × Nat × Nat) := []
deriving DecidableEq, Repr

/-! ### Attention (Attention Pipelines and KV Pages) -/

/-- One pass of an attention descriptor: a sequence with its record, its query rows as (head, query block) pairs, how many
key blocks it meets (R398, R401). One without rows stands for the passes that the fallback has still to generate from the
sequence's record (R402). -/
structure AtPass where
  seq : Nat
  record : List Byte := []
  pairs : List (Nat × Nat) := []
  blocks : Nat := 0
deriving DecidableEq, Repr

/-- A query of a pass and what its sums hold: m, l, o. -/
structure AtRow where
  head : Nat
  row : Nat
  /-- Exact elements of the query's slices, and in backward mode of its output gradient's. -/
  q : List (List Val)
  g : List (List Val) := []
  m : Nat := 0xFF800000
  l : Nat := 0
  d : Nat := 0
  o : List Nat := []
  poison : Bool := false
deriving DecidableEq, Repr

/-- A pass under way: its mask, the coarse scales of queries, output gradients and outputs, the key block it meets, and
how far it is with that block: 0 not met, 1 its pages are being pinned, 2 they are being unpinned. -/
structure PassRun where
  mask : List Byte
  cq : Nat
  cv : Option Nat
  co : Nat
  block : Nat := 0
  stage : Nat := 0
  /-- Pages still to be pinned: handle and serial. -/
  want : List (Nat × Nat) := []
  /-- Pages loaded into the arrays, and whether a drive found a parity mismatch (R170). -/
  loads : Nat := 0
  fault : Bool := false
  stats : Stats := {}
  code : Nat := 0
deriving DecidableEq, Repr

/-- An attention descriptor that has started (R388). -/
structure AtRun where
  desc : List Byte
  index : Nat := 0
  slot : Nat := 0
  sample : Nat := 0xFFFFFFFF
  pass : Nat := 0
  stats : Option Nat := none
  /-- It runs by the length-table fallback; passes still to run. -/
  fallback : Bool := false
  passes : List AtPass := []
  cur : Option PassRun := none
  code : Nat := 0
  adds : List StatAdd := []
deriving DecidableEq, Repr

/-- An attention pipeline or a handpump beyond its page: its program store, its header as `START` read it, its
descriptor. Of the last fields four are a pipeline's alone (R382), one a handpump's (R468). -/
structure Pipe where
  store : List (Nat × Byte) := []
  list : Nat := 0
  count : Nat := 0
  comp : Nat := 0
  compLen : Nat := 0
  /-- Where the loaded image keeps its header (R384). -/
  header : Nat := 0
  starting : Bool := false
  stopping : Bool := false
  fresh : Bool := false
  loaded : Bool := false
  run : Option AtRun := none
  /-- Stationary banks: 0 and 1 of the score array, 2 and 3 of the value array. -/
  banks : List (Nat × Bank) := []
  /-- The query buffer and the output accumulator, a query of the pass after another. -/
  rows : List AtRow := []
  /-- The staging buffer: the key and value halves fetched last, with their block scales. -/
  staging : List (List PByte) := []
  /-- Pages that the pipeline holds pinned, in the order pinned: handle and serial (R444). -/
  pins : List (Nat × Nat) := []
  /-- A handpump's accumulator: the sums it formed last, at most 8 x 64 (R468, log 81). -/
  sums : List Nat := []
deriving DecidableEq, Repr

/-! ### Media engines (Video Decode and Encode) -/

/-- A decoded picture that waits for its frame entry (R540): buffer, output and decode index, flags, size, units
concealed. -/
structure WaitingPic where
  buf : Nat
  output : Nat
  decode : Nat
  flags : Nat
  size : Nat
  form : Nat
  concealed : Nat
deriving DecidableEq, Repr

/-- A decoder beyond its page: queued jobs, the running job, the next output index it delivers, pictures that wait, ring
entries that wait for room, buffers whose picture is damaged or tainted, buffers that the reference rules hold, buffers in
decode order (latest first), whether the stream has ended, and whether the damage of the next picture has been entered. -/
structure Decoder where
  queue : List (List Byte) := []
  job : Option (List Byte) := none
  nextOut : Nat := 0
  waiting : List WaitingPic := []
  out : List (List Byte) := []
  dirty : List Nat := []
  held : List Nat := []
  recent : List Nat := []
  ended : Bool := false
  reported : Bool := false
deriving DecidableEq, Repr

/-- An encoder beyond its page: queued jobs, the running job, frames and bytes written, bits of the frames of the present
window (latest first), the quantiser boost, cap misses, the code the job ends with when it has ended; the frames since the
last key frame with their quantisers (latest first); jobs that have ended before their turn, with code, frames, bytes and
misses. -/
structure Encoder where
  queue : List (List Byte) := []
  job : Option (List Byte) := none
  frames : Nat := 0
  bytes : Nat := 0
  window : List Nat := []
  boost : Nat := 0
  misses : Nat := 0
  ended : Option Nat := none
  past : List (List Nat × Nat) := []
  results : List (List Byte × Nat × Nat × Nat × Nat) := []
deriving DecidableEq, Repr

/-! ### The cistern (The Cistern Input Pipeline) -/

/-- A frame handed to a transform unit (R568): its sample, its place in the slot, decoder and buffer, transform unit, and
the picture's geometry. -/
structure CiFrame where
  sample : Nat
  f : Nat
  dec : Nat
  buf : Nat
  unit : Nat
  width : Nat
  height : Nat
  depth : Nat
  chroma : Nat
deriving DecidableEq, Repr

/-- A sample of the cistern: its number, submission and transform descriptors, refusal code, index of its free values. -/
structure CiSample where
  num : Nat
  desc : List Byte
  xform : List Byte := []
  code : Nat := 0
  free : Nat := 0
  /-- Decoder that holds its job; budget in cycles, when it has one. -/
  dec : Option Nat := none
  budget : Option Nat := none
  slow : Bool := false
  late : Bool := false
  damaged : Bool := false
  tainted : Bool := false
  abandoned : Bool := false
  cause : Nat := 0
  /-- Frames written to the slot; `LAST` has come, with the decode time; streams settled, and those missing. -/
  frames : List Nat := []
  last : Option Nat := none
  settled : List Nat := []
  missing : List Nat := []
  /-- Finished (R587), with the status word written. -/
  finished : Bool := false
  status : Nat := 0
deriving DecidableEq, Repr

/-- A sensor stream: records examined, mapped time of the last one, records in order (index, mapped time) from
`SS_HEAD` on. -/
structure CiStream where
  seen : Nat := 0
  last : Option Int := none
  recs : List (Nat × Int) := []
deriving DecidableEq, Repr

/-- A cursor record whose `CR_STEP` is still to be written (R593): its step, bytes 0x04 to 0x7F, whether they are sent. -/
structure CiCursor where
  step : Nat
  body : List Byte
  sent : Bool := false
deriving DecidableEq, Repr

/-- The cistern controller beyond its page. -/
structure Cist where
  /-- Samples taken and not dispatched; samples dispatched and not released; frames at the transform units. -/
  waiting : List CiSample := []
  flight : List CiSample := []
  frames : List CiFrame := []
  /-- Decoders that owe the `LAST` entry of an abandoned job (R590). -/
  owed : List Nat := []
  /-- Augmentation counters by batch, as recorded at its first sample. -/
  augs : List (Nat × List Nat) := []
  /-- Returns by step and count, and the step of the last one (R591). -/
  returns : List (Nat × Nat) := []
  lastReturn : Option Nat := none
  streams : List (Nat × CiStream) := []
  cursors : List CiCursor := []
  /-- Release of the oldest filling batch: 0 not begun, 1 its header and mask are written, 2 its `RELEASED` bit (R587). -/
  releasing : Nat := 0
deriving DecidableEq, Repr

/-! ### Resilience (Twins, Snapshots and Restore) -/

/-- A snapshot round under way (R737): its step and generation, its image slot, whether it carries no cursor; 0 its
record is to be written, 1 it is written, 2 the copies are made, 3 `COMPLETE` is written. -/
structure Round where
  step : Nat
  gen : Nat
  slot : Nat
  noCursor : Bool
  /-- 0: begun; 1: its record is written; 2: the copies are; 3: `COMPLETE` is. -/
  stage : Nat := 0
  /-- The cursor record has been copied, or there is none. -/
  cursor : Bool := false
deriving DecidableEq, Repr

/-- A restore under way (R743, R744): checked, with the image slot, its generation and its table; next entry. -/
structure Restore where
  fill : Bool
  checked : Bool := false
  slot : Nat := 0
  gen : Nat := 0
  table : List (List Byte) := []
  next : Nat := 0
deriving DecidableEq, Repr

/-- The resilience unit beyond its page. -/
structure Resil where
  /-- The protection table as `ENABLE` read it. -/
  table : List (List Byte) := []
  round : Option Round := none
  restore : Option Restore := none
  /-- Code of the digest under way, once its writes are made (R746). -/
  digest : Option Nat := none
deriving DecidableEq, Repr

/-! ### Gradient reduction (Gradient Reduction Across Modules) -/

/-- A run of a reduction entry (R694 to R698): the chunks whose results it holds, its first nonzero code. -/
structure RedRun where
  entry : Nat
  step : Nat
  got : List Nat := []
  code : Nat := 0
deriving DecidableEq, Repr

/-- A reduction engine beyond its page. -/
structure Reduct where
  /-- The table and the rank maps as `ENABLE` read them: entries; group to module numbers by rank. -/
  table : List (List Byte) := []
  maps : List (Nat × List Nat) := []
  /-- Signals consumed, by entry (R694). -/
  consumed : List (Nat × Nat) := []
  runs : List RedRun := []
  /-- Runs completed: entry, step, code. -/
  ended : List (Nat × Nat × Nat) := []
  /-- Steps whose deadline has passed, and aborted steps. -/
  expired : List Nat := []
  aborted : List Nat := []
  /-- Events raised once per run: entry, step, event bit. -/
  raised : List (Nat × Nat × Nat) := []
  /-- Steps that have opened and whose mask slots are still to be zeroed (R699). -/
  opening : List Nat := []
deriving DecidableEq, Repr

/-- A marker wave (R800 to R815). -/
structure Marker where
  /-- Pages the running wave has skipped (R805), and pages whose domain was not open at their latch (R812). -/
  skipped : List Nat := []
  closed : List Nat := []
  /-- Verdicts of the audits of classes 2 to 5, by class * 16 + instance: 1 passed, 2 failed (R812). -/
  verdicts : List (Nat × Nat) := []
deriving DecidableEq, Repr

/-- The monitor unit beyond its page. -/
structure Mon where
  /-- Clusters that `MON_ARITH` counted at its last update (R213). -/
  invClusters : List Nat := []
  /-- Non-finite tail results by the step of the pass that counted them (R511). -/
  nonfinite : List (Nat × Nat) := []
  /-- Losses accepted for open steps (R505), and the pending mean, variance and count of the step at its evaluation
  (R506). -/
  loss : List (Nat × Nat) := []
  pendingLoss : Option (Nat × Nat × Nat) := none
  /-- Seed and step of the staged RNG state record (R503). -/
  staged : Option (Nat × Nat) := none
deriving DecidableEq, Repr

/-! ### Reset domains (Reset Domains, Locks and Recovery) -/

/-- A domain that is not OPEN by itself: `state` 1 LOCKING, 2 LOCKED, 3 RESETTING (R759). `own` is false while a reset
runs in a domain that only an enclosing one holds locked (R766). -/
structure DomLock where
  kind : Nat
  inst : Nat
  state : Nat
  own : Bool := true
deriving DecidableEq, Repr

/-- A request of `RC_REQ` (R770): action 1 LOCK, 2 RESET, 3 RELEASE. -/
structure RcReq where
  kind : Nat
  inst : Nat
  action : Nat
  dump : Bool := false
  hold : Bool := false
deriving DecidableEq, Repr

/-- A reset under way (R772), and its index in `LS_RESETS`: domain kind, 9 cold, 10 PERST#, 11 FLR. -/
structure DomReset where
  kind : Nat
  inst : Nat
  dump : Bool := false
  hold : Bool := false
  cause : Nat
deriving DecidableEq, Repr

/-- A crash dump: `DH_SEQ` and its bytes (R783). -/
structure Dump where
  seq : Nat
  bytes : List Byte
deriving DecidableEq, Repr

/-- Locks, resets and power states beyond the Lockkeeper page. -/
structure Rc where
  locks : List DomLock := []
  /-- Requests that wait, oldest first; writes beyond 8 are held (R770). The one that runs. -/
  queue : List RcReq := []
  current : Option RcReq := none
  resets : List DomReset := []
  /-- A lock of the module or a hub die has ended and its release notice is still to be sent (R682). -/
  owesRelease : Bool := false
  /-- Dumps in the dump areas, oldest first; sequence number of the next; summaries in flash by slot; next slot. -/
  dumps : List Dump := []
  nextDump : Nat := 0
  summaries : List (Nat × List Byte) := []
  nextSlot : Nat := 0
  /-- The board strap of R923: the module is a KSL-DQ4096-LC-X. -/
  extended : Bool := false
  /-- A thermal trip has happened and the hottest die has not been below 85 °C since (R915). -/
  tripped : Bool := false
  /-- Issue cycles held in the present interval, in parts of 65 536; the cap in force; readings of the latest intervals,
  latest first: watts, and tenths of an ampere (R908, R923). -/
  share : Nat := 0
  cap : Nat := 4600
  powers : List (Nat × Nat) := []
  /-- Input energy not yet counted, in millijoules. -/
  milli : Nat := 0
  /-- The 64 bytes of the mailbox command that runs; empty = none (R881). -/
  mailbox : List Byte := []
  /-- Its work is done: completion code, bytes written to the buffer; and an image header still to be written (R837). -/
  mbDone : Option (Nat × Nat) := none
  mbHead : List Byte := []
deriving DecidableEq, Repr

/-! ### Trust (Identity, Attestation and Signing) -/

/-- An SPDM session: established once FINISH has come; its shared secret, how often its keys were updated. -/
structure Session where
  id : Nat
  established : Bool := false
  secret : Nat
  updates : Nat := 0
deriving DecidableEq, Repr

/-- The keyring, the SPDM responder, the debug port and the flash areas of R37 that trust rests on. Flash bytes beyond
a list read 0xFF. -/
structure Trust where
  /-- Identity private key, once derived. -/
  key : Option Nat := none
  /-- Code and bytes of the keyring's latest answer; shared secret of its latest exchange. -/
  answer : Nat × List Byte := (0, [])
  secret : Nat := 0
  imageA : List Byte := []
  imageB : List Byte := []
  config : List Byte := []
  /-- The configuration block that runs: the one in flash at the Lockkeeper's start. -/
  active : List Byte := []
  /-- Images marked failed (R835). -/
  failedA : Bool := false
  failedB : Bool := false
  /-- Measurements 1 to 8 as taken at the start of the running image. -/
  measures : List (List Byte) := []
  /-- How far the SPDM requester has negotiated: 1 version, 2 capabilities, 3 algorithms. -/
  stage : Nat := 0
  sessions : List Session := []
  nextSession : Nat := 1
  /-- Challenge of the debug port, and its failed attempts since the Lockkeeper's reset. -/
  challenge : Option (List Byte) := none
  debugFails : Nat := 0
deriving DecidableEq, Repr

end Sys2Proof.Machine
end

