-- ==== Sys2Proof/Machine/State.lean ====
section
/-! DEFINITION. The state of one module: every register field of its pages, its memories, and what its units hold
beyond their registers; the outcomes a step can stop with; the state after reset. -/

namespace Sys2Proof.Machine

/-- The module. Register fields stand in `regs` under the key of `Field.key`, absent fields at their Reset column. -/
structure State where
  regs : List (Nat × Nat) := []
  /-- Latched copies of the counters (R808), under the key of the live counter. -/
  latched : List (Nat × Nat) := []
  mem : Mem := {}
  bus : Bus := {}
  link : Link := {}
  host : HostIf := {}
  life : LifeLog := {}
  gen : GenUnit := {}
  /-- Tiles by physical number. -/
  tiles : List (Nat × Tile) := []
  /-- Messages between channel endpoints in the fabric. -/
  chanq : List ChanMsg := []
  marker : Marker := {}
  mon : Mon := {}
  /-- Pumps: cluster pump k at k, hub pump n at 256 + n. -/
  pumps : List (Nat × Pump) := []
  /-- Attention pipelines by cluster, and the commands that wait at each Wellhead's port, 32 bytes each (R431). -/
  pipes : List (Nat × Pipe) := []
  whq : List (Nat × List (List Byte)) := []
  /-- Handpumps by number, held as pipelines are (R469). -/
  hpipes : List (Nat × Pipe) := []
  decoders : List (Nat × Decoder) := []
  encoders : List (Nat × Encoder) := []
  cist : Cist := {}
  res : Resil := {}
  /-- Reduction engines by number. -/
  reds : List (Nat × Reduct) := []
  tr : Trust := {}
  /-- The 256 KiB of retention SRAM in the always-on domain, by address (R35). -/
  retention : List (Nat × Byte) := []
  rc : Rc := {}
  /-- Physical columns of an array found faulty since its last passed self-test (R171), by page * 2 + array. -/
  faulty : List (Nat × List Nat) := []
  /-- Logical role plus one that physical tile 16 of each cluster holds in effect; 0 = none (R788). -/
  subst : List (Nat × Nat) := []
  /-- Clusters whose clocks are gated (M1), and gated clusters that are waking (R791, R792). -/
  gated : List (Nat × Bool) := []
  waking : List (Nat × Bool) := []
  /-- What the module has sent to the outside, oldest first. -/
  outs : List Out := []
  /-- How many free values have been drawn; the model's own (assumption log 3). -/
  drawn : Nat := 0
  /-- The supply is up and the module runs (R906). -/
  powered : Bool := true
  /-- Commands waiting, first in first out. -/
  pending : List Instr := []
deriving DecidableEq, Repr

/-- Nobody raises a fault: the spec gives every command an effect or a refusal that the module itself records. Safe. -/
inductive Fault where
  /-- Raised by nothing. -/
  | none
deriving DecidableEq, Repr

/-- Why a command is not run. -/
inductive Refusal where
  /-- Raised by the dispatch alone, for a command whose meaning is not written yet. Safe. -/
  | notModelled (mnemonic : String)
deriving DecidableEq, Repr

/-- The module right after cold power-up reset: every field at its Reset column, every unit empty. -/
def State.reset : State := {}

end Sys2Proof.Machine
end

