-- ==== Sys2Proof/Machine/Ops.lean ====
section
/-! DEFINITION. The named operations over register fields, the error log, events and the directory (Register Pages). -/

namespace Sys2Proof.Machine

/-- The key of copy `i` of field `f` on page `page`: its bit place in the whole register range. -/
def Field.key (f : Field) (page i : Nat) : Nat := page * 32768 + f.bit + i * (f.stride * 8)

/-- Reads copy `i` of a field. -/
def rdAt (s : State) (page : Nat) (f : Field) (i : Nat) : Nat := look f.rst s.regs (f.key page i)

/-- Reads a field. -/
def rd (s : State) (page : Nat) (f : Field) : Nat := rdAt s page f 0

/-- Writes copy `i` of a field, cut to its width. -/
def wrAt (page : Nat) (f : Field) (i v : Nat) (s : State) : State :=
  { s with regs := put f.rst s.regs (f.key page i) (v % 2 ^ f.w) }

/-- Writes a field, cut to its width. -/
def wr (page : Nat) (f : Field) (v : Nat) (s : State) : State := wrAt page f 0 v s

/-- A one-bit field as a truth value. -/
def isSet (s : State) (page : Nat) (f : Field) : Bool := rd s page f != 0

/-- Adds to a counter field, which stops at its maximum (R106). -/
def addAt (page : Nat) (f : Field) (i n : Nat) (s : State) : State :=
  wrAt page f i (min (rdAt s page f i + n) (2 ^ f.w - 1)) s

/-- Adds to a counter, which stops at its maximum (R106). -/
def bump (page : Nat) (f : Field) (n : Nat) (s : State) : State := addAt page f 0 n s

/-! ### Directory numbers (R898) -/

/-- Directory numbers of the unit types. -/
def pgTile (p : Nat) : Nat := p
def pgCluster (k : Nat) : Nat := 4352 + k
def pgAttention (k : Nat) : Nat := 4608 + k
/-- Pump pages: cluster pump k at k, hub pump n at 256 + n. -/
def pgPump (p : Nat) : Nat := 4864 + p
def pgHandpump (h : Nat) : Nat := 5152 + h
def pgChannel (c : Nat) : Nat := 5184 + c
def pgPort (n : Nat) : Nat := 5200 + n
def pgDecoder (n : Nat) : Nat := 5232 + n
def pgEncoder (n : Nat) : Nat := 5248 + n
def pgTransform (n : Nat) : Nat := 5252 + n
def pgWellhead (n : Nat) : Nat := 5260 + n
def pgReduction (n : Nat) : Nat := 5262 + n
def pgCp (n : Nat) : Nat := 5264 + n
def pgHub (n : Nat) : Nat := 5266 + n
def pgCistern : Nat := 5268
def pgGeneration : Nat := 5269
def pgResilience : Nat := 5270
def pgMonitor : Nat := 5271
def pgLockkeeper : Nat := 5272
def pgHost : Nat := 5273
/-- Pages exist below this number (R898). -/
def pageCount : Nat := 5274

/-- The first directory numbers of the types, in order (R898). -/
def typeStarts : List Nat :=
  [0, 4352, 4608, 4864, 5152, 5184, 5200, 5232, 5248, 5252, 5260, 5262, 5264, 5266, 5268, 5269, 5270, 5271, 5272, 5273]

/-- The page-type code of a directory number; 0 where no page is listed (R898). -/
def typeOf (page : Nat) : Nat :=
  if page < pageCount then (typeStarts.filter fun a => decide (a ≤ page)).length else 0

/-- The instance of a directory number within its type (R898). -/
def instanceOf (page : Nat) : Nat := page - (typeStarts.getD (typeOf page - 1) 0)

/-- The fields of a page. HD1's hub page and the cluster pumps' pages reserve the offsets that HD0 and the hub pumps
use (R646, R648, R685). -/
def pageFields (page : Nat) : List Field :=
  let fs := blockFields (typeOf page)
  if page = pgHub 1 then headerFields
  else if pgPump 0 ≤ page ∧ page < pgPump 256 then headerFields ++ fs.filter fun f => decide (f.bit ≠ Reg.PM_SUBMIT.bit)
  else headerFields ++ fs

/-! ### Counting, the error log and events -/

/-- Signals an MSI-X vector, subject to its mask and pending bits (R877). -/
def signalVector (v : Nat) (s : State) : State :=
  let e := look {} s.host.msix v
  if e.masked then
    { s with host := { s.host with msix := put {} s.host.msix v { e with pend := true } } }
  else { s with outs := s.outs ++ [.msix v e.addr e.data] }

/-- `PHASE` of a record: 1 - bit LOG2 of its index (R873). -/
def phaseBit (i log2 : Nat) : Nat := 1 - i / 2 ^ log2 % 2

/-- Writes one event record, or drops it when the ring is full (R878). -/
def eventRecord (page : Nat) (s : State) : State :=
  let tail := rd s pgHost Reg.HI_EQ_TAIL
  let log2 := rd s pgHost Reg.HI_EQ_CFG_LOG2
  if rd s pgHost Reg.HI_EQ_CFG_ENABLE = 0 then s
  else if (tail + 2 ^ 32 - rd s pgHost Reg.HI_EQ_HEAD) % 2 ^ 32 = 2 ^ log2 then
    wr pgHost Reg.HI_STATUS_EQ_OVERFLOW 1 (bump pgHost Reg.HI_EQ_DROPS 1 s)
  else
    let bytes := leBytes 4 page ++ leBytes 4 (rd s page Reg.PAGE_INT_STATUS) ++ leBytes 4 tail
      ++ leBytes 4 (phaseBit tail log2)
    let s := { s with outs := s.outs ++
      [.hostWrite (rd s pgHost Reg.HI_EQ_BASE + 16 * (tail % 2 ^ log2)) (bytes.map fun b => (b, false)) true] }
    wr pgHost Reg.HI_EQ_TAIL (tail + 1) s

/-- Delivers a risen, enabled interrupt status bit of a page (R877). -/
def deliverEvent (page : Nat) (s : State) : State :=
  let e := look 0 s.host.vmap page
  let s := if bitOf e 15 then eventRecord page s else s
  signalVector (bitsOf e 0 11) s

/-- Raises event bit `b` of a page: a bit already set raises nothing more (R877, R901). -/
def raiseBit (page b : Nat) (s : State) : State :=
  let old := rd s page Reg.PAGE_INT_STATUS
  if bitOf old b then s
  else
    let s := wr page Reg.PAGE_INT_STATUS (old + 2 ^ b) s
    if bitOf (rd s page Reg.PAGE_INT_ENABLE) b then deliverEvent page s else s

/-- Records an error code in `PAGE_ERR_LOG` (R891): count, entry, `ERR`. -/
def logErr (page code tag : Nat) (s : State) : State :=
  let s := bump page Reg.PAGE_ERR_COUNT 1 s
  let n := rd s page Reg.PAGE_ERR_COUNT
  let s := wrAt page Reg.PAGE_ERR_LOG (n % 4) (code + tag % 2 ^ 16 * 2 ^ 16 + n * 2 ^ 32) s
  raiseBit page 0 s

/-! ### The life log -/

/-- Adds to a summary field of `bytes` bytes by its offset; it stops at its maximum (R106, R816). -/
def lifeAddTo (bytes off n : Nat) (s : State) : State :=
  { s with life := { s.life with live := put 0 s.life.live off (min (look 0 s.life.live off + n) (256 ^ bytes - 1)) } }

/-- Adds to a summary field of 32 bits. -/
def lifeAdd (off n : Nat) (s : State) : State := lifeAddTo 4 off n s

/-- Sets a summary field: a mapping or a state. -/
def lifeSet (off v : Nat) (s : State) : State :=
  { s with life := { s.life with live := put 0 s.life.live off v } }

/-- Hands an event to Lockkeeper firmware for the journal (R819, R820). -/
def journal (kind code unit data : Nat) (s : State) : State :=
  { s with life := { s.life with waiting := s.life.waiting ++ [⟨kind, code, unit, data⟩] } }

/-! ### Where units lie -/

/-- The cluster of a physical tile (R39). -/
def clusterOf (p : Nat) : Nat := p / 17
/-- The compute die of a cluster (R22). -/
def dieOfCluster (k : Nat) : Nat := k / 32

/-- The logical tile that a physical tile holds under the substitution in effect: 16k + index, or none (R40, R788). -/
def logicalOf (s : State) (p : Nat) : Option Nat :=
  let k := clusterOf p
  let t := p % 17
  let sub := look 0 s.subst k
  if t = 16 then (if sub = 0 then none else some (k * 16 + (sub - 1)))
  else if sub = t + 1 then none else some (k * 16 + t)

/-- The physical tile that holds a logical tile (R41). -/
def physicalOf (s : State) (l : Nat) : Nat :=
  let k := l / 16
  if look 0 s.subst k = l % 16 + 1 then k * 17 + 16 else k * 17 + l % 16

/-- The die code of a page: 0 to 7 compute dies, 8 and 9 the hubs (R896, R33, R557). -/
def dieOfPage (page : Nat) : Nat :=
  let i := instanceOf page
  match typeOf page with
  | 0x01 => dieOfCluster (clusterOf i)
  | 0x02 => dieOfCluster i
  | 0x03 => dieOfCluster i
  | 0x04 => if i < 256 then dieOfCluster i else 8 + (i - 256) / 16
  | 0x05 => i / 4
  | 0x06 => 8 + i / 8
  | 0x07 => 8 + i / 16
  | 0x08 => 8 + i / 8
  | 0x09 => 8 + i / 2
  | 0x0A => 8 + i / 4
  | 0x0B => 8 + i
  | 0x0C => 8 + i
  | 0x0D => 8 + i
  | 0x0E => 8 + i
  | _ => 8

/-- The cluster that a page lies in, for the types that lie in one. -/
def clusterOfPage (page : Nat) : Option Nat :=
  let i := instanceOf page
  match typeOf page with
  | 0x01 => some (clusterOf i)
  | 0x02 => some i
  | 0x03 => some i
  | 0x04 => if i < 256 then some i else none
  | _ => none

/-- Directory entry `n` (R896). -/
def dirEntry (s : State) (n : Nat) : Nat :=
  let i := instanceOf n
  if typeOf n = 0 then 0
  else
    let place := match clusterOfPage n with
      | some k => (k % 32 / 4) * 2 ^ 28 + (k % 4) * 2 ^ 31
      | none => if typeOf n = 0x05 then (i % 4) * 2 ^ 31 else 0
    let role := if typeOf n = 0x01 then
        (i % 17) * 2 ^ 33 + (match logicalOf s i with | some l => l * 2 ^ 39 + 2 ^ 51 | none => 0)
      else 0
    typeOf n + i * 2 ^ 8 + dieOfPage n * 2 ^ 24 + place + role

/-! ### Reset domains (R757, R759, R766) -/

/-- A domain and those that enclose it, innermost first. -/
def enclosing (kind inst : Nat) : List (Nat × Nat) :=
  match kind with
  | 0 => [(0, 0)]
  | 1 => [(1, inst), (0, 0)]
  | 2 => [(2, inst), (0, 0)]
  | 3 => [(3, inst), (2, inst / 32), (0, 0)]
  | 4 => [(4, inst), (3, inst / 17), (2, inst / 544), (0, 0)]
  | 5 => [(5, inst), (1, inst / 8), (0, 0)]
  | 6 => [(6, inst), (1, inst / 16), (0, 0)]
  | 7 => [(7, inst), (1, if inst < 16 then inst / 8 else if inst < 20 then (inst - 16) / 2 else (inst - 20) / 4), (0, 0)]
  | 8 => [(8, 0)]
  | _ => []

/-- The domains that hold a page's unit, innermost first. The host page lies in none (R856). -/
def domainChain (page : Nat) : List (Nat × Nat) :=
  let i := instanceOf page
  match typeOf page with
  | 0x01 => enclosing 4 i
  | 0x02 => enclosing 3 i
  | 0x03 => enclosing 3 i
  | 0x04 => if i < 256 then enclosing 3 i else enclosing 1 ((i - 256) / 16)
  | 0x05 => enclosing 2 (i / 4)
  | 0x06 => enclosing 5 i
  | 0x07 => enclosing 6 i
  | 0x08 => enclosing 7 i
  | 0x09 => enclosing 7 (16 + i)
  | 0x0A => enclosing 7 (20 + i)
  | 0x13 => enclosing 8 0
  | 0x14 => []
  | 0 => []
  | t => if t < 0x0F then enclosing 1 i else enclosing 1 0

/-- The state that the locks of the listed domains give: the furthest of theirs. -/
def lockOver (s : State) (ds : List (Nat × Nat)) : Nat :=
  (s.rc.locks.filter fun l => ds.contains (l.kind, l.inst)).foldl (fun a l => max a l.state) 0

/-- `PAGE_LOCK.STATE` of a page: 0 OPEN, 1 LOCKING, 2 LOCKED, 3 RESETTING (R795). -/
def lockState (s : State) (page : Nat) : Nat := lockOver s (domainChain page)

/-- `PAGE_LOCK.OWN` of a page: its own domain is locked in its own right. -/
def lockOwn (s : State) (page : Nat) : Bool :=
  s.rc.locks.any fun l => l.own && (domainChain page).head? == some (l.kind, l.inst)

/-- A command's effect; a module without its supply does nothing (R906). -/
def whileOn (s t : State) : Host.Outcome State Fault Refusal := .next (if s.powered then t else s)

/-! ### Retention SRAM (R35, R816, R835) -/

def retentionBytes : Nat := 262144

/-- The value of a byte of the retention SRAM. Seconds that make no whole minute yet stand at the summary's offset of their
band, consecutive starts of the images at 0x10000 and 0x10001 (DESIGN CHOICE of places, assumption log 85). -/
def retained (s : State) (a : Nat) : Nat := (look 0 s.retention a).toNat

/-- Writes a byte of the retention SRAM. -/
def retain (a v : Nat) (s : State) : State :=
  if a < retentionBytes then { s with retention := put 0 s.retention a (BitVec.ofNat 8 v) } else s

/-! ### Reading pages -/

/-- The slot that a tile's copy shows for a micro-batch; 3 = unbound (R299, R341). -/
def mapSlot (s : State) (page mb : Nat) : Nat :=
  match s.gen.binds.find? fun e => e.1 == mb with
  | some (_, b) => if look 0 s.gen.copies (page * 256 + mb) = b.seq then b.gen % 3 else 3
  | none => 3

/-- What a read of copy `i` of a field shows. The identity fields are fixed by the page, the two table windows show the
entry at their index, WO fields read zero (R10). -/
def fieldVal (s : State) (page : Nat) (f : Field) (i : Nat) : Nat :=
  if f.acc = .wo then 0
  else if f.bit = Reg.PAGE_ID_TYPE.bit then typeOf page
  else if f.bit = Reg.PAGE_ID_INSTANCE.bit then instanceOf page
  else if f.bit = Reg.PAGE_LOCK_STATE.bit then lockState s page
  else if f.bit = Reg.PAGE_LOCK_OWN.bit then natOf (lockOwn s page)
  else if page = pgHost ∧ f.bit = Reg.HI_VMAP_DATA.bit then look 0 s.host.vmap (rd s pgHost Reg.HI_VMAP_INDEX)
  else if page = pgHub 0 ∧ f.bit = Reg.KL_RT_DATA.bit then look 0 s.link.routes (rd s (pgHub 0) Reg.KL_RT_INDEX)
  else if typeOf page = 0x01 ∧ f.bit = Reg.GEN_MBMAP.bit then
    (List.range 16).foldl (fun v j => v + mapSlot s page (16 * i + j) * 4 ^ j) 0
  else rdAt s page f i

/-- The copies of a field that bits [lo, hi) of the page touch; a range of 8 bytes touches at most three. -/
def copiesIn (f : Field) (lo hi : Nat) : List Nat :=
  let st := f.stride * 8
  let first := if st = 0 then 0 else (lo - f.bit) / st
  let m := if st = 0 then 1 else (hi - lo) / st + 2
  ((List.range m).map (first + ·)).filter fun i =>
    decide (i < f.n) && decide (f.bit + i * st < hi) && decide (lo < f.bit + i * st + f.w)

/-- The part of a field value of width `w` at bit `b` that bits [lo, hi) show, placed from bit 0 of the range. -/
def showBits (b w v lo hi : Nat) : Nat :=
  let v := v % 2 ^ w
  let v := if hi < b + w then v % 2 ^ (hi - b) else v
  if lo ≤ b then v * 2 ^ (b - lo) else v / 2 ^ (lo - b)

/-- Bits [lo, hi) of a page as a read shows them. Latched copies are read from their own store (R808). -/
def pageBits (s : State) (page lo hi : Nat) : Nat :=
  let live := (pageFields page).foldl (fun a f =>
    (copiesIn f lo hi).foldl (fun a i => a + showBits (f.bit + i * (f.stride * 8)) f.w (fieldVal s page f i) lo hi) a) 0
  if 0xC00 * 8 < hi then
    (pageFields page).foldl (fun a f =>
      if f.acc = .cnt then
        (copiesIn { f with bit := f.bit + 0x400 * 8 } lo hi).foldl (fun a i =>
          a + showBits (f.bit + 0x400 * 8 + i * (f.stride * 8)) f.w (look 0 s.latched (f.key page i)) lo hi) a
      else a) live
  else live

/-- `n` bytes of a page from offset `off`, as a number. -/
def pageRead (s : State) (page off n : Nat) : Nat := pageBits s page (off * 8) ((off + n) * 8)

/-! ### Writing pages -/

/-- One field copy that a write reaches: old value and the value the written bits would leave. -/
structure FieldWrite where
  f : Field
  i : Nat
  old : Nat
  new : Nat
  /-- The bits of the field that the write covers, with their written values. -/
  ones : Nat
deriving DecidableEq, Repr

/-- The fields that a write of `n` bytes `v` at offset `off` reaches. -/
def fieldWrites (s : State) (page off n v : Nat) : List FieldWrite :=
  let lo := off * 8
  let hi := (off + n) * 8
  (pageFields page).flatMap fun f =>
    (copiesIn f lo hi).map fun i =>
      let b := f.bit + i * (f.stride * 8)
      let a := max b lo
      let e := min (b + f.w) hi
      let part := bitsOf v (a - lo) (e - a)
      let old := if f.acc = .wo then 0 else fieldVal s page f i
      { f := f, i := i, old := old, ones := part * 2 ^ (a - b)
        new := old - bitsOf old (a - b) (e - a) * 2 ^ (a - b) + part * 2 ^ (a - b) }

/-- A port of the module is UP. -/
def anyPortUp (s : State) : Bool := (List.range 32).any fun n => rd s (pgPort n) Reg.KP_STATUS_STATE == 6

/-- What holds off a write of the field does so now. -/
def guarded (s : State) (page : Nat) (f : Field) : Bool :=
  match f.guard with
  | .always => false
  | .own => bitOf (pageBits s page 0x800 0x801) 0
  | .gen => isSet s pgGeneration Reg.GEN_CTRL_ENABLE
  | .ports => anyPortUp s

/-- Clears in `old` the bits that are 1 in `ones` (W1C). -/
def clearBits (old ones : Nat) : Nat := old - (old &&& ones)

/-- The plain effect of a write on one field by its access code (R10); W1S and WO act by their own rules. -/
def plainWrite (page : Nat) (w : FieldWrite) (s : State) : State :=
  match w.f.acc with
  | .rw | .rws => if guarded s page w.f then s else wrAt page w.f w.i w.new s
  | .w1c => wrAt page w.f w.i (clearBits w.old w.ones) s
  | _ => s

end Sys2Proof.Machine
end

