-- ==== Sys2Proof/Machine/Latch.lean ====
section
/-! DEFINITION. Tiles and endpoints by number, and the latch of a page in a marker wave (Counters, Markers and Life
Histograms). -/

namespace Sys2Proof.Machine

def getTile (s : State) (t : Nat) : Tile := look {} s.tiles t
def setTile (t : Nat) (x : Tile) (s : State) : State := { s with tiles := put {} s.tiles t x }
def getChan (s : State) (t n : Nat) : Chan := look {} (getTile s t).chans n
def setChan (t n : Nat) (c : Chan) (s : State) : State :=
  let x := getTile s t
  setTile t { x with chans := put {} x.chans n c } s

/-- The bits set in a mask of `w` bits. -/
def maskBits (w m : Nat) : List Nat := (List.range w).filter fun i => bitOf m i

/-- Puts a message of endpoint `ch` of tile `t` into the fabric, with its opening, its place in the order of issue and the
tile's marker number (R802). -/
def sendChan (t ch session toTile toCh : Nat) (b : ChanBody) (s : State) : State :=
  { s with
    bus := { s.bus with nextOrd := s.bus.nextOrd + 1 }
    chanq := s.chanq ++ [({ tile := t, ch := ch, session := session, ord := s.bus.nextOrd, toTile := toTile, toCh := toCh
                            stamp := rd s (pgTile t) Reg.PAGE_MARKER_EPOCH, body := b } : ChanMsg)] }

/-- The receiving tiles of a send endpoint. -/
def receivers (c : Chan) : List Nat := (maskBits 17 c.peerMask).map fun i => c.peerCl * 17 + i

/-- The latch of endpoint `n` of a tile (R803, R804, R810). -/
def latchChan (t n : Nat) (s : State) : State :=
  let page := pgTile t
  let c := getChan s t n
  let s := wrAt page Reg.CH_MARK_COUNT n (rdAt s page Reg.CH_STATUS_COUNT n) s
  let s := wrAt page Reg.CH_MARK_INFLIGHT n 0 (wrAt page Reg.CH_MARK_RETURNS n 0 (wrAt page Reg.CH_MARK_AUDIT n 0 s))
  if rdAt s page Reg.CH_STATUS_STATE n = 0 then s
  else if c.send then
    (receivers c).foldl (fun s r => sendChan t n c.session r c.peerCh
      (.notice (rd s pgMonitor Reg.MON_MARKER_NUMBER) (look 0 c.credits r) (look 0 c.sent r) (look 0 c.back r)) s) s
  else setChan t n { c with
    markGot := c.got, markReturned := c.returned, markCredits := 0
    markUngranted := rdAt s page Reg.CH_STATUS_UNGRANTED n } s

/-- The latch of a port's virtual channels (R811). -/
def latchPort (n : Nat) (s : State) : State :=
  let p := look {} s.link.ports n
  (List.range 8).foldl (fun s vc =>
    wrAt (pgPort n) Reg.KP_MARK_VC_CREDITS vc (look 0 p.credits vc)
      (wrAt (pgPort n) Reg.KP_MARK_VC_BUFFERED vc (p.rx.filter fun f => f.vc == vc).length s)) s

/-- Copies the live counters of a page to their latched copies (R803, R808). -/
def latchCounters (page : Nat) (s : State) : State :=
  (pageFields page).foldl (fun s f =>
    if f.acc = .cnt then
      (List.range f.n).foldl (fun s i => { s with latched := put 0 s.latched (f.key page i) (rdAt s page f i) }) s
    else s) s

/-- The sums of the audits of classes 2 to 5 that a page's unit holds, at its latch: class * 16 + instance, and whether
the sum holds (R812). -/
def latchSums (page : Nat) (s : State) : List (Nat × Bool) :=
  if typeOf page = 0x0B then
    let base := rd s page Reg.WH_PT_BASE
    let pool := rd s page Reg.WH_POOL
    let live := ((List.range pool).filter fun i => look 0 s.mem.cells (base + 32 * i + 0x10) == 1).length
    [(0x20 + instanceOf page, rd s page Reg.WH_FREE + live + rd s page Reg.WH_DRAINING == pool)]
  else if page = pgCistern then
    let ready := rd s page Reg.CI_READY - rd s page Reg.CI_RETURNED
    [(0x30, decide (rd s page Reg.CI_STATUS_FILLING + ready ≤ rd s page Reg.CI_GEOM_DEPTH + 1)
        && rd s page Reg.CI_STATUS_READY == ready),
      (0x40, decide (s.cist.flight.length ≤ 256))]
  else if page = pgGeneration then
    let holds := (List.range 3).map fun k => rdAt s page Reg.GEN_HOLD k
    let bound := (List.range 255).filter fun i => rdAt s page Reg.MB_ENTRY_BOUND i == 1
    [(0x50, holds.foldl (· + ·) 0 == bound.length)]
  else []

/-- A page latches for the running wave, or is skipped while its domain is RESETTING (R803, R805). -/
def latchPage (page : Nat) (s : State) : State :=
  if lockState s page = 3 then
    bump pgMonitor Reg.MON_MARKER_SKIPS 1
      { s with marker := { s.marker with skipped := s.marker.skipped ++ [page] } }
  else
    let s := latchCounters page s
    let s := if typeOf page = 0x01 then (List.range 64).foldl (fun s n => latchChan page n s) s else s
    let s := if typeOf page = 0x07 then latchPort (instanceOf page) s else s
    let s := (latchSums page s).foldl (fun s e => { s with marker := { s.marker with
      verdicts := insertKey s.marker.verdicts e.1 (if e.2 then 1 else 2) } }) s
    let s := if lockState s page = 0 then s
      else { s with marker := { s.marker with closed := s.marker.closed ++ [page] } }
    wr page Reg.PAGE_MARKER_EPOCH (rd s pgMonitor Reg.MON_MARKER_NUMBER) s

/-- The page has still to latch in the running wave. -/
def unlatched (s : State) (page : Nat) : Bool :=
  isSet s pgMonitor Reg.MON_MARKER_GO && rd s page Reg.PAGE_MARKER_EPOCH != rd s pgMonitor Reg.MON_MARKER_NUMBER
    && !s.marker.skipped.contains page && decide (page < pageCount)

/-- A message stamped by page `src` reaches page `dst`: a newer stamp makes it latch first (R802). -/
def reach (src dst : Nat) (s : State) : State :=
  if unlatched s dst && rd s src Reg.PAGE_MARKER_EPOCH == rd s pgMonitor Reg.MON_MARKER_NUMBER then latchPage dst s
  else s

end Sys2Proof.Machine
end

