-- ==== Sys2Proof/Machine/Memory.lean ====
section
/-! DEFINITION. Wells and GDDR7: the address map, where granules lie, stored words with their check bits, poison,
unwritten memory (Dies, Clusters and Tiles; Pumps, GDDR7 and Well Memory). -/

namespace Sys2Proof.Machine

/-- Where a local address lies (R48). -/
inductive Region where
  | well (tile off : Nat)
  | gddr (off : Nat)
  | reg (off : Nat)
  | unmapped
deriving DecidableEq, Repr

def wellEnd : Nat := 0x220000000
def gddrBase : Nat := 0x1000000000
def regBase : Nat := 0xF000000000
def regBytes : Nat := 0x4000000

/-- The region of a local address; the data view ends at `MEM_LIMIT` (R48, R638). -/
def regionOf (s : State) (a : Nat) : Region :=
  if a < wellEnd then .well (a / 0x200000) (a % 0x200000)
  else if gddrBase ≤ a ∧ a - gddrBase < rd s (pgHub 0) Reg.MEM_LIMIT then .gddr (a - gddrBase)
  else if regBase ≤ a ∧ a - regBase < regBytes then .reg (a - regBase)
  else .unmapped

/-- `MEM_RETIRE_STATUS.STATE`: 1 migrating, 2 retired. -/
def retireState (s : State) : Nat := rd s (pgHub 0) Reg.MEM_RETIRE_STATUS_STATE

/-- The place of a relocated granule after retirement of channel `r`: channel and channel granule (R639). -/
def relocated (r g : Nat) : Nat × Nat :=
  let k := g / 16
  let j := k / 15
  let t := k % 15
  let c := if t < r then t else t + 1
  (c, (375000000 + 16 * j + c) / 16)

/-- Granule `g` uses its new place: its channel is retired, or migration has passed it (R639, R640). -/
def usesNewPlace (s : State) (g : Nat) : Bool :=
  let r := rd s (pgHub 0) Reg.MEM_RETIRE_STATUS_CH
  g % 16 == r && (retireState s == 2 || (retireState s == 1 && decide (g / 16 < s.mem.migrateK)))

/-- The channel and channel granule of data-view granule `g` (R633, R639). -/
def granulePlace (s : State) (g : Nat) : Nat × Nat :=
  if usesNewPlace s g then relocated (rd s (pgHub 0) Reg.MEM_RETIRE_STATUS_CH) g else (g % 16, g / 16)

/-- The channel of a data-view offset. -/
def channelOf (s : State) (off : Nat) : Nat := (granulePlace s (off / 256)).1

/-- The device byte of a data-view offset on its channel (R634). -/
def deviceByte (s : State) (off : Nat) : Nat := (granulePlace s (off / 256)).2 * 320 + off % 256

/-- The page of the domain that owns a byte of memory: a tile or a channel (R757). -/
def ownerPage (s : State) (a : Nat) : Nat :=
  match regionOf s a with
  | .well p _ => pgTile p
  | .gddr o => pgChannel (channelOf s o)
  | _ => pgHost

/-- The valid bit of the granule or page that holds `a` (R627). -/
def isValid (s : State) (a : Nat) : Bool :=
  if a < wellEnd then look false s.mem.wellValid (a / 256)
  else look false s.mem.pageValid ((a - gddrBase) / 4096)

/-- The stored byte at a local address, before any check. -/
def cellAt (s : State) (a : Nat) : Byte := look 0 s.mem.cells a

/-- Stores one byte. -/
def setCell (a : Nat) (b : Byte) (s : State) : State :=
  { s with mem := { s.mem with cells := put 0 s.mem.cells a b } }

/-- The cells with bytes stored from `a` upward. -/
def putCells (a : Nat) : List Byte → List Host.Cell → List Host.Cell
  | [], m => m
  | b :: bs, m => putCells (a + 1) bs (put 0 m a b)

/-- Stores bytes from `a` upward. -/
def setCells (a : Nat) (bs : List Byte) (s : State) : State :=
  { s with mem := { s.mem with cells := putCells a bs s.mem.cells } }

/-- The stored bytes from `a` upward. -/
def cellsAt (s : State) (a n : Nat) : List Byte := (List.range n).map fun i => cellAt s (a + i)

/-- The unit stored at `u` (address / 64) reads as poisoned (R620). -/
def isPoisoned (s : State) (u : Nat) : Bool := look false s.mem.poison u

def setPoison (u : Nat) (b : Bool) (s : State) : State :=
  { s with mem := { s.mem with poison := put false s.mem.poison u b } }

/-- The bad bits of the stored word `w` (address / 8). -/
def flipsOf (s : State) (w : Nat) : Nat := look 0 s.mem.flips w

def setFlips (w m : Nat) (s : State) : State :=
  { s with mem := { s.mem with flips := put 0 s.mem.flips w m } }

/-- Bad bits met by stored words: each entry a word (address / 8) and the bits of its 80 that flipped (R623). -/
def upset : List (Nat × Nat) → State → State
  | [], s => s
  | (w, m) :: us, s => upset us (setFlips w (flipsOf s w ^^^ m % 2 ^ 80) s)

/-- The number of one bits of `m` in its lowest `n` bits. -/
def popCount : Nat → Nat → Nat
  | 0, _ => 0
  | n + 1, m => m % 2 + popCount n (m / 2)

/-- Counts a corrected word of the memory that holds `a` (R624, R647): `WL_CE`, or `CH_CE` with its alarm. -/
def countCorrected (a : Nat) (s : State) : State :=
  match regionOf s a with
  | .well p _ => lifeAdd (0x200 + 16 * dieOfCluster (clusterOf p)) 1 (bump (pgTile p) Reg.WL_CE 1 s)
  | .gddr o =>
    let c := channelOf s o
    let s := lifeAdd (0x100 + 16 * c) 1 s
    let s := bump (pgChannel c) Reg.CH_CE 1 s
    let n := look 0 s.mem.ceSince c + 1
    let s := { s with mem := { s.mem with ceSince := put 0 s.mem.ceSince c n } }
    let lim := rd s (pgChannel c) Reg.CH_CE_ALARM_N
    if lim ≠ 0 ∧ lim ≤ n ∧ rd s (pgChannel c) Reg.CH_CE_ALARM_BIT = 0 then
      raiseBit (pgChannel c) 5 (wr (pgChannel c) Reg.CH_CE_ALARM_BIT 1 s)
    else s
  | _ => s

/-- Handles an uncorrectable word: the unit is stored poisoned, counted, captured, EV_MEM_UE raised (R624). -/
def countUncorrectable (a : Nat) (s : State) : State :=
  let u := a / 64
  let s := setPoison u true s
  match regionOf s a with
  | .well p o =>
    let s := bump (pgTile p) Reg.WL_UE 1 s
    let s := wr (pgTile p) Reg.WL_ERR_UNIT (o / 64) (wr (pgTile p) Reg.WL_ERR_VALID 1 s)
    let s := lifeAdd (0x204 + 16 * dieOfCluster (clusterOf p)) 1 (journal 0x06 0 (pgTile p) (u * 64) s)
    raiseBit (pgTile p) 6 s
  | .gddr o =>
    let c := pgChannel (channelOf s o)
    let s := lifeAdd (0x104 + 16 * channelOf s o) 1 (journal 0x06 0 c (u * 64) s)
    let s := bump c Reg.CH_UE 1 s
    let s := wr c Reg.CH_ERR_ADDR (u * 64) (wr c Reg.CH_ERR_ADDR_VALID 1 s)
    raiseBit c 4 s
  | _ => s

/-- Reads one stored word through its check bits (R623, R624): the data and what the read leaves. Four or more bad bits
lie outside the code's guarantee: the outcome and the data are free values. -/
def readWord (w : Nat) (s : State) : List Byte × State :=
  let data := cellsAt s (w * 8) 8
  let m := flipsOf s w
  let bad := popCount 80 m
  let raw := leBytes 8 (leNat data ^^^ m % 2 ^ 64)
  if bad = 0 then (data, s)
  else if bad ≤ 2 then (data, countCorrected (w * 8) (setFlips w 0 s))
  else if bad = 3 then (raw, countUncorrectable (w * 8) (setCells (w * 8) raw (setFlips w 0 s)))
  else
    let pick := Config.freeNat s.drawn % 3
    let wrong := leBytes 8 (Config.freeNat (s.drawn + 1))
    let s := { s with drawn := s.drawn + 2 }
    if pick = 0 then (wrong, s)
    else if pick = 1 then (wrong, setCells (w * 8) wrong (setFlips w 0 s))
    else (raw, countUncorrectable (w * 8) (setCells (w * 8) raw (setFlips w 0 s)))

/-- Reads the words `w`, `w + 1`, … of one unit; once the unit is stored poisoned the rest are returned as stored. -/
def readWords : Nat → Nat → State → List Byte × State
  | 0, _, s => ([], s)
  | n + 1, w, s =>
    let (d, s) := if isPoisoned s (w / 8) then (cellsAt s (w * 8) 8, s) else readWord w s
    let (ds, s) := readWords n (w + 1) s
    (d ++ ds, s)

/-- Reads `n` bytes at `a`, all within one 64-byte unit (R624, R628). -/
def readUnit (a n : Nat) (s : State) : List PByte × State :=
  if !isValid s a then (List.replicate n (0, false), s)
  else
    let w0 := a / 8
    let w1 := (a + n - 1) / 8
    let was := isPoisoned s (a / 64)
    let (ds, s) := readWords (w1 + 1 - w0) w0 s
    let p := isPoisoned s (a / 64)
    let s := match regionOf s a with
      | .gddr o =>
        let c := pgChannel (channelOf s o)
        let s := bump c Reg.CH_READ_BYTES n s
        if was then bump c Reg.CH_POISON_READS 1 s else s
      | _ => s
    (((ds.drop (a % 8)).take n).map fun b => (b, p), s)

/-- The pieces of a range that lie in one 64-byte unit each: address and length. -/
def unitPieces : Nat → Nat → Nat → List (Nat × Nat)
  | 0, _, _ => []
  | _ + 1, _, 0 => []
  | fuel + 1, a, n =>
    let k := min n (64 - a % 64)
    (a, k) :: unitPieces fuel (a + k) (n - k)

/-- The pieces of `n` bytes at `a`. -/
def piecesOf (a n : Nat) : List (Nat × Nat) := unitPieces (n / 64 + 2) a n

/-- Reads `n` bytes at local address `a` of memory. -/
def readPieces : List (Nat × Nat) → State → List PByte × State
  | [], s => ([], s)
  | (a, n) :: ps, s =>
    let (d, s) := readUnit a n s
    let (ds, s) := readPieces ps s
    (d ++ ds, s)

def memRead (a n : Nat) (s : State) : List PByte × State := readPieces (piecesOf a n) s

/-- Fills an unwritten granule or page with zero and sets its valid bit (R629). Unlisted bytes already read zero. -/
def zeroFill (a : Nat) (s : State) : State :=
  if isValid s a then s
  else if a < wellEnd then
    let s := { s with mem := { s.mem with wellValid := put false s.mem.wellValid (a / 256) true } }
    bump (pgTile (a / 0x200000)) Reg.WL_ZERO_FILLS 1 s
  else
    let off := a - gddrBase
    let page := off / 4096
    let s := { s with mem := { s.mem with pageValid := put false s.mem.pageValid page true } }
    let chans := ((List.range 16).map fun i => channelOf s (page * 4096 + i * 256)).eraseDups
    chans.foldl (fun s c => bump (pgChannel c) Reg.CH_ZERO_FILLS 1 s) s

/-- Writes bytes within one unit (R619, R621, R626, R629). -/
def writeUnit (a : Nat) (data : List PByte) (s : State) : State :=
  let n := data.length
  let u := a / 64
  let fresh := !isValid s a
  let s := zeroFill a s
  let whole := n == 64
  let s := if whole || fresh then s
    else match regionOf s a with
      | .gddr o =>
        let c := pgChannel (channelOf s o)
        let s := bump c Reg.CH_RMW 1 s
        (readWords 8 (u * 8) (if isPoisoned s u then bump c Reg.CH_POISON_READS 1 s else s)).2
      | _ =>
        let partly := ((List.range 8).map (u * 8 + ·)).filter fun w =>
          decide (w * 8 < a + n) && decide (a < w * 8 + 8) && !(decide (a ≤ w * 8) && decide (w * 8 + 8 ≤ a + n))
        partly.foldl (fun s w => if isPoisoned s u then s else (readWord w s).2) s
  let s := setCells a (data.map Prod.fst) s
  let s := ((List.range 8).map (u * 8 + ·)).foldl
    (fun s w => if decide (a ≤ w * 8) && decide (w * 8 + 8 ≤ a + n) then setFlips w 0 s else s) s
  let bad := data.any Prod.snd
  let s := if bad then setPoison u true s else if whole then setPoison u false s else s
  match regionOf s a with
  | .gddr o => bump (pgChannel (channelOf s o)) Reg.CH_WRITE_BYTES n s
  | _ => s

/-- Writes bytes at local address `a` of memory, unit by unit. -/
def writePieces : List (Nat × Nat) → List PByte → State → State
  | [], _, s => s
  | (a, n) :: ps, data, s => writePieces ps (data.drop n) (writeUnit a (data.take n) s)

def memWrite (a : Nat) (data : List PByte) (s : State) : State := writePieces (piecesOf a data.length) data s

/-- How a range of memory may be used: which code refuses it, or that it waits (R49, R55, R636, R760). -/
inductive Admit where
  | ok | code (c : Nat) | hold
deriving DecidableEq, Repr

/-- Admission of a byte of memory. -/
def admitByte (s : State) (a : Nat) : Admit :=
  match regionOf s a with
  | .unmapped => .code 0x0201
  | .reg _ => .code 0x0201
  | .well p _ => if lockState s (pgTile p) ≠ 0 then .code 0x0801 else .ok
  | .gddr o =>
    let c := pgChannel (channelOf s o)
    if lockState s c ≠ 0 then .code 0x0801
    else if rd s c Reg.CH_STATE = 1 ∨ rd s c Reg.CH_SELF_REFRESH = 1 then .hold
    else if rd s c Reg.CH_STATE = 2 then .code 0x0242
    else .ok

/-- The admission of a whole range: the first unit that is refused refuses the request whole (R760). -/
def admitPieces (s : State) : List (Nat × Nat) → Admit
  | [] => .ok
  | (a, _) :: ps =>
    match admitByte s a, admitPieces s ps with
    | .code c, _ => .code c
    | _, .code c => .code c
    | .hold, _ => .hold
    | .ok, r => r

def admitMem (s : State) (a n : Nat) : Admit := admitPieces s (piecesOf a n)

/-- Clears the valid bits of well bytes [lo, hi) and drops the contents (R630). -/
def clearWells (lo hi : Nat) (s : State) : State :=
  { s with mem := { s.mem with
      wellValid := dropRange s.mem.wellValid (lo / 256) ((hi + 255) / 256)
      cells := dropRange s.mem.cells lo hi
      poison := dropRange s.mem.poison (lo / 64) ((hi + 63) / 64)
      flips := dropRange s.mem.flips (lo / 8) ((hi + 7) / 8) } }

/-- Clears the valid bits of data-view offsets [lo, hi) and drops the contents (R630). -/
def clearGddr (lo hi : Nat) (s : State) : State :=
  let a := gddrBase + lo
  let b := gddrBase + hi
  { s with mem := { s.mem with
      pageValid := dropRange s.mem.pageValid (lo / 4096) ((hi + 4095) / 4096)
      cells := dropRange s.mem.cells a b
      poison := dropRange s.mem.poison (a / 64) ((b + 63) / 64)
      flips := dropRange s.mem.flips (a / 8) ((b + 7) / 8) } }

end Sys2Proof.Machine
end

