-- ==== Sys2Proof/Machine/Link.lean ====
section
/-! DEFINITION. Sending on Kuslight: flits, packets, virtual channels and the choice of a port (Kuslight Optical Ports). -/

namespace Sys2Proof.Machine

/-- `f n`, with `n` evaluated first (`forced_eq`). -/
def forced {α : Type} (n : Nat) (f : Nat → α) : α :=
  match n with
  | 0 => f 0
  | k + 1 => f (k + 1)

theorem forced_eq {α : Type} (n : Nat) (f : Nat → α) : forced n f = f n := by cases n <;> rfl

/-- `n` bits of CRC-32 with the IEEE 802.3 polynomial, reflected. -/
def crc32Bits : Nat → Nat → Nat
  | 0, c => c
  | n + 1, c => forced (if c % 2 = 1 then (c / 2) ^^^ 0xEDB88320 else c / 2) (crc32Bits n)

/-- A CRC-32 register after the bytes of a string. -/
def crc32From : List Byte → Nat → Nat
  | [], c => c
  | b :: bs, c => forced (crc32Bits 8 (c ^^^ b.toNat)) (crc32From bs)

/-- CRC-32 of a byte string (R658, R819). -/
def crc32 (bs : List Byte) : Nat := crc32From bs 0xFFFFFFFF ^^^ 0xFFFFFFFF

/-- The bytes of a packet: header, then data (R664). -/
def packetBytes (p : Packet) : List Byte :=
  leBytes 1 p.type ++ leBytes 1 p.hops ++ leBytes 2 p.dst ++ leBytes 2 p.src ++ leBytes 2 p.len ++ leBytes 8 p.addr
    ++ leBytes 4 p.tag ++ leBytes 4 p.slack ++ leBytes 8 p.poison ++ p.data

/-- Pads or cuts a byte string to `n` bytes. -/
def padTo (n : Nat) (bs : List Byte) : List Byte := (bs ++ List.replicate (n - bs.length) 0).take n

/-- The 256 bytes of a flit (R658). -/
def flitBytes (seq ack ctl : Nat) (payload : List Byte) : List Byte :=
  let body := leBytes 2 seq ++ leBytes 2 ack ++ leBytes 4 ctl ++ padTo 240 payload ++ leBytes 4 0
  body ++ leBytes 4 (crc32 body)

def getPort (s : State) (n : Nat) : Port := look {} s.link.ports n

def setPort (n : Nat) (p : Port) (s : State) : State :=
  { s with link := { s.link with ports := put {} s.link.ports n p } }

/-- The first virtual channel with credits owed to the peer, and their number. -/
def owedCredit (p : Port) : Nat × Nat := (p.owed.map fun e => (e.1, min e.2 0x1FFF)).headD (0, 0)

/-- The logical lane of flit `k` of a port's sequence (R657). -/
def laneOf (k : Nat) : Nat := k % 8

/-- The wavelength of a transmit lane: its own, or the spare's (R656). -/
def waveOf (s : State) (n lane : Nat) : Nat := if rd s (pgPort n) Reg.KP_LANE_MAP_TX = lane then 8 else lane

/-- Sends one flit on port `n`, on the next lane of its sequence: every flit acknowledges, and returns `cr` credits of
channel `vc` (R657, R659). -/
def emitFlit (n seq ctl vc cr : Nat) (payload : List Byte) (s : State) : State :=
  let p := getPort s n
  let lane := laneOf p.sent
  let bytes := flitBytes seq p.rxSeq (ctl + vc * 2 ^ 8 + cr * 2 ^ 11) payload
  let s := setPort n { p with sent := p.sent + 1 } s
  bump (pgPort n) Reg.KP_TX_FLITS 1 { s with outs := s.outs ++ [.flit n lane (waveOf s n lane) bytes] }

/-- Credits on their way back to the peer are owed no more. -/
def payCredit (p : Port) : Port :=
  let (vc, cr) := owedCredit p
  { p with owed := put 0 p.owed vc (look 0 p.owed vc - cr) }

/-- Sends a link flit with its code and data (R660). -/
def emitLink (n : Nat) (nak : Bool) (code : Nat) (data : List Byte) (s : State) : State :=
  let p := getPort s n
  emitFlit n 0 (natOf nak * 2 ^ 5) (owedCredit p).1 (owedCredit p).2 (leBytes 1 code ++ data) (setPort n (payCredit p) s)

/-- The control word of a data flit without its credit fields (R658). -/
def dataCtl (f : TxFlit) : Nat := f.vc + 2 ^ 3 + natOf f.sop * 2 ^ 4

/-- Takes the first waiting flit whose channel has a credit; flits of one channel keep their order (R664, R667). -/
def takeSendable (credits : List (Nat × Nat)) : List Nat → List TxFlit → Option (TxFlit × List TxFlit)
  | _, [] => none
  | blocked, f :: fs =>
    if !blocked.contains f.vc && decide (0 < look 0 credits f.vc) then some (f, fs)
    else (takeSendable credits (f.vc :: blocked) fs).map fun r => (r.1, f :: r.2)

/-- Sends waiting flits while the port is UP, not paused, within its credits and its 4 096 unacknowledged flits; in M2
a port sends link flits only (R791). -/
def drainPort : Nat → Nat → State → State
  | 0, _, s => s
  | fuel + 1, n, s =>
    let p := getPort s n
    if rd s (pgPort n) Reg.KP_STATUS_STATE ≠ 6 ∨ p.paused = true ∨ 4096 ≤ p.unacked.length
        ∨ rd s pgLockkeeper Reg.RC_PSTATE_STATE = 2 then s
    else match takeSendable p.credits [] p.waiting with
      | none => s
      | some (f, rest) =>
        let f := { f with seq := p.txSeq, crVc := (owedCredit p).1, crCount := (owedCredit p).2 }
        let p := { payCredit p with
          waiting := rest, unacked := p.unacked ++ [f], txSeq := (p.txSeq + 1) % 2 ^ 16
          credits := put 0 p.credits f.vc (look 0 p.credits f.vc - 1) }
        drainPort fuel n (emitFlit n f.seq (dataCtl f) f.crVc f.crCount f.payload (setPort n p s))

/-- Sends all that can be sent on a port. -/
def sendWaiting (n : Nat) (s : State) : State := drainPort ((getPort s n).waiting.length) n s

/-- Cuts a packet's bytes into flit payloads of 240 bytes. -/
def flitPayloads : Nat → List Byte → List (List Byte)
  | 0, _ => []
  | _ + 1, [] => []
  | fuel + 1, bs => bs.take 240 :: flitPayloads fuel (bs.drop 240)

/-- The lower virtual channel of a packet's class (R666). -/
def lowerVc (p : Packet) : Nat :=
  match p.type with
  | 0x04 => 1
  | 0x05 => if p.addr % 256 < 0x10 then 2 else 3
  | _ => 0

/-- The data flits of a packet on a virtual channel, the first with `SOP` (R664). -/
def packetFlits (vc : Nat) (p : Packet) : List TxFlit :=
  match flitPayloads ((packetBytes p).length + 1) (packetBytes p) with
  | [] => []
  | b :: bs => { vc := vc, sop := true, payload := b } :: bs.map fun b => { vc := vc, sop := false, payload := b }

/-- Puts a packet on a port; `upper` says that it already travels on the upper channel (R666). -/
def sendOn (n : Nat) (upper : Bool) (p : Packet) (s : State) : State :=
  let vc := lowerVc p + (if upper || isSet s (pgPort n) Reg.KP_CTRL_DATELINE then 4 else 0)
  let pt := getPort s n
  sendWaiting n (setPort n { pt with waiting := pt.waiting ++ packetFlits vc p } s)

/-- The UP ports of a mask, in ascending order. -/
def upPorts (s : State) (mask : Nat) : List Nat :=
  (List.range 32).filter fun n => bitOf mask n && rd s (pgPort n) Reg.KP_STATUS_STATE == 6

/-- The module's own number (R45). -/
def ownModule (s : State) : Nat := rd s (pgHub 0) Reg.KL_MODULE

/-- The port by which a packet for `dst` leaves, or why it cannot (R677, R678). -/
def routeSelect (s : State) (dst h : Nat) : Except Nat Nat :=
  let mask := look 0 s.link.routes dst
  let ups := upPorts s mask
  if mask = 0 then .error 0x0401
  else if look false s.link.marks dst then .error 0x0402
  else match ups[h % max ups.length 1]? with
    | none => .error 0x0403
    | some n => .ok n

/-- The hash of a request: bits [27:12] of its address XOR the source number (R677). -/
def requestHash (addr src : Nat) : Nat := bitsOf addr 12 16 ^^^ src % 2 ^ 16

/-- Counts a message or response that cannot leave (R935). -/
def unsent (s : State) : State := bump (pgHub 0) Reg.KL_UNSENT 1 s

/-- Sends a message to a module; one that cannot leave is counted and logged at its sender's page (R931, R935). -/
def sendMessage (page kind dst : Nat) (data : List Byte) (s : State) : State :=
  let p : Packet := {
    type := 5, hops := rd s (pgHub 0) Reg.KL_CFG_HOP_LIMIT, dst := dst, src := ownModule s, len := data.length
    addr := kind, tag := 0, slack := 0, poison := 0, data := data }
  match routeSelect s dst kind with
  | .ok n => sendOn n false p s
  | .error c => logErr page c 0 (unsent s)

/-- Sends a response; one that cannot leave is only counted (R665, R677, R935). -/
def sendResponse (dst tag code : Nat) (data : List PByte) (poison : Nat) (s : State) : State :=
  let p : Packet := {
    type := 4, hops := rd s (pgHub 0) Reg.KL_CFG_HOP_LIMIT, dst := dst, src := ownModule s, len := data.length
    addr := code, tag := tag, slack := 0, poison := poison, data := data.map Prod.fst }
  match routeSelect s dst 0 with
  | .ok n => sendOn n false p s
  | .error _ => unsent s

/-- Sends a notice naming a module on every UP port but one (R682, R683). -/
def sendNotice (kind module hops : Nat) (except : Option Nat) (s : State) : State :=
  let data := leBytes 2 module ++ leBytes 6 0
  let p : Packet := {
    type := 5, hops := hops, dst := 0xFFFF, src := module, len := 8
    addr := kind, tag := 0, slack := 0, poison := 0, data := data }
  (upPorts s (2 ^ 32 - 1)).foldl (fun s n => if except = some n then s else sendOn n false p s) s

end Sys2Proof.Machine
end

