-- ==== Sys2Proof/Machine/Fabric.lean ====
section
/-! DEFINITION. The path of a packet over the meshes and the die bridges (Dies, Clusters and Tiles). -/

namespace Sys2Proof.Machine

/-- Where a unit joins the fabric: the router of a cluster by compute die, row and column, or a hub die with the number
of the unit there (R22, R29, R33). -/
inductive Place where
  | router (die row col : Nat)
  | hub (hd unit : Nat)
deriving DecidableEq, Repr

/-- The place of a page's unit. A handpump sits at row 0 of its die, in the column of its number (R29). -/
def placeOf (page : Nat) : Place :=
  let i := instanceOf page
  match clusterOfPage page with
  | some k => .router (dieOfCluster k) (k % 32 / 4) (k % 4)
  | none => if typeOf page = 0x05 then .router (i / 4) 0 (i % 4) else .hub (dieOfPage page - 8) i

/-- The row of dies and the column of a compute die (R19). -/
def dieRow (die : Nat) : Nat := die / 4
def dieCol (die : Nat) : Nat := die % 4

/-- The bridge on the long edge between column `c` of a row of dies and the column, or hub, to its right; `c` = 0 counts
from the hub at the left end (R20). -/
def longBridge (row c : Nat) : Nat := if c = 0 then row else if c = 4 then 8 + row else 2 + 3 * row + (c - 1)

/-- The bridge on the short edge of a column of dies (R20). -/
def shortBridge (col : Nat) : Nat := 10 + col

/-- Mesh links of a die from (row, a) to (row, b), along the row. -/
def alongRow (die row : Nat) : Nat → Nat → Nat → List Hop
  | 0, _, _ => []
  | n + 1, a, b =>
    if a = b then []
    else
      let c := if a < b then a + 1 else a - 1
      .mesh die (row * 4 + a) (row * 4 + c) :: alongRow die row n c b

/-- Mesh links of a die from (a, col) to (b, col), along the column. -/
def alongCol (die col : Nat) : Nat → Nat → Nat → List Hop
  | 0, _, _ => []
  | n + 1, a, b =>
    if a = b then []
    else
      let c := if a < b then a + 1 else a - 1
      .mesh die (a * 4 + col) (c * 4 + col) :: alongCol die col n c b

/-- Within a die: along the row, then along the column (R26). -/
def withinDie (die r c r' c' : Nat) : List Hop := alongRow die r 4 c c' ++ alongCol die c' 8 r r'

/-- Across a row of dies from column `a`, entered at cluster column `c` of cluster row `r`, as far as column `b`: through
the attach port of row `r` at each long edge (R26, R27). Answers the cluster column reached. -/
def acrossDies (row r : Nat) : Nat → Nat → Nat → Nat → List Hop × Nat
  | 0, _, c, _ => ([], c)
  | n + 1, a, c, b =>
    if a = b then ([], c)
    else if a < b then
      let (hs, c') := acrossDies row r n (a + 1) 0 b
      (alongRow (row * 4 + a) r 4 c 3 ++ .bridge (longBridge row (a + 1)) r :: hs, c')
    else
      let (hs, c') := acrossDies row r n (a - 1) 3 b
      (alongRow (row * 4 + a) r 4 c 0 ++ .bridge (longBridge row a) r :: hs, c')

/-- From a router of one compute die to a router of another, or of the same (R26, R27). The short edge is crossed at the
column where the packet is, by the first or second attach port of that router: bit 0 of the source cluster's row. -/
def dieToDie (d r c d' r' c' : Nat) : List Hop :=
  if d = d' then withinDie d r c r' c'
  else
    let (hs, k) := acrossDies (dieRow d) r 3 (dieCol d) c (dieCol d')
    let m := dieRow d * 4 + dieCol d'
    if dieRow d = dieRow d' then hs ++ withinDie d' r k r' c'
    else hs ++ alongCol m k 8 r 0 ++ .bridge (shortBridge (dieCol d')) (2 * k + r % 2) :: withinDie d' 0 k r' c'

/-- From a hub to a router: through the die row of the destination. The spec gives a packet of a hub no cluster row of
its own; it crosses in the row of its destination (DESIGN CHOICE, assumption log 70). -/
def hubToDie (hd d r c : Nat) : List Hop :=
  let (hs, k) := acrossDies (dieRow d) r 3 (if hd = 0 then 0 else 3) (if hd = 0 then 0 else 3) (dieCol d)
  .bridge (longBridge (dieRow d) (if hd = 0 then 0 else 4)) r :: hs ++ withinDie d r k r c

/-- From a router to a hub: along the row of dies to the hub's end (R26). -/
def dieToHub (d r c hd : Nat) : List Hop :=
  let (hs, k) := acrossDies (dieRow d) r 3 (dieCol d) c (if hd = 0 then 0 else 3)
  hs ++ alongRow (dieRow d * 4 + (if hd = 0 then 0 else 3)) r 4 k (if hd = 0 then 0 else 3)
    ++ [.bridge (longBridge (dieRow d) (if hd = 0 then 0 else 4)) r]

/-- From hub to hub: the row of dies is bit 0 of the sending unit's number (R28); the cluster row is that number modulo 8
(DESIGN CHOICE, assumption log 70). -/
def hubToHub (hd unit : Nat) : List Hop :=
  let row := unit % 2
  let (hs, k) := acrossDies row (unit % 8) 3 (if hd = 0 then 0 else 3) (if hd = 0 then 0 else 3) (if hd = 0 then 3 else 0)
  let last := row * 4 + (if hd = 0 then 3 else 0)
  .bridge (longBridge row (if hd = 0 then 0 else 4)) (unit % 8) :: hs
    ++ alongRow last (unit % 8) 4 k (if hd = 0 then 3 else 0) ++ [.bridge (longBridge row (if hd = 0 then 4 else 0)) (unit % 8)]

/-- The path of every packet between two places (R26 to R28). Units of one cluster, or of one hub, meet at its crossbar
or hub fabric and cross no link. -/
def pathBetween : Place → Place → List Hop
  | .router d r c, .router d' r' c' => dieToDie d r c d' r' c'
  | .hub h u, .hub h' _ => if h = h' then [] else hubToHub h u
  | .hub h _, .router d r c => hubToDie h d r c
  | .router d r c, .hub h _ => dieToHub d r c h

/-- The path of a packet from one page's unit to another's. -/
def pathOf (src dst : Nat) : List Hop := pathBetween (placeOf src) (placeOf dst)

/-- A packet of page `src` leaves for the unit of page `dst`: the fabric carries it on its path. -/
def carry (src dst : Nat) (s : State) : State := { s with bus := { s.bus with path := pathOf src dst } }

/-- The page that answers at a local address: the unit whose memory or registers lie there; the directory lies with the
endpoint. -/
def pageAt (s : State) (a : Nat) : Nat :=
  match regionOf s a with
  | .reg x => if x < 0x10000 then pgHost else (x - 0x10000) / 0x1000
  | _ => ownerPage s a

/-! ### Arbitration points (R615) -/

/-- Points 0 to 15 are the channels' queues, 16 to 31 the outputs of the hub fabric toward them, 32 to 63 those toward the
ports, 64 the one toward the endpoint, 72 + n the one toward bridge n, 96 + n the entry of hub pump n's traffic
(DESIGN CHOICE of numbers, assumption log 71). -/
def atPoint (point : Nat) (unit target : Nat) : Bool :=
  if point < 16 then target == pgChannel point
  else if point < 32 then target == pgChannel (point - 16)
  else if point < 64 then target == pgPort (point - 32)
  else if point = 64 then target == pgHost
  else if point < 96 then
    match placeOf unit, (pathOf unit target).head? with
    | .hub _ _, some (.bridge b _) => b == point - 72
    | _, _ => false
  else unit == pgPump (256 + (point - 96))

end Sys2Proof.Machine
end

