-- ==== Sys2Proof/Machine/Bus.lean ====
section
/-! DEFINITION. Requests of the module's masters: local, to a peer, to the host. A unit's work is a program over the
state that can stop with a code, or wait for something that another command brings (assumption log 2). -/

namespace Sys2Proof.Machine

/-- A read that must go out before the work can go on. -/
structure Ask where
  who : Who
  host : Bool
  addr : Nat
  len : Nat
  slack : Nat := 0
deriving DecidableEq, Repr

/-- Why a unit's work stops: a completion code; or it waits: with nothing to do, for a read, for a gated cluster, or
for what a status bit shows (1 credits, 2 a binding, 3 a pending slot, 4 channel data). -/
inductive Stop where
  | code (c : Nat)
  | hold
  | ask (a : Ask)
  | wake (k : Nat)
  | stall (why : Nat)
deriving DecidableEq, Repr

/-- A unit's work over the state. -/
abbrev M (α : Type) := ExceptT Stop (StateM State) α

/-- Runs work: its result and the state it leaves. -/
def runM {α : Type} (m : M α) (s : State) : Except Stop α × State := (ExceptT.run m).run s

/-- Work that stops with a completion code. -/
def failWith {α : Type} (c : Nat) : M α := throw (.code c)

/-- A part of the state, as work. -/
def gets {α : Type} (f : State → α) : M α := do return f (← get)

/-- Stops with `c` when `b` holds. -/
def refuseIf (b : Bool) (c : Nat) : M Unit := if b then failWith c else pure ()

/-- Work that is done where `b` holds. -/
def onlyIf (b : Bool) (m : M Unit) : M Unit := if b then m else pure ()

/-- Waits unless `b` holds. -/
def waitFor (b : Bool) : M Unit := if b then pure () else throw .hold

/-- The completion code of work, 0 for success; waiting goes on waiting. -/
def codeOf (m : M Unit) : M Nat :=
  tryCatch (do m; return 0) fun e => match e with
    | .code c => return c
    | e => throw e

/-! ### The module a global address names -/

def moduleOf (a : Nat) : Nat := a / 2 ^ 48 % 2 ^ 16
def localOf (a : Nat) : Nat := a % 2 ^ 48

/-- The request is handled on this module (R44, R47). -/
def isLocal (s : State) (a : Nat) : Bool := moduleOf a == 0 || moduleOf a == ownModule s

/-- The cluster whose gated clocks the address waits for (R792). -/
def gatedCluster (s : State) (a : Nat) : Option Nat :=
  match regionOf s a with
  | .well p _ => if look false s.gated (clusterOf p) then some (clusterOf p) else none
  | .reg x =>
    match (if x < 0x10000 then none else clusterOfPage ((x - 0x10000) / 0x1000)) with
    | some k => if look false s.gated k then some k else none
    | none => none
  | _ => none

/-! ### Registers as memory of other masters -/

/-- Registers of the Lockkeeper page that answer during its reset (R796, R923). -/
def alwaysOn (page off : Nat) : Bool :=
  page == pgLockkeeper && ((decide (0x100 ≤ off) && decide (off < 0x118)) || (decide (0x140 ≤ off) && decide (off < 0x154)))

/-- A page answers at this offset: listed, and not RESETTING beyond its header (R758, R895). -/
def pageAnswers (s : State) (page off : Nat) : Admit :=
  if pageCount ≤ page then .code 0x0201
  else if lockState s page = 3 ∧ 0x80 ≤ off ∧ !alwaysOn page off then .code 0x0801
  else .ok

/-- Reads `n` bytes of the register range at BAR0 offset `x`, within one page or the directory. -/
def regRead (s : State) (x n : Nat) : Except Nat Nat :=
  if x < 0x10000 then
    .ok ((dirEntry s (x / 8) + dirEntry s (x / 8 + 1) * 2 ^ 64) / 2 ^ (x % 8 * 8) % 2 ^ (n * 8))
  else
    let page := (x - 0x10000) / 0x1000
    let off := (x - 0x10000) % 0x1000
    match pageAnswers s page off with
    | .code c => .error c
    | .hold => .error 0x0801
    | .ok => .ok (pageRead s page off n)

/-- Reads the register range in pieces of at most 8 bytes. -/
def regReadBytes (s : State) : Nat → Nat → Nat → Except Nat (List Byte)
  | 0, _, _ => .ok []
  | _ + 1, _, 0 => .ok []
  | fuel + 1, x, n =>
    let k := min n (8 - x % 8)
    match regRead s x k, regReadBytes s fuel (x + k) (n - k) with
    | .error c, _ => .error c
    | _, .error c => .error c
    | .ok v, .ok bs => .ok (leBytes k v ++ bs)

/-! ### The order of one master's requests (R57) -/

/-- Two ranges of bytes share an aligned 64-byte unit. -/
def sameUnit (a n b m : Nat) : Bool := decide (a / 64 ≤ (b + m - 1) / 64) && decide (b / 64 ≤ (a + n - 1) / 64)

/-- The address of a byte: local where it lies on this module, else global. -/
def wholeAddr (s : State) (a : Nat) : Nat := if isLocal s a then localOf a else a

/-- A request of page `page`'s unit that was issued before number `ord`, and shares a 64-byte unit with `n` bytes at `a`
(`wholeAddr`), is still under way: a register write, an add, or a write that waits (R57). -/
def behind (s : State) (page ord a n : Nat) : Bool :=
  (s.bus.regq.any fun x => x.who.page == page && decide (x.ord < ord) && sameUnit (regBase + x.off) x.data.length a n)
    || (s.bus.adds.any fun x => x.who.page == page && decide (x.ord < ord) && sameUnit (wholeAddr s x.addr) 4 a n)
    || s.bus.held.any fun x => x.who.page == page && decide (x.ord < ord) &&
      sameUnit (wholeAddr s x.addr) x.data.length a n

/-- The number of the next request in the order of issue. -/
def takeOrd : M Nat := do
  let s ← get
  set { s with bus := { s.bus with nextOrd := s.bus.nextOrd + 1 } }
  return s.bus.nextOrd

/-- The endpoint takes memory requests. -/
def endpointUp (s : State) : Bool := !s.host.perst && s.host.settings

/-- Keeps, of a requester's failed writes, the one issued first (R201, R936). -/
def noteWriteErr (w : Who) (ord c : Nat) (s : State) : State :=
  if c = 0 ∨ s.bus.writeErr.any (fun e => e.who == w && decide (e.ord ≤ ord)) then s
  else { s with bus := { s.bus with
    writeErr := s.bus.writeErr.filter (fun e => e.who != w) ++ [{ who := w, ord := ord, code := c }] } }

/-- The answer to a write or add: its code, or, for a unit that a lock has closed since it was issued, nothing but a count
in `RC_STRAY` (R762). -/
def noteAnswer (stale : Bool) (w : Who) (ord c : Nat) (s : State) : State :=
  if stale then bump pgLockkeeper Reg.RC_STRAY 1 s else noteWriteErr w ord c s

/-- Requests under way, of the requesters and numbers that `p` names, get no answer from now on (R762). -/
def staleWhere (p : Who → Nat → Bool) (s : State) : State :=
  { s with bus := { s.bus with
    outstanding := s.bus.outstanding.map fun o => if p o.who o.ord then { o with stale := true } else o
    regq := s.bus.regq.map fun x => if p x.who x.ord then { x with stale := true } else x
    adds := s.bus.adds.map fun x => if p x.who x.ord && x.resp.isNone then { x with stale := true } else x
    held := s.bus.held.map fun x => if p x.who x.ord then { x with stale := true } else x } }

/-- Work of a requester has ended before its writes did: what becomes of them is for no later work of that requester. -/
def disown (w : Who) (s : State) : State :=
  let f := fun v : Who => if v == w then { v with sub := 0xFFFF } else v
  { s with bus := { s.bus with
    outstanding := s.bus.outstanding.map fun o => { o with who := f o.who }
    regq := s.bus.regq.map fun x => { x with who := f x.who }
    adds := s.bus.adds.map fun x => { x with who := f x.who }
    held := s.bus.held.map fun x => { x with who := f x.who }
    writeErr := s.bus.writeErr.filter fun e => e.who != w } }

/-- Sends an atomic add on its way to its word (R230). -/
def pushAdd (w : Who) (a v : Nat) (resp : Option (Nat × Nat)) (s : State) : State :=
  { s with bus := { s.bus with
    nextOrd := s.bus.nextOrd + 1
    adds := s.bus.adds ++ [({ who := w, addr := a, val := v % 2 ^ 32, ord := s.bus.nextOrd, resp := resp } : Add)] } }

/-! ### Local requests -/

/-- A local read (R44, R49, R54, R55). -/
def localRead (w : Who) (a n : Nat) : M (List PByte) := do
  let s ← get
  if n = 0 then return []
  waitFor !behind s w.page s.bus.nextOrd a n
  match regionOf s a with
  | .unmapped => failWith 0x0201
  | .reg x =>
    if let some k := gatedCluster s a then throw (.wake k)
    match regReadBytes s (n + 1) x n with
    | .error c => failWith c
    | .ok bs => return bs.map fun b => (b, false)
  | _ =>
    match admitMem s a n with
    | .code c => failWith c
    | .hold => throw .hold
    | .ok =>
      if let some k := gatedCluster s a then throw (.wake k)
      let (d, s) := memRead a n s
      set s
      return d

/-- A page of the range is write-protected by a running round and not yet copied (R737, R738). -/
def writeHeld (s : State) (a n : Nat) : Bool :=
  (List.range ((a + n - 1) / 65536 + 1 - a / 65536)).any fun i => look false s.mem.wprot (a / 65536 + i)

/-- A local write, number `ord` in the order of issue: memory at once; a register write goes on its way to its page
(R52). -/
def localWrite (w : Who) (ord a : Nat) (d : List PByte) : M Unit := do
  let s ← get
  if d.length = 0 then return ()
  match regionOf s a with
  | .unmapped => failWith 0x0201
  | .reg x =>
    let page := (x - 0x10000) / 0x1000
    match (if x < 0x10000 then .ok else pageAnswers s page ((x - 0x10000) % 0x1000) : Admit) with
    | .code c => failWith c
    | .hold => throw .hold
    | .ok => set { s with bus := { s.bus with
        regq := s.bus.regq ++ [({ who := w, off := x, data := d.map Prod.fst, ord := ord } : RegWrite)] } }
  | _ =>
    waitFor !behind s w.page ord a d.length
    match admitMem s a d.length with
    | .code c => failWith c
    | .hold => throw .hold
    | .ok =>
      if let some k := gatedCluster s a then throw (.wake k)
      if writeHeld s a d.length then throw .hold else set (memWrite a d s)

/-! ### Requests to peers -/

/-- The pieces of a range that lie in one aligned 4 KiB page each (R665). -/
def pagePieces : Nat → Nat → Nat → List (Nat × Nat)
  | 0, _, _ => []
  | _ + 1, _, 0 => []
  | fuel + 1, a, n =>
    let k := min n (4096 - a % 4096)
    (a, k) :: pagePieces fuel (a + k) (n - k)

def splitPages (a n : Nat) : List (Nat × Nat) := pagePieces (n / 4096 + 2) a n

/-- Poison bits of data that starts at `a`, one bit for each 64-byte unit (R664). -/
def poisonMask (a : Nat) (d : List PByte) : Nat :=
  (d.zipIdx).foldl (fun m e => if e.1.2 then m ||| 2 ^ ((a + e.2) / 64 - a / 64) else m) 0

/-- The slack that a request other than a stream's carries, in ns (R616, R646). -/
def bestEffortSlack (s : State) : Nat := max 1 (rd s (pgHub 0) Reg.MEM_ARB_BE_SLACK_US) * 1000

/-- The slack that the requests of the present work carry. -/
def workSlack (s : State) : Nat := if s.bus.slack = 0 then bestEffortSlack s else s.bus.slack - 1

/-- Sends a request packet to a peer and keeps it outstanding; or the code that refuses it (R678). -/
def sendRequest (w : Who) (kind : ReqKind) (ord a n : Nat) (d : List PByte) (slack : Nat) (s : State) :
    Except Nat State :=
  let dst := moduleOf a
  let la := localOf a
  match routeSelect s dst (requestHash la w.page) with
  | .error c => .error c
  | .ok port =>
    let tag := s.bus.nextTag
    let p : Packet := {
      type := match kind with | .read => 1 | .write => 2 | .atomic => 3
      hops := rd s (pgHub 0) Reg.KL_CFG_HOP_LIMIT, dst := dst, src := ownModule s, len := n
      addr := la, tag := tag, slack := slack, poison := poisonMask la d, data := d.map Prod.fst }
    let o : Outstanding := {
      tag := tag, who := w, ord := ord, kind := kind, dst := dst, addr := a, len := n, port := port }
    .ok (sendOn port false p (carry w.page (pgPort port) { s with bus := { s.bus with
      nextTag := (tag + 1) % 2 ^ 32, outstanding := s.bus.outstanding ++ [o] } }))

/-- What has arrived for a read, if anything. -/
def arrivedFor (s : State) (w : Who) (host : Bool) (a n : Nat) : Option Arrived :=
  s.bus.arrived.find? fun r => r.who == w && r.host == host && r.addr == a && r.len == n

/-- A read through a response that another command brings: its data, its code, or the wait for it. -/
def awaitRead (w : Who) (host : Bool) (a n : Nat) : M (List PByte) := do
  let s ← get
  match arrivedFor s w host a n with
  | some r => if r.code = 0 then return r.data else failWith r.code
  | none => throw (.ask { who := w, host := host, addr := a, len := n, slack := workSlack s })

/-- Reads pieces of a peer's memory. -/
def peerRead (w : Who) : List (Nat × Nat) → M (List PByte)
  | [] => return []
  | (a, n) :: ps => do
    let d ← awaitRead w false a n
    let ds ← peerRead w ps
    return d ++ ds

/-- Writes pieces to a peer's memory; each is outstanding until its response. -/
def peerWrite (w : Who) (ord : Nat) : List (Nat × Nat) → List PByte → M Unit
  | [], _ => return ()
  | (a, n) :: ps, d => do
    let s ← get
    match sendRequest w .write ord a n (d.take n) (workSlack s) s with
    | .error c => failWith c
    | .ok s => set s; peerWrite w ord ps (d.drop n)

/-! ### What a master does -/

/-- A request of page `page` crosses the fabric to the owner of the address, and its first message reaches it (R26,
R802). -/
def reachOwner (page a : Nat) (s : State) : State :=
  let s := carry page (pageAt s (localOf a)) s
  match regionOf s (localOf a) with
  | .reg x => reach page ((x - 0x10000) / 0x1000) s
  | .unmapped => s
  | _ => reach page (ownerPage s (localOf a)) s

/-- A read of `n` bytes at a global address (R43 to R49). -/
def busRead (w : Who) (a n : Nat) : M (List PByte) := do
  if n = 0 then return []
  if moduleOf a = 0xFFFF then failWith 0x0202
  if isLocal (← get) a then
    modify (reachOwner w.page a)
    localRead w (localOf a) n
  else
    waitFor !behind (← get) w.page (← get).bus.nextOrd a n
    peerRead w (splitPages a n)

/-- A write at a global address, number `ord` in the order of issue: it is done, or it must wait. -/
def busWriteNow (w : Who) (ord a : Nat) (d : List PByte) : M Unit := do
  if d.length = 0 then return ()
  if moduleOf a = 0xFFFF then failWith 0x0202
  if isLocal (← get) a then
    modify (reachOwner w.page a)
    localWrite w ord (localOf a) d
  else
    waitFor !behind (← get) w.page ord a d.length
    peerWrite w ord (splitPages a d.length) d

/-- Starts the wake of a gated cluster (R792). -/
def startWake (k : Nat) (s : State) : State :=
  wr pgLockkeeper Reg.RC_THROTTLE_WAKE 1 { s with waking := put false s.waking k true }

/-- A write that waits joins those that do; its unit goes on (log 72). -/
def holdWrite (w : Who) (ord a : Nat) (d : List PByte) (s : State) : State :=
  { s with bus := { s.bus with held := s.bus.held ++ [{ who := w, addr := a, data := d, ord := ord }] } }

/-- A unit's own write to the well of its tile; one to a page that a running round still protects waits (R738). -/
def wellWrite (w : Who) (a : Nat) (d : List PByte) (s : State) : State :=
  if writeHeld s a d.length then
    holdWrite w s.bus.nextOrd a d { s with bus := { s.bus with nextOrd := s.bus.nextOrd + 1 } }
  else memWrite a d s

/-- A write of the 32-bit register at offset `off` of a page whose cluster is gated: the clocks start, and the write waits
for them (R792). -/
def writeWhenAwake (k page off v : Nat) (s : State) : State :=
  let s := startWake k s
  holdWrite ⟨pgHost, 0⟩ s.bus.nextOrd (regBase + 0x10000 + page * 0x1000 + off) ((leBytes 4 v).map fun b => (b, false))
    { s with bus := { s.bus with nextOrd := s.bus.nextOrd + 1 } }

/-- A write of a unit at a global address (R43 to R49). One that must wait is taken over by the fabric. -/
def busWrite (w : Who) (a : Nat) (d : List PByte) : M Unit := do
  let ord ← takeOrd
  tryCatch (busWriteNow w ord a d) fun e => match e with
    | .hold => modify (holdWrite w ord a d)
    | .wake k => modify fun s => holdWrite w ord a d (startWake k s)
    | e => throw e

/-- A write whose failure is noted beside those that fail later (R201, R936). -/
def post (w : Who) (a : Nat) (d : List PByte) : M Unit := do
  let ord := (← get).bus.nextOrd
  tryCatch (busWrite w a d) fun e => match e with
    | .code c => modify fun s => noteWriteErr w ord c { s with bus := { s.bus with nextOrd := ord + 1 } }
    | e => throw e

/-- One of the writes that wait is tried again. -/
def tryHeld (s : State) (x : HeldWrite) : State :=
  let gone := { s with bus := { s.bus with held := s.bus.held.filter fun y => y.ord != x.ord } }
  match runM (busWriteNow x.who x.ord x.addr x.data) gone with
  | (.ok _, t) => if x.stale then staleWhere (fun w o => w == x.who && o == x.ord) t else t
  | (.error (.code c), t) => noteAnswer x.stale x.who x.ord c t
  | (.error (.wake k), _) => startWake k s
  | (.error _, _) => s

/-- The writes that wait, in order of issue, as far as what they wait for is over (log 72). -/
def releaseHeld (s : State) : State := s.bus.held.foldl tryHeld s

/-- A read of host memory (R853, R854). -/
def hostRead (w : Who) (a n : Nat) : M (List PByte) := awaitRead w true a n

/-- A posted write to host memory; `relaxed` sets relaxed ordering on it (R852). -/
def hostWrite (a : Nat) (d : List PByte) (relaxed : Bool) : M Unit :=
  modify fun s => { s with outs := s.outs ++ [.hostWrite a d relaxed] }

/-- Sends an atomic add on its way to its word (R230). -/
def busAdd (w : Who) (a v : Nat) : M Unit :=
  modify (pushAdd w a v none)

/-- Data without poison. -/
def clean (bs : List Byte) : List PByte := bs.map fun b => (b, false)

/-- A value read little-endian, with the poison of its bytes. -/
def busReadNat (w : Who) (a n : Nat) : M (Nat × Bool) := do
  let d ← busRead w a n
  return (leNat (d.map Prod.fst), d.any Prod.snd)

/-- Writes a value of `n` bytes. -/
def busWriteNat (w : Who) (a n v : Nat) : M Unit := busWrite w a (clean (leBytes n v))

/-- Every write and add the requester has under way has been acknowledged; else it waits. A failed one completes the
work with its code. -/
def acknowledged (w : Who) : M Unit := do
  let s ← get
  waitFor !((s.bus.outstanding.any fun o => o.who == w && o.kind != .read && !o.stale)
    || (s.bus.adds.any fun x => x.who == w && !x.stale) || (s.bus.regq.any fun x => x.who == w && !x.stale)
    || s.bus.held.any fun x => x.who == w && !x.stale)
  match s.bus.writeErr.find? fun e => e.who == w with
  | some e =>
    set { s with bus := { s.bus with writeErr := s.bus.writeErr.filter fun e => e.who != w } }
    failWith e.code
  | none => return ()

/-- Forgets what arrived for a requester, once its work has used it. -/
def forgetArrived (w : Who) (s : State) : State :=
  { s with bus := { s.bus with arrived := s.bus.arrived.filter fun r => r.who != w } }

/-- Non-posted requests that the module may have outstanding at the host (R852). -/
def hostTags : Nat := 768

/-- Sends a read on its way. A refused one arrives at once with its code; one already under way is not sent again. -/
def issueAsk (a : Ask) (s : State) : State :=
  if s.bus.outstanding.any fun o => o.who == a.who && o.host == a.host && o.addr == a.addr && o.len == a.len
      && o.kind == .read && !o.stale then s
  else if a.host && decide (hostTags ≤ (s.bus.outstanding.filter Outstanding.host).length) then s
  else if a.host then
    let tag := s.bus.nextTag
    { s with
      bus := { s.bus with
        nextTag := (tag + 1) % 2 ^ 32
        outstanding := s.bus.outstanding ++ [{ tag := tag, who := a.who, kind := .read, host := true, dst := 0
                                               addr := a.addr, len := a.len }] }
      outs := s.outs ++ [.hostRead a.addr a.len tag] }
  else match sendRequest a.who .read s.bus.nextOrd a.addr a.len [] a.slack s with
    | .ok s => s
    | .error c => { s with bus := { s.bus with
        arrived := s.bus.arrived ++ [{ who := a.who, addr := a.addr, len := a.len, code := c, data := [] }] } }

/-- Runs a command's work: all of it, or, where it must wait, nothing but what it waits for; a read that is refused at
once is taken up at once. Work that waits for a condition reads afresh when it comes again. -/
def attemptUpTo : Nat → Who → M Unit → State → State
  | 0, _, _, s => s
  | n + 1, w, m, s =>
    match runM m s with
    | (.ok _, s') => forgetArrived w s'
    | (.error (.ask a), _) =>
      let t := issueAsk a s
      if (arrivedFor t a.who a.host a.addr a.len).isSome then attemptUpTo n w m t else t
    | (.error (.wake k), _) => startWake k s
    | (.error _, _) => forgetArrived w s

def attempt (w : Who) (m : M Unit) (s : State) : State := attemptUpTo 16 w m s

/-- Adds to a 32-bit word of local memory, wrapping (R230); the word's unit keeps its poison. -/
def memAdd (a v : Nat) (s : State) : State :=
  let (d, s) := memRead a 4 s
  memWrite a (clean (leBytes 4 (leNat (d.map Prod.fst) + v))) s

end Sys2Proof.Machine
end

