-- ==== Sys2Proof/Machine/Random.lean ====
section
/-! DEFINITION. The counter-based generator of the module (Randomness and Run Monitors). -/

namespace Sys2Proof.Machine

/-- One Philox-4x32 round (R494). -/
def philoxRound (k0 k1 : Nat) (c : Nat × Nat × Nat × Nat) : Nat × Nat × Nat × Nat :=
  let (c0, c1, c2, c3) := c
  let p0 := 0xD2511F53 * c0
  let p1 := 0xCD9E8D57 * c2
  ((p1 / 2 ^ 32) ^^^ c1 ^^^ k0, p1 % 2 ^ 32, (p0 / 2 ^ 32) ^^^ c3 ^^^ k1, p0 % 2 ^ 32)

def philoxRounds : Nat → Nat → Nat → Nat × Nat × Nat × Nat → Nat × Nat × Nat × Nat
  | 0, _, _, c => c
  | n + 1, k0, k1, c =>
    philoxRounds n ((k0 + 0x9E3779B9) % 2 ^ 32) ((k1 + 0xBB67AE85) % 2 ^ 32) (philoxRound k0 k1 c)

/-- The Philox-4x32-10 block of a key and a counter, as four words (R494). -/
def philox (k0 k1 : Nat) (c : Nat × Nat × Nat × Nat) : List Nat :=
  let (a, b, c, d) := philoxRounds 10 k0 k1 c
  [a, b, c, d]

/-- The 16-bit random value of element `i` of a conversion (R90, R495). -/
def elementRandom (seed cls tag sample step i : Nat) : Nat :=
  let w := (philox seed (cls * 2 ^ 16 + tag % 2 ^ 16) (i / 8, sample, step, 0)).getD (i / 2 % 4) 0
  if i % 2 = 0 then w % 2 ^ 16 else w / 2 ^ 16

/-- The random values of a conversion by stream class and tag (R496). -/
def draws (s : State) (cls tag sample step : Nat) : Nat → Nat :=
  elementRandom (rd s pgMonitor Reg.RNG_SEED) cls tag sample step

end Sys2Proof.Machine
end

