-- ==== Sys2Proof/Machine/Generation.lean ====
section
/-! DEFINITION. What every unit takes from the generation unit: bindings, generation windows, scale records, statistics
adds (Weight Generations and Step Commit; Scale and statistics records). -/

namespace Sys2Proof.Machine

/-- The committed generation G. -/
def committed (s : State) : Nat := rd s pgGeneration Reg.GEN_COMMITTED

/-- The binding that a unit's copy shows for a micro-batch; none while unbound there (R299, R301). -/
def bindOf (s : State) (page mb : Nat) : Option Bind :=
  match s.gen.binds.find? (fun e => e.1 == mb) with
  | some (_, b) => if look 0 s.gen.copies (page * 256 + mb) = b.seq then some b else none
  | none => none

/-- The slot that an instruction's reads use: of its binding, or of G for `MB` 0xFF (R302, R306). -/
def readSlot (s : State) (page mb : Nat) : Nat :=
  match bindOf s page mb with
  | some b => b.gen % 3
  | none => committed s % 3

/-- The sample base of a draw (R495). -/
def sampleBase (s : State) (page mb : Nat) : Nat :=
  match bindOf s page mb with
  | some b => b.sample
  | none => 0xFFFFFFFF

/-- The step whose pending slot takes the statistics adds of an instruction, for a unit in a pass of step `pass`
(R307). -/
def statsStep (s : State) (page mb pass : Nat) : Option Nat :=
  if mb = 0xFF then some pass
  else match bindOf s page mb with
    | some b => b.step
    | none => none

/-! ### Passes and vetoes of a step (R319 to R322) -/

/-- Step numbers wrap: `a` is `b` or an earlier step. -/
def notAfter (a b : Nat) : Bool := decide ((b + 2 ^ 32 - a % 2 ^ 32) % 2 ^ 32 < 2 ^ 31)

def stepOpen (s : State) (step : Nat) : Bool := s.gen.opened.any fun o => o.step == step

/-- The place of a cause in the table of R322. -/
def vetoRank (code : Nat) : Nat :=
  match code with
  | 0x0621 => 0
  | 0x0622 => 1
  | 0x0640 => 2
  | 0x0153 => 3
  | _ => 4

/-- The step is the one that is being resolved. -/
def isCurrent (s : State) (step : Nat) : Bool := s.gen.opened.head?.any fun o => o.step == step

/-- Records a cause of a veto of an open step. Of several it keeps the first of the table, until VETO is sent; after READY
there is none (R322). -/
def vetoStep (step code : Nat) (s : State) : State :=
  let told := isCurrent s step && (s.gen.readySent || s.gen.vetoSent)
  if !stepOpen s step || told || s.gen.vetoes.any (fun v => v.1 == step && decide (vetoRank v.2 ≤ vetoRank code)) then s
  else { s with gen := { s.gen with vetoes := s.gen.vetoes.filter (fun v => v.1 != step) ++ [(step, code)] } }

/-- The step of a unit's next pass, when that step has opened: the most recently opened one for a first pass (R319). -/
def nextPass (s : State) (fresh : Bool) (last : Nat) : Option Nat :=
  let now := rd s pgGeneration Reg.GEN_STEP
  let next := (last + 1) % 2 ^ 32
  if fresh then some now else if notAfter next now then some next else none

/-- A unit begins, and ends, its pass of a step. -/
def joinStep (page step : Nat) (s : State) : State :=
  { s with gen := { s.gen with took := s.gen.took.filter (fun e => e != (page, step)) ++ [(page, step)] } }
def finishStep (page step : Nat) (s : State) : State :=
  { s with gen := { s.gen with finished := put 0 s.gen.finished page (step + 1) } }

/-- A participating unit is locked: every open step in which it took part is vetoed, and its queued statistics adds
are discarded (R322, R763, R768). -/
def lockStep (page : Nat) (s : State) : State :=
  let s := s.gen.took.foldl (fun s e => if e.1 = page then vetoStep e.2 0x0622 s else s) s
  { s with gen := { s.gen with statq := s.gen.statq.filter fun q => q.page != page } }

/-! ### Windows (R302 to R304) -/

/-- Generation window `w` of a tile page: base, length and stride, when enabled. -/
def genWindow (s : State) (page w : Nat) : Option (Nat × Nat × Nat) :=
  if rdAt s page Reg.GEN_WIN_ENABLE w = 0 then none
  else some (rdAt s page Reg.GEN_WIN_LO w + rdAt s page Reg.GEN_WIN_HI w * 2 ^ 32, rdAt s page Reg.GEN_WIN_LEN w,
    rdAt s page Reg.GEN_WIN_STRIDE w)

def genWindows (s : State) (page : Nat) : List (Nat × Nat × Nat) := (List.range 8).filterMap (genWindow s page)

/-- The lowest-numbered window of a tile that holds a local address. -/
def windowAt (s : State) (page a : Nat) : Option (Nat × Nat × Nat) :=
  (genWindows s page).find? fun w => decide (w.1 ≤ a) && decide (a < w.1 + w.2.1)

/-- The address that an access of slot `h` uses (R302). -/
def redirect (s : State) (page h a : Nat) : Nat :=
  match windowAt s page a with
  | some w => a + h * w.2.2
  | none => a

/-- A range of bytes, by its address, has a byte in an enabled window. -/
def touchesWindow (s : State) (page : Nat) (r : Nat × Nat) : Bool :=
  let a := wholeAddr s r.1
  (genWindows s page).any fun w => decide (max a w.1 < min (a + r.2) (w.1 + w.2.1))

/-- An edge of an enabled window lies inside a range, which windows then redirect in parts. -/
def cutByWindow (s : State) (page a n : Nat) : Bool :=
  (genWindows s page).any fun w =>
    (decide (a < w.1) && decide (w.1 < a + n)) || (decide (a < w.1 + w.2.1) && decide (w.1 + w.2.1 < a + n))

/-- The parts of `n` bytes at a local address as an access of slot `h` uses them, byte by byte. -/
def redirectBytes (s : State) (page h a n : Nat) : List (Nat × Nat) :=
  (List.range n).map fun i => (redirect s page h (a + i), 1)

/-- The ranges that an access of slot `h` to `n` bytes at a local address uses (R302). -/
def redirectRange (s : State) (page h a n : Nat) : List (Nat × Nat) :=
  if cutByWindow s page a n then redirectBytes s page h a n else [(redirect s page h a, n)]

/-- The window codes of an instruction that reads and writes the given ranges (R304). -/
def windowCheck (s : State) (page mb : Nat) (reads writes : List (Nat × Nat)) : Option Nat :=
  if mb = 0xFF ∧ reads.any (touchesWindow s page) then some 0x0150
  else if writes.any (touchesWindow s page) then some 0x0151
  else none

/-- Reads ranges one after another. -/
def readRanges (w : Who) : List (Nat × Nat) → M (List PByte)
  | [] => return []
  | (a, n) :: rs => do
    let b ← busRead w a n
    let bs ← readRanges w rs
    return b ++ bs

/-- A read for a tile's instruction through the tile's generation windows (R303). -/
def winReadFor (page : Nat) (w : Who) (h a n : Nat) : M (List PByte) := do
  let s ← get
  if n = 0 then return []
  else readRanges w (redirectRange s page h (wholeAddr s a) n)

/-- A read of a tile's own unit. -/
def winRead (w : Who) (h a n : Nat) : M (List PByte) := winReadFor w.page w h a n

/-! ### Scale records (R102 to R110) -/

/-- The coarse scale of slot `h` of a scale record; 1.0 with `COARSE_ONE`. An invalid one is refused (R110). -/
def readCoarse (w : Who) (f : FormatWord) (record h : Nat) : M Nat :=
  if f.coarseOne then return f32One
  else do
    let (c, _) ← busReadNat w (record + 128 * h) 4
    refuseIf (!f32PosNormal c) 0x0301
    return c

/-! ### Statistics adds (R105, R307, R308, R930, R933) -/

/-- The counts of a conversion as an add to a record. -/
def statAdd (page step addr : Nat) (scale : Option Nat) (x : Stats) : StatAdd where
  page := page
  unit := page
  step := step
  addr := addr
  scale := scale
  crushed := x.crushed
  clipped := x.clipped
  nonfinite := x.nonfinite
  flushed := x.flushed
  overflow := x.overflow
  zeroBlocks := x.zeroBlocks
  nanBlocks := x.nanBlocks
  amax := x.amax
  blocks := x.blocks
  hist := (List.range 16).map fun i => (i, x.bin i)

/-- The pending slot of the step is open, and READY has not been sent (R308, R309, R323). -/
def pendingOpen (s : State) (step : Nat) : Bool := isCurrent s step && rd s pgGeneration Reg.GEN_STATUS_PHASE == 2

/-- The step is not open any more, or was never opened (log 27). -/
def stepResolved (s : State) (step : Nat) : Bool := !s.gen.opened.any fun o => o.step == step

/-- An add of the step is dropped: the step is resolved, or it aborts (R933). -/
def dropsAdds (s : State) (step : Nat) : Bool := stepResolved s step || s.gen.aborting.any fun d => d.step == step

/-- The slot of the pending generation (R291). -/
def pendingSlot (s : State) : Nat := (committed s + 1) % 3

/-- Adds to a counter of `n` bytes in a record, which stops at its maximum (R106). -/
def addField (n : Nat) (old : List Byte) (v : Nat) : List Byte := leBytes n (min (leNat old + v) (256 ^ n - 1))

/-- The record with the counts added, field by field (R105, R111). -/
def addRecord (r : List Byte) (a : StatAdd) : List Byte :=
  let f := fun o n => (r.drop o).take n
  addField 8 (f 0x00 8) a.crushed ++ addField 4 (f 0x08 4) a.crushed ++ addField 4 (f 0x0C 4) a.clipped
    ++ addField 4 (f 0x10 4) a.nonfinite ++ addField 4 (f 0x14 4) a.flushed ++ addField 4 (f 0x18 4) a.overflow
    ++ addField 4 (f 0x1C 4) a.zeroBlocks ++ addField 4 (f 0x20 4) a.nanBlocks
    ++ leBytes 4 (f32Max (leNat (f 0x24 4)) a.amax) ++ addField 8 (f 0x28 8) a.blocks
    ++ (List.range 16).flatMap fun i => addField 4 (f (0x30 + 4 * i) 4) (look 0 a.hist i)

/-- Work whose failure is noted beside the requester's failed writes: the one issued first is kept (R930). -/
def noted (w : Who) (m : M Unit) : M Unit :=
  tryCatch m fun e => match e with
    | .code c => do
      let ord ← takeOrd
      modify (noteWriteErr w ord c)
    | e => throw e

/-- A request of another requester to the statistics record at `a` is under way: adds of this module to a peer's record
go one after another (log 77). -/
def recordBusy (s : State) (w : Who) (a : Nat) : Bool :=
  (s.bus.outstanding.any fun o => o.who != w && o.addr == a && o.len == 0x70 && !o.stale)
    || s.bus.arrived.any fun r => r.who != w && r.addr == a && r.len == 0x70

/-- Applies an add to the pending slot, and raises EV_FMT_CRUSH when `STEP_CRUSHED` reaches the alarm (R105, R112). On the
module the add is one step. The link carries 32-bit adds alone (R664, R665), and the spec gives no request that adds a
64-bit count or takes a maximum: to a peer's record the model reads the counts and writes the sums back (DESIGN CHOICE,
log 77). -/
def applyStats (w : Who) (a : StatAdd) : M Unit := do
  let s ← get
  let at_ := a.addr + 128 * pendingSlot s
  waitFor !recordBusy s w at_
  let old ← busRead w at_ 0x70
  let r := old.map Prod.fst
  post w at_ (clean (addRecord r a))
  match a.scale with
  | none => return ()
  | some rec_ =>
    let (alarm, _) ← busReadNat w (rec_ + 128 * pendingSlot s + 8) 4
    let before := leNat ((r.drop 8).take 4)
    if alarm ≠ 0 ∧ before < alarm ∧ alarm ≤ min (before + a.crushed) 0xFFFFFFFF then modify (raiseBit a.unit 3)

/-- `GEN_TSTATUS.STATQ` of a tile shows its entries in use. -/
def showStatq (page : Nat) (s : State) : State :=
  if typeOf page = 0x01 then
    wr page Reg.GEN_TSTATUS_STATQ (s.gen.statq.filter fun q => q.page == page).length s
  else s

/-- The add of an operation that ends: applied, dropped, or queued; a full queue holds the operation (R308, R933). -/
def offerStats (w : Who) (a : StatAdd) : M Unit := do
  let s ← get
  if dropsAdds s a.step then return ()
  else if pendingOpen s a.step then noted w (applyStats w a)
  else
    waitFor (decide ((s.gen.statq.filter fun q => q.page == a.page).length < 16))
    set (showStatq a.page { s with gen := { s.gen with statq := s.gen.statq ++ [a] } })

/-- Offers the adds of an operation that ends, one after another, as far as none must wait. `left` are those that the
operation still has, `drop` takes the first from it. -/
def offerLeft (w : Who) (left : State → List StatAdd) (drop : State → State) : Nat → State → State
  | 0, s => s
  | n + 1, s =>
    match left s with
    | [] => s
    | a :: as =>
      let t := attempt w (do offerStats w a; modify drop) s
      if (left t).length = as.length then offerLeft w left drop n t else t

/-- The list without its first element that satisfies `p`. -/
def dropFirst {α : Type} (p : α → Bool) : List α → List α
  | [] => []
  | x :: xs => if p x then xs else x :: dropFirst p xs

/-- Whose requests the adds of a unit's statistics queue are. -/
def statSub : Nat := 2 ^ 62
def statWho (page : Nat) : Who := ⟨page, statSub⟩

/-- A unit's oldest queued add leaves its queue. -/
def dropQueued (page : Nat) (s : State) : State :=
  showStatq page { s with gen := { s.gen with statq := dropFirst (fun q => q.page == page) s.gen.statq } }

/-- A unit's oldest queued add: applied once its pending slot is open, dropped once its step is resolved or aborts. One
that fails is not retried (R930), and its operation has ended: its code goes nowhere (log 77). -/
def statsAddApply (page : Nat) (s : State) : State :=
  match s.gen.statq.find? fun a => a.page == page with
  | none => s
  | some a =>
    if dropsAdds s a.step then dropQueued page s
    else if pendingOpen s a.step then
      attempt (statWho page) (do
        let _ ← codeOf (applyStats (statWho page) a)
        modify (dropQueued page)) s
    else s

def execStatsAddApply (page : Nat) (s : State) : Host.Outcome State Fault Refusal := whileOn s (statsAddApply page s)

/-! ### Tensor vectors in memory -/

/-- One vector or row of an encoded tensor: packed codes, S8 bytes, poison. -/
structure Encoded where
  codes : List Nat
  s8 : List Nat
  poison : Bool := false
deriving DecidableEq, Repr

def byteOf (n : Nat) : Byte := BitVec.ofNat 8 n

/-- Bytes with one poison mark. -/
def marked (p : Bool) (bs : List Byte) : List PByte := bs.map fun b => (b, p)

/-- The S8 bytes of a vector. -/
def s8Bytes (e : Encoded) : List Byte := e.s8.map byteOf

/-- Encodes a vector of F32 patterns as part of a conversion whose first element here is number `base`. -/
def encodeVec (f : FormatWord) (coarse : Nat) (rnd : Nat → Nat) (base : Nat) (poison : Bool) (xs : List Nat) :
    Encoded × Stats :=
  let (s8, codes, st) := encodeRow f coarse rnd base xs
  (⟨codes, s8, poison⟩, st)

/-- Writes a vector's codes and its block-scale bytes (R192). -/
def writeVec (w : Who) (f : FormatWord) (a b : Nat) (e : Encoded) : M Unit := do
  busWrite w a (marked e.poison (packCodes f.format e.codes))
  busWrite w b (marked e.poison (s8Bytes e))

/-- A vector of `n` elements as read: its codes, its S8 codes, whether a poisoned unit went into it. -/
def readVecWith (rd_ : Nat → Nat → M (List PByte)) (f : FormatWord) (n a b : Nat) : M Encoded := do
  let d ← rd_ a (f.format.bytesFor n)
  let g ← if f.format.blockScaled then rd_ b (blockCount n f.block) else pure []
  return ⟨unpackCodes f.format n (d.map Prod.fst), g.map fun x => x.1.toNat, (d ++ g).any Prod.snd⟩

/-- The F32 elements of an encoded vector under its coarse scale (R79). -/
def decodeVec (f : FormatWord) (coarse : Nat) (e : Encoded) : List Nat := decodeRow f coarse e.s8 e.codes

/-! ### Channel records (R252) -/

/-- Bytes of a record of a vector. -/
def recordBytes (f : FormatWord) : Nat :=
  f.format.bytesFor 64 + (if f.format.blockScaled then (64 / f.block + 3) / 4 * 4 else 0)

/-- The record of a vector: 64 codes, the S8 bytes of their blocks, zero bytes to a multiple of 4. -/
def recordOf (f : FormatWord) (e : Encoded) : List Byte :=
  let codes := (e.codes ++ List.replicate (64 - e.codes.length) 0).take 64
  let s8 := if f.format.blockScaled then (e.s8 ++ List.replicate (64 / f.block - e.s8.length) 0).take (64 / f.block) else []
  padTo (recordBytes f) (packCodes f.format codes ++ s8.map byteOf)

/-- The vector that a record holds. -/
def ofRecord (f : FormatWord) (bs : List Byte) (poison : Bool) : Encoded :=
  let n := f.format.bytesFor 64
  ⟨unpackCodes f.format 64 (bs.take n),
    if f.format.blockScaled then ((bs.drop n).take (64 / f.block)).map BitVec.toNat else [], poison⟩

end Sys2Proof.Machine
end

