-- ==== Sys2Proof/Machine/Channels.lean ====
section
/-! DEFINITION. Channels and credits between tiles, and their commands (Spatial Pipelines and Credits). -/

namespace Sys2Proof.Machine

/-- Base of a tile's well (R48). -/
def wellBase (t : Nat) : Nat := t * 0x200000

/-- Bytes of a slot. -/
def Chan.slotBytes (c : Chan) : Nat := c.recs * c.recBytes

/-- `CH_STATUS.STATE` of an endpoint: 0 closed, 1 open, 2 PEER_LOCKED, 3 opening. -/
def chanState (s : State) (t n : Nat) : Nat := rdAt s (pgTile t) Reg.CH_STATUS_STATE n
def setChanState (t n v : Nat) (s : State) : State := wrAt (pgTile t) Reg.CH_STATUS_STATE n v s

/-- The least credit count of a send endpoint over its receivers. -/
def Chan.least (c : Chan) : Nat :=
  match (receivers c).map (look 0 c.credits) with
  | [] => 0
  | x :: xs => xs.foldl min x

/-- Stores an endpoint and shows its count (R288). -/
def putChan (t n : Nat) (c : Chan) (s : State) : State :=
  wrAt (pgTile t) Reg.CH_STATUS_COUNT n (if c.send then c.least else c.filled.length) (setChan t n c s)

/-- Adds to a receive endpoint's `UNGRANTED`. -/
def addUngranted (t n k : Nat) (s : State) : State :=
  wrAt (pgTile t) Reg.CH_STATUS_UNGRANTED n (rdAt s (pgTile t) Reg.CH_STATUS_UNGRANTED n + k) s

/-- The tile that a receive endpoint's entry names as its sender. -/
def senderTile (c : Chan) : Nat := c.peerCl * 17 + ((maskBits 17 c.peerMask).headD 0)

/-- A slot is freed: its credit goes back, or stays ungranted while the peer is locked (R255, R260). -/
def freeSlot (t n : Nat) (s : State) : State :=
  let c := getChan s t n
  let s := putChan t n { c with filled := c.filled.drop 1, nextRead := c.nextRead + 1, returned := (c.returned + 1) % 2 ^ 32 } s
  if chanState s t n = 2 then
    let c := getChan s t n
    addUngranted t n 1 (setChan t n { c with returned := (c.returned + 2 ^ 32 - 1) % 2 ^ 32 } s)
  else sendChan t n c.session (senderTile c) c.peerCh .credit s

/-- Consumes the next record of a receive endpoint; none while it has not come. Beyond the records received, a locked
peer is an error (R255, R261). The slot is read through the windows for generation slot `h` (R303). -/
def takeRecord (w : Who) (h t n : Nat) : M (Option (List Byte × Bool)) := do
  let s ← get
  let c := getChan s t n
  match c.filled with
  | [] =>
    refuseIf (chanState s t n == 2) 0x0410
    return none
  | r :: rest =>
    if r.seq ≠ c.nextRead then
      refuseIf (chanState s t n == 2) 0x0410
      return none
    let d ← winReadFor (pgTile t) w h (wellBase t + c.buf + r.seq % c.slots * c.slotBytes + r.used * c.recBytes) c.recBytes
    let p := r.poison.getD r.used false || d.any Prod.snd
    if r.used + 1 = r.count then modify (freeSlot t n)
    else modify fun s => setChan t n { c with filled := { r with used := r.used + 1 } :: rest } s
    return some (d.map Prod.fst, p)

/-- Sends one slot of a send endpoint to every receiver; each message spends a credit (R253, R256). An instruction whose
credits a lock has returned at its drain bound sends nothing more: its endpoint is closed (R263, log 76). -/
def sendSlot (t n op : Nat) (count : Nat) (poison : List Bool) (bytes : List Byte) (s : State) : State :=
  let c := getChan s t n
  let rs := receivers c
  if c.reserved = 0 then noteWriteErr ⟨pgTile t, op⟩ s.bus.nextOrd 0x0412 s
  else
  let s := putChan t n { c with
    nextSeq := c.nextSeq + 1, reserved := c.reserved - 1
    credits := rs.foldl (fun m r => put 0 m r (look 0 m r - 1)) c.credits
    sent := rs.foldl (fun m r => put 0 m r ((look 0 m r + 1) % 2 ^ 32)) c.sent } s
  rs.foldl (fun s r => sendChan t n c.session r c.peerCh (.data c.nextSeq count poison bytes op) s) s

/-- Sends records, a slot's worth at a time (R236). -/
def sendRecords (t n op : Nat) : Nat → List (List Byte × Bool) → State → State
  | 0, _, s => s
  | _ + 1, [], s => s
  | fuel + 1, rs, s =>
    let k := (getChan s t n).recs
    let now := rs.take k
    sendRecords t n op fuel (rs.drop k)
      (sendSlot t n op now.length (now.map Prod.snd) (now.map Prod.fst).flatten s)

/-- Gives back the credits that an ended instruction took and did not spend; those of an endpoint that a lock has closed
become ungranted at the receivers (R260). -/
def unreserve (t n k : Nat) (s : State) : State :=
  let c := getChan s t n
  let k := min k c.reserved
  if chanState s t n = 0 then
    let s := (receivers c).foldl (fun s r => addUngranted r c.peerCh k s) s
    putChan t n { c with
      reserved := c.reserved - k
      credits := (receivers c).foldl (fun m r => put 0 m r (look 0 m r - k)) c.credits } s
  else setChan t n { c with reserved := c.reserved - k } s

/-! ### Opening (R257 to R263) -/

/-- The endpoint that an enabled channel-table entry describes (R249). -/
def chanOfEntry (e : List Byte) : Chan :=
  let f := fun o n => leNat ((e.drop o).take n)
  { send := bitOf (f 0 1) 1, recBytes := f 2 2, recs := f 4 1 + 1, slots := f 5 1 + 1, buf := f 8 4
    peerCl := f 0xC 2, peerCh := f 0xE 1, peerMask := f 0x10 4 }

/-- A send endpoint opens: no credits, and a request to every receiver (R257). -/
def openSend (t n : Nat) (c : Chan) (s : State) : State :=
  let k := s.bus.nextOrd + 1
  let s := putChan t n { c with
    session := k, credits := [], sent := [], back := [], lent := [], answered := 0, refused := 0, locked := 0, nextSeq := 0
    reserved := 0 } { s with bus := { s.bus with nextOrd := k } }
  let s := setChanState t n 3 (wrAt (pgTile t) Reg.CH_STATUS_MISMATCH n 0 s)
  (receivers c).foldl (fun s r => sendChan t n k r c.peerCh (.openReq c.recBytes c.recs) s) s

/-- An open receive endpoint answers a request: its entry must name the requester (R257). -/
def answerOpen (t n : Nat) (q : OpenReq) (s : State) : State :=
  let c := getChan s t n
  if !c.send ∧ senderTile c = q.tile ∧ c.peerCh = q.ch then
    let s := putChan t n { c with session := q.session, filled := [], nextRead := 0, got := 0, returned := 0 } s
    let s := wrAt (pgTile t) Reg.CH_STATUS_UNGRANTED n 0 s
    sendChan t n q.session q.tile q.ch (.grant c.recBytes c.recs c.slots) s
  else sendChan t n q.session q.tile q.ch .refuse s

/-- A receive endpoint opens, and answers the requests that wait there. It empties its slots only before it answers one
(R257): until its sender asks, what it holds stays. -/
def openReceive (t n : Nat) (c : Chan) (s : State) : State :=
  let w := c.waiting
  let s := putChan t n { c with waiting := [] } s
  let s := setChanState t n 1 (wrAt (pgTile t) Reg.CH_STATUS_MISMATCH n 0 s)
  w.foldl (fun s q => answerOpen t n q s) s

/-- Opens an endpoint by its direction. -/
def openChan (t n : Nat) (c : Chan) (s : State) : State :=
  let s := wrAt (pgTile t) Reg.CH_STATUS_DIR n (natOf c.send) s
  if c.send then openSend t n c s else openReceive t n c s

/-- What an endpoint keeps when `START` opens it again from its table: the requests that wait, and, at a receive endpoint
that stays one, its slots and counts (R257). -/
def Chan.reopened (c old : Chan) : Chan :=
  if c.send || old.send then { c with waiting := old.waiting }
  else { c with
    waiting := old.waiting, session := old.session, filled := old.filled, nextRead := old.nextRead, got := old.got
    returned := old.returned }

/-- `START` opens endpoint `n` from its table entry; a disabled entry closes it (R248, R257). -/
def openEntry (t n : Nat) (e : Option (List Byte)) (s : State) : State :=
  let old := getChan s t n
  match e with
  | some b => if bitOf (leNat (b.take 1)) 0 then openChan t n ((chanOfEntry b).reopened old) s
      else setChanState t n 0 (putChan t n { waiting := old.waiting } s)
  | none => setChanState t n 0 (putChan t n { waiting := old.waiting } s)

/-- A send endpoint finds its receiver locked (R257, R260). -/
def peerLocked (t n : Nat) (s : State) : State :=
  if chanState s t n = 1 ∨ chanState s t n = 3 then setChanState t n 2 s else s

/-! ### A lock of a tile (R260) -/

/-- What the locked end of a send endpoint does: its credits become ungranted at the receivers. Instructions that have
issued run to their end (R245), so the credits they have taken stay with them until they spend them or end (log 76). -/
def lockSend (t n : Nat) (s : State) : State :=
  let c := getChan s t n
  let s := (receivers c).foldl (fun s r =>
    peerLocked r c.peerCh (addUngranted r c.peerCh (look 0 c.credits r - c.reserved) s)) s
  setChanState t n 0 (putChan t n { c with
    credits := (receivers c).foldl (fun m r => put 0 m r (min (look 0 c.credits r) c.reserved)) c.credits } s)

/-- What the locked end of a receive endpoint does: filled slots go back as credits, waiting requests are dropped. -/
def lockReceive (t n : Nat) (s : State) : State :=
  let c := getChan s t n
  let snd_ := senderTile c
  let s := if chanState s t n = 1 then
      c.filled.foldl (fun s _ => sendChan t n c.session snd_ c.peerCh .credit s) s
    else addUngranted t n c.filled.length s
  let k := if chanState s t n = 1 then c.filled.length else 0
  let s := if chanState s t n = 1 then peerLocked snd_ c.peerCh s else s
  let s := c.waiting.foldl (fun s q => peerLocked q.tile q.ch s) s
  setChanState t n 0 (putChan t n { c with filled := [], waiting := [], returned := (c.returned + k) % 2 ^ 32 } s)

/-- Every endpoint of a tile at its lock point. -/
def lockChannels (t : Nat) (s : State) : State :=
  (List.range 64).foldl (fun s n =>
    let c := getChan s t n
    if chanState s t n = 0 then
      c.waiting.foldl (fun s q => peerLocked q.tile q.ch s) (setChan t n { c with waiting := [] } s)
    else if c.send then lockSend t n s else lockReceive t n s) s

/-! ### Messages (R253 to R263, R802) -/

/-- The tile's domain refuses messages (R760). -/
def tileLocked (s : State) (t : Nat) : Bool := lockState s (pgTile t) != 0

/-- Gives a refused message's credit back to its sender, and its code, in its place in the order of issue, to the
instruction (R201, R260, R263). A sender that a lock
has closed holds no credit: it becomes ungranted at the receiver. Nothing comes back to an opening that is over. -/
def bounce (m : ChanMsg) (op code : Nat) (s : State) : State :=
  let c := getChan s m.tile m.ch
  let s := if c.session ≠ m.session then s
    else if chanState s m.tile m.ch = 0 then
      (if (getChan s m.toTile m.toCh).session = m.session then addUngranted m.toTile m.toCh 1 s else s)
    else putChan m.tile m.ch { c with
      credits := put 0 c.credits m.toTile (look 0 c.credits m.toTile + 1)
      sent := put 0 c.sent m.toTile ((look 0 c.sent m.toTile + 2 ^ 32 - 1) % 2 ^ 32) } s
  noteWriteErr ⟨pgTile m.tile, op⟩ m.ord code s

/-- Places a filled slot in sequence order. -/
def insertSlot (r : RxSlot) : List RxSlot → List RxSlot
  | [] => [r]
  | x :: xs => if r.seq < x.seq then r :: x :: xs else x :: insertSlot r xs

/-- Where the data of a message goes. -/
def dataAt (s : State) (m : ChanMsg) (seq : Nat) : Nat :=
  let c := getChan s m.toTile m.toCh
  wellBase m.toTile + c.buf + seq % c.slots * c.slotBytes

/-- A message reaches its receiver (R253, R260, R263). One of an earlier opening finds that opening closed (log 75). -/
def receiveData (m : ChanMsg) (seq count : Nat) (poison : List Bool) (bytes : List Byte) (op : Nat) (s : State) : State :=
  let st := chanState s m.toTile m.toCh
  let c := getChan s m.toTile m.toCh
  if tileLocked s m.toTile then peerLocked m.tile m.ch (bounce m op 0x0801 s)
  else if st = 0 ∨ st = 3 ∨ c.send = true ∨ c.session ≠ m.session then bounce m op 0x0412 s
  else
    let s := memWrite (dataAt s m seq) (clean bytes) s
    putChan m.toTile m.toCh { c with
      filled := insertSlot ⟨seq, count, poison, 0⟩ c.filled, got := (c.got + 1) % 2 ^ 32 } s

/-- A credit return reaches its sender; a locked sender refuses it (R255, R260). One of an opening that is over at both
ends is gone with it (R262). -/
def receiveCredit (m : ChanMsg) (s : State) : State :=
  let c := getChan s m.toTile m.toCh
  let st := chanState s m.toTile m.toCh
  if tileLocked s m.toTile ∨ st = 0 ∨ c.send = false ∨ c.session ≠ m.session then
    let r := getChan s m.tile m.ch
    if r.session ≠ m.session then s
    else addUngranted m.tile m.ch 1 (setChan m.tile m.ch { r with returned := (r.returned + 2 ^ 32 - 1) % 2 ^ 32 } s)
  else
    putChan m.toTile m.toCh { c with
      credits := put 0 c.credits m.tile (look 0 c.credits m.tile + 1)
      back := put 0 c.back m.tile ((look 0 c.back m.tile + 1) % 2 ^ 32) } s

/-- An open request reaches a receive endpoint: answered, or it waits there (R257). -/
def receiveOpen (m : ChanMsg) (s : State) : State :=
  let c := getChan s m.toTile m.toCh
  if tileLocked s m.toTile then peerLocked m.tile m.ch s
  else if chanState s m.toTile m.toCh = 1 then answerOpen m.toTile m.toCh ⟨m.tile, m.ch, m.session⟩ s
  else setChan m.toTile m.toCh { c with waiting := c.waiting ++ [⟨m.tile, m.ch, m.session⟩] } s

/-- The bit of a receiver in a send endpoint's masks. -/
def receiverBit (c : Chan) (t : Nat) : Nat := 2 ^ (t - c.peerCl * 17)

/-- A send endpoint that has every answer is open, or closed where one refused it (R257). -/
def settleOpen (t n : Nat) (s : State) : State :=
  let c := getChan s t n
  if c.answered = c.peerMask % 2 ^ 17 then setChanState t n (if c.refused = 0 then 1 else 0) s else s

/-- A send endpoint receives a grant: it takes the credits, or notes that the geometry differs (R257, R258). -/
def receiveGrant (m : ChanMsg) (recBytes recs slots : Nat) (s : State) : State :=
  let c := getChan s m.toTile m.toCh
  if chanState s m.toTile m.toCh ≠ 3 ∨ c.session ≠ m.session then s
  else
    let c := { c with answered := c.answered ||| receiverBit c m.tile, lent := put 0 c.lent m.tile slots }
    if recBytes ≠ c.recBytes ∨ recs ≠ c.recs then
      settleOpen m.toTile m.toCh (wrAt (pgTile m.toTile) Reg.CH_STATUS_MISMATCH m.toCh 1 (putChan m.toTile m.toCh c s))
    else settleOpen m.toTile m.toCh
      (putChan m.toTile m.toCh { c with credits := put 0 c.credits m.tile slots } s)

/-- A send endpoint is refused by a receiver, toward which it stays closed (R257). -/
def receiveRefusal (m : ChanMsg) (s : State) : State :=
  let c := getChan s m.toTile m.toCh
  if chanState s m.toTile m.toCh ≠ 3 ∨ c.session ≠ m.session then s
  else settleOpen m.toTile m.toCh (setChan m.toTile m.toCh { c with
    answered := c.answered ||| receiverBit c m.tile, refused := c.refused ||| receiverBit c m.tile } s)

/-- A marker notice reaches a receive endpoint (R810). -/
def receiveNotice (m : ChanMsg) (credits sent back : Nat) (s : State) : State :=
  let c := getChan s m.toTile m.toCh
  let page := pgTile m.toTile
  let s := wrAt page Reg.CH_MARK_INFLIGHT m.toCh ((sent + 2 ^ 32 - c.markGot) % 2 ^ 32) s
  let s := wrAt page Reg.CH_MARK_RETURNS m.toCh ((c.markReturned + 2 ^ 32 - back) % 2 ^ 32) s
  setChan m.toTile m.toCh { c with markCredits := credits + 1 } s

/-- What kind of message a command delivers. -/
inductive ChanKind where
  | data | credit | openReq | answer | notice
deriving DecidableEq, Repr

def ChanBody.kind : ChanBody → ChanKind
  | .data _ _ _ _ _ => .data
  | .credit => .credit
  | .openReq _ _ => .openReq
  | .grant _ _ _ => .answer
  | .refuse => .answer
  | .notice _ _ _ _ => .notice

/-- The effect of a message at its endpoint. -/
def receiveChan (m : ChanMsg) (s : State) : State :=
  match m.body with
  | .data seq count poison bytes op => receiveData m seq count poison bytes op s
  | .credit => receiveCredit m s
  | .openReq _ _ => receiveOpen m s
  | .grant recBytes recs slots => receiveGrant m recBytes recs slots s
  | .refuse => receiveRefusal m s
  | .notice _ credits sent back => receiveNotice m credits sent back s

/-- The message brings data for a page that a running round still protects: it waits (R738). -/
def slotHeld (s : State) (m : ChanMsg) : Bool :=
  match m.body with
  | .data seq _ _ bytes _ => writeHeld s (dataAt s m seq) bytes.length
  | _ => false

/-- Delivers message `i` of the fabric when it is of the kind; a gated cluster wakes first, an older page latches first
(R792, R802). -/
def deliverChan (k : ChanKind) (i : Nat) (s : State) : State :=
  match s.chanq[i]? with
  | none => s
  | some m =>
    if decide (m.body.kind ≠ k) || slotHeld s m then s
    else if look false s.gated (clusterOf m.toTile) then startWake (clusterOf m.toTile) s
    else
      let s := { s with chanq := s.chanq.eraseIdx i }
      let s := if m.stamp = rd s pgMonitor Reg.MON_MARKER_NUMBER ∧ unlatched s (pgTile m.toTile) then
          latchPage (pgTile m.toTile) s else s
      receiveChan m s

def execChannelOpenRequest (index : Nat) (s : State) : Host.Outcome State Fault Refusal :=
  whileOn s (deliverChan .openReq index s)
def execChannelGrant (index : Nat) (s : State) : Host.Outcome State Fault Refusal :=
  whileOn s (deliverChan .answer index s)
def execChannelMessage (index : Nat) (s : State) : Host.Outcome State Fault Refusal :=
  whileOn s (deliverChan .data index s)
def execCreditReturn (index : Nat) (s : State) : Host.Outcome State Fault Refusal :=
  whileOn s (deliverChan .credit index s)
def execMarkerNotice (index : Nat) (s : State) : Host.Outcome State Fault Refusal :=
  whileOn s (deliverChan .notice index s)

/-- The peers of an endpoint have been opened again (R262). -/
def peersOpen (s : State) (c : Chan) : Bool :=
  if c.send then (receivers c).all fun r => !tileLocked s r && chanState s r c.peerCh == 1
  else !tileLocked s (senderTile c) && (chanState s (senderTile c) c.peerCh == 1 || chanState s (senderTile c) c.peerCh == 3)

/-- An endpoint in PEER_LOCKED reopens at its tile's step boundary (R262). -/
def channelReopen (t n : Nat) (s : State) : State :=
  let c := getChan s t n
  if t < 4352 ∧ n < 64 ∧ chanState s t n = 2 ∧ rd s (pgTile t) Reg.SCHED_STATUS_STATE = 2 ∧ peersOpen s c then
    openChan t n c s
  else s

def execChannelReopen (tile ch : Nat) (s : State) : Host.Outcome State Fault Refusal := whileOn s (channelReopen tile ch s)

end Sys2Proof.Machine
end

