-- ==== Sys2Proof/Machine/Hinge.lean ====
section
/-! DEFINITION. Sums of the hinge array and the accumulators' additions (The Hinge Array; Accumulators and Reduction
Order). -/

namespace Sys2Proof.Machine

/-! ### Group values (R125 to R137) -/

/-- Truncates a finite magnitude toward zero to a multiple of 2^q, as a signed multiple of 2^q. -/
def truncTo (q : Int) : Val → Int
  | .fin neg m e =>
    let n : Int := (shiftLeft m (e - q) : Nat)
    if neg then -n else n
  | _ => 0

/-- The largest exponent of the finite nonzero products of a group; none where there is none (R129). -/
def topExponent : List Val → Option Int
  | [] => none
  | v :: vs =>
    let r := topExponent vs
    match v with
    | .fin _ m e => if m = 0 then r else match r with
      | some x => some (max x (floorLog2 m e))
      | none => some (floorLog2 m e)
    | _ => r

/-- W: the exact sum of the truncated products (R129). -/
def windowSum (ps : List Val) : Val :=
  match topExponent ps with
  | none => .zero
  | some e => Val.ofInt (ps.foldl (fun a p => a + truncTo (e - 60) p) 0) (e - 60)

/-- c_ab times W, exact; NaN and infinities by R135 and R136. -/
def groupExact (cab : Val) (ps : List Val) : Val :=
  if ps.any Val.isNan || (ps.contains (.inf false) && ps.contains (.inf true)) then .nan
  else if ps.contains (.inf false) then .inf false
  else if ps.contains (.inf true) then .inf true
  else cab.mul (windowSum ps)

/-- What an addition reports: overflows with the sign of the first, and sums of opposite infinities (R203, R205). -/
structure ArithFlags where
  overflows : Nat := 0
  negative : Bool := false
  invalidSums : Nat := 0
deriving DecidableEq, Repr

def ArithFlags.add (a b : ArithFlags) : ArithFlags where
  overflows := a.overflows + b.overflows
  negative := if a.overflows = 0 then b.negative else a.negative
  invalidSums := a.invalidSums + b.invalidSums

/-- An overflow to the infinity `v`. -/
def overflowOf (v : Val) : ArithFlags := { overflows := 1, negative := v == .inf true }

/-- The flags of the sum `r` of `a` and `b`. -/
def sumFlags (a b r : Val) : ArithFlags :=
  if a.isFin && b.isFin && r.isInf then overflowOf r
  else if a.isInf && b.isInf && r.isNan then { invalidSums := 1 }
  else {}

/-- The flags of forming a group value `v` from its products. -/
def groupFlags (ps : List Val) (v : Val) : ArithFlags :=
  if ps.all Val.isFin && v.isInf then overflowOf v
  else if ps.contains (.inf false) && ps.contains (.inf true) then { invalidSums := 1 }
  else {}

/-- Adds one group into an accumulator element (R130, R131). -/
def addGroup (cab : Val) (acc : Val × ArithFlags) (ps : List Val) : Val × ArithFlags :=
  let v := f32Round (groupExact cab ps)
  let r := f32Round (acc.1.add v)
  (r, (acc.2.add (groupFlags ps v)).add (sumFlags acc.1 v r))

/-- +0 where `x` is not finite, else `y`. -/
def exactPart (x y : Val) : Val := if x.isFin then y else .zero

/-- An exact remainder as an F32 value: where it is subnormal R92 takes it as +0 (assumption log 73). -/
def remainder (x y : Val) : Val := exactPart x (f32Round y)

/-- Adds one group into a pair (h, l) (R154, R155); every addition of finite values can overflow (R203). -/
def addPair (cab : Val) (acc : (Val × Val) × ArithFlags) (ps : List Val) : (Val × Val) × ArithFlags :=
  let x := groupExact cab ps
  let gh := f32Round x
  let gl := remainder gh (x.sub gh)
  let (h, l) := acc.1
  let s := f32Round (h.add gh)
  let e := remainder s ((h.add gh).sub s)
  let u := f32Round (l.add gl)
  let t := f32Round (u.add e)
  let h' := f32Round (s.add t)
  let l' := remainder h' ((s.add t).sub h')
  ((h', l'), (((((acc.2.add (groupFlags ps gh)).add (sumFlags h gh s)).add (sumFlags l gl u)).add (sumFlags u e t)).add
    (sumFlags s t h')))

/-- The groups of G consecutive products (R128). -/
def groupsOf (g : Nat) (ps : List Val) : List (List Val) := piecesOfList g (ps.length + 1) ps

/-- The starting pattern with the groups of a sum line added in ascending order (R131, R132). -/
def addLine (g : Nat) (cab : Val) (start : Nat) (ps : List Val) : Nat × ArithFlags :=
  let (v, fl) := (groupsOf g ps).foldl (addGroup cab) (f32Val start, {})
  (f32Of v, fl)

/-- The same with a pair (h, l); a subnormal e or l is +0 from one group to the next (log 73). -/
def addLinePair (g : Nat) (cab : Val) (h l : Nat) (ps : List Val) : (Nat × Nat) × ArithFlags :=
  let ((a, b), fl) := (groupsOf g ps).foldl (addPair cab) ((f32Val h, f32Val l), {})
  ((f32Of a, f32Of b), fl)

/-- A 0 × ±∞ product (R135, R137). -/
def isInvalid (a b : Val) : Bool := (a.isZero && b.isInf) || (a.isInf && b.isZero)

/-- The exact element values of a vector of codes, without coarse scale (R125, R126). -/
def exactElements (f : FormatWord) (codes s8 : List Nat) : List Val :=
  codes.zipIdx.map fun e => scaledVal f.format Val.one (s8.getD (e.2 / f.block) 0) e.1

/-- c_ab: the product of the coarse scales, rounded once (R127). -/
def coarseProduct (a b : Nat) : Nat := f32Mul a b

/-! ### The array operation descriptor (R158 to R160) -/

/-- Little-endian field of a descriptor. -/
def fld (d : List Byte) (o n : Nat) : Nat := leNat ((d.drop o).take n)

/-- A 32-bit field read as signed. -/
def sfld (d : List Byte) (o : Nat) : Int :=
  let v := fld d o 4
  if v < 2 ^ 31 then v else (v : Int) - 2 ^ 32

def ArrayOp.ctrl (o : ArrayOp) : Nat := fld o.desc 0 4
def ArrayOp.shape (o : ArrayOp) : Nat := fld o.desc 4 4
def ArrayOp.mode (o : ArrayOp) : Nat := bitsOf o.ctrl 0 2
def ArrayOp.group (o : ArrayOp) : Nat := 4 * 2 ^ bitsOf o.ctrl 2 2
def ArrayOp.bank (o : ArrayOp) : Nat := bitsOf o.ctrl 4 1
def ArrayOp.load (o : ArrayOp) : Bool := bitOf o.ctrl 5
def ArrayOp.accSet (o : ArrayOp) : Nat := bitsOf o.ctrl 6 1
def ArrayOp.init (o : ArrayOp) : Bool := bitOf o.ctrl 7
def ArrayOp.paired (o : ArrayOp) : Bool := bitOf o.ctrl 8
def ArrayOp.split3 (o : ArrayOp) : Bool := bitOf o.ctrl 9
def ArrayOp.join (o : ArrayOp) : Bool := bitOf o.ctrl 10
def ArrayOp.vectors (o : ArrayOp) : Nat := bitsOf o.ctrl 16 8 + 1
def ArrayOp.row (o : ArrayOp) : Nat := bitsOf o.ctrl 24 8
def ArrayOp.kLen (o : ArrayOp) : Nat := bitsOf o.shape 0 6 + 1
def ArrayOp.nLen (o : ArrayOp) : Nat := bitsOf o.shape 6 6 + 1
def ArrayOp.fromChannel (o : ArrayOp) : Bool := bitOf o.shape 12
def ArrayOp.statFmt (o : ArrayOp) : FormatWord := FormatWord.ofNat (fld o.desc 0x10 4)
def ArrayOp.strmFmt (o : ArrayOp) : FormatWord := FormatWord.ofNat (fld o.desc 0x38 4)
def ArrayOp.loadOnly (o : ArrayOp) : Bool := o.mode == 2
def ArrayOp.isWindow (o : ArrayOp) : Bool := !o.win.isEmpty

/-- Passes of an operation: 6 for split-3, one for each tap and channel block of a window operation (R151, R458). -/
def ArrayOp.passes (o : ArrayOp) : Nat :=
  if o.isWindow then fld o.win 0 1 * fld o.win 1 1 * fld o.win 2 1 * (fld o.win 3 1 + 1)
  else if o.split3 then 6 else 1

/-- The pieces of pass p, 0 to 5, of a split-3 operation: streamed, then stationary; 0 hi, 1 mid, 2 lo (R151). -/
def splitPieces : List (Nat × Nat) := [(1, 1), (2, 0), (0, 2), (1, 0), (0, 1), (0, 0)]

/-- Tap and channel block of pass p of a window operation (R458). -/
def ArrayOp.tap (o : ArrayOp) (p : Nat) : Nat × Nat := (p / (fld o.win 3 1 + 1), p % (fld o.win 3 1 + 1))

/-- What a pass adds to the stationary addresses (R162, R459). -/
def ArrayOp.statOffset (o : ArrayOp) (p : Nat) : Nat :=
  if o.isWindow then (o.tap p).1 * fld o.win 0x14 4 + (o.tap p).2 * fld o.win 0x18 4
  else if o.split3 then (splitPieces.getD p (0, 0)).2 * fld o.desc 0x1C 4
  else 0

/-- What a pass adds to the streamed addresses (R162, R459). -/
def ArrayOp.strmOffset (o : ArrayOp) (p : Nat) : Int :=
  if o.isWindow then
    let t := (o.tap p).1
    let kw := fld o.win 0 1
    let kh := fld o.win 1 1
    (t / (kw * kh) : Nat) * sfld o.win 0xC + (t / kw % kh : Nat) * sfld o.win 8 + (t % kw : Nat) * sfld o.win 4
      + ((o.tap p).2 : Nat) * sfld o.win 0x10
  else if o.split3 then ((splitPieces.getD p (0, 0)).1 * fld o.desc 0x44 4 : Nat)
  else 0

/-- The bank that pass p drives from (R152, R460). -/
def ArrayOp.bankOf (o : ArrayOp) (p : Nat) : Nat := if p % 2 = 0 then o.bank else 1 - o.bank

/-- Passes that load: all of a window or split-3 operation, else as `LOAD` says (R152, R460). -/
def ArrayOp.loadsNeeded (o : ArrayOp) : Nat :=
  if o.isWindow || o.split3 then o.passes else natOf o.load

/-- An address with a signed offset, in 64 bits: one below 0 lies at the top of the address space. -/
def addrPlus (a : Nat) (d : Int) : Nat := (((a : Int) + d) % 2 ^ 64).toNat

/-- Stationary row i of pass p and its block-scale bytes, as byte ranges (R140). -/
def ArrayOp.statRow (o : ArrayOp) (p i : Nat) : (Nat × Nat) × (Nat × Nat) :=
  let f := o.statFmt
  ((fld o.desc 8 8 + o.statOffset p + i * fld o.desc 0x14 4, f.format.bytesFor 64),
   (fld o.desc 0x28 8 + o.statOffset p + i * fld o.desc 0x18 4, if f.format.blockScaled then 64 / f.block else 0))

/-- Streamed vector t of pass p and its block-scale bytes (R162). -/
def ArrayOp.strmRow (o : ArrayOp) (p t : Nat) : (Nat × Nat) × (Nat × Nat) :=
  let f := o.strmFmt
  ((addrPlus (fld o.desc 0x30 8) (o.strmOffset p) + t * fld o.desc 0x3C 4, f.format.bytesFor 64),
   (addrPlus (fld o.desc 0x50 8) (o.strmOffset p) + t * fld o.desc 0x40 4,
    if f.format.blockScaled then 64 / f.block else 0))

/-- Byte ranges of all rows that the operation loads; none where `LOAD` is 0: the stationary addresses are then not judged
(log 87). -/
def ArrayOp.statRanges (o : ArrayOp) : List (Nat × Nat) :=
  (List.range o.loadsNeeded).flatMap fun p => (List.range 64).flatMap fun i => [(o.statRow p i).1, (o.statRow p i).2]

/-- Byte ranges of all vectors that the operation streams from memory. -/
def ArrayOp.strmRanges (o : ArrayOp) : List (Nat × Nat) :=
  if o.fromChannel || o.loadOnly then []
  else (List.range o.passes).flatMap fun p =>
    (List.range o.vectors).flatMap fun t => [(o.strmRow p t).1, (o.strmRow p t).2]

/-- The scale records it reads. -/
def ArrayOp.scaleRanges (o : ArrayOp) : List (Nat × Nat) :=
  (if o.statFmt.coarseOne then [] else [(fld o.desc 0x20 8, 4)])
    ++ (if o.strmFmt.coarseOne then [] else [(fld o.desc 0x48 8, 4)])

/-! ### Accumulators (R175 to R178) -/

def accKey (set row lane : Nat) : Nat := (set * 256 + row) * 64 + lane
def accGet (x : Tile) (set row lane : Nat) : Nat := look 0 x.acc (accKey set row lane)
def accPut (set row lane v : Nat) (x : Tile) : Tile := { x with acc := put 0 x.acc (accKey set row lane) v }
def rowPoison (x : Tile) (set row : Nat) : Bool := look false x.accPoison (set * 256 + row)
def setRowPoison (set row : Nat) (p : Bool) (x : Tile) : Tile :=
  { x with accPoison := put false x.accPoison (set * 256 + row) p }

/-- The rows of vector t: one, or the two of its pair (R153). -/
def ArrayOp.rowsOf (o : ArrayOp) (t : Nat) : List Nat :=
  if o.paired then [2 * (o.row + t), 2 * (o.row + t) + 1] else [o.row + t]

/-- Element i of the streamed vector with cell (row, column) of the bank, along the sum line of a lane (R114, R115). -/
def lineTerms (colRead : Bool) (cells : List (List Val)) (xs : List Val) (k lane : Nat) : List (Val × Val) :=
  (List.range k).map fun j =>
    ((if colRead then (cells.getD j []).getD lane .zero else (cells.getD lane []).getD j .zero), xs.getD j .zero)

/-- The decoded cells of a bank; only the rows a read uses. The format word of the load decodes them, whatever an operation
with `LOAD` 0 names (log 87). -/
def bankCells (b : Bank) : List (List Val) :=
  let f := FormatWord.ofNat b.fmt
  b.codes.zipIdx.map fun r => exactElements f r.1 (b.s8.getD r.2 [])

/-- One lane's new value(s), its flags and its 0 × ±∞ positions. -/
structure LaneSum where
  lane : Nat
  hi : Nat
  lo : Nat
  flags : ArithFlags
  invalid : List Nat
deriving DecidableEq, Repr

/-- Products of a sum line, all 64 positions (R118). -/
def lineProducts (terms : List (Val × Val)) : List Val :=
  (terms.map fun t => t.1.mul t.2) ++ List.replicate (64 - terms.length) .zero

/-- The sum of one lane for vector t, from the accumulator's contents or from +0 (R125 to R132, R155, R156). -/
def laneSum (o : ArrayOp) (x : Tile) (cells : List (List Val)) (xs : List Val) (t lane : Nat) : LaneSum :=
  let terms := lineTerms (o.mode == 1) cells xs o.kLen lane
  let inv := (terms.zipIdx.filter fun e => isInvalid e.1.1 e.1.2).map Prod.snd
  let fresh := o.init && o.pass == 0
  let cab := f32Val o.cab
  let ps := lineProducts terms
  if o.paired then
    let h := if fresh then 0 else accGet x o.accSet (2 * (o.row + t)) lane
    let l := if fresh then 0 else accGet x o.accSet (2 * (o.row + t) + 1) lane
    let ((a, b), fl) := addLinePair o.group cab h l ps
    ⟨lane, a, b, fl, inv⟩
  else
    let (a, fl) := addLine o.group cab (if fresh then 0 else accGet x o.accSet (o.row + t) lane) ps
    ⟨lane, a, 0, fl, inv⟩

/-- Writes a lane's result. -/
def storeLane (o : ArrayOp) (t : Nat) (x : Tile) (r : LaneSum) : Tile :=
  if o.paired then accPut o.accSet (2 * (o.row + t) + 1) r.lane r.lo (accPut o.accSet (2 * (o.row + t)) r.lane r.hi x)
  else accPut o.accSet (o.row + t) r.lane r.hi x

/-- The poison of the rows of vector t after an addition whose own inputs carry `p` (R138, R139, R177). -/
def storePoison (o : ArrayOp) (t : Nat) (p : Bool) (x : Tile) : Tile :=
  (o.rowsOf t).foldl (fun x r =>
    setRowPoison o.accSet r (if o.init && o.pass == 0 then p else rowPoison x o.accSet r || p) x) x

/-! ### The arithmetic status (R203 to R211) -/

/-- Counts and captures the overflows of a lane (R203). -/
def noteOverflow (page : Nat) (o : ArrayOp) (t : Nat) (r : LaneSum) (s : State) : State :=
  if r.flags.overflows = 0 then s
  else
    let s := bump page Reg.OVERFLOW_COUNT r.flags.overflows s
    if isSet s page Reg.AS_STATUS_OVERFLOW then s
    else wr page Reg.AS_STATUS_OVERFLOW 1 (wr page Reg.OVF_CAPTURE
      (o.row + t + r.lane * 2 ^ 8 + o.accSet * 2 ^ 14 + natOf r.flags.negative * 2 ^ 15 + o.ins.tag * 2 ^ 16) s)

/-- Counts the sums of opposite infinities of a lane (R205). -/
def noteInvalidSum (page : Nat) (r : LaneSum) (s : State) : State :=
  if r.flags.invalidSums = 0 then s
  else wr page Reg.AS_STATUS_INVALID_SUM 1 (bump page Reg.INVALID_SUM_COUNT r.flags.invalidSums s)

/-- Counts and captures the 0 × ±∞ products of a lane; lanes come in ascending order (R207 to R209, R211, R463). -/
def noteInvalid (page : Nat) (o : ArrayOp) (t : Nat) (r : LaneSum) (s : State) : State :=
  match r.invalid with
  | [] => s
  | pos :: _ =>
    let s := bump page Reg.INVALID_COUNT r.invalid.length s
    if isSet s page Reg.AS_STATUS_INVALID then s
    else
      let s := wr page Reg.WIT_CAPTURE
        (o.row + t + r.lane * 2 ^ 8 + pos * 2 ^ 14 + o.accSet * 2 ^ 20 + natOf (o.mode == 1) * 2 ^ 21
          + natOf o.paired * 2 ^ 22 + (if o.split3 then o.pass + 1 else 0) * 2 ^ 23) s
      raiseBit page 4 (wr page Reg.AS_STATUS_INVALID 1 (wr page Reg.WIT_TAG o.ins.tag s))

/-- Adds a vector into its accumulator rows (R117, R118). -/
def addVector (t : Nat) (o : ArrayOp) (cells : List (List Val)) (xs : List Val) (v : Nat) (poison : Bool) (s : State) :
    State :=
  let x := getTile s t
  let rs := (List.range o.nLen).map (laneSum o x cells xs v)
  let x := storePoison o v poison (rs.foldl (storeLane o v) x)
  let page := pgTile t
  rs.foldl (fun s r => noteInvalidSum page r (noteOverflow page o v r (noteInvalid page o v r s))) (setTile t x s)

end Sys2Proof.Machine
end

