-- ==== Sys2Proof/Machine/Schedule.lean ====
section
/-! DEFINITION. The tile scheduler: program headers, lists, checks of the scheduler, completion and halting (Spatial
Pipelines and Credits). -/

namespace Sys2Proof.Machine

/-- Bytes of a well. -/
def wellBytes : Nat := 0x200000

/-- Whose requests an instruction's are. -/
def opWho (t : Nat) (i : Issued) : Who := ⟨pgTile t, i.seq⟩

/-- `SCHED_STATUS.STATE`: 0 IDLE, 1 RUNNING, 2 BOUNDARY, 3 HALTED. -/
def schedState (s : State) (t : Nat) : Nat := rd s (pgTile t) Reg.SCHED_STATUS_STATE

def setSched (t v : Nat) (s : State) : State := wr (pgTile t) Reg.SCHED_STATUS_STATE v s

/-- Notes what the head of a list waits for, and shows it: `CREDIT_WAIT` is the main list's alone (R288, R341). -/
def setWait (t : Nat) (ring : Bool) (why : Nat) (s : State) : State :=
  let page := pgTile t
  let x := getTile s t
  let x := if ring then { x with ringWait := why } else { x with mainWait := why }
  wr page Reg.SCHED_STATUS_CREDIT_WAIT (natOf (x.mainWait == 1))
    (wr page Reg.GEN_TSTATUS_MB_WAIT (natOf (x.mainWait == 2 || x.ringWait == 2))
      (wr page Reg.GEN_TSTATUS_UPDATE_WAIT (natOf (x.mainWait == 3 || x.ringWait == 3)) (setTile t x s)))

/-- Neither list has a head that waits. -/
def clearWaits (t : Nat) (s : State) : State := setWait t true 0 (setWait t false 0 s)

/-- Halts a scheduler with a code (R245). -/
def haltTile (t code tag : Nat) (s : State) : State :=
  let page := pgTile t
  let s := logErr page code tag s
  if schedState s t = 3 then s
  else
    let x := getTile s t
    let s := if schedState s t = 1 then vetoStep (rd s page Reg.GEN_TSTEP) 0x0621 s else s
    let s := setTile t { x with stopping := false, starting := false } s
    let s := wr page Reg.SCHED_CTRL_START 0 (wr page Reg.SCHED_CTRL_STOP 0 s)
    let s := clearWaits t s
    raiseBit page 5 (wr page Reg.SCHED_STATUS_HALT_CODE code (setSched t 3 s))

/-- The bytes of a completion entry (R242). -/
def completionEntry (i : Issued) (code cycles : Nat) : List Byte :=
  leBytes 2 i.index ++ leBytes 1 i.place ++ leBytes 1 i.opc ++ leBytes 2 code ++ leBytes 2 i.tag ++ leBytes 4 i.step
    ++ leBytes 4 (min cycles 0xFFFFFFFF)

/-- An instruction completes (R243 to R247). -/
def completeIns (t : Nat) (i : Issued) (code cycles : Nat) (s : State) : State :=
  let page := pgTile t
  let x := getTile s t
  let s := setTile t { x with live := x.live.filter fun j => j.seq != i.seq } s
  let s := bump page Reg.SCHED_PROGRESS 1 s
  let s := if code ≠ 0 ∨ bitOf i.flags 0 then
      let n := rd s page Reg.SCHED_COMP_COUNT
      wr page Reg.SCHED_COMP_COUNT (n + 1)
        (wellWrite ⟨page, 0xFFFF⟩ (wellBase t + x.compBase + 16 * (n % x.compLen)) (clean (completionEntry i code cycles)) s)
    else s
  if code = 0 then s else haltTile t code i.tag s

/-! ### Lists (R223, R225, R232, R238, R266) -/

/-- The instruction at the head of a list. -/
structure Head where
  ring : Bool
  seg : Bool
  idx : Nat
  opc : Nat
  flags : Nat
  mb : Nat
  a0 : Nat
  a1 : Nat
  a2 : Nat
deriving DecidableEq, Repr

/-- Reads an instruction of a list in the tile's well. -/
def fetchIns (t : Nat) (ring seg : Bool) (off idx : Nat) : M Head := do
  let d ← busRead ⟨pgTile t, 0⟩ (wellBase t + off) 16
  let b := d.map Prod.fst
  return { ring := ring, seg := seg, idx := idx, opc := fld b 0 1, flags := fld b 1 1, mb := fld b 2 1
           a0 := fld b 4 4, a1 := fld b 8 4, a2 := fld b 12 4 }

/-- The head of the main list, or of the segment that runs in it. -/
def mainHead (t : Nat) : M (Option Head) := do
  let s ← get
  let x := getTile s t
  if schedState s t ≠ 1 then return none
  else if isSet s (pgTile t) Reg.SCHED_STATUS_IN_SEG then
    return some (← fetchIns t false true (x.segBase + 16 * x.segIdx) x.segIdx)
  else if x.mainIdx < x.mainLen then
    return some (← fetchIns t false false (x.mainBase + 16 * x.mainIdx) x.mainIdx)
  else return none

/-- The entry at `SCHED_FILL_HEAD`, when the ring is not empty. -/
def ringHead (t : Nat) : M (Option Head) := do
  let s ← get
  let x := getTile s t
  let h := rd s (pgTile t) Reg.SCHED_FILL_HEAD
  if schedState s t ≠ 1 ∨ x.fillLen = 0 ∨ h = rd s (pgTile t) Reg.SCHED_FILL_TAIL then return none
  else return some (← fetchIns t true false (x.fillBase + 16 * (h % x.fillLen)) (h % x.fillLen))

/-- The list moves past its head (R238, R266, R288, R371). -/
def advanceList (t : Nat) (h : Head) (s : State) : State :=
  let page := pgTile t
  let s := setWait t h.ring 0 s
  let x := getTile s t
  if h.ring then bump page Reg.FILL_ISSUED 1 (wr page Reg.SCHED_FILL_HEAD (rd s page Reg.SCHED_FILL_HEAD + 1) s)
  else if h.seg then
    let s := bump page Reg.SEG_ISSUED 1 s
    let s := wr page Reg.SCHED_PC_SEG (x.segIdx + 1) (setTile t { x with segIdx := x.segIdx + 1 } s)
    if x.segIdx + 1 = x.segLen then wr page Reg.SCHED_STATUS_IN_SEG 0 s else s
  else wr page Reg.SCHED_PC_MAIN (x.mainIdx + 1) (setTile t { x with mainIdx := x.mainIdx + 1 } s)

/-- The record of an instruction at its issue (R231, R242, R306, R307, R370). -/
def issuedOf (t : Nat) (h : Head) (tag : Nat) (s : State) : Issued :=
  let page := pgTile t
  let pass := rd s page Reg.GEN_TSTEP
  { seq := (getTile s t).nextSeq, opc := h.opc, flags := h.flags, mb := h.mb, index := h.idx % 2 ^ 16
    place := natOf h.ring + 2 * natOf h.seg, tag := tag, step := rd s page Reg.SCHED_STEP
    slot := readSlot s page h.mb, sample := sampleBase s page h.mb, pass := pass
    stats := if h.seg then none else statsStep s page h.mb pass }

/-- The head issues: it enters the tile's list of live instructions. -/
def issueHead (t : Nat) (h : Head) (i : Issued) : M Unit :=
  modify fun s =>
    let x := getTile s t
    advanceList t h (setTile t { x with nextSeq := x.nextSeq + 1, live := x.live ++ [i] } s)

/-- The head issues and completes at once with a code. -/
def settleHead (t : Nat) (h : Head) (tag code : Nat) : M Unit := do
  let i := issuedOf t h tag (← get)
  issueHead t h i
  modify (completeIns t i code 0)

/-! ### Conditions and checks of the scheduler (R233, R234, R241) -/

def O_ARRAY : Nat := 1
def O_DRAIN : Nat := 2
def O_TAIL : Nat := 3
def O_SEND : Nat := 4
def O_RECV : Nat := 5
def O_PUMP : Nat := 6
def O_WAIT : Nat := 7
def O_SIGNAL : Nat := 8
def O_SEG : Nat := 9
def O_FILL_ON : Nat := 10
def O_FILL_OFF : Nat := 11
def O_STEP_END : Nat := 12

/-- Earlier instructions of the head's own list that have not completed. -/
def liveOf (x : Tile) (ring : Bool) : List Issued := x.live.filter fun i => bitOf i.place 0 == ring

/-- The set is logically free (R180). -/
def setFree (s : State) (t set : Nat) : Bool := rdAt s (pgTile t) Reg.ACC_SET_OWNED set == 0

def fillOpen (s : State) (t : Nat) : Bool := isSet s (pgTile t) Reg.SCHED_STATUS_FILL_OPEN

/-- Checks 1 to 4 (R241). -/
def listChecks (s : State) (t : Nat) (h : Head) : Option Nat :=
  if h.opc = 0 ∨ 12 < h.opc ∨ 4 ≤ h.flags then some 0x0134
  else if h.ring ∧ 5 < h.opc then some 0x0135
  else if h.seg ∧ (h.opc = O_SEG ∨ O_FILL_ON ≤ h.opc) then some 0x0136
  else if (h.opc = O_FILL_ON ∧ fillOpen s t) ∨ (h.opc = O_FILL_OFF ∧ !fillOpen s t)
      ∨ (h.opc = O_STEP_END ∧ fillOpen s t) then some 0x0137
  else none

/-- Check 5, for an instruction that names `set` (R265). -/
def fillSetBreach (s : State) (t : Nat) (h : Head) (set : Option Nat) : Bool :=
  match set with
  | none => false
  | some v => fillOpen s t && ((v == rd s (pgTile t) Reg.SCHED_STATUS_FILL_SET) != h.ring)

/-- Check 6: bytes at a well offset lie within the well. -/
def beyondWell (off n : Nat) : Bool := decide (wellBytes < off + max n 1)

/-- Check 7 of a channel that an instruction names. -/
def chanCheck (s : State) (t n : Nat) (send : Bool) : Option Nat :=
  let c := getChan s t n
  if 64 ≤ n ∨ c.recBytes = 0 ∨ c.send ≠ send then some 0x013A else none

/-- Check 8: the record size of its format. -/
def recordCheck (s : State) (t n rb : Nat) : Option Nat :=
  if rb = (getChan s t n).recBytes then none else some 0x013B

/-- Stops with a code where there is one. -/
def refuseSome (c : Option Nat) : M Unit :=
  match c with
  | some x => failWith x
  | none => return ()

/-- A send endpoint that an instruction of `r` records names: its state's codes, the hold while it opens, check 9
(R236, R241, R257, R258, R260). Answers the slots it needs. -/
def sendSlots (t n slots : Nat) : M Unit := do
  let s ← get
  let c := getChan s t n
  let st := chanState s t n
  refuseIf (st == 2) 0x0410
  refuseIf (rdAt s (pgTile t) Reg.CH_STATUS_MISMATCH n == 1) 0x0411
  refuseIf (c.refused != 0 || st == 0) 0x0412
  if st = 3 then throw (.stall 1)
  refuseIf ((receivers c).any fun r => decide (look 0 c.lent r < slots)) 0x013C

/-- Slots for `r` records of a channel (R236). -/
def slotsFor (s : State) (t n r : Nat) : Nat :=
  let k := (getChan s t n).recs
  (r + k - 1) / k

/-- The channel holds the credits that the instruction needs; it takes them (R236). -/
def takeCredits (t n slots : Nat) : M Unit := do
  let s ← get
  let c := getChan s t n
  if c.least < c.reserved + slots then throw (.stall 1)
  else set (setChan t n { c with reserved := c.reserved + slots } s)

/-- The micro-batch of an instruction is bound in the tile's copy (R301). -/
def needBound (t : Nat) (h : Head) : M Unit := do
  let s ← get
  if h.mb ≠ 0xFF ∧ (bindOf s (pgTile t) h.mb).isNone then throw (.stall 2)

/-- Reads a descriptor of `n` bytes at a well offset, through the windows (R227, R303). -/
def readDesc (t : Nat) (h : Head) (off n : Nat) : M (List Byte) := do
  let s ← get
  let d ← winRead ⟨pgTile t, 0⟩ (readSlot s (pgTile t) h.mb) (wellBase t + off) n
  return d.map Prod.fst

/-- The window codes of an instruction (R304). -/
def checkWindows (t : Nat) (h : Head) (reads writes : List (Nat × Nat)) : M Unit := do
  let s ← get
  refuseSome (windowCheck s (pgTile t) h.mb reads writes)

/-- Counts a wait: each attempt that credits or channel data hold back is one cycle of it (R288; log 28). -/
def countStall (t why : Nat) (ring : Bool) (s : State) : State :=
  if why = 1 then (if ring then s else bump (pgTile t) Reg.CREDIT_STALL 1 s)
  else if why = 4 then bump (pgTile t) Reg.DATA_STALL 1 s
  else s

/-- Runs work of a tile's units; a wait for channel data is counted. -/
def tileWork (t : Nat) (m : M Unit) (s : State) : State :=
  match runM m s with
  | (.ok _, s') => forgetArrived ⟨pgTile t, 0⟩ s'
  | (.error (.ask a), _) => issueAsk a s
  | (.error (.wake k), _) => startWake k s
  | (.error (.stall why), _) => countStall t why false (forgetArrived ⟨pgTile t, 0⟩ s)
  | (.error _, _) => forgetArrived ⟨pgTile t, 0⟩ s

/-- Attempts the issue of the head of a list; a wait of the head leaves only its mark. -/
def headWork (t : Nat) (ring : Bool) (m : M Unit) (s : State) : State :=
  match runM m s with
  | (.ok _, s') => forgetArrived ⟨pgTile t, 0⟩ s'
  | (.error (.ask a), _) => issueAsk a s
  | (.error (.wake k), _) => startWake k s
  | (.error (.stall why), _) => countStall t why ring (setWait t ring why (forgetArrived ⟨pgTile t, 0⟩ s))
  | (.error _, _) => forgetArrived ⟨pgTile t, 0⟩ s

end Sys2Proof.Machine
end

