-- ==== Sys2Proof/Machine/Transcend.lean ====
section
/-! DEFINITION. The transcendental steps: the F32 value nearest the exact result (R275). Each is enclosed in an interval
of fixed-point numbers; when both ends round alike, that is the result, else the precision doubles. -/

namespace Sys2Proof.Machine

/-- An enclosure at precision P: the value lies between lo and hi, both times 2^-P. -/
structure Enclosure where
  neg : Bool
  lo : Nat
  hi : Nat
deriving DecidableEq, Repr

/-- Rounds to F32 by the first precision whose enclosure decides it. -/
def decideRound (f : Nat → Enclosure) : List Nat → Nat
  | [] => 0x7FC00000
  | p :: ps =>
    let e := f p
    let a := f32Of (.fin e.neg e.lo (-(p : Int)))
    let b := f32Of (.fin e.neg e.hi (-(p : Int)))
    if a = b then a else if ps.isEmpty then b else decideRound f ps

/-- The precisions tried. -/
def precisions : List Nat := [256, 512, 1024]

def roundEnclosed (f : Nat → Enclosure) : Nat := decideRound f precisions

/-- m * 2^e in fixed point at precision p, rounded down. -/
def toFixed (p m : Nat) (e : Int) : Nat := shiftLeft m (e + p)

/-- Sum of the Taylor terms of exp from number n on: `t` is term n - 1. -/
def expTerms (p y : Nat) : Nat → Nat → Nat → Nat
  | 0, _, _ => 0
  | k + 1, n, t => let t := t * y / 2 ^ p / n; t + expTerms p y k (n + 1) t

def squareTimes (p : Nat) : Nat → Nat → Nat
  | 0, s => s
  | n + 1, s => squareTimes p n (s * s / 2 ^ p)

/-- exp of a magnitude m * 2^e below 2^8, enclosed. -/
def expMag (p m : Nat) (e : Int) : Nat × Nat :=
  let j : Nat := 16
  let y := toFixed p m (e - j)
  let s := squareTimes p j (2 ^ p + expTerms p y p 1 (2 ^ p))
  let err := s / 2 ^ (p - j - 16) + 1
  (s - err, s + err)

/-- 1 / v for an enclosed v. -/
def recipEnc (p : Nat) (v : Nat × Nat) : Nat × Nat := (2 ^ (2 * p) / v.2, 2 ^ (2 * p) / v.1 + 1)

/-- a / b for enclosed values. -/
def divEnc (p : Nat) (a b : Nat × Nat) : Nat × Nat := (a.1 * 2 ^ p / b.2, a.2 * 2 ^ p / b.1 + 1)

def enc (neg : Bool) (v : Nat × Nat) : Enclosure := ⟨neg, v.1, v.2⟩

/-- The magnitude is at least 2^k. -/
def atLeastPow (m : Nat) (e k : Int) : Bool := m != 0 && decide (k ≤ floorLog2 m e)

def f32Exp (b : Nat) : Nat :=
  match f32Val b with
  | .nan => 0x7FC00000
  | .inf neg => if neg then 0 else 0x7F800000
  | .fin neg m e =>
    if atLeastPow m e 7 then (if neg then 0 else 0x7F800000)
    else roundEnclosed fun p => enc false (if neg then recipEnc p (expMag p m e) else expMag p m e)

/-- tanh x = (exp 2x - 1) / (exp 2x + 1). -/
def f32Tanh (b : Nat) : Nat :=
  match f32Val b with
  | .nan => 0x7FC00000
  | .inf neg => if neg then 0xBF800000 else 0x3F800000
  | .fin neg m e =>
    if m = 0 then 0
    else if atLeastPow m e 5 then (if neg then 0xBF800000 else 0x3F800000)
    else roundEnclosed fun p =>
      let v := expMag p m (e + 1)
      enc neg (divEnc p (v.1 - 2 ^ p, v.2 - 2 ^ p) (v.1 + 2 ^ p, v.2 + 2 ^ p))

/-- sigmoid x = 1 / (1 + exp (-x)). -/
def f32Sigmoid (b : Nat) : Nat :=
  match f32Val b with
  | .nan => 0x7FC00000
  | .inf neg => if neg then 0 else 0x3F800000
  | .fin neg m e =>
    if atLeastPow m e 7 then (if neg then 0 else 0x3F800000)
    else roundEnclosed fun p =>
      let v := expMag p m e
      let d := (v.1 + 2 ^ p, v.2 + 2 ^ p)
      enc false (if neg then recipEnc p d else divEnc p v d)

/-- Terms of arctan (1/q), each times 2^p, from the term x = 2^p / q^(2i+1), k = 2i + 1. -/
def atanTerms (q2 : Nat) : Nat → Nat → Nat → Bool → Int
  | 0, _, _, _ => 0
  | n + 1, x, k, sub => (if sub then -((x / k : Nat) : Int) else ((x / k : Nat) : Int)) + atanTerms q2 n (x / q2) (k + 2) (!sub)

/-- pi * 2^p within 2^-20 of a unit at precision p + 40, cut back to p. -/
def piFixed (p : Nat) : Nat :=
  let w := p + 40
  let a := atanTerms 25 (w / 4 + 4) (2 ^ w / 5) 1 false
  let b := atanTerms 57121 (w / 8 + 4) (2 ^ w / 239) 1 false
  (16 * a - 4 * b).toNat / 2 ^ 40

/-- The alternating sum of z^n / (n! (2n+1)), from term number n. -/
def erfTerms (p z : Nat) : Nat → Nat → Nat → Int
  | 0, _, _ => 0
  | k + 1, n, t =>
    (if n % 2 = 0 then ((t / (2 * n + 1) : Nat) : Int) else -((t / (2 * n + 1) : Nat) : Int))
      + erfTerms p z k (n + 1) (t * z / 2 ^ p / (n + 1))

def f32Erf (b : Nat) : Nat :=
  match f32Val b with
  | .nan => 0x7FC00000
  | .inf neg => if neg then 0xBF800000 else 0x3F800000
  | .fin neg m e =>
    if m = 0 then 0
    else if atLeastPow m e 3 then (if neg then 0xBF800000 else 0x3F800000)
    else roundEnclosed fun p =>
      let z := toFixed p (m * m) (2 * e)
      let s := (erfTerms p z (p + 200) 0 (2 ^ p)).toNat
      let err := 2 ^ 110
      let sp := isqrt (piFixed p * 2 ^ p)
      let x := toFixed p m e
      enc neg (2 * x * (s - err) / (sp + 2), 2 * (x + 1) * (s + err) / (sp - 2) + 1)

/-- Alternating Taylor terms with step two: `t` is the present term, `n` its degree. -/
def trigTerms (p r : Nat) : Nat → Nat → Nat → Bool → Int
  | 0, _, _, _ => 0
  | k + 1, n, t, sub =>
    (if sub then -(t : Int) else (t : Int)) + trigTerms p r k (n + 2) (t * r / 2 ^ p * r / 2 ^ p / ((n + 1) * (n + 2))) (!sub)

/-- x = k * pi/2 + r for a magnitude m * 2^e: k mod 4, the sign of r and its magnitude at precision p. -/
def trigReduce (p m : Nat) (e : Int) : Nat × Bool × Nat :=
  let w := p + 200
  let half := piFixed w / 2
  let x := toFixed w m e
  let k := (x + half / 2) / half
  let r : Int := (x : Int) - (k * half : Nat)
  (k % 4, decide (r < 0), r.natAbs / 2 ^ 200)

/-- sin (or, a quarter turn on, cos) of a finite nonzero magnitude, with its sign apart. -/
def trigEnc (quarter : Nat) (neg : Bool) (m : Nat) (e : Int) (p : Nat) : Enclosure :=
  let (k, rneg, r) := trigReduce p m e
  let q := (k + quarter) % 4
  let s := if q % 2 = 0 then trigTerms p r (p / 4) 1 r false else trigTerms p r (p / 4) 0 (2 ^ p) false
  let flip := (2 ≤ q : Bool) != (rneg && q % 2 == 0)
  let v := s.toNat
  ⟨flip != neg, v - 2 ^ 16, v + 2 ^ 16⟩

def f32Sin (b : Nat) : Nat :=
  match f32Val b with
  | .fin neg m e => if m = 0 then 0 else roundEnclosed (trigEnc 0 neg m e)
  | _ => 0x7FC00000

def f32Cos (b : Nat) : Nat :=
  match f32Val b with
  | .fin _ m e => if m = 0 then f32One else roundEnclosed (trigEnc 1 false m e)
  | _ => 0x7FC00000

/-- Reciprocal square root, exact up to a sticky last bit (R275). -/
def f32Rsqrt (b : Nat) : Nat :=
  match f32Val b with
  | .nan => 0x7FC00000
  | .inf neg => if neg then 0x7FC00000 else 0
  | .fin neg m e =>
    if m = 0 then 0x7F800000
    else if neg then 0x7FC00000
    else
      let odd : Nat := if e % 2 = 0 then 0 else 1
      let m := m * 2 ^ odd
      let n := 2 ^ 256
      let r := isqrt (n / m)
      let st := if r * r * m = n then 0 else 1
      f32Of (.fin false (2 * r + st) (-128 - 1 - (e - odd) / 2))

end Sys2Proof.Machine
end

