-- ==== Sys2Proof/Machine/Tail.lean ====
section
/-! DEFINITION. What the tail unit computes: activations, norms, splits, pooling, optimizers, and the checks of its
descriptors (Spatial Pipelines and Credits; Convolution, Pooling and Resampling). -/

namespace Sys2Proof.Machine

/-! ### Functions of one element (R149, R276, R280) -/

/-- 0x3F35_04F3 and 0.5 (R276). -/
def f32Half : Nat := 0x3F000000

def activation (act x : Nat) : Nat :=
  match act with
  | 1 => f32Max x 0
  | 2 => f32Mul f32Half (f32Mul x (f32Add f32One (f32Erf (f32Mul x 0x3F3504F3))))
  | 3 => f32Mul x (f32Sigmoid x)
  | 4 => f32Tanh x
  | 5 => f32Sigmoid x
  | _ => x

/-- Cuts a value to 8 significant bits toward zero. -/
def truncK16 : Val → Val
  | .fin neg m e => let l := bitLen m; if l ≤ 8 then .fin neg m e else .fin neg (m / 2 ^ (l - 8)) (e + (l - 8 : Nat))
  | v => v

/-- A K16 piece: below the smallest K16 normal it becomes +0. -/
def flushPiece : Val → Val
  | .fin neg m e => if m = 0 ∨ floorLog2 m e < -126 then .zero else .fin neg m e
  | v => v

/-- The K16 code of a value with at most 8 significant bits. -/
def k16Code (v : Val) : Nat := f32Of v / 2 ^ 16

/-- The three K16 pieces of an F32 pattern (R149). -/
def split3 (b : Nat) : List Nat :=
  match f32Val b with
  | .nan => [0x7FC0, 0, 0]
  | .inf neg => [infCode .k16 neg, 0, 0]
  | x =>
    let hi := flushPiece (truncK16 x)
    let d := x.sub hi
    let mid := flushPiece (truncK16 d)
    let lo := match d.sub mid with
      | .fin neg m e => let (m, e) := roundBits .rne 8 m e; flushPiece (.fin neg m e)
      | v => v
    [k16Code hi, k16Code mid, k16Code lo]

/-- One step of SGD on a gradient, weight and momentum (R280). -/
def sgdStep (p : List Byte) (grad w m : Nat) : Nat × Nat :=
  let g := f32Add (f32Mul (fld p 0x24 4) grad) (f32Mul (fld p 0x18 4) w)
  let m := f32Add (f32Mul (fld p 4 4) m) g
  (f32Sub w (f32Mul (fld p 0 4) m), m)

/-- One step of ADAMW on a gradient, weight and both moments (R280). -/
def adamwStep (p : List Byte) (grad w m v : Nat) : Nat × Nat × Nat :=
  let g := f32Mul (fld p 0x24 4) grad
  let m := f32Add (f32Mul (fld p 4 4) m) (f32Mul (fld p 8 4) g)
  let v := f32Add (f32Mul (fld p 0xC 4) v) (f32Mul (fld p 0x10 4) (f32Mul g g))
  let d := f32Add (f32Sqrt (f32Mul v (fld p 0x20 4))) (fld p 0x14 4)
  (f32Sub w (f32Mul (fld p 0 4) (f32Add (f32Div (f32Mul m (fld p 0x1C 4)) d) (f32Mul (fld p 0x18 4) w))), m, v)

/-! ### Norms (R277) -/

/-- Adds neighbours; a list of even length halves. -/
def pairSums : List Nat → List Nat
  | a :: b :: xs => f32Add a b :: pairSums xs
  | xs => xs

/-- The sum of 64 lanes in the fixed pairwise order. -/
def laneSum64 (xs : List Nat) : Nat :=
  ((pairSums (pairSums (pairSums (pairSums (pairSums (pairSums xs)))))).headD 0)

/-- s1 and s2 of a group of vectors. -/
def groupStats (g : List (List Nat)) : Nat × Nat :=
  g.foldl (fun a v => (f32Add a.1 (laneSum64 v), f32Add a.2 (laneSum64 (v.map fun x => f32Mul x x)))) (0, 0)

/-- s1 and s2 from partial pairs, added in order. -/
def partStats : List Nat → Nat × Nat → Nat × Nat
  | a :: b :: xs, s => partStats xs (f32Add s.1 a, f32Add s.2 b)
  | _, s => s

/-- The pattern of a natural number. -/
def f32OfNat (n : Nat) : Nat := f32Of (Val.ofNat n)

/-- Mean and reciprocal deviation of a group of n elements. -/
def normScale (mean : Bool) (n eps : Nat) (s : Nat × Nat) : Nat × Nat :=
  let mu := if mean then f32Div s.1 (f32OfNat n) else 0
  let var := f32Sub (f32Div s.2 (f32OfNat n)) (f32Mul mu mu)
  let var := if (f32Val var).lt .zero then 0 else var
  (mu, f32Rsqrt (f32Add var eps))

/-- The normalised vectors of a group; `par` is ε, then γ, then β (R273). -/
def normGroup (mean : Bool) (n : Nat) (par : List Nat) (s : Nat × Nat) (g : List (List Nat)) : List (List Nat) :=
  let (mu, r) := normScale mean n (par.getD 0 0) s
  let k := g.length
  g.zipIdx.map fun v => v.1.zipIdx.map fun x =>
    let i := 64 * v.2 + x.2
    let y := f32Mul (f32Mul (f32Sub x.1 mu) r) (par.getD (1 + i) 0)
    if mean then f32Add y (par.getD (1 + 64 * k + i) 0) else y

/-! ### The tail descriptor (R270 to R272) -/

/-- The tail operations (R273). -/
inductive TailKind where
  | biasAct | addAct | mul | norm | rowstat | normApply | convert | split3 | pool | sgd | adamw
deriving DecidableEq, Repr

def TailKind.ofCode : Nat → Option TailKind
  | 1 => some .biasAct
  | 2 => some .addAct
  | 3 => some .mul
  | 4 => some .norm
  | 5 => some .rowstat
  | 6 => some .normApply
  | 7 => some .convert
  | 8 => some .split3
  | 9 => some .pool
  | 10 => some .sgd
  | 11 => some .adamw
  | _ => none

/-- Fields of a tail descriptor. -/
structure TailDesc where
  d : List Byte
deriving DecidableEq, Repr

def TailDesc.ctrl (x : TailDesc) : Nat := fld x.d 0 4
def TailDesc.shape (x : TailDesc) : Nat := fld x.d 4 4
def TailDesc.kind (x : TailDesc) : Option TailKind := TailKind.ofCode (bitsOf x.ctrl 0 5)
def TailDesc.act (x : TailDesc) : Nat := bitsOf x.ctrl 5 3
def TailDesc.src (x : TailDesc) : Nat := bitsOf x.ctrl 8 2
def TailDesc.set (x : TailDesc) : Nat := bitsOf x.ctrl 10 1
def TailDesc.release (x : TailDesc) : Bool := bitOf x.ctrl 11
def TailDesc.dstCh (x : TailDesc) : Bool := bitOf x.ctrl 12
def TailDesc.normMean (x : TailDesc) : Bool := bitOf x.ctrl 13
def TailDesc.group (x : TailDesc) : Nat := bitsOf x.ctrl 14 6 + 1
def TailDesc.parts (x : TailDesc) : Nat := bitsOf x.ctrl 20 4 + 1
def TailDesc.vectors (x : TailDesc) : Nat := bitsOf x.shape 0 16 + 1
def TailDesc.firstRow (x : TailDesc) : Nat := bitsOf x.shape 16 8
def TailDesc.lanes (x : TailDesc) : Nat := bitsOf x.shape 24 6 + 1
def TailDesc.srcFmt (x : TailDesc) : FormatWord := FormatWord.ofNat (fld x.d 0x10 4)
def TailDesc.auxFmt (x : TailDesc) : FormatWord := FormatWord.ofNat (fld x.d 0x2C 4)
def TailDesc.dstFmt (x : TailDesc) : FormatWord := FormatWord.ofNat (fld x.d 0x58 4)
def TailDesc.tag (x : TailDesc) : Nat := fld x.d 0x88 2
def TailDesc.param (x : TailDesc) : Nat := fld x.d 0x80 8
def TailDesc.is (x : TailDesc) (k : TailKind) : Bool := x.kind == some k
def TailDesc.update (x : TailDesc) : Bool := x.is .sgd || x.is .adamw
def TailDesc.isNorm (x : TailDesc) : Bool := x.is .norm || x.is .rowstat || x.is .normApply
def TailDesc.usesAux (x : TailDesc) : Bool := x.is .addAct || x.is .mul

/-- Vectors of the aux operand, the source or the output at index v: address and block-scale address. -/
def TailDesc.srcAt (x : TailDesc) (v : Nat) : Nat × Nat :=
  (fld x.d 8 8 + v * fld x.d 0x14 4, fld x.d 0x20 8 + v * fld x.d 0x28 4)
def TailDesc.auxAt (x : TailDesc) (v : Nat) : Nat × Nat :=
  (fld x.d 0x30 8 + v * fld x.d 0x38 4, fld x.d 0x48 8 + v * fld x.d 0x3C 4)
def TailDesc.dstAt (x : TailDesc) (v : Nat) : Nat × Nat :=
  (fld x.d 0x50 8 + v * fld x.d 0x5C 4, fld x.d 0x68 8 + v * fld x.d 0x78 4)

/-- The state tensors of an update: format word and slot-group address (R279, R283). -/
def updateStates (x : TailDesc) (p : List Byte) : List (FormatWord × Nat) :=
  [(FormatWord.ofNat (fld p 0x28 4), fld p 0x38 8), (FormatWord.ofNat (fld p 0x2C 4), fld p 0x40 8)]
    ++ (if x.is .adamw then [(FormatWord.ofNat (fld p 0x30 4), fld p 0x48 8)] else [])

/-- The format words of the descriptor that the operation uses, with the records that it reads or updates; `adds` says
that it makes a statistics add (R101, R278). -/
def tailFormats (x : TailDesc) (adds : Bool) : List (FormatWord × Option Nat × Option Nat) :=
  let s3 := x.is .split3
  (if x.src = 0 then [] else [(x.srcFmt, if s3 then none else some (fld x.d 0x18 8), none)])
    ++ (if x.usesAux then [(x.auxFmt, some (fld x.d 0x40 8), none)] else [])
    ++ (if x.is .rowstat then []
        else [(x.dstFmt, if s3 then none else some (fld x.d 0x60 8), if s3 || !adds then none else some (fld x.d 0x70 8))])

/-- The first format code; a record that is not used is not checked. -/
def tailFormatCheck : List (FormatWord × Option Nat × Option Nat) → Option Nat
  | [] => none
  | (f, sc, st) :: r =>
    match formatCheck f sc st with
    | some c => some c
    | none => tailFormatCheck r

/-- Sources that an operation takes: accumulator, memory, channel (R273). -/
def sourceAllowed (k : TailKind) (src : Nat) : Bool :=
  match k with
  | .norm | .normApply | .sgd | .adamw => src == 1 || src == 2
  | .split3 | .pool => src == 1
  | _ => true

/-- Checks 11 and 12 of the descriptor itself (R287). -/
def tailFirstCheck (off : Nat) (x : TailDesc) (adds : Bool) : Option Nat :=
  if off % 64 ≠ 0 then some 0x0140 else tailFormatCheck (tailFormats x adds)

/-- Checks 12 to 16 (R287), with the optimizer record `p` and the form of the source set. -/
def tailCheck (x : TailDesc) (paired : Bool) (p : List Byte) : Option Nat :=
  match tailFormatCheck (if x.update then (updateStates x p).map fun w => (w.1, none, none) else []) with
  | some c => some c
  | none =>
    match x.kind with
    | none => some 0x0141
    | some k =>
      if 6 ≤ x.act ∨ x.src = 3 then some 0x0141
      else if !sourceAllowed k x.src ∨ (x.dstCh ∧ (x.is .rowstat || x.is .split3 || x.update)) then some 0x0142
      else if (x.src = 0 ∧ (if paired then 128 else 256) < x.firstRow + x.vectors) ∨ (x.isNorm ∧ (x.lanes < 64 ∨ x.vectors % x.group ≠ 0)) then
        some 0x0143
      else if (x.update ∧ (updateStates x p).any fun w =>
            !(w.1.format == .f32 || w.1.format == .k16) || !w.1.coarseOne)
          ∨ (x.is .split3 ∧ (x.srcFmt.format ≠ .f32 ∨ x.dstFmt.format ≠ .k16)) then some 0x0144
      else none

/-! ### Pooling parameters (R486 to R490) -/

/-- A 16-bit field read as signed. -/
def sfld16 (d : List Byte) (o : Nat) : Int :=
  let v := fld d o 2
  if v < 2 ^ 15 then v else (v : Int) - 2 ^ 16

/-- Checks 18 and 19 of POOL. -/
def poolCheck (addr : Nat) (p : List Byte) : Option Nat :=
  let kw := fld p 1 1
  let kh := fld p 2 1
  let kt := fld p 3 1
  if kw = 0 ∨ 15 < kw ∨ kh = 0 ∨ 15 < kh ∨ kt = 0 ∨ 7 < kt then some 0x0181
  else if addr % 8 ≠ 0 ∨ 3 < fld p 0 1 ∨ fld p 5 1 ≠ 0 ∨ fld p 0x1A 2 ≠ 0 ∨ fld p 0x22 30 ≠ 0 ∨ fld p 4 1 = 0
      ∨ 15 < fld p 4 1 ∨ kw * kh * kt ≤ fld p 6 2 then some 0x0188
  else none

/-- The taps of output vector v, in order: the record's address, or none outside the map (R487). -/
def poolTaps (x : TailDesc) (p : List Byte) (v : Nat) : List (Option Nat) :=
  let kw := fld p 1 1
  let kh := fld p 2 1
  (List.range (kw * kh * fld p 3 1)).map fun i =>
    let tx := sfld16 p 0x1C + (v * fld p 4 1 : Nat) + (i % kw : Nat)
    let ty := sfld16 p 0x1E + (i / kw % kh : Nat)
    let tt := sfld16 p 0x20 + (i / (kw * kh) : Nat)
    if 0 ≤ tx ∧ tx < fld p 0x14 2 ∧ 0 ≤ ty ∧ ty < fld p 0x16 2 ∧ 0 ≤ tt ∧ tt < fld p 0x18 2 then
      some (addrPlus (fld x.d 8 8) (tt * sfld p 0x10 + ty * sfld p 0xC + tx * sfld p 8))
    else none

/-- The index of the greatest of the values, the lowest among equals; the first NaN where there is one (R99). -/
def argMax : List (Nat × Nat) → Option (Nat × Nat)
  | [] => none
  | (i, v) :: r =>
    match argMax r with
    | none => some (i, v)
    | some (j, u) =>
      if (f32Val v).isNan then some (i, v)
      else if (f32Val u).isNan then some (j, u)
      else if (f32Val v).lt (f32Val u) then some (j, u) else some (i, v)

/-- One lane of the result over the in-map taps, with their tap numbers (R488). -/
def poolLane (x : TailDesc) (p : List Byte) (taps : List (Nat × Nat)) : Nat :=
  let sum := taps.foldl (fun a e => f32Add a e.2) 0
  match fld p 0 1 with
  | 0 => activation x.act (match taps with
      | [] => 0
      | e :: r => r.foldl (fun a e => f32Max a e.2) e.2)
  | 1 => activation x.act (f32Div sum (f32OfNat (fld p 1 1 * fld p 2 1 * fld p 3 1)))
  | 2 => activation x.act (if taps.isEmpty then 0 else f32Div sum (f32OfNat taps.length))
  | _ => match argMax taps with
    | some (i, _) => if i = fld p 6 2 then f32One else 0
    | none => 0

/-! ### Reading (R303, R936) -/

/-- The result of work, or its failing code; waiting goes on waiting. -/
def catchCode {α : Type} (m : M α) : M (Except Nat α) :=
  tryCatch (do return .ok (← m)) fun e => match e with
    | .code c => return .error c
    | e => throw e

/-- F32 patterns of one vector, and its poison. -/
abbrev Vec := List Nat × Bool

/-- Reads vectors in order until one fails: those read, and the failing code, 0 for none. -/
def readUntil {α β : Type} (f : α → M β) : List α → M (List β × Nat)
  | [] => return ([], 0)
  | a :: as => do
    match ← catchCode (f a) with
    | .error c => return ([], c)
    | .ok b => do
      let (bs, c) ← readUntil f as
      return (b :: bs, c)

/-- A vector in memory, decoded under its coarse scale. -/
def readVec (w : Who) (h : Nat) (f : FormatWord) (coarse n : Nat) (at_ : Nat × Nat) : M Vec := do
  let e ← readVecWith (winRead w h) f n at_.1 at_.2
  return (decodeVec f coarse e, e.poison)

/-- `n` F32 patterns at an address, and whether any unit is poisoned. -/
def readF32s (w : Who) (h a n : Nat) : M (List Nat × Bool) := do
  let d ← winRead w h a (4 * n)
  return (unpackCodes .f32 n (d.map Prod.fst), d.any Prod.snd)

/-- Row r of an accumulator set, as a drain without output reads it (R193, R285). -/
def accVec (x : Tile) (e : EpiOp) (set r lanes : Nat) : Vec :=
  let row := if e.paired then 2 * r else r
  ((List.range lanes).map fun l => accGet x set row l,
    rowPoison x set row || (e.paired && rowPoison x set (row + 1)))

/-- The source vectors of an operation (R273). -/
def tailSource (t : Nat) (e : EpiOp) (x : TailDesc) : M (List Vec × Nat) := do
  let s ← get
  match x.src with
  | 0 => return ((List.range x.vectors).map fun v => accVec (getTile s t) e x.set (x.firstRow + v) x.lanes, 0)
  | 1 =>
    readUntil (fun v => readVec (opWho t e.ins) e.ins.slot x.srcFmt e.srcCoarse x.lanes (x.srcAt v))
      (List.range x.vectors)
  | _ => return (e.buf.map fun r =>
      let v := ofRecord x.srcFmt r.1 r.2
      ((decodeVec x.srcFmt e.srcCoarse v).take x.lanes, r.2), e.ins.code)

/-! ### Results -/

/-- What an operation writes: a vector to encode, or bytes as they are. -/
inductive TailOut where
  | vec (v : Vec)
  | raw (addr : Nat) (bytes : List Byte) (poison : Bool)
deriving DecidableEq, Repr

/-- Groups of k; the last one only when it is whole. -/
def wholeGroups {α : Type} (k : Nat) (l : List α) : List (List α) :=
  (piecesOfList k (l.length + 1) l).filter fun g => g.length == k

/-- NORM, ROWSTAT and NORM_APPLY (R277). -/
def normOuts (t : Nat) (e : EpiOp) (x : TailDesc) (vs : List Vec) (rc : Nat) : M (List TailOut × Nat) := do
  let w := opWho t e.ins
  let k := x.group
  let groups := (wholeGroups k vs).zipIdx
  if x.is .rowstat then
    return (groups.map fun g =>
      let (s1, s2) := groupStats (g.1.map Prod.fst)
      .raw (x.dstAt g.2).1 (leBytes 4 s1 ++ leBytes 4 s2) (g.1.any Prod.snd), rc)
  else
    match ← catchCode (readF32s w e.ins.slot x.param (1 + 64 * k * (if x.normMean then 2 else 1))) with
    | .error c => return ([], c)
    | .ok (par, pp) =>
      let one := fun (g : List Vec × Nat) => do
        let parts := if x.is .normApply then x.parts else 1
        let (s, sp) ← (if x.is .normApply then do
            let (q, qp) ← readF32s w e.ins.slot (fld x.d 0x30 8 + g.2 * 8 * parts) (2 * parts)
            return (partStats q (0, 0), qp)
          else return (groupStats (g.1.map Prod.fst), false) : M ((Nat × Nat) × Bool))
        let p := pp || sp || g.1.any Prod.snd
        return (normGroup x.normMean (64 * k * parts) par s (g.1.map Prod.fst)).map fun y => TailOut.vec (y, p)
      let (outs, c) ← readUntil one groups
      return (outs.flatten, if c = 0 then rc else c)

/-- POOL (R487, R488). -/
def poolOuts (t : Nat) (e : EpiOp) (x : TailDesc) : M (List TailOut × Nat) := do
  let w := opWho t e.ins
  match ← catchCode (winRead w e.ins.slot x.param 64) with
  | .error c => return ([], c)
  | .ok d =>
    let p := d.map Prod.fst
    let one := fun (v : Nat) => do
      let taps := (poolTaps x p v).zipIdx.filterMap fun a => a.1.map fun y => (a.2, y)
      let (rs, c) ← readUntil (fun (a : Nat × Nat) => do
        let r ← winRead w e.ins.slot a.2 (recordBytes x.srcFmt)
        let q := ofRecord x.srcFmt (r.map Prod.fst) (r.any Prod.snd)
        return (a.1, decodeVec x.srcFmt e.srcCoarse q, q.poison)) taps
      refuseIf (c != 0) c
      return TailOut.vec ((List.range x.lanes).map fun l => poolLane x p (rs.map fun r => (r.1, r.2.1.getD l 0)),
        d.any Prod.snd || rs.any fun r => r.2.2)
    readUntil one (List.range x.vectors)

/-- Operations of one vector at a time, with parameters or a second operand (R273, R278). -/
def plainOuts (t : Nat) (e : EpiOp) (x : TailDesc) (vs : List Vec) (rc : Nat) : M (List TailOut × Nat) := do
  let w := opWho t e.ins
  let withParam := fun (n : Nat) (f : List Nat → List Nat → List Nat) => do
    match ← catchCode (readF32s w e.ins.slot x.param n) with
    | .error c => return (([] : List TailOut), c)
    | .ok (p, pp) => return (vs.map fun v => TailOut.vec (f p v.1, pp || v.2), rc)
  let withAux := fun (f : Nat → Nat → Nat) => do
    let (outs, c) ← readUntil (fun (v : Vec × Nat) => do
      let b ← readVec w e.ins.slot x.auxFmt e.auxCoarse x.lanes (x.auxAt v.2)
      return TailOut.vec (v.1.1.zipWith f b.1, v.1.2 || b.2)) vs.zipIdx
    return (outs, if c = 0 then rc else c)
  match x.kind with
  | some .biasAct => withParam 64 fun p v => v.zipIdx.map fun a => activation x.act (f32Add a.1 (p.getD a.2 0))
  | some .convert => withParam 1 fun p v => v.map fun a => f32Mul a (p.getD 0 0)
  | some .addAct => withAux fun a b => activation x.act (f32Add a b)
  | some .mul => withAux f32Mul
  | some .split3 =>
    return (vs.zipIdx.flatMap fun v => (List.range 3).map fun k =>
      TailOut.raw ((x.dstAt v.2).1 + k * fld x.d 0x7C 4)
        (packCodes .k16 (v.1.1.map fun b => (split3 b).getD k 0)) v.1.2, rc)
  | _ => return ([], rc)

/-- Non-finite values of a list (R286). -/
def countNonFinite (l : List Nat) : Nat := (l.filter f32NonFinite).length

/-- Adds to `TAIL_NONFINITE`, and to the count of the step of the pass (R286, R511). -/
def addTailNonfinite (t pass n : Nat) (s : State) : State :=
  let m := s.mon.nonfinite
  bump (pgTile t) Reg.TAIL_NONFINITE n { s with mon := { s.mon with nonfinite := put 0 m pass (look 0 m pass + n) } }

/-- The results of a tail operation other than an update, with the code of a failing read. -/
def tailOuts (t : Nat) (e : EpiOp) (x : TailDesc) : M (List TailOut × Nat) := do
  if x.is .pool then poolOuts t e x
  else
    let (vs, rc) ← tailSource t e x
    if x.is .split3 then
      modify (addTailNonfinite t e.ins.pass (vs.foldl (fun n v => n + countNonFinite v.1) 0))
    if x.isNorm then normOuts t e x vs rc else plainOuts t e x vs rc

/-- A write of an operation's output. A failing one is noted in its place in the order of issue; it answers whether the
output goes on (R201, R936). -/
def writeOn (w : Who) (m : M Unit) : M Bool := do
  let c ← codeOf m
  if c = 0 then return true
  else do
    noted w (failWith c)
    return false

/-- Writes the results in order; the first failing write ends them (R201). Counts and records by R274, R286, R497. The last
component says that no write failed. -/
def writeOuts (t : Nat) (e : EpiOp) (x : TailDesc) (rnd : Nat → Nat) :
    List TailOut → Nat → M (List (List Byte × Bool) × Stats × Bool)
  | [], _ => return ([], {}, true)
  | .raw a bs p :: os, v => do
    if x.is .rowstat then modify (addTailNonfinite t e.ins.pass (countNonFinite (unpackCodes .f32 2 bs)))
    if ← writeOn (opWho t e.ins) (busWrite (opWho t e.ins) a (marked p bs)) then writeOuts t e x rnd os v
    else return ([], {}, false)
  | .vec (ys, p) :: os, v => do
    modify (addTailNonfinite t e.ins.pass (countNonFinite ys))
    let (q, st) := encodeVec x.dstFmt e.coarse rnd (v * 64) p ys
    if x.dstCh then do
      let (rs, st', on) ← writeOuts t e x rnd os (v + 1)
      return ((recordOf x.dstFmt q, p) :: rs, st.add st', on)
    else do
      if ← writeOn (opWho t e.ins) (writeVec (opWho t e.ins) x.dstFmt (x.dstAt v).1 (x.dstAt v).2 q) then
        let (rs, st', on) ← writeOuts t e x rnd os (v + 1)
        return (rs, st.add st', on)
      else return ([], st, false)

/-! ### Updates (R279 to R283, R305, R309, R310) -/

/-- The address of slot k of a slot group that a window names (R281). -/
def slotAddr (s : State) (page k a : Nat) : Nat := redirect s page k (wholeAddr s a)

/-- One vector of an update: states read from slot `rs`, written to slot `ws`; answers the stored weights. -/
def updateVec (t : Nat) (e : EpiOp) (x : TailDesc) (p : List Byte) (rnd : Nat → Nat) (rs ws v : Nat) (g : Vec) :
    M (Vec × Nat) := do
  let s ← get
  let w := opWho t e.ins
  let page := pgTile t
  let states := updateStates x p
  let (olds, rc) ← readUntil (fun (q : FormatWord × Nat) => do
    let n := q.1.format.bytesFor 64
    let d ← busRead w (slotAddr s page rs q.2 + v * n) (q.1.format.bytesFor x.lanes)
    return (decodeRow q.1 f32One [] (unpackCodes q.1.format x.lanes (d.map Prod.fst)), d.any Prod.snd)) states
  if rc ≠ 0 then failWith rc
  let col := fun i => (olds.getD i ([], false)).1
  let p' := g.2 || olds.any Prod.snd
  let news := g.1.zipIdx.map fun a =>
    let (gr, j) := a
    if x.is .sgd then
      let (w', m') := sgdStep p gr ((col 0).getD j 0) ((col 1).getD j 0)
      [w', m']
    else
      let (w', m', v') := adamwStep p gr ((col 0).getD j 0) ((col 1).getD j 0) ((col 2).getD j 0)
      [w', m', v']
  let write := fun (q : (FormatWord × Nat) × Nat) => do
    let ys := news.map fun r => r.getD q.2 0
    modify (addTailNonfinite t e.ins.pass (countNonFinite ys))
    let (c, _) := encodeVec q.1.1 f32One rnd (v * 64) p' ys
    busWrite w (slotAddr s page ws q.1.2 + v * q.1.1.format.bytesFor 64) (marked p' (packCodes q.1.1.format c.codes))
    return decodeVec q.1.1 f32One c
  let (stored, wc) ← readUntil write states.zipIdx
  return ((stored.headD [], p'), wc)

/-- The vectors of an update in order, each followed by its narrow copy (R282). A failing access is noted and ends them. -/
def updateVecs (t : Nat) (e : EpiOp) (x : TailDesc) (p : List Byte) (rnd : Nat → Nat) (rs ws : Nat) :
    List Vec → Nat → M (Stats × Bool)
  | [], _ => return ({}, true)
  | g :: gs, v => do
    let w := opWho t e.ins
    match ← catchCode (updateVec t e x p rnd rs ws v g) with
    | .error c => do
      noted w (failWith c)
      return ({}, false)
    | .ok (st, wc) => do
      if wc ≠ 0 then
        noted w (failWith wc)
        return ({}, false)
      else
        let s ← get
        let (q, cnt) := encodeVec x.dstFmt e.coarse rnd (v * 64) st.2 st.1
        modify (addTailNonfinite t e.ins.pass (countNonFinite st.1))
        let page := pgTile t
        if ← writeOn w (writeVec w x.dstFmt (slotAddr s page ws (fld x.d 0x50 8) + v * fld x.d 0x5C 4)
            (slotAddr s page ws (fld x.d 0x68 8) + v * fld x.d 0x78 4) q) then
          let (cs, on) ← updateVecs t e x p rnd rs ws gs (v + 1)
          return (cnt.add cs, on)
        else return (cnt, false)

/-- An update: slot (P - 1) mod 3 is read, slot P mod 3 written, P the pending generation (R309, R310); its counts, a
failing read's code, and whether its output went on to the end of what was read. -/
def runUpdate (t : Nat) (e : EpiOp) (x : TailDesc) (rnd : Nat → Nat) : M (Stats × Nat × Bool) := do
  let s ← get
  let w := opWho t e.ins
  match ← catchCode (winRead w e.ins.slot x.param 96) with
  | .error c => return ({}, c, true)
  | .ok d =>
    let (gs, rc) ← tailSource t e x
    let (st, on) ← updateVecs t e x (d.map Prod.fst) rnd (committed s % 3) (pendingSlot s) gs 0
    return (st, rc, on)

end Sys2Proof.Machine
end

