-- ==== Sys2Proof/Machine/Spare.lean ====
section
/-! DEFINITION. Spare columns, column faults and self-tests of the hinge arrays of tiles and attention pipelines (The
Hinge Array; Attention Pipelines and KV Pages). -/

namespace Sys2Proof.Machine

/-- A register of a page can be written: its domain is not RESETTING (R758). -/
def writable (s : State) (page : Nat) : Bool := s.powered && decide (page < pageCount) && decide (lockState s page ≠ 3)

/-- A register write of the page, `v` into the 32 bits at `off`, that does `f`: at a gated cluster it waits for the clocks
(R792). -/
def onAwake (page off v : Nat) (f : State → State) (s : State) : State :=
  match clusterOfPage page with
  | none => f s
  | some k => if look false s.gated k then writeWhenAwake k page off v s else f s

/-- The page has hinge arrays, and one with this number: a tile one, an attention pipeline two (R383). -/
def hasArray (page a : Nat) : Bool := (typeOf page == 0x01 && a == 0) || (typeOf page == 0x03 && decide (a < 2))

/-- A field of array `a`: of the tile's registers or of the pipeline's. -/
def haRd (s : State) (page a : Nat) (f g : Field) : Nat :=
  if typeOf page = 0x01 then rd s page f else rdAt s page g a
def haWr (page a : Nat) (f g : Field) (v : Nat) (s : State) : State :=
  if typeOf page = 0x01 then wr page f v s else wrAt page g a v s

def spareActive (s : State) (page a : Nat) : Nat := haRd s page a Reg.HA_STATUS_SPARE_ACTIVE Reg.AP_HA_SPARE_ACTIVE
def spareColActive (s : State) (page a : Nat) : Nat :=
  haRd s page a Reg.HA_STATUS_SPARE_COL_ACTIVE Reg.AP_HA_SPARE_COL_ACTIVE
def spareReq (s : State) (page a : Nat) : Nat := haRd s page a Reg.HA_SPARE_REQ Reg.AP_HA_SPARE_REQ
def spareCol (s : State) (page a : Nat) : Nat := haRd s page a Reg.HA_SPARE_COL Reg.AP_HA_SPARE_COL
def sparePending (s : State) (page a : Nat) : Bool := haRd s page a Reg.HA_SPARE_PENDING Reg.AP_HA_SPARE_PENDING != 0
def setPending (page a v : Nat) (s : State) : State := haWr page a Reg.HA_SPARE_PENDING Reg.AP_HA_SPARE_PENDING v s
def setBankValid (page a v : Nat) (s : State) : State := haWr page a Reg.HA_STATUS_BANK_VALID Reg.AP_HA_BANK_VALID v s

/-! ### The spare mapping (R166 to R168) -/

/-- The fields of `HA_SPARE` differ from the mapping in effect. -/
def spareDiffers (s : State) (page a : Nat) : Bool :=
  spareReq s page a != spareActive s page a
    || (spareReq s page a == 1 && spareCol s page a != spareColActive s page a)

/-- A write of `HA_SPARE`; one that changes neither field does nothing (R168, R929). -/
def haSpareWrite (page a req col : Nat) (s : State) : State :=
  if !hasArray page a ∨ !writable s page then s
  else if spareReq s page a = req % 2 ∧ spareCol s page a = col % 64 then s
  else
    let s := haWr page a Reg.HA_SPARE_COL Reg.AP_HA_SPARE_COL col
      (haWr page a Reg.HA_SPARE_REQ Reg.AP_HA_SPARE_REQ req s)
    setPending page a (natOf (spareDiffers s page a)) s

/-- The offset of a hinge-array register of array `a`: of a tile's page or of a pipeline's (R174, R449). -/
def haOffset (page a off : Nat) : Nat := if typeOf page = 0x01 then 0x100 + off else 0x140 + 16 * a + off

def execHaSpareWrite (page array req col : Nat) (s : State) : Host.Outcome State Fault Refusal :=
  whileOn s (onAwake page (haOffset page array 4) (req % 2 + col % 64 * 2) (haSpareWrite page array req col) s)

/-- No operation is in the array. -/
def arrayIdle (s : State) (page : Nat) : Bool :=
  if typeOf page = 0x01 then (getTile s page).array.isEmpty else rd s page Reg.AP_STATUS_STATE != 1

/-- Applies a pending mapping while no operation is in the array; firmware records it (R168, R818, R820). -/
def applySpare (page a : Nat) (s : State) : State :=
  if sparePending s page a ∧ arrayIdle s page then
    let req := spareReq s page a
    let col := spareCol s page a
    let s := haWr page a Reg.HA_STATUS_SPARE_COL_ACTIVE Reg.AP_HA_SPARE_COL_ACTIVE col
      (haWr page a Reg.HA_STATUS_SPARE_ACTIVE Reg.AP_HA_SPARE_ACTIVE req s)
    let s := setBankValid page a 0 (setPending page a 0 s)
    let s := if typeOf page = 0x01 then lifeSet (0x500 + page) (req + col * 2) s else s
    journal 0x02 0 page (req + col * 2) s
  else s

/-- The unit stands at its step boundary. -/
def atBoundary (s : State) (page : Nat) : Bool :=
  if typeOf page = 0x01 then schedState s page == 2 else rd s page Reg.AP_STATUS_STATE == 2

/-- The pending mapping is applied at the unit's step boundary (R168). -/
def spareMapApply (page a : Nat) (s : State) : State :=
  if hasArray page a ∧ atBoundary s page then applySpare page a s else s

def execSpareMapApply (page array : Nat) (s : State) : Host.Outcome State Fault Refusal :=
  whileOn s (spareMapApply page array s)

/-! ### Faults (R170, R171) -/

/-- Physical columns that serve a logical column under the mapping in effect. -/
def servingColumns (s : State) (page a : Nat) : List Nat :=
  (List.range 65).filter fun c => if spareActive s page a = 1 then c != spareColActive s page a else c != 64

/-- Records the columns that one check found faulty, and whether something beyond the columns failed. -/
def noteFault (page a : Nat) (cols : List Nat) (beyond : Bool) (s : State) : State :=
  let key := page * 2 + a
  let old := look [] s.faulty key
  let all := old ++ cols.filter fun c => !old.contains c
  let s := { s with faulty := put [] s.faulty key all }
  let s := match cols with
    | [] => s
    | c :: cs => haWr page a Reg.HA_STATUS_FAULT_COL Reg.AP_HA_FAULT_COL (cs.foldl min c) s
  let s := if cols.isEmpty ∧ beyond then s
    else lifeAdd (0x200 + 16 * dieOfPage page + 8) 1 (haWr page a Reg.HA_STATUS_FAULT Reg.AP_HA_FAULT 1 s)
  if beyond ∨ 2 ≤ all.length ∨ (all.contains 64 ∧ spareActive s page a = 1) then
    haWr page a Reg.HA_STATUS_UNCOVERED Reg.AP_HA_UNCOVERED 1 s
  else s

/-! ### The self-test (R172, R173) -/

def testStart (page a v : Nat) (s : State) : State := haWr page a Reg.HA_TEST_START Reg.AP_HA_TEST_START v s
def testDone (page a v : Nat) (s : State) : State := haWr page a Reg.HA_TEST_DONE Reg.AP_HA_TEST_DONE v s
def testPass (page a v : Nat) (s : State) : State := haWr page a Reg.HA_TEST_PASS Reg.AP_HA_TEST_PASS v s
def testing (s : State) (page a : Nat) : Bool := haRd s page a Reg.HA_TEST_START Reg.AP_HA_TEST_START != 0

/-- A write of `HA_TEST.START`. -/
def haTestStart (page a : Nat) (s : State) : State :=
  if !hasArray page a ∨ !writable s page ∨ testing s page a then s
  else if lockState s page = 2 then testPass page a 0 (testDone page a 0 (testStart page a 1 s))
  else logErr page 0x0810 0 s

def execHaTestStart (page array : Nat) (s : State) : Host.Outcome State Fault Refusal :=
  whileOn s (onAwake page (haOffset page array 8) 1 (haTestStart page array) s)

/-- The self-test ends: the physical columns it found faulty, and whether a row adder tree or shared control failed. -/
def haSelfTestDone (page a : Nat) (cols : List Nat) (beyond : Bool) (s : State) : State :=
  if !hasArray page a ∨ !testing s page a ∨ lockState s page ≠ 2 then s
  else
    let s := testDone page a 1 (testStart page a 0 s)
    if cols.isEmpty ∧ !beyond then
      let s := { s with faulty := put [] s.faulty (page * 2 + a) [] }
      testPass page a 1 (haWr page a Reg.HA_STATUS_UNCOVERED Reg.AP_HA_UNCOVERED 0
        (haWr page a Reg.HA_STATUS_FAULT Reg.AP_HA_FAULT 0 s))
    else noteFault page a (cols.map (· % 65)) beyond (testPass page a 0 s)

def execHaSelfTestDone (page array : Nat) (columns : List Nat) (beyond : Bool) (s : State) :
    Host.Outcome State Fault Refusal := whileOn s (haSelfTestDone page array columns beyond s)

/-- A release ends a self-test that still runs (R172). -/
def abandonTest (page a : Nat) (s : State) : State :=
  if testing s page a then testPass page a 0 (testDone page a 0 (testStart page a 0 s)) else s

end Sys2Proof.Machine
end

