-- ==== Sys2Proof/Machine/Boundary.lean ====
section
/-! DEFINITION. Step boundaries of a tile: start, stop, the spare mapping and the begin of a pass (Spatial Pipelines and
Credits; The Hinge Array; Weight Generations and Step Commit). -/

namespace Sys2Proof.Machine

/-- Changes a tile. -/
def modTile (t : Nat) (f : Tile → Tile) : M Unit := modify fun s => setTile t (f (getTile s t)) s

/-! ### Start (R223, R224, R257) -/

/-- A field of the program header breaks its alignment or range, or a list, ring or table ends beyond the well, one of length
0 too (log 88). -/
def headerBad (h : List Byte) : Bool :=
  let fits := fun b n al => b % al == 0 && decide (b + n ≤ wellBytes)
  let pow2 := fun n lo hi => (List.range 13).any fun k => n == 2 ^ k && decide (lo ≤ n) && decide (n ≤ hi)
  let mainLen := fld h 4 4
  let fillLen := fld h 0xC 4
  let chans := fld h 0x14 4
  let compLen := fld h 0x1C 4
  !(decide (1 ≤ mainLen) && decide (mainLen ≤ 65536) && fits (fld h 0 4) (16 * mainLen) 16
    && (fillLen == 0 || pow2 fillLen 2 4096) && fits (fld h 8 4) (16 * fillLen) 16
    && decide (chans ≤ 64) && fits (fld h 0x10 4) (32 * chans) 32
    && pow2 compLen 16 4096 && fits (fld h 0x18 4) (16 * compLen) 16)

/-- An enabled channel-table entry breaks R249 or R250. -/
def entryBad (e : List Byte) : Bool :=
  let f := fld e
  let bits := (maskBits 17 (f 0x10 4)).length
  let size := (f 5 1 + 1) * (f 4 1 + 1) * f 2 2
  bitOf (f 0 1) 0 &&
    (decide (4 ≤ f 0 1) || f 1 1 != 0 || f 6 2 != 0 || f 0xF 1 != 0 || decide (2 ^ 17 ≤ f 0x10 4) || f 0x14 12 != 0
      || f 2 2 % 4 != 0 || decide (f 2 2 < 4) || decide (1024 < f 2 2) || decide (63 < f 4 1)
      || decide (255 < f 0xC 2) || decide (63 < f 0xE 1)
      || (if bitOf (f 0 1) 1 then bits == 0
          else bits != 1 || f 8 4 % 64 != 0 || decide (wellBytes < f 8 4 + size)))

/-- The scheduler's registers and lists as a START leaves them before it reads its header. -/
def clearSched (t : Nat) (s : State) : State :=
  let page := pgTile t
  let x := getTile s t
  let s := setTile t { x with
    stopping := false, starting := false, fresh := true, loaded := true, mainIdx := 0, segIdx := 0, segLen := 0 } s
  let s := wr page Reg.SCHED_CTRL_START 0 (wr page Reg.SCHED_CTRL_STOP 0 s)
  let s := wr page Reg.SCHED_STATUS_FILL_OPEN 0 (wr page Reg.SCHED_STATUS_FILL_SET 0 s)
  let s := clearWaits t (wr page Reg.SCHED_STATUS_IN_SEG 0 (wr page Reg.SCHED_STATUS_HALT_CODE 0 s))
  let s := { s with gen := { s.gen with finished := put 0 s.gen.finished page 0 } }
  wr page Reg.SCHED_PC_MAIN 0 (wr page Reg.SCHED_PC_SEG 0 (setSched t 2 s))

/-- Reads the header and the channel table. A header that itself passes the well's end halts the unit as a malformed one
(log 88). -/
def readHeader (t : Nat) : M (List Byte × List (List Byte)) := do
  let w : Who := ⟨pgTile t, 0⟩
  let base ← gets fun s => rd s (pgTile t) Reg.SCHED_BASE
  refuseIf (beyondWell base 64) 0x0133
  let d ← busRead w (wellBase t + base) 64
  let h := d.map Prod.fst
  refuseIf (headerBad h) 0x0133
  let c ← busRead w (wellBase t + fld h 0x10 4) (32 * fld h 0x14 4)
  let es := piecesOfList 32 (fld h 0x14 4 + 1) (c.map Prod.fst)
  refuseIf (es.any entryBad) 0x0133
  return (h, es)

/-- START takes effect: the scheduler is at a step boundary with its header loaded and its endpoints opening, or it
halts. A header that cannot be read halts it with the read's code (log 31). -/
def startSched (t : Nat) : M Unit := do
  modify (clearSched t)
  match ← catchCode (readHeader t) with
  | .error c => modify (haltTile t c 0)
  | .ok (h, es) =>
    modTile t fun x => { x with
      mainBase := fld h 0 4, mainLen := fld h 4 4, fillBase := fld h 8 4, fillLen := fld h 0xC 4
      chanBase := fld h 0x10 4, chanCount := fld h 0x14 4, compBase := fld h 0x18 4, compLen := fld h 0x1C 4 }
    modify fun s =>
      let s := wr (pgTile t) Reg.SCHED_STEP 0 s
      (List.range 64).foldl (fun s n => openEntry t n es[n]? s) s

/-! ### The boundary (R240, R288, R319) -/

/-- A tile's pass ends at its step boundary (R240, R288). -/
def toBoundary (t : Nat) (s : State) : State :=
  let page := pgTile t
  let x := getTile s t
  let s := bump page Reg.SCHED_STEP 1 s
  let s := finishStep page (rd s page Reg.GEN_TSTEP) s
  wr page Reg.SCHED_PC_MAIN 0 (setSched t 2 (setTile t { x with mainIdx := 0 } s))

/-- A tile at its step boundary stops, starts afresh, or waits there for its next pass. -/
def reachBoundary (t : Nat) : M Unit := do
  modify (toBoundary t)
  let x ← gets fun s => getTile s t
  if x.starting then startSched t
  else if x.stopping then
    modify fun s =>
      let s := applySpare (pgTile t) 0 s
      wr (pgTile t) Reg.SCHED_CTRL_STOP 0 (setSched t 0 (setTile t { getTile s t with stopping := false, loaded := false } s))

/-- An endpoint of the tile stands in PEER_LOCKED with its peers open again, so it reopens at this boundary (R262). -/
def canReopen (t : Nat) (s : State) : Bool :=
  (List.range 64).any fun n => chanState s t n == 2 && peersOpen s (getChan s t n)

/-- A tile at a step boundary begins its next pass when the pass's step has opened, and no spare mapping and no
reopening waits there (R168, R262, R319). -/
def passBegin (t : Nat) (s : State) : State :=
  let page := pgTile t
  if 4352 ≤ t ∨ schedState s t ≠ 2 ∨ isSet s page Reg.HA_SPARE_PENDING ∨ canReopen t s then s
  else
    let x := getTile s t
    match nextPass s x.fresh (rd s page Reg.GEN_TSTEP) with
    | none => s
    | some step =>
      let s := setTile t { x with fresh := false, mainIdx := 0 } s
      joinStep page step (wr page Reg.GEN_TSTEP step (wr page Reg.SCHED_PC_MAIN 0 (setSched t 1 s)))

def execMainListPassBegin (tile : Nat) (s : State) : Host.Outcome State Fault Refusal := whileOn s (passBegin tile s)

/-! ### The commands -/

/-- A write of `SCHED_CTRL.START`: it waits for the boundary while a pass runs (R240, R288). It waits while the clocks
of a gated cluster start (R792). -/
def schedStart (t : Nat) (s : State) : State :=
  if 4352 ≤ t ∨ !writable s (pgTile t) ∨ isSet s (pgTile t) Reg.SCHED_CTRL_START then s
  else if look false s.gated (clusterOf t) then writeWhenAwake (clusterOf t) (pgTile t) 0x180 1 s
  else if schedState s t = 1 then
    wr (pgTile t) Reg.SCHED_CTRL_START 1 (setTile t { getTile s t with starting := true } s)
  else tileWork t (startSched t) s

def execSchedStart (tile : Nat) (s : State) : Host.Outcome State Fault Refusal := whileOn s (schedStart tile s)

/-- A write of `SCHED_CTRL.STOP`: it waits for the next STEP_END; between passes the tile stops at once, and a tile
that is IDLE or HALTED keeps the bit (log 32). -/
def schedStop (t : Nat) (s : State) : State :=
  if 4352 ≤ t ∨ !writable s (pgTile t) ∨ isSet s (pgTile t) Reg.SCHED_CTRL_STOP then s
  else if look false s.gated (clusterOf t) then writeWhenAwake (clusterOf t) (pgTile t) 0x180 2 s
  else if schedState s t = 2 then
    setSched t 0 (setTile t { getTile s t with loaded := false } s)
  else wr (pgTile t) Reg.SCHED_CTRL_STOP 1 (setTile t { getTile s t with stopping := true } s)

def execSchedStop (tile : Nat) (s : State) : Host.Outcome State Fault Refusal := whileOn s (schedStop tile s)

end Sys2Proof.Machine
end

