-- ==== Sys2Proof/Machine/Issue.lean ====
section
/-! DEFINITION. Issue of a tile's instructions: the conditions, the checks in their order, and what each instruction
hands to its unit (Spatial Pipelines and Credits; The Hinge Array; Accumulators and Reduction Order). -/

namespace Sys2Proof.Machine

/-- Checks 1 to 4 as work. -/
def listChecksM (t : Nat) (h : Head) : M Unit := do refuseSome (listChecks (← get) t h)

/-- Check 7 as work. -/
def chanCheckM (t n : Nat) (send : Bool) : M Unit := do refuseSome (chanCheck (← get) t n send)

/-- Check 8 as work. -/
def recordCheckM (t n rb : Nat) : M Unit := do refuseSome (recordCheck (← get) t n rb)

/-- A descriptor of `n` bytes at a well offset. Of one that passes the well's end only the control word is read, where
that lies in the well: check 5 comes before check 6. -/
def readHead (t : Nat) (h : Head) (n : Nat) : M (List Byte) :=
  if !beyondWell h.a0 n then readDesc t h h.a0 n
  else if !beyondWell h.a0 4 then readDesc t h h.a0 4
  else return []

/-- Checks 5 and 6 of an instruction with a descriptor of `n` bytes that names `set`. -/
def headChecks (t : Nat) (h : Head) (n : Nat) (set : Option Nat) : M Unit := do
  refuseIf (!beyondWell h.a0 4 && fillSetBreach (← get) t h set) 0x0138
  refuseIf (beyondWell h.a0 n) 0x0139

/-- A range of bytes has a byte outside the tile's own well, as the windows redirect it for slot `h`. -/
def outsideWell (s : State) (t h : Nat) (r : Nat × Nat) : Bool :=
  r.2 != 0 && (redirectRange s (pgTile t) h (wholeAddr s r.1) r.2).any fun x =>
    decide (x.1 < wellBase t) || decide (wellBase t + wellBytes < x.1 + x.2)

/-! ### ARRAY (R158 to R165, R180 to R185, R457 to R466) -/

/-- Checks 1 to 9 of R164. `STRM_FMT` counts as an operand of a load-only operation too, its record does not (log 87). -/
def arrayChecks (s : State) (t off h : Nat) (o : ArrayOp) : Option Nat :=
  let page := pgTile t
  if off % 128 ≠ 0 then some 0x0116
  else if isSet s page Reg.HA_STATUS_UNCOVERED then some 0x0610
  else match formatCheck o.statFmt (some (fld o.desc 0x20 8)) none with
  | some c => some c
  | none =>
    match formatCheck o.strmFmt (if o.loadOnly then none else some (fld o.desc 0x48 8)) none with
    | some c => some c
    | none =>
      if o.mode = 3 ∨ bitsOf o.ctrl 2 2 = 3 ∨ (o.loadOnly ∧ (!o.load || o.split3)) then some 0x0110
      else if o.statFmt.format = .f32 ∨ o.strmFmt.format = .f32
          ∨ (o.split3 ∧ (o.statFmt.format ≠ .k16 ∨ o.strmFmt.format ≠ .k16)) then some 0x0111
      else if o.split3 ∧ !o.paired then some 0x0112
      else if (if o.paired then 128 else 256) < o.row + o.vectors then some 0x0113
      else if o.statRanges.any (outsideWell s t h) then some 0x0114
      else if !o.isWindow ∧ o.loadsNeeded = 0 ∧ !bitOf (rd s page Reg.HA_STATUS_BANK_VALID) o.bank then some 0x0115
      else none

/-- The checks of a window operation (R464). -/
def windowOpChecks (s : State) (t off h : Nat) (o : ArrayOp) : Option Nat :=
  let w := o.win
  if off % 32 ≠ 0 ∨ beyondWell off 32 then some 0x0180
  else if 2 ≤ o.mode ∨ o.split3 ∨ o.fromChannel ∨ fld w 0x1C 4 ≠ 0 then some 0x0184
  else if fld w 0 1 = 0 ∨ 15 < fld w 0 1 ∨ fld w 1 1 = 0 ∨ 15 < fld w 1 1 ∨ fld w 2 1 = 0 ∨ 7 < fld w 2 1 then some 0x0181
  else if (o.statRanges ++ o.strmRanges).any (outsideWell s t h) then some 0x0183
  else none

/-- The owner codes 12 to 14 (R181, R184). -/
def ownerChecks (s : State) (t : Nat) (o : ArrayOp) : Option Nat :=
  let page := pgTile t
  let k := o.accSet
  if setFree s t k then none
  else
    let same := rdAt s page Reg.ACC_SET_OWNER_TAG k == o.ins.tag
    let joins := rdAt s page Reg.ACC_SET_JOIN k == 1 && o.join
    if !same && !joins then some 0x0120
    else if !same && o.init then some 0x0121
    else if (rdAt s page Reg.ACC_SET_PAIRED k == 1) != o.paired then some 0x0122
    else none

/-- The change of the set's logical state at issue (R181). -/
def ownSet (t : Nat) (o : ArrayOp) (s : State) : State :=
  let page := pgTile t
  let k := o.accSet
  if setFree s t k then
    wrAt page Reg.ACC_SET_OWNED k 1 (wrAt page Reg.ACC_SET_JOIN k (natOf o.join)
      (wrAt page Reg.ACC_SET_PAIRED k (natOf o.paired) (wrAt page Reg.ACC_SET_JOINS k 0
        (wrAt page Reg.ACC_SET_OWNER_TAG k o.ins.tag s))))
  else if rdAt s page Reg.ACC_SET_OWNER_TAG k = o.ins.tag then s
  else addAt page Reg.ACC_SET_JOINS k 1 s

/-- `HA_STATUS.BUSY` shows whether the array holds an operation. -/
def showBusy (t : Nat) (s : State) : State :=
  wr (pgTile t) Reg.HA_STATUS_BUSY (natOf ((getTile s t).array.any fun o => !o.done)) s

/-- Issues an ARRAY instruction. A load-only operation reads the stationary scale alone; a window descriptor beyond the well
is met by the window checks (log 87). -/
def issueArray (t : Nat) (h : Head) : M Unit := do
  waitFor (decide (((getTile (← get) t).array.filter fun o => !o.done).length < 2))
  needBound t h
  listChecksM t h
  let d ← readHead t h 128
  headChecks t h 128 (some (ArrayOp.accSet { ins := { seq := 0, opc := h.opc }, desc := d, cab := 0 }))
  let win ← if h.a1 = 0 then pure [] else if h.a1 % 32 ≠ 0 ∨ beyondWell h.a1 32 then pure (List.replicate 32 0)
    else readDesc t h h.a1 32
  let s ← get
  let o : ArrayOp := { ins := issuedOf t h (bitsOf (fld d 4 4) 16 16) s, desc := d, win := win, cab := 0 }
  onlyIf o.fromChannel (chanCheckM t (fld d 0x30 1) false)
  onlyIf o.fromChannel (recordCheckM t (fld d 0x30 1) (recordBytes o.strmFmt))
  refuseIf (o.split3 && o.fromChannel) 0x013D
  refuseSome (arrayChecks s t h.a0 o.ins.slot o)
  let w : Who := ⟨pgTile t, 0⟩
  let ca ← readCoarse w o.statFmt (fld d 0x20 8) o.ins.slot
  let cb ← if o.loadOnly then pure f32One else readCoarse w o.strmFmt (fld d 0x48 8) o.ins.slot
  let cab := coarseProduct ca cb
  refuseIf (!o.loadOnly && !f32PosNormal cab) 0x0302
  onlyIf o.isWindow (refuseSome (windowOpChecks s t h.a1 o.ins.slot o))
  if !o.loadOnly then refuseSome (ownerChecks (← get) t o)
  checkWindows t h ([(wellBase t + h.a0, 128)] ++ (if h.a1 = 0 then [] else [(wellBase t + h.a1, 32)])
    ++ o.statRanges ++ o.strmRanges ++ o.scaleRanges) []
  issueHead t h o.ins
  let owns := !o.loadOnly && setFree (← get) t o.accSet
  if !o.loadOnly then modify (ownSet t o)
  modTile t fun x => { x with array := x.array ++ [{ o with cab := cab, owns := owns }] }
  modify (showBusy t)

/-! ### DRAIN (R188 to R202) -/

/-- Fields of a drain descriptor (R188 to R190). -/
structure DrainDesc where
  d : List Byte
deriving DecidableEq, Repr

def DrainDesc.ctrl (x : DrainDesc) : Nat := fld x.d 0 4
def DrainDesc.shape (x : DrainDesc) : Nat := fld x.d 4 4
def DrainDesc.set (x : DrainDesc) : Nat := bitsOf x.ctrl 0 1
def DrainDesc.toChan (x : DrainDesc) : Bool := bitOf x.ctrl 1
def DrainDesc.transpose (x : DrainDesc) : Bool := bitOf x.ctrl 2
def DrainDesc.release (x : DrainDesc) : Bool := bitOf x.ctrl 3
def DrainDesc.pairOut (x : DrainDesc) : Bool := bitOf x.ctrl 4
def DrainDesc.firstRow (x : DrainDesc) : Nat := bitsOf x.shape 0 8
def DrainDesc.rows (x : DrainDesc) : Nat := bitsOf x.shape 8 8 + 1
def DrainDesc.lanes (x : DrainDesc) : Nat := bitsOf x.shape 16 6 + 1
def DrainDesc.fmt (x : DrainDesc) : FormatWord := FormatWord.ofNat (fld x.d 0x10 4)
/-- Output vectors, and elements of each (R191). -/
def DrainDesc.vectors (x : DrainDesc) : Nat := if x.transpose then x.lanes else x.rows
def DrainDesc.width (x : DrainDesc) : Nat := if x.transpose then x.rows else x.lanes
/-- Where output vector v and its block-scale bytes go (R192). -/
def DrainDesc.dstAt (x : DrainDesc) (v : Nat) : Nat × Nat :=
  (fld x.d 8 8 + v * fld x.d 0x14 4, fld x.d 0x28 8 + v * fld x.d 0x18 4)
/-- Bytes of a channel record of its output (R252). -/
def DrainDesc.recBytes (x : DrainDesc) : Nat := recordBytes x.fmt * (if x.pairOut then 2 else 1)

/-- Checks 1 to 4 of R202; `adds` says that the drain makes a statistics add (R101). -/
def drainChecks (off : Nat) (x : DrainDesc) (paired adds : Bool) : Option Nat :=
  if off % 64 ≠ 0 then some 0x0123
  else match formatCheck x.fmt (some (fld x.d 0x20 8)) (if adds then some (fld x.d 0x30 8) else none) with
  | some c => some c
  | none =>
    if (if paired then 128 else 256) < x.firstRow + x.rows ∨ (x.transpose ∧ 64 < x.rows) then some 0x0124
    else if x.pairOut ∧ (!paired ∨ x.fmt.format ≠ .f32 ∨ x.transpose) then some 0x0125
    else none

/-- Byte ranges of `n` vectors of `k` elements. -/
def vecRanges (f : FormatWord) (k : Nat) (at_ : Nat → Nat × Nat) (n : Nat) : List (Nat × Nat) :=
  (List.range n).flatMap fun v =>
    ((at_ v).1, f.format.bytesFor k) :: (if f.format.blockScaled then [((at_ v).2, blockCount k f.block)] else [])

/-- The records of a format word as byte ranges: the scale record read, the statistics record written. -/
def scaleRange (f : FormatWord) (a : Nat) : List (Nat × Nat) := if f.coarseOne then [] else [(a, 384)]
def statsRange (f : FormatWord) (a : Nat) : List (Nat × Nat) := if f.stats then [(a, 384)] else []

/-- Bytes that a drain writes to memory. -/
def DrainDesc.writes (x : DrainDesc) (adds : Bool) : List (Nat × Nat) :=
  (if x.toChan then [] else vecRanges x.fmt x.width x.dstAt x.vectors
    ++ (if x.pairOut then vecRanges x.fmt x.width (fun v => ((x.dstAt v).1 + fld x.d 0x1C 4, 0)) x.vectors else []))
  ++ (if adds then statsRange x.fmt (fld x.d 0x30 8) else [])

/-- Marks a set logically free; its release takes effect later (R182). `JOIN` and `JOINS` keep the last owner's values until
the next owner (log 88). -/
def beginRelease (t set seq : Nat) (s : State) : State :=
  let x := getTile s t
  wrAt (pgTile t) Reg.ACC_SET_OWNED set 0 (wrAt (pgTile t) Reg.ACC_SET_RELEASING set 1
    (setTile t { x with releases := x.releases ++ [(seq, set, false)] } s))

/-- Issues a DRAIN instruction. -/
def issueDrain (t : Nat) (h : Head) : M Unit := do
  waitFor (decide ((getTile (← get) t).epi.length < 4))
  needBound t h
  listChecksM t h
  let d ← readHead t h 64
  let x : DrainDesc := ⟨d⟩
  headChecks t h 64 (some x.set)
  let s ← get
  let n := fld d 8 1
  let need := if x.toChan then slotsFor s t n x.vectors else 0
  if x.toChan then
    chanCheckM t n true
    recordCheckM t n x.recBytes
    sendSlots t n need
  let paired := rdAt s (pgTile t) Reg.ACC_SET_PAIRED x.set == 1
  let i := issuedOf t h (fld d 0x38 2) s
  refuseSome (drainChecks h.a0 x paired i.stats.isSome)
  let c ← readCoarse ⟨pgTile t, 0⟩ x.fmt (fld d 0x20 8) i.slot
  checkWindows t h ([(wellBase t + h.a0, 64)] ++ scaleRange x.fmt (fld d 0x20 8)) (x.writes i.stats.isSome)
  if x.toChan then takeCredits t n need
  issueHead t h i
  if x.release then modify (beginRelease t x.set i.seq)
  modTile t fun y => { y with epi := y.epi ++ [{
    ins := i, desc := d, tail := false, set := x.set + 1, release := x.release, paired := paired, taken := need
    coarse := c }] }

/-! ### TAIL (R270 to R287, R490) -/

/-- Byte ranges that a tail operation reads, apart from the optimizer's slots. -/
def tailReads (t : Nat) (h : Head) (x : TailDesc) : List (Nat × Nat) :=
  let psize := match x.kind with
    | some .biasAct => 256
    | some .convert => 4
    | some .norm | some .normApply => 4 + 256 * x.group * (if x.normMean then 2 else 1)
    | some .sgd | some .adamw => 96
    | some .pool => 64
    | _ => 0
  [(wellBase t + h.a0, 192)]
    ++ (if x.src = 1 ∧ !x.is .pool then vecRanges x.srcFmt x.lanes x.srcAt x.vectors else [])
    ++ (if x.usesAux then vecRanges x.auxFmt x.lanes x.auxAt x.vectors ++ scaleRange x.auxFmt (fld x.d 0x40 8) else [])
    ++ (if x.is .normApply then [(fld x.d 0x30 8, 8 * (x.vectors / x.group) * x.parts)] else [])
    ++ (if psize = 0 then [] else [(x.param, psize)])
    ++ (if x.src = 0 ∨ x.is .split3 then [] else scaleRange x.srcFmt (fld x.d 0x18 8))
    ++ (if x.is .rowstat || x.is .split3 then [] else scaleRange x.dstFmt (fld x.d 0x60 8))

/-- Byte ranges that a tail operation writes, apart from the optimizer's slots (R304, R305). -/
def tailWrites (x : TailDesc) (adds : Bool) : List (Nat × Nat) :=
  (if x.dstCh || x.update then []
    else if x.is .rowstat then (List.range (x.vectors / x.group)).map fun g => ((x.dstAt g).1, 8)
    else if x.is .split3 then (List.range x.vectors).flatMap fun v =>
      (List.range 3).map fun k => ((x.dstAt v).1 + k * fld x.d 0x7C 4, 2 * x.lanes)
    else vecRanges x.dstFmt x.lanes x.dstAt x.vectors)
  ++ (if x.is .rowstat || x.is .split3 || !adds then [] else statsRange x.dstFmt (fld x.d 0x70 8))

/-- The taps of a POOL as byte ranges read. -/
def poolReads (x : TailDesc) (p : List Byte) : List (Nat × Nat) :=
  (List.range x.vectors).flatMap fun v => (poolTaps x p v).filterMap fun a => a.map fun y => (y, recordBytes x.srcFmt)

/-- The slot addresses of an update that lie in no enabled window (R281, R304). -/
def noWindow (s : State) (t : Nat) (x : TailDesc) (p : List Byte) : Bool :=
  ((updateStates x p).map Prod.snd ++ [fld x.d 0x50 8]).any fun a => (windowAt s (pgTile t) (wholeAddr s a)).isNone

/-- The step of an update: that of its micro-batch, else that of the tile's pass (R307, R309). -/
def updateStep (t : Nat) (h : Head) (s : State) : Nat :=
  let pass := rd s (pgTile t) Reg.GEN_TSTEP
  (statsStep s (pgTile t) h.mb pass).getD pass

/-- Issues a TAIL instruction. An update holds for its pending slot before check 17, which reads a scale record there
(R309, R310). -/
def issueTail (t : Nat) (h : Head) : M Unit := do
  waitFor (decide ((getTile (← get) t).epi.length < 4))
  let opWord ← readHead t h 192
  let x : TailDesc := ⟨opWord⟩
  onlyIf (!x.update) (needBound t h)
  listChecksM t h
  headChecks t h 192 (if x.src = 0 then some x.set else none)
  let s ← get
  let n := fld x.d 0x50 1
  let need := if x.dstCh then slotsFor s t n x.vectors else 0
  onlyIf (x.src == 2) (chanCheckM t (fld x.d 8 1) false)
  onlyIf x.dstCh (chanCheckM t n true)
  onlyIf (x.src == 2) (recordCheckM t (fld x.d 8 1) (recordBytes x.srcFmt))
  onlyIf x.dstCh (recordCheckM t n (recordBytes x.dstFmt))
  onlyIf x.dstCh (sendSlots t n need)
  let i := issuedOf t h x.tag s
  let w : Who := ⟨pgTile t, 0⟩
  let paired := x.src == 0 && rdAt s (pgTile t) Reg.ACC_SET_PAIRED x.set == 1
  refuseSome (tailFirstCheck h.a0 x i.stats.isSome)
  let p ← (if x.update then do
      let d ← winRead w i.slot x.param 96
      pure (d.map Prod.fst)
    else pure [])
  refuseSome (tailCheck x paired p)
  onlyIf x.update do
    let s ← get
    if !pendingOpen s (updateStep t h s) then throw (.stall 3)
  let sc ← (if x.src = 0 ∨ x.is .split3 then pure f32One else readCoarse w x.srcFmt (fld x.d 0x18 8) i.slot)
  let ac ← (if x.usesAux then readCoarse w x.auxFmt (fld x.d 0x40 8) i.slot else pure f32One)
  let dc ← (if x.is .rowstat || x.is .split3 then pure f32One
    else readCoarse w x.dstFmt (fld x.d 0x60 8) (if x.update then pendingSlot s else i.slot))
  let pp ← (if x.is .pool then do
      let d ← winRead w i.slot x.param 64
      pure (d.map Prod.fst)
    else pure [])
  onlyIf (x.is .pool) (refuseSome (poolCheck x.param pp))
  checkWindows t h (tailReads t h x ++ (if x.is .pool then poolReads x pp else [])) (tailWrites x i.stats.isSome)
  refuseIf (x.update && noWindow (← get) t x p) 0x0154
  onlyIf x.dstCh (takeCredits t n need)
  issueHead t h i
  onlyIf (x.src == 0 && x.release) (modify (beginRelease t x.set i.seq))
  modTile t fun y => { y with epi := y.epi ++ [{
    ins := i, desc := opWord, tail := true, set := if x.src = 0 then x.set + 1 else 0
    release := x.src == 0 && x.release, paired := paired, taken := need, coarse := dc, srcCoarse := sc, auxCoarse := ac }] }

/-! ### SEND and RECV (R228, R229) -/

/-- Issues a SEND or RECV instruction to the copy queue. -/
def issueCopy (t : Nat) (h : Head) : M Unit := do
  waitFor (decide ((getTile (← get) t).copy.length < 4))
  needBound t h
  listChecksM t h
  let s ← get
  let n := bitsOf h.a1 0 6
  let c := getChan s t n
  let send := h.opc = O_SEND
  refuseIf (beyondWell h.a0 (h.a2 * c.slotBytes)) 0x0139
  chanCheckM t n send
  if send then sendSlots t n h.a2
  let r := [(wellBase t + h.a0, h.a2 * c.slotBytes)]
  checkWindows t h (if send then r else []) (if send then [] else r)
  if send then takeCredits t n h.a2
  let i := issuedOf t h 0 s
  issueHead t h i
  modTile t fun y => { y with copy := y.copy ++ [⟨i, h.a0, n, h.a2⟩] }

/-! ### PUMP (R600) -/

def getPump (s : State) (p : Nat) : Pump := look {} s.pumps p
def setPump (p : Nat) (x : Pump) (s : State) : State := { s with pumps := put {} s.pumps p x }

/-- The lowest free transfer slot of a pump (R599). -/
def freePumpSlot (x : Pump) : Option Nat := (List.range 8).find? fun k => (x.slots.find? fun e => e.1 == k).isNone

/-- `PM_STATUS` and `PM_SLOTn` of a pump show its slots and its queue (R648). -/
def showPump (p : Nat) (s : State) : State :=
  let x := getPump s p
  let page := pgPump p
  let s := wr page Reg.PM_STATUS_BUSY x.slots.length (wr page Reg.PM_STATUS_QUEUE x.queue.length s)
  (List.range 8).foldl (fun s k =>
    match x.slots.find? fun e => e.1 == k with
    | some (_, y) => wrAt page Reg.PM_SLOT_KIND k (fld y.desc 0 1)
        (wrAt page Reg.PM_SLOT_BUSY k 1 (wrAt page Reg.PM_SLOT_DRY k (natOf y.dry) s))
    | none => wrAt page Reg.PM_SLOT_KIND k 0 (wrAt page Reg.PM_SLOT_BUSY k 0 (wrAt page Reg.PM_SLOT_DRY k 0 s))) s

/-- The packer of a cluster shows what it executes and what waits (R379). -/
def showPacker (k : Nat) (s : State) : State :=
  let n := (getPump s k).packs.length
  wr (pgCluster k) Reg.AW_STATUS_BUSY (natOf (n != 0)) (wr (pgCluster k) Reg.AW_STATUS_QUEUE (n - 1) s)

/-- Puts a descriptor into a free slot; the kinds of the packer join its order (R343, R344). -/
def placeXfer (p : Nat) (y : Xfer) (s : State) : State :=
  let x := getPump s p
  match freePumpSlot x with
  | none => s
  | some k =>
    let pack := p < 256 ∧ (fld y.desc 0 1 = 4 ∨ fld y.desc 0 1 = 5)
    let s := showPump p (setPump p { x with
      slots := insertKey x.slots k y, packs := if pack then x.packs ++ [k] else x.packs } s)
    if pack then showPacker p s else s

/-- Issues a PUMP instruction: the cluster pump accepts the descriptor into a free slot. -/
def issuePump (t : Nat) (h : Head) : M Unit := do
  let k := clusterOf t
  waitFor (freePumpSlot (getPump (← get) k)).isSome
  needBound t h
  listChecksM t h
  refuseIf (beyondWell h.a0 128) 0x0139
  refuseIf (lockState (← get) (pgPump k) != 0) 0x0801
  let d ← readDesc t h h.a0 128
  let s ← get
  let i := issuedOf t h 0 s
  issueHead t h i
  modify (placeXfer k {
    desc := d, addr := h.a0, tile := some (t, i.seq), mb := h.mb, slot := i.slot, sample := i.sample, pass := i.pass
    stats := i.stats })

/-! ### WAIT, SIGNAL, SEG, FILL_ON, FILL_OFF, STEP_END -/

/-- Issues a WAIT when its word has reached the value (R233, R235). -/
def issueWait (t : Nat) (h : Head) : M Unit := do
  listChecksM t h
  refuseIf (beyondWell h.a0 4) 0x0139
  checkWindows t h [(wellBase t + h.a0, 4)] []
  let d ← readDesc t h h.a0 4
  waitFor (decide (h.a1 ≤ leNat d))
  settleHead t h 0 0

/-- Issues a SIGNAL: its add goes on its way (R230). -/
def issueSignal (t : Nat) (h : Head) : M Unit := do
  listChecksM t h
  let a := h.a0 + h.a1 * 2 ^ 32
  let s ← get
  if isLocal s a then checkWindows t h [] [(localOf a, 4)]
  let i := issuedOf t h 0 s
  issueHead t h i
  busAdd (opWho t i) a h.a2

/-- Issues a SEG: a nonzero mark starts its segment (R238, R371). -/
def issueSeg (t : Nat) (h : Head) : M Unit := do
  listChecksM t h
  refuseIf (beyondWell h.a0 8 || beyondWell h.a1 (16 * h.a2)) 0x0139
  checkWindows t h [(wellBase t + h.a0, 8)] []
  let d ← readDesc t h h.a0 8
  settleHead t h 0 0
  if leNat d ≠ 0 then
    modify (bump (pgTile t) Reg.SEG_RUNS 1)
    if h.a2 ≠ 0 then
      modTile t fun x => { x with segBase := h.a1, segLen := h.a2, segIdx := 0 }
      modify fun s => wr (pgTile t) Reg.SCHED_PC_SEG 0 (wr (pgTile t) Reg.SCHED_STATUS_IN_SEG 1 s)

/-- Issues a FILL_ON when its set is logically free (R264). -/
def issueFillOn (t : Nat) (h : Head) : M Unit := do
  listChecksM t h
  waitFor (setFree (← get) t (bitsOf h.a0 0 1))
  settleHead t h 0 0
  modify fun s => wr (pgTile t) Reg.SCHED_STATUS_FILL_SET (bitsOf h.a0 0 1)
    (wr (pgTile t) Reg.SCHED_STATUS_FILL_OPEN 1 s)

/-- Issues a FILL_OFF: the window closes once the fill set is free; an empty ring with the set owned is an error
(R267). -/
def issueFillOff (t : Nat) (h : Head) : M Unit := do
  listChecksM t h
  let s ← get
  if setFree s t (rd s (pgTile t) Reg.SCHED_STATUS_FILL_SET) then
    settleHead t h 0 0
    modify (wr (pgTile t) Reg.SCHED_STATUS_FILL_OPEN 0)
  else
    let r ← ringHead t
    waitFor r.isNone
    failWith 0x013E

/-- Issues a STEP_END once every earlier main-list instruction has completed (R233, R240). -/
def issueStepEnd (t : Nat) (h : Head) : M Unit := do
  listChecksM t h
  waitFor (liveOf (getTile (← get) t) false).isEmpty
  settleHead t h 0 0
  reachBoundary t

/-- Issues the head of a list: its own condition, the checks, its hand-over. A refused instruction issues and completes
with its code. -/
def issueBody (t : Nat) (h : Head) : M Unit :=
  match h.opc with
  | 1 => issueArray t h
  | 2 => issueDrain t h
  | 3 => issueTail t h
  | 4 => issueCopy t h
  | 5 => issueCopy t h
  | 6 => issuePump t h
  | 7 => issueWait t h
  | 8 => issueSignal t h
  | 9 => issueSeg t h
  | 10 => issueFillOn t h
  | 11 => issueFillOff t h
  | 12 => issueStepEnd t h
  | _ => listChecksM t h

/-- The tag that the descriptor of a head gives its completion (R242). -/
def tagOf (t : Nat) (h : Head) : M Nat := do
  match h.opc with
  | 1 => if beyondWell h.a0 128 then return 0 else return bitsOf (fld (← readDesc t h h.a0 128) 4 4) 16 16
  | 2 => if beyondWell h.a0 64 then return 0 else return fld (← readDesc t h h.a0 64) 0x38 2
  | 3 => if beyondWell h.a0 192 then return 0 else return fld (← readDesc t h h.a0 192) 0x88 2
  | _ => return 0

/-- Work of a head: waiting for anything that no status bit shows is a wait of the head too. -/
def headWaits {α : Type} (m : M α) : M α :=
  tryCatch m fun e => match e with
    | .hold => throw (.stall 0)
    | e => throw e

def issueOne (t : Nat) (h : Head) : M Unit := headWaits do
  let s ← get
  waitFor (!(bitOf h.flags 1) || (liveOf (getTile s t) h.ring).isEmpty)
  let c ← codeOf (issueBody t h)
  if c ≠ 0 then
    let tag ← catchCode (tagOf t h)
    settleHead t h (match tag with | .ok x => x | .error _ => 0) c

/-- The head of the main list issues when it satisfies `p`, or when its opcode or flags are reserved. -/
def issueMain (t : Nat) (p : Head → M Bool) : M Unit := do
  match ← mainHead t with
  | none => throw .hold
  | some h =>
    let bad := (listChecks (← get) t h) == some 0x0134
    waitFor (bad || (← p h))
    issueOne t h

/-- The head of the main list could issue now. -/
def mainCouldIssue (t : Nat) (s : State) : Bool :=
  match runM (issueMain t fun _ => pure true) s with
  | (.ok _, _) => true
  | _ => false

/-- FILL_OFF stands at the head of the main list and the fill set is owned (R267). -/
def fillOffWaits (t : Nat) (s : State) : Bool :=
  match runM (mainHead t) s with
  | (.ok (some h), _) => h.opc == O_FILL_OFF && !setFree s t (rd s (pgTile t) Reg.SCHED_STATUS_FILL_SET)
  | _ => false

/-- A fill-ring entry issues when the head of the main list cannot, or when FILL_OFF waits there (R266, R267). -/
def fillRingIssue (t : Nat) (s : State) : State :=
  if 4352 ≤ t ∨ !fillOpen s t then s
  else if mainCouldIssue t s ∧ !fillOffWaits t s then s
  else headWork t true (do
    match ← ringHead t with
    | none => throw .hold
    | some h => issueOne t h) s

/-- A main-list instruction of one kind issues. -/
def issueKind (t : Nat) (p : Head → M Bool) (s : State) : State :=
  if t < 4352 then headWork t false (issueMain t p) s else s

def isOpc (o : Nat) (h : Head) : M Bool := pure (h.opc == o)

end Sys2Proof.Machine
end

