-- ==== Sys2Proof/Machine/ArrayCommands.lean ====
section
/-! DEFINITION. The hinge array at work: issue of its instructions, stationary loads, vector entries, completion, and the
arithmetic status of clusters and of the module (The Hinge Array; Accumulators and Reduction Order). -/

namespace Sys2Proof.Machine

/-! ### Issue (R114, R115, R144, R457) -/

/-- `MODE` of the descriptor of an ARRAY head; none where it cannot be read. -/
def headMode (t : Nat) (h : Head) : M (Option Nat) := do
  if beyondWell h.a0 128 then return none
  match ← catchCode (readDesc t h h.a0 4) with
  | .error _ => return none
  | .ok d => return some (bitsOf (leNat d) 0 2)

/-- An ARRAY head without a window descriptor, with one of the modes. -/
def isArray (t : Nat) (ok : Option Nat → Bool) (h : Head) : M Bool := do
  if h.opc != O_ARRAY || h.a1 != 0 then return false
  return ok (← headMode t h)

def execArrayRowRead (tile : Nat) (s : State) : Host.Outcome State Fault Refusal :=
  whileOn s (issueKind tile (isArray tile fun m => m != some 1 && m != some 2) s)
def execArrayColumnRead (tile : Nat) (s : State) : Host.Outcome State Fault Refusal :=
  whileOn s (issueKind tile (isArray tile fun m => m == some 1) s)
def execArrayLoadOnly (tile : Nat) (s : State) : Host.Outcome State Fault Refusal :=
  whileOn s (issueKind tile (isArray tile fun m => m == some 2) s)
def execArrayWindowOp (tile : Nat) (s : State) : Host.Outcome State Fault Refusal :=
  whileOn s (issueKind tile (fun h => pure (h.opc == O_ARRAY && h.a1 != 0)) s)

/-! ### Operations of the array -/

def emptyBank : Bank := { fmt := 0 }
def bankAt (x : Tile) (b : Nat) : Bank := look emptyBank x.banks b

/-- Replaces the operation of the same issue number. -/
def putOp (t : Nat) (o : ArrayOp) (s : State) : State :=
  let x := getTile s t
  setTile t { x with array := x.array.map fun p => if p.ins.seq = o.ins.seq then o else p } s

/-- An operation ends, with a code where it failed; the banks that a split-3 operation loaded lose their valid bits
(R144, R145). -/
def endOp (t : Nat) (o : ArrayOp) (code : Nat) (s : State) : State :=
  let s := putOp t { o with done := true, ins := { o.ins with code := if o.ins.code = 0 then code else o.ins.code } } s
  let s := showBusy t s
  if o.split3 then
    (List.range 2).foldl (fun s b =>
      let v := rd s (pgTile t) Reg.HA_STATUS_BANK_VALID
      if (bankAt (getTile s t) b).by_ = o.ins.seq ∧ bitOf v b then
        wr (pgTile t) Reg.HA_STATUS_BANK_VALID (v - 2 ^ b) s
      else s) s
  else s

/-- A pass of an operation that has still to drive uses the bank. -/
def stillDrives (o : ArrayOp) (b upTo : Nat) : Bool :=
  !o.done && !o.loadOnly && (List.range upTo).any fun p => decide (o.pass ≤ p) && o.bankOf p == b

/-- The first operation with a pass to load, and those before it. -/
def nextLoad : List ArrayOp → List ArrayOp → Option (List ArrayOp × ArrayOp)
  | _, [] => none
  | before, o :: os =>
    if !o.done && decide (o.loads < o.loadsNeeded) then some (before.reverse, o) else nextLoad (o :: before) os

/-- The bank of an operation's next load is free: no earlier pass drives from it any more (R141, R142). -/
def loadFree (before : List ArrayOp) (o : ArrayOp) : Bool :=
  let b := o.bankOf o.loads
  !(before.any fun e => stillDrives e b e.passes) && !stillDrives o b o.loads

/-- Row r of a bank with values that nothing fixes: the row of a load that failed before it (log 33). -/
def freeRow (f : FormatWord) (n : Nat) : List Nat × List Nat :=
  let v := Config.freeNat n
  (unpackNat f.format.bits 64 v, unpackNat 8 4 (v / 2 ^ (64 * f.format.bits)))

/-- Loads a stationary operand: row by row, each once (R140, R145, R146). -/
def stationaryLoad (t : Nat) : M Unit := do
  let s ← get
  match nextLoad [] (getTile s t).array with
  | none => throw .hold
  | some (before, o) =>
    waitFor (loadFree before o)
    let b := o.bankOf o.loads
    let f := o.statFmt
    let w := opWho t o.ins
    let (rows, code) ← readUntil (fun i =>
      let r := o.statRow o.loads i
      readVecWith (winRead w o.ins.slot) f 64 r.1.1 r.2.1) (List.range 64)
    let s ← get
    let free := (List.range (64 - rows.length)).map fun i => freeRow f (s.drawn + i)
    let bank : Bank := {
      fmt := fld o.desc 0x10 4, codes := rows.map Encoded.codes ++ free.map Prod.fst
      s8 := rows.map Encoded.s8 ++ free.map Prod.snd, poison := rows.any Encoded.poison, by_ := o.ins.seq }
    set { s with drawn := s.drawn + free.length }
    modTile t fun x => { x with banks := put emptyBank x.banks b bank }
    if code ≠ 0 then modify (endOp t o code)
    else
      modify fun s =>
        let v := rd s (pgTile t) Reg.HA_STATUS_BANK_VALID
        let s := wr (pgTile t) Reg.HA_STATUS_BANK_VALID (v ||| 2 ^ b) s
        let o := { o with loads := o.loads + 1 }
        if o.loadOnly then endOp t o 0 s else putOp t o s
    modify (forgetArrived w)

def execStationaryLoad (tile : Nat) (s : State) : Host.Outcome State Fault Refusal :=
  whileOn s (if tile < 4352 then tileWork tile (stationaryLoad tile) s else s)

/-! ### Vector entry (R117, R118, R133, R134, R138, R139, R163, R170, R183, R198) -/

/-- The next streamed vector: from the tile's memory or from the channel. -/
def nextVector (t : Nat) (o : ArrayOp) : M Encoded := do
  let w := opWho t o.ins
  if o.fromChannel then
    match ← takeRecord w o.ins.slot t (fld o.desc 0x30 1) with
    | none => throw (.stall 4)
    | some (bs, p) => return ofRecord o.strmFmt bs p
  else
    let r := o.strmRow o.pass o.next
    readVecWith (winRead w o.ins.slot) o.strmFmt 64 r.1.1 r.2.1

/-- A parity mismatch is found while the operation drives (R170). -/
def parityFault (t : Nat) (o : ArrayOp) (cols : List Nat) (s : State) : State × ArrayOp :=
  let page := pgTile t
  let b := o.bankOf o.pass
  let v := rd s page Reg.HA_STATUS_BANK_VALID
  let s := if bitOf v b then wr page Reg.HA_STATUS_BANK_VALID (v - 2 ^ b) s else s
  let s := noteFault page 0 cols false s
  let before := if o.pass = 0 then o.next else o.vectors
  let x := (List.range before).foldl (fun x v =>
    (o.rowsOf v).foldl (fun x r => setRowPoison o.accSet r true x) x) (getTile s t)
  let o := { o with bad := true, ins := { o.ins with code := if o.ins.code = 0 then 0x0210 else o.ins.code } }
  (setTile t x s, o)

/-- The operation after its vector has entered. -/
def stepVector (o : ArrayOp) : ArrayOp :=
  if o.next + 1 < o.vectors then { o with next := o.next + 1 } else { o with next := 0, pass := o.pass + 1 }

/-- The next vector of the driving operation enters; `parity` is the mismatch that the check of its bank finds, and the
physical columns it can name. A vector whose read fails ends the operation with the code (log 87). -/
def vectorEntry (t : Nat) (parity : Option (List Nat)) : M Unit := do
  let s ← get
  let x := getTile s t
  match x.array.find? fun o => !o.done with
  | none => throw .hold
  | some o =>
    waitFor !o.loadOnly
    waitFor (o.loadsNeeded == 0 || decide (o.pass < o.loads))
    waitFor !(o.owns && x.releases.any fun r => decide (r.1 < o.ins.seq) && r.2.1 == o.accSet)
    waitFor !(x.epi.any fun e => !e.started && decide (e.ins.seq < o.ins.seq) && e.set == o.accSet + 1)
    match ← catchCode (nextVector t o) with
    | .error c => modify (endOp t o c)
    | .ok v =>
      let s ← get
      let (s, o) := match parity with
        | some cols => parityFault t o (cols.filter fun c => (servingColumns s (pgTile t) 0).contains c) s
        | none => (s, o)
      let bank := bankAt (getTile s t) (o.bankOf o.pass)
      let s := addVector t o (bankCells bank) (exactElements o.strmFmt v.codes v.s8) o.next
        (v.poison || bank.poison || o.bad) s
      let o := stepVector o
      set (if o.pass = o.passes then endOp t o 0 s else putOp t o s)
    modify (forgetArrived (opWho t o.ins))

def execVectorEntry (tile : Nat) (parity : Option (List Nat)) (s : State) : Host.Outcome State Fault Refusal :=
  whileOn s (if tile < 4352 then tileWork tile (vectorEntry tile parity) s else s)

/-- The first operation that has written its last row, or finished its load, completes and leaves (R144, R226, R493). -/
def arrayOpComplete (t cycles : Nat) (s : State) : State :=
  let x := getTile s t
  match x.array.find? fun o => o.done with
  | none => s
  | some o =>
    let s := setTile t { x with array := x.array.filter fun p => p.ins.seq != o.ins.seq } s
    let s := if o.isWindow then bump (pgTile t) Reg.WIN_PASSES o.pass (bump (pgTile t) Reg.WIN_OPS 1 s) else s
    completeIns t o.ins o.ins.code cycles (showBusy t s)

def execArrayOpComplete (tile cycles : Nat) (s : State) : Host.Outcome State Fault Refusal :=
  whileOn s (if tile < 4352 then arrayOpComplete tile cycles s else s)

/-! ### Cluster and module (R212, R213, R510) -/

/-- The tiles of a cluster whose `AS_STATUS.INVALID` is set. -/
def invalidTiles (s : State) (k : Nat) : Nat :=
  (List.range 17).foldl (fun m i => m + rd s (pgTile (k * 17 + i)) Reg.AS_STATUS_INVALID * 2 ^ i) 0

/-- `CL_ARITH` follows its tiles and captures the first that rose. -/
def clArithUpdate (k : Nat) (s : State) : State :=
  if 256 ≤ k then s
  else
    let page := pgCluster k
    let old := rd s page Reg.CL_ARITH_INV_TILES
    let now := invalidTiles s k
    let s := wr page Reg.CL_ARITH_INV_TILES now s
    match (List.range 17).find? fun i => bitOf now i && !bitOf old i with
    | some i =>
      if isSet s page Reg.CL_ARITH_FIRST_VALID then s
      else wr page Reg.CL_ARITH_FIRST_VALID 1 (wr page Reg.CL_ARITH_FIRST_TILE i s)
    | none => s

def execClArithUpdate (cluster : Nat) (s : State) : Host.Outcome State Fault Refusal := whileOn s (clArithUpdate cluster s)

/-- `MON_ARITH` follows the clusters: how many report, and the first that did. -/
def monArithUpdate (s : State) : State :=
  let now := (List.range 256).filter fun k => isSet s (pgCluster k) Reg.CL_ARITH_INV_TILES
  let fresh := now.filter fun k => !s.mon.invClusters.contains k
  let s := wr pgMonitor Reg.MON_ARITH_INV_CLUSTERS now.length { s with mon := { s.mon with invClusters := now } }
  match fresh with
  | k :: _ =>
    if isSet s pgMonitor Reg.MON_ARITH_FIRST_VALID then s
    else wr pgMonitor Reg.MON_ARITH_FIRST_VALID 1 (wr pgMonitor Reg.MON_ARITH_FIRST_CLUSTER k s)
  | [] => s

def execMonArithUpdate (s : State) : Host.Outcome State Fault Refusal := whileOn s (monArithUpdate s)

end Sys2Proof.Machine
end

