-- ==== Sys2Proof/Machine/EpilogueCommands.lean ====
section
/-! DEFINITION. The epilogue queue at work: drains and tail operations, releases and completion (Accumulators and
Reduction Order; Spatial Pipelines and Credits). -/

namespace Sys2Proof.Machine

/-! ### The queue (R197, R200, R285) -/

/-- Replaces the epilogue entry of the same issue number. -/
def putEpi (t : Nat) (e : EpiOp) : M Unit :=
  modTile t fun x => { x with epi := x.epi.map fun p => if p.ins.seq = e.ins.seq then e else p }

/-- The entry that runs next: the first that has not read its last row; its set's earlier array operations have
written theirs. -/
def epiNext (t : Nat) : M EpiOp := do
  let x ← gets fun s => getTile s t
  match x.epi.find? fun e => !e.started with
  | none => throw .hold
  | some e =>
    waitFor (e.set == 0 || x.array.all fun o =>
      o.done || o.loadOnly || decide (e.ins.seq ≤ o.ins.seq) || o.accSet + 1 != e.set)
    return e

/-- An entry has read its last row: a release it asked for can take effect, and its results stand. -/
def epiStarted (t : Nat) (e : EpiOp) (stats : List StatAdd) : M Unit := do
  putEpi t { e with started := true, stats := stats }
  modTile t fun x => { x with releases := x.releases.map fun r => if r.1 = e.ins.seq then (r.1, r.2.1, true) else r }

/-- The oldest release whose reader has read its last row takes effect: the set is physically free (R182, R200). -/
def setRelease (t : Nat) (s : State) : State :=
  let x := getTile s t
  match x.releases.find? fun r => r.2.2 with
  | none => s
  | some r =>
    let rest := x.releases.filter fun q => q.1 != r.1
    wrAt (pgTile t) Reg.ACC_SET_RELEASING r.2.1 (natOf (rest.any fun q => q.2.1 == r.2.1))
      (setTile t { x with releases := rest } s)

def execSetRelease (tile : Nat) (s : State) : Host.Outcome State Fault Refusal :=
  whileOn s (if tile < 4352 then setRelease tile s else s)

/-- The statistics add of an operation, where its format word and its micro-batch ask for one (R105, R307). -/
def opStats (t : Nat) (i : Issued) (f : FormatWord) (record scale : Nat) (st : Stats) : List StatAdd :=
  match i.stats with
  | some step => if f.stats then [statAdd (pgTile t) step record (if f.coarseOne then none else some scale) st] else []
  | none => []

/-- An entry of the queue still owes an add to step `t`: one waits to be offered, or will be made (R320). -/
def EpiOp.owesAdd (e : EpiOp) (t : Nat) : Bool :=
  let x : TailDesc := ⟨e.desc⟩
  e.ins.stats == some t && (if e.started then !e.stats.isEmpty
    else if e.tail then x.dstFmt.stats && !(x.is .rowstat || x.is .split3) else (DrainDesc.mk e.desc).fmt.stats)

/-- Sends the records of an operation and gives back the credits it did not need. -/
def sendOutput (t n : Nat) (e : EpiOp) (rs : List (List Byte × Bool)) : M Unit :=
  modify fun s => unreserve t n (e.taken - slotsFor s t n rs.length) (sendRecords t n e.ins.seq (rs.length + 1) rs s)

/-! ### DRAIN (R188 to R201) -/

def execDrain (tile : Nat) (s : State) : Host.Outcome State Fault Refusal := whileOn s (issueKind tile (isOpc O_DRAIN) s)

/-- The rows of the set behind row r: one, or the h and l rows of its pair (R193). -/
def drainRow (e : EpiOp) (r : Nat) : Nat × Nat := if e.paired then (2 * r, 2 * r + 1) else (r, r)

/-- Output vector v, its l member, and its poison (R191, R195). -/
def drainVec (x : Tile) (e : EpiOp) (d : DrainDesc) (v : Nat) : List Nat × List Nat × Bool :=
  let cells := if d.transpose then (List.range d.rows).map fun r => (d.firstRow + r, v)
    else (List.range d.lanes).map fun l => (d.firstRow + v, l)
  (cells.map fun c => accGet x d.set (drainRow e c.1).1 c.2, cells.map fun c => accGet x d.set (drainRow e c.1).2 c.2,
    cells.any fun c => rowPoison x d.set (drainRow e c.1).1 || rowPoison x d.set (drainRow e c.1).2)

/-- Encodes and writes the vectors in order; the first failing write ends them (R194, R195, R201). -/
def drainOuts (t : Nat) (e : EpiOp) (d : DrainDesc) (rnd : Nat → Nat) :
    List Nat → M (List (List Byte × Bool) × Stats)
  | [] => return ([], {})
  | v :: vs => do
    let (hs, ls, p) := drainVec (getTile (← get) t) e d v
    if p then modify (wr (pgTile t) Reg.AS_STATUS_POISON_DRAINED 1)
    let (q, st) := encodeVec d.fmt e.coarse rnd (v * 64) p hs
    let (ql, sl) := if d.pairOut then encodeVec d.fmt e.coarse rnd (v * 64) p ls else (q, {})
    let st := st.add sl
    if d.toChan then do
      let (rs, st') ← drainOuts t e d rnd vs
      return ((recordOf d.fmt q ++ (if d.pairOut then recordOf d.fmt ql else []), p) :: rs, st.add st')
    else do
      let w := opWho t e.ins
      let on ← writeOn w (do
        writeVec w d.fmt (d.dstAt v).1 (d.dstAt v).2 q
        onlyIf d.pairOut (writeVec w d.fmt ((d.dstAt v).1 + fld d.d 0x1C 4) (d.dstAt v).2 ql))
      if on then
        let (rs, st') ← drainOuts t e d rnd vs
        return (rs, st.add st')
      else return ([], st)

/-- A drain reads its rows and writes its vectors. -/
def drainStart (t : Nat) : M Unit := do
  let e ← epiNext t
  waitFor !e.tail
  let d : DrainDesc := ⟨e.desc⟩
  let rnd := draws (← get) 1 (fld d.d 0x38 2) e.ins.sample e.ins.pass
  let (rs, st) ← drainOuts t e d rnd (List.range d.vectors)
  if d.toChan then sendOutput t (fld d.d 8 1) e rs
  epiStarted t e (opStats t e.ins d.fmt (fld d.d 0x30 8) (fld d.d 0x20 8) st)

def execDrainStart (tile : Nat) (s : State) : Host.Outcome State Fault Refusal :=
  whileOn s (if tile < 4352 then tileWork tile (drainStart tile) s else s)

/-- The statistics adds that the front entry of the queue has still to offer. -/
def epiAdds (t : Nat) (tail : Bool) (s : State) : List StatAdd :=
  match (getTile s t).epi with
  | [] => []
  | e :: _ => if e.started && e.tail == tail then e.stats else []

def dropEpiAdd (t : Nat) (s : State) : State :=
  let x := getTile s t
  match x.epi with
  | [] => s
  | e :: rest => setTile t { x with epi := { e with stats := e.stats.drop 1 } :: rest } s

/-- The front entry of the queue completes once its adds are offered, and its writes, messages and adds accepted; with the
code of the failing access that was issued first (R201, R226, R308, R930, R936). -/
def epiComplete (t : Nat) (tail : Bool) (cycles : Nat) : M Unit := do
  let s ← get
  match (getTile s t).epi with
  | [] => throw .hold
  | e :: rest =>
    waitFor (e.started && e.tail == tail && e.stats.isEmpty)
    waitFor !(s.chanq.any fun m => m.tile == t && (match m.body with | .data _ _ _ _ op => op == e.ins.seq | _ => false))
    let c ← codeOf (acknowledged (opWho t e.ins))
    modTile t fun x => { x with epi := rest }
    modify fun s => forgetArrived (opWho t e.ins) (completeIns t e.ins c cycles s)

/-- Offers the adds of the front entry, then completes it. -/
def epiEnd (t : Nat) (tail : Bool) (cycles : Nat) (s : State) : State :=
  match (getTile s t).epi with
  | [] => s
  | e :: _ => tileWork t (epiComplete t tail cycles) (offerLeft (opWho t e.ins) (epiAdds t tail) (dropEpiAdd t) 1 s)

def execDrainComplete (tile cycles : Nat) (s : State) : Host.Outcome State Fault Refusal :=
  whileOn s (if tile < 4352 then epiEnd tile false cycles s else s)
def execTailComplete (tile cycles : Nat) (s : State) : Host.Outcome State Fault Refusal :=
  whileOn s (if tile < 4352 then epiEnd tile true cycles s else s)

/-! ### TAIL (R270 to R287) -/

/-- Consumes the records that a channel source still needs, as far as they have come; a locked peer ends them with its
code (R255, R261). -/
def consumeAll (t n h : Nat) (w : Who) : Nat → List (List Byte × Bool) → M (List (List Byte × Bool) × Nat)
  | 0, got => return (got, 0)
  | k + 1, got => do
    match ← catchCode (takeRecord w h t n) with
    | .error c => return (got, c)
    | .ok none => return (got, 0)
    | .ok (some r) => consumeAll t n h w k (got ++ [r])

/-- Runs a tail operation whose source stands ready. The vectors before a failing read are written ahead of it, so it
counts as issued after their writes (R936; log 78). -/
def tailRun (t : Nat) (e : EpiOp) (x : TailDesc) : M Unit := do
  let w := opWho t e.ins
  let rnd := draws (← get) 2 x.tag e.ins.sample e.ins.pass
  let record := fld x.d 0x70 8
  let scale := fld x.d 0x60 8
  if x.update then
    let (st, rc, on) ← runUpdate t e x rnd
    onlyIf (on && rc != 0) (noted w (failWith rc))
    epiStarted t e (opStats t e.ins x.dstFmt record scale st)
  else
    let (outs, rc) ← tailOuts t e x
    let (rs, st, on) ← writeOuts t e x rnd outs 0
    onlyIf (on && rc != 0) (noted w (failWith rc))
    if x.dstCh then sendOutput t (fld x.d 0x50 1) e rs
    let stats := if x.is .rowstat || x.is .split3 then [] else opStats t e.ins x.dstFmt record scale st
    epiStarted t e stats

/-- A tail operation of a kind works: it takes what its channel has, and once its source is whole it runs. -/
def tailStart (t : Nat) (k : TailKind) : M Unit := do
  let e ← epiNext t
  let x : TailDesc := ⟨e.desc⟩
  waitFor (e.tail && x.is k)
  if x.src = 2 ∧ e.ins.code = 0 ∧ e.buf.length < x.vectors then
    let (got, c) ← consumeAll t (fld x.d 8 1) e.ins.slot (opWho t e.ins) (x.vectors - e.buf.length) []
    waitFor (!got.isEmpty || c != 0)
    putEpi t { e with buf := e.buf ++ got, ins := { e.ins with code := c } }
  let e ← epiNext t
  if x.src = 2 ∧ e.ins.code = 0 ∧ e.buf.length < x.vectors then return ()
  else tailRun t e x

/-- A TAIL head whose descriptor names the operation. -/
def isTail (t : Nat) (k : TailKind) (h : Head) : M Bool := do
  if h.opc != O_TAIL then return false
  let code ← if beyondWell h.a0 192 then pure none else do
    match ← catchCode (readDesc t h h.a0 4) with
    | .error _ => pure none
    | .ok d => pure (TailKind.ofCode (bitsOf (leNat d) 0 5))
  return code == some k || (code == none && k == .biasAct)

/-- Issues a TAIL of a kind, or runs one that has been issued. -/
def tailCommand (t : Nat) (issue : Bool) (k : TailKind) (s : State) : State :=
  if 4352 ≤ t then s
  else if issue then issueKind t (isTail t k) s
  else tileWork t (tailStart t k) s

def execTailBiasAct (tile : Nat) (issue : Bool) (s : State) : Host.Outcome State Fault Refusal :=
  whileOn s (tailCommand tile issue .biasAct s)
def execTailAddAct (tile : Nat) (issue : Bool) (s : State) : Host.Outcome State Fault Refusal :=
  whileOn s (tailCommand tile issue .addAct s)
def execTailMul (tile : Nat) (issue : Bool) (s : State) : Host.Outcome State Fault Refusal :=
  whileOn s (tailCommand tile issue .mul s)
def execTailNorm (tile : Nat) (issue : Bool) (s : State) : Host.Outcome State Fault Refusal :=
  whileOn s (tailCommand tile issue .norm s)
def execTailRowstat (tile : Nat) (issue : Bool) (s : State) : Host.Outcome State Fault Refusal :=
  whileOn s (tailCommand tile issue .rowstat s)
def execTailNormApply (tile : Nat) (issue : Bool) (s : State) : Host.Outcome State Fault Refusal :=
  whileOn s (tailCommand tile issue .normApply s)
def execTailConvert (tile : Nat) (issue : Bool) (s : State) : Host.Outcome State Fault Refusal :=
  whileOn s (tailCommand tile issue .convert s)
def execTailSplit3 (tile : Nat) (issue : Bool) (s : State) : Host.Outcome State Fault Refusal :=
  whileOn s (tailCommand tile issue .split3 s)
def execTailPool (tile : Nat) (issue : Bool) (s : State) : Host.Outcome State Fault Refusal :=
  whileOn s (tailCommand tile issue .pool s)
def execTailSgd (tile : Nat) (issue : Bool) (s : State) : Host.Outcome State Fault Refusal :=
  whileOn s (tailCommand tile issue .sgd s)
def execTailAdamw (tile : Nat) (issue : Bool) (s : State) : Host.Outcome State Fault Refusal :=
  whileOn s (tailCommand tile issue .adamw s)

/-! ### Roll-up (R510) -/

/-- The counter of a cluster follows its tiles, and that of the module the clusters. -/
def tailRollup (k : Nat) (s : State) : State :=
  let top := 2 ^ 64 - 1
  let s := if k < 256 then
      wr (pgCluster k) Reg.CL_TAIL_NONFINITE
        (min top ((List.range 17).foldl (fun n i => n + rd s (pgTile (k * 17 + i)) Reg.TAIL_NONFINITE) 0)) s
    else s
  wr pgMonitor Reg.MON_TAIL_NONFINITE
    (min top ((List.range 256).foldl (fun n i => n + rd s (pgCluster i) Reg.CL_TAIL_NONFINITE) 0)) s

def execTailNonfiniteRollup (cluster : Nat) (s : State) : Host.Outcome State Fault Refusal :=
  whileOn s (tailRollup cluster s)

end Sys2Proof.Machine
end

