-- ==== Sys2Proof/Machine/ListCommands.lean ====
section
/-! DEFINITION. The copy queue, and the instructions that the scheduler carries out itself (Spatial Pipelines and
Credits). -/

namespace Sys2Proof.Machine

/-! ### SEND and RECV (R228, R229) -/

/-- The front of the copy queue. -/
def copyFront (t : Nat) (send : Bool) : M (CopyOp × List CopyOp) := do
  match (← gets fun s => getTile s t).copy with
  | [] => throw .hold
  | c :: rest =>
    waitFor ((c.ins.opc == O_SEND) == send)
    return (c, rest)

/-- Stores the front of the copy queue; a failure ends its copying. -/
def putCopy (t : Nat) (c : CopyOp) (rest : List CopyOp) (code : Nat) : M Unit :=
  modTile t fun x => { x with copy := { c with left := if code = 0 then c.left else 0 } :: rest }

/-- The records of a slot's worth of bytes at a well offset, with their poison (R254). -/
def readSlotRecords (t : Nat) (c : CopyOp) (n : Chan) : M (List (List Byte × Bool)) := do
  let d ← winRead (opWho t c.ins) c.ins.slot (wellBase t + c.at_) n.slotBytes
  return (piecesOfList n.recBytes (n.recs + 1) d).map fun r => (r.map Prod.fst, r.any Prod.snd)

/-- Sends the slots of a SEND in order; a failing read ends it (R228, R256). -/
def sendAll (t : Nat) : Nat → CopyOp → M (CopyOp × Nat)
  | 0, c => return (c, 0)
  | k + 1, c => do
    let n ← gets fun s => getChan s t c.chan
    match ← catchCode (readSlotRecords t c n) with
    | .error e => return (c, e)
    | .ok rs =>
      modify (sendSlot t c.chan c.ins.seq rs.length (rs.map Prod.snd) (rs.map Prod.fst).flatten)
      sendAll t k { c with at_ := c.at_ + n.slotBytes, left := c.left - 1 }

def sendRun (t : Nat) : M Unit := do
  let (c, rest) ← copyFront t true
  waitFor (decide (0 < c.left))
  let (c, e) ← sendAll t c.left c
  onlyIf (e != 0) (noted (opWho t c.ins) (failWith e))
  modify (unreserve t c.chan c.left)
  putCopy t c rest e
  modify (forgetArrived (opWho t c.ins))

/-- Copies the records that have come to the well, freeing each slot with its last record (R229, R255, R261). -/
def recvSome (t : Nat) (copied : Bool) : Nat → CopyOp → M (CopyOp × Nat × Bool)
  | 0, c => return (c, 0, copied)
  | k + 1, c => do
    if c.left = 0 then return (c, 0, copied)
    let last ← gets fun s => match (getChan s t c.chan).filled with
      | [] => false
      | r :: _ => r.used + 1 == r.count
    let w := opWho t c.ins
    match ← catchCode (takeRecord w c.ins.slot t c.chan) with
    | .error e => return (c, e, copied)
    | .ok none => return (c, 0, copied)
    | .ok (some (bs, p)) =>
      let e ← codeOf (busWrite w (wellBase t + c.at_) (marked p bs))
      if e ≠ 0 then return (c, e, true)
      else recvSome t true k { c with at_ := c.at_ + bs.length, left := if last then c.left - 1 else c.left }

def recvRun (t : Nat) : M Unit := do
  let (c, rest) ← copyFront t false
  waitFor (decide (0 < c.left))
  let (c, e, copied) ← recvSome t false (64 * 256) c
  waitFor (copied || e != 0)
  onlyIf (e != 0) (noted (opWho t c.ins) (failWith e))
  putCopy t c rest e

def execSend (tile : Nat) (issue : Bool) (s : State) : Host.Outcome State Fault Refusal :=
  whileOn s (if 4352 ≤ tile then s else if issue then issueKind tile (isOpc O_SEND) s
    else tileWork tile (sendRun tile) s)
def execRecv (tile : Nat) (issue : Bool) (s : State) : Host.Outcome State Fault Refusal :=
  whileOn s (if 4352 ≤ tile then s else if issue then issueKind tile (isOpc O_RECV) s
    else tileWork tile (recvRun tile) s)

/-- The front of the copy queue completes: every message accepted, or the last slot copied and freed (R226). -/
def copyComplete (t : Nat) (send : Bool) (cycles : Nat) : M Unit := do
  let (c, rest) ← copyFront t send
  waitFor (c.left == 0)
  let s ← get
  waitFor !(s.chanq.any fun m => m.tile == t && (match m.body with | .data _ _ _ _ op => op == c.ins.seq | _ => false))
  let wc ← codeOf (acknowledged (opWho t c.ins))
  modTile t fun x => { x with copy := rest }
  modify (completeIns t c.ins wc cycles)

def execSendComplete (tile cycles : Nat) (s : State) : Host.Outcome State Fault Refusal :=
  whileOn s (if tile < 4352 then tileWork tile (copyComplete tile true cycles) s else s)
def execRecvComplete (tile cycles : Nat) (s : State) : Host.Outcome State Fault Refusal :=
  whileOn s (if tile < 4352 then tileWork tile (copyComplete tile false cycles) s else s)

/-! ### PUMP, WAIT, SIGNAL, SEG, FILL_ON, FILL_OFF, STEP_END and the fill ring -/

def execPump (tile : Nat) (s : State) : Host.Outcome State Fault Refusal := whileOn s (issueKind tile (isOpc O_PUMP) s)
def execWaitCmd (tile : Nat) (s : State) : Host.Outcome State Fault Refusal := whileOn s (issueKind tile (isOpc O_WAIT) s)

/-- A WAIT at the head re-reads its word (R235). -/
def waitPoll (t : Nat) (s : State) : State := issueKind t (isOpc O_WAIT) s

def execWaitPoll (tile : Nat) (s : State) : Host.Outcome State Fault Refusal := whileOn s (waitPoll tile s)
def execSignal (tile : Nat) (s : State) : Host.Outcome State Fault Refusal := whileOn s (issueKind tile (isOpc O_SIGNAL) s)
def execSeg (tile : Nat) (s : State) : Host.Outcome State Fault Refusal := whileOn s (issueKind tile (isOpc O_SEG) s)
def execFillOn (tile : Nat) (s : State) : Host.Outcome State Fault Refusal := whileOn s (issueKind tile (isOpc O_FILL_ON) s)
def execFillOff (tile : Nat) (s : State) : Host.Outcome State Fault Refusal :=
  whileOn s (issueKind tile (isOpc O_FILL_OFF) s)
def execStepEnd (tile : Nat) (s : State) : Host.Outcome State Fault Refusal :=
  whileOn s (issueKind tile (isOpc O_STEP_END) s)
def execFillRingIssue (tile : Nat) (s : State) : Host.Outcome State Fault Refusal := whileOn s (fillRingIssue tile s)

/-- Whether the add of a SIGNAL has been acknowledged, and its code. -/
def signalAcked (t : Nat) (i : Issued) (s : State) : Option Nat :=
  match runM (codeOf (acknowledged (opWho t i))) s with
  | (.ok c, _) => some c
  | _ => none

/-- The first SIGNAL whose add has been acknowledged completes (R226). -/
def signalAck (t cycles : Nat) (s : State) : State :=
  match (getTile s t).live.find? fun i => i.opc == O_SIGNAL && (signalAcked t i s).isSome with
  | none => s
  | some i =>
    let (_, s') := runM (codeOf (acknowledged (opWho t i))) s
    completeIns t i ((signalAcked t i s).getD 0) cycles s'

def execSignalAck (tile cycles : Nat) (s : State) : Host.Outcome State Fault Refusal :=
  whileOn s (if tile < 4352 then signalAck tile cycles s else s)

end Sys2Proof.Machine
end

