-- ==== Sys2Proof/Machine/GenCommands.lean ====
section
/-! DEFINITION. Binding micro-batches, opening steps and pending slots (Weight Generations and Step Commit). -/

namespace Sys2Proof.Machine

/-! ### Bindings (R295 to R300) -/

/-- `GEN_HOLD` counts the bound micro-batches by slot. -/
def showHolds (s : State) : State :=
  (List.range 3).foldl (fun s k =>
    wrAt pgGeneration Reg.GEN_HOLD k (s.gen.binds.filter fun e => e.2.gen % 3 == k).length s) s

/-- The entry retires once `DONE` reaches `NEED`: its hold is released and every copy shows it unbound (R300). -/
def retire (mb : Nat) (s : State) : State :=
  if rdAt s pgGeneration Reg.MB_ENTRY_BOUND mb = 1 ∧
      rdAt s pgGeneration Reg.MB_ENTRY_NEED mb ≤ rdAt s pgGeneration Reg.MB_ENTRY_DONE mb then
    let s := { s with gen := { s.gen with
      binds := s.gen.binds.filter fun e => e.1 != mb, copies := s.gen.copies.filter fun e => e.1 % 256 != mb } }
    let s := wrAt pgGeneration Reg.MB_ENTRY_BOUND mb 0 (wrAt pgGeneration Reg.MB_ENTRY_DONE mb 0 s)
    showHolds s
  else s

/-- No step is open (R297). -/
def noStepOpen (s : State) : Bool :=
  !isSet s pgGeneration Reg.GEN_CTRL_ENABLE || !stepOpen s (rd s pgGeneration Reg.GEN_STEP)

/-- A write of `MB_BIND` (R296, R297, R499). -/
def mbBind (mb mode need : Nat) (s : State) : State :=
  if !writable s pgGeneration then s
  else
    let mb := mb % 256
    let need := need % 256
    let mode1 := mode % 2 = 1
    if mb = 0xFF ∨ rdAt s pgGeneration Reg.MB_ENTRY_BOUND mb = 1 ∨ need = 0 ∨ (¬ mode1 ∧ noStepOpen s) then
      logErr pgGeneration 0x0152 0 s
    else
      let step := rd s pgGeneration Reg.GEN_STEP
      let g := if mode1 then committed s
        else match s.gen.opened.find? fun o => o.step == step with
          | some o => o.gen
          | none => committed s
      let b : Bind := { seq := s.gen.nextSeq, gen := g, step := if mode1 then none else some step
                        sample := rdAt s pgMonitor Reg.RNG_SAMPLE mb }
      let s := { s with gen := { s.gen with nextSeq := s.gen.nextSeq + 1, binds := insertKey s.gen.binds mb b } }
      let s := wrAt pgGeneration Reg.MB_ENTRY_NEED mb need (wrAt pgGeneration Reg.MB_ENTRY_BOUND mb 1 s)
      retire mb (showHolds (wrAt pgGeneration Reg.MB_ENTRY_SLOT mb (g % 3) s))

def execMbBind (mb mode need : Nat) (s : State) : Host.Outcome State Fault Refusal := whileOn s (mbBind mb mode need s)

/-- The page belongs to a unit that holds binding copies: a tile, an attention pipeline or a handpump (R299). -/
def holdsCopies (page : Nat) : Bool := typeOf page == 0x01 || typeOf page == 0x03 || typeOf page == 0x05

/-- The generation unit writes a binding into the copy of a unit that is not locked (R299). -/
def bindingCopy (page mb : Nat) (s : State) : State :=
  match s.gen.binds.find? fun e => e.1 == mb with
  | some (_, b) =>
    if holdsCopies page ∧ lockState s page = 0 then
      { s with gen := { s.gen with copies := put 0 s.gen.copies (page * 256 + mb) b.seq } }
    else s
  | none => s

def execBindingCopy (page mb : Nat) (s : State) : Host.Outcome State Fault Refusal := whileOn s (bindingCopy page mb s)

/-! ### Steps (R311 to R313) -/

def phase (s : State) : Nat := rd s pgGeneration Reg.GEN_STATUS_PHASE
def setPhase (v : Nat) (s : State) : State := wr pgGeneration Reg.GEN_STATUS_PHASE v s

/-- Opens the next step with read generation G. -/
def openStep (s : State) : State :=
  let step := (rd s pgGeneration Reg.GEN_STEP + 1) % 2 ^ 32
  wr pgGeneration Reg.GEN_STEP step
    { s with gen := { s.gen with opened := s.gen.opened ++ [⟨step, committed s⟩] } }

/-- What the generation unit holds of the steps it has opened goes with `ENABLE` (log 38). -/
def clearSteps (s : State) : State :=
  let s := { s with gen := { s.gen with
    opened := [], copied := false, listed := [], vetoes := [], took := [], evaluated := false, vetoSent := false
    readySent := false, readyRanks := [], decision := none, told := false, aborting := none, history := [], cut := [] } }
  let s := { s with mon := { s.mon with loss := [], pendingLoss := none } }
  wr pgGeneration Reg.GEN_STATUS_STALL_FOURTH 0 (wr pgGeneration Reg.GEN_STATUS_IN_DOUBT 0 (setPhase 0 s))

/-- A write of `GEN_CTRL.ENABLE`: 0 to 1 opens step `GEN_STEP` + 1; a write that changes nothing does nothing (R311,
R929). -/
def genEnable (on : Bool) (s : State) : State :=
  if !writable s pgGeneration ∨ isSet s pgGeneration Reg.GEN_CTRL_ENABLE = on then s
  else
    let s := wr pgGeneration Reg.GEN_CTRL_ENABLE (natOf on) (clearSteps s)
    if on then
      openStep (wr pgGeneration Reg.GEN_STATUS_COORD (natOf (rd s pgGeneration Reg.GEN_GROUP_RANK == 0)) s)
    else wr pgGeneration Reg.GEN_STATUS_COORD 0 s

/-- The next step opens: the previous one is resolved, or its pending slot is open under `AHEAD` (R312). -/
def stepOpenNext (s : State) : State :=
  if !isSet s pgGeneration Reg.GEN_CTRL_ENABLE ∨ lockState s pgGeneration ≠ 0 then s
  else match s.gen.opened with
  | [] => openStep s
  | [_] => if isSet s pgGeneration Reg.GEN_CTRL_AHEAD ∧ 2 ≤ phase s then openStep s else s
  | _ => s

/-! ### Pending slots (R314 to R317) -/

/-- A bound micro-batch holds generation G - 2 (R314). -/
def heldBack (s : State) : Bool := s.gen.binds.any fun e => e.2.gen + 2 == committed s

/-- The generation unit's requests. -/
def genWho : Who := ⟨pgGeneration, 0⟩

/-- Logs the code of a failed access and vetoes the step (R317). -/
def refuseEntry (step code : Nat) : M Unit :=
  modify fun s => vetoStep step 0x0153 (if code = 0 then s else logErr pgGeneration code 0 s)

/-- Reads entry `i` of the open list; none where it is refused. -/
def readOpenEntry (step i : Nat) : M (Option OpenEntry) := do
  let base ← gets fun s => rd s pgGeneration Reg.GEN_OPEN_LIST
  match ← catchCode (busRead genWho (base + 32 * i) 32) with
  | .error c => do refuseEntry step c; return none
  | .ok d =>
    let b := d.map Prod.fst
    let e : OpenEntry := ⟨fld b 0x18 1, fld b 0 8, fld b 8 4, fld b 0xC 4, fld b 0x10 8⟩
    if d.any Prod.snd || decide (2 < e.kind) || e.addr % 64 != 0 || decide (e.stride < e.len) then do
      refuseEntry step 0
      return none
    else return some e

/-- A statistics record as a new pending slot takes it: `STEP_CRUSHED` and `STEP_AMAX` zero (R104). -/
def freshRecord (d : List PByte) : List PByte :=
  d.zipIdx.map fun e =>
    if (0x08 ≤ e.2 ∧ e.2 < 0x0C) ∨ (0x24 ≤ e.2 ∧ e.2 < 0x28) then ((0 : Byte), e.1.2) else e.1

/-- Copies the committed slot of an entry into the pending slot (R316). -/
def copyEntry (step : Nat) (e : OpenEntry) : M Unit := do
  let s ← get
  let c ← codeOf (do
    let d ← busRead genWho (e.addr + committed s % 3 * e.stride) e.len
    busWrite genWho (e.addr + pendingSlot s * e.stride) (if e.kind = 1 then freshRecord d else d))
  if c ≠ 0 then refuseEntry step c

/-- Walks the open list in entry order. -/
def walkOpenList (step : Nat) : List Nat → M (List OpenEntry)
  | [] => return []
  | i :: is => do
    match ← readOpenEntry step i with
    | none => walkOpenList step is
    | some e => do
      copyEntry step e
      let es ← walkOpenList step is
      return e :: es

/-- The opening waits on a hold of G - 2 (R315; log 28 for the cycles). -/
def stallOpening (s : State) : State :=
  let s := bump pgGeneration Reg.GEN_STALL_CYCLES 1 (setPhase 1 s)
  if isSet s pgGeneration Reg.GEN_STATUS_STALL_FOURTH then s
  else raiseBit pgGeneration 6
    (bump pgGeneration Reg.GEN_STALLS 1 (wr pgGeneration Reg.GEN_STATUS_STALL_FOURTH 1 s))

/-- The copies of the open list are made. -/
def openingCopies (step : Nat) : M Unit := do
  let n ← gets fun s => rd s pgGeneration Reg.GEN_OPEN_COUNT
  let es ← walkOpenList step (List.range n)
  modify fun s => setPhase 1 { s with gen := { s.gen with copied := true, listed := es } }

/-- Every copy is acknowledged: the pending slot is open. -/
def openingDone (step : Nat) : M Unit := do
  let c ← codeOf (acknowledged genWho)
  if c ≠ 0 then refuseEntry step c
  modify (setPhase 2)

/-- The pending slot of the oldest open step opens; also one of a step that aborts, whose updates and adds wait for it
before their units can finish their pass (R333). -/
def pendingSlotOpen (s : State) : State :=
  match s.gen.opened with
  | [] => s
  | o :: _ =>
    if 2 ≤ phase s ∨ lockState s pgGeneration ≠ 0 then s
    else if heldBack s then stallOpening s
    else
      let s := wr pgGeneration Reg.GEN_STATUS_STALL_FOURTH 0 s
      let s := if s.gen.copied then s else attempt genWho (openingCopies o.step) s
      if s.gen.copied then attempt genWho (openingDone o.step) s else s

def execPendingSlotOpen (s : State) : Host.Outcome State Fault Refusal := whileOn s (pendingSlotOpen s)

end Sys2Proof.Machine
end

