-- ==== Sys2Proof/Machine/Pumps.lean ====
section
/-! DEFINITION. Pumps: submissions, COPY, CONVERT, STREAM and their completion (Pumps, GDDR7 and Well Memory). -/

namespace Sys2Proof.Machine

/-- The requests of slot `k` of a pump, and those of its signal add. -/
def slotWho (p k : Nat) : Who := ⟨pgPump p, k + 1⟩
def signalWho (p k : Nat) : Who := ⟨pgPump p, 0x1000 + k⟩

def slotOf (s : State) (p k : Nat) : Option Xfer := ((getPump s p).slots.find? fun e => e.1 == k).map Prod.snd

/-- Replaces the descriptor in a slot. -/
def putSlot (p k : Nat) (y : Xfer) (s : State) : State :=
  let x := getPump s p
  showPump p (setPump p { x with slots := insertKey x.slots k y } s)

def Xfer.kind (y : Xfer) : Nat := fld y.desc 0 1
/-- Row `r` of rows that lie a signed stride apart (R606). -/
def strided (a : Nat) (d : Int) (r : Nat) : Nat := (((a : Int) + r * d) % 2 ^ 64).toNat
def Xfer.rows (y : Xfer) : Nat := fld y.desc 4 4
def Xfer.size (y : Xfer) : Nat := fld y.desc 8 4
def Xfer.srcFmt (y : Xfer) : FormatWord := FormatWord.ofNat (fld y.desc 0x28 4)
def Xfer.dstFmt (y : Xfer) : FormatWord := FormatWord.ofNat (fld y.desc 0x2C 4)
def Xfer.srcRow (y : Xfer) (r : Nat) : Nat := strided (fld y.desc 0x10 8) (sfld y.desc 0x20) r
def Xfer.dstRow (y : Xfer) (r : Nat) : Nat := strided (fld y.desc 0x18 8) (sfld y.desc 0x24) r
def Xfer.srcScales (y : Xfer) (r : Nat) : Nat := fld y.desc 0x40 8 + r * fld y.desc 0x58 4
def Xfer.dstScales (y : Xfer) (r : Nat) : Nat := fld y.desc 0x48 8 + r * fld y.desc 0x5C 4
/-- Bytes of a row at its source and at its destination. -/
def Xfer.srcBytes (y : Xfer) : Nat := if y.kind = 2 then y.srcFmt.format.bytesFor y.size else y.size
def Xfer.dstBytes (y : Xfer) : Nat := if y.kind = 2 then y.dstFmt.format.bytesFor y.size else y.size

/-! ### Submission (R601) -/

/-- The pump, and the packer of its cluster, show what their slots hold. -/
def showSlots (p : Nat) (s : State) : State := if p < 256 then showPacker p (showPump p s) else showPump p s

/-- A write to `PM_SUBMIT` of hub pump `n` at byte `off` of the port. -/
def pmSubmit (n off : Nat) (data : List Byte) (s : State) : State :=
  let p := 256 + n
  let page := pgPump p
  if !writable s page ∨ lockState s page ≠ 0 ∨ 32 ≤ n then s
  else if off ≠ 0 ∨ data.length ≠ 16 then logErr page 0x01A5 0 (bump page Reg.PM_REFUSED 1 s)
  else
    let x := getPump s p
    if 16 ≤ x.queue.length then s
    else showPump p (setPump p { x with queue := x.queue ++ [(fld data 0 8, fld data 8 8)] } s)

def execPmSubmit (pump off : Nat) (data : List Byte) (s : State) : Host.Outcome State Fault Refusal :=
  whileOn s (pmSubmit pump off data s)

/-- A hub pump takes its oldest submission into slot `k`, when the descriptor is one that command kind `kind` takes:
1 takes every descriptor that is no CONVERT or STREAM. -/
def takeSubmission (p k kind : Nat) : M Unit := do
  let s ← get
  let x := getPump s p
  match x.queue with
  | [] => waitFor false
  | (a, record) :: rest =>
    waitFor (decide (k < 8) && (slotOf s p k).isNone && decide (lockState s (pgPump p) = 0))
    let (d, c) ← if a % 128 ≠ 0 then pure ([], 0) else do
      match ← catchCode (busRead (slotWho p k) a 128) with
      | .ok d => pure (d.map Prod.fst, 0)
      | .error c => pure ([], c)
    let q := fld d 0 1
    waitFor (if q = 2 ∨ q = 3 then q == kind else kind == 1)
    let s ← get
    let y : Xfer := {
      desc := d, addr := a, record := record, slot := committed s % 3, pass := rd s pgGeneration Reg.GEN_STEP
      finished := c != 0, code := c }
    set (putSlot p k y (setPump p { getPump s p with queue := rest } s))

/-! ### Checks (R605) -/

/-- The bytes of a descriptor in `[lo, hi)` are all zero. -/
def zeroFrom (d : List Byte) (lo hi : Nat) : Bool := ((d.drop lo).take (hi - lo)).all fun b => b == 0

/-- Every reserved flag bit and field of a descriptor of kinds 1 to 3 is zero. -/
def Xfer.clean (y : Xfer) : Bool :=
  let d := y.desc
  zeroFrom d 0x6C 0x80 && zeroFrom d 0x0C 0x10 && match y.kind with
    | 1 => zeroFrom d 1 4 && zeroFrom d 0x28 0x60
    | 2 => zeroFrom d 1 2
    | 3 => decide (fld d 1 1 < 2) && zeroFrom d 2 4 && zeroFrom d 0x58 0x60
    | _ => false

/-- A power of two from 2 to 2^24. -/
def ringLength (n : Nat) : Bool := decide (2 ≤ n) && decide (n ≤ 2 ^ 24) && n == 2 ^ Nat.log2 n

/-- Counts, sizes and ring lengths are in range, and the words of a STREAM aligned. -/
def Xfer.shapeOk (y : Xfer) : Bool :=
  let d := y.desc
  match y.kind with
  | 3 => decide (64 ≤ y.size) && decide (y.size ≤ 65536) && y.size % 64 == 0
      && ringLength (fld d 0x20 4) && ringLength (fld d 0x24 4)
      && [0x28, 0x30, 0x38, 0x48, 0x50].all fun o => fld d o 8 % 4 == 0
  | k => decide (1 ≤ y.rows) && decide (y.rows ≤ 16777216) && decide (1 ≤ y.size)
      && decide (y.size ≤ if k = 2 then 65536 else 16777216)

/-- Lowest byte and the byte past the highest of rows `n` bytes long. -/
def spanOf (first last n : Nat) : Nat × Nat := (min first last, max first last + n)

/-- Two spans of global addresses meet on one module. -/
def spansMeet (s : State) (a b : Nat × Nat) : Bool :=
  let m := fun x => if isLocal s x then 0 else moduleOf x
  m a.1 == m b.1 && decide (localOf a.1 < localOf b.1 + (b.2 - b.1)) && decide (localOf b.1 < localOf a.1 + (a.2 - a.1))

def Xfer.overlaps (s : State) (y : Xfer) : Bool :=
  spansMeet s (spanOf (y.srcRow 0) (y.srcRow (y.rows - 1)) y.srcBytes) (spanOf (y.dstRow 0) (y.dstRow (y.rows - 1)) y.dstBytes)

/-- The first failing check before any read. A descriptor that makes no statistics adds uses no record of them (R101,
R607). -/
def Xfer.check (s : State) (y : Xfer) : Option Nat :=
  if y.addr % 128 ≠ 0 then some 0x01A0
  else if !y.clean then some 0x01A1
  else
    let f := if y.kind = 2 then
        (formatCheck y.srcFmt (some (fld y.desc 0x30 8)) none).or
          (formatCheck y.dstFmt (some (fld y.desc 0x38 8)) (if y.stats.isSome then some (fld y.desc 0x50 8) else none))
      else none
    f.or (if !y.shapeOk then some 0x01A2
      else if y.kind = 3 ∧ fld y.desc 0x40 4 = 0 then some 0x01A3
      else if y.kind ≠ 3 ∧ y.overlaps s then some 0x01A4 else none)

/-- Byte ranges that a descriptor reads and writes (R304). -/
def Xfer.reads (y : Xfer) : List (Nat × Nat) :=
  let d := y.desc
  match y.kind with
  | 3 => (fld d 0x10 8, y.size * fld d 0x20 4) :: [0x28, 0x30, 0x38, 0x48].map (fun o => (fld d o 8, 4))
      ++ (if fld d 0x50 8 = 0 then [] else [(fld d 0x50 8, 4)])
  | 2 => vecRanges y.srcFmt y.size (fun r => (y.srcRow r, y.srcScales r)) y.rows
      ++ scaleRange y.srcFmt (fld d 0x30 8) ++ scaleRange y.dstFmt (fld d 0x38 8)
  | _ => (List.range y.rows).map fun r => (y.srcRow r, y.size)

def Xfer.writes (y : Xfer) : List (Nat × Nat) :=
  let d := y.desc
  (match y.kind with
  | 3 => [(fld d 0x18 8, y.size * fld d 0x24 4), (fld d 0x38 8, 4), (fld d 0x48 8, 4)]
  | 2 => vecRanges y.dstFmt y.size (fun r => (y.dstRow r, y.dstScales r)) y.rows
    ++ (if y.stats.isSome then statsRange y.dstFmt (fld d 0x50 8) else [])
  | _ => (List.range y.rows).map fun r => (y.dstRow r, y.size))
    ++ (if fld d 0x60 8 = 0 then [] else [(fld d 0x60 8, 4)])

/-- The window checks of a descriptor that a tile issued (R304). -/
def Xfer.windowCode (s : State) (y : Xfer) (reads writes : List (Nat × Nat)) : Option Nat :=
  match y.tile with
  | none => none
  | some (t, _) => windowCheck s (pgTile t) y.mb ((y.addr + wellBase t, 128) :: reads) writes

/-! ### Reads and writes of a transfer -/

/-- A read of a descriptor: through the issuing tile's windows, or plainly (R303). -/
def xferRead (w : Who) (y : Xfer) (a n : Nat) : M (List PByte) :=
  match y.tile with
  | some (t, _) => winReadFor (pgTile t) w y.slot a n
  | none => busRead w a n

/-- How many 64-byte units a write poisons (R619). -/
def poisonedUnits (a : Nat) (d : List PByte) : Nat :=
  ((piecesOf a d.length).filter fun u => (((d.drop (u.1 - a)).take u.2).any Prod.snd)).length

/-- A write of a descriptor, with the counts it keeps; it answers how many bytes. -/
def xferWrite (p : Nat) (w : Who) (a : Nat) (d : List PByte) : M Nat := do
  busWrite w a d
  modify fun s => bump (pgPump p) Reg.PM_BYTES d.length (bump (pgPump p) Reg.PM_POISON_UNITS (poisonedUnits a d) s)
  return d.length

/-- Copies rows until one fails: bytes written, and the failing code, 0 for none. -/
def copyRows (p k : Nat) (y : Xfer) : List Nat → M (Nat × Nat)
  | [] => return (0, 0)
  | r :: rs => do
    match ← catchCode (do
        let d ← xferRead (slotWho p k) y (y.srcRow r) y.size
        xferWrite p (slotWho p k) (y.dstRow r) d) with
    | .error c => return (0, c)
    | .ok n => do
      let (m, c) ← copyRows p k y rs
      return (n + m, c)

/-- Poison of each of `n` packed elements: of any byte that holds a bit of it. -/
def elementPoison (bits n : Nat) (ps : List Bool) : List Bool :=
  (List.range n).map fun i => ((ps.drop (i * bits / 8)).take ((i * bits + bits - 1) / 8 + 1 - i * bits / 8)).any fun b => b

/-- Poison of each byte of packed elements. -/
def bytePoison (bits bytes : Nat) (ps : List Bool) : List Bool :=
  (List.range bytes).map fun b => ((ps.drop (8 * b / bits)).take ((8 * b + 7) / bits + 1 - 8 * b / bits)).any fun b => b

/-- Spreads the poison of blocks over their elements. -/
def spreadBlocks (size n : Nat) (bs : List Bool) : List Bool := (List.range n).map fun i => bs.getD (i / size) false

/-- The blocks of a row that hold a poisoned element. -/
def blocksPoison (size n : Nat) (ps : List Bool) : List Bool :=
  (List.range (blockCount n size)).map fun b => ((ps.drop (b * size)).take size).any fun x => x

/-- A row as read: codes, S8 codes, and the poison of each element. -/
def readRow (rd_ : Nat → Nat → M (List PByte)) (f : FormatWord) (n a b : Nat) : M (List Nat × List Nat × List Bool) := do
  let d ← rd_ a (f.format.bytesFor n)
  let g ← if f.format.blockScaled then rd_ b (blockCount n f.block) else pure []
  let ep := elementPoison f.format.bits n (d.map Prod.snd)
  let bp := spreadBlocks f.block n (g.map Prod.snd)
  return (unpackCodes f.format n (d.map Prod.fst), g.map fun x => x.1.toNat, (ep.zip bp).map fun e => e.1 || e.2)

/-- The code bytes and the block-scale bytes of an encoded row, poisoned where a poisoned element went into them: into
the element, or in a block-scaled format into its block (R619). -/
def poisonedRow (f : FormatWord) (codes s8 : List Nat) (ps : List Bool) : List PByte × List PByte :=
  let n := codes.length
  let bp := blocksPoison f.block n ps
  let ep := if f.format.blockScaled then spreadBlocks f.block n bp else ps
  let bytes := packCodes f.format codes
  (bytes.zip (bytePoison f.format.bits bytes.length ep), if f.format.blockScaled then (s8.map byteOf).zip bp else [])

/-- Converts rows until one fails (R607). -/
def convertRows (p k : Nat) (y : Xfer) (cs cd : Nat) (rnd : Nat → Nat) : List Nat → M (Nat × Nat × Stats)
  | [] => return (0, 0, {})
  | r :: rs => do
    let w := slotWho p k
    match ← catchCode (do
        let (codes, s8, ps) ← readRow (xferRead w y) y.srcFmt y.size (y.srcRow r) (y.srcScales r)
        let (s8d, cdd, st) := encodeRow y.dstFmt cd rnd (r * y.size) (decodeRow y.srcFmt cs s8 codes)
        let (d, b) := poisonedRow y.dstFmt cdd s8d ps
        let n ← xferWrite p w (y.dstRow r) d
        let m ← xferWrite p w (y.dstScales r) b
        pure (n + m, st)) with
    | .error c => return (0, c, {})
    | .ok (n, st) => do
      let (m, c, st') ← convertRows p k y cs cd rnd rs
      return (n + m, c, st.add st')

/-! ### PUMP_COPY, PUMP_CONVERT, PUMP_STREAM -/

/-- The descriptor in a slot ends with a code. -/
def endXfer (p k : Nat) (y : Xfer) (code : Nat) : M Unit :=
  modify (putSlot p k { y with started := true, finished := true, code := code })

/-- The statistics add of a CONVERT that a tile issued (R607). -/
def xferStats (p : Nat) (y : Xfer) (st : Stats) : List StatAdd :=
  match y.tile, y.stats with
  | some (t, _), some step =>
    if y.dstFmt.stats then
      [{ statAdd (pgTile t) step (fld y.desc 0x50 8)
          (if y.dstFmt.coarseOne then none else some (fld y.desc 0x38 8)) st with unit := pgPump p }]
    else []
  | _, _ => []

/-- COPY (R606, R608). -/
def runCopy (p k : Nat) (y : Xfer) : M Unit := do
  let s ← get
  match (y.check s).or (y.windowCode s y.reads y.writes) with
  | some c => endXfer p k y c
  | none =>
    let (n, c) ← copyRows p k y (List.range y.rows)
    endXfer p k { y with bytes := n } c

/-- CONVERT (R607, R608); the window checks follow all others. -/
def runConvert (p k : Nat) (y : Xfer) : M Unit := do
  let s ← get
  let w := slotWho p k
  match y.check s with
  | some c => endXfer p k y c
  | none =>
    match ← catchCode (do
        let cs ← readCoarse w y.srcFmt (fld y.desc 0x30 8) y.slot
        let cd ← readCoarse w y.dstFmt (fld y.desc 0x38 8) y.slot
        refuseSome (y.windowCode s y.reads y.writes)
        pure (cs, cd)) with
    | .error c => endXfer p k y c
    | .ok (cs, cd) =>
      let rnd := draws s 6 (fld y.desc 2 2) y.sample y.pass
      let (n, c, st) ← convertRows p k y cs cd rnd (List.range y.rows)
      endXfer p k { y with bytes := n, adds := xferStats p y st } c

/-- STREAM: its start reads the two counts that the pump owns (R610). -/
def startStream (p k : Nat) (y : Xfer) : M Unit := do
  let s ← get
  match (y.check s).or (y.windowCode s y.reads y.writes) with
  | some c => endXfer p k y c
  | none =>
    match ← catchCode (do
        let a ← xferRead (slotWho p k) y (fld y.desc 0x48 8) 4
        let b ← xferRead (slotWho p k) y (fld y.desc 0x38 8) 4
        pure (leNat (a.map Prod.fst), leNat (b.map Prod.fst))) with
    | .error c => endXfer p k y c
    | .ok (a, b) =>
      modify (putSlot p k { y with started := true, taken := a, delivered := b, srcTail := a, dstHead := b })

/-- The descriptor in a slot that command kind `kind` starts. -/
def startable (y : Xfer) (kind : Nat) : Bool :=
  !y.started && !y.finished && (if y.kind = 2 ∨ y.kind = 3 then y.kind == kind else kind == 1)

/-- A pump takes a descriptor into slot `k` and starts it. -/
def pumpStart (p k kind : Nat) (s : State) : State :=
  let s := if 256 ≤ p ∧ p < 288 ∧ (slotOf s p k).isNone then attempt (slotWho p k) (takeSubmission p k kind) s else s
  match slotOf s p k with
  | none => s
  | some y =>
    if !startable y kind ∨ (p < 256 ∧ (y.kind = 4 ∨ y.kind = 5)) then s
    else attempt (slotWho p k) (match kind with
      | 2 => runConvert p k y
      | 3 => startStream p k y
      | _ => runCopy p k y) s

def execPumpCopy (pump slot : Nat) (s : State) : Host.Outcome State Fault Refusal := whileOn s (pumpStart pump slot 1 s)
def execPumpConvert (pump slot : Nat) (s : State) : Host.Outcome State Fault Refusal := whileOn s (pumpStart pump slot 2 s)
def execPumpStream (pump slot : Nat) (s : State) : Host.Outcome State Fault Refusal := whileOn s (pumpStart pump slot 3 s)

/-! ### Streams (R610 to R614) -/

def sub32 (a b : Nat) : Nat := (a + 2 ^ 32 - b % 2 ^ 32) % 2 ^ 32
/-- Delivered records that the consumer has not freed, as far as the pump has read. -/
def Xfer.fill (y : Xfer) : Nat := sub32 y.delivered y.dstHead

/-- The slack of a stream's requests for a record (R613). -/
def Xfer.slackNs (y : Xfer) : Nat := min (y.fill * 10 ^ 9 / fld y.desc 0x40 4) 0xFFFFFFFF

/-- A stream that runs. -/
def runningStream (s : State) (p k : Nat) : M Xfer := do
  match slotOf s p k with
  | some y => do
    waitFor (y.started && !y.finished && y.kind == 3)
    return y
  | none => throw .hold

/-- Work on a record: its requests carry the stream's slack (R613), and a failing code ends the stream. -/
def streamWork (p k : Nat) (m : M Xfer) (y : Xfer) : M Unit := do
  modify fun s => { s with bus := { s.bus with slack := y.slackNs + 1 } }
  let r ← catchCode m
  modify fun s => { s with bus := { s.bus with slack := 0 } }
  match r with
  | .ok y => modify (putSlot p k y)
  | .error c => endXfer p k y c

/-- Copies one record, when the source holds one and the destination has room (R611). -/
def streamCopy (p k : Nat) : M Unit := do
  let y ← runningStream (← get) p k
  let d := y.desc
  waitFor (!y.copied && sub32 y.srcTail y.taken != 0 && decide (y.fill < fld d 0x24 4))
  streamWork p k (do
    let b ← xferRead (slotWho p k) y (fld d 0x10 8 + y.taken % fld d 0x20 4 * y.size) y.size
    let n ← xferWrite p (slotWho p k) (fld d 0x18 8 + y.delivered % fld d 0x24 4 * y.size) b
    pure { y with copied := true, bytes := y.bytes + n }) y

/-- The stream after a delivered record (R610, R612). -/
def Xfer.nextRecord (y : Xfer) : Xfer :=
  { y with
    copied := false, delivered := (y.delivered + 1) % 2 ^ 32, taken := (y.taken + 1) % 2 ^ 32
    count := y.count + 1, dry := false, finished := y.rows != 0 && decide (y.rows ≤ y.count + 1) }

/-- Writes both counts once the record's writes are acknowledged (R610). -/
def streamCounts (p k : Nat) : M Unit := do
  let y ← runningStream (← get) p k
  waitFor y.copied
  streamWork p k (do
    acknowledged (slotWho p k)
    busWriteNat (slotWho p k) (fld y.desc 0x38 8) 4 ((y.delivered + 1) % 2 ^ 32)
    busWriteNat (slotWho p k) (fld y.desc 0x48 8) 4 ((y.taken + 1) % 2 ^ 32)
    pure y.nextRecord) y

/-- A record is copied, and its counts follow once its writes are acknowledged. -/
def recordFront (p k : Nat) (s : State) : State :=
  attempt (slotWho p k) (streamCounts p k) (attempt (slotWho p k) (streamCopy p k) s)

def execStreamRecord (pump slot : Nat) (s : State) : Host.Outcome State Fault Refusal :=
  whileOn s (recordFront pump slot s)

/-- A dry period begins, goes on or ends, as the fill just read shows (R614). -/
def dryPeriod (p : Nat) (y : Xfer) (s : State) : Xfer × State :=
  if y.fill ≠ 0 then ({ y with dry := false }, s)
  else if y.dry then (y, s)
  else
    let page := pgPump p
    let s := if sub32 y.srcTail y.taken ≠ 0 then
        let s := bump page Reg.PM_DEADLINE_MISSES 1 s
        if fld y.desc 1 1 % 2 = 1 then raiseBit page 4 s else s
      else bump page Reg.PM_SOURCE_DRY 1 s
    ({ y with dry := true }, s)

/-- The stream has come to its end (R612). -/
def Xfer.streamDone (y : Xfer) : Bool :=
  !y.copied && ((y.rows != 0 && decide (y.rows ≤ y.count)) || (y.stopped && y.taken == y.srcTail))

/-- Re-reads the word of a stream whose address stands at `o` of its descriptor. -/
def streamWord (w : Who) (y : Xfer) (o : Nat) : M Nat := do
  let b ← xferRead w y (fld y.desc o 8) 4
  return leNat (b.map Prod.fst)

/-- Re-reads the words of a stream (R611). -/
def streamPoll (p k : Nat) : M Unit := do
  let y ← runningStream (← get) p k
  let w := slotWho p k
  match ← catchCode (do
      let t ← streamWord w y 0x28
      let h ← streamWord w y 0x30
      let z ← (if fld y.desc 0x50 8 = 0 then pure 0 else streamWord w y 0x50)
      pure { y with srcTail := t, dstHead := h, stopped := y.stopped || z != 0 }) with
  | .error c => endXfer p k y c
  | .ok y =>
    if y.streamDone then endXfer p k y 0
    else modify fun s => putSlot p k (dryPeriod p y s).1 (dryPeriod p y s).2

def execStreamPoll (pump slot : Nat) (s : State) : Host.Outcome State Fault Refusal :=
  whileOn s (attempt (slotWho pump slot) (streamPoll pump slot) s)

/-! ### Completion (R600, R603, R609) -/

/-- The page of the unit that executes a descriptor of pump `p`: the cluster's packer has the cluster page (R379). -/
def Xfer.page (y : Xfer) (p : Nat) : Nat := if 4 ≤ y.kind then pgCluster p else pgPump p

/-- Frees a slot and reports its code to the issuing tile; a failure enters the unit's log (R891). -/
def freeXfer (p k : Nat) (y : Xfer) (s : State) : State :=
  let x := getPump s p
  let x := { x with slots := x.slots.filter fun e => e.1 != k, packs := x.packs.filter fun j => j != k }
  let x := match y.tile with
    | some (t, n) => { x with reports := x.reports ++ [(t, n, y.code)] }
    | none => x
  let s := if y.code = 0 then s else logErr (y.page p) y.code 0 s
  showSlots p (bump (pgPump p) Reg.PM_DESCS 1 (setPump p x s))

/-- Writes the completion record of a submission that names one. -/
def recordXfer (p k : Nat) (y : Xfer) : M Unit := do
  if y.tile.isNone ∧ y.record ≠ 0 then
    let _ ← codeOf (do
      busWrite (signalWho p k) (y.record + 4) (clean (leBytes 4 0 ++ leBytes 8 y.bytes))
      busWrite (signalWho p k) y.record (clean (leBytes 2 y.code ++ leBytes 2 0x8000)))

/-- Frees a slot and reports its code: to the issuing tile, or into the completion record. -/
def reportXfer (p k : Nat) (y : Xfer) : M Unit := do
  modify (freeXfer p k y)
  recordXfer p k y

/-- The counts that the finished descriptor in a slot has still to offer. -/
def slotAdds (p k : Nat) (s : State) : List StatAdd :=
  match slotOf s p k with
  | some y => if y.finished then y.adds else []
  | none => []

def dropSlotAdd (p k : Nat) (s : State) : State :=
  match slotOf s p k with
  | some y => putSlot p k { y with adds := y.adds.drop 1 } s
  | none => s

/-- The code of a finished descriptor whose writes and adds have ended with code `c`, and the write of its mark with code
`mark`. After a fallback the writes of the
packed tensor that were under way count no more (R375). -/
def Xfer.lastCode (y : Xfer) (c mark : Nat) : Nat :=
  if y.code ≠ 0 then y.code else if c ≠ 0 ∧ !y.fell then c else mark

/-- The descriptor in a slot still owes an add to step `t`: it waits to be offered, or will be made (R320). -/
def Pump.owesAdd (x : Pump) (t : Nat) : Bool :=
  x.slots.any fun e => e.2.stats == some t && (!e.2.adds.isEmpty || (!e.2.finished && (e.2.kind == 2 || e.2.kind == 4)))

/-- A finished descriptor completes once its writes and its counts are acknowledged (R930); a signal goes first. -/
def descComplete (p k : Nat) : M Unit := do
  match slotOf (← get) p k with
  | none => throw .hold
  | some y =>
    waitFor (y.finished && y.adds.isEmpty)
    if y.signaled then
      let _ ← codeOf (acknowledged (signalWho p k))
      reportXfer p k y
    else
      let c ← codeOf (acknowledged (slotWho p k))
      let m ← codeOf (acknowledged (signalWho p k))
      let y := { y with code := y.lastCode c m }
      if y.code = 0 ∧ y.kind < 4 ∧ fld y.desc 0x60 8 ≠ 0 then
        busAdd (signalWho p k) (fld y.desc 0x60 8) (fld y.desc 0x68 4)
        modify (putSlot p k { y with signaled := true })
      else reportXfer p k y

/-- Offers the counts of a finished descriptor, then completes it. -/
def finishSlot (p k : Nat) (s : State) : State :=
  attempt (slotWho p k) (descComplete p k) (offerLeft (slotWho p k) (slotAdds p k) (dropSlotAdd p k) 1 s)

def execPumpDescComplete (pump slot : Nat) (s : State) : Host.Outcome State Fault Refusal :=
  whileOn s (finishSlot pump slot s)

/-- The cluster pump's oldest report for a tile reaches it, and the PUMP completes (R600). -/
def pumpReport (t cycles : Nat) (s : State) : State :=
  let k := clusterOf t
  let x := getPump s k
  match x.reports.find? fun r => r.1 == t with
  | none => s
  | some r =>
    let s := setPump k { x with reports := dropFirst (fun q => q == r) x.reports } s
    match (getTile s t).live.find? fun i => i.seq == r.2.1 with
    | some i => completeIns t i r.2.2 cycles s
    | none => s

def execPumpInstrComplete (tile cycles : Nat) (s : State) : Host.Outcome State Fault Refusal :=
  whileOn s (pumpReport tile cycles s)

end Sys2Proof.Machine
end

