-- ==== Sys2Proof/Machine/Packer.lean ====
section
/-! DEFINITION. The packer of a cluster: activation descriptors, marks, packed tensors (Activation Wells). -/

namespace Sys2Proof.Machine

/-! ### The activation descriptor (R345, R346) -/

def Xfer.disp (y : Xfer) : Nat := fld y.desc 1 1
def Xfer.fallback (y : Xfer) : Bool := bitOf (fld y.desc 2 1) 0
def Xfer.rawOnly (y : Xfer) : Bool := bitOf (fld y.desc 2 1) 1
def Xfer.tensor (y : Xfer) : Nat := fld y.desc 4 2
def Xfer.rowLen (y : Xfer) : Nat := fld y.desc 8 4
def Xfer.packRows (y : Xfer) : Nat := fld y.desc 0xC 4
def Xfer.mark (y : Xfer) : Nat := fld y.desc 0x10 8
def Xfer.packed (y : Xfer) : Nat := fld y.desc 0x18 8
def Xfer.cap (y : Xfer) : Nat := fld y.desc 0x20 8
def Xfer.pkFmt (y : Xfer) : FormatWord := FormatWord.ofNat (fld y.desc 0x28 4)
def Xfer.pkScale (y : Xfer) : Nat := fld y.desc 0x30 8
def Xfer.pkStats (y : Xfer) : Nat := fld y.desc 0x38 8
def Xfer.tFmt (y : Xfer) : FormatWord := FormatWord.ofNat (fld y.desc 0x48 4)
def Xfer.tScale (y : Xfer) : Nat := fld y.desc 0x50 8
def Xfer.tRow (y : Xfer) (r : Nat) : Nat := fld y.desc 0x40 8 + r * fld y.desc 0x4C 4
def Xfer.tScales (y : Xfer) (r : Nat) : Nat := fld y.desc 0x58 8 + r * fld y.desc 0x60 4
def Xfer.isPack (y : Xfer) : Bool := y.kind == 4
def Xfer.isDrop (y : Xfer) : Bool := y.isPack && y.disp == 3

/-- Blocks of a chunk, blocks of a row, and chunks (R356). -/
def Xfer.chunkBlocks (y : Xfer) : Nat := if y.pkFmt.block = 32 then 128 else 256
def Xfer.rowBlocks (y : Xfer) : Nat := blockCount y.rowLen y.pkFmt.block
def Xfer.chunks (y : Xfer) : Nat := (y.packRows * y.rowBlocks + y.chunkBlocks - 1) / y.chunkBlocks
/-- Index bytes, padded (R357). -/
def Xfer.indexBytes (y : Xfer) : Nat := (4 * y.chunks + 63) / 64 * 64
/-- Elements of block `b` of a row. -/
def Xfer.blockLen (y : Xfer) (b : Nat) : Nat := min y.pkFmt.block (y.rowLen - b % y.rowBlocks * y.pkFmt.block)

/-- Bytes of the GDDR7 data view of a module with no retired channel (R48). -/
def dataViewBytes : Nat := 25000000 * 4096

/-- The packed region lies where the disposition says (R347). -/
def Xfer.regionFits (s : State) (y : Xfer) : Bool :=
  let a := localOf y.packed
  let inside := fun lo hi => decide (lo ≤ a) && decide (a + y.cap ≤ hi)
  match y.disp with
  | 0 => isLocal s y.packed && inside 0 wellEnd
  | 1 => isLocal s y.packed && inside gddrBase (gddrBase + rd s (pgHub 0) Reg.MEM_LIMIT)
  | 2 => !isLocal s y.packed && inside gddrBase (gddrBase + dataViewBytes)
  | _ => true

/-- The pack takes codes and S8 bytes as stored (R354). -/
def Xfer.passThrough (y : Xfer) : Bool :=
  y.tFmt.fmt == y.pkFmt.fmt && y.tFmt.block == y.pkFmt.block && y.tScale == y.pkScale

/-- The descriptor encodes, for a step: it may make a statistics add (R354, R355, R307). -/
def Xfer.makesAdds (y : Xfer) : Bool := y.isPack && !y.isDrop && !y.passThrough && y.stats.isSome

/-- The first failing check of an activation descriptor before any read (R347); records that it does not use are not
checked (R101). -/
def Xfer.packCheck (s : State) (y : Xfer) : Option Nat :=
  let pk := y.pkFmt
  if y.addr % 128 ≠ 0 then some 0x0160
  else if (y.isPack && decide (3 < y.disp)) || decide (3 < fld y.desc 2 1) || (pk.fmt != 2 && pk.fmt != 4) then some 0x0161
  else
    let f := (formatCheck pk (if y.isDrop then none else some y.pkScale) (if y.makesAdds then some y.pkStats else none)).or
      (formatCheck y.tFmt (if y.isPack && !y.isDrop then some y.tScale else none) none)
    let shape := decide (1 ≤ y.rowLen) && decide (y.rowLen ≤ 65536) && decide (1 ≤ y.packRows)
      && decide (y.packRows ≤ 16777216) && decide (y.chunks ≤ 1048576)
      && (y.isPack || y.tFmt.fmt == 0 || (y.tFmt.fmt == pk.fmt && y.tFmt.block == pk.block))
    f.or (if !shape then some 0x0162
      else if y.mark % 8 ≠ 0 ∨ wellEnd ≤ wholeAddr s y.mark ∨ (y.packed % 64 ≠ 0 ∧ !y.isDrop) then some 0x0163
      else if y.isPack ∧ !y.regionFits s then some 0x0164
      else if y.cap < 64 + y.indexBytes then some 0x0165
      else none)

def Xfer.packReads (y : Xfer) : List (Nat × Nat) :=
  if y.isDrop then []
  else if y.isPack then vecRanges y.tFmt y.rowLen (fun r => (y.tRow r, y.tScales r)) y.packRows
    ++ scaleRange y.tFmt y.tScale ++ scaleRange y.pkFmt y.pkScale
  else [(y.mark, 8), (y.packed, y.cap)]

def Xfer.packWrites (y : Xfer) : List (Nat × Nat) :=
  if y.isDrop then [(y.mark, 8)]
  else if y.isPack then [(y.mark, 8), (y.packed, y.cap)] ++ (if y.makesAdds then statsRange y.pkFmt y.pkStats else [])
  else vecRanges y.tFmt y.rowLen (fun r => (y.tRow r, y.tScales r)) y.packRows
    ++ (if y.pkScale = 0 then [] else [(y.pkScale, 384)]) ++ (if y.fallback then [(y.mark, 8)] else [])

/-! ### Marks, headers and fallback -/

/-- A mark with its cause bit: 24 dropped, 25 lost (R348, R351). -/
def Xfer.markWord (y : Xfer) (cause : Nat) : Nat := y.tensor + y.mb * 2 ^ 16 + 2 ^ cause + y.pass * 2 ^ 32

def Xfer.phFmt (y : Xfer) : Nat := y.pkFmt.fmt + (if y.pkFmt.block = 32 then 16 else 0)

/-- The bytes of a header (R357). -/
def Xfer.headerBytes (y : Xfer) (coarse body coded raw flags : Nat) : List Byte :=
  leBytes 4 y.phFmt ++ leBytes 4 coarse ++ leBytes 4 y.rowLen ++ leBytes 4 y.packRows ++ leBytes 4 y.chunks
    ++ leBytes 4 body ++ leBytes 4 y.pass ++ leBytes 2 y.tensor ++ leBytes 1 y.mb ++ leBytes 1 flags
    ++ leBytes 4 coded ++ leBytes 4 0 ++ leBytes 8 raw ++ leBytes 16 0

/-- A write of the packer. -/
def packWrite (p k : Nat) (a : Nat) (d : List PByte) : M Unit := do let _ ← xferWrite p (slotWho p k) a d

/-- Writes the mark and ends with success, or with the code of the mark's write. -/
def endWithMark (p k : Nat) (y : Xfer) (v : Nat) (count : State → State) : M Unit := do
  let c ← codeOf (do let _ ← xferWrite p (signalWho p k) y.mark (clean (leBytes 8 v)))
  if c = 0 then modify count
  endXfer p k y c

/-- A pack or an unpack completes with success, by itself or by a fallback: it is counted (R380). -/
def countDone (p : Nat) (y : Xfer) (s : State) : State :=
  bump (pgCluster p) (if y.isPack then Reg.AW_PACKS else Reg.AW_UNPACKS) 1 s

/-- The codes that a lost copy shows (R375): classes 0x02, 0x04 and 0x08. -/
def lostCode (c : Nat) : Bool := c / 256 == 2 || c / 256 == 4 || c / 256 == 8

/-- A failing read or write of the packed tensor: a fallback, or the code (R375, R376). -/
def packedFails (p k : Nat) (y : Xfer) (c : Nat) : M Unit :=
  if y.fallback ∧ lostCode c then
    endWithMark p k { y with fell := true } (y.markWord 25) fun s =>
      raiseBit (pgCluster p) 4 (bump (pgCluster p) Reg.AW_FALLBACKS 1 (logErr (pgCluster p) c 0
        (wr (pgCluster p) Reg.AW_STATUS_LAST_FB_CODE c (countDone p y s))))
  else endXfer p k y c

/-- The descriptor that the packer executes, when it is of kind `kind` and at stage `stage` (R344). -/
def packFront (s : State) (p kind stage : Nat) : M (Nat × Xfer) := do
  match (getPump s p).packs with
  | [] => throw .hold
  | k :: _ =>
    match slotOf s p k with
    | none => throw .hold
    | some y => do
      waitFor (y.kind == kind && y.stage == stage && !y.finished)
      return (k, y)

/-- Runs a command of the packer of cluster `p` for its front descriptor. -/
def packCommand (p kind stage : Nat) (run : Nat → Xfer → M Unit) (s : State) : State :=
  if 256 ≤ p then s
  else
    let w := slotWho p ((getPump s p).packs.headD 0)
    attempt w (do
      let (k, y) ← packFront s p kind stage
      run k y) s

/-! ### Packing (R352 to R359) -/

/-- PACK_START: the checks, a drop's mark, or the header with `PH_FLAGS` 0. What the fields that no chunk has filled
yet hold is free. -/
def packStart (p k : Nat) (y : Xfer) : M Unit := do
  let s ← get
  let w := slotWho p k
  match y.packCheck s with
  | some c => endXfer p k y c
  | none =>
    match ← catchCode (do
        let c ← if y.isDrop then pure 0
          else if y.passThrough then pure 0
          else do
            let _ ← readCoarse w y.tFmt y.tScale y.slot
            readCoarse w y.pkFmt y.pkScale y.slot
        refuseSome (y.windowCode s y.packReads y.packWrites)
        if y.isDrop ∨ !y.passThrough then pure c
        else if y.pkFmt.coarseOne then pure f32One
        else do
          let (v, _) ← busReadNat w (y.pkScale + 128 * y.slot) 4
          pure v) with
    | .error c => endXfer p k y c
    | .ok coarse =>
      if y.isDrop then endWithMark p k y (y.markWord 24) (bump (pgCluster p) Reg.AW_DROPS 1)
      else
        let n := (← get).drawn
        modify fun s => { s with drawn := s.drawn + 3 }
        let h := y.headerBytes coarse (Config.freeNat n) (Config.freeNat (n + 1)) (Config.freeNat (n + 2)) 0
        match ← codeOf (packWrite p k y.packed (clean h)) with
        | 0 => modify (putSlot p k { y with started := true, stage := 1, header := h })
        | c => packedFails p k y c

def execPackStart (cluster : Nat) (s : State) : Host.Outcome State Fault Refusal :=
  whileOn s (packCommand cluster 4 0 (packStart cluster) s)

/-- The blocks of a row as packed, and the counts of its conversion. -/
def packRow (p k : Nat) (y : Xfer) (ct cp : Nat) (rnd : Nat → Nat) (r : Nat) : M (List PackBlock × Stats) := do
  let (codes, s8, ps) ← readRow (xferRead (slotWho p k) y) y.tFmt y.rowLen (y.tRow r) (y.tScales r)
  let f := y.pkFmt
  let (s8, codes, st) := if y.passThrough then (s8, codes, {})
    else encodeRow f cp rnd (r * y.rowLen) (decodeRow y.tFmt ct s8 codes)
  let cs := piecesOfList f.block (codes.length + 1) codes
  let ps := piecesOfList f.block (ps.length + 1) ps
  return ((cs.zip (s8.zip ps)).map fun e => ⟨e.2.1, e.1, e.2.2.any fun b => b⟩, st)

/-- One chunk as the packer stores it: bytes, raw, poisoned, raw size (R359, R377). -/
def storeChunk (y : Xfer) (bs : List PackBlock) : List Byte × Bool × Bool × Nat :=
  let raw := rawChunk y.pkFmt.format bs
  let poison := bs.any fun b => b.poison
  let coded := codeChunk y.pkFmt.format bs
  let useCoded := !y.rawOnly && !poison && decide ((coded.length + 63) / 64 < (raw.length + 63) / 64)
  let bytes := if useCoded then coded else raw
  (padTo ((bytes.length + 63) / 64 * 64) bytes, !useCoded, poison, raw.length)

/-- What the chunks written so far come to: index entries, body units, coded chunks, raw bytes. -/
structure Packed where
  index : List Nat := []
  body : Nat := 0
  coded : Nat := 0
  raw : Nat := 0
deriving DecidableEq, Repr

/-- Writes chunks from the body's present end on, until one fails or would pass `AD_CAP` (R374). -/
def writeChunks (p k : Nat) (y : Xfer) : List (List PackBlock) → Packed → M (Packed × Nat)
  | [], a => return (a, 0)
  | bs :: rest, a => do
    let (bytes, raw, poison, size) := storeChunk y bs
    if y.cap < 64 + y.indexBytes + 64 * a.body + bytes.length then return (a, 0x0220)
    else
      match ← codeOf (packWrite p k (y.packed + 64 + y.indexBytes + 64 * a.body) (marked poison bytes)) with
      | 0 =>
        modify fun s =>
          let c := pgCluster p
          let s := bump c Reg.AW_IN_BYTES size (bump c Reg.AW_OUT_BYTES bytes.length s)
          let s := if raw then bump c Reg.AW_RAW_CHUNKS 1 s else s
          if poison then bump c Reg.AW_POISON_CHUNKS 1 s else s
        writeChunks p k y rest {
          index := a.index ++ [a.body + (if raw then 2 ^ 28 else 0)], body := a.body + bytes.length / 64
          coded := a.coded + natOf (!raw), raw := a.raw + size }
      | c => return (a, c)

/-- PACK_BODY: source, chunks, index. A source that fails ends the pack with its code. -/
def packBody (p k : Nat) (y : Xfer) : M Unit := do
  let w := slotWho p k
  match ← codeOf (acknowledged w) with
  | 0 =>
    let s ← get
    let coarse := fld y.header 4 4
    let rnd := draws s 5 y.tensor y.sample y.pass
    match ← catchCode (if y.passThrough then pure coarse else readCoarse w y.tFmt y.tScale y.slot) with
    | .error c => endXfer p k y c
    | .ok ct =>
      let (rows, sc) ← readUntil (packRow p k y ct coarse rnd) (List.range y.packRows)
      let blocks := (rows.map Prod.fst).flatten
      let chunks := piecesOfList y.chunkBlocks (blocks.length + 1) blocks
      let chunks := if sc = 0 then chunks else chunks.filter fun c => c.length == y.chunkBlocks
      let st := sumStats (rows.map Prod.snd)
      let y := { y with adds := match y.tile, y.stats with
        | some (t, _), some step => if y.pkFmt.stats ∧ y.makesAdds then
            [{ statAdd (pgTile t) step y.pkStats (if y.pkFmt.coarseOne then none else some y.pkScale) st with
                unit := pgCluster p }] else []
        | _, _ => [] }
      let (a, c) ← writeChunks p k y chunks {}
      if c ≠ 0 then packedFails p k y c
      else if sc ≠ 0 then endXfer p k y sc
      else
        let index := padTo y.indexBytes (a.index.flatMap (leBytes 4))
        match ← codeOf (packWrite p k (y.packed + 64) (clean index)) with
        | 0 => modify (putSlot p k { y with
            stage := 2, bytes := 64 * a.body, header := y.headerBytes coarse a.body a.coded a.raw 1 })
        | c => packedFails p k y c
  | c => packedFails p k y c

def execPackBody (cluster : Nat) (s : State) : Host.Outcome State Fault Refusal :=
  whileOn s (packCommand cluster 4 1 (packBody cluster) s)

/-- PACK_HEADER_VALID: every write is acknowledged; the header becomes valid. -/
def packValid (p k : Nat) (y : Xfer) : M Unit := do
  match ← codeOf (do
      acknowledged (slotWho p k)
      packWrite p k y.packed (clean y.header)) with
  | 0 => modify (putSlot p k { y with stage := 3 })
  | c => packedFails p k y c

def execPackHeaderValid (cluster : Nat) (s : State) : Host.Outcome State Fault Refusal :=
  whileOn s (packCommand cluster 4 2 (packValid cluster) s)

/-- PACK_COMPLETE: the valid header is acknowledged; a zero mark ends the pack. -/
def packEnd (p k : Nat) (y : Xfer) : M Unit := do
  match ← codeOf (acknowledged (slotWho p k)) with
  | 0 => endWithMark p k y 0 (countDone p y)
  | c => packedFails p k y c

def execPackComplete (cluster : Nat) (s : State) : Host.Outcome State Fault Refusal :=
  whileOn s (packCommand cluster 4 3 (packEnd cluster) s)

/-! ### Unpacking (R363 to R367, R378) -/

/-- The index rises and stays within the body (R363). -/
def indexOk (body : Nat) : List Nat → Bool
  | [] => true
  | [a] => decide (a ≤ body)
  | a :: b :: rest => decide (a < b) && indexOk body (b :: rest)

/-- Writes one output row (R365): F32 values, or codes and S8 bytes. -/
def unpackRow (p k : Nat) (y : Xfer) (coarse r : Nat) (bs : List PackBlock) : M Unit := do
  let f := y.pkFmt
  let codes := bs.flatMap fun b => b.codes
  let ps := bs.flatMap fun b => b.codes.map fun _ => b.poison
  let (d, g) := if y.tFmt.format = .f32 then
      poisonedRow y.tFmt (decodeRow f coarse (bs.map fun b => b.s8) codes) [] ps
    else poisonedRow f codes (bs.map fun b => b.s8) ps
  packWrite p k (y.tRow r) d
  if !g.isEmpty then packWrite p k (y.tScales r) g

/-- Writes every row whose blocks are all there: blocks left over, next row, failing code. -/
def unpackRows (p k : Nat) (y : Xfer) (coarse : Nat) : Nat → Nat → List PackBlock → M (List PackBlock × Nat × Nat)
  | 0, r, bs => return (bs, r, 0)
  | n + 1, r, bs => do
    if bs.length < y.rowBlocks then return (bs, r, 0)
    else match ← codeOf (unpackRow p k y coarse r (bs.take y.rowBlocks)) with
      | 0 => unpackRows p k y coarse n (r + 1) (bs.drop y.rowBlocks)
      | c => return (bs, r, c)

/-- The blocks of chunk `c` as read: a failing code of the packed tensor, or its blocks. -/
def readChunk (p k : Nat) (y : Xfer) (c e next : Nat) : M (List PackBlock) := do
  let off := bitsOf e 0 28
  let lo := c * y.chunkBlocks
  let ns := (List.range (min y.chunkBlocks (y.packRows * y.rowBlocks - lo))).map fun i => y.blockLen (lo + i)
  let d ← xferRead (slotWho p k) y (y.packed + 64 + y.indexBytes + 64 * off) (64 * (next - off))
  if d.any Prod.snd then
    refuseIf y.fallback 0x0224
    modify (bump (pgCluster p) Reg.AW_POISON_CHUNKS 1)
    return ns.map fun n => ⟨0, List.replicate n 0, true⟩
  else match decodeChunk y.pkFmt.format (bitOf e 28) ns (d.map Prod.fst) with
    | some bs => return bs
    | none => failWith 0x0223

/-- Decodes chunks in order and writes their rows. `carry` holds the blocks of an unfinished row. -/
def unpackChunks (p k : Nat) (y : Xfer) (coarse body : Nat) :
    List (Nat × Nat) → List PackBlock → Nat → M (Option (Nat × Bool))
  | [], _, _ => return none
  | (c, e) :: rest, carry, r => do
    let next := match rest with
      | (_, e') :: _ => bitsOf e' 0 28
      | [] => body
    match ← catchCode (readChunk p k y c e next) with
    | .error code => return some (code, true)
    | .ok bs =>
      let (carry, r, code) ← unpackRows p k y coarse (carry.length + bs.length) r (carry ++ bs)
      if code ≠ 0 then return some (code, false) else unpackChunks p k y coarse body rest carry r

/-- Header and index of a packed tensor, checked: coarse scale, body units, index entries (R364). -/
def readPacked (p k : Nat) (y : Xfer) : M (Nat × Nat × List Nat) := do
  let w := slotWho p k
  let h := (← xferRead w y y.packed 64).map Prod.fst
  refuseIf (fld h 0x1F 1 % 2 == 0 || fld h 0 4 != y.phFmt || fld h 8 4 != y.rowLen || fld h 0xC 4 != y.packRows) 0x0221
  refuseIf (fld h 0x18 4 != y.pass || fld h 0x1E 1 != y.mb || fld h 0x1C 2 != y.tensor) 0x0222
  let d := (← xferRead w y (y.packed + 64) (4 * y.chunks)).map Prod.fst
  let index := (List.range y.chunks).map fun i => fld d (4 * i) 4
  let body := fld h 0x14 4
  refuseIf (!indexOk body (index.map fun e => bitsOf e 0 28)) 0x0223
  return (fld h 4 4, body, index)

/-- Writes the packed coarse scale into all three slots of a scale record (R366). -/
def writeScaleRecord (p k : Nat) (y : Xfer) (coarse : Nat) : M Unit :=
  if y.pkScale = 0 then pure ()
  else packWrite p k y.pkScale (clean (((List.range 3).map fun _ => leBytes 4 coarse ++ leBytes 124 0).flatten))

/-- UNPACK (R364). -/
def unpack (p k : Nat) (y : Xfer) : M Unit := do
  let s ← get
  match (y.packCheck s).or (y.windowCode s y.packReads y.packWrites) with
  | some c => endXfer p k y c
  | none =>
    match ← catchCode (xferRead (slotWho p k) y y.mark 8) with
    | .error c => endXfer p k y c
    | .ok m =>
      if leNat (m.map Prod.fst) ≠ 0 then
        modify (bump (pgCluster p) Reg.AW_SKIPS 1)
        endXfer p k y 0
      else
        match ← catchCode (readPacked p k y) with
        | .error c => packedFails p k y c
        | .ok (coarse, body, index) =>
          match ← unpackChunks p k y coarse body ((List.range y.chunks).zip index) [] 0 with
          | some (c, true) => packedFails p k y c
          | some (c, false) => endXfer p k y c
          | none =>
            let c ← codeOf (writeScaleRecord p k y coarse)
            if c = 0 then modify (putSlot p k { y with started := true, stage := 1 })
            else endXfer p k y c

/-- An unpack whose last write has gone out ends once every write is acknowledged. -/
def unpackEnd (p k : Nat) (y : Xfer) : M Unit := do
  let c ← codeOf (acknowledged (slotWho p k))
  if c = 0 then modify (countDone p y)
  endXfer p k y c

/-- UNPACK: its work, and its end once its writes are acknowledged. -/
def unpackFront (p : Nat) (s : State) : State := packCommand p 5 1 (unpackEnd p) (packCommand p 5 0 (unpack p) s)

def execUnpack (cluster : Nat) (s : State) : Host.Outcome State Fault Refusal :=
  whileOn s (unpackFront cluster s)

end Sys2Proof.Machine
end

