-- ==== Sys2Proof/Machine/Wellhead.lean ====
section
/-! DEFINITION. The Wellheads: page pools, prefix trees and their commands (Attention Pipelines and KV Pages). -/

namespace Sys2Proof.Machine

def whWho (n : Nat) : Who := ⟨pgWellhead n, 0⟩

/-- Runs work that changes nothing where it fails: its result, or its failing code. -/
def allOrNothing {α : Type} (m : M α) : M (Except Nat α) := do
  let s ← get
  match ← catchCode m with
  | .ok a => return .ok a
  | .error c => do set s; return .error c

/-- A free value (log 3). -/
def freshNat : M Nat := do
  let s ← get
  set { s with drawn := s.drawn + 1 }
  return Config.freeNat s.drawn

/-! ### Keys (R427) -/

/-- Shifts `n` bits of a byte into a CRC-64/ECMA-182. -/
def crc64Bits : Nat → Nat → Nat
  | 0, c => c
  | n + 1, c =>
    forced (if c / 2 ^ 63 % 2 = 1 then (c * 2 % 2 ^ 64) ^^^ 0x42F0E1EBA9EA3693 else c * 2 % 2 ^ 64) (crc64Bits n)

/-- A CRC-64 register after the bytes of a string. -/
def crc64From : List Byte → Nat → Nat
  | [], c => c
  | b :: bs, c => forced (crc64Bits 8 (c ^^^ b.toNat * 2 ^ 56)) (crc64From bs)

/-- CRC-64/ECMA-182 of a byte string. -/
def crc64 (bs : List Byte) : Nat := crc64From bs 0

/-! ### Records in memory -/

/-- Reads and writes fields of a record as the Wellhead's own requests. -/
def whRead (n a k : Nat) : M Nat := do return (← busReadNat (whWho n) a k).1
def whWrite (n a k v : Nat) : M Unit := busWriteNat (whWho n) a k v

/-- A page-table entry (R422). -/
def ptAt (s : State) (n idx : Nat) : Nat := rd s (pgWellhead n) Reg.WH_PT_BASE + 32 * idx
def ptRead (n idx off k : Nat) : M Nat := do whRead n (ptAt (← get) n idx + off) k
def ptWrite (n idx off k v : Nat) : M Unit := do whWrite n (ptAt (← get) n idx + off) k v

def whReg (n : Nat) (f : Field) (v : Nat) : M Unit := modify (wr (pgWellhead n) f v)
def whGet (n : Nat) (f : Field) : M Nat := gets fun s => rd s (pgWellhead n) f

/-- `WH_STATUS.LOW` follows the free pages; its rise is EV_KV_LOW (R447). -/
def showLow (n : Nat) (s : State) : State :=
  let page := pgWellhead n
  if rd s page Reg.WH_FREE < rd s page Reg.WH_LOW_WATER then
    if isSet s page Reg.WH_STATUS_LOW then s else raiseBit page 4 (wr page Reg.WH_STATUS_LOW 1 s)
  else wr page Reg.WH_STATUS_LOW 0 s

/-- Puts a page on the free list (R437). -/
def freePage (n idx : Nat) : M Unit := do
  ptWrite n idx 0x1C 4 (← whGet n Reg.WH_FREE_HEAD)
  ptWrite n idx 0x10 1 0
  whReg n Reg.WH_FREE_HEAD idx
  whReg n Reg.WH_FREE ((← whGet n Reg.WH_FREE) + 1)

/-! ### Operations on one page (R435, R436, R442) -/

/-- The page of a handle of this Wellhead: its index, when it lies in the pool. -/
def pageIndex (n h : Nat) : M Nat := do
  refuseIf (h / 2 ^ 31 % 2 != n || decide ((← whGet n Reg.WH_POOL) ≤ h % 2 ^ 23)) 0x0235
  return h % 2 ^ 23

/-- The serial is the page's, and the page is in a state the operation takes. -/
def pageFresh (n idx serial : Nat) (ok : Nat → Bool) : M Unit := do
  refuseIf ((← ptRead n idx 0x0E 2) != serial || !ok (← ptRead n idx 0x10 1)) 0x0230

def isLive (st : Nat) : Bool := st == 1

/-- Count of references plus one. -/
def sharePage (n h serial : Nat) : M Unit := do
  let i ← pageIndex n h
  pageFresh n i serial isLive
  let c ← ptRead n i 8 4
  refuseIf (c == 0xFFFFFFFF) 0x0234
  ptWrite n i 8 4 (c + 1)

/-- Takes one reference from a page whose checks have passed (R436). -/
def dropRef (n i : Nat) : M Unit := do
  let c ← ptRead n i 8 4
  ptWrite n i 8 4 (c - 1)
  if c ≤ 1 then
    if (← ptRead n i 0xC 2) = 0 then freePage n i
    else
      ptWrite n i 0x10 1 2
      whReg n Reg.WH_DRAINING ((← whGet n Reg.WH_DRAINING) + 1)

def unrefPage (n h serial : Nat) : M Unit := do
  let i ← pageIndex n h
  pageFresh n i serial isLive
  dropRef n i

def pinPage (n h serial : Nat) : M Unit := do
  let i ← pageIndex n h
  pageFresh n i serial isLive
  let p ← ptRead n i 0xC 2
  refuseIf (p == 0xFFFF) 0x0234
  ptWrite n i 0xC 2 (p + 1)

def unpinPage (n h serial : Nat) : M Unit := do
  let i ← pageIndex n h
  pageFresh n i serial fun st => st != 0
  let p ← ptRead n i 0xC 2
  refuseIf (p == 0) 0x0234
  ptWrite n i 0xC 2 (p - 1)
  if p = 1 then
    if (← ptRead n i 0x10 1) = 2 then
      whReg n Reg.WH_DRAINING ((← whGet n Reg.WH_DRAINING) - 1)
      freePage n i

/-- Entry `i` becomes that of a live page with one reference and the next serial. -/
def fillEntry (n i fmt kc vc : Nat) : M Unit := do
  ptWrite n i 8 4 1
  ptWrite n i 0xC 2 0
  ptWrite n i 0xE 2 ((← ptRead n i 0xE 2) + 1)
  ptWrite n i 0x10 1 1
  ptWrite n i 0x12 2 fmt
  ptWrite n i 0x14 4 kc
  ptWrite n i 0x18 4 vc

/-- Takes the head of the free list as a live page with one reference. -/
def allocPage (n fmt kc vc : Nat) : M Nat := do
  refuseIf ((← whGet n Reg.WH_FREE) == 0) 0x0232
  let i ← whGet n Reg.WH_FREE_HEAD
  whReg n Reg.WH_FREE_HEAD (← ptRead n i 0x1C 4)
  whReg n Reg.WH_FREE ((← whGet n Reg.WH_FREE) - 1)
  fillEntry n i fmt kc vc
  return i

/-- The codes of a command in the order of R442. -/
def whOrder : List Nat := [0x0178, 0x0235, 0x0230, 0x0234, 0x0232, 0x0233, 0x0236]

/-- The first code of a set, by the order of R442; 0 for none. Other codes, of accesses that fail, go before. -/
def firstWhCode (cs : List Nat) : Nat :=
  let cs := cs.filter fun c => c != 0
  match cs.find? fun c => !whOrder.contains c with
  | some c => c
  | none => (whOrder.find? fun c => cs.contains c).getD 0

/-- One operation on each page of a vector, in order; the codes of those that fail. -/
def eachPage (op : Nat → Nat → M Unit) : List (Nat × Nat) → M (List Nat)
  | [] => return []
  | (h, serial) :: rest => do
    let c ← codeOf (op h serial)
    let cs ← eachPage op rest
    return c :: cs

/-! ### Trees (R426 to R429) -/

/-- A tree record. -/
structure Tree where
  at_ : Nat
  d : List Byte
deriving DecidableEq, Repr

def Tree.space (t : Tree) : Nat := fld t.d 0 8
def Tree.node (t : Tree) (i : Nat) : Nat := fld t.d 8 8 + 64 * i
def Tree.tokens (t : Tree) (i : Nat) : Nat := fld t.d 0x10 8 + 256 * i
def Tree.pages (t : Tree) : Nat := fld t.d 0x30 2
def Tree.vector (t : Tree) (i : Nat) : Nat := fld t.d 0x18 8 + 8 * t.pages * i
def Tree.nodes (t : Tree) : Nat := fld t.d 0x28 4
def Tree.freeHead (t : Tree) : Nat := fld t.d 0x2C 4
def Tree.bucket (t : Tree) (key : Nat) : Nat := fld t.d 0x20 8 + 64 * (key % 2 ^ fld t.d 0x32 1)

/-- The tree that a command names, when it is enabled. -/
def readTree (n k : Nat) : M Tree := do
  let a := (← whGet n Reg.WH_TREE_BASE) + 64 * k
  let d ← busRead (whWho n) a 64
  refuseIf (fld (d.map Prod.fst) 0x33 1 % 2 == 0) 0x0178
  return ⟨a, d.map Prod.fst⟩

/-- A live node of a tree. -/
def liveNode (n : Nat) (t : Tree) (i : Nat) : M Unit := do
  refuseIf (decide (t.nodes ≤ i)) 0x0235
  refuseIf ((← whRead n (t.node i + 0x10) 1) != 1) 0x0235

/-- The parent key of a block under node `i`; 0xFFFF_FFFF names the root. -/
def parentKey (n : Nat) (t : Tree) (i : Nat) : M Nat := do
  if i = 0xFFFFFFFF then return t.space
  else
    liveNode n t i
    whRead n (t.node i) 8

/-- Bucket entries: index, key, node, valid. -/
def readBucket (n : Nat) (t : Tree) (key : Nat) : M (List (Nat × Nat × Nat × Bool)) := do
  let d := (← busRead (whWho n) (t.bucket key) 64).map Prod.fst
  return (List.range 4).map fun i =>
    (i, fld d (16 * i) 8, fld d (16 * i + 8) 4, fld d (16 * i + 12) 4 % 2 == 1)

/-- Compares every valid entry whose key matches, in order: the first node that hits, and how many differed (R439). -/
def findNode (n : Nat) (t : Tree) (key : Nat) (toks : List Byte) :
    List (Nat × Nat × Nat × Bool) → M (Option Nat × Nat)
  | [] => return (none, 0)
  | (_, k, node, valid) :: rest => do
    if !valid ∨ k ≠ key then findNode n t key toks rest
    else
      let d ← busRead (whWho n) (t.tokens node) 256
      let (r, c) ← findNode n t key toks rest
      if d.map Prod.fst = toks then return (some node, c) else return (r, c + 1)

/-- Splits a page vector into handles and serials (R421). -/
def vectorPages (d : List Byte) : List (Nat × Nat) :=
  (List.range (d.length / 8)).map fun i => (fld d (8 * i) 4, fld d (8 * i + 4) 2)

/-! ### Commands (R430 to R434, R443) -/

/-- What a command answers: flags, handle or node, serial, count. -/
structure WhAnswer where
  flags : Nat := 0
  handle : Nat := 0
  serial : Nat := 0
  count : Nat := 0
deriving DecidableEq, Repr

/-- Writes a result record; one that is misaligned or at 0 receives none. A failing write is not reported. -/
def writeResult (n at_ code : Nat) (a : WhAnswer) : M Unit := do
  if at_ = 0 ∨ at_ % 16 ≠ 0 then return ()
  let _ ← codeOf (do
    busWrite (whWho n) (at_ + 4) (clean (leBytes 4 a.handle ++ leBytes 2 a.serial ++ leBytes 2 0 ++ leBytes 4 a.count))
    busWrite (whWho n) at_ (clean (leBytes 2 code ++ leBytes 2 (a.flags % 2 ^ 15 + 2 ^ 15))))

/-- `WR_COUNT` of a refused command: 0 for a node command, else the count of the page it names; free where it names no
page of the pool (R443). -/
def refusedCount (n : Nat) (c : List Byte) : M Nat := do
  let op := fld c 0 1
  if 7 ≤ op ∧ op ≤ 9 then return 0
  else if op < 2 ∨ 9 < op then freshNat
  else
    match ← catchCode (do ptRead n (← pageIndex n (fld c 4 4)) 8 4) with
    | .ok v => return v
    | .error _ => freshNat

/-- A refused command: counted, its code in the log (R891), and its record written; what the record's handle and serial
hold is free. -/
def whRefuse (n : Nat) (c : List Byte) (code : Nat) : M Unit := do
  modify fun s => logErr (pgWellhead n) code 0 (bump (pgWellhead n) Reg.WH_REFUSED 1 s)
  let at_ := fld c 0x10 8
  if at_ ≠ 0 ∧ at_ % 16 = 0 then
    writeResult n at_ code ⟨0, ← freshNat, ← freshNat, ← refusedCount n c⟩

/-- `WH_STATUS` shows the queue; a command that has begun and waits for a peer is executing (R451). -/
def showWellhead (n : Nat) (s : State) : State :=
  let busy := !(look [] s.whq n).isEmpty
    && ((s.bus.outstanding.any fun o => o.who == whWho n && o.kind == .read && !o.stale)
      || s.bus.arrived.any fun r => r.who == whWho n)
  wr (pgWellhead n) Reg.WH_STATUS_BUSY (natOf busy) (wr (pgWellhead n) Reg.WH_STATUS_QUEUE (look [] s.whq n).length s)

/-- A write to `WH_CMD_PORT` at byte `off` of the port. -/
def whPortWrite (n off : Nat) (data : List Byte) (s : State) : State :=
  let page := pgWellhead n
  if 2 ≤ n ∨ !writable s page ∨ lockState s page ≠ 0 then s
  else if off ≠ 0 ∨ data.length ≠ 32 then logErr page 0x0178 0 (bump page Reg.WH_REFUSED 1 s)
  else if rd s page Reg.WH_CTRL_ENABLE = 0 then
    attempt (whWho n) (whRefuse n data 0x0178) s
  else
    let q := look [] s.whq n
    if 64 ≤ q.length then s
    else showWellhead n { s with whq := put [] s.whq n (q ++ [data]) }

def execWhCmdPortWrite (wellhead off : Nat) (data : List Byte) (s : State) : Host.Outcome State Fault Refusal :=
  whileOn s (whPortWrite wellhead off data s)

/-- Runs the oldest command of a Wellhead when its operation is one that `mine` takes. -/
def whCommand (n : Nat) (mine : Nat → Bool) (run : List Byte → M WhAnswer) (s : State) : State :=
  match look [] s.whq n with
  | [] => s
  | c :: rest =>
    if !mine (fld c 0 1) then s
    else showWellhead n (attempt (whWho n) (do
      modify fun s => showWellhead n (bump (pgWellhead n) Reg.WH_CMDS 1 { s with whq := put [] s.whq n rest })
      match ← allOrNothing (do
          refuseIf (decide (fld c 0 1 = 0) || decide (9 < fld c 0 1) || bitsOf (fld c 1 1) 1 3 != 0
            || fld c 0x10 8 % 16 != 0) 0x0178
          run c) with
      | .ok a => writeResult n (fld c 0x10 8) 0 a
      | .error e => whRefuse n c e
      modify (showLow n)) s)

/-- The answer that names a page, as it stands after the command. -/
def pageAnswer (n h flags : Nat) : M WhAnswer := do
  return ⟨flags, h, ← ptRead n (h % 2 ^ 23) 0xE 2, ← ptRead n (h % 2 ^ 23) 8 4⟩

/-- ALLOC, and a command with a reserved operation, which is refused. -/
def whAlloc (n : Nat) (c : List Byte) : M WhAnswer := do
  let i ← allocPage n (fld c 8 2) (fld c 0x18 4) (fld c 0x1C 4)
  pageAnswer n (i + n * 2 ^ 31) 0

def execAlloc (wellhead : Nat) (s : State) : Host.Outcome State Fault Refusal :=
  whileOn s (whCommand wellhead (fun o => o == 1 || o == 0 || decide (9 < o)) (whAlloc wellhead) s)

/-- A command on the one page it names. -/
def onePage (n : Nat) (op : Nat → Nat → Nat → M Unit) (c : List Byte) : M WhAnswer := do
  op n (fld c 4 4) (fld c 2 2)
  pageAnswer n (fld c 4 4) 0

def execShare (wellhead : Nat) (s : State) : Host.Outcome State Fault Refusal :=
  whileOn s (whCommand wellhead (· == 2) (onePage wellhead sharePage) s)
def execFreePage (wellhead : Nat) (s : State) : Host.Outcome State Fault Refusal :=
  whileOn s (whCommand wellhead (· == 3) (onePage wellhead unrefPage) s)
def execPin (wellhead : Nat) (s : State) : Host.Outcome State Fault Refusal :=
  whileOn s (whCommand wellhead (· == 5) (onePage wellhead pinPage) s)
def execUnpin (wellhead : Nat) (s : State) : Host.Outcome State Fault Refusal :=
  whileOn s (whCommand wellhead (· == 6) (onePage wellhead unpinPage) s)

/-- Page `i` is copied into a page of its own, and gives up one reference. -/
def copyKvPage (n i : Nat) : M Nat := do
  let j ← allocPage n (← ptRead n i 0x12 2) (← ptRead n i 0x14 4) (← ptRead n i 0x18 4)
  let d ← busRead (whWho n) (← ptRead n i 0 8) 16384
  busWrite (whWho n) (← ptRead n j 0 8) d
  dropRef n i
  modify (bump (pgWellhead n) Reg.WH_COPIES 1)
  return j

/-- COW (R438); the answer's count is that of the page the command named. -/
def whCow (n : Nat) (c : List Byte) : M WhAnswer := do
  let h := fld c 4 4
  let i ← pageIndex n h
  pageFresh n i (fld c 2 2) isLive
  if (← ptRead n i 8 4) = 1 ∧ (← ptRead n i 0xC 2) = 0 then pageAnswer n h 0
  else
    let j ← copyKvPage n i
    return ⟨4, j + n * 2 ^ 31, ← ptRead n j 0xE 2, ← ptRead n i 8 4⟩

def execCow (wellhead : Nat) (s : State) : Host.Outcome State Fault Refusal :=
  whileOn s (whCommand wellhead (· == 4) (whCow wellhead) s)

/-- A hit is counted and noted in its node. -/
def touchNode (n : Nat) (t : Tree) (node diff : Nat) : M Unit := do
  modify fun s => bump (pgWellhead n) Reg.WH_HITS 1 (bump (pgWellhead n) Reg.WH_COLLISIONS diff s)
  whWrite n (t.node node + 0x18) 4 (← whGet n Reg.WH_CMDS)
  whWrite n (t.node node + 0x1C) 4 (min ((← whRead n (t.node node + 0x1C) 4) + 1) 0xFFFFFFFF)

/-- LOOKUP (R439). -/
def whLookup (n : Nat) (c : List Byte) : M WhAnswer := do
  let t ← readTree n (fld c 1 1 / 16)
  let pk ← parentKey n t (fld c 4 4)
  let toks := (← busRead (whWho n) (fld c 0x18 8) 256).map Prod.fst
  let key := crc64 (leBytes 8 pk ++ toks)
  let (hit, diff) ← findNode n t key toks (← readBucket n t key)
  match hit with
  | none =>
    modify fun s => bump (pgWellhead n) Reg.WH_MISSES 1 (bump (pgWellhead n) Reg.WH_COLLISIONS diff s)
    return ⟨0, ← freshNat, ← freshNat, 0⟩
  | some node =>
    if fld c 1 1 % 2 = 1 then
      let v ← busRead (whWho n) (t.vector node) (8 * t.pages)
      let e := firstWhCode (← eachPage (sharePage n) (vectorPages (v.map Prod.fst)))
      refuseIf (e != 0) e
    touchNode n t node diff
    return ⟨1, node, ← freshNat, 0⟩

def execLookup (wellhead : Nat) (s : State) : Host.Outcome State Fault Refusal :=
  whileOn s (whCommand wellhead (· == 7) (whLookup wellhead) s)

/-- Free node `node` enters the tree under `parent` with its key, tokens and pages, in entry `i` of its bucket. -/
def insertNode (n : Nat) (t : Tree) (node parent key i : Nat) (toks v : List PByte) : M Unit := do
  whWrite n (t.at_ + 0x2C) 4 (← whRead n (t.node node + 0x14) 4)
  whWrite n (t.node node) 8 key
  whWrite n (t.node node + 8) 4 parent
  whWrite n (t.node node + 0xC) 4 0
  whWrite n (t.node node + 0x10) 1 1
  whWrite n (t.node node + 0x1C) 4 0
  busWrite (whWho n) (t.tokens node) toks
  busWrite (whWho n) (t.vector node) v
  busWrite (whWho n) (t.bucket key + 16 * i) (clean (leBytes 8 key ++ leBytes 4 node ++ leBytes 4 1))
  if parent ≠ 0xFFFFFFFF then
    whWrite n (t.node parent + 0xC) 4 ((← whRead n (t.node parent + 0xC) 4) + 1)

/-- INSERT (R440, R442). The free-node list ends at an index beyond `T_NODES` (log 41). -/
def whInsert (n : Nat) (c : List Byte) : M WhAnswer := do
  let t ← readTree n (fld c 1 1 / 16)
  let parent := fld c 4 4
  let pk ← parentKey n t parent
  let toks ← busRead (whWho n) (fld c 0x18 8) 256
  let key := crc64 (leBytes 8 pk ++ toks.map Prod.fst)
  let bucket ← readBucket n t key
  match (← findNode n t key (toks.map Prod.fst) bucket).1 with
  | some node => return ⟨2, node, ← freshNat, 0⟩
  | none =>
    let v ← busRead (whWho n) (fld c 8 8) (8 * t.pages)
    let cs ← eachPage (sharePage n) (vectorPages (v.map Prod.fst))
    let node := t.freeHead
    let slot := bucket.find? fun e => !e.2.2.2
    let e := firstWhCode (cs ++ [if t.nodes ≤ node then 0x0232 else 0, if slot.isNone then 0x0233 else 0])
    refuseIf (e != 0) e
    insertNode n t node parent key ((slot.map Prod.fst).getD 0) toks v
    return ⟨0, node, ← freshNat, 0⟩

def execInsert (wellhead : Nat) (s : State) : Host.Outcome State Fault Refusal :=
  whileOn s (whCommand wellhead (· == 8) (whInsert wellhead) s)

/-- A node leaves its bucket and its tree, and joins the free nodes. -/
def evictNode (n : Nat) (t : Tree) (node : Nat) : M Unit := do
  let key ← whRead n (t.node node) 8
  match (← readBucket n t key).find? fun e => e.2.2.2 && e.2.2.1 == node with
  | some (i, _) => whWrite n (t.bucket key + 16 * i + 12) 4 0
  | none => pure ()
  let parent ← whRead n (t.node node + 8) 4
  if parent ≠ 0xFFFFFFFF then
    whWrite n (t.node parent + 0xC) 4 ((← whRead n (t.node parent + 0xC) 4) - 1)
  whWrite n (t.node node + 0x10) 1 0
  whWrite n (t.node node + 0x14) 4 t.freeHead
  whWrite n (t.at_ + 0x2C) 4 node

/-- EVICT (R435, R442). -/
def whEvict (n : Nat) (c : List Byte) : M WhAnswer := do
  let t ← readTree n (fld c 1 1 / 16)
  let node := fld c 4 4
  liveNode n t node
  let v ← busRead (whWho n) (t.vector node) (8 * t.pages)
  let cs ← eachPage (unrefPage n) (vectorPages (v.map Prod.fst))
  let busy := (← whRead n (t.node node + 0xC) 4) != 0
  let e := firstWhCode (cs ++ [if busy then 0x0236 else 0])
  refuseIf (e != 0) e
  evictNode n t node
  return ⟨0, node, ← freshNat, 0⟩

def execEvict (wellhead : Nat) (s : State) : Host.Outcome State Fault Refusal :=
  whileOn s (whCommand wellhead (· == 9) (whEvict wellhead) s)

end Sys2Proof.Machine
end

