-- ==== Sys2Proof/Machine/Attention.lean ====
section
/-! DEFINITION. Attention pipelines: programs, descriptors, passes, forward and backward arithmetic, masks (Attention
Pipelines and KV Pages). -/

namespace Sys2Proof.Machine

def getPipe (s : State) (k : Nat) : Pipe := look {} s.pipes k
def setPipe (k : Nat) (x : Pipe) (s : State) : State := { s with pipes := put {} s.pipes k x }
def modPipe (k : Nat) (f : Pipe → Pipe) : M Unit := modify fun s => setPipe k (f (getPipe s k)) s
def apWho (k : Nat) : Who := ⟨pgAttention k, 0⟩
/-- The pipeline's signal adds, which nothing waits for. -/
def apSignal (k : Nat) : Who := ⟨pgAttention k, 1⟩
def apState (s : State) (k : Nat) : Nat := rd s (pgAttention k) Reg.AP_STATUS_STATE
def setApState (k v : Nat) (s : State) : State := wr (pgAttention k) Reg.AP_STATUS_STATE v s

/-- Bytes of a program store. -/
def storeBytes (st : List (Nat × Byte)) (a n : Nat) : List Byte := (List.range n).map fun i => look 0 st (a + i)

/-- `AP_STATUS` and `HA_STATUS` show the pinned pages, and whether a pass is in the arrays (R444, R449). -/
def showPipe (k : Nat) (s : State) : State :=
  let x := getPipe s k
  let busy := natOf (x.run.any fun r => r.cur.isSome)
  wrAt (pgAttention k) Reg.AP_HA_BUSY 1 busy (wrAt (pgAttention k) Reg.AP_HA_BUSY 0 busy
    (wr (pgAttention k) Reg.AP_STATUS_PINS x.pins.length s))

/-! ### Start, stop, halt (R384 to R387, R391) -/

/-- Halts a pipeline with a code. -/
def haltPipe (k code tag : Nat) (s : State) : State :=
  let page := pgAttention k
  let s := logErr page code tag s
  if apState s k = 3 then s
  else
    let s := if apState s k = 1 then vetoStep (rd s page Reg.AP_STEP) 0x0621 s else s
    let s := showPipe k (setPipe k { getPipe s k with stopping := false, starting := false, run := none } s)
    let s := wr page Reg.AP_CTRL_START 0 (wr page Reg.AP_CTRL_STOP 0 (wr page Reg.AP_STATUS_FALLBACK 0 s))
    raiseBit page 4 (wr page Reg.AP_STATUS_HALT_CODE code (setApState k 3 s))

/-- A header field breaks its alignment or range, or the list passes the end of the store. -/
def apHeaderBad (h : List Byte) : Bool :=
  let n := fld h 4 4
  fld h 0 4 % 128 != 0 || n == 0 || decide (511 < n) || fld h 8 8 % 16 != 0
    || !(List.range 13).any (fun k => decide (4 ≤ k) && fld h 0x10 4 == 2 ^ k)
    || decide (65536 < fld h 0 4 + 128 * n)

/-- START takes effect: the pipeline stands at a step boundary with its header loaded, or it halts (R386). -/
def startPipe (k : Nat) (s : State) : State :=
  let page := pgAttention k
  let x := getPipe s k
  let h := storeBytes x.store x.header 64
  let s := setPipe k { x with
    stopping := false, starting := false, fresh := true, loaded := true, run := none
    list := fld h 0 4, count := fld h 4 4, comp := fld h 8 8, compLen := fld h 0x10 4 } s
  let s := wr page Reg.AP_CTRL_START 0 (wr page Reg.AP_CTRL_STOP 0 (wr page Reg.AP_STATUS_HALT_CODE 0 s))
  let s := { s with gen := { s.gen with finished := put 0 s.gen.finished page 0 } }
  let s := wr page Reg.AP_PC 0 (wr page Reg.AP_STATUS_FALLBACK 0 (setApState k 2 s))
  if 65536 < x.header + 64 ∨ apHeaderBad h then haltPipe k 0x0176 0 s else s

/-- A write of `AP_CTRL.START`; at a gated cluster it waits for the clocks (R792). -/
def apStart (k : Nat) (s : State) : State :=
  let page := pgAttention k
  if 256 ≤ k ∨ !writable s page ∨ isSet s page Reg.AP_CTRL_START then s
  else if look false s.gated k then writeWhenAwake k page 0x100 1 s
  else if apState s k = 1 then wr page Reg.AP_CTRL_START 1 (setPipe k { getPipe s k with starting := true } s)
  else startPipe k s

def execApStart (cluster : Nat) (s : State) : Host.Outcome State Fault Refusal := whileOn s (apStart cluster s)

/-- A write of `AP_CTRL.STOP`; at a gated cluster it waits for the clocks. -/
def apStop (k : Nat) (s : State) : State :=
  let page := pgAttention k
  if 256 ≤ k ∨ !writable s page ∨ isSet s page Reg.AP_CTRL_STOP then s
  else if look false s.gated k then writeWhenAwake k page 0x100 2 s
  else if apState s k = 2 then setApState k 0 (setPipe k { getPipe s k with loaded := false } s)
  else wr page Reg.AP_CTRL_STOP 1 (setPipe k { getPipe s k with stopping := true } s)

def execApStop (cluster : Nat) (s : State) : Host.Outcome State Fault Refusal := whileOn s (apStop cluster s)

/-- The pipeline's list is done: its step boundary (R387). -/
def apBoundary (k : Nat) (s : State) : State :=
  let page := pgAttention k
  let s := wr page Reg.AP_PC 0 (setApState k 2 (finishStep page (rd s page Reg.AP_STEP) s))
  let x := getPipe s k
  if x.starting then startPipe k s
  else if x.stopping then
    let s := applySpare page 1 (applySpare page 0 (setApState k 0 s))
    wr page Reg.AP_CTRL_STOP 0 (setPipe k { x with stopping := false, loaded := false } s)
  else s

/-! ### The descriptor (R392 to R394) -/

def AtRun.ctrl (r : AtRun) : Nat := fld r.desc 0 4
def AtRun.mb (r : AtRun) : Nat := bitsOf r.ctrl 0 8
def AtRun.complete (r : AtRun) : Bool := bitOf r.ctrl 8
def AtRun.mode (r : AtRun) : Nat := bitsOf r.ctrl 9 2
def AtRun.statsOut (r : AtRun) : Bool := bitOf r.ctrl 11
def AtRun.forceFb (r : AtRun) : Bool := bitOf r.ctrl 12
def AtRun.tag (r : AtRun) : Nat := bitsOf r.ctrl 16 16
def AtRun.shape (r : AtRun) : Nat := fld r.desc 4 4
/-- s: 64-dimension slices of a head. -/
def AtRun.slices (r : AtRun) : Nat := 2 ^ bitsOf r.shape 0 2
def AtRun.heads (r : AtRun) : Nat := bitsOf r.shape 2 5 + 1
def AtRun.grain (r : AtRun) : Nat := 2 ^ bitsOf r.shape 7 2
def AtRun.padLimit (r : AtRun) : Nat := bitsOf r.shape 9 8
def AtRun.qFmt (r : AtRun) : FormatWord := FormatWord.ofNat (fld r.desc 8 4)
def AtRun.kFmt (r : AtRun) : FormatWord := FormatWord.ofNat (fld r.desc 0xC 4)
def AtRun.vFmt (r : AtRun) : FormatWord := FormatWord.ofNat (fld r.desc 0x10 4)
def AtRun.pFmt (r : AtRun) : FormatWord := FormatWord.ofNat (fld r.desc 0x14 4)
def AtRun.oFmt (r : AtRun) : FormatWord := FormatWord.ofNat (fld r.desc 0x18 4)
def AtRun.smScale (r : AtRun) : Nat := fld r.desc 0x1C 4
def AtRun.seqTable (r : AtRun) : Nat := fld r.desc 0x20 8
def AtRun.seqCount (r : AtRun) : Nat := fld r.desc 0x28 4
def AtRun.qStride (r : AtRun) : Nat := fld r.desc 0x2C 4
def AtRun.oStride (r : AtRun) : Nat := fld r.desc 0x68 4
def AtRun.oScale (r : AtRun) : Nat := fld r.desc 0x38 8
def AtRun.mask (r : AtRun) : Nat := fld r.desc 0x48 8
def AtRun.backward (r : AtRun) : Bool := r.mode == 1

/-- A mask descriptor is malformed in itself (R418). -/
def maskBad (m : List Byte) : Bool :=
  decide (4 ≤ fld m 0 1) || !zeroFrom m 1 4 || !zeroFrom m 0x1C 0x20
    || (bitOf (fld m 0 1) 1 && (fld m 8 8 % 8 != 0 || fld m 0x10 4 % 8 != 0))

/-- Checks 1 to 5 of R394. -/
def AtRun.check (r : AtRun) (at_ : Nat) : Option Nat :=
  let q := r.qFmt
  if at_ % 128 ≠ 0 then some 0x0170
  else
    let f := ((formatCheck q (some (fld r.desc 0x30 8)) none).or
        (if r.backward then formatCheck q (some (fld r.desc 0x70 8)) none else none)).or
      ((formatCheck r.kFmt none none).or ((formatCheck r.vFmt none none).or ((formatCheck r.pFmt none none).or
        (formatCheck r.oFmt (some r.oScale) (some (fld r.desc 0x40 8))))))
    f.or (
      if 2 ≤ r.mode ∨ !(q.fmt == 1 || q.fmt == 2 || q.fmt == 3) ∨ r.kFmt.fmt = 0 ∨ r.vFmt.fmt = 0
          ∨ !(r.pFmt.fmt == 1 || r.pFmt.fmt == 2) ∨ r.pFmt.round ≠ 0 ∨ (r.backward ∧ r.oFmt.round = 1) then some 0x0171
      else if q.format.rank < r.kFmt.format.rank ∨ q.format.rank < r.vFmt.format.rank then some 0x0172
      else if bitsOf r.shape 0 2 = 3 ∨ r.seqCount = 0 ∨ 65536 < r.seqCount
          ∨ r.qStride < r.slices * recordBytes q ∨ r.oStride < r.slices * recordBytes r.oFmt then some 0x0173
      else none)

/-- Checks 6 and 7. -/
def atReadChecks (k : Nat) (r : AtRun) : M Unit := do
  let w := apWho k
  if r.mask ≠ 0 then
    let m ← busRead w r.mask 32
    refuseIf (maskBad (m.map Prod.fst)) 0x0174
  let _ ← readCoarse w r.qFmt (fld r.desc 0x30 8) r.slot
  if r.backward then
    let _ ← readCoarse w r.qFmt (fld r.desc 0x70 8) r.slot
  let _ ← readCoarse w r.oFmt r.oScale r.slot

/-! ### Sequences and passes (R396 to R401) -/

/-- A sequence record. -/
structure SeqRec where
  d : List Byte
deriving DecidableEq, Repr

def SeqRec.kLen (q : SeqRec) : Nat := fld q.d 0 4
def SeqRec.qLen (q : SeqRec) : Nat := fld q.d 4 4
def SeqRec.qPos (q : SeqRec) : Nat := fld q.d 8 4
def SeqRec.nqb (q : SeqRec) : Nat := (q.qLen + 63) / 64
def SeqRec.nkb (q : SeqRec) : Nat := (q.kLen + 63) / 64

/-- Reads a sequence record; one that breaks a range ends the descriptor (R399). -/
def readSeq (k : Nat) (r : AtRun) (i : Nat) : M SeqRec := do
  let d ← busRead (apWho k) (r.seqTable + 64 * i) 64
  let q : SeqRec := ⟨d.map Prod.fst⟩
  refuseIf (q.kLen == 0 || decide (1048576 < q.kLen) || q.qLen == 0 || decide (65536 < q.qLen)) 0x0175
  return q

def readSeqs (k : Nat) (r : AtRun) : List Nat → M (List (Nat × SeqRec))
  | [] => return []
  | i :: is => do
    let q ← readSeq k r i
    let qs ← readSeqs k r is
    return (i, q) :: qs

/-- A sequence's key blocks rounded up to the bucket grain. -/
def bucketOf (r : AtRun) (q : SeqRec) : Nat := (q.nkb + r.grain - 1) / r.grain * r.grain

/-- The descriptor runs by the fallback (R400). -/
def usesFallback (r : AtRun) (qs : List (Nat × SeqRec)) : Bool :=
  let d := (qs.map fun e => bucketOf r e.2).eraseDups.length
  let w := qs.foldl (fun a e => a + (bucketOf r e.2 - e.2.nkb) * e.2.nqb * r.heads) 0
  let real := qs.foldl (fun a e => a + e.2.nkb * e.2.nqb * r.heads) 0
  r.forceFb || decide (16 < d) || decide (r.padLimit * real < w * 256)

/-- The passes of one sequence: pairs head-major, grouped q = 4 / s at a time. -/
def seqPasses (r : AtRun) (blocks : Nat) (e : Nat × SeqRec) : List AtPass :=
  let pairs := (List.range r.heads).flatMap fun h => (List.range e.2.nqb).map fun b => (h, b)
  (piecesOfList (4 / r.slices) (pairs.length + 1) pairs).map fun g =>
    { seq := e.1, record := e.2.d, pairs := g, blocks := blocks }

/-- Inserts a bucket length into a falling list without repeats. -/
def insertFalling (n : Nat) : List Nat → List Nat
  | [] => [n]
  | m :: ms => if n = m then m :: ms else if m < n then n :: m :: ms else m :: insertFalling n ms

/-- All passes of a descriptor (R401). The fallback generates those of a sequence once it has read its record again
(R402). -/
def allPasses (r : AtRun) (fb : Bool) (qs : List (Nat × SeqRec)) : List AtPass :=
  if fb then qs.map fun e => { seq := e.1 }
  else
    let lens := qs.foldl (fun l e => insertFalling (bucketOf r e.2) l) []
    lens.flatMap fun n => (qs.filter fun e => bucketOf r e.2 == n).flatMap (seqPasses r n)

/-! ### Starting a descriptor (R387, R388, R400) -/

/-- A pipeline at its boundary begins its pass of the next step, as a tile does (R319), when the mode of its first
descriptor is one that `mine` takes. -/
def apPassBegin (k : Nat) (mine : Nat → Bool) (s : State) : State :=
  let page := pgAttention k
  let x := getPipe s k
  if apState s k ≠ 2 || sparePending s page 0 || sparePending s page 1
      || !mine ({ desc := storeBytes x.store x.list 128 } : AtRun).mode then s
  else match nextPass s x.fresh (rd s page Reg.AP_STEP) with
    | none => s
    | some step =>
      joinStep page step (wr page Reg.AP_STEP step (wr page Reg.AP_PC 0
        (setApState k 1 (setPipe k { x with fresh := false } s))))

/-- Starts the next descriptor when its mode is one that `mine` takes: it waits for its binding and its word; a refused
one has its code and no pass. -/
def atStart (k : Nat) (mine : Nat → Bool) : M Unit := do
  let s ← get
  let page := pgAttention k
  let x := getPipe s k
  waitFor (apState s k == 1 && x.run.isNone)
  let at_ := x.list + 128 * rd s page Reg.AP_PC
  let r : AtRun := { desc := storeBytes x.store at_ 128, index := rd s page Reg.AP_PC }
  waitFor (mine r.mode)
  if r.mb ≠ 0xFF then waitFor (bindOf s page r.mb).isSome
  let wait := fld r.desc 0x50 8
  if wait ≠ 0 then
    match ← catchCode (busReadNat (apWho k) wait 4) with
    | .ok (v, _) => waitFor (decide (fld r.desc 0x58 4 ≤ v))
    | .error _ => pure ()
  let pass := rd s page Reg.AP_STEP
  let r := { r with
    slot := readSlot s page r.mb, sample := sampleBase s page r.mb, pass := pass, stats := statsStep s page r.mb pass }
  match ← catchCode (do
      if wait ≠ 0 then let _ ← busReadNat (apWho k) wait 4
      refuseSome (r.check at_)
      atReadChecks k r
      readSeqs k r (List.range r.seqCount)) with
  | .error c => modPipe k fun x => { x with run := some { r with code := c } }
  | .ok qs =>
    let fb := usesFallback r qs
    modPipe k fun x => { x with run := some { r with fallback := fb, passes := allPasses r fb qs } }
    if fb then
      modify fun s => wr page Reg.AP_STATUS_FALLBACK 1 (bump page Reg.AT_FALLBACK_RUNS 1 s)

def apCommand (k : Nat) (m : M Unit) (s : State) : State :=
  if 256 ≤ k then s else if look false s.gated k then startWake k s else attempt (apWho k) m s

/-- Begins the pass where the pipeline stands at its boundary, then starts the descriptor. -/
def atRun (k : Nat) (mine : Nat → Bool) (s : State) : State :=
  apCommand k (atStart k mine) (if 256 ≤ k || look false s.gated k then s else apPassBegin k mine s)

def execAtForward (cluster : Nat) (s : State) : Host.Outcome State Fault Refusal :=
  whileOn s (atRun cluster (· != 1) s)
def execAtBackward (cluster : Nat) (s : State) : Host.Outcome State Fault Refusal :=
  whileOn s (atRun cluster (· == 1) s)
/-- A descriptor that waits re-reads its word, and starts once it is met (R388). -/
def atWaitPoll (k : Nat) (s : State) : State := atRun k (fun _ => true) s
def execAtWaitPoll (cluster : Nat) (s : State) : Host.Outcome State Fault Refusal := whileOn s (atWaitPoll cluster s)

/-! ### Masks (R415 to R418) -/

/-- The mask in force for a sequence: none, or its descriptor. What R418 says of the sequence's positions and key blocks
holds for every mask, whatever its `MD_MODE`. -/
def readMask (k : Nat) (r : AtRun) (q : SeqRec) : M (List Byte) := do
  let a := if fld q.d 0x38 8 = 0 then r.mask else fld q.d 0x38 8
  if a = 0 then return List.replicate 32 0
  else
    let m := (← busRead (apWho k) a 32).map Prod.fst
    let qb0 := fld m 0x14 4
    let outside := decide (q.qPos / 64 < qb0) || decide (qb0 + fld m 0x18 4 ≤ (q.qPos + q.qLen - 1) / 64)
      || decide (8 * fld m 0x10 4 < q.nkb)
    refuseIf (maskBad m || outside) 0x0175
    return m

/-- Key position kp is masked for query r by CAUSAL. -/
def causalMask (m : List Byte) (q : SeqRec) (r kp : Nat) : Bool :=
  bitOf (fld m 0 1) 0 && decide (((q.qPos + r : Nat) : Int) + sfld m 4 < (kp : Int))

/-- The SPARSE bit of key block kb for the bitmap row of query position block `qp64` is 0. -/
def sparseBit (k : Nat) (m : List Byte) (qp64 kb : Nat) : M Bool := do
  if !bitOf (fld m 0 1) 1 then return false
  else
    let (b, _) ← busReadNat (apWho k) (fld m 8 8 + (qp64 - fld m 0x14 4) * fld m 0x10 4 + kb / 8) 1
    return !bitOf b (kb % 8)

/-- SPARSE by bitmap row, for the rows that queries use. -/
def sparseRows (k : Nat) (m : List Byte) (kb : Nat) : List Nat → M (List (Nat × Bool))
  | [] => return []
  | p :: ps => do
    let b ← sparseBit k m p kb
    let bs ← sparseRows k m kb ps
    return (p, b) :: bs

/-! ### Pages (R420, R421, R425, R444) -/

/-- A page as the arrays hold it: its halves, and the coarse factors of its products. -/
structure KvPage where
  key : Bank := {}
  value : Bank := {}
  kCoarse : Nat := 0
  vCoarse : Nat := 0
deriving DecidableEq, Repr

def KvPage.keys (p : KvPage) : List (List Val) := bankCells p.key
def KvPage.values (p : KvPage) : List (List Val) := bankCells p.value

/-- One half of a page, and its bytes in the staging buffer. -/
def readHalf (k fmt a : Nat) : M (Bank × List PByte) := do
  let f := FormatWord.ofNat fmt
  let n := f.format.bytesFor 64
  let nb := 64 / f.block
  let d ← busRead (apWho k) a (64 * n)
  let g ← if f.format.blockScaled then busRead (apWho k) (a + 0x1000) (64 * nb) else pure []
  let codes := d.map Prod.fst
  let s8 := g.map fun x => x.1.toNat
  return ({
    fmt := fmt
    codes := (List.range 64).map fun t => unpackCodes f.format 64 ((codes.drop (t * n)).take n)
    s8 := (List.range 64).map fun t => (s8.drop (t * nb)).take nb
    poison := (d ++ g).any Prod.snd }, d ++ g)

/-- A command that the pipeline sends to a Wellhead: the port takes it after those already queued (R433, R444). -/
def apToWellhead (n : Nat) (m : M Unit) : M Unit := do
  let s ← get
  let page := pgWellhead n
  refuseIf (lockState s page != 0) 0x0801
  if rd s page Reg.WH_CTRL_ENABLE = 0 then
    modify fun s => logErr page 0x0178 0 (bump page Reg.WH_REFUSED 1 s)
    failWith 0x0178
  else
    waitFor (look [] s.whq n).isEmpty
    modify (bump page Reg.WH_CMDS 1)
    match ← allOrNothing m with
    | .ok _ => modify (showLow n)
    | .error c =>
      modify fun s => logErr page c 0 (bump page Reg.WH_REFUSED 1 s)
      failWith c

/-- The format nibble pair of a page entry. -/
def pageFmt (f : FormatWord) : Nat := f.fmt + (if f.block = 32 then 16 else 0)

/-- Reads one pinned page; `cq` and `cv` are the coarse scales the products take beside the page's own. -/
def readPage (k : Nat) (r : AtRun) (cq : Nat) (cv : Option Nat) (h : Nat) : M KvPage := do
  let e := ptAt (← get) (h / 2 ^ 31 % 2) (h % 2 ^ 23)
  let d := (← busRead (apWho k) e 32).map Prod.fst
  refuseIf (bitsOf (fld d 0x12 2) 0 5 != pageFmt r.kFmt || bitsOf (fld d 0x12 2) 8 5 != pageFmt r.vFmt) 0x0231
  let kc := fld d 0x14 4
  let vc := fld d 0x18 4
  refuseIf (!f32PosNormal kc || !f32PosNormal vc) 0x0301
  let ck := coarseProduct cq kc
  let cvv := match cv with
    | some c => coarseProduct c vc
    | none => vc
  refuseIf (!f32PosNormal ck || !f32PosNormal cvv) 0x0302
  let (kb, kd) ← readHalf k (fld r.desc 0xC 4) (fld d 0 8)
  let (vb, vd) ← readHalf k (fld r.desc 0x10 4) (fld d 0 8 + 0x2000)
  modPipe k fun x => { x with staging := x.staging.drop (x.staging.length - 2) ++ [kd, vd] }
  return ⟨kb, vb, ck, cvv⟩

/-- Bank `b` of both arrays holds a page's halves, and is valid. -/
def loadPage (k b : Nat) (p : KvPage) (s : State) : State :=
  let page := pgAttention k
  let x := getPipe s k
  let s := setPipe k { x with banks := put emptyBank (put emptyBank x.banks b p.key) (2 + b) p.value } s
  [0, 1].foldl (fun s a => setBankValid page a (rdAt s page Reg.AP_HA_BANK_VALID a ||| 2 ^ b) s) s

/-- Reads the pinned pages of a block; page n of the pass goes to bank n mod 2 of each array, which the two banks take in
turn (R419, log 79). -/
def readPages (k : Nat) (r : AtRun) (cq : Nat) (cv : Option Nat) (n : Nat) : List (Nat × Nat) → M (List KvPage)
  | [] => return []
  | (h, _) :: rest => do
    let p ← readPage k r cq cv h
    modify (loadPage k (n % 2) p)
    let ps ← readPages k r cq cv (n + 1) rest
    return p :: ps

/-! ### Arithmetic (R404 to R413) -/

def negInf : Nat := 0xFF800000

/-- The dot products of a row's slices with token t of a block's pages, in ascending slices; invalid products beside. -/
def tokenSum (cab : KvPage → Nat) (cells : KvPage → List (List Val)) (ps : List KvPage) (xs : List (List Val)) (t : Nat) :
    Nat × Nat :=
  (ps.zip xs).foldl (fun a e =>
    let terms := ((cells e.1).getD t []).zip e.2
    ((addLine 16 (f32Val (cab e.1)) a.1 (lineProducts terms)).1,
      a.2 + (terms.filter fun x => isInvalid x.1 x.2).length)) (0, 0)

/-- Probabilities in 16-element blocks under coarse scale 1.0 (R406). -/
def encodeP (r : AtRun) (p : List Nat) : List Val :=
  let f := { r.pFmt with block := 16, round := 0 }
  let (s8, codes, _) := encodeRow f f32One (fun _ => 0) 0 p
  exactElements f codes s8

/-- o plus the value product of a block, masked tokens adding +0 products; invalid products beside (R405, R407). -/
def valueSum (ps : List KvPage) (masked : List Bool) (p : List Val) (o : List Nat) : List Nat × Nat :=
  let outs := (ps.zipIdx).flatMap fun e => (List.range 64).map fun j =>
    let terms := (List.range 64).map fun t =>
      if masked.getD t true then (Val.zero, Val.zero) else (p.getD t .zero, (e.1.values.getD t []).getD j .zero)
    ((addLine 16 (f32Val e.1.vCoarse) (o.getD (64 * e.2 + j) 0) (lineProducts terms)).1,
      (terms.filter fun x => isInvalid x.1 x.2).length)
  (outs.map Prod.fst, (outs.map Prod.snd).foldl (· + ·) 0)

/-- One key block against one row, forward (R408); the row after it, and its invalid products. -/
def forwardBlock (r : AtRun) (ps : List KvPage) (masked : List Bool) (a : AtRow) : AtRow × Nat :=
  let sc := (List.range 64).map fun t =>
    if masked.getD t true then (negInf, 0)
    else
      let (v, n) := tokenSum KvPage.kCoarse KvPage.keys ps a.q t
      (f32Mul v r.smScale, n)
  let xs := sc.map Prod.fst
  let inv := (sc.map Prod.snd).foldl (· + ·) 0
  let m := xs.foldl f32Max a.m
  if m = negInf then (a, inv)
  else
    let al := f32Exp (f32Sub a.m m)
    let p := xs.map fun x => f32Exp (f32Sub x m)
    let l := f32Add (f32Mul a.l al) (laneSum64 p)
    let (o, n) := valueSum ps masked (encodeP r p) (a.o.map fun v => f32Mul v al)
    ({ a with m := m, l := l, o := o, poison := a.poison || ps.any fun x => x.key.poison || x.value.poison }, inv + n)

/-- p and ds of one row against one key block, their poison, and the invalid products (R413). -/
def backwardBlock (r : AtRun) (ps : List KvPage) (masked : List Bool) (a : AtRow) : List Nat × List Nat × Bool × Nat :=
  let es := (List.range 64).map fun t =>
    if masked.getD t true then (0, 0, 0)
    else
      let (sc, n) := tokenSum KvPage.kCoarse KvPage.keys ps a.q t
      let (dp, n') := tokenSum KvPage.vCoarse KvPage.values ps a.g t
      let p := f32Div (f32Exp (f32Sub (f32Mul sc r.smScale) a.m)) a.l
      (p, f32Mul (f32Mul p (f32Sub dp a.d)) r.smScale, n + n')
  (es.map Prod.fst, es.map fun e => e.2.1,
    a.poison || (masked.any (fun b => !b) && ps.any fun x => x.key.poison || x.value.poison),
    (es.map fun e => e.2.2).foldl (· + ·) 0)

/-! ### Rows in memory (R397) -/

def rowIndex (q : SeqRec) (h r : Nat) : Nat := h * q.qLen + r

/-- The exact elements of the slices of a row at an address. -/
def readSlices (k : Nat) (r : AtRun) (a : Nat) : M (List (List Val) × Bool) := do
  let n := recordBytes r.qFmt
  let d ← busRead (apWho k) a (r.slices * n)
  return ((List.range r.slices).map fun u =>
    let e := ofRecord r.qFmt (((d.map Prod.fst).drop (u * n)).take n) false
    exactElements r.qFmt e.codes e.s8, d.any Prod.snd)

/-- A query row as its pass fetches it. -/
def readAtRow (k : Nat) (r : AtRun) (q : SeqRec) (h i : Nat) : M AtRow := do
  let x := rowIndex q h i
  let (qs, p) ← readSlices k r (fld q.d 0x18 8 + x * r.qStride)
  let a : AtRow := { head := h, row := i, q := qs, o := List.replicate (64 * r.slices) 0, poison := p }
  if r.backward then
    let (gs, gp) ← readSlices k r (fld q.d 0x28 8 + x * r.qStride)
    let st ← busRead (apWho k) (fld q.d 0x30 8 + 16 * x) 12
    let b := st.map Prod.fst
    return { a with g := gs, m := fld b 0 4, l := fld b 4 4, d := fld b 8 4, poison := p || gp || st.any Prod.snd }
  else return a

def readAtRows (k : Nat) (r : AtRun) (q : SeqRec) : List (Nat × Nat) → M (List AtRow)
  | [] => return []
  | (h, i) :: rest => do
    let a ← readAtRow k r q h i
    let as ← readAtRows k r q rest
    return a :: as

/-- Counts the non-finite elements of an output. -/
def noteNonfinite (k : Nat) (xs : List Nat) : M Unit :=
  modify (bump (pgAttention k) Reg.AT_NONFINITE (xs.filter fun x => !(f32Val x).isFin).length)

/-- Writes one encoded output record. -/
def writeAtRecord (k : Nat) (r : AtRun) (co base a : Nat) (p : Bool) (xs : List Nat) : M Stats := do
  let s ← get
  let (e, st) := encodeVec r.oFmt co (draws s 3 r.tag r.sample r.pass) base p xs
  noteNonfinite k xs
  busWrite (apWho k) a (marked p (recordOf r.oFmt e))
  return st

/-- Writes the slices of a forward output row. -/
def writeSlices (k : Nat) (r : AtRun) (co base a : Nat) (p : Bool) : List (List Nat × Nat) → M Stats
  | [] => return {}
  | (xs, u) :: rest => do
    let st ← writeAtRecord k r co (base + 64 * u) (a + u * recordBytes r.oFmt) p xs
    let st' ← writeSlices k r co base a p rest
    return st.add st'

/-- A forward row is done (R409, R411). -/
def writeForward (k : Nat) (r : AtRun) (q : SeqRec) (co : Nat) (a : AtRow) : M Stats := do
  let x := rowIndex q a.head a.row
  let empty := (f32Val a.l).isZero
  let out := a.o.map fun v => if empty then 0 else f32Div v a.l
  if empty then modify (bump (pgAttention k) Reg.AT_EMPTY_ROWS 1)
  let st ← writeSlices k r co (x * 64 * r.slices) (fld q.d 0x20 8 + x * r.oStride) a.poison
    (piecesOfList 64 (out.length + 1) out).zipIdx
  if r.statsOut then
    busWrite (apWho k) (fld q.d 0x30 8 + 16 * x) (marked a.poison
      (leBytes 4 (if empty then negInf else a.m) ++ leBytes 4 (if empty then 0 else a.l)))
  return st

/-- Writes rows until one fails: counts so far, and the code. -/
def writeRows {α : Type} (f : α → M Stats) : List α → Stats → M (Stats × Nat)
  | [], st => return (st, 0)
  | a :: as, st => do
    match ← catchCode (f a) with
    | .error c => return (st, c)
    | .ok x => writeRows f as (st.add x)

/-! ### A pass (R398, R414, R417) -/

/-- The positions of key block b that are masked for a row. -/
def maskedRow (m : List Byte) (q : SeqRec) (sparse : List (Nat × Bool)) (b : Nat) (a : AtRow) : List Bool :=
  let sp := look false sparse ((q.qPos + a.row) / 64)
  (List.range 64).map fun t => sp || decide (q.kLen ≤ 64 * b + t) || causalMask m q a.row (64 * b + t)

/-- Every position of the block is masked by CAUSAL or SPARSE for every row of the pass. -/
def skipsBlock (m : List Byte) (q : SeqRec) (sparse : List (Nat × Bool)) (b : Nat) (rows : List AtRow) : Bool :=
  rows.all fun a => look false sparse ((q.qPos + a.row) / 64)
    || (List.range 64).all fun t => causalMask m q a.row (64 * b + t)

/-- Record i of a block of P or of dS; a row beyond the sequence's queries is a +0 record. -/
def writeBlockRow (k : Nat) (r : AtRun) (co a : Nat) (x : Option (List Nat × Bool)) : M Stats := do
  match x with
  | none =>
    busWrite (apWho k) a (clean (List.replicate (recordBytes r.oFmt) 0))
    return {}
  | some (p, bad) => writeAtRecord k r co 0 a bad p

/-- The P block and then the dS block of each of the pass's query blocks against key block b (R414). -/
def writeBlocks (k : Nat) (r : AtRun) (q : SeqRec) (co b : Nat) (outs : List (AtRow × List Nat × List Nat × Bool)) :
    List (Nat × Nat) → Stats → M (Stats × Nat)
  | [], st => return (st, 0)
  | (h, qb) :: rest, st => do
    let base := fld q.d 0x20 8 + ((h * q.nqb + qb) * q.nkb + b) * 128 * r.oStride
    let (st, c) ← writeRows (fun i => writeBlockRow k r co (base + i * r.oStride)
      ((outs.find? fun e => e.1.head == h && e.1.row == 64 * qb + i % 64).map fun e =>
        (if i < 64 then e.2.1 else e.2.2.1, e.2.2.2))) (List.range 128) st
    if c ≠ 0 then return (st, c) else writeBlocks k r q co b outs rest st

/-- The running descriptor as it goes on. -/
def putAtRun (k : Nat) (r : AtRun) : M Unit := do
  modPipe k fun x => { x with run := some r }
  modify (showPipe k)

/-- Work of a pass that fails with `c`: noted in the order of issue among the descriptor's writes. -/
def passFails (k c : Nat) : M Unit := noted (apWho k) (failWith c)

/-- A pass begins: its mask, its coarse scales, its query group. -/
def groupFetch (k : Nat) (r : AtRun) (p : AtPass) : M PassRun := do
  let w := apWho k
  let q : SeqRec := ⟨p.record⟩
  let m ← readMask k r q
  let cq ← readCoarse w r.qFmt (fld r.desc 0x30 8) r.slot
  let cv ← if r.backward then do pure (some (← readCoarse w r.qFmt (fld r.desc 0x70 8) r.slot)) else pure none
  let co ← readCoarse w r.oFmt r.oScale r.slot
  let rows ← readAtRows k r q (p.pairs.flatMap fun e =>
    ((List.range 64).map fun i => (e.1, 64 * e.2 + i)).filter fun x => decide (x.2 < q.qLen))
  modPipe k fun x => { x with rows := rows }
  return { mask := m, cq := cq, cv := cv, co := co }

/-- The pages of a key block that the pass does not skip, by the block table; none for a block that it skips. -/
def blockTable (k : Nat) (r : AtRun) (q : SeqRec) (x : PassRun) : M (Option (List (Nat × Nat))) := do
  let rows := (getPipe (← get) k).rows
  let sparse ← sparseRows k x.mask x.block (rows.map fun a => (q.qPos + a.row) / 64).eraseDups
  if skipsBlock x.mask q sparse x.block rows then return none
  else
    let t ← busRead (apWho k) (fld q.d 0x10 8 + x.block * r.slices * 8) (8 * r.slices)
    return some (vectorPages (t.map Prod.fst))

/-- A parity mismatch of a pass found in one of the arrays: the bank is not valid any more, the column is recorded, every
row of the pass is poisoned (R170, R383, log 79). -/
def pipeFault (k loads : Nat) (e : PipeParity) (s : State) : State :=
  let page := pgAttention k
  let a := e.array % 2
  let b := (loads + e.slice) % 2
  let v := rdAt s page Reg.AP_HA_BANK_VALID a
  let s := if bitOf v b then setBankValid page a (v - 2 ^ b) s else s
  let s := noteFault page a (e.columns.filter fun c => (servingColumns s page a).contains c) false s
  setPipe k { getPipe s k with rows := (getPipe s k).rows.map fun x => { x with poison := true } } s

/-- A key block's pages are read and meet the rows of the pass. -/
def meetBlock (k : Nat) (r : AtRun) (p : AtPass) (x : PassRun) (parity : Option PipeParity) : M PassRun := do
  let page := pgAttention k
  let q : SeqRec := ⟨p.record⟩
  let pins := (getPipe (← get) k).pins
  let ps ← readPages k r x.cq x.cv x.loads pins
  modify (bump page Reg.AT_KEY_BLOCKS 1)
  let fault := parity.filter fun e => e.block == x.block
  match fault with
  | some e => do
    modify (pipeFault k x.loads e)
    passFails k 0x0210
  | none => pure ()
  let x := { x with loads := x.loads + ps.length, fault := x.fault || fault.isSome }
  let rows := (getPipe (← get) k).rows
  let sparse ← sparseRows k x.mask x.block (rows.map fun a => (q.qPos + a.row) / 64).eraseDups
  let note := fun n : Nat => modify fun s =>
    if n = 0 then s else wr page Reg.AP_STATUS_INVALID 1 (bump page Reg.AT_INVALID n s)
  if r.backward then
    let outs := rows.map fun a => (a, backwardBlock r ps (maskedRow x.mask q sparse x.block a) a)
    note ((outs.map fun e => e.2.2.2.2).foldl (· + ·) 0)
    let (st, c) ← writeBlocks k r q x.co x.block (outs.map fun e => (e.1, e.2.1, e.2.2.1, e.2.2.2.1)) p.pairs x.stats
    if c ≠ 0 then passFails k c
    return { x with stats := st, code := c }
  else
    let outs := rows.map fun a => forwardBlock r ps (maskedRow x.mask q sparse x.block a) a
    note ((outs.map Prod.snd).foldl (· + ·) 0)
    modPipe k fun y => { y with rows := outs.map Prod.fst }
    return x

/-- Two adds of one operation as one. -/
def StatAdd.merge (a b : StatAdd) : StatAdd := { a with
  crushed := a.crushed + b.crushed, clipped := a.clipped + b.clipped, nonfinite := a.nonfinite + b.nonfinite
  flushed := a.flushed + b.flushed, overflow := a.overflow + b.overflow, zeroBlocks := a.zeroBlocks + b.zeroBlocks
  nanBlocks := a.nanBlocks + b.nanBlocks, amax := max a.amax b.amax, blocks := a.blocks + b.blocks
  hist := (List.range 16).map fun i => (i, look 0 a.hist i + look 0 b.hist i) }

/-- The add of an operation so far, with that of one more part. -/
def mergeAdds : List StatAdd → List StatAdd → List StatAdd
  | [a], [b] => [a.merge b]
  | [], bs => bs
  | as, _ => as

/-- A pass ends: its counts join the descriptor's add; one that fails is the descriptor's last. -/
def endPass (k : Nat) (r : AtRun) (ps : List AtPass) (x : PassRun) : M Unit := do
  let page := pgAttention k
  let c := if x.fault then 0x0210 else x.code
  let adds := match r.stats with
    | some step => if r.oFmt.stats then
        [statAdd page step (fld r.desc 0x40 8) (if r.oFmt.coarseOne then none else some r.oScale) x.stats] else []
    | none => []
  modify (bump page Reg.AT_PASSES 1)
  putAtRun k { r with cur := none, passes := if c = 0 then ps else [], code := c, adds := mergeAdds r.adds adds }

/-- The pass meets its next key block, or its rows are done and written. Answers whether the pass goes on. -/
def nextBlock (k : Nat) (r : AtRun) (p : AtPass) (ps : List AtPass) (x : PassRun) : M Bool := do
  let page := pgAttention k
  let q : SeqRec := ⟨p.record⟩
  if p.blocks ≤ x.block then
    let (st, c) ← if r.backward then pure (x.stats, 0)
      else writeRows (writeForward k r q x.co) (getPipe (← get) k).rows x.stats
    if c ≠ 0 then passFails k c
    endPass k r ps { x with stats := st, code := c }
    return false
  else if q.nkb ≤ x.block then
    modify fun s => bump page Reg.AT_PAD_BLOCKS 1 (bump page Reg.AT_KEY_BLOCKS 1 s)
    putAtRun k { r with cur := some { x with block := x.block + 1 } }
    return true
  else
    match ← catchCode (blockTable k r q x) with
    | .error c =>
      passFails k c
      putAtRun k { r with cur := some { x with code := c, stage := 2 } }
    | .ok none =>
      modify (bump page Reg.AT_SKIPPED_BLOCKS 1)
      putAtRun k { r with cur := some { x with block := x.block + 1 } }
    | .ok (some hs) => putAtRun k { r with cur := some { x with want := hs, stage := 1 } }
    return true

/-- The pages of the block are pinned one after another; once all are, the block is met (R444). -/
def pinBlock (k : Nat) (r : AtRun) (p : AtPass) (x : PassRun) (parity : Option PipeParity) : M Unit := do
  match x.want with
  | (h, serial) :: rest =>
    match ← codeOf (apToWellhead (h / 2 ^ 31 % 2) (pinPage (h / 2 ^ 31 % 2) h serial)) with
    | 0 =>
      modPipe k fun y => { y with pins := y.pins ++ [(h, serial)] }
      putAtRun k { r with cur := some { x with want := rest } }
    | c =>
      passFails k c
      putAtRun k { r with cur := some { x with code := c, stage := 2 } }
  | [] =>
    match ← catchCode (meetBlock k r p x parity) with
    | .error c =>
      passFails k c
      putAtRun k { r with cur := some { x with code := c, stage := 2 } }
    | .ok x => putAtRun k { r with cur := some { x with stage := 2 } }

/-- The pages of the block are unpinned one after another; then the next block, or the end of a pass that failed. -/
def unpinBlock (k : Nat) (r : AtRun) (ps : List AtPass) (x : PassRun) : M Bool := do
  match (getPipe (← get) k).pins with
  | (h, serial) :: rest =>
    let _ ← codeOf (apToWellhead (h / 2 ^ 31 % 2) (unpinPage (h / 2 ^ 31 % 2) h serial))
    modPipe k fun y => { y with pins := rest }
    putAtRun k r
    return true
  | [] =>
    if x.code ≠ 0 then
      endPass k r ps x
      return false
    else
      putAtRun k { r with cur := some { x with stage := 0, block := x.block + 1 } }
      return true

/-- One step of the next pass of the running descriptor. Answers whether the pass goes on. -/
def passStep (k : Nat) (parity : Option PipeParity) : M Bool := do
  match (getPipe (← get) k).run with
  | none => throw .hold
  | some r =>
    match r.passes, r.cur with
    | [], _ => throw .hold
    | p :: ps, none =>
      waitFor (r.code == 0)
      if p.pairs.isEmpty then
        match ← catchCode (readSeq k r p.seq) with
        | .error c =>
          passFails k c
          putAtRun k { r with passes := [], code := c }
          return false
        | .ok q =>
          putAtRun k { r with passes := seqPasses r q.nkb (p.seq, q) ++ ps }
          return true
      else
        match ← catchCode (groupFetch k r p) with
        | .error c =>
          passFails k c
          endPass k r ps { mask := [], cq := 0, cv := none, co := 0, code := c }
          return false
        | .ok x =>
          putAtRun k { r with cur := some x }
          return true
    | p :: ps, some x =>
      if x.stage = 0 then nextBlock k r p ps x
      else if x.stage = 1 then
        pinBlock k r p x parity
        return true
      else unpinBlock k r ps x

/-- Steps of a pass, until it ends or must wait; what it did before it waits stands. -/
def passSteps (k : Nat) (parity : Option PipeParity) : Nat → State → State
  | 0, s => s
  | n + 1, s =>
    match runM (passStep k parity) s with
    | (.ok true, t) => passSteps k parity n (forgetArrived (apWho k) t)
    | (.ok false, t) => forgetArrived (apWho k) t
    | (.error _, _) => attempt (apWho k) (do let _ ← passStep k parity) s

/-- Steps enough for the next pass: a pass of n blocks takes at most 10 for each, and two more. -/
def passFuel (s : State) (k : Nat) : Nat :=
  match (getPipe s k).run with
  | some { passes := p :: _, .. } => 11 * (max p.blocks 16384 + 2)
  | _ => 1

/-- AT_PASS: the next pass of the running descriptor, as far as it need not wait. -/
def atPass (k : Nat) (parity : Option PipeParity) (s : State) : State :=
  if 256 ≤ k then s
  else if look false s.gated k then startWake k s
  else passSteps k parity (passFuel s k) s

def execAtPass (drive : PassDrive) (s : State) : Host.Outcome State Fault Refusal :=
  whileOn s (atPass drive.cluster drive.parity s)

/-- The lock of a pipeline's domain sends UNPIN for every page that the pipeline holds pinned, as a command to the port
of its Wellhead (R430, R445). The requests are the Lockkeeper's: the pipeline need not respond. -/
def returnWho (k : Nat) : Who := ⟨pgLockkeeper, 1 + k⟩

def unpinBytes (h serial : Nat) : List Byte := leBytes 2 6 ++ leBytes 2 serial ++ leBytes 4 h ++ leBytes 24 0

/-- One of them: a Wellhead that the same lock closes has it at once, among the commands that it still answers. -/
def returnPin (k : Nat) (s : State) (e : Nat × Nat) : State :=
  let n := e.1 / 2 ^ 31 % 2
  if lockState s (pgWellhead n) = 1 then
    showWellhead n { s with whq := put [] s.whq n (look [] s.whq n ++ [unpinBytes e.1 e.2]) }
  else attempt (returnWho k) (post (returnWho k) (regBase + 0x10000 + pgWellhead n * 0x1000 + 0x600)
    (clean (unpinBytes e.1 e.2))) s

def returnPins (k : Nat) (s : State) : State :=
  let s := (getPipe s k).pins.foldl (returnPin k) s
  showPipe k (setPipe k { getPipe s k with pins := [] } s)

/-! ### Completion (R389 to R391) -/

/-- The completion entry of a unit that runs descriptors: index, opcode, code, tag, step, cycles (R242, R390). -/
def unitEntry (index opc code tag step cycles : Nat) : List Byte :=
  leBytes 2 index ++ leBytes 1 0 ++ leBytes 1 opc ++ leBytes 2 code ++ leBytes 2 tag ++ leBytes 4 step
    ++ leBytes 4 (min cycles 0xFFFFFFFF)

def atAdds (k : Nat) (s : State) : List StatAdd :=
  match (getPipe s k).run with
  | some r => if r.passes.isEmpty then r.adds else []
  | none => []

def dropAtAdd (k : Nat) (s : State) : State :=
  match (getPipe s k).run with
  | some r => setPipe k { getPipe s k with run := some { r with adds := r.adds.drop 1 } } s
  | none => s

/-- The running descriptor still owes an add to step `t` (R320). -/
def Pipe.owesAdd (x : Pipe) (t : Nat) : Bool := x.run.any fun r => r.stats == some t

/-- AT_DESC_COMPLETE: the descriptor's passes are done, its writes and its add acknowledged; its code is that of the
access issued first among those that failed (R201, R930). -/
def atComplete (k cycles : Nat) : M Unit := do
  let s ← get
  let page := pgAttention k
  let x := getPipe s k
  match x.run with
  | none => throw .hold
  | some r =>
    waitFor (r.passes.isEmpty && r.adds.isEmpty)
    let wc ← codeOf (acknowledged (apWho k))
    let c := if wc ≠ 0 then wc else r.code
    if c = 0 ∧ fld r.desc 0x60 8 ≠ 0 then busAdd (apSignal k) (fld r.desc 0x60 8) (fld r.desc 0x5C 4)
    if c ≠ 0 ∨ r.complete then
      let n ← gets fun s => rd s page Reg.AP_COMP_COUNT
      let _ ← codeOf (busWrite (apSignal k) (x.comp + 16 * (n % x.compLen))
        (clean (unitEntry r.index (0x40 + r.mode) c r.tag r.pass cycles)))
      modify (wr page Reg.AP_COMP_COUNT (n + 1))
    modPipe k fun x => { x with run := none }
    modify fun s =>
      let s := wr page Reg.AP_STATUS_FALLBACK 0 (bump page Reg.AT_PROGRESS 1 s)
      if c ≠ 0 then haltPipe k c r.tag s
      else if r.index + 1 < x.count then wr page Reg.AP_PC (r.index + 1) s
      else apBoundary k s

/-- Offers the counts of a descriptor whose passes are done, then completes it. -/
def atFinish (k cycles : Nat) (s : State) : State :=
  apCommand k (atComplete k cycles)
    (if 256 ≤ k || look false s.gated k then s else offerLeft (apWho k) (atAdds k) (dropAtAdd k) 1 s)

def execAtDescComplete (cluster cycles : Nat) (s : State) : Host.Outcome State Fault Refusal :=
  whileOn s (atFinish cluster cycles s)

end Sys2Proof.Machine
end

