-- ==== Sys2Proof/Machine/Handpump.lean ====
section
/-! DEFINITION. Handpumps: programs, small-channel convolution, weight gradients, crop-and-resize (Convolution, Pooling
and Resampling). -/

namespace Sys2Proof.Machine

def getHp (s : State) (h : Nat) : Pipe := look {} s.hpipes h
def setHp (h : Nat) (x : Pipe) (s : State) : State := { s with hpipes := put {} s.hpipes h x }
def modHp (h : Nat) (f : Pipe → Pipe) : M Unit := modify fun s => setHp h (f (getHp s h)) s
def hpWho (h : Nat) : Who := ⟨pgHandpump h, 0⟩
def hpSignal (h : Nat) : Who := ⟨pgHandpump h, 1⟩
def hpState (s : State) (h : Nat) : Nat := rd s (pgHandpump h) Reg.HP_STATUS_STATE
def setHpState (h v : Nat) (s : State) : State := wr (pgHandpump h) Reg.HP_STATUS_STATE v s

/-! ### Start, stop, halt (R469) -/

/-- Halts a handpump with a code. -/
def haltHp (h code tag : Nat) (s : State) : State :=
  let page := pgHandpump h
  let s := logErr page code tag s
  if hpState s h = 3 then s
  else
    let s := if hpState s h = 1 then vetoStep (rd s page Reg.HP_STEP) 0x0621 s else s
    let s := setHp h { getHp s h with stopping := false, starting := false, run := none } s
    let s := wr page Reg.HP_CTRL_START 0 (wr page Reg.HP_CTRL_STOP 0 s)
    raiseBit page 4 (wr page Reg.HP_STATUS_HALT_CODE code (setHpState h 3 s))

/-- A header field breaks its alignment or range, or the list passes the end of the store. -/
def hpHeaderBad (d : List Byte) : Bool :=
  let n := fld d 4 4
  fld d 0 4 % 64 != 0 || n == 0 || decide (170 < n) || fld d 8 8 % 16 != 0
    || !(List.range 13).any (fun k => decide (4 ≤ k) && fld d 0x10 4 == 2 ^ k)
    || decide (32768 < fld d 0 4 + 192 * n)

/-- START takes effect: the handpump stands at a step boundary with its header loaded, or it halts. -/
def startHp (h : Nat) (s : State) : State :=
  let page := pgHandpump h
  let x := getHp s h
  let d := storeBytes x.store x.header 64
  let s := setHp h { x with
    stopping := false, starting := false, fresh := true, loaded := true, run := none
    list := fld d 0 4, count := fld d 4 4, comp := fld d 8 8, compLen := fld d 0x10 4 } s
  let s := wr page Reg.HP_CTRL_START 0 (wr page Reg.HP_CTRL_STOP 0 (wr page Reg.HP_STATUS_HALT_CODE 0 s))
  let s := { s with gen := { s.gen with finished := put 0 s.gen.finished page 0 } }
  let s := wr page Reg.HP_PC 0 (setHpState h 2 s)
  if 32768 < x.header + 64 ∨ hpHeaderBad d then haltHp h 0x0189 0 s else s

/-- A write of `HP_CTRL.START`. -/
def hpStart (h : Nat) (s : State) : State :=
  let page := pgHandpump h
  if 32 ≤ h ∨ !writable s page ∨ isSet s page Reg.HP_CTRL_START then s
  else if hpState s h = 1 then wr page Reg.HP_CTRL_START 1 (setHp h { getHp s h with starting := true } s)
  else startHp h s

def execHpStart (handpump : Nat) (s : State) : Host.Outcome State Fault Refusal := whileOn s (hpStart handpump s)

/-- A write of `HP_CTRL.STOP`. -/
def hpStop (h : Nat) (s : State) : State :=
  let page := pgHandpump h
  if 32 ≤ h ∨ !writable s page ∨ isSet s page Reg.HP_CTRL_STOP then s
  else if hpState s h = 2 then setHpState h 0 (setHp h { getHp s h with loaded := false } s)
  else wr page Reg.HP_CTRL_STOP 1 (setHp h { getHp s h with stopping := true } s)

def execHpStop (handpump : Nat) (s : State) : Host.Outcome State Fault Refusal := whileOn s (hpStop handpump s)

/-- The handpump's list is done: its step boundary. -/
def hpBoundary (h : Nat) (s : State) : State :=
  let page := pgHandpump h
  let s := wr page Reg.HP_PC 0 (setHpState h 2 (finishStep page (rd s page Reg.HP_STEP) s))
  let x := getHp s h
  if x.starting then startHp h s
  else if x.stopping then
    wr page Reg.HP_CTRL_STOP 0 (setHpState h 0 (setHp h { x with stopping := false, loaded := false } s))
  else s

/-! ### The descriptor (R470, R485) -/

/-- A handpump descriptor. -/
structure HdDesc where
  d : List Byte
deriving DecidableEq, Repr

def HdDesc.ctrl (x : HdDesc) : Nat := fld x.d 0 4
def HdDesc.mb (x : HdDesc) : Nat := bitsOf x.ctrl 0 8
def HdDesc.complete (x : HdDesc) : Bool := bitOf x.ctrl 8
def HdDesc.op (x : HdDesc) : Nat := bitsOf x.ctrl 9 2
def HdDesc.act (x : HdDesc) : Nat := bitsOf x.ctrl 11 3
def HdDesc.tag (x : HdDesc) : Nat := bitsOf x.ctrl 16 16
def HdDesc.inFmt (x : HdDesc) : FormatWord := FormatWord.ofNat (fld x.d 0x1C 4)
def HdDesc.wFmt (x : HdDesc) : FormatWord := FormatWord.ofNat (fld x.d 0x54 4)
def HdDesc.outFmt (x : HdDesc) : FormatWord := FormatWord.ofNat (fld x.d 0x70 4)
/-- Width, height, depth: 0, 1, 2. -/
def HdDesc.size (x : HdDesc) (i : Nat) : Nat := fld x.d (0x40 + 2 * i) 2
def HdDesc.cin (x : HdDesc) : Nat := fld x.d 0x46 2
def HdDesc.cout (x : HdDesc) : Nat := fld x.d 0x48 2
def HdDesc.taps (x : HdDesc) (i : Nat) : Nat := fld x.d (0x4A + i) 1
def HdDesc.stride (x : HdDesc) (i : Nat) : Nat := fld x.d (0x4D + i) 1
def HdDesc.pad (x : HdDesc) (i : Nat) : Nat := fld x.d (0x50 + i) 1
/-- Output size along an axis; the division truncates toward zero (R473, 00_scope.md). -/
def HdDesc.outSize (x : HdDesc) (i : Nat) : Nat :=
  (((x.size i + 2 * x.pad i : Nat) : Int) - x.taps i |>.tdiv (x.stride i) |> (· + 1)).toNat
def HdDesc.allTaps (x : HdDesc) : Nat := x.taps 0 * x.taps 1 * x.taps 2
/-- Elements of a weight row. -/
def HdDesc.rowLen (x : HdDesc) : Nat := x.allTaps * x.cin
/-- Output positions in raster order: t, y, x. -/
def HdDesc.positions (x : HdDesc) : List (Nat × Nat × Nat) :=
  (List.range (x.outSize 2)).flatMap fun t => (List.range (x.outSize 1)).flatMap fun y =>
    (List.range (x.outSize 0)).map fun w => (t, y, w)
/-- Taps in order dt, dy, dx. -/
def HdDesc.tapList (x : HdDesc) : List (Nat × Nat × Nat) :=
  (List.range (x.taps 2)).flatMap fun t => (List.range (x.taps 1)).flatMap fun y =>
    (List.range (x.taps 0)).map fun w => (t, y, w)

/-- The checks of R485 before any read. CROP uses no weight scale record (R101). -/
def HdDesc.check (x : HdDesc) (at_ : Nat) : Option Nat :=
  let conv := x.op != 1
  let axes := [0, 1, 2]
  if at_ % 64 ≠ 0 then some 0x0180
  else
    let f := (formatCheck x.inFmt (some (fld x.d 0x28 8)) none).or ((formatCheck x.wFmt (if conv then some (fld x.d 0x60 8) else none) none).or
      (formatCheck x.outFmt (some (fld x.d 0x80 8)) (some (fld x.d 0x88 8))))
    f.or (
      if x.op = 3 ∨ 5 < x.act ∨ bitsOf x.ctrl 14 2 ≠ 0 ∨ fld x.d 0x3C 4 ≠ 0 ∨ fld x.d 0x53 1 ≠ 0 ∨ fld x.d 0xB2 2 ≠ 0
          ∨ [0x1C, 0x54, 0x70].any (fun o => fld x.d o 4 / 2 ^ 14 != 0) then
        some 0x0184
      else if x.taps 0 = 0 ∨ 15 < x.taps 0 ∨ x.taps 1 = 0 ∨ 15 < x.taps 1 ∨ x.taps 2 = 0 ∨ 7 < x.taps 2 then some 0x0181
      else if x.size 0 = 0 ∨ 16384 < x.size 0 ∨ x.size 1 = 0 ∨ 16384 < x.size 1 ∨ x.size 2 = 0 ∨ 4096 < x.size 2
          ∨ x.cin = 0 ∨ 4096 < x.cin ∨ (conv ∧ (x.cout = 0 ∨ 4096 < x.cout))
          ∨ axes.any (fun i => x.stride i == 0 || decide (15 < x.stride i) || decide (x.taps i ≤ x.pad i) || x.outSize i == 0)
        then some 0x0182
      else if conv ∧ 8 < x.cin ∧ 8 < x.cout then some 0x0186
      else if !conv ∧ (fld x.d 0xA0 4 = 0 ∨ 4096 < fld x.d 0xA0 4 ∨ fld x.d 0xA4 2 = 0 ∨ 64 < fld x.d 0xA4 2
          ∨ fld x.d 0xA6 2 = 0 ∨ 64 < fld x.d 0xA6 2 ∨ fld x.d 0x98 8 % 32 ≠ 0) then some 0x0187
      else none)

/-! ### Operands -/

/-- An address a sum of signed steps away. -/
def stepped (a : Nat) (i : Int) : Nat := (((a : Int) + i) % 2 ^ 64).toNat

/-- Which of `n` elements are taken from a poisoned unit: their codes lie from byte 0 of `bad`, their S8 bytes from byte
`at_` (R476). -/
def elementBad (f : FormatWord) (n at_ : Nat) (bad : List Bool) : List Bool :=
  (List.range n).map fun i =>
    ((bad.drop (i * f.format.bits / 8)).take (((i + 1) * f.format.bits + 7) / 8 - i * f.format.bits / 8)).any id
      || (f.format.blockScaled && bad.getD (at_ + i / f.block) false)

/-- The records of a position of `c` channels: element values, each with its poison. -/
def readPosition {α : Type} (h : Nat) (f : FormatWord) (c a : Nat) (conv : Encoded → List α) : M (List (α × Bool)) := do
  let n := recordBytes f
  let k := (c + 63) / 64
  let d ← busRead (hpWho h) a (k * n)
  return ((List.range k).flatMap fun i =>
    let r := (d.drop (i * n)).take n
    (conv (ofRecord f (r.map Prod.fst) false)).zip
      (elementBad f 64 (f.format.bytesFor 64) (r.map Prod.snd))).take c

/-- The input position that a tap of an output position reads; none outside the input (R473). -/
def HdDesc.inputAt (x : HdDesc) (o tap : Nat × Nat × Nat) : Option Nat :=
  let p := fun i (v w : Nat) => ((v * x.stride i + w : Nat) : Int) - x.pad i
  let t := p 2 o.1 tap.1
  let y := p 1 o.2.1 tap.2.1
  let w := p 0 o.2.2 tap.2.2
  if t < 0 ∨ (x.size 2 : Int) ≤ t ∨ y < 0 ∨ (x.size 1 : Int) ≤ y ∨ w < 0 ∨ (x.size 0 : Int) ≤ w then none
  else some (stepped (fld x.d 0x20 8) (t * sfld x.d 0x38 + y * sfld x.d 0x34 + w * sfld x.d 0x30))

/-- The address of an output position at base `a`. -/
def HdDesc.outAt (x : HdDesc) (a : Nat) (o : Nat × Nat × Nat) : Nat :=
  stepped a (o.1 * sfld x.d 0x7C + o.2.1 * sfld x.d 0x78 + o.2.2 * sfld x.d 0x74)

/-- The input elements of all taps of an output position, none where the position lies outside. -/
def gatherTaps (h : Nat) (x : HdDesc) (o : Nat × Nat × Nat) : List (Nat × Nat × Nat) → M (List (Option Val) × Bool)
  | [] => return ([], false)
  | tap :: taps => do
    let (vs, p) ← match x.inputAt o tap with
      | none => pure (List.replicate x.cin none, false)
      | some a => do
        let vs ← readPosition h x.inFmt x.cin a fun e => exactElements x.inFmt e.codes e.s8
        pure (vs.map fun e => some e.1, vs.any Prod.snd)
    let (rest, q) ← gatherTaps h x o taps
    return (vs ++ rest, p || q)

/-- Bytes of a weight row: codes padded to 4, S8 bytes, padded to 64 (R471). -/
def weightRow (f : FormatWord) (codes s8 : List Nat) : List Byte :=
  let c := packCodes f.format codes
  let c := padTo ((c.length + 3) / 4 * 4) c
  let r := c ++ (if f.format.blockScaled then s8.map byteOf else [])
  padTo ((r.length + 63) / 64 * 64) r

/-- Where the S8 bytes of a weight row of n elements begin, and its length. -/
def weightRowSizes (f : FormatWord) (n : Nat) : Nat × Nat :=
  let c := (f.format.bytesFor n + 3) / 4 * 4
  (c, (c + (if f.format.blockScaled then blockCount n f.block else 0) + 63) / 64 * 64)

/-- Weight row o as exact elements, and whether one was poisoned. -/
def readWeights (h : Nat) (x : HdDesc) (slot : Nat) : List Nat → M (List (List Val × Bool))
  | [] => return []
  | o :: os => do
    let f := x.wFmt
    let n := x.rowLen
    let (c, size) := weightRowSizes f n
    let d ← busRead (hpWho h) (fld x.d 0x58 8 + slot * fld x.d 0xB4 4 + o * size) size
    let bs := d.map Prod.fst
    let s8 := if f.format.blockScaled then ((bs.drop c).take (blockCount n f.block)).map BitVec.toNat else []
    let ws ← readWeights h x slot os
    return (exactElements f (unpackCodes f.format n bs) s8, (elementBad f n c (d.map Prod.snd)).any id) :: ws

/-- The sum of products in groups of 16 from +0; a position outside gives a +0 product (R473). Invalid products beside. -/
def sumProducts (cab : Nat) (xs : List (Option Val)) (ws : List Val) : Nat × Nat :=
  let terms := xs.zip ws
  let ps := terms.map fun e => match e.1 with
    | some v => v.mul e.2
    | none => .zero
  ((addLine 16 (f32Val cab) 0 ps).1, (terms.filter fun e => match e.1 with
    | some v => isInvalid v e.2
    | none => false).length)

/-- Counts the invalid products and the products formed, and keeps the sums in the accumulator (R468, R477, R492). -/
def noteHp (h invalid products : Nat) (sums : List Nat) : M Unit := do
  modHp h fun u => { u with sums := let l := u.sums ++ sums; l.drop (l.length - 512) }
  modify fun s =>
    let page := pgHandpump h
    let s := bump page Reg.HP_PRODUCTS products s
    if invalid = 0 then s else wr page Reg.HP_STATUS_INVALID 1 (bump page Reg.HP_INVALID invalid s)

/-- Counts the non-finite elements among those written, as they are encoded (R477). -/
def noteWritten (h : Nat) (f : FormatWord) (codes s8 : List Nat) : M Unit :=
  modify (bump (pgHandpump h) Reg.HP_NONFINITE ((exactElements f codes s8).filter fun v => !v.isFin).length)

/-- Writes the records of an output position whose first element is number `base`; each comes with its 64 channels' values
and poison. -/
def writePosition (h : Nat) (x : HdDesc) (rnd : Nat → Nat) (co base a : Nat) : List (List (Nat × Bool) × Nat) → M Stats
  | [] => return {}
  | (xs, u) :: rest => do
    let p := xs.any Prod.snd
    let (e, st) := encodeVec x.outFmt co rnd (base + 64 * u) p (xs.map Prod.fst)
    noteWritten h x.outFmt e.codes e.s8
    busWrite (hpWho h) (a + u * recordBytes x.outFmt) (marked p (recordOf x.outFmt e))
    let st' ← writePosition h x rnd co base a rest
    return st.add st'

/-! ### CONV (R473) -/

/-- What the whole of a descriptor uses: coarse product, output coarse scale, weights, biases, random values. -/
structure HdWork where
  cab : Nat
  co : Nat
  weights : List (List Val × Bool) := []
  /-- Biases, each with its poison. -/
  bias : Option (List (Nat × Bool)) := none
deriving DecidableEq, Repr

def convPosition (h : Nat) (x : HdDesc) (w : HdWork) (rnd : Nat → Nat) (e : (Nat × Nat × Nat) × Nat) : M Stats := do
  let (xs, p) ← gatherTaps h x e.1 x.tapList
  let sums := w.weights.map fun r => sumProducts w.cab xs r.1
  noteHp h ((sums.map Prod.snd).foldl (· + ·) 0) (x.rowLen * x.cout) (sums.map Prod.fst)
  let ys := ((sums.map Prod.fst).zip (w.weights.map Prod.snd)).zipIdx.map fun r =>
    match w.bias with
    | some b => (activation x.act (f32Add r.1.1 (b.getD r.2 (0, false)).1), p || r.1.2 || (b.getD r.2 (0, false)).2)
    | none => (activation x.act r.1.1, p || r.1.2)
  writePosition h x rnd w.co (e.2 * x.cout) (x.outAt (fld x.d 0x68 8) e.1) (piecesOfList 64 (ys.length + 1) ys).zipIdx

/-! ### WGRAD (R474). The output gradient takes the weight format word and scale record (log 44). -/

/-- Reads the output gradients, each with its poison, and the gathered inputs of every position. -/
def gatherAll (h : Nat) (x : HdDesc) :
    List (Nat × Nat × Nat) → M (List (List (Option Val) × List (Val × Bool)) × Bool)
  | [] => return ([], false)
  | o :: os => do
    let (xs, p) ← gatherTaps h x o x.tapList
    let gs ← readPosition h x.wFmt x.cout (x.outAt (fld x.d 0xB8 8) o) fun e => exactElements x.wFmt e.codes e.s8
    let (rest, r) ← gatherAll h x os
    return ((xs, gs) :: rest, p || r)

/-- Row o of the weight gradient; it takes the inputs of all positions and their gradients of channel o. -/
def wgradRow (h : Nat) (x : HdDesc) (w : HdWork) (rnd : Nat → Nat) (all : List (List (Option Val) × List (Val × Bool)))
    (bad : Bool) (o : Nat) : M Stats := do
  let n := x.rowLen
  let grads := all.map fun e => e.2.getD o (.zero, false)
  let gs := grads.map Prod.fst
  let bad := bad || grads.any Prod.snd
  let outs := (List.range n).map fun k => sumProducts w.cab (all.map fun e => (e.1.getD k none)) gs
  let ys := outs.map Prod.fst
  noteHp h ((outs.map Prod.snd).foldl (· + ·) 0) (n * all.length) ys
  let (s8, codes, st) := encodeRow x.outFmt w.co rnd (o * n) ys
  noteWritten h x.outFmt codes s8
  busWrite (hpWho h) (fld x.d 0x68 8 + o * (weightRowSizes x.outFmt n).2) (marked bad (weightRow x.outFmt codes s8))
  return st

/-! ### CROP (R479 to R483) -/

/-- floor of a nonnegative F32 pattern. -/
def f32Floor (b : Nat) : Nat :=
  match f32Val b with
  | .fin _ m e => shiftLeft m e
  | _ => 0

/-- The source coordinate of output index i of n along an axis (R480). -/
def cropCoord (c0 c1 n i : Nat) : Nat :=
  if n = 1 then f32Mul (f32Add c0 c1) f32Half
  else f32Add c0 (f32Mul (f32OfNat i) (f32Div (f32Sub c1 c0) (f32OfNat (n - 1))))

/-- The coordinate lies from 0 to n - 1. -/
def inImage (n c : Nat) : Bool := (Val.zero.le (f32Val c)) && ((f32Val c).le (Val.ofNat (n - 1)))

def lerp (a b f : Nat) : Nat := f32Add a (f32Mul (f32Sub b a) f)

/-- One output pixel: its channels, each with its poison (R481). -/
def cropPixel (h : Nat) (x : HdDesc) (coarse img y v : Nat) : M (List (Nat × Bool)) := do
  if !inImage (x.size 1) y || !inImage (x.size 0) v then
    return List.replicate x.cin (fld x.d 0xA8 4, false)
  else
    let yl := f32Floor y
    let xl := f32Floor v
    let yh := min (yl + 1) (x.size 1 - 1)
    let xh := min (xl + 1) (x.size 0 - 1)
    let fy := f32Sub y (f32OfNat yl)
    let fx := f32Sub v (f32OfNat xl)
    let at_ := fun a b => readPosition h x.inFmt x.cin
      (stepped (fld x.d 0x20 8 + img * fld x.d 0xAC 4) ((a : Nat) * sfld x.d 0x34 + (b : Nat) * sfld x.d 0x30))
      fun e => decodeVec x.inFmt coarse e
    let a ← at_ yl xl
    let b ← at_ yl xh
    let c ← at_ yh xl
    let d ← at_ yh xh
    let mix := fun (f : Nat) (e : (Nat × Bool) × Nat × Bool) => (lerp e.1.1 e.2.1 f, e.1.2 || e.2.2)
    return (((a.zip b).map (mix fx)).zip ((c.zip d).map (mix fx))).map (mix fy)

/-- One output pixel of box n is computed and written. -/
def cropOut (h : Nat) (x : HdDesc) (w : HdWork) (rnd : Nat → Nat) (n img : Nat) (bad : Bool) (c : List Nat) (p : Nat × Nat) :
    M Stats := do
  let oh := fld x.d 0xA4 2
  let ow := fld x.d 0xA6 2
  let ys ← if bad then pure (List.replicate x.cin (fld x.d 0xA8 4, false))
    else cropPixel h x w.cab img (cropCoord (c.getD 0 0) (c.getD 2 0) oh p.1) (cropCoord (c.getD 1 0) (c.getD 3 0) ow p.2)
  writePosition h x rnd w.co (((n * oh + p.1) * ow + p.2) * x.cin) (x.outAt (fld x.d 0x68 8) (n, p.1, p.2))
    (piecesOfList 64 (ys.length + 1) ys).zipIdx

/-- All pixels of box n (R479, R482). -/
def cropBox (h : Nat) (x : HdDesc) (w : HdWork) (rnd : Nat → Nat) (n : Nat) : M Stats := do
  let d := (← busRead (hpWho h) (fld x.d 0x98 8 + 32 * n) 32).map Prod.fst
  let c := (List.range 4).map fun i => fld d (4 + 4 * i) 4
  let img := fld d 0 4
  let bad := c.any (fun v => !(f32Val v).isFin) || decide (fld x.d 0xB0 2 ≤ img)
  modify fun s =>
    let s := bump (pgHandpump h) Reg.HP_BOXES 1 s
    if bad then bump (pgHandpump h) Reg.HP_BAD_BOXES 1 s else s
  let pixels := (List.range (fld x.d 0xA4 2)).flatMap fun y => (List.range (fld x.d 0xA6 2)).map fun v => (y, v)
  let (st, code) ← writeRows (cropOut h x w rnd n img bad c) pixels {}
  refuseIf (code != 0) code
  return st

/-! ### Running a descriptor (R387, R388, R469) -/

/-- A handpump at its boundary begins its pass of the next step, when the operation of its first descriptor is one that
`mine` takes. -/
def hpPassBegin (h : Nat) (mine : Nat → Bool) (s : State) : State :=
  let page := pgHandpump h
  let x := getHp s h
  if hpState s h ≠ 2 || !mine (HdDesc.mk (storeBytes x.store x.list 192)).op then s
  else match nextPass s x.fresh (rd s page Reg.HP_STEP) with
    | none => s
    | some step =>
      joinStep page step (wr page Reg.HP_STEP step (wr page Reg.HP_PC 0
        (setHpState h 1 (setHp h { x with fresh := false } s))))

/-- The coarse scales, weights and biases of a descriptor. -/
def hpOperands (h : Nat) (x : HdDesc) (slot : Nat) : M HdWork := do
  let w := hpWho h
  let ci ← readCoarse w x.inFmt (fld x.d 0x28 8) slot
  let cw ← if x.op = 1 then pure f32One else readCoarse w x.wFmt (fld x.d 0x60 8) slot
  let co ← readCoarse w x.outFmt (fld x.d 0x80 8) slot
  if x.op = 0 then
    let ws ← readWeights h x slot (List.range x.cout)
    let b ← if fld x.d 0x90 8 = 0 then pure none else do
      let d ← busRead w (fld x.d 0x90 8) (4 * x.cout)
      pure (some ((unpackCodes .f32 x.cout (d.map Prod.fst)).zip
        ((List.range x.cout).map fun i => ((d.drop (4 * i)).take 4).any Prod.snd)))
    return ⟨coarseProduct ci cw, co, ws, b⟩
  else return ⟨if x.op = 1 then ci else coarseProduct ci cw, co, [], none⟩

/-- What a descriptor computes and writes: counts, and its failing code. -/
def hpCompute (h : Nat) (x : HdDesc) (w : HdWork) (rnd : Nat → Nat) : M (Stats × Nat) := do
  match x.op with
  | 0 => writeRows (convPosition h x w rnd) x.positions.zipIdx {}
  | 1 => writeRows (cropBox h x w rnd) (List.range (fld x.d 0xA0 4)) {}
  | _ =>
    match ← catchCode (gatherAll h x x.positions) with
    | .error c => return ({}, c)
    | .ok (all, bad) => writeRows (wgradRow h x w rnd all bad) (List.range x.cout) {}

/-- Runs the next descriptor when its operation is one that `mine` takes. -/
def hpWork (h : Nat) (mine : Nat → Bool) : M Unit := do
  let s ← get
  let page := pgHandpump h
  let u := getHp s h
  waitFor (hpState s h == 1 && u.run.isNone)
  let at_ := u.list + 192 * rd s page Reg.HP_PC
  let x : HdDesc := ⟨storeBytes u.store at_ 192⟩
  waitFor (mine x.op)
  if x.mb ≠ 0xFF then waitFor (bindOf s page x.mb).isSome
  let wait := fld x.d 8 8
  if wait ≠ 0 then
    match ← catchCode (busReadNat (hpWho h) wait 4) with
    | .ok (v, _) => waitFor (decide (fld x.d 4 4 ≤ v))
    | .error _ => pure ()
  let pass := rd s page Reg.HP_STEP
  let r : AtRun := {
    desc := x.d, index := rd s page Reg.HP_PC, slot := readSlot s page x.mb, sample := sampleBase s page x.mb, pass := pass
    stats := statsStep s page x.mb pass }
  match ← catchCode (do
      if wait ≠ 0 then let _ ← busReadNat (hpWho h) wait 4
      refuseSome (x.check at_)
      hpOperands h x r.slot) with
  | .error c => modHp h fun u => { u with run := some { r with code := c } }
  | .ok w =>
    let (st, c) ← hpCompute h x w (draws s 4 x.tag r.sample pass)
    if c ≠ 0 then noted (hpWho h) (failWith c)
    let adds := match r.stats with
      | some step => if x.outFmt.stats then
          [statAdd page step (fld x.d 0x88 8) (if x.outFmt.coarseOne then none else some (fld x.d 0x80 8)) st] else []
      | none => []
    modHp h fun u => { u with run := some { r with code := c, adds := adds } }

def hpCommand (h : Nat) (m : M Unit) (s : State) : State := if 32 ≤ h then s else attempt (hpWho h) m s

/-- Begins the pass where the handpump stands at its boundary, then runs the descriptor. -/
def hpRun (h : Nat) (mine : Nat → Bool) (s : State) : State :=
  hpCommand h (hpWork h mine) (if 32 ≤ h then s else hpPassBegin h mine s)

def execConv (handpump : Nat) (s : State) : Host.Outcome State Fault Refusal :=
  whileOn s (hpRun handpump (fun o => o == 0 || o == 3) s)
def execCrop (handpump : Nat) (s : State) : Host.Outcome State Fault Refusal :=
  whileOn s (hpRun handpump (· == 1) s)
def execWgrad (handpump : Nat) (s : State) : Host.Outcome State Fault Refusal :=
  whileOn s (hpRun handpump (· == 2) s)

/-- A descriptor that waits re-reads its word, and starts once it is met (R388). -/
def hdWaitPoll (h : Nat) (s : State) : State := hpRun h (fun _ => true) s
def execHdWaitPoll (handpump : Nat) (s : State) : Host.Outcome State Fault Refusal := whileOn s (hdWaitPoll handpump s)

def hdAdds (h : Nat) (s : State) : List StatAdd :=
  match (getHp s h).run with
  | some r => r.adds
  | none => []

def dropHdAdd (h : Nat) (s : State) : State :=
  match (getHp s h).run with
  | some r => setHp h { getHp s h with run := some { r with adds := r.adds.drop 1 } } s
  | none => s

/-- HD_DESC_COMPLETE: the descriptor has run, its writes and its add are acknowledged; its code is that of the access
issued first among those that failed (R201, R930). -/
def hdComplete (h cycles : Nat) : M Unit := do
  let s ← get
  let page := pgHandpump h
  let u := getHp s h
  match u.run with
  | none => throw .hold
  | some r =>
    waitFor r.adds.isEmpty
    let x : HdDesc := ⟨r.desc⟩
    let wc ← codeOf (acknowledged (hpWho h))
    let c := if wc ≠ 0 then wc else r.code
    if c = 0 ∧ fld x.d 0x10 8 ≠ 0 then busAdd (hpSignal h) (fld x.d 0x10 8) (fld x.d 0x18 4)
    if c ≠ 0 ∨ x.complete then
      let n ← gets fun s => rd s page Reg.HP_COMP_COUNT
      let _ ← codeOf (busWrite (hpSignal h) (u.comp + 16 * (n % u.compLen))
        (clean (unitEntry r.index (0x50 + x.op) c x.tag r.pass cycles)))
      modify (wr page Reg.HP_COMP_COUNT (n + 1))
    modHp h fun u => { u with run := none }
    modify fun s =>
      let s := bump page Reg.HP_PROGRESS 1 s
      if c ≠ 0 then haltHp h c x.tag s
      else if r.index + 1 < u.count then wr page Reg.HP_PC (r.index + 1) s
      else hpBoundary h s

/-- Offers the counts of a descriptor that has run, then completes it. -/
def hdFinish (h cycles : Nat) (s : State) : State :=
  hpCommand h (hdComplete h cycles) (if 32 ≤ h then s else offerLeft (hpWho h) (hdAdds h) (dropHdAdd h) 1 s)

def execHdDescComplete (handpump cycles : Nat) (s : State) : Host.Outcome State Fault Refusal :=
  whileOn s (hdFinish handpump cycles s)

end Sys2Proof.Machine
end

