-- ==== Sys2Proof/Machine/Monitor.lean ====
section
/-! DEFINITION. The monitor unit: random probes, staging of the random state, the loss monitor (Randomness and Run
Monitors). -/

namespace Sys2Proof.Machine

def monWho : Who := ⟨pgMonitor, 0⟩

/-- A write of `RNG_PROBE_CTR3` computes the probe's block, whatever the field held: R500 ties the probe to the write, not
to a change (log 62). -/
def rngProbe (v : Nat) (s : State) : State :=
  if !writable s pgMonitor then s
  else
    let s := wrAt pgMonitor Reg.RNG_PROBE_CTR 3 v s
    let c := fun i => rdAt s pgMonitor Reg.RNG_PROBE_CTR i
    let key := rd s pgMonitor Reg.RNG_PROBE_KEY
    (philox (key % 2 ^ 32) (key / 2 ^ 32) (c 0, c 1, c 2, c 3)).zipIdx.foldl
      (fun s e => wrAt pgMonitor Reg.RNG_PROBE_OUT e.2 e.1 s) s

def execRngProbe (ctr3 : Nat) (s : State) : Host.Outcome State Fault Refusal := whileOn s (rngProbe ctr3 s)

/-! ### Restoring random state (R501 to R504) -/

def setStage (staged : Option (Nat × Nat)) (v : Nat) (s : State) : State :=
  wr pgMonitor Reg.RNG_RESTORE_STATUS_STATE v { s with mon := { s.mon with staged := staged } }

/-- A record that is staged and not yet applied is discarded. -/
def discardStaged (s : State) : State := if s.mon.staged.isSome then setStage none 0 s else s

/-- A refused restore of random state records its code (R503, R891). -/
def refuseRng (c : Nat) (s : State) : State := logErr pgMonitor c 0 (wr pgMonitor Reg.RNG_RESTORE_STATUS_CODE c s)

/-- Reads and checks an RNG state record: its seed and step. -/
def readRngRecord (a : Nat) : M (Nat × Nat) := do
  refuseIf (isSet (← get) pgGeneration Reg.GEN_CTRL_ENABLE) 0x0631
  refuseIf (a % 16 != 0) 0x0633
  let d ← busRead monWho a 16
  refuseIf (d.any Prod.snd) 0x0240
  let b := d.map Prod.fst
  refuseIf (fld b 0 2 != 1 || fld b 2 2 != 0 || fld b 0xC 4 != 0) 0x0633
  return (fld b 4 4, fld b 8 4)

/-- A write to `RNG_RESTORE` (R503). -/
def rngStage (a : Nat) : M Unit := do
  match ← catchCode (readRngRecord a) with
  | .ok r => modify (setStage (some r) 1)
  | .error c => modify (refuseRng c)

def execRngRestoreStage (addr : Nat) (s : State) : Host.Outcome State Fault Refusal :=
  whileOn s (if writable s pgMonitor then attempt monWho (rngStage (addr % 2 ^ 64)) s else s)

/-! ### The loss monitor (R505 to R508) -/

/-- READY or VETO has been sent for an open step. -/
def sentFor (s : State) (step : Nat) : Bool :=
  match s.gen.opened with
  | [] => false
  | o :: _ => o.step == step && (s.gen.readySent || s.gen.vetoSent)

/-- A write to `LM_LOSS_IN` at byte `off` of the register. -/
def lmLossIn (off : Nat) (data : List Byte) (s : State) : State :=
  let step := fld data 4 4
  if !writable s pgMonitor then s
  else if off = 0 ∧ data.length = 8 ∧ stepOpen s step ∧ !sentFor s step then
    { s with mon := { s.mon with loss := insertKey s.mon.loss step (fld data 0 4) } }
  else bump pgMonitor Reg.LM_LATE 1 s

def execLmLossIn (off : Nat) (data : List Byte) (s : State) : Host.Outcome State Fault Refusal := whileOn s (lmLossIn off data s)

/-- The loss monitor's registers of the committed state. -/
def lossState (s : State) : Nat × Nat × Nat :=
  (rd s pgMonitor Reg.LM_MEAN, rd s pgMonitor Reg.LM_VAR, rd s pgMonitor Reg.LM_COUNT)

def setPendingLoss (p : Nat × Nat × Nat) (s : State) : State := { s with mon := { s.mon with pendingLoss := some p } }

/-- `LM_LAST`, its z and its step (R508). -/
def showLast (x z step : Nat) (s : State) : State :=
  wr pgMonitor Reg.LM_LAST x (wr pgMonitor Reg.LM_LAST_Z z (wr pgMonitor Reg.LM_LAST_STEP step s))

/-- The pending averages of a finite loss that is not the first, and its spike (R506). -/
def lossMoves (x step : Nat) (s : State) : State :=
  let (mean, var, count) := lossState s
  let d := f32Sub x mean
  let z := f32Div d (f32Sqrt var)
  let spike := decide (rd s pgMonitor Reg.LM_WARMUP ≤ count) && (f32Val (rd s pgMonitor Reg.LM_Z_HI)).lt (f32Val z)
  let s := showLast x z step s
  let s := if spike then raiseBit pgMonitor 4 (bump pgMonitor Reg.LM_SPIKES 1 s) else s
  if spike && isSet s pgMonitor Reg.LM_CTRL_SPIKE_HOLD then s
  else
    let a := rd s pgMonitor Reg.LM_ALPHA
    setPendingLoss (f32Add mean (f32Mul a d), f32Mul (rd s pgMonitor Reg.LM_OMA) (f32Add var (f32Mul a (f32Mul d d))),
      min (count + 1) 0xFFFFFFFF) s

/-- Evaluates step `step`: what it leaves, and whether it reports a non-finite loss to the veto. -/
def lossEvaluate (step : Nat) (s : State) : State × Bool :=
  let s := wr pgMonitor Reg.LM_STEP_NONFINITE (look 0 s.mon.nonfinite step) s
  let s := setPendingLoss (lossState s) s
  match s.mon.loss.find? fun e => e.1 == step with
  | none => (bump pgMonitor Reg.LM_MISSING 1 s, false)
  | some (_, x) =>
    if !(f32Val x).isFin then
      (raiseBit pgMonitor 5 (bump pgMonitor Reg.LM_NONFINITE_LOSS 1 (showLast x 0 step s)), true)
    else if rd s pgMonitor Reg.LM_COUNT = 0 then (setPendingLoss (x, 0, 1) (showLast x 0 step s), false)
    else (lossMoves x step s, false)

/-- The step is resolved: its pending averages become the committed ones at a commit, else they go (R507). -/
def lossResolve (step : Nat) (commit : Bool) (s : State) : State :=
  let s := match s.mon.pendingLoss with
    | some (m, v, n) => if commit then
        wr pgMonitor Reg.LM_MEAN m (wr pgMonitor Reg.LM_VAR v (wr pgMonitor Reg.LM_COUNT n s)) else s
    | none => s
  { s with mon := { s.mon with
      pendingLoss := none, loss := dropKey s.mon.loss step, nonfinite := dropKey s.mon.nonfinite step } }

end Sys2Proof.Machine
end

