-- ==== Sys2Proof/Machine/Media.lean ====
section
/-! DEFINITION. Video decoders and encoders around their codecs (Video Decode and Encode). What a codec's standard
gives for a picture or a frame comes with the command (log 11). -/

namespace Sys2Proof.Machine

/-! ### Decode jobs (R527 to R530) -/

def getDec (s : State) (n : Nat) : Decoder := look {} s.decoders n
def vdWho (n : Nat) : Who := ⟨pgDecoder n, 0⟩

/-- The mask of a list of buffers. -/
def bufMask (bs : List Nat) : Nat := bs.foldl (fun m b => m ||| 2 ^ b) 0

/-- Buffers of the frame entries that wait for ring room. -/
def entryBufs (out : List (List Byte)) : List Nat :=
  (out.filter fun e => fld e 0 1 == 1 && fld e 2 2 != 0xFFFF).map fun e => fld e 2 2

/-- A decoder as it goes on. `VD_STATUS` shows the queue, whether a job runs and whether entries wait for room; the REF
marks show what the reference rules hold and the pictures that wait for their frame entry (R533, log 82). -/
def setDec (n : Nat) (x : Decoder) (s : State) : State :=
  let page := pgDecoder n
  wr page Reg.VD_STATUS_QUEUE x.queue.length (wr page Reg.VD_STATUS_BUSY (natOf x.job.isSome)
    (wr page Reg.VD_STATUS_RING_WAIT (natOf !x.out.isEmpty)
      (wr page Reg.VD_REF_MARKS (bufMask (x.held ++ x.waiting.map (fun w => w.buf) ++ entryBufs x.out))
        { s with decoders := put {} s.decoders n x })))

/-- A write to `VD_JOB_PORT` at byte `off` of the port. -/
def vdSubmit (n off : Nat) (data : List Byte) (s : State) : State :=
  let page := pgDecoder n
  if 16 ≤ n ∨ !writable s page ∨ lockState s page ≠ 0 then s
  else if off ≠ 0 ∨ data.length ≠ 32 ∨ rd s page Reg.VD_CTRL_ENABLE = 0 then
    logErr page 0x0501 0 (bump page Reg.VD_REFUSED 1 s)
  else
    let x := getDec s n
    if 16 ≤ x.queue.length then s else setDec n { x with queue := x.queue ++ [data] } s

def execVdJobSubmit (decoder off : Nat) (data : List Byte) (s : State) : Host.Outcome State Fault Refusal :=
  whileOn s (vdSubmit decoder off data s)

/-! ### The notice ring (R537, R538) -/

def ringLen (s : State) (n : Nat) : Nat := 2 ^ rd s (pgDecoder n) Reg.VD_RING_CFG_LOG2

/-- The ring is full: the decoder holds (R537). -/
def ringFull (s : State) (n : Nat) : Bool :=
  decide (ringLen s n ≤ sub32 (rd s (pgDecoder n) Reg.VD_RING_TAIL) (rd s (pgDecoder n) Reg.VD_RING_HEAD))

/-- Sets or clears bit b of a mark register. -/
def setMark (n : Nat) (f : Field) (b : Nat) (on : Bool) (s : State) : State :=
  let v := rd s (pgDecoder n) f
  wr (pgDecoder n) f (if on then v ||| 2 ^ b else clearBits v (2 ^ b)) s

/-- What an entry does as it is written: a damage entry is counted and raises EV_MD_DAMAGE, a frame entry is counted and
marks its buffer OUT, the job's last entry ends it (R533, R539, R542). -/
def entryWritten (n : Nat) (e : List Byte) (s : State) : State :=
  let page := pgDecoder n
  if fld e 0 1 = 2 then raiseBit page 4 (bump page Reg.VD_DAMAGE 1 s)
  else
    let s := if fld e 2 2 = 0xFFFF then s else setMark n Reg.VD_OUT_MARKS (fld e 2 2) true (bump page Reg.VD_FRAMES 1 s)
    if bitOf (fld e 1 1) 4 then setDec n { getDec s n with job := none } s else s

/-- Writes the entries that wait, as far as the ring has room. A failing write is not reported. -/
def ringFlush (n : Nat) : Nat → M Unit
  | 0 => return ()
  | k + 1 => do
    let s ← get
    let page := pgDecoder n
    match (getDec s n).out with
    | [] => return ()
    | e :: es =>
      if ringFull s n then return ()
      else
        let t := rd s page Reg.VD_RING_TAIL
        let _ ← codeOf (busWrite (vdWho n) (rd s page Reg.VD_RING_BASE + 32 * (t % ringLen s n)) (clean e))
        modify fun s => entryWritten n e (setDec n { getDec s n with out := es } (wr page Reg.VD_RING_TAIL (t + 1) s))
        ringFlush n k

/-- Adds entries to those that wait, and writes what there is room for. -/
def ringPut (n : Nat) (es : List (List Byte)) : M Unit := do
  modify fun s => setDec n { getDec s n with out := (getDec s n).out ++ es } s
  ringFlush n (getDec (← get) n).out.length

/-- The bytes of an entry of a job. -/
def ringEntry (job : List Byte) (kind flags buf frame dec a b c code : Nat) : List Byte :=
  leBytes 1 kind ++ leBytes 1 flags ++ leBytes 2 buf ++ leBytes 4 (fld job 4 4) ++ leBytes 4 frame ++ leBytes 4 dec
    ++ leBytes 4 a ++ leBytes 4 b ++ leBytes 4 c ++ leBytes 2 code ++ leBytes 2 (fld job 2 2)

/-- The final entry of a job that ends without its pictures: DAMAGED, NO_PICTURE and LAST (R545). -/
def finalEntry (job : List Byte) (code : Nat) : List Byte := ringEntry job 1 0x19 0xFFFF 0 0 0 0 0 code

/-- Ends the running job with a cause, which enters the log (R545, R891): pictures that still wait are dropped, and
nothing is held for reference. -/
def endDecode (n : Nat) (job : List Byte) (code : Nat) (s : State) : State :=
  let x := getDec s n
  let s := logErr (pgDecoder n) code 0 (wr (pgDecoder n) Reg.VD_STATUS_BUF_WAIT 0 s)
  setDec n { x with
    job := none, waiting := [], held := [], recent := [], dirty := [], ended := false, reported := false
    out := x.out ++ [finalEntry job code] } s

/-- A job has a reserved `CODEC` or bit, or no byte (R545). -/
def jobBad (j : List Byte) : Bool :=
  bitsOf (fld j 0 4) 0 2 == 3 || bitsOf (fld j 0 4) 3 13 != 0 || fld j 0x18 8 != 0 || fld j 0x10 4 == 0

/-- The next job starts; a malformed one ends at once. -/
def vdStart (n : Nat) (s : State) : State :=
  let x := getDec s n
  match x.queue with
  | [] => s
  | j :: rest =>
    if 16 ≤ n ∨ x.job.isSome ∨ !x.out.isEmpty ∨ lockState s (pgDecoder n) ≠ 0 then s
    else
      let s := setDec n { queue := rest, job := some j, nextOut := fld j 0x14 2 } s
      if jobBad j then endDecode n j 0x0501 s else s

def execVdJobStart (decoder : Nat) (s : State) : Host.Outcome State Fault Refusal := whileOn s (vdStart decoder s)

/-! ### Pictures (R531 to R536, R541 to R545) -/

/-- Width and height of plane p, and its subsampling along x and y. -/
def planeDims (c : Picture) (p : Nat) : (Nat × Nat) × (Nat × Nat) :=
  let sx := if p ≠ 0 ∧ (c.chroma = 1 ∨ c.chroma = 2) then 2 else 1
  let sy := if p ≠ 0 ∧ c.chroma = 1 then 2 else 1
  (((c.width + sx - 1) / sx, (c.height + sy - 1) / sy), (sx, sy))

def sampleBytes (c : Picture) : Nat := if c.depth ≤ 8 then 1 else 2
def pitchOf (c : Picture) (p : Nat) : Nat := ((planeDims c p).1.1 + 63) / 64 * 64 * sampleBytes c
def planeSize (c : Picture) (p : Nat) : Nat := (pitchOf c p * (planeDims c p).1.2 + 4095) / 4096 * 4096
def planeCount (c : Picture) : Nat := if c.chroma = 0 then 1 else 3
/-- Offset of plane p in a buffer (R532). -/
def planeOffset (c : Picture) (p : Nat) : Nat := ((List.range p).map (planeSize c)).foldl (· + ·) 0

def poolCount (s : State) (n : Nat) : Nat := rd s (pgDecoder n) Reg.VD_POOL_CFG_COUNT + 1
def bufBytes (s : State) (n : Nat) : Nat := rd s (pgDecoder n) Reg.VD_POOL_CFG_SIZE * 4096
def bufAt (s : State) (n b : Nat) : Nat := rd s (pgDecoder n) Reg.VD_POOL_BASE + b * bufBytes s n
def refMarks (s : State) (n : Nat) : Nat := rd s (pgDecoder n) Reg.VD_REF_MARKS
def outMarks (s : State) (n : Nat) : Nat := rd s (pgDecoder n) Reg.VD_OUT_MARKS

/-- The lowest-numbered free buffer: one with neither mark (R533). -/
def freeBuffer (s : State) (n : Nat) : Option Nat :=
  (List.range (poolCount s n)).find? fun b => !bitOf (refMarks s n) b && !bitOf (outMarks s n) b

def codecOf (j : List Byte) : Nat := bitsOf (fld j 0 4) 0 2

/-- The cause that makes a sample unsupported, 0 for none: a feature of R523, a depth, chroma or size outside its codec's
row of R522, a level beyond 6.1. The picture size of that level, 35 651 584 luma samples, is that of its standards (log 83). -/
def streamBad (codec : Nat) (c : Picture) : Nat :=
  let deep := c.depth == 8 || (codec != 2 && c.depth == 10)
  let colour := if codec = 0 then c.chroma == 1 else if codec = 1 then decide (c.chroma ≤ 1) else decide (c.chroma ≤ 3)
  if c.unsupported ∨ !deep ∨ !colour ∨ (codec = 2 ∧ (16384 < c.width ∨ 16384 < c.height)) then 0x0502
  else if codec ≠ 2 ∧ (61 < c.level ∨ 35651584 < c.width * c.height) then 0x0504
  else 0

/-- Reference pictures of the stream (R536). -/
def streamRefs (codec : Nat) (c : Picture) : Nat := if codec = 0 then c.refs else if codec = 1 then 8 else 0

/-- The stream's pool check (R536). -/
def poolTooSmall (s : State) (n codec : Nat) (c : Picture) : Bool :=
  decide (poolCount s n < streamRefs codec c + 2) || decide (bufBytes s n < planeOffset c (planeCount c))

/-! ### Damage (R541 to R543) -/

/-- A syntax error of a picture: its byte offset in the sample, its cause, the unit being decoded, the byte offset of
resumption, and the first unit that the resumed data decodes. -/
structure Damage where
  off : Nat
  code : Nat
  unit : Nat
  resume : Option Nat
  upTo : Nat
deriving DecidableEq, Repr

/-- Offsets in the sample of the first bytes of its poisoned 64-byte units. -/
def poisonedAt (a : Nat) (d : List PByte) : List Nat :=
  ((d.zipIdx.filter fun e => e.1.2).map fun e => (a + e.2) / 64 * 64 - a).eraseDups

/-- A value coded in 7-bit groups, low group first, and the bytes it takes: the size of an AV1 OBU. -/
def leb128 : Nat → List Byte → Nat × Nat
  | 0, _ => (0, 0)
  | _ + 1, [] => (0, 0)
  | k + 1, b :: bs =>
    if b.toNat < 128 then (b.toNat, 1)
    else
      let (v, n) := leb128 k bs
      (b.toNat - 128 + 128 * v, n + 1)

/-- Offsets of the OBU headers of a stream in the low-overhead format, from offset `p` on. -/
def obuHeaders : Nat → Nat → List Byte → List Nat
  | 0, _, _ => []
  | _ + 1, _, [] => []
  | k + 1, p, h :: bs =>
    let ext := natOf (bitOf h.toNat 2)
    let (size, n) := if bitOf h.toNat 1 then leb128 8 (bs.drop ext) else (bs.length - ext, 0)
    p :: obuHeaders k (p + 1 + ext + n + size) (bs.drop (ext + n + size))

/-- A NAL start code, or an RST marker, begins here. -/
def startsMarker (codec : Nat) (bs : List Byte) : Bool :=
  match bs with
  | a :: b :: rest =>
    if codec = 0 then a == 0 && b == 0 && rest.head? == some 1
    else a == 0xFF && decide (0xD0 ≤ b.toNat) && decide (b.toNat ≤ 0xD7)
  | _ => false

/-- The first marker of a stream at offset `p` or later; `bs` are its bytes from `p` on. -/
def nextMarker (codec : Nat) : Nat → List Byte → Option Nat
  | _, [] => none
  | p, b :: bs => if startsMarker codec (b :: bs) then some p else nextMarker codec (p + 1) bs

/-- Where the decoder resumes after an error at `off`: at the next NAL start code, OBU header or RST marker (R542). -/
def resumeAt (codec : Nat) (bs : List Byte) (off : Nat) : Option Nat :=
  if codec = 1 then (obuHeaders bs.length 0 bs).find? fun p => decide (off < p)
  else nextMarker codec (off + 1) (bs.drop (off + 1))

/-- The unit being decoded at a byte offset. -/
def unitAt (c : Picture) (off : Nat) : Nat :=
  ((c.starts.zipIdx.filter fun e => decide (e.1 ≤ off)).map Prod.snd).foldl max 0

/-- The first unit after `u` that the data from offset `p` on decodes; the picture's end where there is none. -/
def unitFrom (c : Picture) (u : Nat) (p : Option Nat) : Nat :=
  match p with
  | none => c.starts.length
  | some p => ((c.starts.zipIdx.filter fun e => decide (u < e.2) && decide (p ≤ e.1)).map Prod.snd).foldl min c.starts.length

/-- Puts an error among others in the order of offsets; the first named at an offset stands. -/
def insertError (e : Nat × Nat) : List (Nat × Nat) → List (Nat × Nat)
  | [] => [e]
  | x :: xs => if x.1 < e.1 then x :: insertError e xs else if x.1 = e.1 then e :: xs else e :: x :: xs

/-- The errors of a picture in the order of its data, with their causes: poisoned units, the end of the bitstream, and
what its standard finds (R541). -/
def pictureErrors (c : Picture) (a : Nat) (d : List PByte) : List (Nat × Nat) :=
  let begins := c.starts.headD 0
  let cut := if d.length < c.ends then [(d.length, 0x0506)] else []
  let poisoned := ((poisonedAt a d).filter fun o => decide (begins < o + 64) && decide (o < c.ends)).map fun o => (o, 0x0507)
  (poisoned ++ cut ++ (c.errors.filter fun o => decide (o < d.length)).map fun o => (o, 0x0503)).foldr insertError []

/-- The damages of a picture: errors that lie before the point of resumption are never met. -/
def damagesOf (codec : Nat) (c : Picture) (bs : List Byte) : Nat → List (Nat × Nat) → List Damage
  | _, [] => []
  | from_, (off, code) :: es =>
    if off < from_ then damagesOf codec c bs from_ es
    else
      let r := resumeAt codec bs off
      let u := unitAt c off
      { off := off, code := code, unit := u, resume := r, upTo := unitFrom c u r }
        :: (match r with | none => [] | some p => damagesOf codec c bs p es)

/-- The buffer that concealment of a damage copies from: RefPicList0[0] of its slice, or the picture decoded last that is
still marked REF; LAST_FRAME; none for JPEG (R543). -/
def sourceOf (s : State) (n codec : Nat) (c : Picture) (d : Damage) : Option Nat :=
  let named := ((c.slices.filter fun e => decide (e.1 ≤ d.unit)).getLast?).bind Prod.snd
  if codec = 2 then none
  else if codec = 1 then named
  else named.or ((getDec s n).recent.find? fun b => bitOf (refMarks s n) b)

/-- The units of a picture that are concealed, each with its source. -/
def concealedUnits (s : State) (n codec : Nat) (c : Picture) (ds : List Damage) : List (Nat × Option Nat) :=
  ds.flatMap fun d => (List.range (d.upTo - d.unit)).map fun i => (d.unit + i, sourceOf s n codec c d)

/-- The unit that sample (x, y) of a plane belongs to. -/
def unitOf (c : Picture) (p x y : Nat) : Nat :=
  let sub := (planeDims c p).2
  let cols := (c.width + c.unitW - 1) / c.unitW
  y * sub.2 / c.unitH * cols + x * sub.1 / c.unitW

/-- Row y of plane p as stored: decoded samples, and the source's or grey ones where a unit is concealed (R543). `srcs`
holds the row of each source buffer. -/
def storedRow (c : Picture) (planes : List (List (List Nat))) (units : List (Nat × Option Nat)) (p y : Nat)
    (srcs : List (Nat × List Byte)) : List Byte :=
  let row := (planes.getD p []).getD y []
  (List.range (planeDims c p).1.1).flatMap fun x =>
    match units.find? fun e => e.1 == unitOf c p x y with
    | some (_, some b) => ((look [] srcs b).drop (x * sampleBytes c)).take (sampleBytes c)
    | some (_, none) => leBytes (sampleBytes c) (2 ^ (c.depth - 1))
    | none => leBytes (sampleBytes c) (row.getD x 0)

/-- A row of each source buffer. -/
def sourceRows (n off len : Nat) : List Nat → M (List (Nat × List Byte))
  | [] => return []
  | b :: bs => do
    let d ← busRead (vdWho n) (bufAt (← get) n b + off) len
    let rest ← sourceRows n off len bs
    return (b, d.map Prod.fst) :: rest

/-- Writes the rows of a picture into a buffer. -/
def writePicture (n buf : Nat) (c : Picture) (planes : List (List (List Nat))) (units : List (Nat × Option Nat)) :
    List (Nat × Nat) → M Unit
  | [] => return ()
  | (p, y) :: rest => do
    let off := planeOffset c p + y * pitchOf c p
    let srcs ← sourceRows n off ((planeDims c p).1.1 * sampleBytes c) (units.filterMap Prod.snd).eraseDups
    busWrite (vdWho n) (bufAt (← get) n buf + off) (clean (storedRow c planes units p y srcs))
    writePicture n buf c planes units rest

/-- Every row of every plane. -/
def pictureRows (c : Picture) : List (Nat × Nat) :=
  (List.range (planeCount c)).flatMap fun p => (List.range (planeDims c p).1.2).map fun y => (p, y)

/-- The picture's output index lies in the job's range (R531). -/
def inRange (j : List Byte) (o : Nat) : Bool :=
  decide (fld j 0x14 2 ≤ o) && (fld j 0x16 2 == 0 || decide (o < fld j 0x14 2 + fld j 0x16 2))

/-- The output index is the last of the job's range. -/
def rangeEnds (j : List Byte) (o : Nat) : Bool := fld j 0x16 2 != 0 && o + 1 == fld j 0x14 2 + fld j 0x16 2

/-- The samples that go into the buffer: with film grain for an AV1 job that asks for it (R524). -/
def chosenPlanes (j : List Byte) (c : Picture) : List (List (List Nat)) :=
  if codecOf j = 1 ∧ bitOf (fld j 0 4) 2 then c.grained else c.planes

/-- The picture is decoded into buffer b: marks, counts, taint (R533, R543, R544). -/
def pictureDone (n b : Nat) (j : List Byte) (c : Picture) (units : List (Nat × Option Nat)) (s : State) : State :=
  let x := getDec s n
  let damaged := !units.isEmpty
  let dirty := if c.key then [] else x.dirty.filter fun u => u != b
  let tainted := !damaged && !c.key && c.uses.any fun u => x.dirty.contains u
  let flags := natOf damaged + 2 * natOf tainted + 4 * natOf (units.any fun e => e.2.isNone)
  let w : WaitingPic := {
    buf := b, output := c.output, decode := c.decode, flags := flags, size := c.width + c.height * 2 ^ 16
    form := c.depth + c.chroma * 2 ^ 8, concealed := (units.map Prod.fst).eraseDups.length }
  let held := if codecOf j = 1 then x.held.filter fun u => !c.drops.contains u else x.held
  setDec n { x with
    held := if c.keep then held ++ [b] else held
    recent := b :: x.recent.filter fun u => u != b
    dirty := if damaged || tainted then dirty ++ [b] else dirty
    waiting := if c.shown && inRange j c.output then x.waiting ++ [w] else x.waiting
    ended := c.last || codecOf j == 2, reported := false }
    (bump (pgDecoder n) Reg.VD_PIXELS (c.width * c.height) (bump (pgDecoder n) Reg.VD_CONCEALED w.concealed s))

/-- One picture of the running job is decoded; a JPEG job has one (R529). Reference drops of HEVC come before the picture
takes its buffer, those of AV1 after it. An access of the decoder that fails ends the job with its code. -/
def vdPicture (n : Nat) (c : Picture) : M Unit := do
  ringFlush n (getDec (← get) n).out.length
  let s ← get
  let page := pgDecoder n
  let x := getDec s n
  match x.job with
  | none => throw .hold
  | some j =>
    let codec := codecOf j
    if !x.out.isEmpty || x.ended then return ()
    else if streamBad codec c ≠ 0 then modify (endDecode n j (streamBad codec c))
    else if poolTooSmall s n codec c then modify (endDecode n j 0x0505)
    else
      match ← catchCode (busRead (vdWho n) (fld j 8 8) (fld j 0x10 4)) with
      | .error e => modify (endDecode n j e)
      | .ok d =>
        if codec ≠ 1 then
          modify (setDec n { x with held := x.held.filter fun u => !c.drops.contains u })
        let s ← get
        match freeBuffer s n with
        | none => modify (wr page Reg.VD_STATUS_BUF_WAIT 1)
        | some b =>
          modify (wr page Reg.VD_STATUS_BUF_WAIT 0)
          let ds := damagesOf codec c (d.map Prod.fst) 0 (pictureErrors c (fld j 8 8) d)
          if !x.reported && !ds.isEmpty then
            modify fun s => ds.foldl (fun s e => logErr page e.code 0 s) (setDec n { getDec s n with reported := true } s)
            ringPut n (ds.map fun e =>
              ringEntry j 2 0 0xFFFF 0 c.decode e.off e.unit (e.resume.getD 0xFFFFFFFF) e.code)
          if !(getDec (← get) n).out.isEmpty then return ()
          else
            let units := concealedUnits (← get) n codec c ds
            match ← catchCode (writePicture n b c (chosenPlanes j c) units (pictureRows c)) with
            | .error e => modify (endDecode n j e)
            | .ok _ => modify (pictureDone n b j c units)

def execVdPictureDecode (decoder : Nat) (picture : Picture) (s : State) : Host.Outcome State Fault Refusal :=
  whileOn s (if 16 ≤ decoder then s else attempt (vdWho decoder) (vdPicture decoder picture) s)

/-- The picture whose frame entry is next, once it is known whether it is the job's last: the next in output order, with a
later one decoded, or at the end of the range or of the stream (R539). -/
def duePicture (x : Decoder) (j : List Byte) : Option WaitingPic :=
  let first := x.waiting.foldl (fun (a : Option WaitingPic) w => match a with
    | some v => if w.output < v.output then some w else some v
    | none => some w) none
  match first with
  | some w =>
    if (w.output == x.nextOut || x.ended)
        && (x.ended || rangeEnds j w.output || x.waiting.any fun v => decide (w.output < v.output)) then some w
    else none
  | none => none

/-- No other picture of the job follows it. -/
def lastPicture (x : Decoder) (j : List Byte) (w : WaitingPic) : Bool :=
  rangeEnds j w.output || (x.ended && decide (x.waiting.length = 1))

/-- The next ring entry in output order: one that waits for room, or the frame entry of the next picture, once its
buffer's writes are acknowledged (R539, R540). A stream that ends with no picture of the range to deliver ends the job with
an entry that has NO_PICTURE and LAST (log 82). -/
def vdFrameEntry (n : Nat) : M Unit := do
  let x := getDec (← get) n
  if !x.out.isEmpty then ringFlush n x.out.length
  else match x.job with
    | none => throw .hold
    | some j =>
      match duePicture x j with
      | some w =>
        match ← codeOf (acknowledged (vdWho n)) with
        | 0 =>
          let last := lastPicture x j w
          modify (setDec n { x with
            nextOut := w.output + 1, waiting := if last then [] else x.waiting.filter fun v => v.buf != w.buf
            held := if last then [] else x.held })
          ringPut n [ringEntry j 1 (w.flags + 16 * natOf last) w.buf w.output w.decode w.size w.form w.concealed 0]
        | e => modify (endDecode n j e)
      | none =>
        waitFor (x.ended && x.waiting.isEmpty)
        modify (setDec n { x with held := [] })
        ringPut n [ringEntry j 1 0x18 0xFFFF 0 0 0 0 0 0]

def execVdFrameEntry (decoder : Nat) (s : State) : Host.Outcome State Fault Refusal :=
  whileOn s (if 16 ≤ decoder then s else attempt (vdWho decoder) (vdFrameEntry decoder) s)

/-- A write to `VD_RELEASE` (R533, R534). -/
def vdRelease (n buf : Nat) (s : State) : State :=
  let page := pgDecoder n
  let b := buf % 32
  if 16 ≤ n ∨ !writable s page then s
  else if bitOf (outMarks s n) b then setMark n Reg.VD_OUT_MARKS b false s
  else bump page Reg.VD_REFUSED 1 s

def execVdRelease (decoder buf : Nat) (s : State) : Host.Outcome State Fault Refusal := whileOn s (vdRelease decoder buf s)

/-- A lock of a decoder: final entries for its jobs, every REF mark cleared (R546). Those without room in the ring wait;
the lock is over once they are written (R764). -/
def lockDecoder (n : Nat) (s : State) : State :=
  let x := getDec s n
  let s := match x.job with
    | some j => endDecode n j 0x0801 s
    | none => s
  let s := x.queue.foldl (fun s _ => logErr (pgDecoder n) 0x0801 0 s) s
  attempt (vdWho n) (ringPut n (x.queue.map fun j => finalEntry j 0x0801)) (setDec n { getDec s n with queue := [] } s)

/-! ### Encoders (R547 to R554) -/

def getEnc (s : State) (n : Nat) : Encoder := look {} s.encoders n
def veWho (n : Nat) : Who := ⟨pgEncoder n, 0⟩

def setEnc (n : Nat) (x : Encoder) (s : State) : State :=
  let page := pgEncoder n
  wr page Reg.VE_STATUS_QUEUE x.queue.length (wr page Reg.VE_STATUS_BUSY (natOf x.job.isSome)
    { s with encoders := put {} s.encoders n x })

/-- Writes the result record of a job, when it has an address for one: bytes 0x04 to 0x1F, then 0x00 to 0x03; EV_ME_DONE
follows (R554). A failing code enters the log (R891). -/
def veRecord (n : Nat) (j : List Byte) (code frames bytes misses : Nat) : M Unit := do
  if code ≠ 0 then modify (logErr (pgEncoder n) code 0)
  let a := fld j 0x38 8
  if a = 0 ∨ a % 16 ≠ 0 then return ()
  else
    let _ ← codeOf (do
      busWrite (veWho n) (a + 4) (clean (leBytes 4 frames ++ leBytes 8 bytes ++ leBytes 4 misses ++ leBytes 12 0))
      busWrite (veWho n) a (clean (leBytes 2 code ++ leBytes 2 0x8000)))
    modify (raiseBit (pgEncoder n) 4)

/-- A write to `VE_JOB_PORT` at byte `off` of the port (R549, R553). -/
def veSubmit (n off : Nat) (data : List Byte) (s : State) : State :=
  let page := pgEncoder n
  if 4 ≤ n ∨ !writable s page ∨ lockState s page ≠ 0 then s
  else if off ≠ 0 ∨ data.length ≠ 64 then logErr page 0x0510 0 (bump page Reg.VE_REFUSED 1 s)
  else if rd s page Reg.VE_CTRL_ENABLE = 0 then
    attempt (veWho n) (do
      modify (bump page Reg.VE_REFUSED 1)
      veRecord n data 0x0510 0 0 0) s
  else
    let x := getEnc s n
    if 4 ≤ x.queue.length then s else setEnc n { x with queue := x.queue ++ [data] } s

def execVeJobSubmit (encoder off : Nat) (data : List Byte) (s : State) : Host.Outcome State Fault Refusal :=
  whileOn s (veSubmit encoder off data s)

/-- A reserved bit or byte is nonzero, a field out of range, or `ED_RESULT` misaligned (R552). -/
def encBad (j : List Byte) : Bool :=
  let c := fld j 0 4
  let qmax := if bitOf c 0 then 51 else 255
  let side := fun v => decide (v < 64) || decide (8192 < v) || v % 8 != 0
  bitsOf c 4 12 != 0 || fld j 4 4 == 0 || decide (65535 < fld j 4 4) || side (fld j 0x14 2) || side (fld j 0x16 2)
    || decide (qmax < fld j 0x28 1) || decide (qmax < fld j 0x2A 1) || decide (fld j 0x2A 1 < fld j 0x28 1)
    || fld j 0x2B 1 != 0 || fld j 0x30 2 == 0 || decide (1024 < fld j 0x30 2) || fld j 0x32 2 == 0
    || fld j 0x34 4 != 0 || fld j 0x38 8 % 16 != 0

/-- The next job starts; a malformed one has ended. -/
def veStart (n : Nat) (s : State) : State :=
  let x := getEnc s n
  match x.queue with
  | [] => s
  | j :: rest =>
    if 4 ≤ n ∨ x.job.isSome ∨ !x.results.isEmpty ∨ lockState s (pgEncoder n) ≠ 0 then s
    else setEnc n { queue := rest, job := some j, ended := if encBad j then some 0x0510 else none } s

def execVeJobStart (encoder : Nat) (s : State) : Host.Outcome State Fault Refusal := whileOn s (veStart encoder s)

/-! ### A source frame (R550) -/

/-- The geometry of a planar source frame. -/
def sourcePicture (j : List Byte) : Picture where
  unsupported := false
  level := 0
  width := fld j 0x14 2
  height := fld j 0x16 2
  depth := if bitOf (fld j 0 4) 1 then 10 else 8
  chroma := 1
  refs := 0
  planes := []
  grained := []
  output := 0
  decode := 0
  shown := true
  key := true
  last := true
  uses := []
  drops := []
  keep := false
  starts := []
  ends := 0
  errors := []
  slices := []
  unitW := 1
  unitH := 1

/-- Bytes of a source frame. -/
def sourceBytes (j : List Byte) : Nat :=
  if bitOf (fld j 0 4) 2 then fld j 0x14 2 * fld j 0x16 2 * 128 else planeOffset (sourcePicture j) 3

/-- Samples of a planar frame, plane by plane, row by row. -/
def planarSamples (j : List Byte) (src : List Byte) : List Nat :=
  let c := sourcePicture j
  (List.range 3).flatMap fun p => (List.range (planeDims c p).1.2).flatMap fun y =>
    (List.range (planeDims c p).1.1).map fun x =>
      fld src (planeOffset c p + y * pitchOf c p + x * sampleBytes c) (sampleBytes c) % 2 ^ c.depth

/-- A K16 code as a multiple of 2^-160 after NaN is mapped to +0 and the value clamped to [0, 1]. -/
def unitFixed (code : Nat) : Nat :=
  match elementVal .k16 code with
  | .nan => 0
  | .inf neg => if neg then 0 else 2 ^ 160
  | .fin neg m e => if neg then 0 else min (2 ^ 160) (shiftLeft m (e + 160))

/-- `n / d` rounded to nearest, ties up. -/
def roundDiv (n : Int) (d : Nat) : Nat := ((2 * n + d) / (2 * d)).toNat

/-- Ten-thousandths of Kr and Kb of the `MATRIX` (R573). -/
def matrixK (wide : Bool) : Nat × Nat := if wide then (2627, 593) else (2126, 722)

/-- The samples of an RGB frame in limited-range YCbCr at the output depth: luma of each position, then the mean of each
2 x 2 block of chroma. The values before rounding are exact (log 84). -/
def rgbSamples (j : List Byte) (src : List Byte) : List Nat :=
  let c := sourcePicture j
  let (kr, kb) := matrixK (bitOf (fld j 0 4) 3)
  let one := 2 ^ 160
  let step := 2 ^ (c.depth - 8)
  let rgb := fun x y i => unitFixed (fld src ((y * c.width + x) * 128 + 2 * i) 2)
  let luma := fun x y => kr * rgb x y 0 + (10000 - kr - kb) * rgb x y 1 + kb * rgb x y 2
  let ys := (List.range c.height).flatMap fun y => (List.range c.width).map fun x =>
    roundDiv (step * (219 * luma x y + 16 * 10000 * one) : Nat) (10000 * one)
  let plane := fun (i k : Nat) => (List.range (c.height / 2)).flatMap fun y => (List.range (c.width / 2)).map fun x =>
    let sum := [(0, 0), (1, 0), (0, 1), (1, 1)].foldl (fun (a : Int) e =>
      a + (10000 * rgb (2 * x + e.1) (2 * y + e.2) i : Nat) - (luma (2 * x + e.1) (2 * y + e.2) : Nat)) 0
    roundDiv (step * (224 * sum + (128 * 8 * (10000 - k) * one : Nat))) (8 * (10000 - k) * one)
  ys ++ plane 2 kb ++ plane 0 kr

/-- The samples that an encoder codes. -/
def sourceSamples (j : List Byte) (src : List Byte) : List Nat :=
  if bitOf (fld j 0 4) 2 then rgbSamples j src else planarSamples j src

/-! ### Coding a frame (R547, R548, R551) -/

/-- Signed value of a byte. -/
def signed8 (v : Nat) : Int := if v < 128 then v else (v : Int) - 256

/-- A key frame starts every `ED_GOP` frames. -/
def keyFrame (j : List Byte) (x : Encoder) : Bool := x.frames % fld j 0x32 2 == 0

/-- The frames that the present one is coded with: itself, and, unless it is a key frame, those back to its key frame. -/
def frameChain (j : List Byte) (x : Encoder) (samples : List Nat) (qp : Nat) : List (List Nat × Nat) :=
  (samples, qp) :: (if keyFrame j x then [] else x.past)

/-- The bytes of the frame at a quantiser: AV1 has a temporal delimiter before each frame; a key frame has the stream's
headers before it. They depend on the source's samples and the descriptor alone (R548). -/
def codeFrame (j : List Byte) (x : Encoder) (samples : List Nat) (qp : Nat) : List Byte :=
  let c := fld j 0 4 % 16
  (if bitOf c 0 then [] else Config.temporalDelimiter)
    ++ (if keyFrame j x then Config.streamHeader c (fld j 0x14 2) (fld j 0x16 2) else [])
    ++ Config.codedFrame c (fld j 0x14 2) (fld j 0x16 2) (frameChain j x samples qp)

/-- The frame's quantiser loop (R551), with tries left: the bytes kept, their quantiser, and the re-encodes made. -/
def rateLoop (cap win qmax : Nat) (code : Nat → List Byte) : Nat → Nat → List Byte × Nat × Nat
  | 0, qp => (code qp, qp, 0)
  | k + 1, qp =>
    if cap ≠ 0 ∧ cap < win + (code qp).length * 8 ∧ qp < qmax then
      let (r, q, n) := rateLoop cap win qmax code k (min (qp + 6) qmax)
      (r, q, n + 1)
    else (code qp, qp, 0)

/-- The base quantiser of the frame; below 0 it is 0. -/
def frameQp (j : List Byte) (x : Encoder) : Nat :=
  (min ((fld j 0x28 1 : Int) + (if keyFrame j x then signed8 (fld j 0x29 1) else 0) + x.boost) (fld j 0x2A 1)).toNat

/-- The boost after a frame that brings the window to `bits`. -/
def nextBoost (j : List Byte) (x : Encoder) (cap bits : Nat) : Nat :=
  if cap ≠ 0 ∧ cap * 3 < bits * 4 then min (x.boost + 2) (fld j 0x2A 1 - fld j 0x28 1)
  else if bits * 2 < cap then x.boost - 1 else x.boost

/-- One frame is coded under the rate cap. -/
def veFrame (n : Nat) : M Unit := do
  let s ← get
  let page := pgEncoder n
  let x := getEnc s n
  match x.job with
  | none => throw .hold
  | some j =>
    waitFor (x.ended.isNone && decide (x.frames < fld j 4 4))
    match ← catchCode (busRead (veWho n) (fld j 8 8 + x.frames * fld j 0x10 4) (sourceBytes j)) with
    | .error c => modify (setEnc n { x with ended := some c })
    | .ok src =>
      let samples := sourceSamples j (src.map Prod.fst)
      let cap := fld j 0x2C 4 * 1000
      let win := (x.window.take (fld j 0x30 2 - 1)).foldl (· + ·) 0
      let (out, qp, again) := rateLoop cap win (fld j 0x2A 1) (codeFrame j x samples) 2 (frameQp j x)
      modify (bump page Reg.VE_REENCODES again)
      if fld j 0x20 8 < x.bytes + out.length then modify (setEnc n { x with ended := some 0x0511 })
      else
        match ← codeOf (busWrite (veWho n) (fld j 0x18 8 + x.bytes) (marked (src.any Prod.snd) out)) with
        | 0 =>
          let bits := win + out.length * 8
          let miss := natOf (cap != 0 && decide (cap < bits))
          modify fun s => setEnc n { x with
            frames := x.frames + 1, bytes := x.bytes + out.length, misses := x.misses + miss
            boost := nextBoost j x cap bits, past := frameChain j x samples qp
            window := ((out.length * 8) :: x.window).take 1024
            ended := if x.frames + 1 = fld j 4 4 then some 0 else none }
            (bump page Reg.VE_FRAMES 1 (bump page Reg.VE_BYTES out.length (bump page Reg.VE_CAP_MISSES miss s)))
        | c => modify (setEnc n { x with ended := some c })

def execVeFrameEncode (encoder : Nat) (upsets : List (Nat × Nat)) (s : State) : Host.Outcome State Fault Refusal :=
  whileOn s (if 4 ≤ encoder then s else attempt (veWho encoder) (veFrame encoder) (upset upsets s))

/-- The next job's result, once the encoder's writes are acknowledged: of a job that a lock has ended, else of the running
job when it has ended. -/
def veResult (n : Nat) : M Unit := do
  let s ← get
  let x := getEnc s n
  match x.results, x.job, x.ended with
  | (j, code, frames, bytes, misses) :: rest, _, _ =>
    let _ ← codeOf (acknowledged (veWho n))
    veRecord n j code frames bytes misses
    modify (setEnc n { x with results := rest })
  | [], some j, some code =>
    let c ← codeOf (acknowledged (veWho n))
    veRecord n j (if code ≠ 0 then code else c) x.frames x.bytes x.misses
    modify (setEnc n { queue := x.queue })
  | _, _, _ => throw .hold

def execVeResult (encoder : Nat) (s : State) : Host.Outcome State Fault Refusal :=
  whileOn s (if 4 ≤ encoder then s else attempt (veWho encoder) (veResult encoder) s)

/-- A lock of an encoder ends its jobs (R552): their result records follow, and the lock is over once they are written. -/
def lockEncoder (n : Nat) (s : State) : State :=
  let x := getEnc s n
  let running := match x.job with
    | some j => [(j, x.ended.getD 0x0801, x.frames, x.bytes, x.misses)]
    | none => []
  setEnc n { results := x.results ++ running ++ x.queue.map fun j => (j, 0x0801, 0, 0, 0) } s

end Sys2Proof.Machine
end

