-- ==== Sys2Proof/Machine/Cistern.lean ====
section
/-! DEFINITION. The cistern: submission, dispatch, frames and their transform, sensor streams, batches, returns and the
cursor record (The Cistern Input Pipeline). -/

namespace Sys2Proof.Machine

/-- The controller's requests, and those of its cursor record. -/
def ciWho : Who := ⟨pgCistern, 0⟩
def cursorWho : Who := ⟨pgCistern, 1⟩
def tfWho (u : Nat) : Who := ⟨pgTransform u, 0⟩

def modCist (f : Cist → Cist) (s : State) : State := { s with cist := f s.cist }

/-- The controller runs. -/
def ciOn (s : State) : Bool := s.powered && isSet s pgCistern Reg.CI_CTRL_ENABLE && decide (lockState s pgCistern = 0)

/-! ### Buffers (R583) -/

def ciSlots (s : State) : Nat := rd s pgCistern Reg.CI_GEOM_SLOTS + 1
def ciDepth (s : State) : Nat := rd s pgCistern Reg.CI_GEOM_DEPTH + 1
def slotBytes (s : State) : Nat := rd s pgCistern Reg.CI_SLOT_BYTES
/-- Bytes of the validity mask. -/
def maskBytes (b : Nat) : Nat := 64 * ((b + 511) / 512)
/-- HB. -/
def headBytes (b : Nat) : Nat := (64 + maskBytes b + 8 * b + 4095) / 4096 * 4096

/-- Where the buffer of batch `b` begins. -/
def bufferAt (s : State) (b : Nat) : Nat :=
  rd s pgCistern Reg.CI_BASE + b % ciDepth s * (headBytes (ciSlots s) + ciSlots s * slotBytes s)

/-- Slot and status word of sample `n` (R562). -/
def slotAt (s : State) (n : Nat) : Nat :=
  bufferAt s (n / ciSlots s) + headBytes (ciSlots s) + n % ciSlots s * slotBytes s
def statusAt (s : State) (n : Nat) : Nat :=
  bufferAt s (n / ciSlots s) + 64 + maskBytes (ciSlots s) + 8 * (n % ciSlots s)

/-- Buffers that hold dispatched samples. -/
def fillingBatches (s : State) : List Nat := (s.cist.flight.map fun x => x.num / ciSlots s).eraseDups

def readyCount (s : State) : Nat := rd s pgCistern Reg.CI_READY - rd s pgCistern Reg.CI_RETURNED

/-- `CI_STATUS.LOW` follows the ready batches; its rise is EV_CI_LOW (R592). -/
def showCiLow (s : State) : State :=
  if readyCount s < rd s pgCistern Reg.CI_LOW_WATER then
    if isSet s pgCistern Reg.CI_STATUS_LOW then s else raiseBit pgCistern 4 (wr pgCistern Reg.CI_STATUS_LOW 1 s)
  else wr pgCistern Reg.CI_STATUS_LOW 0 s

/-- `CI_STATUS` but for `LOW`. -/
def showCistern (s : State) : State :=
  let blocked := s.cist.flight.any fun x =>
    x.num / ciSlots s == rd s pgCistern Reg.CI_READY && x.slow && !x.finished
  wr pgCistern Reg.CI_STATUS_READY (readyCount s) (wr pgCistern Reg.CI_STATUS_FILLING (fillingBatches s).length
    (wr pgCistern Reg.CI_STATUS_BLOCKED (natOf blocked) s))

/-- A command of the controller. -/
def ciCommand (m : M Unit) (s : State) : State := attempt ciWho (do m; modify showCistern) s

/-- A write to a buffer; a failing one is recorded in `PAGE_ERR_LOG` (log 46). -/
def ciWrite (a : Nat) (d : List PByte) : M Unit := do
  let c ← codeOf (busWrite ciWho a d)
  if c ≠ 0 then modify (logErr pgCistern c 0)

def zeros (n : Nat) : List PByte := List.replicate n (0, false)

/-! ### Transform descriptors (R570, R573) -/

structure Tx where
  d : List Byte
deriving DecidableEq, Repr

def Tx.ctrl (x : Tx) : Nat := fld x.d 0 4
def Tx.fmt (x : Tx) : FormatWord := FormatWord.ofNat (fld x.d 4 4)
def Tx.outW (x : Tx) : Nat := fld x.d 0x10 2
def Tx.outH (x : Tx) : Nat := fld x.d 0x12 2
def Tx.cropW (x : Tx) : Nat := fld x.d 0xC 2
def Tx.cropH (x : Tx) : Nat := fld x.d 0xE 2
def Tx.filter (x : Tx) : Nat := bitsOf x.ctrl 0 2
def Tx.planar (x : Tx) : Bool := bitOf x.ctrl 11

/-- The descriptor is refused. -/
def Tx.bad (x : Tx) : Bool :=
  bitsOf x.ctrl 15 17 != 0 || fld x.d 4 4 / 2 ^ 14 != 0 || fld x.d 0x3C 4 != 0 || x.filter == 3
    || !(Fmt.ofCode x.fmt.fmt == some .k8 || Fmt.ofCode x.fmt.fmt == some .k16)
    || (formatCheck x.fmt (some (fld x.d 0x30 8)) none).isSome
    || x.outW == 0 || x.outH == 0 || decide (8192 < x.outW) || decide (8192 < x.outH)
    || x.cropW == 0 || x.cropH == 0 || decide (16384 < x.cropW) || decide (16384 < x.cropH)

/-- Bytes of one row of a plane. -/
def Tx.rowBytes (x : Tx) : Nat :=
  (x.fmt.format.bytesFor x.outW + (if x.fmt.format.blockScaled then blockCount x.outW x.fmt.block else 0) + 63) / 64 * 64

/-- FB. -/
def Tx.frameBytes (x : Tx) : Nat :=
  if x.planar then 3 * x.outH * x.rowBytes else (x.outW * x.outH * recordBytes x.fmt + 63) / 64 * 64

/-! ### Submission (R561 to R567) -/

/-- The submission ring's next entry, when it is of a kind that `mine` takes. An entry that cannot be read counts as
kind 0; its code is recorded (log 46). -/
def takeEntry (mine : Nat → Bool) : M (List Byte) := do
  let s ← get
  let head := rd s pgCistern Reg.CI_SUB_HEAD
  waitFor (ciOn s && s.cist.waiting.isEmpty && head != rd s pgCistern Reg.CI_SUB_TAIL)
  let a := rd s pgCistern Reg.CI_SUB_BASE + 64 * (head % 2 ^ rd s pgCistern Reg.CI_SUB_CFG_LOG2)
  let d ← catchCode (busRead ciWho a 64)
  let (d, c) := match d with
    | .ok d => (d.map Prod.fst, 0)
    | .error c => ([], c)
  waitFor (mine (fld d 0 1))
  modify fun s =>
    let s := wr pgCistern Reg.CI_SUB_HEAD (head + 1) s
    if c = 0 then s else logErr pgCistern c 0 s
  return d

/-- Records a refusal. -/
def ciRefuse (code tag : Nat) (s : State) : State := logErr pgCistern code tag (bump pgCistern Reg.CI_ERRORS 1 s)

/-- The counters in force. -/
def ciAugs (s : State) : List Nat := (List.range 8).map fun i => rdAt s pgCistern Reg.CI_AUG i

/-- Numbers a sample. -/
def newSample (d xform : List Byte) (code : Nat) (s : State) : State :=
  let n := rd s pgCistern Reg.CI_NEXT_SAMPLE
  let s := if code = 0 then s else ciRefuse code n s
  let s := modCist (fun c => { c with
    waiting := c.waiting ++ [{ num := n, desc := d, xform := xform, code := code, free := s.drawn }]
    augs := if n % ciSlots s = 0 then insertKey c.augs (n / ciSlots s) (ciAugs s) else c.augs }) s
  wr pgCistern Reg.CI_NEXT_SAMPLE (n + 1) { s with drawn := s.drawn + 2 }

/-- Reserved bits and bytes that every kind shares. -/
def descReserved (d : List Byte) : Bool := fld d 1 1 / 2 != 0 || !zeroFrom d 0x30 0x40

/-- Bytes of a stream's region in a slot (R582). -/
def regionBytes (s : State) (n : Nat) : Nat := rdAt s pgCistern Reg.SS_CFG_REC_BYTES n - 16

/-- The streams of a sample. -/
def streamsOf (d : List Byte) : List Nat := maskBits 16 (fld d 0x16 2)

/-- Checks a DECODE descriptor: its code, its transform descriptor. -/
def checkDecode (d : List Byte) : M (Nat × List Byte) := do
  if descReserved d || fld d 4 2 == 0 || fld d 0x10 4 == 0 || decide (2 < fld d 0x14 1) || fld d 0x18 8 % 64 != 0 then return (0x0520, [])
  match ← catchCode (busRead ciWho (fld d 0x18 8) 64) with
  | .error c => return (c, [])
  | .ok x =>
    let t : Tx := ⟨x.map Prod.fst⟩
    if t.bad then return (0x0522, [])
    else if slotBytes (← get) < fld d 4 2 * t.frameBytes then return (0x0521, [])
    else return (0, t.d)

/-! ### Finishing a sample (R583 to R585, R587, R589) -/

def CiSample.kind (x : CiSample) : Nat := fld x.desc 0 1
def CiSample.pad (x : CiSample) : Bool := x.kind == 4
def CiSample.decodes (x : CiSample) : Bool := x.kind == 1 && x.code == 0
def CiSample.tx (x : CiSample) : Tx := ⟨x.xform⟩
def CiSample.frameAt (x : CiSample) (s : State) (f : Nat) : Nat := slotAt s x.num + f * x.tx.frameBytes

/-- The mask bit (R584). -/
def CiSample.valid (x : CiSample) (s : State) : Bool :=
  !(x.pad || x.code != 0 || (x.damaged && isSet s pgCistern Reg.CI_CTRL_EXCL_DAMAGED)
    || (x.late && isSet s pgCistern Reg.CI_CTRL_EXCL_LATE))

/-- The status word. -/
def CiSample.word (x : CiSample) (s : State) : Nat :=
  natOf (x.valid s) + natOf x.pad * 2 + natOf (x.code != 0) * 2 ^ 2 + natOf x.damaged * 2 ^ 3
    + natOf (x.tainted && !x.damaged) * 2 ^ 4 + natOf x.slow * 2 ^ 5 + natOf x.late * 2 ^ 6
    + (if x.kind = 3 then x.settled.length - x.missing.length else x.frames.length) % 2 ^ 16 * 2 ^ 8
    + (if x.code ≠ 0 then x.code else x.cause) * 2 ^ 32 + (x.missing.map fun n => 2 ^ n).foldl (· + ·) 0 * 2 ^ 48

/-- Replaces a dispatched sample. -/
def putSample (x : CiSample) (s : State) : State :=
  modCist (fun c => { c with flight := c.flight.map fun y => if y.num = x.num then x else y }) s

/-- Missing frames repeat the frame before them; a missing first frame is zero (R585). -/
def fillFrames (x : CiSample) : List Nat → M Unit
  | [] => return ()
  | f :: fs => do
    if !x.frames.contains f then
      let s ← get
      let fb := x.tx.frameBytes
      if f = 0 then ciWrite (x.frameAt s 0) (zeros fb)
      else
        match ← catchCode (busRead ciWho (x.frameAt s (f - 1)) fb) with
        | .ok d => ciWrite (x.frameAt s f) d
        | .error c => modify (logErr pgCistern c 0)
        modify (bump pgCistern Reg.CI_REPEATED_FRAMES 1)
    fillFrames x fs

/-- The running mean takes a decode time (R589). -/
def meanTakes (t : Nat) (s : State) : State :=
  let m := rd s pgCistern Reg.CI_MEAN
  wr pgCistern Reg.CI_MEAN (if m = 0 then t else ((m : Int) + Int.tdiv ((t : Int) - m) 16).toNat) s

/-- A sample finishes: its slot is complete and its status word written. -/
def finishSample (x : CiSample) : M Unit := do
  if x.decodes then fillFrames x (List.range (fld x.desc 4 2))
  let s ← get
  ciWrite (statusAt s x.num) (clean (leBytes 8 (x.word s)))
  modify fun s =>
    let s := bump pgCistern Reg.CI_SAMPLES 1 s
    let s := if x.damaged then bump pgCistern Reg.CI_DAMAGED 1 s else s
    let s := if x.pad then bump pgCistern Reg.CI_PADDED 1 s else s
    let s := match x.last with
      | some t => if x.abandoned then s else meanTakes t s
      | none => s
    putSample { x with finished := true, status := x.word s } s

/-! ### Sensor streams (R577 to R582) -/

def getStream (s : State) (n : Nat) : CiStream := look {} s.cist.streams n
def setStream (n : Nat) (x : CiStream) (s : State) : State := modCist (fun c => { c with streams := put {} c.streams n x }) s

/-- A number of `w` bits read as signed. -/
def signedOf (w v : Nat) : Int := if v < 2 ^ (w - 1) then v else (v : Int) - 2 ^ w

/-- The mapped time of a source time (R578). -/
def mappedTime (s : State) (n t : Nat) : Int :=
  let d := signedOf 64 t - signedOf 64 (rdAt s pgCistern Reg.SS_OFFSET n)
  max (-(2 ^ 63)) (min (2 ^ 63 - 1) (Int.fdiv (d * rdAt s pgCistern Reg.SS_RATE n) (2 ^ 32)))

def recordAt (s : State) (n i : Nat) : Nat :=
  rdAt s pgCistern Reg.SS_BASE n + i % 2 ^ rdAt s pgCistern Reg.SS_CFG_LOG2 n * rdAt s pgCistern Reg.SS_CFG_REC_BYTES n

/-- Examines the records that have arrived, `k` of them at most. One that goes back in time is skipped and counted
(R579); one that cannot be read is skipped, with its code in the log (log 46). -/
def examineStream (n : Nat) : Nat → M Unit
  | 0 => return ()
  | k + 1 => do
    let s ← get
    let x := getStream s n
    if x.seen = rdAt s pgCistern Reg.SS_TAIL n then return ()
    match ← catchCode (busReadNat ciWho (recordAt s n x.seen) 8) with
    | .error c => modify fun s => logErr pgCistern c n (setStream n { x with seen := (x.seen + 1) % 2 ^ 32 } s)
    | .ok (t, _) =>
      let m := mappedTime s n t
      let back := match x.last with
        | some l => decide (m < l)
        | none => false
      modify fun s =>
        let s := setStream n { seen := (x.seen + 1) % 2 ^ 32, last := some m
                               recs := if back then x.recs else x.recs ++ [(x.seen, m)] } s
        if back then addAt pgCistern Reg.SS_DISORDER n 1 s else s
    examineStream n k

def examineAll (n : Nat) : M Unit := do
  let s ← get
  examineStream n (sub32 (rdAt s pgCistern Reg.SS_TAIL n) (getStream s n).seen)

/-- The record nearest to T within the tolerance, the earlier one on a tie (R580). -/
def nearestRecord (t tol : Int) : List (Nat × Int) → Option (Nat × Int)
  | [] => none
  | r :: rs =>
    let rest := nearestRecord t tol rs
    if (r.2 - t).natAbs ≤ tol.toNat then
      match rest with
      | some q => if (q.2 - t).natAbs < (r.2 - t).natAbs then some q else some r
      | none => some r
    else rest

/-- Where the region of stream `n` begins in the slot. -/
def regionAt (s : State) (x : CiSample) (n : Nat) : Nat :=
  slotAt s x.num + (((streamsOf x.desc).filter fun m => decide (m < n)).map (regionBytes s)).foldl (· + ·) 0

/-- Settles stream `n` of a sample on a record, or on none: its region of the slot, `SS_HEAD` (R581, R582). -/
def settleOn (x : CiSample) (n : Nat) (r : Option (Nat × Int)) : M CiSample := do
  let s ← get
  let size := regionBytes s n
  let d ← match r with
    | none => pure (zeros size)
    | some (i, _) => do
      let a := recordAt s n i
      match ← catchCode (do
          let (len, _) ← busReadNat ciWho (a + 8) 4
          busRead ciWho (a + 16) (min len size)) with
      | .ok d => pure (d ++ zeros (size - d.length))
      | .error c => do
        modify (logErr pgCistern c n)
        pure (zeros size)
  ciWrite (regionAt s x n) d
  match r with
  | none =>
    return { x with settled := x.settled ++ [n], missing := x.missing ++ [n], damaged := true
                    cause := if x.cause = 0 then 0x0525 else x.cause }
  | some (i, _) =>
    modify fun s =>
      let y := getStream s n
      wrAt pgCistern Reg.SS_HEAD n i (setStream n { y with recs := y.recs.dropWhile fun q => q.1 != i } s)
    return { x with settled := x.settled ++ [n] }

/-- Settles the streams that can be, all of them once the budget has expired. -/
def settleStreams (expired : Bool) (x : CiSample) : List Nat → M CiSample
  | [] => return x
  | n :: ns => do
    let s ← get
    let recs := (getStream s n).recs
    let t := signedOf 64 (fld x.desc 0x28 8)
    let tol : Int := fld x.desc 0x24 4
    let r := nearestRecord t tol recs
    let arrived := recs.any fun q => decide (t + tol < q.2)
    let y ← if x.settled.contains n || !(arrived || expired) then pure x else do
      let y ← settleOn x n r
      pure { y with late := y.late || (expired && !arrived && r.isNone) }
    settleStreams expired y ns

/-- A SENSOR sample settles what it can, and finishes when all its streams are settled. -/
def settleSample (expired : Bool) (x : CiSample) : M Unit := do
  let y ← settleStreams expired x (streamsOf x.desc)
  if (streamsOf y.desc).all y.settled.contains then finishSample y else modify (putSample y)

def settleAll : List Nat → M Unit
  | [] => return ()
  | n :: ns => do
    match (← get).cist.flight.find? fun x => x.num == n && !x.finished with
    | some x => settleSample false x
    | none => pure ()
    settleAll ns

/-- The SENSOR samples under way, in order. -/
def sensorSamples (s : State) : List Nat := (s.cist.flight.filter fun x => x.kind == 3 && x.code == 0).map CiSample.num

/-- `SS_TAIL` of a stream has advanced. -/
def ssTailAdvance (n : Nat) : M Unit := do
  if ciOn (← get) then
    examineAll n
    settleAll (sensorSamples (← get))

/-- A write to `SS_TAIL`: it is stored whatever the records' reads do. -/
def ssTail (n tail : Nat) (s : State) : State :=
  if 16 ≤ n ∨ !writable s pgCistern then s
  else ciCommand (ssTailAdvance n) (wrAt pgCistern Reg.SS_TAIL n tail s)

def execSsTailAdvance (stream tail : Nat) (s : State) : Host.Outcome State Fault Refusal := whileOn s (ssTail stream tail s)

def examineEach : List Nat → M Unit
  | [] => return ()
  | n :: ns => do examineAll n; examineEach ns

/-! ### Dispatch (R560, R564, R565, R586, R588) -/

/-- A decoder that may be given a job. -/
def decoderFree (s : State) (n : Nat) : Bool :=
  let x := getDec s n
  bitOf (rd s pgCistern Reg.CI_DECODERS_DEC) n && x.job.isNone && x.queue.isEmpty && !s.cist.owed.contains n
    && isSet s (pgDecoder n) Reg.VD_CTRL_ENABLE && decide (lockState s (pgDecoder n) = 0)

def freeDecoder (s : State) : Option Nat := (List.range 16).find? (decoderFree s)

/-- The conditions of R586. -/
def canDispatch (s : State) (x : CiSample) : Bool :=
  decide (s.cist.flight.length < 256) && decide (x.num / ciSlots s < rd s pgCistern Reg.CI_RETURNED + ciDepth s)
    && (!x.decodes || (freeDecoder s).isSome)

/-- The decode job of a sample (R564). -/
def decodeJob (x : CiSample) : List Byte :=
  leBytes 4 (fld x.desc 0x14 1 + fld x.desc 1 1 * 4 + fld x.desc 2 2 * 2 ^ 16) ++ leBytes 4 x.num ++ leBytes 8 (fld x.desc 8 8)
    ++ leBytes 4 (fld x.desc 0x10 4) ++ leBytes 2 (fld x.desc 6 2) ++ leBytes 2 (fld x.desc 4 2) ++ leBytes 8 0

/-- The budget of a sample in cycles (R588). -/
def budgetOf (s : State) (x : CiSample) : Option Nat :=
  let us := fld x.desc 0x20 4
  if x.kind = 3 then (if us = 0 then none else some (us * 2000))
  else if !x.decodes then none
  else some (if us ≠ 0 then us * 2000
    else max (rd s pgCistern Reg.CI_BUDGET_MULT * rd s pgCistern Reg.CI_MEAN) (rd s pgCistern Reg.CI_BUDGET_MIN_US * 2000))

/-- The copy of a COPY sample. A source that cannot be read refuses the sample with the read's code (log 46). -/
def copySample (x : CiSample) : M CiSample := do
  let s ← get
  match ← catchCode (busRead ciWho (fld x.desc 8 8) (fld x.desc 0x10 4)) with
  | .error c =>
    modify (ciRefuse c x.num)
    ciWrite (slotAt s x.num) (zeros (slotBytes s))
    return { x with code := c }
  | .ok d =>
    ciWrite (slotAt s x.num) (d ++ zeros (slotBytes s - d.length))
    if d.any Prod.snd then return { x with damaged := true, cause := 0x0507 } else return x

/-- Dispatches the oldest waiting sample. -/
def ciDispatch : M Unit := do
  let s ← get
  match s.cist.waiting with
  | [] => throw .hold
  | x :: rest =>
    waitFor (ciOn s && canDispatch s x)
    let x := { x with budget := budgetOf s x }
    modify (modCist fun c => { c with waiting := rest, flight := c.flight ++ [x] })
    if x.code ≠ 0 || x.pad then
      ciWrite (slotAt s x.num) (zeros (slotBytes s))
      finishSample x
    else if x.kind = 2 then finishSample (← copySample x)
    else if x.kind = 3 then
      examineEach (streamsOf x.desc)
      settleSample false x
    else
      match freeDecoder s with
      | some n => modify fun s => putSample { x with dec := some n } (vdSubmit n 0 (decodeJob x) s)
      | none => throw .hold

def execCiDispatch (s : State) : Host.Outcome State Fault Refusal := whileOn s (ciCommand ciDispatch s)

/-- Dispatches waiting samples, `k` at most, as far as the conditions allow. -/
def dispatchSome : Nat → M Unit
  | 0 => return ()
  | k + 1 => do
    let s ← get
    match s.cist.waiting with
    | [] => return ()
    | x :: _ => if canDispatch s x then do ciDispatch; dispatchSome k else return ()

/-! ### The submission commands -/

/-- CI_DECODE takes every descriptor whose kind no other command takes; a reserved kind is refused and makes no sample. -/
def ciDecode : M Unit := do
  let d ← takeEntry fun k => !(k == 2 || k == 3 || k == 4 || k == 5)
  if fld d 0 1 = 1 then
    let (c, x) ← checkDecode d
    modify (newSample d x c)
    dispatchSome 1
  else if !d.isEmpty then modify (ciRefuse 0x0520 0)

def ciCopy : M Unit := do
  let d ← takeEntry (· == 2)
  modify fun s => newSample d [] (if descReserved d || decide (slotBytes s < fld d 0x10 4) then 0x0520 else 0) s
  dispatchSome 1

def ciSensor : M Unit := do
  let d ← takeEntry (· == 3)
  modify fun s =>
    let size := ((streamsOf d).map (regionBytes s)).foldl (· + ·) 0
    newSample d [] (if descReserved d || decide (slotBytes s < size) then 0x0520 else 0) s
  dispatchSome 1

def newSamples (d : List Byte) : Nat → State → State
  | 0, s => s
  | k + 1, s => newSamples d k (newSample d [] 0 s)

/-- PAD fills the batch (R562); at a boundary it makes no sample (R566). -/
def ciPad : M Unit := do
  let d ← takeEntry (· == 4)
  let s ← get
  let b := ciSlots s
  if descReserved d then modify (ciRefuse 0x0520 0)
  else
    let k := (b - rd s pgCistern Reg.CI_NEXT_SAMPLE % b) % b
    modify (newSamples d k)
    dispatchSome k

def ciSetAug : M Unit := do
  let d ← takeEntry (· == 5)
  let s ← get
  if descReserved d || decide (7 < fld d 0x15 1) then modify (ciRefuse 0x0520 0)
  else if rd s pgCistern Reg.CI_NEXT_SAMPLE % ciSlots s ≠ 0 then modify (ciRefuse 0x0523 0)
  else modify (wrAt pgCistern Reg.CI_AUG (fld d 0x15 1) (fld d 8 8))

def execCiDecode (s : State) : Host.Outcome State Fault Refusal := whileOn s (ciCommand ciDecode s)
def execCiCopy (s : State) : Host.Outcome State Fault Refusal := whileOn s (ciCommand ciCopy s)
def execCiSensor (s : State) : Host.Outcome State Fault Refusal := whileOn s (ciCommand ciSensor s)
def execCiPad (s : State) : Host.Outcome State Fault Refusal := whileOn s (ciCommand ciPad s)
def execCiSetAug (s : State) : Host.Outcome State Fault Refusal := whileOn s (ciCommand ciSetAug s)

/-! ### Frame entries (R558, R568, R569) -/

def framesAt (s : State) (u : Nat) : Nat := (s.cist.frames.filter fun f => f.unit == u).length

/-- The permitted unit with the fewest frames, the lowest on a tie; none of `but`. -/
def pickUnit (s : State) (but : Option Nat) : Option Nat :=
  ((maskBits 8 (rd s pgCistern Reg.CI_DECODERS_XF)).filter fun u =>
    decide (lockState s (pgTransform u) = 0) && but != some u).foldl (fun best u =>
      match best with
      | some v => if framesAt s u < framesAt s v then some u else best
      | none => some u) none

/-- All frames of a sample are transformed and its `LAST` has come. -/
def frameDone (n : Nat) : M Unit := do
  let s ← get
  match s.cist.flight.find? fun x => x.num == n && !x.finished with
  | some x => if x.last.isSome && !s.cist.frames.any (fun f => f.sample == n) then finishSample x
  | none => pure ()

/-- The next entry of a decoder's notice ring; `cycles` is the time since the sample's dispatch. -/
def ciFrameEntry (n cycles : Nat) : M Unit := do
  let s ← get
  let page := pgDecoder n
  let head := rd s page Reg.VD_RING_HEAD
  waitFor (ciOn s && decide (n < 16) && bitOf (rd s pgCistern Reg.CI_DECODERS_DEC) n && head != rd s page Reg.VD_RING_TAIL)
  let d ← catchCode (busRead ciWho (rd s page Reg.VD_RING_BASE + 32 * (head % ringLen s n)) 32)
  modify (wr page Reg.VD_RING_HEAD (head + 1))
  match d with
  | .error c => modify (logErr pgCistern c 0)
  | .ok d =>
    let e := d.map Prod.fst
    let flags := fld e 1 1
    let buf := fld e 2 2
    let frame := fld e 0 1 == 1
    let last := frame && bitOf flags 4
    let picture := frame && !bitOf flags 3
    let drop := fun s => if frame && buf != 0xFFFF then vdRelease n buf s else s
    if s.cist.owed.contains n then
      modify fun s => drop (if last then modCist (fun c => { c with owed := c.owed.erase n }) s else s)
    else
      match s.cist.flight.find? fun x => x.dec == some n && x.num % 2 ^ 32 == fld e 4 4 && !x.finished with
      | none => modify drop
      | some x =>
        let f := fld e 8 4 - fld x.desc 6 2
        let y := { x with
          damaged := x.damaged || (frame && (bitOf flags 0 || bitOf flags 3)), tainted := x.tainted || (frame && bitOf flags 1)
          cause := if x.cause = 0 then fld e 0x1C 2 else x.cause
          last := if last then some cycles else x.last }
        modify (putSample y)
        if picture then
          match pickUnit s none with
          | none => throw .hold
          | some u =>
            modify (modCist fun c => { c with frames := c.frames ++ [{
              sample := x.num, f := f, dec := n, buf := buf, unit := u, width := fld e 0x10 2, height := fld e 0x12 2
              depth := fld e 0x14 1, chroma := fld e 0x15 1 }] })
        frameDone x.num

def execCiFrameEntry (decoder cycles : Nat) (s : State) : Host.Outcome State Fault Refusal :=
  whileOn s (ciCommand (ciFrameEntry decoder cycles) s)

/-- A lock of a transform unit hands its frames to others (R569). -/
def lockTransform (u : Nat) (s : State) : State :=
  (s.cist.frames.filter fun f => f.unit == u).foldl (fun s f =>
    match pickUnit s (some u) with
    | some v => modCist (fun c => { c with frames := c.frames.map fun g => if g = f then { g with unit := v } else g }) s
    | none => s) s

/-! ### The transform (R571 to R575) -/

/-- floor of an F32 pattern. -/
def floorInt (b : Nat) : Int :=
  match f32Val b with
  | .fin neg m e =>
    let q : Int := shiftLeft m e
    if neg then (if 0 ≤ e ∨ m % 2 ^ (-e).toNat = 0 then -q else -q - 1) else q
  | _ => 0

def f32OfInt (n : Int) : Nat := f32Of (Val.ofInt n 0)
def f32Two : Nat := 0x40000000

/-- What one frame's transform works with: flips and crop origin after the draw of R575. -/
structure TxWork where
  x : Tx
  hflip : Bool
  vflip : Bool
  cx : Nat
  cy : Nat
  frame : CiFrame
  full : Bool
  base : Nat
  coarse : Nat
deriving DecidableEq, Repr

/-- Quarter turns undone: (u, v) and (w, h). -/
def unturn : Nat → (Nat × Nat) × (Nat × Nat) → (Nat × Nat) × (Nat × Nat)
  | 0, p => p
  | n + 1, ((u, v), (w, h)) => unturn n ((f32Sub h v, u), (h, w))

/-- Source position of an output pixel, none outside a rotated picture; and the size (w, h) that it leaves. -/
def sourceAt (k : TxWork) (ox oy : Nat) : Option (Nat × Nat) × (Nat × Nat) :=
  let c := k.x.ctrl
  let w := f32OfNat k.x.outW
  let h := f32OfNat k.x.outH
  let u := f32Add (f32OfNat ox) f32Half
  let v := f32Add (f32OfNat oy) f32Half
  let u := if k.hflip then f32Sub w u else u
  let v := if k.vflip then f32Sub h v else v
  let ((u, v), (w, h)) := unturn (bitsOf c 4 2) ((u, v), (w, h))
  let rot := bitOf c 6
  let du := f32Sub u (f32Mul w f32Half)
  let dv := f32Sub v (f32Mul h f32Half)
  let cs := f32Cos (fld k.x.d 0x14 4)
  let sn := f32Sin (fld k.x.d 0x14 4)
  let ru := f32Sub (f32Add (f32Mul w f32Half) (f32Mul du cs)) (f32Mul dv sn)
  let rv := f32Add (f32Add (f32Mul h f32Half) (f32Mul du sn)) (f32Mul dv cs)
  let (u, v) := if rot then (ru, rv) else (u, v)
  let beyond := fun a b => (f32Val a).lt (f32Val b)
  if rot && (beyond u 0 || beyond w u || beyond v 0 || beyond h v) then (none, (w, h))
  else
    let at_ := fun o a size n => f32Sub (f32Add (f32OfNat o) (f32Div (f32Mul a (f32OfNat size)) n)) f32Half
    (some (at_ k.cx u k.x.cropW w, at_ k.cy v k.x.cropH h), (w, h))

/-- A tap: index along an axis, held to the plane, and its weight. -/
abbrev Tap := Nat × Nat

def clampIdx (n : Nat) (i : Int) : Nat := (max 0 (min i (n - 1))).toNat

/-- The cubic convolution kernel of parameter -0.5 at distance `t`, exact and rounded once. -/
def cubicWeight (t : Nat) : Nat :=
  let a := (f32Val t).abs
  let a2 := a.mul a
  let a3 := a2.mul a
  let half := Val.fin false 1 (-1)
  let n := Val.ofNat
  f32Of (if a.le .one then (((n 3).mul half).mul a3).sub (((n 5).mul half).mul a2) |>.add .one
    else if a.lt (n 2) then ((((half.mul a3).neg).add (((n 5).mul half).mul a2)).sub ((n 4).mul a)).add (n 2)
    else .zero)

/-- Bicubic taps of a coordinate in a plane of size n. -/
def cubicTaps (n c : Nat) : List Tap :=
  (List.range 4).map fun (i : Nat) =>
    let j : Int := floorInt c - 1 + i
    (clampIdx n j, cubicWeight (f32Sub c (f32OfInt j)))

/-- Area taps: the pixels under a footprint of width f about the coordinate, weighted by overlap. -/
def areaTaps (n c f : Nat) : List Tap :=
  let mid := f32Add c f32Half
  let lo := f32Sub mid (f32Mul f f32Half)
  let hi := f32Add mid (f32Mul f f32Half)
  let a := floorInt lo
  let b := floorInt hi
  (List.range (b - a + 1).toNat).map fun (i : Nat) =>
    let j : Int := a + i
    (clampIdx n j, f32Max 0 (f32Sub (f32Min (f32OfInt (j + 1)) hi) (f32Max (f32OfInt j) lo)))

/-- Reads one sample of plane p of the frame buffer, as F32, with its poison. -/
def planeSample (u : Nat) (k : TxWork) (c : Picture) (p y x : Nat) : M (Nat × Bool) := do
  let (v, q) ← busReadNat (tfWho u) (k.base + planeOffset c p + y * pitchOf c p + x * sampleBytes c) (sampleBytes c)
  return (f32OfNat v, q)

/-- Weighted sum over taps in raster order, and the sum of the weights. -/
def tapSum (u : Nat) (k : TxWork) (c : Picture) (p : Nat) : List (Tap × Tap) → Nat × Nat × Bool → M (Nat × Nat × Bool)
  | [], acc => return acc
  | (ty, tx) :: ts, (sum, ws, q) => do
    let (v, r) ← planeSample u k c p ty.1 tx.1
    let w := f32Mul ty.2 tx.2
    tapSum u k c p ts (f32Add sum (f32Mul w v), f32Add ws w, q || r)

/-- Plane p sampled at (x, y) with the filter (R572): every chroma plane at the halved x, one of 4:2:0 at the halved y. -/
def samplePlane (u : Nat) (k : TxWork) (c : Picture) (p x y fw fh : Nat) : M (Nat × Bool) := do
  let ((pw, ph), (sx, sy)) := planeDims c p
  let sub := fun s v => if s = 2 then f32Sub (f32Mul (f32Add v f32Half) f32Half) f32Half else v
  let x := sub (if p = 0 then 1 else 2) x
  let y := sub sy y
  let foot := fun s f => if s = 2 then f32Mul f f32Half else f
  let cross := fun (ys xs : List Tap) => ys.flatMap fun a => xs.map fun b => (a, b)
  if k.x.filter = 1 then
    let (v, _, q) ← tapSum u k c p (cross (cubicTaps ph y) (cubicTaps pw x)) (0, 0, false)
    return (v, q)
  else if k.x.filter = 2 && !bitOf k.x.ctrl 6 then
    let (v, w, q) ← tapSum u k c p (cross (areaTaps ph y (foot sy fh)) (areaTaps pw x (foot sx fw))) (0, 0, false)
    return (f32Div v w, q)
  else
    let yl := floorInt y
    let xl := floorInt x
    let fy := f32Sub y (f32OfInt yl)
    let fx := f32Sub x (f32OfInt xl)
    let at_ := fun (b a : Int) => planeSample u k c p (clampIdx ph b) (clampIdx pw a)
    let (a, q0) ← at_ yl xl
    let (b, q1) ← at_ yl (xl + 1)
    let (d, q2) ← at_ (yl + 1) xl
    let (e, q3) ← at_ (yl + 1) (xl + 1)
    return (lerp (lerp a b fx) (lerp d e fx) fy, q0 || q1 || q2 || q3)

/-- The coefficients Kr and Kb. -/
def matrixOf (bt2020 : Bool) : Nat × Nat :=
  let r := fun a => f32Div (f32OfNat a) (f32OfNat 10000)
  if bt2020 then (r 2627, r 593) else (r 2126, r 722)

/-- Y', Cb', Cr' of sampled values at depth d (R572, step 1). -/
def normalise (full : Bool) (d : Nat) (chroma : Bool) (v : Nat) : Nat :=
  if full then
    f32Div (if chroma then f32Sub v (f32OfNat (2 ^ (d - 1))) else v) (f32OfNat (2 ^ d - 1))
  else f32Div (f32Sub v (f32OfNat ((if chroma then 128 else 16) * 2 ^ (d - 8))))
    (f32OfNat ((if chroma then 224 else 219) * 2 ^ (d - 8)))

/-- R, G, B of Y', Cb', Cr' (step 2). -/
def toRgb (bt2020 : Bool) (y cb cr : Nat) : List Nat :=
  let (kr, kb) := matrixOf bt2020
  let r := f32Add y (f32Mul (f32Mul f32Two (f32Sub f32One kr)) cr)
  let b := f32Add y (f32Mul (f32Mul f32Two (f32Sub f32One kb)) cb)
  [r, f32Div (f32Sub (f32Sub y (f32Mul kr r)) (f32Mul kb b)) (f32Sub (f32Sub f32One kr) kb), b]

/-- The three output values of one pixel, before encoding, and its poison. Where the position is no number the spec
states no sample: the values are free (log 47). -/
def txPixel (u : Nat) (k : TxWork) (oy ox : Nat) : M (List Nat × Bool) := do
  let (at_, (w, h)) := sourceAt k ox oy
  match at_ with
  | none => return (List.replicate 3 (fld k.x.d 0x38 4), false)
  | some (x, y) =>
    if !(f32Val x).isFin || !(f32Val y).isFin then
      let a ← freshNat
      let b ← freshNat
      let c ← freshNat
      return ([a % 2 ^ 32, b % 2 ^ 32, c % 2 ^ 32], false)
    else
      let fr := k.frame
      let c : Picture := { sourcePicture [] with width := fr.width, height := fr.height, depth := fr.depth, chroma := fr.chroma }
      let fw := f32Div (f32OfNat k.x.cropW) w
      let fh := f32Div (f32OfNat k.x.cropH) h
      let (l, q) ← samplePlane u k c 0 x y fw fh
      let yy := normalise k.full fr.depth false l
      let (rgb, q) ← if fr.chroma = 0 then pure ([yy, yy, yy], q) else do
        let (cb, q1) ← samplePlane u k c 1 x y fw fh
        let (cr, q2) ← samplePlane u k c 2 x y fw fh
        pure (toRgb (bitOf k.x.ctrl 7) yy (normalise k.full fr.depth true cb) (normalise k.full fr.depth true cr), q || q1 || q2)
      return (rgb.zipIdx.map fun e =>
        f32Mul (f32Sub (f32Min (f32Max e.1 0) f32One) (fld k.x.d (0x18 + 4 * e.2) 4)) (fld k.x.d (0x24 + 4 * e.2) 4), q)

def txPixels (u : Nat) (k : TxWork) (oy : Nat) : List Nat → M (List (List Nat × Bool))
  | [] => return []
  | ox :: rest => do
    let p ← txPixel u k oy ox
    let ps ← txPixels u k oy rest
    return p :: ps

/-- Writes the records of a row's pixels, the first of them element number `base` (R573, R574). -/
def writeRecords (u : Nat) (k : TxWork) (rnd : Nat → Nat) (a base : Nat) : List ((List Nat × Bool) × Nat) → M Unit
  | [] => return ()
  | ((xs, q), i) :: rest => do
    let (e, _) := encodeVec k.x.fmt k.coarse rnd (base + 3 * i) q (xs ++ List.replicate 61 0)
    busWrite (tfWho u) (a + i * recordBytes k.x.fmt) (marked q (recordOf k.x.fmt e))
    writeRecords u k rnd a base rest

/-- Writes a row of each plane. -/
def writePlanes (u : Nat) (k : TxWork) (rnd : Nat → Nat) (a base : Nat) (ps : List (List Nat × Bool)) : List Nat → M Unit
  | [] => return ()
  | c :: cs => do
    let (s8, codes, _) := encodeRow k.x.fmt k.coarse (fun i => rnd (base + 3 * i + c)) 0 (ps.map fun p => p.1.getD c 0)
    let row := padTo k.x.rowBytes (packCodes k.x.fmt.format codes ++ s8.map byteOf)
    busWrite (tfWho u) (a + c * k.x.outH * k.x.rowBytes) (marked (ps.any Prod.snd) row)
    writePlanes u k rnd a base ps cs

def txRows (u : Nat) (k : TxWork) (rnd : Nat → Nat) (a : Nat) : List Nat → M Unit
  | [] => return ()
  | oy :: rest => do
    let ps ← txPixels u k oy (List.range k.x.outW)
    let base := (k.frame.f * k.x.outH + oy) * k.x.outW * 3
    if k.x.planar then writePlanes u k rnd (a + oy * k.x.rowBytes) base ps [0, 1, 2]
    else writeRecords u k rnd (a + oy * k.x.outW * recordBytes k.x.fmt) base ps.zipIdx
    txRows u k rnd a rest

/-- Crop origin along an axis (R575). A divisor of zero is no case of the rule: the origin is then free (log 47). -/
def cropOrigin (drawn : Bool) (origin size pic x free : Nat) : Nat :=
  let d := (pic : Int) - origin - size + 1
  if !drawn then origin
  else if d = 0 then origin + Config.freeNat free
  else origin + x % (if d < 0 then 1 else d.toNat)

/-- The work of one frame: draws, coarse scale, all its rows. -/
def txFrame (u : Nat) (x : CiSample) (fr : CiFrame) : M Unit := do
  let s ← get
  let t := x.tx
  let coarse ← readCoarse (tfWho u) t.fmt (fld t.d 0x30 8) (committed s % 3)
  let aug := (look (ciAugs s) s.cist.augs (x.num / ciSlots s)).getD (bitsOf t.ctrl 12 3) 0 % 2 ^ 32
  let tag := fld x.desc 2 2
  let n := x.num % 2 ^ 32
  let z := philox (rd s pgMonitor Reg.RNG_SEED) (7 * 2 ^ 16 + tag) (0, n, aug, 1)
  let flip := bitOf t.ctrl 9
  let crop := bitOf t.ctrl 10
  let k : TxWork := {
    x := t, frame := fr, coarse := coarse, base := bufAt s fr.dec fr.buf
    hflip := bitOf t.ctrl 2 != (flip && bitOf (z.getD 0 0) 0), vflip := bitOf t.ctrl 3 != (flip && bitOf (z.getD 0 0) 1)
    cx := cropOrigin crop (fld t.d 8 2) t.cropW fr.width (z.getD 1 0) x.free
    cy := cropOrigin crop (fld t.d 0xA 2) t.cropH fr.height (z.getD 2 0) (x.free + 1)
    full := bitOf t.ctrl 8 || fld x.desc 0x14 1 == 2 }
  txRows u k (draws s 7 tag n aug) (x.frameAt s fr.f) (List.range t.outH)

/-- A transform unit converts its oldest frame; one whose transform fails is not delivered (log 46). -/
def tfFrame (u : Nat) : M Unit := do
  let s ← get
  match s.cist.frames.find? fun f => f.unit == u with
  | none => throw .hold
  | some fr =>
    waitFor (ciOn s && decide (lockState s (pgTransform u) = 0))
    match s.cist.flight.find? fun x => x.num == fr.sample && !x.finished with
    | none => pure ()
    | some x =>
      match ← catchCode (txFrame u x fr) with
      | .ok _ => modify (putSample { x with frames := x.frames ++ [fr.f] })
      | .error c =>
        modify fun s => logErr (pgTransform u) c x.num
          (putSample { x with damaged := true, cause := if x.cause = 0 then c else x.cause } s)
    modify fun s => vdRelease fr.dec fr.buf (modCist (fun c => { c with frames := c.frames.erase fr }) s)
    frameDone fr.sample

def execTfFrameTransform (unit : Nat) (s : State) : Host.Outcome State Fault Refusal :=
  whileOn s (if 8 ≤ unit then s else attempt (tfWho unit) (do tfFrame unit; modify showCistern) s)

/-! ### Budgets (R590) -/

/-- Discards the frames of a sample that are not yet transformed, and releases their buffers. -/
def dropFrames (n : Nat) (s : State) : State :=
  let mine := s.cist.frames.filter fun f => f.sample == n
  mine.foldl (fun s f => vdRelease f.dec f.buf s)
    (modCist (fun c => { c with frames := c.frames.filter fun f => f.sample != n }) s)

/-- `cycles` have passed since sample n was dispatched. -/
def budgetExpiry (n cycles : Nat) : M Unit := do
  let s ← get
  match s.cist.flight.find? fun x => x.num == n && !x.finished && !x.slow with
  | none => throw .hold
  | some x =>
    match x.budget with
    | none => throw .hold
    | some b =>
      waitFor (ciOn s && decide (b ≤ cycles))
      let x := { x with slow := true }
      modify fun s => raiseBit pgCistern 5 (bump pgCistern Reg.CI_SLOW 1 (putSample x s))
      if x.kind = 3 then settleSample true x
      else if isSet s pgCistern Reg.CI_CTRL_ABANDON then
        modify fun s =>
          let s := dropFrames n (raiseBit pgCistern 6 (bump pgCistern Reg.CI_LATE 1 s))
          match x.dec, x.last with
          | some d, none => modCist (fun c => { c with owed := c.owed ++ [d] }) s
          | _, _ => s
        finishSample { x with late := true, abandoned := true }

def execCiBudgetExpiry (sample cycles : Nat) (s : State) : Host.Outcome State Fault Refusal :=
  whileOn s (ciCommand (budgetExpiry sample cycles) s)

/-! ### Release and return (R587, R591, R592) -/

/-- The header of a batch, from its status words. -/
def batchHeader (b slots : Nat) (ws : List Nat) : List Byte :=
  let count := fun i => (ws.filter fun w => bitOf w i).length
  leBytes 8 b ++ leBytes 8 (b * slots) ++ leBytes 2 (slots - count 1) ++ leBytes 2 (count 3) ++ leBytes 2 (count 6)
    ++ leBytes 2 (count 0) ++ leBytes 4 0 ++ leBytes 4 0 ++ leBytes 32 0

/-- The validity mask. -/
def batchMask (slots : Nat) (ws : List Nat) : List Byte :=
  leBytes (maskBytes slots) ((ws.zipIdx.map fun e => natOf (bitOf e.1 0) * 2 ^ e.2).foldl (· + ·) 0)

def notifyAdds : List Nat → M Unit
  | [] => return ()
  | a :: as => do
    if a ≠ 0 then busAdd ⟨pgCistern, 2⟩ a 1
    notifyAdds as

/-- The writes of the controller and of the transform units are acknowledged; their failures enter the log. -/
def cisternAcks : List (Who × Nat) → M Unit
  | [] => return ()
  | (w, page) :: ws => do
    let c ← codeOf (acknowledged w)
    if c ≠ 0 then modify (logErr page c 0)
    cisternAcks ws

def cisternWriters : List (Who × Nat) := (ciWho, pgCistern) :: (List.range 8).map fun u => (tfWho u, pgTransform u)

/-- The next step of the release of the oldest filling batch, once all its samples are finished and what was written is
acknowledged (R587). -/
def batchRelease : M Unit := do
  let s ← get
  let b := rd s pgCistern Reg.CI_READY
  let n := ciSlots s
  let mine := s.cist.flight.filter fun x => x.num / n == b
  waitFor (ciOn s && mine.length == n && mine.all CiSample.finished)
  cisternAcks cisternWriters
  let ws := mine.map CiSample.status
  let a := bufferAt s b
  match s.cist.releasing with
  | 0 =>
    ciWrite a (clean (batchHeader b n ws ++ batchMask n ws))
    modify (modCist fun c => { c with releasing := 1 })
  | 1 =>
    ciWrite (a + 0x1C) (clean (leBytes 4 1))
    modify (modCist fun c => { c with releasing := 2 })
  | _ =>
    modify fun s => showCiLow (wr pgCistern Reg.CI_READY (b + 1)
      (modCist (fun c => { c with releasing := 0, flight := c.flight.filter fun x => x.num / n != b }) s))
    notifyAdds ((List.range 4).map fun i => rdAt s pgCistern Reg.CI_NOTIFY i)

/-- Steps of a release, `k` at most, as far as none must wait. -/
def releaseSteps : Nat → State → State
  | 0, s => s
  | k + 1, s =>
    let t := ciCommand batchRelease s
    if t.cist.releasing = 0 ∨ t.cist.releasing = s.cist.releasing then t else releaseSteps k t

/-- CI_BATCH_RELEASE: the three steps of a release. -/
def releaseBatch (s : State) : State := releaseSteps 3 s

def execCiBatchRelease (s : State) : Host.Outcome State Fault Refusal := whileOn s (releaseBatch s)

/-- A write to `CI_RETURN` at byte `off` of the register. -/
def ciReturn (off : Nat) (data : List Byte) (s : State) : State :=
  if !writable s pgCistern ∨ off ≠ 0 ∨ data.length ≠ 8 then s
  else
    let step := fld data 0 4
    let count := fld data 4 1
    let ready := readyCount s
    let falling : Bool := match s.cist.lastReturn with
      | some l => decide (step < l)
      | none => false
    if count = 0 ∨ 64 < count ∨ ready < count ∨ falling then logErr pgCistern 0x0524 step s
    else
      let s := modCist (fun c => { c with returns := c.returns ++ [(step, count)], lastReturn := some step })
        (wr pgCistern Reg.CI_RETURNED (rd s pgCistern Reg.CI_RETURNED + count) s)
      showCistern (showCiLow s)

def execCiReturn (off : Nat) (data : List Byte) (s : State) : Host.Outcome State Fault Refusal := whileOn s (ciReturn off data s)

/-! ### The cursor record (R593 to R595) -/

/-- Batches returned with step tags up to `step`. -/
def batchesBy (s : State) (step : Nat) : Nat :=
  rd s pgCistern Reg.CI_RETURNED - ((s.cist.returns.filter fun r => decide (step < r.1)).map Prod.snd).foldl (· + ·) 0

/-- Bytes 0x04 to 0x7F of the cursor record of a step. -/
def cursorBody (s : State) (step : Nat) : List Byte :=
  let b := batchesBy s step
  leBytes 2 1 ++ leBytes 2 (ciSlots s) ++ leBytes 8 b ++ (look (ciAugs s) s.cist.augs b).flatMap (leBytes 8) ++ leBytes 48 0

def cursorAt (s : State) (step : Nat) : Nat := rd s pgCistern Reg.CI_CURSOR_BASE + step % 4 * 128

/-- Sends the body of the oldest cursor record that waits, if it is not sent yet. -/
def sendCursor : M Unit := do
  let s ← get
  match s.cist.cursors with
  | [] => throw .hold
  | c :: cs =>
    if !c.sent then
      post cursorWho (cursorAt s c.step + 4) (clean c.body)
      modify (modCist fun x => { x with cursors := { c with sent := true } :: cs })

/-- The step is committed: its cursor record is captured, and its body sent when nothing holds it. -/
def captureCursor (step : Nat) (s : State) : State :=
  if !ciOn s then s
  else
    let b := batchesBy s step
    let s := modCist (fun c => { c with
      cursors := c.cursors ++ [{ step := step, body := cursorBody s step }]
      returns := c.returns.filter fun r => decide (step < r.1)
      augs := c.augs.filter fun e => decide (b ≤ e.1) }) s
    if s.cist.cursors.length = 1 then attempt cursorWho sendCursor s else s

/-- The body is acknowledged: `CR_STEP` follows. A failed body leaves the record without it, and the code in the log. -/
def cursorStep : M Unit := do
  let s ← get
  match s.cist.cursors with
  | [] => throw .hold
  | c :: cs =>
    waitFor c.sent
    let code ← codeOf (do
      acknowledged cursorWho
      busWriteNat cursorWho (cursorAt s c.step) 4 c.step)
    modify fun s =>
      let s := modCist (fun x => { x with cursors := cs }) s
      if code = 0 then s else logErr pgCistern code c.step s

/-- Sends the body of the oldest record where that is still to do, then writes its step. -/
def cursorRecord (s : State) : State :=
  attempt cursorWho cursorStep (if s.cist.cursors.head?.any (fun c => !c.sent) then attempt cursorWho sendCursor s else s)

def execCursorRecordStep (s : State) : Host.Outcome State Fault Refusal := whileOn s (cursorRecord s)

/-- Reads and checks a cursor record (R594). -/
def readCursor (a : Nat) : M (List Byte) := do
  let s ← get
  refuseIf (isSet s pgCistern Reg.CI_CTRL_ENABLE || isSet s pgGeneration Reg.GEN_CTRL_ENABLE) 0x0631
  refuseIf (a % 128 != 0) 0x0633
  let d ← busRead cursorWho a 128
  refuseIf (d.any Prod.snd) 0x0240
  let b := d.map Prod.fst
  refuseIf (fld b 4 2 != 1 || !zeroFrom b 0x50 0x80 || fld b 6 2 != ciSlots s) 0x0633
  refuseIf s.mon.staged.isNone 0x0632
  return b

def refuseRestore (c : Nat) (s : State) : State :=
  logErr pgCistern c 0 <| wr pgCistern Reg.CI_RESTORE_STATUS_STATE 3 (wr pgCistern Reg.CI_RESTORE_STATUS_CODE c s)

/-- Restores the cursor (R595); later returns start from its step (log 48). -/
def restoreCursor (b : List Byte) (s : State) : State :=
  let n := fld b 8 8
  let s := s.cist.frames.foldl (fun s f => vdRelease f.dec f.buf s) s
  let s := modCist (fun c => { c with
    waiting := [], flight := [], frames := [], augs := [], returns := [], releasing := 0, lastReturn := some (fld b 0 4)
    owed := c.owed ++ (c.flight.filter fun x => !x.finished && x.last.isNone).filterMap CiSample.dec }) s
  let s := (List.range 8).foldl (fun s i => wrAt pgCistern Reg.CI_AUG i (fld b (0x10 + 8 * i) 8) s) s
  let s := wr pgCistern Reg.CI_READY n (wr pgCistern Reg.CI_RETURNED n (wr pgCistern Reg.CI_NEXT_SAMPLE (n * ciSlots s) s))
  showCistern (showCiLow <| wr pgCistern Reg.CI_SUB_HEAD (rd s pgCistern Reg.CI_SUB_TAIL) (wr pgCistern Reg.CI_RESTORE_STATUS_STATE 2 s))

/-- A write to `CI_RESTORE`, settled against the staged random state (R504). -/
def ciRestore (a : Nat) : M Unit := do
  match ← catchCode (readCursor a) with
  | .error c => modify (refuseRestore c)
  | .ok b =>
    match (← get).mon.staged with
    | none => modify (refuseRestore 0x0632)
    | some (seed, step) =>
      if fld b 0 4 = step then
        modify fun s =>
          let s := wr pgMonitor Reg.RNG_SEED seed (wr pgMonitor Reg.RNG_STEP_TAG step (wr pgGeneration Reg.GEN_STEP step s))
          restoreCursor b (setStage none 2 s)
      else modify fun s => refuseRestore 0x0630 (refuseRng 0x0630 (setStage none 3 s))

def ciRestoreWrite (a : Nat) (s : State) : State :=
  if writable s pgCistern then attempt cursorWho (ciRestore (a % 2 ^ 64)) s else s

def execCiRestore (addr : Nat) (s : State) : Host.Outcome State Fault Refusal := whileOn s (ciRestoreWrite addr s)

end Sys2Proof.Machine
end

