-- ==== Sys2Proof/Machine/Kuslight.lean ====
section
/-! DEFINITION. The commands of the Kuslight ports: states, flits, replay, the spare wavelength, responses, notices
(Kuslight Optical Ports). -/

namespace Sys2Proof.Machine

def portState (s : State) (n : Nat) : Nat := rd s (pgPort n) Reg.KP_STATUS_STATE
def setPortState (n v : Nat) (s : State) : State := wr (pgPort n) Reg.KP_STATUS_STATE v s

/-! ### Completing requests -/

/-- A host request fails: counted, captured, logged on the host page (R863). -/
def hostFail (c a : Nat) (s : State) : State :=
  let s := wr pgHost Reg.HI_LAST_FAIL_VALID 1 (wr pgHost Reg.HI_LAST_FAIL_CODE c (wr pgHost Reg.HI_LAST_ADDR a s))
  logErr pgHost c 0 (bump pgHost Reg.HI_FAILS 1 s)

/-- Completes an outstanding request with a code and the data of a read (R681). -/
def completeRequest (o : Outstanding) (code : Nat) (data : List PByte) (s : State) : State :=
  let s := { s with bus := { s.bus with outstanding := s.bus.outstanding.filter fun x => x.tag != o.tag } }
  match o.kind with
  | .read => { s with bus := { s.bus with arrived := s.bus.arrived ++
      [{ who := o.who, host := o.host, addr := o.addr, len := o.len, code := code, data := data }] } }
  | _ => if o.who.page = pgHost then (if code = 0 then s else hostFail code o.addr s) else noteWriteErr o.who o.ord code s

/-- Completes every outstanding request that satisfies `p` with `code`. -/
def failRequests (p : Outstanding → Bool) (code : Nat) (s : State) : State :=
  (s.bus.outstanding.filter p).foldl (fun s o => completeRequest o code [] s) s

/-- Poison by data unit: bit u of the mask marks the u-th 64-byte unit that the data touches (R664). -/
def withPoison (a mask : Nat) (bs : List Byte) : List PByte :=
  (bs.zipIdx).map fun e => (e.1, bitOf mask ((a + e.2) / 64 - a / 64))

/-- A response reaches its requester: it completes the request, or is stray (R681); one for a requester whose domain
has locked is discarded and counted in `RC_STRAY` (R762). -/
def responseArrives (port tag code : Nat) (data : List Byte) (poison : Nat) (s : State) : State :=
  match s.bus.outstanding.find? fun o => o.tag == tag && !o.host with
  | none => bump (pgPort port) Reg.KP_STRAY 1 s
  | some o =>
    if o.stale then
      bump pgLockkeeper Reg.RC_STRAY 1
        { s with bus := { s.bus with outstanding := s.bus.outstanding.filter fun x => x.tag != tag } }
    else completeRequest o code (if code = 0 then withPoison o.addr poison data else []) s

/-- A request without a response completes with ERR_KL_TIMEOUT when `KL_REQ_TIMEOUT` passes; 0 = none (R681, R685). -/
def requestTimeout (tag : Nat) (s : State) : State :=
  if rd s (pgHub 0) Reg.KL_REQ_TIMEOUT = 0 then s
  else failRequests (fun o => o.tag == tag && !o.host) 0x0404 s


/-! ### Port states -/

/-- The sum of the credits a port grants (R686). -/
def grantSum (s : State) (n : Nat) : Nat :=
  ((List.range 8).map fun i => rdAt s (pgPort n) Reg.KP_VC_CREDIT i).foldl (· + ·) 0

/-- A module number that names a module (R45, R670). -/
def realModule (m : Nat) : Bool := m != 0 && m != 0xFFFF

/-- Drops the mark of the module named by a port's peer and tells the other ports (R683, R684). -/
def dropMark (n : Nat) (s : State) : State :=
  let m := rd s (pgPort n) Reg.KP_PEER_MODULE
  if look false s.link.marks m then
    sendNotice 0x09 m (rd s (pgHub 0) Reg.KL_CFG_HOP_LIMIT) (some n)
      { s with link := { s.link with marks := put false s.link.marks m false } }
  else s

/-- Enters UP once HELLO and GRANT have been received, both numbers are real and the credits fit (R670, R672, R686). -/
def tryUp (n : Nat) (s : State) : State :=
  let p := getPort s n
  if portState s n = 5 ∧ p.granted = true ∧ p.grantSent = true ∧ p.greeted = true
      ∧ realModule (ownModule s) = true ∧ realModule (rd s (pgPort n) Reg.KP_PEER_MODULE) = true then
    sendWaiting n (dropMark n (raiseBit (pgPort n) 4 (setPortState n 6 s)))
  else s

/-- Sends HELLO with this module's number and the port's (R669). -/
def sendHello (n : Nat) (s : State) : State := emitLink n false 3 (leBytes 2 (ownModule s) ++ leBytes 1 n) s

/-- Grants credits for all eight channels, unless they sum above 4 096, which is recorded (R667, R686). -/
def sendGrant (n : Nat) (s : State) : State :=
  if 4096 < grantSum s n then logErr (pgPort n) 0x0406 0 s
  else
    let s := setPort n { getPort s n with grantSent := true } s
    emitLink n false 4 (((List.range 8).map fun i => leBytes 2 (rdAt s (pgPort n) Reg.KP_VC_CREDIT i)).flatten) s

/-- Leaves UP: every count of the link layer is zeroed (R668). -/
def clearPort (n : Nat) (s : State) : State := setPort n {} s

/-- A port goes DOWN: counts zeroed, requests that left by it fail, the event, `KP_RETRAINS`; with `AUTO_RETRAIN` it
enters TUNE at once, or waits for its laser first (R654, R668, R671, R681). -/
def goDown (n : Nat) (s : State) : State :=
  let s := failRequests (fun o => o.port == n && !o.host) 0x0403 (clearPort n (setPortState n 7 s))
  let s := bump (pgPort n) Reg.KP_RETRAINS 1 (wr (pgPort n) Reg.KP_PEER_VALID 0 s)
  let s := raiseBit (pgPort n) 5 (lifeAdd (0x300 + 16 * n) 1 (journal 0x09 0 (pgPort n) n s))
  if isSet s (pgPort n) Reg.KP_CTRL_AUTO_RETRAIN then setPortState n (if isSet s (pgPort n) Reg.KP_STATUS_LASER then 2 else 1) s
  else s

/-- The effect of `KP_CTRL.ENABLE` changing (R669, R671). A port that is disabled does not go DOWN: requests that left by it
wait for their time to pass (R681). -/
def portEnableChanged (n : Nat) (on : Bool) (s : State) : State :=
  if portState s n = 8 then s
  else if on then
    if portState s n = 0 then setPortState n (if isSet s (pgPort n) Reg.KP_STATUS_LASER then 2 else 1) s else s
  else setPortState n 0 (clearPort n s)

/-- A write of `KP_CTRL.ENABLE`: only a change acts (R929). -/
def portEnable (n : Nat) (on : Bool) (s : State) : State :=
  if isSet s (pgPort n) Reg.KP_CTRL_ENABLE = on then s
  else portEnableChanged n on (wr (pgPort n) Reg.KP_CTRL_ENABLE (natOf on) s)

def execPortEnable (n : Nat) (on : Bool) (s : State) : Host.Outcome State Fault Refusal := whileOn s (if n < 32 then portEnable n on s else s)

/-- The laser input leaves its range (R654). -/
def laserLoss (n : Nat) (s : State) : State :=
  let s := wr (pgPort n) Reg.KP_STATUS_LASER 0 s
  let s := if portState s n = 0 ∨ portState s n = 8 then s else setPortState n 1 (clearPort n s)
  raiseBit (pgPort n) 7 s

def execLaserLoss (n : Nat) (s : State) : Host.Outcome State Fault Refusal := whileOn s (if n < 32 then laserLoss n s else s)

/-- The laser input comes within range (R669). -/
def laserOk (n : Nat) (s : State) : State :=
  let s := wr (pgPort n) Reg.KP_STATUS_LASER 1 s
  if portState s n = 1 then setPortState n 2 s else s

def execLaserOk (n : Nat) (s : State) : Host.Outcome State Fault Refusal := whileOn s (if n < 32 then laserOk n s else s)

/-- TUNE done: TRAIN (R672). -/
def portTuneDone (n : Nat) (s : State) : State := if portState s n = 2 then setPortState n 3 s else s
def execPortTuneDone (n : Nat) (s : State) : Host.Outcome State Fault Refusal := whileOn s (if n < 32 then portTuneDone n s else s)

/-- TRAIN done: ALIGN (R672). -/
def portTrainDone (n : Nat) (s : State) : State := if portState s n = 3 then setPortState n 4 s else s
def execPortTrainDone (n : Nat) (s : State) : Host.Outcome State Fault Refusal := whileOn s (if n < 32 then portTrainDone n s else s)

/-- ALIGN done: LINK, HELLO and GRANT sent (R667, R672). -/
def portAlignDone (n : Nat) (s : State) : State :=
  if portState s n = 4 then sendGrant n (sendHello n (setPortState n 5 (clearPort n s))) else s
def execPortAlignDone (n : Nat) (s : State) : Host.Outcome State Fault Refusal := whileOn s (if n < 32 then portAlignDone n s else s)

/-- `KP_CTRL.RETRAIN` is written: the port is forced DOWN (R671). -/
def portRetrain (n : Nat) (s : State) : State :=
  if portState s n = 0 ∨ portState s n = 8 ∨ portState s n = 7 then s else goDown n s
def execPortRetrain (n : Nat) (s : State) : Host.Outcome State Fault Refusal := whileOn s (if n < 32 then portRetrain n s else s)

/-- The peer's flits stop for 10 us on a port that exchanges flits (R671). -/
def peerFlitTimeout (n : Nat) (s : State) : State :=
  if portState s n = 5 ∨ portState s n = 6 then goDown n s else s
def execPeerFlitTimeout (n : Nat) (s : State) : Host.Outcome State Fault Refusal := whileOn s (if n < 32 then peerFlitTimeout n s else s)

/-! ### Flits -/

/-- The flits still unacknowledged once `ack` is (R659). -/
def ackThrough (ack : Nat) (fs : List TxFlit) : List TxFlit :=
  if fs.any fun f => f.seq == ack then (fs.dropWhile fun f => f.seq != ack).drop 1 else fs

/-- What every good flit does: acknowledge, return credits (R659). -/
def takeFlit (n ack crVc crCount : Nat) (s : State) : State :=
  let p := getPort s n
  let p := { p with
    heard := p.heard + 1
    unacked := ackThrough ack p.unacked
    credits := put 0 p.credits crVc (look 0 p.credits crVc + crCount) }
  bump (pgPort n) Reg.KP_RX_FLITS 1 (setPort n p s)

/-- A port exchanges link flits in LINK and UP (R669, R932). -/
def linkActive (s : State) (n : Nat) : Bool := portState s n == 5 || portState s n == 6

/-- An idle link flit (R659). -/
def idleFlit (n ack crVc crCount : Nat) (s : State) : State :=
  if linkActive s n then sendWaiting n (takeFlit n ack crVc crCount s) else s
def execIdleFlit (n ack crVc crCount : Nat) (s : State) : Host.Outcome State Fault Refusal :=
  whileOn s (if n < 32 then idleFlit n ack crVc crCount s else s)

/-- Asks for a replay after the last good flit (R661). -/
def askReplay (n : Nat) (s : State) : State :=
  emitLink n true 0 [] (setPort n { getPort s n with discarding := true } s)

/-- A data flit arrives that is not taken: it counts in the sequence that sets the lanes (R657). -/
def heardFlit (n : Nat) (s : State) : State := setPort n { getPort s n with heard := (getPort s n).heard + 1 } s

/-- A data flit arrives: 256 bytes, whether an uncorrectable codeword held any of them, and how many codewords were
corrected (R655, R659, R661, R932). -/
def dataFlit (n : Nat) (bytes : List Byte) (uncorrectable : Bool) (corrected : Nat) (s : State) : State :=
  let seq := leNat (bytes.take 2)
  let ack := leNat ((bytes.drop 2).take 2)
  let ctl := leNat ((bytes.drop 4).take 4)
  let s := bump (pgPort n) Reg.KP_FEC_CORRECTED corrected s
  let s := if uncorrectable then
      lifeAdd (0x308 + 16 * n) 1 (bump (pgPort n) Reg.KP_FEC_UNCORR 1 s) else s
  let good := bytes.length == 256 && leNat (bytes.drop 0xFC) == crc32 (bytes.take 0xFC)
  if portState s n ≠ 6 then
    if bitOf ctl 4 then bump (pgPort n) Reg.KP_BAD_PACKETS 1 s else s
  else if uncorrectable || !good then
    askReplay n (heardFlit n (if good then s else bump (pgPort n) Reg.KP_CRC_ERRORS 1 s))
  else if seq = ((getPort s n).rxSeq + 1) % 2 ^ 16 then
    let s := takeFlit n ack (bitsOf ctl 8 3) (bitsOf ctl 11 13) s
    let p := getPort s n
    let f : RxFlit := { vc := ctl % 8, sop := bitOf ctl 4, payload := (bytes.drop 8).take 240 }
    sendWaiting n (setPort n { p with rxSeq := seq, discarding := false, rx := p.rx ++ [f] } s)
  else if (getPort s n).discarding then heardFlit n s
  else if (seq + 2 ^ 16 - (getPort s n).rxSeq) % 2 ^ 16 < 2 ^ 15 then askReplay n (heardFlit n s)
  else heardFlit n s

def execDataFlit (n : Nat) (bytes : List Byte) (uncorrectable : Bool) (corrected : Nat) (s : State) :
    Host.Outcome State Fault Refusal :=
  whileOn s (if n < 32 then dataFlit n bytes uncorrectable corrected s else s)

/-- Resends flits in order (R662). -/
def resend (n : Nat) : List TxFlit → State → State
  | [], s => s
  | f :: fs, s => resend n fs (emitFlit n f.seq (dataCtl f) f.crVc f.crCount f.payload s)

/-- A NAK names the last good flit: every later one is replayed; one replayed eight times already takes the port DOWN
(R662, R663). Flits that waited follow. -/
def nakReplay (n ack crVc crCount : Nat) (s : State) : State :=
  if portState s n ≠ 6 then s
  else
    let s := takeFlit n ack crVc crCount s
    let p := getPort s n
    if p.unacked = [] then sendWaiting n s
    else if p.unacked.any fun f => decide (8 ≤ f.replays) then goDown n s
    else
      let p := { p with unacked := p.unacked.map fun f => { f with replays := f.replays + 1 } }
      let s := lifeAdd (0x30C + 16 * n) 1 (bump (pgPort n) Reg.KP_REPLAYS 1 (setPort n p s))
      if p.paused then s else sendWaiting n (resend n p.unacked s)
def execNakReplay (n ack crVc crCount : Nat) (s : State) : Host.Outcome State Fault Refusal :=
  whileOn s (if n < 32 then nakReplay n ack crVc crCount s else s)

/-- HELLO of the peer, in LINK (R669, R670). -/
def hello (n ack crVc crCount module port : Nat) (s : State) : State :=
  if portState s n = 5 then
    let s := takeFlit n ack crVc crCount s
    let s := wr (pgPort n) Reg.KP_PEER_MODULE module (wr (pgPort n) Reg.KP_PEER_PORT port s)
    tryUp n (setPort n { getPort s n with greeted := true } (wr (pgPort n) Reg.KP_PEER_VALID 1 s))
  else s
def execHello (n ack crVc crCount module port : Nat) (s : State) : Host.Outcome State Fault Refusal :=
  whileOn s (if n < 32 then hello n ack crVc crCount module port s else s)

/-- GRANT of the peer: credits for all eight channels, in LINK (R667, R672). -/
def grant (n ack : Nat) (credits : List Nat) (s : State) : State :=
  if portState s n = 5 then
    let s := takeFlit n ack 0 0 s
    let cs := (List.range 8).foldl (fun m i => put 0 m i (credits.getD i 0)) []
    tryUp n (setPort n { getPort s n with credits := cs, granted := true } s)
  else s
def execGrant (n ack : Nat) (credits : List Nat) (s : State) : Host.Outcome State Fault Refusal :=
  whileOn s (if n < 32 then grant n ack credits s else s)

/-! ### The spare wavelength (R673 to R675) -/

/-- Records a switch: counter, event, journal, life log (R675). Bit 8 of the summary's field, which its byte in flash
does not hold, tells the map 0x00 from no record. -/
def recordSwitch (n : Nat) (s : State) : State :=
  let map := rd s (pgPort n) Reg.KP_LANE_MAP_TX + rd s (pgPort n) Reg.KP_LANE_MAP_RX * 16
  let s := lifeAdd (0x304 + 16 * n) 1 (bump (pgPort n) Reg.KP_SPARE_SWAPS 1 s)
  raiseBit (pgPort n) 6 (lifeSet (0x1700 + n) (map + 0x100) (journal 0x04 0 (pgPort n) map s))

/-- A receiver detects a failed lane: SWAP when the spare is free, else DOWN (R671, R674). -/
def laneFail (n lane : Nat) (s : State) : State :=
  if portState s n ≠ 6 then s
  else if rd s (pgPort n) Reg.KP_LANE_MAP_RX ≠ 0xF ∨ (getPort s n).failing ≠ 0 then goDown n s
  else emitLink n false 1 (leBytes 1 lane) (setPort n { getPort s n with failing := lane % 8 + 1, discarding := true } s)
def execLaneFail (n lane : Nat) (s : State) : Host.Outcome State Fault Refusal := whileOn s (if n < 32 then laneFail n lane s else s)

/-- The sender receives SWAP: it pauses and moves the lane onto W8 (R674, R675). -/
def swap (n ack crVc crCount lane : Nat) (s : State) : State :=
  if portState s n ≠ 6 then s
  else
    let s := takeFlit n ack crVc crCount s
    if rd s (pgPort n) Reg.KP_LANE_MAP_TX ≠ 0xF then goDown n s
    else recordSwitch n (wr (pgPort n) Reg.KP_LANE_MAP_TX (lane % 8) (setPort n { getPort s n with paused := true } s))
def execSwap (n ack crVc crCount lane : Nat) (s : State) : Host.Outcome State Fault Refusal :=
  whileOn s (if n < 32 then swap n ack crVc crCount lane s else s)

/-- The receiver locks W8: the map, SWAP_DONE, and a NAK naming the last good flit (R674, R675). -/
def spareW8Lock (n : Nat) (s : State) : State :=
  let p := getPort s n
  if portState s n = 6 ∧ p.failing ≠ 0 then
    let s := setPort n { p with failing := 0 } (wr (pgPort n) Reg.KP_LANE_MAP_RX (p.failing - 1) s)
    askReplay n (emitLink n false 2 [] (recordSwitch n s))
  else s
def execSpareW8Lock (n : Nat) (s : State) : Host.Outcome State Fault Refusal := whileOn s (if n < 32 then spareW8Lock n s else s)

/-- The sender receives SWAP_DONE: it sends again, beginning with the replay that the NAK after it asks for (R674). -/
def swapDone (n ack crVc crCount : Nat) (s : State) : State :=
  if portState s n = 6 then
    let s := takeFlit n ack crVc crCount s
    setPort n { getPort s n with paused := false } s
  else s
def execSwapDone (n ack crVc crCount : Nat) (s : State) : Host.Outcome State Fault Refusal :=
  whileOn s (if n < 32 then swapDone n ack crVc crCount s else s)

/-! ### Routing tables and notices -/

/-- A write to `KL_RT_DATA` stores the entry in both hubs' tables and advances the index (R676, R929). -/
def klRtData (mask : Nat) (s : State) : State :=
  let i := rd s (pgHub 0) Reg.KL_RT_INDEX
  let s := { s with link := { s.link with routes := put 0 s.link.routes i (mask % 2 ^ 32) } }
  wr (pgHub 0) Reg.KL_RT_INDEX (i + 1) s
def execKlRtData (mask : Nat) (s : State) : Host.Outcome State Fault Refusal := whileOn s (klRtData mask s)

/-- Notes a notice that changes a mark in `KL_NOTICE` (R685). -/
def noteNotice (module : Nat) (released : Bool) (s : State) : State :=
  let s := wr (pgHub 0) Reg.KL_NOTICE_MODULE module (wr (pgHub 0) Reg.KL_NOTICE_RELEASED (natOf released) s)
  wr (pgHub 0) Reg.KL_NOTICE_VALID 1 s

/-- Forwards a notice on every other UP port with one hop fewer, unless it has none left (R683). -/
def forwardNotice (kind module hops port : Nat) (s : State) : State :=
  if hops = 0 then s else sendNotice kind module (hops - 1) (some port) s

/-- A notice changes the mark of the module it names (R683): it names another module, and the mark differs. -/
def noticeApplies (s : State) (module : Nat) (locks : Bool) : Bool :=
  module != ownModule s && look false s.link.marks module != locks

/-- A lock notice at the hubs: mark, event, outstanding requests fail, forwarded (R683, R684). -/
def markLocked (port module hops : Nat) (s : State) : State :=
  let s := { s with link := { s.link with marks := put false s.link.marks module true } }
  let s := raiseBit (pgHub 0) 5 (noteNotice module false s)
  forwardNotice 0x08 module hops port (failRequests (fun o => o.dst == module && !o.host) 0x0402 s)

/-- A release notice: the mark is dropped, forwarded (R683). -/
def releaseNotice (port module hops : Nat) (s : State) : State :=
  if noticeApplies s module false then
    let s := { s with link := { s.link with marks := put false s.link.marks module false } }
    forwardNotice 0x09 module hops port (noteNotice module true s)
  else s
def execReleaseNotice (port module hops : Nat) (s : State) : Host.Outcome State Fault Refusal :=
  whileOn s (releaseNotice port module hops s)

/-! ### Packets received -/

/-- The flits of one virtual channel at the front: a first flit and those after it up to the next packet's. -/
def frontFlits (p : Port) (vc : Nat) : List RxFlit × Bool :=
  match p.rx.filter fun f => f.vc == vc with
  | [] => ([], false)
  | f :: fs =>
    let more := fs.takeWhile fun g => !g.sop
    (f :: more, decide (more.length < fs.length))

/-- The data bytes that a packet carries: a read request's `PK_LEN` is the bytes it asks for, and it is its header alone
(DEDUCED, assumption log 65). -/
def carried (type len : Nat) : Nat := if type = 1 then 0 else len

/-- Reads a packet from its bytes (R664). -/
def parsePacket (bs : List Byte) : Packet :=
  let f := fun o n => leNat ((bs.drop o).take n)
  { type := f 0 1, hops := f 1 1, dst := f 2 2, src := f 4 2, len := f 6 2, addr := f 8 8, tag := f 0x10 4
    slack := f 0x14 4, poison := f 0x18 8, data := (bs.drop 32).take (carried (f 0 1) (f 6 2)) }

/-- How many flits a packet of this type and `PK_LEN` takes (R664). -/
def flitsOf (type len : Nat) : Nat := (32 + carried type len + 239) / 240

/-- What stands at the front of a virtual channel of a port. -/
inductive Front where
  /-- Not all of it is there yet. -/
  | waits
  /-- A packet and the number of flits it frees. -/
  | packet (p : Packet) (flits : Nat)
  /-- A packet whose `PK_LEN` exceeds 4 096 or its flits (R932). -/
  | bad (flits : Nat)
deriving DecidableEq, Repr

def frontPacket (p : Port) (vc : Nat) : Front :=
  let (fs, ended) := frontFlits p vc
  match fs with
  | [] => .waits
  | f :: _ =>
    let type := leNat (f.payload.take 1)
    let len := leNat ((f.payload.drop 6).take 2)
    if 4096 < len then .bad fs.length
    else if flitsOf type len ≤ fs.length then
      .packet (parsePacket ((fs.take (flitsOf type len)).map RxFlit.payload).flatten) (flitsOf type len)
    else if ended then .bad fs.length
    else .waits

/-- Removes the first `k` flits of a virtual channel. -/
def dropFlits (vc : Nat) : Nat → List RxFlit → List RxFlit
  | 0, fs => fs
  | _ + 1, [] => []
  | k + 1, f :: fs => if f.vc = vc then dropFlits vc k fs else f :: dropFlits vc (k + 1) fs

/-- Frees buffered flits: their credits are owed to the peer (R667, R668). -/
def freeFlits (n vc k : Nat) (s : State) : State :=
  let p := getPort s n
  setPort n { p with rx := dropFlits vc k p.rx, owed := put 0 p.owed vc (look 0 p.owed vc + k) } s

/-- The message kinds of R931. -/
def messageKinds : List Nat := [0x01, 0x02, 0x03, 0x04, 0x05, 0x06, 0x08, 0x09, 0x10, 0x11]

/-- A packet that R932 drops: a reserved type or a reserved message kind. -/
def badPacket (p : Packet) : Bool :=
  decide (p.type = 0) || decide (5 < p.type) || (p.type == 5 && !messageKinds.contains p.addr)

/-- The packet is a request (R664). -/
def isRequest (p : Packet) : Bool := p.type == 1 || p.type == 2 || p.type == 3

/-- Forwards a packet for another module, or drops it at the hop limit (R677, R680, R935). -/
def forwardPacket (n vc : Nat) (p : Packet) (s : State) : State :=
  if p.hops = 0 then
    let s := bump (pgPort n) Reg.KP_HOP_DROPS 1 s
    if isRequest p then sendResponse p.src p.tag 0x0405 [] 0 s else s
  else
    let h := if isRequest p then requestHash p.addr (pgPort n) else if p.type = 5 then p.addr % 256 else 0
    match routeSelect s p.dst h with
    | .ok o => bump (pgPort o) Reg.KP_TRANSIT_FLITS (flitsOf p.type p.len)
        (sendOn o (decide (4 ≤ vc)) { p with hops := p.hops - 1 } s)
    | .error c => if isRequest p then sendResponse p.src p.tag c [] 0 s else unsent s

/-- Executes a peer's request as one of a local master and answers it (R665, R680); `servePeer` has taken out the writes of
registers. An atomic add is answered when it reaches its word. -/
def serveRequest (n : Nat) (p : Packet) : M Unit := do
  let w : Who := { page := pgPort n, sub := p.tag }
  if p.type = 1 then
    let r ← tryCatch (do let d ← localRead w (localOf p.addr) p.len; return (0, d)) fun e => match e with
      | .code c => return (c, [])
      | e => throw e
    modify (sendResponse p.src p.tag r.1 r.2 (poisonMask p.addr r.2))
  else if p.type = 2 then
    let ord ← takeOrd
    let c ← codeOf (localWrite w ord (localOf p.addr) (withPoison p.addr p.poison p.data))
    modify (sendResponse p.src p.tag c [] 0)
  else
    modify (pushAdd w (localOf p.addr) (leNat (p.data.take 4)) (some (p.src, p.tag)))

end Sys2Proof.Machine
end

