-- ==== Sys2Proof/Machine/MemCommands.lean ====
section
/-! DEFINITION. The commands of the fabric and the memories: requests, reads and writes, discarding, retirement and
migration of a channel, scrubbing, arbitration (Dies, Clusters and Tiles; Pumps, GDDR7 and Well Memory). -/

namespace Sys2Proof.Machine

/-- Hands read data, or a code, to its requester. -/
def deliver (w : Who) (a n code : Nat) (d : List PByte) (s : State) : State :=
  { s with bus := { s.bus with arrived := s.bus.arrived ++
    [{ who := w, addr := a, len := n, code := code, data := d }] } }

/-- Sends the pieces of a read to a peer; the first that is refused is its code (R665, R678). -/
def issuePieces (w : Who) (slack : Nat) : List (Nat × Nat) → State → State
  | [], s => s
  | (a, n) :: ps, s =>
    match sendRequest w .read s.bus.nextOrd a n [] slack s with
    | .ok s => issuePieces w slack ps s
    | .error c => deliver w a n c [] s

/-- A read of a master: its data or its code goes to it; a wait leaves the request to come again. -/
def issueRead (w : Who) (a n slack : Nat) (s : State) : State :=
  if moduleOf a = 0xFFFF then deliver w a n 0x0202 [] s
  else if isLocal s a then
    match runM (busRead w a n) s with
    | (.ok d, s') => deliver w a n 0 d s'
    | (.error (.code c), t) => deliver w a n c [] t
    | (.error (.wake k), _) => startWake k s
    | (.error _, _) => s
  else if behind s w.page s.bus.nextOrd a n then s
  else issuePieces w slack (splitPages a n) s

/-- A write of a master: done, on its way, or waiting; its code is noted. -/
def issueWrite (w : Who) (a : Nat) (d : List PByte) (slack : Nat) (s : State) : State :=
  let t := (runM (post w a d) { s with bus := { s.bus with slack := slack + 1 } }).2
  { t with bus := { t.bus with slack := s.bus.slack } }

/-- A master issues a request (R43 to R49, R54, R665, R678): local, refused, or sent to a peer. -/
def requestIssue (w : Who) (kind : ReqKind) (a n : Nat) (d : List PByte) (slack : Nat) (s : State) : State :=
  match kind with
  | .read => issueRead w a n slack s
  | .write => issueWrite w a d slack s
  | .atomic => pushAdd w a (leNat (d.map Prod.fst)) none s

def execRequestIssue (page sub : Nat) (kind : ReqKind) (addr len : Nat) (data : List Byte) (poison slack : Nat) (s : State) :
    Host.Outcome State Fault Refusal :=
  whileOn s (requestIssue ⟨page, sub⟩ kind addr len (withPoison addr poison data) slack s)

/-- An address of a well or of the data view. -/
def isMemory (s : State) (a : Nat) : Bool :=
  match regionOf s a with
  | .well _ _ => true
  | .gddr _ => true
  | _ => false

/-- A read of a well or of GDDR7 (R624, R625, R628), in which the given bad bits come to light. -/
def memoryRead (page a n : Nat) (upsets : List (Nat × Nat)) (s : State) : State :=
  if isMemory s a then issueRead { page := page } a n (bestEffortSlack s) (upset upsets s) else s

def execMemoryRead (page addr len : Nat) (upsets : List (Nat × Nat)) (s : State) :
    Host.Outcome State Fault Refusal :=
  whileOn s (memoryRead page addr len upsets s)

/-- A write to a well or to GDDR7 (R619, R621, R626, R629). -/
def memoryWrite (page a : Nat) (d : List PByte) (s : State) : State :=
  if isMemory s a then issueWrite { page := page } a d (bestEffortSlack s) s else s

def execMemoryWrite (page addr : Nat) (data : List Byte) (poison : Nat) (s : State) :
    Host.Outcome State Fault Refusal :=
  whileOn s (memoryWrite page addr (withPoison addr poison data) s)

/-! ### Discarding (R631) -/

/-- The range of a discard: in the wells, in the data view, or malformed. -/
def discardRange (s : State) (start len : Nat) : Region :=
  if start < wellEnd then
    if start % 256 = 0 ∧ len % 256 = 0 ∧ start + len ≤ wellEnd then .well 0 start else .unmapped
  else match regionOf s start with
    | .gddr o =>
      if o % 4096 = 0 ∧ len % 4096 = 0 ∧ o + len ≤ rd s (pgHub 0) Reg.MEM_LIMIT then .gddr o else .unmapped
    | _ => .unmapped

/-- A write of `data` at offset `off` of HD0's page, at `MEM_DISCARD`. -/
def memDiscard (off : Nat) (data : List Byte) (s : State) : State :=
  let start := leNat (data.take 8)
  let len := leNat (data.drop 8)
  if off ≠ 0x220 ∨ data.length ≠ 16 then logErr (pgHub 0) 0x0244 0 s
  else match discardRange s start len with
    | .well _ _ => clearWells start (start + len) s
    | .gddr o => clearGddr o (o + len) s
    | _ => logErr (pgHub 0) 0x0244 0 s

def execMemDiscard (off : Nat) (data : List Byte) (s : State) : Host.Outcome State Fault Refusal :=
  whileOn s (memDiscard off data s)

/-! ### Retiring a channel (R637 to R641) -/

/-- `MEM_RETIRE.GO` is written with `CH` = c. -/
def memRetire (c : Nat) (s : State) : State :=
  if retireState s ≠ 0 then logErr (pgHub 0) 0x0241 0 s
  else
    let s := wr (pgHub 0) Reg.MEM_RETIRE_CH c (wr (pgHub 0) Reg.MEM_RETIRE_GO 1 s)
    let s := wr (pgHub 0) Reg.MEM_RETIRE_STATUS_STATE 1 (wr (pgHub 0) Reg.MEM_RETIRE_STATUS_CH c s)
    let s := clearGddr 96000000000 102400000000 (wr (pgHub 0) Reg.MEM_LIMIT 96000000000 s)
    { s with mem := { s.mem with migrateK := 0 } }

def execMemRetire (ch : Nat) (s : State) : Host.Outcome State Fault Refusal := whileOn s (memRetire ch s)

/-- The next valid page that migration has not passed. Page k of the data view holds relocated granule 16k + r. -/
def nextMigration (s : State) : Option Nat :=
  ((s.mem.pageValid.filter fun e => e.2 && decide (s.mem.migrateK ≤ e.1)).map Prod.fst).head?

/-- Migration copies the next relocated granule of a valid page; one on a channel that is down is written poisoned. -/
def migrationCopy (s : State) : State :=
  match retireState s, nextMigration s with
  | 1, some k =>
    let r := rd s (pgHub 0) Reg.MEM_RETIRE_STATUS_CH
    let off := (16 * k + r) * 256
    let a := gddrBase + off
    let s := if rd s (pgChannel r) Reg.CH_STATE = 2 then
        (List.range 4).foldl (fun s i => setPoison (a / 64 + i) true s) s
      else (memRead a 256 s).2
    let s := { s with mem := { s.mem with migrateK := k + 1 } }
    bump (pgChannel (channelOf s off)) Reg.CH_WRITE_BYTES 256 s
  | _, _ => s

def execMigrationCopy (s : State) : Host.Outcome State Fault Refusal := whileOn s (migrationCopy s)

/-- Migration ends: channel retired, EV_MEM_RETIRED, life log (R640). -/
def migrationDone (s : State) : State :=
  match retireState s, nextMigration s with
  | 1, none =>
    let r := rd s (pgHub 0) Reg.MEM_RETIRE_STATUS_CH
    let s := wr (pgHub 0) Reg.MEM_RETIRE_STATUS_STATE 2 (wr (pgHub 0) Reg.MEM_RETIRE_GO 0 s)
    let s := wr (pgChannel r) Reg.CH_STATE 3 s
    let s := lifeSet 0x1720 (16 + r) (journal 0x05 0 (pgChannel r) r s)
    raiseBit (pgHub 0) 4 s
  | _, _ => s

def execMigrationDone (s : State) : Host.Outcome State Fault Refusal := whileOn s (migrationDone s)

/-! ### Scrubbing (R642 to R644) -/

/-- Reads the words of a granule through the check bits, without delivering them. -/
def scrubGranule (a : Nat) (s : State) : State :=
  if isValid s a then
    (List.range 4).foldl (fun s u =>
      let s := if isPoisoned s (a / 64 + u) then
          match regionOf s a with
          | .gddr o => bump (pgChannel (channelOf s o)) Reg.CH_POISON_READS 1 s
          | _ => s
        else s
      (readWords 8 (a / 8 + u * 8) s).2) s
  else s

/-- The GDDR7 scrubber visits its next granule; a rate of 0 stops it. -/
def gddr7Scrub (upsets : List (Nat × Nat)) (s : State) : State :=
  if rd s (pgHub 0) Reg.MEM_SCRUB_RATE_GBH = 0 then s
  else
    let g := s.mem.scrubNext
    let a := gddrBase + g * 256
    let s := upset upsets s
    let s := match admitByte s a with
      | .ok => scrubGranule a s
      | _ => s
    let s := bump (pgChannel (channelOf s (g * 256))) Reg.CH_SCRUBBED 256 s
    { s with mem := { s.mem with scrubNext := if rd s (pgHub 0) Reg.MEM_LIMIT ≤ (g + 1) * 256 then 0 else g + 1 } }

def execGddr7Scrub (upsets : List (Nat × Nat)) (s : State) : Host.Outcome State Fault Refusal :=
  whileOn s (gddr7Scrub upsets s)

/-- A cluster scrubs the next granule of its 17 wells; a pass time of 0 stops it. -/
def wellScrub (k : Nat) (upsets : List (Nat × Nat)) (s : State) : State :=
  if rd s (pgHub 0) Reg.MEM_SCRUB_WELL_PASS_S = 0 ∨ 256 ≤ k then s
  else
    let g := look 0 s.mem.wellScrubNext k
    let a := k * 0x2200000 + g * 256
    let s := upset upsets s
    let s := match admitByte s a with
      | .ok => scrubGranule a s
      | _ => s
    let s := bump (pgTile (k * 17 + g / 8192)) Reg.WL_SCRUBBED 256 s
    { s with mem := { s.mem with wellScrubNext := put 0 s.mem.wellScrubNext k ((g + 1) % (17 * 8192)) } }

def execWellScrub (cluster : Nat) (upsets : List (Nat × Nat)) (s : State) : Host.Outcome State Fault Refusal :=
  whileOn s (wellScrub cluster upsets s)

/-! ### Deadline arbitration (R615 to R618) -/

/-- Remaining slack of a request (R617). -/
def remainingSlack (r : ArbRequest) : Int := (r.slack : Int) - (r.waited : Int)

/-- `a` goes before `b`: less remaining slack, then earlier arrival, then the lower source port. -/
def arbBefore (a b : ArbRequest) : Bool :=
  decide (remainingSlack a < remainingSlack b) ||
    (remainingSlack a == remainingSlack b &&
      (decide (a.arrival < b.arrival) || (a.arrival == b.arrival && decide (a.source ≤ b.source))))

/-- The request that goes first. -/
def arbFirst : List ArbRequest → Option ArbRequest
  | [] => none
  | r :: rs => match arbFirst rs with
    | none => some r
    | some q => some (if arbBefore r q then r else q)

/-- An arbitration point grants one of the requests that pass it: those bound for its output (R28, R615). Points 0 to 15
are the channels, which count late grants (R618). -/
def arbGrant (point : Nat) (rs : List ArbRequest) (s : State) : State :=
  match arbFirst (rs.filter fun r => atPoint point r.unit r.target) with
  | none => s
  | some r =>
    let s := { s with bus := { s.bus with
      granted := put 0 s.bus.granted point r.source, passedOn := put 0 s.bus.passedOn point (remainingSlack r) } }
    if point < 16 ∧ remainingSlack r < 0 then bump (pgChannel point) Reg.CH_LATE_GRANTS 1 s else s

def execArbGrant (point : Nat) (requests : List ArbRequest) (s : State) : Host.Outcome State Fault Refusal :=
  whileOn s (arbGrant point requests s)

end Sys2Proof.Machine
end

