-- ==== Sys2Proof/Machine/Sha.lean ====
section
/-! DEFINITION. SHA-256 (FIPS 180-4), for digests, measurements and signed statements: the hash that Trust names. -/

namespace Sys2Proof.Machine

/-- The value of a byte string, most significant byte first. -/
def beNat (bs : List Byte) : Nat := bs.foldl (fun v b => v * 256 + b.toNat) 0

/-- `n` bytes of a value, most significant byte first. -/
def beBytes (n v : Nat) : List Byte := (leBytes n v).reverse

/-- The low `n` 32-bit words of a number, most significant first. -/
def wordsOf (n v : Nat) : List Nat := (List.range n).map fun i => v / 2 ^ (32 * (n - 1 - i)) % 2 ^ 32

/-- The addends of the 64 rounds, 13 to a number. -/
def shaK : List Nat :=
  wordsOf 13 0x428a2f9871374491b5c0fbcfe9b5dba53956c25b59f111f1923f82a4ab1c5ed5d807aa9812835b01243185be550c7dc372be5d74
    ++ wordsOf 13 0x80deb1fe9bdc06a7c19bf174e49b69c1efbe47860fc19dc6240ca1cc2de92c6f4a7484aa5cb0a9dc76f988da983e5152a831c66d
    ++ wordsOf 13 0xb00327c8bf597fc7c6e00bf3d5a7914706ca63511429296727b70a852e1b21384d2c6dfc53380d13650a7354766a0abb81c2c92e
    ++ wordsOf 13 0x92722c85a2bfe8a1a81a664bc24b8b70c76c51a3d192e819d6990624f40e3585106aa07019a4c1161e376c082748774c34b0bcb5
    ++ wordsOf 12 0x391c0cb34ed8aa4a5b9cca4f682e6ff3748f82ee78a5636f84c878148cc7020890befffaa4506cebbef9a3f7c67178f2

/-- The hash before the first block. -/
def shaStart : List Nat := wordsOf 8 0x6a09e667bb67ae853c6ef372a54ff53a510e527f9b05688c1f83d9ab5be0cd19

/-- The word turned right by each of the distances, all of them added without carry. -/
def turned (x : Nat) (by_ : List Nat) : Nat := by_.foldl (fun v n => v ^^^ (x * 2 ^ 32 + x) / 2 ^ n % 2 ^ 32) 0

/-- The word after those of `ws`, newest first. -/
def shaNext (ws : List Nat) : Nat :=
  let w := fun i => ws.getD (i - 1) 0
  (w 16 + w 7 + (turned (w 15) [7, 18] ^^^ w 15 >>> 3) + (turned (w 2) [17, 19] ^^^ w 2 >>> 10)) % 2 ^ 32

/-- The block's sixteen words and the 48 that follow from them, oldest first. -/
def shaWords (block : List Byte) : List Nat :=
  ((List.range 48).foldl (fun ws _ => shaNext ws :: ws) (wordsOf 16 (beNat block)).reverse).reverse

/-- One round on two rows of four: the latest four values that enter at the front of each. `add` is the round's addend and
word. -/
def shaTurn (rows : List Nat × List Nat) (add : Nat) : List Nat × List Nat :=
  let x := fun i => rows.1.getD i 0
  let y := fun i => rows.2.getD i 0
  let choice := y 2 ^^^ y 0 &&& (y 1 ^^^ y 2)
  let majority := x 0 &&& (x 1 ||| x 2) ||| x 1 &&& x 2
  let both := add + y 3 + choice + turned (y 0) [6, 11, 25]
  ((both + majority + turned (x 0) [2, 13, 22]) % 2 ^ 32 :: rows.1.take 3, (both + x 3) % 2 ^ 32 :: rows.2.take 3)

/-- The hash after a block. -/
def shaBlock (hash : List Nat) (block : List Byte) : List Nat :=
  let adds := shaK.zipWith (fun k w => k + w) (shaWords block)
  let rows := adds.foldl shaTurn (hash.take 4, hash.drop 4)
  hash.zipWith (fun a b => (a + b) % 2 ^ 32) (rows.1 ++ rows.2)

/-- A message filled up to whole blocks: a one bit, zeros, its length in bits. -/
def shaPadded (bs : List Byte) : List Byte :=
  bs ++ 0x80 :: (List.replicate (63 - (bs.length + 8) % 64) 0 ++ beBytes 8 (8 * bs.length))

/-- SHA-256 of a byte string, as its 32 bytes. -/
def sha256 (bs : List Byte) : List Byte :=
  let m := shaPadded bs
  let hash := (List.range (m.length / 64)).foldl (fun h i => shaBlock h ((m.drop (64 * i)).take 64)) shaStart
  hash.flatMap (beBytes 4)

end Sys2Proof.Machine
end

