-- ==== Sys2Proof/Machine/Resilience.lean ====
section
/-! DEFINITION. The resilience unit: the protection table, snapshot rounds, restores and digests (Twins, Snapshots and
Restore). -/

namespace Sys2Proof.Machine

/-- The requests of a round, of a restore and of a digest. -/
def roundWho : Who := ⟨pgResilience, 0⟩
def restoreWho : Who := ⟨pgResilience, 1⟩
def digestWho : Who := ⟨pgResilience, 2⟩

def modRes (f : Resil → Resil) (s : State) : State := { s with res := f s.res }

/-- Records a refusal or failure in `RS_STATUS.CODE` and in the log. -/
def rsFail (c : Nat) (s : State) : State := logErr pgResilience c 0 (wr pgResilience Reg.RS_STATUS_CODE c s)

/-! ### Protection-table entries (R723, R724) -/

structure Protect where
  d : List Byte
deriving DecidableEq, Repr

def Protect.kind (e : Protect) : Nat := fld e.d 0 1
def Protect.rt (e : Protect) : Nat := fld e.d 2 2
def Protect.len (e : Protect) : Nat := fld e.d 4 4
def Protect.addr (e : Protect) : Nat := fld e.d 8 8
def Protect.stride (e : Protect) : Nat := fld e.d 0x10 4
def Protect.imgOff (e : Protect) : Nat := 4096 + 64 * fld e.d 0x14 4
def Protect.mirror (e : Protect) : Nat := fld e.d 0x18 8
def Protect.region (e : Protect) : Bool := e.kind == 2
def Protect.twin (e : Protect) : Bool := e.kind == 1
/-- The reduction entry and engine that a TWIN names. -/
def Protect.redEntry (e : Protect) : Nat := e.rt % 1024
def Protect.engine (e : Protect) : Nat := e.rt / 2 ^ 15
/-- Where a slot's bytes lie: the region itself, or slot `k` of the group. -/
def Protect.at_ (e : Protect) (k : Nat) : Nat := if e.region then e.addr else e.addr + k * e.stride

/-- A field breaks R723. -/
def Protect.bad (e : Protect) : Bool :=
  !(e.kind == 1 || e.kind == 2 || e.kind == 3) || fld e.d 1 1 != 0
    || (if e.twin then bitsOf e.rt 10 5 != 0 else e.rt != 0 || e.mirror != 0)
    || (if e.region then e.len % 65536 != 0 || e.addr % 65536 != 0 || e.stride != 0
        else e.len % 64 != 0 || e.addr % 64 != 0 || decide (e.stride < e.len))

/-- Two entries share a byte. -/
def Protect.meets (a b : Protect) : Bool := decide (a.addr < b.addr + b.len) && decide (b.addr < a.addr + a.len)

/-- Some two of the list satisfy `p`. -/
def anyPair {α : Type} (p : α → α → Bool) : List α → Bool
  | [] => false
  | a :: as => as.any (p a) || anyPair p as

/-- What the table breaks of R724, apart from its TWINs' reduction entries. -/
def tableBad (s : State) (es : List Protect) : Bool :=
  let regions := es.filter Protect.region
  es.any Protect.bad || anyPair Protect.meets regions
    || decide (1048576 < (regions.map fun e => e.len / 65536).foldl (· + ·) 0)
    || es.any (fun e => decide (rd s pgResilience Reg.RS_IMAGE_BYTES < e.imgOff + e.len))
    || anyPair (fun a b => a.twin && b.twin && a.rt == b.rt && a.mirror != b.mirror) es

/-- Reads the table. -/
def readTable : M (List (List Byte)) := do
  let s ← get
  let n := rd s pgResilience Reg.RS_TABLE_COUNT
  let a := rd s pgResilience Reg.RS_TABLE
  refuseIf (n == 0 || decide (4096 < n) || a % 32 != 0) 0x0650
  let d ← busRead restoreWho a (32 * n)
  return piecesOfList 32 (n + 1) (d.map Prod.fst)

/-- A TWIN's reduction entry is absent, or a result slot of it overlaps the slot group (R724). -/
def twinBad (e : Protect) : M Bool := do
  let s ← get
  let page := pgReduction e.engine
  if rd s page Reg.RD_TABLE_COUNT ≤ e.redEntry then return true
  let d ← busRead restoreWho (rd s page Reg.RD_TABLE + 128 * e.redEntry) 128
  let r := d.map Prod.fst
  let n := (FormatWord.ofNat (fld r 0x24 4)).format.bytesFor (fld r 4 4)
  let cross := fun a => (List.range 3).any fun k =>
    decide (wholeAddr s a < e.addr + k * e.stride + e.len) && decide (e.addr + k * e.stride < wholeAddr s a + n)
  return cross (fld r 0x28 8) || cross (fld r 0x28 8 + fld r 0x38 4)

def anyTwinBad : List Protect → M Bool
  | [] => return false
  | e :: es => do
    if e.twin then if ← twinBad e then return true
    anyTwinBad es

/-- Validates the table. -/
def rsValidate : M (List (List Byte)) := do
  let t ← readTable
  let es := t.map Protect.mk
  refuseIf (tableBad (← get) es) 0x0650
  refuseIf (← anyTwinBad es) 0x0650
  return t

/-- `RS_CTRL.ENABLE` is set: the table is accepted, or refused whole. -/
def rsStart : M Unit := do
  match ← catchCode rsValidate with
  | .ok t => modify fun s => modRes (fun r => { r with table := t }) (wr pgResilience Reg.RS_CTRL_ENABLE 1 s)
  | .error c => modify (rsFail c)

/-- A write of `RS_CTRL.ENABLE` (R929). Clearing it lets a round that runs end (log 49). -/
def rsEnable (on : Bool) (s : State) : State :=
  if !writable s pgResilience ∨ isSet s pgResilience Reg.RS_CTRL_ENABLE = on then s
  else if on then attempt restoreWho rsStart s
  else wr pgResilience Reg.RS_CTRL_ENABLE 0 s

def execRsEnable (on : Bool) (s : State) : Host.Outcome State Fault Refusal := whileOn s (rsEnable on s)

/-! ### Twins (R728 to R730) -/

/-- The mirror that a reduction entry's results are forwarded to. -/
def twinMirror (s : State) (engine entry : Nat) : Option Nat :=
  if isSet s pgResilience Reg.RS_CTRL_ENABLE then
    ((s.res.table.map Protect.mk).find? fun e => e.twin && e.engine == engine && e.redEntry == entry).map Protect.mirror
  else none

/-- A forwarded write has failed. -/
def twinStale (s : State) : State :=
  raiseBit pgResilience 6 (bump pgResilience Reg.RS_TWIN_FORWARD_FAILS 1 (wr pgResilience Reg.RS_STATUS_TWIN_STALE 1 s))

/-! ### Rounds (R733 to R742) -/

/-- Where image slot `k` lies. -/
def imageAt (s : State) (k : Nat) : Nat :=
  rd s pgResilience Reg.RS_IMAGE_BASE + k * rd s pgResilience Reg.RS_IMAGE_BYTES

/-- The pages of the REGION entries, by local address / 65 536. -/
def regionPages (t : List (List Byte)) : List Nat :=
  ((t.map Protect.mk).filter Protect.region).flatMap fun e =>
    (List.range (e.len / 65536)).map fun i => localOf e.addr / 65536 + i

def protectPages (on : Bool) (ps : List Nat) (s : State) : State :=
  { s with mem := { s.mem with wprot := ps.foldl (fun m p => put false m p on) s.mem.wprot } }

/-- The round record as the round writes it first: `COMPLETE` is 0, and the cursor record is still to come (R742). -/
def roundRecord (s : State) (r : Round) : List Byte :=
  leBytes 2 1 ++ leBytes 2 (ownModule s) ++ leBytes 4 r.step ++ leBytes 4 r.gen ++ leBytes 4 (natOf r.noCursor * 2)
    ++ leBytes 4 s.res.table.length ++ leBytes 4 0 ++ leBytes 8 (crc64 s.res.table.flatten)
    ++ leBytes 4 (rd s pgMonitor Reg.LM_MEAN) ++ leBytes 4 (rd s pgMonitor Reg.LM_VAR)
    ++ leBytes 4 (rd s pgMonitor Reg.LM_COUNT) ++ leBytes 4 0
    ++ leBytes 2 1 ++ leBytes 2 0 ++ leBytes 4 (rd s pgMonitor Reg.RNG_SEED) ++ leBytes 4 r.step ++ leBytes 4 0
    ++ leBytes 64 0 ++ leBytes 128 0

def setRound (r : Option Round) (s : State) : State := modRes (fun x => { x with round := r }) s

/-- The round ends: protections go, writes that waited for them go on, and READY is held no longer; `cycles` is how long it
was. -/
def roundEnds (cycles : Nat) (s : State) : State :=
  let s := { s with mem := { s.mem with wprot := [] } }
  releaseHeld (bump pgResilience Reg.RS_READY_HOLD_CYCLES cycles (setRound none s))

/-- A copy write has failed (R740). -/
def roundFails (c cycles : Nat) (s : State) : State :=
  let s := roundEnds cycles (disown roundWho (rsFail c s))
  raiseBit pgResilience 5 (bump pgResilience Reg.RS_ROUND_FAILS 1 (wr pgResilience Reg.RS_STATUS_ROUND 3 s))

/-- Writes the round record. -/
def writeRecord (r : Round) : M Unit := do
  let s ← get
  match ← codeOf (busWrite roundWho (imageAt s r.slot) (clean (roundRecord s r))) with
  | 0 => modify (setRound (some { r with stage := 1 }))
  | c => modify (roundFails c 0)

/-- A round begins at the commit of a step. -/
def roundBegin (step : Nat) (s : State) : State :=
  if !isSet s pgResilience Reg.RS_CTRL_ENABLE ∨ rd s pgResilience Reg.RS_CTRL_K = 0
      ∨ step < rd s pgResilience Reg.RS_NEXT_STEP ∨ s.res.round.isSome ∨ lockState s pgResilience ≠ 0 then s
  else
    let slot := if isSet s pgResilience Reg.RS_STATUS_NEWEST_VALID then 1 - rd s pgResilience Reg.RS_STATUS_NEWEST_SLOT else 0
    let s := wr pgResilience Reg.RS_NEXT_STEP (step + rd s pgResilience Reg.RS_CTRL_K) s
    let s := protectPages true (regionPages s.res.table) (wr pgResilience Reg.RS_STATUS_ROUND 1 s)
    let none := !isSet s pgCistern Reg.CI_CTRL_ENABLE
    let r : Round := { step := step, gen := committed s, slot := slot, noCursor := none, cursor := none }
    attempt roundWho (writeRecord r) (setRound (some r) s)

/-- Copies `n` bytes to the image. -/
def copyImage (src dst n : Nat) : M Unit := do
  let d ← busRead roundWho src n
  busWrite roundWho dst d
  modify (bump pgResilience Reg.RS_COPIED_BYTES n)

/-- The image address of a protected page: that of the REGION entry that holds it. -/
def pageImage (s : State) (slot p : Nat) : Option Nat :=
  ((s.res.table.map Protect.mk).find? fun e =>
    e.region && decide (localOf e.addr ≤ p * 65536) && decide (p * 65536 < localOf e.addr + e.len)).map fun e =>
    imageAt s slot + e.imgOff + (p * 65536 - localOf e.addr)

/-- Copies a page that is still protected, and lets its writes go. -/
def copyPage (slot p : Nat) : M Unit := do
  let s ← get
  match pageImage s slot p with
  | none => return ()
  | some a =>
    copyImage (p * 65536) a 65536
    modify fun s => releaseHeld (protectPages false [p] s)

def copyPages (slot : Nat) : List Nat → M Unit
  | [] => return ()
  | p :: ps => do
    if look false (← get).mem.wprot p then copyPage slot p
    copyPages slot ps

def copyGroups (r : Round) : List Protect → M Unit
  | [] => return ()
  | e :: es => do
    let s ← get
    if !e.region then copyImage (e.at_ (r.gen % 3)) (imageAt s r.slot + e.imgOff) e.len
    copyGroups r es

/-- The code of the round's writes so far: of one that has failed, else, when all are acknowledged, 0. -/
def roundCode : M Nat := do
  match (← get).bus.writeErr.find? fun e => e.who == roundWho with
  | some e => return e.code
  | none => codeOf (acknowledged roundWho)

/-- The running round, at stage `k`, with all its writes acknowledged, or one of them failed. -/
def roundAt (k : Nat) : M (Round × Nat) := do
  let s ← get
  match s.res.round with
  | none => throw .hold
  | some r =>
    waitFor (r.stage == k)
    return (r, ← roundCode)

/-- ROUND_COPY: the record is acknowledged; the copies are made. -/
def roundCopy (cycles : Nat) : M Unit := do
  let (r, c) ← roundAt 1
  let c' ← if c ≠ 0 then pure c else codeOf (do
    let s ← get
    copyGroups r (s.res.table.map Protect.mk)
    copyPages r.slot (regionPages s.res.table))
  if c' ≠ 0 then modify (roundFails c' cycles) else modify (setRound (some { r with stage := 2 }))

/-- Copies the cursor record of the round's step, once its `CR_STEP` reads that step (R742). -/
def copyCursor (cycles : Nat) : M Unit := do
  let s ← get
  match s.res.round with
  | none => throw .hold
  | some r =>
    waitFor (r.stage == 2 && !r.cursor && s.cist.cursors.all fun c => c.step != r.step)
    let c ← codeOf (do
      let d ← busRead roundWho (cursorAt s r.step) 128
      waitFor (fld (d.map Prod.fst) 0 4 == r.step)
      busWrite roundWho (imageAt s r.slot + 0x80) d)
    if c ≠ 0 then modify (roundFails c cycles) else modify (setRound (some { r with cursor := true }))

/-- The copies, then the cursor record. -/
def execRoundCopy (cycles : Nat) (s : State) : Host.Outcome State Fault Refusal :=
  whileOn s (attempt roundWho (copyCursor cycles) (attempt roundWho (roundCopy cycles) s))

/-- A write meets a page that is protected and not yet copied: the page is copied first, when the record is acknowledged
(R737, R738). -/
def firstTouch (p cycles : Nat) : M Unit := do
  let (r, c) ← roundAt 1
  waitFor (look false (← get).mem.wprot p)
  let c' ← if c ≠ 0 then pure c else codeOf (copyPage r.slot p)
  if c' ≠ 0 then modify (roundFails c' cycles) else modify (bump pgResilience Reg.RS_FIRST_TOUCH 1)

def execFirstTouch (touch : Touch) (s : State) : Host.Outcome State Fault Refusal :=
  whileOn s (attempt roundWho (firstTouch (touch.addr / 65536) touch.cycles) s)

def roundCompleteWrite (cycles : Nat) : M Unit := do
  let (r, c) ← roundAt 2
  waitFor (r.cursor || c != 0)
  let s ← get
  let c' ← if c ≠ 0 then pure c else
    codeOf (busWriteNat roundWho (imageAt s r.slot + 0xC) 4 (1 + natOf r.noCursor * 2))
  if c' ≠ 0 then modify (roundFails c' cycles) else modify (setRound (some { r with stage := 3 }))

def execRoundCompleteWrite (cycles : Nat) (s : State) : Host.Outcome State Fault Refusal :=
  whileOn s (attempt roundWho (roundCompleteWrite cycles) s)

def roundComplete (cycles : Nat) : M Unit := do
  let (r, c) ← roundAt 3
  if c ≠ 0 then modify (roundFails c cycles)
  else modify fun s =>
    let s := wr pgResilience Reg.RS_ROUND_STEP r.step (wr pgResilience Reg.RS_STATUS_ROUND 2 (roundEnds cycles s))
    let s := wr pgResilience Reg.RS_STATUS_NEWEST_SLOT r.slot (wr pgResilience Reg.RS_STATUS_NEWEST_VALID 1 s)
    raiseBit pgResilience 4 (bump pgResilience Reg.RS_ROUNDS 1 s)

def execRoundComplete (cycles : Nat) (s : State) : Host.Outcome State Fault Refusal :=
  whileOn s (attempt roundWho (roundComplete cycles) s)

/-! ### Restore (R743, R744, R753) -/

def setRestore (r : Option Restore) (s : State) : State := modRes (fun x => { x with restore := r }) s

/-- A restore ends: `RS_CTRL.RESTORE` reads 0 again. -/
def restoreEnds (state : Nat) (s : State) : State :=
  wr pgResilience Reg.RS_STATUS_RESTORE state (wr pgResilience Reg.RS_CTRL_RESTORE 0 (setRestore none s))

def restoreRefused (c : Nat) (s : State) : State := restoreEnds 3 (disown restoreWho (rsFail c s))

/-- A restore that has begun ends with a code; the event says that it ends (R744). -/
def restoreFails (c : Nat) (s : State) : State := raiseBit pgResilience 7 (restoreRefused c s)

/-- The record of image slot `k`, when it is the one to restore. -/
def matchingRecord (k : Nat) : M (Option (List Byte)) := do
  let s ← get
  let d ← busRead restoreWho (imageAt s k) 256
  let b := d.map Prod.fst
  return if fld b 0 2 == 1 && fld b 2 2 == ownModule s && bitOf (fld b 0xC 4) 0
      && fld b 4 4 == rd s pgResilience Reg.RS_RESTORE_STEP && !d.any Prod.snd then some b else none

/-- The record `r` of slot `k` and the table now at `RS_TABLE` agree (R743). -/
def sameTable (k : Nat) (r : List Byte) (n : Nat) : M (Nat × Nat × List (List Byte)) := do
  refuseIf (fld r 0x10 4 != n) 0x0653
  let t ← readTable
  refuseIf (fld r 0x18 8 != crc64 t.flatten) 0x0653
  return (k, fld r 8 4, t)

/-- Finds the image, and checks the table against it. -/
def checkRestore : M (Nat × Nat × List (List Byte)) := do
  let a ← matchingRecord 0
  let b ← if a.isSome then pure none else matchingRecord 1
  let n ← gets fun s => rd s pgResilience Reg.RS_TABLE_COUNT
  match a, b with
  | none, none => failWith 0x0652
  | some r, _ => sameTable 0 r n
  | none, some r => sameTable 1 r n

/-- Writes the images back, entry by entry; each entry that is written stays so. -/
def restoreEntries (slot gen : Nat) : List (List Byte) → M Unit
  | [] => return ()
  | d :: ds => do
    let s ← get
    let e : Protect := ⟨d⟩
    let img ← busRead restoreWho (imageAt s slot + e.imgOff) e.len
    busWrite restoreWho (e.at_ (gen % 3)) img
    modify fun s => match s.res.restore with
      | some r => setRestore (some { r with next := r.next + 1 }) s
      | none => s
    restoreEntries slot gen ds

/-- The work of a restore: its check, then its writes. -/
def restoreWork : M Unit := do
  match (← get).res.restore with
  | none => throw .hold
  | some r =>
    let r ← if r.checked then pure r else do
      match ← catchCode checkRestore with
      | .error c => do
        modify (restoreRefused c)
        pure r
      | .ok (k, g, t) => do
        let r := { r with checked := true, slot := k, gen := g, table := t }
        modify (setRestore (some r))
        pure r
    if (← get).res.restore.isSome then
      match ← codeOf (restoreEntries r.slot r.gen (r.table.drop r.next)) with
      | 0 => pure ()
      | c => modify (restoreFails c)

/-- A write of 1 to `RS_CTRL.RESTORE`. -/
def rsRestore (s : State) : State :=
  if !writable s pgResilience then s
  else if isSet s pgResilience Reg.RS_CTRL_ENABLE ∨ isSet s pgGeneration Reg.GEN_CTRL_ENABLE
      ∨ isSet s pgCistern Reg.CI_CTRL_ENABLE ∨ isSet s pgResilience Reg.RS_DIGEST_GO then restoreRefused 0x0651 s
  else if s.res.restore.isSome then rsFail 0x0651 s
  else
    let s := wr pgResilience Reg.RS_STATUS_RESTORE 1 (wr pgResilience Reg.RS_CTRL_RESTORE 1 s)
    attempt restoreWho restoreWork (setRestore (some { fill := isSet s pgResilience Reg.RS_CTRL_FILL }) s)

def execRsRestore (s : State) : Host.Outcome State Fault Refusal := whileOn s (rsRestore s)

/-- The restore has entries still to write. -/
def Restore.unfinished (r : Restore) : Bool := !r.checked || decide (r.next < r.table.length)

/-- The restore has written its last entry, and ends when that is acknowledged. -/
def restoreDone : M Unit := do
  waitFor ((← get).res.restore.any fun r => !r.unfinished)
  match ← codeOf (acknowledged restoreWho) with
  | 0 => modify fun s => raiseBit pgResilience 7 (bump pgResilience Reg.RS_RESTORES 1 (restoreEnds 2 s))
  | c => modify (restoreFails c)

/-- The restore goes on where reads kept it, and ends. -/
def restoreGoesOn (s : State) : State :=
  attempt restoreWho restoreDone (if s.res.restore.any Restore.unfinished then attempt restoreWho restoreWork s else s)

def execRsRestoreDone (s : State) : Host.Outcome State Fault Refusal := whileOn s (restoreGoesOn s)

/-- A spare fill is abandoned (R753). -/
def abandonFill (s : State) : State :=
  match s.res.restore with
  | some r => if r.fill then restoreFails 0x0654 s else s
  | none => s

/-- A lock notice names a module: a fill whose buddy group lists it is abandoned. -/
def noticeToFill (module : Nat) (s : State) : State :=
  if (List.range 16).any fun i => rdAt s pgResilience Reg.RS_PEER_VALID i == 1 && rdAt s pgResilience Reg.RS_PEER_MODULE i == module
  then abandonFill s else s

/-! ### Digests (R746 to R749) -/

def digestPages (sha : Bool) (dst i : Nat) : List (Nat × Nat) → M Unit
  | [] => return ()
  | (a, n) :: ps => do
    let d ← busRead digestWho a n
    let size := if sha then 32 else 8
    let bad := d.any Prod.snd
    let out := if bad then List.replicate size 0xFF else if sha then sha256 (d.map Prod.fst)
      else leBytes 8 (crc64 (d.map Prod.fst))
    if bad then modify (wr pgResilience Reg.RS_DIGEST_POISON 1)
    busWrite digestWho (dst + size * i) (clean out)
    digestPages sha dst (i + 1) ps

/-- The pages of a range of `n` bytes. -/
def digestRanges (a n : Nat) : List (Nat × Nat) :=
  (List.range ((n + 65535) / 65536)).map fun i => (a + i * 65536, min 65536 (n - i * 65536))

def digestWork : M Unit := do
  let s ← get
  let c ← codeOf (digestPages (isSet s pgResilience Reg.RS_DIGEST_SHA) (rd s pgResilience Reg.RS_DIGEST_DST) 0
    (digestRanges (rd s pgResilience Reg.RS_DIGEST_SRC) (rd s pgResilience Reg.RS_DIGEST_LEN)))
  modify (modRes fun r => { r with digest := some c })

def digestRefused (c : Nat) (s : State) : State := logErr pgResilience c 0 (wr pgResilience Reg.RS_DIGEST_CODE c s)

/-- A write of 1 to `RS_DIGEST_CTRL.GO`. -/
def rsDigest (s : State) : State :=
  let src := rd s pgResilience Reg.RS_DIGEST_SRC
  let len := rd s pgResilience Reg.RS_DIGEST_LEN
  if !writable s pgResilience ∨ isSet s pgResilience Reg.RS_DIGEST_GO then s
  else if src % 64 ≠ 0 ∨ !isLocal s src ∨ !isMemory s (localOf src) ∨ len = 0 ∨ len % 64 ≠ 0
      ∨ rd s pgResilience Reg.RS_DIGEST_DST % 8 ≠ 0 then digestRefused 0x0656 s
  else attempt digestWho digestWork (wr pgResilience Reg.RS_DIGEST_GO 1 s)

def execRsDigest (s : State) : Host.Outcome State Fault Refusal := whileOn s (rsDigest s)

/-- The last digest is acknowledged. -/
def digestDone : M Unit := do
  waitFor (isSet (← get) pgResilience Reg.RS_DIGEST_GO && (← get).res.digest.isSome)
  let a ← codeOf (acknowledged digestWho)
  let c := (((← get).res.digest).getD 0)
  let c := if c = 0 then a else c
  modify fun s =>
    let s := wr pgResilience Reg.RS_DIGEST_GO 0 (modRes (fun r => { r with digest := none }) s)
    if c = 0 then s else digestRefused c s

/-- The digest goes on where reads kept it, and ends. -/
def digestGoesOn (s : State) : State :=
  attempt digestWho digestDone (if isSet s pgResilience Reg.RS_DIGEST_GO && s.res.digest.isNone then
    attempt digestWho digestWork s else s)

def execRsDigestDone (s : State) : Host.Outcome State Fault Refusal := whileOn s (digestGoesOn s)

end Sys2Proof.Machine
end

