-- ==== Sys2Proof/Machine/Reduction.lean ====
section
/-! DEFINITION. The reduction engines: tables, runs, contributions, closing of chunks, results, locks and aborts (Gradient
Reduction Across Modules). -/

namespace Sys2Proof.Machine

/-- An engine's own requests, and the forwarded write of one chunk (R728). -/
def redWho (n : Nat) : Who := ⟨pgReduction n, 0⟩
def forwardKey (entry step : Nat) : Nat := step % 4 * 1024 + entry
def forwardWho (n entry step j : Nat) : Who := ⟨pgReduction n, 1 + forwardKey entry step * 2 ^ 24 + j⟩

def getRed (s : State) (n : Nat) : Reduct := look {} s.reds n

/-- `RUNS_OPEN` shows the runs. -/
def setRed (n : Nat) (x : Reduct) (s : State) : State :=
  wr (pgReduction n) Reg.RD_STATUS_RUNS_OPEN x.runs.length { s with reds := put {} s.reds n x }
def modRed (n : Nat) (f : Reduct → Reduct) (s : State) : State := setRed n (f (getRed s n)) s

def redActive (s : State) (n : Nat) : Bool :=
  isSet s (pgReduction n) Reg.RD_STATUS_ACTIVE && decide (lockState s (pgReduction n) = 0)

/-! ### Entries (R690, R692, R695) -/

structure RedEntry where
  d : List Byte
deriving DecidableEq, Repr

def RedEntry.ctrl (e : RedEntry) : Nat := fld e.d 0 4
def RedEntry.group (e : RedEntry) : Nat := bitsOf e.ctrl 0 4
def RedEntry.mean (e : RedEntry) : Bool := bitOf e.ctrl 4
def RedEntry.count (e : RedEntry) : Nat := fld e.d 4 4
def RedEntry.srcFmt (e : RedEntry) : FormatWord := FormatWord.ofNat (fld e.d 0x20 4)
def RedEntry.dstFmt (e : RedEntry) : FormatWord := FormatWord.ofNat (fld e.d 0x24 4)
def RedEntry.chunks (e : RedEntry) : Nat := (e.count + 503) / 504
/-- Elements of chunk j. -/
def RedEntry.chunkLen (e : RedEntry) (j : Nat) : Nat := min 504 (e.count - 504 * j)
def RedEntry.wait (e : RedEntry) : Nat := fld e.d 0x58 8
def RedEntry.done (e : RedEntry) : Nat := fld e.d 0x60 8
def RedEntry.resultAt (e : RedEntry) (step : Nat) : Nat := fld e.d 0x28 8 + step % 2 * fld e.d 0x38 4
def RedEntry.accAt (e : RedEntry) (step m : Nat) : Nat := fld e.d 0x48 8 + step % 3 * fld e.d 0x50 8 + m * 9216
def RedEntry.maskAt (e : RedEntry) (step : Nat) : Nat := fld e.d 0x68 8 + step % 3 * 2048
def RedEntry.dstSize (e : RedEntry) : Nat := e.dstFmt.format.bits / 8

def redEntry (s : State) (n i : Nat) : Option RedEntry := (getRed s n).table[i]?.map RedEntry.mk

/-- Rank and size of the group that an entry names. -/
def rankOf (s : State) (n : Nat) (e : RedEntry) : Nat := rdAt s (pgReduction n) Reg.RD_GROUP_RANK e.group
def sizeOf_ (s : State) (n : Nat) (e : RedEntry) : Nat := rdAt s (pgReduction n) Reg.RD_GROUP_SIZE e.group + 1

/-- The module of rank r; 0 is this module. -/
def moduleOfRank (s : State) (n : Nat) (e : RedEntry) (r : Nat) : Nat :=
  let m := (look [] (getRed s n).maps e.group).getD r 0
  if r = rankOf s n e ∨ m = ownModule s then 0 else m

/-- Rank r's module is marked locked. -/
def rankLocked (s : State) (n : Nat) (e : RedEntry) (r : Nat) : Bool :=
  let m := moduleOfRank s n e r
  m != 0 && look false s.link.marks m

/-! ### Validation (R693) -/

/-- A group that the entry names is malformed. -/
def groupBad (s : State) (n : Nat) (e : RedEntry) : Bool :=
  decide (sizeOf_ s n e ≤ rankOf s n e) || rdAt s (pgReduction n) Reg.RD_MAP e.group % 64 != 0

/-- The entry's own code. -/
def RedEntry.check (e : RedEntry) (rank size : Nat) : Option Nat :=
  let src := Fmt.ofCode e.srcFmt.fmt
  let dst := Fmt.ofCode e.dstFmt.fmt
  let aligned := fun o k => fld e.d o 8 % k == 0
  if bitsOf e.ctrl 5 3 ≠ 0 || bitsOf e.ctrl 16 16 ≠ 0 || fld e.d 0x20 4 / 2 ^ 14 ≠ 0 || fld e.d 0x24 4 / 2 ^ 14 ≠ 0
      || !zeroFrom e.d 0x70 0x80 || e.count == 0
      || !(src == some .f32 || src == some .k16 || src == some .k8 || src == some .g8)
      || !(dst == some .f32 || dst == some .k16) || e.dstFmt.round != 0
      || !(aligned 0x58 8 && aligned 0x60 8 && [0x08, 0x10, 0x18, 0x28, 0x30, 0x40, 0x48, 0x68].all fun o => aligned o 64)
      || decide (fld e.d 0x50 8 < (e.chunks - rank + size - 1) / size * 9216) then some 0x01B0
  else (formatCheck e.srcFmt (some (fld e.d 0x10 8)) none).or (formatCheck e.dstFmt (some (fld e.d 0x30 8)) none)

/-- The first refused entry and its code: the groups of all entries first. -/
def redCheck (s : State) (n : Nat) (es : List (RedEntry × Nat)) : Option (Nat × Nat) :=
  match es.find? fun e => groupBad s n e.1 with
  | some e => some (0x01B1, e.2)
  | none => es.findSome? fun e => (e.1.check (rankOf s n e.1) (sizeOf_ s n e.1)).map fun c => (c, e.2)

/-- The rank maps of the groups named. -/
def readMaps (n : Nat) : List Nat → M (List (Nat × List Nat))
  | [] => return []
  | g :: gs => do
    let s ← get
    let k := rdAt s (pgReduction n) Reg.RD_GROUP_SIZE g + 1
    let d ← busRead (redWho n) (rdAt s (pgReduction n) Reg.RD_MAP g) (2 * k)
    let rest ← readMaps n gs
    return (g, (piecesOfList 2 (k + 1) (d.map Prod.fst)).map leNat) :: rest

/-- The start values of the consumed counts (R694). -/
def readWaits (n : Nat) : List (RedEntry × Nat) → M (List (Nat × Nat))
  | [] => return []
  | (e, i) :: es => do
    let (v, _) ← busReadNat (redWho n) e.wait 4
    let rest ← readWaits n es
    return (i, v) :: rest

/-- Records a refused table or a failed run. -/
def redFail (n code entry : Nat) (s : State) : State :=
  let page := pgReduction n
  logErr page code 0 (wr page Reg.RD_LAST_FAIL_CODE code (wr page Reg.RD_LAST_FAIL_ENTRY entry s))

/-- `RD_CTRL.ENABLE` is set. -/
def redStart (n : Nat) : M Unit := do
  let s ← get
  let page := pgReduction n
  let k := rd s page Reg.RD_TABLE_COUNT
  let t ← catchCode (do
    refuseIf (k == 0 || decide (1024 < k) || rd s page Reg.RD_TABLE % 128 != 0) 0x01B0
    let d ← busRead (redWho n) (rd s page Reg.RD_TABLE) (128 * k)
    return piecesOfList 128 (k + 1) (d.map Prod.fst))
  match t with
  | .error c => modify (redFail n c 0)
  | .ok t =>
    let es := (t.map RedEntry.mk).zipIdx
    match redCheck s n es with
    | some (c, i) => modify (redFail n c i)
    | none =>
      match ← catchCode (do
          let maps ← readMaps n ((t.map fun d => (RedEntry.mk d).group).eraseDups)
          let ws ← readWaits n es
          return (maps, ws)) with
      | .error c => modify (redFail n c 0)
      | .ok (maps, ws) =>
        modify fun s => wr page Reg.RD_CTRL_ENABLE 1 (wr page Reg.RD_STATUS_ACTIVE 1
          (setRed n { table := t, maps := maps, consumed := ws } s))

/-- A write of `RD_CTRL.ENABLE`. Clearing it drops the runs (log 50). -/
def rdEnable (n : Nat) (on : Bool) (s : State) : State :=
  let page := pgReduction n
  if 2 ≤ n ∨ !writable s page ∨ isSet s page Reg.RD_CTRL_ENABLE = on then s
  else if on then attempt (redWho n) (redStart n) s
  else wr page Reg.RD_CTRL_ENABLE 0 (wr page Reg.RD_STATUS_ACTIVE 0 (setRed n {} s))

def execRdEnable (engine : Nat) (on : Bool) (s : State) : Host.Outcome State Fault Refusal := whileOn s (rdEnable engine on s)

/-! ### Completion (R697, R698, R729) -/

/-- A run completes with its code. -/
def completeRun (n : Nat) (r : RedRun) (code : Nat) (s : State) : State :=
  let page := pgReduction n
  let s := modRed n (fun x => { x with
    runs := x.runs.filter fun q => !(q.entry == r.entry && q.step == r.step), ended := x.ended ++ [(r.entry, r.step, code)] }) s
  let s := bump page Reg.RD_RUNS 1 s
  let s := match redEntry s n r.entry with
    | some e => pushAdd (redWho n) e.done 1 none s
    | none => s
  if code = 0 then s else redFail n code r.entry s

def findRun (s : State) (n entry step : Nat) : Option RedRun :=
  (getRed s n).runs.find? fun r => r.entry == entry && r.step == step

def putRun (n : Nat) (r : RedRun) (s : State) : State :=
  modRed n (fun x => { x with runs := x.runs.map fun q => if q.entry = r.entry ∧ q.step = r.step then r else q }) s

/-- Forwarded writes of the run are under way, or have failed and are still to be noted. -/
def forwarding (s : State) (n entry step : Nat) : Bool :=
  let mine := fun (w : Who) => w.page == pgReduction n && w.sub != 0 && (w.sub - 1) / 2 ^ 24 == forwardKey entry step
  (s.bus.outstanding.any fun o => mine o.who) || (s.bus.regq.any fun x => mine x.who)
    || (s.bus.held.any fun x => mine x.who) || s.bus.writeErr.any fun e => mine e.who

/-- The run completes when it holds every result and its forwarded writes are settled. -/
def tryComplete (n entry step : Nat) (s : State) : State :=
  match findRun s n entry step, redEntry s n entry with
  | some r, some e =>
    if r.got.length = e.chunks ∧ !forwarding s n entry step then completeRun n r r.code s else s
  | _, _ => s

/-- Looks at every run of both engines again: a response has come. -/
def settleRuns (s : State) : State :=
  [0, 1].foldl (fun s n => (getRed s n).runs.foldl (fun s r => tryComplete n r.entry r.step s) s) s

/-! ### Contributions (R701 to R705) -/

/-- The window exponent of a run (R702). -/
def windowExp (n : Nat) (e : RedEntry) : M Int := do
  let w := signedOf 8 (bitsOf e.ctrl 8 8)
  let a := fld e.d 0x40 8
  if a = 0 then return w
  else
    let s ← get
    let c ← readCoarse (redWho n) (FormatWord.ofNat 0) a (committed s % 3)
    return match f32Val c with
      | .fin _ m x => w + floorLog2 m x
      | _ => w

/-- q of an element, and whether it was held at the bound (R703). -/
def toWindow (E : Int) (b : Nat) : Int × Bool :=
  match f32Val b with
  | .fin neg m x =>
    let k := x + 62 - E
    let q := if 0 ≤ k then m * 2 ^ k.toNat else shiftRne m (-k).toNat
    let held := decide (2 ^ 63 - 1 < q)
    let q : Int := min q (2 ^ 63 - 1)
    (if neg then -q else q, held)
  | _ => (-(2 ^ 63), false)

/-- The F32 elements of chunk j of the source (R701). Poisoned data is not received as clean data (R622, log 50). -/
def sourceChunk (n : Nat) (e : RedEntry) (coarse j : Nat) : M (List Nat) := do
  let f := e.srcFmt
  let b := f.format.bits / 8
  let k := e.chunkLen j
  let first := 504 * j
  let d ← busRead (redWho n) (fld e.d 8 8 + first * b) (k * b)
  let lo := first / f.block
  let g ← if f.format.blockScaled then busRead (redWho n) (fld e.d 0x18 8 + lo) ((first + k - 1) / f.block + 1 - lo) else pure []
  refuseIf ((d ++ g).any Prod.snd) 0x0240
  let s8 := g.map fun x => x.1.toNat
  return (unpackCodes f.format k (d.map Prod.fst)).zipIdx.map fun c =>
    decodeElement f.format coarse (if f.format.blockScaled then s8.getD ((first + c.2) / f.block - lo) 0 else 0) c.1

/-- The signed value mod 2^w. -/
def wrapInt (w : Nat) (x : Int) : Nat := (x % 2 ^ w).toNat

/-- The engine and entry field of a message. -/
def entryField (n entry : Nat) : Nat := entry + n * 2 ^ 15

/-- A contribution message: 4 096 bytes (R705, R931). -/
def contribution (n entry step rank j : Nat) (E : Int) (qs : List (Int × Bool)) : List Byte :=
  padTo 4096 (leBytes 4 step ++ leBytes 2 (entryField n entry) ++ leBytes 2 rank ++ leBytes 4 j ++ leBytes 2 (wrapInt 16 E)
    ++ leBytes 2 qs.length ++ leBytes 8 (wrapInt 64 ((qs.map Prod.fst).foldl (· + ·) 0))
    ++ leBytes 1 (natOf (qs.any Prod.snd)) ++ leBytes 39 0 ++ qs.flatMap fun q => leBytes 8 (wrapInt 64 q.1))

/-! ### Accumulator records (R706) -/

/-- An accumulator record. -/
structure AccRecord where
  step : Nat
  present : Nat := 0
  e : Nat := 0
  sum : Nat := 0
  closed : Bool := false
  arrived : Nat := 0
  elems : List (Int × Bool) := List.replicate 504 (0, false)
deriving DecidableEq, Repr

def AccRecord.bytes (r : AccRecord) : List Byte :=
  leBytes 4 r.step ++ leBytes 2 r.present ++ leBytes 2 r.e ++ leBytes 8 r.sum ++ leBytes 1 (natOf r.closed) ++ leBytes 47 0
    ++ leBytes 1024 r.arrived ++ r.elems.flatMap (fun x => leBytes 16 (wrapInt 78 x.1 + natOf x.2 * 2 ^ 127)) ++ leBytes 64 0

/-- The record of a step; one that holds another step is empty. -/
def AccRecord.of (step : Nat) (b : List Byte) : AccRecord :=
  if fld b 0 4 ≠ step then { step := step }
  else {
    step := step, present := fld b 4 2, e := fld b 6 2, sum := fld b 8 8, closed := bitOf (fld b 0x10 1) 0
    arrived := fld b 0x40 1024
    elems := (piecesOfList 16 505 ((b.drop 0x440).take 8064)).map fun x =>
      let v := leNat x
      (signedOf 78 (v % 2 ^ 78), bitOf v 127) }

def loadRecord (n : Nat) (e : RedEntry) (step m : Nat) : M AccRecord := do
  let d ← busRead (redWho n) (e.accAt step m) 9216
  return AccRecord.of step (d.map Prod.fst)

def storeRecord (n : Nat) (e : RedEntry) (m : Nat) (r : AccRecord) : M Unit :=
  busWrite (redWho n) (e.accAt r.step m) (clean r.bytes)

/-- Sets rank r's bit in one half of the mask slot (R700). -/
def setMaskBit (n : Nat) (e : RedEntry) (step half r : Nat) : M Unit := do
  let a := e.maskAt step + half * 1024 + r / 8
  let (v, _) ← busReadNat (redWho n) a 1
  busWriteNat (redWho n) a 1 (v ||| 2 ^ (r % 8))

def setMaskBits (n : Nat) (e : RedEntry) (step half : Nat) : List Nat → M Unit
  | [] => return ()
  | r :: rs => do setMaskBit n e step half r; setMaskBits n e step half rs

/-- Raises an event of the engine once per run. -/
def raiseOnce (n entry step bit : Nat) (s : State) : State :=
  if (getRed s n).raised.contains (entry, step, bit) then s
  else raiseBit (pgReduction n) bit (modRed n (fun x => { x with raised := x.raised ++ [(entry, step, bit)] }) s)

/-! ### Results (R712 to R715) -/

/-- One result element (R713). -/
def resultValue (e : RedEntry) (E : Int) (n : Nat) (x : Int × Bool) : Nat :=
  if n = 0 then 0
  else if x.2 then 0x7FC00000
  else
    let v := f32Of (Val.ofInt x.1 (E - 62))
    if e.mean then f32Div v (f32OfNat n) else v

/-- A result chunk arrives: it is written, forwarded to the twin mirror, and may complete its run. -/
def redResult (n : Nat) (data : List Byte) : M Unit := do
  let s ← get
  let entry := fld data 4 2 % 1024
  let step := fld data 0 4
  let j := fld data 8 4
  match findRun s n entry step, redEntry s n entry with
  | some r, some e =>
    if r.got.contains j || decide (e.chunks ≤ j) then return ()
    let code := fld data 0xC 2
    let bytes := (data.drop 64).take (e.chunkLen j * e.dstSize)
    let off := 504 * j * e.dstSize
    let wc ← if code ≠ 0 then pure 0 else codeOf (busWrite (redWho n) (e.resultAt step + off) (clean bytes))
    let c := if code ≠ 0 then code else wc
    modify fun s =>
      let s := putRun n { r with got := r.got ++ [j], code := if r.code = 0 then c else r.code } s
      let s := if code = 0x0640 then vetoStep step 0x0640 s else s
      if c ≠ 0 then s
      else
        let bad := ((unpackCodes e.dstFmt.format (e.chunkLen j) bytes).filter fun x => !(elementVal e.dstFmt.format x).isFin).length
        addAt (pgReduction n) Reg.RD_STEP_NONFINITE (step % 3) bad s
    if code = 0 then
      match twinMirror s n entry with
      | none => pure ()
      | some a =>
        match ← codeOf (busWrite (forwardWho n entry step j) (a + step % 2 * fld e.d 0x38 4 + off) (clean bytes)) with
        | 0 => pure ()
        | _ => modify twinStale
    modify (tryComplete n entry step)
  | _, _ => return ()

def sendResult (n : Nat) (e : RedEntry) (data : List Byte) : List Nat → M Unit
  | [] => return ()
  | r :: rs => do
    let m := moduleOfRank (← get) n e r
    if m = 0 then redResult n data else modify (sendMessage (pgReduction n) 0x11 m data)
    sendResult n e data rs

/-- A run of this module that cannot go on completes with the code (R110). -/
def endRun (n entry step code : Nat) (s : State) : State :=
  match findRun s n entry step with
  | some r => completeRun n r code s
  | none => logErr (pgReduction n) code 0 s

/-- An owned chunk closes (R710 to R714). A result scale that is not valid ends the owner's run before it sends anything
(R110). -/
def closeChunk (n entry : Nat) (e : RedEntry) (step j : Nat) : M Unit := do
  let s ← get
  let page := pgReduction n
  let size := sizeOf_ s n e
  let m := j / size
  let r ← loadRecord n e step m
  if r.closed then return ()
  let absent := (List.range size).filter fun i => !bitOf r.arrived i
  storeRecord n e m { r with closed := true }
  setMaskBits n e step 0 absent
  modify fun s =>
    let s := bump page Reg.RD_CHUNKS_CLOSED 1 (bump page Reg.RD_ABSENT absent.length s)
    if absent.isEmpty then s else raiseOnce n entry step 4 s
  let ok := wrapInt 64 ((r.elems.map Prod.fst).foldl (· + ·) 0) == r.sum
  if !ok then
    modify fun s => vetoStep step 0x0640 (raiseBit page 6 (bump page Reg.RD_CHECKSUM_FAILS 1 s))
  let head := leBytes 4 step ++ leBytes 2 (entryField n entry) ++ leBytes 2 r.present ++ leBytes 4 j
    ++ leBytes 2 (if ok then 0 else 0x0640) ++ leBytes 2 (natOf (r.present == 0)) ++ leBytes 48 0
  if !ok then sendResult n e head (List.range size)
  else
    match ← catchCode (readCoarse (redWho n) e.dstFmt (fld e.d 0x30 8) (committed s % 3)) with
    | .error c => modify (endRun n entry step c)
    | .ok coarse =>
      let xs := (r.elems.take (e.chunkLen j)).map (resultValue e (signedOf 16 r.e) r.present)
      let (_, codes, _) := encodeRow e.dstFmt coarse (fun _ => 0) 0 xs
      sendResult n e (head ++ packCodes e.dstFmt.format codes) (List.range size)

/-! ### Contributions at the owner (R707, R708, R716) -/

/-- Zeroes the mask slots of the steps that have opened (R699). -/
def zeroMasks (n step : Nat) : List RedEntry → M Unit
  | [] => return ()
  | e :: es => do
    let c ← codeOf (busWrite (redWho n) (e.maskAt step) (zeros 2048))
    if c ≠ 0 then modify (logErr (pgReduction n) c 0)
    zeroMasks n step es

def zeroOpened (n : Nat) : List Nat → M Unit
  | [] => modify (modRed n fun x => { x with opening := [] })
  | t :: ts => do
    zeroMasks n t ((getRed (← get) n).table.map RedEntry.mk)
    zeroOpened n ts

def redReady (n : Nat) : M Unit := do zeroOpened n (getRed (← get) n).opening

/-- A step has opened: its mask slots and its count of non-finite elements start from zero. -/
def redOpens (step : Nat) (s : State) : State :=
  [0, 1].foldl (fun s n =>
    let s := wrAt (pgReduction n) Reg.RD_STEP_NONFINITE (step % 3) 0 s
    if isSet s (pgReduction n) Reg.RD_STATUS_ACTIVE then
      attempt (redWho n) (redReady n) (modRed n (fun x => { x with opening := x.opening ++ [step] }) s)
    else s) s

/-- Every rank has been added, or is absent by its lock. -/
def allIn (s : State) (n : Nat) (e : RedEntry) (r : AccRecord) : Bool :=
  (List.range (sizeOf_ s n e)).all fun i => bitOf r.arrived i || rankLocked s n e i

/-- A contribution reaches the owner's engine. -/
def redContrib (n : Nat) (data : List Byte) : M Unit := do
  redReady n
  let s ← get
  let page := pgReduction n
  let entry := fld data 4 2 % 1024
  let step := fld data 0 4
  let rank := fld data 6 2
  let j := fld data 8 4
  let near := decide ((step + 1 + 2 ^ 32 - rd s pgGeneration Reg.GEN_STEP) % 2 ^ 32 ≤ 2)
  match (if redActive s n then redEntry s n entry else none) with
  | none => modify (bump page Reg.RD_STRAY 1)
  | some e =>
    let size := sizeOf_ s n e
    if !near || decide (size ≤ rank) || decide (e.chunks ≤ j) || j % size != rankOf s n e || fld data 0xE 2 != e.chunkLen j then
      modify (bump page Reg.RD_STRAY 1)
    else if (getRed s n).aborted.contains step then modify (bump page Reg.RD_LATE 1)
    else
      let r ← loadRecord n e step (j / size)
      if r.closed then modify (bump page Reg.RD_LATE 1)
      else if bitOf r.arrived rank || rankLocked s n e rank then return ()
      else if r.present ≠ 0 ∧ r.e ≠ fld data 0xC 2 then
        setMaskBit n e step 0 rank
        modify (bump page Reg.RD_WINDOW_MISMATCH 1)
      else
        let qs := (List.range (e.chunkLen j)).map fun i => signedOf 64 (fld data (64 + 8 * i) 8)
        let r' : AccRecord := { r with
          present := r.present + 1, e := fld data 0xC 2, sum := (r.sum + fld data 0x10 8) % 2 ^ 64
          arrived := r.arrived + 2 ^ rank
          elems := r.elems.zipIdx.map fun x =>
            match qs[x.2]? with
            | some q => (x.1.1 + q, x.1.2 || q == -(2 ^ 63))
            | none => x.1 }
        storeRecord n e (j / size) r'
        if bitOf (fld data 0x18 1) 0 then
          setMaskBit n e step 1 rank
          modify fun s => raiseOnce n entry step 5 (bump page Reg.RD_OVERFLOWS 1 s)
        if allIn s n e r' then closeChunk n entry e step j

/-- A contribution message of a peer. A memory access that fails is recorded; the contribution is lost (log 50). -/
def contribArrives (n : Nat) (data : List Byte) : M Unit := do
  let c ← codeOf (redContrib n data)
  if c ≠ 0 then modify (logErr (pgReduction n) c 0)

/-- The engine that a message names. -/
def engineOf (data : List Byte) : Nat := fld data 4 2 / 2 ^ 15

def contribMessage (data : List Byte) : M Unit := contribArrives (engineOf data) data
def resultMessage (data : List Byte) : M Unit := redResult (engineOf data) data

def execContrib (data : List Byte) (s : State) : Host.Outcome State Fault Refusal :=
  whileOn s (attempt (redWho (engineOf data)) (contribMessage data) s)
def execResult (data : List Byte) (s : State) : Host.Outcome State Fault Refusal :=
  whileOn s (attempt (redWho (engineOf data)) (resultMessage data) s)

/-! ### Locks, deadlines and aborts (R710, R716 to R718) -/

/-- Chunks of an entry that this module owns. -/
def ownedChunks (s : State) (n : Nat) (e : RedEntry) : List Nat :=
  (List.range e.chunks).filter fun j => j % sizeOf_ s n e == rankOf s n e

/-- Closes the owned chunks of a run that are due: all of them once the deadline has passed. -/
def closeDue (n entry : Nat) (e : RedEntry) (step : Nat) : List Nat → M Unit
  | [] => return ()
  | j :: js => do
    let s ← get
    if (getRed s n).expired.contains step then closeChunk n entry e step j
    else
      let r ← loadRecord n e step (j / sizeOf_ s n e)
      if allIn s n e r then closeChunk n entry e step j
    closeDue n entry e step js

/-- The runs of an engine whose results are still missing wait for an owner that is marked locked. -/
def waitsForLocked (s : State) (n : Nat) (r : RedRun) : Bool :=
  match redEntry s n r.entry with
  | some e => (List.range e.chunks).any fun j => !r.got.contains j && rankLocked s n e (j % sizeOf_ s n e)
  | none => false

def sweepRuns (n : Nat) : List RedRun → M Unit
  | [] => return ()
  | r :: rs => do
    let s ← get
    match redEntry s n r.entry with
    | none => pure ()
    | some e =>
      let c ← codeOf (closeDue n r.entry e r.step (ownedChunks s n e))
      if c ≠ 0 then modify (logErr (pgReduction n) c 0)
    modify fun s => match findRun s n r.entry r.step with
      | some r => if waitsForLocked s n r then completeRun n r 0x0402 s else s
      | none => s
    sweepRuns n rs

/-- Closes what is due and completes what cannot go on, in the runs that are open. -/
def redSweep (n : Nat) : M Unit := do
  redReady n
  sweepRuns n (getRed (← get) n).runs

/-- Chunks of runs that have completed on this module can still be owned and open, unless their step has aborted (R718). -/
def endedRuns (s : State) (n : Nat) : List RedRun :=
  ((getRed s n).ended.filter fun e => stepOpen s e.2.1 && !(getRed s n).aborted.contains e.2.1).map fun e => { entry := e.1, step := e.2.1 }

def sweepEngine (n : Nat) (s : State) : State :=
  if redActive s n then attempt (redWho n) (do redSweep n; sweepRuns n (endedRuns (← get) n)) s else s

/-- A lock notice has marked a module locked. -/
def redNotice (s : State) : State := [0, 1].foldl (fun s n => sweepEngine n s) s

/-- `us` microseconds have passed since the step opened here (R710). -/
def chunkDeadline (n step us : Nat) (s : State) : State :=
  let d := rd s (pgReduction n) Reg.RD_DEADLINE
  if 2 ≤ n ∨ d = 0 ∨ us < d ∨ !stepOpen s step ∨ !redActive s n then s
  else sweepEngine n (modRed n (fun x => { x with expired := x.expired.filter (fun t => t != step) ++ [step] }) s)

def execChunkDeadline (engine step us : Nat) (s : State) : Host.Outcome State Fault Refusal :=
  whileOn s (chunkDeadline engine step us s)

/-- The step aborts: its runs complete, its open chunks are abandoned. -/
def redAbort (step : Nat) (s : State) : State :=
  [0, 1].foldl (fun s n =>
    let s := ((getRed s n).runs.filter fun r => r.step == step).foldl (fun s r => completeRun n r 0x0641 s) s
    if isSet s (pgReduction n) Reg.RD_STATUS_ACTIVE then
      modRed n (fun x => { x with aborted := (x.aborted ++ [step]).reverse.take 4 |>.reverse }) s
    else s) s

/-- The step is resolved: what the engines keep of it is forgotten. -/
def redForget (step : Nat) (s : State) : State :=
  [0, 1].foldl (fun s n =>
    if isSet s (pgReduction n) Reg.RD_STATUS_ACTIVE then
      modRed n (fun x => { x with
        ended := x.ended.filter fun e => e.2.1 != step, expired := x.expired.filter fun t => t != step
        raised := x.raised.filter fun e => e.2.1 != step }) s
    else s) s

/-- Every entry has run for the step, and every run ended with 0 or ERR_REDUCE_CHECKSUM (R698). -/
def reductionsDone (s : State) (step : Nat) : Bool :=
  [0, 1].all fun n =>
    let x := getRed s n
    (List.range x.table.length).all fun i => x.ended.any fun e => e.1 == i && e.2.1 == step && (e.2.2 == 0 || e.2.2 == 0x0640)

/-! ### Runs (R694, R695, R697) -/

/-- The oldest open step for which the entry has not run. -/
def nextRun (s : State) (n i : Nat) : Option Nat :=
  (s.gen.opened.find? fun o => (findRun s n i o.step).isNone && !(getRed s n).ended.any fun e =>
    e.1 == i && e.2.1 == o.step).map OpenStep.step

/-- Converts chunk j and sends it to its owner. -/
def sendChunks (n entry : Nat) (e : RedEntry) (step coarse : Nat) (E : Int) : List Nat → M Unit
  | [] => return ()
  | j :: js => do
    let xs ← sourceChunk n e coarse j
    let s ← get
    let data := contribution n entry step (rankOf s n e) j E (xs.map (toWindow E))
    let m := moduleOfRank s n e (j % sizeOf_ s n e)
    if m = 0 then redContrib n data else modify (sendMessage (pgReduction n) 0x10 m data)
    modify (bump (pgReduction n) Reg.RD_CHUNKS_SENT 1)
    sendChunks n entry e step coarse E js

/-- A run starts, once its signals are in. -/
def runStart (n i : Nat) : M Unit := do
  redReady n
  let s ← get
  waitFor (redActive s n)
  match redEntry s n i, nextRun s n i with
  | some e, some step =>
    let used := look 0 (getRed s n).consumed i
    let v ← catchCode (busReadNat (redWho n) e.wait 4)
    let have_ := match v with
      | .ok (v, _) => sub32 v used
      | .error _ => 2 ^ 31
    waitFor (decide (fld e.d 0x3C 4 ≤ have_) && decide (have_ < 2 ^ 31))
    modify (modRed n fun x => { x with
      consumed := insertKey x.consumed i ((used + fld e.d 0x3C 4) % 2 ^ 32), runs := x.runs ++ [{ entry := i, step := step }] })
    let c ← codeOf (do
      let coarse ← readCoarse (redWho n) e.srcFmt (fld e.d 0x10 8) (committed s % 3)
      let E ← windowExp n e
      sendChunks n i e step coarse E (List.range e.chunks))
    if c ≠ 0 then
      modify fun s => match findRun s n i step with
        | some r => completeRun n r c s
        | none => s
    else sweepRuns n ((findRun (← get) n i step).toList)
  | _, _ => throw .hold

def execReductionRunStart (engine entry : Nat) (s : State) : Host.Outcome State Fault Refusal :=
  whileOn s (if 2 ≤ engine then s else attempt (redWho engine) (runStart engine entry) s)

/-- A forwarded mirror write has completed with a nonzero code (R730). -/
def forwardFail (n entry step j : Nat) (s : State) : State :=
  let w := forwardWho n entry step j
  if s.bus.writeErr.any fun e => e.who == w then
    tryComplete n entry step (twinStale { s with bus := { s.bus with writeErr := s.bus.writeErr.filter fun e => e.who != w } })
  else s

def execTwinForwardFail (engine entry step chunk : Nat) (s : State) : Host.Outcome State Fault Refusal :=
  whileOn s (forwardFail engine entry step chunk s)

/-! ### Responses settle runs -/

def execResponseArrival (port tag code : Nat) (data : List Byte) (poison : Nat) (s : State) :
    Host.Outcome State Fault Refusal := whileOn s (if port < 32 then settleRuns (responseArrives port tag code data poison s) else s)
def execRequestTimeout (tag : Nat) (s : State) : Host.Outcome State Fault Refusal := whileOn s (settleRuns (requestTimeout tag s))

end Sys2Proof.Machine
end

