-- ==== Sys2Proof/Machine/CommitCommands.lean ====
section
/-! DEFINITION. Ready, commit and abort of a step among the members of a group (Weight Generations and Step Commit). -/

namespace Sys2Proof.Machine

/-! ### Steps that open -/

/-- The module enters IN_DOUBT (R331). -/
def enterDoubt (s : State) : State :=
  if isSet s pgGeneration Reg.GEN_STATUS_IN_DOUBT then s
  else raiseBit pgGeneration 7 (wr pgGeneration Reg.GEN_STATUS_IN_DOUBT 1 s)

/-- A member of rank 2 or above whose coordinator and deputy both stand locked when a step becomes its current one is cut
off from both (R331). -/
def doubtIfCut (s : State) : State :=
  if 2 ≤ rd s pgGeneration Reg.GEN_GROUP_RANK ∧ s.gen.opened ≠ []
      ∧ look false s.link.marks (rd s pgGeneration Reg.GEN_COORD_COORD_MODULE)
      ∧ look false s.link.marks (rd s pgGeneration Reg.GEN_COORD_DEPUTY_MODULE) then enterDoubt s
  else s

/-- A step has opened since `old`: the reduction engines start it too (R699). -/
def afterOpen (old s : State) : State :=
  if s.gen.opened.length = old.gen.opened.length + 1 then
    let s := redOpens (rd s pgGeneration Reg.GEN_STEP) s
    if old.gen.opened.isEmpty then doubtIfCut s else s
  else s

def enableGen (on : Bool) (s : State) : State := afterOpen { s with gen := { s.gen with opened := [] } } (genEnable on s)

def execGenEnable (on : Bool) (s : State) : Host.Outcome State Fault Refusal :=
  whileOn s (if isSet s pgGeneration Reg.GEN_CTRL_ENABLE = on then genEnable on s else enableGen on s)

def openNext (s : State) : State := afterOpen s (stepOpenNext s)
def execStepOpenNext (s : State) : Host.Outcome State Fault Refusal := whileOn s (openNext s)

/-! ### The group (R324, R934) -/

def genRank (s : State) : Nat := rd s pgGeneration Reg.GEN_GROUP_RANK
def genSize (s : State) : Nat := rd s pgGeneration Reg.GEN_GROUP_SIZE + 1
def coordModule (s : State) : Nat := rd s pgGeneration Reg.GEN_COORD_COORD_MODULE
def deputyModule (s : State) : Nat := rd s pgGeneration Reg.GEN_COORD_DEPUTY_MODULE
def isDeputy (s : State) : Bool := genRank s == 1

/-- The step that is being resolved. -/
def currentStep (s : State) : Option Nat := s.gen.opened.head?.map OpenStep.step

/-- The rank map; empty where it cannot be read (log 51). -/
def readMap : M (List Nat) := do
  let s ← get
  let n := genSize s
  match ← catchCode (busRead genWho (rd s pgGeneration Reg.GEN_MAP * 64) (2 * n)) with
  | .ok d => return (piecesOfList 2 (n + 1) (d.map Prod.fst)).map leNat
  | .error c => do
    modify (logErr pgGeneration c 0)
    return []

/-- The control layout of R931. -/
def controlData (step gen code rank decision : Nat) : List Byte :=
  leBytes 4 step ++ leBytes 4 gen ++ leBytes 2 code ++ leBytes 2 rank ++ leBytes 1 decision ++ leBytes 3 0

/-- A decision as its message: kind and data. -/
def Decision.message (d : Decision) : Nat × List Byte :=
  if d.commit then (0x03, controlData d.step d.gen 0 0 0) else (0x04, controlData d.step 0 d.cause d.rank 0)

def sendDecision (d : Decision) (m : Nat) (s : State) : State := sendMessage pgGeneration d.message.1 m d.message.2 s

def stray (s : State) : State := bump pgGeneration Reg.GEN_STRAY 1 s

/-! ### What units still owe a step (R319, R320, R333) -/

/-- A unit that is not locked owes the pass of step `t`: its state, whether a START is in effect, whether no pass has
begun, its last step. A halted unit is not IDLE: it owes the pass that it has not finished. -/
def owesPass (s : State) (page state : Nat) (loaded fresh : Bool) (last t : Nat) : Bool :=
  let done := look 0 s.gen.finished page
  if state = 0 ∨ (!loaded ∧ state ≠ 3) ∨ lockState s page ≠ 0 then false
  else if done ≠ 0 ∧ notAfter t (done - 1) then false
  else notAfter (if fresh || !loaded then rd s pgGeneration Reg.GEN_STEP else last) t

/-- The states of the tiles, pipelines and handpumps that owe the pass of step `t`. -/
def owingStates (s : State) (t : Nat) : List Nat :=
  ((s.tiles.filter fun e => owesPass s (pgTile e.1) (schedState s e.1) e.2.loaded e.2.fresh
      (rd s (pgTile e.1) Reg.GEN_TSTEP) t).map fun e => schedState s e.1)
    ++ ((s.pipes.filter fun e => owesPass s (pgAttention e.1) (apState s e.1) e.2.loaded e.2.fresh
      (rd s (pgAttention e.1) Reg.AP_STEP) t).map fun e => apState s e.1)
    ++ ((s.hpipes.filter fun e => owesPass s (pgHandpump e.1) (hpState s e.1) e.2.loaded e.2.fresh
      (rd s (pgHandpump e.1) Reg.HP_STEP) t).map fun e => hpState s e.1)

/-- Some unit owes the pass of step `t`. -/
def owingUnits (s : State) (t : Nat) : Bool := !(owingStates s t).isEmpty

/-- A unit that owes the pass of step `t` can still finish it: it is not halted (R333). -/
def finishingUnits (s : State) (t : Nat) : Bool := (owingStates s t).any fun k => k != 3

/-- A unit that owes the pass of step `t` is halted (R322). -/
def haltedUnits (s : State) (t : Nat) : Bool := (owingStates s t).contains 3

/-- Adds of step `t` have not all been applied: one waits in a queue, one on its way to a peer is not acknowledged, or an
operation that will make one still runs (R320). -/
def addsUnderWay (s : State) (t : Nat) : Bool :=
  (s.gen.statq.any fun q => q.step == t)
    || (s.bus.outstanding.any fun o => o.who.sub == statSub && !o.stale)
    || (s.bus.held.any fun x => x.who.sub == statSub)
    || (s.tiles.any fun e => e.2.epi.any fun x => x.owesAdd t)
    || (s.pumps.any fun e => e.2.owesAdd t)
    || (s.pipes.any fun e => e.2.owesAdd t)
    || s.hpipes.any fun e => e.2.owesAdd t

/-- The conditions of R320, with the pending slot open. -/
def stepReady (s : State) (t : Nat) : Bool :=
  phase s == 2 && !owingUnits s t && !(s.gen.binds.any fun b => b.2.step == some t) && !addsUnderWay s t
    && reductionsDone s t

/-! ### Resolution (R332 to R334) -/

/-- The step leaves the open steps; the next one opens when none is open (R312). -/
def resolveStep (t : Nat) (s : State) : State :=
  let s := redForget t { s with gen := { s.gen with
    opened := s.gen.opened.filter (fun o => o.step != t), took := s.gen.took.filter (fun e => e.2 != t)
    vetoes := s.gen.vetoes.filter (fun v => v.1 != t), statq := s.gen.statq.filter (fun q => q.step != t)
    copied := false, listed := [], evaluated := false, vetoSent := false, readySent := false, readyRanks := []
    decision := none, told := false, aborting := none } }
  let s := s.tiles.foldl (fun s e => showStatq (pgTile e.1) s) s
  let s := wr pgGeneration Reg.GEN_STATUS_STALL_FOURTH 0 (setPhase 0 s)
  if s.gen.opened.isEmpty then openNext s else doubtIfCut s

/-- The member commits its pending generation. -/
def commitStep (t : Nat) (s : State) : State :=
  let s := wr pgGeneration Reg.GEN_COMMITTED (committed s + 1) s
  let s := lifeAddTo 8 0xE0 1 (bump pgGeneration Reg.GEN_COMMITS 1 (raiseBit pgGeneration 4 s))
  let s := wr pgMonitor Reg.RNG_STEP_TAG t (lossResolve t true s)
  resolveStep t (roundBegin t (captureCursor t s))

/-- An abort begins: reductions end, queued adds go; the units finish their pass (R333, R718, R933). -/
def abortStep (d : Decision) (s : State) : State :=
  let s := redAbort d.step s
  let s := { s with gen := { s.gen with
    aborting := some d, statq := s.gen.statq.filter fun q => q.step != d.step } }
  s.tiles.foldl (fun s e => showStatq (pgTile e.1) s) s

/-- A commit that would take G beyond its range is an abort (R294). -/
def Decision.held (d : Decision) (s : State) : Decision :=
  if d.commit && committed s == 0xFFFFFFFF then { step := d.step, commit := false, cause := 0x0623, rank := 0 } else d

/-- The member applies a decision on its current step; a decision once held is not changed (R328, R329). -/
def applyDecision (d : Decision) (s : State) : State :=
  let d := d.held s
  if currentStep s ≠ some d.step ∨ s.gen.aborting.isSome ∨ (s.gen.decision.any fun h => h != d) then s
  else
    let s := wr pgGeneration Reg.GEN_STATUS_IN_DOUBT 0 { s with gen := { s.gen with history := s.gen.history ++ [d] } }
    if d.commit then commitStep d.step s else abortStep d s

/-- ABORT_DISCARD: every unit has finished its pass of the aborted step. -/
def abortDiscard (s : State) : State :=
  match s.gen.aborting with
  | none => s
  | some d =>
    if finishingUnits s d.step then s
    else
      let s := wr pgGeneration Reg.GEN_ABORT_CAUSE d.cause (wr pgGeneration Reg.GEN_ABORT_RANK d.rank
        (wr pgGeneration Reg.GEN_ABORT_STEP d.step (logErr pgGeneration d.cause 0 s)))
      let s := journal 0x07 d.cause pgGeneration d.step (lifeAddTo 8 0xE8 1 (bump pgGeneration Reg.GEN_ABORTS 1 s))
      resolveStep d.step (lossResolve d.step false (raiseBit pgGeneration 5 s))

def execAbortDiscard (s : State) : Host.Outcome State Fault Refusal := whileOn s (abortDiscard s)

/-! ### The coordinator (R325 to R328) -/

/-- Sends the decision to the members beyond the deputy, and applies it here. -/
def tellMembers (d : Decision) : M Unit := do
  let map ← readMap
  modify fun s =>
    let others := (map.drop 2).filter fun m => m != 0 && m != ownModule s
    let s := others.foldl (fun s m => sendDecision d m s) { s with gen := { s.gen with told := true } }
    applyDecision d s

/-- The decision goes to the deputy; to every member where there is none, or where it is locked. -/
def publish (d : Decision) : M Unit := do
  let s ← get
  if genSize s = 1 ∨ look false s.link.marks (deputyModule s) then tellMembers d
  else modify (sendDecision d (deputyModule s))

/-- The coordinator decides on its current step, once. A commit that would wrap G is an abort (R294). -/
def decideStep (d : Decision) : M Unit := do
  let s ← get
  waitFor (genRank s == 0 && s.gen.decision.isNone && currentStep s == some d.step && s.gen.aborting.isNone)
  let d := d.held s
  set { s with gen := { s.gen with decision := some d } }
  publish d

/-- READY of a rank. -/
def coordReady (t rank : Nat) : M Unit := do
  let s ← get
  let ranks := if s.gen.readyRanks.contains rank then s.gen.readyRanks else s.gen.readyRanks ++ [rank]
  set { s with gen := { s.gen with readyRanks := ranks } }
  if (List.range (genSize s)).all ranks.contains then
    decideStep { step := t, commit := true, gen := (committed s + 1) % 2 ^ 32 }

/-- A message to the coordinator about its current step; any other is stray. -/
def coordinator (t : Nat) (m : M Unit) : M Unit := do
  let s ← get
  if currentStep s ≠ some t then modify stray
  else if genRank s ≠ 0 ∨ s.gen.decision.isSome ∨ s.gen.aborting.isSome then return ()
  else m

def readyArrives (t rank : Nat) : M Unit := coordinator t (coordReady t rank)
def vetoArrives (t code rank : Nat) : M Unit :=
  coordinator t (decideStep { step := t, commit := false, cause := code, rank := rank })

def execReady (step rank : Nat) (s : State) : Host.Outcome State Fault Refusal :=
  whileOn s (attempt genWho (readyArrives step rank) s)
def execVeto (step code rank : Nat) (s : State) : Host.Outcome State Fault Refusal :=
  whileOn s (attempt genWho (vetoArrives step code rank) s)

/-- `us` microseconds have passed since the pending slot opened here. -/
def commitDeadline (us : Nat) (s : State) : State :=
  let limit := rd s pgGeneration Reg.GEN_DEADLINE
  match currentStep s with
  | none => s
  | some t =>
    if limit = 0 ∨ us < limit ∨ phase s < 2 then s
    else attempt genWho (decideStep { step := t, commit := false, cause := 0x0623, rank := 0 }) s

def execCommitDeadlineExpiry (us : Nat) (s : State) : Host.Outcome State Fault Refusal := whileOn s (commitDeadline us s)

/-- The decision is sent to the deputy again. -/
def decisionResend (s : State) : State :=
  match s.gen.decision with
  | some d => if s.gen.told || genSize s == 1 then s else sendDecision d (deputyModule s) s
  | none => s

def execDecisionResend (s : State) : Host.Outcome State Fault Refusal := whileOn s (decisionResend s)

/-- The deputy's ACK: the coordinator's own decision goes to the members, whatever the ACK names (log 39). -/
def ackArrives (t : Nat) : M Unit := do
  let s ← get
  if currentStep s ≠ some t then modify stray
  else match s.gen.decision with
  | some d => if genRank s = 0 ∧ !s.gen.told then tellMembers d
  | none => return ()

def execAck (step : Nat) (s : State) : Host.Outcome State Fault Refusal := whileOn s (attempt genWho (ackArrives step) s)

/-! ### Members and the deputy (R329 to R331) -/

def heldDecision (s : State) (t : Nat) : Option Decision := s.gen.history.find? fun d => d.step == t

/-- The deputy's ACK names the decision it holds. -/
def sendAck (t : Nat) (s : State) : State :=
  match heldDecision s t with
  | some d => sendMessage pgGeneration 0x05 (coordModule s) (if d.commit then controlData t d.gen 0 0 1
      else controlData t 0 d.cause d.rank 2) s
  | none => s

/-- A decision reaches a member. One in doubt keeps its step as it is until software settles it (R331, R750). -/
def decisionArrives (d : Decision) (s : State) : State :=
  if currentStep s = some d.step then
    let s := if isSet s pgGeneration Reg.GEN_STATUS_IN_DOUBT then s else applyDecision d s
    if isDeputy s then sendAck d.step s else s
  else if isDeputy s && (heldDecision s d.step).isSome then sendAck d.step s
  else stray s

def execCommit (step gen : Nat) (s : State) : Host.Outcome State Fault Refusal :=
  whileOn s (decisionArrives { step := step, commit := true, gen := gen } s)
def execAbort (step code rank : Nat) (s : State) : Host.Outcome State Fault Refusal :=
  whileOn s (decisionArrives { step := step, commit := false, cause := code, rank := rank } s)

/-- The deputy decides ABORT for want of the coordinator, and tells every member. -/
def deputyAborts (t : Nat) : M Unit := do
  let map ← readMap
  let d : Decision := { step := t, commit := false, cause := 0x0624, rank := 0 }
  modify fun s =>
    ((map.eraseDups).filter fun m => m != 0 && m != ownModule s).foldl (fun s m => sendDecision d m s) (applyDecision d s)

/-- The deputy's answer to the module of a rank. -/
def deputyAnswers (d : Decision) (rank : Nat) : M Unit := do
  let map ← readMap
  modify fun s =>
    let m := map.getD rank 0
    if m = 0 then s else sendDecision d m s

/-- A QUERY reaches the deputy. -/
def queryArrives (t rank : Nat) : M Unit := do
  let s ← get
  if !isDeputy s then (if currentStep s = some t then pure () else modify stray)
  else if s.gen.cut.contains t then (if currentStep s = some t then pure () else modify stray)
  else match heldDecision s t with
  | some d => deputyAnswers d rank
  | none => if currentStep s = some t then deputyAborts t else modify stray

def execQuery (step rank : Nat) (s : State) : Host.Outcome State Fault Refusal :=
  whileOn s (attempt genWho (queryArrives step rank) s)

/-- A lock notice names a module: at the coordinator. -/
def noticeToCoordinator (t module : Nat) : M Unit := do
  let s ← get
  match s.gen.decision with
  | none =>
    let map ← readMap
    match map.findIdx? (· == module) with
    | some r => decideStep { step := t, commit := false, cause := 0x0624, rank := r }
    | none => pure ()
  | some d => if !s.gen.told && decide (1 < genSize s) && module == deputyModule s then tellMembers d

/-- At a member: QUERY, the deputy's own decision, or doubt. -/
def noticeToMember (t module : Nat) : M Unit := do
  let s ← get
  let coordLocked := module == coordModule s || look false s.link.marks (coordModule s)
  let deputyLocked := look false s.link.marks (deputyModule s)
  if !coordLocked || !(module == coordModule s || module == deputyModule s) then return ()
  else if isDeputy s then (if s.gen.cut.contains t then modify enterDoubt else deputyAborts t)
  else if deputyLocked then modify enterDoubt
  else modify (sendMessage pgGeneration 0x06 (deputyModule s) (controlData t 0 0 (genRank s) 0))

/-- A lock notice names a module (R325, R328, R330, R331); 0 names none. -/
def noticeToCommit (module : Nat) : M Unit := do
  let s ← get
  match currentStep s with
  | none => return ()
  | some t =>
    if s.gen.aborting.isSome ∨ module = 0 then return ()
    else if genRank s = 0 then noticeToCoordinator t module
    else noticeToMember t module

/-- The module has been locked: its deputy neither answers nor decides for the steps it has (R329). -/
def cutSteps (s : State) : State :=
  { s with gen := { s.gen with cut := s.gen.opened.map OpenStep.step ++ s.gen.history.map Decision.step } }

/-! ### READY and VETO (R320 to R322, R336) -/

/-- R109 on one scale record's pending slot. -/
def scaleUpdate (amaxAt rec : Nat) : M Unit := do
  let (amax, _) ← busReadNat genWho amaxAt 4
  let d ← busRead genWho rec 0x50
  let b := d.map Prod.fst
  let ctrl := fld b 4 4
  let ptr := (bitsOf ctrl 5 4 + 1) % 16
  let hist := fun i => if i = ptr then amax else fld b (0x10 + 4 * i) 4
  busWriteNat genWho (rec + 4) 4 (ctrl - bitsOf ctrl 5 4 * 32 + ptr * 32)
  busWriteNat genWho (rec + 0x10 + 4 * ptr) 4 amax
  if bitOf ctrl 0 then
    let a := ((List.range (bitsOf ctrl 1 4 + 1)).map fun i => hist ((ptr + 16 - i) % 16)).foldl f32Max (hist ptr)
    match f32Val a with
    | .fin false m e =>
      if m ≠ 0 then
        busWriteNat genWho rec 4 (f32Of (.fin false 1 (max (-126) (min 127 (floorLog2 m e)))))
    | _ => pure ()

def scaleUpdates (t : Nat) : List OpenEntry → M Unit
  | [] => return ()
  | e :: es => do
    let s ← get
    let k := pendingSlot s
    if e.kind = 0 then
      let c ← codeOf (scaleUpdate (e.pair + 128 * k + 0x24) (e.addr + k * e.stride))
      if c ≠ 0 then refuseEntry t c
    scaleUpdates t es

/-- Non-finite elements in the step's reduced gradients (R336, R715). -/
def gradientNonfinite (s : State) (t : Nat) : Nat :=
  rdAt s (pgReduction 0) Reg.RD_STEP_NONFINITE (t % 3) + rdAt s (pgReduction 1) Reg.RD_STEP_NONFINITE (t % 3)

/-- The step's reduced gradients hold more non-finite elements than the veto allows (R336). -/
def gradientVeto (s : State) (t : Nat) : Bool :=
  isSet s pgGeneration Reg.GEN_CTRL_VETO_EN && decide (rd s pgGeneration Reg.GEN_VETO_THRESHOLD < gradientNonfinite s t)

/-- The causes of a veto that show in the state of the units: a halted one that owes its pass, and the gradients' count
(R322, R336). -/
def noteCauses (t : Nat) (s : State) : State :=
  let s := if haltedUnits s t then vetoStep t 0x0621 s else s
  if gradientVeto s t then vetoStep t 0x0620 s else s

/-- The evaluation of a step that is ready: the loss with its veto, then the scale records. -/
def evaluateStep (t : Nat) : M Unit := do
  let s ← get
  let (s', bad) := lossEvaluate t s
  set { s' with gen := { s'.gen with evaluated := true } }
  if isSet s pgGeneration Reg.GEN_CTRL_VETO_EN && bad then modify (vetoStep t 0x0620)
  else scaleUpdates t s.gen.listed

/-- Sends VETO with the first cause, when there is one. -/
def sendVetoIf (t : Nat) : M Unit := do
  let s ← get
  match s.gen.vetoes.find? fun v => v.1 == t with
  | none => return ()
  | some (_, code) =>
    if !s.gen.vetoSent then
      set { s with gen := { s.gen with vetoSent := true } }
      if genRank s = 0 then
        if s.gen.decision.isNone then decideStep { step := t, commit := false, cause := code, rank := 0 }
      else modify (sendMessage pgGeneration 0x02 (coordModule s) (controlData t 0 code (genRank s) 0))

/-- READY is sent. -/
def sendReady (t : Nat) : M Unit := do
  modify fun s => setPhase 3 { s with gen := { s.gen with readySent := true } }
  let s ← get
  if genRank s = 0 then
    if s.gen.decision.isNone then coordReady t 0
  else modify (sendMessage pgGeneration 0x01 (coordModule s) (controlData t ((committed s + 1) % 2 ^ 32) 0 (genRank s) 0))

/-- MODULE_READY, first part: once ready and with no round copying (R739), the evaluation. -/
def moduleEvaluate (t : Nat) : M Unit := do
  let s ← get
  waitFor (s.gen.aborting.isNone && !s.gen.readySent && !s.gen.vetoSent && decide (lockState s pgGeneration = 0))
  waitFor (stepReady s t && s.res.round.isNone)
  evaluateStep t

/-- A veto of the step has a cause here. -/
def vetoed (s : State) (t : Nat) : Bool := s.gen.vetoes.any fun v => v.1 == t

/-- MODULE_READY, second part: VETO as soon as a cause has arisen; READY once the evaluation's writes are
acknowledged. -/
def moduleAnswer (t : Nat) : M Unit := do
  let s ← get
  waitFor (s.gen.aborting.isNone && !s.gen.readySent && !s.gen.vetoSent && decide (lockState s pgGeneration = 0))
  if vetoed s t then sendVetoIf t
  else
    waitFor (s.gen.evaluated && stepReady s t && s.res.round.isNone)
    let c ← codeOf (acknowledged genWho)
    if c ≠ 0 then
      refuseEntry t c
      sendVetoIf t
    else sendReady t

def moduleReady (t : Nat) (s : State) : State :=
  let s := noteCauses t s
  attempt genWho (moduleAnswer t) (if s.gen.evaluated || vetoed s t then s else attempt genWho (moduleEvaluate t) s)

def execModuleReady (s : State) : Host.Outcome State Fault Refusal :=
  whileOn s (match currentStep s with
    | some t => moduleReady t s
    | none => s)

/-! ### A member left in doubt (R750) -/

def rsResolve (v : Nat) (s : State) : State :=
  if !writable s pgResilience then s
  else match (if isSet s pgGeneration Reg.GEN_STATUS_IN_DOUBT then currentStep s else none), v % 4 with
  | some t, 1 => applyDecision { step := t, commit := true, gen := (committed s + 1) % 2 ^ 32 } s
  | some t, 2 => applyDecision { step := t, commit := false, cause := 0x0624, rank := 0 } s
  | _, _ => logErr pgResilience 0x0655 0 s

def execRsResolve (decision : Nat) (s : State) : Host.Outcome State Fault Refusal := whileOn s (rsResolve decision s)

end Sys2Proof.Machine
end

