-- ==== Sys2Proof/Machine/Ecc.lean ====
section
/-! DEFINITION. ECDSA and ECDH on P-256 (FIPS 186-4), with the deterministic nonce of RFC 6979 (R826). -/

namespace Sys2Proof.Machine

/-! ### The curve -/

def eccP : Nat := 0xFFFFFFFF00000001000000000000000000000000FFFFFFFFFFFFFFFFFFFFFFFF
def eccN : Nat := 0xFFFFFFFF00000000FFFFFFFFFFFFFFFFBCE6FAADA7179E84F3B9CAC2FC632551
def eccB : Nat := 0x5AC635D8AA3A93E7B3EBBD55769886BC651D06B0CC53B0F63BCE3C3E27D2604B
def eccGx : Nat := 0x6B17D1F2E12C4247F8BCE6E563A440F277037D812DEB33A0F4A13945D898C296
def eccGy : Nat := 0x4FE342E2FE1A7F9B8EE7EB4A7C0F9E162BCE33576B315ECECBB6406837BF51F5

/-- `b` to the power `e` modulo `m`, `e` below 2^fuel. -/
def powMod (m : Nat) : Nat → Nat → Nat → Nat
  | 0, _, _ => 1
  | k + 1, b, e =>
    let r := powMod m k (b * b % m) (e / 2)
    if e % 2 = 1 then r * b % m else r

/-- The inverse modulo a prime. -/
def invMod (m x : Nat) : Nat := powMod m 256 (x % m) (m - 2)

/-- A point of the curve; `none` is the point at infinity. -/
abbrev Point := Option (Nat × Nat)

def subMod (m a b : Nat) : Nat := (a + (m - b % m)) % m

def pointDouble : Point → Point
  | none => none
  | some (x, y) =>
    if y = 0 then none
    else
      let l := subMod eccP (3 * x * x) 3 * invMod eccP (2 * y) % eccP
      let x' := subMod eccP (l * l) (2 * x)
      some (x', subMod eccP (l * subMod eccP x x') y)

def pointAdd : Point → Point → Point
  | none, q => q
  | p, none => p
  | some (x, y), some (u, v) =>
    if x = u then (if y = v then pointDouble (some (x, y)) else none)
    else
      let l := subMod eccP v y * invMod eccP (subMod eccP u x) % eccP
      let x' := subMod eccP (subMod eccP (l * l) x) u
      some (x', subMod eccP (l * subMod eccP x x') y)

/-- `k` times a point, `k` below 2^fuel. -/
def pointMul : Nat → Nat → Point → Point
  | 0, _, _ => none
  | n + 1, k, p =>
    let q := pointMul n (k / 2) (pointDouble p)
    if k % 2 = 1 then pointAdd p q else q

def eccBase : Point := some (eccGx, eccGy)
def scalarMul (k : Nat) (p : Point) : Point := pointMul 256 (k % eccN) p
def xOf (p : Point) : Nat := (p.map Prod.fst).getD 0

/-- A point as X then Y, each 32 bytes big-endian (R849). -/
def pointBytes (p : Point) : List Byte :=
  match p with
  | some (x, y) => beBytes 32 x ++ beBytes 32 y
  | none => List.replicate 64 0

/-- The point that 64 bytes give, when it lies on the curve. -/
def pointOf (bs : List Byte) : Point :=
  let x := beNat (bs.take 32)
  let y := beNat ((bs.drop 32).take 32)
  if bs.length = 64 ∧ x < eccP ∧ y < eccP ∧ y * y % eccP = (x * x * x + (eccP - 3) * x + eccB) % eccP then some (x, y)
  else none

/-! ### Signatures (R826) -/

/-- HMAC-SHA-256 with a key of at most 64 bytes. -/
def hmac (key msg : List Byte) : List Byte :=
  let k := key ++ List.replicate (64 - key.length) 0
  sha256 ((k.map fun b => b ^^^ 0x5C) ++ sha256 ((k.map fun b => b ^^^ 0x36) ++ msg))

/-- The signature of digest `z` with nonce `k`; `none` where r or s is zero. -/
def signWith (d z k : Nat) : Option (Nat × Nat) :=
  let r := xOf (scalarMul k eccBase) % eccN
  let s := invMod eccN k * (z + r * d) % eccN
  if r = 0 ∨ s = 0 then none else some (r, s)

/-- The nonces that RFC 6979 tries, in order, from its state (K, V). -/
def signTry (d z : Nat) : Nat → List Byte → List Byte → Nat × Nat
  | 0, _, _ => (0, 0)
  | n + 1, k, v =>
    let v := hmac k v
    let t := beNat v
    let next := fun (_ : Unit) =>
      let k' := hmac k (v ++ [0])
      signTry d z n k' (hmac k' v)
    if t = 0 ∨ eccN ≤ t then next ()
    else match signWith d z t with
      | some r => r
      | none => next ()

/-- ECDSA signature of a 32-byte digest under private key `d`: r then s, each 32 bytes big-endian. -/
def ecdsaSign (d : Nat) (digest : List Byte) : List Byte :=
  let z := beNat digest
  let x := beBytes 32 d
  let h := beBytes 32 (z % eccN)
  let v := List.replicate 32 (0x01 : Byte)
  let k := hmac (List.replicate 32 0) (v ++ [0] ++ x ++ h)
  let v := hmac k v
  let k := hmac k (v ++ [1] ++ x ++ h)
  let v := hmac k v
  let (r, s) := signTry d z 128 k v
  beBytes 32 r ++ beBytes 32 s

/-- A signature of 64 bytes holds over a digest under a public key of 64 bytes. -/
def ecdsaVerify (key digest sig : List Byte) : Bool :=
  let r := beNat (sig.take 32)
  let s := beNat ((sig.drop 32).take 32)
  match pointOf key with
  | none => false
  | some q =>
    if sig.length ≠ 64 ∨ r = 0 ∨ eccN ≤ r ∨ s = 0 ∨ eccN ≤ s then false
    else
      let w := invMod eccN s
      let p := pointAdd (scalarMul (beNat digest * w % eccN) eccBase) (scalarMul (r * w % eccN) (some q))
      p.isSome && xOf p % eccN == r

end Sys2Proof.Machine
end

