-- ==== Sys2Proof/Machine/Wave.lean ====
section
/-! DEFINITION. The marker wave, its conservation audits, and the life log (Counters, Markers and Life Histograms). -/

namespace Sys2Proof.Machine

/-! ### The wave (R800 to R806) -/

/-- A write of 1 to `MON_MARKER.GO`. -/
def markerGo (s : State) : State :=
  if !writable s pgMonitor ∨ isSet s pgMonitor Reg.MON_MARKER_GO then s
  else
    let s := wr pgMonitor Reg.MON_MARKER_NUMBER (rd s pgMonitor Reg.MON_MARKER_NUMBER + 1) s
    let s := wr pgMonitor Reg.MON_MARKER_GO 1 (wr pgMonitor Reg.MON_AUDIT_DONE 0 { s with marker := {} })
    bump pgMonitor Reg.MON_MARKERS 1 s

def execMarkerGo (s : State) : Host.Outcome State Fault Refusal := whileOn s (markerGo s)

/-- The token reaches the unit of a page. -/
def markerLatch (page : Nat) (s : State) : State := if unlatched s page then latchPage page s else s

def execMarkerLatch (page : Nat) (s : State) : Host.Outcome State Fault Refusal := whileOn s (markerLatch page s)

/-- A marker notice of an unlocked sender is under way. -/
def noticeUnderWay (s : State) : Bool :=
  s.chanq.any fun m => m.body.kind == .notice && !tileLocked s m.tile

/-- Every page has latched or been skipped, every notice has arrived. -/
def waveComplete (s : State) : Bool :=
  isSet s pgMonitor Reg.MON_MARKER_GO && !noticeUnderWay s && !(List.range pageCount).any (unlatched s)

/-! ### Audits (R812 to R815) -/

/-- A holder's domain was not open at its latch. -/
def auditClosed (s : State) (page : Nat) : Bool := s.marker.closed.contains page || s.marker.skipped.contains page

/-- The verdict of receive endpoint n of tile t: 1 passed, 2 failed, 3 skipped; 0 where there is no instance. -/
def channelVerdict (s : State) (t n : Nat) (c : Chan) : Nat :=
  let page := pgTile t
  if c.send ∨ chanState s t n = 0 then 0
  else if auditClosed s page || auditClosed s (pgTile (senderTile c)) || c.markCredits == 0 || chanState s t n != 1 then 3
  else
    let sum := c.markCredits - 1 + rdAt s page Reg.CH_MARK_INFLIGHT n + rdAt s page Reg.CH_MARK_COUNT n
      + rdAt s page Reg.CH_MARK_RETURNS n + c.markUngranted
    if sum = c.slots then 1 else 2

/-- Verdicts of all channels, in order of instance. -/
def channelVerdicts (s : State) : List (Nat × Nat) :=
  s.tiles.flatMap fun e => e.2.chans.filterMap fun c =>
    match channelVerdict s e.1 c.1 c.2 with
    | 0 => none
    | v => some (e.1 * 64 + c.1, v)

/-- Pages that hold the sums of classes 2 to 5. -/
def auditPages : List (Nat × Nat) :=
  [(0x20, pgWellhead 0), (0x21, pgWellhead 1), (0x30, pgCistern), (0x40, pgCistern), (0x50, pgGeneration)]

/-- Verdicts of classes 2 to 5: class, instance, verdict. -/
def unitVerdicts (s : State) : List (Nat × Nat × Nat) :=
  auditPages.map fun e =>
    (e.1 / 16, e.1 % 16, if auditClosed s e.2 then 3 else look 3 s.marker.verdicts e.1)

/-- Records the audits of a wave. -/
def recordAudits (s : State) : State :=
  let chans := channelVerdicts s
  let all := chans.map (fun e => (1, e.1, e.2)) ++ unitVerdicts s
  let s := chans.foldl (fun s e => wrAt (pgTile (e.1 / 64)) Reg.CH_MARK_AUDIT (e.1 % 64) e.2 s) s
  let count := fun v => min (all.filter fun e => e.2.2 == v).length 0x7FFF
  let s := wr pgMonitor Reg.MON_AUDIT_PASSED (count 1) (wr pgMonitor Reg.MON_AUDIT_SKIPPED (count 3) s)
  match all.filter fun e => e.2.2 == 2 with
  | [] => s
  | bad@((cls, inst, _) :: _) =>
    let s := lifeAddTo 8 0xF0 1 (bump pgMonitor Reg.MON_AUDIT_FAILS bad.length s)
    let s := if isSet s pgMonitor Reg.MON_AUDIT_FAIL_BIT then s
      else wr pgMonitor Reg.MON_AUDIT_FAIL_CLASS cls (wr pgMonitor Reg.MON_AUDIT_FAIL_INSTANCE inst
        (wr pgMonitor Reg.MON_AUDIT_FAIL_BIT 1 s))
    let data := rd s pgMonitor Reg.MON_AUDIT_FAIL_CLASS + rd s pgMonitor Reg.MON_AUDIT_FAIL_INSTANCE * 16
    journal 0x08 0 pgMonitor data (raiseBit pgMonitor 7 s)

/-- The wave is complete: its audits, then `DONE`. -/
def markerWaveComplete (s : State) : State :=
  if waveComplete s then
    raiseBit pgMonitor 6 (wr pgMonitor Reg.MON_MARKER_GO 0 (wr pgMonitor Reg.MON_AUDIT_DONE 1 (recordAudits s)))
  else s

def execMarkerWaveComplete (s : State) : Host.Outcome State Fault Refusal := whileOn s (markerWaveComplete s)

/-! ### The life log (R816 to R820) -/

def modLife (f : LifeLog → LifeLog) (s : State) : State := { s with life := f s.life }

/-- Band of a hottest die temperature in °C, and of an input voltage in tenths of a volt. -/
def tempBand (c : Nat) : Nat := if c < 30 then 0 else min 15 ((c - 25) / 5)
def vinBand (v : Nat) : Nat := if v < 480 then 0 else min 7 ((v - 460) / 20)

/-- One more second in the band of a summary field; sixty make a minute. -/
def accrue (off bytes : Nat) (s : State) : State :=
  let n := retained s off + 1
  if n < 60 then retain off n s else lifeAddTo bytes off 1 (retain off 0 s)

/-- The sample of one second. -/
def lifeSample (s : State) : State :=
  let s := accrue (0x40 + 4 * tempBand (rd s pgLockkeeper Reg.PW_TEMP_DIE_C)) 4 s
  let s := accrue (0x80 + 4 * vinBand (rd s pgLockkeeper Reg.PW_STATUS_VIN)) 4 s
  accrue 0x18 8 (modLife (fun l => { l with seconds := l.seconds + 1, thisSecond := 0 }) s)

def execLifeSample (s : State) : Host.Outcome State Fault Refusal :=
  whileOn s (if s.powered && decide (lockState s pgLockkeeper = 0) then lifeSample s else s)

/-- The newest valid copy of the summary (R818). -/
def newestCopy (l : LifeLog) : Option LifeCopy :=
  match l.copyA.valid, l.copyB.valid with
  | true, true => some (if l.copyB.seq < l.copyA.seq then l.copyA else l.copyB)
  | true, false => some l.copyA
  | false, true => some l.copyB
  | false, false => none

/-- The fields as they go to flash, the channels' states among them. -/
def summaryFields (s : State) : List (Nat × Nat) :=
  (List.range 16).foldl (fun m c => put 0 m (0x10C + 16 * c) (rd s (pgChannel c) Reg.CH_STATE)) s.life.live

/-- Writes the copy that does not hold the newest summary (R817). -/
def writeSummary (s : State) : State :=
  let l := s.life
  let seq := (newestCopy l).elim 0 LifeCopy.seq + 1
  let c : LifeCopy := { valid := true, seq := seq, fields := summaryFields s }
  let newestIsA := l.copyA.valid && (!l.copyB.valid || decide (l.copyB.seq < l.copyA.seq))
  modLife (fun l => if newestIsA then { l with copyB := c } else { l with copyA := c }) s

def execLifeSummaryWrite (s : State) : Host.Outcome State Fault Refusal :=
  whileOn s (if s.powered && decide (lockState s pgLockkeeper = 0) then writeSummary s else s)

/-- Entries that the journal's area holds, and those of one erased block. -/
def journalRoom : Nat := (0x800000 - 0x20000) / 32
def journalBlock : Nat := 2048

/-- Appends the oldest waiting event, or drops it beyond 64 in a second. -/
def journalAppend (s : State) : State :=
  match s.life.waiting with
  | [] => s
  | e :: rest =>
    let s := modLife (fun l => { l with waiting := rest }) s
    if 64 ≤ s.life.thisSecond then lifeAddTo 8 0x28 1 s
    else modLife (fun l => { l with
      journal := (if l.journal.length < journalRoom then l.journal else l.journal.drop journalBlock)
        ++ [{ seq := l.nextEntry, minute := look 0 l.live 0x18 % 2 ^ 32, ev := e }]
      nextEntry := l.nextEntry + 1, thisSecond := l.thisSecond + 1 }) s

def execJournalAppend (s : State) : Host.Outcome State Fault Refusal :=
  whileOn s (if s.powered && decide (lockState s pgLockkeeper = 0) then journalAppend s else s)

/-- The bytes of a journal entry (R819). -/
def JournalEntry.bytes (e : JournalEntry) : List Byte :=
  let b := leBytes 8 e.seq ++ leBytes 4 e.minute ++ leBytes 2 e.ev.kind ++ leBytes 2 e.ev.code ++ leBytes 4 e.ev.unit
    ++ leBytes 8 e.ev.data
  b ++ leBytes 4 (crc32 b)

/-- Bytes of the field at an offset of the summary. -/
def summaryWidth (off : Nat) : Nat :=
  if off = 0x18 ∨ off = 0x28 ∨ (0xE0 ≤ off ∧ off < 0x100) then 8
  else if 0x500 ≤ off then 1
  else 4

/-- Writes bytes into a byte string at an offset. -/
def overlay (bs : List Byte) (off : Nat) (d : List Byte) : List Byte := bs.take off ++ d ++ bs.drop (off + d.length)

/-- The 64 KiB of a copy of the summary. -/
def LifeCopy.bytes (c : LifeCopy) : List Byte :=
  let b := c.fields.foldl (fun b e => overlay b e.1 (leBytes (summaryWidth e.1) e.2)) (leBytes 0x10000 0)
  let b := overlay (overlay (overlay b 0 (leBytes 4 0x4546494C)) 4 (leBytes 2 1)) 8 (leBytes 8 c.seq)
  overlay b 0x10 (leBytes 8 (crc64 b))

end Sys2Proof.Machine
end

