-- ==== Sys2Proof/Machine/Trust.lean ====
section
/-! DEFINITION. The keyring, boot image selection, the SPDM responder and the debug port (Identity, Attestation and
Signing). -/

namespace Sys2Proof.Machine

def modTrust (f : Trust → Trust) (s : State) : State := { s with tr := f s.tr }

/-- A trust refusal: `TR_STATUS.CODE` and the Lockkeeper page's log. -/
def trustRefuse (c : Nat) (s : State) : State := logErr pgLockkeeper c 0 (wr pgLockkeeper Reg.TR_STATUS_CODE c s)

/-- Bytes of a flash area: erased beyond what is stored. -/
def flashAt (area : List Byte) (off n : Nat) : List Byte :=
  (area.drop off).take n ++ List.replicate (n - min n (area.length - off)) 0xFF
def flashNat (area : List Byte) (off n : Nat) : Nat := leNat (flashAt area off n)

/-! ### The configuration block (R829 to R831) -/

/-- Length of the DER element at the front of a byte string, tag included. -/
def derLength (bs : List Byte) : Nat :=
  let l := (bs.getD 1 0).toNat
  if l < 128 then 2 + l
  else
    let k := l - 128
    2 + k + beNat ((bs.drop 2).take k)

def cfgNat (c : List Byte) (off n : Nat) : Nat := flashNat c off n
def cfgLen (c : List Byte) : Nat := cfgNat c 0x50 4
def cfgSerial (c : List Byte) : List Byte := flashAt c 0x10 16
def cfgDebugKey (c : List Byte) : List Byte := flashAt c 0x20 32
def cfgHelper (c : List Byte) : List Byte := flashAt c (cfgNat c 0x40 4) (cfgNat c 0x44 4)
def cfgChain (c : List Byte) : List Byte := flashAt c (cfgNat c 0x48 4) (cfgNat c 0x4C 4)
def cfgModuleCa (c : List Byte) : List Byte := (cfgChain c).take (derLength (cfgChain c))
def cfgDevice (c : List Byte) : List Byte := (cfgChain c).drop (derLength (cfgChain c))

/-- A configuration block is valid: magic, version, length, chain and signature. -/
def configValid (c : List Byte) : Bool :=
  let n := cfgLen c
  cfgNat c 0 4 == 0x4B474643 && cfgNat c 4 2 == 1 && n % 64 == 0 && decide (0x100 + 64 ≤ n) && decide (n ≤ 2 ^ 20)
    && Config.chainsToRoot (cfgModuleCa c)
    && ecdsaVerify (Config.certKey (cfgModuleCa c)) (sha256 (flashAt c 0 (n - 64))) (flashAt c (n - 64) 64)

/-! ### Firmware images (R833, R834) -/

def imageOf (s : State) (slot : Nat) : List Byte := if slot = 0 then s.tr.imageA else s.tr.imageB
def imageSeq (i : List Byte) : Nat := flashNat i 8 4
def imageSvn (i : List Byte) : Nat := flashNat i 0xC 4

/-- The header is there: an image without one is never considered (R837). -/
def imageHeader (i : List Byte) : Bool :=
  flashNat i 0 4 == 0x474D494B && flashNat i 4 2 == 1 && decide (1 ≤ flashNat i 6 2) && decide (flashNat i 6 2 ≤ 16)
    && decide (flashNat i 0x10 4 ≤ 24 * 2 ^ 20)

/-- Component `k` of an image: kind, offset, length, digest. -/
def imageComp (i : List Byte) (k : Nat) : Nat × Nat × Nat × List Byte :=
  let o := 0x40 + 48 * k
  (flashNat i o 4, flashNat i (o + 4) 4, flashNat i (o + 8) 4, flashAt i (o + 16) 32)
def imageComps (i : List Byte) : List (Nat × Nat × Nat × List Byte) :=
  (List.range (flashNat i 6 2)).map (imageComp i)

/-- The first check that an image fails, 0 when it passes all. -/
def imageFault (cfg i : List Byte) : Nat :=
  let cert := flashAt i (flashNat i 0x20 4) (flashNat i 0x24 4)
  if !Config.chainsToRoot cert
      || !ecdsaVerify (Config.certKey cert) (sha256 (flashAt i 0 0xFC0)) (flashAt i 0xFC0 64) then 0x0702
  else if imageSvn i < cfgNat cfg 0xC 4 then 0x0703
  else if (imageComps i).any fun c => sha256 (flashAt i c.2.1 c.2.2.1) != c.2.2.2 then 0x0702
  else 0

/-- Digest of the component of a kind. -/
def compDigest (i : List Byte) (kind : Nat) : List Byte :=
  match (imageComps i).find? fun c => c.1 == kind with
  | some c => c.2.2.2
  | none => []

/-- Measurements 1 to 8 (R839). -/
def takeMeasures (s : State) : List (List Byte) :=
  let slot := rd s pgLockkeeper Reg.TR_BOOT_SLOT
  let i := imageOf s slot
  leBytes 4 Config.romVersion :: ((List.range 4).map fun k => compDigest i (k + 1))
    ++ [sha256 (flashAt (imageOf s (1 - slot)) 0 4096), sha256 (flashAt s.tr.active 0 (cfgLen s.tr.active)),
      leBytes 1 (rd s pgLockkeeper Reg.TR_BOOT_FALLBACK) ++ leBytes 1 slot ++ leBytes 2 0 ++ leBytes 4 (cfgNat s.tr.active 8 4)]

/-- Slots in the order in which the boot ROM considers them. -/
def bootOrder (s : State) : List Nat :=
  let order := if imageSeq s.tr.imageA < imageSeq s.tr.imageB then [1, 0] else [0, 1]
  order.filter fun k => imageHeader (imageOf s k)

/-- The consecutive starts of an image without service, which the retention SRAM counts. -/
def startsOf (s : State) (slot : Nat) : Nat := retained s (0x10000 + slot)
def setStarts (slot n : Nat) (s : State) : State := retain (0x10000 + slot) n s
def imageFailed (s : State) (slot : Nat) : Bool := if slot = 0 then s.tr.failedA else s.tr.failedB
def markFailed (slot : Nat) (s : State) : State :=
  modTrust (fun t => if slot = 0 then { t with failedA := true } else { t with failedB := true }) s

/-- No image runs (R781, R836). -/
def enterRecovery (s : State) : State :=
  modTrust (fun t => { t with measures := [] })
    (wr pgLockkeeper Reg.RC_HEARTBEAT_PHASE 3 (wr pgLockkeeper Reg.TR_BOOT_RECOVERY 1 s))

/-- The image of a slot runs; `first` when it was the first considered. -/
def runImage (slot : Nat) (first : Bool) (s : State) : State :=
  let s := setStarts slot (startsOf s slot + 1) s
  let s := wr pgLockkeeper Reg.TR_BOOT_SLOT slot (wr pgLockkeeper Reg.TR_BOOT_RECOVERY 0 s)
  let s := wr pgLockkeeper Reg.TR_BOOT_ATTEMPTS (startsOf s slot) (wr pgLockkeeper Reg.TR_BOOT_FALLBACK (natOf !first) s)
  let s := wr pgLockkeeper Reg.TR_CB_SEQ (cfgNat s.tr.active 8 4) (wr pgLockkeeper Reg.TR_SVN (imageSvn (imageOf s slot)) s)
  let s := if first then s else raiseBit pgLockkeeper 6 s
  modTrust (fun t => { t with measures := takeMeasures s }) s

/-- Considers images in order. The third start in a row without service marks an image failed (R835). -/
def considerImages (first : Bool) : List Nat → State → State
  | [], s => enterRecovery s
  | k :: ks, s =>
    if imageFailed s k then considerImages false ks s
    else if 2 ≤ startsOf s k then considerImages false ks (markFailed k s)
    else match imageFault s.tr.active (imageOf s k) with
      | 0 => runImage k first s
      | c => considerImages false ks (trustRefuse c (bump pgLockkeeper Reg.TR_IMAGE_FAILS 1 s))

/-- The boot ROM selects an image (R831, R834). -/
def bootSelect (s : State) : State :=
  let s := modTrust (fun t => { t with active := t.config }) s
  if configValid s.tr.active then considerImages true (bootOrder s) s
  else enterRecovery (trustRefuse 0x0701 s)

/-- The keyring derives the identity key and checks it against the device certificate (R824, R828). -/
def deriveKey (s : State) : State :=
  if !configValid s.tr.config then s
  else
    let d := 1 + Config.identityKey (cfgHelper s.tr.config) % (eccN - 1)
    let pub := pointBytes (scalarMul d eccBase)
    let s := modTrust (fun t => { t with key := some d }) (wr pgLockkeeper Reg.TR_PUBKEY (leNat pub) s)
    if pub = Config.certKey (cfgDevice s.tr.config) then wr pgLockkeeper Reg.TR_STATUS_KEY_OK 1 s
    else raiseBit pgLockkeeper 7 (wr pgLockkeeper Reg.TR_STATUS_KEY_OK 0 s)

/-! ### The keyring (R825 to R828, R848) -/

/-- The keyring serves no request. -/
def keyBad (s : State) : Bool := !isSet s pgLockkeeper Reg.TR_STATUS_KEY_OK
/-- The keyring refuses signing and exchanges. -/
def keyLocked (s : State) : Bool := keyBad s || isSet s pgLockkeeper Reg.TR_STATUS_KEY_LOCKED

/-- `n` random bytes. -/
def drawBytes (n : Nat) (s : State) : List Byte × State :=
  ((List.range n).map fun i => Config.randomByte (s.drawn + i), { s with drawn := s.drawn + n })

/-- Signs a digest, or refuses. -/
def keySign (digest : List Byte) (s : State) : Option (List Byte) × State :=
  match s.tr.key with
  | some d => if keyLocked s then (none, trustRefuse 0x0710 s)
      else (some (ecdsaSign d digest), bump pgLockkeeper Reg.TR_SIGNATURES 1 s)
  | none => (none, trustRefuse 0x0710 s)

/-- Random bytes, or a refusal. -/
def keyRandom (n : Nat) (s : State) : Option (List Byte) × State :=
  if keyBad s then (none, trustRefuse 0x0710 s) else ((drawBytes n s).1, (drawBytes n s).2)

/-- An exchange with a peer's public key: the ephemeral public key, with the secret kept in the keyring. What is no
point of the curve gives no key (SP 800-56A). -/
def keyExchange (peer : List Byte) (s : State) : Option (List Byte) × State :=
  if keyLocked s then (none, trustRefuse 0x0710 s)
  else match pointOf peer with
    | none => (some [], s)
    | some q =>
      let (r, s) := drawBytes 32 s
      let d := 1 + beNat r % (eccN - 1)
      (some (pointBytes (scalarMul d eccBase)), modTrust (fun t => { t with secret := xOf (scalarMul d (some q)) }) s)

/-- Hands the keyring's answer to its requester. -/
def keyAnswer (r : Option (List Byte) × State) : State :=
  match r.1 with
  | some b => modTrust (fun t => { t with answer := (0, b) }) r.2
  | none => modTrust (fun t => { t with answer := (0x0710, []) }) r.2

def execKeyringSign (digest : List Byte) (s : State) : Host.Outcome State Fault Refusal :=
  whileOn s (if s.powered && digest.length == 32 then keyAnswer (keySign digest s) else s)
def execKeyringEcdhe (peer : List Byte) (s : State) : Host.Outcome State Fault Refusal :=
  whileOn s (if s.powered then keyAnswer (keyExchange peer s) else s)
def execKeyringRandom (count : Nat) (s : State) : Host.Outcome State Fault Refusal :=
  whileOn s (if s.powered then keyAnswer (keyRandom count s) else s)
def execKeyringPublicKey (s : State) : Host.Outcome State Fault Refusal :=
  whileOn s (if !s.powered then s
    else keyAnswer (if keyBad s then (none, trustRefuse 0x0710 s)
      else (some (leBytes 64 (rd s pgLockkeeper Reg.TR_PUBKEY)), s)))

/-! ### The SPDM responder (R838 to R841); response and error codes by DSP0274 (log 53) -/

def spdmSend (kind : Nat) (data : List Byte) (s : State) : State := { s with outs := s.outs ++ [.spdm kind data] }
def spdmError (c : Nat) (s : State) : State := spdmSend 0x7F [BitVec.ofNat 8 c] s

/-- Serves a request that needs stage `k` of the negotiation. -/
def spdmAt (k : Nat) (f : State → State) (s : State) : State :=
  if !s.powered then s else if s.tr.stage < k then spdmError 0x04 s else f s

/-- Zeroes the keys of the sessions: they end (R841). -/
def endSessions (s : State) : State := modTrust (fun t => { t with sessions := [], secret := 0 }) s

def getVersion (s : State) : State := spdmSend 0x04 (leBytes 2 0x1200) (modTrust (fun t => { t with stage := 1 }) s)
def execGetVersion (s : State) : Host.Outcome State Fault Refusal := whileOn s (spdmAt 0 getVersion s)

/-- CTExponent 14. -/
def getCapabilities (s : State) : State :=
  spdmSend 0x61 (leBytes 1 14) (modTrust (fun t => { t with stage := max 2 t.stage }) s)
def execGetCapabilities (s : State) : Host.Outcome State Fault Refusal := whileOn s (spdmAt 1 getCapabilities s)

/-- The selection: ECDSA P-256, SHA-256, measurement hash SHA-256, secp256r1, AES-256-GCM. -/
def negotiateAlgorithms (common : Bool) (s : State) : State :=
  if common then
    spdmSend 0x63 ([0x10, 0x01, 0x02, 0x08, 0x02].flatMap (leBytes 4)) (modTrust (fun t => { t with stage := 3 }) s)
  else spdmError 0x01 s
def execNegotiateAlgorithms (common : Bool) (s : State) : Host.Outcome State Fault Refusal :=
  whileOn s (spdmAt 2 (negotiateAlgorithms common) s)

/-- The certificate chain: root, module CA, device (R829). -/
def certChain (s : State) : List Byte := Config.rootCert ++ cfgChain s.tr.active

def execGetDigests (s : State) : Host.Outcome State Fault Refusal :=
  whileOn s (spdmAt 3 (fun s => spdmSend 0x01 (sha256 (certChain s)) s) s)

def execGetCertificate (slot off len : Nat) (s : State) : Host.Outcome State Fault Refusal :=
  whileOn s (spdmAt 3 (fun s =>
    if slot = 0 ∧ off < (certChain s).length then spdmSend 0x02 (((certChain s).drop off).take len) s
    else spdmError 0x01 s) s)

/-- Sends an answer that ends with a signature over the digest of the transcript. -/
def spdmSigned (kind : Nat) (data digest : List Byte) (s : State) : State :=
  match keySign digest s with
  | (some g, s) => spdmSend kind (data ++ g) s
  | (none, s) => spdmError 0x05 s

/-- With a nonce before the signature. -/
def spdmNonce (kind : Nat) (data digest : List Byte) (s : State) : State :=
  match keyRandom 32 s with
  | (some n, s) => spdmSigned kind (data ++ n) digest s
  | (none, s) => spdmError 0x05 s

def execChallenge (slot : Nat) (digest : List Byte) (s : State) : Host.Outcome State Fault Refusal :=
  whileOn s (spdmAt 3 (fun s =>
    if slot = 0 then spdmNonce 0x03 (sha256 (certChain s)) digest s else spdmError 0x01 s) s)

/-- Measurement blocks: index, type (bit 7 raw), size, value (DMTF measurement specification). -/
def measureBlock (s : State) (k : Nat) : List Byte :=
  let v := s.tr.measures.getD (k - 1) []
  leBytes 1 k ++ leBytes 1 (if k = 1 ∨ k = 8 then 0x80 else 0) ++ leBytes 2 v.length ++ v

/-- Index 0 asks for the count, 0xFF for all. -/
def getMeasurements (index : Nat) (sign : Bool) (digest : List Byte) (s : State) : State :=
  if 8 < index ∧ index ≠ 0xFF then spdmError 0x01 s
  else
    let data := if index = 0 then leBytes 1 s.tr.measures.length
      else if index = 0xFF then ((List.range 8).map fun k => measureBlock s (k + 1)).flatten
      else measureBlock s index
    if sign then spdmNonce 0x60 data digest s else spdmSend 0x60 data s

def execGetMeasurements (index : Nat) (sign : Bool) (digest : List Byte) (s : State) : Host.Outcome State Fault Refusal :=
  whileOn s (spdmAt 3 (getMeasurements index sign digest) s)

/-- A session starts: at most four at once. -/
def spdmKeyExchange (slot : Nat) (peer digest : List Byte) (s : State) : State :=
  if slot ≠ 0 ∨ (pointOf peer).isNone then spdmError 0x01 s
  else if 4 ≤ s.tr.sessions.length then spdmError 0x0A s
  else match keyExchange peer s with
    | (none, s) => spdmError 0x05 s
    | (some pub, s) =>
      match keySign digest s with
      | (none, s) => spdmError 0x05 (modTrust (fun t => { t with secret := 0 }) s)
      | (some g, s) =>
        let n := s.tr.nextSession
        spdmSend 0x64 (leBytes 4 n ++ pub ++ g) (modTrust (fun t => { t with
          sessions := t.sessions ++ [{ id := n, secret := t.secret }], nextSession := n + 1, secret := 0 }) s)

def execKeyExchange (slot : Nat) (peer digest : List Byte) (s : State) : Host.Outcome State Fault Refusal :=
  whileOn s (spdmAt 3 (spdmKeyExchange slot peer digest) s)

/-- Serves a request within a session. -/
def inSession (id : Nat) (established : Bool) (f : Session → State → State) (s : State) : State :=
  if !s.powered then s
  else match s.tr.sessions.find? fun x => x.id == id && x.established == established with
    | some x => f x s
    | none => spdmError 0x02 s

def putSession (x : Session) (s : State) : State :=
  modTrust (fun t => { t with sessions := t.sessions.map fun y => if y.id = x.id then x else y }) s
def dropSession (id : Nat) (s : State) : State :=
  modTrust (fun t => { t with sessions := t.sessions.filter fun y => y.id != id }) s

/-- FINISH, with the requester's verify data right or wrong; a wrong one ends the handshake. -/
def spdmFinish (ok : Bool) (x : Session) (s : State) : State :=
  if ok then bump pgLockkeeper Reg.TR_SPDM_SESSIONS 1 (spdmSend 0x65 [] (putSession { x with established := true } s))
  else spdmError 0x06 (dropSession x.id s)

def execFinish (session : Nat) (ok : Bool) (s : State) : Host.Outcome State Fault Refusal :=
  whileOn s (inSession session false (spdmFinish ok) s)
def execHeartbeat (session : Nat) (s : State) : Host.Outcome State Fault Refusal :=
  whileOn s (inSession session true (fun _ s => spdmSend 0x68 [] s) s)
def execKeyUpdate (session : Nat) (s : State) : Host.Outcome State Fault Refusal :=
  whileOn s (inSession session true (fun x s => spdmSend 0x69 [] (putSession { x with updates := x.updates + 1 } s)) s)
def execEndSession (session : Nat) (s : State) : Host.Outcome State Fault Refusal :=
  whileOn s (inSession session true (fun x s => spdmSend 0x6C [] (dropSession x.id s)) s)

/-! ### The debug port (R846, R847) -/

/-- Issues a challenge, unless the port never opens or three attempts have failed. -/
def debugChallenge (s : State) : State :=
  if (cfgDebugKey s.tr.active).all (· == 0) ∨ !configValid s.tr.active ∨ 3 ≤ s.tr.debugFails then s
  else match keyRandom 32 s with
    | (some b, s) => modTrust (fun t => { t with challenge := some b }) { s with outs := s.outs ++ [.debugPort b] }
    | (none, s) => s

def execDebugChallenge (s : State) : Host.Outcome State Fault Refusal := whileOn s (if s.powered then debugChallenge s else s)

/-- The port opens. -/
def debugOpen (s : State) : State :=
  let s := wr pgLockkeeper Reg.TR_STATUS_DEBUG_OPEN 1 (wr pgLockkeeper Reg.TR_STATUS_KEY_LOCKED 1 (endSessions s))
  raiseBit pgLockkeeper 8 (bump pgLockkeeper Reg.TR_DEBUG_OPENS 1 s)

/-- A key and a signature answer the challenge, which is used up. -/
def debugAuth (key sig : List Byte) (s : State) : State :=
  let ok := match s.tr.challenge with
    | some c => !(cfgDebugKey s.tr.active).all (· == 0) && sha256 key == cfgDebugKey s.tr.active
        && ecdsaVerify key (sha256 (c ++ cfgSerial s.tr.active)) sig
    | none => false
  let s := modTrust (fun t => { t with challenge := none }) s
  if ok then debugOpen s
  else trustRefuse 0x0704 (bump pgLockkeeper Reg.TR_DEBUG_FAILS 1 (modTrust (fun t => { t with debugFails := t.debugFails + 1 }) s))

def execDebugAuth (key sig : List Byte) (s : State) : Host.Outcome State Fault Refusal :=
  whileOn s (if s.powered then debugAuth key sig s else s)

def execDebugChallengeExpiry (s : State) : Host.Outcome State Fault Refusal :=
  whileOn s (if s.powered then modTrust (fun t => { t with challenge := none }) s else s)

/-! ### A Lockkeeper reset (R840, R841, R846, R847) -/

/-- What a Lockkeeper reset clears of trust. -/
def trustReset (s : State) : State :=
  wr pgLockkeeper Reg.TR_STATUS_DEBUG_OPEN 0 (endSessions (modTrust (fun t => { t with
    stage := 0, challenge := none, debugFails := 0, measures := [] }) s))

/-! ### Statements (R842) -/

/-- The 128 bytes of a statement over covered bytes. -/
def statement (s : State) (purpose step arg nonce : Nat) (covered : List Byte) : List Byte :=
  leBytes 4 0x54535144 ++ leBytes 2 1 ++ leBytes 2 purpose ++ leBytes 2 (ownModule s) ++ leBytes 6 0
    ++ cfgSerial s.tr.active ++ leBytes 4 step ++ leBytes 4 0 ++ leBytes 8 arg ++ leBytes 8 nonce ++ leBytes 8 0
    ++ sha256 covered ++ leBytes 32 0

/-- The statement with its signature, where the keyring signs. -/
def signedStatement (st : List Byte) (s : State) : Option (List Byte) × State :=
  match keySign (sha256 st) s with
  | (some g, s) => (some (st ++ g), s)
  | (none, s) => (none, s)

end Sys2Proof.Machine
end

