-- ==== Sys2Proof/Machine/Rings.lean ====
section
/-! DEFINITION. The command processors: work rings, step loading, export packs (PCI Express Host Interface; Spatial
Pipelines and Credits; Randomness and Run Monitors). -/

namespace Sys2Proof.Machine

/-- Ring `r` is ring `r mod 32` of its command processor's page (R865). -/
def ringPage (r : Nat) : Nat := pgCp (r / 32)
def ringRd (s : State) (r : Nat) (f : Field) : Nat := rdAt s (ringPage r) f (r % 32)
def ringWr (r : Nat) (f : Field) (v : Nat) (s : State) : State := wrAt (ringPage r) f (r % 32) v s

/-- The requests of a ring's entry, and those that write its completion record. -/
def ringWho (r : Nat) : Who := ⟨ringPage r, r % 32 + 1⟩
def recordWho (r : Nat) : Who := ⟨ringPage r, r % 32 + 0x101⟩

def ringEntryOf (s : State) (r : Nat) : RingEntry := look {} s.host.rings r
def setEntry (r : Nat) (e : RingEntry) (s : State) : State := { s with host := { s.host with rings := put {} s.host.rings r e } }
def ringSize (s : State) (r : Nat) : Nat := 2 ^ ringRd s r Reg.WR_CFG_LOG2

/-! ### Doorbells and `ENABLE` (R867, R868, R874) -/

/-- A refused doorbell or tail write. -/
def refuseDoorbell (s : State) : State := logErr pgHost 0x0420 0 (bump pgHost Reg.HI_DOORBELL_REFUSED 1 s)

/-- A new tail. -/
def doorbell (r tail : Nat) (s : State) : State :=
  if ringRd s r Reg.WR_CFG_ENABLE = 0 ∨ ringSize s r < (tail + 2 ^ 32 - ringRd s r Reg.WR_HEAD) % 2 ^ 32 then refuseDoorbell s
  else ringWr r Reg.WR_TAIL tail s

/-- Local address of a ring's `WR_TAIL`. -/
def tailAddr (r : Nat) : Nat := regBase + 0x10000 + ringPage r * 0x1000 + 0x418 + 32 * (r % 32)

/-- A write to BAR4 offset `ring` × 8 192; it fails in recovery and while the hub die is RESETTING (R857, R863). -/
def doorbellWrite (r tail : Nat) (s : State) : State :=
  if 64 ≤ r ∨ endpointUp s = false then s
  else if isSet s pgLockkeeper Reg.TR_BOOT_RECOVERY || !writable s (ringPage r) then hostFail 0x0801 (tailAddr r) s
  else doorbell r (tail % 2 ^ 32) s

def execDoorbell (ring tail : Nat) (s : State) : Host.Outcome State Fault Refusal := whileOn s (doorbellWrite ring tail s)

/-- A write of `WR_CFG.ENABLE`: 0 then 1 clears `HALTED`. -/
def ringEnable (r : Nat) (on : Bool) (s : State) : State :=
  let was := ringRd s r Reg.WR_CFG_ENABLE
  let s := ringWr r Reg.WR_CFG_ENABLE (natOf on) s
  if on ∧ was = 0 then ringWr r Reg.WR_CFG_HALTED 0 s else s

def execWrEnable (ring : Nat) (on : Bool) (s : State) : Host.Outcome State Fault Refusal :=
  whileOn s (if decide (ring < 64) && writable s (ringPage ring) then ringEnable ring on s else s)

/-! ### Entries (R869 to R872) -/

/-- A read at the ring's place: host memory, or a global address. Poison ends it (R622). -/
def ringRead (r : Nat) (host : Bool) (a n : Nat) : M (List Byte) := do
  let d ← if host then hostRead (ringWho r) a n else busRead (ringWho r) a n
  refuseIf (d.any Prod.snd) 0x0240
  return d.map Prod.fst

/-- Alignment of `WE_ADDR` for an opcode. -/
def entryAlign (op : Nat) : Nat :=
  match op with
  | 2 => 64 | 3 => 64 | 4 => 8 | 5 => 4 | 6 => 4 | _ => 1

/-- An entry breaks R872. -/
def entryMalformed (b : List Byte) : Bool :=
  let op := fld b 0 1
  op == 0 || decide (6 < op) || decide (1 < fld b 1 1) || fld b 4 4 != 0 || !zeroFrom b 0x20 0x40
    || fld b 8 8 % entryAlign op != 0

/-- Entries that a command processor runs. -/
def runningEntries (s : State) (c : Nat) : Nat := (s.host.rings.filter fun e => e.1 / 32 == c && e.2.busy).length

/-- The ring may take its next entry. -/
def ringReady (s : State) (r : Nat) : Bool :=
  ringRd s r Reg.WR_CFG_ENABLE == 1 && ringRd s r Reg.WR_CFG_HALTED == 0 && lockState s (ringPage r) == 0
    && ringRd s r Reg.WR_HEAD != ringRd s r Reg.WR_TAIL && decide (runningEntries s (r / 32) < 8)

/-- The next ring that a command processor serves: the first one ready after the one served last, in cyclic order. -/
def nextRing (s : State) (c : Nat) : Option Nat :=
  ((List.range 32).map fun j => 32 * c + (look 31 s.host.served c + 1 + j) % 32).find? fun r =>
    ringReady s r && !(ringEntryOf s r).busy

/-- Command processor `c` serves ring `r`. -/
def servedRing (r : Nat) (s : State) : State := { s with host := { s.host with served := put 31 s.host.served (r / 32) (r % 32) } }

/-- The ring takes its next entry. One that cannot be read, or is malformed, ends at once. -/
def takeRingEntry (r : Nat) : M Unit := do
  let s ← get
  waitFor (nextRing s (r / 32) == some r)
  modify (servedRing r)
  let i := ringRd s r Reg.WR_HEAD
  let a := ringRd s r Reg.WR_BASE + 64 * (i % ringSize s r)
  match ← catchCode (ringRead r (ringRd s r Reg.WR_CFG_LOC == 1) a 64) with
  | .error c => modify (setEntry r { busy := true, finished := true, code := c })
  | .ok b =>
    let bad := entryMalformed b
    modify (setEntry r {
      busy := true, op := fld b 0 1, flags := fld b 1 1, tag := fld b 2 2, addr := fld b 8 8, arg0 := fld b 0x10 8
      arg1 := fld b 0x18 8, finished := bad, code := if bad then 0x01C0 else 0 })

/-- The entry of a ring ends with a code, 0 for success; its completion waits for its writes. -/
def endEntry (r c : Nat) : M Unit := modify fun s => setEntry r { ringEntryOf s r with finished := true, code := c } s

/-- Runs the entry at a ring's head when its opcode is `op`. -/
def ringCommand (op r : Nat) (m : RingEntry → M Unit) (s : State) : State :=
  if !s.powered ∨ 64 ≤ r then s
  else
    let s := if (ringEntryOf s r).busy then s else attempt (ringWho r) (takeRingEntry r) s
    let e := ringEntryOf s r
    if e.busy && !e.finished && e.stage == 0 && e.op == op && lockState s (ringPage r) == 0 then attempt (ringWho r) (m e) s
    else s

/-- Work that ends the entry with its code. -/
def endsEntry (r : Nat) (m : M Unit) : M Unit := do endEntry r (← codeOf m)

def execWrNop (ring : Nat) (s : State) : Host.Outcome State Fault Refusal :=
  whileOn s (ringCommand 1 ring (fun _ => endEntry ring 0) s)

def execWrWrite (ring : Nat) (s : State) : Host.Outcome State Fault Refusal :=
  whileOn s (ringCommand 4 ring (fun e => endsEntry ring (busWriteNat (ringWho ring) e.addr 8 e.arg0)) s)

def execWrAdd (ring : Nat) (s : State) : Host.Outcome State Fault Refusal :=
  whileOn s (ringCommand 6 ring (fun e => endsEntry ring (busAdd (ringWho ring) e.addr e.arg0)) s)

/-- One reading of the word that a WAIT waits on. -/
def wrWait (r : Nat) (e : RingEntry) : M Unit :=
  endsEntry r (do
    let b ← ringRead r false e.addr 4
    waitFor (decide (e.arg0 % 2 ^ 32 ≤ leNat b)))

def execWrWait (ring : Nat) (s : State) : Host.Outcome State Fault Refusal := whileOn s (ringCommand 5 ring (wrWait ring) s)

/-! ### LOAD_STEP (R219 to R222, R384, R469) -/

/-- A stage descriptor. -/
structure Stage where
  b : List Byte
deriving DecidableEq, Repr

def Stage.kind (g : Stage) : Nat := fld g.b 2 1
def Stage.first (g : Stage) : Nat := fld g.b 4 2
def Stage.count (g : Stage) : Nat := fld g.b 6 2
def Stage.size (g : Stage) : Nat := fld g.b 0x18 4
def Stage.off (g : Stage) : Nat := fld g.b 0x20 4
def Stage.hdr (g : Stage) : Nat := fld g.b 0x24 4

/-- The units of a stage in order: logical tiles, clusters or handpumps. -/
def Stage.units (g : Stage) : List Nat :=
  let ks := (List.range g.count).map (g.first + ·)
  if g.kind = 0 then ks.flatMap fun k => ((List.range 16).filter (bitOf (fld g.b 8 2))).map fun t => 16 * k + t else ks

/-- A stage is out of range: its units, or its image in their store (log 54). -/
def Stage.outOfRange (g : Stage) : Bool :=
  g.count == 0 || g.size % 256 != 0 || match g.kind with
  | 0 => decide (256 < g.first + g.count) || g.off % 256 != 0 || decide (wellBytes < g.off + g.size)
  | 1 => decide (256 < g.first + g.count) || decide (0x10000 < g.size)
  | _ => decide (32 < g.first + g.count) || decide (0x8000 < g.size)

/-- Two stages of a kind name one unit. -/
def stagesMeet (a b : Stage) : Bool := a.kind == b.kind && a.units.any b.units.contains

/-- The code that refuses a step program (R222). -/
def stagesRefused (gs : List Stage) : Option Nat :=
  if gs.any fun g => decide (2 < g.kind) then some 0x0130
  else if gs.any Stage.outOfRange then some 0x0131
  else if anyPair stagesMeet gs then some 0x0132
  else none

/-- Puts an image into a program store from offset 0. -/
def storeImage (st : List (Nat × Byte)) (d : List Byte) : List (Nat × Byte) :=
  d.zipIdx.foldl (fun m e => put 0 m e.2 e.1) st

/-- Loads and starts one unit with the image at `a`. A unit whose domain is locked refuses it (R55). -/
def loadUnit (r : Nat) (g : Stage) (a u : Nat) : M Unit := do
  let s ← get
  match g.kind with
  | 0 => do
    let t := physicalOf s u
    let d ← busRead (ringWho r) a g.size
    let ord ← takeOrd
    busWriteNow (ringWho r) ord (wellBase t + g.off) d
    modify fun s => schedStart t (wr (pgTile t) Reg.SCHED_BASE (g.off + g.hdr) s)
  | 1 => do
    refuseIf (lockState s (pgAttention u) != 0) 0x0801
    let d ← ringRead r false a g.size
    modify fun s => apStart u (setPipe u { getPipe s u with store := storeImage (getPipe s u).store d, header := g.hdr } s)
  | _ => do
    refuseIf (lockState s (pgHandpump u) != 0) 0x0801
    let d ← ringRead r false a g.size
    modify fun s => hpStart u (setHp u { getHp s u with store := storeImage (getHp s u).store d, header := g.hdr } s)

def loadUnits (r : Nat) (g : Stage) : List (Nat × Nat) → M Unit
  | [] => return ()
  | (u, i) :: us => do
    loadUnit r g (fld g.b 0x10 8 + i * fld g.b 0x1C 4) u
    loadUnits r g us

def loadStages (r : Nat) : List Stage → M Unit
  | [] => return ()
  | g :: gs => do
    loadUnits r g g.units.zipIdx
    loadStages r gs

/-- LOAD_STEP: refused as a whole, or every stage loaded and started. -/
def loadStep (r : Nat) (e : RingEntry) : M Unit :=
  endsEntry r (do
    let n := e.arg0 % 2 ^ 16
    let b ← ringRead r false e.addr (64 * n)
    let gs := (piecesOfList 64 (n + 1) b).map Stage.mk
    refuseSome (stagesRefused gs)
    loadStages r gs)

def execWrLoadStep (ring : Nat) (s : State) : Host.Outcome State Fault Refusal := whileOn s (ringCommand 2 ring (loadStep ring) s)

/-! ### EXPORT (R512 to R519) -/

/-- An entry of the export list. -/
structure ExportEntry where
  b : List Byte
deriving DecidableEq, Repr

def ExportEntry.src (x : ExportEntry) : FormatWord := FormatWord.ofNat (fld x.b 4 4)
def ExportEntry.out (x : ExportEntry) : FormatWord := FormatWord.ofNat (fld x.b 8 4)
def ExportEntry.count (x : ExportEntry) : Nat := fld x.b 0xC 4
/-- The output format as the export uses it: follow-max, nearest-even, coarse scale 1.0, no statistics (R514). -/
def ExportEntry.fmt (x : ExportEntry) : FormatWord :=
  { x.out with round := 0, clip := false, clipGap := 0, coarseOne := true, stats := false }
def ExportEntry.codeBytes (x : ExportEntry) : Nat := x.fmt.format.bytesFor x.count
def ExportEntry.scaleBytes (x : ExportEntry) : Nat :=
  if x.fmt.format.blockScaled then blockCount x.count x.fmt.block else 0
/-- Data bytes of an entry, padding included (R515). -/
def ExportEntry.len (x : ExportEntry) : Nat := (x.codeBytes + x.scaleBytes + 63) / 64 * 64

/-- An export descriptor's first refusal after its list has been read (R518). -/
def exportRefused (s : State) (d : List Byte) (xs : List ExportEntry) : Option Nat :=
  let mb := fld d 0 1
  let fmtCode := fun (x : ExportEntry) => (formatCheck { x.src with coarseOne := true, stats := false } none none).or
    (formatCheck { x.out with coarseOne := true, stats := false } none none)
  if xs.any fun x => x.count == 0 || fld x.b 4 4 / 2 ^ 14 != 0 || fld x.b 8 4 / 2 ^ 14 != 0 || fld x.b 0x1C 4 != 0 then some 0x0190
  else match xs.findSome? fmtCode with
  | some c => some c
  | none =>
    if xs.any fun x => x.src.format.blockScaled then some 0x0191
    else if !(s.gen.binds.any fun e => e.1 == mb && e.2.step.isNone && mb != 0xFF) then some 0x0192
    else if fld d 0x18 8 < 192 + 64 * xs.length + (xs.map ExportEntry.len).foldl (· + ·) 0 then some 0x0193
    else if keyLocked s then some 0x0710
    else none

/-- The data of an entry: codes, then S8 bytes, padded (R514, R515). -/
def exportData (r gen : Nat) (x : ExportEntry) : M (List Byte) := do
  let a := fld x.b 0x10 8 + gen % 3 * fld x.b 0x18 4
  let b ← ringRead r false a (x.src.format.bytesFor x.count)
  let one := 0x3F800000
  let vals := decodeRow x.src one [] (unpackCodes x.src.format x.count b)
  let (s8, codes, _) := encodeRow x.fmt one (fun _ => 0) 0 vals
  let d := packCodes x.fmt.format codes ++ (if x.fmt.format.blockScaled then s8.map (BitVec.ofNat 8) else [])
  return d ++ List.replicate (x.len - d.length) 0

/-- Table and data of the entries; `off` is where the next data goes in the pack. -/
def exportEntries (r gen : Nat) : Nat → List ExportEntry → M (List Byte × List Byte)
  | _, [] => return ([], [])
  | off, x :: xs => do
    let d ← exportData r gen x
    let row := leBytes 4 (fld x.b 0 4) ++ leBytes 4 (fld x.b 8 4 % 32) ++ leBytes 4 x.count ++ leBytes 4 0
      ++ leBytes 8 off ++ leBytes 8 x.len ++ sha256 d
    let (t, ds) ← exportEntries r gen (off + x.len) xs
    return (row ++ t, d ++ ds)

/-- The 128-byte header of a pack. -/
def packHeader (s : State) (d : List Byte) (n gen total : Nat) : List Byte :=
  leBytes 4 0x58455144 ++ leBytes 2 1 ++ leBytes 2 (ownModule s) ++ leBytes 4 n ++ leBytes 4 gen ++ leBytes 8 (fld d 0x20 8)
    ++ leBytes 8 total ++ leBytes 96 0

/-- Writes a part of the pack; to the host with relaxed ordering, but for the signature, which comes last (R517, R852). -/
def exportWrite (r : Nat) (host relaxed : Bool) (a : Nat) (d : List Byte) : M Unit :=
  if host then hostWrite a (clean d) relaxed else busWrite (ringWho r) a (clean d)

/-- Checks an export and writes header, table and data; the signature waits for their acknowledgement. -/
def exportPack (r : Nat) (e : RingEntry) : M Unit := do
  let d ← ringRead r false e.addr 64
  let n := fld d 4 4
  refuseIf (fld d 0 4 / 512 != 0 || !zeroFrom d 0x28 0x40 || n == 0 || decide (65536 < n) || fld d 8 8 % 32 != 0) 0x0190
  let l ← ringRead r false (fld d 8 8) (32 * n)
  let xs := (piecesOfList 32 (n + 1) l).map ExportEntry.mk
  let s ← get
  refuseSome (exportRefused s d xs)
  let gen := match s.gen.binds.find? fun e => e.1 == fld d 0 1 with
    | some e => e.2.gen
    | none => 0
  let (t, data) ← exportEntries r gen (128 + 64 * n) xs
  let total := 192 + 64 * n + data.length
  let h := packHeader s d n gen total ++ t
  let host := bitOf (fld d 0 4) 8
  exportWrite r host true (fld d 0x10 8) (h ++ data)
  modify fun s => setEntry r { ringEntryOf s r with
    stage := 1, digest := sha256 h, signAt := fld d 0x10 8 + total - 64, toHost := host } s

def wrExport (r : Nat) (e : RingEntry) : M Unit := do
  let c ← codeOf (exportPack r e)
  if c ≠ 0 then endEntry r c

def execWrExport (ring : Nat) (s : State) : Host.Outcome State Fault Refusal := whileOn s (ringCommand 3 ring (wrExport ring) s)

/-- Every write of the pack is acknowledged: the signature, and the event (R517, R519). -/
def exportSign (r : Nat) : M Unit := do
  let s ← get
  let e := ringEntryOf s r
  waitFor (e.busy && !e.finished && e.stage == 1)
  let c ← codeOf (do
    acknowledged (ringWho r)
    let (g, s) := keySign e.digest (← get)
    set s
    match g with
    | some g => exportWrite r e.toHost false e.signAt g
    | none => failWith 0x0710)
  endEntry r c
  if c = 0 then modify (raiseBit (ringPage r) 4)

def execExportSign (ring : Nat) (s : State) : Host.Outcome State Fault Refusal :=
  whileOn s (if s.powered && decide (ring < 64) then attempt (ringWho ring) (exportSign ring) s else s)

/-! ### Completion (R873, R874) -/

/-- Writes bytes of a completion record. -/
def recordWrite (r a : Nat) (d : List Byte) : M Unit := do
  if ringRd (← get) r Reg.WR_CFG_LOC = 1 then hostWrite a (clean d) false
  else do
    let _ ← codeOf (busWrite (recordWho r) a (clean d))

/-- The record of entry `i`: `CQ_CODE` and flags, then the rest. -/
def cqBytes (s : State) (r i code tag : Nat) : List Byte × List Byte :=
  (leBytes 2 code ++ leBytes 2 (phaseBit i (ringRd s r Reg.WR_CFG_LOG2)),
    leBytes 2 tag ++ leBytes 2 0 ++ leBytes 4 i ++ leBytes 4 0)

def cqAt (s : State) (r : Nat) : Nat :=
  ringRd s r Reg.WR_CQ_BASE + 16 * (ringRd s r Reg.WR_HEAD % ringSize s r)

/-- The entry's own writes are acknowledged: bytes 0x04 to 0x0F. -/
def completeFirst (r : Nat) : M Unit := do
  let s ← get
  let e := ringEntryOf s r
  waitFor (e.busy && e.finished && decide (e.stage < 2))
  let a ← codeOf (acknowledged (ringWho r))
  let code := if e.code = 0 then a else e.code
  recordWrite r (cqAt s r + 4) (cqBytes s r (ringRd s r Reg.WR_HEAD) code e.tag).2
  modify (setEntry r { e with stage := 2, code := code })

/-- Then bytes 0x00 to 0x03. -/
def completeSecond (r : Nat) : M Unit := do
  let s ← get
  let e := ringEntryOf s r
  waitFor (e.busy && e.stage == 2)
  let _ ← codeOf (acknowledged (recordWho r))
  recordWrite r (cqAt s r) (cqBytes s r (ringRd s r Reg.WR_HEAD) e.code e.tag).1
  modify (setEntry r { e with stage := 3 })

/-- The entry is over: head, vector, halt. -/
def retireEntry (r : Nat) (e : RingEntry) (s : State) : State :=
  let s := ringWr r Reg.WR_HEAD (ringRd s r Reg.WR_HEAD + 1) (setEntry r {} s)
  let s := if bitOf e.flags 0 then signalVector (ringRd s r Reg.WR_CFG_VECTOR) s else s
  if e.code = 0 then s else logErr (ringPage r) e.code 0 (ringWr r Reg.WR_CFG_HALTED 1 s)

def completeThird (r : Nat) : M Unit := do
  let s ← get
  let e := ringEntryOf s r
  waitFor (e.busy && e.stage == 3)
  let _ ← codeOf (acknowledged (recordWho r))
  modify (retireEntry r e)

/-- A command processor completes the entry of a ring, as far as its writes are acknowledged. -/
def wrCompletion (r : Nat) (s : State) : State :=
  if !s.powered ∨ 64 ≤ r then s
  else attempt (recordWho r) (completeThird r) (attempt (recordWho r) (completeSecond r)
    (attempt (recordWho r) (completeFirst r) s))

def execWrCompletion (ring : Nat) (s : State) : Host.Outcome State Fault Refusal := whileOn s (wrCompletion ring s)

/-! ### A lock of the hub die (R875) -/

/-- A running entry completes with ERR_DOMAIN_LOCKED; what its record's writes meet is not waited for. -/
def lockRing (r : Nat) (s : State) : State :=
  let e := ringEntryOf s r
  let s := if !e.busy then s
    else
      let c := if 2 ≤ e.stage then e.code else 0x0801
      let (a, b) := cqBytes s r (ringRd s r Reg.WR_HEAD) c e.tag
      let s := attempt (recordWho r) (do recordWrite r (cqAt s r + 4) b; recordWrite r (cqAt s r) a) s
      retireEntry r { e with code := c } s
  [Reg.WR_BASE, Reg.WR_CQ_BASE, Reg.WR_CFG_ENABLE, Reg.WR_CFG_LOC, Reg.WR_CFG_LOG2, Reg.WR_CFG_HALTED, Reg.WR_CFG_VECTOR,
    Reg.WR_HEAD, Reg.WR_TAIL].foldl (fun s f => ringWr r f f.rst s) s

/-- All rings of command processor `c`. -/
def lockRings (c : Nat) (s : State) : State := (List.range 32).foldl (fun s k => lockRing (32 * c + k) s) s

end Sys2Proof.Machine
end

