-- ==== Sys2Proof/Machine/Locks.lean ====
section
/-! DEFINITION. Reset domains: what a lock does to the units of a domain, and what the domain hands back (Reset Domains,
Locks and Recovery). -/

namespace Sys2Proof.Machine

/-! ### Domains (R757) -/

/-- How many instances a kind of domain has. -/
def domainCount (kind : Nat) : Nat := [1, 2, 8, 256, 4352, 16, 32, 28, 1].getD kind 0

/-- The page of a media engine. -/
def mediaPage (i : Nat) : Nat :=
  if i < 16 then pgDecoder i else if i < 20 then pgEncoder (i - 16) else pgTransform (i - 20)

/-- The pages of a cluster, and of its 17 tiles. -/
def clusterPages (k : Nat) : List Nat :=
  ((List.range 17).map fun i => pgTile (17 * k + i)) ++ [pgCluster k, pgAttention k, pgPump k]

/-- The pages of a compute die. -/
def diePages (d : Nat) : List Nat :=
  ((List.range 32).flatMap fun k => clusterPages (32 * d + k)) ++ (List.range 4).map fun i => pgHandpump (4 * d + i)

/-- The pages of a hub die. -/
def hubPages (h : Nat) : List Nat :=
  ((List.range 8).map fun i => pgChannel (8 * h + i)) ++ ((List.range 16).map fun i => pgPort (16 * h + i))
    ++ ((List.range 8).map fun i => pgDecoder (8 * h + i)) ++ ((List.range 2).map fun i => pgEncoder (2 * h + i))
    ++ ((List.range 4).map fun i => pgTransform (4 * h + i)) ++ ((List.range 16).map fun i => pgPump (256 + 16 * h + i))
    ++ [pgWellhead h, pgReduction h, pgCp h, pgHub h]
    ++ (if h = 0 then [pgCistern, pgGeneration, pgResilience, pgMonitor] else [])

/-- The pages of the units that a domain contains. -/
def domainPages (kind inst : Nat) : List Nat :=
  match kind with
  | 0 => ((List.range 8).flatMap diePages) ++ hubPages 0 ++ hubPages 1
  | 1 => hubPages inst
  | 2 => diePages inst
  | 3 => clusterPages inst
  | 4 => [pgTile inst]
  | 5 => [pgChannel inst]
  | 6 => [pgPort inst]
  | 7 => [mediaPage inst]
  | 8 => [pgLockkeeper]
  | _ => []

def modRc (f : Rc → Rc) (s : State) : State := { s with rc := f s.rc }

/-- The state of a domain: the furthest of its own and its enclosing domains' (R766). -/
def domainState (s : State) (kind inst : Nat) : Nat := lockOver s (enclosing kind inst)

def DomLock.is (l : DomLock) (kind inst : Nat) : Bool := l.kind == kind && l.inst == inst

/-- The domain is locked in its own right. -/
def domainOwn (s : State) (kind inst : Nat) : Bool := s.rc.locks.any fun l => l.is kind inst && l.own

/-- The domain's own lock record stands at this state. -/
def ownState (s : State) (kind inst st : Nat) : Bool := s.rc.locks.any fun l => l.is kind inst && l.state == st

/-- Gives a domain a lock record of its own; one that stands keeps its `own`. -/
def putLock (l : DomLock) (s : State) : State :=
  let locks :=
    if s.rc.locks.any fun x => x.is l.kind l.inst then
      s.rc.locks.map fun x => if x.is l.kind l.inst then { x with state := l.state } else x
    else s.rc.locks ++ [l]
  modRc (fun r => { r with locks := locks }) s

def dropLock (kind inst : Nat) (s : State) : State :=
  modRc (fun r => { r with locks := r.locks.filter fun l => !l.is kind inst }) s

/-- The domain lies in another. -/
def within (kind inst kind' inst' : Nat) : Bool := (enclosing kind inst).contains (kind', inst')

/-! ### The lock point (R760, R763, R764, R768) -/

/-- What a unit does at its lock point. A scheduler, pipeline or handpump that is halted stays as it is. -/
def lockUnit (page : Nat) (s : State) : State :=
  let i := instanceOf page
  let s := lockStep page s
  match typeOf page with
  | 0x01 => lockChannels i (showStatq page (if schedState s i = 3 then s else haltTile i 0x0801 0 s))
  | 0x03 =>
    let s := returnPins i s
    if apState s i = 3 then s else haltPipe i 0x0801 0 s
  | 0x05 => if hpState s i = 3 then s else haltHp i 0x0801 0 s
  | 0x08 => lockDecoder i s
  | 0x09 => lockEncoder i s
  | 0x0A => lockTransform i s
  | 0x11 => abandonFill (if s.res.round.isSome then roundFails 0x0801 0 s else s)
  | _ => s

/-- Requests that the units of the pages have issued get no answer from now on (R762). -/
def stalePages (pages : List Nat) (s : State) : State := staleWhere (fun w _ => pages.contains w.page) s

/-- A domain that was OPEN enters LOCKING: its lock point. -/
def beginLock (kind inst : Nat) (s : State) : State :=
  let fresh := (domainPages kind inst).filter fun p => lockState s p == 0
  let s := putLock { kind := kind, inst := inst, state := 1 } s
  let s := if kind ≤ 1 then sendNotice 8 (ownModule s) (rd s (pgHub 0) Reg.KL_CFG_HOP_LIMIT) none s else s
  let s := if kind ≤ 1 then cutSteps s else s
  stalePages fresh (fresh.foldl (fun s p => lockUnit p (wr p Reg.PAGE_LOCK_DRAIN_EXPIRED 0 s)) s)

/-! ### What a domain returns before it is LOCKED (R764) -/

/-- Every transfer of a pump, and every submission that waits, completes with ERR_DOMAIN_LOCKED. A record that cannot be
written at once is not written. -/
def lockPump (p : Nat) (s : State) : State :=
  let x := getPump s p
  let s := x.slots.foldl (fun s e =>
    let y := { e.2 with code := 0x0801 }
    attempt (signalWho p e.1) (recordXfer p e.1 y) (freeXfer p e.1 y s)) s
  let s := x.queue.foldl (fun s q =>
    attempt (signalWho p 0) (recordXfer p 0 { desc := [], addr := q.1, record := q.2, code := 0x0801 })
      (bump (pgPump p) Reg.PM_DESCS 1 (logErr (pgPump p) 0x0801 0 s))) s
  showSlots p (setPump p { getPump s p with queue := [] } s)

/-- A port leaves UP: its counts are zeroed, and requests that left by it fail (R668). -/
def lockPort (n : Nat) (s : State) : State :=
  let s := failRequests (fun o => o.port == n && !o.host && !o.stale) 0x0403 (clearPort n s)
  setPortState n 8 (wr (pgPort n) Reg.KP_PEER_VALID 0 s)

/-- The credits that issued instructions of a tile still hold at the drain bound become ungranted (R260, log 76). -/
def lockCredits (t : Nat) (s : State) : State :=
  (getTile s t).chans.foldl (fun s e => unreserve t e.1 e.2.reserved s) s

/-- What the unit of a page returns. -/
def returnUnit (page : Nat) (s : State) : State :=
  let i := instanceOf page
  match typeOf page with
  | 0x01 => lockCredits i s
  | 0x04 => lockPump i s
  | 0x07 => lockPort i s
  | 0x0D => lockRings i s
  | _ => s

/-- The unit of a page still holds something that it must answer or return: a tile's instructions hold credits, an UNPIN
of a pipeline has not been accepted, an entry or a result record is still to be written, a Wellhead has commands. -/
def unitHolds (s : State) (page : Nat) : Bool :=
  let i := instanceOf page
  match typeOf page with
  | 0x01 => (getTile s i).chans.any fun e => e.2.reserved != 0
  | 0x03 => (s.bus.regq.any fun x => x.who == returnWho i) || s.bus.held.any fun x => x.who == returnWho i
  | 0x08 => !(getDec s i).out.isEmpty
  | 0x09 => !(getEnc s i).results.isEmpty
  | 0x0B => !(look [] s.whq i).isEmpty
  | _ => false

/-- A unit of the domain still holds something of R761 and R764. -/
def domainHolds (s : State) (kind inst : Nat) : Bool :=
  (domainPages kind inst).any fun p => lockState s p == 1 && unitHolds s p

/-- The domain enters LOCKED, and with it those it contains. -/
def enterLocked (kind inst : Nat) (s : State) : State :=
  let pages := (domainPages kind inst).filter fun p => lockState s p == 1
  let s := pages.foldl (fun s p => returnUnit p s) s
  let locks := s.rc.locks.map fun l =>
    if within l.kind l.inst kind inst && l.state == 1 then { l with state := 2 } else l
  let s := modRc (fun r => { r with locks := locks }) s
  pages.foldl (fun s p => raiseBit p 1 s) (bump pgLockkeeper Reg.RC_LOCKS 1 s)

/-! ### Opening (R766, R769) -/

/-- What a unit does when its domain opens: a port brings itself up (R672), a self-test ends (R172). -/
def openUnit (page : Nat) (s : State) : State :=
  let i := instanceOf page
  match typeOf page with
  | 0x01 => abandonTest page 0 s
  | 0x03 => abandonTest page 1 (abandonTest page 0 s)
  | 0x07 =>
    setPortState i (if !isSet s page Reg.KP_CTRL_ENABLE then 0 else if isSet s page Reg.KP_STATUS_LASER then 2 else 1) s
  | _ => s

/-- Sends the release notice that is owed, once no lock of the module or of a hub die is left and the module has its
number (R682). -/
def sendOwed (s : State) : State :=
  if s.rc.owesRelease && !(s.rc.locks.any fun l => decide (l.kind ≤ 1)) && realModule (ownModule s) then
    sendNotice 9 (ownModule s) (rd s (pgHub 0) Reg.KL_CFG_HOP_LIMIT) none (modRc (fun r => { r with owesRelease := false }) s)
  else s

/-- The domain's own lock ends: the pages that nothing else holds open. -/
def openDomain (kind inst : Nat) (s : State) : State :=
  let s := dropLock kind inst s
  let s := ((domainPages kind inst).filter fun p => lockState s p == 0).foldl (fun s p => openUnit p s) s
  sendOwed (if kind ≤ 1 then modRc (fun r => { r with owesRelease := true }) s else s)

end Sys2Proof.Machine
end

