-- ==== Sys2Proof/Machine/Resets.lean ====
section
/-! DEFINITION. Resets of domains: crash dumps, what a reset clears and keeps, power states, the request queue (Reset
Domains, Locks and Recovery). -/

namespace Sys2Proof.Machine

/-! ### Crash dumps (R783, R784) -/

/-- The 64-byte header of a dump of `n` pages; `time` is the always-on clock count at the lock point. -/
def dumpHeader (s : State) (x : DomReset) (n time : Nat) : List Byte :=
  leBytes 2 1 ++ leBytes 2 (x.kind + (if x.inst < 4096 then x.inst * 16 else 0)) ++ leBytes 4 s.rc.nextDump
    ++ leBytes 4 0 ++ leBytes 4 x.inst ++ leBytes 8 time ++ leBytes 4 n ++ leBytes 36 0

/-- Bytes of the dump areas of the live channels. -/
def dumpRoom (s : State) : Nat := 589934592 * ((List.range 16).filter fun c => rd s (pgChannel c) Reg.CH_STATE == 0).length

/-- The dumps that remain when the oldest give way until all fit. -/
def trimDumps (room : Nat) : List Dump → List Dump
  | [] => []
  | d :: ds => if ((d :: ds).map fun x => x.bytes.length).foldl (· + ·) 0 ≤ room then d :: ds else trimDumps room ds

/-- Writes a dump of the domain and its summary; the clock count is a free value. Without room there is no dump. -/
def writeDump (x : DomReset) (s : State) : State :=
  let pages := domainPages x.kind x.inst
  if dumpRoom s < 64 + 4096 * pages.length then s
  else
    let head := dumpHeader s x pages.length (Config.freeNat s.drawn % 2 ^ 64)
    let body := pages.flatMap fun p => leBytes 4096 (pageRead s p 0 4096)
    let logs := (pages.filter fun p => rd s p Reg.PAGE_ERR_COUNT != 0).flatMap fun p => leBytes 32 (pageRead s p 0x20 32)
    let dumps := trimDumps (dumpRoom s) (s.rc.dumps ++ [({ seq := s.rc.nextDump, bytes := head ++ body } : Dump)])
    let s := modRc (fun r => { r with
      dumps := dumps, nextDump := r.nextDump + 1
      summaries := insertKey r.summaries r.nextSlot (head ++ logs), nextSlot := (r.nextSlot + 1) % 16 }) s
    let s := journal 0x0B 0 pgLockkeeper (x.kind + x.inst * 16) { s with drawn := s.drawn + 1 }
    raiseBit pgLockkeeper 5 (bump pgLockkeeper Reg.RC_DUMPS 1 s)

/-! ### What a reset clears (R773, R779) -/

/-- Read-only fields of a page type that a reset keeps: captures, logs, results and mappings; the others show state
that the reset empties (log 56). -/
def keptFields (type : Nat) : List Field :=
  match type with
  | 0x01 => [Reg.HA_STATUS_SPARE_ACTIVE, Reg.HA_STATUS_SPARE_COL_ACTIVE, Reg.HA_STATUS_FAULT, Reg.HA_STATUS_FAULT_COL,
      Reg.HA_STATUS_UNCOVERED, Reg.HA_SPARE_PENDING, Reg.HA_TEST_DONE, Reg.HA_TEST_PASS, Reg.WIT_CAPTURE, Reg.WIT_TAG,
      Reg.OVF_CAPTURE, Reg.WL_ERR_UNIT, Reg.CH_MARK_COUNT, Reg.CH_MARK_INFLIGHT, Reg.CH_MARK_RETURNS, Reg.CH_MARK_AUDIT]
  | 0x02 => [Reg.CL_ARITH_INV_TILES, Reg.CL_ARITH_FIRST_TILE, Reg.AW_STATUS_LAST_FB_CODE, Reg.CL_TILE_MAP_PENDING]
  | 0x03 => [Reg.AP_HA_SPARE_ACTIVE, Reg.AP_HA_SPARE_COL_ACTIVE, Reg.AP_HA_FAULT, Reg.AP_HA_FAULT_COL,
      Reg.AP_HA_UNCOVERED, Reg.AP_HA_SPARE_PENDING, Reg.AP_HA_TEST_DONE, Reg.AP_HA_TEST_PASS]
  | 0x06 => [Reg.CH_STATE, Reg.CH_ERR_ADDR]
  | 0x08 => [Reg.VD_OUT_MARKS]
  | 0x07 => [Reg.KP_STATUS_LASER, Reg.KP_MARK_VC_CREDITS, Reg.KP_MARK_VC_BUFFERED]
  | 0x0C => [Reg.RD_LAST_FAIL_CODE, Reg.RD_LAST_FAIL_ENTRY]
  | 0x0E => [Reg.MEM_RETIRE_STATUS_STATE, Reg.MEM_RETIRE_STATUS_CH, Reg.MEM_LIMIT, Reg.KL_NOTICE_MODULE,
      Reg.KL_NOTICE_RELEASED]
  | 0x10 => [Reg.GEN_ABORT_CAUSE, Reg.GEN_ABORT_RANK, Reg.GEN_ABORT_STEP]
  | 0x11 => [Reg.RS_STATUS_NEWEST_SLOT, Reg.RS_STATUS_NEWEST_VALID, Reg.RS_STATUS_CODE, Reg.RS_ROUND_STEP,
      Reg.RS_DIGEST_CODE]
  | 0x12 => monitorFields
  | 0x13 => lockkeeperFields
  | _ => []

/-- The field of a page that has a copy at bit `b`. -/
def fieldAt (page b : Nat) : Option Field :=
  (pageFields page).find? fun f =>
    if f.stride = 0 then f.bit == b
    else decide (f.bit ≤ b) && (b - f.bit) % (f.stride * 8) == 0 && decide ((b - f.bit) / (f.stride * 8) < f.n)

/-- A reset of its domain keeps the field. -/
def resetKeeps (page b : Nat) : Bool :=
  match fieldAt page b with
  | none => true
  | some f =>
    match f.acc with
    | .rw => false
    | .w1s => false
    | .wo => false
    | .ro => decide (f.bit < 0x80 * 8) || (keptFields (typeOf page)).any fun g => g.bit == f.bit
    | _ => true

/-- The pages of the domain on which an RW field holds a value other than its reset value. -/
def changedPages (inD : Nat → Bool) (s : State) : List Nat :=
  ((s.regs.filter fun e => inD (e.1 / 32768) && (match fieldAt (e.1 / 32768) (e.1 % 32768) with
    | some f => f.acc == Acc.rw
    | none => false)).map fun e => e.1 / 32768).eraseDups

/-- Fields of the pages return to their reset values; a page on which that changes an RW field is marked. -/
def resetRegs (inD : Nat → Bool) (s : State) : State :=
  let changed := changedPages inD s
  let regs := s.regs.filter fun e => !inD (e.1 / 32768) || resetKeeps (e.1 / 32768) (e.1 % 32768)
  changed.foldl (fun s p => wr p Reg.PAGE_STATUS_DEFAULTED 1 s) { s with regs := regs }

/-- What the units of HD0 hold for the whole module; a record that is staged is discarded (R503). Which clusters were
reporting (R213) is forgotten with the rest of the monitor (log 56). -/
def clearHub0 (s : State) : State :=
  let s := discardStaged s
  { s with
    gen := { nextSeq := s.gen.nextSeq }, mon := {}, marker := {}, cist := {}, res := {}
    mem := { s.mem with wprot := [] }
    link := { s.link with marks := [] } }

/-- What the units of the domain hold beyond their registers is emptied. -/
def clearUnits (inD : Nat → Bool) (s : State) : State :=
  let g := s.gen
  let s := { s with
    tiles := s.tiles.filter fun e => !inD (pgTile e.1)
    pumps := s.pumps.filter fun e => !inD (pgPump e.1)
    pipes := s.pipes.filter fun e => !inD (pgAttention e.1)
    hpipes := s.hpipes.filter fun e => !inD (pgHandpump e.1)
    decoders := s.decoders.filter fun e => !inD (pgDecoder e.1)
    encoders := s.encoders.filter fun e => !inD (pgEncoder e.1)
    whq := s.whq.filter fun e => !inD (pgWellhead e.1)
    reds := s.reds.filter fun e => !inD (pgReduction e.1)
    gated := s.gated.filter fun e => !inD (pgCluster e.1)
    waking := s.waking.filter fun e => !inD (pgCluster e.1)
    host := { s.host with
      rings := s.host.rings.filter fun e => !inD (pgCp (e.1 / 32))
      served := s.host.served.filter fun e => !inD (pgCp e.1) }
    bus := { s.bus with
      arrived := s.bus.arrived.filter fun r => !inD r.who.page
      writeErr := s.bus.writeErr.filter fun e => !inD e.who.page }
    gen := { g with
      copies := g.copies.filter fun e => !inD (e.1 / 256)
      finished := g.finished.filter fun e => !inD e.1
      took := g.took.filter fun e => !inD e.1
      statq := g.statq.filter fun q => !inD q.page } }
  if inD pgGeneration then clearHub0 s else s

/-- Wells that the reset of a domain loses (R630, R775). -/
def loseWells (kind inst : Nat) (s : State) : State :=
  match kind with
  | 0 => clearWells 0 wellEnd s
  | 2 => clearWells (inst * 544 * wellBytes) ((inst + 1) * 544 * wellBytes) s
  | _ => s

/-- Registers, units and wells of a domain as a reset leaves them. -/
def clearDomain (kind inst : Nat) (s : State) : State :=
  let inD := fun p => (domainChain p).contains (kind, inst)
  loseWells kind inst (clearUnits inD (resetRegs inD s))

/-- A retrained channel, or one whose device did not retrain (R636, R775). A retired one stays so. -/
def retrain (failed : List Nat) (c : Nat) (s : State) : State :=
  let s := wr (pgChannel c) Reg.CH_SELF_REFRESH (natOf (rd s pgLockkeeper Reg.RC_PSTATE_STATE == 2)) s
  if rd s (pgChannel c) Reg.CH_STATE = 3 then s
  else wr (pgChannel c) Reg.CH_STATE (if failed.contains c then 2 else 0) s

/-- Applies one mapping of the life log (R169, R640, R675, R790). -/
def applyMap (e : Nat × Nat) (s : State) : State :=
  let (off, v) := e
  if 0x500 ≤ off ∧ off < 0x1600 then
    let p := pgTile (off - 0x500)
    let s := wr p Reg.HA_SPARE_REQ (v % 2) (wr p Reg.HA_SPARE_COL (v / 2) s)
    wr p Reg.HA_SPARE_PENDING 0
      (wr p Reg.HA_STATUS_SPARE_ACTIVE (v % 2) (wr p Reg.HA_STATUS_SPARE_COL_ACTIVE (v / 2) s))
  else if 0x1600 ≤ off ∧ off < 0x1700 then
    let k := off - 0x1600
    let p := pgCluster k
    let s := wr p Reg.CL_TILE_MAP_SUBST_ACTIVE (v % 2) (wr p Reg.CL_TILE_MAP_SUBST_LOGICAL (v / 2) s)
    wr p Reg.CL_TILE_MAP_PENDING 0 { s with subst := put 0 s.subst k (if v % 2 = 1 then v / 2 % 16 + 1 else 0) }
  else if 0x1700 ≤ off ∧ off < 0x1720 then
    let p := pgPort (off - 0x1700)
    wr p Reg.KP_LANE_MAP_TX (v % 16) (wr p Reg.KP_LANE_MAP_RX (v / 16 % 16) s)
  else if off = 0x1720 ∧ bitOf v 4 then
    let s := wr (pgHub 0) Reg.MEM_RETIRE_STATUS_STATE 2 (wr (pgHub 0) Reg.MEM_RETIRE_STATUS_CH (v % 16) s)
    wr (pgChannel (v % 16)) Reg.CH_STATE 3 (wr (pgHub 0) Reg.MEM_LIMIT 96000000000 s)
  else s

/-- Applies every mapping of the life log. -/
def applyMaps (s : State) : State := s.life.live.foldl (fun s e => applyMap e s) s

/-- The channels of the domain retrain and its ports stand LOCKED until it opens. -/
def retrainDomain (kind inst : Nat) (failed : List Nat) (s : State) : State :=
  let inD := fun p => (domainChain p).contains (kind, inst)
  let s := ((List.range 16).filter fun c => inD (pgChannel c)).foldl (fun s c => retrain failed c s) s
  ((List.range 32).filter fun n => inD (pgPort n)).foldl (fun s n => setPortState n 8 s) s

/-- The Lockkeeper starts again: the boot ROM selects an image; a mailbox command that it ran is lost, but for the one
that asked for the reset. -/
def restartLockkeeper (s : State) : State :=
  let s := if s.rc.mailbox = [] ∨ fld s.rc.mailbox 0 2 = 9 then s
    else wr pgLockkeeper Reg.LK_MB_STATUS_STATE 0 (modRc (fun r => { r with mailbox := [], mbDone := none, mbHead := [] }) s)
  bootSelect (wr pgLockkeeper Reg.RC_HEARTBEAT_PHASE 1 (trustReset s))

/-- The reset of a domain takes effect and is counted (R773, R820). -/
def resetDomain (x : DomReset) (failed : List Nat) (s : State) : State :=
  let s := retrainDomain x.kind x.inst failed (clearDomain x.kind x.inst s)
  let s := if x.kind = 0 then applyMaps s else if x.kind = 8 then restartLockkeeper s else s
  let s := (domainPages x.kind x.inst).foldl (fun s p => raiseBit p 2 (bump p Reg.PAGE_RESET_COUNT 1 s)) s
  let s := bump pgLockkeeper Reg.RC_RESETS 1 (lifeAdd (0xA0 + 4 * x.cause) 1 s)
  journal 0x01 0 ((domainPages x.kind x.inst).headD 0) (x.kind + x.inst * 16) s

/-! ### Entering a reset (R772, R774) -/

/-- The Lockkeeper can sequence resets: it runs an image. -/
def keeperUp (s : State) : Bool := decide (lockState s pgLockkeeper ≠ 3) && !isSet s pgLockkeeper Reg.TR_BOOT_RECOVERY

/-- A reset of the Lockkeeper interrupts the sequences that it runs: their domains stay LOCKED. -/
def suspendResets (s : State) : State :=
  let locks := s.rc.locks.map fun l =>
    if decide (l.kind ≤ 2) && l.state == 3 && s.rc.resets.any (fun x => x.kind == l.kind && x.inst == l.inst) then
      { l with state := 2 } else l
  modRc (fun r => { r with locks := locks }) s

/-- A locked domain enters RESETTING, after its dump. -/
def enterReset (x : DomReset) (s : State) : State :=
  let s := if x.dump then writeDump x s else s
  let s := modRc (fun r => { r with resets := r.resets.map fun y => if y = x then { y with dump := false } else y }) s
  let s := if x.kind = 8 then suspendResets s else s
  putLock { kind := x.kind, inst := x.inst, state := 3, own := false } s

/-- Every reset whose domain is LOCKED goes on. -/
def kickResets (s : State) : State :=
  s.rc.resets.foldl (fun s x =>
    if domainState s x.kind x.inst = 2 ∧ (2 < x.kind ∨ keeperUp s = true) then enterReset x s else s) s

/-- A reset begins: it locks an OPEN domain first. -/
def beginReset (x : DomReset) (s : State) : State :=
  let s := if domainState s x.kind x.inst = 0 then beginLock x.kind x.inst s else s
  kickResets (modRc (fun r => { r with resets := r.resets ++ [x] }) s)

/-! ### Power states (R791, R794, R912) -/

def pstate (s : State) : Nat := rd s pgLockkeeper Reg.RC_PSTATE_STATE
def setPstate (v : Nat) (s : State) : State := wr pgLockkeeper Reg.RC_PSTATE_STATE v s

/-- M2: the compute dies are off, GDDR7 is in self-refresh. -/
def enterM2 (s : State) : State :=
  let s := (List.range 8).foldl (fun s d =>
    putLock { kind := 2, inst := d, state := 3, own := false } (clearDomain 2 d s)) s
  setPstate 2 ((List.range 16).foldl (fun s c => wr (pgChannel c) Reg.CH_SELF_REFRESH 1 s) s)

/-- M3: only the always-on domain and the Lockkeeper are on. An orderly shutdown (R912). -/
def enterM3 (s : State) : State :=
  let s := clearDomain 0 0 (putLock { kind := 0, inst := 0, state := 3, own := false } s)
  let s := clearGddr 0 102400000000 s
  let s := { s with link := {}, bus := {}, chanq := [] }
  writeSummary (lifeAdd 0x24 1 (setPstate 3 (modRc (fun r => { r with dumps := [] }) s)))

/-- Leaving M2 or M3 resets what was off. -/
def leaveOff (s : State) : State :=
  let xs : List DomReset := if pstate s = 2 then (List.range 8).map fun d => { kind := 2, inst := d, cause := 2 }
    else [{ kind := 0, inst := 0, cause := 0 }]
  modRc (fun r => { r with resets := r.resets ++ xs }) s

/-- What was off in M2 or M3 is being reset on the way to M0. -/
def leaving (s : State) : Bool :=
  if pstate s = 2 then s.rc.resets.any fun x => x.kind == 2 else s.rc.resets.any fun x => x.kind == 0

/-- The module is back in M0: GDDR7 leaves self-refresh, ports send again. -/
def arriveM0 (s : State) : State :=
  let s := (List.range 16).foldl (fun s c => wr (pgChannel c) Reg.CH_SELF_REFRESH 0 s) (setPstate 0 s)
  (List.range 32).foldl (fun s n => sendWaiting n s) s

/-- What was off is reset and no longer held: M0 is reached. -/
def arrived (s : State) : Bool :=
  decide (2 ≤ pstate s) && !leaving s
    && (if pstate s = 2 then !(s.rc.locks.any fun l => l.kind == 2 && l.state == 3) else !ownState s 0 0 3)

/-- The power state follows `RC_PSTATE.TARGET`. -/
def settlePower (s : State) : State :=
  let s := if arrived s then arriveM0 s else s
  let target := rd s pgLockkeeper Reg.RC_PSTATE_TARGET
  if pstate s < 2 then (if target = 2 then enterM2 s else if target = 3 then enterM3 s else s)
  else if target = pstate s ∨ leaving s then s
  else if pstate s = 2 ∧ target = 3 then enterM3 s
  else leaveOff s

/-! ### The request queue (R767, R770, R771) -/

/-- `RC_STATUS.QUEUE` shows the requests that wait, at most 8; later writes are held. -/
def showQueue (s : State) : State := wr pgLockkeeper Reg.RC_STATUS_QUEUE (min 8 s.rc.queue.length) s

/-- Another tile of the cluster is locked in its own right. -/
def otherTileOwn (s : State) (t : Nat) : Bool :=
  s.rc.locks.any fun l => l.kind == 4 && l.own && l.inst != t && l.inst / 17 == t / 17

/-- The first code that refuses a request, 0 for none. -/
def requestFault (s : State) (r : RcReq) : Nat :=
  if 8 < r.kind ∨ r.action = 0 ∨ 3 < r.action ∨ domainCount r.kind ≤ r.inst then 0x0803
  else if r.kind = 4 ∧ otherTileOwn s r.inst = true
      ∧ (r.action = 1 ∨ (r.action = 2 ∧ domainState s 4 r.inst = 0)) then 0x0804
  else if r.action = 3 ∧ domainOwn s r.kind r.inst = false then 0x0805
  else if r.action = 2 ∧ r.kind ≤ 2 ∧ lockState s pgLockkeeper = 3 then 0x0806
  else 0

/-- A request waits while its domain is RESETTING, or LOCKING unless it asks for the lock. -/
def requestWaits (s : State) (r : RcReq) : Bool :=
  requestFault s r == 0 &&
    (domainState s r.kind r.inst == 3 || (domainState s r.kind r.inst == 1 && r.action != 1))

/-- A refused request. -/
def refuseRequest (c : Nat) (s : State) : State :=
  logErr pgLockkeeper c 0 (wr pgLockkeeper Reg.RC_STATUS_CODE c (wr pgLockkeeper Reg.RC_STATUS_STATE 3 s))

/-- A LOCK of a domain that is locked already sets `OWN`. -/
def ownLock (kind inst : Nat) (s : State) : State :=
  if domainOwn s kind inst then s else putLock { kind := kind, inst := inst, state := domainState s kind inst } s

/-- Ends the running request. -/
def endRequest (s : State) : State :=
  wr pgLockkeeper Reg.RC_STATUS_STATE 2 (modRc (fun r => { r with current := none }) s)

/-- Runs a request: a lock or a reset goes on after it. -/
def runRequest (r : RcReq) (s : State) : State :=
  match requestFault s r with
  | 0 =>
    let s := wr pgLockkeeper Reg.RC_STATUS_STATE 1 (modRc (fun x => { x with current := some r }) s)
    match r.action with
    | 1 => if domainState s r.kind r.inst = 0 then beginLock r.kind r.inst s else endRequest (ownLock r.kind r.inst s)
    | 2 => beginReset { kind := r.kind, inst := r.inst, dump := r.dump, hold := r.hold, cause := r.kind } s
    | _ => endRequest (openDomain r.kind r.inst s)
  | c => refuseRequest c s

/-- Runs requests in order until one has to go on. -/
def runQueue : Nat → State → State
  | 0, s => s
  | n + 1, s =>
    match s.rc.current, s.rc.queue with
    | none, r :: rest =>
      if requestWaits s r then s
      else runQueue n (runRequest r (modRc (fun x => { x with queue := rest }) s))
    | _, _ => s

/-- The running request has ended: its domain is LOCKED, or its reset is over. -/
def requestDone (s : State) (r : RcReq) : Bool :=
  if r.action = 1 then decide (2 ≤ domainState s r.kind r.inst)
  else !(s.rc.resets.any fun x => x.kind == r.kind && x.inst == r.inst)

/-- After a change of a domain's state: resets go on, the running request may end, the next ones run, the power state
follows; writes that waited for it go on. -/
def settleDomains (s : State) : State :=
  let s := kickResets s
  let s := match s.rc.current with
    | some r => if requestDone s r then endRequest s else s
    | none => s
  releaseHeld (showQueue (runQueue (s.rc.queue.length + 1) (settlePower s)))

/-- A write of `RC_REQ`. -/
def rcRequest (r : RcReq) (s : State) : State :=
  settleDomains (modRc (fun x => { x with queue := x.queue ++ [r] }) s)

/-- The word of `RC_REQ` (R796). -/
def rcWord (v : Nat) : RcReq where
  kind := bitsOf v 0 4
  inst := bitsOf v 4 13
  action := bitsOf v 17 3
  dump := bitOf v 20
  hold := bitOf v 21

def execDomainLock (kind inst : Nat) (s : State) : Host.Outcome State Fault Refusal :=
  whileOn s (rcRequest { kind := kind % 16, inst := inst % 2 ^ 13, action := 1 } s)
def execDomainReset (kind inst : Nat) (dump hold : Bool) (s : State) : Host.Outcome State Fault Refusal :=
  whileOn s (rcRequest { kind := kind % 16, inst := inst % 2 ^ 13, action := 2, dump := dump, hold := hold } s)
def execDomainRelease (kind inst : Nat) (s : State) : Host.Outcome State Fault Refusal :=
  whileOn s (rcRequest { kind := kind % 16, inst := inst % 2 ^ 13, action := 3 } s)

/-! ### Drained (R759, R761, R764) -/

/-- A locking domain has drained. -/
def lockDrained (kind inst : Nat) (s : State) : State :=
  if ownState s kind inst 1 && !domainHolds s kind inst then settleDomains (enterLocked kind inst s) else s

def execLockDrained (kind inst : Nat) (s : State) : Host.Outcome State Fault Refusal :=
  whileOn s (lockDrained kind inst s)

/-- The commands that wait at a Wellhead complete with ERR_LOCK_DRAINED. -/
def drainWellhead (n : Nat) (s : State) : State :=
  let s := (look [] s.whq n).foldl (fun s c => attempt (whWho n) (whRefuse n c 0x0802) s) s
  showWellhead n { s with whq := put [] s.whq n [] }

/-- The drain bound of a locking domain expires. -/
def drainExpiry (kind inst : Nat) (s : State) : State :=
  if ownState s kind inst 1 then
    let pages := domainPages kind inst
    let s := ((List.range 2).filter fun n => pages.contains (pgWellhead n)).foldl (fun s n => drainWellhead n s) s
    let s := (pages.filter fun p => lockState s p == 1).foldl (fun s p => wr p Reg.PAGE_LOCK_DRAIN_EXPIRED 1 s) s
    settleDomains (enterLocked kind inst (bump pgLockkeeper Reg.RC_DRAIN_EXPIRED 1 s))
  else s

def execDrainBoundExpiry (kind inst : Nat) (s : State) : Host.Outcome State Fault Refusal :=
  whileOn s (drainExpiry kind inst s)

/-! ### The end of a reset (R772, R773, R921) -/

/-- The end of a cold start-up: GDDR7 trained, mappings applied, every domain OPEN. -/
def coldOpen (failed : List Nat) (s : State) : State :=
  openDomain 0 0 (retrainDomain 0 0 failed (applyMaps s))

/-- A domain leaves RESETTING: it is LOCKED or OPEN. -/
def endReset (x : DomReset) (failed : List Nat) (s : State) : State :=
  let own := domainOwn s x.kind x.inst
  let s := modRc (fun r => { r with resets := r.resets.filter fun y => !(y.kind == x.kind && y.inst == x.inst) }) s
  if x.cause = 9 then coldOpen failed s
  else
    let s := resetDomain x failed s
    if x.hold ∧ own = true then putLock { kind := x.kind, inst := x.inst, state := 2 } s else openDomain x.kind x.inst s

/-- A domain has finished RESETTING; `failed` names channels whose devices did not retrain. -/
def resetComplete (kind inst : Nat) (failed : List Nat) (s : State) : State :=
  match s.rc.resets.find? fun x => x.kind == kind && x.inst == inst with
  | none => s
  | some x =>
    if ownState s kind inst 3 && (decide (2 < kind) || keeperUp s) then settleDomains (endReset x failed s) else s

def execResetComplete (kind inst : Nat) (failed : List Nat) (s : State) : Host.Outcome State Fault Refusal :=
  whileOn s (resetComplete kind inst failed s)

/-! ### Reset kinds (R776 to R778, R885) -/

/-- The endpoint's part of PERST# and of a function-level reset: its registers, the vector map, MSI-X, the configuration
space. -/
def resetEndpoint (s : State) : State :=
  { s with
    regs := s.regs.filter fun e => !(e.1 / 32768 == pgHost && decide (0x100 * 8 ≤ e.1 % 32768) && decide (e.1 % 32768 < 0x800 * 8))
    host := { s.host with vmap := [], msix := [], cfg := [] } }

/-- A reset of the module with this cause, unless one runs. -/
def resetModule (cause : Nat) (s : State) : State :=
  if ownState s 0 0 3 || s.rc.resets.any (fun x => x.kind == 0) then s
  else settleDomains (beginReset { kind := 0, inst := 0, cause := cause } s)

/-- PERST_N is asserted. -/
def perst (s : State) : State :=
  let s := resetEndpoint s
  resetModule 10 { s with host := { s.host with perst := true, settings := false } }

def execPerst (s : State) : Host.Outcome State Fault Refusal := whileOn s (perst s)

def execFlr (s : State) : Host.Outcome State Fault Refusal := whileOn s (resetModule 11 (resetEndpoint s))

/-- What cold power-up finds: flash, the board strap, and what is outside the module. -/
def coldState (s : State) : State :=
  { State.reset with
    tr := { imageA := s.tr.imageA, imageB := s.tr.imageB, config := s.tr.config }
    life := {
      live := (newestCopy s.life).elim [] LifeCopy.fields, copyA := s.life.copyA, copyB := s.life.copyB
      journal := s.life.journal, nextEntry := s.life.nextEntry }
    rc := { summaries := s.rc.summaries, nextSlot := s.rc.nextSlot, extended := s.rc.extended
            cap := if s.rc.extended then 4100 else 4600 }
    host := { perst := true, settings := false }
    outs := s.outs, drawn := s.drawn, pending := s.pending }

/-- The supply reaches 50 V: the cold start-up (R776, R818, R921). Without an image that runs, every domain but the
Lockkeeper stays RESETTING (R836). -/
def coldPowerUp (failed : List Nat) (s : State) : State :=
  let lost := (newestCopy s.life).isNone
  let s := coldState s
  let s := if s.rc.extended then
      wr pgLockkeeper Reg.PW_CAP_EXTENDED 1 (wr pgLockkeeper Reg.PW_CAP_LIMIT 4100 (wr pgLockkeeper Reg.PW_CAP_WATTS 4100 s))
    else s
  let s := if lost then journal 0x0C 0 pgLockkeeper 0 s else s
  let s := lifeAdd 0x20 1 (lifeAdd (0xA0 + 4 * 9) 1 s)
  let x : DomReset := { kind := 0, inst := 0, cause := 9 }
  let s := modRc (fun r => { r with locks := [{ kind := 0, inst := 0, state := 3, own := false }], resets := [x] }) s
  let s := bootSelect (deriveKey s)
  if keeperUp s then endReset x failed s else s

def execColdPowerUp (failed : List Nat) (s : State) : Host.Outcome State Fault Refusal := .next (coldPowerUp failed s)

/-! ### The Lockkeeper's heartbeat (R781, R782, R835) -/

/-- A heartbeat and the phase that firmware shows; in recovery it is that of the ROM. -/
def heartbeat (phase : Nat) (s : State) : State :=
  if lockState s pgLockkeeper ≠ 0 then s
  else
    let phase := if isSet s pgLockkeeper Reg.TR_BOOT_RECOVERY then 3 else phase % 3
    let n := rd s pgLockkeeper Reg.RC_HEARTBEAT_COUNT
    let s := wr pgLockkeeper Reg.RC_HEARTBEAT_PHASE phase (wr pgLockkeeper Reg.RC_HEARTBEAT_COUNT (n + 1) s)
    if phase = 0 then setStarts (rd s pgLockkeeper Reg.TR_BOOT_SLOT) 0 s else s

def execLkHeartbeat (phase : Nat) (s : State) : Host.Outcome State Fault Refusal := whileOn s (heartbeat phase s)

/-- The watchdog sees 100 ms without a heartbeat outside service. -/
def watchdog (s : State) : State :=
  if rd s pgLockkeeper Reg.RC_HEARTBEAT_PHASE = 0 ∨ lockState s pgLockkeeper ≠ 0 then s
  else
    let s := bump pgLockkeeper Reg.RC_LK_HANGS 1 (wr pgLockkeeper Reg.RC_WDOG_HANG 1 s)
    let s := raiseBit pgLockkeeper 4 (journal 0x0A 0 pgLockkeeper 0 s)
    if isSet s pgLockkeeper Reg.RC_WDOG_AUTO then settleDomains (beginReset { kind := 8, inst := 0, cause := 8 } s) else s

def execLkWatchdog (s : State) : Host.Outcome State Fault Refusal := whileOn s (watchdog s)

end Sys2Proof.Machine
end

