-- ==== Sys2Proof/Machine/Power.lean ====
section
/-! DEFINITION. Power states, clock gating, spare-tile substitution, the power cap and the thermal trip (Reset Domains,
Locks and Recovery; Power, Cooling, Package and Ordering). -/

namespace Sys2Proof.Machine

/-! ### `RC_PSTATE.TARGET` (R793, R915, R929) -/

/-- A unit of R793 is enabled. -/
def powerBusy (s : State) : Bool :=
  isSet s pgGeneration Reg.GEN_CTRL_ENABLE || isSet s pgCistern Reg.CI_CTRL_ENABLE || isSet s pgResilience Reg.RS_CTRL_ENABLE

/-- A write of the target power state; the reserved value leaves it as it is. -/
def pstateTarget (v : Nat) (s : State) : State :=
  if v = rd s pgLockkeeper Reg.RC_PSTATE_TARGET ∨ v = 1 ∨ 3 < v then s
  else if (2 ≤ v ∧ powerBusy s = true) ∨ (v = 0 ∧ s.rc.tripped = true) then logErr pgLockkeeper 0x0807 0 s
  else settleDomains (wr pgLockkeeper Reg.RC_PSTATE_TARGET v s)

def execPstateTarget (target : Nat) (s : State) : Host.Outcome State Fault Refusal := whileOn s (pstateTarget target s)

/-! ### Clock gating (R791, R792) -/

/-- `RC_PSTATE.STATE` shows M1 while every cluster is gated. -/
def showM1 (s : State) : State :=
  if 2 ≤ pstate s then s else setPstate (natOf ((List.range 256).all fun k => look false s.gated k)) s

/-- A cluster has no work. -/
def clusterIdle (s : State) (k : Nat) : Bool :=
  ((List.range 17).all fun i =>
    let t := 17 * k + i
    (getTile s t).live.isEmpty && schedState s t != 1 && !testing s (pgTile t) 0)
    && (getPipe s k).run.isNone && apState s k != 1 && !testing s (pgAttention k) 0 && !testing s (pgAttention k) 1
    && (getPump s k).slots.isEmpty && (getPump s k).queue.isEmpty

/-- A cluster has been without work for `IDLE_US`. -/
def clusterGate (k : Nat) (s : State) : State :=
  if decide (k < 256) && decide (pstate s < 2) && rd s pgLockkeeper Reg.RC_PSTATE_IDLE_US != 0 && clusterIdle s k then
    showM1 { s with gated := put false s.gated k true }
  else s

def execClusterGate (cluster : Nat) (s : State) : Host.Outcome State Fault Refusal := whileOn s (clusterGate cluster s)

/-- A waking cluster has its clocks again. -/
def clusterWake (k : Nat) (s : State) : State :=
  if look false s.waking k then
    let s := { s with gated := put false s.gated k false, waking := put false s.waking k false }
    releaseHeld (showM1 (wr pgLockkeeper Reg.RC_THROTTLE_WAKE (natOf !s.waking.isEmpty) s))
  else s

def execClusterWake (cluster : Nat) (s : State) : Host.Outcome State Fault Refusal := whileOn s (clusterWake cluster s)

/-! ### Spare tiles (R787, R788) -/

/-- The role that `CL_TILE_MAP` asks for, plus one; 0 = none. -/
def wantedRole (s : State) (k : Nat) : Nat :=
  if isSet s (pgCluster k) Reg.CL_TILE_MAP_SUBST_ACTIVE then rd s (pgCluster k) Reg.CL_TILE_MAP_SUBST_LOGICAL + 1 else 0

/-- A write of `CL_TILE_MAP`. -/
def tileMapWrite (k active logical : Nat) (s : State) : State :=
  let page := pgCluster k
  let a := active % 2
  let n := logical % 16
  if 256 ≤ k ∨ !writable s page then s
  else if a = rd s page Reg.CL_TILE_MAP_SUBST_ACTIVE ∧ n = rd s page Reg.CL_TILE_MAP_SUBST_LOGICAL then s
  else if a = 1 ∧ (lockState s (pgTile (17 * k + n)) ≠ 2 ∨ lockState s (pgTile (17 * k + 16)) ≠ 0) then logErr page 0x0808 0 s
  else
    let s := wr page Reg.CL_TILE_MAP_SUBST_ACTIVE a (wr page Reg.CL_TILE_MAP_SUBST_LOGICAL n s)
    wr page Reg.CL_TILE_MAP_PENDING (natOf (wantedRole s k != look 0 s.subst k)) s

def execClTileMapWrite (cluster active logical : Nat) (s : State) : Host.Outcome State Fault Refusal :=
  whileOn s (if 256 ≤ cluster then s
    else onAwake (pgCluster cluster) 0x1E0 (active % 2 + logical % 16 * 2) (tileMapWrite cluster active logical) s)

/-- The cluster stands at a step boundary: every tile that is not IDLE, HALTED or locked does. -/
def clusterBoundary (s : State) (k : Nat) : Bool :=
  (List.range 17).all fun i => lockState s (pgTile (17 * k + i)) != 0 || schedState s (17 * k + i) != 1

/-- A tile takes a role: its scheduler is IDLE with both banks empty. -/
def takeRole (t : Nat) (s : State) : State :=
  let s := setTile t { getTile s t with banks := [], loaded := false } s
  setSched t 0 (wr (pgTile t) Reg.HA_STATUS_BANK_VALID 0 s)

/-- A pending substitution takes effect; firmware records it. -/
def substitutionApply (k : Nat) (s : State) : State :=
  let page := pgCluster k
  if decide (k < 256) && isSet s page Reg.CL_TILE_MAP_PENDING && clusterBoundary s k then
    let old := look 0 s.subst k
    let new := wantedRole s k
    let s := wr page Reg.CL_TILE_MAP_PENDING 0 { s with subst := put 0 s.subst k new }
    let s := if new ≠ 0 then takeRole (17 * k + 16) s else if old ≠ 0 then takeRole (17 * k + (old - 1)) s else s
    let v := natOf (new != 0) + (if new = 0 then rd s page Reg.CL_TILE_MAP_SUBST_LOGICAL else new - 1) * 2
    let s := if new = 0 then s else lifeAdd (0x20C + 16 * dieOfCluster k) 1 s
    raiseBit page 5 (journal 0x03 0 page v (lifeSet (0x1600 + k) v s))
  else s

def execSubstitutionApply (cluster : Nat) (s : State) : Host.Outcome State Fault Refusal :=
  whileOn s (substitutionApply cluster s)

/-! ### Supply and power cap (R903 to R910) -/

/-- The supply leaves its range or is cut off: the module stops at once (R906, R907). -/
def powerFail (s : State) : State := { s with powered := false }

def execPowerFail (s : State) : Host.Outcome State Fault Refusal := whileOn s (powerFail s)
def execOvercurrentTrip (s : State) : Host.Outcome State Fault Refusal := whileOn s (powerFail s)

/-- A write of `PW_CAP.WATTS`, in force from the next interval. -/
def capWrite (watts : Nat) (s : State) : State :=
  wr pgLockkeeper Reg.PW_CAP_WATTS (max 500 (min watts (rd s pgLockkeeper Reg.PW_CAP_LIMIT))) s

def execPwCapWrite (watts : Nat) (s : State) : Host.Outcome State Fault Refusal :=
  whileOn s (capWrite (watts % 2 ^ 13) s)

/-- The share after one interval: toward what is called for, by at most 1/16. -/
def nextShare (old want : Nat) : Nat := if old + 4096 < want then old + 4096 else if want + 4096 < old then old - 4096 else want

/-- The mean of the readings of the latest ten intervals. -/
def meanOf (xs : List Nat) : Nat := xs.foldl (· + ·) 0 / max 1 xs.length

/-- The throttle temperature in °C, within its bounds (R923). -/
def throttleC (s : State) : Nat := max 70 (min 95 (rd s pgLockkeeper Reg.PW_THERMAL_THROTTLE_C))

/-- One interval of 1 ms ends: input power in W, voltage in 0.1 V, current in 0.1 A, and the shares that the cap, the
thermal limit and the supply limit each call for, in parts of 65 536 (log 59). A die at its throttle temperature calls for
some share (R914), and so does a low supply (R904). -/
def powerInterval (watts vin deci capCall heatCall supplyCall : Nat) (s : State) : State :=
  let heatCall := if throttleC s ≤ rd s pgLockkeeper Reg.PW_TEMP_DIE_C then max 1 heatCall else heatCall
  let want := min 65536 (max capCall (max heatCall supplyCall))
  let powers := ((watts, deci) :: s.rc.powers).take 10
  let s := if s.rc.share = 0 then s else bump pgLockkeeper Reg.PW_THROTTLE_MS 1 s
  let energy := s.rc.milli + watts
  let s := bump pgLockkeeper Reg.PW_ENERGY_J (energy / 1000) s
  let s := modRc (fun r => { r with
    powers := powers, milli := energy % 1000, share := nextShare r.share want
    cap := rd s pgLockkeeper Reg.PW_CAP_WATTS }) s
  let s := wr pgLockkeeper Reg.PW_STATUS_WATTS (meanOf (powers.map Prod.fst)) (wr pgLockkeeper Reg.PW_STATUS_VIN vin s)
  let s := wr pgLockkeeper Reg.PW_STATUS_OVER_V (natOf (decide (580 < vin) && decide (vin ≤ 600))) s
  let s := wr pgLockkeeper Reg.PW_CURRENT_DECI_A (meanOf (powers.map Prod.snd)) s
  let s := wr pgLockkeeper Reg.RC_THROTTLE_POWER (natOf (decide (0 < capCall))) s
  let s := wr pgLockkeeper Reg.RC_THROTTLE_THERMAL (natOf (decide (0 < heatCall))) s
  wr pgLockkeeper Reg.RC_THROTTLE_SUPPLY (natOf (decide (0 < supplyCall) || decide (vin < 500))) s

def execPowerInterval (watts vin deci capCall heatCall supplyCall : Nat) (s : State) : Host.Outcome State Fault Refusal :=
  whileOn s (if lockState s pgLockkeeper = 3 then s else powerInterval watts vin deci capCall heatCall supplyCall s)

/-! ### Temperature (R914, R915) -/

/-- The module trips: its lock, with what has not drained, then M3. -/
def thermalTrip (s : State) : State :=
  let s := if domainState s 0 0 = 0 then beginLock 0 0 s else s
  let s := if ownState s 0 0 1 then (if domainHolds s 0 0 then drainExpiry 0 0 s else lockDrained 0 0 s) else s
  let s := modRc (fun r => { r with tripped := true }) (bump pgLockkeeper Reg.PW_TRIPS 1 s)
  settleDomains (wr pgLockkeeper Reg.RC_PSTATE_TARGET 3 s)

/-- Each 1 ms: the hottest die, the inlet and the outlet in °C. -/
def thermalSample (die inlet outlet : Nat) (s : State) : State :=
  let s := wr pgLockkeeper Reg.PW_TEMP_DIE_C (min 255 die) s
  let s := wr pgLockkeeper Reg.PW_TEMP_INLET_C (min 255 inlet) (wr pgLockkeeper Reg.PW_TEMP_OUTLET_C (min 255 outlet) s)
  if 110 ≤ die then (if pstate s = 3 then s else thermalTrip s)
  else if die < 85 then modRc (fun r => { r with tripped := false }) s
  else s

def execThermalSample (die inlet outlet : Nat) (s : State) : Host.Outcome State Fault Refusal :=
  whileOn s (thermalSample die inlet outlet s)

end Sys2Proof.Machine
end

