-- ==== Sys2Proof/Machine/Mailbox.lean ====
section
/-! DEFINITION. The Lockkeeper mailbox and the sideband target (PCI Express Host Interface). -/

namespace Sys2Proof.Machine

/-- The mailbox's requests. -/
def lkWho : Who := ⟨pgLockkeeper, 0⟩

/-! ### The command words (R879) -/

def mcOp (c : List Byte) : Nat := fld c 0 2
def mcTag (c : List Byte) : Nat := fld c 2 2
def mcHost (c : List Byte) : Bool := bitOf (fld c 4 4) 0
def mcSign (c : List Byte) : Bool := bitOf (fld c 4 4) 1
def mcAddr (c : List Byte) : Nat := fld c 8 8
def mcLen (c : List Byte) : Nat := fld c 0x10 4
/-- Bits [64k + 63 : 64k] of `MC_ARG`. -/
def mcArg (c : List Byte) (k : Nat) : Nat := fld c (0x14 + 8 * k) 8

/-- The command that stands in `LK_MB_CMD`. -/
def mbCommand (s : State) : List Byte :=
  (List.range 16).flatMap fun i => leBytes 4 (rdAt s pgLockkeeper Reg.LK_MB_CMD i)

/-- The 64 bytes of a response. -/
def mbResponse (tag code len : Nat) (data : List Byte) : List Byte :=
  leBytes 2 code ++ leBytes 2 tag ++ leBytes 4 len ++ padTo 56 data

/-! ### `GO` (R881, R882) -/

/-- A refusal. -/
def mbRefuse (c : Nat) (s : State) : State :=
  wr pgLockkeeper Reg.LK_MB_STATUS_CODE c (wr pgLockkeeper Reg.LK_MB_STATUS_STATE 3 s)

/-- The opcode exists, and is one of those that recovery permits when it runs (R836). -/
def mbAllowed (s : State) (op : Nat) : Bool :=
  if isSet s pgLockkeeper Reg.TR_BOOT_RECOVERY then [1, 6, 7, 9].contains op else decide (1 ≤ op) && decide (op ≤ 9)

/-- A write of `LK_MB_CTRL.GO`. -/
def mailboxGo (s : State) : State :=
  let c := mbCommand s
  if s.rc.mailbox ≠ [] then wr pgLockkeeper Reg.LK_MB_STATUS_CODE 0x0425 (logErr pgLockkeeper 0x0425 0 s)
  else if lockState s pgLockkeeper ≠ 0 then mbRefuse 0x0801 (logErr pgLockkeeper 0x0801 0 s)
  else if !mbAllowed s (mcOp c) then mbRefuse 0x0424 (logErr pgLockkeeper 0x0424 0 s)
  else
    modRc (fun r => { r with mailbox := c, mbDone := none, mbHead := [] })
      (wr pgLockkeeper Reg.LK_MB_CTRL_GO 1 (wr pgLockkeeper Reg.LK_MB_STATUS_STATE 1 s))

/-- The command ends with its response; codes that refuse it show in `LK_MB_STATUS`. -/
def mbEnd (code len : Nat) (data : List Byte) (s : State) : State :=
  let r := mbResponse (mcTag s.rc.mailbox) code len data
  let s := (List.range 16).foldl (fun s i => wrAt pgLockkeeper Reg.LK_MB_RESP i (fld r (4 * i) 4) s) s
  let s := modRc (fun r => { r with mailbox := [], mbDone := none, mbHead := [] }) (wr pgLockkeeper Reg.LK_MB_CTRL_GO 0 s)
  if [0x0424, 0x0701, 0x0705, 0x0710, 0x0801].contains code then mbRefuse code s
  else wr pgLockkeeper Reg.LK_MB_STATUS_STATE 2 s

/-- The command that runs has this opcode, and firmware is there to serve it. -/
def mbRuns (s : State) (op : Nat) : Bool :=
  s.rc.mailbox != [] && mcOp s.rc.mailbox == op && s.rc.mbDone.isNone && lockState s pgLockkeeper == 0

/-! ### Status commands -/

def statusWords (s : State) : List Byte :=
  [0x184, 0x114, 0x110, 0x108].flatMap fun off => leBytes 4 (pageRead s pgLockkeeper off 4)

/-- Hottest die in °C, input in tenths of a volt, current in tenths of an ampere, watts. -/
def sensorWords (s : State) : List Byte :=
  [Reg.PW_TEMP_DIE_C, Reg.PW_STATUS_VIN, Reg.PW_CURRENT_DECI_A, Reg.PW_STATUS_WATTS].flatMap fun f =>
    leBytes 4 (rd s pgLockkeeper f)

def getStatus (s : State) : State := if mbRuns s 1 then mbEnd 0 0 (statusWords s) s else s
def readSensors (s : State) : State := if mbRuns s 2 then mbEnd 0 0 (sensorWords s) s else s

def execGetStatus (s : State) : Host.Outcome State Fault Refusal := whileOn s (getStatus s)
def execReadSensors (s : State) : Host.Outcome State Fault Refusal := whileOn s (readSensors s)

/-! ### Long commands -/

/-- The work of a long command; its result waits for MAILBOX_LONG_DONE. -/
def mbWork (op : Nat) (m : List Byte → M Nat) (s : State) : State :=
  if mbRuns s op then
    attempt lkWho (do
      match ← catchCode (m s.rc.mailbox) with
      | .ok n => modify (modRc fun r => { r with mbDone := some (0, n) })
      | .error c => modify (modRc fun r => { r with mbDone := some (c, 0) })) s
  else s

/-- Writes what a command returns to its buffer. -/
def mbReturn (c d : List Byte) : M Nat := do
  refuseIf (decide (mcLen c < d.length)) 0x0424
  if mcHost c then hostWrite (mcAddr c) (clean d) false else busWrite lkWho (mcAddr c) (clean d)
  return d.length

def hostPieces : List (Nat × Nat) → M (List PByte)
  | [] => return []
  | (a, n) :: ps => do
    let d ← hostRead lkWho a n
    let ds ← hostPieces ps
    return d ++ ds

/-- Reads the buffer of a command that brings data. -/
def mbBring (c : List Byte) (least most : Nat) : M (List Byte) := do
  let n := mcLen c
  refuseIf (decide (n < least) || decide (most < n)) 0x0424
  let d ← if mcHost c then hostPieces (splitPages (mcAddr c) n) else busRead lkWho (mcAddr c) n
  refuseIf (d.any Prod.snd) 0x0240
  return d.map Prod.fst

/-- A statement over covered bytes with its signature. -/
def mbSign (purpose step arg nonce : Nat) (covered : List Byte) : M (List Byte) := do
  let s ← get
  match signedStatement (statement s purpose step arg nonce covered) s with
  | (some b, s) => do
    set s
    return b
  | (none, _) => failWith 0x0710

/-- The newest summary and the journal from an entry on. -/
def lifeExtract (s : State) (first : Nat) : List Byte :=
  ((newestCopy s.life).getD { fields := summaryFields s }).bytes
    ++ (s.life.journal.filter fun e => decide (first ≤ e.seq)).flatMap JournalEntry.bytes

def readLifeLog (c : List Byte) : M Nat := do
  let d ← gets fun s => lifeExtract s (mcArg c 0)
  if mcSign c then
    refuseIf (decide (mcLen c < d.length + 192)) 0x0424
    let g ← mbSign 2 0 (mcArg c 0) (mcArg c 1) d
    mbReturn c (d ++ g)
  else mbReturn c d

def readDumpSummary (c : List Byte) : M Nat := do
  let d ← gets fun s => look [] s.rc.summaries (mcArg c 0 % 16)
  refuseIf d.isEmpty 0x0424
  mbReturn c d

def readDump (c : List Byte) : M Nat := do
  match ← gets fun s => s.rc.dumps.find? fun x => x.seq == mcArg c 0 % 2 ^ 32 with
  | none => failWith 0x0424
  | some x => mbReturn c x.bytes

/-- Stores bytes as the image of a slot. -/
def setImage (slot : Nat) (b : List Byte) (s : State) : State :=
  modTrust (fun t => if slot = 0 then { t with imageA := b } else { t with imageB := b }) s

/-- The slot that is not running. -/
def idleSlot (s : State) : Nat := 1 - rd s pgLockkeeper Reg.TR_BOOT_SLOT

/-- The header of the idle slot is erased and the body written; the header follows at the end (R837). -/
def writeImage (c : List Byte) : M Nat := do
  let b ← mbBring c 4096 (24 * 2 ^ 20)
  modify fun s => modRc (fun r => { r with mbHead := b.take 4096 })
    (setImage (idleSlot s) (List.replicate 4096 0xFF ++ b.drop 4096) s)
  return 0

/-- A newer valid block is written to flash (R832). -/
def writeConfig (c : List Byte) : M Nat := do
  let b ← mbBring c 320 (2 ^ 20)
  let s ← get
  refuseIf (!configValid b || (configValid s.tr.active && decide (cfgNat b 8 4 ≤ cfgNat s.tr.active 8 4))) 0x0701
  set (modTrust (fun t => { t with config := b }) s)
  return 0

/-- The digest of a page, and whether it holds poison. -/
def shaPages : List (Nat × Nat) → M (List Byte × Bool)
  | [] => return ([], false)
  | (a, n) :: ps => do
    let d ← busRead digestWho a n
    let (ds, p) ← shaPages ps
    let bad := d.any Prod.snd
    return ((if bad then List.replicate 32 0xFF else sha256 (d.map Prod.fst)) ++ ds, p || bad)

/-- A range of `n` bytes lies in the holding region (R726). -/
def heldHere (s : State) (a n : Nat) : Bool :=
  let base := localOf (rd s pgResilience Reg.RS_HOLD_BASE)
  isLocal s a && decide (base ≤ localOf a) && decide (localOf a + n ≤ base + rd s pgResilience Reg.RS_HOLD_BYTES)

/-- A round statement (R843). The slot is as long as this module's `RS_IMAGE_BYTES`; its entry images are what follows
the first 4 096 bytes. -/
def signRound (c : List Byte) : M Nat := do
  let s ← get
  let (slot, dst, n) := (mcArg c 0, mcArg c 1, rd s pgResilience Reg.RS_IMAGE_BYTES)
  refuseIf (!heldHere s slot n || isSet s pgResilience Reg.RS_DIGEST_GO || decide (n < 256)) 0x0705
  let r ← busRead lkWho slot 256
  refuseIf (r.any Prod.snd) 0x0240
  let rec256 := r.map Prod.fst
  refuseIf (!bitOf (fld rec256 0xC 4) 0) 0x0705
  refuseIf (decide (mcLen c < 192)) 0x0424
  refuseIf (slot % 64 != 0 || decide (n ≤ 4096) || n % 64 != 0 || dst % 8 != 0) 0x0656
  refuseIf (keyLocked s) 0x0710
  let (ds, poison) ← shaPages (digestRanges (slot + 4096) (n - 4096))
  if poison then modify (wr pgResilience Reg.RS_DIGEST_POISON 1)
  busWrite digestWho dst (clean ds)
  let g ← mbSign 1 (fld rec256 4 4) (fld rec256 8 4 + fld rec256 2 2 * 2 ^ 32) (mcArg c 2) (rec256 ++ ds)
  mbReturn c g

def execReadLifeLog (s : State) : Host.Outcome State Fault Refusal := whileOn s (mbWork 3 readLifeLog s)
def execReadDumpSummary (s : State) : Host.Outcome State Fault Refusal := whileOn s (mbWork 4 readDumpSummary s)
def execReadDump (s : State) : Host.Outcome State Fault Refusal := whileOn s (mbWork 5 readDump s)
def execWriteImage (s : State) : Host.Outcome State Fault Refusal := whileOn s (mbWork 6 writeImage s)
def execWriteConfig (s : State) : Host.Outcome State Fault Refusal := whileOn s (mbWork 7 writeConfig s)
def execSignRound (s : State) : Host.Outcome State Fault Refusal := whileOn s (mbWork 8 signRound s)

/-- The mailbox resets the Lockkeeper domain. -/
def resetLockkeeper (s : State) : State :=
  if mbRuns s 9 then
    settleDomains (beginReset { kind := 8, inst := 0, cause := 8 } (modRc (fun r => { r with mbDone := some (0, 0) }) s))
  else s

def execResetLockkeeper (s : State) : Host.Outcome State Fault Refusal := whileOn s (resetLockkeeper s)

/-- The new image gets its header and is verified; marks of the image it replaces go. -/
def finishImage (code : Nat) (s : State) : Nat × State :=
  if code ≠ 0 ∨ s.rc.mbHead = [] then (code, s)
  else
    let k := idleSlot s
    let s := setImage k (s.rc.mbHead ++ (imageOf s k).drop 4096) s
    let s := modTrust (fun t => if k = 0 then { t with failedA := false } else { t with failedB := false }) (setStarts k 0 s)
    let c := if imageHeader (imageOf s k) then imageFault s.tr.active (imageOf s k) else 0x0702
    (c, if c = 0 then s else trustRefuse c (bump pgLockkeeper Reg.TR_IMAGE_FAILS 1 s))

/-- The code by which a command fails enters the log (R891); a trust refusal is captured in `TR_STATUS` too (R849). Those
of an image have been noted by `finishImage`. -/
def noteTrust (code : Nat) (s : State) : State :=
  if [0x0701, 0x0705, 0x0710].contains code then trustRefuse code s
  else if code = 0 ∨ code = 0x0702 ∨ code = 0x0703 then s
  else logErr pgLockkeeper code 0 s

/-- A long command ends, once its writes are acknowledged. -/
def longDone : M Unit := do
  let s ← get
  match s.rc.mbDone with
  | none => throw .hold
  | some (code, n) =>
    waitFor (lockState s pgLockkeeper == 0 && !(s.rc.resets.any fun x => x.kind == 8))
    let c ← codeOf (acknowledged digestWho)
    let c' ← codeOf (acknowledged lkWho)
    let code := if code ≠ 0 then code else if c ≠ 0 then c else c'
    modify fun s =>
      let (code, s) := finishImage code s
      raiseBit pgLockkeeper 9 (mbEnd code (if code = 0 then n else 0) [] (noteTrust code s))

def execMailboxLongDone (s : State) : Host.Outcome State Fault Refusal := whileOn s (attempt lkWho longDone s)

/-! ### Sideband (R883, R884) -/

/-- The answer to a type 0x7E message: GET_STATUS and READ_SENSORS; nothing else is accepted there. -/
def sidebandAnswer (s : State) (op tag : Nat) : List Byte :=
  match op with
  | 1 => mbResponse tag 0 0 (statusWords s)
  | 2 => mbResponse tag 0 0 (sensorWords s)
  | _ => mbResponse tag 0x0424 0 []

def execSmbusRequest (op tag : Nat) (s : State) : Host.Outcome State Fault Refusal :=
  whileOn s { s with outs := s.outs ++ [.sideband (sidebandAnswer s op tag)] }

end Sys2Proof.Machine
end

