-- ==== Sys2Proof/Machine/Registers.lean ====
section
/-! DEFINITION. What a write to a register page does (Notation and Conventions; Register Pages). -/

namespace Sys2Proof.Machine

/-! ### Registers that take one multi-word write (R430, R527, R549, R601, R631) -/

/-- Where such a register of a page lies: offset and bytes. -/
def widePort (page : Nat) : Option (Nat × Nat) :=
  match typeOf page with
  | 0x04 => if 256 ≤ instanceOf page then some (0x600, 16) else none
  | 0x08 => some (0x600, 32)
  | 0x09 => some (0x600, 64)
  | 0x0B => some (0x600, 32)
  | 0x0E => if page = pgHub 0 then some (0x220, 16) else none
  | _ => none

/-- A write of `n` bytes at `off` touches the register that lies at `at_` with `m` bytes. -/
def touches (off n at_ m : Nat) : Bool := decide (off < at_ + m) && decide (at_ < off + n)

/-- The queue behind the port is full: a well-formed write to it is held (R431, R527, R549, R601). -/
def portFull (s : State) (page : Nat) : Bool :=
  let i := instanceOf page
  match typeOf page with
  | 0x04 => decide (16 ≤ (getPump s i).queue.length)
  | 0x08 => isSet s page Reg.VD_CTRL_ENABLE && decide (16 ≤ (getDec s i).queue.length)
  | 0x09 => isSet s page Reg.VE_CTRL_ENABLE && decide (4 ≤ (getEnc s i).queue.length)
  | 0x0B => isSet s page Reg.WH_CTRL_ENABLE && decide (64 ≤ (look [] s.whq i).length)
  | _ => false

/-- Hands a write to the port's unit. -/
def portWrite (page off : Nat) (d : List Byte) (s : State) : State :=
  let i := instanceOf page
  let o := natOf (off != 0x600)
  match typeOf page with
  | 0x04 => pmSubmit (i - 256) o d s
  | 0x08 => vdSubmit i o d s
  | 0x09 => veSubmit i o d s
  | 0x0B => whPortWrite i o d s
  | _ => memDiscard off d s

/-! ### Fields whose write acts (R929) -/

/-- The value that a write leaves in copy 0 of another field of the same write. -/
def newOf (s : State) (page : Nat) (ws : List FieldWrite) (f : Field) : Nat :=
  match ws.find? fun w => w.f.bit == f.bit with
  | some w => w.new
  | none => rd s page f

/-- The action of a write on one field, where a rule gives it one; `off` and `d` are the whole write. -/
def tileAction (page : Nat) (w : FieldWrite) : Option (State → State) :=
  let b := w.f.bit
  let i := instanceOf page
  if b = Reg.HA_SPARE_REQ.bit then some fun s => haSpareWrite page 0 w.new (spareCol s page 0) s
  else if b = Reg.HA_SPARE_COL.bit then some fun s => haSpareWrite page 0 (spareReq s page 0) w.new s
  else if b = Reg.HA_TEST_START.bit then some fun s => if w.ones = 1 then haTestStart page 0 s else s
  else if b = Reg.SCHED_CTRL_START.bit then some fun s => if w.ones = 1 then schedStart i s else s
  else if b = Reg.SCHED_CTRL_STOP.bit then some fun s => if w.ones = 1 then schedStop i s else s
  else none

def pipeAction (page : Nat) (w : FieldWrite) : Option (State → State) :=
  let b := w.f.bit
  let i := instanceOf page
  if b = Reg.AP_HA_SPARE_REQ.bit then some fun s => haSpareWrite page w.i w.new (spareCol s page w.i) s
  else if b = Reg.AP_HA_SPARE_COL.bit then some fun s => haSpareWrite page w.i (spareReq s page w.i) w.new s
  else if b = Reg.AP_HA_TEST_START.bit then some fun s => if w.ones = 1 then haTestStart page w.i s else s
  else if b = Reg.AP_CTRL_START.bit then some fun s => if w.ones = 1 then apStart i s else s
  else if b = Reg.AP_CTRL_STOP.bit then some fun s => if w.ones = 1 then apStop i s else s
  else none

def clusterAction (page : Nat) (ws : List FieldWrite) (w : FieldWrite) : Option (State → State) :=
  if w.f.bit = Reg.CL_TILE_MAP_SUBST_ACTIVE.bit then
    some fun s => tileMapWrite (instanceOf page) w.new (newOf s page ws Reg.CL_TILE_MAP_SUBST_LOGICAL) s
  else if w.f.bit = Reg.CL_TILE_MAP_SUBST_LOGICAL.bit then some fun s => s
  else none

def portAction (page : Nat) (w : FieldWrite) : Option (State → State) :=
  let b := w.f.bit
  let n := instanceOf page
  if b = Reg.KP_CTRL_ENABLE.bit then some (portEnable n (w.new != 0))
  else if b = Reg.KP_CTRL_RETRAIN.bit then some fun s => if w.ones = 1 then portRetrain n s else s
  else if b = Reg.KP_VC_CREDIT.bit then some fun s =>
    let t := plainWrite page w s
    if w.new ≠ w.old ∧ portState t n = 5 ∧ (getPort t n).grantSent = false then tryUp n (sendGrant n t) else t
  else none

/-- A new module number: ports that wait for it reach UP, and an owed release notice goes out (R45, R670, R682). -/
def moduleNumber (w : FieldWrite) (s : State) : State :=
  let t := plainWrite (pgHub 0) w s
  if ownModule t = ownModule s then t else sendOwed ((List.range 32).foldl (fun s n => tryUp n s) t)

def hubAction (w : FieldWrite) : Option (State → State) :=
  let b := w.f.bit
  if b = Reg.MEM_RETIRE_GO.bit then some fun s => if w.ones = 1 then memRetire (rd s (pgHub 0) Reg.MEM_RETIRE_CH) s else s
  else if b = Reg.KL_MODULE.bit then some (moduleNumber w)
  else if b = Reg.KL_RT_DATA.bit then some (klRtData w.new)
  else none

def cisternAction (off : Nat) (d : List Byte) (w : FieldWrite) : Option (State → State) :=
  let b := w.f.bit
  if b = Reg.CI_RETURN.bit then some (ciReturn (off - 0x160) d)
  else if b = Reg.CI_RESTORE.bit then some fun s => if d.length = 8 then ciRestoreWrite (leNat d) s else s
  else if b = Reg.CI_LOW_WATER.bit then some fun s => showCiLow (plainWrite pgCistern w s)
  else if b = Reg.SS_TAIL.bit then some fun s => if w.new = w.old then s else ssTail w.i w.new s
  else none

def generationAction (w : FieldWrite) : Option (State → State) :=
  let b := w.f.bit
  if b = Reg.GEN_CTRL_ENABLE.bit then some fun s => if w.new = w.old then s else enableGen (w.new != 0) s
  else if b = Reg.MB_BIND.bit then some (mbBind (bitsOf w.new 0 8) (bitsOf w.new 8 1) (bitsOf w.new 16 8))
  else if b = Reg.MB_ENTRY_DONE.bit then some fun s => retire w.i (plainWrite pgGeneration w s)
  else none

def resilienceAction (w : FieldWrite) : Option (State → State) :=
  let b := w.f.bit
  if b = Reg.RS_CTRL_ENABLE.bit then some (rsEnable (w.new != 0))
  else if b = Reg.RS_CTRL_RESTORE.bit then some fun s => if w.ones = 1 then rsRestore s else s
  else if b = Reg.RS_DIGEST_GO.bit then some fun s => if w.ones = 1 then rsDigest s else s
  else if b = Reg.RS_RESOLVE.bit then some (rsResolve w.new)
  else none

def monitorAction (off : Nat) (d : List Byte) (w : FieldWrite) : Option (State → State) :=
  let b := w.f.bit
  if b = Reg.RNG_PROBE_CTR.bit ∧ w.i = 3 then some (rngProbe w.new)
  else if b = Reg.RNG_RESTORE.bit then some fun s => if d.length = 8 then attempt monWho (rngStage (leNat d)) s else s
  else if b = Reg.LM_LOSS_IN.bit then some (lmLossIn (off - 0x178) d)
  else if b = Reg.MON_MARKER_GO.bit then some fun s => if w.ones = 1 then markerGo s else s
  else none

def lockkeeperAction (w : FieldWrite) : Option (State → State) :=
  let b := w.f.bit
  if b = Reg.RC_REQ.bit then some (rcRequest (rcWord w.new))
  else if b = Reg.RC_PSTATE_TARGET.bit then some (pstateTarget w.new)
  else if b = Reg.PW_CAP_WATTS.bit then some fun s => if w.new = w.old then s else capWrite w.new s
  else if b = Reg.PW_THERMAL_THROTTLE_C.bit then
    some (wr pgLockkeeper Reg.PW_THERMAL_THROTTLE_C (max 70 (min 95 w.new)))
  else if b = Reg.LK_MB_CTRL_GO.bit then some fun s => if w.ones = 1 then mailboxGo s else s
  else none

/-- A write of `HI_VMAP_DATA` stores the entry and advances the index (R876, R885). -/
def vmapData (v : Nat) (s : State) : State :=
  let i := rd s pgHost Reg.HI_VMAP_INDEX
  let e := bitsOf v 0 11 + bitsOf v 15 1 * 2 ^ 15
  wr pgHost Reg.HI_VMAP_INDEX (i + 1) { s with host := { s.host with vmap := put 0 s.host.vmap i e } }

def execHiVmapData (entry : Nat) (s : State) : Host.Outcome State Fault Refusal := whileOn s (vmapData entry s)

/-- A write of 1 to `PAGE_CTRL.INT_TEST` (R888). -/
def intTest (page : Nat) (s : State) : State := if page < pageCount then raiseBit page 31 s else s

def execIntTest (page : Nat) (s : State) : Host.Outcome State Fault Refusal := whileOn s (intTest page s)

/-- The action of a write on one field of any page. -/
def regAction (page off : Nat) (d : List Byte) (ws : List FieldWrite) (w : FieldWrite) : Option (State → State) :=
  let b := w.f.bit
  let i := instanceOf page
  if b = Reg.PAGE_CTRL_INT_TEST.bit then some fun s => if w.ones = 1 then intTest page s else s
  else match typeOf page with
  | 0x01 => tileAction page w
  | 0x02 => clusterAction page ws w
  | 0x03 => pipeAction page w
  | 0x05 =>
    if b = Reg.HP_CTRL_START.bit then some fun s => if w.ones = 1 then hpStart i s else s
    else if b = Reg.HP_CTRL_STOP.bit then some fun s => if w.ones = 1 then hpStop i s else s
    else none
  | 0x06 =>
    if b = Reg.CH_CE_ALARM_BIT.bit ∧ w.ones = 1 then some fun s =>
      plainWrite page w { s with mem := { s.mem with ceSince := put 0 s.mem.ceSince i 0 } }
    else none
  | 0x07 => portAction page w
  | 0x08 => if b = Reg.VD_RELEASE.bit then some (vdRelease i w.new) else none
  | 0x0B =>
    if b = Reg.WH_FREE.bit ∨ b = Reg.WH_LOW_WATER.bit then some fun s => showLow i (plainWrite page w s) else none
  | 0x0C => if b = Reg.RD_CTRL_ENABLE.bit then some (rdEnable i (w.new != 0)) else none
  | 0x0D =>
    if b = Reg.WR_CFG_ENABLE.bit then some (ringEnable (i * 32 + w.i) (w.new != 0))
    else if b = Reg.WR_TAIL.bit then some fun s => if w.new = w.old then s else doorbell (i * 32 + w.i) w.new s
    else none
  | 0x0E => hubAction w
  | 0x0F => cisternAction off d w
  | 0x10 => generationAction w
  | 0x11 => resilienceAction w
  | 0x12 => monitorAction off d w
  | 0x13 => lockkeeperAction w
  | 0x14 => if b = Reg.HI_VMAP_DATA.bit then some (vmapData w.new) else none
  | _ => none

/-- A write of at most 8 bytes within one aligned 8-byte unit of a page (R10, R56, R899): the fields without an action
first, then the actions in field order. -/
def regStore (page off : Nat) (d : List Byte) (s : State) : State :=
  if 0x800 ≤ off then s
  else
    let ws := fieldWrites s page off d.length (leNat d)
    let s := ws.foldl (fun s w => if (regAction page off d ws w).isSome then s else plainWrite page w s) s
    ws.foldl (fun s w => match regAction page off d ws w with
      | some f => f s
      | none => s) s

/-- Pieces of a write, each within one aligned 8-byte unit. -/
def regPieces (page : Nat) : Nat → Nat → List Byte → State → State
  | 0, _, _, s => s
  | _ + 1, _, [], s => s
  | fuel + 1, off, d, s =>
    let k := 8 - off % 8
    regPieces page fuel (off + k) (d.drop k) (regStore page off (d.take k) s)

/-- A write of bytes to one page: refused, held, or done. -/
def pageWrite (page off : Nat) (d : List Byte) : M Unit := do
  let s ← get
  match pageAnswers s page off, pageAnswers s page (off + d.length - 1) with
  | .ok, .ok =>
    match widePort page with
    | some (a, n) =>
      if touches off d.length a n then
        refuseIf (typeOf page != 0x0E && lockState s page != 0) 0x0801
        waitFor !(off == a && d.length == n && portFull s page)
        modify (portWrite page off d)
      else modify (regPieces page (d.length + 1) off d)
    | none => modify (regPieces page (d.length + 1) off d)
  | .code c, _ => failWith c
  | _, .code c => failWith c
  | _, _ => throw .hold

/-- A write of bytes at BAR0 offset `x`; the directory ignores it (R52, R895). -/
def regWrite : Nat → Nat → List Byte → M Unit
  | 0, _, _ => return ()
  | _ + 1, _, [] => return ()
  | fuel + 1, x, d => do
    if x < 0x10000 then regWrite fuel 0x10000 (d.drop (0x10000 - x))
    else do
      let off := x % 0x1000
      let k := min d.length (0x1000 - off)
      pageWrite ((x - 0x10000) / 0x1000) off (d.take k)
      regWrite fuel (x + k) (d.drop k)

/-- A write of bytes to the register range by a master: a gated cluster wakes first (R792). -/
def regAccess (x : Nat) (d : List Byte) : M Unit := do
  match gatedCluster (← get) (regBase + x) with
  | some k => throw (.wake k)
  | none => regWrite (d.length + 1) x d

/-! ### Writes and adds of the module's own units, and of peers (R52, R57, R230) -/

/-- The register write number `i` of those under way reaches its page; not before an earlier request of its master to the
same 64-byte unit (R57). -/
def registerWrite (i : Nat) (s : State) : State :=
  match s.bus.regq[i]? with
  | none => s
  | some x =>
    if behind s x.who.page x.ord (regBase + x.off) x.data.length then s
    else
      let gone := fun s : State => { s with bus := { s.bus with regq := s.bus.regq.eraseIdx i } }
      match runM (regAccess x.off x.data) s with
      | (.ok _, t) => releaseHeld (noteAnswer x.stale x.who x.ord 0 (gone t))
      | (.error (.code c), t) => releaseHeld (noteAnswer x.stale x.who x.ord c (gone t))
      | (.error (.wake k), _) => startWake k s
      | (.error _, _) => s

def execRegisterWrite (inFlight : Nat) (s : State) : Host.Outcome State Fault Refusal :=
  whileOn s (settleRuns (registerWrite inFlight s))

/-- Adds to the word at a local address: a register field through a write, memory at once (R230, R300). -/
def wordAdd (a v : Nat) : M Unit := do
  let s ← get
  match regionOf s a with
  | .unmapped => failWith 0x0201
  | .reg x => do
    match gatedCluster s a with
    | some k => throw (.wake k)
    | none =>
      match regReadBytes s 5 x 4 with
      | .error c => failWith c
      | .ok bs => regWrite 5 x (leBytes 4 (leNat bs + v))
  | _ => do
    match gatedCluster s a with
    | some k => throw (.wake k)
    | none =>
      match admitMem s a 4 with
      | .code c => failWith c
      | .hold => throw .hold
      | .ok => if writeHeld s a 4 then throw .hold else modify (memAdd a v)

/-- The answer to an add: to the peer that asked, or to its unit. -/
def addAnswer (x : Add) (c : Nat) (s : State) : State :=
  match x.resp with
  | some (m, tag) => sendResponse m tag c [] 0 s
  | none => noteAnswer x.stale x.who x.ord c s

/-- Atomic add number `i` of those under way reaches its word, or leaves for a peer. -/
def atomicAdd (i : Nat) (s : State) : State :=
  match s.bus.adds[i]? with
  | none => s
  | some x =>
    if behind s x.who.page x.ord (wholeAddr s x.addr) 4 then s
    else
      let gone := fun s : State => { s with bus := { s.bus with adds := s.bus.adds.eraseIdx i } }
      if moduleOf x.addr = 0xFFFF then releaseHeld (addAnswer x 0x0202 (gone s))
      else if isLocal s x.addr then
        match runM (wordAdd (localOf x.addr) x.val) (reachOwner x.who.page x.addr s) with
        | (.ok _, t) => releaseHeld (addAnswer x 0 (gone t))
        | (.error (.code c), t) => releaseHeld (addAnswer x c (gone t))
        | (.error (.wake k), _) => startWake k s
        | (.error _, _) => s
      else match sendRequest x.who .atomic x.ord x.addr 4 (clean (leBytes 4 x.val)) (bestEffortSlack s) s with
        | .ok t =>
          let t := gone t
          releaseHeld (if x.stale then staleWhere (fun w o => w == x.who && o == x.ord) t else t)
        | .error c => releaseHeld (addAnswer x c (gone s))

def execAtomicAddRequest (inFlight : Nat) (s : State) : Host.Outcome State Fault Refusal :=
  whileOn s (settleRuns (atomicAdd inFlight s))

end Sys2Proof.Machine
end

