-- ==== Sys2Proof/Machine/Access.lean ====
section
/-! DEFINITION. What reaches the module from outside: packets and notices on its ports, accesses and completions of the
host (Kuslight Optical Ports; PCI Express Host Interface). -/

namespace Sys2Proof.Machine

/-! ### Lock notices (R683, R684) -/

/-- A lock notice: the mark, then what reductions, commit and a spare fill do on it. -/
def lockNotice (port module hops : Nat) : M Unit := do
  if noticeApplies (← get) module true then
    modify fun s => settleRuns (noticeToFill module (redNotice (markLocked port module hops s)))
    noticeToCommit module

def execLockNotice (port module hops : Nat) (s : State) : Host.Outcome State Fault Refusal :=
  whileOn s (attempt genWho (lockNotice port module hops) s)

/-! ### Packets (R664, R680, R931, R932) -/

/-- A local register address. -/
def isRegister (s : State) (a : Nat) : Bool :=
  match regionOf s a with
  | .reg _ => true
  | _ => false

/-- A write of registers that arrives from outside: after that master's earlier requests to the same 64-byte unit (R57), and
at once. -/
def outerWrite (page x : Nat) (d : List Byte) : M Unit := do
  let s ← get
  waitFor !behind s page s.bus.nextOrd (regBase + x) d.length
  regAccess x d

/-- Executes a peer's request. A register write takes effect before its response. -/
def servePeer (n : Nat) (p : Packet) : M Unit := do
  modify (reachOwner (pgPort n) (localOf p.addr))
  if p.type = 2 ∧ isRegister (← get) (localOf p.addr) = true then
    let c ← codeOf (outerWrite (pgPort n) (localOf p.addr - regBase) p.data)
    modify (sendResponse p.src p.tag c [] 0)
  else serveRequest n p

/-- Executes a message. -/
def serveMessage (n : Nat) (p : Packet) : M Unit :=
  let d := p.data
  let (step, gen, code, rank) := (fld d 0 4, fld d 4 4, fld d 8 2, fld d 0xA 2)
  match p.addr with
  | 0x01 => readyArrives step rank
  | 0x02 => vetoArrives step code rank
  | 0x03 => modify (decisionArrives { step := step, commit := true, gen := gen })
  | 0x04 => modify (decisionArrives { step := step, commit := false, cause := code, rank := rank })
  | 0x05 => ackArrives step
  | 0x06 => queryArrives step rank
  | 0x08 => lockNotice n (fld d 0 2) p.hops
  | 0x09 => modify (releaseNotice n (fld d 0 2) p.hops)
  | 0x10 => contribMessage d
  | 0x11 => resultMessage d
  | _ => return ()

/-- The packet is a notice for whoever it reaches. -/
def isNotice (p : Packet) : Bool := p.type == 5 && p.dst == 0xFFFF && (p.addr == 8 || p.addr == 9)

/-- An arriving packet: executed, or forwarded. -/
def takePacket (n vc : Nat) (p : Packet) : M Unit := do
  if p.dst = ownModule (← get) ∨ isNotice p = true then
    if isRequest p then servePeer n p
    else if p.type = 4 then modify (responseArrives n p.tag (p.addr % 2 ^ 16) p.data p.poison)
    else serveMessage n p
  else modify (forwardPacket n vc p)

/-- Whose reads a packet's execution may wait for. -/
def packetWho (n : Nat) (p : Packet) : Who :=
  if p.type = 5 then (if p.addr < 0x10 then genWho else redWho (engineOf p.data)) else ⟨pgPort n, p.tag⟩

/-- The packet at the front of a virtual channel of a port; its flits are freed once it has been executed. -/
def packetArrival (n vc : Nat) (s : State) : State :=
  if 32 ≤ n ∨ 8 ≤ vc ∨ portState s n ≠ 6 then s
  else
    let drop := fun k s => bump (pgPort n) Reg.KP_BAD_PACKETS 1 (freeFlits n vc k s)
    match frontPacket (getPort s n) vc with
    | .waits => s
    | .bad k => drop k s
    | .packet p k =>
      if badPacket p then drop k s
      else settleRuns (attempt (packetWho n p) (do
        takePacket n vc p
        modify (freeFlits n vc k)) s)

def execPacketArrival (port vc : Nat) (s : State) : Host.Outcome State Fault Refusal := whileOn s (packetArrival port vc s)

/-! ### Host accesses (R857 to R864) -/

/-- The host's requests. -/
def hostWho : Who := ⟨pgHost, 0⟩

/-- A failing request: a read answers all ones, a write is discarded. -/
def hostRefuse (c a len : Nat) (read : Bool) (s : State) : State :=
  let s := hostFail c a s
  if read then { s with outs := s.outs ++ [.hostCpl (List.replicate len 0xFF) false] } else s

/-- Answers a read; one that covers a poisoned unit with EP set. -/
def hostAnswer (d : List PByte) (s : State) : State :=
  let ep := d.any Prod.snd
  let s := if ep then bump pgHost Reg.HI_POISON_CPL 1 s else s
  { s with outs := s.outs ++ [.hostCpl (d.map Prod.fst) ep] }

/-- The size and alignment of a BAR0 access are allowed (R859). -/
def bar0Allowed (x len : Nat) (read : Bool) : Bool :=
  let off := x % 0x1000
  match if read ∨ x < 0x10000 then none else widePort ((x - 0x10000) / 0x1000) with
  | some (a, n) => if touches off len a n then off == a && len == n else (len == 4 || len == 8) && x % len == 0
  | none => (len == 4 || len == 8) && x % len == 0

/-- In recovery BAR0 serves the Lockkeeper page and the host page (R857). -/
def recoveryServes (x : Nat) : Bool :=
  decide (0x10000 ≤ x) && [pgLockkeeper, pgHost].contains ((x - 0x10000) / 0x1000)

/-- Runs a host access; its failing code is the host's to see. -/
def hostRun (a len : Nat) (read : Bool) (m : M Unit) (s : State) : State :=
  attempt hostWho (do
    let c ← codeOf m
    if c ≠ 0 then modify (hostRefuse c a len read)) s

/-- A BAR0 access: a read of `len` bytes, or a write of data with its EP bit. A poisoned write is discarded. -/
def bar0Access (x len : Nat) (data : Option (List Byte)) (ep : Bool) (s : State) : State :=
  let a := regBase + x
  let n := (data.map List.length).getD len
  let read := data.isNone
  if !endpointUp s ∨ 0x4000000 ≤ x then s
  else if isSet s pgLockkeeper Reg.TR_BOOT_RECOVERY && !recoveryServes x then hostRefuse 0x0801 a n read s
  else if !bar0Allowed x n read then hostRefuse 0x0421 a n read s
  else match data with
  | none => hostRun a n true (do let d ← localRead hostWho a n; modify (hostAnswer d)) s
  | some d => if ep then s else hostRun a n false (outerWrite pgHost x d) s

def execBar0Access (off len : Nat) (data : Option (List Byte)) (ep : Bool) (s : State) :
    Host.Outcome State Fault Refusal := whileOn s (bar0Access off len data ep s)

/-- A BAR2 access at the aperture (R860, R861). A write with EP set poisons the units it touches. -/
def bar2Access (x len : Nat) (data : Option (List Byte)) (ep : Bool) (s : State) : State :=
  let a := rd s pgHost Reg.HI_APERTURE * 2 ^ 30 + x
  let n := (data.map List.length).getD len
  let read := data.isNone
  if !endpointUp s ∨ 0x1000000000 ≤ x then s
  else if isSet s pgLockkeeper Reg.TR_BOOT_RECOVERY then hostRefuse 0x0801 a n read s
  else match data with
  | none => hostRun a n true (do let d ← busRead hostWho a n; modify (hostAnswer d)) s
  | some d =>
    if moduleOf a = 0xFFFF then hostRefuse 0x0202 a n read s
    else if isLocal s a && isRegister s (localOf a) then
      if ep then s else hostRun a n false (outerWrite pgHost (localOf a - regBase) d) s
    else hostRun a n false (do let ord ← takeOrd; busWriteNow hostWho ord a (d.map fun b => (b, ep))) s

def execBar2Access (off len : Nat) (data : Option (List Byte)) (ep : Bool) (s : State) :
    Host.Outcome State Fault Refusal := whileOn s (bar2Access off len data ep s)

/-! ### Completions of the host (R854, R864) -/

/-- A completion ends one of the module's reads of host memory. -/
def hostEnds (tag code : Nat) (stray : Bool) (d : Outstanding → List PByte) (s : State) : State :=
  match s.bus.outstanding.find? fun o => o.tag == tag && o.host with
  | none => s
  | some o =>
    if o.stale then
      let s := { s with bus := { s.bus with outstanding := s.bus.outstanding.filter fun x => x.tag != tag } }
      if stray then bump pgLockkeeper Reg.RC_STRAY 1 s else s
    else completeRequest o code (d o) s

/-- Data arrives; with EP set, all of it is poisoned. -/
def hostCompletion (tag : Nat) (data : List Byte) (ep : Bool) (s : State) : State :=
  hostEnds tag 0 true (fun o => (padTo o.len data).map fun b => (b, ep)) s

def execHostCompletion (tag : Nat) (data : List Byte) (ep : Bool) (s : State) : Host.Outcome State Fault Refusal :=
  whileOn s (hostCompletion tag data ep s)

/-- No completion comes, or, with `refused`, one with Unsupported Request or Completer Abort. -/
def hostCplTimeout (tag : Nat) (refused : Bool) (s : State) : State :=
  hostEnds tag (if refused then 0x0427 else 0x0426) refused (fun _ => []) s

def execHostCplTimeout (tag : Nat) (refused : Bool) (s : State) : Host.Outcome State Fault Refusal :=
  whileOn s (hostCplTimeout tag refused s)

/-! ### Start-up and MSI-X (R855, R877) -/

/-- PERST_N is deasserted. -/
def perstOff (s : State) : State :=
  if s.host.perst then { s with host := { s.host with perst := false, settings := false } } else s

def execPerstNDeassertion (s : State) : Host.Outcome State Fault Refusal := whileOn s (perstOff s)

/-- Address bits of the base address registers, by doubleword of the Type 0 header: 64 MiB, 64 GiB and 1 MiB (R858). -/
def barMask (k : Nat) : Nat := [0xFC000000, 0xFFFFFFFF, 0, 0xFFFFFFF0, 0xFFF00000, 0xFFFFFFFF].getD (k - 4) 0

/-- Their low bits: 64-bit memory; BAR2/3 prefetchable (R858). -/
def barKind (k : Nat) : Nat := [4, 0, 0xC, 0, 4, 0].getD (k - 4) 0

/-- Doubleword `k` of the configuration space: header type 0 of one function, class code 0x12_0000, the base address
registers (R851, R858); the rest as the standard and the part have it (log 69). -/
def configRead (s : State) (k : Nat) : Nat :=
  let w := look 0 s.host.cfg k
  let v := Config.configWord k w % 2 ^ 32
  if k = 2 then v % 256 + 0x120000 * 256
  else if k = 3 then v % 2 ^ 16 + v / 2 ^ 24 * 2 ^ 24
  else if 4 ≤ k ∧ k < 10 then (w &&& barMask k) + barKind k
  else v

/-- A configuration request for doubleword `k`, a read or a write: retried until the settings are loaded; `loaded` says
that the Lockkeeper has done so by now. -/
def configuration (k : Nat) (data : Option Nat) (loaded : Bool) (s : State) : State :=
  if s.host.perst then s
  else if !(s.host.settings || loaded) then { s with outs := s.outs ++ [.cfgCpl true none] }
  else
    let s := { s with host := { s.host with settings := true } }
    match data with
    | none => { s with outs := s.outs ++ [.cfgCpl false (some (configRead s k))] }
    | some v => { s with
        host := { s.host with cfg := put 0 s.host.cfg k (v % 2 ^ 32) }, outs := s.outs ++ [.cfgCpl false none] }

def execConfigurationRequest (request : ConfigAccess) (s : State) : Host.Outcome State Fault Refusal :=
  whileOn s (configuration request.reg request.data request.loaded s)

/-- The 16 bytes of an MSI-X table entry: address, data, vector control (PCI Express Base Specification; log 12). -/
def Msix.bytes (e : Msix) : List Byte := leBytes 8 e.addr ++ leBytes 4 e.data ++ leBytes 4 (natOf e.masked)

/-- Writes one entry; a pending vector that is unmasked is sent. -/
def msixEntry (v : Nat) (b : List Byte) (s : State) : State :=
  let e := look {} s.host.msix v
  let n : Msix := { addr := fld b 0 8, data := fld b 8 4, masked := bitOf (fld b 0xC 4) 0, pend := e.pend }
  let sent := n.pend && !n.masked
  let s := { s with host := { s.host with msix := put {} s.host.msix v (if sent then { n with pend := false } else n) } }
  if sent then { s with outs := s.outs ++ [.msix v n.addr n.data] } else s

/-- A host write at byte `off` from the table at BAR4 offset 0x8_0000; the pending bits are not written. -/
def msixWrite (off : Nat) (data : List Byte) (s : State) : State :=
  if !endpointUp s then s
  else if isSet s pgLockkeeper Reg.TR_BOOT_RECOVERY then hostFail 0x0801 (0x80000 + off) s
  else
    ((List.range 2048).filter fun v => touches off data.length (16 * v) 16).foldl (fun s v =>
      let old := (look {} s.host.msix v).bytes
      let skip := 16 * v - off
      let part := (data.drop skip).take (16 - (off - 16 * v))
      msixEntry v (overlay old (off - 16 * v) part) s) s

def execMsixTableWrite (off : Nat) (data : List Byte) (s : State) : Host.Outcome State Fault Refusal :=
  whileOn s (msixWrite off data s)

end Sys2Proof.Machine
end

