-- ==== Sys2Proof/Machine/Dispatch.lean ====
section
/-! DEFINITION. One arm for each command: a direct call of its meaning. -/

namespace Sys2Proof.Machine

/-- The effect of a command on everything but the queue. -/
def exec (i : Instr) (s : State) : Host.Outcome State Fault Refusal :=
  match i with
  | .registerWrite inFlight => Sys2Proof.Machine.execRegisterWrite inFlight s
  | .requestIssue page sub kind addr len data poison slack => Sys2Proof.Machine.execRequestIssue page sub kind addr len data poison slack s
  | .memoryRead page addr len upsets => Sys2Proof.Machine.execMemoryRead page addr len upsets s
  | .memoryWrite page addr data poison => Sys2Proof.Machine.execMemoryWrite page addr data poison s
  | .atomicAddRequest inFlight => Sys2Proof.Machine.execAtomicAddRequest inFlight s
  | .statsAddApply page => Sys2Proof.Machine.execStatsAddApply page s
  | .arrayRowRead tile => Sys2Proof.Machine.execArrayRowRead tile s
  | .arrayColumnRead tile => Sys2Proof.Machine.execArrayColumnRead tile s
  | .arrayLoadOnly tile => Sys2Proof.Machine.execArrayLoadOnly tile s
  | .arrayWindowOp tile => Sys2Proof.Machine.execArrayWindowOp tile s
  | .stationaryLoad tile => Sys2Proof.Machine.execStationaryLoad tile s
  | .vectorEntry tile parity => Sys2Proof.Machine.execVectorEntry tile parity s
  | .arrayOpComplete tile cycles => Sys2Proof.Machine.execArrayOpComplete tile cycles s
  | .haSpareWrite page array req col => Sys2Proof.Machine.execHaSpareWrite page array req col s
  | .spareMapApply page array => Sys2Proof.Machine.execSpareMapApply page array s
  | .haTestStart page array => Sys2Proof.Machine.execHaTestStart page array s
  | .haSelfTestDone page array columns beyond => Sys2Proof.Machine.execHaSelfTestDone page array columns beyond s
  | .drain tile => Sys2Proof.Machine.execDrain tile s
  | .drainStart tile => Sys2Proof.Machine.execDrainStart tile s
  | .setRelease tile => Sys2Proof.Machine.execSetRelease tile s
  | .drainComplete tile cycles => Sys2Proof.Machine.execDrainComplete tile cycles s
  | .clArithUpdate cluster => Sys2Proof.Machine.execClArithUpdate cluster s
  | .monArithUpdate => Sys2Proof.Machine.execMonArithUpdate s
  | .tailBiasAct tile issue => Sys2Proof.Machine.execTailBiasAct tile issue s
  | .tailAddAct tile issue => Sys2Proof.Machine.execTailAddAct tile issue s
  | .tailMul tile issue => Sys2Proof.Machine.execTailMul tile issue s
  | .tailNorm tile issue => Sys2Proof.Machine.execTailNorm tile issue s
  | .tailRowstat tile issue => Sys2Proof.Machine.execTailRowstat tile issue s
  | .tailNormApply tile issue => Sys2Proof.Machine.execTailNormApply tile issue s
  | .tailConvert tile issue => Sys2Proof.Machine.execTailConvert tile issue s
  | .tailSplit3 tile issue => Sys2Proof.Machine.execTailSplit3 tile issue s
  | .tailPool tile issue => Sys2Proof.Machine.execTailPool tile issue s
  | .tailSgd tile issue => Sys2Proof.Machine.execTailSgd tile issue s
  | .tailAdamw tile issue => Sys2Proof.Machine.execTailAdamw tile issue s
  | .tailComplete tile cycles => Sys2Proof.Machine.execTailComplete tile cycles s
  | .send tile issue => Sys2Proof.Machine.execSend tile issue s
  | .sendComplete tile cycles => Sys2Proof.Machine.execSendComplete tile cycles s
  | .recv tile issue => Sys2Proof.Machine.execRecv tile issue s
  | .recvComplete tile cycles => Sys2Proof.Machine.execRecvComplete tile cycles s
  | .pump tile => Sys2Proof.Machine.execPump tile s
  | .pumpInstrComplete tile cycles => Sys2Proof.Machine.execPumpInstrComplete tile cycles s
  | .waitCmd tile => Sys2Proof.Machine.execWaitCmd tile s
  | .waitPoll tile => Sys2Proof.Machine.execWaitPoll tile s
  | .signal tile => Sys2Proof.Machine.execSignal tile s
  | .signalAck tile cycles => Sys2Proof.Machine.execSignalAck tile cycles s
  | .seg tile => Sys2Proof.Machine.execSeg tile s
  | .fillOn tile => Sys2Proof.Machine.execFillOn tile s
  | .fillOff tile => Sys2Proof.Machine.execFillOff tile s
  | .stepEnd tile => Sys2Proof.Machine.execStepEnd tile s
  | .fillRingIssue tile => Sys2Proof.Machine.execFillRingIssue tile s
  | .mainListPassBegin tile => Sys2Proof.Machine.execMainListPassBegin tile s
  | .schedStart tile => Sys2Proof.Machine.execSchedStart tile s
  | .schedStop tile => Sys2Proof.Machine.execSchedStop tile s
  | .channelOpenRequest index => Sys2Proof.Machine.execChannelOpenRequest index s
  | .channelGrant index => Sys2Proof.Machine.execChannelGrant index s
  | .channelMessage index => Sys2Proof.Machine.execChannelMessage index s
  | .creditReturn index => Sys2Proof.Machine.execCreditReturn index s
  | .channelReopen tile ch => Sys2Proof.Machine.execChannelReopen tile ch s
  | .mbBind mb mode need => Sys2Proof.Machine.execMbBind mb mode need s
  | .bindingCopy page mb => Sys2Proof.Machine.execBindingCopy page mb s
  | .genEnable on => Sys2Proof.Machine.execGenEnable on s
  | .stepOpenNext => Sys2Proof.Machine.execStepOpenNext s
  | .pendingSlotOpen => Sys2Proof.Machine.execPendingSlotOpen s
  | .moduleReady => Sys2Proof.Machine.execModuleReady s
  | .ready step rank => Sys2Proof.Machine.execReady step rank s
  | .veto step code rank => Sys2Proof.Machine.execVeto step code rank s
  | .commitDeadlineExpiry us => Sys2Proof.Machine.execCommitDeadlineExpiry us s
  | .decisionResend => Sys2Proof.Machine.execDecisionResend s
  | .ack step => Sys2Proof.Machine.execAck step s
  | .query step rank => Sys2Proof.Machine.execQuery step rank s
  | .commit step gen => Sys2Proof.Machine.execCommit step gen s
  | .abort step code rank => Sys2Proof.Machine.execAbort step code rank s
  | .abortDiscard => Sys2Proof.Machine.execAbortDiscard s
  | .packStart cluster => Sys2Proof.Machine.execPackStart cluster s
  | .packBody cluster => Sys2Proof.Machine.execPackBody cluster s
  | .packHeaderValid cluster => Sys2Proof.Machine.execPackHeaderValid cluster s
  | .packComplete cluster => Sys2Proof.Machine.execPackComplete cluster s
  | .unpack cluster => Sys2Proof.Machine.execUnpack cluster s
  | .apStart cluster => Sys2Proof.Machine.execApStart cluster s
  | .apStop cluster => Sys2Proof.Machine.execApStop cluster s
  | .atForward cluster => Sys2Proof.Machine.execAtForward cluster s
  | .atBackward cluster => Sys2Proof.Machine.execAtBackward cluster s
  | .atWaitPoll cluster => Sys2Proof.Machine.execAtWaitPoll cluster s
  | .atPass drive => Sys2Proof.Machine.execAtPass drive s
  | .atDescComplete cluster cycles => Sys2Proof.Machine.execAtDescComplete cluster cycles s
  | .whCmdPortWrite wellhead off data => Sys2Proof.Machine.execWhCmdPortWrite wellhead off data s
  | .alloc wellhead => Sys2Proof.Machine.execAlloc wellhead s
  | .share wellhead => Sys2Proof.Machine.execShare wellhead s
  | .freePage wellhead => Sys2Proof.Machine.execFreePage wellhead s
  | .cow wellhead => Sys2Proof.Machine.execCow wellhead s
  | .pin wellhead => Sys2Proof.Machine.execPin wellhead s
  | .unpin wellhead => Sys2Proof.Machine.execUnpin wellhead s
  | .lookup wellhead => Sys2Proof.Machine.execLookup wellhead s
  | .insert wellhead => Sys2Proof.Machine.execInsert wellhead s
  | .evict wellhead => Sys2Proof.Machine.execEvict wellhead s
  | .hpStart handpump => Sys2Proof.Machine.execHpStart handpump s
  | .hpStop handpump => Sys2Proof.Machine.execHpStop handpump s
  | .conv handpump => Sys2Proof.Machine.execConv handpump s
  | .crop handpump => Sys2Proof.Machine.execCrop handpump s
  | .wgrad handpump => Sys2Proof.Machine.execWgrad handpump s
  | .hdDescComplete handpump cycles => Sys2Proof.Machine.execHdDescComplete handpump cycles s
  | .rngProbe ctr3 => Sys2Proof.Machine.execRngProbe ctr3 s
  | .rngRestoreStage addr => Sys2Proof.Machine.execRngRestoreStage addr s
  | .lmLossIn off data => Sys2Proof.Machine.execLmLossIn off data s
  | .tailNonfiniteRollup cluster => Sys2Proof.Machine.execTailNonfiniteRollup cluster s
  | .wrExport ring => Sys2Proof.Machine.execWrExport ring s
  | .exportSign ring => Sys2Proof.Machine.execExportSign ring s
  | .vdJobSubmit decoder off data => Sys2Proof.Machine.execVdJobSubmit decoder off data s
  | .vdJobStart decoder => Sys2Proof.Machine.execVdJobStart decoder s
  | .vdPictureDecode decoder picture => Sys2Proof.Machine.execVdPictureDecode decoder picture s
  | .vdFrameEntry decoder => Sys2Proof.Machine.execVdFrameEntry decoder s
  | .vdRelease decoder buf => Sys2Proof.Machine.execVdRelease decoder buf s
  | .veJobSubmit encoder off data => Sys2Proof.Machine.execVeJobSubmit encoder off data s
  | .veJobStart encoder => Sys2Proof.Machine.execVeJobStart encoder s
  | .veFrameEncode encoder upsets => Sys2Proof.Machine.execVeFrameEncode encoder upsets s
  | .veResult encoder => Sys2Proof.Machine.execVeResult encoder s
  | .ciDecode => Sys2Proof.Machine.execCiDecode s
  | .ciCopy => Sys2Proof.Machine.execCiCopy s
  | .ciSensor => Sys2Proof.Machine.execCiSensor s
  | .ciPad => Sys2Proof.Machine.execCiPad s
  | .ciSetAug => Sys2Proof.Machine.execCiSetAug s
  | .ciDispatch => Sys2Proof.Machine.execCiDispatch s
  | .ciFrameEntry decoder cycles => Sys2Proof.Machine.execCiFrameEntry decoder cycles s
  | .tfFrameTransform unit => Sys2Proof.Machine.execTfFrameTransform unit s
  | .ciBudgetExpiry sample cycles => Sys2Proof.Machine.execCiBudgetExpiry sample cycles s
  | .ssTailAdvance stream tail => Sys2Proof.Machine.execSsTailAdvance stream tail s
  | .ciBatchRelease => Sys2Proof.Machine.execCiBatchRelease s
  | .ciReturn off data => Sys2Proof.Machine.execCiReturn off data s
  | .ciRestore addr => Sys2Proof.Machine.execCiRestore addr s
  | .cursorRecordStep => Sys2Proof.Machine.execCursorRecordStep s
  | .pmSubmit pump off data => Sys2Proof.Machine.execPmSubmit pump off data s
  | .pumpCopy pump slot => Sys2Proof.Machine.execPumpCopy pump slot s
  | .pumpConvert pump slot => Sys2Proof.Machine.execPumpConvert pump slot s
  | .pumpStream pump slot => Sys2Proof.Machine.execPumpStream pump slot s
  | .streamRecord pump slot => Sys2Proof.Machine.execStreamRecord pump slot s
  | .streamPoll pump slot => Sys2Proof.Machine.execStreamPoll pump slot s
  | .pumpDescComplete pump slot => Sys2Proof.Machine.execPumpDescComplete pump slot s
  | .arbGrant point requests => Sys2Proof.Machine.execArbGrant point requests s
  | .memDiscard off data => Sys2Proof.Machine.execMemDiscard off data s
  | .memRetire ch => Sys2Proof.Machine.execMemRetire ch s
  | .migrationCopy => Sys2Proof.Machine.execMigrationCopy s
  | .migrationDone => Sys2Proof.Machine.execMigrationDone s
  | .gddr7Scrub upsets => Sys2Proof.Machine.execGddr7Scrub upsets s
  | .wellScrub cluster upsets => Sys2Proof.Machine.execWellScrub cluster upsets s
  | .portEnable port on => Sys2Proof.Machine.execPortEnable port on s
  | .laserLoss port => Sys2Proof.Machine.execLaserLoss port s
  | .laserOk port => Sys2Proof.Machine.execLaserOk port s
  | .portTuneDone port => Sys2Proof.Machine.execPortTuneDone port s
  | .portTrainDone port => Sys2Proof.Machine.execPortTrainDone port s
  | .portAlignDone port => Sys2Proof.Machine.execPortAlignDone port s
  | .hello port ack crVc crCount peerModule peerPort => Sys2Proof.Machine.execHello port ack crVc crCount peerModule peerPort s
  | .grant port ack credits => Sys2Proof.Machine.execGrant port ack credits s
  | .dataFlit port bytes uncorrectable corrected => Sys2Proof.Machine.execDataFlit port bytes uncorrectable corrected s
  | .idleFlit port ack crVc crCount => Sys2Proof.Machine.execIdleFlit port ack crVc crCount s
  | .nakReplay port ack crVc crCount => Sys2Proof.Machine.execNakReplay port ack crVc crCount s
  | .swap port ack crVc crCount lane => Sys2Proof.Machine.execSwap port ack crVc crCount lane s
  | .swapDone port ack crVc crCount => Sys2Proof.Machine.execSwapDone port ack crVc crCount s
  | .laneFail port lane => Sys2Proof.Machine.execLaneFail port lane s
  | .peerFlitTimeout port => Sys2Proof.Machine.execPeerFlitTimeout port s
  | .portRetrain port => Sys2Proof.Machine.execPortRetrain port s
  | .packetArrival port vc => Sys2Proof.Machine.execPacketArrival port vc s
  | .responseArrival port tag code data poison => Sys2Proof.Machine.execResponseArrival port tag code data poison s
  | .requestTimeout tag => Sys2Proof.Machine.execRequestTimeout tag s
  | .klRtData mask => Sys2Proof.Machine.execKlRtData mask s
  | .lockNotice port module hops => Sys2Proof.Machine.execLockNotice port module hops s
  | .releaseNotice port module hops => Sys2Proof.Machine.execReleaseNotice port module hops s
  | .rdEnable engine on => Sys2Proof.Machine.execRdEnable engine on s
  | .reductionRunStart engine entry => Sys2Proof.Machine.execReductionRunStart engine entry s
  | .contrib data => Sys2Proof.Machine.execContrib data s
  | .chunkDeadline engine step us => Sys2Proof.Machine.execChunkDeadline engine step us s
  | .result data => Sys2Proof.Machine.execResult data s
  | .twinForwardFail engine entry step chunk => Sys2Proof.Machine.execTwinForwardFail engine entry step chunk s
  | .rsEnable on => Sys2Proof.Machine.execRsEnable on s
  | .roundCopy cycles => Sys2Proof.Machine.execRoundCopy cycles s
  | .firstTouch touch => Sys2Proof.Machine.execFirstTouch touch s
  | .roundCompleteWrite cycles => Sys2Proof.Machine.execRoundCompleteWrite cycles s
  | .roundComplete cycles => Sys2Proof.Machine.execRoundComplete cycles s
  | .rsRestore => Sys2Proof.Machine.execRsRestore s
  | .rsRestoreDone => Sys2Proof.Machine.execRsRestoreDone s
  | .rsDigest => Sys2Proof.Machine.execRsDigest s
  | .rsDigestDone => Sys2Proof.Machine.execRsDigestDone s
  | .rsResolve decision => Sys2Proof.Machine.execRsResolve decision s
  | .domainLock kind inst => Sys2Proof.Machine.execDomainLock kind inst s
  | .domainReset kind inst dump hold => Sys2Proof.Machine.execDomainReset kind inst dump hold s
  | .domainRelease kind inst => Sys2Proof.Machine.execDomainRelease kind inst s
  | .lockDrained kind inst => Sys2Proof.Machine.execLockDrained kind inst s
  | .drainBoundExpiry kind inst => Sys2Proof.Machine.execDrainBoundExpiry kind inst s
  | .resetComplete kind inst failed => Sys2Proof.Machine.execResetComplete kind inst failed s
  | .coldPowerUp failed => Sys2Proof.Machine.execColdPowerUp failed s
  | .perst => Sys2Proof.Machine.execPerst s
  | .flr => Sys2Proof.Machine.execFlr s
  | .lkHeartbeat phase => Sys2Proof.Machine.execLkHeartbeat phase s
  | .lkWatchdog => Sys2Proof.Machine.execLkWatchdog s
  | .clTileMapWrite cluster active logical => Sys2Proof.Machine.execClTileMapWrite cluster active logical s
  | .substitutionApply cluster => Sys2Proof.Machine.execSubstitutionApply cluster s
  | .pstateTarget target => Sys2Proof.Machine.execPstateTarget target s
  | .clusterGate cluster => Sys2Proof.Machine.execClusterGate cluster s
  | .clusterWake cluster => Sys2Proof.Machine.execClusterWake cluster s
  | .markerGo => Sys2Proof.Machine.execMarkerGo s
  | .markerLatch page => Sys2Proof.Machine.execMarkerLatch page s
  | .markerNotice index => Sys2Proof.Machine.execMarkerNotice index s
  | .markerWaveComplete => Sys2Proof.Machine.execMarkerWaveComplete s
  | .lifeSample => Sys2Proof.Machine.execLifeSample s
  | .lifeSummaryWrite => Sys2Proof.Machine.execLifeSummaryWrite s
  | .journalAppend => Sys2Proof.Machine.execJournalAppend s
  | .keyringSign digest => Sys2Proof.Machine.execKeyringSign digest s
  | .keyringEcdhe peer => Sys2Proof.Machine.execKeyringEcdhe peer s
  | .keyringRandom count => Sys2Proof.Machine.execKeyringRandom count s
  | .keyringPublicKey => Sys2Proof.Machine.execKeyringPublicKey s
  | .getVersion => Sys2Proof.Machine.execGetVersion s
  | .getCapabilities => Sys2Proof.Machine.execGetCapabilities s
  | .negotiateAlgorithms common => Sys2Proof.Machine.execNegotiateAlgorithms common s
  | .getDigests => Sys2Proof.Machine.execGetDigests s
  | .getCertificate slot off len => Sys2Proof.Machine.execGetCertificate slot off len s
  | .challenge slot digest => Sys2Proof.Machine.execChallenge slot digest s
  | .getMeasurements index sign digest => Sys2Proof.Machine.execGetMeasurements index sign digest s
  | .keyExchange slot peer digest => Sys2Proof.Machine.execKeyExchange slot peer digest s
  | .finish session ok => Sys2Proof.Machine.execFinish session ok s
  | .heartbeat session => Sys2Proof.Machine.execHeartbeat session s
  | .keyUpdate session => Sys2Proof.Machine.execKeyUpdate session s
  | .endSession session => Sys2Proof.Machine.execEndSession session s
  | .debugChallenge => Sys2Proof.Machine.execDebugChallenge s
  | .debugAuth key sig => Sys2Proof.Machine.execDebugAuth key sig s
  | .debugChallengeExpiry => Sys2Proof.Machine.execDebugChallengeExpiry s
  | .bar0Access off len data ep => Sys2Proof.Machine.execBar0Access off len data ep s
  | .bar2Access off len data ep => Sys2Proof.Machine.execBar2Access off len data ep s
  | .hostCplTimeout tag refused => Sys2Proof.Machine.execHostCplTimeout tag refused s
  | .doorbell ring tail => Sys2Proof.Machine.execDoorbell ring tail s
  | .wrEnable ring on => Sys2Proof.Machine.execWrEnable ring on s
  | .wrNop ring => Sys2Proof.Machine.execWrNop ring s
  | .wrLoadStep ring => Sys2Proof.Machine.execWrLoadStep ring s
  | .wrWrite ring => Sys2Proof.Machine.execWrWrite ring s
  | .wrWait ring => Sys2Proof.Machine.execWrWait ring s
  | .wrAdd ring => Sys2Proof.Machine.execWrAdd ring s
  | .wrCompletion ring => Sys2Proof.Machine.execWrCompletion ring s
  | .hiVmapData entry => Sys2Proof.Machine.execHiVmapData entry s
  | .getStatus => Sys2Proof.Machine.execGetStatus s
  | .readSensors => Sys2Proof.Machine.execReadSensors s
  | .readLifeLog => Sys2Proof.Machine.execReadLifeLog s
  | .readDumpSummary => Sys2Proof.Machine.execReadDumpSummary s
  | .readDump => Sys2Proof.Machine.execReadDump s
  | .writeImage => Sys2Proof.Machine.execWriteImage s
  | .writeConfig => Sys2Proof.Machine.execWriteConfig s
  | .signRound => Sys2Proof.Machine.execSignRound s
  | .resetLockkeeper => Sys2Proof.Machine.execResetLockkeeper s
  | .mailboxLongDone => Sys2Proof.Machine.execMailboxLongDone s
  | .smbusRequest op tag => Sys2Proof.Machine.execSmbusRequest op tag s
  | .intTest page => Sys2Proof.Machine.execIntTest page s
  | .powerFail => Sys2Proof.Machine.execPowerFail s
  | .overcurrentTrip => Sys2Proof.Machine.execOvercurrentTrip s
  | .powerInterval watts vin deci capCall heatCall supplyCall => Sys2Proof.Machine.execPowerInterval watts vin deci capCall heatCall supplyCall s
  | .pwCapWrite watts => Sys2Proof.Machine.execPwCapWrite watts s
  | .thermalSample die inlet outlet => Sys2Proof.Machine.execThermalSample die inlet outlet s
  | .perstNDeassertion => Sys2Proof.Machine.execPerstNDeassertion s
  | .configurationRequest request => Sys2Proof.Machine.execConfigurationRequest request s
  | .hostCompletion tag data ep => Sys2Proof.Machine.execHostCompletion tag data ep s
  | .msixTableWrite off data => Sys2Proof.Machine.execMsixTableWrite off data s
  | .spareW8Lock port => Sys2Proof.Machine.execSpareW8Lock port s
  | .hdWaitPoll handpump => Sys2Proof.Machine.execHdWaitPoll handpump s

end Sys2Proof.Machine
end

