-- ==== Sys2Proof/Safety.lean ====
section
/-! DEFINITION. What a sound state is, and when a unit's work gets through, in the terms the statements use. -/

namespace Sys2Proof.Machine

/-- The canonical form of memory: addresses rise and no listed byte is zero; its valid bits, poison and bad bits
likewise. -/
def Mem.wf (m : Mem) : Bool :=
  sparseWf 0 m.cells && sparseWf false m.wellValid && sparseWf false m.pageValid && sparseWf false m.poison
    && sparseWf 0 m.flips

/-- The canonical form of the register pages: keys rise. -/
def State.regsWf (s : State) : Bool := risingFrom none s.regs

/-- Register pages and memory are in canonical form. -/
def State.canonical (s : State) : Bool := s.mem.wf && (s.regsWf && sparseWf 0 s.retention)

/-- A unit's work gets through from `s` and leaves `t`: every condition it waits for holds, every read it makes has its
answer, and no check refuses it. -/
def Works (m : M Unit) (s t : State) : Prop := runM m s = (.ok (), t)

/-- Operands are readable: the reading `m` answers `a` from `s` and leaves `t`, which may count corrected bits. -/
def Reads {α : Type} (m : M α) (s : State) (a : α) (t : State) : Prop := runM m s = (.ok a, t)

/-- The state that work leaves, however it ends. -/
def leaves {α : Type} (m : M α) (s : State) : State := (runM m s).2

/-- What a command that carries out work for requester `w` leaves: the state of its work, with the read data that the
work has used up forgotten. -/
def after (w : Who) (t : State) : State := forgetArrived w t

/-- Every write and add of requester `w` has been answered. -/
def answered (s : State) (w : Who) : Bool :=
  !((s.bus.outstanding.any fun o => o.who == w && o.kind != .read && !o.stale)
    || (s.bus.adds.any fun x => x.who == w && !x.stale) || (s.bus.regq.any fun x => x.who == w && !x.stale)
    || s.bus.held.any fun x => x.who == w && !x.stale)

/-- The code of requester `w`'s failed write that was issued first; 0 where none failed. -/
def writeCode (s : State) (w : Who) : Nat := ((s.bus.writeErr.find? fun e => e.who == w).map WriteErr.code).getD 0

/-- All have been answered, and none has failed. -/
def accepted (s : State) (w : Who) : Bool := answered s w && s.bus.writeErr.all fun e => e.who != w

/-- Its failed writes are forgotten. -/
def forgetErrors (w : Who) (s : State) : State :=
  if (s.bus.writeErr.find? fun e => e.who == w).isSome then
    { s with bus := { s.bus with writeErr := s.bus.writeErr.filter fun e => e.who != w } }
  else s

/-! ### When a tile's instruction issues (R233 to R236, R241, R301) -/

/-- The main list of a running tile stands at instruction `h`, of the kind that `p` names, readable in its well (R223,
R232); the condition of its ORDER bit (R233) and checks 1 to 4 (R241) hold. `u` is the state once it has been read. -/
structure HeadAt (s : State) (tile : Nat) (p : Head → M Bool) (h : Head) (u : State) : Prop where
  read : ∃ v, Reads (mainHead tile) s (some h) v ∧ Reads (p h) v true u
  order : bitOf h.flags 1 = false ∨ liveOf (getTile u tile) h.ring = []
  listed : listChecks u tile h = none

/-- The instruction needs no binding, or its micro-batch is bound in the tile's copy (R301). -/
def MbBound (u : State) (tile : Nat) (h : Head) : Prop := h.mb = 0xFF ∨ (bindOf u (pgTile tile) h.mb).isSome = true

/-- A send endpoint that an instruction of `n` slots names is open, matched and granted, and no grant is too small for it
(R241, R257 to R260). -/
structure CanSend (s : State) (tile ch n : Nat) : Prop where
  open_ : chanState s tile ch = 1
  matched : rdAt s (pgTile tile) Reg.CH_STATUS_MISMATCH ch = 0
  granted : (getChan s tile ch).refused = 0
  fits : ∀ r ∈ receivers (getChan s tile ch), n ≤ look 0 (getChan s tile ch).lent r

/-- It holds the credits of `n` slots that no earlier instruction has taken (R236). -/
def HasCredits (s : State) (tile ch n : Nat) : Prop := (getChan s tile ch).reserved + n ≤ (getChan s tile ch).least

/-- The checks of an ARRAY instruction (R164, R181, R184, R241, R304, R464) hold for operation `o`, whose descriptors and
scale records are readable; `x` is the state once they have been read. -/
structure ArrayIssues (u : State) (tile : Nat) (h : Head) (o : ArrayOp) (x : State) : Prop where
  room : ((getTile u tile).array.filter fun o => !o.done).length < 2
  bound : MbBound u tile h
  inWell : beyondWell h.a0 128 = false
  fresh : o = { ins := o.ins, desc := o.desc, win := o.win, cab := o.cab }
  checks : ∃ v w y ca cb, Reads (readDesc tile h h.a0 128) u o.desc v ∧
    fillSetBreach v tile h (some o.accSet) = false ∧
    (h.a1 = 0 → o.win = [] ∧ w = v) ∧
    (h.a1 ≠ 0 → h.a1 % 32 = 0 ∧ beyondWell h.a1 32 = false ∧ Reads (readDesc tile h h.a1 32) v o.win w) ∧
    o.ins = issuedOf tile h (bitsOf (fld o.desc 4 4) 16 16) w ∧
    (o.fromChannel = true → o.split3 = false ∧ chanCheck w tile (fld o.desc 0x30 1) false = none ∧
      recordCheck w tile (fld o.desc 0x30 1) (recordBytes o.strmFmt) = none) ∧
    arrayChecks w tile h.a0 o.ins.slot o = none ∧
    Reads (readCoarse ⟨pgTile tile, 0⟩ o.statFmt (fld o.desc 0x20 8) o.ins.slot) w ca y ∧
    (o.loadOnly = true → cb = f32One ∧ x = y) ∧
    (o.loadOnly = false → Reads (readCoarse ⟨pgTile tile, 0⟩ o.strmFmt (fld o.desc 0x48 8) o.ins.slot) y cb x ∧
      f32PosNormal o.cab = true ∧ ownerChecks x tile o = none) ∧
    o.cab = coarseProduct ca cb ∧
    (o.isWindow = true → windowOpChecks w tile h.a1 o.ins.slot o = none)
  windows : windowCheck x (pgTile tile) h.mb ([(wellBase tile + h.a0, 128)] ++
    (if h.a1 = 0 then [] else [(wellBase tile + h.a1, 32)]) ++ o.statRanges ++ o.strmRanges ++ o.scaleRanges) [] = none

/-- The checks of a DRAIN instruction (R202, R241, R304) hold; its descriptor `d` and scale record `c` are readable:
`v` and `x` are the states once they have been read. -/
structure DrainIssues (u : State) (tile : Nat) (h : Head) (d : List Byte) (i : Issued) (c : Nat) (v x : State) : Prop where
  room : (getTile u tile).epi.length < 4
  bound : MbBound u tile h
  inWell : beyondWell h.a0 64 = false
  checks : Reads (readDesc tile h h.a0 64) u d v ∧
    fillSetBreach v tile h (some (DrainDesc.mk d).set) = false ∧
    i = issuedOf tile h (fld d 0x38 2) v ∧
    ((DrainDesc.mk d).toChan = true → chanCheck v tile (fld d 8 1) true = none ∧
      recordCheck v tile (fld d 8 1) (DrainDesc.mk d).recBytes = none ∧
      CanSend v tile (fld d 8 1) (slotsFor v tile (fld d 8 1) (DrainDesc.mk d).vectors)) ∧
    drainChecks h.a0 ⟨d⟩ (rdAt v (pgTile tile) Reg.ACC_SET_PAIRED (DrainDesc.mk d).set == 1) i.stats.isSome = none ∧
    Reads (readCoarse ⟨pgTile tile, 0⟩ (DrainDesc.mk d).fmt (fld d 0x20 8) i.slot) v c x ∧
    ((DrainDesc.mk d).toChan = true →
      HasCredits x tile (fld d 8 1) (slotsFor v tile (fld d 8 1) (DrainDesc.mk d).vectors))
  windows : windowCheck x (pgTile tile) h.mb ([(wellBase tile + h.a0, 64)] ++ scaleRange (DrainDesc.mk d).fmt (fld d 0x20 8))
    ((DrainDesc.mk d).writes i.stats.isSome) = none

/-- The checks of a TAIL instruction (R241, R284, R287, R304, R305, R309, R490) hold; its descriptor, parameters and scale
records are readable: those of its source `sc`, of its second operand `ac` and of its output `dc`; `v` is the
state once the descriptor has been read, `y` once all have. -/
structure TailIssues (u : State) (tile : Nat) (h : Head) (d : List Byte) (i : Issued) (sc ac dc : Nat)
    (v y : State) : Prop where
  room : (getTile u tile).epi.length < 4
  inWell : beyondWell h.a0 192 = false
  checks : ∃ pd v₂ v₃ v₄ v₅ pp, Reads (readDesc tile h h.a0 192) u d v ∧
    ((TailDesc.mk d).update = false → MbBound v tile h) ∧ listChecks v tile h = none ∧
    fillSetBreach v tile h (if (TailDesc.mk d).src = 0 then some (TailDesc.mk d).set else none) = false ∧
    i = issuedOf tile h (TailDesc.mk d).tag v ∧
    ((TailDesc.mk d).src = 2 → chanCheck v tile (fld d 8 1) false = none ∧
      recordCheck v tile (fld d 8 1) (recordBytes (TailDesc.mk d).srcFmt) = none) ∧
    ((TailDesc.mk d).dstCh = true → chanCheck v tile (fld d 0x50 1) true = none ∧
      recordCheck v tile (fld d 0x50 1) (recordBytes (TailDesc.mk d).dstFmt) = none ∧
      CanSend v tile (fld d 0x50 1) (slotsFor v tile (fld d 0x50 1) (TailDesc.mk d).vectors) ∧
      HasCredits y tile (fld d 0x50 1) (slotsFor v tile (fld d 0x50 1) (TailDesc.mk d).vectors)) ∧
    tailFirstCheck h.a0 ⟨d⟩ i.stats.isSome = none ∧
    Reads (if (TailDesc.mk d).update then winRead ⟨pgTile tile, 0⟩ i.slot (TailDesc.mk d).param 96 else pure []) v pd v₂ ∧
    tailCheck ⟨d⟩ ((TailDesc.mk d).src == 0 && rdAt v (pgTile tile) Reg.ACC_SET_PAIRED (TailDesc.mk d).set == 1)
      (pd.map Prod.fst) = none ∧
    ((TailDesc.mk d).update = true → pendingOpen v₂ (updateStep tile h v₂) = true) ∧
    Reads (if (TailDesc.mk d).src = 0 ∨ (TailDesc.mk d).is .split3 then pure f32One
      else readCoarse ⟨pgTile tile, 0⟩ (TailDesc.mk d).srcFmt (fld d 0x18 8) i.slot) v₂ sc v₃ ∧
    Reads (if (TailDesc.mk d).usesAux then readCoarse ⟨pgTile tile, 0⟩ (TailDesc.mk d).auxFmt (fld d 0x40 8) i.slot
      else pure f32One) v₃ ac v₄ ∧
    Reads (if (TailDesc.mk d).is .rowstat || (TailDesc.mk d).is .split3 then pure f32One
      else readCoarse ⟨pgTile tile, 0⟩ (TailDesc.mk d).dstFmt (fld d 0x60 8)
        (if (TailDesc.mk d).update then pendingSlot v else i.slot)) v₄ dc v₅ ∧
    Reads (if (TailDesc.mk d).is .pool then winRead ⟨pgTile tile, 0⟩ i.slot (TailDesc.mk d).param 64 else pure []) v₅ pp y ∧
    ((TailDesc.mk d).is .pool = true → poolCheck (TailDesc.mk d).param (pp.map Prod.fst) = none) ∧
    windowCheck y (pgTile tile) h.mb (tailReads tile h ⟨d⟩ ++
      (if (TailDesc.mk d).is .pool then poolReads ⟨d⟩ (pp.map Prod.fst) else [])) (tailWrites ⟨d⟩ i.stats.isSome) = none ∧
    ((TailDesc.mk d).update = true → noWindow y tile ⟨d⟩ (pd.map Prod.fst) = false)

/-- The checks of a SEND or RECV instruction (R228, R229, R241, R304) hold. -/
structure CopyIssues (u : State) (tile : Nat) (h : Head) (send : Bool) : Prop where
  room : (getTile u tile).copy.length < 4
  bound : MbBound u tile h
  inWell : beyondWell h.a0 (h.a2 * (getChan u tile (bitsOf h.a1 0 6)).slotBytes) = false
  chan : chanCheck u tile (bitsOf h.a1 0 6) send = none
  sends : send = true → CanSend u tile (bitsOf h.a1 0 6) h.a2 ∧ HasCredits u tile (bitsOf h.a1 0 6) h.a2
  windows : windowCheck u (pgTile tile) h.mb
    (if send then [(wellBase tile + h.a0, h.a2 * (getChan u tile (bitsOf h.a1 0 6)).slotBytes)] else [])
    (if send then [] else [(wellBase tile + h.a0, h.a2 * (getChan u tile (bitsOf h.a1 0 6)).slotBytes)]) = none

/-- Operation `o` stands in the tile's array behind those of `x`, and its instruction among the live ones. -/
structure EntersArray (x : State) (tile : Nat) (o : ArrayOp) (t : State) : Prop where
  array : (getTile t tile).array =
    (getTile x tile).array ++ [{ o with owns := !o.loadOnly && setFree x tile o.accSet }]
  live : (getTile t tile).live = (getTile x tile).live ++ [o.ins]
  busy : rd t (pgTile tile) Reg.HA_STATUS_BUSY = 1

/-- Entry `e` stands in the tile's epilogue queue behind those of `x`, and its instruction among the live ones; a set that it
releases is logically free (R182). -/
structure EntersQueue (x : State) (tile : Nat) (e : EpiOp) (t : State) : Prop where
  epi : (getTile t tile).epi = (getTile x tile).epi ++ [e]
  live : (getTile t tile).live = (getTile x tile).live ++ [e.ins]
  release : e.release = true → rdAt t (pgTile tile) Reg.ACC_SET_OWNED (e.set - 1) = 0

/-- The entry of an issued DRAIN (R188). -/
def drainEntry (u : State) (tile : Nat) (d : List Byte) (i : Issued) (c taken : Nat) : EpiOp where
  ins := i
  desc := d
  tail := false
  set := (DrainDesc.mk d).set + 1
  release := (DrainDesc.mk d).release
  paired := rdAt u (pgTile tile) Reg.ACC_SET_PAIRED (DrainDesc.mk d).set == 1
  taken := taken
  coarse := c

/-- The entry of an issued TAIL (R270). -/
def tailEntry (u : State) (tile : Nat) (d : List Byte) (i : Issued) (sc ac dc taken : Nat) : EpiOp where
  ins := i
  desc := d
  tail := true
  set := if (TailDesc.mk d).src = 0 then (TailDesc.mk d).set + 1 else 0
  release := (TailDesc.mk d).src == 0 && (TailDesc.mk d).release
  paired := (TailDesc.mk d).src == 0 && rdAt u (pgTile tile) Reg.ACC_SET_PAIRED (TailDesc.mk d).set == 1
  taken := taken
  coarse := dc
  srcCoarse := sc
  auxCoarse := ac

/-- The fill ring's window is open, its entry `h` is readable, and the main list's head cannot issue, or is a FILL_OFF that
waits for the fill set (R266, R267); the condition of the ORDER bit and checks 1 to 4 hold. -/
structure RingAt (s : State) (tile : Nat) (h : Head) (u : State) : Prop where
  opened : fillOpen s tile = true
  turn : mainCouldIssue tile s = false ∨ fillOffWaits tile s = true
  read : Reads (ringHead tile) s (some h) u
  order : bitOf h.flags 1 = false ∨ liveOf (getTile u tile) h.ring = []
  listed : listChecks u tile h = none

/-- Entry `e` runs next in the epilogue queue, and earlier array operations of its set have written theirs (R197, R285). -/
def EpiFront (s : State) (tile : Nat) (e : EpiOp) : Prop :=
  (getTile s tile).epi.find? (fun e => !e.started) = some e ∧
    (e.set = 0 ∨ (getTile s tile).array.all (fun o =>
      o.done || o.loadOnly || decide (e.ins.seq ≤ o.ins.seq) || o.accSet + 1 != e.set) = true)

/-- The entry of instruction `i` has read its last row. -/
def EpiStarted (t : State) (tile : Nat) (i : Issued) : Prop :=
  ∃ f ∈ (getTile t tile).epi, f.ins = i ∧ f.started = true

/-- None of the slots that an instruction of the tile has sent is still under way. -/
def slotsAccepted (s : State) (tile : Nat) (i : Issued) : Bool :=
  !(s.chanq.any fun m => m.tile == tile && (match m.body with | .data _ _ _ _ op => op == i.seq | _ => false))

/-! ### When a pipeline's or a handpump's descriptor starts (R387, R388, R469) -/

/-- The descriptor that unit `page` would take up at offset `at_` of its program store. -/
def nextDesc (v : State) (page pc at_ n : Nat) (x : Pipe) (mb : List Byte → Nat) (step : Nat) : AtRun where
  desc := storeBytes x.store at_ n
  index := pc
  slot := readSlot v page (mb (storeBytes x.store at_ n))
  sample := sampleBase v page (mb (storeBytes x.store at_ n))
  pass := step
  stats := statsStep v page (mb (storeBytes x.store at_ n)) step

/-- A descriptor's word at `a` has reached `value`, or it names none; `u` is the state once it has been read (R388). -/
def WordMet (w : Who) (v : State) (a value : Nat) (u : State) : Prop :=
  (a = 0 ∧ u = v) ∨ (a ≠ 0 ∧ ∃ n p n' p' x, Reads (busReadNat w a 4) v (n, p) x ∧ value ≤ n ∧
    Reads (busReadNat w a 4) x (n', p') u)

/-- The pipeline of cluster `k` stands in its pass without a descriptor; its next one, `r`, is of a mode that `mine` takes,
bound where it needs a binding, and its word is met. -/
structure AtReady (v : State) (k : Nat) (mine : Nat → Bool) (r : AtRun) (u : State) : Prop where
  inPass : apState v k = 1
  idle : (getPipe v k).run = none
  next : r = nextDesc v (pgAttention k) (rd v (pgAttention k) Reg.AP_PC)
    ((getPipe v k).list + 128 * rd v (pgAttention k) Reg.AP_PC) 128 (getPipe v k) (fun d => bitsOf (fld d 0 4) 0 8)
    (rd v (pgAttention k) Reg.AP_STEP)
  mode : mine r.mode = true
  bound : r.mb = 0xFF ∨ (bindOf v (pgAttention k) r.mb).isSome = true
  met : WordMet (apWho k) v (fld r.desc 0x50 8) (fld r.desc 0x58 4) u

/-- The same of handpump `h`. -/
structure HpReady (v : State) (h : Nat) (mine : Nat → Bool) (r : AtRun) (u : State) : Prop where
  inPass : hpState v h = 1
  idle : (getHp v h).run = none
  next : r = nextDesc v (pgHandpump h) (rd v (pgHandpump h) Reg.HP_PC)
    ((getHp v h).list + 192 * rd v (pgHandpump h) Reg.HP_PC) 192 (getHp v h) (fun d => bitsOf (fld d 0 4) 0 8)
    (rd v (pgHandpump h) Reg.HP_STEP)
  op : mine (HdDesc.mk r.desc).op = true
  bound : (HdDesc.mk r.desc).mb = 0xFF ∨ (bindOf v (pgHandpump h) (HdDesc.mk r.desc).mb).isSome = true
  met : WordMet (hpWho h) v (fld r.desc 8 8) (fld r.desc 4 4) u

/-- The descriptor that the pipeline runs is now `r`. -/
def withRun (k : Nat) (r : AtRun) (u : State) : State := showPipe k (setPipe k { getPipe u k with run := some r } u)

/-- A failure of requester `w` with code `c` has been noted in the order of issue. -/
def noteFailure (w : Who) (c : Nat) (u : State) : State := leaves (noted w (failWith c)) u

/-- The pipeline's command to Wellhead `n` is taken: it is open, enabled and has no other command waiting (R430, R444). -/
def WellheadTakes (u : State) (n : Nat) : Prop :=
  lockState u (pgWellhead n) = 0 ∧ rd u (pgWellhead n) Reg.WH_CTRL_ENABLE ≠ 0 ∧ look [] u.whq n = []

/-! ### When a Wellhead's command succeeds (R435 to R442) -/

/-- The oldest command of Wellhead `n` is `c`, of operation `op`, well formed; `v` is the state once it has left the
queue. -/
structure WhTakes (s : State) (n op : Nat) (c : List Byte) (v : State) : Prop where
  front : ∃ rest, look [] s.whq n = c :: rest ∧
    v = showWellhead n (bump (pgWellhead n) Reg.WH_CMDS 1 { s with whq := put [] s.whq n rest })
  op_ : fld c 0 1 = op
  reserved : bitsOf (fld c 1 1) 1 3 = 0
  aligned : fld c 0x10 8 % 16 = 0

/-- Handle `h` and `serial` name page `i` of the pool of Wellhead `n`, whose entry shows state `st`; `u` is the state once
that has been read (R421, R442). -/
def NamesPage (v : State) (n h serial i st : Nat) (u : State) : Prop :=
  h / 2 ^ 31 % 2 = n ∧ i = h % 2 ^ 23 ∧ i < rd v (pgWellhead n) Reg.WH_POOL ∧
    ∃ w, Reads (ptRead n i 0x0E 2) v serial w ∧ Reads (ptRead n i 0x10 1) w st u

/-- What a command with answer `a` leaves: its record written, `WH_STATUS` in step with the queue and the pool. -/
def whDone (n : Nat) (c : List Byte) (a : WhAnswer) (t : State) : State :=
  showWellhead n (after (whWho n) (showLow n (leaves (writeResult n (fld c 0x10 8) 0 a) t)))

/-- The page of entry `i` goes on with `c` references less one: it stays, drains while it is pinned, or is freed (R436). -/
def RefDropped (n i c pins : Nat) (u t : State) : Prop :=
  ∃ x y, Reads (ptWrite n i 8 4 (c - 1)) u () x ∧ (1 < c → t = x) ∧
    (c ≤ 1 → Reads (ptRead n i 0xC 2) x pins y ∧
      (pins = 0 → Reads (freePage n i) y () t) ∧
      (pins ≠ 0 → ∃ z, Reads (ptWrite n i 0x10 1 2) y () z ∧
        t = wr (pgWellhead n) Reg.WH_DRAINING (rd z (pgWellhead n) Reg.WH_DRAINING + 1) z))

/-! ### When a submission of the Cistern is taken (R561) -/

/-- The submission ring holds entry `d` at its head, readable, and no sample waits; `v` is the state once it has been
taken. -/
def SubEntry (s : State) (d : List Byte) (v : State) : Prop :=
  ciOn s = true ∧ s.cist.waiting = [] ∧ rd s pgCistern Reg.CI_SUB_HEAD ≠ rd s pgCistern Reg.CI_SUB_TAIL ∧
    ∃ b u, Reads (busRead ciWho (rd s pgCistern Reg.CI_SUB_BASE +
        64 * (rd s pgCistern Reg.CI_SUB_HEAD % 2 ^ rd s pgCistern Reg.CI_SUB_CFG_LOG2)) 64) s b u ∧
      d = b.map Prod.fst ∧ v = wr pgCistern Reg.CI_SUB_HEAD (rd s pgCistern Reg.CI_SUB_HEAD + 1) u

/-! ### When memory and pages take an access (R43 to R57, R792, R894) -/

/-- `n` bytes of memory at local address `a` can be accessed by page `page`'s unit, with a request number `ord` in its
order of issue (R54, R57, R631, R792). -/
structure MemoryTakes (s : State) (page ord a n : Nat) : Prop where
  memory : isMemory s a = true
  bytes : 0 < n
  admitted : admitMem s a n = .ok
  awake : gatedCluster s a = none
  turn : behind s page ord a n = false

/-- `n` bytes of registers at BAR0 offset `x` answer a read of page `page`'s unit with `bs` (R52, R57, R758, R792). -/
structure PageReads (s : State) (page x n : Nat) (bs : List Byte) : Prop where
  bytes : 0 < n
  register : regionOf s (regBase + x) = .reg x
  awake : gatedCluster s (regBase + x) = none
  turn : behind s page s.bus.nextOrd (regBase + x) n = false
  answers : regReadBytes s (n + 1) x n = .ok bs

/-- A write of data `d` at BAR0 offset `x`, within the directory or one page, is taken and leaves `t`: the directory
ignores it, a port takes it whole, other registers take it in pieces (R52, R430, R527, R549, R601, R631, R895). -/
def PageTakes (s : State) (x : Nat) (d : List Byte) (t : State) : Prop :=
  d ≠ [] ∧ gatedCluster s (regBase + x) = none ∧
    ((x + d.length ≤ 0x10000 ∧ t = s) ∨
      (0x10000 ≤ x ∧ x % 0x1000 + d.length ≤ 0x1000 ∧ ∃ page, page = (x - 0x10000) / 0x1000 ∧
        pageAnswers s page (x % 0x1000) = .ok ∧ pageAnswers s page (x % 0x1000 + d.length - 1) = .ok ∧
        (((∀ a n, widePort page = some (a, n) → touches (x % 0x1000) d.length a n = false) ∧
            t = regPieces page (d.length + 1) (x % 0x1000) d s) ∨
          (∃ a n, widePort page = some (a, n) ∧ touches (x % 0x1000) d.length a n = true ∧
            (typeOf page = 0x0E ∨ lockState s page = 0) ∧
            (x % 0x1000 = a ∧ d.length = n → portFull s page = false) ∧ t = portWrite page (x % 0x1000) d s))))

/-- A write at BAR0 offset `x` is refused with code `c` (R758, R895). -/
def PageRefuses (s : State) (x : Nat) (d : List Byte) (c : Nat) : Prop :=
  d ≠ [] ∧ gatedCluster s (regBase + x) = none ∧ 0x10000 ≤ x ∧
    pageAnswers s ((x - 0x10000) / 0x1000) (x % 0x1000) = .code c

/-- The next number in the order of issue has been taken. -/
def numbered (s : State) : State := { s with bus := { s.bus with nextOrd := s.bus.nextOrd + 1 } }

/-- The work that ran in `t` carried a slack of its own; it has gone again. -/
def slackOf (s t : State) : State := { t with bus := { t.bus with slack := s.bus.slack } }

/-! ### When a mailbox command returns data (R879 to R881) -/

/-- The result of the running long command waits for its end. -/
def mbResult (code n : Nat) (t : State) : State := after lkWho (modRc (fun r => { r with mbDone := some (code, n) }) t)

/-- The buffer of command `c` has room for `d`, and the write of it has been issued. -/
def Returned (c d : List Byte) (s t : State) : Prop :=
  d.length ≤ mcLen c ∧
    ((mcHost c = true ∧ t = { s with outs := s.outs ++ [.hostWrite (mcAddr c) (clean d) false] }) ∨
      (mcHost c = false ∧ Reads (busWrite lkWho (mcAddr c) (clean d)) s () t))

/-- Data `b` of command `c`, of a length from `least` to `most`, is readable and not poisoned (R879). -/
def Brought (c : List Byte) (least most : Nat) (b : List Byte) (s t : State) : Prop :=
  least ≤ mcLen c ∧ mcLen c ≤ most ∧ ∃ d, b = d.map Prod.fst ∧ d.any Prod.snd = false ∧
    Reads (if mcHost c then hostPieces (splitPages (mcAddr c) (mcLen c)) else busRead lkWho (mcAddr c) (mcLen c)) s d t

/-- A statement over covered bytes, with the signature of the identity key `d` (R842). -/
def signedBy (s : State) (d purpose step arg nonce : Nat) (covered : List Byte) : List Byte :=
  statement s purpose step arg nonce covered ++ ecdsaSign d (sha256 (statement s purpose step arg nonce covered))

/-- The clocks of the page's cluster run. -/
def pageAwake (s : State) (page : Nat) : Prop := ∀ k, clusterOfPage page = some k → look false s.gated k = false

/-! ### When a decision goes out (R325 to R328) -/

/-- From `v` the members beyond the deputy that the readable rank map names are told decision `d`, and it takes effect here. -/
def Told (d : Decision) (v u : State) : Prop :=
  ∃ map x, Reads readMap v map x ∧
    u = applyDecision d (((map.drop 2).filter fun m => m != 0 && m != ownModule x).foldl
      (fun s m => sendDecision d m s) { x with gen := { x.gen with told := true } })

/-- From `v`, whose decision is `d`, it goes to the deputy; to every member where the deputy is locked or there is none. -/
def Published (d : Decision) (v u : State) : Prop :=
  (genSize v ≠ 1 ∧ look false v.link.marks (deputyModule v) = false ∧ u = sendDecision d (deputyModule v) v) ∨
    ((genSize v = 1 ∨ look false v.link.marks (deputyModule v) = true) ∧ Told d v u)

/-! ### Families of commands, for the frames -/

/-- A port, its link layer, or a notice that is passed on. -/
def portCommand : Instr → Bool
  | .laserOk _ | .laserLoss _ | .portTuneDone _ | .portTrainDone _ | .portAlignDone _ | .hello _ _ _ _ _ _
  | .grant _ _ _ | .idleFlit _ _ _ _ | .dataFlit _ _ _ _ | .nakReplay _ _ _ _ | .swap _ _ _ _ _
  | .swapDone _ _ _ _ | .spareW8Lock _ | .laneFail _ _ | .peerFlitTimeout _ | .portRetrain _ | .portEnable _ _
  | .releaseNotice _ _ _ | .klRtData _ => true
  | _ => false

/-- The keyring, the debug port or the SPDM responder. -/
def trustCommand : Instr → Bool
  | .keyringSign _ | .keyringPublicKey | .keyringRandom _ | .keyringEcdhe _ | .debugChallenge | .debugAuth _ _
  | .debugChallengeExpiry | .getVersion | .getCapabilities | .negotiateAlgorithms _ | .getDigests
  | .getCertificate _ _ _ | .challenge _ _ | .getMeasurements _ _ _ | .keyExchange _ _ _ | .finish _ _
  | .keyUpdate _ | .endSession _ | .heartbeat _ => true
  | _ => false

/-- A Wellhead. -/
def wellheadCommand : Instr → Bool
  | .whCmdPortWrite _ _ _ | .alloc _ | .freePage _ | .share _ | .cow _ | .pin _ | .unpin _ | .insert _
  | .lookup _ | .evict _ => true
  | _ => false

/-- A video decoder or encoder. -/
def mediaCommand : Instr → Bool
  | .vdJobSubmit _ _ _ | .vdJobStart _ | .vdPictureDecode _ _ | .vdFrameEntry _ | .vdRelease _ _
  | .veJobSubmit _ _ _ | .veJobStart _ | .veFrameEncode _ _ | .veResult _ => true
  | _ => false

/-- An attention pipeline or a Handpump. -/
def passCommand : Instr → Bool
  | .apStart _ | .apStop _ | .atForward _ | .atBackward _ | .atPass _ | .atDescComplete _ _ | .atWaitPoll _
  | .hpStart _ | .hpStop _ | .conv _ | .crop _ | .wgrad _ | .hdDescComplete _ _ | .hdWaitPoll _ => true
  | _ => false

/-- A Pump with its packer. -/
def pumpCommand : Instr → Bool
  | .pmSubmit _ _ _ | .pumpCopy _ _ | .pumpConvert _ _ | .pumpStream _ _ | .streamPoll _ _ | .streamRecord _ _
  | .pumpDescComplete _ _ | .unpack _ | .packStart _ | .packBody _ | .packHeaderValid _ | .packComplete _ => true
  | _ => false

/-- A tile's array or epilogue, once its instruction has been issued. -/
def arrayCommand : Instr → Bool
  | .stationaryLoad _ | .vectorEntry _ _ | .arrayOpComplete _ _ | .drainStart _ | .setRelease _
  | .drainComplete _ _ | .tailComplete _ _ => true
  | _ => false

/-- The Cistern. -/
def cisternCommand : Instr → Bool
  | .ciSetAug | .ciSensor | .ciPad | .ciDecode | .ciCopy | .ciDispatch | .ciFrameEntry _ _
  | .tfFrameTransform _ | .ciBudgetExpiry _ _ | .ciBatchRelease | .ciReturn _ _ | .cursorRecordStep
  | .ssTailAdvance _ _ => true
  | _ => false

/-- A command that neither reads nor writes wells or GDDR7. -/
def noMemory : Instr → Bool
  | .haSpareWrite _ _ _ _ | .spareMapApply _ _ | .haTestStart _ _ | .haSelfTestDone _ _ _ _ | .setRelease _
  | .clArithUpdate _ | .monArithUpdate | .mainListPassBegin _ | .schedStop _ | .channelReopen _ _
  | .mbBind _ _ _ | .bindingCopy _ _ | .decisionResend | .apStart _ | .apStop _ | .hpStart _ | .hpStop _
  | .rngProbe _ | .lmLossIn _ _ | .tailNonfiniteRollup _ | .vdJobSubmit _ _ _ | .vdJobStart _ | .vdRelease _ _
  | .veJobStart _ | .ciReturn _ _ | .pmSubmit _ _ _ | .arbGrant _ _ | .migrationDone | .portEnable _ _
  | .laserLoss _ | .laserOk _ | .portTuneDone _ | .portTrainDone _ | .portAlignDone _ | .hello _ _ _ _ _ _
  | .grant _ _ _ | .dataFlit _ _ _ _ | .idleFlit _ _ _ _ | .nakReplay _ _ _ _ | .swap _ _ _ _ _
  | .swapDone _ _ _ _ | .laneFail _ _ | .peerFlitTimeout _ | .portRetrain _ | .responseArrival _ _ _ _ _
  | .requestTimeout _ | .klRtData _ | .releaseNotice _ _ _ | .twinForwardFail _ _ _ _ | .lkHeartbeat _
  | .clTileMapWrite _ _ _ | .substitutionApply _ | .clusterGate _ | .markerGo | .markerLatch _
  | .markerWaveComplete | .lifeSample | .lifeSummaryWrite | .journalAppend | .keyringSign _ | .keyringEcdhe _
  | .keyringRandom _ | .keyringPublicKey | .getVersion | .getCapabilities | .negotiateAlgorithms _
  | .getDigests | .getCertificate _ _ _ | .challenge _ _ | .getMeasurements _ _ _ | .keyExchange _ _ _
  | .finish _ _ | .heartbeat _ | .keyUpdate _ | .endSession _ | .debugChallenge | .debugAuth _ _
  | .debugChallengeExpiry | .hostCplTimeout _ _ | .doorbell _ _ | .wrEnable _ _ | .hiVmapData _ | .getStatus
  | .readSensors | .mailboxLongDone | .smbusRequest _ _ | .intTest _ | .powerFail | .overcurrentTrip
  | .powerInterval _ _ _ _ _ _ | .pwCapWrite _ | .configurationRequest _ | .hostCompletion _ _ _
  | .msixTableWrite _ _ | .spareW8Lock _ => true
  | _ => false

end Sys2Proof.Machine
end

