-- ==== Sys2Proof/Certificates/Slice0/Obligations.lean ====
section
/-! DEFINITION. The statements for the provers. -/

open Sys2Proof Sys2Proof.Machine

/-- The queue is first in, first out, and an empty one idles; both are the model's choice (log 2, 7, 8), no rule of the
spec. -/
def Obligations.step_runs_front : Prop :=
  ∀ (s : State),
    (∀ c cs, step { s with pending := c :: cs } = exec c { s with pending := cs }) ∧
    (∀ c, step { s with pending := c :: s.pending } = exec c s) ∧
    (∀ nbits w c, decodeTableWord nbits w = some c → step (s.withFetchWord nbits w) = exec c s) ∧
    (s.pending = [] → step s = .next s)

/-- The Reset column gives every field's value after cold power-up (R11); unwritten memory has no valid bit (R627). -/
def Obligations.reset_state : Prop :=
  (∀ page f i, rdAt State.reset page f i = f.rst) ∧
  (∀ a, cellAt State.reset a = 0 ∧ isValid State.reset a = false ∧ isPoisoned State.reset a = false) ∧
  (∀ page, lockState State.reset page = 0 ∧ lockOwn State.reset page = false) ∧
  (∀ n, look {} State.reset.tiles n = {} ∧ look {} State.reset.pumps n = {} ∧ look {} State.reset.pipes n = {} ∧
    look {} State.reset.reds n = {}) ∧
  State.reset.bus.outstanding = [] ∧ State.reset.bus.arrived = [] ∧ State.reset.bus.regq = [] ∧
  State.reset.bus.adds = [] ∧ State.reset.bus.held = [] ∧ State.reset.retention = [] ∧ State.reset.chanq = [] ∧ State.reset.latched = [] ∧ State.reset.outs = [] ∧
  State.reset.pending = [] ∧ State.reset.powered = true ∧ State.reset.canonical = true

/-- R906: the module stops at once, and the next start is a cold power-up. -/
def Obligations.unpowered_module_is_inert : Prop :=
  ∀ (s : State),
    (s.powered = false → ∀ c, (∀ failed, c ≠ .coldPowerUp failed) → exec c s = .next s) ∧
    (s.powered = true → exec .powerFail s = .next { s with powered := false } ∧
      exec .overcurrentTrip s = .next { s with powered := false }) ∧
    (∀ failed, ∃ t, exec (.coldPowerUp failed) s = .next t ∧ t.powered = true ∧ t.pending = s.pending ∧
      s.outs <+: t.outs)

/-- Equal memories are equal data after every command, in every state, reachable or not. -/
def Obligations.step_keeps_canonical : Prop :=
  ∀ (s t : State), s.canonical = true → step s = .next t → t.canonical = true

/-- Every step goes on; nothing sent is taken back, no free value is drawn twice, the strap of the board is fixed. -/
def Obligations.step_keeps_history : Prop :=
  ∀ (s : State), ∃ t, step s = .next t ∧ s.outs <+: t.outs ∧ t.pending = s.pending.tail ∧ s.drawn ≤ t.drawn ∧
    t.rc.extended = s.rc.extended

/-- The access codes of R10 and the counters of R106. -/
def Obligations.register_fields : Prop :=
  ∀ (s : State) (page : Nat) (w : FieldWrite),
    (∀ f i v, rdAt (wrAt page f i v s) page f i = v % 2 ^ f.w ∧
      (∀ page' g j, g.key page' j ≠ f.key page i → rdAt (wrAt page f i v s) page' g j = rdAt s page' g j)) ∧
    (∀ f i n, rdAt (addAt page f i n s) page f i = min (rdAt s page f i + n) (2 ^ f.w - 1)) ∧
    (w.f.acc = .ro → plainWrite page w s = s) ∧
    (w.f.acc = .rw ∨ w.f.acc = .rws → guarded s page w.f = false →
      rdAt (plainWrite page w s) page w.f w.i = w.new % 2 ^ w.f.w) ∧
    (w.f.acc = .rw ∨ w.f.acc = .rws → guarded s page w.f = true → plainWrite page w s = s) ∧
    (w.f.acc = .w1c → w.old < 2 ^ w.f.w → ∀ b, b < w.f.w →
      bitOf (rdAt (plainWrite page w s) page w.f w.i) b = (bitOf w.old b && !bitOf w.ones b)) ∧
    (∀ page' g j, g.key page' j ≠ w.f.key page w.i → rdAt (plainWrite page w s) page' g j = rdAt s page' g j)

/-- R106. -/
def Obligations.counters_saturate : Prop :=
  ∀ (s : State) (page : Nat) (f : Field) (i n : Nat),
    (f.w = 32 → rdAt s page f i ≤ 0xFFFF_FFFF →
      rdAt (addAt page f i n s) page f i = min (rdAt s page f i + n) 0xFFFF_FFFF ∧
      rdAt s page f i ≤ rdAt (addAt page f i n s) page f i) ∧
    (f.w = 64 → rdAt s page f i ≤ 0xFFFF_FFFF_FFFF_FFFF →
      rdAt (addAt page f i n s) page f i = min (rdAt s page f i + n) 0xFFFF_FFFF_FFFF_FFFF ∧
      rdAt s page f i ≤ rdAt (addAt page f i n s) page f i)

/-- R891, R901 and R877. -/
def Obligations.errors_and_events : Prop :=
  ∀ (s : State) (page : Nat), page < pageCount →
    (∀ code tag, code < 2 ^ 16 →
      rd (logErr page code tag s) page Reg.PAGE_ERR_COUNT = min (rd s page Reg.PAGE_ERR_COUNT + 1) (2 ^ 32 - 1) ∧
      rdAt (logErr page code tag s) page Reg.PAGE_ERR_LOG (rd (logErr page code tag s) page Reg.PAGE_ERR_COUNT % 4) =
        code + tag % 2 ^ 16 * 2 ^ 16 + rd (logErr page code tag s) page Reg.PAGE_ERR_COUNT * 2 ^ 32 ∧
      bitOf (rd (logErr page code tag s) page Reg.PAGE_INT_STATUS) 0 = true) ∧
    (∀ b, b < 32 → rd s page Reg.PAGE_INT_STATUS < 2 ^ 32 → ∀ j, j < 32 →
      bitOf (rd (raiseBit page b s) page Reg.PAGE_INT_STATUS) j = (bitOf (rd s page Reg.PAGE_INT_STATUS) j || j == b)) ∧
    (∀ b, bitOf (rd s page Reg.PAGE_INT_STATUS) b = true → raiseBit page b s = s) ∧
    (∀ b, bitOf (rd s page Reg.PAGE_INT_STATUS) b = false → bitOf (rd s page Reg.PAGE_INT_ENABLE) b = false →
      raiseBit page b s = wr page Reg.PAGE_INT_STATUS (rd s page Reg.PAGE_INT_STATUS + 2 ^ b) s) ∧
    (∀ b, bitOf (rd s page Reg.PAGE_INT_STATUS) b = false → bitOf (rd s page Reg.PAGE_INT_ENABLE) b = true →
      raiseBit page b s =
        deliverEvent page (wr page Reg.PAGE_INT_STATUS (rd s page Reg.PAGE_INT_STATUS + 2 ^ b) s)) ∧
    (∀ v, (look {} s.host.msix v).masked = false →
      signalVector v s = { s with outs := s.outs ++ [.msix v (look {} s.host.msix v).addr (look {} s.host.msix v).data] }) ∧
    (∀ v, (look {} s.host.msix v).masked = true →
      (look {} (signalVector v s).host.msix v).pend = true ∧ (signalVector v s).outs = s.outs)

/-- What a write of memory stores, and the frame of MEMORY_WRITE: every byte outside the written range (R621, R629). -/
def Obligations.memory_reads_what_was_written : Prop :=
  ∀ (s : State) (a : Nat) (data : List PByte), data ≠ [] →
    (a / 64 = (a + data.length - 1) / 64 → (∀ w, w / 8 = a / 64 → flipsOf s w = 0) →
      (cellsAt (writeUnit a data s) a data.length = data.map Prod.fst) ∧
      (data.length = 64 → isPoisoned (writeUnit a data s) (a / 64) = data.any Prod.snd) ∧
      (data.length ≠ 64 → isPoisoned (writeUnit a data s) (a / 64) = (isPoisoned s (a / 64) || data.any Prod.snd)) ∧
      (regionOf s a = .well (a / 0x200000) (a % 0x200000) → isValid (writeUnit a data s) a = true ∧
        (readUnit a data.length (writeUnit a data s)).1 =
          data.map fun b => (b.1, isPoisoned (writeUnit a data s) (a / 64)))) ∧
    ((∀ w, a / 64 ≤ w / 8 → w / 8 ≤ (a + data.length - 1) / 64 → flipsOf s w = 0) →
      ∀ b, b < a ∨ a + data.length ≤ b → cellAt (memWrite a data s) b = cellAt s b)

/-- R628: the zero bytes, and that nothing is read (no counter of the memory moves). -/
def Obligations.unwritten_memory_reads_zero : Prop :=
  ∀ (s : State) (a n : Nat), isValid s a = false → readUnit a n s = (List.replicate n (0, false), s)

/-- R664: header and data in consecutive flits. -/
def Obligations.packets_travel_whole : Prop :=
  ∀ (p : Packet) (pad : List Byte), p.type < 2 ^ 8 → p.hops < 2 ^ 8 → p.dst < 2 ^ 16 → p.src < 2 ^ 16 → p.len < 2 ^ 16 →
    p.addr < 2 ^ 64 → p.tag < 2 ^ 32 → p.slack < 2 ^ 32 → p.poison < 2 ^ 64 → p.data.length = carried p.type p.len →
    parsePacket (packetBytes p ++ pad) = p ∧
    (∀ vc (rest : List RxFlit) (q : Port), p.len ≤ 4096 →
      frontPacket { q with rx := (packetFlits vc p).map (fun f => ⟨f.vc, f.sop, padTo 240 f.payload⟩) ++ rest } vc =
        .packet p (flitsOf p.type p.len) ∧
      dropFlits vc (flitsOf p.type p.len) ((packetFlits vc p).map (fun f => ⟨f.vc, f.sop, padTo 240 f.payload⟩) ++ rest) = rest)

/-- LASER_OK, LASER_LOSS, PORT_TUNE_DONE, PORT_TRAIN_DONE, PORT_ALIGN_DONE complete with these states (R654, R669, R672).
LANE_FAIL, SWAP, SPARE_W8_LOCK and SWAP_DONE complete with these states (R673 to R675). -/
def Obligations.port_lanes : Prop :=
  (∀ (s : State) (n : Nat), s.powered = true → n < 32 →
      (portState s n = 1 → exec (.laserOk n) s = .next (setPortState n 2 (wr (pgPort n) Reg.KP_STATUS_LASER 1 s))) ∧
      (portState s n ≠ 0 → portState s n ≠ 8 → exec (.laserLoss n) s =
        .next (raiseBit (pgPort n) 7 (setPortState n 1 (clearPort n (wr (pgPort n) Reg.KP_STATUS_LASER 0 s))))) ∧
      (portState s n = 0 ∨ portState s n = 8 → exec (.laserLoss n) s =
        .next (raiseBit (pgPort n) 7 (wr (pgPort n) Reg.KP_STATUS_LASER 0 s))) ∧
      (portState s n = 2 → exec (.portTuneDone n) s = .next (setPortState n 3 s)) ∧
      (portState s n = 3 → exec (.portTrainDone n) s = .next (setPortState n 4 s)) ∧
      (portState s n = 4 → exec (.portAlignDone n) s =
        .next (sendGrant n (sendHello n (setPortState n 5 (clearPort n s)))))) ∧
  (∀ (s : State) (n : Nat), s.powered = true → n < 32 → portState s n = 6 →
      (∀ lane, rd s (pgPort n) Reg.KP_LANE_MAP_RX = 0xF → (getPort s n).failing = 0 → exec (.laneFail n lane) s =
        .next (emitLink n false 1 (leBytes 1 lane)
          (setPort n { getPort s n with failing := lane % 8 + 1, discarding := true } s))) ∧
      (∀ lane, rd s (pgPort n) Reg.KP_LANE_MAP_RX ≠ 0xF ∨ (getPort s n).failing ≠ 0 →
        exec (.laneFail n lane) s = .next (goDown n s)) ∧
      (∀ ack vc cr lane, rd s (pgPort n) Reg.KP_LANE_MAP_TX = 0xF → exec (.swap n ack vc cr lane) s =
        .next (recordSwitch n (wr (pgPort n) Reg.KP_LANE_MAP_TX (lane % 8)
          (setPort n { getPort (takeFlit n ack vc cr s) n with paused := true } (takeFlit n ack vc cr s))))) ∧
      (∀ ack vc cr lane, rd s (pgPort n) Reg.KP_LANE_MAP_TX ≠ 0xF →
        exec (.swap n ack vc cr lane) s = .next (goDown n (takeFlit n ack vc cr s))) ∧
      ((getPort s n).failing ≠ 0 → exec (.spareW8Lock n) s =
        .next (askReplay n (emitLink n false 2 [] (recordSwitch n (setPort n { getPort s n with failing := 0 }
          (wr (pgPort n) Reg.KP_LANE_MAP_RX ((getPort s n).failing - 1) s)))))) ∧
      (∀ ack vc cr, exec (.swapDone n ack vc cr) s =
        .next (setPort n { getPort (takeFlit n ack vc cr s) n with paused := false } (takeFlit n ack vc cr s)))) ∧
  (∀ (s : State) (n seq ctl vc cr : Nat) (payload : List Byte), n < 32 →
      (∃ wave bytes, (emitFlit n seq ctl vc cr payload s).outs = s.outs ++ [.flit n ((getPort s n).sent % 8) wave bytes]) ∧
      (getPort (emitFlit n seq ctl vc cr payload s) n).sent = (getPort s n).sent + 1)

/-- HELLO, GRANT, IDLE_FLIT, DATA_FLIT, NAK_REPLAY, PEER_FLIT_TIMEOUT, PORT_RETRAIN and PORT_ENABLE complete with these
states (R659 to R672). -/
def Obligations.port_link : Prop :=
  ∀ (s : State) (n : Nat), s.powered = true → n < 32 →
    (∀ ack vc cr m p u, portState s n = 5 →
      u = wr (pgPort n) Reg.KP_PEER_VALID 1 (wr (pgPort n) Reg.KP_PEER_MODULE m
        (wr (pgPort n) Reg.KP_PEER_PORT p (takeFlit n ack vc cr s))) →
      exec (.hello n ack vc cr m p) s = .next (tryUp n (setPort n { getPort (takeFlit n ack vc cr s) n with greeted := true } u))) ∧
    (∀ ack cs, portState s n = 5 → exec (.grant n ack cs) s =
      .next (tryUp n (setPort n { getPort (takeFlit n ack 0 0 s) n with
        credits := (List.range 8).foldl (fun m i => put 0 m i (cs.getD i 0)) [], granted := true } (takeFlit n ack 0 0 s)))) ∧
    (∀ ack vc cr, portState s n = 5 ∨ portState s n = 6 → exec (.idleFlit n ack vc cr) s =
      .next (sendWaiting n (takeFlit n ack vc cr s))) ∧
    (∀ (bs : List Byte) (corrected : Nat), portState s n = 6 → bs.length = 256 →
      leNat (bs.drop 0xFC) = crc32 (bs.take 0xFC) → leNat (bs.take 2) = ((getPort s n).rxSeq + 1) % 2 ^ 16 →
      ∃ t, exec (.dataFlit n bs false corrected) s = .next (sendWaiting n t) ∧
        (getPort t n).rxSeq = leNat (bs.take 2) ∧
        (getPort t n).rx = (getPort s n).rx ++ [⟨leNat ((bs.drop 4).take 4) % 8, bitOf (leNat ((bs.drop 4).take 4)) 4,
          (bs.drop 8).take 240⟩] ∧
        (getPort t n).unacked = ackThrough (leNat ((bs.drop 2).take 2)) (getPort s n).unacked) ∧
    (∀ (bs : List Byte) (bad : Bool) (corrected : Nat), portState s n = 6 →
      bad = true ∨ bs.length ≠ 256 ∨ leNat (bs.drop 0xFC) ≠ crc32 (bs.take 0xFC) →
      ∃ t u, exec (.dataFlit n bs bad corrected) s = .next t ∧ t = askReplay n u ∧
        (getPort u n).rx = (getPort s n).rx ∧ (getPort u n).rxSeq = (getPort s n).rxSeq ∧
        (getPort u n).unacked = (getPort s n).unacked ∧ (getPort t n).discarding = true) ∧
    (∀ ack vc cr, portState s n = 6 →
      (ackThrough ack (getPort s n).unacked = [] →
        exec (.nakReplay n ack vc cr) s = .next (sendWaiting n (takeFlit n ack vc cr s))) ∧
      (ackThrough ack (getPort s n).unacked ≠ [] →
        ((∃ f ∈ ackThrough ack (getPort s n).unacked, 8 ≤ f.replays) →
          exec (.nakReplay n ack vc cr) s = .next (goDown n (takeFlit n ack vc cr s))) ∧
        ((∀ f ∈ ackThrough ack (getPort s n).unacked, f.replays < 8) →
          ∃ t, (getPort t n).unacked = (ackThrough ack (getPort s n).unacked).map (fun f => { f with replays := f.replays + 1 }) ∧
            exec (.nakReplay n ack vc cr) s = .next
              (if (getPort s n).paused then t else sendWaiting n (resend n (getPort t n).unacked t))))) ∧
    (portState s n = 5 ∨ portState s n = 6 → exec (.peerFlitTimeout n) s = .next (goDown n s)) ∧
    (portState s n ≠ 0 → portState s n ≠ 7 → portState s n ≠ 8 → exec (.portRetrain n) s = .next (goDown n s)) ∧
    (∀ on, isSet s (pgPort n) Reg.KP_CTRL_ENABLE ≠ on →
      ∃ t, t = wr (pgPort n) Reg.KP_CTRL_ENABLE (natOf on) s ∧
        (portState s n = 8 → exec (.portEnable n on) s = .next t) ∧
        (on = true → portState s n = 0 → exec (.portEnable n on) s =
          .next (setPortState n (if isSet t (pgPort n) Reg.KP_STATUS_LASER then 2 else 1) t)) ∧
        (on = false → portState s n ≠ 8 → exec (.portEnable n on) s = .next (setPortState n 0 (clearPort n t))))

/-- KL_RT_DATA, LOCK_NOTICE, RELEASE_NOTICE, RESPONSE_ARRIVAL and REQUEST_TIMEOUT complete with these states. -/
def Obligations.routing_and_notices : Prop :=
  ∀ (s : State), s.powered = true →
    (∀ mask, ∃ t, exec (.klRtData mask) s = .next t ∧
      t.link.routes = put 0 s.link.routes (rd s (pgHub 0) Reg.KL_RT_INDEX) (mask % 2 ^ 32) ∧
      rd t (pgHub 0) Reg.KL_RT_INDEX = (rd s (pgHub 0) Reg.KL_RT_INDEX + 1) % 2 ^ 16) ∧
    (∀ port m hops u, noticeApplies s m true = true →
      u = settleRuns (noticeToFill m (redNotice (markLocked port m hops s))) →
      (currentStep u = none ∨ u.gen.aborting.isSome = true ∨ m = 0 →
        exec (.lockNotice port m hops) s = .next (after genWho u)) ∧
      (∀ step d, currentStep u = some step → u.gen.aborting = none → m ≠ 0 →
        d = { step := step, commit := false, cause := 0x0624, rank := 0 } →
        (genRank u = 0 →
          (∀ map v, u.gen.decision = none → Reads readMap u map v →
            (m ∉ map → exec (.lockNotice port m hops) s = .next (after genWho v)) ∧
            (∀ r x, map.findIdx? (· == m) = some r → genRank v = 0 → v.gen.decision = none → currentStep v = some step →
              v.gen.aborting = none →
              Published { d with rank := r } { v with gen := { v.gen with decision := some { d with rank := r } } } x →
              exec (.lockNotice port m hops) s = .next (after genWho x))) ∧
          (∀ h, u.gen.decision = some h →
            (∀ x, u.gen.told = false → 1 < genSize u → m = deputyModule u → Told h u x →
              exec (.lockNotice port m hops) s = .next (after genWho x)) ∧
            (u.gen.told = true ∨ genSize u ≤ 1 ∨ m ≠ deputyModule u →
              exec (.lockNotice port m hops) s = .next (after genWho u)))) ∧
        (genRank u ≠ 0 → ∀ off, off = (m == coordModule u || (m == deputyModule u && look false u.link.marks (coordModule u))) →
          (off = false → exec (.lockNotice port m hops) s = .next (after genWho u)) ∧
          (off = true → isDeputy u = true →
            (step ∈ u.gen.cut → exec (.lockNotice port m hops) s = .next (after genWho (enterDoubt u))) ∧
            (∀ map v, step ∉ u.gen.cut → Reads readMap u map v → exec (.lockNotice port m hops) s =
              .next (after genWho ((map.eraseDups.filter fun m => m != 0 && m != ownModule v).foldl
                (fun s m => sendDecision d m s) (applyDecision d v))))) ∧
          (off = true → isDeputy u = false →
            (look false u.link.marks (deputyModule u) = true →
              exec (.lockNotice port m hops) s = .next (after genWho (enterDoubt u))) ∧
            (look false u.link.marks (deputyModule u) = false →
              exec (.lockNotice port m hops) s = .next (after genWho (sendMessage pgGeneration 0x06 (deputyModule u)
                (controlData step 0 0 (genRank u) 0) u))))))) ∧
    (∀ port m hops, noticeApplies s m false = true → exec (.releaseNotice port m hops) s =
      .next (forwardNotice 9 m hops port (noteNotice m true
        { s with link := { s.link with marks := put false s.link.marks m false } }))) ∧
    (∀ port tag code data poison, port < 32 →
      (∀ o, s.bus.outstanding.find? (fun o => o.tag == tag && !o.host) = some o → o.stale = false →
        exec (.responseArrival port tag code data poison) s =
          .next (settleRuns (completeRequest o code (if code = 0 then withPoison o.addr poison data else []) s))) ∧
      (s.bus.outstanding.find? (fun o => o.tag == tag && !o.host) = none →
        exec (.responseArrival port tag code data poison) s = .next (settleRuns (bump (pgPort port) Reg.KP_STRAY 1 s)))) ∧
    (∀ tag, rd s (pgHub 0) Reg.KL_REQ_TIMEOUT ≠ 0 → exec (.requestTimeout tag) s =
      .next (settleRuns (failRequests (fun o => o.tag == tag && !o.host) 0x0404 s)))

/-- PACKET_ARRIVAL completes with these states. -/
def Obligations.packets : Prop :=
  ∀ (s : State) (n vc k : Nat) (p : Packet), s.powered = true → n < 32 → vc < 8 → portState s n = 6 →
    frontPacket (getPort s n) vc = .packet p k →
    (badPacket p = true → exec (.packetArrival n vc) s =
      .next (bump (pgPort n) Reg.KP_BAD_PACKETS 1 (freeFlits n vc k s))) ∧
    (badPacket p = false → p.dst ≠ ownModule s → isNotice p = false →
      exec (.packetArrival n vc) s =
        .next (settleRuns (after (packetWho n p) (freeFlits n vc k (forwardPacket n vc p s))))) ∧
    (badPacket p = false → p.dst = ownModule s →
      (∀ u, u = reachOwner (pgPort n) (localOf p.addr) s →
        (p.type = 1 → MemoryTakes u (pgPort n) u.bus.nextOrd (localOf p.addr) p.len →
          exec (.packetArrival n vc) s = .next (settleRuns (after (packetWho n p) (freeFlits n vc k
            (sendResponse p.src p.tag 0 (memRead (localOf p.addr) p.len u).1
              (poisonMask p.addr (memRead (localOf p.addr) p.len u).1) (memRead (localOf p.addr) p.len u).2))))) ∧
        (p.type = 2 → MemoryTakes u (pgPort n) u.bus.nextOrd (localOf p.addr) p.data.length →
          writeHeld u (localOf p.addr) p.data.length = false →
          exec (.packetArrival n vc) s = .next (settleRuns (after (packetWho n p) (freeFlits n vc k
            (sendResponse p.src p.tag 0 [] 0
              (memWrite (localOf p.addr) (withPoison p.addr p.poison p.data) (numbered u))))))) ∧
        (∀ x t, p.type = 2 → regionOf u (localOf p.addr) = .reg x →
          behind u (pgPort n) u.bus.nextOrd (localOf p.addr) p.data.length = false → PageTakes u x p.data t →
          exec (.packetArrival n vc) s = .next (settleRuns (after (packetWho n p) (freeFlits n vc k
            (sendResponse p.src p.tag 0 [] 0 t))))) ∧
        (p.type = 3 → exec (.packetArrival n vc) s = .next (settleRuns (after (packetWho n p) (freeFlits n vc k
          (pushAdd ⟨pgPort n, p.tag⟩ (localOf p.addr) (leNat (p.data.take 4)) (some (p.src, p.tag)) u)))))) ∧
      (p.type = 4 → exec (.packetArrival n vc) s = .next (settleRuns (after (packetWho n p) (freeFlits n vc k
        (responseArrives n p.tag (p.addr % 2 ^ 16) p.data p.poison s))))) ∧
      (p.type = 5 → p.addr ∈ [1, 2, 5] → currentStep s ≠ some (fld p.data 0 4) →
        exec (.packetArrival n vc) s = .next (settleRuns (after (packetWho n p) (freeFlits n vc k (stray s)))))) ∧
    (badPacket p = false → p.type = 5 → p.dst = 0xFFFF → p.addr = 9 →
      exec (.packetArrival n vc) s = .next (settleRuns (after (packetWho n p) (freeFlits n vc k
        (releaseNotice n (fld p.data 0 2) p.hops s)))))

/-- REQUEST_ISSUE, MEMORY_READ, MEMORY_WRITE and ARB_GRANT complete with these states. The numbers of the arbitration
points are the model's (log 71), as is that a write which waits is taken over by the fabric (log 72). -/
def Obligations.fabric_requests : Prop :=
  ∀ (s : State), s.powered = true →
    (∀ page sub a n data poison slack,
      (moduleOf a = 0xFFFF → exec (.requestIssue page sub .read a n data poison slack) s =
        .next (deliver ⟨page, sub⟩ a n 0x0202 [] s)) ∧
      (isLocal s a = true → moduleOf a ≠ 0xFFFF → ∀ u, u = reachOwner page a s →
        (MemoryTakes u page u.bus.nextOrd (localOf a) n → exec (.requestIssue page sub .read a n data poison slack) s =
          .next (deliver ⟨page, sub⟩ a n 0 (memRead (localOf a) n u).1 (memRead (localOf a) n u).2)) ∧
        (∀ x bs, localOf a = regBase + x → PageReads u page x n bs →
          exec (.requestIssue page sub .read a n data poison slack) s = .next (deliver ⟨page, sub⟩ a n 0 (clean bs) u))) ∧
      (isLocal s a = false → moduleOf a ≠ 0xFFFF → behind s page s.bus.nextOrd a n = false →
        exec (.requestIssue page sub .read a n data poison slack) s =
          .next (issuePieces ⟨page, sub⟩ slack (splitPages a n) s))) ∧
    (∀ page sub a n data poison slack v, data ≠ [] →
      v = { numbered s with bus := { (numbered s).bus with slack := slack + 1 } } →
      (moduleOf a = 0xFFFF → exec (.requestIssue page sub .write a n data poison slack) s =
        .next (noteWriteErr ⟨page, sub⟩ s.bus.nextOrd 0x0202 (numbered s))) ∧
      (isLocal s a = true → moduleOf a ≠ 0xFFFF →
        (MemoryTakes (reachOwner page a v) page s.bus.nextOrd (localOf a) data.length →
          (writeHeld (reachOwner page a v) (localOf a) data.length = false →
            exec (.requestIssue page sub .write a n data poison slack) s =
              .next (slackOf s (memWrite (localOf a) (withPoison a poison data) (reachOwner page a v)))) ∧
          (writeHeld (reachOwner page a v) (localOf a) data.length = true →
            exec (.requestIssue page sub .write a n data poison slack) s =
              .next (slackOf s (holdWrite ⟨page, sub⟩ s.bus.nextOrd a (withPoison a poison data) (reachOwner page a v))))) ∧
        (∀ x u, u = reachOwner page a v → regionOf u (localOf a) = .reg x → 0x10000 ≤ x →
          pageAnswers u ((x - 0x10000) / 0x1000) ((x - 0x10000) % 0x1000) = .ok →
          exec (.requestIssue page sub .write a n data poison slack) s = .next (slackOf s { u with bus := { u.bus with
            regq := u.bus.regq ++ [{ who := ⟨page, sub⟩, off := x, data := data, ord := s.bus.nextOrd }] } }))) ∧
      (∀ port, isLocal s a = false → moduleOf a ≠ 0xFFFF → behind s page s.bus.nextOrd a data.length = false →
        a % 4096 + data.length ≤ 4096 → routeSelect s (moduleOf a) (requestHash (localOf a) page) = .ok port →
        ∃ t, sendRequest ⟨page, sub⟩ .write s.bus.nextOrd a data.length (withPoison a poison data) slack v = .ok t ∧
          exec (.requestIssue page sub .write a n data poison slack) s = .next (slackOf s t))) ∧
    (∀ page sub a n data poison slack, exec (.requestIssue page sub .atomic a n data poison slack) s =
      .next (pushAdd ⟨page, sub⟩ a (leNat data) none s)) ∧
    (∀ page a n us u, a < 2 ^ 48 → u = reachOwner page a (upset us s) → isMemory s a = true →
      MemoryTakes u page u.bus.nextOrd a n →
      exec (.memoryRead page a n us) s = .next (deliver ⟨page, 0⟩ a n 0 (memRead a n u).1 (memRead a n u).2)) ∧
    (∀ page a data poison v, a < 2 ^ 48 → data ≠ [] → isMemory s a = true →
      v = { numbered s with bus := { (numbered s).bus with slack := bestEffortSlack s + 1 } } →
      MemoryTakes (reachOwner page a v) page s.bus.nextOrd a data.length →
      (writeHeld (reachOwner page a v) a data.length = false → exec (.memoryWrite page a data poison) s =
        .next (slackOf s (memWrite a (withPoison a poison data) (reachOwner page a v)))) ∧
      (writeHeld (reachOwner page a v) a data.length = true → exec (.memoryWrite page a data poison) s =
        .next (slackOf s (holdWrite ⟨page, 0⟩ s.bus.nextOrd a (withPoison a poison data) (reachOwner page a v))))) ∧
    (∀ point rs r u, arbFirst (rs.filter fun r => atPoint point r.unit r.target) = some r →
      u = { s with bus := { s.bus with
        granted := put 0 s.bus.granted point r.source, passedOn := put 0 s.bus.passedOn point (remainingSlack r) } } →
      (16 ≤ point ∨ 0 ≤ remainingSlack r → exec (.arbGrant point rs) s = .next u) ∧
      (point < 16 → remainingSlack r < 0 →
        exec (.arbGrant point rs) s = .next (bump (pgChannel point) Reg.CH_LATE_GRANTS 1 u)))

/-- MEM_DISCARD, MEM_RETIRE, MIGRATION_COPY, MIGRATION_DONE, GDDR7_SCRUB and WELL_SCRUB complete with these states. -/
def Obligations.memory_upkeep : Prop :=
  ∀ (s : State), s.powered = true →
    (∀ (data : List Byte) (a n : Nat), data = leBytes 8 a ++ leBytes 8 n → a < 2 ^ 64 → n < 2 ^ 64 →
      (a < wellEnd → a % 256 = 0 → n % 256 = 0 → a + n ≤ wellEnd →
        exec (.memDiscard 0x220 data) s = .next (clearWells a (a + n) s)) ∧
      (∀ o, a = gddrBase + o → o < rd s (pgHub 0) Reg.MEM_LIMIT → o % 4096 = 0 → n % 4096 = 0 →
        o + n ≤ rd s (pgHub 0) Reg.MEM_LIMIT → exec (.memDiscard 0x220 data) s = .next (clearGddr o (o + n) s)) ∧
      (a < wellEnd → a % 256 ≠ 0 ∨ n % 256 ≠ 0 ∨ wellEnd < a + n →
        exec (.memDiscard 0x220 data) s = .next (logErr (pgHub 0) 0x0244 0 s))) ∧
    (∀ off data, off ≠ 0x220 ∨ data.length ≠ 16 → exec (.memDiscard off data) s = .next (logErr (pgHub 0) 0x0244 0 s)) ∧
    (∀ c, c < 16 → (retireState s = 0 → ∃ t, exec (.memRetire c) s = .next t ∧ retireState t = 1 ∧
        rd t (pgHub 0) Reg.MEM_RETIRE_STATUS_CH = c ∧ rd t (pgHub 0) Reg.MEM_LIMIT = 96000000000 ∧ t.mem.migrateK = 0) ∧
      (retireState s ≠ 0 → exec (.memRetire c) s = .next (logErr (pgHub 0) 0x0241 0 s))) ∧
    (∀ k r, retireState s = 1 → nextMigration s = some k → r = rd s (pgHub 0) Reg.MEM_RETIRE_STATUS_CH →
      ∃ t, exec .migrationCopy s = .next t ∧ t.mem.migrateK = k + 1 ∧ t.mem.cells = s.mem.cells ∧
        (rd s (pgChannel r) Reg.CH_STATE = 2 → ∀ i, i < 4 → isPoisoned t ((gddrBase + (16 * k + r) * 256) / 64 + i) = true)) ∧
    (retireState s = 1 → nextMigration s = none → ∃ t, exec .migrationDone s = .next t ∧ retireState t = 2 ∧
      rd t (pgChannel (rd s (pgHub 0) Reg.MEM_RETIRE_STATUS_CH)) Reg.CH_STATE = 3) ∧
    (∀ us, rd s (pgHub 0) Reg.MEM_SCRUB_RATE_GBH ≠ 0 → ∃ t, exec (.gddr7Scrub us) s = .next t ∧
      t.mem.scrubNext = if rd s (pgHub 0) Reg.MEM_LIMIT ≤ (s.mem.scrubNext + 1) * 256 then 0 else s.mem.scrubNext + 1) ∧
    (∀ k us, k < 256 → rd s (pgHub 0) Reg.MEM_SCRUB_WELL_PASS_S ≠ 0 → ∃ t, exec (.wellScrub k us) s = .next t ∧
      look 0 t.mem.wellScrubNext k = (look 0 s.mem.wellScrubNext k + 1) % (17 * 8192))

/-- REGISTER_WRITE, ATOMIC_ADD_REQUEST, INT_TEST and HI_VMAP_DATA complete with these states. -/
def Obligations.register_delivery : Prop :=
  ∀ (s : State), s.powered = true →
    (∀ i x, s.bus.regq[i]? = some x → behind s x.who.page x.ord (regBase + x.off) x.data.length = false →
      (∀ t, PageTakes s x.off x.data t → exec (.registerWrite i) s = .next (settleRuns (releaseHeld
        (noteAnswer x.stale x.who x.ord 0 { t with bus := { t.bus with regq := t.bus.regq.eraseIdx i } })))) ∧
      (∀ c, PageRefuses s x.off x.data c → exec (.registerWrite i) s = .next (settleRuns (releaseHeld
        (noteAnswer x.stale x.who x.ord c { s with bus := { s.bus with regq := s.bus.regq.eraseIdx i } }))))) ∧
    (∀ i x u, s.bus.adds[i]? = some x → behind s x.who.page x.ord (wholeAddr s x.addr) 4 = false →
      u = reachOwner x.who.page x.addr s →
      (moduleOf x.addr = 0xFFFF → exec (.atomicAddRequest i) s = .next (settleRuns (releaseHeld
        (addAnswer x 0x0202 { s with bus := { s.bus with adds := s.bus.adds.eraseIdx i } })))) ∧
      (moduleOf x.addr ≠ 0xFFFF → isLocal s x.addr = true →
        (∀ t, isMemory u (localOf x.addr) = true → gatedCluster u (localOf x.addr) = none →
          admitMem u (localOf x.addr) 4 = .ok → writeHeld u (localOf x.addr) 4 = false →
          t = memAdd (localOf x.addr) x.val u → exec (.atomicAddRequest i) s = .next (settleRuns (releaseHeld
            (addAnswer x 0 { t with bus := { t.bus with adds := t.bus.adds.eraseIdx i } })))) ∧
        (∀ y bs t, regionOf u (localOf x.addr) = .reg y → regReadBytes u 5 y 4 = .ok bs →
          PageTakes u y (leBytes 4 (leNat bs + x.val)) t → exec (.atomicAddRequest i) s = .next (settleRuns (releaseHeld
            (addAnswer x 0 { t with bus := { t.bus with adds := t.bus.adds.eraseIdx i } }))))) ∧
      (moduleOf x.addr ≠ 0xFFFF → isLocal s x.addr = false → x.stale = false →
        (∀ port, routeSelect s (moduleOf x.addr) (requestHash (localOf x.addr) x.who.page) = .ok port →
          ∃ t, sendRequest x.who .atomic x.ord x.addr 4 (clean (leBytes 4 x.val)) (bestEffortSlack s) s = .ok t ∧
            exec (.atomicAddRequest i) s =
              .next (settleRuns (releaseHeld { t with bus := { t.bus with adds := t.bus.adds.eraseIdx i } }))) ∧
        (∀ c, routeSelect s (moduleOf x.addr) (requestHash (localOf x.addr) x.who.page) = .error c →
          exec (.atomicAddRequest i) s = .next (settleRuns (releaseHeld
            (addAnswer x c { s with bus := { s.bus with adds := s.bus.adds.eraseIdx i } })))))) ∧
    (∀ page, page < pageCount → exec (.intTest page) s = .next (raiseBit page 31 s)) ∧
    (∀ v, ∃ t, exec (.hiVmapData v) s = .next t ∧
      look 0 t.host.vmap (rd s pgHost Reg.HI_VMAP_INDEX) = v % 2 ^ 11 + v / 2 ^ 15 % 2 * 2 ^ 15 ∧
      rd t pgHost Reg.HI_VMAP_INDEX = (rd s pgHost Reg.HI_VMAP_INDEX + 1) % 2 ^ 13)

/-- BAR0_ACCESS and BAR2_ACCESS complete with these states. -/
def Obligations.host_accesses : Prop :=
  ∀ (s : State), s.powered = true → endpointUp s = true → rd s pgLockkeeper Reg.TR_BOOT_RECOVERY = 0 →
    (∀ x n bs ep, x < 0x4000000 → bar0Allowed x n true = true → PageReads s pgHost x n bs →
      exec (.bar0Access x n none ep) s = .next (after hostWho (hostAnswer (clean bs) s))) ∧
    (∀ x n ep, x < 0x4000000 → bar0Allowed x n true = false →
      exec (.bar0Access x n none ep) s = .next (hostRefuse 0x0421 (regBase + x) n true s)) ∧
    (∀ x n (data : List Byte), x < 0x4000000 →
      (∀ ep, bar0Allowed x data.length false = false →
        exec (.bar0Access x n (some data) ep) s = .next (hostRefuse 0x0421 (regBase + x) data.length false s)) ∧
      (bar0Allowed x data.length false = true → exec (.bar0Access x n (some data) true) s = .next s) ∧
      (bar0Allowed x data.length false = true → behind s pgHost s.bus.nextOrd (regBase + x) data.length = false →
        (∀ t, PageTakes s x data t → exec (.bar0Access x n (some data) false) s = .next (after hostWho t)) ∧
        (∀ c, c ≠ 0 → PageRefuses s x data c → exec (.bar0Access x n (some data) false) s =
          .next (after hostWho (hostRefuse c (regBase + x) data.length false s))))) ∧
    (∀ x a, x < 0x1000000000 → a = rd s pgHost Reg.HI_APERTURE * 2 ^ 30 + x →
      (∀ n data ep, moduleOf a = 0xFFFF → 0 < n →
        exec (.bar2Access x n none ep) s = .next (after hostWho (hostRefuse 0x0202 a n true s)) ∧
        exec (.bar2Access x n (some data) ep) s = .next (hostRefuse 0x0202 a data.length false s)) ∧
      (moduleOf a ≠ 0xFFFF → isLocal s a = true → ∀ n ep,
        (∀ u, u = reachOwner pgHost a s → MemoryTakes u pgHost u.bus.nextOrd (localOf a) n →
          exec (.bar2Access x n none ep) s =
            .next (after hostWho (hostAnswer (memRead (localOf a) n u).1 (memRead (localOf a) n u).2))) ∧
        (∀ u y bs, u = reachOwner pgHost a s → localOf a = regBase + y → PageReads u pgHost y n bs →
          exec (.bar2Access x n none ep) s = .next (after hostWho (hostAnswer (clean bs) u))) ∧
        (∀ (data : List Byte) u, u = reachOwner pgHost a (numbered s) →
          MemoryTakes u pgHost s.bus.nextOrd (localOf a) data.length → writeHeld u (localOf a) data.length = false →
          exec (.bar2Access x n (some data) ep) s =
            .next (after hostWho (memWrite (localOf a) (data.map fun b => (b, ep)) u))) ∧
        (∀ (data : List Byte) y t, regionOf s (localOf a) = .reg y →
          behind s pgHost s.bus.nextOrd (localOf a) data.length = false → PageTakes s y data t →
          exec (.bar2Access x n (some data) false) s = .next (after hostWho t) ∧
          exec (.bar2Access x n (some data) true) s = .next s)) ∧
      (moduleOf a ≠ 0xFFFF → isLocal s a = false → ∀ n ep, 0 < n → a % 4096 + n ≤ 4096 →
        behind s pgHost s.bus.nextOrd a n = false →
        (∀ r, arrivedFor s hostWho false a n = some r → r.code = 0 →
          exec (.bar2Access x n none ep) s = .next (after hostWho (hostAnswer r.data s))) ∧
        (∀ port t, arrivedFor s hostWho false a n = none →
          routeSelect s (moduleOf a) (requestHash (localOf a) pgHost) = .ok port →
          t = issueAsk { who := hostWho, host := false, addr := a, len := n, slack := workSlack s } s →
          exec (.bar2Access x n none ep) s = .next t) ∧
        (∀ (data : List Byte) port, data.length = n → routeSelect s (moduleOf a) (requestHash (localOf a) pgHost) = .ok port →
          ∃ t, sendRequest hostWho .write s.bus.nextOrd a n (data.map fun b => (b, ep)) (workSlack s) (numbered s) = .ok t ∧
            exec (.bar2Access x n (some data) ep) s = .next (after hostWho t))))

/-- HOST_COMPLETION, HOST_CPL_TIMEOUT, PERST_N_DEASSERTION, CONFIGURATION_REQUEST, MSIX_TABLE_WRITE, DOORBELL and
WR_ENABLE complete with these states. The layout of a table entry is the model's reading of PCI Express (log 12). -/
def Obligations.host_side : Prop :=
  ∀ (s : State), s.powered = true →
    (∀ tag data ep o, s.bus.outstanding.find? (fun o => o.tag == tag && o.host) = some o → o.stale = false →
      exec (.hostCompletion tag data ep) s =
        .next (completeRequest o 0 ((padTo o.len data).map fun b => (b, ep)) s)) ∧
    (∀ tag refused o, s.bus.outstanding.find? (fun o => o.tag == tag && o.host) = some o → o.stale = false →
      exec (.hostCplTimeout tag refused) s = .next (completeRequest o (if refused then 0x0427 else 0x0426) [] s)) ∧
    (s.host.perst = true → exec .perstNDeassertion s =
      .next { s with host := { s.host with perst := false, settings := false } }) ∧
    (∀ k data loaded, s.host.perst = false →
      (s.host.settings = false → loaded = false →
        exec (.configurationRequest ⟨k, data, loaded⟩) s = .next { s with outs := s.outs ++ [.cfgCpl true none] }) ∧
      (s.host.settings = true ∨ loaded = true →
        (∃ v, exec (.configurationRequest ⟨k, none, loaded⟩) s = .next { s with
            host := { s.host with settings := true }, outs := s.outs ++ [.cfgCpl false (some v)] } ∧
          (k = 2 → v / 256 = 0x120000) ∧ (k = 3 → v / 2 ^ 16 % 2 ^ 8 = 0)) ∧
        (∀ w, exec (.configurationRequest ⟨k, some w, loaded⟩) s = .next { s with
          host := { s.host with settings := true, cfg := put 0 s.host.cfg k (w % 2 ^ 32) }
          outs := s.outs ++ [.cfgCpl false none] }))) ∧
    (∀ v (b : List Byte), v < 2048 → b.length = 16 → endpointUp s = true → rd s pgLockkeeper Reg.TR_BOOT_RECOVERY = 0 →
      ∃ t, exec (.msixTableWrite (16 * v) b) s = .next t ∧ (look {} t.host.msix v).addr = leNat (b.take 8) ∧
        (look {} t.host.msix v).data = leNat ((b.drop 8).take 4) ∧
        (look {} t.host.msix v).masked = bitOf (leNat (b.drop 12)) 0) ∧
    (∀ r tail, r < 64 → tail < 2 ^ 32 → endpointUp s = true → rd s pgLockkeeper Reg.TR_BOOT_RECOVERY = 0 →
      writable s (ringPage r) = true →
      (ringRd s r Reg.WR_CFG_ENABLE = 1 → (tail + 2 ^ 32 - ringRd s r Reg.WR_HEAD) % 2 ^ 32 ≤ ringSize s r →
        exec (.doorbell r tail) s = .next (ringWr r Reg.WR_TAIL tail s)) ∧
      (ringRd s r Reg.WR_CFG_ENABLE = 0 ∨ ringSize s r < (tail + 2 ^ 32 - ringRd s r Reg.WR_HEAD) % 2 ^ 32 →
        exec (.doorbell r tail) s = .next (refuseDoorbell s))) ∧
    (∀ r, r < 64 → writable s (ringPage r) = true →
      (ringRd s r Reg.WR_CFG_ENABLE = 0 →
        exec (.wrEnable r true) s = .next (ringWr r Reg.WR_CFG_HALTED 0 (ringWr r Reg.WR_CFG_ENABLE 1 s))) ∧
      exec (.wrEnable r false) s = .next (ringWr r Reg.WR_CFG_ENABLE 0 s))

/-- GET_STATUS, READ_SENSORS, the long mailbox commands, MAILBOX_LONG_DONE and SMBUS_REQUEST complete with these states.
The order of the sensor words, and which codes show as refusals, are the model's (log 61). -/
def Obligations.mailbox_commands : Prop :=
  ∀ (s : State) (c : List Byte), s.powered = true → c = s.rc.mailbox →
    (mbRuns s 1 = true → exec .getStatus s = .next (mbEnd 0 0 (statusWords s) s)) ∧
    (mbRuns s 2 = true → exec .readSensors s = .next (mbEnd 0 0 (sensorWords s) s)) ∧
    (∀ d t, mbRuns s 3 = true → d = lifeExtract s (mcArg c 0) →
      (mcSign c = false → Returned c d s t → exec .readLifeLog s = .next (mbResult 0 d.length t)) ∧
      (mcSign c = false → mcLen c < d.length → exec .readLifeLog s = .next (mbResult 0x0424 0 s)) ∧
      (∀ key g, mcSign c = true → s.tr.key = some key → keyLocked s = false →
        g = signedBy s key 2 0 (mcArg c 0) (mcArg c 1) d → d.length + 192 ≤ mcLen c →
        Returned c (d ++ g) (bump pgLockkeeper Reg.TR_SIGNATURES 1 s) t →
        exec .readLifeLog s = .next (mbResult 0 (d ++ g).length t))) ∧
    (∀ d t, mbRuns s 4 = true → d = look [] s.rc.summaries (mcArg c 0 % 16) →
      (d ≠ [] → Returned c d s t → exec .readDumpSummary s = .next (mbResult 0 d.length t)) ∧
      (d = [] → exec .readDumpSummary s = .next (mbResult 0x0424 0 s))) ∧
    (mbRuns s 5 = true →
      (∀ x t, s.rc.dumps.find? (fun x => x.seq == mcArg c 0 % 2 ^ 32) = some x → Returned c x.bytes s t →
        exec .readDump s = .next (mbResult 0 x.bytes.length t)) ∧
      (s.rc.dumps.find? (fun x => x.seq == mcArg c 0 % 2 ^ 32) = none →
        exec .readDump s = .next (mbResult 0x0424 0 s))) ∧
    (∀ b t, mbRuns s 6 = true → Brought c 4096 (24 * 2 ^ 20) b s t →
      exec .writeImage s = .next (mbResult 0 0 (modRc (fun r => { r with mbHead := b.take 4096 })
        (setImage (idleSlot t) (List.replicate 4096 0xFF ++ b.drop 4096) t)))) ∧
    (∀ b t, mbRuns s 7 = true → Brought c 320 (2 ^ 20) b s t →
      (configValid b = true ∧ (configValid t.tr.active = true → cfgNat t.tr.active 8 4 < cfgNat b 8 4) →
        exec .writeConfig s = .next (mbResult 0 0 (modTrust (fun x => { x with config := b }) t))) ∧
      (configValid b = false ∨ configValid t.tr.active = true ∧ cfgNat b 8 4 ≤ cfgNat t.tr.active 8 4 →
        exec .writeConfig s = .next (mbResult 0x0701 0 t))) ∧
    (∀ n r b u ds poison v w x key g t, mbRuns s 8 = true → n = rd s pgResilience Reg.RS_IMAGE_BYTES →
      heldHere s (mcArg c 0) n = true → rd s pgResilience Reg.RS_DIGEST_GO = 0 → 4096 < n → n % 64 = 0 →
      mcArg c 0 % 64 = 0 → mcArg c 1 % 8 = 0 → 192 ≤ mcLen c →
      Reads (busRead lkWho (mcArg c 0) 256) s r u → r.any Prod.snd = false → b = r.map Prod.fst →
      bitOf (fld b 0xC 4) 0 = true → keyLocked s = false →
      Reads (shaPages (digestRanges (mcArg c 0 + 4096) (n - 4096))) u (ds, poison) v →
      w = (if poison then wr pgResilience Reg.RS_DIGEST_POISON 1 v else v) →
      Reads (busWrite digestWho (mcArg c 1) (clean ds)) w () x → x.tr.key = some key → keyLocked x = false →
      g = signedBy x key 1 (fld b 4 4) (fld b 8 4 + fld b 2 2 * 2 ^ 32) (mcArg c 2) (b ++ ds) →
      Returned c g (bump pgLockkeeper Reg.TR_SIGNATURES 1 x) t →
      exec .signRound s = .next (mbResult 0 g.length t)) ∧
    (mbRuns s 9 = true → exec .resetLockkeeper s = .next (settleDomains (beginReset { kind := 8, inst := 0, cause := 8 }
      (modRc (fun r => { r with mbDone := some (0, 0) }) s)))) ∧
    (∀ code n, s.rc.mbDone = some (code, n) → s.rc.mbHead = [] → lockState s pgLockkeeper = 0 →
      (s.rc.resets.any fun x => x.kind == 8) = false → accepted s digestWho = true → accepted s lkWho = true →
      ∃ t, exec .mailboxLongDone s = .next t ∧ t = after lkWho (raiseBit pgLockkeeper 9
        (mbEnd code (if code = 0 then n else 0) [] (noteTrust code s))) ∧
        t.rc.mbDone = none ∧ t.rc.mailbox = [] ∧ bitOf (rd t pgLockkeeper Reg.PAGE_INT_STATUS) 9 = true) ∧
    (∀ tag, exec (.smbusRequest 1 tag) s =
      .next { s with outs := s.outs ++ [.sideband (mbResponse tag 0 0 (statusWords s))] }) ∧
    (∀ tag, exec (.smbusRequest 2 tag) s =
      .next { s with outs := s.outs ++ [.sideband (mbResponse tag 0 0 (sensorWords s))] })

/-- R882: what GO does, and that the running command is unaffected by a second GO. -/
def Obligations.mailbox_go : Prop :=
  ∀ (s : State),
    (s.rc.mailbox ≠ [] → (mailboxGo s).rc = s.rc ∧ rd (mailboxGo s) pgLockkeeper Reg.LK_MB_STATUS_CODE = 0x0425 ∧
      rd (mailboxGo s) pgLockkeeper Reg.LK_MB_STATUS_STATE = rd s pgLockkeeper Reg.LK_MB_STATUS_STATE ∧
      rd (mailboxGo s) pgLockkeeper Reg.PAGE_ERR_COUNT = min (rd s pgLockkeeper Reg.PAGE_ERR_COUNT + 1) (2 ^ 32 - 1)) ∧
    (s.rc.mailbox = [] → lockState s pgLockkeeper = 0 →
      (mcOp (mbCommand s) = 0 ∨ 9 < mcOp (mbCommand s) ∨ (rd s pgLockkeeper Reg.TR_BOOT_RECOVERY = 1 ∧
        mcOp (mbCommand s) ≠ 1 ∧ mcOp (mbCommand s) ≠ 6 ∧ mcOp (mbCommand s) ≠ 7 ∧ mcOp (mbCommand s) ≠ 9)) →
      (mailboxGo s).rc = s.rc ∧ rd (mailboxGo s) pgLockkeeper Reg.LK_MB_STATUS_CODE = 0x0424 ∧
        rd (mailboxGo s) pgLockkeeper Reg.LK_MB_STATUS_STATE = 3 ∧
        rd (mailboxGo s) pgLockkeeper Reg.PAGE_ERR_COUNT = min (rd s pgLockkeeper Reg.PAGE_ERR_COUNT + 1) (2 ^ 32 - 1)) ∧
    (s.rc.mailbox = [] → lockState s pgLockkeeper = 0 → rd s pgLockkeeper Reg.TR_BOOT_RECOVERY = 0 →
      1 ≤ mcOp (mbCommand s) → mcOp (mbCommand s) ≤ 9 →
      (mailboxGo s).rc.mailbox = mbCommand s ∧ rd (mailboxGo s) pgLockkeeper Reg.LK_MB_STATUS_STATE = 1 ∧
        rd (mailboxGo s) pgLockkeeper Reg.LK_MB_CTRL_GO = 1)

/-- KEYRING_SIGN, KEYRING_PUBLIC_KEY, KEYRING_RANDOM, KEYRING_ECDHE, DEBUG_CHALLENGE, DEBUG_AUTH and
DEBUG_CHALLENGE_EXPIRY complete with these states. -/
def Obligations.keyring_and_debug : Prop :=
  ∀ (s refused : State), s.powered = true →
    refused = modTrust (fun t => { t with answer := (0x0710, []) }) (trustRefuse 0x0710 s) →
    (∀ (digest : List Byte), digest.length = 32 →
      (∀ d, s.tr.key = some d → keyLocked s = false →
        exec (.keyringSign digest) s = .next (modTrust (fun t => { t with answer := (0, ecdsaSign d digest) })
          (bump pgLockkeeper Reg.TR_SIGNATURES 1 s))) ∧
      (s.tr.key = none ∨ keyLocked s = true → exec (.keyringSign digest) s = .next refused)) ∧
    (keyBad s = false → exec .keyringPublicKey s =
      .next (modTrust (fun t => { t with answer := (0, leBytes 64 (rd s pgLockkeeper Reg.TR_PUBKEY)) }) s)) ∧
    (∀ n, keyBad s = false → exec (.keyringRandom n) s =
      .next (modTrust (fun t => { t with answer := (0, (drawBytes n s).1) }) (drawBytes n s).2)) ∧
    (∀ n, keyBad s = true → exec .keyringPublicKey s = .next refused ∧ exec (.keyringRandom n) s = .next refused) ∧
    (∀ peer, (∀ q, keyLocked s = false → pointOf peer = some q →
        ∃ t d, exec (.keyringEcdhe peer) s = .next t ∧ t.drawn = s.drawn + 32 ∧
          t.tr.answer = (0, pointBytes (scalarMul d eccBase)) ∧ t.tr.secret = xOf (scalarMul d (some q))) ∧
      (keyLocked s = true → exec (.keyringEcdhe peer) s = .next refused)) ∧
    ((cfgDebugKey s.tr.active).all (· == 0) = false → configValid s.tr.active = true → s.tr.debugFails < 3 →
      keyBad s = false → exec .debugChallenge s = .next
        { modTrust (fun t => { t with challenge := some (drawBytes 32 s).1 }) (drawBytes 32 s).2 with
          outs := s.outs ++ [.debugPort (drawBytes 32 s).1] }) ∧
    ((cfgDebugKey s.tr.active).all (· == 0) = true ∨ configValid s.tr.active = false ∨ 3 ≤ s.tr.debugFails →
      exec .debugChallenge s = .next s) ∧
    (∀ c key sig, s.tr.challenge = some c → (cfgDebugKey s.tr.active).all (· == 0) = false →
      sha256 key = cfgDebugKey s.tr.active → ecdsaVerify key (sha256 (c ++ cfgSerial s.tr.active)) sig = true →
      exec (.debugAuth key sig) s = .next (debugOpen (modTrust (fun t => { t with challenge := none }) s))) ∧
    (∀ key sig, s.tr.challenge = none ∨ (cfgDebugKey s.tr.active).all (· == 0) = true ∨
        sha256 key ≠ cfgDebugKey s.tr.active →
      ∃ t, exec (.debugAuth key sig) s = .next (trustRefuse 0x0704 t) ∧ t.tr.challenge = none ∧
        t.tr.debugFails = s.tr.debugFails + 1) ∧
    (exec .debugChallengeExpiry s = .next (modTrust (fun t => { t with challenge := none }) s))

/-- GET_VERSION, GET_CAPABILITIES, NEGOTIATE_ALGORITHMS, GET_DIGESTS, GET_CERTIFICATE, CHALLENGE and GET_MEASUREMENTS
complete with these states. Response and error codes and layouts are the model's reading of DSP0274 (log 53). -/
def Obligations.spdm_negotiation : Prop :=
  ∀ (s : State), s.powered = true →
    (exec .getVersion s = .next (spdmSend 0x04 (leBytes 2 0x1200) (modTrust (fun t => { t with stage := 1 }) s))) ∧
    (1 ≤ s.tr.stage → exec .getCapabilities s =
      .next (spdmSend 0x61 (leBytes 1 14) (modTrust (fun t => { t with stage := max 2 t.stage }) s))) ∧
    (2 ≤ s.tr.stage → exec (.negotiateAlgorithms true) s =
      .next (spdmSend 0x63 ([0x10, 0x01, 0x02, 0x08, 0x02].flatMap (leBytes 4)) (modTrust (fun t => { t with stage := 3 }) s)) ∧
      exec (.negotiateAlgorithms false) s = .next (spdmError 0x01 s)) ∧
    (3 ≤ s.tr.stage →
      exec .getDigests s = .next (spdmSend 0x01 (sha256 (certChain s)) s) ∧
      (∀ off len, off < (certChain s).length → exec (.getCertificate 0 off len) s =
        .next (spdmSend 0x02 (((certChain s).drop off).take len) s)) ∧
      (∀ slot off len, slot ≠ 0 ∨ (certChain s).length ≤ off →
        exec (.getCertificate slot off len) s = .next (spdmError 0x01 s)) ∧
      (∀ digest d, s.tr.key = some d → keyLocked s = false →
        exec (.challenge 0 digest) s = .next (spdmSend 0x03 (sha256 (certChain s) ++ (drawBytes 32 s).1 ++ ecdsaSign d digest)
          (bump pgLockkeeper Reg.TR_SIGNATURES 1 (drawBytes 32 s).2))) ∧
      (∀ digest slot, slot ≠ 0 → exec (.challenge slot digest) s = .next (spdmError 0x01 s)) ∧
      (∀ k digest data, (k = 0 ∧ data = leBytes 1 s.tr.measures.length) ∨ (1 ≤ k ∧ k ≤ 8 ∧ data = measureBlock s k) ∨
          (k = 0xFF ∧ data = (List.range 8).flatMap fun k => measureBlock s (k + 1)) →
        exec (.getMeasurements k false digest) s = .next (spdmSend 0x60 data s) ∧
        (∀ d, s.tr.key = some d → keyLocked s = false → exec (.getMeasurements k true digest) s =
          .next (spdmSend 0x60 (data ++ (drawBytes 32 s).1 ++ ecdsaSign d digest)
            (bump pgLockkeeper Reg.TR_SIGNATURES 1 (drawBytes 32 s).2)))) ∧
      (∀ k sign digest, 8 < k → k ≠ 0xFF → exec (.getMeasurements k sign digest) s = .next (spdmError 0x01 s))) ∧
    (s.tr.stage < 3 → ∀ slot off len k sign digest,
      exec .getDigests s = .next (spdmError 0x04 s) ∧ exec (.getCertificate slot off len) s = .next (spdmError 0x04 s) ∧
      exec (.challenge slot digest) s = .next (spdmError 0x04 s) ∧
      exec (.getMeasurements k sign digest) s = .next (spdmError 0x04 s))

/-- KEY_EXCHANGE, FINISH, HEARTBEAT, KEY_UPDATE and END_SESSION complete with these states; error codes are the model's
reading of DSP0274 (log 53). -/
def Obligations.spdm_sessions : Prop :=
  ∀ (s : State), s.powered = true →
    (∀ peer digest q, 3 ≤ s.tr.stage → pointOf peer = some q →
      (∀ d, s.tr.sessions.length < 4 → s.tr.key = some d → keyLocked s = false →
        ∃ t x, exec (.keyExchange 0 peer digest) s = .next t ∧
          t.tr.sessions = s.tr.sessions ++ [{ id := s.tr.nextSession, secret := xOf (scalarMul x (some q)) }] ∧
          t.tr.nextSession = s.tr.nextSession + 1 ∧ t.tr.secret = 0) ∧
      (4 ≤ s.tr.sessions.length → exec (.keyExchange 0 peer digest) s = .next (spdmError 0x0A s))) ∧
    (∀ id x, s.tr.sessions.find? (fun x => x.id == id && x.established == false) = some x →
      exec (.finish id true) s = .next (bump pgLockkeeper Reg.TR_SPDM_SESSIONS 1
        (spdmSend 0x65 [] (putSession { x with established := true } s))) ∧
      exec (.finish id false) s = .next (spdmError 0x06 (dropSession x.id s))) ∧
    (∀ id x, s.tr.sessions.find? (fun x => x.id == id && x.established == true) = some x →
      exec (.heartbeat id) s = .next (spdmSend 0x68 [] s) ∧
      exec (.keyUpdate id) s = .next (spdmSend 0x69 [] (putSession { x with updates := x.updates + 1 } s)) ∧
      exec (.endSession id) s = .next (spdmSend 0x6C [] (dropSession x.id s))) ∧
    (∀ id, s.tr.sessions.find? (fun x => x.id == id && x.established == true) = none →
      exec (.heartbeat id) s = .next (spdmError 0x02 s) ∧ exec (.keyUpdate id) s = .next (spdmError 0x02 s) ∧
      exec (.endSession id) s = .next (spdmError 0x02 s))

/-- DOMAIN_LOCK, DOMAIN_RESET, DOMAIN_RELEASE, LOCK_DRAINED and DRAIN_BOUND_EXPIRY complete with these states. -/
def Obligations.locks_and_requests : Prop :=
  ∀ (s : State), s.powered = true →
    (∀ kind inst, exec (.domainLock kind inst) s = .next (settleDomains (modRc (fun x => { x with
      queue := x.queue ++ [{ kind := kind % 16, inst := inst % 2 ^ 13, action := 1 }] }) s))) ∧
    (∀ kind inst dump hold, exec (.domainReset kind inst dump hold) s = .next (settleDomains (modRc (fun x => { x with
      queue := x.queue ++ [{ kind := kind % 16, inst := inst % 2 ^ 13, action := 2, dump := dump, hold := hold }] }) s))) ∧
    (∀ kind inst, exec (.domainRelease kind inst) s = .next (settleDomains (modRc (fun x => { x with
      queue := x.queue ++ [{ kind := kind % 16, inst := inst % 2 ^ 13, action := 3 }] }) s))) ∧
    (∀ kind inst, ownState s kind inst 1 = true →
      (domainHolds s kind inst = false →
        exec (.lockDrained kind inst) s = .next (settleDomains (enterLocked kind inst s))) ∧
      (domainHolds s kind inst = true → exec (.lockDrained kind inst) s = .next s) ∧
      (∀ u, u = ((List.range 2).filter fun n => (domainPages kind inst).contains (pgWellhead n)).foldl
          (fun s n => drainWellhead n s) s →
        exec (.drainBoundExpiry kind inst) s = .next (settleDomains (enterLocked kind inst
          (bump pgLockkeeper Reg.RC_DRAIN_EXPIRED 1 (((domainPages kind inst).filter fun p => lockState u p == 1).foldl
            (fun s p => wr p Reg.PAGE_LOCK_DRAIN_EXPIRED 1 s) u))))))

/-- RESET_COMPLETE, PERST, FLR, COLD_POWER_UP, LK_HEARTBEAT and LK_WATCHDOG complete with these states. -/
def Obligations.reset_kinds : Prop :=
  ∀ (s : State),
    (∀ kind inst failed x, s.powered = true → s.rc.resets.find? (fun x => x.kind == kind && x.inst == inst) = some x →
      ownState s kind inst 3 = true → (2 < kind ∨ keeperUp s = true) →
      exec (.resetComplete kind inst failed) s = .next (settleDomains (endReset x failed s))) ∧
    (s.powered = true → ∃ t, exec .perst s = .next (resetModule 10 t) ∧ t.host.perst = true ∧ t.host.settings = false ∧
      t.host.vmap = [] ∧ t.host.msix = [] ∧ t.host.cfg = []) ∧
    (s.powered = true → exec .flr s = .next (resetModule 11 (resetEndpoint s))) ∧
    (∀ failed, ∃ t, exec (.coldPowerUp failed) s = .next t ∧ t.powered = true ∧ t.mem.cells = [] ∧
      t.tr.imageA = s.tr.imageA ∧ t.tr.imageB = s.tr.imageB ∧ t.tr.config = s.tr.config ∧
      look 0 t.life.live 0x20 = min (look 0 ((newestCopy s.life).elim [] LifeCopy.fields) 0x20 + 1) (256 ^ 4 - 1)) ∧
    (∀ phase, s.powered = true → lockState s pgLockkeeper = 0 → rd s pgLockkeeper Reg.TR_BOOT_RECOVERY = 0 →
      ∃ t, exec (.lkHeartbeat phase) s = .next t ∧
        rd t pgLockkeeper Reg.RC_HEARTBEAT_COUNT = (rd s pgLockkeeper Reg.RC_HEARTBEAT_COUNT + 1) % 2 ^ 24 ∧
        rd t pgLockkeeper Reg.RC_HEARTBEAT_PHASE = phase % 3 ∧
        (phase % 3 = 0 → rd s pgLockkeeper Reg.TR_BOOT_SLOT < 2 → startsOf t (rd s pgLockkeeper Reg.TR_BOOT_SLOT) = 0)) ∧
    (s.powered = true → rd s pgLockkeeper Reg.RC_HEARTBEAT_PHASE ≠ 0 → lockState s pgLockkeeper = 0 →
      ∃ t, rd t pgLockkeeper Reg.RC_WDOG_HANG = 1 ∧
        rd t pgLockkeeper Reg.RC_LK_HANGS = min (rd s pgLockkeeper Reg.RC_LK_HANGS + 1) (2 ^ 64 - 1) ∧
        (rd s pgLockkeeper Reg.RC_WDOG_AUTO = 0 → exec .lkWatchdog s = .next t) ∧
        (rd s pgLockkeeper Reg.RC_WDOG_AUTO ≠ 0 →
          exec .lkWatchdog s = .next (settleDomains (beginReset { kind := 8, inst := 0, cause := 8 } t))))

/-- PSTATE_TARGET, CLUSTER_GATE, CLUSTER_WAKE, CL_TILE_MAP_WRITE, SUBSTITUTION_APPLY, POWER_FAIL, OVERCURRENT_TRIP,
PW_CAP_WRITE, POWER_INTERVAL and THERMAL_SAMPLE complete with these states. How far the cap and the heat call for a
throttle is an operand (log 59). -/
def Obligations.power_management : Prop :=
  ∀ (s : State), s.powered = true →
    (∀ v, v = 0 ∨ v = 2 ∨ v = 3 → v ≠ rd s pgLockkeeper Reg.RC_PSTATE_TARGET →
      ((2 ≤ v → powerBusy s = false) → (v = 0 → s.rc.tripped = false) →
        exec (.pstateTarget v) s = .next (settleDomains (wr pgLockkeeper Reg.RC_PSTATE_TARGET v s))) ∧
      ((2 ≤ v ∧ powerBusy s = true) ∨ (v = 0 ∧ s.rc.tripped = true) →
        exec (.pstateTarget v) s = .next (logErr pgLockkeeper 0x0807 0 s))) ∧
    (∀ k, k < 256 → pstate s < 2 → rd s pgLockkeeper Reg.RC_PSTATE_IDLE_US ≠ 0 → clusterIdle s k = true →
      exec (.clusterGate k) s = .next (showM1 { s with gated := put false s.gated k true })) ∧
    (∀ k, look false s.waking k = true → ∃ t, exec (.clusterWake k) s = .next (releaseHeld t) ∧
      look false t.gated k = false ∧ look false t.waking k = false) ∧
    (∀ k a n, k < 256 → writable s (pgCluster k) = true → look false s.gated k = false → a < 2 → n < 16 →
      (a ≠ rd s (pgCluster k) Reg.CL_TILE_MAP_SUBST_ACTIVE ∨ n ≠ rd s (pgCluster k) Reg.CL_TILE_MAP_SUBST_LOGICAL) →
      ((a = 1 → lockState s (pgTile (17 * k + n)) = 2 ∧ lockState s (pgTile (17 * k + 16)) = 0) →
        ∃ t, exec (.clTileMapWrite k a n) s = .next t ∧ rd t (pgCluster k) Reg.CL_TILE_MAP_SUBST_ACTIVE = a ∧
          rd t (pgCluster k) Reg.CL_TILE_MAP_SUBST_LOGICAL = n ∧
          rd t (pgCluster k) Reg.CL_TILE_MAP_PENDING = natOf (wantedRole t k != look 0 s.subst k)) ∧
      (a = 1 → lockState s (pgTile (17 * k + n)) ≠ 2 ∨ lockState s (pgTile (17 * k + 16)) ≠ 0 →
        exec (.clTileMapWrite k a n) s = .next (logErr (pgCluster k) 0x0808 0 s))) ∧
    (∀ k, k < 256 → isSet s (pgCluster k) Reg.CL_TILE_MAP_PENDING = true → clusterBoundary s k = true →
      ∃ t, exec (.substitutionApply k) s = .next t ∧ look 0 t.subst k = wantedRole s k ∧
        rd t (pgCluster k) Reg.CL_TILE_MAP_PENDING = 0) ∧
    (exec .powerFail s = .next { s with powered := false }) ∧ (exec .overcurrentTrip s = .next { s with powered := false }) ∧
    (∀ w, w < 2 ^ 13 → exec (.pwCapWrite w) s =
      .next (wr pgLockkeeper Reg.PW_CAP_WATTS (max 500 (min w (rd s pgLockkeeper Reg.PW_CAP_LIMIT))) s)) ∧
    (∀ w v d c h u, lockState s pgLockkeeper ≠ 3 → v < 2 ^ 10 → ∃ t, exec (.powerInterval w v d c h u) s = .next t ∧
      rd t pgLockkeeper Reg.PW_STATUS_VIN = v ∧ t.rc.powers = ((w, d) :: s.rc.powers).take 10 ∧
      (throttleC s ≤ rd s pgLockkeeper Reg.PW_TEMP_DIE_C → rd t pgLockkeeper Reg.RC_THROTTLE_THERMAL = 1)) ∧
    (∀ die i o, i < 2 ^ 8 → o < 2 ^ 8 →
      (die < 110 → ∃ t, exec (.thermalSample die i o) s = .next t ∧ rd t pgLockkeeper Reg.PW_TEMP_DIE_C = die ∧
        rd t pgLockkeeper Reg.PW_TEMP_INLET_C = i ∧ rd t pgLockkeeper Reg.PW_TEMP_OUTLET_C = o ∧
        (die < 85 → t.rc.tripped = false)) ∧
      (110 ≤ die → pstate s ≠ 3 → ∃ t, exec (.thermalSample die i o) s = .next (thermalTrip t) ∧
        rd t pgLockkeeper Reg.PW_TEMP_DIE_C = min 255 die))

/-- HA_SPARE_WRITE, SPARE_MAP_APPLY, HA_TEST_START and HA_SELF_TEST_DONE complete with these states. -/
def Obligations.spare_columns : Prop :=
  ∀ (s : State) (page a : Nat), s.powered = true → hasArray page a = true → page < pageCount →
    (∀ req col, lockState s page ≠ 3 → req < 2 → col < 64 → pageAwake s page →
      (spareReq s page a ≠ req ∨ spareCol s page a ≠ col) →
      ∃ t, exec (.haSpareWrite page a req col) s = .next t ∧ spareReq t page a = req ∧ spareCol t page a = col ∧
        sparePending t page a = spareDiffers t page a) ∧
    (∀ req col k, clusterOfPage page = some k → look false s.gated k = true → req < 2 → col < 64 →
      exec (.haSpareWrite page a req col) s = .next (writeWhenAwake k page (haOffset page a 4) (req + col * 2) s) ∧
      exec (.haTestStart page a) s = .next (writeWhenAwake k page (haOffset page a 8) 1 s)) ∧
    (sparePending s page a = true → atBoundary s page = true → arrayIdle s page = true →
      ∃ t, exec (.spareMapApply page a) s = .next t ∧ spareActive t page a = spareReq s page a % 2 ∧
        spareColActive t page a = spareCol s page a % 64 ∧ sparePending t page a = false) ∧
    (lockState s page = 2 → testing s page a = false → pageAwake s page → exec (.haTestStart page a) s =
      .next (testPass page a 0 (testDone page a 0 (testStart page a 1 s)))) ∧
    (lockState s page = 0 ∨ lockState s page = 1 → testing s page a = false → pageAwake s page →
      exec (.haTestStart page a) s = .next (logErr page 0x0810 0 s)) ∧
    (lockState s page = 2 → testing s page a = true →
      (∃ t, exec (.haSelfTestDone page a [] false) s = .next t ∧
        testing t page a = false ∧ look [] t.faulty (page * 2 + a) = []) ∧
      (∀ cols beyond, cols ≠ [] ∨ beyond = true → exec (.haSelfTestDone page a cols beyond) s =
        .next (noteFault page a (cols.map (· % 65)) beyond
          (testPass page a 0 (testDone page a 1 (testStart page a 0 s))))))

/-- WR_NOP, WR_WRITE, WR_ADD, WR_WAIT, WR_LOAD_STEP, WR_EXPORT and EXPORT_SIGN complete with these states. -/
def Obligations.ring_entries : Prop :=
  ∀ (s : State) (r : Nat) (ends : Nat → State → State), s.powered = true → r < 64 → lockState s (ringPage r) = 0 →
    ends = (fun c t => after (ringWho r) (setEntry r { ringEntryOf t r with finished := true, code := c } t)) →
    (∀ b u e w, (ringEntryOf s r).busy = false → nextRing s (r / 32) = some r →
      Reads (ringRead r (ringRd s r Reg.WR_CFG_LOC == 1)
        (ringRd s r Reg.WR_BASE + 64 * (ringRd s r Reg.WR_HEAD % ringSize s r)) 64) (servedRing r s) b u →
      e = { busy := true, op := fld b 0 1, flags := fld b 1 1, tag := fld b 2 2, addr := fld b 8 8
            arg0 := fld b 0x10 8, arg1 := fld b 0x18 8, finished := entryMalformed b
            code := if entryMalformed b then 0x01C0 else 0 } →
      w = after (ringWho r) (setEntry r e u) → w.powered = true →
      exec (.wrNop r) s = exec (.wrNop r) w ∧ exec (.wrWrite r) s = exec (.wrWrite r) w ∧
      exec (.wrAdd r) s = exec (.wrAdd r) w ∧ exec (.wrWait r) s = exec (.wrWait r) w ∧
      exec (.wrLoadStep r) s = exec (.wrLoadStep r) w ∧ exec (.wrExport r) s = exec (.wrExport r) w ∧
      (entryMalformed b = true → exec (.wrNop r) s = .next w)) ∧
    (∀ e, e = ringEntryOf s r → e.busy = true → e.finished = false → e.stage = 0 →
      (e.op = 1 → exec (.wrNop r) s = .next (ends 0 s)) ∧
      (∀ t, e.op = 4 → (Reads (busWriteNat (ringWho r) e.addr 8 e.arg0) s () t → exec (.wrWrite r) s = .next (ends 0 t)) ∧
        (∀ c, runM (busWriteNat (ringWho r) e.addr 8 e.arg0) s = (.error (.code c), t) →
          exec (.wrWrite r) s = .next (ends c t))) ∧
      (e.op = 6 → exec (.wrAdd r) s = .next (ends 0 (pushAdd (ringWho r) e.addr e.arg0 none s))) ∧
      (∀ b t, e.op = 5 → Reads (ringRead r false e.addr 4) s b t → e.arg0 % 2 ^ 32 ≤ leNat b →
        exec (.wrWait r) s = .next (ends 0 t)) ∧
      (∀ b u gs, e.op = 2 → Reads (ringRead r false e.addr (64 * (e.arg0 % 2 ^ 16))) s b u →
        gs = (piecesOfList 64 (e.arg0 % 2 ^ 16 + 1) b).map Stage.mk →
        (∀ c, stagesRefused gs = some c → exec (.wrLoadStep r) s = .next (ends c u)) ∧
        (∀ t, stagesRefused gs = none → Reads (loadStages r gs) u () t → exec (.wrLoadStep r) s = .next (ends 0 t)) ∧
        (∀ g k d v, stagesRefused gs = none → gs = [g] → g.units = [k] →
          (g.kind = 0 → Reads (busRead (ringWho r) (fld g.b 0x10 8) g.size) u d v →
            ∀ p x, p = physicalOf u k → Reads (busWriteNow (ringWho r) v.bus.nextOrd (wellBase p + g.off) d) (numbered v) () x →
            exec (.wrLoadStep r) s = .next (ends 0 (schedStart p (wr (pgTile p) Reg.SCHED_BASE (g.off + g.hdr) x)))) ∧
          (∀ bytes, g.kind = 1 → lockState u (pgAttention k) = 0 →
            Reads (ringRead r false (fld g.b 0x10 8) g.size) u bytes v → exec (.wrLoadStep r) s =
              .next (ends 0 (apStart k (setPipe k { getPipe v k with
                store := storeImage (getPipe v k).store bytes, header := g.hdr } v)))) ∧
          (∀ bytes, g.kind = 2 → lockState u (pgHandpump k) = 0 →
            Reads (ringRead r false (fld g.b 0x10 8) g.size) u bytes v → exec (.wrLoadStep r) s =
              .next (ends 0 (hpStart k (setHp k { getHp v k with
                store := storeImage (getHp v k).store bytes, header := g.hdr } v)))))) ∧
      (∀ d n l u v xs, e.op = 3 → Reads (ringRead r false e.addr 64) s d u → n = fld d 4 4 →
        (fld d 0 4 / 512 ≠ 0 ∨ zeroFrom d 0x28 0x40 = false ∨ n = 0 ∨ 65536 < n ∨ fld d 8 8 % 32 ≠ 0 →
          exec (.wrExport r) s = .next (ends 0x0190 u)) ∧
        (fld d 0 4 / 512 = 0 → zeroFrom d 0x28 0x40 = true → 0 < n → n ≤ 65536 → fld d 8 8 % 32 = 0 →
          Reads (ringRead r false (fld d 8 8) (32 * n)) u l v → xs = (piecesOfList 32 (n + 1) l).map ExportEntry.mk →
          (∀ c, c ≠ 0 → exportRefused v d xs = some c → exec (.wrExport r) s = .next (ends c v)) ∧
          (∀ b table data w h x, exportRefused v d xs = none → v.gen.binds.find? (fun e => e.1 == fld d 0 1) = some b →
            Reads (exportEntries r b.2.gen (128 + 64 * n) xs) v (table, data) w →
            h = packHeader v d n b.2.gen (192 + 64 * n + data.length) ++ table →
            Reads (exportWrite r (bitOf (fld d 0 4) 8) true (fld d 0x10 8) (h ++ data)) w () x →
            exec (.wrExport r) s = .next (after (ringWho r) (setEntry r { ringEntryOf x r with
              stage := 1, digest := sha256 h, signAt := fld d 0x10 8 + (192 + 64 * n + data.length) - 64
              toHost := bitOf (fld d 0 4) 8 } x)))))) ∧
    (∀ e, e = ringEntryOf s r → e.busy = true → e.finished = false → e.stage = 1 →
      (∀ key t, accepted s (ringWho r) = true → s.tr.key = some key → keyLocked s = false →
        Reads (exportWrite r e.toHost false e.signAt (ecdsaSign key e.digest)) (bump pgLockkeeper Reg.TR_SIGNATURES 1 s) () t →
        exec (.exportSign r) s = .next (after (ringWho r) (raiseBit (ringPage r) 4
          (setEntry r { ringEntryOf t r with finished := true, code := 0 } t)))) ∧
      (accepted s (ringWho r) = true → keyLocked s = true →
        exec (.exportSign r) s = .next (ends 0x0710 (trustRefuse 0x0710 s))) ∧
      (answered s (ringWho r) = true → writeCode s (ringWho r) ≠ 0 →
        exec (.exportSign r) s = .next (ends (writeCode s (ringWho r)) (forgetErrors (ringWho r) s))))

/-- WR_COMPLETION completes with these states. -/
def Obligations.ring_completion : Prop :=
  ∀ (s : State) (r : Nat) (e : RingEntry), s.powered = true → r < 64 → e = ringEntryOf s r → e.busy = true →
    (∀ c q, ringRd s r Reg.WR_CFG_LOC = 1 → e.finished = true → e.stage < 2 →
      answered s (ringWho r) = true → answered s (recordWho r) = true →
      c = (if e.code = 0 then writeCode s (ringWho r) else e.code) → q = cqBytes s r (ringRd s r Reg.WR_HEAD) c e.tag →
      ∃ t rest, exec (.wrCompletion r) s = .next t ∧
        t.outs = s.outs ++ [.hostWrite (cqAt s r + 4) (clean q.2) false, .hostWrite (cqAt s r) (clean q.1) false] ++ rest ∧
        ringRd t r Reg.WR_HEAD = (ringRd s r Reg.WR_HEAD + 1) % 2 ^ 32 ∧ ringEntryOf t r = {} ∧
        ringRd t r Reg.WR_CFG_HALTED = (if c = 0 then ringRd s r Reg.WR_CFG_HALTED else 1)) ∧
    (e.finished = true → e.stage < 2 → answered s (ringWho r) = true →
      ∃ t, exec (.wrCompletion r) s = .next t ∧ (ringEntryOf t r = {} ∨ 2 ≤ (ringEntryOf t r).stage)) ∧
    (∀ u, e.stage = 3 → answered s (recordWho r) = true → u = after (recordWho r) s →
      exec (.wrCompletion r) s = .next (after (recordWho r) (retireEntry r e (forgetErrors (recordWho r) u))))

/-- SCHED_START, MAIN_LIST_PASS_BEGIN and SCHED_STOP complete with these states. -/
def Obligations.scheduler_passes : Prop :=
  ∀ (s : State) (tile : Nat), s.powered = true → tile < 4352 →
    (∀ hd es u, writable s (pgTile tile) = true → rd s (pgTile tile) Reg.SCHED_CTRL_START = 0 →
      look false s.gated (clusterOf tile) = false → schedState s tile ≠ 1 →
      Reads (readHeader tile) (clearSched tile s) (hd, es) u →
      ∃ t, exec (.schedStart tile) s = .next t ∧ t = after ⟨pgTile tile, 0⟩ (leaves (startSched tile) s) ∧
        (getTile t tile).mainBase = fld hd 0 4 ∧ (getTile t tile).mainLen = fld hd 4 4 ∧
        (getTile t tile).fillBase = fld hd 8 4 ∧ (getTile t tile).fillLen = fld hd 0xC 4 ∧
        (getTile t tile).compBase = fld hd 0x18 4 ∧ (getTile t tile).compLen = fld hd 0x1C 4 ∧
        rd t (pgTile tile) Reg.SCHED_STEP = 0) ∧
    (writable s (pgTile tile) = true → rd s (pgTile tile) Reg.SCHED_CTRL_START = 0 →
      look false s.gated (clusterOf tile) = false → schedState s tile = 1 →
      exec (.schedStart tile) s = .next (wr (pgTile tile) Reg.SCHED_CTRL_START 1
        (setTile tile { getTile s tile with starting := true } s))) ∧
    (∀ step, schedState s tile = 2 → rd s (pgTile tile) Reg.HA_SPARE_PENDING = 0 → canReopen tile s = false →
      nextPass s (getTile s tile).fresh (rd s (pgTile tile) Reg.GEN_TSTEP) = some step → step < 2 ^ 32 →
      ∃ t, exec (.mainListPassBegin tile) s = .next t ∧ schedState t tile = 1 ∧ rd t (pgTile tile) Reg.GEN_TSTEP = step ∧
        rd t (pgTile tile) Reg.SCHED_PC_MAIN = 0 ∧ (pgTile tile, step) ∈ t.gen.took) ∧
    (writable s (pgTile tile) = true → rd s (pgTile tile) Reg.SCHED_CTRL_STOP = 0 →
      look false s.gated (clusterOf tile) = false → schedState s tile = 2 →
      exec (.schedStop tile) s = .next (setSched tile 0 (setTile tile { getTile s tile with loaded := false } s))) ∧
    (writable s (pgTile tile) = true → rd s (pgTile tile) Reg.SCHED_CTRL_STOP = 0 →
      look false s.gated (clusterOf tile) = false → schedState s tile ≠ 2 →
      exec (.schedStop tile) s = .next (wr (pgTile tile) Reg.SCHED_CTRL_STOP 1
        (setTile tile { getTile s tile with stopping := true } s)))

/-- The issuing commands of ARRAY, DRAIN, TAIL, SEND, RECV and PUMP, and FILL_RING_ISSUE, complete with these states. -/
def Obligations.unit_instructions_issue : Prop :=
  ∀ (s u : State) (tile : Nat) (h : Head), s.powered = true → tile < 4352 →
    (∀ o x, h.opc = 1 → ArrayIssues u tile h o x →
      (HeadAt s tile (isArray tile fun m => m != some 1 && m != some 2) h u →
        ∃ t, exec (.arrayRowRead tile) s = .next t ∧ EntersArray x tile o t) ∧
      (HeadAt s tile (isArray tile fun m => m == some 1) h u →
        ∃ t, exec (.arrayColumnRead tile) s = .next t ∧ EntersArray x tile o t) ∧
      (HeadAt s tile (isArray tile fun m => m == some 2) h u →
        ∃ t, exec (.arrayLoadOnly tile) s = .next t ∧ EntersArray x tile o t) ∧
      (HeadAt s tile (fun h => pure (h.opc == O_ARRAY && h.a1 != 0)) h u →
        ∃ t, exec (.arrayWindowOp tile) s = .next t ∧ EntersArray x tile o t) ∧
      (RingAt s tile h u → ∃ t, exec (.fillRingIssue tile) s = .next t ∧ EntersArray x tile o t)) ∧
    (∀ d i c v x e, h.opc = 2 → DrainIssues u tile h d i c v x →
      e = drainEntry v tile d i c (if (DrainDesc.mk d).toChan then slotsFor v tile (fld d 8 1) (DrainDesc.mk d).vectors else 0) →
      (HeadAt s tile (isOpc O_DRAIN) h u → ∃ t, exec (.drain tile) s = .next t ∧ EntersQueue x tile e t) ∧
      (RingAt s tile h u → ∃ t, exec (.fillRingIssue tile) s = .next t ∧ EntersQueue x tile e t)) ∧
    (∀ d i sc ac dc v x e, h.opc = 3 → TailIssues u tile h d i sc ac dc v x →
      e = tailEntry v tile d i sc ac dc
        (if (TailDesc.mk d).dstCh then slotsFor v tile (fld d 0x50 1) (TailDesc.mk d).vectors else 0) →
      (HeadAt s tile (isTail tile .biasAct) h u → ∃ t, exec (.tailBiasAct tile true) s = .next t ∧ EntersQueue x tile e t) ∧
      (HeadAt s tile (isTail tile .addAct) h u → ∃ t, exec (.tailAddAct tile true) s = .next t ∧ EntersQueue x tile e t) ∧
      (HeadAt s tile (isTail tile .mul) h u → ∃ t, exec (.tailMul tile true) s = .next t ∧ EntersQueue x tile e t) ∧
      (HeadAt s tile (isTail tile .norm) h u → ∃ t, exec (.tailNorm tile true) s = .next t ∧ EntersQueue x tile e t) ∧
      (HeadAt s tile (isTail tile .rowstat) h u → ∃ t, exec (.tailRowstat tile true) s = .next t ∧ EntersQueue x tile e t) ∧
      (HeadAt s tile (isTail tile .normApply) h u → ∃ t, exec (.tailNormApply tile true) s = .next t ∧ EntersQueue x tile e t) ∧
      (HeadAt s tile (isTail tile .convert) h u → ∃ t, exec (.tailConvert tile true) s = .next t ∧ EntersQueue x tile e t) ∧
      (HeadAt s tile (isTail tile .split3) h u → ∃ t, exec (.tailSplit3 tile true) s = .next t ∧ EntersQueue x tile e t) ∧
      (HeadAt s tile (isTail tile .pool) h u → ∃ t, exec (.tailPool tile true) s = .next t ∧ EntersQueue x tile e t) ∧
      (HeadAt s tile (isTail tile .sgd) h u → ∃ t, exec (.tailSgd tile true) s = .next t ∧ EntersQueue x tile e t) ∧
      (HeadAt s tile (isTail tile .adamw) h u → ∃ t, exec (.tailAdamw tile true) s = .next t ∧ EntersQueue x tile e t) ∧
      (RingAt s tile h u → ∃ t, exec (.fillRingIssue tile) s = .next t ∧ EntersQueue x tile e t)) ∧
    (∀ i, h.opc = 4 ∨ h.opc = 5 → CopyIssues u tile h (h.opc == O_SEND) → i = issuedOf tile h 0 u →
      (HeadAt s tile (isOpc O_SEND) h u → ∃ t, exec (.send tile true) s = .next t ∧
        (getTile t tile).copy = (getTile u tile).copy ++ [⟨i, h.a0, bitsOf h.a1 0 6, h.a2⟩] ∧
        (getTile t tile).live = (getTile u tile).live ++ [i] ∧
        (getChan t tile (bitsOf h.a1 0 6)).reserved = (getChan u tile (bitsOf h.a1 0 6)).reserved + h.a2) ∧
      (HeadAt s tile (isOpc O_RECV) h u → ∃ t, exec (.recv tile true) s = .next t ∧
        (getTile t tile).copy = (getTile u tile).copy ++ [⟨i, h.a0, bitsOf h.a1 0 6, h.a2⟩] ∧
        (getTile t tile).live = (getTile u tile).live ++ [i]) ∧
      (RingAt s tile h u → ∃ t, exec (.fillRingIssue tile) s = .next t ∧
        (getTile t tile).copy = (getTile u tile).copy ++ [⟨i, h.a0, bitsOf h.a1 0 6, h.a2⟩] ∧
        (getTile t tile).live = (getTile u tile).live ++ [i])) ∧
    (∀ d x k i, h.opc = 6 → HeadAt s tile (isOpc O_PUMP) h u → MbBound u tile h → beyondWell h.a0 128 = false →
      lockState u (pgPump (clusterOf tile)) = 0 → (freePumpSlot (getPump u (clusterOf tile))).isSome = true →
      Reads (readDesc tile h h.a0 128) u d x → i = issuedOf tile h 0 x → freePumpSlot (getPump x (clusterOf tile)) = some k →
      ∃ t, exec (.pump tile) s = .next t ∧ (getTile t tile).live = (getTile x tile).live ++ [i] ∧
        slotOf t (clusterOf tile) k = some {
          desc := d, addr := h.a0, tile := some (tile, i.seq), mb := h.mb, slot := i.slot, sample := i.sample
          pass := i.pass, stats := i.stats })

/-- WAIT, WAIT_POLL, SIGNAL, SIGNAL_ACK, SEG, FILL_ON, FILL_OFF and STEP_END complete with these states. -/
def Obligations.scheduler_instructions : Prop :=
  ∀ (s : State) (tile : Nat), s.powered = true → tile < 4352 →
    (∀ u h,
      (∀ d v, HeadAt s tile (isOpc O_WAIT) h u → h.opc = 7 → beyondWell h.a0 4 = false →
        windowCheck u (pgTile tile) h.mb [(wellBase tile + h.a0, 4)] [] = none →
        Reads (readDesc tile h h.a0 4) u d v → h.a1 ≤ leNat d →
        exec (.waitCmd tile) s = .next (after ⟨pgTile tile, 0⟩ (leaves (settleHead tile h 0 0) v)) ∧
        exec (.waitPoll tile) s = .next (after ⟨pgTile tile, 0⟩ (leaves (settleHead tile h 0 0) v))) ∧
      (∀ i, HeadAt s tile (isOpc O_SIGNAL) h u → h.opc = 8 → i = issuedOf tile h 0 u →
        (isLocal u (h.a0 + h.a1 * 2 ^ 32) = true →
          windowCheck u (pgTile tile) h.mb [] [(localOf (h.a0 + h.a1 * 2 ^ 32), 4)] = none) →
        ∃ t, exec (.signal tile) s = .next t ∧ (getTile t tile).live = (getTile u tile).live ++ [i] ∧
          t.bus.adds = u.bus.adds ++ [{ who := opWho tile i, addr := h.a0 + h.a1 * 2 ^ 32, val := h.a2 % 2 ^ 32
                                        ord := u.bus.nextOrd }]) ∧
      (∀ d v w, HeadAt s tile (isOpc O_SEG) h u → h.opc = 9 → beyondWell h.a0 8 = false →
        beyondWell h.a1 (16 * h.a2) = false →
        windowCheck u (pgTile tile) h.mb [(wellBase tile + h.a0, 8)] [] = none →
        Reads (readDesc tile h h.a0 8) u d v → w = leaves (settleHead tile h 0 0) v →
        (leNat d = 0 → exec (.seg tile) s = .next (after ⟨pgTile tile, 0⟩ w)) ∧
        (leNat d ≠ 0 → ∃ t, exec (.seg tile) s = .next t ∧
          rd t (pgTile tile) Reg.SEG_RUNS = min (rd w (pgTile tile) Reg.SEG_RUNS + 1) (2 ^ 64 - 1) ∧
          (h.a2 ≠ 0 → rd t (pgTile tile) Reg.SCHED_STATUS_IN_SEG = 1 ∧ (getTile t tile).segBase = h.a1 ∧
            (getTile t tile).segLen = h.a2 ∧ (getTile t tile).segIdx = 0))) ∧
      (HeadAt s tile (isOpc O_FILL_ON) h u → h.opc = 10 → setFree u tile (bitsOf h.a0 0 1) = true →
        exec (.fillOn tile) s = .next (after ⟨pgTile tile, 0⟩ (wr (pgTile tile) Reg.SCHED_STATUS_FILL_SET (bitsOf h.a0 0 1)
          (wr (pgTile tile) Reg.SCHED_STATUS_FILL_OPEN 1 (leaves (settleHead tile h 0 0) u))))) ∧
      (HeadAt s tile (isOpc O_FILL_OFF) h u → h.opc = 11 →
        setFree u tile (rd u (pgTile tile) Reg.SCHED_STATUS_FILL_SET) = true →
        exec (.fillOff tile) s =
          .next (after ⟨pgTile tile, 0⟩ (wr (pgTile tile) Reg.SCHED_STATUS_FILL_OPEN 0 (leaves (settleHead tile h 0 0) u)))) ∧
      (∀ w, HeadAt s tile (isOpc O_STEP_END) h u → h.opc = 12 → liveOf (getTile u tile) false = [] →
        w = toBoundary tile (leaves (settleHead tile h 0 0) u) →
        ((getTile w tile).starting = true → ∃ r x, Reads (readHeader tile) (clearSched tile w) r x) →
        ∃ t, exec (.stepEnd tile) s = .next t ∧
          rd w (pgTile tile) Reg.SCHED_STEP = min (rd u (pgTile tile) Reg.SCHED_STEP + 1) (2 ^ 32 - 1) ∧
          ((getTile w tile).starting = false → (getTile w tile).stopping = false → t = after ⟨pgTile tile, 0⟩ w) ∧
          ((getTile w tile).starting = false → (getTile w tile).stopping = true → schedState t tile = 0) ∧
          ((getTile w tile).starting = true → t = after ⟨pgTile tile, 0⟩ (leaves (startSched tile) w)))) ∧
    (∀ i cycles, (getTile s tile).live.find? (fun i => i.opc == O_SIGNAL && answered s (opWho tile i)) = some i →
      exec (.signalAck tile cycles) s =
        .next (completeIns tile i (writeCode s (opWho tile i)) cycles (forgetErrors (opWho tile i) s)))

/-- STATIONARY_LOAD, VECTOR_ENTRY, ARRAY_OP_COMPLETE, CL_ARITH_UPDATE and MON_ARITH_UPDATE complete with these states. -/
def Obligations.array_work : Prop :=
  ∀ (s : State), s.powered = true →
    (∀ tile before o rows code u, tile < 4352 → nextLoad [] (getTile s tile).array = some (before, o) →
      loadFree before o = true →
      Reads (readUntil (fun i => readVecWith (winRead (opWho tile o.ins) o.ins.slot) o.statFmt 64
        (o.statRow o.loads i).1.1 (o.statRow o.loads i).2.1) (List.range 64)) s (rows, code) u →
      ∃ t, exec (.stationaryLoad tile) s = .next t ∧
        (code = 0 → rows.length = 64 → bankAt (getTile t tile) (o.bankOf o.loads) =
            { fmt := fld o.desc 0x10 4, codes := rows.map Encoded.codes, s8 := rows.map Encoded.s8
              poison := rows.any Encoded.poison, by_ := o.ins.seq } ∧
          (o.loadOnly = false → bitOf (rd t (pgTile tile) Reg.HA_STATUS_BANK_VALID) (o.bankOf o.loads) = true)) ∧
        (code ≠ 0 → ∃ p ∈ (getTile t tile).array, p.ins.seq = o.ins.seq ∧ p.done = true)) ∧
    (∀ tile parity o r u x f, tile < 4352 → (getTile s tile).array.find? (fun o => !o.done) = some o →
      o.loadOnly = false → (o.loadsNeeded = 0 ∨ o.pass < o.loads) →
      (o.owns = true → ∀ q ∈ (getTile s tile).releases, q.1 < o.ins.seq → q.2.1 ≠ o.accSet) →
      (∀ e ∈ (getTile s tile).epi, e.started = false → e.ins.seq < o.ins.seq → e.set ≠ o.accSet + 1) →
      Reads (catchCode (nextVector tile o)) s r u →
      (x, f) = (match parity with
        | some cols => parityFault tile o (cols.filter fun c => (servingColumns u (pgTile tile) 0).contains c) u
        | none => (u, o)) →
      (∀ c, r = .error c → exec (.vectorEntry tile parity) s =
        .next (after ⟨pgTile tile, 0⟩ (after (opWho tile o.ins) (endOp tile o c u)))) ∧
      (∀ v y, r = .ok v → y = addVector tile f (bankCells (bankAt (getTile x tile) (f.bankOf f.pass)))
          (exactElements f.strmFmt v.codes v.s8) f.next
          (v.poison || (bankAt (getTile x tile) (f.bankOf f.pass)).poison || f.bad) x →
        exec (.vectorEntry tile parity) s = .next (after ⟨pgTile tile, 0⟩ (after (opWho tile o.ins)
          (if (stepVector f).pass = (stepVector f).passes then endOp tile (stepVector f) 0 y
           else putOp tile (stepVector f) y))))) ∧
    (∀ tile cycles o, tile < 4352 → (getTile s tile).array.find? (fun o => o.done) = some o →
      ∃ u, exec (.arrayOpComplete tile cycles) s = .next (completeIns tile o.ins o.ins.code cycles (showBusy tile u)) ∧
        (getTile u tile).array = (getTile s tile).array.filter (fun p => p.ins.seq != o.ins.seq) ∧
        (o.isWindow = true → rd u (pgTile tile) Reg.WIN_OPS = min (rd s (pgTile tile) Reg.WIN_OPS + 1) (2 ^ 64 - 1))) ∧
    (∀ k, k < 256 → ∃ t, exec (.clArithUpdate k) s = .next t ∧
      rd t (pgCluster k) Reg.CL_ARITH_INV_TILES = invalidTiles s k % 2 ^ 17 ∧
      (rd s (pgCluster k) Reg.CL_ARITH_FIRST_VALID = 1 →
        rd t (pgCluster k) Reg.CL_ARITH_FIRST_TILE = rd s (pgCluster k) Reg.CL_ARITH_FIRST_TILE)) ∧
    (∃ t, exec .monArithUpdate s = .next t ∧ rd t pgMonitor Reg.MON_ARITH_INV_CLUSTERS =
      ((List.range 256).filter fun k => rd s (pgCluster k) Reg.CL_ARITH_INV_TILES != 0).length % 2 ^ 9)

/-- DRAIN_START, the running TAIL commands, SET_RELEASE, DRAIN_COMPLETE, TAIL_COMPLETE and TAIL_NONFINITE_ROLLUP complete
with these states. -/
def Obligations.epilogue_work : Prop :=
  ∀ (s : State) (tile : Nat), s.powered = true → tile < 4352 →
    (∀ e, EpiFront s tile e → e.tail = false →
      ∃ t, exec (.drainStart tile) s = .next t ∧ t = after ⟨pgTile tile, 0⟩ (leaves (drainStart tile) s) ∧
        EpiStarted t tile e.ins) ∧
    (∀ k e, EpiFront s tile e → e.tail = true → (TailDesc.mk e.desc).is k = true →
      ((TailDesc.mk e.desc).src ≠ 2 ∨ e.ins.code ≠ 0 ∨ (TailDesc.mk e.desc).vectors ≤ e.buf.length →
        (if (TailDesc.mk e.desc).update then ∃ r u, Reads (runUpdate tile e ⟨e.desc⟩
            (draws s 2 (TailDesc.mk e.desc).tag e.ins.sample e.ins.pass)) s r u
          else ∃ r u, Reads (tailOuts tile e ⟨e.desc⟩) s r u) →
        ∃ t, exec (match k with
        | .biasAct => .tailBiasAct tile false | .addAct => .tailAddAct tile false | .mul => .tailMul tile false
        | .norm => .tailNorm tile false | .rowstat => .tailRowstat tile false | .normApply => .tailNormApply tile false
        | .convert => .tailConvert tile false | .split3 => .tailSplit3 tile false | .pool => .tailPool tile false
        | .sgd => .tailSgd tile false | .adamw => .tailAdamw tile false) s = .next t ∧
          t = after ⟨pgTile tile, 0⟩ (leaves (tailRun tile e ⟨e.desc⟩) s) ∧ EpiStarted t tile e.ins) ∧
      (∀ got c u, (TailDesc.mk e.desc).src = 2 → e.ins.code = 0 →
        Reads (consumeAll tile (fld e.desc 8 1) e.ins.slot (opWho tile e.ins)
          ((TailDesc.mk e.desc).vectors - e.buf.length) []) s (got, c) u →
        got ≠ [] → c = 0 → e.buf.length + got.length < (TailDesc.mk e.desc).vectors →
        ∃ t, exec (match k with
        | .biasAct => .tailBiasAct tile false | .addAct => .tailAddAct tile false | .mul => .tailMul tile false
        | .norm => .tailNorm tile false | .rowstat => .tailRowstat tile false | .normApply => .tailNormApply tile false
        | .convert => .tailConvert tile false | .split3 => .tailSplit3 tile false | .pool => .tailPool tile false
        | .sgd => .tailSgd tile false | .adamw => .tailAdamw tile false) s = .next t ∧
          ∃ f ∈ (getTile t tile).epi, f.ins.seq = e.ins.seq ∧ f.buf = e.buf ++ got)) ∧
    (∀ seq set, (getTile s tile).releases.find? (fun r => r.2.2) = some (seq, set, true) →
      ∃ t, exec (.setRelease tile) s = .next t ∧
        (getTile t tile).releases = (getTile s tile).releases.filter (fun q => q.1 != seq) ∧
        rdAt t (pgTile tile) Reg.ACC_SET_RELEASING set = natOf ((getTile t tile).releases.any fun q => q.2.1 == set)) ∧
    (∀ tail cycles e rest u v, (∃ e₀ rest₀, (getTile s tile).epi = e₀ :: rest₀ ∧
        u = offerLeft (opWho tile e₀.ins) (epiAdds tile tail) (dropEpiAdd tile) 1 s) →
      (getTile u tile).epi = e :: rest → e.started = true → e.tail = tail → e.stats = [] →
      slotsAccepted u tile e.ins = true → answered u (opWho tile e.ins) = true →
      v = after ⟨pgTile tile, 0⟩ (after (opWho tile e.ins) (completeIns tile e.ins (writeCode u (opWho tile e.ins)) cycles
        (setTile tile { getTile (forgetErrors (opWho tile e.ins) u) tile with epi := rest }
          (forgetErrors (opWho tile e.ins) u)))) →
      (tail = false → exec (.drainComplete tile cycles) s = .next v) ∧
      (tail = true → exec (.tailComplete tile cycles) s = .next v)) ∧
    (∀ k, k < 256 → ∃ t, exec (.tailNonfiniteRollup k) s = .next t ∧
      rd t (pgCluster k) Reg.CL_TAIL_NONFINITE = min (2 ^ 64 - 1)
        ((List.range 17).foldl (fun n i => n + rd s (pgTile (k * 17 + i)) Reg.TAIL_NONFINITE) 0))

/-- SEND and RECV at work, SEND_COMPLETE, RECV_COMPLETE and PUMP_INSTR_COMPLETE complete with these states. -/
def Obligations.copy_work : Prop :=
  ∀ (s : State) (tile : Nat), s.powered = true → tile < 4352 →
    (∀ c rest, (getTile s tile).copy = c :: rest → 0 < c.left →
      (∀ f k u, c.ins.opc = O_SEND → Reads (sendAll tile c.left c) s (f, k) u →
        ∃ t, exec (.send tile false) s = .next t ∧ t = after ⟨pgTile tile, 0⟩ (leaves (sendRun tile) s) ∧
          (getTile t tile).copy = { f with left := if k = 0 then f.left else 0 } :: rest) ∧
      (∀ f k b u, c.ins.opc ≠ O_SEND → Reads (recvSome tile false (64 * 256) c) s (f, k, b) u → b = true ∨ k ≠ 0 →
        ∃ t, exec (.recv tile false) s = .next t ∧ t = after ⟨pgTile tile, 0⟩ (leaves (recvRun tile) s) ∧
          (getTile t tile).copy = { f with left := if k = 0 then f.left else 0 } :: rest)) ∧
    (∀ c rest cycles v, (getTile s tile).copy = c :: rest → c.left = 0 → slotsAccepted s tile c.ins = true →
      answered s (opWho tile c.ins) = true →
      v = after ⟨pgTile tile, 0⟩ (completeIns tile c.ins (writeCode s (opWho tile c.ins)) cycles
        (setTile tile { getTile (forgetErrors (opWho tile c.ins) s) tile with copy := rest }
          (forgetErrors (opWho tile c.ins) s))) →
      (c.ins.opc = O_SEND → exec (.sendComplete tile cycles) s = .next v) ∧
      (c.ins.opc ≠ O_SEND → exec (.recvComplete tile cycles) s = .next v)) ∧
    (∀ r i cycles, (getPump s (clusterOf tile)).reports.find? (fun r => r.1 == tile) = some r →
      (getTile s tile).live.find? (fun i => i.seq == r.2.1) = some i →
      exec (.pumpInstrComplete tile cycles) s = .next (completeIns tile i r.2.2 cycles (setPump (clusterOf tile)
        { getPump s (clusterOf tile) with reports := dropFirst (fun q => q == r) (getPump s (clusterOf tile)).reports } s)))

/-- CHANNEL_OPEN_REQUEST, CHANNEL_GRANT, CHANNEL_MESSAGE, CREDIT_RETURN, MARKER_NOTICE and CHANNEL_REOPEN complete with
these states. The number of an opening in a message is the model's (log 75). -/
def Obligations.channel_commands : Prop :=
  (∀ (s u : State) (i : Nat) (m : ChanMsg) (c : Chan), s.powered = true → s.chanq[i]? = some m →
      look false s.gated (clusterOf m.toTile) = false → slotHeld s m = false →
      u = (if m.stamp = rd s pgMonitor Reg.MON_MARKER_NUMBER ∧ unlatched s (pgTile m.toTile) = true
        then latchPage (pgTile m.toTile) { s with chanq := s.chanq.eraseIdx i } else { s with chanq := s.chanq.eraseIdx i }) →
      c = getChan u m.toTile m.toCh →
      (∀ rb n, m.body = .openReq rb n →
        (tileLocked u m.toTile = false → chanState u m.toTile m.toCh = 1 →
          exec (.channelOpenRequest i) s = .next (answerOpen m.toTile m.toCh ⟨m.tile, m.ch, m.session⟩ u)) ∧
        (tileLocked u m.toTile = false → chanState u m.toTile m.toCh ≠ 1 →
          exec (.channelOpenRequest i) s =
            .next (setChan m.toTile m.toCh { c with waiting := c.waiting ++ [⟨m.tile, m.ch, m.session⟩] } u)) ∧
        (tileLocked u m.toTile = true → exec (.channelOpenRequest i) s = .next (peerLocked m.tile m.ch u))) ∧
      (∀ rb n k, m.body = .grant rb n k →
        (chanState u m.toTile m.toCh = 3 → c.session = m.session → rb = c.recBytes → n = c.recs →
          exec (.channelGrant i) s = .next (settleOpen m.toTile m.toCh (putChan m.toTile m.toCh { c with
            answered := c.answered ||| receiverBit c m.tile, lent := put 0 c.lent m.tile k
            credits := put 0 c.credits m.tile k } u))) ∧
        (chanState u m.toTile m.toCh = 3 → c.session = m.session → rb ≠ c.recBytes ∨ n ≠ c.recs →
          exec (.channelGrant i) s = .next (settleOpen m.toTile m.toCh
            (wrAt (pgTile m.toTile) Reg.CH_STATUS_MISMATCH m.toCh 1 (putChan m.toTile m.toCh { c with
              answered := c.answered ||| receiverBit c m.tile, lent := put 0 c.lent m.tile k } u)))) ∧
        (chanState u m.toTile m.toCh ≠ 3 ∨ c.session ≠ m.session → exec (.channelGrant i) s = .next u)) ∧
      (m.body = .refuse → chanState u m.toTile m.toCh = 3 → c.session = m.session →
        exec (.channelGrant i) s = .next (settleOpen m.toTile m.toCh (setChan m.toTile m.toCh { c with
          answered := c.answered ||| receiverBit c m.tile, refused := c.refused ||| receiverBit c m.tile } u))) ∧
      (∀ seq count poison bytes op, m.body = .data seq count poison bytes op →
        (tileLocked u m.toTile = false → chanState u m.toTile m.toCh = 1 ∨ chanState u m.toTile m.toCh = 2 →
          c.send = false → c.session = m.session →
          exec (.channelMessage i) s = .next (putChan m.toTile m.toCh { c with
            filled := insertSlot ⟨seq, count, poison, 0⟩ c.filled, got := (c.got + 1) % 2 ^ 32 }
            (memWrite (wellBase m.toTile + c.buf + seq % c.slots * c.slotBytes) (clean bytes) u))) ∧
        (tileLocked u m.toTile = true →
          exec (.channelMessage i) s = .next (peerLocked m.tile m.ch (bounce m op 0x0801 u))) ∧
        (tileLocked u m.toTile = false →
          chanState u m.toTile m.toCh = 0 ∨ chanState u m.toTile m.toCh = 3 ∨ c.send = true ∨ c.session ≠ m.session →
          exec (.channelMessage i) s = .next (bounce m op 0x0412 u))) ∧
      (m.body = .credit → tileLocked u m.toTile = false → chanState u m.toTile m.toCh ≠ 0 → c.send = true →
        c.session = m.session → exec (.creditReturn i) s = .next (putChan m.toTile m.toCh { c with
          credits := put 0 c.credits m.tile (look 0 c.credits m.tile + 1)
          back := put 0 c.back m.tile ((look 0 c.back m.tile + 1) % 2 ^ 32) } u)) ∧
      (∀ ep credits sent back, m.body = .notice ep credits sent back →
        ∃ t, exec (.markerNotice i) s = .next t ∧ t.chanq = u.chanq ∧
          (getChan t m.toTile m.toCh).markCredits = credits + 1 ∧
          rdAt t (pgTile m.toTile) Reg.CH_MARK_INFLIGHT m.toCh = (sent + 2 ^ 32 - c.markGot) % 2 ^ 32)) ∧
  (∀ (s : State) (tile ch : Nat), s.powered = true → tile < 4352 → ch < 64 →
      (chanState s tile ch = 2 → rd s (pgTile tile) Reg.SCHED_STATUS_STATE = 2 → peersOpen s (getChan s tile ch) = true →
        exec (.channelReopen tile ch) s = .next (openChan tile ch (getChan s tile ch) s)) ∧
      (chanState s tile ch ≠ 2 ∨ rd s (pgTile tile) Reg.SCHED_STATUS_STATE ≠ 2 ∨ peersOpen s (getChan s tile ch) = false →
        exec (.channelReopen tile ch) s = .next s))

/-- MB_BIND and BINDING_COPY complete with these states. -/
def Obligations.bindings : Prop :=
  ∀ (s : State), s.powered = true →
    (∀ mb mode need, writable s pgGeneration = true → mb < 255 → 0 < need → need < 256 →
      rdAt s pgGeneration Reg.MB_ENTRY_BOUND mb = 0 → rdAt s pgGeneration Reg.MB_ENTRY_DONE mb < need →
      (mode % 2 = 1 ∨ noStepOpen s = false) →
      ∃ t, exec (.mbBind mb mode need) s = .next t ∧ rdAt t pgGeneration Reg.MB_ENTRY_BOUND mb = 1 ∧
        rdAt t pgGeneration Reg.MB_ENTRY_NEED mb = need ∧
        (mode % 2 = 1 → rdAt t pgGeneration Reg.MB_ENTRY_SLOT mb = committed s % 3)) ∧
    (∀ mb mode need, writable s pgGeneration = true → mb % 256 = 255 ∨ need % 256 = 0 →
      exec (.mbBind mb mode need) s = .next (logErr pgGeneration 0x0152 0 s)) ∧
    (∀ page mb e, s.gen.binds.find? (fun e => e.1 == mb) = some e → holdsCopies page = true → lockState s page = 0 →
      ∃ t, exec (.bindingCopy page mb) s = .next t ∧ look 0 t.gen.copies (page * 256 + mb) = e.2.seq ∧
        ∀ k, k ≠ page * 256 + mb → look 0 t.gen.copies k = look 0 s.gen.copies k)

/-- GEN_ENABLE, STEP_OPEN_NEXT, PENDING_SLOT_OPEN and STATS_ADD_APPLY complete with these states. How an add reaches a
peer's record is the model's (log 77). -/
def Obligations.steps_open : Prop :=
  ∀ (s : State), s.powered = true →
    (writable s pgGeneration = true → rd s pgGeneration Reg.GEN_CTRL_ENABLE = 0 →
      exec (.genEnable true) s = .next (doubtIfCut (redOpens ((rd s pgGeneration Reg.GEN_STEP + 1) % 2 ^ 32)
        (openStep (wr pgGeneration Reg.GEN_STATUS_COORD (natOf (rd s pgGeneration Reg.GEN_GROUP_RANK == 0))
          (wr pgGeneration Reg.GEN_CTRL_ENABLE 1 (clearSteps s))))))) ∧
    (writable s pgGeneration = true → rd s pgGeneration Reg.GEN_CTRL_ENABLE = 1 →
      exec (.genEnable false) s = .next (wr pgGeneration Reg.GEN_STATUS_COORD 0
        (wr pgGeneration Reg.GEN_CTRL_ENABLE 0 (clearSteps s)))) ∧
    (rd s pgGeneration Reg.GEN_CTRL_ENABLE = 1 → lockState s pgGeneration = 0 →
      (s.gen.opened = [] ∨ (s.gen.opened.length = 1 ∧ rd s pgGeneration Reg.GEN_CTRL_AHEAD = 1 ∧ 2 ≤ phase s)) →
      exec .stepOpenNext s = .next (if s.gen.opened = []
        then doubtIfCut (redOpens ((rd s pgGeneration Reg.GEN_STEP + 1) % 2 ^ 32) (openStep s))
        else redOpens ((rd s pgGeneration Reg.GEN_STEP + 1) % 2 ^ 32) (openStep s)) ∧
      (openStep s).gen.opened = s.gen.opened ++ [⟨(rd s pgGeneration Reg.GEN_STEP + 1) % 2 ^ 32, committed s⟩] ∧
      rd (openStep s) pgGeneration Reg.GEN_STEP = (rd s pgGeneration Reg.GEN_STEP + 1) % 2 ^ 32) ∧
    (∀ o os, s.gen.opened = o :: os → phase s < 2 → lockState s pgGeneration = 0 →
      (heldBack s = true → exec .pendingSlotOpen s = .next (stallOpening s)) ∧
      (heldBack s = false → s.gen.copied = true → answered s genWho = true →
        ∃ t, exec .pendingSlotOpen s = .next t ∧ phase t = 2) ∧
      (∀ es u x, heldBack s = false → s.gen.copied = false →
        Reads (walkOpenList o.step (List.range (rd s pgGeneration Reg.GEN_OPEN_COUNT)))
          (wr pgGeneration Reg.GEN_STATUS_STALL_FOURTH 0 s) es u →
        x = after genWho (setPhase 1 { u with gen := { u.gen with copied := true, listed := es } }) →
        (answered x genWho = false → ∃ t, exec .pendingSlotOpen s = .next t ∧ phase t = 1 ∧ t.gen.copied = true ∧
          t.gen.listed = es) ∧
        (answered x genWho = true → ∃ t, exec .pendingSlotOpen s = .next t ∧ phase t = 2))) ∧
    (∀ page a, s.gen.statq.find? (fun a => a.page == page) = some a →
      (dropsAdds s a.step = true → exec (.statsAddApply page) s = .next (dropQueued page s)) ∧
      (∀ at_ old u v, dropsAdds s a.step = false → pendingOpen s a.step = true → at_ = a.addr + 128 * pendingSlot s →
        recordBusy s (statWho page) at_ = false → Reads (busRead (statWho page) at_ 0x70) s old u →
        v = leaves (post (statWho page) at_ (clean (addRecord (old.map Prod.fst) a))) u →
        (a.scale = none → exec (.statsAddApply page) s = .next (after (statWho page) (dropQueued page v))) ∧
        (∀ rec_ alarm p x n, a.scale = some rec_ →
          Reads (busReadNat (statWho page) (rec_ + 128 * pendingSlot s + 8) 4) v (alarm, p) x →
          n = leNat (((old.map Prod.fst).drop 8).take 4) →
          exec (.statsAddApply page) s = .next (after (statWho page) (dropQueued page
            (if alarm ≠ 0 ∧ n < alarm ∧ alarm ≤ min (n + a.crushed) 0xFFFFFFFF then raiseBit a.unit 3 x else x))))))

/-- MODULE_READY, READY, VETO, COMMIT_DEADLINE_EXPIRY, DECISION_RESEND and ACK complete with these states. -/
def Obligations.commit_protocol : Prop :=
  ∀ (s : State) (step : Nat), s.powered = true →
    (currentStep s ≠ some step → ∀ rank code, exec (.ready step rank) s = .next (after genWho (stray s)) ∧
      exec (.veto step code rank) s = .next (after genWho (stray s)) ∧
      exec (.ack step) s = .next (after genWho (stray s))) ∧
    (currentStep s = some step → s.gen.aborting = none →
      (s.gen.readySent = false → s.gen.vetoSent = false → lockState s pgGeneration = 0 →
        (haltedUnits s step = false → gradientVeto s step = false → vetoed s step = false → stepReady s step = true →
          s.res.round = none →
          (∀ u, s.gen.evaluated = false → Reads (evaluateStep step) s () u → vetoed u step = false →
            answered u genWho = false → ∃ t, exec .moduleReady s = .next t ∧ t.gen.evaluated = true) ∧
          (s.gen.evaluated = true → answered s genWho = true → writeCode s genWho = 0 →
            (genRank s ≠ 0 → exec .moduleReady s = .next (after genWho (sendMessage pgGeneration 0x01 (coordModule s)
              (controlData step ((committed s + 1) % 2 ^ 32) 0 (genRank s) 0)
              (setPhase 3 { forgetErrors genWho s with gen := { s.gen with readySent := true } })))) ∧
            (genRank s = 0 → s.gen.decision = none → 0 ∉ s.gen.readyRanks →
              (List.range (genSize s)).all (s.gen.readyRanks ++ [0]).contains = false →
              ∃ t, exec .moduleReady s = .next t ∧ t.gen.readyRanks = s.gen.readyRanks ++ [0] ∧ t.gen.readySent = true ∧
                phase t = 3))) ∧
        (∀ x v, x = noteCauses step s → x.gen.vetoes.find? (fun v => v.1 == step) = some v → genRank s ≠ 0 →
          exec .moduleReady s = .next (after genWho (sendMessage pgGeneration 0x02 (coordModule s)
            (controlData step 0 v.2 (genRank s) 0) { x with gen := { x.gen with vetoSent := true } })))) ∧
      (genRank s = 0 → s.gen.decision = none →
        (∀ rank, rank ∉ s.gen.readyRanks → (List.range (genSize s)).all (s.gen.readyRanks ++ [rank]).contains = false →
          exec (.ready step rank) s =
            .next (after genWho { s with gen := { s.gen with readyRanks := s.gen.readyRanks ++ [rank] } })) ∧
        (∀ rank d u, rank ∉ s.gen.readyRanks → (List.range (genSize s)).all (s.gen.readyRanks ++ [rank]).contains = true →
          d = Decision.held { step := step, commit := true, gen := (committed s + 1) % 2 ^ 32 } s →
          Published d { s with gen := { s.gen with readyRanks := s.gen.readyRanks ++ [rank], decision := some d } } u →
          exec (.ready step rank) s = .next (after genWho u)) ∧
        (∀ d u, d.step = step → d.commit = false → d.gen = 0 →
          Published d { s with gen := { s.gen with decision := some d } } u →
          exec (.veto step d.cause d.rank) s = .next (after genWho u) ∧
          (∀ us, d.cause = 0x0623 → d.rank = 0 → rd s pgGeneration Reg.GEN_DEADLINE ≠ 0 →
            rd s pgGeneration Reg.GEN_DEADLINE ≤ us → 2 ≤ phase s →
            exec (.commitDeadlineExpiry us) s = .next (after genWho u)))) ∧
      (∀ d, s.gen.decision = some d → s.gen.told = false →
        (genSize s ≠ 1 → exec .decisionResend s = .next (sendDecision d (deputyModule s) s)) ∧
        (∀ u, genRank s = 0 → Told d s u → exec (.ack step) s = .next (after genWho u))))

/-- COMMIT, ABORT, QUERY, ABORT_DISCARD and RS_RESOLVE complete with these states. -/
def Obligations.decisions_applied : Prop :=
  ∀ (s : State) (step : Nat), s.powered = true →
    (∀ d : Decision, d.step = step → currentStep s = some step → rd s pgGeneration Reg.GEN_STATUS_IN_DOUBT = 0 →
      ∃ t, t = applyDecision d s ∧
      (d.commit = true → d.cause = 0 → d.rank = 0 → exec (.commit step d.gen) s =
        .next (if isDeputy t then sendAck step t else t)) ∧
      (d.commit = false → d.gen = 0 → exec (.abort step d.cause d.rank) s =
        .next (if isDeputy t then sendAck step t else t))) ∧
    (currentStep s ≠ some step → ∀ t, t = (if isDeputy s && (heldDecision s step).isSome then sendAck step s else stray s) →
      ∀ gen code rank, exec (.commit step gen) s = .next t ∧ exec (.abort step code rank) s = .next t) ∧
    (∀ rank map u, isDeputy s = true → step ∉ s.gen.cut → Reads readMap s map u →
      (∀ d, heldDecision s step = some d → exec (.query step rank) s = .next (after genWho
        (if map.getD rank 0 = 0 then u else sendDecision d (map.getD rank 0) u))) ∧
      (∀ d, heldDecision s step = none → currentStep s = some step →
        d = { step := step, commit := false, cause := 0x0624, rank := 0 } →
        exec (.query step rank) s = .next (after genWho
          ((map.eraseDups.filter fun m => m != 0 && m != ownModule u).foldl (fun s m => sendDecision d m s)
            (applyDecision d u))))) ∧
    (∀ d, s.gen.aborting = some d → finishingUnits s d.step = false → exec .abortDiscard s =
      .next (resolveStep d.step (lossResolve d.step false (raiseBit pgGeneration 5 (journal 0x07 d.cause pgGeneration d.step
        (lifeAddTo 8 0xE8 1 (bump pgGeneration Reg.GEN_ABORTS 1 (wr pgGeneration Reg.GEN_ABORT_CAUSE d.cause
          (wr pgGeneration Reg.GEN_ABORT_RANK d.rank (wr pgGeneration Reg.GEN_ABORT_STEP d.step
            (logErr pgGeneration d.cause 0 s))))))))))) ∧
    (writable s pgResilience = true → currentStep s = some step → rd s pgGeneration Reg.GEN_STATUS_IN_DOUBT = 1 →
      exec (.rsResolve 1) s =
        .next (applyDecision { step := step, commit := true, gen := (committed s + 1) % 2 ^ 32 } s) ∧
      exec (.rsResolve 2) s = .next (applyDecision { step := step, commit := false, cause := 0x0624, rank := 0 } s)) ∧
    (writable s pgResilience = true → rd s pgGeneration Reg.GEN_STATUS_IN_DOUBT = 0 → ∀ v,
      exec (.rsResolve v) s = .next (logErr pgResilience 0x0655 0 s))

/-- PM_SUBMIT, PUMP_COPY, PUMP_CONVERT, PUMP_STREAM, STREAM_RECORD, STREAM_POLL and PUMP_DESC_COMPLETE complete with these
states. -/
def Obligations.pump_descriptors : Prop :=
  ∀ (s : State), s.powered = true →
    (∀ n off (data : List Byte), n < 32 → writable s (pgPump (256 + n)) = true → lockState s (pgPump (256 + n)) = 0 →
      (off = 0 → data.length = 16 → (getPump s (256 + n)).queue.length < 16 → ∃ t, exec (.pmSubmit n off data) s = .next t ∧
        (getPump t (256 + n)).queue = (getPump s (256 + n)).queue ++ [(fld data 0 8, fld data 8 8)]) ∧
      (off = 0 → data.length = 16 → 16 ≤ (getPump s (256 + n)).queue.length → exec (.pmSubmit n off data) s = .next s) ∧
      (off ≠ 0 ∨ data.length ≠ 16 → exec (.pmSubmit n off data) s =
        .next (logErr (pgPump (256 + n)) 0x01A5 0 (bump (pgPump (256 + n)) Reg.PM_REFUSED 1 s)))) ∧
    (∀ p k w, w = slotWho p k →
      (∀ a record rest d u v, 256 ≤ p → p < 288 → k < 8 → slotOf s p k = none → lockState s (pgPump p) = 0 →
        (getPump s p).queue = (a, record) :: rest → a % 128 = 0 → Reads (busRead w a 128) s d u →
        v = after w (putSlot p k { desc := d.map Prod.fst, addr := a, record := record, slot := committed u % 3
                                   pass := rd u pgGeneration Reg.GEN_STEP } (setPump p { getPump u p with queue := rest } u)) →
        (fld (d.map Prod.fst) 0 1 = 2 → exec (.pumpConvert p k) s = exec (.pumpConvert p k) v) ∧
        (fld (d.map Prod.fst) 0 1 = 3 → exec (.pumpStream p k) s = exec (.pumpStream p k) v) ∧
        (fld (d.map Prod.fst) 0 1 ≠ 2 → fld (d.map Prod.fst) 0 1 ≠ 3 → exec (.pumpCopy p k) s = exec (.pumpCopy p k) v)) ∧
      (∀ y, slotOf s p k = some y → (256 ≤ p ∨ (y.kind ≠ 4 ∧ y.kind ≠ 5)) →
        (∀ c u, (y.check s).or (if y.kind = 2 then none else y.windowCode s y.reads y.writes) = some c →
          u = after w (putSlot p k { y with started := true, finished := true, code := c } s) →
          (startable y 1 = true → exec (.pumpCopy p k) s = .next u) ∧
          (startable y 2 = true → exec (.pumpConvert p k) s = .next u) ∧
          (startable y 3 = true → exec (.pumpStream p k) s = .next u)) ∧
        (y.check s = none →
          (∀ n c u, startable y 1 = true → y.windowCode s y.reads y.writes = none →
            Reads (copyRows p k y (List.range y.rows)) s (n, c) u →
            exec (.pumpCopy p k) s =
              .next (after w (putSlot p k { y with bytes := n, started := true, finished := true, code := c } u))) ∧
          (∀ cs cd n c st u₁ u₂ u, startable y 2 = true → y.windowCode s y.reads y.writes = none →
            Reads (readCoarse w y.srcFmt (fld y.desc 0x30 8) y.slot) s cs u₁ →
            Reads (readCoarse w y.dstFmt (fld y.desc 0x38 8) y.slot) u₁ cd u₂ →
            Reads (convertRows p k y cs cd (draws s 6 (fld y.desc 2 2) y.sample y.pass) (List.range y.rows)) u₂ (n, c, st) u →
            exec (.pumpConvert p k) s = .next (after w (putSlot p k { y with
              bytes := n, adds := xferStats p y st, started := true, finished := true, code := c } u))) ∧
          (∀ a b u₁ u, startable y 3 = true → y.windowCode s y.reads y.writes = none →
            Reads (xferRead w y (fld y.desc 0x48 8) 4) s a u₁ → Reads (xferRead w y (fld y.desc 0x38 8) 4) u₁ b u →
            exec (.pumpStream p k) s = .next (after w (putSlot p k { y with
              started := true, taken := leNat (a.map Prod.fst), delivered := leNat (b.map Prod.fst)
              srcTail := leNat (a.map Prod.fst), dstHead := leNat (b.map Prod.fst) } u))))) ∧
      (∀ y, slotOf s p k = some y → y.started = true → y.finished = false → y.kind = 3 →
        (∀ b n u v, y.copied = false → sub32 y.srcTail y.taken ≠ 0 → y.fill < fld y.desc 0x24 4 →
          Reads (xferRead w y (fld y.desc 0x10 8 + y.taken % fld y.desc 0x20 4 * y.size) y.size)
            { s with bus := { s.bus with slack := y.slackNs + 1 } } b u →
          Reads (xferWrite p w (fld y.desc 0x18 8 + y.delivered % fld y.desc 0x24 4 * y.size) b) u n v →
          exec (.streamRecord p k) s = .next (attempt w (streamCounts p k) (after w
            (putSlot p k { y with copied := true, bytes := y.bytes + n } { v with bus := { v.bus with slack := 0 } })))) ∧
        (∀ x u v, y.copied = true → x = after w s →
          (accepted s w = true →
            Reads (busWriteNat w (fld y.desc 0x38 8) 4 ((y.delivered + 1) % 2 ^ 32))
              { x with bus := { x.bus with slack := y.slackNs + 1 } } () u →
            Reads (busWriteNat w (fld y.desc 0x48 8) 4 ((y.taken + 1) % 2 ^ 32)) u () v →
            exec (.streamRecord p k) s =
              .next (after w (putSlot p k y.nextRecord { v with bus := { v.bus with slack := 0 } }))) ∧
          (answered s w = true → writeCode s w ≠ 0 → ∃ t z, exec (.streamRecord p k) s = .next t ∧ slotOf t p k = some z ∧
            z.finished = true ∧ z.code = writeCode s w)) ∧
        (∀ tl hd z u₁ u₂ u f, Reads (streamWord w y 0x28) s tl u₁ → Reads (streamWord w y 0x30) u₁ hd u₂ →
          Reads (if fld y.desc 0x50 8 = 0 then pure 0 else streamWord w y 0x50) u₂ z u →
          f = { y with srcTail := tl, dstHead := hd, stopped := y.stopped || z != 0 } →
          (f.streamDone = true → exec (.streamPoll p k) s =
            .next (after w (putSlot p k { f with started := true, finished := true, code := 0 } u))) ∧
          (f.streamDone = false → exec (.streamPoll p k) s =
            .next (after w (putSlot p k (dryPeriod p f u).1 (dryPeriod p f u).2))))) ∧
      (∀ y u, slotOf s p k = some y → y.finished = true → y.adds = [] → answered s (signalWho p k) = true →
        (y.signaled = true → u = forgetErrors (signalWho p k) s → y.tile.isSome = true ∨ y.record = 0 →
          exec (.pumpDescComplete p k) s = .next (after w (freeXfer p k y u))) ∧
        (y.signaled = false → answered s w = true → u = forgetErrors (signalWho p k) (forgetErrors w s) → ∀ z,
          z = { y with code := y.lastCode (writeCode s w) (writeCode s (signalWho p k)) } →
          (z.code = 0 → y.kind < 4 → fld y.desc 0x60 8 ≠ 0 → exec (.pumpDescComplete p k) s =
            .next (after w (putSlot p k { z with signaled := true }
              (pushAdd (signalWho p k) (fld y.desc 0x60 8) (fld y.desc 0x68 4) none u)))) ∧
          (z.code ≠ 0 ∨ 4 ≤ y.kind ∨ fld y.desc 0x60 8 = 0 → y.tile.isSome = true ∨ y.record = 0 →
            exec (.pumpDescComplete p k) s = .next (after w (freeXfer p k z u))) ∧
          (z.code ≠ 0 ∨ 4 ≤ y.kind ∨ fld y.desc 0x60 8 = 0 → y.tile.isSome = false → y.record ≠ 0 →
            ∃ t, exec (.pumpDescComplete p k) s = .next t ∧ slotOf t p k = none))))

/-- PACK_START, PACK_BODY, PACK_HEADER_VALID, PACK_COMPLETE and UNPACK complete with these states. -/
def Obligations.packer_stages : Prop :=
  ∀ (s : State) (p k : Nat) (ks : List Nat) (y : Xfer) (w : Who), s.powered = true → p < 256 →
    (getPump s p).packs = k :: ks → slotOf s p k = some y → y.finished = false → w = slotWho p k →
    (∀ c u, y.stage = 0 → u = after w (putSlot p k { y with started := true, finished := true, code := c } s) →
      (y.kind = 4 → y.packCheck s = some c → exec (.packStart p) s = .next u) ∧
      (y.kind = 5 → (y.packCheck s).or (y.windowCode s y.packReads y.packWrites) = some c →
        ∃ t, exec (.unpack p) s = .next t ∧ slotOf t p k = slotOf u p k)) ∧
    (y.kind = 4 → y.stage = 0 → y.packCheck s = none → y.windowCode s y.packReads y.packWrites = none →
      (∀ u, y.isDrop = true → Reads (do let _ ← xferWrite p (signalWho p k) y.mark (clean (leBytes 8 (y.markWord 24)))) s () u →
        exec (.packStart p) s = .next (after w (putSlot p k { y with started := true, finished := true, code := 0 }
          (bump (pgCluster p) Reg.AW_DROPS 1 u)))) ∧
      (∀ coarse u h v, y.isDrop = false →
        Reads (if y.passThrough then (if y.pkFmt.coarseOne then pure f32One else do
            let (v, _) ← busReadNat w (y.pkScale + 128 * y.slot) 4
            pure v)
          else do
            let _ ← readCoarse w y.tFmt y.tScale y.slot
            readCoarse w y.pkFmt y.pkScale y.slot) s coarse u →
        h = y.headerBytes coarse (Config.freeNat u.drawn) (Config.freeNat (u.drawn + 1)) (Config.freeNat (u.drawn + 2)) 0 →
        Reads (packWrite p k y.packed (clean h)) { u with drawn := u.drawn + 3 } () v →
        exec (.packStart p) s = .next (after w (putSlot p k { y with started := true, stage := 1, header := h } v)))) ∧
    (∀ ct rows code u chunks u₀, y.kind = 4 → y.stage = 1 → accepted s w = true →
      Reads (if y.passThrough then pure (fld y.header 4 4) else readCoarse w y.tFmt y.tScale y.slot) s ct u₀ →
      Reads (readUntil (packRow p k y ct (fld y.header 4 4) (draws s 5 y.tensor y.sample y.pass)) (List.range y.packRows))
        u₀ (rows, code) u →
      chunks = piecesOfList y.chunkBlocks ((rows.map Prod.fst).flatten.length + 1) (rows.map Prod.fst).flatten →
      (∀ f a v x, code = 0 → f.adds = (match y.tile, y.stats with
          | some (t, _), some step => if y.pkFmt.stats ∧ y.makesAdds then
              [{ statAdd (pgTile t) step y.pkStats (if y.pkFmt.coarseOne then none else some y.pkScale)
                  (sumStats (rows.map Prod.snd)) with unit := pgCluster p }] else []
          | _, _ => []) →
        f = { y with adds := f.adds } → Reads (writeChunks p k f chunks {}) u (a, 0) v →
        Reads (packWrite p k (y.packed + 64) (clean (padTo y.indexBytes (a.index.flatMap (leBytes 4))))) v () x →
        exec (.packBody p) s = .next (after w (putSlot p k { f with
          stage := 2, bytes := 64 * a.body, header := y.headerBytes (fld y.header 4 4) a.body a.coded a.raw 1 } x))) ∧
      (∀ a v, code ≠ 0 → Reads (writeChunks p k y (chunks.filter fun c => c.length == y.chunkBlocks) {}) u (a, 0) v →
        ∃ t z, exec (.packBody p) s = .next t ∧ slotOf t p k = some z ∧ z.finished = true ∧ z.code = code)) ∧
    (∀ u, y.kind = 4 → y.stage = 2 → accepted s w = true → Reads (packWrite p k y.packed (clean y.header)) s () u →
      exec (.packHeaderValid p) s = .next (after w (putSlot p k { y with stage := 3 } u))) ∧
    (∀ u, y.kind = 4 → y.stage = 3 → accepted s w = true →
      Reads (do let _ ← xferWrite p (signalWho p k) y.mark (clean (leBytes 8 0))) s () u →
      exec (.packComplete p) s = .next (after w (putSlot p k { y with started := true, finished := true, code := 0 }
        (bump (pgCluster p) Reg.AW_PACKS 1 u)))) ∧
    (∀ c, y.kind = 4 → 1 ≤ y.stage → y.stage ≤ 3 → answered s w = true → writeCode s w = c → c ≠ 0 →
      y.fallback = false ∨ lostCode c = false → ∃ t z, exec (match y.stage with
        | 1 => .packBody p | 2 => .packHeaderValid p | _ => .packComplete p) s = .next t ∧
        slotOf t p k = some z ∧ z.finished = true ∧ z.code = c) ∧
    (∀ m u, y.kind = 5 → y.stage = 0 → (y.packCheck s).or (y.windowCode s y.packReads y.packWrites) = none →
      Reads (xferRead w y y.mark 8) s m u →
      (leNat (m.map Prod.fst) ≠ 0 → exec (.unpack p) s = .next (after w (putSlot p k { y with
        started := true, finished := true, code := 0 } (bump (pgCluster p) Reg.AW_SKIPS 1 u)))) ∧
      (∀ coarse body index v o x, leNat (m.map Prod.fst) = 0 → Reads (readPacked p k y) u (coarse, body, index) v →
        Reads (unpackChunks p k y coarse body ((List.range y.chunks).zip index) [] 0) v o x →
        (∀ z, o = none → Reads (writeScaleRecord p k y coarse) x () z → exec (.unpack p) s =
          .next (packCommand p 5 1 (unpackEnd p) (after w (putSlot p k { y with started := true, stage := 1 } z)))) ∧
        (∀ c b, o = some (c, b) → b = false ∨ y.fallback = false ∨ lostCode c = false →
          ∃ t z, exec (.unpack p) s = .next t ∧ slotOf t p k = some z ∧ z.finished = true ∧ z.code = c)) ∧
      (∀ c v, leNat (m.map Prod.fst) = 0 → runM (readPacked p k y) u = (.error (.code c), v) →
        y.fallback = false ∨ lostCode c = false →
        ∃ t z, exec (.unpack p) s = .next t ∧ slotOf t p k = some z ∧ z.finished = true ∧ z.code = c) ∧
      (∀ c v x, leNat (m.map Prod.fst) = 0 → runM (readPacked p k y) u = (.error (.code c), v) →
        y.fallback = true → lostCode c = true →
        Reads (do let _ ← xferWrite p (signalWho p k) y.mark (clean (leBytes 8 (y.markWord 25)))) v () x →
        ∃ t z, exec (.unpack p) s = .next t ∧ slotOf t p k = some z ∧ z.finished = true ∧ z.code = 0 ∧ z.fell = true ∧
          rd t (pgCluster p) Reg.AW_FALLBACKS = min (rd x (pgCluster p) Reg.AW_FALLBACKS + 1) (2 ^ 64 - 1))) ∧
    (y.kind = 5 → y.stage = 1 → answered s w = true → exec (.unpack p) s = .next (after w (putSlot p k { y with
      started := true, finished := true, code := writeCode s w }
      (if writeCode s w = 0 then countDone p y (after w (forgetErrors w s)) else after w (forgetErrors w s)))))

/-- AP_START, AP_STOP, HP_START and HP_STOP complete with these states. -/
def Obligations.pipelines_start_stop : Prop :=
  ∀ (s : State) (k : Nat), s.powered = true →
    (k < 256 → writable s (pgAttention k) = true →
      (rd s (pgAttention k) Reg.AP_CTRL_START = 0 → look false s.gated k = true →
        exec (.apStart k) s = .next (writeWhenAwake k (pgAttention k) 0x100 1 s)) ∧
      (∀ h, rd s (pgAttention k) Reg.AP_CTRL_START = 0 → look false s.gated k = false → apState s k ≠ 1 →
        h = storeBytes (getPipe s k).store (getPipe s k).header 64 →
        ∃ t, exec (.apStart k) s = .next t ∧ (getPipe t k).list = fld h 0 4 ∧ (getPipe t k).count = fld h 4 4 ∧
          (getPipe t k).comp = fld h 8 8 ∧ (getPipe t k).compLen = fld h 0x10 4 ∧ (getPipe t k).run = none ∧
          (65536 < (getPipe s k).header + 64 ∨ apHeaderBad h = true →
            apState t k = 3 ∧ rd t (pgAttention k) Reg.AP_STATUS_HALT_CODE = 0x0176) ∧
          ((getPipe s k).header + 64 ≤ 65536 → apHeaderBad h = false →
            apState t k = 2 ∧ rd t (pgAttention k) Reg.AP_PC = 0 ∧ rd t (pgAttention k) Reg.AP_STATUS_HALT_CODE = 0)) ∧
      (rd s (pgAttention k) Reg.AP_CTRL_START = 0 → look false s.gated k = false → apState s k = 1 →
        exec (.apStart k) s = .next (wr (pgAttention k) Reg.AP_CTRL_START 1
          (setPipe k { getPipe s k with starting := true } s))) ∧
      (rd s (pgAttention k) Reg.AP_CTRL_STOP = 0 → look false s.gated k = true →
        exec (.apStop k) s = .next (writeWhenAwake k (pgAttention k) 0x100 2 s)) ∧
      (rd s (pgAttention k) Reg.AP_CTRL_STOP = 0 → look false s.gated k = false → apState s k = 2 →
        exec (.apStop k) s = .next (setApState k 0 (setPipe k { getPipe s k with loaded := false } s))) ∧
      (rd s (pgAttention k) Reg.AP_CTRL_STOP = 0 → look false s.gated k = false → apState s k ≠ 2 →
        exec (.apStop k) s = .next (wr (pgAttention k) Reg.AP_CTRL_STOP 1
          (setPipe k { getPipe s k with stopping := true } s)))) ∧
    (k < 32 → writable s (pgHandpump k) = true →
      (∀ h, rd s (pgHandpump k) Reg.HP_CTRL_START = 0 → hpState s k ≠ 1 →
        h = storeBytes (getHp s k).store (getHp s k).header 64 →
        ∃ t, exec (.hpStart k) s = .next t ∧ (getHp t k).list = fld h 0 4 ∧ (getHp t k).count = fld h 4 4 ∧
          (getHp t k).comp = fld h 8 8 ∧ (getHp t k).compLen = fld h 0x10 4 ∧ (getHp t k).run = none ∧
          (32768 < (getHp s k).header + 64 ∨ hpHeaderBad h = true →
            hpState t k = 3 ∧ rd t (pgHandpump k) Reg.HP_STATUS_HALT_CODE = 0x0189) ∧
          ((getHp s k).header + 64 ≤ 32768 → hpHeaderBad h = false →
            hpState t k = 2 ∧ rd t (pgHandpump k) Reg.HP_PC = 0 ∧ rd t (pgHandpump k) Reg.HP_STATUS_HALT_CODE = 0)) ∧
      (rd s (pgHandpump k) Reg.HP_CTRL_START = 0 → hpState s k = 1 →
        exec (.hpStart k) s = .next (wr (pgHandpump k) Reg.HP_CTRL_START 1 (setHp k { getHp s k with starting := true } s))) ∧
      (rd s (pgHandpump k) Reg.HP_CTRL_STOP = 0 → hpState s k = 2 →
        exec (.hpStop k) s = .next (setHpState k 0 (setHp k { getHp s k with loaded := false } s))) ∧
      (rd s (pgHandpump k) Reg.HP_CTRL_STOP = 0 → hpState s k ≠ 2 →
        exec (.hpStop k) s = .next (wr (pgHandpump k) Reg.HP_CTRL_STOP 1 (setHp k { getHp s k with stopping := true } s))))

/-- AT_FORWARD, AT_BACKWARD, AT_WAIT_POLL, AT_PASS and AT_DESC_COMPLETE complete with these states. -/
def Obligations.attention_descriptors : Prop :=
  ∀ (s : State) (k : Nat), s.powered = true → k < 256 → look false s.gated k = false →
    (∀ mine r u, AtReady (apPassBegin k mine s) k mine r u → ∀ at_,
      at_ = (getPipe (apPassBegin k mine s) k).list + 128 * r.index →
      ∀ c : Instr, (c = .atForward k ∧ mine = fun m => m != 1) ∨ (c = .atBackward k ∧ mine = fun m => m == 1) ∨
          (c = .atWaitPoll k ∧ mine = fun _ => true) →
        (∀ e, r.check at_ = some e →
          exec c s = .next (after (apWho k) (setPipe k { getPipe u k with run := some { r with code := e } } u))) ∧
        (∀ u₁ u₂ qs f, r.check at_ = none → Reads (atReadChecks k r) u () u₁ →
          Reads (readSeqs k r (List.range r.seqCount)) u₁ qs u₂ →
          f = { r with fallback := usesFallback r qs, passes := allPasses r (usesFallback r qs) qs } →
          exec c s = .next (after (apWho k) (if usesFallback r qs then
              wr (pgAttention k) Reg.AP_STATUS_FALLBACK 1
                (bump (pgAttention k) Reg.AT_FALLBACK_RUNS 1 (setPipe k { getPipe u₂ k with run := some f } u₂))
            else setPipe k { getPipe u₂ k with run := some f } u₂)))) ∧
    (∀ parity r p ps go, (getPipe s k).run = some r → r.passes = p :: ps →
      go = (fun u => passSteps k parity (passFuel s k - 1) (after (apWho k) u)) →
      (∀ q u, r.cur = none → r.code = 0 → p.pairs = [] → Reads (readSeq k r p.seq) s q u →
        exec (.atPass ⟨k, parity⟩) s = .next (go (withRun k { r with passes := seqPasses r q.nkb (p.seq, q) ++ ps } u))) ∧
      (∀ x u, r.cur = none → r.code = 0 → p.pairs ≠ [] → Reads (groupFetch k r p) s x u →
        exec (.atPass ⟨k, parity⟩) s = .next (go (withRun k { r with cur := some x } u))) ∧
      (∀ x, r.cur = some x →
        (x.stage = 0 → x.block < p.blocks → (SeqRec.mk p.record).nkb ≤ x.block →
          exec (.atPass ⟨k, parity⟩) s = .next (go (withRun k { r with cur := some { x with block := x.block + 1 } }
            (bump (pgAttention k) Reg.AT_PAD_BLOCKS 1 (bump (pgAttention k) Reg.AT_KEY_BLOCKS 1 s))))) ∧
        (∀ u, x.stage = 0 → x.block < p.blocks → x.block < (SeqRec.mk p.record).nkb →
          Reads (blockTable k r ⟨p.record⟩ x) s none u →
          exec (.atPass ⟨k, parity⟩) s = .next (go (withRun k { r with cur := some { x with block := x.block + 1 } }
            (bump (pgAttention k) Reg.AT_SKIPPED_BLOCKS 1 u)))) ∧
        (∀ hs u, x.stage = 0 → x.block < p.blocks → x.block < (SeqRec.mk p.record).nkb →
          Reads (blockTable k r ⟨p.record⟩ x) s (some hs) u →
          exec (.atPass ⟨k, parity⟩) s = .next (go (withRun k { r with cur := some { x with want := hs, stage := 1 } } u))) ∧
        (∀ h serial rest, x.stage = 1 → x.want = (h, serial) :: rest → WellheadTakes s (h / 2 ^ 31 % 2) →
          (∃ v, Reads (pinPage (h / 2 ^ 31 % 2) h serial) (bump (pgWellhead (h / 2 ^ 31 % 2)) Reg.WH_CMDS 1 s) () v) →
          ∃ u, exec (.atPass ⟨k, parity⟩) s = .next (go (withRun k { r with cur := some { x with want := rest } } u)) ∧
            (getPipe u k).pins = (getPipe s k).pins ++ [(h, serial)]) ∧
        (∀ y u, x.stage = 1 → x.want = [] → Reads (meetBlock k r p x parity) s y u →
          exec (.atPass ⟨k, parity⟩) s = .next (go (withRun k { r with cur := some { y with stage := 2 } } u))) ∧
        (∀ h serial rest, x.stage = 2 → (getPipe s k).pins = (h, serial) :: rest → WellheadTakes s (h / 2 ^ 31 % 2) →
          (∃ r v, Reads (catchCode (unpinPage (h / 2 ^ 31 % 2) h serial))
            (bump (pgWellhead (h / 2 ^ 31 % 2)) Reg.WH_CMDS 1 s) r v) →
          ∃ u, exec (.atPass ⟨k, parity⟩) s = .next (go (withRun k r u)) ∧ (getPipe u k).pins = rest) ∧
        (x.stage = 2 → (getPipe s k).pins = [] → x.code = 0 →
          exec (.atPass ⟨k, parity⟩) s =
            .next (go (withRun k { r with cur := some { x with stage := 0, block := x.block + 1 } } s))) ∧
        (x.stage = 2 → (getPipe s k).pins = [] → x.code ≠ 0 →
          exec (.atPass ⟨k, parity⟩) s = .next (after (apWho k) (leaves (endPass k r ps x) s))) ∧
        (∀ st c u v, x.stage = 0 → p.blocks ≤ x.block →
          Reads (if r.backward then pure (x.stats, 0) else writeRows (writeForward k r ⟨p.record⟩ x.co) (getPipe s k).rows
            x.stats) s (st, c) u → v = (if c = 0 then u else noteFailure (apWho k) c u) →
          exec (.atPass ⟨k, parity⟩) s = .next (after (apWho k) (leaves (endPass k r ps { x with stats := st, code := c }) v)))) ∧
      (∀ x v, ∃ q, (getPipe (leaves (endPass k r ps x) v) k).run = some q ∧ q.cur = none ∧
        q.code = (if x.fault then 0x0210 else x.code) ∧ q.passes = (if q.code = 0 then ps else []) ∧
        rd (leaves (endPass k r ps x) v) (pgAttention k) Reg.AT_PASSES =
          min (rd v (pgAttention k) Reg.AT_PASSES + 1) (2 ^ 64 - 1))) ∧
    (∀ cycles r c, (getPipe s k).run = some r → r.passes = [] → r.adds = [] → answered s (apWho k) = true →
      c = (if writeCode s (apWho k) = 0 then r.code else writeCode s (apWho k)) →
      ∃ t, exec (.atDescComplete k cycles) s = .next t ∧ (getPipe t k).run = none ∧
        rd t (pgAttention k) Reg.AT_PROGRESS = min (rd s (pgAttention k) Reg.AT_PROGRESS + 1) (2 ^ 64 - 1) ∧
        (c ≠ 0 → apState t k = 3) ∧
        (c ≠ 0 → apState s k ≠ 3 → rd t (pgAttention k) Reg.AP_STATUS_HALT_CODE = c % 2 ^ 16) ∧
        (c = 0 → r.index + 1 < (getPipe s k).count → rd t (pgAttention k) Reg.AP_PC = (r.index + 1) % 2 ^ 9) ∧
        (c = 0 → (getPipe s k).count ≤ r.index + 1 →
          apState t k ≠ 1))

/-- CONV, CROP, WGRAD, HD_WAIT_POLL and HD_DESC_COMPLETE complete with these states. -/
def Obligations.handpump_descriptors : Prop :=
  ∀ (s : State) (h : Nat), s.powered = true → h < 32 →
    (∀ mine r u, HpReady (hpPassBegin h mine s) h mine r u → ∀ x at_, x = HdDesc.mk r.desc →
      at_ = (getHp (hpPassBegin h mine s) h).list + 192 * r.index →
      ∀ c : Instr, (c = .conv h ∧ mine = fun o => o == 0 || o == 3) ∨ (c = .crop h ∧ mine = fun o => o == 1) ∨
          (c = .wgrad h ∧ mine = fun o => o == 2) ∨ (c = .hdWaitPoll h ∧ mine = fun _ => true) →
        (∀ e, x.check at_ = some e →
          exec c s = .next (after (hpWho h) (setHp h { getHp u h with run := some { r with code := e } } u))) ∧
        (∀ w u₁ st e u₂ v, x.check at_ = none → Reads (hpOperands h x r.slot) u w u₁ →
          Reads (hpCompute h x w (draws (hpPassBegin h mine s) 4 x.tag r.sample r.pass)) u₁ (st, e) u₂ →
          v = (if e = 0 then u₂ else noteFailure (hpWho h) e u₂) →
          exec c s = .next (after (hpWho h) (setHp h { getHp v h with run := some { r with
            code := e
            adds := match r.stats with
              | some step => if x.outFmt.stats then
                  [statAdd (pgHandpump h) step (fld x.d 0x88 8) (if x.outFmt.coarseOne then none else some (fld x.d 0x80 8)) st]
                  else []
              | none => [] } } v)))) ∧
    (∀ cycles r c, (getHp s h).run = some r → r.adds = [] → answered s (hpWho h) = true →
      c = (if writeCode s (hpWho h) = 0 then r.code else writeCode s (hpWho h)) →
      ∃ t, exec (.hdDescComplete h cycles) s = .next t ∧ (getHp t h).run = none ∧
        rd t (pgHandpump h) Reg.HP_PROGRESS = min (rd s (pgHandpump h) Reg.HP_PROGRESS + 1) (2 ^ 64 - 1) ∧
        (c ≠ 0 → hpState t h = 3) ∧
        (c ≠ 0 → hpState s h ≠ 3 → rd t (pgHandpump h) Reg.HP_STATUS_HALT_CODE = c % 2 ^ 16) ∧
        (c = 0 → r.index + 1 < (getHp s h).count → rd t (pgHandpump h) Reg.HP_PC = (r.index + 1) % 2 ^ 8) ∧
        (c = 0 → (getHp s h).count ≤ r.index + 1 → hpState t h ≠ 1))

/-- WH_CMD_PORT_WRITE, ALLOC, SHARE, FREE, COW, PIN, UNPIN, LOOKUP, INSERT and EVICT complete with these states. -/
def Obligations.wellhead_commands : Prop :=
  ∀ (s : State) (n : Nat), s.powered = true → n < 2 →
    (∀ data : List Byte, writable s (pgWellhead n) = true → lockState s (pgWellhead n) = 0 →
      rd s (pgWellhead n) Reg.WH_CTRL_ENABLE = 1 → data.length = 32 → (look [] s.whq n).length < 64 →
      exec (.whCmdPortWrite n 0 data) s =
        .next (showWellhead n { s with whq := put [] s.whq n (look [] s.whq n ++ [data]) })) ∧
    (∀ off (data : List Byte), writable s (pgWellhead n) = true → lockState s (pgWellhead n) = 0 →
      off ≠ 0 ∨ data.length ≠ 32 → exec (.whCmdPortWrite n off data) s =
        .next (logErr (pgWellhead n) 0x0178 0 (bump (pgWellhead n) Reg.WH_REFUSED 1 s))) ∧
    (∀ c v nx w x y a t, WhTakes s n 1 c v → rd v (pgWellhead n) Reg.WH_FREE ≠ 0 →
      Reads (ptRead n (rd v (pgWellhead n) Reg.WH_FREE_HEAD) 0x1C 4) v nx w →
      x = wr (pgWellhead n) Reg.WH_FREE (rd v (pgWellhead n) Reg.WH_FREE - 1) (wr (pgWellhead n) Reg.WH_FREE_HEAD nx w) →
      Reads (fillEntry n (rd v (pgWellhead n) Reg.WH_FREE_HEAD) (fld c 8 2) (fld c 0x18 4) (fld c 0x1C 4)) x () y →
      Reads (pageAnswer n (rd v (pgWellhead n) Reg.WH_FREE_HEAD + n * 2 ^ 31) 0) y a t →
      exec (.alloc n) s = .next (whDone n c a t)) ∧
    (∀ c v i u cnt w x a t, WhTakes s n 2 c v → NamesPage v n (fld c 4 4) (fld c 2 2) i 1 u →
      Reads (ptRead n i 8 4) u cnt w → cnt ≠ 0xFFFFFFFF → Reads (ptWrite n i 8 4 (cnt + 1)) w () x →
      Reads (pageAnswer n (fld c 4 4) 0) x a t → exec (.share n) s = .next (whDone n c a t)) ∧
    (∀ c v i u cnt pins w x a t, WhTakes s n 3 c v → NamesPage v n (fld c 4 4) (fld c 2 2) i 1 u →
      Reads (ptRead n i 8 4) u cnt w → RefDropped n i cnt pins w x →
      Reads (pageAnswer n (fld c 4 4) 0) x a t → exec (.freePage n) s = .next (whDone n c a t)) ∧
    (∀ c v i u cnt w, WhTakes s n 4 c v → NamesPage v n (fld c 4 4) (fld c 2 2) i 1 u → Reads (ptRead n i 8 4) u cnt w →
      (∀ x a t, cnt = 1 → Reads (ptRead n i 0xC 2) w 0 x → Reads (pageAnswer n (fld c 4 4) 0) x a t →
        exec (.cow n) s = .next (whDone n c a t)) ∧
      (∀ x pins j y serial z cnt' t, Reads (ptRead n i 0xC 2) w pins x → cnt ≠ 1 ∨ pins ≠ 0 →
        Reads (copyKvPage n i) x j y → Reads (ptRead n j 0xE 2) y serial z → Reads (ptRead n i 8 4) z cnt' t →
        exec (.cow n) s = .next (whDone n c ⟨4, j + n * 2 ^ 31, serial, cnt'⟩ t))) ∧
    (∀ c v i u p w x a t, WhTakes s n 5 c v → NamesPage v n (fld c 4 4) (fld c 2 2) i 1 u →
      Reads (ptRead n i 0xC 2) u p w → p ≠ 0xFFFF → Reads (ptWrite n i 0xC 2 (p + 1)) w () x →
      Reads (pageAnswer n (fld c 4 4) 0) x a t → exec (.pin n) s = .next (whDone n c a t)) ∧
    (∀ c v i st u p w x, WhTakes s n 6 c v → NamesPage v n (fld c 4 4) (fld c 2 2) i st u → st ≠ 0 →
      Reads (ptRead n i 0xC 2) u p w → p ≠ 0 → Reads (ptWrite n i 0xC 2 (p - 1)) w () x →
      (∀ a t, p ≠ 1 → Reads (pageAnswer n (fld c 4 4) 0) x a t → exec (.unpin n) s = .next (whDone n c a t)) ∧
      (∀ st' y a t, p = 1 → Reads (ptRead n i 0x10 1) x st' y → st' ≠ 2 →
        Reads (pageAnswer n (fld c 4 4) 0) y a t → exec (.unpin n) s = .next (whDone n c a t)) ∧
      (∀ y z a t, p = 1 → Reads (ptRead n i 0x10 1) x 2 y →
        Reads (freePage n i) (wr (pgWellhead n) Reg.WH_DRAINING (rd y (pgWellhead n) Reg.WH_DRAINING - 1) y) () z →
        Reads (pageAnswer n (fld c 4 4) 0) z a t → exec (.unpin n) s = .next (whDone n c a t))) ∧
    (∀ op c v tr u pk w toks x key b y r diff z, WhTakes s n op c v → Reads (readTree n (fld c 1 1 / 16)) v tr u →
      Reads (parentKey n tr (fld c 4 4)) u pk w → Reads (busRead (whWho n) (fld c 0x18 8) 256) w toks x →
      key = crc64 (leBytes 8 pk ++ toks.map Prod.fst) → Reads (readBucket n tr key) x b y →
      Reads (findNode n tr key (toks.map Prod.fst) b) y (r, diff) z →
      (op = 7 → r = none → exec (.lookup n) s = .next (whDone n c ⟨0, Config.freeNat z.drawn, Config.freeNat (z.drawn + 1), 0⟩
        { bump (pgWellhead n) Reg.WH_MISSES 1 (bump (pgWellhead n) Reg.WH_COLLISIONS diff z) with drawn := z.drawn + 2 })) ∧
      (∀ node vec z₁ cs z₂ t, op = 7 → r = some node →
        (if fld c 1 1 % 2 = 1 then Reads (busRead (whWho n) (tr.vector node) (8 * tr.pages)) z vec z₁ ∧
            Reads (eachPage (sharePage n) (vectorPages (vec.map Prod.fst))) z₁ cs z₂ ∧ (∀ k ∈ cs, k = 0)
          else z₂ = z) →
        Reads (touchNode n tr node diff) z₂ () t →
        exec (.lookup n) s = .next (whDone n c ⟨1, node, Config.freeNat t.drawn, 0⟩ { t with drawn := t.drawn + 1 })) ∧
      (∀ node, op = 8 → r = some node →
        exec (.insert n) s = .next (whDone n c ⟨2, node, Config.freeNat z.drawn, 0⟩ { z with drawn := z.drawn + 1 })) ∧
      (∀ vec z₁ cs z₂ e t, op = 8 → r = none → Reads (busRead (whWho n) (fld c 8 8) (8 * tr.pages)) z vec z₁ →
        Reads (eachPage (sharePage n) (vectorPages (vec.map Prod.fst))) z₁ cs z₂ → (∀ k ∈ cs, k = 0) →
        tr.freeHead < tr.nodes → b.find? (fun e => !e.2.2.2) = some e →
        Reads (insertNode n tr tr.freeHead (fld c 4 4) key e.1 toks vec) z₂ () t →
        exec (.insert n) s =
          .next (whDone n c ⟨0, tr.freeHead, Config.freeNat t.drawn, 0⟩ { t with drawn := t.drawn + 1 }))) ∧
    (∀ c v tr u w vec x cs y z t, WhTakes s n 9 c v → Reads (readTree n (fld c 1 1 / 16)) v tr u →
      Reads (liveNode n tr (fld c 4 4)) u () w → Reads (busRead (whWho n) (tr.vector (fld c 4 4)) (8 * tr.pages)) w vec x →
      Reads (eachPage (unrefPage n) (vectorPages (vec.map Prod.fst))) x cs y → (∀ k ∈ cs, k = 0) →
      Reads (whRead n (tr.node (fld c 4 4) + 0xC) 4) y 0 z → Reads (evictNode n tr (fld c 4 4)) z () t →
      exec (.evict n) s =
        .next (whDone n c ⟨0, fld c 4 4, Config.freeNat t.drawn, 0⟩ { t with drawn := t.drawn + 1 })) ∧
    (∀ c rest, look [] s.whq n = c :: rest → fld c 0 1 = 0 ∨ 9 < fld c 0 1 →
      ∃ t, exec (.alloc n) s = .next t ∧ look [] t.whq n = rest ∧
        rd t (pgWellhead n) Reg.WH_REFUSED = min (rd s (pgWellhead n) Reg.WH_REFUSED + 1) (2 ^ 64 - 1))

/-- VD_JOB_SUBMIT, VD_JOB_START, VD_PICTURE_DECODE, VD_FRAME_ENTRY and VD_RELEASE complete with these states. -/
def Obligations.video_decode : Prop :=
  ∀ (s : State) (n : Nat), s.powered = true → n < 16 →
    (∀ data : List Byte, writable s (pgDecoder n) = true → lockState s (pgDecoder n) = 0 →
      rd s (pgDecoder n) Reg.VD_CTRL_ENABLE = 1 → data.length = 32 → (getDec s n).queue.length < 16 →
      exec (.vdJobSubmit n 0 data) s = .next (setDec n { getDec s n with queue := (getDec s n).queue ++ [data] } s)) ∧
    (∀ off (data : List Byte), writable s (pgDecoder n) = true → lockState s (pgDecoder n) = 0 →
      off ≠ 0 ∨ data.length ≠ 32 ∨ rd s (pgDecoder n) Reg.VD_CTRL_ENABLE = 0 → exec (.vdJobSubmit n off data) s =
        .next (logErr (pgDecoder n) 0x0501 0 (bump (pgDecoder n) Reg.VD_REFUSED 1 s))) ∧
    (∀ j rest, (getDec s n).queue = j :: rest → (getDec s n).job = none → (getDec s n).out = [] →
      lockState s (pgDecoder n) = 0 → ∃ t, t = setDec n { queue := rest, job := some j, nextOut := fld j 0x14 2 } s ∧
        exec (.vdJobStart n) s = .next (if jobBad j then endDecode n j 0x0501 t else t)) ∧
    (∀ c j, (getDec s n).job = some j → (getDec s n).out = [] → (getDec s n).ended = false →
      (streamBad (codecOf j) c ≠ 0 → exec (.vdPictureDecode n c) s =
        .next (after (vdWho n) (endDecode n j (streamBad (codecOf j) c) s))) ∧
      (streamBad (codecOf j) c = 0 → poolTooSmall s n (codecOf j) c = true →
        exec (.vdPictureDecode n c) s = .next (after (vdWho n) (endDecode n j 0x0505 s))) ∧
      (∀ d u v, streamBad (codecOf j) c = 0 → poolTooSmall s n (codecOf j) c = false →
        Reads (busRead (vdWho n) (fld j 8 8) (fld j 0x10 4)) s d u →
        v = (if codecOf j = 1 then u
          else setDec n { getDec s n with held := (getDec s n).held.filter fun b => !c.drops.contains b } u) →
        (freeBuffer v n = none → exec (.vdPictureDecode n c) s =
          .next (after (vdWho n) (wr (pgDecoder n) Reg.VD_STATUS_BUF_WAIT 1 v))) ∧
        (∀ b ds w x, freeBuffer v n = some b →
          ds = damagesOf (codecOf j) c (d.map Prod.fst) 0 (pictureErrors c (fld j 8 8) d) →
          w = (if (getDec s n).reported = true ∨ ds = [] then wr (pgDecoder n) Reg.VD_STATUS_BUF_WAIT 0 v
            else leaves (do
              modify fun s => ds.foldl (fun s e => logErr (pgDecoder n) e.code 0 s)
                (setDec n { getDec s n with reported := true } s)
              ringPut n (ds.map fun e => ringEntry j 2 0 0xFFFF 0 c.decode e.off e.unit (e.resume.getD 0xFFFFFFFF) e.code))
              (wr (pgDecoder n) Reg.VD_STATUS_BUF_WAIT 0 v)) →
          ((getDec w n).out ≠ [] → exec (.vdPictureDecode n c) s = .next (after (vdWho n) w)) ∧
          ((getDec w n).out = [] →
            Reads (writePicture n b c (chosenPlanes j c) (concealedUnits w n (codecOf j) c ds) (pictureRows c)) w () x →
            exec (.vdPictureDecode n c) s =
              .next (after (vdWho n) (pictureDone n b j c (concealedUnits w n (codecOf j) c ds) x)))))) ∧
    (∀ e es, (getDec s n).out = e :: es → ringFull s n = false → ∃ t, exec (.vdFrameEntry n) s = .next t ∧
      t = after (vdWho n) (leaves (ringFlush n (es.length + 1)) s) ∧
      (es = [] → (getDec t n).out = [] ∧
        rd t (pgDecoder n) Reg.VD_RING_TAIL = (rd s (pgDecoder n) Reg.VD_RING_TAIL + 1) % 2 ^ 32)) ∧
    (∀ j, (getDec s n).out = [] → (getDec s n).job = some j →
      (∀ w last u, duePicture (getDec s n) j = some w → answered s (vdWho n) = true → writeCode s (vdWho n) = 0 →
        last = lastPicture (getDec s n) j w →
        u = setDec n { getDec s n with
          nextOut := w.output + 1
          waiting := if last then [] else (getDec s n).waiting.filter fun v => v.buf != w.buf
          held := if last then [] else (getDec s n).held } (forgetErrors (vdWho n) s) →
        ∃ t, exec (.vdFrameEntry n) s = .next t ∧ t = after (vdWho n) (leaves (ringPut n
          [ringEntry j 1 (w.flags + 16 * natOf last) w.buf w.output w.decode w.size w.form w.concealed 0]) u) ∧
          (ringFull s n = false → w.buf < 32 →
            rd t (pgDecoder n) Reg.VD_RING_TAIL = (rd s (pgDecoder n) Reg.VD_RING_TAIL + 1) % 2 ^ 32 ∧
            bitOf (outMarks t n) w.buf = true)) ∧
      (duePicture (getDec s n) j = none → (getDec s n).ended = true → (getDec s n).waiting = [] →
        ∃ t, exec (.vdFrameEntry n) s = .next t ∧ t = after (vdWho n) (leaves (ringPut n
          [ringEntry j 1 0x18 0xFFFF 0 0 0 0 0 0]) (setDec n { getDec s n with held := [] } s)) ∧
          (ringFull s n = false → (getDec t n).job = none))) ∧
    (∀ buf, buf < 32 → writable s (pgDecoder n) = true →
      (bitOf (outMarks s n) buf = true → exec (.vdRelease n buf) s = .next (setMark n Reg.VD_OUT_MARKS buf false s)) ∧
      (bitOf (outMarks s n) buf = false → exec (.vdRelease n buf) s = .next (bump (pgDecoder n) Reg.VD_REFUSED 1 s)))

/-- VE_JOB_SUBMIT, VE_JOB_START, VE_FRAME_ENCODE and VE_RESULT complete with these states. -/
def Obligations.video_encode : Prop :=
  ∀ (s : State) (n : Nat), s.powered = true → n < 4 →
    (∀ off (data : List Byte), writable s (pgEncoder n) = true → lockState s (pgEncoder n) = 0 →
      (off = 0 → data.length = 64 → rd s (pgEncoder n) Reg.VE_CTRL_ENABLE = 1 → (getEnc s n).queue.length < 4 →
        exec (.veJobSubmit n off data) s = .next (setEnc n { getEnc s n with queue := (getEnc s n).queue ++ [data] } s)) ∧
      (off ≠ 0 ∨ data.length ≠ 64 → exec (.veJobSubmit n off data) s =
        .next (logErr (pgEncoder n) 0x0510 0 (bump (pgEncoder n) Reg.VE_REFUSED 1 s))) ∧
      (off = 0 → data.length = 64 → rd s (pgEncoder n) Reg.VE_CTRL_ENABLE = 0 →
        ∃ t, exec (.veJobSubmit n off data) s = .next t ∧
          rd t (pgEncoder n) Reg.VE_REFUSED = min (rd s (pgEncoder n) Reg.VE_REFUSED + 1) (2 ^ 64 - 1))) ∧
    (∀ j rest, (getEnc s n).queue = j :: rest → (getEnc s n).job = none → (getEnc s n).results = [] →
      lockState s (pgEncoder n) = 0 → exec (.veJobStart n) s = .next (setEnc n
        { queue := rest, job := some j, ended := if encBad j then some 0x0510 else none } s)) ∧
    (∀ upsets x j cap win p, p = upset upsets s → x = getEnc s n → x.job = some j → x.ended = none →
      x.frames < fld j 4 4 → cap = fld j 0x2C 4 * 1000 →
      win = (x.window.take (fld j 0x30 2 - 1)).foldl (· + ·) 0 →
      (∀ src samples out qp again u, Reads (busRead (veWho n) (fld j 8 8 + x.frames * fld j 0x10 4) (sourceBytes j)) p src u →
        samples = sourceSamples j (src.map Prod.fst) →
        (out, qp, again) = rateLoop cap win (fld j 0x2A 1) (codeFrame j x samples) 2 (frameQp j x) →
        (fld j 0x20 8 < x.bytes + out.length → exec (.veFrameEncode n upsets) s =
          .next (after (veWho n) (setEnc n { x with ended := some 0x0511 } (bump (pgEncoder n) Reg.VE_REENCODES again u)))) ∧
        (∀ miss v, x.bytes + out.length ≤ fld j 0x20 8 →
          miss = natOf (cap != 0 && decide (cap < win + out.length * 8)) →
          Reads (busWrite (veWho n) (fld j 0x18 8 + x.bytes) (marked (src.any Prod.snd) out))
            (bump (pgEncoder n) Reg.VE_REENCODES again u) () v →
          exec (.veFrameEncode n upsets) s = .next (after (veWho n) (setEnc n { x with
            frames := x.frames + 1, bytes := x.bytes + out.length, misses := x.misses + miss
            boost := nextBoost j x cap (win + out.length * 8), past := frameChain j x samples qp
            window := ((out.length * 8) :: x.window).take 1024
            ended := if x.frames + 1 = fld j 4 4 then some 0 else none }
            (bump (pgEncoder n) Reg.VE_FRAMES 1 (bump (pgEncoder n) Reg.VE_BYTES out.length
              (bump (pgEncoder n) Reg.VE_CAP_MISSES miss v))))))) ∧
      (∀ c u, runM (busRead (veWho n) (fld j 8 8 + x.frames * fld j 0x10 4) (sourceBytes j)) p = (.error (.code c), u) →
        exec (.veFrameEncode n upsets) s = .next (after (veWho n) (setEnc n { x with ended := some c } u)))) ∧
    (answered s (veWho n) = true →
      (∀ j code frames bytes misses rest, (getEnc s n).results = (j, code, frames, bytes, misses) :: rest →
        exec (.veResult n) s = .next (after (veWho n) (setEnc n { getEnc s n with results := rest }
          (leaves (veRecord n j code frames bytes misses) (forgetErrors (veWho n) s))))) ∧
      (∀ j code, (getEnc s n).results = [] → (getEnc s n).job = some j → (getEnc s n).ended = some code →
        exec (.veResult n) s = .next (after (veWho n) (setEnc n { queue := (getEnc s n).queue }
          (leaves (veRecord n j (if code ≠ 0 then code else writeCode s (veWho n)) (getEnc s n).frames (getEnc s n).bytes
            (getEnc s n).misses) (forgetErrors (veWho n) s))))))

/-- CI_DECODE, CI_COPY, CI_SENSOR, CI_PAD, CI_SET_AUG and CI_DISPATCH complete with these states. -/
def Obligations.cistern_submission : Prop :=
  ∀ (s : State), s.powered = true →
    (∀ d v, SubEntry s d v →
      (∀ c x w u, fld d 0 1 = 1 → Reads (checkDecode d) v (c, x) w → Reads (dispatchSome 1) (newSample d x c w) () u →
        exec .ciDecode s = .next (after ciWho (showCistern u))) ∧
      (fld d 0 1 = 0 ∨ 5 < fld d 0 1 → d ≠ [] →
        exec .ciDecode s = .next (after ciWho (showCistern (ciRefuse 0x0520 0 v)))) ∧
      (∀ u, fld d 0 1 = 2 → Reads (dispatchSome 1)
          (newSample d [] (if descReserved d || decide (slotBytes v < fld d 0x10 4) then 0x0520 else 0) v) () u →
        exec .ciCopy s = .next (after ciWho (showCistern u))) ∧
      (∀ u, fld d 0 1 = 3 → Reads (dispatchSome 1) (newSample d [] (if descReserved d ||
          decide (slotBytes v < ((streamsOf d).map (regionBytes v)).foldl (· + ·) 0) then 0x0520 else 0) v) () u →
        exec .ciSensor s = .next (after ciWho (showCistern u))) ∧
      (∀ k u, fld d 0 1 = 4 → descReserved d = false →
        k = (ciSlots v - rd v pgCistern Reg.CI_NEXT_SAMPLE % ciSlots v) % ciSlots v →
        Reads (dispatchSome k) (newSamples d k v) () u → exec .ciPad s = .next (after ciWho (showCistern u))) ∧
      (fld d 0 1 = 4 → descReserved d = true → exec .ciPad s = .next (after ciWho (showCistern (ciRefuse 0x0520 0 v)))) ∧
      (fld d 0 1 = 5 →
        (descReserved d = true ∨ 7 < fld d 0x15 1 →
          exec .ciSetAug s = .next (after ciWho (showCistern (ciRefuse 0x0520 0 v)))) ∧
        (descReserved d = false → fld d 0x15 1 ≤ 7 → rd v pgCistern Reg.CI_NEXT_SAMPLE % ciSlots v ≠ 0 →
          exec .ciSetAug s = .next (after ciWho (showCistern (ciRefuse 0x0523 0 v)))) ∧
        (descReserved d = false → fld d 0x15 1 ≤ 7 → rd v pgCistern Reg.CI_NEXT_SAMPLE % ciSlots v = 0 →
          exec .ciSetAug s =
            .next (after ciWho (showCistern (wrAt pgCistern Reg.CI_AUG (fld d 0x15 1) (fld d 8 8) v)))))) ∧
    (∀ x rest y u, ciOn s = true → s.cist.waiting = x :: rest → canDispatch s x = true →
      y = { x with budget := budgetOf s x } →
      u = modCist (fun c => { c with waiting := rest, flight := c.flight ++ [y] }) s →
      (x.code ≠ 0 ∨ x.pad = true → ∃ t, exec .ciDispatch s = .next t ∧ t.cist.waiting = rest ∧
        ∃ z ∈ t.cist.flight, z.num = x.num ∧ z.finished = true) ∧
      (∀ z v, x.code = 0 → x.kind = 2 → Reads (copySample y) u z v → ∃ t, exec .ciDispatch s = .next t ∧
        t.cist.waiting = rest ∧ ∃ f ∈ t.cist.flight, f.num = x.num ∧ f.finished = true) ∧
      (∀ v w, x.code = 0 → x.kind = 3 → Reads (examineEach (streamsOf x.desc)) u () v → Reads (settleSample false y) v () w →
        exec .ciDispatch s = .next (after ciWho (showCistern w))) ∧
      (∀ n, x.code = 0 → x.kind = 1 → freeDecoder s = some n → exec .ciDispatch s =
        .next (after ciWho (showCistern (putSample { y with dec := some n } (vdSubmit n 0 (decodeJob y) u))))))

/-- CI_FRAME_ENTRY, TF_FRAME_TRANSFORM, CI_BUDGET_EXPIRY and SS_TAIL_ADVANCE complete with these states. -/
def Obligations.cistern_frames : Prop :=
  ∀ (s : State), s.powered = true →
    (∀ n cycles d u v e, ciOn s = true → n < 16 → bitOf (rd s pgCistern Reg.CI_DECODERS_DEC) n = true →
      rd s (pgDecoder n) Reg.VD_RING_HEAD ≠ rd s (pgDecoder n) Reg.VD_RING_TAIL →
      Reads (busRead ciWho (rd s (pgDecoder n) Reg.VD_RING_BASE +
        32 * (rd s (pgDecoder n) Reg.VD_RING_HEAD % ringLen s n)) 32) s d u →
      v = wr (pgDecoder n) Reg.VD_RING_HEAD (rd s (pgDecoder n) Reg.VD_RING_HEAD + 1) u → e = d.map Prod.fst →
      (∀ z, s.cist.owed.contains n = true →
        z = (if fld e 0 1 = 1 ∧ bitOf (fld e 1 1) 4 = true then modCist (fun c => { c with owed := c.owed.erase n }) v else v) →
        exec (.ciFrameEntry n cycles) s = .next (after ciWho (showCistern
          (if fld e 0 1 = 1 ∧ fld e 2 2 ≠ 0xFFFF then vdRelease n (fld e 2 2) z else z)))) ∧
      (s.cist.owed.contains n = false →
        s.cist.flight.find? (fun x => x.dec == some n && x.num % 2 ^ 32 == fld e 4 4 && !x.finished) = none →
        exec (.ciFrameEntry n cycles) s = .next (after ciWho (showCistern
          (if fld e 0 1 = 1 ∧ fld e 2 2 ≠ 0xFFFF then vdRelease n (fld e 2 2) v else v)))) ∧
      (∀ x y w z, s.cist.owed.contains n = false →
        s.cist.flight.find? (fun x => x.dec == some n && x.num % 2 ^ 32 == fld e 4 4 && !x.finished) = some x →
        y = { x with
          damaged := x.damaged || (fld e 0 1 == 1 && (bitOf (fld e 1 1) 0 || bitOf (fld e 1 1) 3))
          tainted := x.tainted || (fld e 0 1 == 1 && bitOf (fld e 1 1) 1)
          cause := if x.cause = 0 then fld e 0x1C 2 else x.cause
          last := if fld e 0 1 == 1 && bitOf (fld e 1 1) 4 then some cycles else x.last } →
        (fld e 0 1 ≠ 1 ∨ bitOf (fld e 1 1) 3 = true → w = putSample y v) →
        (fld e 0 1 = 1 → bitOf (fld e 1 1) 3 = false → ∃ k, pickUnit (putSample y v) none = some k ∧
          w = modCist (fun c => { c with frames := c.frames ++ [{
            sample := x.num, f := fld e 8 4 - fld x.desc 6 2, dec := n, buf := fld e 2 2, unit := k
            width := fld e 0x10 2, height := fld e 0x12 2, depth := fld e 0x14 1, chroma := fld e 0x15 1 }] })
            (putSample y v)) →
        Reads (frameDone x.num) w () z →
        exec (.ciFrameEntry n cycles) s = .next (after ciWho (showCistern z)))) ∧
    (∀ k fr x v w z, k < 8 → s.cist.frames.find? (fun f => f.unit == k) = some fr → ciOn s = true →
      lockState s (pgTransform k) = 0 →
      s.cist.flight.find? (fun x => x.num == fr.sample && !x.finished) = some x →
      (Reads (txFrame k x fr) s () v ∧ w = putSample { x with frames := x.frames ++ [fr.f] } v ∨
        ∃ c, runM (txFrame k x fr) s = (.error (.code c), v) ∧ w = logErr (pgTransform k) c x.num
          (putSample { x with damaged := true, cause := if x.cause = 0 then c else x.cause } v)) →
      Reads (frameDone fr.sample)
        (vdRelease fr.dec fr.buf (modCist (fun c => { c with frames := c.frames.erase fr }) w)) () z →
      exec (.tfFrameTransform k) s = .next (after (tfWho k) (showCistern z))) ∧
    (∀ n cycles x b u, s.cist.flight.find? (fun x => x.num == n && !x.finished && !x.slow) = some x → x.budget = some b →
      ciOn s = true → b ≤ cycles →
      u = raiseBit pgCistern 5 (bump pgCistern Reg.CI_SLOW 1 (putSample { x with slow := true } s)) →
      (∀ v, x.kind = 3 → Reads (settleSample true { x with slow := true }) u () v →
        exec (.ciBudgetExpiry n cycles) s = .next (after ciWho (showCistern v))) ∧
      (x.kind ≠ 3 → rd s pgCistern Reg.CI_CTRL_ABANDON = 0 →
        exec (.ciBudgetExpiry n cycles) s = .next (after ciWho (showCistern u))) ∧
      (∀ w v, x.kind ≠ 3 → rd s pgCistern Reg.CI_CTRL_ABANDON = 1 →
        w = dropFrames n (raiseBit pgCistern 6 (bump pgCistern Reg.CI_LATE 1 u)) →
        Reads (finishSample { x with slow := true, late := true, abandoned := true }) (match x.dec, x.last with
          | some d, none => modCist (fun c => { c with owed := c.owed ++ [d] }) w
          | _, _ => w) () v →
        exec (.ciBudgetExpiry n cycles) s = .next (after ciWho (showCistern v)))) ∧
    (∀ n tail u, n < 16 → writable s pgCistern = true → u = wrAt pgCistern Reg.SS_TAIL n tail s →
      (ciOn s = false → exec (.ssTailAdvance n tail) s = .next (after ciWho (showCistern u))) ∧
      (∀ v w, ciOn s = true → Reads (examineAll n) u () v → Reads (settleAll (sensorSamples v)) v () w →
        exec (.ssTailAdvance n tail) s = .next (after ciWho (showCistern w))))

/-- CI_BATCH_RELEASE, CI_RETURN, CURSOR_RECORD_STEP and CI_RESTORE complete with these states. -/
def Obligations.cistern_batches : Prop :=
  ∀ (s : State), s.powered = true →
    (∀ b n mine v ws, ciOn s = true → b = rd s pgCistern Reg.CI_READY → n = ciSlots s →
      mine = s.cist.flight.filter (fun x => x.num / n == b) → mine.length = n → mine.all CiSample.finished = true →
      (∀ e ∈ cisternWriters, answered s e.1 = true) → v = leaves (cisternAcks cisternWriters) s →
      ws = mine.map CiSample.status →
      (s.cist.releasing = 0 → exec .ciBatchRelease s = .next (releaseSteps 2 (after ciWho (showCistern
        (modCist (fun c => { c with releasing := 1 })
          (leaves (ciWrite (bufferAt s b) (clean (batchHeader b n ws ++ batchMask n ws))) v)))))) ∧
      (s.cist.releasing = 1 → exec .ciBatchRelease s = .next (releaseSteps 2 (after ciWho (showCistern
        (modCist (fun c => { c with releasing := 2 }) (leaves (ciWrite (bufferAt s b + 0x1C) (clean (leBytes 4 1))) v)))))) ∧
      (s.cist.releasing = 2 → ∃ t, exec .ciBatchRelease s = .next t ∧ rd t pgCistern Reg.CI_READY = (b + 1) % 2 ^ 64 ∧
        t.cist.releasing = 0 ∧ t.cist.flight = s.cist.flight.filter (fun x => x.num / n != b))) ∧
    (∀ (off : Nat) (data : List Byte), writable s pgCistern = true →
      (off ≠ 0 ∨ data.length ≠ 8 → exec (.ciReturn off data) s = .next s) ∧
      (off = 0 → data.length = 8 →
        (1 ≤ fld data 4 1 → fld data 4 1 ≤ 64 → fld data 4 1 ≤ readyCount s →
          (∀ l, s.cist.lastReturn = some l → l ≤ fld data 0 4) → ∃ t, exec (.ciReturn off data) s = .next t ∧
          rd t pgCistern Reg.CI_RETURNED = (rd s pgCistern Reg.CI_RETURNED + fld data 4 1) % 2 ^ 64 ∧
          t.cist.returns = s.cist.returns ++ [(fld data 0 4, fld data 4 1)] ∧
          t.cist.lastReturn = some (fld data 0 4)) ∧
        (fld data 4 1 = 0 ∨ 64 < fld data 4 1 ∨ readyCount s < fld data 4 1 ∨
            (∃ l, s.cist.lastReturn = some l ∧ fld data 0 4 < l) →
          exec (.ciReturn off data) s = .next (logErr pgCistern 0x0524 (fld data 0 4) s)))) ∧
    (∀ c cs, s.cist.cursors = c :: cs → c.sent = true →
      (∀ v, accepted s cursorWho = true → Reads (busWriteNat cursorWho (cursorAt s c.step) 4 c.step) s () v →
        exec .cursorRecordStep s = .next (after cursorWho (modCist (fun x => { x with cursors := cs }) v))) ∧
      (answered s cursorWho = true → writeCode s cursorWho ≠ 0 → exec .cursorRecordStep s =
        .next (after cursorWho (logErr pgCistern (writeCode s cursorWho) c.step
          (modCist (fun x => { x with cursors := cs }) (forgetErrors cursorWho s)))))) ∧
    (∀ a, writable s pgCistern = true →
      (∀ b u seed step, Reads (readCursor (a % 2 ^ 64)) s b u → u.mon.staged = some (seed, step) →
        (fld b 0 4 = step → exec (.ciRestore a) s = .next (after cursorWho (restoreCursor b (setStage none 2
          (wr pgMonitor Reg.RNG_SEED seed (wr pgMonitor Reg.RNG_STEP_TAG step (wr pgGeneration Reg.GEN_STEP step u))))))) ∧
        (fld b 0 4 ≠ step → exec (.ciRestore a) s =
          .next (after cursorWho (refuseRestore 0x0630 (refuseRng 0x0630 (setStage none 3 u)))))) ∧
      (∀ c u, runM (readCursor (a % 2 ^ 64)) s = (.error (.code c), u) →
        exec (.ciRestore a) s = .next (after cursorWho (refuseRestore c u))))

/-- RS_ENABLE, ROUND_COPY, FIRST_TOUCH, ROUND_COMPLETE_WRITE and ROUND_COMPLETE complete with these states. -/
def Obligations.snapshot_rounds : Prop :=
  ∀ (s : State), s.powered = true →
    (writable s pgResilience = true → rd s pgResilience Reg.RS_CTRL_ENABLE = 0 →
      (∀ t u, Reads rsValidate s t u → exec (.rsEnable true) s =
        .next (after restoreWho (modRes (fun r => { r with table := t }) (wr pgResilience Reg.RS_CTRL_ENABLE 1 u)))) ∧
      (∀ c u, runM rsValidate s = (.error (.code c), u) →
        exec (.rsEnable true) s = .next (after restoreWho (rsFail c u)))) ∧
    (writable s pgResilience = true → rd s pgResilience Reg.RS_CTRL_ENABLE = 1 →
      exec (.rsEnable false) s = .next (wr pgResilience Reg.RS_CTRL_ENABLE 0 s)) ∧
    (∀ r, s.res.round = some r → accepted s roundWho = true →
      (∀ cycles u v, r.stage = 1 → Reads (copyGroups r (s.res.table.map Protect.mk)) s () u →
        Reads (copyPages r.slot (regionPages s.res.table)) u () v →
        exec (.roundCopy cycles) s =
          .next (attempt roundWho (copyCursor cycles) (after roundWho (setRound (some { r with stage := 2 }) v)))) ∧
      (∀ cycles d u v, r.stage = 2 → r.cursor = false → (s.cist.cursors.all fun c => c.step != r.step) = true →
        Reads (busRead roundWho (cursorAt s r.step) 128) (after roundWho s) d u → fld (d.map Prod.fst) 0 4 = r.step →
        Reads (busWrite roundWho (imageAt s r.slot + 0x80) d) u () v →
        exec (.roundCopy cycles) s = .next (after roundWho (setRound (some { r with cursor := true }) v))) ∧
      (∀ cycles a u, r.stage = 1 → look false s.mem.wprot (a / 65536) = true → Reads (copyPage r.slot (a / 65536)) s () u →
        exec (.firstTouch ⟨a, cycles⟩) s = .next (after roundWho (bump pgResilience Reg.RS_FIRST_TOUCH 1 u))) ∧
      (∀ cycles u, r.stage = 2 → r.cursor = true →
        Reads (busWriteNat roundWho (imageAt s r.slot + 0xC) 4 (1 + natOf r.noCursor * 2)) s () u →
        exec (.roundCompleteWrite cycles) s = .next (after roundWho (setRound (some { r with stage := 3 }) u))) ∧
      (∀ cycles, r.stage = 3 → ∃ t, exec (.roundComplete cycles) s = .next t ∧ t.res.round = none ∧ t.mem.wprot = [] ∧
        rd t pgResilience Reg.RS_STATUS_NEWEST_VALID = 1 ∧
        rd t pgResilience Reg.RS_STATUS_NEWEST_SLOT = r.slot % 2 ∧ rd t pgResilience Reg.RS_STATUS_ROUND = 2)) ∧
    (∀ r e cycles, s.res.round = some r → 1 ≤ r.stage → r.stage ≤ 3 →
      s.bus.writeErr.find? (fun e => e.who == roundWho) = some e → e.code ≠ 0 →
      ∃ t, exec (match r.stage with
        | 1 => .roundCopy cycles | 2 => .roundCompleteWrite cycles | _ => .roundComplete cycles) s = .next t ∧
        t.res.round = none ∧ t.mem.wprot = [] ∧ rd t pgResilience Reg.RS_STATUS_ROUND = 3)

/-- RS_RESTORE, RS_RESTORE_DONE, RS_DIGEST and RS_DIGEST_DONE complete with these states. -/
def Obligations.restores_and_digests : Prop :=
  ∀ (s : State), s.powered = true →
    (∀ u, writable s pgResilience = true → rd s pgResilience Reg.RS_CTRL_ENABLE = 0 →
      rd s pgGeneration Reg.GEN_CTRL_ENABLE = 0 → rd s pgCistern Reg.CI_CTRL_ENABLE = 0 → rd s pgResilience Reg.RS_DIGEST_GO = 0 →
      s.res.restore = none →
      u = setRestore (some { fill := isSet s pgResilience Reg.RS_CTRL_FILL }) (wr pgResilience Reg.RS_STATUS_RESTORE 1
        (wr pgResilience Reg.RS_CTRL_RESTORE 1 s)) →
      (∀ k g t v x, Reads checkRestore u (k, g, t) v →
        Reads (restoreEntries k g t) (setRestore (some {
          fill := isSet s pgResilience Reg.RS_CTRL_FILL, checked := true, slot := k, gen := g, table := t }) v) () x →
        exec .rsRestore s = .next (after restoreWho x)) ∧
      (∀ c v, runM checkRestore u = (.error (.code c), v) →
        exec .rsRestore s = .next (after restoreWho (restoreRefused c v)))) ∧
    (writable s pgResilience = true → rd s pgResilience Reg.RS_CTRL_ENABLE = 1 →
      exec .rsRestore s = .next (restoreRefused 0x0651 s)) ∧
    (∀ r, s.res.restore = some r → r.unfinished = false →
      (accepted s restoreWho = true → exec .rsRestoreDone s = .next (after restoreWho (raiseBit pgResilience 7
        (bump pgResilience Reg.RS_RESTORES 1 (restoreEnds 2 s))))) ∧
      (answered s restoreWho = true → writeCode s restoreWho ≠ 0 → exec .rsRestoreDone s =
        .next (after restoreWho (restoreFails (writeCode s restoreWho) (forgetErrors restoreWho s))))) ∧
    (∀ t, writable s pgResilience = true → rd s pgResilience Reg.RS_DIGEST_GO = 0 →
      rd s pgResilience Reg.RS_DIGEST_SRC % 64 = 0 → isLocal s (rd s pgResilience Reg.RS_DIGEST_SRC) = true →
      isMemory s (localOf (rd s pgResilience Reg.RS_DIGEST_SRC)) = true → rd s pgResilience Reg.RS_DIGEST_LEN ≠ 0 →
      rd s pgResilience Reg.RS_DIGEST_LEN % 64 = 0 → rd s pgResilience Reg.RS_DIGEST_DST % 8 = 0 →
      Reads (digestPages (isSet s pgResilience Reg.RS_DIGEST_SHA) (rd s pgResilience Reg.RS_DIGEST_DST) 0
        (digestRanges (rd s pgResilience Reg.RS_DIGEST_SRC) (rd s pgResilience Reg.RS_DIGEST_LEN)))
        (wr pgResilience Reg.RS_DIGEST_GO 1 s) () t →
      exec .rsDigest s = .next (after digestWho (modRes (fun r => { r with digest := some 0 }) t))) ∧
    (writable s pgResilience = true → rd s pgResilience Reg.RS_DIGEST_GO = 0 →
      (rd s pgResilience Reg.RS_DIGEST_SRC % 64 ≠ 0 ∨ rd s pgResilience Reg.RS_DIGEST_LEN = 0 ∨
        rd s pgResilience Reg.RS_DIGEST_LEN % 64 ≠ 0 ∨ rd s pgResilience Reg.RS_DIGEST_DST % 8 ≠ 0) →
      exec .rsDigest s = .next (digestRefused 0x0656 s)) ∧
    (rd s pgResilience Reg.RS_DIGEST_GO = 1 → s.res.digest = some 0 → accepted s digestWho = true →
      exec .rsDigestDone s = .next (after digestWho (wr pgResilience Reg.RS_DIGEST_GO 0
        (modRes (fun r => { r with digest := none }) s)))) ∧
    (∀ c, rd s pgResilience Reg.RS_DIGEST_GO = 1 → s.res.digest = some c → c ≠ 0 → accepted s digestWho = true →
      exec .rsDigestDone s = .next (after digestWho (digestRefused c (wr pgResilience Reg.RS_DIGEST_GO 0
        (modRes (fun r => { r with digest := none }) s)))))

/-- RD_ENABLE, REDUCTION_RUN_START, CONTRIB, RESULT, CHUNK_DEADLINE and TWIN_FORWARD_FAIL complete with these states. -/
def Obligations.reductions : Prop :=
  ∀ (s : State) (n : Nat), s.powered = true → n < 2 →
    (∀ k d u t es, writable s (pgReduction n) = true → rd s (pgReduction n) Reg.RD_CTRL_ENABLE = 0 →
      k = rd s (pgReduction n) Reg.RD_TABLE_COUNT → 1 ≤ k → k ≤ 1024 → rd s (pgReduction n) Reg.RD_TABLE % 128 = 0 →
      Reads (busRead (redWho n) (rd s (pgReduction n) Reg.RD_TABLE) (128 * k)) s d u →
      t = piecesOfList 128 (k + 1) (d.map Prod.fst) → es = (t.map RedEntry.mk).zipIdx →
      (∀ maps ws v w, redCheck s n es = none →
        Reads (readMaps n ((t.map fun d => (RedEntry.mk d).group).eraseDups)) u maps v → Reads (readWaits n es) v ws w →
        exec (.rdEnable n true) s = .next (after (redWho n) (wr (pgReduction n) Reg.RD_CTRL_ENABLE 1
          (wr (pgReduction n) Reg.RD_STATUS_ACTIVE 1 (setRed n { table := t, maps := maps, consumed := ws } w))))) ∧
      (∀ c i, redCheck s n es = some (c, i) → exec (.rdEnable n true) s = .next (after (redWho n) (redFail n c i u)))) ∧
    (writable s (pgReduction n) = true → rd s (pgReduction n) Reg.RD_CTRL_ENABLE = 1 →
      exec (.rdEnable n false) s = .next (wr (pgReduction n) Reg.RD_CTRL_ENABLE 0
        (wr (pgReduction n) Reg.RD_STATUS_ACTIVE 0 (setRed n {} s)))) ∧
    (∀ i u e step used v p w x, Reads (redReady n) s () u → redActive u n = true → redEntry u n i = some e →
      nextRun u n i = some step → used = look 0 (getRed u n).consumed i → Reads (busReadNat (redWho n) e.wait 4) u (v, p) w →
      fld e.d 0x3C 4 ≤ sub32 v used → sub32 v used < 2 ^ 31 →
      x = modRed n (fun y => { y with
        consumed := insertKey y.consumed i ((used + fld e.d 0x3C 4) % 2 ^ 32)
        runs := y.runs ++ [{ entry := i, step := step }] }) w →
      (∀ coarse x₁ E x₂ y z,
        Reads (readCoarse (redWho n) e.srcFmt (fld e.d 0x10 8) (committed u % 3)) x coarse x₁ →
        Reads (windowExp n e) x₁ E x₂ → Reads (sendChunks n i e step coarse E (List.range e.chunks)) x₂ () y →
        Reads (sweepRuns n (findRun y n i step).toList) y () z →
        exec (.reductionRunStart n i) s = .next (after (redWho n) z)) ∧
      (∀ c x₁, runM (readCoarse (redWho n) e.srcFmt (fld e.d 0x10 8) (committed u % 3)) x = (.error (.code c), x₁) →
        c ≠ 0 → ∃ t, exec (.reductionRunStart n i) s = .next t ∧ findRun t n i step = none)) ∧
    (∀ data u entry step rank j, engineOf data = n → entry = fld data 4 2 % 1024 → step = fld data 0 4 →
      rank = fld data 6 2 → j = fld data 8 4 → Reads (redReady n) s () u →
      (redActive u n = false ∨ redEntry u n entry = none →
        exec (.contrib data) s = .next (after (redWho n) (bump (pgReduction n) Reg.RD_STRAY 1 u))) ∧
      (∀ e size, redActive u n = true → redEntry u n entry = some e → size = sizeOf_ u n e →
        (2 < (step + 1 + 2 ^ 32 - rd u pgGeneration Reg.GEN_STEP) % 2 ^ 32 ∨ size ≤ rank ∨ e.chunks ≤ j ∨
            j % size ≠ rankOf u n e ∨ fld data 0xE 2 ≠ e.chunkLen j →
          exec (.contrib data) s = .next (after (redWho n) (bump (pgReduction n) Reg.RD_STRAY 1 u))) ∧
        ((step + 1 + 2 ^ 32 - rd u pgGeneration Reg.GEN_STEP) % 2 ^ 32 ≤ 2 → rank < size → j < e.chunks →
          j % size = rankOf u n e → fld data 0xE 2 = e.chunkLen j →
          ((getRed u n).aborted.contains step = true →
            exec (.contrib data) s = .next (after (redWho n) (bump (pgReduction n) Reg.RD_LATE 1 u))) ∧
          (∀ r v, (getRed u n).aborted.contains step = false → Reads (loadRecord n e step (j / size)) u r v →
            (r.closed = true →
              exec (.contrib data) s = .next (after (redWho n) (bump (pgReduction n) Reg.RD_LATE 1 v))) ∧
            (r.closed = false → bitOf r.arrived rank = true ∨ rankLocked u n e rank = true →
              exec (.contrib data) s = .next (after (redWho n) v)) ∧
            (r.closed = false → bitOf r.arrived rank = false → rankLocked u n e rank = false →
              (∀ w, r.present ≠ 0 → r.e ≠ fld data 0xC 2 → Reads (setMaskBit n e step 0 rank) v () w →
                exec (.contrib data) s = .next (after (redWho n) (bump (pgReduction n) Reg.RD_WINDOW_MISMATCH 1 w))) ∧
              (∀ f w x y, r.present = 0 ∨ r.e = fld data 0xC 2 →
                f = { r with
                  present := r.present + 1, e := fld data 0xC 2, sum := (r.sum + fld data 0x10 8) % 2 ^ 64
                  arrived := r.arrived + 2 ^ rank
                  elems := r.elems.zipIdx.map fun x =>
                    match ((List.range (e.chunkLen j)).map fun i => signedOf 64 (fld data (64 + 8 * i) 8))[x.2]? with
                    | some q => (x.1.1 + q, x.1.2 || q == -(2 ^ 63))
                    | none => x.1 } →
                Reads (storeRecord n e (j / size) f) v () w →
                (bitOf (fld data 0x18 1) 0 = false → x = w) →
                (bitOf (fld data 0x18 1) 0 = true → ∃ z, Reads (setMaskBit n e step 1 rank) w () z ∧
                  x = raiseOnce n entry step 5 (bump (pgReduction n) Reg.RD_OVERFLOWS 1 z)) →
                (allIn u n e f = false → y = x) → (allIn u n e f = true → Reads (closeChunk n entry e step j) x () y) →
                exec (.contrib data) s = .next (after (redWho n) y))))))) ∧
    (∀ data entry step j, engineOf data = n → entry = fld data 4 2 % 1024 → step = fld data 0 4 → j = fld data 8 4 →
      (findRun s n entry step = none → exec (.result data) s = .next (after (redWho n) s)) ∧
      (∀ r e, findRun s n entry step = some r → redEntry s n entry = some e →
        (r.got.contains j = true ∨ e.chunks ≤ j → exec (.result data) s = .next (after (redWho n) s)) ∧
        (r.got.contains j = false → j < e.chunks → ∃ t, exec (.result data) s = .next t ∧
          ∀ q, findRun t n entry step = some q → j ∈ q.got))) ∧
    (∀ step us u, rd s (pgReduction n) Reg.RD_DEADLINE ≠ 0 →
      u = modRed n (fun x => { x with expired := x.expired.filter (fun t => t != step) ++ [step] }) s →
      (us < rd s (pgReduction n) Reg.RD_DEADLINE → exec (.chunkDeadline n step us) s = .next s) ∧
      (∀ v, rd s (pgReduction n) Reg.RD_DEADLINE ≤ us → stepOpen s step = true → redActive s n = true →
        Reads (do redSweep n; sweepRuns n (endedRuns (← get) n)) u () v →
        exec (.chunkDeadline n step us) s = .next (after (redWho n) v))) ∧
    (∀ entry step j, (s.bus.writeErr.any fun e => e.who == forwardWho n entry step j) = true →
      exec (.twinForwardFail n entry step j) s = .next (tryComplete n entry step (twinStale { s with bus := { s.bus with
        writeErr := s.bus.writeErr.filter fun e => e.who != forwardWho n entry step j } })))

/-- RNG_PROBE, RNG_RESTORE_STAGE and LM_LOSS_IN complete with these states. -/
def Obligations.monitor_commands : Prop :=
  ∀ (s : State), s.powered = true → writable s pgMonitor = true →
    (∀ v, v < 2 ^ 32 → ∃ t, exec (.rngProbe v) s = .next t ∧
      rdAt t pgMonitor Reg.RNG_PROBE_CTR 3 = v ∧
      (List.range 4).map (rdAt t pgMonitor Reg.RNG_PROBE_OUT) = (philox (rd s pgMonitor Reg.RNG_PROBE_KEY % 2 ^ 32)
        (rd s pgMonitor Reg.RNG_PROBE_KEY / 2 ^ 32) (rdAt s pgMonitor Reg.RNG_PROBE_CTR 0,
          rdAt s pgMonitor Reg.RNG_PROBE_CTR 1, rdAt s pgMonitor Reg.RNG_PROBE_CTR 2, v)).map (· % 2 ^ 32)) ∧
    (∀ a, a < 2 ^ 64 →
      (∀ r u, Reads (readRngRecord a) s r u → exec (.rngRestoreStage a) s = .next (after monWho (setStage (some r) 1 u))) ∧
      (∀ c u, runM (readRngRecord a) s = (.error (.code c), u) →
        exec (.rngRestoreStage a) s = .next (after monWho (refuseRng c u)))) ∧
    (∀ data : List Byte, data.length = 8 → stepOpen s (fld data 4 4) = true → sentFor s (fld data 4 4) = false →
      exec (.lmLossIn 0 data) s = .next { s with mon := { s.mon with
        loss := insertKey s.mon.loss (fld data 4 4) (fld data 0 4) } }) ∧
    (∀ off (data : List Byte), off ≠ 0 ∨ data.length ≠ 8 ∨ stepOpen s (fld data 4 4) = false ∨
      sentFor s (fld data 4 4) = true → exec (.lmLossIn off data) s = .next (bump pgMonitor Reg.LM_LATE 1 s))

/-- MARKER_GO, MARKER_LATCH, MARKER_WAVE_COMPLETE, LIFE_SAMPLE, LIFE_SUMMARY_WRITE and JOURNAL_APPEND complete with these
states. -/
def Obligations.marker_wave : Prop :=
  ∀ (s : State), s.powered = true →
    (writable s pgMonitor = true → rd s pgMonitor Reg.MON_MARKER_GO = 0 → ∃ t, exec .markerGo s = .next t ∧
      rd t pgMonitor Reg.MON_MARKER_NUMBER = (rd s pgMonitor Reg.MON_MARKER_NUMBER + 1) % 2 ^ 32 ∧
      rd t pgMonitor Reg.MON_MARKER_GO = 1 ∧ rd t pgMonitor Reg.MON_AUDIT_DONE = 0 ∧ t.marker = {}) ∧
    (∀ page, unlatched s page = true → exec (.markerLatch page) s = .next (latchPage page s)) ∧
    (waveComplete s = true → exec .markerWaveComplete s = .next (raiseBit pgMonitor 6 (wr pgMonitor Reg.MON_MARKER_GO 0
      (wr pgMonitor Reg.MON_AUDIT_DONE 1 (recordAudits s))))) ∧
    (lockState s pgLockkeeper = 0 →
      (∃ t, exec .lifeSample s = .next t ∧ t.life.seconds = s.life.seconds + 1 ∧ t.life.thisSecond = 0) ∧
      (∃ t c, exec .lifeSummaryWrite s = .next t ∧ newestCopy t.life = some c ∧ c.valid = true ∧
        c.seq = (newestCopy s.life).elim 0 LifeCopy.seq + 1 ∧ c.fields = summaryFields s) ∧
      (∀ e rest, s.life.waiting = e :: rest →
        (s.life.thisSecond < 64 → ∃ t js, exec .journalAppend s = .next t ∧ t.life.waiting = rest ∧
          t.life.journal = js ++ [{ seq := s.life.nextEntry, minute := look 0 s.life.live 0x18 % 2 ^ 32, ev := e }] ∧
          t.life.nextEntry = s.life.nextEntry + 1) ∧
        (64 ≤ s.life.thisSecond → ∃ t, exec .journalAppend s = .next t ∧ t.life.waiting = rest ∧
          t.life.journal = s.life.journal)))

/-- The frame of each family: the whole state but the listed parts is unchanged. -/
def Obligations.unit_frames : Prop :=
  ∀ (c : Instr) (s t : State), exec c s = .next t →
    (portCommand c = true → t = { s with
      regs := t.regs, bus := t.bus, link := t.link, host := t.host, life := t.life, outs := t.outs }) ∧
    (trustCommand c = true → t = { s with
      regs := t.regs, host := t.host, tr := t.tr, outs := t.outs, drawn := t.drawn }) ∧
    (wellheadCommand c = true → t = { s with
      regs := t.regs, latched := t.latched, mem := t.mem, bus := t.bus, link := t.link, host := t.host, life := t.life,
      tiles := t.tiles, chanq := t.chanq, marker := t.marker, whq := t.whq, waking := t.waking, outs := t.outs, drawn := t.drawn }) ∧
    (mediaCommand c = true → t = { s with
      regs := t.regs, latched := t.latched, mem := t.mem, bus := t.bus, link := t.link, host := t.host, life := t.life, tiles := t.tiles,
      chanq := t.chanq, marker := t.marker, decoders := t.decoders, encoders := t.encoders, waking := t.waking, outs := t.outs, drawn := t.drawn }) ∧
    (passCommand c = true → t = { s with
      regs := t.regs, latched := t.latched, mem := t.mem, bus := t.bus, link := t.link, host := t.host, life := t.life, gen := t.gen, tiles := t.tiles,
      chanq := t.chanq, marker := t.marker, pipes := t.pipes, hpipes := t.hpipes, faulty := t.faulty, waking := t.waking, outs := t.outs, drawn := t.drawn }) ∧
    (pumpCommand c = true → t = { s with
      regs := t.regs, latched := t.latched, mem := t.mem, bus := t.bus, link := t.link, host := t.host, life := t.life, gen := t.gen,
      tiles := t.tiles, chanq := t.chanq, marker := t.marker, pumps := t.pumps, waking := t.waking, outs := t.outs, drawn := t.drawn }) ∧
    (arrayCommand c = true → t = { s with
      regs := t.regs, latched := t.latched, mem := t.mem, bus := t.bus, link := t.link, host := t.host, life := t.life, gen := t.gen,
      tiles := t.tiles, chanq := t.chanq, marker := t.marker, faulty := t.faulty, waking := t.waking, outs := t.outs, drawn := t.drawn }) ∧
    (cisternCommand c = true → t = { s with
      regs := t.regs, latched := t.latched, mem := t.mem, bus := t.bus, link := t.link, host := t.host, life := t.life, tiles := t.tiles,
      chanq := t.chanq, marker := t.marker, decoders := t.decoders, cist := t.cist, waking := t.waking, outs := t.outs, drawn := t.drawn })

/-- The frame of memory for the forms that store nothing. -/
def Obligations.memory_frame : Prop :=
  ∀ (c : Instr) (s t : State), noMemory c = true → exec c s = .next t →
    (∀ a, cellAt t a = cellAt s a ∧ isValid t a = isValid s a ∧ isPoisoned t a = isPoisoned s a) ∧
    (∀ w, flipsOf t w = flipsOf s w)
end

