-- ==== Sys2Proof/Laws/Sparse.lean ====
section
/-! SUPPORT. Laws of finite maps in canonical form: what a read sees after a write, and that every operation keeps the
form. -/

namespace Sys2Proof.Machine

theorem look_dropKey_self {α : Type} (d : α) (m : List (Nat × α)) (k : Nat) : look d (dropKey m k) k = d := by
  induction m with
  | nil => rfl
  | cons e m ih =>
    by_cases h : e.1 = k
    · simpa [dropKey, h] using ih
    · have h' : k ≠ e.1 := fun h2 => h h2.symm
      simpa [dropKey, h, h', look] using ih

theorem look_dropKey_other {α : Type} (d : α) (m : List (Nat × α)) {k k' : Nat} (h : k' ≠ k) :
    look d (dropKey m k) k' = look d m k' := by
  induction m with
  | nil => rfl
  | cons e m ih =>
    by_cases h1 : e.1 = k
    · have h2 : k' ≠ e.1 := fun h3 => h (h3.trans h1)
      simpa [dropKey, h1, look, h, h2] using ih
    · simp only [dropKey] at ih
      simp [dropKey, h1, look, ih]

theorem look_insertKey_self {α : Type} (d : α) (m : List (Nat × α)) (k : Nat) (v : α) : look d (insertKey m k v) k = v := by
  induction m with
  | nil => simp [insertKey, look]
  | cons e m ih =>
    unfold insertKey
    split
    · simp [look]
    · split
      · simp [look]
      · next h => simp [look, h, ih]

theorem look_insertKey_other {α : Type} (d : α) (m : List (Nat × α)) {k k' : Nat} (v : α) (h : k' ≠ k) :
    look d (insertKey m k v) k' = look d m k' := by
  induction m with
  | nil => simp [insertKey, look, h]
  | cons e m ih =>
    unfold insertKey
    split
    · simp [look, h]
    · split
      · next h1 => simp [look, h, ← h1]
      · simp [look, ih]

/-- What is written is read. -/
@[simp] theorem look_put_self {α : Type} [DecidableEq α] (d : α) (m : List (Nat × α)) (k : Nat) (v : α) :
    look d (put d m k v) k = v := by
  unfold put
  split
  · next h => rw [look_dropKey_self, h]
  · exact look_insertKey_self ..

/-- Every other key reads as before, with any default. -/
theorem look_put_other {α : Type} [DecidableEq α] (d e : α) (m : List (Nat × α)) {k k' : Nat} (v : α) (h : k' ≠ k) :
    look d (put e m k v) k' = look d m k' := by
  unfold put
  split
  · exact look_dropKey_other d m h
  · exact look_insertKey_other d m v h

/-! ### The canonical form -/

theorem risingFrom_weaken {α : Type} {l l' : Option Nat} {m : List (Nat × α)} (h : risingFrom l m = true)
    (hl : ∀ a ∈ l', ∃ b ∈ l, a ≤ b) : risingFrom l' m = true := by
  cases m with
  | nil => rfl
  | cons e m =>
    obtain ⟨k, v⟩ := e
    simp only [risingFrom, Bool.and_eq_true] at h ⊢
    refine ⟨?_, h.2⟩
    cases l' with
    | none => rfl
    | some a =>
      obtain ⟨b, hb, hab⟩ := hl a rfl
      cases hb
      simp only [decide_eq_true_eq] at h ⊢
      omega

theorem risingFrom_none {α : Type} {l : Option Nat} {m : List (Nat × α)} (h : risingFrom l m = true) :
    risingFrom none m = true :=
  risingFrom_weaken h (by simp)

/-- A list from which entries are taken rises still. -/
theorem rising_filter {α : Type} (p : Nat × α → Bool) {l : Option Nat} {m : List (Nat × α)} (h : risingFrom l m = true) :
    risingFrom l (m.filter p) = true := by
  induction m generalizing l with
  | nil => rfl
  | cons e m ih =>
    obtain ⟨k, v⟩ := e
    simp only [risingFrom, Bool.and_eq_true] at h
    by_cases hp : p (k, v) = true
    · simp only [List.filter_cons, hp, if_true, risingFrom, Bool.and_eq_true]
      exact ⟨h.1, ih h.2⟩
    · simp only [List.filter_cons, hp]
      refine ih (risingFrom_weaken h.2 ?_)
      intro a ha
      cases ha
      have h1 := h.1
      simp only [decide_eq_true_eq] at h1
      exact ⟨k, rfl, by omega⟩

theorem rising_insertKey {α : Type} {l : Option Nat} {m : List (Nat × α)} (k : Nat) (v : α) (hk : ∀ a ∈ l, a < k)
    (h : risingFrom l m = true) : risingFrom l (insertKey m k v) = true := by
  induction m generalizing l with
  | nil =>
    cases l with
    | none => rfl
    | some a => simpa [insertKey, risingFrom] using hk a rfl
  | cons e m ih =>
    obtain ⟨k', v'⟩ := e
    simp only [risingFrom, Bool.and_eq_true] at h
    unfold insertKey
    split
    · next h1 =>
      cases l with
      | none => simp [risingFrom, h1, h.2]
      | some a => simp [risingFrom, h1, h.2, hk a rfl]
    · split
      · next h1 =>
        subst h1
        cases l with
        | none => simp [risingFrom, h.2]
        | some a => simp [risingFrom, h.2, hk a rfl]
      · simp only [risingFrom, Bool.and_eq_true]
        refine ⟨h.1, ih ?_ h.2⟩
        intro a ha
        cases ha
        omega

theorem rising_put {α : Type} [DecidableEq α] (d : α) {m : List (Nat × α)} (k : Nat) (v : α)
    (h : risingFrom none m = true) : risingFrom none (put d m k v) = true := by
  unfold put
  split
  · exact rising_filter _ h
  · exact rising_insertKey k v (by simp) h

theorem mem_insertKey {α : Type} {m : List (Nat × α)} {k : Nat} {v : α} {e : Nat × α} (h : e ∈ insertKey m k v) :
    e = (k, v) ∨ e ∈ m := by
  induction m with
  | nil => simpa [insertKey] using h
  | cons x m ih =>
    unfold insertKey at h
    split at h
    · simpa using h
    · split at h
      · simp only [List.mem_cons] at h ⊢
        exact h.imp id .inr
      · simp only [List.mem_cons] at h ⊢
        rcases h with h | h
        · exact .inr (.inl h)
        · rcases ih h with h | h
          · exact .inl h
          · exact .inr (.inr h)

/-- A write keeps the canonical form. -/
theorem sparseWf_put {α : Type} [DecidableEq α] (d : α) {m : List (Nat × α)} (k : Nat) (v : α) (h : sparseWf d m = true) :
    sparseWf d (put d m k v) = true := by
  simp only [sparseWf, Bool.and_eq_true, List.all_eq_true, decide_eq_true_eq] at h ⊢
  refine ⟨rising_put d k v h.1, ?_⟩
  intro e he
  unfold put at he
  split at he
  · exact h.2 e (List.mem_filter.mp he).1
  · next hv =>
    rcases mem_insertKey he with h1 | h1
    · rw [h1]; exact hv
    · exact h.2 e h1

/-- Taking entries away keeps the canonical form. -/
theorem sparseWf_filter {α : Type} [DecidableEq α] (d : α) (p : Nat × α → Bool) {m : List (Nat × α)}
    (h : sparseWf d m = true) : sparseWf d (m.filter p) = true := by
  simp only [sparseWf, Bool.and_eq_true, List.all_eq_true, decide_eq_true_eq] at h ⊢
  exact ⟨rising_filter p h.1, fun e he => h.2 e (List.mem_filter.mp he).1⟩

theorem sparseWf_dropRange {α : Type} [DecidableEq α] (d : α) (lo hi : Nat) {m : List (Nat × α)}
    (h : sparseWf d m = true) : sparseWf d (dropRange m lo hi) = true := sparseWf_filter d _ h

end Sys2Proof.Machine
end

