-- ==== Sys2Proof/Laws/Registers.lean ====
section
/-! SUPPORT. Laws of register fields: what a read sees after a write. -/

namespace Sys2Proof.Machine

@[simp] theorem rdAt_wrAt_self (s : State) (page : Nat) (f : Field) (i v : Nat) :
    rdAt (wrAt page f i v s) page f i = v % 2 ^ f.w := by
  simp [rdAt, wrAt]

theorem rdAt_wrAt_other (s : State) {page page' : Nat} {f g : Field} {i j : Nat} (v : Nat)
    (h : g.key page' j ≠ f.key page i) : rdAt (wrAt page f i v s) page' g j = rdAt s page' g j := by
  simp only [rdAt, wrAt]
  exact look_put_other _ _ _ _ h

@[simp] theorem rd_wr_self (s : State) (page : Nat) (f : Field) (v : Nat) : rd (wr page f v s) page f = v % 2 ^ f.w :=
  rdAt_wrAt_self ..

/-- A field of the same page at another bit place. -/
theorem rd_wr_field (s : State) (page : Nat) {f g : Field} (v : Nat) (h : g.bit ≠ f.bit) :
    rd (wr page f v s) page g = rd s page g := by
  refine rdAt_wrAt_other s v ?_
  simp only [Field.key]
  omega

/-- A field of another page. -/
theorem rd_wr_page (s : State) {page page' : Nat} {f g : Field} (v : Nat) (hf : f.bit < 32768) (hg : g.bit < 32768)
    (h : page' ≠ page) : rd (wr page f v s) page' g = rd s page' g := by
  refine rdAt_wrAt_other s v ?_
  simp only [Field.key]
  omega

/-- A counter stops at its maximum (R106). -/
theorem rdAt_addAt (s : State) (page : Nat) (f : Field) (i n : Nat) :
    rdAt (addAt page f i n s) page f i = min (rdAt s page f i + n) (2 ^ f.w - 1) := by
  have h : 0 < 2 ^ f.w := Nat.two_pow_pos _
  rw [addAt, rdAt_wrAt_self, Nat.mod_eq_of_lt]
  omega

end Sys2Proof.Machine
end

