-- ==== Sys2Proof/Laws/State.lean ====
section
/-! SUPPORT. Updates of the state: what each plain update leaves in every field, so that no proof unfolds a record
update. -/

namespace Sys2Proof.Machine

/-! ### `wrAt` -/

section
variable (s : State) (page : Nat) (f : Field) (i v : Nat)

@[simp] theorem wrAt_latched : (wrAt page f i v s).latched = s.latched := rfl
@[simp] theorem wrAt_mem : (wrAt page f i v s).mem = s.mem := rfl
@[simp] theorem wrAt_bus : (wrAt page f i v s).bus = s.bus := rfl
@[simp] theorem wrAt_link : (wrAt page f i v s).link = s.link := rfl
@[simp] theorem wrAt_host : (wrAt page f i v s).host = s.host := rfl
@[simp] theorem wrAt_life : (wrAt page f i v s).life = s.life := rfl
@[simp] theorem wrAt_gen : (wrAt page f i v s).gen = s.gen := rfl
@[simp] theorem wrAt_tiles : (wrAt page f i v s).tiles = s.tiles := rfl
@[simp] theorem wrAt_chanq : (wrAt page f i v s).chanq = s.chanq := rfl
@[simp] theorem wrAt_marker : (wrAt page f i v s).marker = s.marker := rfl
@[simp] theorem wrAt_mon : (wrAt page f i v s).mon = s.mon := rfl
@[simp] theorem wrAt_pumps : (wrAt page f i v s).pumps = s.pumps := rfl
@[simp] theorem wrAt_pipes : (wrAt page f i v s).pipes = s.pipes := rfl
@[simp] theorem wrAt_whq : (wrAt page f i v s).whq = s.whq := rfl
@[simp] theorem wrAt_hpipes : (wrAt page f i v s).hpipes = s.hpipes := rfl
@[simp] theorem wrAt_decoders : (wrAt page f i v s).decoders = s.decoders := rfl
@[simp] theorem wrAt_encoders : (wrAt page f i v s).encoders = s.encoders := rfl
@[simp] theorem wrAt_cist : (wrAt page f i v s).cist = s.cist := rfl
@[simp] theorem wrAt_res : (wrAt page f i v s).res = s.res := rfl
@[simp] theorem wrAt_reds : (wrAt page f i v s).reds = s.reds := rfl
@[simp] theorem wrAt_tr : (wrAt page f i v s).tr = s.tr := rfl
@[simp] theorem wrAt_retention : (wrAt page f i v s).retention = s.retention := rfl
@[simp] theorem wrAt_rc : (wrAt page f i v s).rc = s.rc := rfl
@[simp] theorem wrAt_faulty : (wrAt page f i v s).faulty = s.faulty := rfl
@[simp] theorem wrAt_subst : (wrAt page f i v s).subst = s.subst := rfl
@[simp] theorem wrAt_gated : (wrAt page f i v s).gated = s.gated := rfl
@[simp] theorem wrAt_waking : (wrAt page f i v s).waking = s.waking := rfl
@[simp] theorem wrAt_outs : (wrAt page f i v s).outs = s.outs := rfl
@[simp] theorem wrAt_drawn : (wrAt page f i v s).drawn = s.drawn := rfl
@[simp] theorem wrAt_powered : (wrAt page f i v s).powered = s.powered := rfl
@[simp] theorem wrAt_pending : (wrAt page f i v s).pending = s.pending := rfl

end

/-! ### `wr` -/

section
variable (s : State) (page : Nat) (f : Field) (v : Nat)

@[simp] theorem wr_latched : (wr page f v s).latched = s.latched := rfl
@[simp] theorem wr_mem : (wr page f v s).mem = s.mem := rfl
@[simp] theorem wr_bus : (wr page f v s).bus = s.bus := rfl
@[simp] theorem wr_link : (wr page f v s).link = s.link := rfl
@[simp] theorem wr_host : (wr page f v s).host = s.host := rfl
@[simp] theorem wr_life : (wr page f v s).life = s.life := rfl
@[simp] theorem wr_gen : (wr page f v s).gen = s.gen := rfl
@[simp] theorem wr_tiles : (wr page f v s).tiles = s.tiles := rfl
@[simp] theorem wr_chanq : (wr page f v s).chanq = s.chanq := rfl
@[simp] theorem wr_marker : (wr page f v s).marker = s.marker := rfl
@[simp] theorem wr_mon : (wr page f v s).mon = s.mon := rfl
@[simp] theorem wr_pumps : (wr page f v s).pumps = s.pumps := rfl
@[simp] theorem wr_pipes : (wr page f v s).pipes = s.pipes := rfl
@[simp] theorem wr_whq : (wr page f v s).whq = s.whq := rfl
@[simp] theorem wr_hpipes : (wr page f v s).hpipes = s.hpipes := rfl
@[simp] theorem wr_decoders : (wr page f v s).decoders = s.decoders := rfl
@[simp] theorem wr_encoders : (wr page f v s).encoders = s.encoders := rfl
@[simp] theorem wr_cist : (wr page f v s).cist = s.cist := rfl
@[simp] theorem wr_res : (wr page f v s).res = s.res := rfl
@[simp] theorem wr_reds : (wr page f v s).reds = s.reds := rfl
@[simp] theorem wr_tr : (wr page f v s).tr = s.tr := rfl
@[simp] theorem wr_retention : (wr page f v s).retention = s.retention := rfl
@[simp] theorem wr_rc : (wr page f v s).rc = s.rc := rfl
@[simp] theorem wr_faulty : (wr page f v s).faulty = s.faulty := rfl
@[simp] theorem wr_subst : (wr page f v s).subst = s.subst := rfl
@[simp] theorem wr_gated : (wr page f v s).gated = s.gated := rfl
@[simp] theorem wr_waking : (wr page f v s).waking = s.waking := rfl
@[simp] theorem wr_outs : (wr page f v s).outs = s.outs := rfl
@[simp] theorem wr_drawn : (wr page f v s).drawn = s.drawn := rfl
@[simp] theorem wr_powered : (wr page f v s).powered = s.powered := rfl
@[simp] theorem wr_pending : (wr page f v s).pending = s.pending := rfl

end

/-! ### `addAt` -/

section
variable (s : State) (page : Nat) (f : Field) (i n : Nat)

@[simp] theorem addAt_latched : (addAt page f i n s).latched = s.latched := rfl
@[simp] theorem addAt_mem : (addAt page f i n s).mem = s.mem := rfl
@[simp] theorem addAt_bus : (addAt page f i n s).bus = s.bus := rfl
@[simp] theorem addAt_link : (addAt page f i n s).link = s.link := rfl
@[simp] theorem addAt_host : (addAt page f i n s).host = s.host := rfl
@[simp] theorem addAt_life : (addAt page f i n s).life = s.life := rfl
@[simp] theorem addAt_gen : (addAt page f i n s).gen = s.gen := rfl
@[simp] theorem addAt_tiles : (addAt page f i n s).tiles = s.tiles := rfl
@[simp] theorem addAt_chanq : (addAt page f i n s).chanq = s.chanq := rfl
@[simp] theorem addAt_marker : (addAt page f i n s).marker = s.marker := rfl
@[simp] theorem addAt_mon : (addAt page f i n s).mon = s.mon := rfl
@[simp] theorem addAt_pumps : (addAt page f i n s).pumps = s.pumps := rfl
@[simp] theorem addAt_pipes : (addAt page f i n s).pipes = s.pipes := rfl
@[simp] theorem addAt_whq : (addAt page f i n s).whq = s.whq := rfl
@[simp] theorem addAt_hpipes : (addAt page f i n s).hpipes = s.hpipes := rfl
@[simp] theorem addAt_decoders : (addAt page f i n s).decoders = s.decoders := rfl
@[simp] theorem addAt_encoders : (addAt page f i n s).encoders = s.encoders := rfl
@[simp] theorem addAt_cist : (addAt page f i n s).cist = s.cist := rfl
@[simp] theorem addAt_res : (addAt page f i n s).res = s.res := rfl
@[simp] theorem addAt_reds : (addAt page f i n s).reds = s.reds := rfl
@[simp] theorem addAt_tr : (addAt page f i n s).tr = s.tr := rfl
@[simp] theorem addAt_retention : (addAt page f i n s).retention = s.retention := rfl
@[simp] theorem addAt_rc : (addAt page f i n s).rc = s.rc := rfl
@[simp] theorem addAt_faulty : (addAt page f i n s).faulty = s.faulty := rfl
@[simp] theorem addAt_subst : (addAt page f i n s).subst = s.subst := rfl
@[simp] theorem addAt_gated : (addAt page f i n s).gated = s.gated := rfl
@[simp] theorem addAt_waking : (addAt page f i n s).waking = s.waking := rfl
@[simp] theorem addAt_outs : (addAt page f i n s).outs = s.outs := rfl
@[simp] theorem addAt_drawn : (addAt page f i n s).drawn = s.drawn := rfl
@[simp] theorem addAt_powered : (addAt page f i n s).powered = s.powered := rfl
@[simp] theorem addAt_pending : (addAt page f i n s).pending = s.pending := rfl

end

/-! ### `bump` -/

section
variable (s : State) (page : Nat) (f : Field) (n : Nat)

@[simp] theorem bump_latched : (bump page f n s).latched = s.latched := rfl
@[simp] theorem bump_mem : (bump page f n s).mem = s.mem := rfl
@[simp] theorem bump_bus : (bump page f n s).bus = s.bus := rfl
@[simp] theorem bump_link : (bump page f n s).link = s.link := rfl
@[simp] theorem bump_host : (bump page f n s).host = s.host := rfl
@[simp] theorem bump_life : (bump page f n s).life = s.life := rfl
@[simp] theorem bump_gen : (bump page f n s).gen = s.gen := rfl
@[simp] theorem bump_tiles : (bump page f n s).tiles = s.tiles := rfl
@[simp] theorem bump_chanq : (bump page f n s).chanq = s.chanq := rfl
@[simp] theorem bump_marker : (bump page f n s).marker = s.marker := rfl
@[simp] theorem bump_mon : (bump page f n s).mon = s.mon := rfl
@[simp] theorem bump_pumps : (bump page f n s).pumps = s.pumps := rfl
@[simp] theorem bump_pipes : (bump page f n s).pipes = s.pipes := rfl
@[simp] theorem bump_whq : (bump page f n s).whq = s.whq := rfl
@[simp] theorem bump_hpipes : (bump page f n s).hpipes = s.hpipes := rfl
@[simp] theorem bump_decoders : (bump page f n s).decoders = s.decoders := rfl
@[simp] theorem bump_encoders : (bump page f n s).encoders = s.encoders := rfl
@[simp] theorem bump_cist : (bump page f n s).cist = s.cist := rfl
@[simp] theorem bump_res : (bump page f n s).res = s.res := rfl
@[simp] theorem bump_reds : (bump page f n s).reds = s.reds := rfl
@[simp] theorem bump_tr : (bump page f n s).tr = s.tr := rfl
@[simp] theorem bump_retention : (bump page f n s).retention = s.retention := rfl
@[simp] theorem bump_rc : (bump page f n s).rc = s.rc := rfl
@[simp] theorem bump_faulty : (bump page f n s).faulty = s.faulty := rfl
@[simp] theorem bump_subst : (bump page f n s).subst = s.subst := rfl
@[simp] theorem bump_gated : (bump page f n s).gated = s.gated := rfl
@[simp] theorem bump_waking : (bump page f n s).waking = s.waking := rfl
@[simp] theorem bump_outs : (bump page f n s).outs = s.outs := rfl
@[simp] theorem bump_drawn : (bump page f n s).drawn = s.drawn := rfl
@[simp] theorem bump_powered : (bump page f n s).powered = s.powered := rfl
@[simp] theorem bump_pending : (bump page f n s).pending = s.pending := rfl

end

/-! ### `lifeAddTo` -/

section
variable (s : State) (bytes off n : Nat)

@[simp] theorem lifeAddTo_regs : (lifeAddTo bytes off n s).regs = s.regs := rfl
@[simp] theorem lifeAddTo_latched : (lifeAddTo bytes off n s).latched = s.latched := rfl
@[simp] theorem lifeAddTo_mem : (lifeAddTo bytes off n s).mem = s.mem := rfl
@[simp] theorem lifeAddTo_bus : (lifeAddTo bytes off n s).bus = s.bus := rfl
@[simp] theorem lifeAddTo_link : (lifeAddTo bytes off n s).link = s.link := rfl
@[simp] theorem lifeAddTo_host : (lifeAddTo bytes off n s).host = s.host := rfl
@[simp] theorem lifeAddTo_gen : (lifeAddTo bytes off n s).gen = s.gen := rfl
@[simp] theorem lifeAddTo_tiles : (lifeAddTo bytes off n s).tiles = s.tiles := rfl
@[simp] theorem lifeAddTo_chanq : (lifeAddTo bytes off n s).chanq = s.chanq := rfl
@[simp] theorem lifeAddTo_marker : (lifeAddTo bytes off n s).marker = s.marker := rfl
@[simp] theorem lifeAddTo_mon : (lifeAddTo bytes off n s).mon = s.mon := rfl
@[simp] theorem lifeAddTo_pumps : (lifeAddTo bytes off n s).pumps = s.pumps := rfl
@[simp] theorem lifeAddTo_pipes : (lifeAddTo bytes off n s).pipes = s.pipes := rfl
@[simp] theorem lifeAddTo_whq : (lifeAddTo bytes off n s).whq = s.whq := rfl
@[simp] theorem lifeAddTo_hpipes : (lifeAddTo bytes off n s).hpipes = s.hpipes := rfl
@[simp] theorem lifeAddTo_decoders : (lifeAddTo bytes off n s).decoders = s.decoders := rfl
@[simp] theorem lifeAddTo_encoders : (lifeAddTo bytes off n s).encoders = s.encoders := rfl
@[simp] theorem lifeAddTo_cist : (lifeAddTo bytes off n s).cist = s.cist := rfl
@[simp] theorem lifeAddTo_res : (lifeAddTo bytes off n s).res = s.res := rfl
@[simp] theorem lifeAddTo_reds : (lifeAddTo bytes off n s).reds = s.reds := rfl
@[simp] theorem lifeAddTo_tr : (lifeAddTo bytes off n s).tr = s.tr := rfl
@[simp] theorem lifeAddTo_retention : (lifeAddTo bytes off n s).retention = s.retention := rfl
@[simp] theorem lifeAddTo_rc : (lifeAddTo bytes off n s).rc = s.rc := rfl
@[simp] theorem lifeAddTo_faulty : (lifeAddTo bytes off n s).faulty = s.faulty := rfl
@[simp] theorem lifeAddTo_subst : (lifeAddTo bytes off n s).subst = s.subst := rfl
@[simp] theorem lifeAddTo_gated : (lifeAddTo bytes off n s).gated = s.gated := rfl
@[simp] theorem lifeAddTo_waking : (lifeAddTo bytes off n s).waking = s.waking := rfl
@[simp] theorem lifeAddTo_outs : (lifeAddTo bytes off n s).outs = s.outs := rfl
@[simp] theorem lifeAddTo_drawn : (lifeAddTo bytes off n s).drawn = s.drawn := rfl
@[simp] theorem lifeAddTo_powered : (lifeAddTo bytes off n s).powered = s.powered := rfl
@[simp] theorem lifeAddTo_pending : (lifeAddTo bytes off n s).pending = s.pending := rfl
@[simp] theorem lifeAddTo_rdAt (page₀ : Nat) (f₀ : Field) (i₀ : Nat) :
    rdAt (lifeAddTo bytes off n s) page₀ f₀ i₀ = rdAt s page₀ f₀ i₀ := rfl
@[simp] theorem lifeAddTo_rd (page₀ : Nat) (f₀ : Field) : rd (lifeAddTo bytes off n s) page₀ f₀ = rd s page₀ f₀ := rfl

end

/-! ### `lifeAdd` -/

section
variable (s : State) (off n : Nat)

@[simp] theorem lifeAdd_regs : (lifeAdd off n s).regs = s.regs := rfl
@[simp] theorem lifeAdd_latched : (lifeAdd off n s).latched = s.latched := rfl
@[simp] theorem lifeAdd_mem : (lifeAdd off n s).mem = s.mem := rfl
@[simp] theorem lifeAdd_bus : (lifeAdd off n s).bus = s.bus := rfl
@[simp] theorem lifeAdd_link : (lifeAdd off n s).link = s.link := rfl
@[simp] theorem lifeAdd_host : (lifeAdd off n s).host = s.host := rfl
@[simp] theorem lifeAdd_gen : (lifeAdd off n s).gen = s.gen := rfl
@[simp] theorem lifeAdd_tiles : (lifeAdd off n s).tiles = s.tiles := rfl
@[simp] theorem lifeAdd_chanq : (lifeAdd off n s).chanq = s.chanq := rfl
@[simp] theorem lifeAdd_marker : (lifeAdd off n s).marker = s.marker := rfl
@[simp] theorem lifeAdd_mon : (lifeAdd off n s).mon = s.mon := rfl
@[simp] theorem lifeAdd_pumps : (lifeAdd off n s).pumps = s.pumps := rfl
@[simp] theorem lifeAdd_pipes : (lifeAdd off n s).pipes = s.pipes := rfl
@[simp] theorem lifeAdd_whq : (lifeAdd off n s).whq = s.whq := rfl
@[simp] theorem lifeAdd_hpipes : (lifeAdd off n s).hpipes = s.hpipes := rfl
@[simp] theorem lifeAdd_decoders : (lifeAdd off n s).decoders = s.decoders := rfl
@[simp] theorem lifeAdd_encoders : (lifeAdd off n s).encoders = s.encoders := rfl
@[simp] theorem lifeAdd_cist : (lifeAdd off n s).cist = s.cist := rfl
@[simp] theorem lifeAdd_res : (lifeAdd off n s).res = s.res := rfl
@[simp] theorem lifeAdd_reds : (lifeAdd off n s).reds = s.reds := rfl
@[simp] theorem lifeAdd_tr : (lifeAdd off n s).tr = s.tr := rfl
@[simp] theorem lifeAdd_retention : (lifeAdd off n s).retention = s.retention := rfl
@[simp] theorem lifeAdd_rc : (lifeAdd off n s).rc = s.rc := rfl
@[simp] theorem lifeAdd_faulty : (lifeAdd off n s).faulty = s.faulty := rfl
@[simp] theorem lifeAdd_subst : (lifeAdd off n s).subst = s.subst := rfl
@[simp] theorem lifeAdd_gated : (lifeAdd off n s).gated = s.gated := rfl
@[simp] theorem lifeAdd_waking : (lifeAdd off n s).waking = s.waking := rfl
@[simp] theorem lifeAdd_outs : (lifeAdd off n s).outs = s.outs := rfl
@[simp] theorem lifeAdd_drawn : (lifeAdd off n s).drawn = s.drawn := rfl
@[simp] theorem lifeAdd_powered : (lifeAdd off n s).powered = s.powered := rfl
@[simp] theorem lifeAdd_pending : (lifeAdd off n s).pending = s.pending := rfl
@[simp] theorem lifeAdd_rdAt (page₀ : Nat) (f₀ : Field) (i₀ : Nat) :
    rdAt (lifeAdd off n s) page₀ f₀ i₀ = rdAt s page₀ f₀ i₀ := rfl
@[simp] theorem lifeAdd_rd (page₀ : Nat) (f₀ : Field) : rd (lifeAdd off n s) page₀ f₀ = rd s page₀ f₀ := rfl

end

/-! ### `lifeSet` -/

section
variable (s : State) (off v : Nat)

@[simp] theorem lifeSet_regs : (lifeSet off v s).regs = s.regs := rfl
@[simp] theorem lifeSet_latched : (lifeSet off v s).latched = s.latched := rfl
@[simp] theorem lifeSet_mem : (lifeSet off v s).mem = s.mem := rfl
@[simp] theorem lifeSet_bus : (lifeSet off v s).bus = s.bus := rfl
@[simp] theorem lifeSet_link : (lifeSet off v s).link = s.link := rfl
@[simp] theorem lifeSet_host : (lifeSet off v s).host = s.host := rfl
@[simp] theorem lifeSet_gen : (lifeSet off v s).gen = s.gen := rfl
@[simp] theorem lifeSet_tiles : (lifeSet off v s).tiles = s.tiles := rfl
@[simp] theorem lifeSet_chanq : (lifeSet off v s).chanq = s.chanq := rfl
@[simp] theorem lifeSet_marker : (lifeSet off v s).marker = s.marker := rfl
@[simp] theorem lifeSet_mon : (lifeSet off v s).mon = s.mon := rfl
@[simp] theorem lifeSet_pumps : (lifeSet off v s).pumps = s.pumps := rfl
@[simp] theorem lifeSet_pipes : (lifeSet off v s).pipes = s.pipes := rfl
@[simp] theorem lifeSet_whq : (lifeSet off v s).whq = s.whq := rfl
@[simp] theorem lifeSet_hpipes : (lifeSet off v s).hpipes = s.hpipes := rfl
@[simp] theorem lifeSet_decoders : (lifeSet off v s).decoders = s.decoders := rfl
@[simp] theorem lifeSet_encoders : (lifeSet off v s).encoders = s.encoders := rfl
@[simp] theorem lifeSet_cist : (lifeSet off v s).cist = s.cist := rfl
@[simp] theorem lifeSet_res : (lifeSet off v s).res = s.res := rfl
@[simp] theorem lifeSet_reds : (lifeSet off v s).reds = s.reds := rfl
@[simp] theorem lifeSet_tr : (lifeSet off v s).tr = s.tr := rfl
@[simp] theorem lifeSet_retention : (lifeSet off v s).retention = s.retention := rfl
@[simp] theorem lifeSet_rc : (lifeSet off v s).rc = s.rc := rfl
@[simp] theorem lifeSet_faulty : (lifeSet off v s).faulty = s.faulty := rfl
@[simp] theorem lifeSet_subst : (lifeSet off v s).subst = s.subst := rfl
@[simp] theorem lifeSet_gated : (lifeSet off v s).gated = s.gated := rfl
@[simp] theorem lifeSet_waking : (lifeSet off v s).waking = s.waking := rfl
@[simp] theorem lifeSet_outs : (lifeSet off v s).outs = s.outs := rfl
@[simp] theorem lifeSet_drawn : (lifeSet off v s).drawn = s.drawn := rfl
@[simp] theorem lifeSet_powered : (lifeSet off v s).powered = s.powered := rfl
@[simp] theorem lifeSet_pending : (lifeSet off v s).pending = s.pending := rfl
@[simp] theorem lifeSet_rdAt (page₀ : Nat) (f₀ : Field) (i₀ : Nat) :
    rdAt (lifeSet off v s) page₀ f₀ i₀ = rdAt s page₀ f₀ i₀ := rfl
@[simp] theorem lifeSet_rd (page₀ : Nat) (f₀ : Field) : rd (lifeSet off v s) page₀ f₀ = rd s page₀ f₀ := rfl

end

/-! ### `journal` -/

section
variable (s : State) (kind code unit data : Nat)

@[simp] theorem journal_regs : (journal kind code unit data s).regs = s.regs := rfl
@[simp] theorem journal_latched : (journal kind code unit data s).latched = s.latched := rfl
@[simp] theorem journal_mem : (journal kind code unit data s).mem = s.mem := rfl
@[simp] theorem journal_bus : (journal kind code unit data s).bus = s.bus := rfl
@[simp] theorem journal_link : (journal kind code unit data s).link = s.link := rfl
@[simp] theorem journal_host : (journal kind code unit data s).host = s.host := rfl
@[simp] theorem journal_gen : (journal kind code unit data s).gen = s.gen := rfl
@[simp] theorem journal_tiles : (journal kind code unit data s).tiles = s.tiles := rfl
@[simp] theorem journal_chanq : (journal kind code unit data s).chanq = s.chanq := rfl
@[simp] theorem journal_marker : (journal kind code unit data s).marker = s.marker := rfl
@[simp] theorem journal_mon : (journal kind code unit data s).mon = s.mon := rfl
@[simp] theorem journal_pumps : (journal kind code unit data s).pumps = s.pumps := rfl
@[simp] theorem journal_pipes : (journal kind code unit data s).pipes = s.pipes := rfl
@[simp] theorem journal_whq : (journal kind code unit data s).whq = s.whq := rfl
@[simp] theorem journal_hpipes : (journal kind code unit data s).hpipes = s.hpipes := rfl
@[simp] theorem journal_decoders : (journal kind code unit data s).decoders = s.decoders := rfl
@[simp] theorem journal_encoders : (journal kind code unit data s).encoders = s.encoders := rfl
@[simp] theorem journal_cist : (journal kind code unit data s).cist = s.cist := rfl
@[simp] theorem journal_res : (journal kind code unit data s).res = s.res := rfl
@[simp] theorem journal_reds : (journal kind code unit data s).reds = s.reds := rfl
@[simp] theorem journal_tr : (journal kind code unit data s).tr = s.tr := rfl
@[simp] theorem journal_retention : (journal kind code unit data s).retention = s.retention := rfl
@[simp] theorem journal_rc : (journal kind code unit data s).rc = s.rc := rfl
@[simp] theorem journal_faulty : (journal kind code unit data s).faulty = s.faulty := rfl
@[simp] theorem journal_subst : (journal kind code unit data s).subst = s.subst := rfl
@[simp] theorem journal_gated : (journal kind code unit data s).gated = s.gated := rfl
@[simp] theorem journal_waking : (journal kind code unit data s).waking = s.waking := rfl
@[simp] theorem journal_outs : (journal kind code unit data s).outs = s.outs := rfl
@[simp] theorem journal_drawn : (journal kind code unit data s).drawn = s.drawn := rfl
@[simp] theorem journal_powered : (journal kind code unit data s).powered = s.powered := rfl
@[simp] theorem journal_pending : (journal kind code unit data s).pending = s.pending := rfl
@[simp] theorem journal_rdAt (page₀ : Nat) (f₀ : Field) (i₀ : Nat) :
    rdAt (journal kind code unit data s) page₀ f₀ i₀ = rdAt s page₀ f₀ i₀ := rfl
@[simp] theorem journal_rd (page₀ : Nat) (f₀ : Field) : rd (journal kind code unit data s) page₀ f₀ = rd s page₀ f₀ := rfl

end

/-! ### `setTile` -/

section
variable (s : State) (t : Nat) (x : Tile)

@[simp] theorem setTile_regs : (setTile t x s).regs = s.regs := rfl
@[simp] theorem setTile_latched : (setTile t x s).latched = s.latched := rfl
@[simp] theorem setTile_mem : (setTile t x s).mem = s.mem := rfl
@[simp] theorem setTile_bus : (setTile t x s).bus = s.bus := rfl
@[simp] theorem setTile_link : (setTile t x s).link = s.link := rfl
@[simp] theorem setTile_host : (setTile t x s).host = s.host := rfl
@[simp] theorem setTile_life : (setTile t x s).life = s.life := rfl
@[simp] theorem setTile_gen : (setTile t x s).gen = s.gen := rfl
@[simp] theorem setTile_chanq : (setTile t x s).chanq = s.chanq := rfl
@[simp] theorem setTile_marker : (setTile t x s).marker = s.marker := rfl
@[simp] theorem setTile_mon : (setTile t x s).mon = s.mon := rfl
@[simp] theorem setTile_pumps : (setTile t x s).pumps = s.pumps := rfl
@[simp] theorem setTile_pipes : (setTile t x s).pipes = s.pipes := rfl
@[simp] theorem setTile_whq : (setTile t x s).whq = s.whq := rfl
@[simp] theorem setTile_hpipes : (setTile t x s).hpipes = s.hpipes := rfl
@[simp] theorem setTile_decoders : (setTile t x s).decoders = s.decoders := rfl
@[simp] theorem setTile_encoders : (setTile t x s).encoders = s.encoders := rfl
@[simp] theorem setTile_cist : (setTile t x s).cist = s.cist := rfl
@[simp] theorem setTile_res : (setTile t x s).res = s.res := rfl
@[simp] theorem setTile_reds : (setTile t x s).reds = s.reds := rfl
@[simp] theorem setTile_tr : (setTile t x s).tr = s.tr := rfl
@[simp] theorem setTile_retention : (setTile t x s).retention = s.retention := rfl
@[simp] theorem setTile_rc : (setTile t x s).rc = s.rc := rfl
@[simp] theorem setTile_faulty : (setTile t x s).faulty = s.faulty := rfl
@[simp] theorem setTile_subst : (setTile t x s).subst = s.subst := rfl
@[simp] theorem setTile_gated : (setTile t x s).gated = s.gated := rfl
@[simp] theorem setTile_waking : (setTile t x s).waking = s.waking := rfl
@[simp] theorem setTile_outs : (setTile t x s).outs = s.outs := rfl
@[simp] theorem setTile_drawn : (setTile t x s).drawn = s.drawn := rfl
@[simp] theorem setTile_powered : (setTile t x s).powered = s.powered := rfl
@[simp] theorem setTile_pending : (setTile t x s).pending = s.pending := rfl
@[simp] theorem setTile_rdAt (page₀ : Nat) (f₀ : Field) (i₀ : Nat) :
    rdAt (setTile t x s) page₀ f₀ i₀ = rdAt s page₀ f₀ i₀ := rfl
@[simp] theorem setTile_rd (page₀ : Nat) (f₀ : Field) : rd (setTile t x s) page₀ f₀ = rd s page₀ f₀ := rfl
@[simp] theorem setTile_tiles : (setTile t x s).tiles = put {} s.tiles t x := rfl

end

/-! ### `setChan` -/

section
variable (s : State) (t n : Nat) (c : Chan)

@[simp] theorem setChan_regs : (setChan t n c s).regs = s.regs := rfl
@[simp] theorem setChan_latched : (setChan t n c s).latched = s.latched := rfl
@[simp] theorem setChan_mem : (setChan t n c s).mem = s.mem := rfl
@[simp] theorem setChan_bus : (setChan t n c s).bus = s.bus := rfl
@[simp] theorem setChan_link : (setChan t n c s).link = s.link := rfl
@[simp] theorem setChan_host : (setChan t n c s).host = s.host := rfl
@[simp] theorem setChan_life : (setChan t n c s).life = s.life := rfl
@[simp] theorem setChan_gen : (setChan t n c s).gen = s.gen := rfl
@[simp] theorem setChan_chanq : (setChan t n c s).chanq = s.chanq := rfl
@[simp] theorem setChan_marker : (setChan t n c s).marker = s.marker := rfl
@[simp] theorem setChan_mon : (setChan t n c s).mon = s.mon := rfl
@[simp] theorem setChan_pumps : (setChan t n c s).pumps = s.pumps := rfl
@[simp] theorem setChan_pipes : (setChan t n c s).pipes = s.pipes := rfl
@[simp] theorem setChan_whq : (setChan t n c s).whq = s.whq := rfl
@[simp] theorem setChan_hpipes : (setChan t n c s).hpipes = s.hpipes := rfl
@[simp] theorem setChan_decoders : (setChan t n c s).decoders = s.decoders := rfl
@[simp] theorem setChan_encoders : (setChan t n c s).encoders = s.encoders := rfl
@[simp] theorem setChan_cist : (setChan t n c s).cist = s.cist := rfl
@[simp] theorem setChan_res : (setChan t n c s).res = s.res := rfl
@[simp] theorem setChan_reds : (setChan t n c s).reds = s.reds := rfl
@[simp] theorem setChan_tr : (setChan t n c s).tr = s.tr := rfl
@[simp] theorem setChan_retention : (setChan t n c s).retention = s.retention := rfl
@[simp] theorem setChan_rc : (setChan t n c s).rc = s.rc := rfl
@[simp] theorem setChan_faulty : (setChan t n c s).faulty = s.faulty := rfl
@[simp] theorem setChan_subst : (setChan t n c s).subst = s.subst := rfl
@[simp] theorem setChan_gated : (setChan t n c s).gated = s.gated := rfl
@[simp] theorem setChan_waking : (setChan t n c s).waking = s.waking := rfl
@[simp] theorem setChan_outs : (setChan t n c s).outs = s.outs := rfl
@[simp] theorem setChan_drawn : (setChan t n c s).drawn = s.drawn := rfl
@[simp] theorem setChan_powered : (setChan t n c s).powered = s.powered := rfl
@[simp] theorem setChan_pending : (setChan t n c s).pending = s.pending := rfl
@[simp] theorem setChan_rdAt (page₀ : Nat) (f₀ : Field) (i₀ : Nat) :
    rdAt (setChan t n c s) page₀ f₀ i₀ = rdAt s page₀ f₀ i₀ := rfl
@[simp] theorem setChan_rd (page₀ : Nat) (f₀ : Field) : rd (setChan t n c s) page₀ f₀ = rd s page₀ f₀ := rfl

end

/-! ### `sendChan` -/

section
variable (s : State) (t ch session toTile toCh : Nat) (b : ChanBody)

@[simp] theorem sendChan_regs : (sendChan t ch session toTile toCh b s).regs = s.regs := rfl
@[simp] theorem sendChan_latched : (sendChan t ch session toTile toCh b s).latched = s.latched := rfl
@[simp] theorem sendChan_mem : (sendChan t ch session toTile toCh b s).mem = s.mem := rfl
@[simp] theorem sendChan_link : (sendChan t ch session toTile toCh b s).link = s.link := rfl
@[simp] theorem sendChan_host : (sendChan t ch session toTile toCh b s).host = s.host := rfl
@[simp] theorem sendChan_life : (sendChan t ch session toTile toCh b s).life = s.life := rfl
@[simp] theorem sendChan_gen : (sendChan t ch session toTile toCh b s).gen = s.gen := rfl
@[simp] theorem sendChan_tiles : (sendChan t ch session toTile toCh b s).tiles = s.tiles := rfl
@[simp] theorem sendChan_marker : (sendChan t ch session toTile toCh b s).marker = s.marker := rfl
@[simp] theorem sendChan_mon : (sendChan t ch session toTile toCh b s).mon = s.mon := rfl
@[simp] theorem sendChan_pumps : (sendChan t ch session toTile toCh b s).pumps = s.pumps := rfl
@[simp] theorem sendChan_pipes : (sendChan t ch session toTile toCh b s).pipes = s.pipes := rfl
@[simp] theorem sendChan_whq : (sendChan t ch session toTile toCh b s).whq = s.whq := rfl
@[simp] theorem sendChan_hpipes : (sendChan t ch session toTile toCh b s).hpipes = s.hpipes := rfl
@[simp] theorem sendChan_decoders : (sendChan t ch session toTile toCh b s).decoders = s.decoders := rfl
@[simp] theorem sendChan_encoders : (sendChan t ch session toTile toCh b s).encoders = s.encoders := rfl
@[simp] theorem sendChan_cist : (sendChan t ch session toTile toCh b s).cist = s.cist := rfl
@[simp] theorem sendChan_res : (sendChan t ch session toTile toCh b s).res = s.res := rfl
@[simp] theorem sendChan_reds : (sendChan t ch session toTile toCh b s).reds = s.reds := rfl
@[simp] theorem sendChan_tr : (sendChan t ch session toTile toCh b s).tr = s.tr := rfl
@[simp] theorem sendChan_retention : (sendChan t ch session toTile toCh b s).retention = s.retention := rfl
@[simp] theorem sendChan_rc : (sendChan t ch session toTile toCh b s).rc = s.rc := rfl
@[simp] theorem sendChan_faulty : (sendChan t ch session toTile toCh b s).faulty = s.faulty := rfl
@[simp] theorem sendChan_subst : (sendChan t ch session toTile toCh b s).subst = s.subst := rfl
@[simp] theorem sendChan_gated : (sendChan t ch session toTile toCh b s).gated = s.gated := rfl
@[simp] theorem sendChan_waking : (sendChan t ch session toTile toCh b s).waking = s.waking := rfl
@[simp] theorem sendChan_outs : (sendChan t ch session toTile toCh b s).outs = s.outs := rfl
@[simp] theorem sendChan_drawn : (sendChan t ch session toTile toCh b s).drawn = s.drawn := rfl
@[simp] theorem sendChan_powered : (sendChan t ch session toTile toCh b s).powered = s.powered := rfl
@[simp] theorem sendChan_pending : (sendChan t ch session toTile toCh b s).pending = s.pending := rfl
@[simp] theorem sendChan_rdAt (page₀ : Nat) (f₀ : Field) (i₀ : Nat) :
    rdAt (sendChan t ch session toTile toCh b s) page₀ f₀ i₀ = rdAt s page₀ f₀ i₀ := rfl
@[simp] theorem sendChan_rd (page₀ : Nat) (f₀ : Field) : rd (sendChan t ch session toTile toCh b s) page₀ f₀ = rd s page₀ f₀ := rfl

end

/-! ### `setCell` -/

section
variable (s : State) (a : Nat) (b : Byte)

@[simp] theorem setCell_regs : (setCell a b s).regs = s.regs := rfl
@[simp] theorem setCell_latched : (setCell a b s).latched = s.latched := rfl
@[simp] theorem setCell_bus : (setCell a b s).bus = s.bus := rfl
@[simp] theorem setCell_link : (setCell a b s).link = s.link := rfl
@[simp] theorem setCell_host : (setCell a b s).host = s.host := rfl
@[simp] theorem setCell_life : (setCell a b s).life = s.life := rfl
@[simp] theorem setCell_gen : (setCell a b s).gen = s.gen := rfl
@[simp] theorem setCell_tiles : (setCell a b s).tiles = s.tiles := rfl
@[simp] theorem setCell_chanq : (setCell a b s).chanq = s.chanq := rfl
@[simp] theorem setCell_marker : (setCell a b s).marker = s.marker := rfl
@[simp] theorem setCell_mon : (setCell a b s).mon = s.mon := rfl
@[simp] theorem setCell_pumps : (setCell a b s).pumps = s.pumps := rfl
@[simp] theorem setCell_pipes : (setCell a b s).pipes = s.pipes := rfl
@[simp] theorem setCell_whq : (setCell a b s).whq = s.whq := rfl
@[simp] theorem setCell_hpipes : (setCell a b s).hpipes = s.hpipes := rfl
@[simp] theorem setCell_decoders : (setCell a b s).decoders = s.decoders := rfl
@[simp] theorem setCell_encoders : (setCell a b s).encoders = s.encoders := rfl
@[simp] theorem setCell_cist : (setCell a b s).cist = s.cist := rfl
@[simp] theorem setCell_res : (setCell a b s).res = s.res := rfl
@[simp] theorem setCell_reds : (setCell a b s).reds = s.reds := rfl
@[simp] theorem setCell_tr : (setCell a b s).tr = s.tr := rfl
@[simp] theorem setCell_retention : (setCell a b s).retention = s.retention := rfl
@[simp] theorem setCell_rc : (setCell a b s).rc = s.rc := rfl
@[simp] theorem setCell_faulty : (setCell a b s).faulty = s.faulty := rfl
@[simp] theorem setCell_subst : (setCell a b s).subst = s.subst := rfl
@[simp] theorem setCell_gated : (setCell a b s).gated = s.gated := rfl
@[simp] theorem setCell_waking : (setCell a b s).waking = s.waking := rfl
@[simp] theorem setCell_outs : (setCell a b s).outs = s.outs := rfl
@[simp] theorem setCell_drawn : (setCell a b s).drawn = s.drawn := rfl
@[simp] theorem setCell_powered : (setCell a b s).powered = s.powered := rfl
@[simp] theorem setCell_pending : (setCell a b s).pending = s.pending := rfl
@[simp] theorem setCell_mem_wellValid : (setCell a b s).mem.wellValid = s.mem.wellValid := rfl
@[simp] theorem setCell_mem_pageValid : (setCell a b s).mem.pageValid = s.mem.pageValid := rfl
@[simp] theorem setCell_mem_poison : (setCell a b s).mem.poison = s.mem.poison := rfl
@[simp] theorem setCell_mem_flips : (setCell a b s).mem.flips = s.mem.flips := rfl
@[simp] theorem setCell_mem_scrubNext : (setCell a b s).mem.scrubNext = s.mem.scrubNext := rfl
@[simp] theorem setCell_mem_wellScrubNext : (setCell a b s).mem.wellScrubNext = s.mem.wellScrubNext := rfl
@[simp] theorem setCell_mem_migrateK : (setCell a b s).mem.migrateK = s.mem.migrateK := rfl
@[simp] theorem setCell_mem_ceSince : (setCell a b s).mem.ceSince = s.mem.ceSince := rfl
@[simp] theorem setCell_mem_wprot : (setCell a b s).mem.wprot = s.mem.wprot := rfl
@[simp] theorem setCell_rdAt (page₀ : Nat) (f₀ : Field) (i₀ : Nat) :
    rdAt (setCell a b s) page₀ f₀ i₀ = rdAt s page₀ f₀ i₀ := rfl
@[simp] theorem setCell_rd (page₀ : Nat) (f₀ : Field) : rd (setCell a b s) page₀ f₀ = rd s page₀ f₀ := rfl

end

/-! ### `setPoison` -/

section
variable (s : State) (u : Nat) (b : Bool)

@[simp] theorem setPoison_regs : (setPoison u b s).regs = s.regs := rfl
@[simp] theorem setPoison_latched : (setPoison u b s).latched = s.latched := rfl
@[simp] theorem setPoison_bus : (setPoison u b s).bus = s.bus := rfl
@[simp] theorem setPoison_link : (setPoison u b s).link = s.link := rfl
@[simp] theorem setPoison_host : (setPoison u b s).host = s.host := rfl
@[simp] theorem setPoison_life : (setPoison u b s).life = s.life := rfl
@[simp] theorem setPoison_gen : (setPoison u b s).gen = s.gen := rfl
@[simp] theorem setPoison_tiles : (setPoison u b s).tiles = s.tiles := rfl
@[simp] theorem setPoison_chanq : (setPoison u b s).chanq = s.chanq := rfl
@[simp] theorem setPoison_marker : (setPoison u b s).marker = s.marker := rfl
@[simp] theorem setPoison_mon : (setPoison u b s).mon = s.mon := rfl
@[simp] theorem setPoison_pumps : (setPoison u b s).pumps = s.pumps := rfl
@[simp] theorem setPoison_pipes : (setPoison u b s).pipes = s.pipes := rfl
@[simp] theorem setPoison_whq : (setPoison u b s).whq = s.whq := rfl
@[simp] theorem setPoison_hpipes : (setPoison u b s).hpipes = s.hpipes := rfl
@[simp] theorem setPoison_decoders : (setPoison u b s).decoders = s.decoders := rfl
@[simp] theorem setPoison_encoders : (setPoison u b s).encoders = s.encoders := rfl
@[simp] theorem setPoison_cist : (setPoison u b s).cist = s.cist := rfl
@[simp] theorem setPoison_res : (setPoison u b s).res = s.res := rfl
@[simp] theorem setPoison_reds : (setPoison u b s).reds = s.reds := rfl
@[simp] theorem setPoison_tr : (setPoison u b s).tr = s.tr := rfl
@[simp] theorem setPoison_retention : (setPoison u b s).retention = s.retention := rfl
@[simp] theorem setPoison_rc : (setPoison u b s).rc = s.rc := rfl
@[simp] theorem setPoison_faulty : (setPoison u b s).faulty = s.faulty := rfl
@[simp] theorem setPoison_subst : (setPoison u b s).subst = s.subst := rfl
@[simp] theorem setPoison_gated : (setPoison u b s).gated = s.gated := rfl
@[simp] theorem setPoison_waking : (setPoison u b s).waking = s.waking := rfl
@[simp] theorem setPoison_outs : (setPoison u b s).outs = s.outs := rfl
@[simp] theorem setPoison_drawn : (setPoison u b s).drawn = s.drawn := rfl
@[simp] theorem setPoison_powered : (setPoison u b s).powered = s.powered := rfl
@[simp] theorem setPoison_pending : (setPoison u b s).pending = s.pending := rfl
@[simp] theorem setPoison_mem_cells : (setPoison u b s).mem.cells = s.mem.cells := rfl
@[simp] theorem setPoison_mem_wellValid : (setPoison u b s).mem.wellValid = s.mem.wellValid := rfl
@[simp] theorem setPoison_mem_pageValid : (setPoison u b s).mem.pageValid = s.mem.pageValid := rfl
@[simp] theorem setPoison_mem_flips : (setPoison u b s).mem.flips = s.mem.flips := rfl
@[simp] theorem setPoison_mem_scrubNext : (setPoison u b s).mem.scrubNext = s.mem.scrubNext := rfl
@[simp] theorem setPoison_mem_wellScrubNext : (setPoison u b s).mem.wellScrubNext = s.mem.wellScrubNext := rfl
@[simp] theorem setPoison_mem_migrateK : (setPoison u b s).mem.migrateK = s.mem.migrateK := rfl
@[simp] theorem setPoison_mem_ceSince : (setPoison u b s).mem.ceSince = s.mem.ceSince := rfl
@[simp] theorem setPoison_mem_wprot : (setPoison u b s).mem.wprot = s.mem.wprot := rfl
@[simp] theorem setPoison_rdAt (page₀ : Nat) (f₀ : Field) (i₀ : Nat) :
    rdAt (setPoison u b s) page₀ f₀ i₀ = rdAt s page₀ f₀ i₀ := rfl
@[simp] theorem setPoison_rd (page₀ : Nat) (f₀ : Field) : rd (setPoison u b s) page₀ f₀ = rd s page₀ f₀ := rfl

end

/-! ### `setFlips` -/

section
variable (s : State) (w m : Nat)

@[simp] theorem setFlips_regs : (setFlips w m s).regs = s.regs := rfl
@[simp] theorem setFlips_latched : (setFlips w m s).latched = s.latched := rfl
@[simp] theorem setFlips_bus : (setFlips w m s).bus = s.bus := rfl
@[simp] theorem setFlips_link : (setFlips w m s).link = s.link := rfl
@[simp] theorem setFlips_host : (setFlips w m s).host = s.host := rfl
@[simp] theorem setFlips_life : (setFlips w m s).life = s.life := rfl
@[simp] theorem setFlips_gen : (setFlips w m s).gen = s.gen := rfl
@[simp] theorem setFlips_tiles : (setFlips w m s).tiles = s.tiles := rfl
@[simp] theorem setFlips_chanq : (setFlips w m s).chanq = s.chanq := rfl
@[simp] theorem setFlips_marker : (setFlips w m s).marker = s.marker := rfl
@[simp] theorem setFlips_mon : (setFlips w m s).mon = s.mon := rfl
@[simp] theorem setFlips_pumps : (setFlips w m s).pumps = s.pumps := rfl
@[simp] theorem setFlips_pipes : (setFlips w m s).pipes = s.pipes := rfl
@[simp] theorem setFlips_whq : (setFlips w m s).whq = s.whq := rfl
@[simp] theorem setFlips_hpipes : (setFlips w m s).hpipes = s.hpipes := rfl
@[simp] theorem setFlips_decoders : (setFlips w m s).decoders = s.decoders := rfl
@[simp] theorem setFlips_encoders : (setFlips w m s).encoders = s.encoders := rfl
@[simp] theorem setFlips_cist : (setFlips w m s).cist = s.cist := rfl
@[simp] theorem setFlips_res : (setFlips w m s).res = s.res := rfl
@[simp] theorem setFlips_reds : (setFlips w m s).reds = s.reds := rfl
@[simp] theorem setFlips_tr : (setFlips w m s).tr = s.tr := rfl
@[simp] theorem setFlips_retention : (setFlips w m s).retention = s.retention := rfl
@[simp] theorem setFlips_rc : (setFlips w m s).rc = s.rc := rfl
@[simp] theorem setFlips_faulty : (setFlips w m s).faulty = s.faulty := rfl
@[simp] theorem setFlips_subst : (setFlips w m s).subst = s.subst := rfl
@[simp] theorem setFlips_gated : (setFlips w m s).gated = s.gated := rfl
@[simp] theorem setFlips_waking : (setFlips w m s).waking = s.waking := rfl
@[simp] theorem setFlips_outs : (setFlips w m s).outs = s.outs := rfl
@[simp] theorem setFlips_drawn : (setFlips w m s).drawn = s.drawn := rfl
@[simp] theorem setFlips_powered : (setFlips w m s).powered = s.powered := rfl
@[simp] theorem setFlips_pending : (setFlips w m s).pending = s.pending := rfl
@[simp] theorem setFlips_mem_cells : (setFlips w m s).mem.cells = s.mem.cells := rfl
@[simp] theorem setFlips_mem_wellValid : (setFlips w m s).mem.wellValid = s.mem.wellValid := rfl
@[simp] theorem setFlips_mem_pageValid : (setFlips w m s).mem.pageValid = s.mem.pageValid := rfl
@[simp] theorem setFlips_mem_poison : (setFlips w m s).mem.poison = s.mem.poison := rfl
@[simp] theorem setFlips_mem_scrubNext : (setFlips w m s).mem.scrubNext = s.mem.scrubNext := rfl
@[simp] theorem setFlips_mem_wellScrubNext : (setFlips w m s).mem.wellScrubNext = s.mem.wellScrubNext := rfl
@[simp] theorem setFlips_mem_migrateK : (setFlips w m s).mem.migrateK = s.mem.migrateK := rfl
@[simp] theorem setFlips_mem_ceSince : (setFlips w m s).mem.ceSince = s.mem.ceSince := rfl
@[simp] theorem setFlips_mem_wprot : (setFlips w m s).mem.wprot = s.mem.wprot := rfl
@[simp] theorem setFlips_rdAt (page₀ : Nat) (f₀ : Field) (i₀ : Nat) :
    rdAt (setFlips w m s) page₀ f₀ i₀ = rdAt s page₀ f₀ i₀ := rfl
@[simp] theorem setFlips_rd (page₀ : Nat) (f₀ : Field) : rd (setFlips w m s) page₀ f₀ = rd s page₀ f₀ := rfl

end

/-! ### `clearWells` -/

section
variable (s : State) (lo hi : Nat)

@[simp] theorem clearWells_regs : (clearWells lo hi s).regs = s.regs := rfl
@[simp] theorem clearWells_latched : (clearWells lo hi s).latched = s.latched := rfl
@[simp] theorem clearWells_bus : (clearWells lo hi s).bus = s.bus := rfl
@[simp] theorem clearWells_link : (clearWells lo hi s).link = s.link := rfl
@[simp] theorem clearWells_host : (clearWells lo hi s).host = s.host := rfl
@[simp] theorem clearWells_life : (clearWells lo hi s).life = s.life := rfl
@[simp] theorem clearWells_gen : (clearWells lo hi s).gen = s.gen := rfl
@[simp] theorem clearWells_tiles : (clearWells lo hi s).tiles = s.tiles := rfl
@[simp] theorem clearWells_chanq : (clearWells lo hi s).chanq = s.chanq := rfl
@[simp] theorem clearWells_marker : (clearWells lo hi s).marker = s.marker := rfl
@[simp] theorem clearWells_mon : (clearWells lo hi s).mon = s.mon := rfl
@[simp] theorem clearWells_pumps : (clearWells lo hi s).pumps = s.pumps := rfl
@[simp] theorem clearWells_pipes : (clearWells lo hi s).pipes = s.pipes := rfl
@[simp] theorem clearWells_whq : (clearWells lo hi s).whq = s.whq := rfl
@[simp] theorem clearWells_hpipes : (clearWells lo hi s).hpipes = s.hpipes := rfl
@[simp] theorem clearWells_decoders : (clearWells lo hi s).decoders = s.decoders := rfl
@[simp] theorem clearWells_encoders : (clearWells lo hi s).encoders = s.encoders := rfl
@[simp] theorem clearWells_cist : (clearWells lo hi s).cist = s.cist := rfl
@[simp] theorem clearWells_res : (clearWells lo hi s).res = s.res := rfl
@[simp] theorem clearWells_reds : (clearWells lo hi s).reds = s.reds := rfl
@[simp] theorem clearWells_tr : (clearWells lo hi s).tr = s.tr := rfl
@[simp] theorem clearWells_retention : (clearWells lo hi s).retention = s.retention := rfl
@[simp] theorem clearWells_rc : (clearWells lo hi s).rc = s.rc := rfl
@[simp] theorem clearWells_faulty : (clearWells lo hi s).faulty = s.faulty := rfl
@[simp] theorem clearWells_subst : (clearWells lo hi s).subst = s.subst := rfl
@[simp] theorem clearWells_gated : (clearWells lo hi s).gated = s.gated := rfl
@[simp] theorem clearWells_waking : (clearWells lo hi s).waking = s.waking := rfl
@[simp] theorem clearWells_outs : (clearWells lo hi s).outs = s.outs := rfl
@[simp] theorem clearWells_drawn : (clearWells lo hi s).drawn = s.drawn := rfl
@[simp] theorem clearWells_powered : (clearWells lo hi s).powered = s.powered := rfl
@[simp] theorem clearWells_pending : (clearWells lo hi s).pending = s.pending := rfl
@[simp] theorem clearWells_mem_pageValid : (clearWells lo hi s).mem.pageValid = s.mem.pageValid := rfl
@[simp] theorem clearWells_mem_scrubNext : (clearWells lo hi s).mem.scrubNext = s.mem.scrubNext := rfl
@[simp] theorem clearWells_mem_wellScrubNext : (clearWells lo hi s).mem.wellScrubNext = s.mem.wellScrubNext := rfl
@[simp] theorem clearWells_mem_migrateK : (clearWells lo hi s).mem.migrateK = s.mem.migrateK := rfl
@[simp] theorem clearWells_mem_ceSince : (clearWells lo hi s).mem.ceSince = s.mem.ceSince := rfl
@[simp] theorem clearWells_mem_wprot : (clearWells lo hi s).mem.wprot = s.mem.wprot := rfl
@[simp] theorem clearWells_rdAt (page₀ : Nat) (f₀ : Field) (i₀ : Nat) :
    rdAt (clearWells lo hi s) page₀ f₀ i₀ = rdAt s page₀ f₀ i₀ := rfl
@[simp] theorem clearWells_rd (page₀ : Nat) (f₀ : Field) : rd (clearWells lo hi s) page₀ f₀ = rd s page₀ f₀ := rfl

end

/-! ### `clearGddr` -/

section
variable (s : State) (lo hi : Nat)

@[simp] theorem clearGddr_regs : (clearGddr lo hi s).regs = s.regs := rfl
@[simp] theorem clearGddr_latched : (clearGddr lo hi s).latched = s.latched := rfl
@[simp] theorem clearGddr_bus : (clearGddr lo hi s).bus = s.bus := rfl
@[simp] theorem clearGddr_link : (clearGddr lo hi s).link = s.link := rfl
@[simp] theorem clearGddr_host : (clearGddr lo hi s).host = s.host := rfl
@[simp] theorem clearGddr_life : (clearGddr lo hi s).life = s.life := rfl
@[simp] theorem clearGddr_gen : (clearGddr lo hi s).gen = s.gen := rfl
@[simp] theorem clearGddr_tiles : (clearGddr lo hi s).tiles = s.tiles := rfl
@[simp] theorem clearGddr_chanq : (clearGddr lo hi s).chanq = s.chanq := rfl
@[simp] theorem clearGddr_marker : (clearGddr lo hi s).marker = s.marker := rfl
@[simp] theorem clearGddr_mon : (clearGddr lo hi s).mon = s.mon := rfl
@[simp] theorem clearGddr_pumps : (clearGddr lo hi s).pumps = s.pumps := rfl
@[simp] theorem clearGddr_pipes : (clearGddr lo hi s).pipes = s.pipes := rfl
@[simp] theorem clearGddr_whq : (clearGddr lo hi s).whq = s.whq := rfl
@[simp] theorem clearGddr_hpipes : (clearGddr lo hi s).hpipes = s.hpipes := rfl
@[simp] theorem clearGddr_decoders : (clearGddr lo hi s).decoders = s.decoders := rfl
@[simp] theorem clearGddr_encoders : (clearGddr lo hi s).encoders = s.encoders := rfl
@[simp] theorem clearGddr_cist : (clearGddr lo hi s).cist = s.cist := rfl
@[simp] theorem clearGddr_res : (clearGddr lo hi s).res = s.res := rfl
@[simp] theorem clearGddr_reds : (clearGddr lo hi s).reds = s.reds := rfl
@[simp] theorem clearGddr_tr : (clearGddr lo hi s).tr = s.tr := rfl
@[simp] theorem clearGddr_retention : (clearGddr lo hi s).retention = s.retention := rfl
@[simp] theorem clearGddr_rc : (clearGddr lo hi s).rc = s.rc := rfl
@[simp] theorem clearGddr_faulty : (clearGddr lo hi s).faulty = s.faulty := rfl
@[simp] theorem clearGddr_subst : (clearGddr lo hi s).subst = s.subst := rfl
@[simp] theorem clearGddr_gated : (clearGddr lo hi s).gated = s.gated := rfl
@[simp] theorem clearGddr_waking : (clearGddr lo hi s).waking = s.waking := rfl
@[simp] theorem clearGddr_outs : (clearGddr lo hi s).outs = s.outs := rfl
@[simp] theorem clearGddr_drawn : (clearGddr lo hi s).drawn = s.drawn := rfl
@[simp] theorem clearGddr_powered : (clearGddr lo hi s).powered = s.powered := rfl
@[simp] theorem clearGddr_pending : (clearGddr lo hi s).pending = s.pending := rfl
@[simp] theorem clearGddr_mem_wellValid : (clearGddr lo hi s).mem.wellValid = s.mem.wellValid := rfl
@[simp] theorem clearGddr_mem_scrubNext : (clearGddr lo hi s).mem.scrubNext = s.mem.scrubNext := rfl
@[simp] theorem clearGddr_mem_wellScrubNext : (clearGddr lo hi s).mem.wellScrubNext = s.mem.wellScrubNext := rfl
@[simp] theorem clearGddr_mem_migrateK : (clearGddr lo hi s).mem.migrateK = s.mem.migrateK := rfl
@[simp] theorem clearGddr_mem_ceSince : (clearGddr lo hi s).mem.ceSince = s.mem.ceSince := rfl
@[simp] theorem clearGddr_mem_wprot : (clearGddr lo hi s).mem.wprot = s.mem.wprot := rfl
@[simp] theorem clearGddr_rdAt (page₀ : Nat) (f₀ : Field) (i₀ : Nat) :
    rdAt (clearGddr lo hi s) page₀ f₀ i₀ = rdAt s page₀ f₀ i₀ := rfl
@[simp] theorem clearGddr_rd (page₀ : Nat) (f₀ : Field) : rd (clearGddr lo hi s) page₀ f₀ = rd s page₀ f₀ := rfl

end

/-! ### `setPort` -/

section
variable (s : State) (n : Nat) (p : Port)

@[simp] theorem setPort_regs : (setPort n p s).regs = s.regs := rfl
@[simp] theorem setPort_latched : (setPort n p s).latched = s.latched := rfl
@[simp] theorem setPort_mem : (setPort n p s).mem = s.mem := rfl
@[simp] theorem setPort_bus : (setPort n p s).bus = s.bus := rfl
@[simp] theorem setPort_host : (setPort n p s).host = s.host := rfl
@[simp] theorem setPort_life : (setPort n p s).life = s.life := rfl
@[simp] theorem setPort_gen : (setPort n p s).gen = s.gen := rfl
@[simp] theorem setPort_tiles : (setPort n p s).tiles = s.tiles := rfl
@[simp] theorem setPort_chanq : (setPort n p s).chanq = s.chanq := rfl
@[simp] theorem setPort_marker : (setPort n p s).marker = s.marker := rfl
@[simp] theorem setPort_mon : (setPort n p s).mon = s.mon := rfl
@[simp] theorem setPort_pumps : (setPort n p s).pumps = s.pumps := rfl
@[simp] theorem setPort_pipes : (setPort n p s).pipes = s.pipes := rfl
@[simp] theorem setPort_whq : (setPort n p s).whq = s.whq := rfl
@[simp] theorem setPort_hpipes : (setPort n p s).hpipes = s.hpipes := rfl
@[simp] theorem setPort_decoders : (setPort n p s).decoders = s.decoders := rfl
@[simp] theorem setPort_encoders : (setPort n p s).encoders = s.encoders := rfl
@[simp] theorem setPort_cist : (setPort n p s).cist = s.cist := rfl
@[simp] theorem setPort_res : (setPort n p s).res = s.res := rfl
@[simp] theorem setPort_reds : (setPort n p s).reds = s.reds := rfl
@[simp] theorem setPort_tr : (setPort n p s).tr = s.tr := rfl
@[simp] theorem setPort_retention : (setPort n p s).retention = s.retention := rfl
@[simp] theorem setPort_rc : (setPort n p s).rc = s.rc := rfl
@[simp] theorem setPort_faulty : (setPort n p s).faulty = s.faulty := rfl
@[simp] theorem setPort_subst : (setPort n p s).subst = s.subst := rfl
@[simp] theorem setPort_gated : (setPort n p s).gated = s.gated := rfl
@[simp] theorem setPort_waking : (setPort n p s).waking = s.waking := rfl
@[simp] theorem setPort_outs : (setPort n p s).outs = s.outs := rfl
@[simp] theorem setPort_drawn : (setPort n p s).drawn = s.drawn := rfl
@[simp] theorem setPort_powered : (setPort n p s).powered = s.powered := rfl
@[simp] theorem setPort_pending : (setPort n p s).pending = s.pending := rfl
@[simp] theorem setPort_rdAt (page₀ : Nat) (f₀ : Field) (i₀ : Nat) :
    rdAt (setPort n p s) page₀ f₀ i₀ = rdAt s page₀ f₀ i₀ := rfl
@[simp] theorem setPort_rd (page₀ : Nat) (f₀ : Field) : rd (setPort n p s) page₀ f₀ = rd s page₀ f₀ := rfl

end

/-! ### `forgetArrived` -/

section
variable (s : State) (w : Who)

@[simp] theorem forgetArrived_regs : (forgetArrived w s).regs = s.regs := rfl
@[simp] theorem forgetArrived_latched : (forgetArrived w s).latched = s.latched := rfl
@[simp] theorem forgetArrived_mem : (forgetArrived w s).mem = s.mem := rfl
@[simp] theorem forgetArrived_link : (forgetArrived w s).link = s.link := rfl
@[simp] theorem forgetArrived_host : (forgetArrived w s).host = s.host := rfl
@[simp] theorem forgetArrived_life : (forgetArrived w s).life = s.life := rfl
@[simp] theorem forgetArrived_gen : (forgetArrived w s).gen = s.gen := rfl
@[simp] theorem forgetArrived_tiles : (forgetArrived w s).tiles = s.tiles := rfl
@[simp] theorem forgetArrived_chanq : (forgetArrived w s).chanq = s.chanq := rfl
@[simp] theorem forgetArrived_marker : (forgetArrived w s).marker = s.marker := rfl
@[simp] theorem forgetArrived_mon : (forgetArrived w s).mon = s.mon := rfl
@[simp] theorem forgetArrived_pumps : (forgetArrived w s).pumps = s.pumps := rfl
@[simp] theorem forgetArrived_pipes : (forgetArrived w s).pipes = s.pipes := rfl
@[simp] theorem forgetArrived_whq : (forgetArrived w s).whq = s.whq := rfl
@[simp] theorem forgetArrived_hpipes : (forgetArrived w s).hpipes = s.hpipes := rfl
@[simp] theorem forgetArrived_decoders : (forgetArrived w s).decoders = s.decoders := rfl
@[simp] theorem forgetArrived_encoders : (forgetArrived w s).encoders = s.encoders := rfl
@[simp] theorem forgetArrived_cist : (forgetArrived w s).cist = s.cist := rfl
@[simp] theorem forgetArrived_res : (forgetArrived w s).res = s.res := rfl
@[simp] theorem forgetArrived_reds : (forgetArrived w s).reds = s.reds := rfl
@[simp] theorem forgetArrived_tr : (forgetArrived w s).tr = s.tr := rfl
@[simp] theorem forgetArrived_retention : (forgetArrived w s).retention = s.retention := rfl
@[simp] theorem forgetArrived_rc : (forgetArrived w s).rc = s.rc := rfl
@[simp] theorem forgetArrived_faulty : (forgetArrived w s).faulty = s.faulty := rfl
@[simp] theorem forgetArrived_subst : (forgetArrived w s).subst = s.subst := rfl
@[simp] theorem forgetArrived_gated : (forgetArrived w s).gated = s.gated := rfl
@[simp] theorem forgetArrived_waking : (forgetArrived w s).waking = s.waking := rfl
@[simp] theorem forgetArrived_outs : (forgetArrived w s).outs = s.outs := rfl
@[simp] theorem forgetArrived_drawn : (forgetArrived w s).drawn = s.drawn := rfl
@[simp] theorem forgetArrived_powered : (forgetArrived w s).powered = s.powered := rfl
@[simp] theorem forgetArrived_pending : (forgetArrived w s).pending = s.pending := rfl
@[simp] theorem forgetArrived_rdAt (page₀ : Nat) (f₀ : Field) (i₀ : Nat) :
    rdAt (forgetArrived w s) page₀ f₀ i₀ = rdAt s page₀ f₀ i₀ := rfl
@[simp] theorem forgetArrived_rd (page₀ : Nat) (f₀ : Field) : rd (forgetArrived w s) page₀ f₀ = rd s page₀ f₀ := rfl

end

/-! ### `joinStep` -/

section
variable (s : State) (page step : Nat)

@[simp] theorem joinStep_regs : (joinStep page step s).regs = s.regs := rfl
@[simp] theorem joinStep_latched : (joinStep page step s).latched = s.latched := rfl
@[simp] theorem joinStep_mem : (joinStep page step s).mem = s.mem := rfl
@[simp] theorem joinStep_bus : (joinStep page step s).bus = s.bus := rfl
@[simp] theorem joinStep_link : (joinStep page step s).link = s.link := rfl
@[simp] theorem joinStep_host : (joinStep page step s).host = s.host := rfl
@[simp] theorem joinStep_life : (joinStep page step s).life = s.life := rfl
@[simp] theorem joinStep_tiles : (joinStep page step s).tiles = s.tiles := rfl
@[simp] theorem joinStep_chanq : (joinStep page step s).chanq = s.chanq := rfl
@[simp] theorem joinStep_marker : (joinStep page step s).marker = s.marker := rfl
@[simp] theorem joinStep_mon : (joinStep page step s).mon = s.mon := rfl
@[simp] theorem joinStep_pumps : (joinStep page step s).pumps = s.pumps := rfl
@[simp] theorem joinStep_pipes : (joinStep page step s).pipes = s.pipes := rfl
@[simp] theorem joinStep_whq : (joinStep page step s).whq = s.whq := rfl
@[simp] theorem joinStep_hpipes : (joinStep page step s).hpipes = s.hpipes := rfl
@[simp] theorem joinStep_decoders : (joinStep page step s).decoders = s.decoders := rfl
@[simp] theorem joinStep_encoders : (joinStep page step s).encoders = s.encoders := rfl
@[simp] theorem joinStep_cist : (joinStep page step s).cist = s.cist := rfl
@[simp] theorem joinStep_res : (joinStep page step s).res = s.res := rfl
@[simp] theorem joinStep_reds : (joinStep page step s).reds = s.reds := rfl
@[simp] theorem joinStep_tr : (joinStep page step s).tr = s.tr := rfl
@[simp] theorem joinStep_retention : (joinStep page step s).retention = s.retention := rfl
@[simp] theorem joinStep_rc : (joinStep page step s).rc = s.rc := rfl
@[simp] theorem joinStep_faulty : (joinStep page step s).faulty = s.faulty := rfl
@[simp] theorem joinStep_subst : (joinStep page step s).subst = s.subst := rfl
@[simp] theorem joinStep_gated : (joinStep page step s).gated = s.gated := rfl
@[simp] theorem joinStep_waking : (joinStep page step s).waking = s.waking := rfl
@[simp] theorem joinStep_outs : (joinStep page step s).outs = s.outs := rfl
@[simp] theorem joinStep_drawn : (joinStep page step s).drawn = s.drawn := rfl
@[simp] theorem joinStep_powered : (joinStep page step s).powered = s.powered := rfl
@[simp] theorem joinStep_pending : (joinStep page step s).pending = s.pending := rfl
@[simp] theorem joinStep_rdAt (page₀ : Nat) (f₀ : Field) (i₀ : Nat) :
    rdAt (joinStep page step s) page₀ f₀ i₀ = rdAt s page₀ f₀ i₀ := rfl
@[simp] theorem joinStep_rd (page₀ : Nat) (f₀ : Field) : rd (joinStep page step s) page₀ f₀ = rd s page₀ f₀ := rfl

end

/-! ### `finishStep` -/

section
variable (s : State) (page step : Nat)

@[simp] theorem finishStep_regs : (finishStep page step s).regs = s.regs := rfl
@[simp] theorem finishStep_latched : (finishStep page step s).latched = s.latched := rfl
@[simp] theorem finishStep_mem : (finishStep page step s).mem = s.mem := rfl
@[simp] theorem finishStep_bus : (finishStep page step s).bus = s.bus := rfl
@[simp] theorem finishStep_link : (finishStep page step s).link = s.link := rfl
@[simp] theorem finishStep_host : (finishStep page step s).host = s.host := rfl
@[simp] theorem finishStep_life : (finishStep page step s).life = s.life := rfl
@[simp] theorem finishStep_tiles : (finishStep page step s).tiles = s.tiles := rfl
@[simp] theorem finishStep_chanq : (finishStep page step s).chanq = s.chanq := rfl
@[simp] theorem finishStep_marker : (finishStep page step s).marker = s.marker := rfl
@[simp] theorem finishStep_mon : (finishStep page step s).mon = s.mon := rfl
@[simp] theorem finishStep_pumps : (finishStep page step s).pumps = s.pumps := rfl
@[simp] theorem finishStep_pipes : (finishStep page step s).pipes = s.pipes := rfl
@[simp] theorem finishStep_whq : (finishStep page step s).whq = s.whq := rfl
@[simp] theorem finishStep_hpipes : (finishStep page step s).hpipes = s.hpipes := rfl
@[simp] theorem finishStep_decoders : (finishStep page step s).decoders = s.decoders := rfl
@[simp] theorem finishStep_encoders : (finishStep page step s).encoders = s.encoders := rfl
@[simp] theorem finishStep_cist : (finishStep page step s).cist = s.cist := rfl
@[simp] theorem finishStep_res : (finishStep page step s).res = s.res := rfl
@[simp] theorem finishStep_reds : (finishStep page step s).reds = s.reds := rfl
@[simp] theorem finishStep_tr : (finishStep page step s).tr = s.tr := rfl
@[simp] theorem finishStep_retention : (finishStep page step s).retention = s.retention := rfl
@[simp] theorem finishStep_rc : (finishStep page step s).rc = s.rc := rfl
@[simp] theorem finishStep_faulty : (finishStep page step s).faulty = s.faulty := rfl
@[simp] theorem finishStep_subst : (finishStep page step s).subst = s.subst := rfl
@[simp] theorem finishStep_gated : (finishStep page step s).gated = s.gated := rfl
@[simp] theorem finishStep_waking : (finishStep page step s).waking = s.waking := rfl
@[simp] theorem finishStep_outs : (finishStep page step s).outs = s.outs := rfl
@[simp] theorem finishStep_drawn : (finishStep page step s).drawn = s.drawn := rfl
@[simp] theorem finishStep_powered : (finishStep page step s).powered = s.powered := rfl
@[simp] theorem finishStep_pending : (finishStep page step s).pending = s.pending := rfl
@[simp] theorem finishStep_rdAt (page₀ : Nat) (f₀ : Field) (i₀ : Nat) :
    rdAt (finishStep page step s) page₀ f₀ i₀ = rdAt s page₀ f₀ i₀ := rfl
@[simp] theorem finishStep_rd (page₀ : Nat) (f₀ : Field) : rd (finishStep page step s) page₀ f₀ = rd s page₀ f₀ := rfl

end

/-! ### `setPump` -/

section
variable (s : State) (p : Nat) (x : Pump)

@[simp] theorem setPump_regs : (setPump p x s).regs = s.regs := rfl
@[simp] theorem setPump_latched : (setPump p x s).latched = s.latched := rfl
@[simp] theorem setPump_mem : (setPump p x s).mem = s.mem := rfl
@[simp] theorem setPump_bus : (setPump p x s).bus = s.bus := rfl
@[simp] theorem setPump_link : (setPump p x s).link = s.link := rfl
@[simp] theorem setPump_host : (setPump p x s).host = s.host := rfl
@[simp] theorem setPump_life : (setPump p x s).life = s.life := rfl
@[simp] theorem setPump_gen : (setPump p x s).gen = s.gen := rfl
@[simp] theorem setPump_tiles : (setPump p x s).tiles = s.tiles := rfl
@[simp] theorem setPump_chanq : (setPump p x s).chanq = s.chanq := rfl
@[simp] theorem setPump_marker : (setPump p x s).marker = s.marker := rfl
@[simp] theorem setPump_mon : (setPump p x s).mon = s.mon := rfl
@[simp] theorem setPump_pipes : (setPump p x s).pipes = s.pipes := rfl
@[simp] theorem setPump_whq : (setPump p x s).whq = s.whq := rfl
@[simp] theorem setPump_hpipes : (setPump p x s).hpipes = s.hpipes := rfl
@[simp] theorem setPump_decoders : (setPump p x s).decoders = s.decoders := rfl
@[simp] theorem setPump_encoders : (setPump p x s).encoders = s.encoders := rfl
@[simp] theorem setPump_cist : (setPump p x s).cist = s.cist := rfl
@[simp] theorem setPump_res : (setPump p x s).res = s.res := rfl
@[simp] theorem setPump_reds : (setPump p x s).reds = s.reds := rfl
@[simp] theorem setPump_tr : (setPump p x s).tr = s.tr := rfl
@[simp] theorem setPump_retention : (setPump p x s).retention = s.retention := rfl
@[simp] theorem setPump_rc : (setPump p x s).rc = s.rc := rfl
@[simp] theorem setPump_faulty : (setPump p x s).faulty = s.faulty := rfl
@[simp] theorem setPump_subst : (setPump p x s).subst = s.subst := rfl
@[simp] theorem setPump_gated : (setPump p x s).gated = s.gated := rfl
@[simp] theorem setPump_waking : (setPump p x s).waking = s.waking := rfl
@[simp] theorem setPump_outs : (setPump p x s).outs = s.outs := rfl
@[simp] theorem setPump_drawn : (setPump p x s).drawn = s.drawn := rfl
@[simp] theorem setPump_powered : (setPump p x s).powered = s.powered := rfl
@[simp] theorem setPump_pending : (setPump p x s).pending = s.pending := rfl
@[simp] theorem setPump_rdAt (page₀ : Nat) (f₀ : Field) (i₀ : Nat) :
    rdAt (setPump p x s) page₀ f₀ i₀ = rdAt s page₀ f₀ i₀ := rfl
@[simp] theorem setPump_rd (page₀ : Nat) (f₀ : Field) : rd (setPump p x s) page₀ f₀ = rd s page₀ f₀ := rfl
@[simp] theorem setPump_pumps : (setPump p x s).pumps = put {} s.pumps p x := rfl

end

/-! ### `setPipe` -/

section
variable (s : State) (k : Nat) (x : Pipe)

@[simp] theorem setPipe_regs : (setPipe k x s).regs = s.regs := rfl
@[simp] theorem setPipe_latched : (setPipe k x s).latched = s.latched := rfl
@[simp] theorem setPipe_mem : (setPipe k x s).mem = s.mem := rfl
@[simp] theorem setPipe_bus : (setPipe k x s).bus = s.bus := rfl
@[simp] theorem setPipe_link : (setPipe k x s).link = s.link := rfl
@[simp] theorem setPipe_host : (setPipe k x s).host = s.host := rfl
@[simp] theorem setPipe_life : (setPipe k x s).life = s.life := rfl
@[simp] theorem setPipe_gen : (setPipe k x s).gen = s.gen := rfl
@[simp] theorem setPipe_tiles : (setPipe k x s).tiles = s.tiles := rfl
@[simp] theorem setPipe_chanq : (setPipe k x s).chanq = s.chanq := rfl
@[simp] theorem setPipe_marker : (setPipe k x s).marker = s.marker := rfl
@[simp] theorem setPipe_mon : (setPipe k x s).mon = s.mon := rfl
@[simp] theorem setPipe_pumps : (setPipe k x s).pumps = s.pumps := rfl
@[simp] theorem setPipe_whq : (setPipe k x s).whq = s.whq := rfl
@[simp] theorem setPipe_hpipes : (setPipe k x s).hpipes = s.hpipes := rfl
@[simp] theorem setPipe_decoders : (setPipe k x s).decoders = s.decoders := rfl
@[simp] theorem setPipe_encoders : (setPipe k x s).encoders = s.encoders := rfl
@[simp] theorem setPipe_cist : (setPipe k x s).cist = s.cist := rfl
@[simp] theorem setPipe_res : (setPipe k x s).res = s.res := rfl
@[simp] theorem setPipe_reds : (setPipe k x s).reds = s.reds := rfl
@[simp] theorem setPipe_tr : (setPipe k x s).tr = s.tr := rfl
@[simp] theorem setPipe_retention : (setPipe k x s).retention = s.retention := rfl
@[simp] theorem setPipe_rc : (setPipe k x s).rc = s.rc := rfl
@[simp] theorem setPipe_faulty : (setPipe k x s).faulty = s.faulty := rfl
@[simp] theorem setPipe_subst : (setPipe k x s).subst = s.subst := rfl
@[simp] theorem setPipe_gated : (setPipe k x s).gated = s.gated := rfl
@[simp] theorem setPipe_waking : (setPipe k x s).waking = s.waking := rfl
@[simp] theorem setPipe_outs : (setPipe k x s).outs = s.outs := rfl
@[simp] theorem setPipe_drawn : (setPipe k x s).drawn = s.drawn := rfl
@[simp] theorem setPipe_powered : (setPipe k x s).powered = s.powered := rfl
@[simp] theorem setPipe_pending : (setPipe k x s).pending = s.pending := rfl
@[simp] theorem setPipe_rdAt (page₀ : Nat) (f₀ : Field) (i₀ : Nat) :
    rdAt (setPipe k x s) page₀ f₀ i₀ = rdAt s page₀ f₀ i₀ := rfl
@[simp] theorem setPipe_rd (page₀ : Nat) (f₀ : Field) : rd (setPipe k x s) page₀ f₀ = rd s page₀ f₀ := rfl
@[simp] theorem setPipe_pipes : (setPipe k x s).pipes = put {} s.pipes k x := rfl

end

/-! ### `setHp` -/

section
variable (s : State) (h : Nat) (x : Pipe)

@[simp] theorem setHp_regs : (setHp h x s).regs = s.regs := rfl
@[simp] theorem setHp_latched : (setHp h x s).latched = s.latched := rfl
@[simp] theorem setHp_mem : (setHp h x s).mem = s.mem := rfl
@[simp] theorem setHp_bus : (setHp h x s).bus = s.bus := rfl
@[simp] theorem setHp_link : (setHp h x s).link = s.link := rfl
@[simp] theorem setHp_host : (setHp h x s).host = s.host := rfl
@[simp] theorem setHp_life : (setHp h x s).life = s.life := rfl
@[simp] theorem setHp_gen : (setHp h x s).gen = s.gen := rfl
@[simp] theorem setHp_tiles : (setHp h x s).tiles = s.tiles := rfl
@[simp] theorem setHp_chanq : (setHp h x s).chanq = s.chanq := rfl
@[simp] theorem setHp_marker : (setHp h x s).marker = s.marker := rfl
@[simp] theorem setHp_mon : (setHp h x s).mon = s.mon := rfl
@[simp] theorem setHp_pumps : (setHp h x s).pumps = s.pumps := rfl
@[simp] theorem setHp_pipes : (setHp h x s).pipes = s.pipes := rfl
@[simp] theorem setHp_whq : (setHp h x s).whq = s.whq := rfl
@[simp] theorem setHp_decoders : (setHp h x s).decoders = s.decoders := rfl
@[simp] theorem setHp_encoders : (setHp h x s).encoders = s.encoders := rfl
@[simp] theorem setHp_cist : (setHp h x s).cist = s.cist := rfl
@[simp] theorem setHp_res : (setHp h x s).res = s.res := rfl
@[simp] theorem setHp_reds : (setHp h x s).reds = s.reds := rfl
@[simp] theorem setHp_tr : (setHp h x s).tr = s.tr := rfl
@[simp] theorem setHp_retention : (setHp h x s).retention = s.retention := rfl
@[simp] theorem setHp_rc : (setHp h x s).rc = s.rc := rfl
@[simp] theorem setHp_faulty : (setHp h x s).faulty = s.faulty := rfl
@[simp] theorem setHp_subst : (setHp h x s).subst = s.subst := rfl
@[simp] theorem setHp_gated : (setHp h x s).gated = s.gated := rfl
@[simp] theorem setHp_waking : (setHp h x s).waking = s.waking := rfl
@[simp] theorem setHp_outs : (setHp h x s).outs = s.outs := rfl
@[simp] theorem setHp_drawn : (setHp h x s).drawn = s.drawn := rfl
@[simp] theorem setHp_powered : (setHp h x s).powered = s.powered := rfl
@[simp] theorem setHp_pending : (setHp h x s).pending = s.pending := rfl
@[simp] theorem setHp_rdAt (page₀ : Nat) (f₀ : Field) (i₀ : Nat) :
    rdAt (setHp h x s) page₀ f₀ i₀ = rdAt s page₀ f₀ i₀ := rfl
@[simp] theorem setHp_rd (page₀ : Nat) (f₀ : Field) : rd (setHp h x s) page₀ f₀ = rd s page₀ f₀ := rfl
@[simp] theorem setHp_hpipes : (setHp h x s).hpipes = put {} s.hpipes h x := rfl

end

/-! ### `setPendingLoss` -/

section
variable (s : State) (p : Nat × Nat × Nat)

@[simp] theorem setPendingLoss_regs : (setPendingLoss p s).regs = s.regs := rfl
@[simp] theorem setPendingLoss_latched : (setPendingLoss p s).latched = s.latched := rfl
@[simp] theorem setPendingLoss_mem : (setPendingLoss p s).mem = s.mem := rfl
@[simp] theorem setPendingLoss_bus : (setPendingLoss p s).bus = s.bus := rfl
@[simp] theorem setPendingLoss_link : (setPendingLoss p s).link = s.link := rfl
@[simp] theorem setPendingLoss_host : (setPendingLoss p s).host = s.host := rfl
@[simp] theorem setPendingLoss_life : (setPendingLoss p s).life = s.life := rfl
@[simp] theorem setPendingLoss_gen : (setPendingLoss p s).gen = s.gen := rfl
@[simp] theorem setPendingLoss_tiles : (setPendingLoss p s).tiles = s.tiles := rfl
@[simp] theorem setPendingLoss_chanq : (setPendingLoss p s).chanq = s.chanq := rfl
@[simp] theorem setPendingLoss_marker : (setPendingLoss p s).marker = s.marker := rfl
@[simp] theorem setPendingLoss_pumps : (setPendingLoss p s).pumps = s.pumps := rfl
@[simp] theorem setPendingLoss_pipes : (setPendingLoss p s).pipes = s.pipes := rfl
@[simp] theorem setPendingLoss_whq : (setPendingLoss p s).whq = s.whq := rfl
@[simp] theorem setPendingLoss_hpipes : (setPendingLoss p s).hpipes = s.hpipes := rfl
@[simp] theorem setPendingLoss_decoders : (setPendingLoss p s).decoders = s.decoders := rfl
@[simp] theorem setPendingLoss_encoders : (setPendingLoss p s).encoders = s.encoders := rfl
@[simp] theorem setPendingLoss_cist : (setPendingLoss p s).cist = s.cist := rfl
@[simp] theorem setPendingLoss_res : (setPendingLoss p s).res = s.res := rfl
@[simp] theorem setPendingLoss_reds : (setPendingLoss p s).reds = s.reds := rfl
@[simp] theorem setPendingLoss_tr : (setPendingLoss p s).tr = s.tr := rfl
@[simp] theorem setPendingLoss_retention : (setPendingLoss p s).retention = s.retention := rfl
@[simp] theorem setPendingLoss_rc : (setPendingLoss p s).rc = s.rc := rfl
@[simp] theorem setPendingLoss_faulty : (setPendingLoss p s).faulty = s.faulty := rfl
@[simp] theorem setPendingLoss_subst : (setPendingLoss p s).subst = s.subst := rfl
@[simp] theorem setPendingLoss_gated : (setPendingLoss p s).gated = s.gated := rfl
@[simp] theorem setPendingLoss_waking : (setPendingLoss p s).waking = s.waking := rfl
@[simp] theorem setPendingLoss_outs : (setPendingLoss p s).outs = s.outs := rfl
@[simp] theorem setPendingLoss_drawn : (setPendingLoss p s).drawn = s.drawn := rfl
@[simp] theorem setPendingLoss_powered : (setPendingLoss p s).powered = s.powered := rfl
@[simp] theorem setPendingLoss_pending : (setPendingLoss p s).pending = s.pending := rfl
@[simp] theorem setPendingLoss_rdAt (page₀ : Nat) (f₀ : Field) (i₀ : Nat) :
    rdAt (setPendingLoss p s) page₀ f₀ i₀ = rdAt s page₀ f₀ i₀ := rfl
@[simp] theorem setPendingLoss_rd (page₀ : Nat) (f₀ : Field) : rd (setPendingLoss p s) page₀ f₀ = rd s page₀ f₀ := rfl

end

/-! ### `modCist` -/

section
variable (s : State) (f : Cist → Cist)

@[simp] theorem modCist_regs : (modCist f s).regs = s.regs := rfl
@[simp] theorem modCist_latched : (modCist f s).latched = s.latched := rfl
@[simp] theorem modCist_mem : (modCist f s).mem = s.mem := rfl
@[simp] theorem modCist_bus : (modCist f s).bus = s.bus := rfl
@[simp] theorem modCist_link : (modCist f s).link = s.link := rfl
@[simp] theorem modCist_host : (modCist f s).host = s.host := rfl
@[simp] theorem modCist_life : (modCist f s).life = s.life := rfl
@[simp] theorem modCist_gen : (modCist f s).gen = s.gen := rfl
@[simp] theorem modCist_tiles : (modCist f s).tiles = s.tiles := rfl
@[simp] theorem modCist_chanq : (modCist f s).chanq = s.chanq := rfl
@[simp] theorem modCist_marker : (modCist f s).marker = s.marker := rfl
@[simp] theorem modCist_mon : (modCist f s).mon = s.mon := rfl
@[simp] theorem modCist_pumps : (modCist f s).pumps = s.pumps := rfl
@[simp] theorem modCist_pipes : (modCist f s).pipes = s.pipes := rfl
@[simp] theorem modCist_whq : (modCist f s).whq = s.whq := rfl
@[simp] theorem modCist_hpipes : (modCist f s).hpipes = s.hpipes := rfl
@[simp] theorem modCist_decoders : (modCist f s).decoders = s.decoders := rfl
@[simp] theorem modCist_encoders : (modCist f s).encoders = s.encoders := rfl
@[simp] theorem modCist_res : (modCist f s).res = s.res := rfl
@[simp] theorem modCist_reds : (modCist f s).reds = s.reds := rfl
@[simp] theorem modCist_tr : (modCist f s).tr = s.tr := rfl
@[simp] theorem modCist_retention : (modCist f s).retention = s.retention := rfl
@[simp] theorem modCist_rc : (modCist f s).rc = s.rc := rfl
@[simp] theorem modCist_faulty : (modCist f s).faulty = s.faulty := rfl
@[simp] theorem modCist_subst : (modCist f s).subst = s.subst := rfl
@[simp] theorem modCist_gated : (modCist f s).gated = s.gated := rfl
@[simp] theorem modCist_waking : (modCist f s).waking = s.waking := rfl
@[simp] theorem modCist_outs : (modCist f s).outs = s.outs := rfl
@[simp] theorem modCist_drawn : (modCist f s).drawn = s.drawn := rfl
@[simp] theorem modCist_powered : (modCist f s).powered = s.powered := rfl
@[simp] theorem modCist_pending : (modCist f s).pending = s.pending := rfl
@[simp] theorem modCist_rdAt (page₀ : Nat) (f₀ : Field) (i₀ : Nat) :
    rdAt (modCist f s) page₀ f₀ i₀ = rdAt s page₀ f₀ i₀ := rfl
@[simp] theorem modCist_rd (page₀ : Nat) (f₀ : Field) : rd (modCist f s) page₀ f₀ = rd s page₀ f₀ := rfl
@[simp] theorem modCist_cist : (modCist f s).cist = f s.cist := rfl

end

/-! ### `deliver` -/

section
variable (s : State) (w : Who) (a n code : Nat) (d : List PByte)

@[simp] theorem deliver_regs : (deliver w a n code d s).regs = s.regs := rfl
@[simp] theorem deliver_latched : (deliver w a n code d s).latched = s.latched := rfl
@[simp] theorem deliver_mem : (deliver w a n code d s).mem = s.mem := rfl
@[simp] theorem deliver_link : (deliver w a n code d s).link = s.link := rfl
@[simp] theorem deliver_host : (deliver w a n code d s).host = s.host := rfl
@[simp] theorem deliver_life : (deliver w a n code d s).life = s.life := rfl
@[simp] theorem deliver_gen : (deliver w a n code d s).gen = s.gen := rfl
@[simp] theorem deliver_tiles : (deliver w a n code d s).tiles = s.tiles := rfl
@[simp] theorem deliver_chanq : (deliver w a n code d s).chanq = s.chanq := rfl
@[simp] theorem deliver_marker : (deliver w a n code d s).marker = s.marker := rfl
@[simp] theorem deliver_mon : (deliver w a n code d s).mon = s.mon := rfl
@[simp] theorem deliver_pumps : (deliver w a n code d s).pumps = s.pumps := rfl
@[simp] theorem deliver_pipes : (deliver w a n code d s).pipes = s.pipes := rfl
@[simp] theorem deliver_whq : (deliver w a n code d s).whq = s.whq := rfl
@[simp] theorem deliver_hpipes : (deliver w a n code d s).hpipes = s.hpipes := rfl
@[simp] theorem deliver_decoders : (deliver w a n code d s).decoders = s.decoders := rfl
@[simp] theorem deliver_encoders : (deliver w a n code d s).encoders = s.encoders := rfl
@[simp] theorem deliver_cist : (deliver w a n code d s).cist = s.cist := rfl
@[simp] theorem deliver_res : (deliver w a n code d s).res = s.res := rfl
@[simp] theorem deliver_reds : (deliver w a n code d s).reds = s.reds := rfl
@[simp] theorem deliver_tr : (deliver w a n code d s).tr = s.tr := rfl
@[simp] theorem deliver_retention : (deliver w a n code d s).retention = s.retention := rfl
@[simp] theorem deliver_rc : (deliver w a n code d s).rc = s.rc := rfl
@[simp] theorem deliver_faulty : (deliver w a n code d s).faulty = s.faulty := rfl
@[simp] theorem deliver_subst : (deliver w a n code d s).subst = s.subst := rfl
@[simp] theorem deliver_gated : (deliver w a n code d s).gated = s.gated := rfl
@[simp] theorem deliver_waking : (deliver w a n code d s).waking = s.waking := rfl
@[simp] theorem deliver_outs : (deliver w a n code d s).outs = s.outs := rfl
@[simp] theorem deliver_drawn : (deliver w a n code d s).drawn = s.drawn := rfl
@[simp] theorem deliver_powered : (deliver w a n code d s).powered = s.powered := rfl
@[simp] theorem deliver_pending : (deliver w a n code d s).pending = s.pending := rfl
@[simp] theorem deliver_rdAt (page₀ : Nat) (f₀ : Field) (i₀ : Nat) :
    rdAt (deliver w a n code d s) page₀ f₀ i₀ = rdAt s page₀ f₀ i₀ := rfl
@[simp] theorem deliver_rd (page₀ : Nat) (f₀ : Field) : rd (deliver w a n code d s) page₀ f₀ = rd s page₀ f₀ := rfl

end

/-! ### `modRes` -/

section
variable (s : State) (f : Resil → Resil)

@[simp] theorem modRes_regs : (modRes f s).regs = s.regs := rfl
@[simp] theorem modRes_latched : (modRes f s).latched = s.latched := rfl
@[simp] theorem modRes_mem : (modRes f s).mem = s.mem := rfl
@[simp] theorem modRes_bus : (modRes f s).bus = s.bus := rfl
@[simp] theorem modRes_link : (modRes f s).link = s.link := rfl
@[simp] theorem modRes_host : (modRes f s).host = s.host := rfl
@[simp] theorem modRes_life : (modRes f s).life = s.life := rfl
@[simp] theorem modRes_gen : (modRes f s).gen = s.gen := rfl
@[simp] theorem modRes_tiles : (modRes f s).tiles = s.tiles := rfl
@[simp] theorem modRes_chanq : (modRes f s).chanq = s.chanq := rfl
@[simp] theorem modRes_marker : (modRes f s).marker = s.marker := rfl
@[simp] theorem modRes_mon : (modRes f s).mon = s.mon := rfl
@[simp] theorem modRes_pumps : (modRes f s).pumps = s.pumps := rfl
@[simp] theorem modRes_pipes : (modRes f s).pipes = s.pipes := rfl
@[simp] theorem modRes_whq : (modRes f s).whq = s.whq := rfl
@[simp] theorem modRes_hpipes : (modRes f s).hpipes = s.hpipes := rfl
@[simp] theorem modRes_decoders : (modRes f s).decoders = s.decoders := rfl
@[simp] theorem modRes_encoders : (modRes f s).encoders = s.encoders := rfl
@[simp] theorem modRes_cist : (modRes f s).cist = s.cist := rfl
@[simp] theorem modRes_reds : (modRes f s).reds = s.reds := rfl
@[simp] theorem modRes_tr : (modRes f s).tr = s.tr := rfl
@[simp] theorem modRes_retention : (modRes f s).retention = s.retention := rfl
@[simp] theorem modRes_rc : (modRes f s).rc = s.rc := rfl
@[simp] theorem modRes_faulty : (modRes f s).faulty = s.faulty := rfl
@[simp] theorem modRes_subst : (modRes f s).subst = s.subst := rfl
@[simp] theorem modRes_gated : (modRes f s).gated = s.gated := rfl
@[simp] theorem modRes_waking : (modRes f s).waking = s.waking := rfl
@[simp] theorem modRes_outs : (modRes f s).outs = s.outs := rfl
@[simp] theorem modRes_drawn : (modRes f s).drawn = s.drawn := rfl
@[simp] theorem modRes_powered : (modRes f s).powered = s.powered := rfl
@[simp] theorem modRes_pending : (modRes f s).pending = s.pending := rfl
@[simp] theorem modRes_rdAt (page₀ : Nat) (f₀ : Field) (i₀ : Nat) :
    rdAt (modRes f s) page₀ f₀ i₀ = rdAt s page₀ f₀ i₀ := rfl
@[simp] theorem modRes_rd (page₀ : Nat) (f₀ : Field) : rd (modRes f s) page₀ f₀ = rd s page₀ f₀ := rfl
@[simp] theorem modRes_res : (modRes f s).res = f s.res := rfl

end

/-! ### `protectPages` -/

section
variable (s : State) (on : Bool) (ps : List Nat)

@[simp] theorem protectPages_regs : (protectPages on ps s).regs = s.regs := rfl
@[simp] theorem protectPages_latched : (protectPages on ps s).latched = s.latched := rfl
@[simp] theorem protectPages_bus : (protectPages on ps s).bus = s.bus := rfl
@[simp] theorem protectPages_link : (protectPages on ps s).link = s.link := rfl
@[simp] theorem protectPages_host : (protectPages on ps s).host = s.host := rfl
@[simp] theorem protectPages_life : (protectPages on ps s).life = s.life := rfl
@[simp] theorem protectPages_gen : (protectPages on ps s).gen = s.gen := rfl
@[simp] theorem protectPages_tiles : (protectPages on ps s).tiles = s.tiles := rfl
@[simp] theorem protectPages_chanq : (protectPages on ps s).chanq = s.chanq := rfl
@[simp] theorem protectPages_marker : (protectPages on ps s).marker = s.marker := rfl
@[simp] theorem protectPages_mon : (protectPages on ps s).mon = s.mon := rfl
@[simp] theorem protectPages_pumps : (protectPages on ps s).pumps = s.pumps := rfl
@[simp] theorem protectPages_pipes : (protectPages on ps s).pipes = s.pipes := rfl
@[simp] theorem protectPages_whq : (protectPages on ps s).whq = s.whq := rfl
@[simp] theorem protectPages_hpipes : (protectPages on ps s).hpipes = s.hpipes := rfl
@[simp] theorem protectPages_decoders : (protectPages on ps s).decoders = s.decoders := rfl
@[simp] theorem protectPages_encoders : (protectPages on ps s).encoders = s.encoders := rfl
@[simp] theorem protectPages_cist : (protectPages on ps s).cist = s.cist := rfl
@[simp] theorem protectPages_res : (protectPages on ps s).res = s.res := rfl
@[simp] theorem protectPages_reds : (protectPages on ps s).reds = s.reds := rfl
@[simp] theorem protectPages_tr : (protectPages on ps s).tr = s.tr := rfl
@[simp] theorem protectPages_retention : (protectPages on ps s).retention = s.retention := rfl
@[simp] theorem protectPages_rc : (protectPages on ps s).rc = s.rc := rfl
@[simp] theorem protectPages_faulty : (protectPages on ps s).faulty = s.faulty := rfl
@[simp] theorem protectPages_subst : (protectPages on ps s).subst = s.subst := rfl
@[simp] theorem protectPages_gated : (protectPages on ps s).gated = s.gated := rfl
@[simp] theorem protectPages_waking : (protectPages on ps s).waking = s.waking := rfl
@[simp] theorem protectPages_outs : (protectPages on ps s).outs = s.outs := rfl
@[simp] theorem protectPages_drawn : (protectPages on ps s).drawn = s.drawn := rfl
@[simp] theorem protectPages_powered : (protectPages on ps s).powered = s.powered := rfl
@[simp] theorem protectPages_pending : (protectPages on ps s).pending = s.pending := rfl
@[simp] theorem protectPages_mem_cells : (protectPages on ps s).mem.cells = s.mem.cells := rfl
@[simp] theorem protectPages_mem_wellValid : (protectPages on ps s).mem.wellValid = s.mem.wellValid := rfl
@[simp] theorem protectPages_mem_pageValid : (protectPages on ps s).mem.pageValid = s.mem.pageValid := rfl
@[simp] theorem protectPages_mem_poison : (protectPages on ps s).mem.poison = s.mem.poison := rfl
@[simp] theorem protectPages_mem_flips : (protectPages on ps s).mem.flips = s.mem.flips := rfl
@[simp] theorem protectPages_mem_scrubNext : (protectPages on ps s).mem.scrubNext = s.mem.scrubNext := rfl
@[simp] theorem protectPages_mem_wellScrubNext : (protectPages on ps s).mem.wellScrubNext = s.mem.wellScrubNext := rfl
@[simp] theorem protectPages_mem_migrateK : (protectPages on ps s).mem.migrateK = s.mem.migrateK := rfl
@[simp] theorem protectPages_mem_ceSince : (protectPages on ps s).mem.ceSince = s.mem.ceSince := rfl
@[simp] theorem protectPages_rdAt (page₀ : Nat) (f₀ : Field) (i₀ : Nat) :
    rdAt (protectPages on ps s) page₀ f₀ i₀ = rdAt s page₀ f₀ i₀ := rfl
@[simp] theorem protectPages_rd (page₀ : Nat) (f₀ : Field) : rd (protectPages on ps s) page₀ f₀ = rd s page₀ f₀ := rfl

end

/-! ### `modLife` -/

section
variable (s : State) (f : LifeLog → LifeLog)

@[simp] theorem modLife_regs : (modLife f s).regs = s.regs := rfl
@[simp] theorem modLife_latched : (modLife f s).latched = s.latched := rfl
@[simp] theorem modLife_mem : (modLife f s).mem = s.mem := rfl
@[simp] theorem modLife_bus : (modLife f s).bus = s.bus := rfl
@[simp] theorem modLife_link : (modLife f s).link = s.link := rfl
@[simp] theorem modLife_host : (modLife f s).host = s.host := rfl
@[simp] theorem modLife_gen : (modLife f s).gen = s.gen := rfl
@[simp] theorem modLife_tiles : (modLife f s).tiles = s.tiles := rfl
@[simp] theorem modLife_chanq : (modLife f s).chanq = s.chanq := rfl
@[simp] theorem modLife_marker : (modLife f s).marker = s.marker := rfl
@[simp] theorem modLife_mon : (modLife f s).mon = s.mon := rfl
@[simp] theorem modLife_pumps : (modLife f s).pumps = s.pumps := rfl
@[simp] theorem modLife_pipes : (modLife f s).pipes = s.pipes := rfl
@[simp] theorem modLife_whq : (modLife f s).whq = s.whq := rfl
@[simp] theorem modLife_hpipes : (modLife f s).hpipes = s.hpipes := rfl
@[simp] theorem modLife_decoders : (modLife f s).decoders = s.decoders := rfl
@[simp] theorem modLife_encoders : (modLife f s).encoders = s.encoders := rfl
@[simp] theorem modLife_cist : (modLife f s).cist = s.cist := rfl
@[simp] theorem modLife_res : (modLife f s).res = s.res := rfl
@[simp] theorem modLife_reds : (modLife f s).reds = s.reds := rfl
@[simp] theorem modLife_tr : (modLife f s).tr = s.tr := rfl
@[simp] theorem modLife_retention : (modLife f s).retention = s.retention := rfl
@[simp] theorem modLife_rc : (modLife f s).rc = s.rc := rfl
@[simp] theorem modLife_faulty : (modLife f s).faulty = s.faulty := rfl
@[simp] theorem modLife_subst : (modLife f s).subst = s.subst := rfl
@[simp] theorem modLife_gated : (modLife f s).gated = s.gated := rfl
@[simp] theorem modLife_waking : (modLife f s).waking = s.waking := rfl
@[simp] theorem modLife_outs : (modLife f s).outs = s.outs := rfl
@[simp] theorem modLife_drawn : (modLife f s).drawn = s.drawn := rfl
@[simp] theorem modLife_powered : (modLife f s).powered = s.powered := rfl
@[simp] theorem modLife_pending : (modLife f s).pending = s.pending := rfl
@[simp] theorem modLife_rdAt (page₀ : Nat) (f₀ : Field) (i₀ : Nat) :
    rdAt (modLife f s) page₀ f₀ i₀ = rdAt s page₀ f₀ i₀ := rfl
@[simp] theorem modLife_rd (page₀ : Nat) (f₀ : Field) : rd (modLife f s) page₀ f₀ = rd s page₀ f₀ := rfl
@[simp] theorem modLife_life : (modLife f s).life = f s.life := rfl

end

/-! ### `modTrust` -/

section
variable (s : State) (f : Trust → Trust)

@[simp] theorem modTrust_regs : (modTrust f s).regs = s.regs := rfl
@[simp] theorem modTrust_latched : (modTrust f s).latched = s.latched := rfl
@[simp] theorem modTrust_mem : (modTrust f s).mem = s.mem := rfl
@[simp] theorem modTrust_bus : (modTrust f s).bus = s.bus := rfl
@[simp] theorem modTrust_link : (modTrust f s).link = s.link := rfl
@[simp] theorem modTrust_host : (modTrust f s).host = s.host := rfl
@[simp] theorem modTrust_life : (modTrust f s).life = s.life := rfl
@[simp] theorem modTrust_gen : (modTrust f s).gen = s.gen := rfl
@[simp] theorem modTrust_tiles : (modTrust f s).tiles = s.tiles := rfl
@[simp] theorem modTrust_chanq : (modTrust f s).chanq = s.chanq := rfl
@[simp] theorem modTrust_marker : (modTrust f s).marker = s.marker := rfl
@[simp] theorem modTrust_mon : (modTrust f s).mon = s.mon := rfl
@[simp] theorem modTrust_pumps : (modTrust f s).pumps = s.pumps := rfl
@[simp] theorem modTrust_pipes : (modTrust f s).pipes = s.pipes := rfl
@[simp] theorem modTrust_whq : (modTrust f s).whq = s.whq := rfl
@[simp] theorem modTrust_hpipes : (modTrust f s).hpipes = s.hpipes := rfl
@[simp] theorem modTrust_decoders : (modTrust f s).decoders = s.decoders := rfl
@[simp] theorem modTrust_encoders : (modTrust f s).encoders = s.encoders := rfl
@[simp] theorem modTrust_cist : (modTrust f s).cist = s.cist := rfl
@[simp] theorem modTrust_res : (modTrust f s).res = s.res := rfl
@[simp] theorem modTrust_reds : (modTrust f s).reds = s.reds := rfl
@[simp] theorem modTrust_retention : (modTrust f s).retention = s.retention := rfl
@[simp] theorem modTrust_rc : (modTrust f s).rc = s.rc := rfl
@[simp] theorem modTrust_faulty : (modTrust f s).faulty = s.faulty := rfl
@[simp] theorem modTrust_subst : (modTrust f s).subst = s.subst := rfl
@[simp] theorem modTrust_gated : (modTrust f s).gated = s.gated := rfl
@[simp] theorem modTrust_waking : (modTrust f s).waking = s.waking := rfl
@[simp] theorem modTrust_outs : (modTrust f s).outs = s.outs := rfl
@[simp] theorem modTrust_drawn : (modTrust f s).drawn = s.drawn := rfl
@[simp] theorem modTrust_powered : (modTrust f s).powered = s.powered := rfl
@[simp] theorem modTrust_pending : (modTrust f s).pending = s.pending := rfl
@[simp] theorem modTrust_rdAt (page₀ : Nat) (f₀ : Field) (i₀ : Nat) :
    rdAt (modTrust f s) page₀ f₀ i₀ = rdAt s page₀ f₀ i₀ := rfl
@[simp] theorem modTrust_rd (page₀ : Nat) (f₀ : Field) : rd (modTrust f s) page₀ f₀ = rd s page₀ f₀ := rfl
@[simp] theorem modTrust_tr : (modTrust f s).tr = f s.tr := rfl

end

/-! ### `spdmSend` -/

section
variable (s : State) (kind : Nat) (data : List Byte)

@[simp] theorem spdmSend_regs : (spdmSend kind data s).regs = s.regs := rfl
@[simp] theorem spdmSend_latched : (spdmSend kind data s).latched = s.latched := rfl
@[simp] theorem spdmSend_mem : (spdmSend kind data s).mem = s.mem := rfl
@[simp] theorem spdmSend_bus : (spdmSend kind data s).bus = s.bus := rfl
@[simp] theorem spdmSend_link : (spdmSend kind data s).link = s.link := rfl
@[simp] theorem spdmSend_host : (spdmSend kind data s).host = s.host := rfl
@[simp] theorem spdmSend_life : (spdmSend kind data s).life = s.life := rfl
@[simp] theorem spdmSend_gen : (spdmSend kind data s).gen = s.gen := rfl
@[simp] theorem spdmSend_tiles : (spdmSend kind data s).tiles = s.tiles := rfl
@[simp] theorem spdmSend_chanq : (spdmSend kind data s).chanq = s.chanq := rfl
@[simp] theorem spdmSend_marker : (spdmSend kind data s).marker = s.marker := rfl
@[simp] theorem spdmSend_mon : (spdmSend kind data s).mon = s.mon := rfl
@[simp] theorem spdmSend_pumps : (spdmSend kind data s).pumps = s.pumps := rfl
@[simp] theorem spdmSend_pipes : (spdmSend kind data s).pipes = s.pipes := rfl
@[simp] theorem spdmSend_whq : (spdmSend kind data s).whq = s.whq := rfl
@[simp] theorem spdmSend_hpipes : (spdmSend kind data s).hpipes = s.hpipes := rfl
@[simp] theorem spdmSend_decoders : (spdmSend kind data s).decoders = s.decoders := rfl
@[simp] theorem spdmSend_encoders : (spdmSend kind data s).encoders = s.encoders := rfl
@[simp] theorem spdmSend_cist : (spdmSend kind data s).cist = s.cist := rfl
@[simp] theorem spdmSend_res : (spdmSend kind data s).res = s.res := rfl
@[simp] theorem spdmSend_reds : (spdmSend kind data s).reds = s.reds := rfl
@[simp] theorem spdmSend_tr : (spdmSend kind data s).tr = s.tr := rfl
@[simp] theorem spdmSend_retention : (spdmSend kind data s).retention = s.retention := rfl
@[simp] theorem spdmSend_rc : (spdmSend kind data s).rc = s.rc := rfl
@[simp] theorem spdmSend_faulty : (spdmSend kind data s).faulty = s.faulty := rfl
@[simp] theorem spdmSend_subst : (spdmSend kind data s).subst = s.subst := rfl
@[simp] theorem spdmSend_gated : (spdmSend kind data s).gated = s.gated := rfl
@[simp] theorem spdmSend_waking : (spdmSend kind data s).waking = s.waking := rfl
@[simp] theorem spdmSend_drawn : (spdmSend kind data s).drawn = s.drawn := rfl
@[simp] theorem spdmSend_powered : (spdmSend kind data s).powered = s.powered := rfl
@[simp] theorem spdmSend_pending : (spdmSend kind data s).pending = s.pending := rfl
@[simp] theorem spdmSend_rdAt (page₀ : Nat) (f₀ : Field) (i₀ : Nat) :
    rdAt (spdmSend kind data s) page₀ f₀ i₀ = rdAt s page₀ f₀ i₀ := rfl
@[simp] theorem spdmSend_rd (page₀ : Nat) (f₀ : Field) : rd (spdmSend kind data s) page₀ f₀ = rd s page₀ f₀ := rfl
@[simp] theorem spdmSend_outs : (spdmSend kind data s).outs = s.outs ++ [.spdm kind data] := rfl

end

/-! ### `setEntry` -/

section
variable (s : State) (r : Nat) (e : RingEntry)

@[simp] theorem setEntry_regs : (setEntry r e s).regs = s.regs := rfl
@[simp] theorem setEntry_latched : (setEntry r e s).latched = s.latched := rfl
@[simp] theorem setEntry_mem : (setEntry r e s).mem = s.mem := rfl
@[simp] theorem setEntry_bus : (setEntry r e s).bus = s.bus := rfl
@[simp] theorem setEntry_link : (setEntry r e s).link = s.link := rfl
@[simp] theorem setEntry_life : (setEntry r e s).life = s.life := rfl
@[simp] theorem setEntry_gen : (setEntry r e s).gen = s.gen := rfl
@[simp] theorem setEntry_tiles : (setEntry r e s).tiles = s.tiles := rfl
@[simp] theorem setEntry_chanq : (setEntry r e s).chanq = s.chanq := rfl
@[simp] theorem setEntry_marker : (setEntry r e s).marker = s.marker := rfl
@[simp] theorem setEntry_mon : (setEntry r e s).mon = s.mon := rfl
@[simp] theorem setEntry_pumps : (setEntry r e s).pumps = s.pumps := rfl
@[simp] theorem setEntry_pipes : (setEntry r e s).pipes = s.pipes := rfl
@[simp] theorem setEntry_whq : (setEntry r e s).whq = s.whq := rfl
@[simp] theorem setEntry_hpipes : (setEntry r e s).hpipes = s.hpipes := rfl
@[simp] theorem setEntry_decoders : (setEntry r e s).decoders = s.decoders := rfl
@[simp] theorem setEntry_encoders : (setEntry r e s).encoders = s.encoders := rfl
@[simp] theorem setEntry_cist : (setEntry r e s).cist = s.cist := rfl
@[simp] theorem setEntry_res : (setEntry r e s).res = s.res := rfl
@[simp] theorem setEntry_reds : (setEntry r e s).reds = s.reds := rfl
@[simp] theorem setEntry_tr : (setEntry r e s).tr = s.tr := rfl
@[simp] theorem setEntry_retention : (setEntry r e s).retention = s.retention := rfl
@[simp] theorem setEntry_rc : (setEntry r e s).rc = s.rc := rfl
@[simp] theorem setEntry_faulty : (setEntry r e s).faulty = s.faulty := rfl
@[simp] theorem setEntry_subst : (setEntry r e s).subst = s.subst := rfl
@[simp] theorem setEntry_gated : (setEntry r e s).gated = s.gated := rfl
@[simp] theorem setEntry_waking : (setEntry r e s).waking = s.waking := rfl
@[simp] theorem setEntry_outs : (setEntry r e s).outs = s.outs := rfl
@[simp] theorem setEntry_drawn : (setEntry r e s).drawn = s.drawn := rfl
@[simp] theorem setEntry_powered : (setEntry r e s).powered = s.powered := rfl
@[simp] theorem setEntry_pending : (setEntry r e s).pending = s.pending := rfl
@[simp] theorem setEntry_rdAt (page₀ : Nat) (f₀ : Field) (i₀ : Nat) :
    rdAt (setEntry r e s) page₀ f₀ i₀ = rdAt s page₀ f₀ i₀ := rfl
@[simp] theorem setEntry_rd (page₀ : Nat) (f₀ : Field) : rd (setEntry r e s) page₀ f₀ = rd s page₀ f₀ := rfl

end

/-! ### `modRc` -/

section
variable (s : State) (f : Rc → Rc)

@[simp] theorem modRc_regs : (modRc f s).regs = s.regs := rfl
@[simp] theorem modRc_latched : (modRc f s).latched = s.latched := rfl
@[simp] theorem modRc_mem : (modRc f s).mem = s.mem := rfl
@[simp] theorem modRc_bus : (modRc f s).bus = s.bus := rfl
@[simp] theorem modRc_link : (modRc f s).link = s.link := rfl
@[simp] theorem modRc_host : (modRc f s).host = s.host := rfl
@[simp] theorem modRc_life : (modRc f s).life = s.life := rfl
@[simp] theorem modRc_gen : (modRc f s).gen = s.gen := rfl
@[simp] theorem modRc_tiles : (modRc f s).tiles = s.tiles := rfl
@[simp] theorem modRc_chanq : (modRc f s).chanq = s.chanq := rfl
@[simp] theorem modRc_marker : (modRc f s).marker = s.marker := rfl
@[simp] theorem modRc_mon : (modRc f s).mon = s.mon := rfl
@[simp] theorem modRc_pumps : (modRc f s).pumps = s.pumps := rfl
@[simp] theorem modRc_pipes : (modRc f s).pipes = s.pipes := rfl
@[simp] theorem modRc_whq : (modRc f s).whq = s.whq := rfl
@[simp] theorem modRc_hpipes : (modRc f s).hpipes = s.hpipes := rfl
@[simp] theorem modRc_decoders : (modRc f s).decoders = s.decoders := rfl
@[simp] theorem modRc_encoders : (modRc f s).encoders = s.encoders := rfl
@[simp] theorem modRc_cist : (modRc f s).cist = s.cist := rfl
@[simp] theorem modRc_res : (modRc f s).res = s.res := rfl
@[simp] theorem modRc_reds : (modRc f s).reds = s.reds := rfl
@[simp] theorem modRc_tr : (modRc f s).tr = s.tr := rfl
@[simp] theorem modRc_retention : (modRc f s).retention = s.retention := rfl
@[simp] theorem modRc_faulty : (modRc f s).faulty = s.faulty := rfl
@[simp] theorem modRc_subst : (modRc f s).subst = s.subst := rfl
@[simp] theorem modRc_gated : (modRc f s).gated = s.gated := rfl
@[simp] theorem modRc_waking : (modRc f s).waking = s.waking := rfl
@[simp] theorem modRc_outs : (modRc f s).outs = s.outs := rfl
@[simp] theorem modRc_drawn : (modRc f s).drawn = s.drawn := rfl
@[simp] theorem modRc_powered : (modRc f s).powered = s.powered := rfl
@[simp] theorem modRc_pending : (modRc f s).pending = s.pending := rfl
@[simp] theorem modRc_rdAt (page₀ : Nat) (f₀ : Field) (i₀ : Nat) :
    rdAt (modRc f s) page₀ f₀ i₀ = rdAt s page₀ f₀ i₀ := rfl
@[simp] theorem modRc_rd (page₀ : Nat) (f₀ : Field) : rd (modRc f s) page₀ f₀ = rd s page₀ f₀ := rfl
@[simp] theorem modRc_rc : (modRc f s).rc = f s.rc := rfl

end

end Sys2Proof.Machine
end

