-- ==== Sys2Proof/Laws/Events.lean ====
section
/-! SUPPORT. Events and the error log: what raising a bit and recording a code leave in every other register field. -/

namespace Sys2Proof.Machine

/-- The key `k` is none of the event ring's fields that an event moves (R878). -/
def OffRing (k : Nat) : Prop :=
  k ≠ Reg.HI_EQ_TAIL.key pgHost 0 ∧ k ≠ Reg.HI_EQ_DROPS.key pgHost 0 ∧ k ≠ Reg.HI_STATUS_EQ_OVERFLOW.key pgHost 0

/-- The key `k` is none of the fields that an event of `page` moves. -/
def OffEvent (page k : Nat) : Prop := k ≠ Reg.PAGE_INT_STATUS.key page 0 ∧ OffRing k

@[simp] theorem signalVector_rdAt (v : Nat) (s : State) (page : Nat) (f : Field) (i : Nat) :
    rdAt (signalVector v s) page f i = rdAt s page f i := by
  unfold signalVector
  dsimp only
  split
  · rfl
  · rfl

theorem eventRecord_rdAt (page : Nat) (s : State) {page' : Nat} {f : Field} {i : Nat} (h : OffRing (f.key page' i)) :
    rdAt (eventRecord page s) page' f i = rdAt s page' f i := by
  obtain ⟨h1, h2, h3⟩ := h
  unfold eventRecord
  dsimp only
  split
  · rfl
  · split
    · rw [wr, rdAt_wrAt_other _ _ h3, bump, addAt, rdAt_wrAt_other _ _ h2]
    · rw [wr, rdAt_wrAt_other _ _ h1]
      rfl

theorem deliverEvent_rdAt (page : Nat) (s : State) {page' : Nat} {f : Field} {i : Nat} (h : OffRing (f.key page' i)) :
    rdAt (deliverEvent page s) page' f i = rdAt s page' f i := by
  unfold deliverEvent
  dsimp only
  rw [signalVector_rdAt]
  split
  · exact eventRecord_rdAt page s h
  · rfl

/-- Raising a bit leaves every field that an event does not move. -/
theorem raiseBit_rdAt (page b : Nat) (s : State) {page' : Nat} {f : Field} {i : Nat} (h : OffEvent page (f.key page' i)) :
    rdAt (raiseBit page b s) page' f i = rdAt s page' f i := by
  unfold raiseBit
  dsimp only
  split
  · rfl
  · split
    · rw [deliverEvent_rdAt page _ h.2, wr, rdAt_wrAt_other _ _ h.1]
    · rw [wr, rdAt_wrAt_other _ _ h.1]

theorem raiseBit_rd (page b : Nat) (s : State) {page' : Nat} {f : Field} (h : OffEvent page (f.key page' 0)) :
    rd (raiseBit page b s) page' f = rd s page' f := raiseBit_rdAt page b s h

/-- Recording a code leaves every field but the log, its count and what an event moves (R891). -/
theorem logErr_rdAt (page code tag : Nat) (s : State) {page' : Nat} {f : Field} {i : Nat} (h : OffEvent page (f.key page' i))
    (h1 : f.key page' i ≠ Reg.PAGE_ERR_COUNT.key page 0) (h2 : ∀ k, k < 4 → f.key page' i ≠ Reg.PAGE_ERR_LOG.key page k) :
    rdAt (logErr page code tag s) page' f i = rdAt s page' f i := by
  unfold logErr
  dsimp only
  rw [raiseBit_rdAt page 0 _ h, rdAt_wrAt_other _ _ (h2 _ (Nat.mod_lt _ (by omega))), bump, addAt, rdAt_wrAt_other _ _ h1]

end Sys2Proof.Machine
end

