-- ==== Sys2Proof/Laws/Keeps.lean ====
section
/-! SUPPORT. What an operation can do to the state, said once: `Keeps M s t` lets `t` differ from `s` only in the parts
of the mask `M`, and says that the canonical form is kept, that nothing sent is taken back, that the queue stands, that no
free value is drawn twice and that the board's strap is fixed. Every operation of the model has a lemma of this form
beside this file. -/

namespace Sys2Proof.Machine

/-- The parts of mask `a` are parts of mask `M`. -/
structure Sub (a M : Nat) : Prop where
  parts : ∀ i, a.testBit i = true → M.testBit i = true

theorem Sub.le {a b M : Nat} (h : Sub b M) (hab : a ||| b = b) : Sub a M := by
  refine ⟨fun i hi => h.parts i ?_⟩
  rw [← hab, Nat.testBit_or, hi, Bool.true_or]

theorem Sub.rfl {a : Nat} : Sub a a := ⟨fun _ h => h⟩

theorem Sub.one' {a i M : Nat} (h : Sub a M) (hi : a.testBit i = true) : M.testBit i = true := h.parts i hi

theorem Sub.one {i M : Nat} (h : Sub (2 ^ i) M) : M.testBit i = true := h.parts i Nat.testBit_two_pow_self

/-- `t` comes from `s` by operations of the parts in `M`. Bit 2 is memory at all, bit 30 its data. -/
structure Keeps (M : Nat) (s t : State) : Prop where
  regs : M.testBit 0 = true ∨ t.regs = s.regs
  latched : M.testBit 1 = true ∨ t.latched = s.latched
  mem : M.testBit 2 = true ∨ t.mem = s.mem
  bus : M.testBit 3 = true ∨ t.bus = s.bus
  link : M.testBit 4 = true ∨ t.link = s.link
  host : M.testBit 5 = true ∨ t.host = s.host
  life : M.testBit 6 = true ∨ t.life = s.life
  gen : M.testBit 7 = true ∨ t.gen = s.gen
  tiles : M.testBit 8 = true ∨ t.tiles = s.tiles
  chanq : M.testBit 9 = true ∨ t.chanq = s.chanq
  marker : M.testBit 10 = true ∨ t.marker = s.marker
  mon : M.testBit 11 = true ∨ t.mon = s.mon
  pumps : M.testBit 12 = true ∨ t.pumps = s.pumps
  pipes : M.testBit 13 = true ∨ t.pipes = s.pipes
  whq : M.testBit 14 = true ∨ t.whq = s.whq
  hpipes : M.testBit 15 = true ∨ t.hpipes = s.hpipes
  decoders : M.testBit 16 = true ∨ t.decoders = s.decoders
  encoders : M.testBit 17 = true ∨ t.encoders = s.encoders
  cist : M.testBit 18 = true ∨ t.cist = s.cist
  res : M.testBit 19 = true ∨ t.res = s.res
  reds : M.testBit 20 = true ∨ t.reds = s.reds
  tr : M.testBit 21 = true ∨ t.tr = s.tr
  rc : M.testBit 22 = true ∨ t.rc = s.rc
  faulty : M.testBit 23 = true ∨ t.faulty = s.faulty
  subst : M.testBit 24 = true ∨ t.subst = s.subst
  gated : M.testBit 25 = true ∨ t.gated = s.gated
  waking : M.testBit 26 = true ∨ t.waking = s.waking
  outs : M.testBit 27 = true ∨ t.outs = s.outs
  drawn : M.testBit 28 = true ∨ t.drawn = s.drawn
  powered : M.testBit 29 = true ∨ t.powered = s.powered
  retention : M.testBit 31 = true ∨ t.retention = s.retention
  data : M.testBit 30 = true ∨ (t.mem.cells = s.mem.cells ∧ t.mem.wellValid = s.mem.wellValid ∧
    t.mem.pageValid = s.mem.pageValid ∧ t.mem.poison = s.mem.poison ∧ t.mem.flips = s.mem.flips)
  canonical : s.canonical = true → t.canonical = true
  sent : s.outs <+: t.outs
  pending : t.pending = s.pending
  draws : s.drawn ≤ t.drawn
  strap : t.rc.extended = s.rc.extended

/-- Work keeps what its parts allow, whether it gets through or stops. -/
def Holds {α : Type} (M : Nat) (m : Machine.M α) : Prop := ∀ s, Keeps M s (runM m s).2

theorem Keeps.refl {M : Nat} (s : State) : Keeps M s s where
  regs := .inr rfl
  latched := .inr rfl
  mem := .inr rfl
  bus := .inr rfl
  link := .inr rfl
  host := .inr rfl
  life := .inr rfl
  gen := .inr rfl
  tiles := .inr rfl
  chanq := .inr rfl
  marker := .inr rfl
  mon := .inr rfl
  pumps := .inr rfl
  pipes := .inr rfl
  whq := .inr rfl
  hpipes := .inr rfl
  decoders := .inr rfl
  encoders := .inr rfl
  cist := .inr rfl
  res := .inr rfl
  reds := .inr rfl
  tr := .inr rfl
  rc := .inr rfl
  faulty := .inr rfl
  subst := .inr rfl
  gated := .inr rfl
  waking := .inr rfl
  outs := .inr rfl
  drawn := .inr rfl
  powered := .inr rfl
  retention := .inr rfl
  data := .inr ⟨rfl, rfl, rfl, rfl, rfl⟩
  canonical := id
  sent := List.prefix_refl _
  pending := rfl
  draws := Nat.le_refl _
  strap := rfl

theorem or_trans_eq {α : Type} {p : Prop} {a b c : α} (h : p ∨ b = a) (k : p ∨ c = b) : p ∨ c = a :=
  k.elim .inl fun k => h.imp id fun h => k.trans h

theorem Keeps.trans {M : Nat} {s t u : State} (h : Keeps M s t) (k : Keeps M t u) : Keeps M s u where
  regs := or_trans_eq h.regs k.regs
  latched := or_trans_eq h.latched k.latched
  mem := or_trans_eq h.mem k.mem
  bus := or_trans_eq h.bus k.bus
  link := or_trans_eq h.link k.link
  host := or_trans_eq h.host k.host
  life := or_trans_eq h.life k.life
  gen := or_trans_eq h.gen k.gen
  tiles := or_trans_eq h.tiles k.tiles
  chanq := or_trans_eq h.chanq k.chanq
  marker := or_trans_eq h.marker k.marker
  mon := or_trans_eq h.mon k.mon
  pumps := or_trans_eq h.pumps k.pumps
  pipes := or_trans_eq h.pipes k.pipes
  whq := or_trans_eq h.whq k.whq
  hpipes := or_trans_eq h.hpipes k.hpipes
  decoders := or_trans_eq h.decoders k.decoders
  encoders := or_trans_eq h.encoders k.encoders
  cist := or_trans_eq h.cist k.cist
  res := or_trans_eq h.res k.res
  reds := or_trans_eq h.reds k.reds
  tr := or_trans_eq h.tr k.tr
  rc := or_trans_eq h.rc k.rc
  faulty := or_trans_eq h.faulty k.faulty
  subst := or_trans_eq h.subst k.subst
  gated := or_trans_eq h.gated k.gated
  waking := or_trans_eq h.waking k.waking
  outs := or_trans_eq h.outs k.outs
  drawn := or_trans_eq h.drawn k.drawn
  powered := or_trans_eq h.powered k.powered
  retention := or_trans_eq h.retention k.retention
  data := by
    rcases k.data with k | k
    · exact .inl k
    · rcases h.data with h | h
      · exact .inl h
      · exact .inr ⟨k.1.trans h.1, k.2.1.trans h.2.1, k.2.2.1.trans h.2.2.1, k.2.2.2.1.trans h.2.2.2.1,
          k.2.2.2.2.trans h.2.2.2.2⟩
  canonical := fun c => k.canonical (h.canonical c)
  sent := h.sent.trans k.sent
  pending := k.pending.trans h.pending
  draws := Nat.le_trans h.draws k.draws
  strap := k.strap.trans h.strap

theorem Keeps.upd_latched {M : Nat} {s t : State} {v} (hM : Sub 2 M) (h : Keeps M s t) : Keeps M s { t with latched := v } :=
  { h with latched := .inl (hM.one (i := 1)) }

theorem Keeps.upd_bus {M : Nat} {s t : State} {v} (hM : Sub 8 M) (h : Keeps M s t) : Keeps M s { t with bus := v } :=
  { h with bus := .inl (hM.one (i := 3)) }

theorem Keeps.upd_link {M : Nat} {s t : State} {v} (hM : Sub 16 M) (h : Keeps M s t) : Keeps M s { t with link := v } :=
  { h with link := .inl (hM.one (i := 4)) }

theorem Keeps.upd_host {M : Nat} {s t : State} {v} (hM : Sub 32 M) (h : Keeps M s t) : Keeps M s { t with host := v } :=
  { h with host := .inl (hM.one (i := 5)) }

theorem Keeps.upd_life {M : Nat} {s t : State} {v} (hM : Sub 64 M) (h : Keeps M s t) : Keeps M s { t with life := v } :=
  { h with life := .inl (hM.one (i := 6)) }

theorem Keeps.upd_gen {M : Nat} {s t : State} {v} (hM : Sub 128 M) (h : Keeps M s t) : Keeps M s { t with gen := v } :=
  { h with gen := .inl (hM.one (i := 7)) }

theorem Keeps.upd_tiles {M : Nat} {s t : State} {v} (hM : Sub 256 M) (h : Keeps M s t) : Keeps M s { t with tiles := v } :=
  { h with tiles := .inl (hM.one (i := 8)) }

theorem Keeps.upd_chanq {M : Nat} {s t : State} {v} (hM : Sub 512 M) (h : Keeps M s t) : Keeps M s { t with chanq := v } :=
  { h with chanq := .inl (hM.one (i := 9)) }

theorem Keeps.upd_marker {M : Nat} {s t : State} {v} (hM : Sub 1024 M) (h : Keeps M s t) : Keeps M s { t with marker := v } :=
  { h with marker := .inl (hM.one (i := 10)) }

theorem Keeps.upd_mon {M : Nat} {s t : State} {v} (hM : Sub 2048 M) (h : Keeps M s t) : Keeps M s { t with mon := v } :=
  { h with mon := .inl (hM.one (i := 11)) }

theorem Keeps.upd_pumps {M : Nat} {s t : State} {v} (hM : Sub 4096 M) (h : Keeps M s t) : Keeps M s { t with pumps := v } :=
  { h with pumps := .inl (hM.one (i := 12)) }

theorem Keeps.upd_pipes {M : Nat} {s t : State} {v} (hM : Sub 8192 M) (h : Keeps M s t) : Keeps M s { t with pipes := v } :=
  { h with pipes := .inl (hM.one (i := 13)) }

theorem Keeps.upd_whq {M : Nat} {s t : State} {v} (hM : Sub 16384 M) (h : Keeps M s t) : Keeps M s { t with whq := v } :=
  { h with whq := .inl (hM.one (i := 14)) }

theorem Keeps.upd_hpipes {M : Nat} {s t : State} {v} (hM : Sub 32768 M) (h : Keeps M s t) : Keeps M s { t with hpipes := v } :=
  { h with hpipes := .inl (hM.one (i := 15)) }

theorem Keeps.upd_decoders {M : Nat} {s t : State} {v} (hM : Sub 65536 M) (h : Keeps M s t) : Keeps M s { t with decoders := v } :=
  { h with decoders := .inl (hM.one (i := 16)) }

theorem Keeps.upd_encoders {M : Nat} {s t : State} {v} (hM : Sub 131072 M) (h : Keeps M s t) : Keeps M s { t with encoders := v } :=
  { h with encoders := .inl (hM.one (i := 17)) }

theorem Keeps.upd_cist {M : Nat} {s t : State} {v} (hM : Sub 262144 M) (h : Keeps M s t) : Keeps M s { t with cist := v } :=
  { h with cist := .inl (hM.one (i := 18)) }

theorem Keeps.upd_res {M : Nat} {s t : State} {v} (hM : Sub 524288 M) (h : Keeps M s t) : Keeps M s { t with res := v } :=
  { h with res := .inl (hM.one (i := 19)) }

theorem Keeps.upd_reds {M : Nat} {s t : State} {v} (hM : Sub 1048576 M) (h : Keeps M s t) : Keeps M s { t with reds := v } :=
  { h with reds := .inl (hM.one (i := 20)) }

theorem Keeps.upd_tr {M : Nat} {s t : State} {v} (hM : Sub 2097152 M) (h : Keeps M s t) : Keeps M s { t with tr := v } :=
  { h with tr := .inl (hM.one (i := 21)) }

theorem Keeps.upd_faulty {M : Nat} {s t : State} {v} (hM : Sub 8388608 M) (h : Keeps M s t) : Keeps M s { t with faulty := v } :=
  { h with faulty := .inl (hM.one (i := 23)) }

theorem Keeps.upd_subst {M : Nat} {s t : State} {v} (hM : Sub 16777216 M) (h : Keeps M s t) : Keeps M s { t with subst := v } :=
  { h with subst := .inl (hM.one (i := 24)) }

theorem Keeps.upd_gated {M : Nat} {s t : State} {v} (hM : Sub 33554432 M) (h : Keeps M s t) : Keeps M s { t with gated := v } :=
  { h with gated := .inl (hM.one (i := 25)) }

theorem Keeps.upd_waking {M : Nat} {s t : State} {v} (hM : Sub 67108864 M) (h : Keeps M s t) : Keeps M s { t with waking := v } :=
  { h with waking := .inl (hM.one (i := 26)) }

theorem Keeps.upd_powered {M : Nat} {s t : State} {v} (hM : Sub 536870912 M) (h : Keeps M s t) : Keeps M s { t with powered := v } :=
  { h with powered := .inl (hM.one (i := 29)) }

theorem Keeps.upd_rc {M : Nat} {s t : State} {v : Rc} (hM : Sub 4194304 M) (hv : v.extended = t.rc.extended) (h : Keeps M s t) :
    Keeps M s { t with rc := v } :=
  { h with rc := .inl (hM.one (i := 22)), strap := hv.trans h.strap }

theorem Keeps.upd_outs {M : Nat} {s t : State} {v} (hM : Sub 134217728 M) (h : Keeps M s t) :
    Keeps M s { t with outs := t.outs ++ v } :=
  { h with outs := .inl (hM.one (i := 27)), sent := h.sent.trans (List.prefix_append _ _) }

theorem Keeps.upd_drawn {M : Nat} {s t : State} {n : Nat} (hM : Sub 268435456 M) (h : Keeps M s t) :
    Keeps M s { t with drawn := t.drawn + n } :=
  { h with drawn := .inl (hM.one (i := 28)), draws := Nat.le_trans h.draws (Nat.le_add_right _ _) }

theorem Keeps.upd_scrubNext {M : Nat} {s t : State} {v} (hM : Sub 4 M) (h : Keeps M s t) :
    Keeps M s { t with mem := { t.mem with scrubNext := v } } :=
  { h with mem := .inl (hM.one (i := 2)) }

theorem Keeps.upd_wellScrubNext {M : Nat} {s t : State} {v} (hM : Sub 4 M) (h : Keeps M s t) :
    Keeps M s { t with mem := { t.mem with wellScrubNext := v } } :=
  { h with mem := .inl (hM.one (i := 2)) }

theorem Keeps.upd_migrateK {M : Nat} {s t : State} {v} (hM : Sub 4 M) (h : Keeps M s t) :
    Keeps M s { t with mem := { t.mem with migrateK := v } } :=
  { h with mem := .inl (hM.one (i := 2)) }

theorem Keeps.upd_ceSince {M : Nat} {s t : State} {v} (hM : Sub 4 M) (h : Keeps M s t) :
    Keeps M s { t with mem := { t.mem with ceSince := v } } :=
  { h with mem := .inl (hM.one (i := 2)) }

theorem Keeps.upd_wprot {M : Nat} {s t : State} {v} (hM : Sub 4 M) (h : Keeps M s t) :
    Keeps M s { t with mem := { t.mem with wprot := v } } :=
  { h with mem := .inl (hM.one (i := 2)) }

/-- The parts of the canonical form. -/
theorem canonical_iff (s : State) : s.canonical = true ↔
    sparseWf 0 s.mem.cells = true ∧ sparseWf false s.mem.wellValid = true ∧ sparseWf false s.mem.pageValid = true ∧
      sparseWf false s.mem.poison = true ∧ sparseWf 0 s.mem.flips = true ∧ risingFrom none s.regs = true ∧
      sparseWf 0 s.retention = true := by
  simp [State.canonical, Mem.wf, State.regsWf, and_assoc]

/-- Register fields may change where the new list still rises. -/
theorem Keeps.upd_regs {M : Nat} {s t : State} {v : List (Nat × Nat)} (hM : Sub 1 M)
    (hv : risingFrom none t.regs = true → risingFrom none v = true) (h : Keeps M s t) : Keeps M s { t with regs := v } :=
  { h with
    regs := .inl (hM.one (i := 0))
    canonical := fun c => by
      have k := (canonical_iff t).mp (h.canonical c)
      exact (canonical_iff _).mpr ⟨k.1, k.2.1, k.2.2.1, k.2.2.2.1, k.2.2.2.2.1, hv k.2.2.2.2.2.1, k.2.2.2.2.2.2⟩ }

/-- A byte of the retention SRAM may change. -/
theorem Keeps.upd_retention {M : Nat} {s t : State} {a : Nat} {b : Byte} (hM : Sub 2147483648 M) (h : Keeps M s t) :
    Keeps M s { t with retention := put 0 t.retention a b } :=
  { h with
    retention := .inl (hM.one' (by decide))
    canonical := fun c => by
      have k := (canonical_iff t).mp (h.canonical c)
      exact (canonical_iff _).mpr ⟨k.1, k.2.1, k.2.2.1, k.2.2.2.1, k.2.2.2.2.1, k.2.2.2.2.2.1,
        sparseWf_put _ _ _ k.2.2.2.2.2.2⟩ }

/-- Memory may change where each of its lists keeps its canonical form. -/
theorem Keeps.upd_mem {M : Nat} {s t : State} {v : Mem} (hM : Sub 1073741828 M)
    (h0 : sparseWf 0 t.mem.cells = true → sparseWf 0 v.cells = true)
    (h1 : sparseWf false t.mem.wellValid = true → sparseWf false v.wellValid = true)
    (h2 : sparseWf false t.mem.pageValid = true → sparseWf false v.pageValid = true)
    (h3 : sparseWf false t.mem.poison = true → sparseWf false v.poison = true)
    (h4 : sparseWf 0 t.mem.flips = true → sparseWf 0 v.flips = true) (h : Keeps M s t) : Keeps M s { t with mem := v } :=
  { h with
    mem := .inl (hM.one' (by decide))
    data := .inl (hM.one' (by decide))
    canonical := fun c => by
      have k := (canonical_iff t).mp (h.canonical c)
      exact (canonical_iff _).mpr ⟨h0 k.1, h1 k.2.1, h2 k.2.2.1, h3 k.2.2.2.1, h4 k.2.2.2.2.1, k.2.2.2.2.2⟩ }

theorem Keeps.put_cells {M : Nat} {s t : State} {a : Nat} {v} (hM : Sub 1073741828 M) (h : Keeps M s t) :
    Keeps M s { t with mem := { t.mem with cells := put 0 t.mem.cells a v } } :=
  h.upd_mem hM (sparseWf_put _ _ _) id id id id

theorem Keeps.put_wellValid {M : Nat} {s t : State} {a : Nat} {v} (hM : Sub 1073741828 M) (h : Keeps M s t) :
    Keeps M s { t with mem := { t.mem with wellValid := put false t.mem.wellValid a v } } :=
  h.upd_mem hM id (sparseWf_put _ _ _) id id id

theorem Keeps.put_pageValid {M : Nat} {s t : State} {a : Nat} {v} (hM : Sub 1073741828 M) (h : Keeps M s t) :
    Keeps M s { t with mem := { t.mem with pageValid := put false t.mem.pageValid a v } } :=
  h.upd_mem hM id id (sparseWf_put _ _ _) id id

theorem Keeps.put_poison {M : Nat} {s t : State} {a : Nat} {v} (hM : Sub 1073741828 M) (h : Keeps M s t) :
    Keeps M s { t with mem := { t.mem with poison := put false t.mem.poison a v } } :=
  h.upd_mem hM id id id (sparseWf_put _ _ _) id

theorem Keeps.put_flips {M : Nat} {s t : State} {a : Nat} {v} (hM : Sub 1073741828 M) (h : Keeps M s t) :
    Keeps M s { t with mem := { t.mem with flips := put 0 t.mem.flips a v } } :=
  h.upd_mem hM id id id id (sparseWf_put _ _ _)

theorem Keeps.upd_host_outs {M : Nat} {s t : State} {v w} (hM : Sub 134217760 M) (h : Keeps M s t) :
    Keeps M s { t with host := v, outs := t.outs ++ w } :=
  { h with host := .inl (hM.one' (i := 5) (by decide)), outs := .inl (hM.one' (i := 27) (by decide)),
           sent := h.sent.trans (List.prefix_append _ _) }

theorem Keeps.upd_gen_mon {M : Nat} {s t : State} {v0 v1} (hM : Sub 2176 M) (h : Keeps M s t) :
    Keeps M s { t with gen := v0, mon := v1 } :=
  { h with gen := .inl (hM.one' (i := 7) (by decide)), mon := .inl (hM.one' (i := 11) (by decide)) }

theorem Keeps.upd_bus_chanq {M : Nat} {s t : State} {v0 v1} (hM : Sub 520 M) (h : Keeps M s t) :
    Keeps M s { t with bus := v0, chanq := v1 } :=
  { h with bus := .inl (hM.one' (i := 3) (by decide)), chanq := .inl (hM.one' (i := 9) (by decide)) }

theorem Keeps.upd_gated_waking {M : Nat} {s t : State} {v0 v1} (hM : Sub 100663296 M) (h : Keeps M s t) :
    Keeps M s { t with gated := v0, waking := v1 } :=
  { h with gated := .inl (hM.one' (i := 25) (by decide)), waking := .inl (hM.one' (i := 26) (by decide)) }

theorem Keeps.upd_link_bus_chanq {M : Nat} {s t : State} {v0 v1 v2} (hM : Sub 536 M) (h : Keeps M s t) :
    Keeps M s { t with link := v0, bus := v1, chanq := v2 } :=
  { h with link := .inl (hM.one' (i := 4) (by decide)), bus := .inl (hM.one' (i := 3) (by decide)), chanq := .inl (hM.one' (i := 9) (by decide)) }

theorem Keeps.foldl {α : Type} {M : Nat} {s : State} {f : State → α → State} (hf : ∀ t a, Keeps M s t → Keeps M s (f t a)) :
    ∀ {l : List α} {t : State}, Keeps M s t → Keeps M s (l.foldl f t)
  | [], _, h => h
  | a :: l, t, h => Keeps.foldl (l := l) (t := f t a) hf (hf t a h)

/-- The state of a pair. -/
theorem Keeps.of_pair {α : Type} {M : Nat} {s t : State} {a : α} {p : α × State} (e : p = (a, t)) (h : Keeps M s p.2) :
    Keeps M s t := by subst e; exact h

theorem Keeps.of_pair' {α : Type} {M : Nat} {s t : State} {a : α} {p : State × α} (e : p = (t, a)) (h : Keeps M s p.1) :
    Keeps M s t := by subst e; exact h

/-! ### Work -/

section
variable {α β : Type} {M : Nat} {s t : State}

theorem runM_bind (m : Machine.M α) (f : α → Machine.M β) (s : State) :
    runM (m >>= f) s = match runM m s with
      | (.ok a, t) => runM (f a) t
      | (.error e, t) => (.error e, t) := by
  simp only [runM, ExceptT.run, bind, ExceptT.bind, ExceptT.mk, StateT.run, StateT.bind]
  cases h : m s with
  | mk a t => cases a <;> rfl

theorem runM_tryCatch (m : Machine.M α) (f : Stop → Machine.M α) (s : State) :
    runM (tryCatch m f) s = match runM m s with
      | (.ok a, t) => (.ok a, t)
      | (.error e, t) => runM (f e) t := by
  simp only [runM, ExceptT.run, tryCatch, tryCatchThe, MonadExceptOf.tryCatch, ExceptT.tryCatch, ExceptT.mk, StateT.run,
    bind, StateT.bind]
  cases h : m s with
  | mk a t => cases a <;> rfl

/-- Work in two parts. -/
theorem Keeps.m_bind {m : Machine.M α} {f : α → Machine.M β} (h : Keeps M s (runM m t).2)
    (k : ∀ a u, Keeps M s u → Keeps M s (runM (f a) u).2) : Keeps M s (runM (m >>= f) t).2 := by
  rw [runM_bind]
  split
  · next e => exact k _ _ (Keeps.of_pair e h)
  · next e => exact Keeps.of_pair e h

/-- Work that is watched for its stop. -/
theorem Keeps.m_tryCatch {m : Machine.M α} {f : Stop → Machine.M α} (h : Keeps M s (runM m t).2)
    (k : ∀ e u, Keeps M s u → Keeps M s (runM (f e) u).2) : Keeps M s (runM (tryCatch m f) t).2 := by
  rw [runM_tryCatch]
  split
  · next e => exact Keeps.of_pair e h
  · next e => exact k _ _ (Keeps.of_pair e h)

theorem Keeps.m_pure {a : α} (h : Keeps M s t) : Keeps M s (runM (pure a) t).2 := h
theorem Keeps.m_throw {e : Stop} (h : Keeps M s t) : Keeps M s (runM (throw e : Machine.M α) t).2 := h
theorem Keeps.m_failWith {c : Nat} (h : Keeps M s t) : Keeps M s (runM (failWith c : Machine.M α) t).2 := h
theorem Keeps.m_set {u : State} (h : Keeps M s u) : Keeps M s (runM (set u : Machine.M PUnit) t).2 := h
theorem Keeps.m_get (h : Keeps M s t) : Keeps M s (runM (get : Machine.M State) t).2 := h
theorem Keeps.m_modify {f : State → State} (h : Keeps M s (f t)) : Keeps M s (runM (modify f : Machine.M PUnit) t).2 := h
theorem Keeps.m_gets {f : State → α} (h : Keeps M s t) : Keeps M s (runM (gets f) t).2 := h
theorem Keeps.m_get_bind {f : State → Machine.M β} (h : Keeps M s (runM (f t) t).2) :
    Keeps M s (runM ((get : Machine.M State) >>= f) t).2 := h
theorem Keeps.m_pure_bind {a : α} {f : α → Machine.M β} (h : Keeps M s (runM (f a) t).2) :
    Keeps M s (runM ((pure a : Machine.M α) >>= f) t).2 := h
theorem Keeps.m_set_bind {u : State} {f : PUnit → Machine.M β} (h : Keeps M s (runM (f ⟨⟩) u).2) :
    Keeps M s (runM ((set u : Machine.M PUnit) >>= f) t).2 := h
theorem Keeps.m_modify_bind {g : State → State} {f : PUnit → Machine.M β} (h : Keeps M s (runM (f ⟨⟩) (g t)).2) :
    Keeps M s (runM ((modify g : Machine.M PUnit) >>= f) t).2 := h
theorem Keeps.m_throw_bind {e : Stop} {f : α → Machine.M β} (h : Keeps M s t) :
    Keeps M s (runM ((throw e : Machine.M α) >>= f) t).2 := h
theorem Keeps.m_failWith_bind {c : Nat} {f : α → Machine.M β} (h : Keeps M s t) :
    Keeps M s (runM ((failWith c : Machine.M α) >>= f) t).2 := h
theorem Keeps.m_refuseIf {b : Bool} {c : Nat} (h : Keeps M s t) : Keeps M s (runM (refuseIf b c) t).2 := by
  cases b <;> exact h
theorem Keeps.m_onlyIf {b : Bool} {m : Machine.M Unit} (h : Keeps M s t) (k : Keeps M s (runM m t).2) :
    Keeps M s (runM (onlyIf b m) t).2 := by
  cases b
  · exact h
  · exact k
theorem Keeps.m_waitFor {b : Bool} (h : Keeps M s t) : Keeps M s (runM (waitFor b) t).2 := by
  cases b <;> exact h

theorem Keeps.m_ite {c : Prop} [Decidable c] {m n : Machine.M α} (h : Keeps M s (runM m t).2) (k : Keeps M s (runM n t).2) :
    Keeps M s (runM (if c then m else n) t).2 := by
  split
  · exact h
  · exact k

theorem Keeps.ite {c : Prop} [Decidable c] {u : State} (h : Keeps M s t) (k : Keeps M s u) :
    Keeps M s (if c then t else u) := by
  split
  · exact h
  · exact k

end

end Sys2Proof.Machine
end

