-- ==== Sys2Proof/Laws/KeepsShared.lean ====
section
/-! SUPPORT. What each operation on register fields, memories, ports and requests can do to the state, as `Keeps`. -/

namespace Sys2Proof.Machine

/-! ### Machine/Ops.lean -/

theorem keeps_wrAt {m₀ : Nat} {s₀ : State} {page : Nat} {f : Field} {i v : Nat} (hM₀ : Sub 1 m₀) {s : State}
    (h₀ : Keeps m₀ s₀ s) : Keeps m₀ s₀ (wrAt page f i v s) := h₀.upd_regs hM₀ (rising_put _ _ _)

theorem keeps_wr {m₀ : Nat} {s₀ : State} {page : Nat} {f : Field} {v : Nat} (hM₀ : Sub 1 m₀) {s : State}
    (h₀ : Keeps m₀ s₀ s) : Keeps m₀ s₀ (wr page f v s) := by
  unfold wr
  repeat' first
    | with_reducible assumption
    | with_reducible apply keeps_wrAt

theorem keeps_addAt {m₀ : Nat} {s₀ : State} {page : Nat} {f : Field} {i n : Nat} (hM₀ : Sub 1 m₀) {s : State}
    (h₀ : Keeps m₀ s₀ s) : Keeps m₀ s₀ (addAt page f i n s) := by
  unfold addAt
  repeat' first
    | with_reducible assumption
    | with_reducible apply keeps_wrAt

theorem keeps_bump {m₀ : Nat} {s₀ : State} {page : Nat} {f : Field} {n : Nat} (hM₀ : Sub 1 m₀) {s : State}
    (h₀ : Keeps m₀ s₀ s) : Keeps m₀ s₀ (bump page f n s) := by
  unfold bump
  repeat' first
    | with_reducible assumption
    | with_reducible apply keeps_addAt

theorem keeps_signalVector {m₀ : Nat} {s₀ : State} {v : Nat} (hM₀ : Sub 134217760 m₀) {s : State}
    (h₀ : Keeps m₀ s₀ s) : Keeps m₀ s₀ (signalVector v s) := by
  unfold signalVector
  try dsimp only
  repeat' first
    | with_reducible assumption
    | exact hM₀.le (by decide)
    | with_reducible apply Keeps.ite
    | with_reducible apply Keeps.upd_host
    | with_reducible apply Keeps.upd_outs

theorem keeps_eventRecord {m₀ : Nat} {s₀ : State} {page : Nat} (hM₀ : Sub 134217729 m₀) {s : State}
    (h₀ : Keeps m₀ s₀ s) : Keeps m₀ s₀ (eventRecord page s) := by
  unfold eventRecord
  try dsimp only
  repeat' first
    | with_reducible assumption
    | exact hM₀.le (by decide)
    | with_reducible apply keeps_bump
    | with_reducible apply keeps_wr
    | with_reducible apply Keeps.ite
    | with_reducible apply Keeps.upd_outs

theorem keeps_deliverEvent {m₀ : Nat} {s₀ : State} {page : Nat} (hM₀ : Sub 134217761 m₀) {s : State}
    (h₀ : Keeps m₀ s₀ s) : Keeps m₀ s₀ (deliverEvent page s) := by
  unfold deliverEvent
  try dsimp only
  repeat' first
    | with_reducible assumption
    | exact hM₀.le (by decide)
    | with_reducible apply keeps_eventRecord
    | with_reducible apply keeps_signalVector
    | with_reducible apply Keeps.ite

theorem keeps_raiseBit {m₀ : Nat} {s₀ : State} {page b : Nat} (hM₀ : Sub 134217761 m₀) {s : State}
    (h₀ : Keeps m₀ s₀ s) : Keeps m₀ s₀ (raiseBit page b s) := by
  unfold raiseBit
  try dsimp only
  repeat' first
    | with_reducible assumption
    | exact hM₀.le (by decide)
    | with_reducible apply keeps_deliverEvent
    | with_reducible apply keeps_wr
    | with_reducible apply Keeps.ite

theorem keeps_logErr {m₀ : Nat} {s₀ : State} {page code tag : Nat} (hM₀ : Sub 134217761 m₀) {s : State}
    (h₀ : Keeps m₀ s₀ s) : Keeps m₀ s₀ (logErr page code tag s) := by
  unfold logErr
  try dsimp only
  repeat' first
    | with_reducible assumption
    | exact hM₀.le (by decide)
    | with_reducible apply keeps_bump
    | with_reducible apply keeps_raiseBit
    | with_reducible apply keeps_wrAt

theorem keeps_lifeAddTo {m₀ : Nat} {s₀ : State} {bytes off n : Nat} (hM₀ : Sub 64 m₀) {s : State}
    (h₀ : Keeps m₀ s₀ s) : Keeps m₀ s₀ (lifeAddTo bytes off n s) := by
  unfold lifeAddTo
  try dsimp only
  repeat' first
    | with_reducible assumption
    | with_reducible apply Keeps.upd_life

theorem keeps_lifeAdd {m₀ : Nat} {s₀ : State} {off n : Nat} (hM₀ : Sub 64 m₀) {s : State} (h₀ : Keeps m₀ s₀ s) :
    Keeps m₀ s₀ (lifeAdd off n s) := by
  unfold lifeAdd
  repeat' first
    | with_reducible assumption
    | with_reducible apply keeps_lifeAddTo

theorem keeps_lifeSet {m₀ : Nat} {s₀ : State} {off v : Nat} (hM₀ : Sub 64 m₀) {s : State} (h₀ : Keeps m₀ s₀ s) :
    Keeps m₀ s₀ (lifeSet off v s) := by
  unfold lifeSet
  try dsimp only
  repeat' first
    | with_reducible assumption
    | with_reducible apply Keeps.upd_life

theorem keeps_journal {m₀ : Nat} {s₀ : State} {kind code : Nat} {unit data : Nat} (hM₀ : Sub 64 m₀) {s : State}
    (h₀ : Keeps m₀ s₀ s) : Keeps m₀ s₀ (journal kind code unit data s) := by
  unfold journal
  try dsimp only
  repeat' first
    | with_reducible assumption
    | with_reducible apply Keeps.upd_life

theorem keeps_retain {m₀ : Nat} {s₀ : State} {a v : Nat} (hM₀ : Sub 2147483648 m₀) {s : State} (h₀ : Keeps m₀ s₀ s)
    : Keeps m₀ s₀ (retain a v s) := by
  unfold retain
  repeat' first
    | with_reducible assumption
    | with_reducible apply Keeps.ite
    | with_reducible apply Keeps.upd_retention

theorem keeps_plainWrite {m₀ : Nat} {s₀ : State} {page : Nat} {w : FieldWrite} (hM₀ : Sub 1 m₀) {s : State}
    (h₀ : Keeps m₀ s₀ s) : Keeps m₀ s₀ (plainWrite page w s) := by
  unfold plainWrite
  repeat' first
    | with_reducible assumption
    | with_reducible apply keeps_wrAt
    | with_reducible apply Keeps.ite
    | split

/-! ### Machine/Latch.lean -/

theorem keeps_setTile {m₀ : Nat} {s₀ : State} {t : Nat} {x : Tile} (hM₀ : Sub 256 m₀) {s : State}
    (h₀ : Keeps m₀ s₀ s) : Keeps m₀ s₀ (setTile t x s) := by
  unfold setTile
  repeat' first
    | with_reducible assumption
    | with_reducible apply Keeps.upd_tiles

theorem keeps_setChan {m₀ : Nat} {s₀ : State} {t n : Nat} {c : Chan} (hM₀ : Sub 256 m₀) {s : State}
    (h₀ : Keeps m₀ s₀ s) : Keeps m₀ s₀ (setChan t n c s) := by
  unfold setChan
  try dsimp only
  repeat' first
    | with_reducible assumption
    | with_reducible apply keeps_setTile

theorem keeps_sendChan {m₀ : Nat} {s₀ : State} {t ch : Nat} {session toTile toCh : Nat} {b : ChanBody}
    (hM₀ : Sub 520 m₀) {s : State} (h₀ : Keeps m₀ s₀ s) : Keeps m₀ s₀ (sendChan t ch session toTile toCh b s) := by
  unfold sendChan
  try dsimp only
  repeat' first
    | with_reducible assumption
    | with_reducible apply Keeps.upd_bus_chanq

theorem keeps_latchChan {m₀ : Nat} {s₀ : State} {t n : Nat} (hM₀ : Sub 777 m₀) {s : State} (h₀ : Keeps m₀ s₀ s) :
    Keeps m₀ s₀ (latchChan t n s) := by
  unfold latchChan
  try dsimp only
  repeat' first
    | with_reducible assumption
    | exact hM₀.le (by decide)
    | (intro)
    | with_reducible apply keeps_sendChan
    | with_reducible apply keeps_setChan
    | with_reducible apply keeps_wrAt
    | with_reducible apply Keeps.ite
    | with_reducible apply Keeps.foldl

theorem keeps_latchPort {m₀ : Nat} {s₀ : State} {n : Nat} (hM₀ : Sub 1 m₀) {s : State} (h₀ : Keeps m₀ s₀ s) :
    Keeps m₀ s₀ (latchPort n s) := by
  unfold latchPort
  try dsimp only
  repeat' first
    | with_reducible assumption
    | (intro)
    | with_reducible apply keeps_wrAt
    | with_reducible apply Keeps.foldl

theorem keeps_latchCounters {m₀ : Nat} {s₀ : State} {page : Nat} (hM₀ : Sub 2 m₀) {s : State} (h₀ : Keeps m₀ s₀ s) :
    Keeps m₀ s₀ (latchCounters page s) := by
  unfold latchCounters
  repeat' first
    | with_reducible assumption
    | (intro)
    | with_reducible apply Keeps.ite
    | with_reducible apply Keeps.foldl
    | with_reducible apply Keeps.upd_latched

theorem keeps_latchPage {m₀ : Nat} {s₀ : State} {page : Nat} (hM₀ : Sub 1803 m₀) {s : State} (h₀ : Keeps m₀ s₀ s) :
    Keeps m₀ s₀ (latchPage page s) := by
  unfold latchPage
  try dsimp only
  repeat' first
    | with_reducible assumption
    | exact hM₀.le (by decide)
    | (intro)
    | with_reducible apply keeps_bump
    | with_reducible apply keeps_latchChan
    | with_reducible apply keeps_latchCounters
    | with_reducible apply keeps_latchPort
    | with_reducible apply keeps_wr
    | with_reducible apply Keeps.ite
    | with_reducible apply Keeps.foldl
    | split
    | with_reducible apply Keeps.upd_marker

theorem keeps_reach {m₀ : Nat} {s₀ : State} {src dst : Nat} (hM₀ : Sub 1803 m₀) {s : State} (h₀ : Keeps m₀ s₀ s) :
    Keeps m₀ s₀ (reach src dst s) := by
  unfold reach
  repeat' first
    | with_reducible assumption
    | with_reducible apply keeps_latchPage
    | with_reducible apply Keeps.ite

/-! ### Machine/Memory.lean -/

theorem keeps_setCell {m₀ : Nat} {s₀ : State} {a : Nat} {b : Byte} (hM₀ : Sub 1073741828 m₀) {s : State}
    (h₀ : Keeps m₀ s₀ s) : Keeps m₀ s₀ (setCell a b s) := by
  unfold setCell
  try dsimp only
  repeat' first
    | with_reducible assumption
    | with_reducible apply Keeps.put_cells

theorem setCells_nil (a : Nat) (s : State) : setCells a [] s = s := rfl
theorem setCells_cons (a : Nat) (b : Byte) (bs : List Byte) (s : State) :
    setCells a (b :: bs) s = setCells (a + 1) bs (setCell a b s) := rfl

theorem keeps_setCells {m₀ : Nat} {s₀ : State} {a : Nat} (hM₀ : Sub 1073741828 m₀) :
    ∀ (x0 : List Byte) (x1 : State), Keeps m₀ s₀ x1 → Keeps m₀ s₀ (setCells a x0 x1)
  | [], s, h₀ => by
    rw [setCells_nil]
    repeat' first
      | with_reducible assumption
      | (with_reducible apply keeps_setCells hM₀)
      | with_reducible apply keeps_setCell
  | b :: bs, s, h₀ => by
    rw [setCells_cons]
    repeat' first
      | with_reducible assumption
      | (with_reducible apply keeps_setCells hM₀)
      | with_reducible apply keeps_setCell

theorem keeps_setPoison {m₀ : Nat} {s₀ : State} {u : Nat} {b : Bool} (hM₀ : Sub 1073741828 m₀) {s : State}
    (h₀ : Keeps m₀ s₀ s) : Keeps m₀ s₀ (setPoison u b s) := by
  unfold setPoison
  try dsimp only
  repeat' first
    | with_reducible assumption
    | with_reducible apply Keeps.put_poison

theorem keeps_setFlips {m₀ : Nat} {s₀ : State} {w m : Nat} (hM₀ : Sub 1073741828 m₀) {s : State}
    (h₀ : Keeps m₀ s₀ s) : Keeps m₀ s₀ (setFlips w m s) := by
  unfold setFlips
  try dsimp only
  repeat' first
    | with_reducible assumption
    | with_reducible apply Keeps.put_flips

theorem keeps_upset {m₀ : Nat} {s₀ : State} (hM₀ : Sub 1073741828 m₀) :
    ∀ (x0 : List (Nat × Nat)) (x1 : State), Keeps m₀ s₀ x1 → Keeps m₀ s₀ (upset x0 x1)
  | [], s, h₀ => by
    unfold upset
    repeat' first
      | with_reducible assumption
      | (with_reducible apply keeps_upset hM₀)
      | with_reducible apply keeps_setFlips
  | (w, m) :: us, s, h₀ => by
    unfold upset
    repeat' first
      | with_reducible assumption
      | (with_reducible apply keeps_upset hM₀)
      | with_reducible apply keeps_setFlips

theorem keeps_countCorrected {m₀ : Nat} {s₀ : State} {a : Nat} (hM₀ : Sub 134217829 m₀) {s : State}
    (h₀ : Keeps m₀ s₀ s) : Keeps m₀ s₀ (countCorrected a s) := by
  unfold countCorrected
  try dsimp only
  repeat' first
    | with_reducible assumption
    | exact hM₀.le (by decide)
    | with_reducible apply keeps_bump
    | with_reducible apply keeps_lifeAdd
    | with_reducible apply keeps_raiseBit
    | with_reducible apply keeps_wr
    | with_reducible apply Keeps.ite
    | split
    | with_reducible apply Keeps.upd_ceSince

theorem keeps_countUncorrectable {m₀ : Nat} {s₀ : State} {a : Nat} (hM₀ : Sub 1207959653 m₀) {s : State}
    (h₀ : Keeps m₀ s₀ s) : Keeps m₀ s₀ (countUncorrectable a s) := by
  unfold countUncorrectable
  try dsimp only
  repeat' first
    | with_reducible assumption
    | exact hM₀.le (by decide)
    | with_reducible apply keeps_bump
    | with_reducible apply keeps_journal
    | with_reducible apply keeps_lifeAdd
    | with_reducible apply keeps_raiseBit
    | with_reducible apply keeps_setPoison
    | with_reducible apply keeps_wr
    | split

theorem keeps_readWord {m₀ : Nat} {s₀ : State} {w : Nat} (hM₀ : Sub 1476395109 m₀) {s : State} (h₀ : Keeps m₀ s₀ s)
    : Keeps m₀ s₀ (readWord w s).2 := by
  unfold readWord
  try dsimp only
  repeat' first
    | with_reducible assumption
    | exact hM₀.le (by decide)
    | with_reducible apply keeps_countCorrected
    | with_reducible apply keeps_countUncorrectable
    | with_reducible apply keeps_setCells
    | with_reducible apply keeps_setFlips
    | split
    | (dsimp only)
    | with_reducible apply Keeps.upd_drawn

theorem keeps_readWords {m₀ : Nat} {s₀ : State} (hM₀ : Sub 1476395109 m₀) :
    ∀ (x0 : Nat) (x1 : Nat) (x2 : State), Keeps m₀ s₀ x2 → Keeps m₀ s₀ (readWords x0 x1 x2).2
  | 0, _, s, h₀ => by
    unfold readWords
    try dsimp only
    repeat' first
      | with_reducible assumption
      | (with_reducible apply keeps_readWords hM₀)
      | with_reducible apply keeps_readWord
      | split
  | n + 1, w, s, h₀ => by
    unfold readWords
    try dsimp only
    repeat' first
      | with_reducible assumption
      | (with_reducible apply keeps_readWords hM₀)
      | with_reducible apply keeps_readWord
      | split

theorem keeps_readUnit {m₀ : Nat} {s₀ : State} {a n : Nat} (hM₀ : Sub 1476395109 m₀) {s : State}
    (h₀ : Keeps m₀ s₀ s) : Keeps m₀ s₀ (readUnit a n s).2 := by
  unfold readUnit
  try dsimp only
  repeat' first
    | with_reducible assumption
    | exact hM₀.le (by decide)
    | with_reducible apply keeps_bump
    | with_reducible apply keeps_readWords
    | with_reducible apply Keeps.ite
    | split

theorem keeps_readPieces {m₀ : Nat} {s₀ : State} (hM₀ : Sub 1476395109 m₀) :
    ∀ (x0 : List (Nat × Nat)) (x1 : State), Keeps m₀ s₀ x1 → Keeps m₀ s₀ (readPieces x0 x1).2
  | [], s, h₀ => by
    unfold readPieces
    try dsimp only
    repeat' first
      | with_reducible assumption
      | (with_reducible apply keeps_readPieces hM₀)
      | with_reducible apply keeps_readUnit
  | (a, n) :: ps, s, h₀ => by
    unfold readPieces
    try dsimp only
    repeat' first
      | with_reducible assumption
      | (with_reducible apply keeps_readPieces hM₀)
      | with_reducible apply keeps_readUnit

theorem keeps_memRead {m₀ : Nat} {s₀ : State} {a n : Nat} (hM₀ : Sub 1476395109 m₀) {s : State} (h₀ : Keeps m₀ s₀ s)
    : Keeps m₀ s₀ (memRead a n s).2 := by
  unfold memRead
  repeat' first
    | with_reducible assumption
    | with_reducible apply keeps_readPieces

theorem keeps_zeroFill {m₀ : Nat} {s₀ : State} {a : Nat} (hM₀ : Sub 1073741829 m₀) {s : State} (h₀ : Keeps m₀ s₀ s)
    : Keeps m₀ s₀ (zeroFill a s) := by
  unfold zeroFill
  try dsimp only
  repeat' first
    | with_reducible assumption
    | exact hM₀.le (by decide)
    | (intro)
    | with_reducible apply keeps_bump
    | with_reducible apply Keeps.ite
    | with_reducible apply Keeps.foldl
    | with_reducible apply Keeps.put_wellValid
    | with_reducible apply Keeps.put_pageValid

theorem keeps_writeUnit {m₀ : Nat} {s₀ : State} {a : Nat} {data : List PByte} (hM₀ : Sub 1476395109 m₀) {s : State}
    (h₀ : Keeps m₀ s₀ s) : Keeps m₀ s₀ (writeUnit a data s) := by
  unfold writeUnit
  try dsimp only
  repeat' first
    | with_reducible assumption
    | exact hM₀.le (by decide)
    | (intro)
    | with_reducible apply keeps_bump
    | with_reducible apply keeps_readWord
    | with_reducible apply keeps_readWords
    | with_reducible apply keeps_setCells
    | with_reducible apply keeps_setFlips
    | with_reducible apply keeps_setPoison
    | with_reducible apply keeps_zeroFill
    | with_reducible apply Keeps.ite
    | with_reducible apply Keeps.foldl
    | split

theorem keeps_writePieces {m₀ : Nat} {s₀ : State} (hM₀ : Sub 1476395109 m₀) :
    ∀ (x0 : List (Nat × Nat)) (x1 : List PByte) (x2 : State), Keeps m₀ s₀ x2 → Keeps m₀ s₀ (writePieces x0 x1 x2)
  | [], _, s, h₀ => by
    unfold writePieces
    repeat' first
      | with_reducible assumption
      | (with_reducible apply keeps_writePieces hM₀)
      | with_reducible apply keeps_writeUnit
  | (a, n) :: ps, data, s, h₀ => by
    unfold writePieces
    repeat' first
      | with_reducible assumption
      | (with_reducible apply keeps_writePieces hM₀)
      | with_reducible apply keeps_writeUnit

theorem keeps_memWrite {m₀ : Nat} {s₀ : State} {a : Nat} {data : List PByte} (hM₀ : Sub 1476395109 m₀) {s : State}
    (h₀ : Keeps m₀ s₀ s) : Keeps m₀ s₀ (memWrite a data s) := by
  unfold memWrite
  repeat' first
    | with_reducible assumption
    | with_reducible apply keeps_writePieces

theorem keeps_clearWells {m₀ : Nat} {s₀ : State} {lo hi : Nat} (hM₀ : Sub 1073741828 m₀) {s : State}
    (h₀ : Keeps m₀ s₀ s) : Keeps m₀ s₀ (clearWells lo hi s) := h₀.upd_mem hM₀ (sparseWf_dropRange _ _ _)
    (sparseWf_dropRange _ _ _) id (sparseWf_dropRange _ _ _)
    (sparseWf_dropRange _ _ _)

theorem keeps_clearGddr {m₀ : Nat} {s₀ : State} {lo hi : Nat} (hM₀ : Sub 1073741828 m₀) {s : State}
    (h₀ : Keeps m₀ s₀ s) : Keeps m₀ s₀ (clearGddr lo hi s) := h₀.upd_mem hM₀ (sparseWf_dropRange _ _ _) id
    (sparseWf_dropRange _ _ _) (sparseWf_dropRange _ _ _)
    (sparseWf_dropRange _ _ _)

/-! ### Machine/Link.lean -/

theorem keeps_setPort {m₀ : Nat} {s₀ : State} {n : Nat} {p : Port} (hM₀ : Sub 16 m₀) {s : State}
    (h₀ : Keeps m₀ s₀ s) : Keeps m₀ s₀ (setPort n p s) := by
  unfold setPort
  try dsimp only
  repeat' first
    | with_reducible assumption
    | with_reducible apply Keeps.upd_link

theorem keeps_emitFlit {m₀ : Nat} {s₀ : State} {n seq : Nat} {ctl vc cr : Nat} {payload : List Byte}
    (hM₀ : Sub 134217745 m₀) {s : State} (h₀ : Keeps m₀ s₀ s) : Keeps m₀ s₀ (emitFlit n seq ctl vc cr payload s) := by
  unfold emitFlit
  try dsimp only
  repeat' first
    | with_reducible assumption
    | exact hM₀.le (by decide)
    | with_reducible apply keeps_bump
    | with_reducible apply keeps_setPort
    | with_reducible apply Keeps.upd_outs

theorem keeps_emitLink {m₀ : Nat} {s₀ : State} {n : Nat} {nak : Bool} {code : Nat} {data : List Byte}
    (hM₀ : Sub 134217745 m₀) {s : State} (h₀ : Keeps m₀ s₀ s) : Keeps m₀ s₀ (emitLink n nak code data s) := by
  unfold emitLink
  try dsimp only
  repeat' first
    | with_reducible assumption
    | exact hM₀.le (by decide)
    | with_reducible apply keeps_emitFlit
    | with_reducible apply keeps_setPort

theorem keeps_drainPort {m₀ : Nat} {s₀ : State} (hM₀ : Sub 134217745 m₀) :
    ∀ (x0 : Nat) (x1 : Nat) (x2 : State), Keeps m₀ s₀ x2 → Keeps m₀ s₀ (drainPort x0 x1 x2)
  | 0, _, s, h₀ => by
    unfold drainPort
    try dsimp only
    repeat' first
      | with_reducible assumption
      | exact hM₀.le (by decide)
      | (with_reducible apply keeps_drainPort hM₀)
      | with_reducible apply keeps_emitFlit
      | with_reducible apply keeps_setPort
      | with_reducible apply Keeps.ite
      | split
  | fuel + 1, n, s, h₀ => by
    unfold drainPort
    try dsimp only
    repeat' first
      | with_reducible assumption
      | exact hM₀.le (by decide)
      | (with_reducible apply keeps_drainPort hM₀)
      | with_reducible apply keeps_emitFlit
      | with_reducible apply keeps_setPort
      | with_reducible apply Keeps.ite
      | split

theorem keeps_sendWaiting {m₀ : Nat} {s₀ : State} {n : Nat} (hM₀ : Sub 134217745 m₀) {s : State}
    (h₀ : Keeps m₀ s₀ s) : Keeps m₀ s₀ (sendWaiting n s) := by
  unfold sendWaiting
  repeat' first
    | with_reducible assumption
    | with_reducible apply keeps_drainPort

theorem keeps_sendOn {m₀ : Nat} {s₀ : State} {n : Nat} {upper : Bool} {p : Packet} (hM₀ : Sub 134217745 m₀)
    {s : State} (h₀ : Keeps m₀ s₀ s) : Keeps m₀ s₀ (sendOn n upper p s) := by
  unfold sendOn
  try dsimp only
  repeat' first
    | with_reducible assumption
    | exact hM₀.le (by decide)
    | with_reducible apply keeps_sendWaiting
    | with_reducible apply keeps_setPort

theorem keeps_unsent {m₀ : Nat} {s₀ : State} (hM₀ : Sub 1 m₀) {s : State} (h₀ : Keeps m₀ s₀ s) : Keeps m₀ s₀
    (unsent s) := by
  unfold unsent
  repeat' first
    | with_reducible assumption
    | with_reducible apply keeps_bump

theorem keeps_sendMessage {m₀ : Nat} {s₀ : State} {page kind dst : Nat} {data : List Byte} (hM₀ : Sub 134217777 m₀)
    {s : State} (h₀ : Keeps m₀ s₀ s) : Keeps m₀ s₀ (sendMessage page kind dst data s) := by
  unfold sendMessage
  try dsimp only
  repeat' first
    | with_reducible assumption
    | exact hM₀.le (by decide)
    | with_reducible apply keeps_logErr
    | with_reducible apply keeps_sendOn
    | with_reducible apply keeps_unsent
    | split

theorem keeps_sendResponse {m₀ : Nat} {s₀ : State} {dst tag code : Nat} {data : List PByte} {poison : Nat}
    (hM₀ : Sub 134217745 m₀) {s : State} (h₀ : Keeps m₀ s₀ s) : Keeps m₀ s₀
    (sendResponse dst tag code data poison s) := by
  unfold sendResponse
  try dsimp only
  repeat' first
    | with_reducible assumption
    | exact hM₀.le (by decide)
    | with_reducible apply keeps_sendOn
    | with_reducible apply keeps_unsent
    | split

theorem keeps_sendNotice {m₀ : Nat} {s₀ : State} {kind module hops : Nat} {except : Option Nat}
    (hM₀ : Sub 134217745 m₀) {s : State} (h₀ : Keeps m₀ s₀ s) : Keeps m₀ s₀ (sendNotice kind module hops except s)
    := by
  unfold sendNotice
  try dsimp only
  repeat' first
    | with_reducible assumption
    | (intro)
    | with_reducible apply keeps_sendOn
    | with_reducible apply Keeps.ite
    | with_reducible apply Keeps.foldl

/-! ### Machine/Fabric.lean -/

theorem keeps_carry {m₀ : Nat} {s₀ : State} {src dst : Nat} (hM₀ : Sub 8 m₀) {s : State} (h₀ : Keeps m₀ s₀ s) :
    Keeps m₀ s₀ (carry src dst s) := by
  unfold carry
  try dsimp only
  repeat' first
    | with_reducible assumption
    | with_reducible apply Keeps.upd_bus

/-! ### Machine/Bus.lean -/

theorem keeps_codeOf {m₀ : Nat} {s₀ : State} {m : M Unit}
    (h_m : ∀ {t : State}, Keeps m₀ s₀ t → Keeps m₀ s₀ (runM (m) t).2) {t₀ : State} (h₀ : Keeps m₀ s₀ t₀) :
    Keeps m₀ s₀ (runM (codeOf m) t₀).2 := by
  unfold codeOf
  repeat' first
    | with_reducible assumption
    | (intro)
    | with_reducible apply h_m
    | with_reducible apply Keeps.m_bind
    | with_reducible apply Keeps.m_pure
    | with_reducible apply Keeps.m_throw
    | with_reducible apply Keeps.m_tryCatch
    | split

theorem keeps_takeOrd {m₀ : Nat} {s₀ : State} (hM₀ : Sub 8 m₀) {t₀ : State} (h₀ : Keeps m₀ s₀ t₀) : Keeps m₀ s₀
    (runM (takeOrd) t₀).2 := by
  unfold takeOrd
  try dsimp only
  repeat' first
    | with_reducible assumption
    | with_reducible apply Keeps.m_get_bind
    | with_reducible apply Keeps.m_set_bind
    | with_reducible apply Keeps.m_pure
    | with_reducible apply Keeps.upd_bus

theorem keeps_noteWriteErr {m₀ : Nat} {s₀ : State} {w : Who} {ord c : Nat} (hM₀ : Sub 8 m₀) {s : State}
    (h₀ : Keeps m₀ s₀ s) : Keeps m₀ s₀ (noteWriteErr w ord c s) := by
  unfold noteWriteErr
  try dsimp only
  repeat' first
    | with_reducible assumption
    | with_reducible apply Keeps.ite
    | with_reducible apply Keeps.upd_bus

theorem keeps_noteAnswer {m₀ : Nat} {s₀ : State} {stale : Bool} {w : Who} {ord c : Nat} (hM₀ : Sub 9 m₀) {s : State}
    (h₀ : Keeps m₀ s₀ s) : Keeps m₀ s₀ (noteAnswer stale w ord c s) := by
  unfold noteAnswer
  repeat' first
    | with_reducible assumption
    | exact hM₀.le (by decide)
    | with_reducible apply keeps_bump
    | with_reducible apply keeps_noteWriteErr
    | with_reducible apply Keeps.ite

theorem keeps_staleWhere {m₀ : Nat} {s₀ : State} {p : Who → Nat → Bool} (hM₀ : Sub 8 m₀) {s : State}
    (h₀ : Keeps m₀ s₀ s) : Keeps m₀ s₀ (staleWhere p s) := by
  unfold staleWhere
  try dsimp only
  repeat' first
    | with_reducible assumption
    | with_reducible apply Keeps.upd_bus

theorem keeps_disown {m₀ : Nat} {s₀ : State} {w : Who} (hM₀ : Sub 8 m₀) {s : State} (h₀ : Keeps m₀ s₀ s) :
    Keeps m₀ s₀ (disown w s) := by
  unfold disown
  try dsimp only
  repeat' first
    | with_reducible assumption
    | with_reducible apply Keeps.upd_bus

theorem keeps_pushAdd {m₀ : Nat} {s₀ : State} {w : Who} {a v : Nat} {resp : Option (Nat × Nat)} (hM₀ : Sub 8 m₀)
    {s : State} (h₀ : Keeps m₀ s₀ s) : Keeps m₀ s₀ (pushAdd w a v resp s) := by
  unfold pushAdd
  try dsimp only
  repeat' first
    | with_reducible assumption
    | with_reducible apply Keeps.upd_bus

theorem keeps_localRead {m₀ : Nat} {s₀ : State} {w : Who} {a n : Nat} (hM₀ : Sub 1476395109 m₀) {t₀ : State}
    (h₀ : Keeps m₀ s₀ t₀) : Keeps m₀ s₀ (runM (localRead w a n) t₀).2 := by
  unfold localRead
  try dsimp only
  repeat' first
    | with_reducible assumption
    | (intro)
    | with_reducible apply keeps_memRead
    | with_reducible apply Keeps.m_get_bind
    | with_reducible apply Keeps.m_set_bind
    | with_reducible apply Keeps.m_throw_bind
    | with_reducible apply Keeps.m_bind
    | with_reducible apply Keeps.m_pure
    | with_reducible apply Keeps.m_throw
    | with_reducible apply Keeps.m_failWith
    | with_reducible apply Keeps.m_ite
    | with_reducible apply Keeps.m_waitFor
    | split

theorem keeps_localWrite {m₀ : Nat} {s₀ : State} {w : Who} {ord a : Nat} {d : List PByte} (hM₀ : Sub 1476395117 m₀)
    {t₀ : State} (h₀ : Keeps m₀ s₀ t₀) : Keeps m₀ s₀ (runM (localWrite w ord a d) t₀).2 := by
  unfold localWrite
  try dsimp only
  repeat' first
    | with_reducible assumption
    | exact hM₀.le (by decide)
    | (intro)
    | with_reducible apply keeps_memWrite
    | with_reducible apply Keeps.m_get_bind
    | with_reducible apply Keeps.m_throw_bind
    | with_reducible apply Keeps.m_bind
    | with_reducible apply Keeps.m_pure
    | with_reducible apply Keeps.m_throw
    | with_reducible apply Keeps.m_failWith
    | with_reducible apply Keeps.m_set
    | with_reducible apply Keeps.m_ite
    | with_reducible apply Keeps.m_waitFor
    | split
    | with_reducible apply Keeps.upd_bus

theorem keeps_sendRequest {m₀ : Nat} {s₀ : State} {w : Who} {kind : ReqKind} {ord a n : Nat} {d : List PByte}
    {slack : Nat} (hM₀ : Sub 134217753 m₀) {s x₀ : State} (e₀ : sendRequest w kind ord a n d slack s = .ok x₀)
    (h₀ : Keeps m₀ s₀ s) : Keeps m₀ s₀ x₀ := by
  unfold sendRequest at e₀
  try dsimp only at e₀
  repeat' split at e₀
  all_goals cases e₀
  repeat' first
    | with_reducible assumption
    | exact hM₀.le (by decide)
    | with_reducible apply keeps_carry
    | with_reducible apply keeps_sendOn
    | with_reducible apply Keeps.upd_bus

theorem keeps_awaitRead {m₀ : Nat} {s₀ : State} {w : Who} {host : Bool} {a n : Nat} {t₀ : State}
    (h₀ : Keeps m₀ s₀ t₀) : Keeps m₀ s₀ (runM (awaitRead w host a n) t₀).2 := by
  unfold awaitRead
  repeat' first
    | with_reducible assumption
    | with_reducible apply Keeps.m_get_bind
    | with_reducible apply Keeps.m_pure
    | with_reducible apply Keeps.m_throw
    | with_reducible apply Keeps.m_failWith
    | with_reducible apply Keeps.m_ite
    | split

theorem keeps_peerRead {m₀ : Nat} {s₀ : State} {w : Who} :
    ∀ (x0 : List (Nat × Nat)) (t₀ : State), Keeps m₀ s₀ t₀ → Keeps m₀ s₀ (runM (peerRead w x0) t₀).2
  | [], t₀, h₀ => by
    unfold peerRead
    repeat' first
      | with_reducible assumption
      | (intro)
      | (with_reducible apply keeps_peerRead)
      | with_reducible apply keeps_awaitRead
      | with_reducible apply Keeps.m_bind
      | with_reducible apply Keeps.m_pure
  | (a, n) :: ps, t₀, h₀ => by
    unfold peerRead
    repeat' first
      | with_reducible assumption
      | (intro)
      | (with_reducible apply keeps_peerRead)
      | with_reducible apply keeps_awaitRead
      | with_reducible apply Keeps.m_bind
      | with_reducible apply Keeps.m_pure

theorem keeps_peerWrite {m₀ : Nat} {s₀ : State} {w : Who} {ord : Nat} (hM₀ : Sub 134217753 m₀) :
    ∀ (x0 : List (Nat × Nat)) (x1 : List PByte) (t₀ : State), Keeps m₀ s₀ t₀ → Keeps m₀ s₀
    (runM (peerWrite w ord x0 x1) t₀).2
  | [], _, t₀, h₀ => by
    unfold peerWrite
    repeat' first
      | with_reducible assumption
      | (with_reducible apply keeps_peerWrite hM₀)
      | (with_reducible refine keeps_sendRequest ?_ (by assumption) ?_)
      | with_reducible apply Keeps.m_get_bind
      | with_reducible apply Keeps.m_set_bind
      | with_reducible apply Keeps.m_pure
      | with_reducible apply Keeps.m_failWith
      | split
  | (a, n) :: ps, d, t₀, h₀ => by
    unfold peerWrite
    repeat' first
      | with_reducible assumption
      | (with_reducible apply keeps_peerWrite hM₀)
      | (with_reducible refine keeps_sendRequest ?_ (by assumption) ?_)
      | with_reducible apply Keeps.m_get_bind
      | with_reducible apply Keeps.m_set_bind
      | with_reducible apply Keeps.m_pure
      | with_reducible apply Keeps.m_failWith
      | split

theorem keeps_reachOwner {m₀ : Nat} {s₀ : State} {page a : Nat} (hM₀ : Sub 1803 m₀) {s : State} (h₀ : Keeps m₀ s₀ s)
    : Keeps m₀ s₀ (reachOwner page a s) := by
  unfold reachOwner
  try dsimp only
  repeat' first
    | with_reducible assumption
    | exact hM₀.le (by decide)
    | with_reducible apply keeps_carry
    | with_reducible apply keeps_reach
    | split

theorem keeps_busRead {m₀ : Nat} {s₀ : State} {w : Who} {a n : Nat} (hM₀ : Sub 1476396911 m₀) {t₀ : State}
    (h₀ : Keeps m₀ s₀ t₀) : Keeps m₀ s₀ (runM (busRead w a n) t₀).2 := by
  unfold busRead
  try dsimp only
  repeat' first
    | with_reducible assumption
    | exact hM₀.le (by decide)
    | (intro)
    | with_reducible apply keeps_localRead
    | with_reducible apply keeps_peerRead
    | with_reducible apply keeps_reachOwner
    | with_reducible apply Keeps.m_get_bind
    | with_reducible apply Keeps.m_modify_bind
    | with_reducible apply Keeps.m_failWith_bind
    | with_reducible apply Keeps.m_bind
    | with_reducible apply Keeps.m_pure
    | with_reducible apply Keeps.m_ite
    | with_reducible apply Keeps.m_waitFor

theorem keeps_busWriteNow {m₀ : Nat} {s₀ : State} {w : Who} {ord a : Nat} {d : List PByte} (hM₀ : Sub 1476396927 m₀)
    {t₀ : State} (h₀ : Keeps m₀ s₀ t₀) : Keeps m₀ s₀ (runM (busWriteNow w ord a d) t₀).2 := by
  unfold busWriteNow
  try dsimp only
  repeat' first
    | with_reducible assumption
    | exact hM₀.le (by decide)
    | (intro)
    | with_reducible apply keeps_localWrite
    | with_reducible apply keeps_peerWrite
    | with_reducible apply keeps_reachOwner
    | with_reducible apply Keeps.m_get_bind
    | with_reducible apply Keeps.m_modify_bind
    | with_reducible apply Keeps.m_failWith_bind
    | with_reducible apply Keeps.m_bind
    | with_reducible apply Keeps.m_pure
    | with_reducible apply Keeps.m_ite
    | with_reducible apply Keeps.m_waitFor

theorem keeps_startWake {m₀ : Nat} {s₀ : State} {k : Nat} (hM₀ : Sub 67108865 m₀) {s : State} (h₀ : Keeps m₀ s₀ s) :
    Keeps m₀ s₀ (startWake k s) := by
  unfold startWake
  repeat' first
    | with_reducible assumption
    | exact hM₀.le (by decide)
    | with_reducible apply keeps_wr
    | with_reducible apply Keeps.upd_waking

theorem keeps_holdWrite {m₀ : Nat} {s₀ : State} {w : Who} {ord a : Nat} {d : List PByte} (hM₀ : Sub 8 m₀)
    {s : State} (h₀ : Keeps m₀ s₀ s) : Keeps m₀ s₀ (holdWrite w ord a d s) := by
  unfold holdWrite
  try dsimp only
  repeat' first
    | with_reducible assumption
    | with_reducible apply Keeps.upd_bus

theorem keeps_wellWrite {m₀ : Nat} {s₀ : State} {w : Who} {a : Nat} {d : List PByte} (hM₀ : Sub 1476395117 m₀)
    {s : State} (h₀ : Keeps m₀ s₀ s) : Keeps m₀ s₀ (wellWrite w a d s) := by
  unfold wellWrite
  try dsimp only
  repeat' first
    | with_reducible assumption
    | exact hM₀.le (by decide)
    | with_reducible apply keeps_holdWrite
    | with_reducible apply keeps_memWrite
    | with_reducible apply Keeps.ite
    | with_reducible apply Keeps.upd_bus

theorem keeps_writeWhenAwake {m₀ : Nat} {s₀ : State} {k page : Nat} {off v : Nat} (hM₀ : Sub 67108873 m₀)
    {s : State} (h₀ : Keeps m₀ s₀ s) : Keeps m₀ s₀ (writeWhenAwake k page off v s) := by
  unfold writeWhenAwake
  try dsimp only
  repeat' first
    | with_reducible assumption
    | exact hM₀.le (by decide)
    | with_reducible apply keeps_holdWrite
    | with_reducible apply keeps_startWake
    | with_reducible apply Keeps.upd_bus

theorem keeps_busWrite {m₀ : Nat} {s₀ : State} {w : Who} {a : Nat} {d : List PByte} (hM₀ : Sub 1543505791 m₀)
    {t₀ : State} (h₀ : Keeps m₀ s₀ t₀) : Keeps m₀ s₀ (runM (busWrite w a d) t₀).2 := by
  unfold busWrite
  repeat' first
    | with_reducible assumption
    | exact hM₀.le (by decide)
    | (intro)
    | with_reducible apply keeps_busWriteNow
    | with_reducible apply keeps_holdWrite
    | with_reducible apply keeps_startWake
    | with_reducible apply keeps_takeOrd
    | with_reducible apply Keeps.m_bind
    | with_reducible apply Keeps.m_throw
    | with_reducible apply Keeps.m_modify
    | with_reducible apply Keeps.m_tryCatch
    | split

theorem keeps_post {m₀ : Nat} {s₀ : State} {w : Who} {a : Nat} {d : List PByte} (hM₀ : Sub 1543505791 m₀)
    {t₀ : State} (h₀ : Keeps m₀ s₀ t₀) : Keeps m₀ s₀ (runM (post w a d) t₀).2 := by
  unfold post
  try dsimp only
  repeat' first
    | with_reducible assumption
    | exact hM₀.le (by decide)
    | (intro)
    | with_reducible apply keeps_busWrite
    | with_reducible apply keeps_noteWriteErr
    | with_reducible apply Keeps.m_get_bind
    | with_reducible apply Keeps.m_throw
    | with_reducible apply Keeps.m_modify
    | with_reducible apply Keeps.m_tryCatch
    | split
    | with_reducible apply Keeps.upd_bus

theorem keeps_tryHeld {m₀ : Nat} {s₀ : State} {x : HeldWrite} (hM₀ : Sub 1543505791 m₀) {s : State}
    (h₀ : Keeps m₀ s₀ s) : Keeps m₀ s₀ (tryHeld s x) := by
  unfold tryHeld
  try dsimp only
  repeat' first
    | with_reducible assumption
    | exact hM₀.le (by decide)
    | with_reducible apply keeps_busWriteNow
    | with_reducible apply keeps_noteAnswer
    | with_reducible apply keeps_staleWhere
    | with_reducible apply keeps_startWake
    | with_reducible apply Keeps.ite
    | (with_reducible refine Keeps.of_pair (by assumption) ?_)
    | split
    | with_reducible apply Keeps.upd_bus

theorem keeps_releaseHeld {m₀ : Nat} {s₀ : State} (hM₀ : Sub 1543505791 m₀) {s : State} (h₀ : Keeps m₀ s₀ s) :
    Keeps m₀ s₀ (releaseHeld s) := by
  unfold releaseHeld
  repeat' first
    | with_reducible assumption
    | (intro)
    | with_reducible apply keeps_tryHeld
    | with_reducible apply Keeps.foldl

theorem keeps_hostRead {m₀ : Nat} {s₀ : State} {w : Who} {a n : Nat} {t₀ : State} (h₀ : Keeps m₀ s₀ t₀) :
    Keeps m₀ s₀ (runM (hostRead w a n) t₀).2 := by
  unfold hostRead
  repeat' first
    | with_reducible assumption
    | with_reducible apply keeps_awaitRead

theorem keeps_hostWrite {m₀ : Nat} {s₀ : State} {a : Nat} {d : List PByte} {relaxed : Bool} (hM₀ : Sub 134217728 m₀)
    {t₀ : State} (h₀ : Keeps m₀ s₀ t₀) : Keeps m₀ s₀ (runM (hostWrite a d relaxed) t₀).2 := by
  unfold hostWrite
  repeat' first
    | with_reducible assumption
    | with_reducible apply Keeps.m_modify
    | with_reducible apply Keeps.upd_outs

theorem keeps_busAdd {m₀ : Nat} {s₀ : State} {w : Who} {a v : Nat} (hM₀ : Sub 8 m₀) {t₀ : State}
    (h₀ : Keeps m₀ s₀ t₀) : Keeps m₀ s₀ (runM (busAdd w a v) t₀).2 := by
  unfold busAdd
  repeat' first
    | with_reducible assumption
    | with_reducible apply keeps_pushAdd
    | with_reducible apply Keeps.m_modify

theorem keeps_busReadNat {m₀ : Nat} {s₀ : State} {w : Who} {a n : Nat} (hM₀ : Sub 1476396911 m₀) {t₀ : State}
    (h₀ : Keeps m₀ s₀ t₀) : Keeps m₀ s₀ (runM (busReadNat w a n) t₀).2 := by
  unfold busReadNat
  repeat' first
    | with_reducible assumption
    | (intro)
    | with_reducible apply keeps_busRead
    | with_reducible apply Keeps.m_bind
    | with_reducible apply Keeps.m_pure

theorem keeps_busWriteNat {m₀ : Nat} {s₀ : State} {w : Who} {a n v : Nat} (hM₀ : Sub 1543505791 m₀) {t₀ : State}
    (h₀ : Keeps m₀ s₀ t₀) : Keeps m₀ s₀ (runM (busWriteNat w a n v) t₀).2 := by
  unfold busWriteNat
  repeat' first
    | with_reducible assumption
    | with_reducible apply keeps_busWrite

theorem keeps_acknowledged {m₀ : Nat} {s₀ : State} {w : Who} (hM₀ : Sub 8 m₀) {t₀ : State} (h₀ : Keeps m₀ s₀ t₀) :
    Keeps m₀ s₀ (runM (acknowledged w) t₀).2 := by
  unfold acknowledged
  try dsimp only
  repeat' first
    | with_reducible assumption
    | (intro)
    | with_reducible apply Keeps.m_get_bind
    | with_reducible apply Keeps.m_set_bind
    | with_reducible apply Keeps.m_bind
    | with_reducible apply Keeps.m_pure
    | with_reducible apply Keeps.m_failWith
    | with_reducible apply Keeps.m_waitFor
    | split
    | with_reducible apply Keeps.upd_bus

theorem keeps_forgetArrived {m₀ : Nat} {s₀ : State} {w : Who} (hM₀ : Sub 8 m₀) {s : State} (h₀ : Keeps m₀ s₀ s) :
    Keeps m₀ s₀ (forgetArrived w s) := by
  unfold forgetArrived
  try dsimp only
  repeat' first
    | with_reducible assumption
    | with_reducible apply Keeps.upd_bus

theorem keeps_issueAsk {m₀ : Nat} {s₀ : State} {a : Ask} (hM₀ : Sub 134217753 m₀) {s : State} (h₀ : Keeps m₀ s₀ s) :
    Keeps m₀ s₀ (issueAsk a s) := by
  unfold issueAsk
  dsimp only
  split
  · exact h₀
  · split
    · exact h₀
    · split
      · exact Keeps.upd_bus (hM₀.le (by decide)) (Keeps.upd_outs (v := [_]) (hM₀.le (by decide)) h₀)
      · split
        · next e => exact keeps_sendRequest (hM₀.le (by decide)) e h₀
        · exact Keeps.upd_bus (hM₀.le (by decide)) h₀

theorem keeps_attemptUpTo {m₀ : Nat} {s₀ : State} (hM₀ : Sub 201326617 m₀) :
    ∀ (x0 : Nat) (x1 : Who) (x2 : M Unit) (x3 : State), (∀ {t : State}, Keeps m₀ s₀ t → Keeps m₀ s₀ (runM (x2) t).2)
    → Keeps m₀ s₀ x3 → Keeps m₀ s₀ (attemptUpTo x0 x1 x2 x3)
  | 0, _, _, s, g0₀, h₀ => by
    unfold attemptUpTo
    try dsimp only
    repeat' first
      | with_reducible assumption
      | exact hM₀.le (by decide)
      | with_reducible apply g0₀
      | (with_reducible apply keeps_attemptUpTo hM₀)
      | with_reducible apply keeps_forgetArrived
      | with_reducible apply keeps_issueAsk
      | with_reducible apply keeps_startWake
      | with_reducible apply Keeps.ite
      | (with_reducible refine Keeps.of_pair (by assumption) ?_)
      | split
  | n + 1, w, m, s, g0₀, h₀ => by
    unfold attemptUpTo
    try dsimp only
    repeat' first
      | with_reducible assumption
      | exact hM₀.le (by decide)
      | with_reducible apply g0₀
      | (with_reducible apply keeps_attemptUpTo hM₀)
      | with_reducible apply keeps_forgetArrived
      | with_reducible apply keeps_issueAsk
      | with_reducible apply keeps_startWake
      | with_reducible apply Keeps.ite
      | (with_reducible refine Keeps.of_pair (by assumption) ?_)
      | split

theorem keeps_attempt {m₀ : Nat} {s₀ : State} {w : Who} {m : M Unit} (hM₀ : Sub 201326617 m₀)
    (h_m : ∀ {t : State}, Keeps m₀ s₀ t → Keeps m₀ s₀ (runM (m) t).2) {s : State} (h₀ : Keeps m₀ s₀ s) : Keeps m₀ s₀
    (attempt w m s) := by
  unfold attempt
  repeat' first
    | with_reducible assumption
    | with_reducible apply keeps_attemptUpTo

theorem keeps_memAdd {m₀ : Nat} {s₀ : State} {a v : Nat} (hM₀ : Sub 1476395109 m₀) {s : State} (h₀ : Keeps m₀ s₀ s)
    : Keeps m₀ s₀ (memAdd a v s) := by
  unfold memAdd
  try dsimp only
  repeat' first
    | with_reducible assumption
    | with_reducible apply keeps_memRead
    | with_reducible apply keeps_memWrite

end Sys2Proof.Machine
end

