-- ==== Sys2Proof/Laws/KeepsClusters.lean ====
section
/-! SUPPORT. What each operation on clusters and tiles can do to the state, as `Keeps`. -/

namespace Sys2Proof.Machine

/-! ### Machine/Generation.lean -/

theorem keeps_vetoStep {m₀ : Nat} {s₀ : State} {step code : Nat} (hM₀ : Sub 128 m₀) {s : State} (h₀ : Keeps m₀ s₀ s)
    : Keeps m₀ s₀ (vetoStep step code s) := by
  unfold vetoStep
  try dsimp only
  repeat' first
    | with_reducible assumption
    | with_reducible apply Keeps.ite
    | with_reducible apply Keeps.upd_gen

theorem keeps_joinStep {m₀ : Nat} {s₀ : State} {page step : Nat} (hM₀ : Sub 128 m₀) {s : State} (h₀ : Keeps m₀ s₀ s)
    : Keeps m₀ s₀ (joinStep page step s) := by
  unfold joinStep
  try dsimp only
  repeat' first
    | with_reducible assumption
    | with_reducible apply Keeps.upd_gen

theorem keeps_finishStep {m₀ : Nat} {s₀ : State} {page step : Nat} (hM₀ : Sub 128 m₀) {s : State}
    (h₀ : Keeps m₀ s₀ s) : Keeps m₀ s₀ (finishStep page step s) := by
  unfold finishStep
  try dsimp only
  repeat' first
    | with_reducible assumption
    | with_reducible apply Keeps.upd_gen

theorem keeps_lockStep {m₀ : Nat} {s₀ : State} {page : Nat} (hM₀ : Sub 128 m₀) {s : State} (h₀ : Keeps m₀ s₀ s) :
    Keeps m₀ s₀ (lockStep page s) := by
  unfold lockStep
  try dsimp only
  repeat' first
    | with_reducible assumption
    | (intro)
    | with_reducible apply keeps_vetoStep
    | with_reducible apply Keeps.ite
    | with_reducible apply Keeps.foldl
    | with_reducible apply Keeps.upd_gen

theorem keeps_readRanges {m₀ : Nat} {s₀ : State} {w : Who} (hM₀ : Sub 1476396911 m₀) :
    ∀ (x0 : List (Nat × Nat)) (t₀ : State), Keeps m₀ s₀ t₀ → Keeps m₀ s₀ (runM (readRanges w x0) t₀).2
  | [], t₀, h₀ => by
    unfold readRanges
    repeat' first
      | with_reducible assumption
      | (intro)
      | (with_reducible apply keeps_readRanges hM₀)
      | with_reducible apply keeps_busRead
      | with_reducible apply Keeps.m_bind
      | with_reducible apply Keeps.m_pure
  | (a, n) :: rs, t₀, h₀ => by
    unfold readRanges
    repeat' first
      | with_reducible assumption
      | (intro)
      | (with_reducible apply keeps_readRanges hM₀)
      | with_reducible apply keeps_busRead
      | with_reducible apply Keeps.m_bind
      | with_reducible apply Keeps.m_pure

theorem keeps_winReadFor {m₀ : Nat} {s₀ : State} {page : Nat} {w : Who} {h a n : Nat} (hM₀ : Sub 1476396911 m₀)
    {t₀ : State} (h₀ : Keeps m₀ s₀ t₀) : Keeps m₀ s₀ (runM (winReadFor page w h a n) t₀).2 := by
  unfold winReadFor
  repeat' first
    | with_reducible assumption
    | with_reducible apply keeps_readRanges
    | with_reducible apply Keeps.m_get_bind
    | with_reducible apply Keeps.m_pure
    | with_reducible apply Keeps.m_ite

theorem keeps_winRead {m₀ : Nat} {s₀ : State} {w : Who} {h a n : Nat} (hM₀ : Sub 1476396911 m₀) {t₀ : State}
    (h₀ : Keeps m₀ s₀ t₀) : Keeps m₀ s₀ (runM (winRead w h a n) t₀).2 := by
  unfold winRead
  repeat' first
    | with_reducible assumption
    | with_reducible apply keeps_winReadFor

theorem keeps_readCoarse {m₀ : Nat} {s₀ : State} {w : Who} {f : FormatWord} {record h : Nat}
    (hM₀ : Sub 1476396911 m₀) {t₀ : State} (h₀ : Keeps m₀ s₀ t₀) : Keeps m₀ s₀ (runM (readCoarse w f record h) t₀).2
    := by
  unfold readCoarse
  try dsimp only
  repeat' first
    | with_reducible assumption
    | (intro)
    | with_reducible apply keeps_busReadNat
    | with_reducible apply Keeps.m_bind
    | with_reducible apply Keeps.m_pure
    | with_reducible apply Keeps.m_ite
    | with_reducible apply Keeps.m_refuseIf

theorem keeps_noted {m₀ : Nat} {s₀ : State} {w : Who} {m : M Unit} (hM₀ : Sub 8 m₀)
    (h_m : ∀ {t : State}, Keeps m₀ s₀ t → Keeps m₀ s₀ (runM (m) t).2) {t₀ : State} (h₀ : Keeps m₀ s₀ t₀) :
    Keeps m₀ s₀ (runM (noted w m) t₀).2 := by
  unfold noted
  repeat' first
    | with_reducible assumption
    | (intro)
    | with_reducible apply h_m
    | with_reducible apply keeps_noteWriteErr
    | with_reducible apply keeps_takeOrd
    | with_reducible apply Keeps.m_bind
    | with_reducible apply Keeps.m_throw
    | with_reducible apply Keeps.m_modify
    | with_reducible apply Keeps.m_tryCatch
    | split

theorem keeps_applyStats {m₀ : Nat} {s₀ : State} {w : Who} {a : StatAdd} (hM₀ : Sub 1543505791 m₀) {t₀ : State}
    (h₀ : Keeps m₀ s₀ t₀) : Keeps m₀ s₀ (runM (applyStats w a) t₀).2 := by
  unfold applyStats
  try dsimp only
  repeat' first
    | with_reducible assumption
    | exact hM₀.le (by decide)
    | (intro)
    | with_reducible apply keeps_busRead
    | with_reducible apply keeps_busReadNat
    | with_reducible apply keeps_post
    | with_reducible apply keeps_raiseBit
    | with_reducible apply Keeps.m_get_bind
    | with_reducible apply Keeps.m_bind
    | with_reducible apply Keeps.m_pure
    | with_reducible apply Keeps.m_modify
    | with_reducible apply Keeps.m_ite
    | with_reducible apply Keeps.m_waitFor
    | split

theorem keeps_showStatq {m₀ : Nat} {s₀ : State} {page : Nat} (hM₀ : Sub 1 m₀) {s : State} (h₀ : Keeps m₀ s₀ s) :
    Keeps m₀ s₀ (showStatq page s) := by
  unfold showStatq
  repeat' first
    | with_reducible assumption
    | with_reducible apply keeps_wr
    | with_reducible apply Keeps.ite

theorem keeps_offerStats {m₀ : Nat} {s₀ : State} {w : Who} {a : StatAdd} (hM₀ : Sub 1543505919 m₀) {t₀ : State}
    (h₀ : Keeps m₀ s₀ t₀) : Keeps m₀ s₀ (runM (offerStats w a) t₀).2 := by
  unfold offerStats
  try dsimp only
  repeat' first
    | with_reducible assumption
    | exact hM₀.le (by decide)
    | (intro)
    | with_reducible apply keeps_applyStats
    | with_reducible apply keeps_noted
    | with_reducible apply keeps_showStatq
    | with_reducible apply Keeps.m_get_bind
    | with_reducible apply Keeps.m_bind
    | with_reducible apply Keeps.m_pure
    | with_reducible apply Keeps.m_set
    | with_reducible apply Keeps.m_ite
    | with_reducible apply Keeps.m_waitFor
    | with_reducible apply Keeps.upd_gen

theorem keeps_offerLeft {m₀ : Nat} {s₀ : State} {w : Who} {left : State → List StatAdd} {drop : State → State}
    (hM₀ : Sub 1543505919 m₀) (h_drop : ∀ {t : State}, Keeps m₀ s₀ t → Keeps m₀ s₀ (drop t)) :
    ∀ (x0 : Nat) (x1 : State), Keeps m₀ s₀ x1 → Keeps m₀ s₀ (offerLeft w left drop x0 x1)
  | 0, s, h₀ => by
    unfold offerLeft
    try dsimp only
    repeat' first
      | with_reducible assumption
      | exact hM₀.le (by decide)
      | (intro)
      | with_reducible apply h_drop
      | (with_reducible apply keeps_offerLeft hM₀)
      | with_reducible apply keeps_attempt
      | with_reducible apply keeps_offerStats
      | with_reducible apply Keeps.m_bind
      | with_reducible apply Keeps.m_modify
      | with_reducible apply Keeps.ite
      | split
  | n + 1, s, h₀ => by
    unfold offerLeft
    try dsimp only
    repeat' first
      | with_reducible assumption
      | exact hM₀.le (by decide)
      | (intro)
      | with_reducible apply h_drop
      | (with_reducible apply keeps_offerLeft hM₀)
      | with_reducible apply keeps_attempt
      | with_reducible apply keeps_offerStats
      | with_reducible apply Keeps.m_bind
      | with_reducible apply Keeps.m_modify
      | with_reducible apply Keeps.ite
      | split

theorem keeps_dropQueued {m₀ : Nat} {s₀ : State} {page : Nat} (hM₀ : Sub 129 m₀) {s : State} (h₀ : Keeps m₀ s₀ s) :
    Keeps m₀ s₀ (dropQueued page s) := by
  unfold dropQueued
  try dsimp only
  repeat' first
    | with_reducible assumption
    | exact hM₀.le (by decide)
    | with_reducible apply keeps_showStatq
    | with_reducible apply Keeps.upd_gen

theorem keeps_statsAddApply {m₀ : Nat} {s₀ : State} {page : Nat} (hM₀ : Sub 1543505919 m₀) {s : State}
    (h₀ : Keeps m₀ s₀ s) : Keeps m₀ s₀ (statsAddApply page s) := by
  unfold statsAddApply
  repeat' first
    | with_reducible assumption
    | exact hM₀.le (by decide)
    | (intro)
    | with_reducible apply keeps_applyStats
    | with_reducible apply keeps_attempt
    | with_reducible apply keeps_codeOf
    | with_reducible apply keeps_dropQueued
    | with_reducible apply Keeps.m_bind
    | with_reducible apply Keeps.m_modify
    | with_reducible apply Keeps.ite
    | split

theorem keeps_writeVec {m₀ : Nat} {s₀ : State} {w : Who} {f : FormatWord} {a b : Nat} {e : Encoded}
    (hM₀ : Sub 1543505791 m₀) {t₀ : State} (h₀ : Keeps m₀ s₀ t₀) : Keeps m₀ s₀ (runM (writeVec w f a b e) t₀).2 := by
  unfold writeVec
  repeat' first
    | with_reducible assumption
    | (intro)
    | with_reducible apply keeps_busWrite
    | with_reducible apply Keeps.m_bind

theorem keeps_readVecWith {m₀ : Nat} {s₀ : State} {rd_ : Nat → Nat → M (List PByte)} {f : FormatWord} {n a b : Nat}
    (h_rd_ : ∀ (a₀ : Nat) (b₀ : Nat) {t : State}, Keeps m₀ s₀ t → Keeps m₀ s₀ (runM (rd_ a₀ b₀) t).2) {t₀ : State}
    (h₀ : Keeps m₀ s₀ t₀) : Keeps m₀ s₀ (runM (readVecWith rd_ f n a b) t₀).2 := by
  unfold readVecWith
  try dsimp only
  repeat' first
    | with_reducible assumption
    | (intro)
    | with_reducible apply h_rd_
    | with_reducible apply Keeps.m_pure_bind
    | with_reducible apply Keeps.m_bind
    | with_reducible apply Keeps.m_pure
    | with_reducible apply Keeps.m_ite

/-! ### Machine/Channels.lean -/

theorem keeps_setChanState {m₀ : Nat} {s₀ : State} {t n v : Nat} (hM₀ : Sub 1 m₀) {s : State} (h₀ : Keeps m₀ s₀ s) :
    Keeps m₀ s₀ (setChanState t n v s) := by
  unfold setChanState
  repeat' first
    | with_reducible assumption
    | with_reducible apply keeps_wrAt

theorem keeps_putChan {m₀ : Nat} {s₀ : State} {t n : Nat} {c : Chan} (hM₀ : Sub 257 m₀) {s : State}
    (h₀ : Keeps m₀ s₀ s) : Keeps m₀ s₀ (putChan t n c s) := by
  unfold putChan
  repeat' first
    | with_reducible assumption
    | exact hM₀.le (by decide)
    | with_reducible apply keeps_setChan
    | with_reducible apply keeps_wrAt

theorem keeps_addUngranted {m₀ : Nat} {s₀ : State} {t n k : Nat} (hM₀ : Sub 1 m₀) {s : State} (h₀ : Keeps m₀ s₀ s) :
    Keeps m₀ s₀ (addUngranted t n k s) := by
  unfold addUngranted
  repeat' first
    | with_reducible assumption
    | with_reducible apply keeps_wrAt

theorem keeps_freeSlot {m₀ : Nat} {s₀ : State} {t n : Nat} (hM₀ : Sub 777 m₀) {s : State} (h₀ : Keeps m₀ s₀ s) :
    Keeps m₀ s₀ (freeSlot t n s) := by
  unfold freeSlot
  try dsimp only
  repeat' first
    | with_reducible assumption
    | exact hM₀.le (by decide)
    | with_reducible apply keeps_addUngranted
    | with_reducible apply keeps_putChan
    | with_reducible apply keeps_sendChan
    | with_reducible apply keeps_setChan
    | with_reducible apply Keeps.ite

theorem keeps_takeRecord {m₀ : Nat} {s₀ : State} {w : Who} {h t n : Nat} (hM₀ : Sub 1476396911 m₀) {t₀ : State}
    (h₀ : Keeps m₀ s₀ t₀) : Keeps m₀ s₀ (runM (takeRecord w h t n) t₀).2 := by
  unfold takeRecord
  try dsimp only
  repeat' first
    | with_reducible assumption
    | exact hM₀.le (by decide)
    | (intro)
    | with_reducible apply keeps_freeSlot
    | with_reducible apply keeps_setChan
    | with_reducible apply keeps_winReadFor
    | with_reducible apply Keeps.m_get_bind
    | with_reducible apply Keeps.m_modify_bind
    | with_reducible apply Keeps.m_bind
    | with_reducible apply Keeps.m_pure
    | with_reducible apply Keeps.m_ite
    | with_reducible apply Keeps.m_refuseIf
    | split

theorem keeps_sendSlot {m₀ : Nat} {s₀ : State} {t n : Nat} {op count : Nat} {poison : List Bool} {bytes : List Byte}
    (hM₀ : Sub 777 m₀) {s : State} (h₀ : Keeps m₀ s₀ s) : Keeps m₀ s₀ (sendSlot t n op count poison bytes s) := by
  unfold sendSlot
  try dsimp only
  repeat' first
    | with_reducible assumption
    | exact hM₀.le (by decide)
    | (intro)
    | with_reducible apply keeps_noteWriteErr
    | with_reducible apply keeps_putChan
    | with_reducible apply keeps_sendChan
    | with_reducible apply Keeps.ite
    | with_reducible apply Keeps.foldl

theorem keeps_sendRecords {m₀ : Nat} {s₀ : State} {t n op : Nat} (hM₀ : Sub 777 m₀) :
    ∀ (x0 : Nat) (x1 : List (List Byte × Bool)) (x2 : State), Keeps m₀ s₀ x2 → Keeps m₀ s₀
    (sendRecords t n op x0 x1 x2)
  | 0, _, s, h₀ => by
    unfold sendRecords
    try dsimp only
    repeat' first
      | with_reducible assumption
      | (with_reducible apply keeps_sendRecords hM₀)
      | with_reducible apply keeps_sendSlot
      | split
  | _ + 1, [], s, h₀ => by
    unfold sendRecords
    try dsimp only
    repeat' first
      | with_reducible assumption
      | (with_reducible apply keeps_sendRecords hM₀)
      | with_reducible apply keeps_sendSlot
      | split
  | fuel + 1, rs, s, h₀ => by
    unfold sendRecords
    try dsimp only
    repeat' first
      | with_reducible assumption
      | (with_reducible apply keeps_sendRecords hM₀)
      | with_reducible apply keeps_sendSlot
      | split

theorem keeps_unreserve {m₀ : Nat} {s₀ : State} {t n k : Nat} (hM₀ : Sub 257 m₀) {s : State} (h₀ : Keeps m₀ s₀ s) :
    Keeps m₀ s₀ (unreserve t n k s) := by
  unfold unreserve
  try dsimp only
  repeat' first
    | with_reducible assumption
    | exact hM₀.le (by decide)
    | (intro)
    | with_reducible apply keeps_addUngranted
    | with_reducible apply keeps_putChan
    | with_reducible apply keeps_setChan
    | with_reducible apply Keeps.ite
    | with_reducible apply Keeps.foldl

theorem keeps_openSend {m₀ : Nat} {s₀ : State} {t n : Nat} {c : Chan} (hM₀ : Sub 777 m₀) {s : State}
    (h₀ : Keeps m₀ s₀ s) : Keeps m₀ s₀ (openSend t n c s) := by
  unfold openSend
  try dsimp only
  repeat' first
    | with_reducible assumption
    | exact hM₀.le (by decide)
    | (intro)
    | with_reducible apply keeps_putChan
    | with_reducible apply keeps_sendChan
    | with_reducible apply keeps_setChanState
    | with_reducible apply keeps_wrAt
    | with_reducible apply Keeps.foldl
    | with_reducible apply Keeps.upd_bus

theorem keeps_answerOpen {m₀ : Nat} {s₀ : State} {t n : Nat} {q : OpenReq} (hM₀ : Sub 777 m₀) {s : State}
    (h₀ : Keeps m₀ s₀ s) : Keeps m₀ s₀ (answerOpen t n q s) := by
  unfold answerOpen
  try dsimp only
  repeat' first
    | with_reducible assumption
    | exact hM₀.le (by decide)
    | with_reducible apply keeps_putChan
    | with_reducible apply keeps_sendChan
    | with_reducible apply keeps_wrAt
    | with_reducible apply Keeps.ite

theorem keeps_openReceive {m₀ : Nat} {s₀ : State} {t n : Nat} {c : Chan} (hM₀ : Sub 777 m₀) {s : State}
    (h₀ : Keeps m₀ s₀ s) : Keeps m₀ s₀ (openReceive t n c s) := by
  unfold openReceive
  try dsimp only
  repeat' first
    | with_reducible assumption
    | exact hM₀.le (by decide)
    | (intro)
    | with_reducible apply keeps_answerOpen
    | with_reducible apply keeps_putChan
    | with_reducible apply keeps_setChanState
    | with_reducible apply keeps_wrAt
    | with_reducible apply Keeps.foldl

theorem keeps_openChan {m₀ : Nat} {s₀ : State} {t n : Nat} {c : Chan} (hM₀ : Sub 777 m₀) {s : State}
    (h₀ : Keeps m₀ s₀ s) : Keeps m₀ s₀ (openChan t n c s) := by
  unfold openChan
  try dsimp only
  repeat' first
    | with_reducible assumption
    | exact hM₀.le (by decide)
    | with_reducible apply keeps_openReceive
    | with_reducible apply keeps_openSend
    | with_reducible apply keeps_wrAt
    | with_reducible apply Keeps.ite

theorem keeps_openEntry {m₀ : Nat} {s₀ : State} {t n : Nat} {e : Option (List Byte)} (hM₀ : Sub 777 m₀) {s : State}
    (h₀ : Keeps m₀ s₀ s) : Keeps m₀ s₀ (openEntry t n e s) := by
  unfold openEntry
  try dsimp only
  repeat' first
    | with_reducible assumption
    | exact hM₀.le (by decide)
    | with_reducible apply keeps_openChan
    | with_reducible apply keeps_putChan
    | with_reducible apply keeps_setChanState
    | with_reducible apply Keeps.ite
    | split

theorem keeps_peerLocked {m₀ : Nat} {s₀ : State} {t n : Nat} (hM₀ : Sub 1 m₀) {s : State} (h₀ : Keeps m₀ s₀ s) :
    Keeps m₀ s₀ (peerLocked t n s) := by
  unfold peerLocked
  repeat' first
    | with_reducible assumption
    | with_reducible apply keeps_setChanState
    | with_reducible apply Keeps.ite

theorem keeps_lockSend {m₀ : Nat} {s₀ : State} {t n : Nat} (hM₀ : Sub 257 m₀) {s : State} (h₀ : Keeps m₀ s₀ s) :
    Keeps m₀ s₀ (lockSend t n s) := by
  unfold lockSend
  try dsimp only
  repeat' first
    | with_reducible assumption
    | exact hM₀.le (by decide)
    | (intro)
    | with_reducible apply keeps_addUngranted
    | with_reducible apply keeps_peerLocked
    | with_reducible apply keeps_putChan
    | with_reducible apply keeps_setChanState
    | with_reducible apply Keeps.foldl

theorem keeps_lockReceive {m₀ : Nat} {s₀ : State} {t n : Nat} (hM₀ : Sub 777 m₀) {s : State} (h₀ : Keeps m₀ s₀ s) :
    Keeps m₀ s₀ (lockReceive t n s) := by
  unfold lockReceive
  try dsimp only
  repeat' first
    | with_reducible assumption
    | exact hM₀.le (by decide)
    | (intro)
    | with_reducible apply keeps_addUngranted
    | with_reducible apply keeps_peerLocked
    | with_reducible apply keeps_putChan
    | with_reducible apply keeps_sendChan
    | with_reducible apply keeps_setChanState
    | with_reducible apply Keeps.ite
    | with_reducible apply Keeps.foldl

theorem keeps_lockChannels {m₀ : Nat} {s₀ : State} {t : Nat} (hM₀ : Sub 777 m₀) {s : State} (h₀ : Keeps m₀ s₀ s) :
    Keeps m₀ s₀ (lockChannels t s) := by
  unfold lockChannels
  try dsimp only
  repeat' first
    | with_reducible assumption
    | exact hM₀.le (by decide)
    | (intro)
    | with_reducible apply keeps_lockReceive
    | with_reducible apply keeps_lockSend
    | with_reducible apply keeps_peerLocked
    | with_reducible apply keeps_setChan
    | with_reducible apply Keeps.ite
    | with_reducible apply Keeps.foldl

theorem keeps_bounce {m₀ : Nat} {s₀ : State} {m : ChanMsg} {op code : Nat} (hM₀ : Sub 265 m₀) {s : State}
    (h₀ : Keeps m₀ s₀ s) : Keeps m₀ s₀ (bounce m op code s) := by
  unfold bounce
  try dsimp only
  repeat' first
    | with_reducible assumption
    | exact hM₀.le (by decide)
    | with_reducible apply keeps_addUngranted
    | with_reducible apply keeps_noteWriteErr
    | with_reducible apply keeps_putChan
    | with_reducible apply Keeps.ite

theorem keeps_receiveData {m₀ : Nat} {s₀ : State} {m : ChanMsg} {seq count : Nat} {poison : List Bool}
    {bytes : List Byte} {op : Nat} (hM₀ : Sub 1476395373 m₀) {s : State} (h₀ : Keeps m₀ s₀ s) : Keeps m₀ s₀
    (receiveData m seq count poison bytes op s) := by
  unfold receiveData
  try dsimp only
  repeat' first
    | with_reducible assumption
    | exact hM₀.le (by decide)
    | with_reducible apply keeps_bounce
    | with_reducible apply keeps_memWrite
    | with_reducible apply keeps_peerLocked
    | with_reducible apply keeps_putChan
    | with_reducible apply Keeps.ite

theorem keeps_receiveCredit {m₀ : Nat} {s₀ : State} {m : ChanMsg} (hM₀ : Sub 257 m₀) {s : State}
    (h₀ : Keeps m₀ s₀ s) : Keeps m₀ s₀ (receiveCredit m s) := by
  unfold receiveCredit
  try dsimp only
  repeat' first
    | with_reducible assumption
    | exact hM₀.le (by decide)
    | with_reducible apply keeps_addUngranted
    | with_reducible apply keeps_putChan
    | with_reducible apply keeps_setChan
    | with_reducible apply Keeps.ite

theorem keeps_receiveOpen {m₀ : Nat} {s₀ : State} {m : ChanMsg} (hM₀ : Sub 777 m₀) {s : State} (h₀ : Keeps m₀ s₀ s)
    : Keeps m₀ s₀ (receiveOpen m s) := by
  unfold receiveOpen
  try dsimp only
  repeat' first
    | with_reducible assumption
    | exact hM₀.le (by decide)
    | with_reducible apply keeps_answerOpen
    | with_reducible apply keeps_peerLocked
    | with_reducible apply keeps_setChan
    | with_reducible apply Keeps.ite

theorem keeps_settleOpen {m₀ : Nat} {s₀ : State} {t n : Nat} (hM₀ : Sub 1 m₀) {s : State} (h₀ : Keeps m₀ s₀ s) :
    Keeps m₀ s₀ (settleOpen t n s) := by
  unfold settleOpen
  try dsimp only
  repeat' first
    | with_reducible assumption
    | with_reducible apply keeps_setChanState
    | with_reducible apply Keeps.ite

theorem keeps_receiveGrant {m₀ : Nat} {s₀ : State} {m : ChanMsg} {recBytes recs slots : Nat} (hM₀ : Sub 257 m₀)
    {s : State} (h₀ : Keeps m₀ s₀ s) : Keeps m₀ s₀ (receiveGrant m recBytes recs slots s) := by
  unfold receiveGrant
  try dsimp only
  repeat' first
    | with_reducible assumption
    | exact hM₀.le (by decide)
    | with_reducible apply keeps_putChan
    | with_reducible apply keeps_settleOpen
    | with_reducible apply keeps_wrAt
    | with_reducible apply Keeps.ite

theorem keeps_receiveRefusal {m₀ : Nat} {s₀ : State} {m : ChanMsg} (hM₀ : Sub 257 m₀) {s : State}
    (h₀ : Keeps m₀ s₀ s) : Keeps m₀ s₀ (receiveRefusal m s) := by
  unfold receiveRefusal
  try dsimp only
  repeat' first
    | with_reducible assumption
    | exact hM₀.le (by decide)
    | with_reducible apply keeps_setChan
    | with_reducible apply keeps_settleOpen
    | with_reducible apply Keeps.ite

theorem keeps_receiveNotice {m₀ : Nat} {s₀ : State} {m : ChanMsg} {credits sent back : Nat} (hM₀ : Sub 257 m₀)
    {s : State} (h₀ : Keeps m₀ s₀ s) : Keeps m₀ s₀ (receiveNotice m credits sent back s) := by
  unfold receiveNotice
  try dsimp only
  repeat' first
    | with_reducible assumption
    | exact hM₀.le (by decide)
    | with_reducible apply keeps_setChan
    | with_reducible apply keeps_wrAt

theorem keeps_receiveChan {m₀ : Nat} {s₀ : State} {m : ChanMsg} (hM₀ : Sub 1476395885 m₀) {s : State}
    (h₀ : Keeps m₀ s₀ s) : Keeps m₀ s₀ (receiveChan m s) := by
  unfold receiveChan
  repeat' first
    | with_reducible assumption
    | exact hM₀.le (by decide)
    | with_reducible apply keeps_receiveCredit
    | with_reducible apply keeps_receiveData
    | with_reducible apply keeps_receiveGrant
    | with_reducible apply keeps_receiveNotice
    | with_reducible apply keeps_receiveOpen
    | with_reducible apply keeps_receiveRefusal
    | split

theorem keeps_deliverChan {m₀ : Nat} {s₀ : State} {k : ChanKind} {i : Nat} (hM₀ : Sub 1543505775 m₀) {s : State}
    (h₀ : Keeps m₀ s₀ s) : Keeps m₀ s₀ (deliverChan k i s) := by
  unfold deliverChan
  try dsimp only
  repeat' first
    | with_reducible assumption
    | exact hM₀.le (by decide)
    | with_reducible apply keeps_latchPage
    | with_reducible apply keeps_receiveChan
    | with_reducible apply keeps_startWake
    | with_reducible apply Keeps.ite
    | split
    | with_reducible apply Keeps.upd_chanq

theorem keeps_channelReopen {m₀ : Nat} {s₀ : State} {t n : Nat} (hM₀ : Sub 777 m₀) {s : State} (h₀ : Keeps m₀ s₀ s)
    : Keeps m₀ s₀ (channelReopen t n s) := by
  unfold channelReopen
  try dsimp only
  repeat' first
    | with_reducible assumption
    | with_reducible apply keeps_openChan
    | with_reducible apply Keeps.ite

/-! ### Machine/Hinge.lean -/

theorem keeps_noteOverflow {m₀ : Nat} {s₀ : State} {page : Nat} {o : ArrayOp} {t : Nat} {r : LaneSum}
    (hM₀ : Sub 1 m₀) {s : State} (h₀ : Keeps m₀ s₀ s) : Keeps m₀ s₀ (noteOverflow page o t r s) := by
  unfold noteOverflow
  try dsimp only
  repeat' first
    | with_reducible assumption
    | with_reducible apply keeps_bump
    | with_reducible apply keeps_wr
    | with_reducible apply Keeps.ite

theorem keeps_noteInvalidSum {m₀ : Nat} {s₀ : State} {page : Nat} {r : LaneSum} (hM₀ : Sub 1 m₀) {s : State}
    (h₀ : Keeps m₀ s₀ s) : Keeps m₀ s₀ (noteInvalidSum page r s) := by
  unfold noteInvalidSum
  repeat' first
    | with_reducible assumption
    | with_reducible apply keeps_bump
    | with_reducible apply keeps_wr
    | with_reducible apply Keeps.ite

theorem keeps_noteInvalid {m₀ : Nat} {s₀ : State} {page : Nat} {o : ArrayOp} {t : Nat} {r : LaneSum}
    (hM₀ : Sub 134217761 m₀) {s : State} (h₀ : Keeps m₀ s₀ s) : Keeps m₀ s₀ (noteInvalid page o t r s) := by
  unfold noteInvalid
  try dsimp only
  repeat' first
    | with_reducible assumption
    | exact hM₀.le (by decide)
    | with_reducible apply keeps_bump
    | with_reducible apply keeps_raiseBit
    | with_reducible apply keeps_wr
    | with_reducible apply Keeps.ite
    | split

theorem keeps_addVector {m₀ : Nat} {s₀ : State} {t : Nat} {o : ArrayOp} {cells : List (List Val)} {xs : List Val}
    {v : Nat} {poison : Bool} (hM₀ : Sub 134218017 m₀) {s : State} (h₀ : Keeps m₀ s₀ s) : Keeps m₀ s₀
    (addVector t o cells xs v poison s) := by
  unfold addVector
  try dsimp only
  repeat' first
    | with_reducible assumption
    | exact hM₀.le (by decide)
    | (intro)
    | with_reducible apply keeps_noteInvalid
    | with_reducible apply keeps_noteInvalidSum
    | with_reducible apply keeps_noteOverflow
    | with_reducible apply keeps_setTile
    | with_reducible apply Keeps.foldl

/-! ### Machine/Schedule.lean -/

theorem keeps_setSched {m₀ : Nat} {s₀ : State} {t v : Nat} (hM₀ : Sub 1 m₀) {s : State} (h₀ : Keeps m₀ s₀ s) :
    Keeps m₀ s₀ (setSched t v s) := by
  unfold setSched
  repeat' first
    | with_reducible assumption
    | with_reducible apply keeps_wr

theorem keeps_setWait {m₀ : Nat} {s₀ : State} {t : Nat} {ring : Bool} {why : Nat} (hM₀ : Sub 257 m₀) {s : State}
    (h₀ : Keeps m₀ s₀ s) : Keeps m₀ s₀ (setWait t ring why s) := by
  unfold setWait
  try dsimp only
  repeat' first
    | with_reducible assumption
    | exact hM₀.le (by decide)
    | with_reducible apply keeps_setTile
    | with_reducible apply keeps_wr

theorem keeps_clearWaits {m₀ : Nat} {s₀ : State} {t : Nat} (hM₀ : Sub 257 m₀) {s : State} (h₀ : Keeps m₀ s₀ s) :
    Keeps m₀ s₀ (clearWaits t s) := by
  unfold clearWaits
  repeat' first
    | with_reducible assumption
    | with_reducible apply keeps_setWait

theorem keeps_haltTile {m₀ : Nat} {s₀ : State} {t code tag : Nat} (hM₀ : Sub 134218145 m₀) {s : State}
    (h₀ : Keeps m₀ s₀ s) : Keeps m₀ s₀ (haltTile t code tag s) := by
  unfold haltTile
  try dsimp only
  repeat' first
    | with_reducible assumption
    | exact hM₀.le (by decide)
    | with_reducible apply keeps_clearWaits
    | with_reducible apply keeps_logErr
    | with_reducible apply keeps_raiseBit
    | with_reducible apply keeps_setSched
    | with_reducible apply keeps_setTile
    | with_reducible apply keeps_vetoStep
    | with_reducible apply keeps_wr
    | with_reducible apply Keeps.ite

theorem keeps_completeIns {m₀ : Nat} {s₀ : State} {t : Nat} {i : Issued} {code cycles : Nat}
    (hM₀ : Sub 1476395501 m₀) {s : State} (h₀ : Keeps m₀ s₀ s) : Keeps m₀ s₀ (completeIns t i code cycles s) := by
  unfold completeIns
  try dsimp only
  repeat' first
    | with_reducible assumption
    | exact hM₀.le (by decide)
    | with_reducible apply keeps_bump
    | with_reducible apply keeps_haltTile
    | with_reducible apply keeps_setTile
    | with_reducible apply keeps_wellWrite
    | with_reducible apply keeps_wr
    | with_reducible apply Keeps.ite

theorem keeps_fetchIns {m₀ : Nat} {s₀ : State} {t : Nat} {ring seg : Bool} {off idx : Nat} (hM₀ : Sub 1476396911 m₀)
    {t₀ : State} (h₀ : Keeps m₀ s₀ t₀) : Keeps m₀ s₀ (runM (fetchIns t ring seg off idx) t₀).2 := by
  unfold fetchIns
  try dsimp only
  repeat' first
    | with_reducible assumption
    | (intro)
    | with_reducible apply keeps_busRead
    | with_reducible apply Keeps.m_bind
    | with_reducible apply Keeps.m_pure

theorem keeps_mainHead {m₀ : Nat} {s₀ : State} {t : Nat} (hM₀ : Sub 1476396911 m₀) {t₀ : State}
    (h₀ : Keeps m₀ s₀ t₀) : Keeps m₀ s₀ (runM (mainHead t) t₀).2 := by
  unfold mainHead
  try dsimp only
  repeat' first
    | with_reducible assumption
    | (intro)
    | with_reducible apply keeps_fetchIns
    | with_reducible apply Keeps.m_get_bind
    | with_reducible apply Keeps.m_bind
    | with_reducible apply Keeps.m_pure
    | with_reducible apply Keeps.m_ite

theorem keeps_ringHead {m₀ : Nat} {s₀ : State} {t : Nat} (hM₀ : Sub 1476396911 m₀) {t₀ : State}
    (h₀ : Keeps m₀ s₀ t₀) : Keeps m₀ s₀ (runM (ringHead t) t₀).2 := by
  unfold ringHead
  try dsimp only
  repeat' first
    | with_reducible assumption
    | (intro)
    | with_reducible apply keeps_fetchIns
    | with_reducible apply Keeps.m_get_bind
    | with_reducible apply Keeps.m_bind
    | with_reducible apply Keeps.m_pure
    | with_reducible apply Keeps.m_ite

theorem keeps_advanceList {m₀ : Nat} {s₀ : State} {t : Nat} {h : Head} (hM₀ : Sub 257 m₀) {s : State}
    (h₀ : Keeps m₀ s₀ s) : Keeps m₀ s₀ (advanceList t h s) := by
  unfold advanceList
  try dsimp only
  repeat' first
    | with_reducible assumption
    | exact hM₀.le (by decide)
    | with_reducible apply keeps_bump
    | with_reducible apply keeps_setTile
    | with_reducible apply keeps_setWait
    | with_reducible apply keeps_wr
    | with_reducible apply Keeps.ite

theorem keeps_issueHead {m₀ : Nat} {s₀ : State} {t : Nat} {h : Head} {i : Issued} (hM₀ : Sub 257 m₀) {t₀ : State}
    (h₀ : Keeps m₀ s₀ t₀) : Keeps m₀ s₀ (runM (issueHead t h i) t₀).2 := by
  unfold issueHead
  try dsimp only
  repeat' first
    | with_reducible assumption
    | exact hM₀.le (by decide)
    | with_reducible apply keeps_advanceList
    | with_reducible apply keeps_setTile
    | with_reducible apply Keeps.m_modify

theorem keeps_settleHead {m₀ : Nat} {s₀ : State} {t : Nat} {h : Head} {tag code : Nat} (hM₀ : Sub 1476395501 m₀)
    {t₀ : State} (h₀ : Keeps m₀ s₀ t₀) : Keeps m₀ s₀ (runM (settleHead t h tag code) t₀).2 := by
  unfold settleHead
  try dsimp only
  repeat' first
    | with_reducible assumption
    | exact hM₀.le (by decide)
    | (intro)
    | with_reducible apply keeps_completeIns
    | with_reducible apply keeps_issueHead
    | with_reducible apply Keeps.m_get_bind
    | with_reducible apply Keeps.m_bind
    | with_reducible apply Keeps.m_modify

theorem keeps_refuseSome {m₀ : Nat} {s₀ : State} {c : Option Nat} {t₀ : State} (h₀ : Keeps m₀ s₀ t₀) : Keeps m₀ s₀
    (runM (refuseSome c) t₀).2 := by
  unfold refuseSome
  repeat' first
    | with_reducible assumption
    | with_reducible apply Keeps.m_pure
    | with_reducible apply Keeps.m_failWith
    | split

theorem keeps_sendSlots {m₀ : Nat} {s₀ : State} {t n slots : Nat} {t₀ : State} (h₀ : Keeps m₀ s₀ t₀) : Keeps m₀ s₀
    (runM (sendSlots t n slots) t₀).2 := by
  unfold sendSlots
  try dsimp only
  repeat' first
    | with_reducible assumption
    | (intro)
    | with_reducible apply Keeps.m_get_bind
    | with_reducible apply Keeps.m_throw_bind
    | with_reducible apply Keeps.m_bind
    | with_reducible apply Keeps.m_ite
    | with_reducible apply Keeps.m_refuseIf

theorem keeps_takeCredits {m₀ : Nat} {s₀ : State} {t n slots : Nat} (hM₀ : Sub 256 m₀) {t₀ : State}
    (h₀ : Keeps m₀ s₀ t₀) : Keeps m₀ s₀ (runM (takeCredits t n slots) t₀).2 := by
  unfold takeCredits
  try dsimp only
  repeat' first
    | with_reducible assumption
    | with_reducible apply keeps_setChan
    | with_reducible apply Keeps.m_get_bind
    | with_reducible apply Keeps.m_throw
    | with_reducible apply Keeps.m_set
    | with_reducible apply Keeps.m_ite

theorem keeps_needBound {m₀ : Nat} {s₀ : State} {t : Nat} {h : Head} {t₀ : State} (h₀ : Keeps m₀ s₀ t₀) :
    Keeps m₀ s₀ (runM (needBound t h) t₀).2 := by
  unfold needBound
  repeat' first
    | with_reducible assumption
    | with_reducible apply Keeps.m_get_bind
    | with_reducible apply Keeps.m_pure
    | with_reducible apply Keeps.m_throw
    | with_reducible apply Keeps.m_ite

theorem keeps_readDesc {m₀ : Nat} {s₀ : State} {t : Nat} {h : Head} {off n : Nat} (hM₀ : Sub 1476396911 m₀)
    {t₀ : State} (h₀ : Keeps m₀ s₀ t₀) : Keeps m₀ s₀ (runM (readDesc t h off n) t₀).2 := by
  unfold readDesc
  repeat' first
    | with_reducible assumption
    | (intro)
    | with_reducible apply keeps_winRead
    | with_reducible apply Keeps.m_get_bind
    | with_reducible apply Keeps.m_bind
    | with_reducible apply Keeps.m_pure

theorem keeps_checkWindows {m₀ : Nat} {s₀ : State} {t : Nat} {h : Head} {reads writes : List (Nat × Nat)}
    {t₀ : State} (h₀ : Keeps m₀ s₀ t₀) : Keeps m₀ s₀ (runM (checkWindows t h reads writes) t₀).2 := by
  unfold checkWindows
  repeat' first
    | with_reducible assumption
    | with_reducible apply keeps_refuseSome
    | with_reducible apply Keeps.m_get_bind

theorem keeps_countStall {m₀ : Nat} {s₀ : State} {t why : Nat} {ring : Bool} (hM₀ : Sub 1 m₀) {s : State}
    (h₀ : Keeps m₀ s₀ s) : Keeps m₀ s₀ (countStall t why ring s) := by
  unfold countStall
  repeat' first
    | with_reducible assumption
    | with_reducible apply keeps_bump
    | with_reducible apply Keeps.ite

theorem keeps_tileWork {m₀ : Nat} {s₀ : State} {t : Nat} {m : M Unit} (hM₀ : Sub 201326617 m₀)
    (h_m : ∀ {t : State}, Keeps m₀ s₀ t → Keeps m₀ s₀ (runM (m) t).2) {s : State} (h₀ : Keeps m₀ s₀ s) : Keeps m₀ s₀
    (tileWork t m s) := by
  unfold tileWork
  repeat' first
    | with_reducible assumption
    | exact hM₀.le (by decide)
    | with_reducible apply h_m
    | with_reducible apply keeps_countStall
    | with_reducible apply keeps_forgetArrived
    | with_reducible apply keeps_issueAsk
    | with_reducible apply keeps_startWake
    | (with_reducible refine Keeps.of_pair (by assumption) ?_)
    | split

theorem keeps_headWork {m₀ : Nat} {s₀ : State} {t : Nat} {ring : Bool} {m : M Unit} (hM₀ : Sub 201326873 m₀)
    (h_m : ∀ {t : State}, Keeps m₀ s₀ t → Keeps m₀ s₀ (runM (m) t).2) {s : State} (h₀ : Keeps m₀ s₀ s) : Keeps m₀ s₀
    (headWork t ring m s) := by
  unfold headWork
  repeat' first
    | with_reducible assumption
    | exact hM₀.le (by decide)
    | with_reducible apply h_m
    | with_reducible apply keeps_countStall
    | with_reducible apply keeps_forgetArrived
    | with_reducible apply keeps_issueAsk
    | with_reducible apply keeps_setWait
    | with_reducible apply keeps_startWake
    | (with_reducible refine Keeps.of_pair (by assumption) ?_)
    | split

/-! ### Machine/Tail.lean -/

theorem keeps_catchCode {m₀ : Nat} {s₀ : State} {α : Type} {m : M α}
    (h_m : ∀ {t : State}, Keeps m₀ s₀ t → Keeps m₀ s₀ (runM (m) t).2) {t₀ : State} (h₀ : Keeps m₀ s₀ t₀) :
    Keeps m₀ s₀ (runM (catchCode m) t₀).2 := by
  unfold catchCode
  repeat' first
    | with_reducible assumption
    | (intro)
    | with_reducible apply h_m
    | with_reducible apply Keeps.m_bind
    | with_reducible apply Keeps.m_pure
    | with_reducible apply Keeps.m_throw
    | with_reducible apply Keeps.m_tryCatch
    | split

theorem keeps_readUntil {m₀ : Nat} {s₀ : State} {α β : Type} {f : α → M β}
    (h_f : ∀ (a₀ : α) {t : State}, Keeps m₀ s₀ t → Keeps m₀ s₀ (runM (f a₀) t).2) :
    ∀ (x0 : List α) (t₀ : State), Keeps m₀ s₀ t₀ → Keeps m₀ s₀ (runM (readUntil f x0) t₀).2
  | [], t₀, h₀ => by
    unfold readUntil
    try dsimp only
    repeat' first
      | with_reducible assumption
      | (intro)
      | with_reducible apply h_f
      | (with_reducible apply keeps_readUntil)
      | with_reducible apply keeps_catchCode
      | with_reducible apply Keeps.m_bind
      | with_reducible apply Keeps.m_pure
      | split
  | a :: as, t₀, h₀ => by
    unfold readUntil
    try dsimp only
    repeat' first
      | with_reducible assumption
      | (intro)
      | with_reducible apply h_f
      | (with_reducible apply keeps_readUntil)
      | with_reducible apply keeps_catchCode
      | with_reducible apply Keeps.m_bind
      | with_reducible apply Keeps.m_pure
      | split

theorem keeps_readVec {m₀ : Nat} {s₀ : State} {w : Who} {h : Nat} {f : FormatWord} {coarse n : Nat}
    {at_ : Nat × Nat} (hM₀ : Sub 1476396911 m₀) {t₀ : State} (h₀ : Keeps m₀ s₀ t₀) : Keeps m₀ s₀
    (runM (readVec w h f coarse n at_) t₀).2 := by
  unfold readVec
  repeat' first
    | with_reducible assumption
    | (intro)
    | with_reducible apply keeps_readVecWith
    | with_reducible apply keeps_winRead
    | with_reducible apply Keeps.m_bind
    | with_reducible apply Keeps.m_pure

theorem keeps_readF32s {m₀ : Nat} {s₀ : State} {w : Who} {h a n : Nat} (hM₀ : Sub 1476396911 m₀) {t₀ : State}
    (h₀ : Keeps m₀ s₀ t₀) : Keeps m₀ s₀ (runM (readF32s w h a n) t₀).2 := by
  unfold readF32s
  repeat' first
    | with_reducible assumption
    | (intro)
    | with_reducible apply keeps_winRead
    | with_reducible apply Keeps.m_bind
    | with_reducible apply Keeps.m_pure

theorem keeps_tailSource {m₀ : Nat} {s₀ : State} {t : Nat} {e : EpiOp} {x : TailDesc} (hM₀ : Sub 1476396911 m₀)
    {t₀ : State} (h₀ : Keeps m₀ s₀ t₀) : Keeps m₀ s₀ (runM (tailSource t e x) t₀).2 := by
  unfold tailSource
  try dsimp only
  repeat' first
    | with_reducible assumption
    | (intro)
    | with_reducible apply keeps_readUntil
    | with_reducible apply keeps_readVec
    | with_reducible apply Keeps.m_get_bind
    | with_reducible apply Keeps.m_pure
    | split

theorem keeps_normOuts {m₀ : Nat} {s₀ : State} {t : Nat} {e : EpiOp} {x : TailDesc} {vs : List Vec} {rc : Nat}
    (hM₀ : Sub 1476396911 m₀) {t₀ : State} (h₀ : Keeps m₀ s₀ t₀) : Keeps m₀ s₀ (runM (normOuts t e x vs rc) t₀).2 :=
    by
  unfold normOuts
  try dsimp only
  repeat' first
    | with_reducible assumption
    | (intro)
    | with_reducible apply keeps_catchCode
    | with_reducible apply keeps_readF32s
    | with_reducible apply keeps_readUntil
    | with_reducible apply Keeps.m_bind
    | with_reducible apply Keeps.m_pure
    | with_reducible apply Keeps.m_ite
    | split

theorem keeps_poolOuts {m₀ : Nat} {s₀ : State} {t : Nat} {e : EpiOp} {x : TailDesc} (hM₀ : Sub 1476396911 m₀)
    {t₀ : State} (h₀ : Keeps m₀ s₀ t₀) : Keeps m₀ s₀ (runM (poolOuts t e x) t₀).2 := by
  unfold poolOuts
  try dsimp only
  repeat' first
    | with_reducible assumption
    | (intro)
    | with_reducible apply keeps_catchCode
    | with_reducible apply keeps_readUntil
    | with_reducible apply keeps_winRead
    | with_reducible apply Keeps.m_bind
    | with_reducible apply Keeps.m_pure
    | with_reducible apply Keeps.m_refuseIf
    | split

theorem keeps_plainOuts {m₀ : Nat} {s₀ : State} {t : Nat} {e : EpiOp} {x : TailDesc} {vs : List Vec} {rc : Nat}
    (hM₀ : Sub 1476396911 m₀) {t₀ : State} (h₀ : Keeps m₀ s₀ t₀) : Keeps m₀ s₀ (runM (plainOuts t e x vs rc) t₀).2
    := by
  unfold plainOuts
  try dsimp only
  repeat' first
    | with_reducible assumption
    | (intro)
    | with_reducible apply keeps_catchCode
    | with_reducible apply keeps_readF32s
    | with_reducible apply keeps_readUntil
    | with_reducible apply keeps_readVec
    | with_reducible apply Keeps.m_bind
    | with_reducible apply Keeps.m_pure
    | split

theorem keeps_addTailNonfinite {m₀ : Nat} {s₀ : State} {t pass n : Nat} (hM₀ : Sub 2049 m₀) {s : State}
    (h₀ : Keeps m₀ s₀ s) : Keeps m₀ s₀ (addTailNonfinite t pass n s) := by
  unfold addTailNonfinite
  try dsimp only
  repeat' first
    | with_reducible assumption
    | exact hM₀.le (by decide)
    | with_reducible apply keeps_bump
    | with_reducible apply Keeps.upd_mon

theorem keeps_tailOuts {m₀ : Nat} {s₀ : State} {t : Nat} {e : EpiOp} {x : TailDesc} (hM₀ : Sub 1476398959 m₀)
    {t₀ : State} (h₀ : Keeps m₀ s₀ t₀) : Keeps m₀ s₀ (runM (tailOuts t e x) t₀).2 := by
  unfold tailOuts
  try dsimp only
  repeat' first
    | with_reducible assumption
    | exact hM₀.le (by decide)
    | (intro)
    | with_reducible apply keeps_addTailNonfinite
    | with_reducible apply keeps_normOuts
    | with_reducible apply keeps_plainOuts
    | with_reducible apply keeps_poolOuts
    | with_reducible apply keeps_tailSource
    | with_reducible apply Keeps.m_modify_bind
    | with_reducible apply Keeps.m_bind
    | with_reducible apply Keeps.m_ite

theorem keeps_writeOn {m₀ : Nat} {s₀ : State} {w : Who} {m : M Unit} (hM₀ : Sub 8 m₀)
    (h_m : ∀ {t : State}, Keeps m₀ s₀ t → Keeps m₀ s₀ (runM (m) t).2) {t₀ : State} (h₀ : Keeps m₀ s₀ t₀) :
    Keeps m₀ s₀ (runM (writeOn w m) t₀).2 := by
  unfold writeOn
  repeat' first
    | with_reducible assumption
    | (intro)
    | with_reducible apply keeps_codeOf
    | with_reducible apply keeps_noted
    | with_reducible apply Keeps.m_bind
    | with_reducible apply Keeps.m_pure
    | with_reducible apply Keeps.m_failWith
    | with_reducible apply Keeps.m_ite

theorem keeps_writeOuts {m₀ : Nat} {s₀ : State} {t : Nat} {e : EpiOp} {x : TailDesc} {rnd : Nat → Nat}
    (hM₀ : Sub 1543507839 m₀) :
    ∀ (x0 : List TailOut) (x1 : Nat) (t₀ : State), Keeps m₀ s₀ t₀ → Keeps m₀ s₀
    (runM (writeOuts t e x rnd x0 x1) t₀).2
  | [], _, t₀, h₀ => by
    unfold writeOuts
    try dsimp only
    repeat' first
      | with_reducible assumption
      | exact hM₀.le (by decide)
      | (intro)
      | (with_reducible apply keeps_writeOuts hM₀)
      | with_reducible apply keeps_addTailNonfinite
      | with_reducible apply keeps_busWrite
      | with_reducible apply keeps_writeOn
      | with_reducible apply keeps_writeVec
      | with_reducible apply Keeps.m_modify_bind
      | with_reducible apply Keeps.m_bind
      | with_reducible apply Keeps.m_pure
      | with_reducible apply Keeps.m_ite
  | .raw a bs p :: os, v, t₀, h₀ => by
    unfold writeOuts
    try dsimp only
    repeat' first
      | with_reducible assumption
      | exact hM₀.le (by decide)
      | (intro)
      | (with_reducible apply keeps_writeOuts hM₀)
      | with_reducible apply keeps_addTailNonfinite
      | with_reducible apply keeps_busWrite
      | with_reducible apply keeps_writeOn
      | with_reducible apply keeps_writeVec
      | with_reducible apply Keeps.m_modify_bind
      | with_reducible apply Keeps.m_bind
      | with_reducible apply Keeps.m_pure
      | with_reducible apply Keeps.m_ite
  | .vec (ys, p) :: os, v, t₀, h₀ => by
    unfold writeOuts
    try dsimp only
    repeat' first
      | with_reducible assumption
      | exact hM₀.le (by decide)
      | (intro)
      | (with_reducible apply keeps_writeOuts hM₀)
      | with_reducible apply keeps_addTailNonfinite
      | with_reducible apply keeps_busWrite
      | with_reducible apply keeps_writeOn
      | with_reducible apply keeps_writeVec
      | with_reducible apply Keeps.m_modify_bind
      | with_reducible apply Keeps.m_bind
      | with_reducible apply Keeps.m_pure
      | with_reducible apply Keeps.m_ite

theorem keeps_updateVec {m₀ : Nat} {s₀ : State} {t : Nat} {e : EpiOp} {x : TailDesc} {p : List Byte}
    {rnd : Nat → Nat} {rs ws v : Nat} {g : Vec} (hM₀ : Sub 1543507839 m₀) {t₀ : State} (h₀ : Keeps m₀ s₀ t₀) :
    Keeps m₀ s₀ (runM (updateVec t e x p rnd rs ws v g) t₀).2 := by
  unfold updateVec
  try dsimp only
  repeat' first
    | with_reducible assumption
    | exact hM₀.le (by decide)
    | (intro)
    | with_reducible apply keeps_addTailNonfinite
    | with_reducible apply keeps_busRead
    | with_reducible apply keeps_busWrite
    | with_reducible apply keeps_readUntil
    | with_reducible apply Keeps.m_get_bind
    | with_reducible apply Keeps.m_modify_bind
    | with_reducible apply Keeps.m_failWith_bind
    | with_reducible apply Keeps.m_bind
    | with_reducible apply Keeps.m_pure
    | with_reducible apply Keeps.m_ite

theorem keeps_updateVecs {m₀ : Nat} {s₀ : State} {t : Nat} {e : EpiOp} {x : TailDesc} {p : List Byte}
    {rnd : Nat → Nat} {rs ws : Nat} (hM₀ : Sub 1543507839 m₀) :
    ∀ (x0 : List Vec) (x1 : Nat) (t₀ : State), Keeps m₀ s₀ t₀ → Keeps m₀ s₀
    (runM (updateVecs t e x p rnd rs ws x0 x1) t₀).2
  | [], _, t₀, h₀ => by
    unfold updateVecs
    try dsimp only
    repeat' first
      | with_reducible assumption
      | exact hM₀.le (by decide)
      | (intro)
      | (with_reducible apply keeps_updateVecs hM₀)
      | with_reducible apply keeps_addTailNonfinite
      | with_reducible apply keeps_catchCode
      | with_reducible apply keeps_noted
      | with_reducible apply keeps_updateVec
      | with_reducible apply keeps_writeOn
      | with_reducible apply keeps_writeVec
      | with_reducible apply Keeps.m_get_bind
      | with_reducible apply Keeps.m_modify_bind
      | with_reducible apply Keeps.m_bind
      | with_reducible apply Keeps.m_pure
      | with_reducible apply Keeps.m_failWith
      | with_reducible apply Keeps.m_ite
      | split
  | g :: gs, v, t₀, h₀ => by
    unfold updateVecs
    try dsimp only
    repeat' first
      | with_reducible assumption
      | exact hM₀.le (by decide)
      | (intro)
      | (with_reducible apply keeps_updateVecs hM₀)
      | with_reducible apply keeps_addTailNonfinite
      | with_reducible apply keeps_catchCode
      | with_reducible apply keeps_noted
      | with_reducible apply keeps_updateVec
      | with_reducible apply keeps_writeOn
      | with_reducible apply keeps_writeVec
      | with_reducible apply Keeps.m_get_bind
      | with_reducible apply Keeps.m_modify_bind
      | with_reducible apply Keeps.m_bind
      | with_reducible apply Keeps.m_pure
      | with_reducible apply Keeps.m_failWith
      | with_reducible apply Keeps.m_ite
      | split

theorem keeps_runUpdate {m₀ : Nat} {s₀ : State} {t : Nat} {e : EpiOp} {x : TailDesc} {rnd : Nat → Nat}
    (hM₀ : Sub 1543507839 m₀) {t₀ : State} (h₀ : Keeps m₀ s₀ t₀) : Keeps m₀ s₀ (runM (runUpdate t e x rnd) t₀).2 := by
  unfold runUpdate
  try dsimp only
  repeat' first
    | with_reducible assumption
    | exact hM₀.le (by decide)
    | (intro)
    | with_reducible apply keeps_catchCode
    | with_reducible apply keeps_tailSource
    | with_reducible apply keeps_updateVecs
    | with_reducible apply keeps_winRead
    | with_reducible apply Keeps.m_get_bind
    | with_reducible apply Keeps.m_bind
    | with_reducible apply Keeps.m_pure
    | split

/-! ### Machine/Spare.lean -/

theorem keeps_onAwake {m₀ : Nat} {s₀ : State} {page off v : Nat} {f : State → State} (hM₀ : Sub 67108873 m₀)
    (h_f : ∀ {t : State}, Keeps m₀ s₀ t → Keeps m₀ s₀ (f t)) {s : State} (h₀ : Keeps m₀ s₀ s) : Keeps m₀ s₀
    (onAwake page off v f s) := by
  unfold onAwake
  repeat' first
    | with_reducible assumption
    | with_reducible apply h_f
    | with_reducible apply keeps_writeWhenAwake
    | with_reducible apply Keeps.ite
    | split

theorem keeps_haWr {m₀ : Nat} {s₀ : State} {page a : Nat} {f g : Field} {v : Nat} (hM₀ : Sub 1 m₀) {s : State}
    (h₀ : Keeps m₀ s₀ s) : Keeps m₀ s₀ (haWr page a f g v s) := by
  unfold haWr
  repeat' first
    | with_reducible assumption
    | with_reducible apply keeps_wr
    | with_reducible apply keeps_wrAt
    | with_reducible apply Keeps.ite

theorem keeps_setPending {m₀ : Nat} {s₀ : State} {page a v : Nat} (hM₀ : Sub 1 m₀) {s : State} (h₀ : Keeps m₀ s₀ s)
    : Keeps m₀ s₀ (setPending page a v s) := by
  unfold setPending
  repeat' first
    | with_reducible assumption
    | with_reducible apply keeps_haWr

theorem keeps_setBankValid {m₀ : Nat} {s₀ : State} {page a v : Nat} (hM₀ : Sub 1 m₀) {s : State}
    (h₀ : Keeps m₀ s₀ s) : Keeps m₀ s₀ (setBankValid page a v s) := by
  unfold setBankValid
  repeat' first
    | with_reducible assumption
    | with_reducible apply keeps_haWr

theorem keeps_haSpareWrite {m₀ : Nat} {s₀ : State} {page a : Nat} {req col : Nat} (hM₀ : Sub 1 m₀) {s : State}
    (h₀ : Keeps m₀ s₀ s) : Keeps m₀ s₀ (haSpareWrite page a req col s) := by
  unfold haSpareWrite
  try dsimp only
  repeat' first
    | with_reducible assumption
    | with_reducible apply keeps_haWr
    | with_reducible apply keeps_setPending
    | with_reducible apply Keeps.ite

theorem keeps_applySpare {m₀ : Nat} {s₀ : State} {page a : Nat} (hM₀ : Sub 65 m₀) {s : State} (h₀ : Keeps m₀ s₀ s) :
    Keeps m₀ s₀ (applySpare page a s) := by
  unfold applySpare
  try dsimp only
  repeat' first
    | with_reducible assumption
    | exact hM₀.le (by decide)
    | with_reducible apply keeps_haWr
    | with_reducible apply keeps_journal
    | with_reducible apply keeps_lifeSet
    | with_reducible apply keeps_setBankValid
    | with_reducible apply keeps_setPending
    | with_reducible apply Keeps.ite

theorem keeps_spareMapApply {m₀ : Nat} {s₀ : State} {page a : Nat} (hM₀ : Sub 65 m₀) {s : State}
    (h₀ : Keeps m₀ s₀ s) : Keeps m₀ s₀ (spareMapApply page a s) := by
  unfold spareMapApply
  repeat' first
    | with_reducible assumption
    | with_reducible apply keeps_applySpare
    | with_reducible apply Keeps.ite

theorem keeps_noteFault {m₀ : Nat} {s₀ : State} {page a : Nat} {cols : List Nat} {beyond : Bool}
    (hM₀ : Sub 8388673 m₀) {s : State} (h₀ : Keeps m₀ s₀ s) : Keeps m₀ s₀ (noteFault page a cols beyond s) := by
  unfold noteFault
  try dsimp only
  repeat' first
    | with_reducible assumption
    | exact hM₀.le (by decide)
    | with_reducible apply keeps_haWr
    | with_reducible apply keeps_lifeAdd
    | with_reducible apply Keeps.ite
    | split
    | with_reducible apply Keeps.upd_faulty

theorem keeps_testStart {m₀ : Nat} {s₀ : State} {page a v : Nat} (hM₀ : Sub 1 m₀) {s : State} (h₀ : Keeps m₀ s₀ s) :
    Keeps m₀ s₀ (testStart page a v s) := by
  unfold testStart
  repeat' first
    | with_reducible assumption
    | with_reducible apply keeps_haWr

theorem keeps_testDone {m₀ : Nat} {s₀ : State} {page a v : Nat} (hM₀ : Sub 1 m₀) {s : State} (h₀ : Keeps m₀ s₀ s) :
    Keeps m₀ s₀ (testDone page a v s) := by
  unfold testDone
  repeat' first
    | with_reducible assumption
    | with_reducible apply keeps_haWr

theorem keeps_testPass {m₀ : Nat} {s₀ : State} {page a v : Nat} (hM₀ : Sub 1 m₀) {s : State} (h₀ : Keeps m₀ s₀ s) :
    Keeps m₀ s₀ (testPass page a v s) := by
  unfold testPass
  repeat' first
    | with_reducible assumption
    | with_reducible apply keeps_haWr

theorem keeps_haTestStart {m₀ : Nat} {s₀ : State} {page a : Nat} (hM₀ : Sub 134217761 m₀) {s : State}
    (h₀ : Keeps m₀ s₀ s) : Keeps m₀ s₀ (haTestStart page a s) := by
  unfold haTestStart
  repeat' first
    | with_reducible assumption
    | exact hM₀.le (by decide)
    | with_reducible apply keeps_logErr
    | with_reducible apply keeps_testDone
    | with_reducible apply keeps_testPass
    | with_reducible apply keeps_testStart
    | with_reducible apply Keeps.ite

theorem keeps_haSelfTestDone {m₀ : Nat} {s₀ : State} {page a : Nat} {cols : List Nat} {beyond : Bool}
    (hM₀ : Sub 8388673 m₀) {s : State} (h₀ : Keeps m₀ s₀ s) : Keeps m₀ s₀ (haSelfTestDone page a cols beyond s) := by
  unfold haSelfTestDone
  try dsimp only
  repeat' first
    | with_reducible assumption
    | exact hM₀.le (by decide)
    | with_reducible apply keeps_haWr
    | with_reducible apply keeps_noteFault
    | with_reducible apply keeps_testDone
    | with_reducible apply keeps_testPass
    | with_reducible apply keeps_testStart
    | with_reducible apply Keeps.ite
    | with_reducible apply Keeps.upd_faulty

theorem keeps_abandonTest {m₀ : Nat} {s₀ : State} {page a : Nat} (hM₀ : Sub 1 m₀) {s : State} (h₀ : Keeps m₀ s₀ s) :
    Keeps m₀ s₀ (abandonTest page a s) := by
  unfold abandonTest
  repeat' first
    | with_reducible assumption
    | with_reducible apply keeps_testDone
    | with_reducible apply keeps_testPass
    | with_reducible apply keeps_testStart
    | with_reducible apply Keeps.ite

/-! ### Machine/Boundary.lean -/

theorem keeps_modTile {m₀ : Nat} {s₀ : State} {t : Nat} {f : Tile → Tile} (hM₀ : Sub 256 m₀) {t₀ : State}
    (h₀ : Keeps m₀ s₀ t₀) : Keeps m₀ s₀ (runM (modTile t f) t₀).2 := by
  unfold modTile
  repeat' first
    | with_reducible assumption
    | with_reducible apply keeps_setTile
    | with_reducible apply Keeps.m_modify

theorem keeps_clearSched {m₀ : Nat} {s₀ : State} {t : Nat} (hM₀ : Sub 385 m₀) {s : State} (h₀ : Keeps m₀ s₀ s) :
    Keeps m₀ s₀ (clearSched t s) := by
  unfold clearSched
  try dsimp only
  repeat' first
    | with_reducible assumption
    | exact hM₀.le (by decide)
    | with_reducible apply keeps_clearWaits
    | with_reducible apply keeps_setSched
    | with_reducible apply keeps_setTile
    | with_reducible apply keeps_wr
    | with_reducible apply Keeps.upd_gen

theorem keeps_readHeader {m₀ : Nat} {s₀ : State} {t : Nat} (hM₀ : Sub 1476396911 m₀) {t₀ : State}
    (h₀ : Keeps m₀ s₀ t₀) : Keeps m₀ s₀ (runM (readHeader t) t₀).2 := by
  unfold readHeader
  try dsimp only
  repeat' first
    | with_reducible assumption
    | (intro)
    | with_reducible apply keeps_busRead
    | with_reducible apply Keeps.m_bind
    | with_reducible apply Keeps.m_pure
    | with_reducible apply Keeps.m_gets
    | with_reducible apply Keeps.m_refuseIf

theorem keeps_startSched {m₀ : Nat} {s₀ : State} {t : Nat} (hM₀ : Sub 1476397039 m₀) {t₀ : State}
    (h₀ : Keeps m₀ s₀ t₀) : Keeps m₀ s₀ (runM (startSched t) t₀).2 := by
  unfold startSched
  try dsimp only
  repeat' first
    | with_reducible assumption
    | exact hM₀.le (by decide)
    | (intro)
    | with_reducible apply keeps_catchCode
    | with_reducible apply keeps_clearSched
    | with_reducible apply keeps_haltTile
    | with_reducible apply keeps_modTile
    | with_reducible apply keeps_openEntry
    | with_reducible apply keeps_readHeader
    | with_reducible apply keeps_wr
    | with_reducible apply Keeps.m_modify_bind
    | with_reducible apply Keeps.m_bind
    | with_reducible apply Keeps.m_modify
    | with_reducible apply Keeps.foldl
    | split

theorem keeps_toBoundary {m₀ : Nat} {s₀ : State} {t : Nat} (hM₀ : Sub 385 m₀) {s : State} (h₀ : Keeps m₀ s₀ s) :
    Keeps m₀ s₀ (toBoundary t s) := by
  unfold toBoundary
  try dsimp only
  repeat' first
    | with_reducible assumption
    | exact hM₀.le (by decide)
    | with_reducible apply keeps_bump
    | with_reducible apply keeps_finishStep
    | with_reducible apply keeps_setSched
    | with_reducible apply keeps_setTile
    | with_reducible apply keeps_wr

theorem keeps_reachBoundary {m₀ : Nat} {s₀ : State} {t : Nat} (hM₀ : Sub 1476397039 m₀) {t₀ : State}
    (h₀ : Keeps m₀ s₀ t₀) : Keeps m₀ s₀ (runM (reachBoundary t) t₀).2 := by
  unfold reachBoundary
  try dsimp only
  repeat' first
    | with_reducible assumption
    | exact hM₀.le (by decide)
    | (intro)
    | with_reducible apply keeps_applySpare
    | with_reducible apply keeps_setSched
    | with_reducible apply keeps_setTile
    | with_reducible apply keeps_startSched
    | with_reducible apply keeps_toBoundary
    | with_reducible apply keeps_wr
    | with_reducible apply Keeps.m_modify_bind
    | with_reducible apply Keeps.m_bind
    | with_reducible apply Keeps.m_pure
    | with_reducible apply Keeps.m_modify
    | with_reducible apply Keeps.m_ite
    | with_reducible apply Keeps.m_gets

theorem keeps_passBegin {m₀ : Nat} {s₀ : State} {t : Nat} (hM₀ : Sub 385 m₀) {s : State} (h₀ : Keeps m₀ s₀ s) :
    Keeps m₀ s₀ (passBegin t s) := by
  unfold passBegin
  try dsimp only
  repeat' first
    | with_reducible assumption
    | exact hM₀.le (by decide)
    | with_reducible apply keeps_joinStep
    | with_reducible apply keeps_setSched
    | with_reducible apply keeps_setTile
    | with_reducible apply keeps_wr
    | with_reducible apply Keeps.ite
    | split

theorem keeps_schedStart {m₀ : Nat} {s₀ : State} {t : Nat} (hM₀ : Sub 1543505919 m₀) {s : State}
    (h₀ : Keeps m₀ s₀ s) : Keeps m₀ s₀ (schedStart t s) := by
  unfold schedStart
  try dsimp only
  repeat' first
    | with_reducible assumption
    | exact hM₀.le (by decide)
    | (intro)
    | with_reducible apply keeps_setTile
    | with_reducible apply keeps_startSched
    | with_reducible apply keeps_tileWork
    | with_reducible apply keeps_wr
    | with_reducible apply keeps_writeWhenAwake
    | with_reducible apply Keeps.ite

theorem keeps_schedStop {m₀ : Nat} {s₀ : State} {t : Nat} (hM₀ : Sub 67109129 m₀) {s : State} (h₀ : Keeps m₀ s₀ s) :
    Keeps m₀ s₀ (schedStop t s) := by
  unfold schedStop
  try dsimp only
  repeat' first
    | with_reducible assumption
    | exact hM₀.le (by decide)
    | with_reducible apply keeps_setSched
    | with_reducible apply keeps_setTile
    | with_reducible apply keeps_wr
    | with_reducible apply keeps_writeWhenAwake
    | with_reducible apply Keeps.ite

/-! ### Machine/Issue.lean -/

theorem keeps_listChecksM {m₀ : Nat} {s₀ : State} {t : Nat} {h : Head} {t₀ : State} (h₀ : Keeps m₀ s₀ t₀) :
    Keeps m₀ s₀ (runM (listChecksM t h) t₀).2 := by
  unfold listChecksM
  repeat' first
    | with_reducible assumption
    | with_reducible apply keeps_refuseSome
    | with_reducible apply Keeps.m_get_bind

theorem keeps_chanCheckM {m₀ : Nat} {s₀ : State} {t n : Nat} {send : Bool} {t₀ : State} (h₀ : Keeps m₀ s₀ t₀) :
    Keeps m₀ s₀ (runM (chanCheckM t n send) t₀).2 := by
  unfold chanCheckM
  repeat' first
    | with_reducible assumption
    | with_reducible apply keeps_refuseSome
    | with_reducible apply Keeps.m_get_bind

theorem keeps_recordCheckM {m₀ : Nat} {s₀ : State} {t n rb : Nat} {t₀ : State} (h₀ : Keeps m₀ s₀ t₀) : Keeps m₀ s₀
    (runM (recordCheckM t n rb) t₀).2 := by
  unfold recordCheckM
  repeat' first
    | with_reducible assumption
    | with_reducible apply keeps_refuseSome
    | with_reducible apply Keeps.m_get_bind

theorem keeps_readHead {m₀ : Nat} {s₀ : State} {t : Nat} {h : Head} {n : Nat} (hM₀ : Sub 1476396911 m₀) {t₀ : State}
    (h₀ : Keeps m₀ s₀ t₀) : Keeps m₀ s₀ (runM (readHead t h n) t₀).2 := by
  unfold readHead
  repeat' first
    | with_reducible assumption
    | with_reducible apply keeps_readDesc
    | with_reducible apply Keeps.m_pure
    | with_reducible apply Keeps.m_ite

theorem keeps_headChecks {m₀ : Nat} {s₀ : State} {t : Nat} {h : Head} {n : Nat} {set : Option Nat} {t₀ : State}
    (h₀ : Keeps m₀ s₀ t₀) : Keeps m₀ s₀ (runM (headChecks t h n set) t₀).2 := by
  unfold headChecks
  repeat' first
    | with_reducible assumption
    | (intro)
    | with_reducible apply Keeps.m_get_bind
    | with_reducible apply Keeps.m_bind
    | with_reducible apply Keeps.m_refuseIf

theorem keeps_ownSet {m₀ : Nat} {s₀ : State} {t : Nat} {o : ArrayOp} (hM₀ : Sub 1 m₀) {s : State}
    (h₀ : Keeps m₀ s₀ s) : Keeps m₀ s₀ (ownSet t o s) := by
  unfold ownSet
  try dsimp only
  repeat' first
    | with_reducible assumption
    | with_reducible apply keeps_addAt
    | with_reducible apply keeps_wrAt
    | with_reducible apply Keeps.ite

theorem keeps_showBusy {m₀ : Nat} {s₀ : State} {t : Nat} (hM₀ : Sub 1 m₀) {s : State} (h₀ : Keeps m₀ s₀ s) :
    Keeps m₀ s₀ (showBusy t s) := by
  unfold showBusy
  repeat' first
    | with_reducible assumption
    | with_reducible apply keeps_wr

theorem keeps_issueArray {m₀ : Nat} {s₀ : State} {t : Nat} {h : Head} (hM₀ : Sub 1476396911 m₀) {t₀ : State}
    (h₀ : Keeps m₀ s₀ t₀) : Keeps m₀ s₀ (runM (issueArray t h) t₀).2 := by
  unfold issueArray
  try dsimp only
  repeat' first
    | with_reducible assumption
    | exact hM₀.le (by decide)
    | (intro)
    | with_reducible apply keeps_chanCheckM
    | with_reducible apply keeps_checkWindows
    | with_reducible apply keeps_headChecks
    | with_reducible apply keeps_issueHead
    | with_reducible apply keeps_listChecksM
    | with_reducible apply keeps_modTile
    | with_reducible apply keeps_needBound
    | with_reducible apply keeps_ownSet
    | with_reducible apply keeps_readCoarse
    | with_reducible apply keeps_readDesc
    | with_reducible apply keeps_readHead
    | with_reducible apply keeps_recordCheckM
    | with_reducible apply keeps_refuseSome
    | with_reducible apply keeps_showBusy
    | with_reducible apply Keeps.m_get_bind
    | with_reducible apply Keeps.m_modify_bind
    | with_reducible apply Keeps.m_pure_bind
    | with_reducible apply Keeps.m_bind
    | with_reducible apply Keeps.m_modify
    | with_reducible apply Keeps.m_ite
    | with_reducible apply Keeps.m_refuseIf
    | with_reducible apply Keeps.m_onlyIf
    | with_reducible apply Keeps.m_waitFor

theorem keeps_beginRelease {m₀ : Nat} {s₀ : State} {t set seq : Nat} (hM₀ : Sub 257 m₀) {s : State}
    (h₀ : Keeps m₀ s₀ s) : Keeps m₀ s₀ (beginRelease t set seq s) := by
  unfold beginRelease
  try dsimp only
  repeat' first
    | with_reducible assumption
    | exact hM₀.le (by decide)
    | with_reducible apply keeps_setTile
    | with_reducible apply keeps_wrAt

theorem keeps_issueDrain {m₀ : Nat} {s₀ : State} {t : Nat} {h : Head} (hM₀ : Sub 1476396911 m₀) {t₀ : State}
    (h₀ : Keeps m₀ s₀ t₀) : Keeps m₀ s₀ (runM (issueDrain t h) t₀).2 := by
  unfold issueDrain
  try dsimp only
  repeat' first
    | with_reducible assumption
    | exact hM₀.le (by decide)
    | (intro)
    | with_reducible apply keeps_beginRelease
    | with_reducible apply keeps_chanCheckM
    | with_reducible apply keeps_checkWindows
    | with_reducible apply keeps_headChecks
    | with_reducible apply keeps_issueHead
    | with_reducible apply keeps_listChecksM
    | with_reducible apply keeps_modTile
    | with_reducible apply keeps_needBound
    | with_reducible apply keeps_readCoarse
    | with_reducible apply keeps_readHead
    | with_reducible apply keeps_recordCheckM
    | with_reducible apply keeps_refuseSome
    | with_reducible apply keeps_sendSlots
    | with_reducible apply keeps_takeCredits
    | with_reducible apply Keeps.m_get_bind
    | with_reducible apply Keeps.m_modify_bind
    | with_reducible apply Keeps.m_bind
    | with_reducible apply Keeps.m_ite
    | with_reducible apply Keeps.m_waitFor

theorem keeps_issueTail {m₀ : Nat} {s₀ : State} {t : Nat} {h : Head} (hM₀ : Sub 1476396911 m₀) {t₀ : State}
    (h₀ : Keeps m₀ s₀ t₀) : Keeps m₀ s₀ (runM (issueTail t h) t₀).2 := by
  unfold issueTail
  try dsimp only
  repeat' first
    | with_reducible assumption
    | exact hM₀.le (by decide)
    | (intro)
    | with_reducible apply keeps_beginRelease
    | with_reducible apply keeps_chanCheckM
    | with_reducible apply keeps_checkWindows
    | with_reducible apply keeps_headChecks
    | with_reducible apply keeps_issueHead
    | with_reducible apply keeps_listChecksM
    | with_reducible apply keeps_modTile
    | with_reducible apply keeps_needBound
    | with_reducible apply keeps_readCoarse
    | with_reducible apply keeps_readHead
    | with_reducible apply keeps_recordCheckM
    | with_reducible apply keeps_refuseSome
    | with_reducible apply keeps_sendSlots
    | with_reducible apply keeps_takeCredits
    | with_reducible apply keeps_winRead
    | with_reducible apply Keeps.m_get_bind
    | with_reducible apply Keeps.m_bind
    | with_reducible apply Keeps.m_pure
    | with_reducible apply Keeps.m_throw
    | with_reducible apply Keeps.m_modify
    | with_reducible apply Keeps.m_ite
    | with_reducible apply Keeps.m_refuseIf
    | with_reducible apply Keeps.m_onlyIf
    | with_reducible apply Keeps.m_waitFor

theorem keeps_issueCopy {m₀ : Nat} {s₀ : State} {t : Nat} {h : Head} (hM₀ : Sub 257 m₀) {t₀ : State}
    (h₀ : Keeps m₀ s₀ t₀) : Keeps m₀ s₀ (runM (issueCopy t h) t₀).2 := by
  unfold issueCopy
  try dsimp only
  repeat' first
    | with_reducible assumption
    | exact hM₀.le (by decide)
    | (intro)
    | with_reducible apply keeps_chanCheckM
    | with_reducible apply keeps_checkWindows
    | with_reducible apply keeps_issueHead
    | with_reducible apply keeps_listChecksM
    | with_reducible apply keeps_modTile
    | with_reducible apply keeps_needBound
    | with_reducible apply keeps_sendSlots
    | with_reducible apply keeps_takeCredits
    | with_reducible apply Keeps.m_get_bind
    | with_reducible apply Keeps.m_bind
    | with_reducible apply Keeps.m_ite
    | with_reducible apply Keeps.m_refuseIf
    | with_reducible apply Keeps.m_waitFor

theorem keeps_setPump {m₀ : Nat} {s₀ : State} {p : Nat} {x : Pump} (hM₀ : Sub 4096 m₀) {s : State}
    (h₀ : Keeps m₀ s₀ s) : Keeps m₀ s₀ (setPump p x s) := by
  unfold setPump
  repeat' first
    | with_reducible assumption
    | with_reducible apply Keeps.upd_pumps

theorem keeps_showPump {m₀ : Nat} {s₀ : State} {p : Nat} (hM₀ : Sub 1 m₀) {s : State} (h₀ : Keeps m₀ s₀ s) :
    Keeps m₀ s₀ (showPump p s) := by
  unfold showPump
  try dsimp only
  repeat' first
    | with_reducible assumption
    | (intro)
    | with_reducible apply keeps_wr
    | with_reducible apply keeps_wrAt
    | with_reducible apply Keeps.foldl
    | split

theorem keeps_showPacker {m₀ : Nat} {s₀ : State} {k : Nat} (hM₀ : Sub 1 m₀) {s : State} (h₀ : Keeps m₀ s₀ s) :
    Keeps m₀ s₀ (showPacker k s) := by
  unfold showPacker
  try dsimp only
  repeat' first
    | with_reducible assumption
    | with_reducible apply keeps_wr

theorem keeps_placeXfer {m₀ : Nat} {s₀ : State} {p : Nat} {y : Xfer} (hM₀ : Sub 4097 m₀) {s : State}
    (h₀ : Keeps m₀ s₀ s) : Keeps m₀ s₀ (placeXfer p y s) := by
  unfold placeXfer
  try dsimp only
  repeat' first
    | with_reducible assumption
    | exact hM₀.le (by decide)
    | with_reducible apply keeps_setPump
    | with_reducible apply keeps_showPacker
    | with_reducible apply keeps_showPump
    | with_reducible apply Keeps.ite
    | split

theorem keeps_issuePump {m₀ : Nat} {s₀ : State} {t : Nat} {h : Head} (hM₀ : Sub 1476401007 m₀) {t₀ : State}
    (h₀ : Keeps m₀ s₀ t₀) : Keeps m₀ s₀ (runM (issuePump t h) t₀).2 := by
  unfold issuePump
  try dsimp only
  repeat' first
    | with_reducible assumption
    | exact hM₀.le (by decide)
    | (intro)
    | with_reducible apply keeps_issueHead
    | with_reducible apply keeps_listChecksM
    | with_reducible apply keeps_needBound
    | with_reducible apply keeps_placeXfer
    | with_reducible apply keeps_readDesc
    | with_reducible apply Keeps.m_get_bind
    | with_reducible apply Keeps.m_bind
    | with_reducible apply Keeps.m_modify
    | with_reducible apply Keeps.m_refuseIf
    | with_reducible apply Keeps.m_waitFor

theorem keeps_issueWait {m₀ : Nat} {s₀ : State} {t : Nat} {h : Head} (hM₀ : Sub 1476397039 m₀) {t₀ : State}
    (h₀ : Keeps m₀ s₀ t₀) : Keeps m₀ s₀ (runM (issueWait t h) t₀).2 := by
  unfold issueWait
  repeat' first
    | with_reducible assumption
    | exact hM₀.le (by decide)
    | (intro)
    | with_reducible apply keeps_checkWindows
    | with_reducible apply keeps_listChecksM
    | with_reducible apply keeps_readDesc
    | with_reducible apply keeps_settleHead
    | with_reducible apply Keeps.m_bind
    | with_reducible apply Keeps.m_refuseIf
    | with_reducible apply Keeps.m_waitFor

theorem keeps_issueSignal {m₀ : Nat} {s₀ : State} {t : Nat} {h : Head} (hM₀ : Sub 265 m₀) {t₀ : State}
    (h₀ : Keeps m₀ s₀ t₀) : Keeps m₀ s₀ (runM (issueSignal t h) t₀).2 := by
  unfold issueSignal
  try dsimp only
  repeat' first
    | with_reducible assumption
    | exact hM₀.le (by decide)
    | (intro)
    | with_reducible apply keeps_busAdd
    | with_reducible apply keeps_checkWindows
    | with_reducible apply keeps_issueHead
    | with_reducible apply keeps_listChecksM
    | with_reducible apply Keeps.m_get_bind
    | with_reducible apply Keeps.m_bind
    | with_reducible apply Keeps.m_ite

theorem keeps_issueSeg {m₀ : Nat} {s₀ : State} {t : Nat} {h : Head} (hM₀ : Sub 1476397039 m₀) {t₀ : State}
    (h₀ : Keeps m₀ s₀ t₀) : Keeps m₀ s₀ (runM (issueSeg t h) t₀).2 := by
  unfold issueSeg
  repeat' first
    | with_reducible assumption
    | exact hM₀.le (by decide)
    | (intro)
    | with_reducible apply keeps_bump
    | with_reducible apply keeps_checkWindows
    | with_reducible apply keeps_listChecksM
    | with_reducible apply keeps_modTile
    | with_reducible apply keeps_readDesc
    | with_reducible apply keeps_settleHead
    | with_reducible apply keeps_wr
    | with_reducible apply Keeps.m_modify_bind
    | with_reducible apply Keeps.m_bind
    | with_reducible apply Keeps.m_pure
    | with_reducible apply Keeps.m_modify
    | with_reducible apply Keeps.m_ite
    | with_reducible apply Keeps.m_refuseIf

theorem keeps_issueFillOn {m₀ : Nat} {s₀ : State} {t : Nat} {h : Head} (hM₀ : Sub 1476395501 m₀) {t₀ : State}
    (h₀ : Keeps m₀ s₀ t₀) : Keeps m₀ s₀ (runM (issueFillOn t h) t₀).2 := by
  unfold issueFillOn
  repeat' first
    | with_reducible assumption
    | exact hM₀.le (by decide)
    | (intro)
    | with_reducible apply keeps_listChecksM
    | with_reducible apply keeps_settleHead
    | with_reducible apply keeps_wr
    | with_reducible apply Keeps.m_get_bind
    | with_reducible apply Keeps.m_bind
    | with_reducible apply Keeps.m_modify
    | with_reducible apply Keeps.m_waitFor

theorem keeps_issueFillOff {m₀ : Nat} {s₀ : State} {t : Nat} {h : Head} (hM₀ : Sub 1476397039 m₀) {t₀ : State}
    (h₀ : Keeps m₀ s₀ t₀) : Keeps m₀ s₀ (runM (issueFillOff t h) t₀).2 := by
  unfold issueFillOff
  repeat' first
    | with_reducible assumption
    | exact hM₀.le (by decide)
    | (intro)
    | with_reducible apply keeps_listChecksM
    | with_reducible apply keeps_ringHead
    | with_reducible apply keeps_settleHead
    | with_reducible apply keeps_wr
    | with_reducible apply Keeps.m_get_bind
    | with_reducible apply Keeps.m_bind
    | with_reducible apply Keeps.m_failWith
    | with_reducible apply Keeps.m_modify
    | with_reducible apply Keeps.m_ite
    | with_reducible apply Keeps.m_waitFor

theorem keeps_issueStepEnd {m₀ : Nat} {s₀ : State} {t : Nat} {h : Head} (hM₀ : Sub 1476397039 m₀) {t₀ : State}
    (h₀ : Keeps m₀ s₀ t₀) : Keeps m₀ s₀ (runM (issueStepEnd t h) t₀).2 := by
  unfold issueStepEnd
  repeat' first
    | with_reducible assumption
    | exact hM₀.le (by decide)
    | (intro)
    | with_reducible apply keeps_listChecksM
    | with_reducible apply keeps_reachBoundary
    | with_reducible apply keeps_settleHead
    | with_reducible apply Keeps.m_get_bind
    | with_reducible apply Keeps.m_bind
    | with_reducible apply Keeps.m_waitFor

theorem keeps_issueBody {m₀ : Nat} {s₀ : State} {t : Nat} {h : Head} (hM₀ : Sub 1476401135 m₀) {t₀ : State}
    (h₀ : Keeps m₀ s₀ t₀) : Keeps m₀ s₀ (runM (issueBody t h) t₀).2 := by
  unfold issueBody
  repeat' first
    | with_reducible assumption
    | exact hM₀.le (by decide)
    | with_reducible apply keeps_issueArray
    | with_reducible apply keeps_issueCopy
    | with_reducible apply keeps_issueDrain
    | with_reducible apply keeps_issueFillOff
    | with_reducible apply keeps_issueFillOn
    | with_reducible apply keeps_issuePump
    | with_reducible apply keeps_issueSeg
    | with_reducible apply keeps_issueSignal
    | with_reducible apply keeps_issueStepEnd
    | with_reducible apply keeps_issueTail
    | with_reducible apply keeps_issueWait
    | with_reducible apply keeps_listChecksM
    | split

theorem keeps_tagOf {m₀ : Nat} {s₀ : State} {t : Nat} {h : Head} (hM₀ : Sub 1476396911 m₀) {t₀ : State}
    (h₀ : Keeps m₀ s₀ t₀) : Keeps m₀ s₀ (runM (tagOf t h) t₀).2 := by
  unfold tagOf
  repeat' first
    | with_reducible assumption
    | (intro)
    | with_reducible apply keeps_readDesc
    | with_reducible apply Keeps.m_bind
    | with_reducible apply Keeps.m_pure
    | with_reducible apply Keeps.m_ite
    | split

theorem keeps_headWaits {m₀ : Nat} {s₀ : State} {α : Type} {m : M α}
    (h_m : ∀ {t : State}, Keeps m₀ s₀ t → Keeps m₀ s₀ (runM (m) t).2) {t₀ : State} (h₀ : Keeps m₀ s₀ t₀) :
    Keeps m₀ s₀ (runM (headWaits m) t₀).2 := by
  unfold headWaits
  repeat' first
    | with_reducible assumption
    | (intro)
    | with_reducible apply h_m
    | with_reducible apply Keeps.m_throw
    | with_reducible apply Keeps.m_tryCatch
    | split

theorem keeps_issueOne {m₀ : Nat} {s₀ : State} {t : Nat} {h : Head} (hM₀ : Sub 1476401135 m₀) {t₀ : State}
    (h₀ : Keeps m₀ s₀ t₀) : Keeps m₀ s₀ (runM (issueOne t h) t₀).2 := by
  unfold issueOne
  repeat' first
    | with_reducible assumption
    | exact hM₀.le (by decide)
    | (intro)
    | with_reducible apply keeps_catchCode
    | with_reducible apply keeps_codeOf
    | with_reducible apply keeps_headWaits
    | with_reducible apply keeps_issueBody
    | with_reducible apply keeps_settleHead
    | with_reducible apply keeps_tagOf
    | with_reducible apply Keeps.m_get_bind
    | with_reducible apply Keeps.m_bind
    | with_reducible apply Keeps.m_pure
    | with_reducible apply Keeps.m_ite
    | with_reducible apply Keeps.m_waitFor

theorem keeps_issueMain {m₀ : Nat} {s₀ : State} {t : Nat} {p : Head → M Bool} (hM₀ : Sub 1476401135 m₀)
    (h_p : ∀ (a₀ : Head) {t : State}, Keeps m₀ s₀ t → Keeps m₀ s₀ (runM (p a₀) t).2) {t₀ : State}
    (h₀ : Keeps m₀ s₀ t₀) : Keeps m₀ s₀ (runM (issueMain t p) t₀).2 := by
  unfold issueMain
  try dsimp only
  repeat' first
    | with_reducible assumption
    | exact hM₀.le (by decide)
    | (intro)
    | with_reducible apply h_p
    | with_reducible apply keeps_issueOne
    | with_reducible apply keeps_mainHead
    | with_reducible apply Keeps.m_get_bind
    | with_reducible apply Keeps.m_bind
    | with_reducible apply Keeps.m_throw
    | with_reducible apply Keeps.m_waitFor
    | split

theorem keeps_fillRingIssue {m₀ : Nat} {s₀ : State} {t : Nat} (hM₀ : Sub 1543510015 m₀) {s : State}
    (h₀ : Keeps m₀ s₀ s) : Keeps m₀ s₀ (fillRingIssue t s) := by
  unfold fillRingIssue
  repeat' first
    | with_reducible assumption
    | exact hM₀.le (by decide)
    | (intro)
    | with_reducible apply keeps_headWork
    | with_reducible apply keeps_issueOne
    | with_reducible apply keeps_ringHead
    | with_reducible apply Keeps.m_bind
    | with_reducible apply Keeps.m_throw
    | with_reducible apply Keeps.ite
    | split

theorem keeps_issueKind {m₀ : Nat} {s₀ : State} {t : Nat} {p : Head → M Bool} (hM₀ : Sub 1543510015 m₀)
    (h_p : ∀ (a₀ : Head) {t : State}, Keeps m₀ s₀ t → Keeps m₀ s₀ (runM (p a₀) t).2) {s : State}
    (h₀ : Keeps m₀ s₀ s) : Keeps m₀ s₀ (issueKind t p s) := by
  unfold issueKind
  repeat' first
    | with_reducible assumption
    | exact hM₀.le (by decide)
    | (intro)
    | with_reducible apply keeps_headWork
    | with_reducible apply keeps_issueMain
    | with_reducible apply Keeps.ite

theorem keeps_isOpc {m₀ : Nat} {s₀ : State} {o : Nat} {h : Head} {t₀ : State} (h₀ : Keeps m₀ s₀ t₀) : Keeps m₀ s₀
    (runM (isOpc o h) t₀).2 := by
  unfold isOpc
  repeat' first
    | with_reducible assumption
    | with_reducible apply Keeps.m_pure

/-! ### Machine/ArrayCommands.lean -/

theorem keeps_headMode {m₀ : Nat} {s₀ : State} {t : Nat} {h : Head} (hM₀ : Sub 1476396911 m₀) {t₀ : State}
    (h₀ : Keeps m₀ s₀ t₀) : Keeps m₀ s₀ (runM (headMode t h) t₀).2 := by
  unfold headMode
  repeat' first
    | with_reducible assumption
    | (intro)
    | with_reducible apply keeps_catchCode
    | with_reducible apply keeps_readDesc
    | with_reducible apply Keeps.m_bind
    | with_reducible apply Keeps.m_pure
    | with_reducible apply Keeps.m_ite
    | split

theorem keeps_isArray {m₀ : Nat} {s₀ : State} {t : Nat} {ok : Option Nat → Bool} {h : Head}
    (hM₀ : Sub 1476396911 m₀) {t₀ : State} (h₀ : Keeps m₀ s₀ t₀) : Keeps m₀ s₀ (runM (isArray t ok h) t₀).2 := by
  unfold isArray
  repeat' first
    | with_reducible assumption
    | (intro)
    | with_reducible apply keeps_headMode
    | with_reducible apply Keeps.m_bind
    | with_reducible apply Keeps.m_pure
    | with_reducible apply Keeps.m_ite

theorem keeps_putOp {m₀ : Nat} {s₀ : State} {t : Nat} {o : ArrayOp} (hM₀ : Sub 256 m₀) {s : State}
    (h₀ : Keeps m₀ s₀ s) : Keeps m₀ s₀ (putOp t o s) := by
  unfold putOp
  try dsimp only
  repeat' first
    | with_reducible assumption
    | with_reducible apply keeps_setTile

theorem keeps_endOp {m₀ : Nat} {s₀ : State} {t : Nat} {o : ArrayOp} {code : Nat} (hM₀ : Sub 257 m₀) {s : State}
    (h₀ : Keeps m₀ s₀ s) : Keeps m₀ s₀ (endOp t o code s) := by
  unfold endOp
  try dsimp only
  repeat' first
    | with_reducible assumption
    | exact hM₀.le (by decide)
    | (intro)
    | with_reducible apply keeps_putOp
    | with_reducible apply keeps_showBusy
    | with_reducible apply keeps_wr
    | with_reducible apply Keeps.ite
    | with_reducible apply Keeps.foldl

theorem keeps_stationaryLoad {m₀ : Nat} {s₀ : State} {t : Nat} (hM₀ : Sub 1476396911 m₀) {t₀ : State}
    (h₀ : Keeps m₀ s₀ t₀) : Keeps m₀ s₀ (runM (stationaryLoad t) t₀).2 := by
  unfold stationaryLoad
  try dsimp only
  repeat' first
    | with_reducible assumption
    | exact hM₀.le (by decide)
    | (intro)
    | with_reducible apply keeps_endOp
    | with_reducible apply keeps_forgetArrived
    | with_reducible apply keeps_modTile
    | with_reducible apply keeps_putOp
    | with_reducible apply keeps_readUntil
    | with_reducible apply keeps_readVecWith
    | with_reducible apply keeps_winRead
    | with_reducible apply keeps_wr
    | with_reducible apply Keeps.m_get_bind
    | with_reducible apply Keeps.m_set_bind
    | with_reducible apply Keeps.m_modify_bind
    | with_reducible apply Keeps.m_bind
    | with_reducible apply Keeps.m_throw
    | with_reducible apply Keeps.m_modify
    | with_reducible apply Keeps.m_ite
    | with_reducible apply Keeps.m_waitFor
    | with_reducible apply Keeps.ite
    | split
    | with_reducible apply Keeps.upd_drawn

theorem keeps_nextVector {m₀ : Nat} {s₀ : State} {t : Nat} {o : ArrayOp} (hM₀ : Sub 1476396911 m₀) {t₀ : State}
    (h₀ : Keeps m₀ s₀ t₀) : Keeps m₀ s₀ (runM (nextVector t o) t₀).2 := by
  unfold nextVector
  try dsimp only
  repeat' first
    | with_reducible assumption
    | (intro)
    | with_reducible apply keeps_readVecWith
    | with_reducible apply keeps_takeRecord
    | with_reducible apply keeps_winRead
    | with_reducible apply Keeps.m_bind
    | with_reducible apply Keeps.m_pure
    | with_reducible apply Keeps.m_throw
    | with_reducible apply Keeps.m_ite
    | split

theorem keeps_parityFault {m₀ : Nat} {s₀ : State} {t : Nat} {o : ArrayOp} {cols : List Nat} (hM₀ : Sub 8388929 m₀)
    {s : State} (h₀ : Keeps m₀ s₀ s) : Keeps m₀ s₀ (parityFault t o cols s).1 := by
  unfold parityFault
  try dsimp only
  repeat' first
    | with_reducible assumption
    | exact hM₀.le (by decide)
    | with_reducible apply keeps_noteFault
    | with_reducible apply keeps_setTile
    | with_reducible apply keeps_wr
    | with_reducible apply Keeps.ite

theorem keeps_vectorEntry {m₀ : Nat} {s₀ : State} {t : Nat} {parity : Option (List Nat)} (hM₀ : Sub 1484785519 m₀)
    {t₀ : State} (h₀ : Keeps m₀ s₀ t₀) : Keeps m₀ s₀ (runM (vectorEntry t parity) t₀).2 := by
  unfold vectorEntry
  try dsimp only
  repeat' first
    | with_reducible assumption
    | exact hM₀.le (by decide)
    | (intro)
    | with_reducible apply keeps_addVector
    | with_reducible apply keeps_catchCode
    | with_reducible apply keeps_endOp
    | with_reducible apply keeps_forgetArrived
    | with_reducible apply keeps_nextVector
    | with_reducible apply keeps_parityFault
    | with_reducible apply keeps_putOp
    | with_reducible apply Keeps.m_get_bind
    | with_reducible apply Keeps.m_set_bind
    | with_reducible apply Keeps.m_modify_bind
    | with_reducible apply Keeps.m_bind
    | with_reducible apply Keeps.m_throw
    | with_reducible apply Keeps.m_modify
    | with_reducible apply Keeps.m_waitFor
    | with_reducible apply Keeps.ite
    | split

theorem keeps_arrayOpComplete {m₀ : Nat} {s₀ : State} {t cycles : Nat} (hM₀ : Sub 1476395501 m₀) {s : State}
    (h₀ : Keeps m₀ s₀ s) : Keeps m₀ s₀ (arrayOpComplete t cycles s) := by
  unfold arrayOpComplete
  try dsimp only
  repeat' first
    | with_reducible assumption
    | exact hM₀.le (by decide)
    | with_reducible apply keeps_bump
    | with_reducible apply keeps_completeIns
    | with_reducible apply keeps_setTile
    | with_reducible apply keeps_showBusy
    | with_reducible apply Keeps.ite
    | split

theorem keeps_clArithUpdate {m₀ : Nat} {s₀ : State} {k : Nat} (hM₀ : Sub 1 m₀) {s : State} (h₀ : Keeps m₀ s₀ s) :
    Keeps m₀ s₀ (clArithUpdate k s) := by
  unfold clArithUpdate
  try dsimp only
  repeat' first
    | with_reducible assumption
    | with_reducible apply keeps_wr
    | with_reducible apply Keeps.ite
    | split

theorem keeps_monArithUpdate {m₀ : Nat} {s₀ : State} (hM₀ : Sub 2049 m₀) {s : State} (h₀ : Keeps m₀ s₀ s) :
    Keeps m₀ s₀ (monArithUpdate s) := by
  unfold monArithUpdate
  try dsimp only
  repeat' first
    | with_reducible assumption
    | exact hM₀.le (by decide)
    | with_reducible apply keeps_wr
    | with_reducible apply Keeps.ite
    | split
    | with_reducible apply Keeps.upd_mon

/-! ### Machine/EpilogueCommands.lean -/

theorem keeps_putEpi {m₀ : Nat} {s₀ : State} {t : Nat} {e : EpiOp} (hM₀ : Sub 256 m₀) {t₀ : State}
    (h₀ : Keeps m₀ s₀ t₀) : Keeps m₀ s₀ (runM (putEpi t e) t₀).2 := by
  unfold putEpi
  repeat' first
    | with_reducible assumption
    | with_reducible apply keeps_modTile

theorem keeps_epiNext {m₀ : Nat} {s₀ : State} {t : Nat} {t₀ : State} (h₀ : Keeps m₀ s₀ t₀) : Keeps m₀ s₀
    (runM (epiNext t) t₀).2 := by
  unfold epiNext
  repeat' first
    | with_reducible assumption
    | (intro)
    | with_reducible apply Keeps.m_bind
    | with_reducible apply Keeps.m_pure
    | with_reducible apply Keeps.m_throw
    | with_reducible apply Keeps.m_gets
    | with_reducible apply Keeps.m_waitFor
    | split

theorem keeps_epiStarted {m₀ : Nat} {s₀ : State} {t : Nat} {e : EpiOp} {stats : List StatAdd} (hM₀ : Sub 256 m₀)
    {t₀ : State} (h₀ : Keeps m₀ s₀ t₀) : Keeps m₀ s₀ (runM (epiStarted t e stats) t₀).2 := by
  unfold epiStarted
  repeat' first
    | with_reducible assumption
    | (intro)
    | with_reducible apply keeps_modTile
    | with_reducible apply keeps_putEpi
    | with_reducible apply Keeps.m_bind

theorem keeps_setRelease {m₀ : Nat} {s₀ : State} {t : Nat} (hM₀ : Sub 257 m₀) {s : State} (h₀ : Keeps m₀ s₀ s) :
    Keeps m₀ s₀ (setRelease t s) := by
  unfold setRelease
  try dsimp only
  repeat' first
    | with_reducible assumption
    | exact hM₀.le (by decide)
    | with_reducible apply keeps_setTile
    | with_reducible apply keeps_wrAt
    | split

theorem keeps_sendOutput {m₀ : Nat} {s₀ : State} {t n : Nat} {e : EpiOp} {rs : List (List Byte × Bool)}
    (hM₀ : Sub 777 m₀) {t₀ : State} (h₀ : Keeps m₀ s₀ t₀) : Keeps m₀ s₀ (runM (sendOutput t n e rs) t₀).2 := by
  unfold sendOutput
  repeat' first
    | with_reducible assumption
    | exact hM₀.le (by decide)
    | with_reducible apply keeps_sendRecords
    | with_reducible apply keeps_unreserve
    | with_reducible apply Keeps.m_modify

theorem keeps_drainOuts {m₀ : Nat} {s₀ : State} {t : Nat} {e : EpiOp} {d : DrainDesc} {rnd : Nat → Nat}
    (hM₀ : Sub 1543505791 m₀) :
    ∀ (x0 : List Nat) (t₀ : State), Keeps m₀ s₀ t₀ → Keeps m₀ s₀ (runM (drainOuts t e d rnd x0) t₀).2
  | [], t₀, h₀ => by
    unfold drainOuts
    try dsimp only
    repeat' first
      | with_reducible assumption
      | exact hM₀.le (by decide)
      | (intro)
      | (with_reducible apply keeps_drainOuts hM₀)
      | with_reducible apply keeps_wr
      | with_reducible apply keeps_writeOn
      | with_reducible apply keeps_writeVec
      | with_reducible apply Keeps.m_get_bind
      | with_reducible apply Keeps.m_modify_bind
      | with_reducible apply Keeps.m_bind
      | with_reducible apply Keeps.m_pure
      | with_reducible apply Keeps.m_ite
      | with_reducible apply Keeps.m_onlyIf
  | v :: vs, t₀, h₀ => by
    unfold drainOuts
    try dsimp only
    repeat' first
      | with_reducible assumption
      | exact hM₀.le (by decide)
      | (intro)
      | (with_reducible apply keeps_drainOuts hM₀)
      | with_reducible apply keeps_wr
      | with_reducible apply keeps_writeOn
      | with_reducible apply keeps_writeVec
      | with_reducible apply Keeps.m_get_bind
      | with_reducible apply Keeps.m_modify_bind
      | with_reducible apply Keeps.m_bind
      | with_reducible apply Keeps.m_pure
      | with_reducible apply Keeps.m_ite
      | with_reducible apply Keeps.m_onlyIf

theorem keeps_drainStart {m₀ : Nat} {s₀ : State} {t : Nat} (hM₀ : Sub 1543505791 m₀) {t₀ : State}
    (h₀ : Keeps m₀ s₀ t₀) : Keeps m₀ s₀ (runM (drainStart t) t₀).2 := by
  unfold drainStart
  try dsimp only
  repeat' first
    | with_reducible assumption
    | exact hM₀.le (by decide)
    | (intro)
    | with_reducible apply keeps_drainOuts
    | with_reducible apply keeps_epiNext
    | with_reducible apply keeps_epiStarted
    | with_reducible apply keeps_sendOutput
    | with_reducible apply Keeps.m_get_bind
    | with_reducible apply Keeps.m_bind
    | with_reducible apply Keeps.m_ite
    | with_reducible apply Keeps.m_waitFor

theorem keeps_dropEpiAdd {m₀ : Nat} {s₀ : State} {t : Nat} (hM₀ : Sub 256 m₀) {s : State} (h₀ : Keeps m₀ s₀ s) :
    Keeps m₀ s₀ (dropEpiAdd t s) := by
  unfold dropEpiAdd
  try dsimp only
  repeat' first
    | with_reducible assumption
    | with_reducible apply keeps_setTile
    | split

theorem keeps_epiComplete {m₀ : Nat} {s₀ : State} {t : Nat} {tail : Bool} {cycles : Nat} (hM₀ : Sub 1476395501 m₀)
    {t₀ : State} (h₀ : Keeps m₀ s₀ t₀) : Keeps m₀ s₀ (runM (epiComplete t tail cycles) t₀).2 := by
  unfold epiComplete
  repeat' first
    | with_reducible assumption
    | exact hM₀.le (by decide)
    | (intro)
    | with_reducible apply keeps_acknowledged
    | with_reducible apply keeps_codeOf
    | with_reducible apply keeps_completeIns
    | with_reducible apply keeps_forgetArrived
    | with_reducible apply keeps_modTile
    | with_reducible apply Keeps.m_get_bind
    | with_reducible apply Keeps.m_bind
    | with_reducible apply Keeps.m_throw
    | with_reducible apply Keeps.m_modify
    | with_reducible apply Keeps.m_waitFor
    | split

theorem keeps_epiEnd {m₀ : Nat} {s₀ : State} {t : Nat} {tail : Bool} {cycles : Nat} (hM₀ : Sub 1543505919 m₀)
    {s : State} (h₀ : Keeps m₀ s₀ s) : Keeps m₀ s₀ (epiEnd t tail cycles s) := by
  unfold epiEnd
  repeat' first
    | with_reducible assumption
    | exact hM₀.le (by decide)
    | (intro)
    | with_reducible apply keeps_dropEpiAdd
    | with_reducible apply keeps_epiComplete
    | with_reducible apply keeps_offerLeft
    | with_reducible apply keeps_tileWork
    | split

theorem keeps_consumeAll {m₀ : Nat} {s₀ : State} {t n h : Nat} {w : Who} (hM₀ : Sub 1476396911 m₀) :
    ∀ (x0 : Nat) (x1 : List (List Byte × Bool)) (t₀ : State), Keeps m₀ s₀ t₀ → Keeps m₀ s₀
    (runM (consumeAll t n h w x0 x1) t₀).2
  | 0, got, t₀, h₀ => by
    unfold consumeAll
    repeat' first
      | with_reducible assumption
      | (intro)
      | (with_reducible apply keeps_consumeAll hM₀)
      | with_reducible apply keeps_catchCode
      | with_reducible apply keeps_takeRecord
      | with_reducible apply Keeps.m_bind
      | with_reducible apply Keeps.m_pure
      | split
  | k + 1, got, t₀, h₀ => by
    unfold consumeAll
    repeat' first
      | with_reducible assumption
      | (intro)
      | (with_reducible apply keeps_consumeAll hM₀)
      | with_reducible apply keeps_catchCode
      | with_reducible apply keeps_takeRecord
      | with_reducible apply Keeps.m_bind
      | with_reducible apply Keeps.m_pure
      | split

theorem keeps_tailRun {m₀ : Nat} {s₀ : State} {t : Nat} {e : EpiOp} {x : TailDesc} (hM₀ : Sub 1543507839 m₀)
    {t₀ : State} (h₀ : Keeps m₀ s₀ t₀) : Keeps m₀ s₀ (runM (tailRun t e x) t₀).2 := by
  unfold tailRun
  try dsimp only
  repeat' first
    | with_reducible assumption
    | exact hM₀.le (by decide)
    | (intro)
    | with_reducible apply keeps_epiStarted
    | with_reducible apply keeps_noted
    | with_reducible apply keeps_runUpdate
    | with_reducible apply keeps_sendOutput
    | with_reducible apply keeps_tailOuts
    | with_reducible apply keeps_writeOuts
    | with_reducible apply Keeps.m_get_bind
    | with_reducible apply Keeps.m_bind
    | with_reducible apply Keeps.m_failWith
    | with_reducible apply Keeps.m_ite
    | with_reducible apply Keeps.m_onlyIf

theorem keeps_tailStart {m₀ : Nat} {s₀ : State} {t : Nat} {k : TailKind} (hM₀ : Sub 1543507839 m₀) {t₀ : State}
    (h₀ : Keeps m₀ s₀ t₀) : Keeps m₀ s₀ (runM (tailStart t k) t₀).2 := by
  unfold tailStart
  try dsimp only
  repeat' first
    | with_reducible assumption
    | exact hM₀.le (by decide)
    | (intro)
    | with_reducible apply keeps_consumeAll
    | with_reducible apply keeps_epiNext
    | with_reducible apply keeps_putEpi
    | with_reducible apply keeps_tailRun
    | with_reducible apply Keeps.m_bind
    | with_reducible apply Keeps.m_pure
    | with_reducible apply Keeps.m_ite
    | with_reducible apply Keeps.m_waitFor

theorem keeps_isTail {m₀ : Nat} {s₀ : State} {t : Nat} {k : TailKind} {h : Head} (hM₀ : Sub 1476396911 m₀)
    {t₀ : State} (h₀ : Keeps m₀ s₀ t₀) : Keeps m₀ s₀ (runM (isTail t k h) t₀).2 := by
  unfold isTail
  try dsimp only
  repeat' first
    | with_reducible assumption
    | (intro)
    | with_reducible apply keeps_catchCode
    | with_reducible apply keeps_readDesc
    | with_reducible apply Keeps.m_pure_bind
    | with_reducible apply Keeps.m_bind
    | with_reducible apply Keeps.m_pure
    | with_reducible apply Keeps.m_ite
    | split

theorem keeps_tailCommand {m₀ : Nat} {s₀ : State} {t : Nat} {issue : Bool} {k : TailKind} (hM₀ : Sub 1543512063 m₀)
    {s : State} (h₀ : Keeps m₀ s₀ s) : Keeps m₀ s₀ (tailCommand t issue k s) := by
  unfold tailCommand
  repeat' first
    | with_reducible assumption
    | exact hM₀.le (by decide)
    | (intro)
    | with_reducible apply keeps_isTail
    | with_reducible apply keeps_issueKind
    | with_reducible apply keeps_tailStart
    | with_reducible apply keeps_tileWork
    | with_reducible apply Keeps.ite

theorem keeps_tailRollup {m₀ : Nat} {s₀ : State} {k : Nat} (hM₀ : Sub 1 m₀) {s : State} (h₀ : Keeps m₀ s₀ s) :
    Keeps m₀ s₀ (tailRollup k s) := by
  unfold tailRollup
  try dsimp only
  repeat' first
    | with_reducible assumption
    | with_reducible apply keeps_wr
    | with_reducible apply Keeps.ite

/-! ### Machine/ListCommands.lean -/

theorem keeps_copyFront {m₀ : Nat} {s₀ : State} {t : Nat} {send : Bool} {t₀ : State} (h₀ : Keeps m₀ s₀ t₀) :
    Keeps m₀ s₀ (runM (copyFront t send) t₀).2 := by
  unfold copyFront
  repeat' first
    | with_reducible assumption
    | (intro)
    | with_reducible apply Keeps.m_bind
    | with_reducible apply Keeps.m_pure
    | with_reducible apply Keeps.m_throw
    | with_reducible apply Keeps.m_gets
    | with_reducible apply Keeps.m_waitFor
    | split

theorem keeps_putCopy {m₀ : Nat} {s₀ : State} {t : Nat} {c : CopyOp} {rest : List CopyOp} {code : Nat}
    (hM₀ : Sub 256 m₀) {t₀ : State} (h₀ : Keeps m₀ s₀ t₀) : Keeps m₀ s₀ (runM (putCopy t c rest code) t₀).2 := by
  unfold putCopy
  repeat' first
    | with_reducible assumption
    | with_reducible apply keeps_modTile

theorem keeps_readSlotRecords {m₀ : Nat} {s₀ : State} {t : Nat} {c : CopyOp} {n : Chan} (hM₀ : Sub 1476396911 m₀)
    {t₀ : State} (h₀ : Keeps m₀ s₀ t₀) : Keeps m₀ s₀ (runM (readSlotRecords t c n) t₀).2 := by
  unfold readSlotRecords
  repeat' first
    | with_reducible assumption
    | (intro)
    | with_reducible apply keeps_winRead
    | with_reducible apply Keeps.m_bind
    | with_reducible apply Keeps.m_pure

theorem keeps_sendAll {m₀ : Nat} {s₀ : State} {t : Nat} (hM₀ : Sub 1476396911 m₀) :
    ∀ (x0 : Nat) (x1 : CopyOp) (t₀ : State), Keeps m₀ s₀ t₀ → Keeps m₀ s₀ (runM (sendAll t x0 x1) t₀).2
  | 0, c, t₀, h₀ => by
    unfold sendAll
    repeat' first
      | with_reducible assumption
      | exact hM₀.le (by decide)
      | (intro)
      | (with_reducible apply keeps_sendAll hM₀)
      | with_reducible apply keeps_catchCode
      | with_reducible apply keeps_readSlotRecords
      | with_reducible apply keeps_sendSlot
      | with_reducible apply Keeps.m_modify_bind
      | with_reducible apply Keeps.m_bind
      | with_reducible apply Keeps.m_pure
      | with_reducible apply Keeps.m_gets
      | split
  | k + 1, c, t₀, h₀ => by
    unfold sendAll
    repeat' first
      | with_reducible assumption
      | exact hM₀.le (by decide)
      | (intro)
      | (with_reducible apply keeps_sendAll hM₀)
      | with_reducible apply keeps_catchCode
      | with_reducible apply keeps_readSlotRecords
      | with_reducible apply keeps_sendSlot
      | with_reducible apply Keeps.m_modify_bind
      | with_reducible apply Keeps.m_bind
      | with_reducible apply Keeps.m_pure
      | with_reducible apply Keeps.m_gets
      | split

theorem keeps_sendRun {m₀ : Nat} {s₀ : State} {t : Nat} (hM₀ : Sub 1476396911 m₀) {t₀ : State} (h₀ : Keeps m₀ s₀ t₀)
    : Keeps m₀ s₀ (runM (sendRun t) t₀).2 := by
  unfold sendRun
  try dsimp only
  repeat' first
    | with_reducible assumption
    | exact hM₀.le (by decide)
    | (intro)
    | with_reducible apply keeps_copyFront
    | with_reducible apply keeps_forgetArrived
    | with_reducible apply keeps_noted
    | with_reducible apply keeps_putCopy
    | with_reducible apply keeps_sendAll
    | with_reducible apply keeps_unreserve
    | with_reducible apply Keeps.m_modify_bind
    | with_reducible apply Keeps.m_bind
    | with_reducible apply Keeps.m_failWith
    | with_reducible apply Keeps.m_modify
    | with_reducible apply Keeps.m_onlyIf
    | with_reducible apply Keeps.m_waitFor

theorem keeps_recvSome {m₀ : Nat} {s₀ : State} {t : Nat} {copied : Bool} (hM₀ : Sub 1543505791 m₀) :
    ∀ (x0 : Nat) (x1 : CopyOp) (t₀ : State), Keeps m₀ s₀ t₀ → Keeps m₀ s₀ (runM (recvSome t copied x0 x1) t₀).2
  | 0, c, t₀, h₀ => by
    unfold recvSome
    try dsimp only
    repeat' first
      | with_reducible assumption
      | exact hM₀.le (by decide)
      | (intro)
      | (with_reducible apply keeps_recvSome hM₀)
      | with_reducible apply keeps_busWrite
      | with_reducible apply keeps_catchCode
      | with_reducible apply keeps_codeOf
      | with_reducible apply keeps_takeRecord
      | with_reducible apply Keeps.m_bind
      | with_reducible apply Keeps.m_pure
      | with_reducible apply Keeps.m_ite
      | with_reducible apply Keeps.m_gets
      | split
  | k + 1, c, t₀, h₀ => by
    unfold recvSome
    try dsimp only
    repeat' first
      | with_reducible assumption
      | exact hM₀.le (by decide)
      | (intro)
      | (with_reducible apply keeps_recvSome hM₀)
      | with_reducible apply keeps_busWrite
      | with_reducible apply keeps_catchCode
      | with_reducible apply keeps_codeOf
      | with_reducible apply keeps_takeRecord
      | with_reducible apply Keeps.m_bind
      | with_reducible apply Keeps.m_pure
      | with_reducible apply Keeps.m_ite
      | with_reducible apply Keeps.m_gets
      | split

theorem keeps_recvRun {m₀ : Nat} {s₀ : State} {t : Nat} (hM₀ : Sub 1543505791 m₀) {t₀ : State} (h₀ : Keeps m₀ s₀ t₀)
    : Keeps m₀ s₀ (runM (recvRun t) t₀).2 := by
  unfold recvRun
  try dsimp only
  repeat' first
    | with_reducible assumption
    | exact hM₀.le (by decide)
    | (intro)
    | with_reducible apply keeps_copyFront
    | with_reducible apply keeps_noted
    | with_reducible apply keeps_putCopy
    | with_reducible apply keeps_recvSome
    | with_reducible apply Keeps.m_bind
    | with_reducible apply Keeps.m_failWith
    | with_reducible apply Keeps.m_onlyIf
    | with_reducible apply Keeps.m_waitFor

theorem keeps_copyComplete {m₀ : Nat} {s₀ : State} {t : Nat} {send : Bool} {cycles : Nat} (hM₀ : Sub 1476395501 m₀)
    {t₀ : State} (h₀ : Keeps m₀ s₀ t₀) : Keeps m₀ s₀ (runM (copyComplete t send cycles) t₀).2 := by
  unfold copyComplete
  try dsimp only
  repeat' first
    | with_reducible assumption
    | exact hM₀.le (by decide)
    | (intro)
    | with_reducible apply keeps_acknowledged
    | with_reducible apply keeps_codeOf
    | with_reducible apply keeps_completeIns
    | with_reducible apply keeps_copyFront
    | with_reducible apply keeps_modTile
    | with_reducible apply Keeps.m_get_bind
    | with_reducible apply Keeps.m_bind
    | with_reducible apply Keeps.m_modify
    | with_reducible apply Keeps.m_waitFor

theorem keeps_waitPoll {m₀ : Nat} {s₀ : State} {t : Nat} (hM₀ : Sub 1543510015 m₀) {s : State} (h₀ : Keeps m₀ s₀ s)
    : Keeps m₀ s₀ (waitPoll t s) := by
  unfold waitPoll
  repeat' first
    | with_reducible assumption
    | (intro)
    | with_reducible apply keeps_isOpc
    | with_reducible apply keeps_issueKind

theorem keeps_signalAck {m₀ : Nat} {s₀ : State} {t cycles : Nat} (hM₀ : Sub 1476395501 m₀) {s : State}
    (h₀ : Keeps m₀ s₀ s) : Keeps m₀ s₀ (signalAck t cycles s) := by
  unfold signalAck
  try dsimp only
  repeat' first
    | with_reducible assumption
    | exact hM₀.le (by decide)
    | (intro)
    | with_reducible apply keeps_acknowledged
    | with_reducible apply keeps_codeOf
    | with_reducible apply keeps_completeIns
    | split

/-! ### Machine/GenCommands.lean -/

theorem keeps_showHolds {m₀ : Nat} {s₀ : State} (hM₀ : Sub 1 m₀) {s : State} (h₀ : Keeps m₀ s₀ s) : Keeps m₀ s₀
    (showHolds s) := by
  unfold showHolds
  repeat' first
    | with_reducible assumption
    | (intro)
    | with_reducible apply keeps_wrAt
    | with_reducible apply Keeps.foldl

theorem keeps_retire {m₀ : Nat} {s₀ : State} {mb : Nat} (hM₀ : Sub 129 m₀) {s : State} (h₀ : Keeps m₀ s₀ s) :
    Keeps m₀ s₀ (retire mb s) := by
  unfold retire
  try dsimp only
  repeat' first
    | with_reducible assumption
    | exact hM₀.le (by decide)
    | with_reducible apply keeps_showHolds
    | with_reducible apply keeps_wrAt
    | with_reducible apply Keeps.ite
    | with_reducible apply Keeps.upd_gen

theorem keeps_mbBind {m₀ : Nat} {s₀ : State} {mb mode need : Nat} (hM₀ : Sub 134217889 m₀) {s : State}
    (h₀ : Keeps m₀ s₀ s) : Keeps m₀ s₀ (mbBind mb mode need s) := by
  unfold mbBind
  try dsimp only
  repeat' first
    | with_reducible assumption
    | exact hM₀.le (by decide)
    | with_reducible apply keeps_logErr
    | with_reducible apply keeps_retire
    | with_reducible apply keeps_showHolds
    | with_reducible apply keeps_wrAt
    | with_reducible apply Keeps.ite
    | split
    | with_reducible apply Keeps.upd_gen

theorem keeps_bindingCopy {m₀ : Nat} {s₀ : State} {page mb : Nat} (hM₀ : Sub 128 m₀) {s : State}
    (h₀ : Keeps m₀ s₀ s) : Keeps m₀ s₀ (bindingCopy page mb s) := by
  unfold bindingCopy
  try dsimp only
  repeat' first
    | with_reducible assumption
    | with_reducible apply Keeps.ite
    | split
    | with_reducible apply Keeps.upd_gen

theorem keeps_setPhase {m₀ : Nat} {s₀ : State} {v : Nat} (hM₀ : Sub 1 m₀) {s : State} (h₀ : Keeps m₀ s₀ s) :
    Keeps m₀ s₀ (setPhase v s) := by
  unfold setPhase
  repeat' first
    | with_reducible assumption
    | with_reducible apply keeps_wr

theorem keeps_openStep {m₀ : Nat} {s₀ : State} (hM₀ : Sub 129 m₀) {s : State} (h₀ : Keeps m₀ s₀ s) : Keeps m₀ s₀
    (openStep s) := by
  unfold openStep
  try dsimp only
  repeat' first
    | with_reducible assumption
    | exact hM₀.le (by decide)
    | with_reducible apply keeps_wr
    | with_reducible apply Keeps.upd_gen

theorem keeps_clearSteps {m₀ : Nat} {s₀ : State} (hM₀ : Sub 2177 m₀) {s : State} (h₀ : Keeps m₀ s₀ s) : Keeps m₀ s₀
    (clearSteps s) := by
  unfold clearSteps
  try dsimp only
  repeat' first
    | with_reducible assumption
    | exact hM₀.le (by decide)
    | with_reducible apply keeps_setPhase
    | with_reducible apply keeps_wr
    | with_reducible apply Keeps.upd_gen_mon

theorem keeps_genEnable {m₀ : Nat} {s₀ : State} {on : Bool} (hM₀ : Sub 2177 m₀) {s : State} (h₀ : Keeps m₀ s₀ s) :
    Keeps m₀ s₀ (genEnable on s) := by
  unfold genEnable
  try dsimp only
  repeat' first
    | with_reducible assumption
    | exact hM₀.le (by decide)
    | with_reducible apply keeps_clearSteps
    | with_reducible apply keeps_openStep
    | with_reducible apply keeps_wr
    | with_reducible apply Keeps.ite

theorem keeps_stepOpenNext {m₀ : Nat} {s₀ : State} (hM₀ : Sub 129 m₀) {s : State} (h₀ : Keeps m₀ s₀ s) : Keeps m₀ s₀
    (stepOpenNext s) := by
  unfold stepOpenNext
  repeat' first
    | with_reducible assumption
    | with_reducible apply keeps_openStep
    | with_reducible apply Keeps.ite
    | split

theorem keeps_refuseEntry {m₀ : Nat} {s₀ : State} {step code : Nat} (hM₀ : Sub 134217889 m₀) {t₀ : State}
    (h₀ : Keeps m₀ s₀ t₀) : Keeps m₀ s₀ (runM (refuseEntry step code) t₀).2 := by
  unfold refuseEntry
  repeat' first
    | with_reducible assumption
    | exact hM₀.le (by decide)
    | with_reducible apply keeps_logErr
    | with_reducible apply keeps_vetoStep
    | with_reducible apply Keeps.m_modify
    | with_reducible apply Keeps.ite

theorem keeps_readOpenEntry {m₀ : Nat} {s₀ : State} {step i : Nat} (hM₀ : Sub 1476397039 m₀) {t₀ : State}
    (h₀ : Keeps m₀ s₀ t₀) : Keeps m₀ s₀ (runM (readOpenEntry step i) t₀).2 := by
  unfold readOpenEntry
  try dsimp only
  repeat' first
    | with_reducible assumption
    | exact hM₀.le (by decide)
    | (intro)
    | with_reducible apply keeps_busRead
    | with_reducible apply keeps_catchCode
    | with_reducible apply keeps_refuseEntry
    | with_reducible apply Keeps.m_bind
    | with_reducible apply Keeps.m_pure
    | with_reducible apply Keeps.m_ite
    | with_reducible apply Keeps.m_gets
    | split

theorem keeps_copyEntry {m₀ : Nat} {s₀ : State} {step : Nat} {e : OpenEntry} (hM₀ : Sub 1543505919 m₀) {t₀ : State}
    (h₀ : Keeps m₀ s₀ t₀) : Keeps m₀ s₀ (runM (copyEntry step e) t₀).2 := by
  unfold copyEntry
  repeat' first
    | with_reducible assumption
    | exact hM₀.le (by decide)
    | (intro)
    | with_reducible apply keeps_busRead
    | with_reducible apply keeps_busWrite
    | with_reducible apply keeps_codeOf
    | with_reducible apply keeps_refuseEntry
    | with_reducible apply Keeps.m_get_bind
    | with_reducible apply Keeps.m_bind
    | with_reducible apply Keeps.m_pure
    | with_reducible apply Keeps.m_ite

theorem keeps_walkOpenList {m₀ : Nat} {s₀ : State} {step : Nat} (hM₀ : Sub 1543505919 m₀) :
    ∀ (x0 : List Nat) (t₀ : State), Keeps m₀ s₀ t₀ → Keeps m₀ s₀ (runM (walkOpenList step x0) t₀).2
  | [], t₀, h₀ => by
    unfold walkOpenList
    repeat' first
      | with_reducible assumption
      | exact hM₀.le (by decide)
      | (intro)
      | (with_reducible apply keeps_walkOpenList hM₀)
      | with_reducible apply keeps_copyEntry
      | with_reducible apply keeps_readOpenEntry
      | with_reducible apply Keeps.m_bind
      | with_reducible apply Keeps.m_pure
      | split
  | i :: is, t₀, h₀ => by
    unfold walkOpenList
    repeat' first
      | with_reducible assumption
      | exact hM₀.le (by decide)
      | (intro)
      | (with_reducible apply keeps_walkOpenList hM₀)
      | with_reducible apply keeps_copyEntry
      | with_reducible apply keeps_readOpenEntry
      | with_reducible apply Keeps.m_bind
      | with_reducible apply Keeps.m_pure
      | split

theorem keeps_stallOpening {m₀ : Nat} {s₀ : State} (hM₀ : Sub 134217761 m₀) {s : State} (h₀ : Keeps m₀ s₀ s) :
    Keeps m₀ s₀ (stallOpening s) := by
  unfold stallOpening
  try dsimp only
  repeat' first
    | with_reducible assumption
    | exact hM₀.le (by decide)
    | with_reducible apply keeps_bump
    | with_reducible apply keeps_raiseBit
    | with_reducible apply keeps_setPhase
    | with_reducible apply keeps_wr
    | with_reducible apply Keeps.ite

theorem keeps_openingCopies {m₀ : Nat} {s₀ : State} {step : Nat} (hM₀ : Sub 1543505919 m₀) {t₀ : State}
    (h₀ : Keeps m₀ s₀ t₀) : Keeps m₀ s₀ (runM (openingCopies step) t₀).2 := by
  unfold openingCopies
  try dsimp only
  repeat' first
    | with_reducible assumption
    | exact hM₀.le (by decide)
    | (intro)
    | with_reducible apply keeps_setPhase
    | with_reducible apply keeps_walkOpenList
    | with_reducible apply Keeps.m_bind
    | with_reducible apply Keeps.m_modify
    | with_reducible apply Keeps.m_gets
    | with_reducible apply Keeps.upd_gen

theorem keeps_openingDone {m₀ : Nat} {s₀ : State} {step : Nat} (hM₀ : Sub 134217897 m₀) {t₀ : State}
    (h₀ : Keeps m₀ s₀ t₀) : Keeps m₀ s₀ (runM (openingDone step) t₀).2 := by
  unfold openingDone
  try dsimp only
  repeat' first
    | with_reducible assumption
    | exact hM₀.le (by decide)
    | (intro)
    | with_reducible apply keeps_acknowledged
    | with_reducible apply keeps_codeOf
    | with_reducible apply keeps_refuseEntry
    | with_reducible apply keeps_setPhase
    | with_reducible apply Keeps.m_bind
    | with_reducible apply Keeps.m_modify
    | with_reducible apply Keeps.m_ite

theorem keeps_pendingSlotOpen {m₀ : Nat} {s₀ : State} (hM₀ : Sub 1543505919 m₀) {s : State} (h₀ : Keeps m₀ s₀ s) :
    Keeps m₀ s₀ (pendingSlotOpen s) := by
  unfold pendingSlotOpen
  try dsimp only
  repeat' first
    | with_reducible assumption
    | exact hM₀.le (by decide)
    | (intro)
    | with_reducible apply keeps_attempt
    | with_reducible apply keeps_openingCopies
    | with_reducible apply keeps_openingDone
    | with_reducible apply keeps_stallOpening
    | with_reducible apply keeps_wr
    | with_reducible apply Keeps.ite
    | split

end Sys2Proof.Machine
end

