-- ==== Sys2Proof/Laws/KeepsPumps.lean ====
section
/-! SUPPORT. What each operation on pumps, packing and wellheads can do to the state, as `Keeps`. -/

namespace Sys2Proof.Machine

/-! ### Machine/Pumps.lean -/

theorem keeps_putSlot {m₀ : Nat} {s₀ : State} {p k : Nat} {y : Xfer} (hM₀ : Sub 4097 m₀) {s : State}
    (h₀ : Keeps m₀ s₀ s) : Keeps m₀ s₀ (putSlot p k y s) := by
  unfold putSlot
  try dsimp only
  repeat' first
    | with_reducible assumption
    | exact hM₀.le (by decide)
    | with_reducible apply keeps_setPump
    | with_reducible apply keeps_showPump

theorem keeps_showSlots {m₀ : Nat} {s₀ : State} {p : Nat} (hM₀ : Sub 1 m₀) {s : State} (h₀ : Keeps m₀ s₀ s) :
    Keeps m₀ s₀ (showSlots p s) := by
  unfold showSlots
  repeat' first
    | with_reducible assumption
    | with_reducible apply keeps_showPacker
    | with_reducible apply keeps_showPump
    | with_reducible apply Keeps.ite

theorem keeps_pmSubmit {m₀ : Nat} {s₀ : State} {n off : Nat} {data : List Byte} (hM₀ : Sub 134221857 m₀) {s : State}
    (h₀ : Keeps m₀ s₀ s) : Keeps m₀ s₀ (pmSubmit n off data s) := by
  unfold pmSubmit
  try dsimp only
  repeat' first
    | with_reducible assumption
    | exact hM₀.le (by decide)
    | with_reducible apply keeps_bump
    | with_reducible apply keeps_logErr
    | with_reducible apply keeps_setPump
    | with_reducible apply keeps_showPump
    | with_reducible apply Keeps.ite

theorem keeps_takeSubmission {m₀ : Nat} {s₀ : State} {p k kind : Nat} (hM₀ : Sub 1476401007 m₀) {t₀ : State}
    (h₀ : Keeps m₀ s₀ t₀) : Keeps m₀ s₀ (runM (takeSubmission p k kind) t₀).2 := by
  unfold takeSubmission
  try dsimp only
  repeat' first
    | with_reducible assumption
    | exact hM₀.le (by decide)
    | (intro)
    | with_reducible apply keeps_busRead
    | with_reducible apply keeps_catchCode
    | with_reducible apply keeps_putSlot
    | with_reducible apply keeps_setPump
    | with_reducible apply Keeps.m_get_bind
    | with_reducible apply Keeps.m_pure_bind
    | with_reducible apply Keeps.m_bind
    | with_reducible apply Keeps.m_set
    | with_reducible apply Keeps.m_ite
    | with_reducible apply Keeps.m_waitFor
    | split

theorem keeps_xferRead {m₀ : Nat} {s₀ : State} {w : Who} {y : Xfer} {a n : Nat} (hM₀ : Sub 1476396911 m₀)
    {t₀ : State} (h₀ : Keeps m₀ s₀ t₀) : Keeps m₀ s₀ (runM (xferRead w y a n) t₀).2 := by
  unfold xferRead
  repeat' first
    | with_reducible assumption
    | with_reducible apply keeps_busRead
    | with_reducible apply keeps_winReadFor
    | split

theorem keeps_xferWrite {m₀ : Nat} {s₀ : State} {p : Nat} {w : Who} {a : Nat} {d : List PByte}
    (hM₀ : Sub 1543505791 m₀) {t₀ : State} (h₀ : Keeps m₀ s₀ t₀) : Keeps m₀ s₀ (runM (xferWrite p w a d) t₀).2 := by
  unfold xferWrite
  repeat' first
    | with_reducible assumption
    | exact hM₀.le (by decide)
    | (intro)
    | with_reducible apply keeps_bump
    | with_reducible apply keeps_busWrite
    | with_reducible apply Keeps.m_modify_bind
    | with_reducible apply Keeps.m_bind
    | with_reducible apply Keeps.m_pure

theorem keeps_copyRows {m₀ : Nat} {s₀ : State} {p k : Nat} {y : Xfer} (hM₀ : Sub 1543505791 m₀) :
    ∀ (x0 : List Nat) (t₀ : State), Keeps m₀ s₀ t₀ → Keeps m₀ s₀ (runM (copyRows p k y x0) t₀).2
  | [], t₀, h₀ => by
    unfold copyRows
    try dsimp only
    repeat' first
      | with_reducible assumption
      | exact hM₀.le (by decide)
      | (intro)
      | (with_reducible apply keeps_copyRows hM₀)
      | with_reducible apply keeps_catchCode
      | with_reducible apply keeps_xferRead
      | with_reducible apply keeps_xferWrite
      | with_reducible apply Keeps.m_bind
      | with_reducible apply Keeps.m_pure
      | split
  | r :: rs, t₀, h₀ => by
    unfold copyRows
    try dsimp only
    repeat' first
      | with_reducible assumption
      | exact hM₀.le (by decide)
      | (intro)
      | (with_reducible apply keeps_copyRows hM₀)
      | with_reducible apply keeps_catchCode
      | with_reducible apply keeps_xferRead
      | with_reducible apply keeps_xferWrite
      | with_reducible apply Keeps.m_bind
      | with_reducible apply Keeps.m_pure
      | split

theorem keeps_readRow {m₀ : Nat} {s₀ : State} {rd_ : Nat → Nat → M (List PByte)} {f : FormatWord} {n a b : Nat}
    (h_rd_ : ∀ (a₀ : Nat) (b₀ : Nat) {t : State}, Keeps m₀ s₀ t → Keeps m₀ s₀ (runM (rd_ a₀ b₀) t).2) {t₀ : State}
    (h₀ : Keeps m₀ s₀ t₀) : Keeps m₀ s₀ (runM (readRow rd_ f n a b) t₀).2 := by
  unfold readRow
  try dsimp only
  repeat' first
    | with_reducible assumption
    | (intro)
    | with_reducible apply h_rd_
    | with_reducible apply Keeps.m_pure_bind
    | with_reducible apply Keeps.m_bind
    | with_reducible apply Keeps.m_pure
    | with_reducible apply Keeps.m_ite

theorem keeps_convertRows {m₀ : Nat} {s₀ : State} {p k : Nat} {y : Xfer} {cs cd : Nat} {rnd : Nat → Nat}
    (hM₀ : Sub 1543505791 m₀) :
    ∀ (x0 : List Nat) (t₀ : State), Keeps m₀ s₀ t₀ → Keeps m₀ s₀ (runM (convertRows p k y cs cd rnd x0) t₀).2
  | [], t₀, h₀ => by
    unfold convertRows
    try dsimp only
    repeat' first
      | with_reducible assumption
      | exact hM₀.le (by decide)
      | (intro)
      | (with_reducible apply keeps_convertRows hM₀)
      | with_reducible apply keeps_catchCode
      | with_reducible apply keeps_readRow
      | with_reducible apply keeps_xferRead
      | with_reducible apply keeps_xferWrite
      | with_reducible apply Keeps.m_bind
      | with_reducible apply Keeps.m_pure
      | split
  | r :: rs, t₀, h₀ => by
    unfold convertRows
    try dsimp only
    repeat' first
      | with_reducible assumption
      | exact hM₀.le (by decide)
      | (intro)
      | (with_reducible apply keeps_convertRows hM₀)
      | with_reducible apply keeps_catchCode
      | with_reducible apply keeps_readRow
      | with_reducible apply keeps_xferRead
      | with_reducible apply keeps_xferWrite
      | with_reducible apply Keeps.m_bind
      | with_reducible apply Keeps.m_pure
      | split

theorem keeps_endXfer {m₀ : Nat} {s₀ : State} {p k : Nat} {y : Xfer} {code : Nat} (hM₀ : Sub 4097 m₀) {t₀ : State}
    (h₀ : Keeps m₀ s₀ t₀) : Keeps m₀ s₀ (runM (endXfer p k y code) t₀).2 := by
  unfold endXfer
  repeat' first
    | with_reducible assumption
    | with_reducible apply keeps_putSlot
    | with_reducible apply Keeps.m_modify

theorem keeps_runCopy {m₀ : Nat} {s₀ : State} {p k : Nat} {y : Xfer} (hM₀ : Sub 1543509887 m₀) {t₀ : State}
    (h₀ : Keeps m₀ s₀ t₀) : Keeps m₀ s₀ (runM (runCopy p k y) t₀).2 := by
  unfold runCopy
  try dsimp only
  repeat' first
    | with_reducible assumption
    | exact hM₀.le (by decide)
    | (intro)
    | with_reducible apply keeps_copyRows
    | with_reducible apply keeps_endXfer
    | with_reducible apply Keeps.m_get_bind
    | with_reducible apply Keeps.m_bind
    | split

theorem keeps_runConvert {m₀ : Nat} {s₀ : State} {p k : Nat} {y : Xfer} (hM₀ : Sub 1543509887 m₀) {t₀ : State}
    (h₀ : Keeps m₀ s₀ t₀) : Keeps m₀ s₀ (runM (runConvert p k y) t₀).2 := by
  unfold runConvert
  try dsimp only
  repeat' first
    | with_reducible assumption
    | exact hM₀.le (by decide)
    | (intro)
    | with_reducible apply keeps_catchCode
    | with_reducible apply keeps_convertRows
    | with_reducible apply keeps_endXfer
    | with_reducible apply keeps_readCoarse
    | with_reducible apply keeps_refuseSome
    | with_reducible apply Keeps.m_get_bind
    | with_reducible apply Keeps.m_bind
    | with_reducible apply Keeps.m_pure
    | split

theorem keeps_startStream {m₀ : Nat} {s₀ : State} {p k : Nat} {y : Xfer} (hM₀ : Sub 1476401007 m₀) {t₀ : State}
    (h₀ : Keeps m₀ s₀ t₀) : Keeps m₀ s₀ (runM (startStream p k y) t₀).2 := by
  unfold startStream
  repeat' first
    | with_reducible assumption
    | exact hM₀.le (by decide)
    | (intro)
    | with_reducible apply keeps_catchCode
    | with_reducible apply keeps_endXfer
    | with_reducible apply keeps_putSlot
    | with_reducible apply keeps_xferRead
    | with_reducible apply Keeps.m_get_bind
    | with_reducible apply Keeps.m_bind
    | with_reducible apply Keeps.m_pure
    | with_reducible apply Keeps.m_modify
    | split

theorem keeps_pumpStart {m₀ : Nat} {s₀ : State} {p k kind : Nat} (hM₀ : Sub 1543509887 m₀) {s : State}
    (h₀ : Keeps m₀ s₀ s) : Keeps m₀ s₀ (pumpStart p k kind s) := by
  unfold pumpStart
  try dsimp only
  repeat' first
    | with_reducible assumption
    | exact hM₀.le (by decide)
    | (intro)
    | with_reducible apply keeps_attempt
    | with_reducible apply keeps_runConvert
    | with_reducible apply keeps_runCopy
    | with_reducible apply keeps_startStream
    | with_reducible apply keeps_takeSubmission
    | with_reducible apply Keeps.ite
    | split

theorem keeps_runningStream {m₀ : Nat} {s₀ s : State} {p k : Nat} {t₀ : State} (h₀ : Keeps m₀ s₀ t₀) : Keeps m₀ s₀
    (runM (runningStream s p k) t₀).2 := by
  unfold runningStream
  repeat' first
    | with_reducible assumption
    | (intro)
    | with_reducible apply Keeps.m_bind
    | with_reducible apply Keeps.m_pure
    | with_reducible apply Keeps.m_throw
    | with_reducible apply Keeps.m_waitFor
    | split

theorem keeps_streamWork {m₀ : Nat} {s₀ : State} {p k : Nat} {m : M Xfer} {y : Xfer} (hM₀ : Sub 4105 m₀)
    (h_m : ∀ {t : State}, Keeps m₀ s₀ t → Keeps m₀ s₀ (runM (m) t).2) {t₀ : State} (h₀ : Keeps m₀ s₀ t₀) :
    Keeps m₀ s₀ (runM (streamWork p k m y) t₀).2 := by
  unfold streamWork
  try dsimp only
  repeat' first
    | with_reducible assumption
    | exact hM₀.le (by decide)
    | (intro)
    | with_reducible apply keeps_catchCode
    | with_reducible apply keeps_endXfer
    | with_reducible apply keeps_putSlot
    | with_reducible apply Keeps.m_modify_bind
    | with_reducible apply Keeps.m_bind
    | with_reducible apply Keeps.m_modify
    | split
    | with_reducible apply Keeps.upd_bus

theorem keeps_streamCopy {m₀ : Nat} {s₀ : State} {p k : Nat} (hM₀ : Sub 1543509887 m₀) {t₀ : State}
    (h₀ : Keeps m₀ s₀ t₀) : Keeps m₀ s₀ (runM (streamCopy p k) t₀).2 := by
  unfold streamCopy
  try dsimp only
  repeat' first
    | with_reducible assumption
    | exact hM₀.le (by decide)
    | (intro)
    | with_reducible apply keeps_runningStream
    | with_reducible apply keeps_streamWork
    | with_reducible apply keeps_xferRead
    | with_reducible apply keeps_xferWrite
    | with_reducible apply Keeps.m_get_bind
    | with_reducible apply Keeps.m_bind
    | with_reducible apply Keeps.m_pure
    | with_reducible apply Keeps.m_waitFor

theorem keeps_streamCounts {m₀ : Nat} {s₀ : State} {p k : Nat} (hM₀ : Sub 1543509887 m₀) {t₀ : State}
    (h₀ : Keeps m₀ s₀ t₀) : Keeps m₀ s₀ (runM (streamCounts p k) t₀).2 := by
  unfold streamCounts
  repeat' first
    | with_reducible assumption
    | exact hM₀.le (by decide)
    | (intro)
    | with_reducible apply keeps_acknowledged
    | with_reducible apply keeps_busWriteNat
    | with_reducible apply keeps_runningStream
    | with_reducible apply keeps_streamWork
    | with_reducible apply Keeps.m_get_bind
    | with_reducible apply Keeps.m_bind
    | with_reducible apply Keeps.m_pure
    | with_reducible apply Keeps.m_waitFor

theorem keeps_recordFront {m₀ : Nat} {s₀ : State} {p k : Nat} (hM₀ : Sub 1543509887 m₀) {s : State}
    (h₀ : Keeps m₀ s₀ s) : Keeps m₀ s₀ (recordFront p k s) := by
  unfold recordFront
  repeat' first
    | with_reducible assumption
    | exact hM₀.le (by decide)
    | (intro)
    | with_reducible apply keeps_attempt
    | with_reducible apply keeps_streamCopy
    | with_reducible apply keeps_streamCounts

theorem keeps_dryPeriod {m₀ : Nat} {s₀ : State} {p : Nat} {y : Xfer} (hM₀ : Sub 134217761 m₀) {s : State}
    (h₀ : Keeps m₀ s₀ s) : Keeps m₀ s₀ (dryPeriod p y s).2 := by
  unfold dryPeriod
  try dsimp only
  repeat' first
    | with_reducible assumption
    | exact hM₀.le (by decide)
    | with_reducible apply keeps_bump
    | with_reducible apply keeps_raiseBit
    | with_reducible apply Keeps.ite
    | split

theorem keeps_streamWord {m₀ : Nat} {s₀ : State} {w : Who} {y : Xfer} {o : Nat} (hM₀ : Sub 1476396911 m₀)
    {t₀ : State} (h₀ : Keeps m₀ s₀ t₀) : Keeps m₀ s₀ (runM (streamWord w y o) t₀).2 := by
  unfold streamWord
  repeat' first
    | with_reducible assumption
    | (intro)
    | with_reducible apply keeps_xferRead
    | with_reducible apply Keeps.m_bind
    | with_reducible apply Keeps.m_pure

theorem keeps_streamPoll {m₀ : Nat} {s₀ : State} {p k : Nat} (hM₀ : Sub 1476401007 m₀) {t₀ : State}
    (h₀ : Keeps m₀ s₀ t₀) : Keeps m₀ s₀ (runM (streamPoll p k) t₀).2 := by
  unfold streamPoll
  try dsimp only
  repeat' first
    | with_reducible assumption
    | exact hM₀.le (by decide)
    | (intro)
    | with_reducible apply keeps_catchCode
    | with_reducible apply keeps_dryPeriod
    | with_reducible apply keeps_endXfer
    | with_reducible apply keeps_putSlot
    | with_reducible apply keeps_runningStream
    | with_reducible apply keeps_streamWord
    | with_reducible apply Keeps.m_get_bind
    | with_reducible apply Keeps.m_bind
    | with_reducible apply Keeps.m_pure
    | with_reducible apply Keeps.m_modify
    | with_reducible apply Keeps.m_ite
    | split

theorem keeps_freeXfer {m₀ : Nat} {s₀ : State} {p k : Nat} {y : Xfer} (hM₀ : Sub 134221857 m₀) {s : State}
    (h₀ : Keeps m₀ s₀ s) : Keeps m₀ s₀ (freeXfer p k y s) := by
  unfold freeXfer
  try dsimp only
  repeat' first
    | with_reducible assumption
    | exact hM₀.le (by decide)
    | with_reducible apply keeps_bump
    | with_reducible apply keeps_logErr
    | with_reducible apply keeps_setPump
    | with_reducible apply keeps_showSlots
    | with_reducible apply Keeps.ite

theorem keeps_recordXfer {m₀ : Nat} {s₀ : State} {p k : Nat} {y : Xfer} (hM₀ : Sub 1543505791 m₀) {t₀ : State}
    (h₀ : Keeps m₀ s₀ t₀) : Keeps m₀ s₀ (runM (recordXfer p k y) t₀).2 := by
  unfold recordXfer
  repeat' first
    | with_reducible assumption
    | (intro)
    | with_reducible apply keeps_busWrite
    | with_reducible apply keeps_codeOf
    | with_reducible apply Keeps.m_bind
    | with_reducible apply Keeps.m_pure
    | with_reducible apply Keeps.m_ite

theorem keeps_reportXfer {m₀ : Nat} {s₀ : State} {p k : Nat} {y : Xfer} (hM₀ : Sub 1543509887 m₀) {t₀ : State}
    (h₀ : Keeps m₀ s₀ t₀) : Keeps m₀ s₀ (runM (reportXfer p k y) t₀).2 := by
  unfold reportXfer
  repeat' first
    | with_reducible assumption
    | exact hM₀.le (by decide)
    | with_reducible apply keeps_freeXfer
    | with_reducible apply keeps_recordXfer
    | with_reducible apply Keeps.m_modify_bind

theorem keeps_dropSlotAdd {m₀ : Nat} {s₀ : State} {p k : Nat} (hM₀ : Sub 4097 m₀) {s : State} (h₀ : Keeps m₀ s₀ s) :
    Keeps m₀ s₀ (dropSlotAdd p k s) := by
  unfold dropSlotAdd
  repeat' first
    | with_reducible assumption
    | with_reducible apply keeps_putSlot
    | split

theorem keeps_descComplete {m₀ : Nat} {s₀ : State} {p k : Nat} (hM₀ : Sub 1543509887 m₀) {t₀ : State}
    (h₀ : Keeps m₀ s₀ t₀) : Keeps m₀ s₀ (runM (descComplete p k) t₀).2 := by
  unfold descComplete
  try dsimp only
  repeat' first
    | with_reducible assumption
    | exact hM₀.le (by decide)
    | (intro)
    | with_reducible apply keeps_acknowledged
    | with_reducible apply keeps_busAdd
    | with_reducible apply keeps_codeOf
    | with_reducible apply keeps_putSlot
    | with_reducible apply keeps_reportXfer
    | with_reducible apply Keeps.m_get_bind
    | with_reducible apply Keeps.m_bind
    | with_reducible apply Keeps.m_throw
    | with_reducible apply Keeps.m_modify
    | with_reducible apply Keeps.m_ite
    | with_reducible apply Keeps.m_waitFor
    | split

theorem keeps_finishSlot {m₀ : Nat} {s₀ : State} {p k : Nat} (hM₀ : Sub 1543510015 m₀) {s : State}
    (h₀ : Keeps m₀ s₀ s) : Keeps m₀ s₀ (finishSlot p k s) := by
  unfold finishSlot
  repeat' first
    | with_reducible assumption
    | exact hM₀.le (by decide)
    | (intro)
    | with_reducible apply keeps_attempt
    | with_reducible apply keeps_descComplete
    | with_reducible apply keeps_dropSlotAdd
    | with_reducible apply keeps_offerLeft

theorem keeps_pumpReport {m₀ : Nat} {s₀ : State} {t cycles : Nat} (hM₀ : Sub 1476399597 m₀) {s : State}
    (h₀ : Keeps m₀ s₀ s) : Keeps m₀ s₀ (pumpReport t cycles s) := by
  unfold pumpReport
  try dsimp only
  repeat' first
    | with_reducible assumption
    | exact hM₀.le (by decide)
    | with_reducible apply keeps_completeIns
    | with_reducible apply keeps_setPump
    | split

/-! ### Machine/Packer.lean -/

theorem keeps_packWrite {m₀ : Nat} {s₀ : State} {p k a : Nat} {d : List PByte} (hM₀ : Sub 1543505791 m₀)
    {t₀ : State} (h₀ : Keeps m₀ s₀ t₀) : Keeps m₀ s₀ (runM (packWrite p k a d) t₀).2 := by
  unfold packWrite
  repeat' first
    | with_reducible assumption
    | (intro)
    | with_reducible apply keeps_xferWrite
    | with_reducible apply Keeps.m_bind
    | with_reducible apply Keeps.m_pure

theorem keeps_endWithMark {m₀ : Nat} {s₀ : State} {p k : Nat} {y : Xfer} {v : Nat} {count : State → State}
    (hM₀ : Sub 1543509887 m₀) (h_count : ∀ {t : State}, Keeps m₀ s₀ t → Keeps m₀ s₀ (count t)) {t₀ : State}
    (h₀ : Keeps m₀ s₀ t₀) : Keeps m₀ s₀ (runM (endWithMark p k y v count) t₀).2 := by
  unfold endWithMark
  try dsimp only
  repeat' first
    | with_reducible assumption
    | exact hM₀.le (by decide)
    | (intro)
    | with_reducible apply h_count
    | with_reducible apply keeps_codeOf
    | with_reducible apply keeps_endXfer
    | with_reducible apply keeps_xferWrite
    | with_reducible apply Keeps.m_modify_bind
    | with_reducible apply Keeps.m_bind
    | with_reducible apply Keeps.m_pure
    | with_reducible apply Keeps.m_ite

theorem keeps_countDone {m₀ : Nat} {s₀ : State} {p : Nat} {y : Xfer} (hM₀ : Sub 1 m₀) {s : State}
    (h₀ : Keeps m₀ s₀ s) : Keeps m₀ s₀ (countDone p y s) := by
  unfold countDone
  repeat' first
    | with_reducible assumption
    | with_reducible apply keeps_bump

theorem keeps_packedFails {m₀ : Nat} {s₀ : State} {p k : Nat} {y : Xfer} {c : Nat} (hM₀ : Sub 1543509887 m₀)
    {t₀ : State} (h₀ : Keeps m₀ s₀ t₀) : Keeps m₀ s₀ (runM (packedFails p k y c) t₀).2 := by
  unfold packedFails
  repeat' first
    | with_reducible assumption
    | exact hM₀.le (by decide)
    | (intro)
    | with_reducible apply keeps_bump
    | with_reducible apply keeps_countDone
    | with_reducible apply keeps_endWithMark
    | with_reducible apply keeps_endXfer
    | with_reducible apply keeps_logErr
    | with_reducible apply keeps_raiseBit
    | with_reducible apply keeps_wr
    | with_reducible apply Keeps.m_ite

theorem keeps_packFront {m₀ : Nat} {s₀ s : State} {p kind stage : Nat} {t₀ : State} (h₀ : Keeps m₀ s₀ t₀) :
    Keeps m₀ s₀ (runM (packFront s p kind stage) t₀).2 := by
  unfold packFront
  repeat' first
    | with_reducible assumption
    | (intro)
    | with_reducible apply Keeps.m_bind
    | with_reducible apply Keeps.m_pure
    | with_reducible apply Keeps.m_throw
    | with_reducible apply Keeps.m_waitFor
    | split

theorem keeps_packCommand {m₀ : Nat} {s₀ : State} {p kind stage : Nat} {run : Nat → Xfer → M Unit}
    (hM₀ : Sub 201326617 m₀)
    (h_run : ∀ (a₀ : Nat) (b₀ : Xfer) {t : State}, Keeps m₀ s₀ t → Keeps m₀ s₀ (runM (run a₀ b₀) t).2) {s : State}
    (h₀ : Keeps m₀ s₀ s) : Keeps m₀ s₀ (packCommand p kind stage run s) := by
  unfold packCommand
  try dsimp only
  repeat' first
    | with_reducible assumption
    | (intro)
    | with_reducible apply h_run
    | with_reducible apply keeps_attempt
    | with_reducible apply keeps_packFront
    | with_reducible apply Keeps.m_bind
    | with_reducible apply Keeps.ite

theorem keeps_packStart {m₀ : Nat} {s₀ : State} {p k : Nat} {y : Xfer} (hM₀ : Sub 1543509887 m₀) {t₀ : State}
    (h₀ : Keeps m₀ s₀ t₀) : Keeps m₀ s₀ (runM (packStart p k y) t₀).2 := by
  unfold packStart
  try dsimp only
  repeat' first
    | with_reducible assumption
    | exact hM₀.le (by decide)
    | (intro)
    | with_reducible apply keeps_bump
    | with_reducible apply keeps_busReadNat
    | with_reducible apply keeps_catchCode
    | with_reducible apply keeps_codeOf
    | with_reducible apply keeps_endWithMark
    | with_reducible apply keeps_endXfer
    | with_reducible apply keeps_packWrite
    | with_reducible apply keeps_packedFails
    | with_reducible apply keeps_putSlot
    | with_reducible apply keeps_readCoarse
    | with_reducible apply keeps_refuseSome
    | with_reducible apply Keeps.m_get_bind
    | with_reducible apply Keeps.m_modify_bind
    | with_reducible apply Keeps.m_pure_bind
    | with_reducible apply Keeps.m_bind
    | with_reducible apply Keeps.m_pure
    | with_reducible apply Keeps.m_modify
    | with_reducible apply Keeps.m_ite
    | split
    | with_reducible apply Keeps.upd_drawn

theorem keeps_packRow {m₀ : Nat} {s₀ : State} {p k : Nat} {y : Xfer} {ct cp : Nat} {rnd : Nat → Nat} {r : Nat}
    (hM₀ : Sub 1476396911 m₀) {t₀ : State} (h₀ : Keeps m₀ s₀ t₀) : Keeps m₀ s₀
    (runM (packRow p k y ct cp rnd r) t₀).2 := by
  unfold packRow
  try dsimp only
  repeat' first
    | with_reducible assumption
    | (intro)
    | with_reducible apply keeps_readRow
    | with_reducible apply keeps_xferRead
    | with_reducible apply Keeps.m_bind
    | with_reducible apply Keeps.m_pure

theorem keeps_writeChunks {m₀ : Nat} {s₀ : State} {p k : Nat} {y : Xfer} (hM₀ : Sub 1543505791 m₀) :
    ∀ (x0 : List (List PackBlock)) (x1 : Packed) (t₀ : State), Keeps m₀ s₀ t₀ → Keeps m₀ s₀
    (runM (writeChunks p k y x0 x1) t₀).2
  | [], a, t₀, h₀ => by
    unfold writeChunks
    try dsimp only
    repeat' first
      | with_reducible assumption
      | exact hM₀.le (by decide)
      | (intro)
      | (with_reducible apply keeps_writeChunks hM₀)
      | with_reducible apply keeps_bump
      | with_reducible apply keeps_codeOf
      | with_reducible apply keeps_packWrite
      | with_reducible apply Keeps.m_modify_bind
      | with_reducible apply Keeps.m_bind
      | with_reducible apply Keeps.m_pure
      | with_reducible apply Keeps.m_ite
      | with_reducible apply Keeps.ite
      | split
  | bs :: rest, a, t₀, h₀ => by
    unfold writeChunks
    try dsimp only
    repeat' first
      | with_reducible assumption
      | exact hM₀.le (by decide)
      | (intro)
      | (with_reducible apply keeps_writeChunks hM₀)
      | with_reducible apply keeps_bump
      | with_reducible apply keeps_codeOf
      | with_reducible apply keeps_packWrite
      | with_reducible apply Keeps.m_modify_bind
      | with_reducible apply Keeps.m_bind
      | with_reducible apply Keeps.m_pure
      | with_reducible apply Keeps.m_ite
      | with_reducible apply Keeps.ite
      | split

theorem keeps_packBody {m₀ : Nat} {s₀ : State} {p k : Nat} {y : Xfer} (hM₀ : Sub 1543509887 m₀) {t₀ : State}
    (h₀ : Keeps m₀ s₀ t₀) : Keeps m₀ s₀ (runM (packBody p k y) t₀).2 := by
  unfold packBody
  try dsimp only
  repeat' first
    | with_reducible assumption
    | exact hM₀.le (by decide)
    | (intro)
    | with_reducible apply keeps_acknowledged
    | with_reducible apply keeps_catchCode
    | with_reducible apply keeps_codeOf
    | with_reducible apply keeps_endXfer
    | with_reducible apply keeps_packRow
    | with_reducible apply keeps_packWrite
    | with_reducible apply keeps_packedFails
    | with_reducible apply keeps_putSlot
    | with_reducible apply keeps_readCoarse
    | with_reducible apply keeps_readUntil
    | with_reducible apply keeps_writeChunks
    | with_reducible apply Keeps.m_get_bind
    | with_reducible apply Keeps.m_bind
    | with_reducible apply Keeps.m_pure
    | with_reducible apply Keeps.m_modify
    | with_reducible apply Keeps.m_ite
    | split

theorem keeps_packValid {m₀ : Nat} {s₀ : State} {p k : Nat} {y : Xfer} (hM₀ : Sub 1543509887 m₀) {t₀ : State}
    (h₀ : Keeps m₀ s₀ t₀) : Keeps m₀ s₀ (runM (packValid p k y) t₀).2 := by
  unfold packValid
  repeat' first
    | with_reducible assumption
    | exact hM₀.le (by decide)
    | (intro)
    | with_reducible apply keeps_acknowledged
    | with_reducible apply keeps_codeOf
    | with_reducible apply keeps_packWrite
    | with_reducible apply keeps_packedFails
    | with_reducible apply keeps_putSlot
    | with_reducible apply Keeps.m_bind
    | with_reducible apply Keeps.m_modify
    | split

theorem keeps_packEnd {m₀ : Nat} {s₀ : State} {p k : Nat} {y : Xfer} (hM₀ : Sub 1543509887 m₀) {t₀ : State}
    (h₀ : Keeps m₀ s₀ t₀) : Keeps m₀ s₀ (runM (packEnd p k y) t₀).2 := by
  unfold packEnd
  repeat' first
    | with_reducible assumption
    | exact hM₀.le (by decide)
    | (intro)
    | with_reducible apply keeps_acknowledged
    | with_reducible apply keeps_codeOf
    | with_reducible apply keeps_countDone
    | with_reducible apply keeps_endWithMark
    | with_reducible apply keeps_packedFails
    | with_reducible apply Keeps.m_bind
    | split

theorem keeps_unpackRow {m₀ : Nat} {s₀ : State} {p k : Nat} {y : Xfer} {coarse r : Nat} {bs : List PackBlock}
    (hM₀ : Sub 1543505791 m₀) {t₀ : State} (h₀ : Keeps m₀ s₀ t₀) : Keeps m₀ s₀
    (runM (unpackRow p k y coarse r bs) t₀).2 := by
  unfold unpackRow
  try dsimp only
  repeat' first
    | with_reducible assumption
    | (intro)
    | with_reducible apply keeps_packWrite
    | with_reducible apply Keeps.m_bind
    | with_reducible apply Keeps.m_pure
    | with_reducible apply Keeps.m_ite

theorem keeps_unpackRows {m₀ : Nat} {s₀ : State} {p k : Nat} {y : Xfer} {coarse : Nat} (hM₀ : Sub 1543505791 m₀) :
    ∀ (x0 : Nat) (x1 : Nat) (x2 : List PackBlock) (t₀ : State), Keeps m₀ s₀ t₀ → Keeps m₀ s₀
    (runM (unpackRows p k y coarse x0 x1 x2) t₀).2
  | 0, r, bs, t₀, h₀ => by
    unfold unpackRows
    repeat' first
      | with_reducible assumption
      | (intro)
      | (with_reducible apply keeps_unpackRows hM₀)
      | with_reducible apply keeps_codeOf
      | with_reducible apply keeps_unpackRow
      | with_reducible apply Keeps.m_bind
      | with_reducible apply Keeps.m_pure
      | with_reducible apply Keeps.m_ite
      | split
  | n + 1, r, bs, t₀, h₀ => by
    unfold unpackRows
    repeat' first
      | with_reducible assumption
      | (intro)
      | (with_reducible apply keeps_unpackRows hM₀)
      | with_reducible apply keeps_codeOf
      | with_reducible apply keeps_unpackRow
      | with_reducible apply Keeps.m_bind
      | with_reducible apply Keeps.m_pure
      | with_reducible apply Keeps.m_ite
      | split

theorem keeps_readChunk {m₀ : Nat} {s₀ : State} {p k : Nat} {y : Xfer} {c e next : Nat} (hM₀ : Sub 1476396911 m₀)
    {t₀ : State} (h₀ : Keeps m₀ s₀ t₀) : Keeps m₀ s₀ (runM (readChunk p k y c e next) t₀).2 := by
  unfold readChunk
  try dsimp only
  repeat' first
    | with_reducible assumption
    | exact hM₀.le (by decide)
    | (intro)
    | with_reducible apply keeps_bump
    | with_reducible apply keeps_xferRead
    | with_reducible apply Keeps.m_modify_bind
    | with_reducible apply Keeps.m_bind
    | with_reducible apply Keeps.m_pure
    | with_reducible apply Keeps.m_failWith
    | with_reducible apply Keeps.m_ite
    | with_reducible apply Keeps.m_refuseIf
    | split

theorem keeps_unpackChunks {m₀ : Nat} {s₀ : State} {p k : Nat} {y : Xfer} {coarse body : Nat}
    (hM₀ : Sub 1543505791 m₀) :
    ∀ (x0 : List (Nat × Nat)) (x1 : List PackBlock) (x2 : Nat) (t₀ : State), Keeps m₀ s₀ t₀ → Keeps m₀ s₀
    (runM (unpackChunks p k y coarse body x0 x1 x2) t₀).2
  | [], _, _, t₀, h₀ => by
    unfold unpackChunks
    try dsimp only
    repeat' first
      | with_reducible assumption
      | exact hM₀.le (by decide)
      | (intro)
      | (with_reducible apply keeps_unpackChunks hM₀)
      | with_reducible apply keeps_catchCode
      | with_reducible apply keeps_readChunk
      | with_reducible apply keeps_unpackRows
      | with_reducible apply Keeps.m_bind
      | with_reducible apply Keeps.m_pure
      | with_reducible apply Keeps.m_ite
      | split
  | (c, e) :: rest, carry, r, t₀, h₀ => by
    unfold unpackChunks
    try dsimp only
    repeat' first
      | with_reducible assumption
      | exact hM₀.le (by decide)
      | (intro)
      | (with_reducible apply keeps_unpackChunks hM₀)
      | with_reducible apply keeps_catchCode
      | with_reducible apply keeps_readChunk
      | with_reducible apply keeps_unpackRows
      | with_reducible apply Keeps.m_bind
      | with_reducible apply Keeps.m_pure
      | with_reducible apply Keeps.m_ite
      | split

theorem keeps_readPacked {m₀ : Nat} {s₀ : State} {p k : Nat} {y : Xfer} (hM₀ : Sub 1476396911 m₀) {t₀ : State}
    (h₀ : Keeps m₀ s₀ t₀) : Keeps m₀ s₀ (runM (readPacked p k y) t₀).2 := by
  unfold readPacked
  try dsimp only
  repeat' first
    | with_reducible assumption
    | (intro)
    | with_reducible apply keeps_xferRead
    | with_reducible apply Keeps.m_bind
    | with_reducible apply Keeps.m_pure
    | with_reducible apply Keeps.m_refuseIf

theorem keeps_writeScaleRecord {m₀ : Nat} {s₀ : State} {p k : Nat} {y : Xfer} {coarse : Nat}
    (hM₀ : Sub 1543505791 m₀) {t₀ : State} (h₀ : Keeps m₀ s₀ t₀) : Keeps m₀ s₀
    (runM (writeScaleRecord p k y coarse) t₀).2 := by
  unfold writeScaleRecord
  repeat' first
    | with_reducible assumption
    | with_reducible apply keeps_packWrite
    | with_reducible apply Keeps.m_pure
    | with_reducible apply Keeps.m_ite

theorem keeps_unpack {m₀ : Nat} {s₀ : State} {p k : Nat} {y : Xfer} (hM₀ : Sub 1543509887 m₀) {t₀ : State}
    (h₀ : Keeps m₀ s₀ t₀) : Keeps m₀ s₀ (runM (unpack p k y) t₀).2 := by
  unfold unpack
  repeat' first
    | with_reducible assumption
    | exact hM₀.le (by decide)
    | (intro)
    | with_reducible apply keeps_bump
    | with_reducible apply keeps_catchCode
    | with_reducible apply keeps_codeOf
    | with_reducible apply keeps_endXfer
    | with_reducible apply keeps_packedFails
    | with_reducible apply keeps_putSlot
    | with_reducible apply keeps_readPacked
    | with_reducible apply keeps_unpackChunks
    | with_reducible apply keeps_writeScaleRecord
    | with_reducible apply keeps_xferRead
    | with_reducible apply Keeps.m_get_bind
    | with_reducible apply Keeps.m_modify_bind
    | with_reducible apply Keeps.m_bind
    | with_reducible apply Keeps.m_modify
    | with_reducible apply Keeps.m_ite
    | split

theorem keeps_unpackEnd {m₀ : Nat} {s₀ : State} {p k : Nat} {y : Xfer} (hM₀ : Sub 4105 m₀) {t₀ : State}
    (h₀ : Keeps m₀ s₀ t₀) : Keeps m₀ s₀ (runM (unpackEnd p k y) t₀).2 := by
  unfold unpackEnd
  try dsimp only
  repeat' first
    | with_reducible assumption
    | exact hM₀.le (by decide)
    | (intro)
    | with_reducible apply keeps_acknowledged
    | with_reducible apply keeps_codeOf
    | with_reducible apply keeps_countDone
    | with_reducible apply keeps_endXfer
    | with_reducible apply Keeps.m_modify_bind
    | with_reducible apply Keeps.m_bind
    | with_reducible apply Keeps.m_ite

theorem keeps_unpackFront {m₀ : Nat} {s₀ : State} {p : Nat} (hM₀ : Sub 1543509887 m₀) {s : State}
    (h₀ : Keeps m₀ s₀ s) : Keeps m₀ s₀ (unpackFront p s) := by
  unfold unpackFront
  repeat' first
    | with_reducible assumption
    | exact hM₀.le (by decide)
    | (intro)
    | with_reducible apply keeps_packCommand
    | with_reducible apply keeps_unpack
    | with_reducible apply keeps_unpackEnd

/-! ### Machine/Wellhead.lean -/

theorem keeps_allOrNothing {m₀ : Nat} {s₀ : State} {α : Type} {m : M α}
    (h_m : ∀ {t : State}, Keeps m₀ s₀ t → Keeps m₀ s₀ (runM (m) t).2) {t₀ : State} (h₀ : Keeps m₀ s₀ t₀) :
    Keeps m₀ s₀ (runM (allOrNothing m) t₀).2 := by
  unfold allOrNothing
  repeat' first
    | with_reducible assumption
    | (intro)
    | with_reducible apply keeps_catchCode
    | with_reducible apply Keeps.m_get_bind
    | with_reducible apply Keeps.m_set_bind
    | with_reducible apply Keeps.m_bind
    | with_reducible apply Keeps.m_pure
    | split

theorem keeps_freshNat {m₀ : Nat} {s₀ : State} (hM₀ : Sub 268435456 m₀) {t₀ : State} (h₀ : Keeps m₀ s₀ t₀) :
    Keeps m₀ s₀ (runM (freshNat) t₀).2 := by
  unfold freshNat
  repeat' first
    | with_reducible assumption
    | with_reducible apply Keeps.m_get_bind
    | with_reducible apply Keeps.m_set_bind
    | with_reducible apply Keeps.m_pure
    | with_reducible apply Keeps.upd_drawn

theorem keeps_whRead {m₀ : Nat} {s₀ : State} {n a k : Nat} (hM₀ : Sub 1476396911 m₀) {t₀ : State}
    (h₀ : Keeps m₀ s₀ t₀) : Keeps m₀ s₀ (runM (whRead n a k) t₀).2 := by
  unfold whRead
  repeat' first
    | with_reducible assumption
    | (intro)
    | with_reducible apply keeps_busReadNat
    | with_reducible apply Keeps.m_bind
    | with_reducible apply Keeps.m_pure

theorem keeps_whWrite {m₀ : Nat} {s₀ : State} {n a : Nat} {k v : Nat} (hM₀ : Sub 1543505791 m₀) {t₀ : State}
    (h₀ : Keeps m₀ s₀ t₀) : Keeps m₀ s₀ (runM (whWrite n a k v) t₀).2 := by
  unfold whWrite
  repeat' first
    | with_reducible assumption
    | with_reducible apply keeps_busWriteNat

theorem keeps_ptRead {m₀ : Nat} {s₀ : State} {n idx : Nat} {off k : Nat} (hM₀ : Sub 1476396911 m₀) {t₀ : State}
    (h₀ : Keeps m₀ s₀ t₀) : Keeps m₀ s₀ (runM (ptRead n idx off k) t₀).2 := by
  unfold ptRead
  repeat' first
    | with_reducible assumption
    | with_reducible apply keeps_whRead
    | with_reducible apply Keeps.m_get_bind

theorem keeps_ptWrite {m₀ : Nat} {s₀ : State} {n idx : Nat} {off k v : Nat} (hM₀ : Sub 1543505791 m₀) {t₀ : State}
    (h₀ : Keeps m₀ s₀ t₀) : Keeps m₀ s₀ (runM (ptWrite n idx off k v) t₀).2 := by
  unfold ptWrite
  repeat' first
    | with_reducible assumption
    | with_reducible apply keeps_whWrite
    | with_reducible apply Keeps.m_get_bind

theorem keeps_whReg {m₀ : Nat} {s₀ : State} {n : Nat} {f : Field} {v : Nat} (hM₀ : Sub 1 m₀) {t₀ : State}
    (h₀ : Keeps m₀ s₀ t₀) : Keeps m₀ s₀ (runM (whReg n f v) t₀).2 := by
  unfold whReg
  repeat' first
    | with_reducible assumption
    | with_reducible apply keeps_wr
    | with_reducible apply Keeps.m_modify

theorem keeps_whGet {m₀ : Nat} {s₀ : State} {n : Nat} {f : Field} {t₀ : State} (h₀ : Keeps m₀ s₀ t₀) : Keeps m₀ s₀
    (runM (whGet n f) t₀).2 := by
  unfold whGet
  repeat' first
    | with_reducible assumption
    | with_reducible apply Keeps.m_gets

theorem keeps_showLow {m₀ : Nat} {s₀ : State} {n : Nat} (hM₀ : Sub 134217761 m₀) {s : State} (h₀ : Keeps m₀ s₀ s) :
    Keeps m₀ s₀ (showLow n s) := by
  unfold showLow
  try dsimp only
  repeat' first
    | with_reducible assumption
    | exact hM₀.le (by decide)
    | with_reducible apply keeps_raiseBit
    | with_reducible apply keeps_wr
    | with_reducible apply Keeps.ite

theorem keeps_freePage {m₀ : Nat} {s₀ : State} {n idx : Nat} (hM₀ : Sub 1543505791 m₀) {t₀ : State}
    (h₀ : Keeps m₀ s₀ t₀) : Keeps m₀ s₀ (runM (freePage n idx) t₀).2 := by
  unfold freePage
  repeat' first
    | with_reducible assumption
    | exact hM₀.le (by decide)
    | (intro)
    | with_reducible apply keeps_ptWrite
    | with_reducible apply keeps_whGet
    | with_reducible apply keeps_whReg
    | with_reducible apply Keeps.m_bind

theorem keeps_pageIndex {m₀ : Nat} {s₀ : State} {n h : Nat} {t₀ : State} (h₀ : Keeps m₀ s₀ t₀) : Keeps m₀ s₀
    (runM (pageIndex n h) t₀).2 := by
  unfold pageIndex
  repeat' first
    | with_reducible assumption
    | (intro)
    | with_reducible apply keeps_whGet
    | with_reducible apply Keeps.m_bind
    | with_reducible apply Keeps.m_pure
    | with_reducible apply Keeps.m_refuseIf

theorem keeps_pageFresh {m₀ : Nat} {s₀ : State} {n idx serial : Nat} {ok : Nat → Bool} (hM₀ : Sub 1476396911 m₀)
    {t₀ : State} (h₀ : Keeps m₀ s₀ t₀) : Keeps m₀ s₀ (runM (pageFresh n idx serial ok) t₀).2 := by
  unfold pageFresh
  repeat' first
    | with_reducible assumption
    | (intro)
    | with_reducible apply keeps_ptRead
    | with_reducible apply Keeps.m_bind
    | with_reducible apply Keeps.m_refuseIf

theorem keeps_sharePage {m₀ : Nat} {s₀ : State} {n h serial : Nat} (hM₀ : Sub 1543505791 m₀) {t₀ : State}
    (h₀ : Keeps m₀ s₀ t₀) : Keeps m₀ s₀ (runM (sharePage n h serial) t₀).2 := by
  unfold sharePage
  repeat' first
    | with_reducible assumption
    | exact hM₀.le (by decide)
    | (intro)
    | with_reducible apply keeps_pageFresh
    | with_reducible apply keeps_pageIndex
    | with_reducible apply keeps_ptRead
    | with_reducible apply keeps_ptWrite
    | with_reducible apply Keeps.m_bind
    | with_reducible apply Keeps.m_refuseIf

theorem keeps_dropRef {m₀ : Nat} {s₀ : State} {n i : Nat} (hM₀ : Sub 1543505791 m₀) {t₀ : State}
    (h₀ : Keeps m₀ s₀ t₀) : Keeps m₀ s₀ (runM (dropRef n i) t₀).2 := by
  unfold dropRef
  repeat' first
    | with_reducible assumption
    | exact hM₀.le (by decide)
    | (intro)
    | with_reducible apply keeps_freePage
    | with_reducible apply keeps_ptRead
    | with_reducible apply keeps_ptWrite
    | with_reducible apply keeps_whGet
    | with_reducible apply keeps_whReg
    | with_reducible apply Keeps.m_bind
    | with_reducible apply Keeps.m_pure
    | with_reducible apply Keeps.m_ite

theorem keeps_unrefPage {m₀ : Nat} {s₀ : State} {n h serial : Nat} (hM₀ : Sub 1543505791 m₀) {t₀ : State}
    (h₀ : Keeps m₀ s₀ t₀) : Keeps m₀ s₀ (runM (unrefPage n h serial) t₀).2 := by
  unfold unrefPage
  repeat' first
    | with_reducible assumption
    | exact hM₀.le (by decide)
    | (intro)
    | with_reducible apply keeps_dropRef
    | with_reducible apply keeps_pageFresh
    | with_reducible apply keeps_pageIndex
    | with_reducible apply Keeps.m_bind

theorem keeps_pinPage {m₀ : Nat} {s₀ : State} {n h serial : Nat} (hM₀ : Sub 1543505791 m₀) {t₀ : State}
    (h₀ : Keeps m₀ s₀ t₀) : Keeps m₀ s₀ (runM (pinPage n h serial) t₀).2 := by
  unfold pinPage
  repeat' first
    | with_reducible assumption
    | exact hM₀.le (by decide)
    | (intro)
    | with_reducible apply keeps_pageFresh
    | with_reducible apply keeps_pageIndex
    | with_reducible apply keeps_ptRead
    | with_reducible apply keeps_ptWrite
    | with_reducible apply Keeps.m_bind
    | with_reducible apply Keeps.m_refuseIf

theorem keeps_unpinPage {m₀ : Nat} {s₀ : State} {n h serial : Nat} (hM₀ : Sub 1543505791 m₀) {t₀ : State}
    (h₀ : Keeps m₀ s₀ t₀) : Keeps m₀ s₀ (runM (unpinPage n h serial) t₀).2 := by
  unfold unpinPage
  repeat' first
    | with_reducible assumption
    | exact hM₀.le (by decide)
    | (intro)
    | with_reducible apply keeps_freePage
    | with_reducible apply keeps_pageFresh
    | with_reducible apply keeps_pageIndex
    | with_reducible apply keeps_ptRead
    | with_reducible apply keeps_ptWrite
    | with_reducible apply keeps_whGet
    | with_reducible apply keeps_whReg
    | with_reducible apply Keeps.m_bind
    | with_reducible apply Keeps.m_pure
    | with_reducible apply Keeps.m_ite
    | with_reducible apply Keeps.m_refuseIf

theorem keeps_fillEntry {m₀ : Nat} {s₀ : State} {n i : Nat} {fmt kc vc : Nat} (hM₀ : Sub 1543505791 m₀) {t₀ : State}
    (h₀ : Keeps m₀ s₀ t₀) : Keeps m₀ s₀ (runM (fillEntry n i fmt kc vc) t₀).2 := by
  unfold fillEntry
  repeat' first
    | with_reducible assumption
    | exact hM₀.le (by decide)
    | (intro)
    | with_reducible apply keeps_ptRead
    | with_reducible apply keeps_ptWrite
    | with_reducible apply Keeps.m_bind

theorem keeps_allocPage {m₀ : Nat} {s₀ : State} {n fmt : Nat} {kc vc : Nat} (hM₀ : Sub 1543505791 m₀) {t₀ : State}
    (h₀ : Keeps m₀ s₀ t₀) : Keeps m₀ s₀ (runM (allocPage n fmt kc vc) t₀).2 := by
  unfold allocPage
  repeat' first
    | with_reducible assumption
    | exact hM₀.le (by decide)
    | (intro)
    | with_reducible apply keeps_fillEntry
    | with_reducible apply keeps_ptRead
    | with_reducible apply keeps_whGet
    | with_reducible apply keeps_whReg
    | with_reducible apply Keeps.m_bind
    | with_reducible apply Keeps.m_pure
    | with_reducible apply Keeps.m_refuseIf

theorem keeps_eachPage {m₀ : Nat} {s₀ : State} {op : Nat → Nat → M Unit}
    (h_op : ∀ (a₀ : Nat) (b₀ : Nat) {t : State}, Keeps m₀ s₀ t → Keeps m₀ s₀ (runM (op a₀ b₀) t).2) :
    ∀ (x0 : List (Nat × Nat)) (t₀ : State), Keeps m₀ s₀ t₀ → Keeps m₀ s₀ (runM (eachPage op x0) t₀).2
  | [], t₀, h₀ => by
    unfold eachPage
    repeat' first
      | with_reducible assumption
      | (intro)
      | with_reducible apply h_op
      | (with_reducible apply keeps_eachPage)
      | with_reducible apply keeps_codeOf
      | with_reducible apply Keeps.m_bind
      | with_reducible apply Keeps.m_pure
  | (h, serial) :: rest, t₀, h₀ => by
    unfold eachPage
    repeat' first
      | with_reducible assumption
      | (intro)
      | with_reducible apply h_op
      | (with_reducible apply keeps_eachPage)
      | with_reducible apply keeps_codeOf
      | with_reducible apply Keeps.m_bind
      | with_reducible apply Keeps.m_pure

theorem keeps_readTree {m₀ : Nat} {s₀ : State} {n k : Nat} (hM₀ : Sub 1476396911 m₀) {t₀ : State}
    (h₀ : Keeps m₀ s₀ t₀) : Keeps m₀ s₀ (runM (readTree n k) t₀).2 := by
  unfold readTree
  try dsimp only
  repeat' first
    | with_reducible assumption
    | (intro)
    | with_reducible apply keeps_busRead
    | with_reducible apply keeps_whGet
    | with_reducible apply Keeps.m_bind
    | with_reducible apply Keeps.m_pure
    | with_reducible apply Keeps.m_refuseIf

theorem keeps_liveNode {m₀ : Nat} {s₀ : State} {n : Nat} {t : Tree} {i : Nat} (hM₀ : Sub 1476396911 m₀) {t₀ : State}
    (h₀ : Keeps m₀ s₀ t₀) : Keeps m₀ s₀ (runM (liveNode n t i) t₀).2 := by
  unfold liveNode
  repeat' first
    | with_reducible assumption
    | (intro)
    | with_reducible apply keeps_whRead
    | with_reducible apply Keeps.m_bind
    | with_reducible apply Keeps.m_refuseIf

theorem keeps_parentKey {m₀ : Nat} {s₀ : State} {n : Nat} {t : Tree} {i : Nat} (hM₀ : Sub 1476396911 m₀)
    {t₀ : State} (h₀ : Keeps m₀ s₀ t₀) : Keeps m₀ s₀ (runM (parentKey n t i) t₀).2 := by
  unfold parentKey
  repeat' first
    | with_reducible assumption
    | (intro)
    | with_reducible apply keeps_liveNode
    | with_reducible apply keeps_whRead
    | with_reducible apply Keeps.m_bind
    | with_reducible apply Keeps.m_pure
    | with_reducible apply Keeps.m_ite

theorem keeps_readBucket {m₀ : Nat} {s₀ : State} {n : Nat} {t : Tree} {key : Nat} (hM₀ : Sub 1476396911 m₀)
    {t₀ : State} (h₀ : Keeps m₀ s₀ t₀) : Keeps m₀ s₀ (runM (readBucket n t key) t₀).2 := by
  unfold readBucket
  try dsimp only
  repeat' first
    | with_reducible assumption
    | (intro)
    | with_reducible apply keeps_busRead
    | with_reducible apply Keeps.m_bind
    | with_reducible apply Keeps.m_pure

theorem keeps_findNode {m₀ : Nat} {s₀ : State} {n : Nat} {t : Tree} {key : Nat} {toks : List Byte}
    (hM₀ : Sub 1476396911 m₀) :
    ∀ (x0 : List (Nat × Nat × Nat × Bool)) (t₀ : State), Keeps m₀ s₀ t₀ → Keeps m₀ s₀
    (runM (findNode n t key toks x0) t₀).2
  | [], t₀, h₀ => by
    unfold findNode
    try dsimp only
    repeat' first
      | with_reducible assumption
      | (intro)
      | (with_reducible apply keeps_findNode hM₀)
      | with_reducible apply keeps_busRead
      | with_reducible apply Keeps.m_bind
      | with_reducible apply Keeps.m_pure
      | with_reducible apply Keeps.m_ite
  | (_, k, node, valid) :: rest, t₀, h₀ => by
    unfold findNode
    try dsimp only
    repeat' first
      | with_reducible assumption
      | (intro)
      | (with_reducible apply keeps_findNode hM₀)
      | with_reducible apply keeps_busRead
      | with_reducible apply Keeps.m_bind
      | with_reducible apply Keeps.m_pure
      | with_reducible apply Keeps.m_ite

theorem keeps_writeResult {m₀ : Nat} {s₀ : State} {n at_ code : Nat} {a : WhAnswer} (hM₀ : Sub 1543505791 m₀)
    {t₀ : State} (h₀ : Keeps m₀ s₀ t₀) : Keeps m₀ s₀ (runM (writeResult n at_ code a) t₀).2 := by
  unfold writeResult
  repeat' first
    | with_reducible assumption
    | (intro)
    | with_reducible apply keeps_busWrite
    | with_reducible apply keeps_codeOf
    | with_reducible apply Keeps.m_bind
    | with_reducible apply Keeps.m_pure
    | with_reducible apply Keeps.m_ite

theorem keeps_refusedCount {m₀ : Nat} {s₀ : State} {n : Nat} {c : List Byte} (hM₀ : Sub 1476396911 m₀) {t₀ : State}
    (h₀ : Keeps m₀ s₀ t₀) : Keeps m₀ s₀ (runM (refusedCount n c) t₀).2 := by
  unfold refusedCount
  try dsimp only
  repeat' first
    | with_reducible assumption
    | exact hM₀.le (by decide)
    | (intro)
    | with_reducible apply keeps_catchCode
    | with_reducible apply keeps_freshNat
    | with_reducible apply keeps_pageIndex
    | with_reducible apply keeps_ptRead
    | with_reducible apply Keeps.m_bind
    | with_reducible apply Keeps.m_pure
    | with_reducible apply Keeps.m_ite
    | split

theorem keeps_whRefuse {m₀ : Nat} {s₀ : State} {n : Nat} {c : List Byte} {code : Nat} (hM₀ : Sub 1543505791 m₀)
    {t₀ : State} (h₀ : Keeps m₀ s₀ t₀) : Keeps m₀ s₀ (runM (whRefuse n c code) t₀).2 := by
  unfold whRefuse
  try dsimp only
  repeat' first
    | with_reducible assumption
    | exact hM₀.le (by decide)
    | (intro)
    | with_reducible apply keeps_bump
    | with_reducible apply keeps_freshNat
    | with_reducible apply keeps_logErr
    | with_reducible apply keeps_refusedCount
    | with_reducible apply keeps_writeResult
    | with_reducible apply Keeps.m_modify_bind
    | with_reducible apply Keeps.m_bind
    | with_reducible apply Keeps.m_pure
    | with_reducible apply Keeps.m_ite

theorem keeps_showWellhead {m₀ : Nat} {s₀ : State} {n : Nat} (hM₀ : Sub 1 m₀) {s : State} (h₀ : Keeps m₀ s₀ s) :
    Keeps m₀ s₀ (showWellhead n s) := by
  unfold showWellhead
  try dsimp only
  repeat' first
    | with_reducible assumption
    | with_reducible apply keeps_wr

theorem keeps_whPortWrite {m₀ : Nat} {s₀ : State} {n off : Nat} {data : List Byte} (hM₀ : Sub 1543522175 m₀)
    {s : State} (h₀ : Keeps m₀ s₀ s) : Keeps m₀ s₀ (whPortWrite n off data s) := by
  unfold whPortWrite
  try dsimp only
  repeat' first
    | with_reducible assumption
    | exact hM₀.le (by decide)
    | (intro)
    | with_reducible apply keeps_attempt
    | with_reducible apply keeps_bump
    | with_reducible apply keeps_logErr
    | with_reducible apply keeps_showWellhead
    | with_reducible apply keeps_whRefuse
    | with_reducible apply Keeps.ite
    | with_reducible apply Keeps.upd_whq

theorem keeps_whCommand {m₀ : Nat} {s₀ : State} {n : Nat} {mine : Nat → Bool} {run : List Byte → M WhAnswer}
    (hM₀ : Sub 1543522175 m₀)
    (h_run : ∀ (a₀ : List Byte) {t : State}, Keeps m₀ s₀ t → Keeps m₀ s₀ (runM (run a₀) t).2) {s : State}
    (h₀ : Keeps m₀ s₀ s) : Keeps m₀ s₀ (whCommand n mine run s) := by
  unfold whCommand
  try dsimp only
  repeat' first
    | with_reducible assumption
    | exact hM₀.le (by decide)
    | (intro)
    | with_reducible apply h_run
    | with_reducible apply keeps_allOrNothing
    | with_reducible apply keeps_attempt
    | with_reducible apply keeps_bump
    | with_reducible apply keeps_showLow
    | with_reducible apply keeps_showWellhead
    | with_reducible apply keeps_whRefuse
    | with_reducible apply keeps_writeResult
    | with_reducible apply Keeps.m_modify_bind
    | with_reducible apply Keeps.m_bind
    | with_reducible apply Keeps.m_modify
    | with_reducible apply Keeps.m_refuseIf
    | with_reducible apply Keeps.ite
    | split
    | with_reducible apply Keeps.upd_whq

theorem keeps_pageAnswer {m₀ : Nat} {s₀ : State} {n h flags : Nat} (hM₀ : Sub 1476396911 m₀) {t₀ : State}
    (h₀ : Keeps m₀ s₀ t₀) : Keeps m₀ s₀ (runM (pageAnswer n h flags) t₀).2 := by
  unfold pageAnswer
  repeat' first
    | with_reducible assumption
    | (intro)
    | with_reducible apply keeps_ptRead
    | with_reducible apply Keeps.m_bind
    | with_reducible apply Keeps.m_pure

theorem keeps_whAlloc {m₀ : Nat} {s₀ : State} {n : Nat} {c : List Byte} (hM₀ : Sub 1543505791 m₀) {t₀ : State}
    (h₀ : Keeps m₀ s₀ t₀) : Keeps m₀ s₀ (runM (whAlloc n c) t₀).2 := by
  unfold whAlloc
  repeat' first
    | with_reducible assumption
    | exact hM₀.le (by decide)
    | (intro)
    | with_reducible apply keeps_allocPage
    | with_reducible apply keeps_pageAnswer
    | with_reducible apply Keeps.m_bind

theorem keeps_onePage {m₀ : Nat} {s₀ : State} {n : Nat} {op : Nat → Nat → Nat → M Unit} {c : List Byte}
    (hM₀ : Sub 1476396911 m₀)
    (h_op : ∀ (a₀ : Nat) (b₀ : Nat) (c₀ : Nat) {t : State}, Keeps m₀ s₀ t → Keeps m₀ s₀ (runM (op a₀ b₀ c₀) t).2)
    {t₀ : State} (h₀ : Keeps m₀ s₀ t₀) : Keeps m₀ s₀ (runM (onePage n op c) t₀).2 := by
  unfold onePage
  repeat' first
    | with_reducible assumption
    | (intro)
    | with_reducible apply h_op
    | with_reducible apply keeps_pageAnswer
    | with_reducible apply Keeps.m_bind

theorem keeps_copyKvPage {m₀ : Nat} {s₀ : State} {n i : Nat} (hM₀ : Sub 1543505791 m₀) {t₀ : State}
    (h₀ : Keeps m₀ s₀ t₀) : Keeps m₀ s₀ (runM (copyKvPage n i) t₀).2 := by
  unfold copyKvPage
  repeat' first
    | with_reducible assumption
    | exact hM₀.le (by decide)
    | (intro)
    | with_reducible apply keeps_allocPage
    | with_reducible apply keeps_bump
    | with_reducible apply keeps_busRead
    | with_reducible apply keeps_busWrite
    | with_reducible apply keeps_dropRef
    | with_reducible apply keeps_ptRead
    | with_reducible apply Keeps.m_modify_bind
    | with_reducible apply Keeps.m_bind
    | with_reducible apply Keeps.m_pure

theorem keeps_whCow {m₀ : Nat} {s₀ : State} {n : Nat} {c : List Byte} (hM₀ : Sub 1543505791 m₀) {t₀ : State}
    (h₀ : Keeps m₀ s₀ t₀) : Keeps m₀ s₀ (runM (whCow n c) t₀).2 := by
  unfold whCow
  try dsimp only
  repeat' first
    | with_reducible assumption
    | exact hM₀.le (by decide)
    | (intro)
    | with_reducible apply keeps_copyKvPage
    | with_reducible apply keeps_pageAnswer
    | with_reducible apply keeps_pageFresh
    | with_reducible apply keeps_pageIndex
    | with_reducible apply keeps_ptRead
    | with_reducible apply Keeps.m_bind
    | with_reducible apply Keeps.m_pure
    | with_reducible apply Keeps.m_ite

theorem keeps_touchNode {m₀ : Nat} {s₀ : State} {n : Nat} {t : Tree} {node diff : Nat} (hM₀ : Sub 1543505791 m₀)
    {t₀ : State} (h₀ : Keeps m₀ s₀ t₀) : Keeps m₀ s₀ (runM (touchNode n t node diff) t₀).2 := by
  unfold touchNode
  repeat' first
    | with_reducible assumption
    | exact hM₀.le (by decide)
    | (intro)
    | with_reducible apply keeps_bump
    | with_reducible apply keeps_whGet
    | with_reducible apply keeps_whRead
    | with_reducible apply keeps_whWrite
    | with_reducible apply Keeps.m_modify_bind
    | with_reducible apply Keeps.m_bind

theorem keeps_whLookup {m₀ : Nat} {s₀ : State} {n : Nat} {c : List Byte} (hM₀ : Sub 1543505791 m₀) {t₀ : State}
    (h₀ : Keeps m₀ s₀ t₀) : Keeps m₀ s₀ (runM (whLookup n c) t₀).2 := by
  unfold whLookup
  try dsimp only
  repeat' first
    | with_reducible assumption
    | exact hM₀.le (by decide)
    | (intro)
    | with_reducible apply keeps_bump
    | with_reducible apply keeps_busRead
    | with_reducible apply keeps_eachPage
    | with_reducible apply keeps_findNode
    | with_reducible apply keeps_freshNat
    | with_reducible apply keeps_parentKey
    | with_reducible apply keeps_readBucket
    | with_reducible apply keeps_readTree
    | with_reducible apply keeps_sharePage
    | with_reducible apply keeps_touchNode
    | with_reducible apply Keeps.m_modify_bind
    | with_reducible apply Keeps.m_bind
    | with_reducible apply Keeps.m_pure
    | with_reducible apply Keeps.m_ite
    | with_reducible apply Keeps.m_refuseIf
    | split

theorem keeps_insertNode {m₀ : Nat} {s₀ : State} {n : Nat} {t : Tree} {node parent : Nat} {key i : Nat}
    {toks v : List PByte} (hM₀ : Sub 1543505791 m₀) {t₀ : State} (h₀ : Keeps m₀ s₀ t₀) : Keeps m₀ s₀
    (runM (insertNode n t node parent key i toks v) t₀).2 := by
  unfold insertNode
  repeat' first
    | with_reducible assumption
    | exact hM₀.le (by decide)
    | (intro)
    | with_reducible apply keeps_busWrite
    | with_reducible apply keeps_whRead
    | with_reducible apply keeps_whWrite
    | with_reducible apply Keeps.m_bind
    | with_reducible apply Keeps.m_pure
    | with_reducible apply Keeps.m_ite

theorem keeps_whInsert {m₀ : Nat} {s₀ : State} {n : Nat} {c : List Byte} (hM₀ : Sub 1543505791 m₀) {t₀ : State}
    (h₀ : Keeps m₀ s₀ t₀) : Keeps m₀ s₀ (runM (whInsert n c) t₀).2 := by
  unfold whInsert
  try dsimp only
  repeat' first
    | with_reducible assumption
    | exact hM₀.le (by decide)
    | (intro)
    | with_reducible apply keeps_busRead
    | with_reducible apply keeps_eachPage
    | with_reducible apply keeps_findNode
    | with_reducible apply keeps_freshNat
    | with_reducible apply keeps_insertNode
    | with_reducible apply keeps_parentKey
    | with_reducible apply keeps_readBucket
    | with_reducible apply keeps_readTree
    | with_reducible apply keeps_sharePage
    | with_reducible apply Keeps.m_bind
    | with_reducible apply Keeps.m_pure
    | with_reducible apply Keeps.m_refuseIf
    | split

theorem keeps_evictNode {m₀ : Nat} {s₀ : State} {n : Nat} {t : Tree} {node : Nat} (hM₀ : Sub 1543505791 m₀)
    {t₀ : State} (h₀ : Keeps m₀ s₀ t₀) : Keeps m₀ s₀ (runM (evictNode n t node) t₀).2 := by
  unfold evictNode
  try dsimp only
  repeat' first
    | with_reducible assumption
    | exact hM₀.le (by decide)
    | (intro)
    | with_reducible apply keeps_readBucket
    | with_reducible apply keeps_whRead
    | with_reducible apply keeps_whWrite
    | with_reducible apply Keeps.m_bind
    | with_reducible apply Keeps.m_ite
    | split

theorem keeps_whEvict {m₀ : Nat} {s₀ : State} {n : Nat} {c : List Byte} (hM₀ : Sub 1543505791 m₀) {t₀ : State}
    (h₀ : Keeps m₀ s₀ t₀) : Keeps m₀ s₀ (runM (whEvict n c) t₀).2 := by
  unfold whEvict
  try dsimp only
  repeat' first
    | with_reducible assumption
    | exact hM₀.le (by decide)
    | (intro)
    | with_reducible apply keeps_busRead
    | with_reducible apply keeps_eachPage
    | with_reducible apply keeps_evictNode
    | with_reducible apply keeps_freshNat
    | with_reducible apply keeps_liveNode
    | with_reducible apply keeps_readTree
    | with_reducible apply keeps_unrefPage
    | with_reducible apply keeps_whRead
    | with_reducible apply Keeps.m_bind
    | with_reducible apply Keeps.m_pure
    | with_reducible apply Keeps.m_refuseIf

end Sys2Proof.Machine
end

