-- ==== Sys2Proof/Laws/KeepsPipes.lean ====
section
/-! SUPPORT. What each operation on attention pipelines, handpumps and the monitor can do to the state, as `Keeps`. -/

namespace Sys2Proof.Machine

/-! ### Machine/Attention.lean -/

theorem keeps_setPipe {m₀ : Nat} {s₀ : State} {k : Nat} {x : Pipe} (hM₀ : Sub 8192 m₀) {s : State}
    (h₀ : Keeps m₀ s₀ s) : Keeps m₀ s₀ (setPipe k x s) := by
  unfold setPipe
  repeat' first
    | with_reducible assumption
    | with_reducible apply Keeps.upd_pipes

theorem keeps_modPipe {m₀ : Nat} {s₀ : State} {k : Nat} {f : Pipe → Pipe} (hM₀ : Sub 8192 m₀) {t₀ : State}
    (h₀ : Keeps m₀ s₀ t₀) : Keeps m₀ s₀ (runM (modPipe k f) t₀).2 := by
  unfold modPipe
  repeat' first
    | with_reducible assumption
    | with_reducible apply keeps_setPipe
    | with_reducible apply Keeps.m_modify

theorem keeps_setApState {m₀ : Nat} {s₀ : State} {k v : Nat} (hM₀ : Sub 1 m₀) {s : State} (h₀ : Keeps m₀ s₀ s) :
    Keeps m₀ s₀ (setApState k v s) := by
  unfold setApState
  repeat' first
    | with_reducible assumption
    | with_reducible apply keeps_wr

theorem keeps_showPipe {m₀ : Nat} {s₀ : State} {k : Nat} (hM₀ : Sub 1 m₀) {s : State} (h₀ : Keeps m₀ s₀ s) :
    Keeps m₀ s₀ (showPipe k s) := by
  unfold showPipe
  try dsimp only
  repeat' first
    | with_reducible assumption
    | with_reducible apply keeps_wr
    | with_reducible apply keeps_wrAt

theorem keeps_haltPipe {m₀ : Nat} {s₀ : State} {k code tag : Nat} (hM₀ : Sub 134226081 m₀) {s : State}
    (h₀ : Keeps m₀ s₀ s) : Keeps m₀ s₀ (haltPipe k code tag s) := by
  unfold haltPipe
  try dsimp only
  repeat' first
    | with_reducible assumption
    | exact hM₀.le (by decide)
    | with_reducible apply keeps_logErr
    | with_reducible apply keeps_raiseBit
    | with_reducible apply keeps_setApState
    | with_reducible apply keeps_setPipe
    | with_reducible apply keeps_showPipe
    | with_reducible apply keeps_vetoStep
    | with_reducible apply keeps_wr
    | with_reducible apply Keeps.ite

theorem keeps_startPipe {m₀ : Nat} {s₀ : State} {k : Nat} (hM₀ : Sub 134226081 m₀) {s : State} (h₀ : Keeps m₀ s₀ s)
    : Keeps m₀ s₀ (startPipe k s) := by
  unfold startPipe
  try dsimp only
  repeat' first
    | with_reducible assumption
    | exact hM₀.le (by decide)
    | with_reducible apply keeps_haltPipe
    | with_reducible apply keeps_setApState
    | with_reducible apply keeps_setPipe
    | with_reducible apply keeps_wr
    | with_reducible apply Keeps.ite
    | with_reducible apply Keeps.upd_gen

theorem keeps_apStart {m₀ : Nat} {s₀ : State} {k : Nat} (hM₀ : Sub 201334953 m₀) {s : State} (h₀ : Keeps m₀ s₀ s) :
    Keeps m₀ s₀ (apStart k s) := by
  unfold apStart
  try dsimp only
  repeat' first
    | with_reducible assumption
    | exact hM₀.le (by decide)
    | with_reducible apply keeps_setPipe
    | with_reducible apply keeps_startPipe
    | with_reducible apply keeps_wr
    | with_reducible apply keeps_writeWhenAwake
    | with_reducible apply Keeps.ite

theorem keeps_apStop {m₀ : Nat} {s₀ : State} {k : Nat} (hM₀ : Sub 67117065 m₀) {s : State} (h₀ : Keeps m₀ s₀ s) :
    Keeps m₀ s₀ (apStop k s) := by
  unfold apStop
  try dsimp only
  repeat' first
    | with_reducible assumption
    | exact hM₀.le (by decide)
    | with_reducible apply keeps_setApState
    | with_reducible apply keeps_setPipe
    | with_reducible apply keeps_wr
    | with_reducible apply keeps_writeWhenAwake
    | with_reducible apply Keeps.ite

theorem keeps_apBoundary {m₀ : Nat} {s₀ : State} {k : Nat} (hM₀ : Sub 134226145 m₀) {s : State} (h₀ : Keeps m₀ s₀ s)
    : Keeps m₀ s₀ (apBoundary k s) := by
  unfold apBoundary
  try dsimp only
  repeat' first
    | with_reducible assumption
    | exact hM₀.le (by decide)
    | with_reducible apply keeps_applySpare
    | with_reducible apply keeps_finishStep
    | with_reducible apply keeps_setApState
    | with_reducible apply keeps_setPipe
    | with_reducible apply keeps_startPipe
    | with_reducible apply keeps_wr
    | with_reducible apply Keeps.ite

theorem keeps_atReadChecks {m₀ : Nat} {s₀ : State} {k : Nat} {r : AtRun} (hM₀ : Sub 1476396911 m₀) {t₀ : State}
    (h₀ : Keeps m₀ s₀ t₀) : Keeps m₀ s₀ (runM (atReadChecks k r) t₀).2 := by
  unfold atReadChecks
  try dsimp only
  repeat' first
    | with_reducible assumption
    | (intro)
    | with_reducible apply keeps_busRead
    | with_reducible apply keeps_readCoarse
    | with_reducible apply Keeps.m_bind
    | with_reducible apply Keeps.m_pure
    | with_reducible apply Keeps.m_ite
    | with_reducible apply Keeps.m_refuseIf

theorem keeps_readSeq {m₀ : Nat} {s₀ : State} {k : Nat} {r : AtRun} {i : Nat} (hM₀ : Sub 1476396911 m₀) {t₀ : State}
    (h₀ : Keeps m₀ s₀ t₀) : Keeps m₀ s₀ (runM (readSeq k r i) t₀).2 := by
  unfold readSeq
  try dsimp only
  repeat' first
    | with_reducible assumption
    | (intro)
    | with_reducible apply keeps_busRead
    | with_reducible apply Keeps.m_bind
    | with_reducible apply Keeps.m_pure
    | with_reducible apply Keeps.m_refuseIf

theorem keeps_readSeqs {m₀ : Nat} {s₀ : State} {k : Nat} {r : AtRun} (hM₀ : Sub 1476396911 m₀) :
    ∀ (x0 : List Nat) (t₀ : State), Keeps m₀ s₀ t₀ → Keeps m₀ s₀ (runM (readSeqs k r x0) t₀).2
  | [], t₀, h₀ => by
    unfold readSeqs
    repeat' first
      | with_reducible assumption
      | (intro)
      | (with_reducible apply keeps_readSeqs hM₀)
      | with_reducible apply keeps_readSeq
      | with_reducible apply Keeps.m_bind
      | with_reducible apply Keeps.m_pure
  | i :: is, t₀, h₀ => by
    unfold readSeqs
    repeat' first
      | with_reducible assumption
      | (intro)
      | (with_reducible apply keeps_readSeqs hM₀)
      | with_reducible apply keeps_readSeq
      | with_reducible apply Keeps.m_bind
      | with_reducible apply Keeps.m_pure

theorem keeps_apPassBegin {m₀ : Nat} {s₀ : State} {k : Nat} {mine : Nat → Bool} (hM₀ : Sub 8321 m₀) {s : State}
    (h₀ : Keeps m₀ s₀ s) : Keeps m₀ s₀ (apPassBegin k mine s) := by
  unfold apPassBegin
  try dsimp only
  repeat' first
    | with_reducible assumption
    | exact hM₀.le (by decide)
    | with_reducible apply keeps_joinStep
    | with_reducible apply keeps_setApState
    | with_reducible apply keeps_setPipe
    | with_reducible apply keeps_wr
    | with_reducible apply Keeps.ite
    | split

theorem keeps_atStart {m₀ : Nat} {s₀ : State} {k : Nat} {mine : Nat → Bool} (hM₀ : Sub 1476405103 m₀) {t₀ : State}
    (h₀ : Keeps m₀ s₀ t₀) : Keeps m₀ s₀ (runM (atStart k mine) t₀).2 := by
  unfold atStart
  try dsimp only
  repeat' first
    | with_reducible assumption
    | exact hM₀.le (by decide)
    | (intro)
    | with_reducible apply keeps_atReadChecks
    | with_reducible apply keeps_bump
    | with_reducible apply keeps_busReadNat
    | with_reducible apply keeps_catchCode
    | with_reducible apply keeps_modPipe
    | with_reducible apply keeps_readSeqs
    | with_reducible apply keeps_refuseSome
    | with_reducible apply keeps_wr
    | with_reducible apply Keeps.m_get_bind
    | with_reducible apply Keeps.m_bind
    | with_reducible apply Keeps.m_pure
    | with_reducible apply Keeps.m_modify
    | with_reducible apply Keeps.m_ite
    | with_reducible apply Keeps.m_waitFor
    | split

theorem keeps_apCommand {m₀ : Nat} {s₀ : State} {k : Nat} {m : M Unit} (hM₀ : Sub 201326617 m₀)
    (h_m : ∀ {t : State}, Keeps m₀ s₀ t → Keeps m₀ s₀ (runM (m) t).2) {s : State} (h₀ : Keeps m₀ s₀ s) : Keeps m₀ s₀
    (apCommand k m s) := by
  unfold apCommand
  repeat' first
    | with_reducible assumption
    | exact hM₀.le (by decide)
    | with_reducible apply keeps_attempt
    | with_reducible apply keeps_startWake
    | with_reducible apply Keeps.ite

theorem keeps_atRun {m₀ : Nat} {s₀ : State} {k : Nat} {mine : Nat → Bool} (hM₀ : Sub 1543514111 m₀) {s : State}
    (h₀ : Keeps m₀ s₀ s) : Keeps m₀ s₀ (atRun k mine s) := by
  unfold atRun
  repeat' first
    | with_reducible assumption
    | exact hM₀.le (by decide)
    | (intro)
    | with_reducible apply keeps_apCommand
    | with_reducible apply keeps_apPassBegin
    | with_reducible apply keeps_atStart
    | with_reducible apply Keeps.ite

theorem keeps_atWaitPoll {m₀ : Nat} {s₀ : State} {k : Nat} (hM₀ : Sub 1543514111 m₀) {s : State}
    (h₀ : Keeps m₀ s₀ s) : Keeps m₀ s₀ (atWaitPoll k s) := by
  unfold atWaitPoll
  repeat' first
    | with_reducible assumption
    | with_reducible apply keeps_atRun

theorem keeps_readMask {m₀ : Nat} {s₀ : State} {k : Nat} {r : AtRun} {q : SeqRec} (hM₀ : Sub 1476396911 m₀)
    {t₀ : State} (h₀ : Keeps m₀ s₀ t₀) : Keeps m₀ s₀ (runM (readMask k r q) t₀).2 := by
  unfold readMask
  try dsimp only
  repeat' first
    | with_reducible assumption
    | (intro)
    | with_reducible apply keeps_busRead
    | with_reducible apply Keeps.m_bind
    | with_reducible apply Keeps.m_pure
    | with_reducible apply Keeps.m_ite
    | with_reducible apply Keeps.m_refuseIf

theorem keeps_sparseBit {m₀ : Nat} {s₀ : State} {k : Nat} {m : List Byte} {qp64 kb : Nat} (hM₀ : Sub 1476396911 m₀)
    {t₀ : State} (h₀ : Keeps m₀ s₀ t₀) : Keeps m₀ s₀ (runM (sparseBit k m qp64 kb) t₀).2 := by
  unfold sparseBit
  try dsimp only
  repeat' first
    | with_reducible assumption
    | (intro)
    | with_reducible apply keeps_busReadNat
    | with_reducible apply Keeps.m_bind
    | with_reducible apply Keeps.m_pure
    | with_reducible apply Keeps.m_ite

theorem keeps_sparseRows {m₀ : Nat} {s₀ : State} {k : Nat} {m : List Byte} {kb : Nat} (hM₀ : Sub 1476396911 m₀) :
    ∀ (x0 : List Nat) (t₀ : State), Keeps m₀ s₀ t₀ → Keeps m₀ s₀ (runM (sparseRows k m kb x0) t₀).2
  | [], t₀, h₀ => by
    unfold sparseRows
    repeat' first
      | with_reducible assumption
      | (intro)
      | (with_reducible apply keeps_sparseRows hM₀)
      | with_reducible apply keeps_sparseBit
      | with_reducible apply Keeps.m_bind
      | with_reducible apply Keeps.m_pure
  | p :: ps, t₀, h₀ => by
    unfold sparseRows
    repeat' first
      | with_reducible assumption
      | (intro)
      | (with_reducible apply keeps_sparseRows hM₀)
      | with_reducible apply keeps_sparseBit
      | with_reducible apply Keeps.m_bind
      | with_reducible apply Keeps.m_pure

theorem keeps_readHalf {m₀ : Nat} {s₀ : State} {k fmt a : Nat} (hM₀ : Sub 1476396911 m₀) {t₀ : State}
    (h₀ : Keeps m₀ s₀ t₀) : Keeps m₀ s₀ (runM (readHalf k fmt a) t₀).2 := by
  unfold readHalf
  try dsimp only
  repeat' first
    | with_reducible assumption
    | (intro)
    | with_reducible apply keeps_busRead
    | with_reducible apply Keeps.m_pure_bind
    | with_reducible apply Keeps.m_bind
    | with_reducible apply Keeps.m_pure
    | with_reducible apply Keeps.m_ite

theorem keeps_apToWellhead {m₀ : Nat} {s₀ : State} {n : Nat} {m : M Unit} (hM₀ : Sub 134217761 m₀)
    (h_m : ∀ {t : State}, Keeps m₀ s₀ t → Keeps m₀ s₀ (runM (m) t).2) {t₀ : State} (h₀ : Keeps m₀ s₀ t₀) :
    Keeps m₀ s₀ (runM (apToWellhead n m) t₀).2 := by
  unfold apToWellhead
  try dsimp only
  repeat' first
    | with_reducible assumption
    | exact hM₀.le (by decide)
    | (intro)
    | with_reducible apply keeps_allOrNothing
    | with_reducible apply keeps_bump
    | with_reducible apply keeps_logErr
    | with_reducible apply keeps_showLow
    | with_reducible apply Keeps.m_get_bind
    | with_reducible apply Keeps.m_modify_bind
    | with_reducible apply Keeps.m_bind
    | with_reducible apply Keeps.m_failWith
    | with_reducible apply Keeps.m_modify
    | with_reducible apply Keeps.m_ite
    | with_reducible apply Keeps.m_refuseIf
    | with_reducible apply Keeps.m_waitFor
    | split

theorem keeps_readPage {m₀ : Nat} {s₀ : State} {k : Nat} {r : AtRun} {cq : Nat} {cv : Option Nat} {h : Nat}
    (hM₀ : Sub 1476405103 m₀) {t₀ : State} (h₀ : Keeps m₀ s₀ t₀) : Keeps m₀ s₀ (runM (readPage k r cq cv h) t₀).2 :=
    by
  unfold readPage
  try dsimp only
  repeat' first
    | with_reducible assumption
    | exact hM₀.le (by decide)
    | (intro)
    | with_reducible apply keeps_busRead
    | with_reducible apply keeps_modPipe
    | with_reducible apply keeps_readHalf
    | with_reducible apply Keeps.m_get_bind
    | with_reducible apply Keeps.m_bind
    | with_reducible apply Keeps.m_pure
    | with_reducible apply Keeps.m_refuseIf

theorem keeps_loadPage {m₀ : Nat} {s₀ : State} {k b : Nat} {p : KvPage} (hM₀ : Sub 8193 m₀) {s : State}
    (h₀ : Keeps m₀ s₀ s) : Keeps m₀ s₀ (loadPage k b p s) := by
  unfold loadPage
  try dsimp only
  repeat' first
    | with_reducible assumption
    | exact hM₀.le (by decide)
    | (intro)
    | with_reducible apply keeps_setBankValid
    | with_reducible apply keeps_setPipe
    | with_reducible apply Keeps.foldl

theorem keeps_readPages {m₀ : Nat} {s₀ : State} {k : Nat} {r : AtRun} {cq : Nat} {cv : Option Nat} {n : Nat}
    (hM₀ : Sub 1476405103 m₀) :
    ∀ (x0 : List (Nat × Nat)) (t₀ : State), Keeps m₀ s₀ t₀ → Keeps m₀ s₀ (runM (readPages k r cq cv n x0) t₀).2
  | [], t₀, h₀ => by
    unfold readPages
    repeat' first
      | with_reducible assumption
      | exact hM₀.le (by decide)
      | (intro)
      | (with_reducible apply keeps_readPages hM₀)
      | with_reducible apply keeps_loadPage
      | with_reducible apply keeps_readPage
      | with_reducible apply Keeps.m_modify_bind
      | with_reducible apply Keeps.m_bind
      | with_reducible apply Keeps.m_pure
  | (h, _) :: rest, t₀, h₀ => by
    unfold readPages
    repeat' first
      | with_reducible assumption
      | exact hM₀.le (by decide)
      | (intro)
      | (with_reducible apply keeps_readPages hM₀)
      | with_reducible apply keeps_loadPage
      | with_reducible apply keeps_readPage
      | with_reducible apply Keeps.m_modify_bind
      | with_reducible apply Keeps.m_bind
      | with_reducible apply Keeps.m_pure

theorem keeps_readSlices {m₀ : Nat} {s₀ : State} {k : Nat} {r : AtRun} {a : Nat} (hM₀ : Sub 1476396911 m₀)
    {t₀ : State} (h₀ : Keeps m₀ s₀ t₀) : Keeps m₀ s₀ (runM (readSlices k r a) t₀).2 := by
  unfold readSlices
  try dsimp only
  repeat' first
    | with_reducible assumption
    | (intro)
    | with_reducible apply keeps_busRead
    | with_reducible apply Keeps.m_bind
    | with_reducible apply Keeps.m_pure

theorem keeps_readAtRow {m₀ : Nat} {s₀ : State} {k : Nat} {r : AtRun} {q : SeqRec} {h i : Nat}
    (hM₀ : Sub 1476396911 m₀) {t₀ : State} (h₀ : Keeps m₀ s₀ t₀) : Keeps m₀ s₀ (runM (readAtRow k r q h i) t₀).2 := by
  unfold readAtRow
  try dsimp only
  repeat' first
    | with_reducible assumption
    | (intro)
    | with_reducible apply keeps_busRead
    | with_reducible apply keeps_readSlices
    | with_reducible apply Keeps.m_bind
    | with_reducible apply Keeps.m_pure
    | with_reducible apply Keeps.m_ite

theorem keeps_readAtRows {m₀ : Nat} {s₀ : State} {k : Nat} {r : AtRun} {q : SeqRec} (hM₀ : Sub 1476396911 m₀) :
    ∀ (x0 : List (Nat × Nat)) (t₀ : State), Keeps m₀ s₀ t₀ → Keeps m₀ s₀ (runM (readAtRows k r q x0) t₀).2
  | [], t₀, h₀ => by
    unfold readAtRows
    repeat' first
      | with_reducible assumption
      | (intro)
      | (with_reducible apply keeps_readAtRows hM₀)
      | with_reducible apply keeps_readAtRow
      | with_reducible apply Keeps.m_bind
      | with_reducible apply Keeps.m_pure
  | (h, i) :: rest, t₀, h₀ => by
    unfold readAtRows
    repeat' first
      | with_reducible assumption
      | (intro)
      | (with_reducible apply keeps_readAtRows hM₀)
      | with_reducible apply keeps_readAtRow
      | with_reducible apply Keeps.m_bind
      | with_reducible apply Keeps.m_pure

theorem keeps_noteNonfinite {m₀ : Nat} {s₀ : State} {k : Nat} {xs : List Nat} (hM₀ : Sub 1 m₀) {t₀ : State}
    (h₀ : Keeps m₀ s₀ t₀) : Keeps m₀ s₀ (runM (noteNonfinite k xs) t₀).2 := by
  unfold noteNonfinite
  repeat' first
    | with_reducible assumption
    | with_reducible apply keeps_bump
    | with_reducible apply Keeps.m_modify

theorem keeps_writeAtRecord {m₀ : Nat} {s₀ : State} {k : Nat} {r : AtRun} {co base a : Nat} {p : Bool}
    {xs : List Nat} (hM₀ : Sub 1543505791 m₀) {t₀ : State} (h₀ : Keeps m₀ s₀ t₀) : Keeps m₀ s₀
    (runM (writeAtRecord k r co base a p xs) t₀).2 := by
  unfold writeAtRecord
  try dsimp only
  repeat' first
    | with_reducible assumption
    | exact hM₀.le (by decide)
    | (intro)
    | with_reducible apply keeps_busWrite
    | with_reducible apply keeps_noteNonfinite
    | with_reducible apply Keeps.m_get_bind
    | with_reducible apply Keeps.m_bind
    | with_reducible apply Keeps.m_pure

theorem keeps_writeSlices {m₀ : Nat} {s₀ : State} {k : Nat} {r : AtRun} {co base a : Nat} {p : Bool}
    (hM₀ : Sub 1543505791 m₀) :
    ∀ (x0 : List (List Nat × Nat)) (t₀ : State), Keeps m₀ s₀ t₀ → Keeps m₀ s₀
    (runM (writeSlices k r co base a p x0) t₀).2
  | [], t₀, h₀ => by
    unfold writeSlices
    repeat' first
      | with_reducible assumption
      | (intro)
      | (with_reducible apply keeps_writeSlices hM₀)
      | with_reducible apply keeps_writeAtRecord
      | with_reducible apply Keeps.m_bind
      | with_reducible apply Keeps.m_pure
  | (xs, u) :: rest, t₀, h₀ => by
    unfold writeSlices
    repeat' first
      | with_reducible assumption
      | (intro)
      | (with_reducible apply keeps_writeSlices hM₀)
      | with_reducible apply keeps_writeAtRecord
      | with_reducible apply Keeps.m_bind
      | with_reducible apply Keeps.m_pure

theorem keeps_writeForward {m₀ : Nat} {s₀ : State} {k : Nat} {r : AtRun} {q : SeqRec} {co : Nat} {a : AtRow}
    (hM₀ : Sub 1543505791 m₀) {t₀ : State} (h₀ : Keeps m₀ s₀ t₀) : Keeps m₀ s₀ (runM (writeForward k r q co a) t₀).2
    := by
  unfold writeForward
  try dsimp only
  repeat' first
    | with_reducible assumption
    | exact hM₀.le (by decide)
    | (intro)
    | with_reducible apply keeps_bump
    | with_reducible apply keeps_busWrite
    | with_reducible apply keeps_writeSlices
    | with_reducible apply Keeps.m_modify_bind
    | with_reducible apply Keeps.m_bind
    | with_reducible apply Keeps.m_pure
    | with_reducible apply Keeps.m_ite

theorem keeps_writeRows {m₀ : Nat} {s₀ : State} {α : Type} {f : α → M Stats}
    (h_f : ∀ (a₀ : α) {t : State}, Keeps m₀ s₀ t → Keeps m₀ s₀ (runM (f a₀) t).2) :
    ∀ (x0 : List α) (x1 : Stats) (t₀ : State), Keeps m₀ s₀ t₀ → Keeps m₀ s₀ (runM (writeRows f x0 x1) t₀).2
  | [], st, t₀, h₀ => by
    unfold writeRows
    repeat' first
      | with_reducible assumption
      | (intro)
      | with_reducible apply h_f
      | (with_reducible apply keeps_writeRows)
      | with_reducible apply keeps_catchCode
      | with_reducible apply Keeps.m_bind
      | with_reducible apply Keeps.m_pure
      | split
  | a :: as, st, t₀, h₀ => by
    unfold writeRows
    repeat' first
      | with_reducible assumption
      | (intro)
      | with_reducible apply h_f
      | (with_reducible apply keeps_writeRows)
      | with_reducible apply keeps_catchCode
      | with_reducible apply Keeps.m_bind
      | with_reducible apply Keeps.m_pure
      | split

theorem keeps_writeBlockRow {m₀ : Nat} {s₀ : State} {k : Nat} {r : AtRun} {co a : Nat}
    {x : Option (List Nat × Bool)} (hM₀ : Sub 1543505791 m₀) {t₀ : State} (h₀ : Keeps m₀ s₀ t₀) : Keeps m₀ s₀
    (runM (writeBlockRow k r co a x) t₀).2 := by
  unfold writeBlockRow
  repeat' first
    | with_reducible assumption
    | (intro)
    | with_reducible apply keeps_busWrite
    | with_reducible apply keeps_writeAtRecord
    | with_reducible apply Keeps.m_bind
    | with_reducible apply Keeps.m_pure
    | split

theorem keeps_writeBlocks {m₀ : Nat} {s₀ : State} {k : Nat} {r : AtRun} {q : SeqRec} {co b : Nat}
    {outs : List (AtRow × List Nat × List Nat × Bool)} (hM₀ : Sub 1543505791 m₀) :
    ∀ (x0 : List (Nat × Nat)) (x1 : Stats) (t₀ : State), Keeps m₀ s₀ t₀ → Keeps m₀ s₀
    (runM (writeBlocks k r q co b outs x0 x1) t₀).2
  | [], st, t₀, h₀ => by
    unfold writeBlocks
    try dsimp only
    repeat' first
      | with_reducible assumption
      | (intro)
      | (with_reducible apply keeps_writeBlocks hM₀)
      | with_reducible apply keeps_writeBlockRow
      | with_reducible apply keeps_writeRows
      | with_reducible apply Keeps.m_bind
      | with_reducible apply Keeps.m_pure
      | with_reducible apply Keeps.m_ite
  | (h, qb) :: rest, st, t₀, h₀ => by
    unfold writeBlocks
    try dsimp only
    repeat' first
      | with_reducible assumption
      | (intro)
      | (with_reducible apply keeps_writeBlocks hM₀)
      | with_reducible apply keeps_writeBlockRow
      | with_reducible apply keeps_writeRows
      | with_reducible apply Keeps.m_bind
      | with_reducible apply Keeps.m_pure
      | with_reducible apply Keeps.m_ite

theorem keeps_putAtRun {m₀ : Nat} {s₀ : State} {k : Nat} {r : AtRun} (hM₀ : Sub 8193 m₀) {t₀ : State}
    (h₀ : Keeps m₀ s₀ t₀) : Keeps m₀ s₀ (runM (putAtRun k r) t₀).2 := by
  unfold putAtRun
  repeat' first
    | with_reducible assumption
    | exact hM₀.le (by decide)
    | (intro)
    | with_reducible apply keeps_modPipe
    | with_reducible apply keeps_showPipe
    | with_reducible apply Keeps.m_bind
    | with_reducible apply Keeps.m_modify

theorem keeps_passFails {m₀ : Nat} {s₀ : State} {k c : Nat} (hM₀ : Sub 8 m₀) {t₀ : State} (h₀ : Keeps m₀ s₀ t₀) :
    Keeps m₀ s₀ (runM (passFails k c) t₀).2 := by
  unfold passFails
  repeat' first
    | with_reducible assumption
    | (intro)
    | with_reducible apply keeps_noted
    | with_reducible apply Keeps.m_failWith

theorem keeps_groupFetch {m₀ : Nat} {s₀ : State} {k : Nat} {r : AtRun} {p : AtPass} (hM₀ : Sub 1476405103 m₀)
    {t₀ : State} (h₀ : Keeps m₀ s₀ t₀) : Keeps m₀ s₀ (runM (groupFetch k r p) t₀).2 := by
  unfold groupFetch
  try dsimp only
  repeat' first
    | with_reducible assumption
    | exact hM₀.le (by decide)
    | (intro)
    | with_reducible apply keeps_modPipe
    | with_reducible apply keeps_readAtRows
    | with_reducible apply keeps_readCoarse
    | with_reducible apply keeps_readMask
    | with_reducible apply Keeps.m_pure_bind
    | with_reducible apply Keeps.m_bind
    | with_reducible apply Keeps.m_pure
    | with_reducible apply Keeps.m_ite

theorem keeps_blockTable {m₀ : Nat} {s₀ : State} {k : Nat} {r : AtRun} {q : SeqRec} {x : PassRun}
    (hM₀ : Sub 1476396911 m₀) {t₀ : State} (h₀ : Keeps m₀ s₀ t₀) : Keeps m₀ s₀ (runM (blockTable k r q x) t₀).2 := by
  unfold blockTable
  try dsimp only
  repeat' first
    | with_reducible assumption
    | (intro)
    | with_reducible apply keeps_busRead
    | with_reducible apply keeps_sparseRows
    | with_reducible apply Keeps.m_get_bind
    | with_reducible apply Keeps.m_bind
    | with_reducible apply Keeps.m_pure
    | with_reducible apply Keeps.m_ite

theorem keeps_pipeFault {m₀ : Nat} {s₀ : State} {k loads : Nat} {e : PipeParity} (hM₀ : Sub 8396865 m₀) {s : State}
    (h₀ : Keeps m₀ s₀ s) : Keeps m₀ s₀ (pipeFault k loads e s) := by
  unfold pipeFault
  try dsimp only
  repeat' first
    | with_reducible assumption
    | exact hM₀.le (by decide)
    | with_reducible apply keeps_noteFault
    | with_reducible apply keeps_setBankValid
    | with_reducible apply keeps_setPipe
    | with_reducible apply Keeps.ite

theorem keeps_meetBlock {m₀ : Nat} {s₀ : State} {k : Nat} {r : AtRun} {p : AtPass} {x : PassRun}
    {parity : Option PipeParity} (hM₀ : Sub 1551902591 m₀) {t₀ : State} (h₀ : Keeps m₀ s₀ t₀) : Keeps m₀ s₀
    (runM (meetBlock k r p x parity) t₀).2 := by
  unfold meetBlock
  try dsimp only
  repeat' first
    | with_reducible assumption
    | exact hM₀.le (by decide)
    | (intro)
    | with_reducible apply keeps_bump
    | with_reducible apply keeps_modPipe
    | with_reducible apply keeps_passFails
    | with_reducible apply keeps_pipeFault
    | with_reducible apply keeps_readPages
    | with_reducible apply keeps_sparseRows
    | with_reducible apply keeps_wr
    | with_reducible apply keeps_writeBlocks
    | with_reducible apply Keeps.m_get_bind
    | with_reducible apply Keeps.m_modify_bind
    | with_reducible apply Keeps.m_bind
    | with_reducible apply Keeps.m_pure
    | with_reducible apply Keeps.m_ite
    | with_reducible apply Keeps.ite
    | split

theorem keeps_endPass {m₀ : Nat} {s₀ : State} {k : Nat} {r : AtRun} {ps : List AtPass} {x : PassRun}
    (hM₀ : Sub 8193 m₀) {t₀ : State} (h₀ : Keeps m₀ s₀ t₀) : Keeps m₀ s₀ (runM (endPass k r ps x) t₀).2 := by
  unfold endPass
  try dsimp only
  repeat' first
    | with_reducible assumption
    | exact hM₀.le (by decide)
    | with_reducible apply keeps_bump
    | with_reducible apply keeps_putAtRun
    | with_reducible apply Keeps.m_modify_bind

theorem keeps_nextBlock {m₀ : Nat} {s₀ : State} {k : Nat} {r : AtRun} {p : AtPass} {ps : List AtPass} {x : PassRun}
    (hM₀ : Sub 1543513983 m₀) {t₀ : State} (h₀ : Keeps m₀ s₀ t₀) : Keeps m₀ s₀ (runM (nextBlock k r p ps x) t₀).2 :=
    by
  unfold nextBlock
  try dsimp only
  repeat' first
    | with_reducible assumption
    | exact hM₀.le (by decide)
    | (intro)
    | with_reducible apply keeps_blockTable
    | with_reducible apply keeps_bump
    | with_reducible apply keeps_catchCode
    | with_reducible apply keeps_endPass
    | with_reducible apply keeps_passFails
    | with_reducible apply keeps_putAtRun
    | with_reducible apply keeps_writeForward
    | with_reducible apply keeps_writeRows
    | with_reducible apply Keeps.m_get_bind
    | with_reducible apply Keeps.m_modify_bind
    | with_reducible apply Keeps.m_pure_bind
    | with_reducible apply Keeps.m_bind
    | with_reducible apply Keeps.m_pure
    | with_reducible apply Keeps.m_ite
    | split

theorem keeps_pinBlock {m₀ : Nat} {s₀ : State} {k : Nat} {r : AtRun} {p : AtPass} {x : PassRun}
    {parity : Option PipeParity} (hM₀ : Sub 1551902591 m₀) {t₀ : State} (h₀ : Keeps m₀ s₀ t₀) : Keeps m₀ s₀
    (runM (pinBlock k r p x parity) t₀).2 := by
  unfold pinBlock
  repeat' first
    | with_reducible assumption
    | exact hM₀.le (by decide)
    | (intro)
    | with_reducible apply keeps_apToWellhead
    | with_reducible apply keeps_catchCode
    | with_reducible apply keeps_codeOf
    | with_reducible apply keeps_meetBlock
    | with_reducible apply keeps_modPipe
    | with_reducible apply keeps_passFails
    | with_reducible apply keeps_pinPage
    | with_reducible apply keeps_putAtRun
    | with_reducible apply Keeps.m_bind
    | split

theorem keeps_unpinBlock {m₀ : Nat} {s₀ : State} {k : Nat} {r : AtRun} {ps : List AtPass} {x : PassRun}
    (hM₀ : Sub 1543513983 m₀) {t₀ : State} (h₀ : Keeps m₀ s₀ t₀) : Keeps m₀ s₀ (runM (unpinBlock k r ps x) t₀).2 := by
  unfold unpinBlock
  repeat' first
    | with_reducible assumption
    | exact hM₀.le (by decide)
    | (intro)
    | with_reducible apply keeps_apToWellhead
    | with_reducible apply keeps_codeOf
    | with_reducible apply keeps_endPass
    | with_reducible apply keeps_modPipe
    | with_reducible apply keeps_putAtRun
    | with_reducible apply keeps_unpinPage
    | with_reducible apply Keeps.m_get_bind
    | with_reducible apply Keeps.m_bind
    | with_reducible apply Keeps.m_pure
    | with_reducible apply Keeps.m_ite
    | split

theorem keeps_passStep {m₀ : Nat} {s₀ : State} {k : Nat} {parity : Option PipeParity} (hM₀ : Sub 1551902591 m₀)
    {t₀ : State} (h₀ : Keeps m₀ s₀ t₀) : Keeps m₀ s₀ (runM (passStep k parity) t₀).2 := by
  unfold passStep
  repeat' first
    | with_reducible assumption
    | exact hM₀.le (by decide)
    | (intro)
    | with_reducible apply keeps_catchCode
    | with_reducible apply keeps_endPass
    | with_reducible apply keeps_groupFetch
    | with_reducible apply keeps_nextBlock
    | with_reducible apply keeps_passFails
    | with_reducible apply keeps_pinBlock
    | with_reducible apply keeps_putAtRun
    | with_reducible apply keeps_readSeq
    | with_reducible apply keeps_unpinBlock
    | with_reducible apply Keeps.m_get_bind
    | with_reducible apply Keeps.m_bind
    | with_reducible apply Keeps.m_pure
    | with_reducible apply Keeps.m_throw
    | with_reducible apply Keeps.m_ite
    | with_reducible apply Keeps.m_waitFor
    | split

theorem keeps_passSteps {m₀ : Nat} {s₀ : State} {k : Nat} {parity : Option PipeParity} (hM₀ : Sub 1551902591 m₀) :
    ∀ (x0 : Nat) (x1 : State), Keeps m₀ s₀ x1 → Keeps m₀ s₀ (passSteps k parity x0 x1)
  | 0, s, h₀ => by
    unfold passSteps
    repeat' first
      | with_reducible assumption
      | exact hM₀.le (by decide)
      | (intro)
      | (with_reducible apply keeps_passSteps hM₀)
      | with_reducible apply keeps_attempt
      | with_reducible apply keeps_forgetArrived
      | with_reducible apply keeps_passStep
      | with_reducible apply Keeps.m_bind
      | with_reducible apply Keeps.m_pure
      | (with_reducible refine Keeps.of_pair (by assumption) ?_)
      | split
  | n + 1, s, h₀ => by
    unfold passSteps
    repeat' first
      | with_reducible assumption
      | exact hM₀.le (by decide)
      | (intro)
      | (with_reducible apply keeps_passSteps hM₀)
      | with_reducible apply keeps_attempt
      | with_reducible apply keeps_forgetArrived
      | with_reducible apply keeps_passStep
      | with_reducible apply Keeps.m_bind
      | with_reducible apply Keeps.m_pure
      | (with_reducible refine Keeps.of_pair (by assumption) ?_)
      | split

theorem keeps_atPass {m₀ : Nat} {s₀ : State} {k : Nat} {parity : Option PipeParity} (hM₀ : Sub 1551902591 m₀)
    {s : State} (h₀ : Keeps m₀ s₀ s) : Keeps m₀ s₀ (atPass k parity s) := by
  unfold atPass
  repeat' first
    | with_reducible assumption
    | exact hM₀.le (by decide)
    | with_reducible apply keeps_passSteps
    | with_reducible apply keeps_startWake
    | with_reducible apply Keeps.ite

theorem keeps_returnPin {m₀ : Nat} {s₀ : State} {k : Nat} {e : Nat × Nat} (hM₀ : Sub 1543522175 m₀) {s : State}
    (h₀ : Keeps m₀ s₀ s) : Keeps m₀ s₀ (returnPin k s e) := by
  unfold returnPin
  try dsimp only
  repeat' first
    | with_reducible assumption
    | exact hM₀.le (by decide)
    | (intro)
    | with_reducible apply keeps_attempt
    | with_reducible apply keeps_post
    | with_reducible apply keeps_showWellhead
    | with_reducible apply Keeps.ite
    | with_reducible apply Keeps.upd_whq

theorem keeps_returnPins {m₀ : Nat} {s₀ : State} {k : Nat} (hM₀ : Sub 1543530367 m₀) {s : State}
    (h₀ : Keeps m₀ s₀ s) : Keeps m₀ s₀ (returnPins k s) := by
  unfold returnPins
  try dsimp only
  repeat' first
    | with_reducible assumption
    | exact hM₀.le (by decide)
    | (intro)
    | with_reducible apply keeps_returnPin
    | with_reducible apply keeps_setPipe
    | with_reducible apply keeps_showPipe
    | with_reducible apply Keeps.foldl

theorem keeps_dropAtAdd {m₀ : Nat} {s₀ : State} {k : Nat} (hM₀ : Sub 8192 m₀) {s : State} (h₀ : Keeps m₀ s₀ s) :
    Keeps m₀ s₀ (dropAtAdd k s) := by
  unfold dropAtAdd
  try dsimp only
  repeat' first
    | with_reducible assumption
    | with_reducible apply keeps_setPipe
    | split

theorem keeps_atComplete {m₀ : Nat} {s₀ : State} {k cycles : Nat} (hM₀ : Sub 1543514111 m₀) {t₀ : State}
    (h₀ : Keeps m₀ s₀ t₀) : Keeps m₀ s₀ (runM (atComplete k cycles) t₀).2 := by
  unfold atComplete
  try dsimp only
  repeat' first
    | with_reducible assumption
    | exact hM₀.le (by decide)
    | (intro)
    | with_reducible apply keeps_acknowledged
    | with_reducible apply keeps_apBoundary
    | with_reducible apply keeps_bump
    | with_reducible apply keeps_busAdd
    | with_reducible apply keeps_busWrite
    | with_reducible apply keeps_codeOf
    | with_reducible apply keeps_haltPipe
    | with_reducible apply keeps_modPipe
    | with_reducible apply keeps_wr
    | with_reducible apply Keeps.m_get_bind
    | with_reducible apply Keeps.m_modify_bind
    | with_reducible apply Keeps.m_bind
    | with_reducible apply Keeps.m_throw
    | with_reducible apply Keeps.m_modify
    | with_reducible apply Keeps.m_ite
    | with_reducible apply Keeps.m_gets
    | with_reducible apply Keeps.m_waitFor
    | with_reducible apply Keeps.ite
    | split

theorem keeps_atFinish {m₀ : Nat} {s₀ : State} {k cycles : Nat} (hM₀ : Sub 1543514111 m₀) {s : State}
    (h₀ : Keeps m₀ s₀ s) : Keeps m₀ s₀ (atFinish k cycles s) := by
  unfold atFinish
  repeat' first
    | with_reducible assumption
    | exact hM₀.le (by decide)
    | (intro)
    | with_reducible apply keeps_apCommand
    | with_reducible apply keeps_atComplete
    | with_reducible apply keeps_dropAtAdd
    | with_reducible apply keeps_offerLeft
    | with_reducible apply Keeps.ite

/-! ### Machine/Handpump.lean -/

theorem keeps_setHp {m₀ : Nat} {s₀ : State} {h : Nat} {x : Pipe} (hM₀ : Sub 32768 m₀) {s : State}
    (h₀ : Keeps m₀ s₀ s) : Keeps m₀ s₀ (setHp h x s) := by
  unfold setHp
  repeat' first
    | with_reducible assumption
    | with_reducible apply Keeps.upd_hpipes

theorem keeps_modHp {m₀ : Nat} {s₀ : State} {h : Nat} {f : Pipe → Pipe} (hM₀ : Sub 32768 m₀) {t₀ : State}
    (h₀ : Keeps m₀ s₀ t₀) : Keeps m₀ s₀ (runM (modHp h f) t₀).2 := by
  unfold modHp
  repeat' first
    | with_reducible assumption
    | with_reducible apply keeps_setHp
    | with_reducible apply Keeps.m_modify

theorem keeps_setHpState {m₀ : Nat} {s₀ : State} {h v : Nat} (hM₀ : Sub 1 m₀) {s : State} (h₀ : Keeps m₀ s₀ s) :
    Keeps m₀ s₀ (setHpState h v s) := by
  unfold setHpState
  repeat' first
    | with_reducible assumption
    | with_reducible apply keeps_wr

theorem keeps_haltHp {m₀ : Nat} {s₀ : State} {h code tag : Nat} (hM₀ : Sub 134250657 m₀) {s : State}
    (h₀ : Keeps m₀ s₀ s) : Keeps m₀ s₀ (haltHp h code tag s) := by
  unfold haltHp
  try dsimp only
  repeat' first
    | with_reducible assumption
    | exact hM₀.le (by decide)
    | with_reducible apply keeps_logErr
    | with_reducible apply keeps_raiseBit
    | with_reducible apply keeps_setHp
    | with_reducible apply keeps_setHpState
    | with_reducible apply keeps_vetoStep
    | with_reducible apply keeps_wr
    | with_reducible apply Keeps.ite

theorem keeps_startHp {m₀ : Nat} {s₀ : State} {h : Nat} (hM₀ : Sub 134250657 m₀) {s : State} (h₀ : Keeps m₀ s₀ s) :
    Keeps m₀ s₀ (startHp h s) := by
  unfold startHp
  try dsimp only
  repeat' first
    | with_reducible assumption
    | exact hM₀.le (by decide)
    | with_reducible apply keeps_haltHp
    | with_reducible apply keeps_setHp
    | with_reducible apply keeps_setHpState
    | with_reducible apply keeps_wr
    | with_reducible apply Keeps.ite
    | with_reducible apply Keeps.upd_gen

theorem keeps_hpStart {m₀ : Nat} {s₀ : State} {h : Nat} (hM₀ : Sub 134250657 m₀) {s : State} (h₀ : Keeps m₀ s₀ s) :
    Keeps m₀ s₀ (hpStart h s) := by
  unfold hpStart
  try dsimp only
  repeat' first
    | with_reducible assumption
    | exact hM₀.le (by decide)
    | with_reducible apply keeps_setHp
    | with_reducible apply keeps_startHp
    | with_reducible apply keeps_wr
    | with_reducible apply Keeps.ite

theorem keeps_hpStop {m₀ : Nat} {s₀ : State} {h : Nat} (hM₀ : Sub 32769 m₀) {s : State} (h₀ : Keeps m₀ s₀ s) :
    Keeps m₀ s₀ (hpStop h s) := by
  unfold hpStop
  try dsimp only
  repeat' first
    | with_reducible assumption
    | exact hM₀.le (by decide)
    | with_reducible apply keeps_setHp
    | with_reducible apply keeps_setHpState
    | with_reducible apply keeps_wr
    | with_reducible apply Keeps.ite

theorem keeps_hpBoundary {m₀ : Nat} {s₀ : State} {h : Nat} (hM₀ : Sub 134250657 m₀) {s : State} (h₀ : Keeps m₀ s₀ s)
    : Keeps m₀ s₀ (hpBoundary h s) := by
  unfold hpBoundary
  try dsimp only
  repeat' first
    | with_reducible assumption
    | exact hM₀.le (by decide)
    | with_reducible apply keeps_finishStep
    | with_reducible apply keeps_setHp
    | with_reducible apply keeps_setHpState
    | with_reducible apply keeps_startHp
    | with_reducible apply keeps_wr
    | with_reducible apply Keeps.ite

theorem keeps_readPosition {m₀ : Nat} {s₀ : State} {α : Type} {h : Nat} {f : FormatWord} {c a : Nat}
    {conv : Encoded → List α} (hM₀ : Sub 1476396911 m₀) {t₀ : State} (h₀ : Keeps m₀ s₀ t₀) : Keeps m₀ s₀
    (runM (readPosition h f c a conv) t₀).2 := by
  unfold readPosition
  try dsimp only
  repeat' first
    | with_reducible assumption
    | (intro)
    | with_reducible apply keeps_busRead
    | with_reducible apply Keeps.m_bind
    | with_reducible apply Keeps.m_pure

theorem keeps_gatherTaps {m₀ : Nat} {s₀ : State} {h : Nat} {x : HdDesc} {o : Nat × Nat × Nat}
    (hM₀ : Sub 1476396911 m₀) :
    ∀ (x0 : List (Nat × Nat × Nat)) (t₀ : State), Keeps m₀ s₀ t₀ → Keeps m₀ s₀ (runM (gatherTaps h x o x0) t₀).2
  | [], t₀, h₀ => by
    unfold gatherTaps
    try dsimp only
    repeat' first
      | with_reducible assumption
      | (intro)
      | (with_reducible apply keeps_gatherTaps hM₀)
      | with_reducible apply keeps_readPosition
      | with_reducible apply Keeps.m_pure_bind
      | with_reducible apply Keeps.m_bind
      | with_reducible apply Keeps.m_pure
      | split
  | tap :: taps, t₀, h₀ => by
    unfold gatherTaps
    try dsimp only
    repeat' first
      | with_reducible assumption
      | (intro)
      | (with_reducible apply keeps_gatherTaps hM₀)
      | with_reducible apply keeps_readPosition
      | with_reducible apply Keeps.m_pure_bind
      | with_reducible apply Keeps.m_bind
      | with_reducible apply Keeps.m_pure
      | split

theorem keeps_readWeights {m₀ : Nat} {s₀ : State} {h : Nat} {x : HdDesc} {slot : Nat} (hM₀ : Sub 1476396911 m₀) :
    ∀ (x0 : List Nat) (t₀ : State), Keeps m₀ s₀ t₀ → Keeps m₀ s₀ (runM (readWeights h x slot x0) t₀).2
  | [], t₀, h₀ => by
    unfold readWeights
    try dsimp only
    repeat' first
      | with_reducible assumption
      | (intro)
      | (with_reducible apply keeps_readWeights hM₀)
      | with_reducible apply keeps_busRead
      | with_reducible apply Keeps.m_bind
      | with_reducible apply Keeps.m_pure
  | o :: os, t₀, h₀ => by
    unfold readWeights
    try dsimp only
    repeat' first
      | with_reducible assumption
      | (intro)
      | (with_reducible apply keeps_readWeights hM₀)
      | with_reducible apply keeps_busRead
      | with_reducible apply Keeps.m_bind
      | with_reducible apply Keeps.m_pure

theorem keeps_noteHp {m₀ : Nat} {s₀ : State} {h invalid products : Nat} {sums : List Nat} (hM₀ : Sub 32769 m₀)
    {t₀ : State} (h₀ : Keeps m₀ s₀ t₀) : Keeps m₀ s₀ (runM (noteHp h invalid products sums) t₀).2 := by
  unfold noteHp
  try dsimp only
  repeat' first
    | with_reducible assumption
    | exact hM₀.le (by decide)
    | (intro)
    | with_reducible apply keeps_bump
    | with_reducible apply keeps_modHp
    | with_reducible apply keeps_wr
    | with_reducible apply Keeps.m_bind
    | with_reducible apply Keeps.m_modify
    | with_reducible apply Keeps.ite

theorem keeps_noteWritten {m₀ : Nat} {s₀ : State} {h : Nat} {f : FormatWord} {codes s8 : List Nat} (hM₀ : Sub 1 m₀)
    {t₀ : State} (h₀ : Keeps m₀ s₀ t₀) : Keeps m₀ s₀ (runM (noteWritten h f codes s8) t₀).2 := by
  unfold noteWritten
  repeat' first
    | with_reducible assumption
    | with_reducible apply keeps_bump
    | with_reducible apply Keeps.m_modify

theorem keeps_writePosition {m₀ : Nat} {s₀ : State} {h : Nat} {x : HdDesc} {rnd : Nat → Nat} {co base a : Nat}
    (hM₀ : Sub 1543505791 m₀) :
    ∀ (x0 : List (List (Nat × Bool) × Nat)) (t₀ : State), Keeps m₀ s₀ t₀ → Keeps m₀ s₀
    (runM (writePosition h x rnd co base a x0) t₀).2
  | [], t₀, h₀ => by
    unfold writePosition
    try dsimp only
    repeat' first
      | with_reducible assumption
      | exact hM₀.le (by decide)
      | (intro)
      | (with_reducible apply keeps_writePosition hM₀)
      | with_reducible apply keeps_busWrite
      | with_reducible apply keeps_noteWritten
      | with_reducible apply Keeps.m_bind
      | with_reducible apply Keeps.m_pure
  | (xs, u) :: rest, t₀, h₀ => by
    unfold writePosition
    try dsimp only
    repeat' first
      | with_reducible assumption
      | exact hM₀.le (by decide)
      | (intro)
      | (with_reducible apply keeps_writePosition hM₀)
      | with_reducible apply keeps_busWrite
      | with_reducible apply keeps_noteWritten
      | with_reducible apply Keeps.m_bind
      | with_reducible apply Keeps.m_pure

theorem keeps_convPosition {m₀ : Nat} {s₀ : State} {h : Nat} {x : HdDesc} {w : HdWork} {rnd : Nat → Nat}
    {e : (Nat × Nat × Nat) × Nat} (hM₀ : Sub 1543538559 m₀) {t₀ : State} (h₀ : Keeps m₀ s₀ t₀) : Keeps m₀ s₀
    (runM (convPosition h x w rnd e) t₀).2 := by
  unfold convPosition
  try dsimp only
  repeat' first
    | with_reducible assumption
    | exact hM₀.le (by decide)
    | (intro)
    | with_reducible apply keeps_gatherTaps
    | with_reducible apply keeps_noteHp
    | with_reducible apply keeps_writePosition
    | with_reducible apply Keeps.m_bind

theorem keeps_gatherAll {m₀ : Nat} {s₀ : State} {h : Nat} {x : HdDesc} (hM₀ : Sub 1476396911 m₀) :
    ∀ (x0 : List (Nat × Nat × Nat)) (t₀ : State), Keeps m₀ s₀ t₀ → Keeps m₀ s₀ (runM (gatherAll h x x0) t₀).2
  | [], t₀, h₀ => by
    unfold gatherAll
    try dsimp only
    repeat' first
      | with_reducible assumption
      | (intro)
      | (with_reducible apply keeps_gatherAll hM₀)
      | with_reducible apply keeps_gatherTaps
      | with_reducible apply keeps_readPosition
      | with_reducible apply Keeps.m_bind
      | with_reducible apply Keeps.m_pure
  | o :: os, t₀, h₀ => by
    unfold gatherAll
    try dsimp only
    repeat' first
      | with_reducible assumption
      | (intro)
      | (with_reducible apply keeps_gatherAll hM₀)
      | with_reducible apply keeps_gatherTaps
      | with_reducible apply keeps_readPosition
      | with_reducible apply Keeps.m_bind
      | with_reducible apply Keeps.m_pure

theorem keeps_wgradRow {m₀ : Nat} {s₀ : State} {h : Nat} {x : HdDesc} {w : HdWork} {rnd : Nat → Nat}
    {all : List (List (Option Val) × List (Val × Bool))} {bad : Bool} {o : Nat} (hM₀ : Sub 1543538559 m₀)
    {t₀ : State} (h₀ : Keeps m₀ s₀ t₀) : Keeps m₀ s₀ (runM (wgradRow h x w rnd all bad o) t₀).2 := by
  unfold wgradRow
  try dsimp only
  repeat' first
    | with_reducible assumption
    | exact hM₀.le (by decide)
    | (intro)
    | with_reducible apply keeps_busWrite
    | with_reducible apply keeps_noteHp
    | with_reducible apply keeps_noteWritten
    | with_reducible apply Keeps.m_bind
    | with_reducible apply Keeps.m_pure

theorem keeps_cropPixel {m₀ : Nat} {s₀ : State} {h : Nat} {x : HdDesc} {coarse img : Nat} {y v : Nat}
    (hM₀ : Sub 1476396911 m₀) {t₀ : State} (h₀ : Keeps m₀ s₀ t₀) : Keeps m₀ s₀
    (runM (cropPixel h x coarse img y v) t₀).2 := by
  unfold cropPixel
  try dsimp only
  repeat' first
    | with_reducible assumption
    | (intro)
    | with_reducible apply keeps_readPosition
    | with_reducible apply Keeps.m_bind
    | with_reducible apply Keeps.m_pure
    | with_reducible apply Keeps.m_ite

theorem keeps_cropOut {m₀ : Nat} {s₀ : State} {h : Nat} {x : HdDesc} {w : HdWork} {rnd : Nat → Nat} {n img : Nat}
    {bad : Bool} {c : List Nat} {p : Nat × Nat} (hM₀ : Sub 1543505791 m₀) {t₀ : State} (h₀ : Keeps m₀ s₀ t₀) :
    Keeps m₀ s₀ (runM (cropOut h x w rnd n img bad c p) t₀).2 := by
  unfold cropOut
  try dsimp only
  repeat' first
    | with_reducible assumption
    | exact hM₀.le (by decide)
    | (intro)
    | with_reducible apply keeps_cropPixel
    | with_reducible apply keeps_writePosition
    | with_reducible apply Keeps.m_pure_bind
    | with_reducible apply Keeps.m_bind
    | with_reducible apply Keeps.m_ite

theorem keeps_cropBox {m₀ : Nat} {s₀ : State} {h : Nat} {x : HdDesc} {w : HdWork} {rnd : Nat → Nat} {n : Nat}
    (hM₀ : Sub 1543505791 m₀) {t₀ : State} (h₀ : Keeps m₀ s₀ t₀) : Keeps m₀ s₀ (runM (cropBox h x w rnd n) t₀).2 := by
  unfold cropBox
  try dsimp only
  repeat' first
    | with_reducible assumption
    | exact hM₀.le (by decide)
    | (intro)
    | with_reducible apply keeps_bump
    | with_reducible apply keeps_busRead
    | with_reducible apply keeps_cropOut
    | with_reducible apply keeps_writeRows
    | with_reducible apply Keeps.m_modify_bind
    | with_reducible apply Keeps.m_bind
    | with_reducible apply Keeps.m_pure
    | with_reducible apply Keeps.m_refuseIf
    | with_reducible apply Keeps.ite

theorem keeps_hpPassBegin {m₀ : Nat} {s₀ : State} {h : Nat} {mine : Nat → Bool} (hM₀ : Sub 32897 m₀) {s : State}
    (h₀ : Keeps m₀ s₀ s) : Keeps m₀ s₀ (hpPassBegin h mine s) := by
  unfold hpPassBegin
  try dsimp only
  repeat' first
    | with_reducible assumption
    | exact hM₀.le (by decide)
    | with_reducible apply keeps_joinStep
    | with_reducible apply keeps_setHp
    | with_reducible apply keeps_setHpState
    | with_reducible apply keeps_wr
    | with_reducible apply Keeps.ite
    | split

theorem keeps_hpOperands {m₀ : Nat} {s₀ : State} {h : Nat} {x : HdDesc} {slot : Nat} (hM₀ : Sub 1476396911 m₀)
    {t₀ : State} (h₀ : Keeps m₀ s₀ t₀) : Keeps m₀ s₀ (runM (hpOperands h x slot) t₀).2 := by
  unfold hpOperands
  try dsimp only
  repeat' first
    | with_reducible assumption
    | (intro)
    | with_reducible apply keeps_busRead
    | with_reducible apply keeps_readCoarse
    | with_reducible apply keeps_readWeights
    | with_reducible apply Keeps.m_pure_bind
    | with_reducible apply Keeps.m_bind
    | with_reducible apply Keeps.m_pure
    | with_reducible apply Keeps.m_ite

theorem keeps_hpCompute {m₀ : Nat} {s₀ : State} {h : Nat} {x : HdDesc} {w : HdWork} {rnd : Nat → Nat}
    (hM₀ : Sub 1543538559 m₀) {t₀ : State} (h₀ : Keeps m₀ s₀ t₀) : Keeps m₀ s₀ (runM (hpCompute h x w rnd) t₀).2 := by
  unfold hpCompute
  repeat' first
    | with_reducible assumption
    | exact hM₀.le (by decide)
    | (intro)
    | with_reducible apply keeps_catchCode
    | with_reducible apply keeps_convPosition
    | with_reducible apply keeps_cropBox
    | with_reducible apply keeps_gatherAll
    | with_reducible apply keeps_wgradRow
    | with_reducible apply keeps_writeRows
    | with_reducible apply Keeps.m_bind
    | with_reducible apply Keeps.m_pure
    | split

theorem keeps_hpWork {m₀ : Nat} {s₀ : State} {h : Nat} {mine : Nat → Bool} (hM₀ : Sub 1543538559 m₀) {t₀ : State}
    (h₀ : Keeps m₀ s₀ t₀) : Keeps m₀ s₀ (runM (hpWork h mine) t₀).2 := by
  unfold hpWork
  try dsimp only
  repeat' first
    | with_reducible assumption
    | exact hM₀.le (by decide)
    | (intro)
    | with_reducible apply keeps_busReadNat
    | with_reducible apply keeps_catchCode
    | with_reducible apply keeps_hpCompute
    | with_reducible apply keeps_hpOperands
    | with_reducible apply keeps_modHp
    | with_reducible apply keeps_noted
    | with_reducible apply keeps_refuseSome
    | with_reducible apply Keeps.m_get_bind
    | with_reducible apply Keeps.m_bind
    | with_reducible apply Keeps.m_failWith
    | with_reducible apply Keeps.m_ite
    | with_reducible apply Keeps.m_waitFor
    | split

theorem keeps_hpCommand {m₀ : Nat} {s₀ : State} {h : Nat} {m : M Unit} (hM₀ : Sub 201326617 m₀)
    (h_m : ∀ {t : State}, Keeps m₀ s₀ t → Keeps m₀ s₀ (runM (m) t).2) {s : State} (h₀ : Keeps m₀ s₀ s) : Keeps m₀ s₀
    (hpCommand h m s) := by
  unfold hpCommand
  repeat' first
    | with_reducible assumption
    | with_reducible apply keeps_attempt
    | with_reducible apply Keeps.ite

theorem keeps_hpRun {m₀ : Nat} {s₀ : State} {h : Nat} {mine : Nat → Bool} (hM₀ : Sub 1543538687 m₀) {s : State}
    (h₀ : Keeps m₀ s₀ s) : Keeps m₀ s₀ (hpRun h mine s) := by
  unfold hpRun
  repeat' first
    | with_reducible assumption
    | exact hM₀.le (by decide)
    | (intro)
    | with_reducible apply keeps_hpCommand
    | with_reducible apply keeps_hpPassBegin
    | with_reducible apply keeps_hpWork
    | with_reducible apply Keeps.ite

theorem keeps_hdWaitPoll {m₀ : Nat} {s₀ : State} {h : Nat} (hM₀ : Sub 1543538687 m₀) {s : State}
    (h₀ : Keeps m₀ s₀ s) : Keeps m₀ s₀ (hdWaitPoll h s) := by
  unfold hdWaitPoll
  repeat' first
    | with_reducible assumption
    | with_reducible apply keeps_hpRun

theorem keeps_dropHdAdd {m₀ : Nat} {s₀ : State} {h : Nat} (hM₀ : Sub 32768 m₀) {s : State} (h₀ : Keeps m₀ s₀ s) :
    Keeps m₀ s₀ (dropHdAdd h s) := by
  unfold dropHdAdd
  try dsimp only
  repeat' first
    | with_reducible assumption
    | with_reducible apply keeps_setHp
    | split

theorem keeps_hdComplete {m₀ : Nat} {s₀ : State} {h cycles : Nat} (hM₀ : Sub 1543538687 m₀) {t₀ : State}
    (h₀ : Keeps m₀ s₀ t₀) : Keeps m₀ s₀ (runM (hdComplete h cycles) t₀).2 := by
  unfold hdComplete
  try dsimp only
  repeat' first
    | with_reducible assumption
    | exact hM₀.le (by decide)
    | (intro)
    | with_reducible apply keeps_acknowledged
    | with_reducible apply keeps_bump
    | with_reducible apply keeps_busAdd
    | with_reducible apply keeps_busWrite
    | with_reducible apply keeps_codeOf
    | with_reducible apply keeps_haltHp
    | with_reducible apply keeps_hpBoundary
    | with_reducible apply keeps_modHp
    | with_reducible apply keeps_wr
    | with_reducible apply Keeps.m_get_bind
    | with_reducible apply Keeps.m_modify_bind
    | with_reducible apply Keeps.m_bind
    | with_reducible apply Keeps.m_throw
    | with_reducible apply Keeps.m_modify
    | with_reducible apply Keeps.m_ite
    | with_reducible apply Keeps.m_gets
    | with_reducible apply Keeps.m_waitFor
    | with_reducible apply Keeps.ite
    | split

theorem keeps_hdFinish {m₀ : Nat} {s₀ : State} {h cycles : Nat} (hM₀ : Sub 1543538687 m₀) {s : State}
    (h₀ : Keeps m₀ s₀ s) : Keeps m₀ s₀ (hdFinish h cycles s) := by
  unfold hdFinish
  repeat' first
    | with_reducible assumption
    | exact hM₀.le (by decide)
    | (intro)
    | with_reducible apply keeps_dropHdAdd
    | with_reducible apply keeps_hdComplete
    | with_reducible apply keeps_hpCommand
    | with_reducible apply keeps_offerLeft
    | with_reducible apply Keeps.ite

/-! ### Machine/Monitor.lean -/

theorem keeps_rngProbe {m₀ : Nat} {s₀ : State} {v : Nat} (hM₀ : Sub 1 m₀) {s : State} (h₀ : Keeps m₀ s₀ s) :
    Keeps m₀ s₀ (rngProbe v s) := by
  unfold rngProbe
  try dsimp only
  repeat' first
    | with_reducible assumption
    | (intro)
    | with_reducible apply keeps_wrAt
    | with_reducible apply Keeps.ite
    | with_reducible apply Keeps.foldl

theorem keeps_setStage {m₀ : Nat} {s₀ : State} {staged : Option (Nat × Nat)} {v : Nat} (hM₀ : Sub 2049 m₀)
    {s : State} (h₀ : Keeps m₀ s₀ s) : Keeps m₀ s₀ (setStage staged v s) := by
  unfold setStage
  try dsimp only
  repeat' first
    | with_reducible assumption
    | exact hM₀.le (by decide)
    | with_reducible apply keeps_wr
    | with_reducible apply Keeps.upd_mon

theorem keeps_discardStaged {m₀ : Nat} {s₀ : State} (hM₀ : Sub 2049 m₀) {s : State} (h₀ : Keeps m₀ s₀ s) :
    Keeps m₀ s₀ (discardStaged s) := by
  unfold discardStaged
  repeat' first
    | with_reducible assumption
    | with_reducible apply keeps_setStage
    | with_reducible apply Keeps.ite

theorem keeps_refuseRng {m₀ : Nat} {s₀ : State} {c : Nat} (hM₀ : Sub 134217761 m₀) {s : State} (h₀ : Keeps m₀ s₀ s)
    : Keeps m₀ s₀ (refuseRng c s) := by
  unfold refuseRng
  repeat' first
    | with_reducible assumption
    | exact hM₀.le (by decide)
    | with_reducible apply keeps_logErr
    | with_reducible apply keeps_wr

theorem keeps_readRngRecord {m₀ : Nat} {s₀ : State} {a : Nat} (hM₀ : Sub 1476396911 m₀) {t₀ : State}
    (h₀ : Keeps m₀ s₀ t₀) : Keeps m₀ s₀ (runM (readRngRecord a) t₀).2 := by
  unfold readRngRecord
  try dsimp only
  repeat' first
    | with_reducible assumption
    | (intro)
    | with_reducible apply keeps_busRead
    | with_reducible apply Keeps.m_get_bind
    | with_reducible apply Keeps.m_bind
    | with_reducible apply Keeps.m_pure
    | with_reducible apply Keeps.m_refuseIf

theorem keeps_rngStage {m₀ : Nat} {s₀ : State} {a : Nat} (hM₀ : Sub 1476398959 m₀) {t₀ : State}
    (h₀ : Keeps m₀ s₀ t₀) : Keeps m₀ s₀ (runM (rngStage a) t₀).2 := by
  unfold rngStage
  repeat' first
    | with_reducible assumption
    | exact hM₀.le (by decide)
    | (intro)
    | with_reducible apply keeps_catchCode
    | with_reducible apply keeps_readRngRecord
    | with_reducible apply keeps_refuseRng
    | with_reducible apply keeps_setStage
    | with_reducible apply Keeps.m_bind
    | with_reducible apply Keeps.m_modify
    | split

theorem keeps_lmLossIn {m₀ : Nat} {s₀ : State} {off : Nat} {data : List Byte} (hM₀ : Sub 2049 m₀) {s : State}
    (h₀ : Keeps m₀ s₀ s) : Keeps m₀ s₀ (lmLossIn off data s) := by
  unfold lmLossIn
  try dsimp only
  repeat' first
    | with_reducible assumption
    | exact hM₀.le (by decide)
    | with_reducible apply keeps_bump
    | with_reducible apply Keeps.ite
    | with_reducible apply Keeps.upd_mon

theorem keeps_setPendingLoss {m₀ : Nat} {s₀ : State} {p : Nat × Nat × Nat} (hM₀ : Sub 2048 m₀) {s : State}
    (h₀ : Keeps m₀ s₀ s) : Keeps m₀ s₀ (setPendingLoss p s) := by
  unfold setPendingLoss
  try dsimp only
  repeat' first
    | with_reducible assumption
    | with_reducible apply Keeps.upd_mon

theorem keeps_showLast {m₀ : Nat} {s₀ : State} {x z step : Nat} (hM₀ : Sub 1 m₀) {s : State} (h₀ : Keeps m₀ s₀ s) :
    Keeps m₀ s₀ (showLast x z step s) := by
  unfold showLast
  repeat' first
    | with_reducible assumption
    | with_reducible apply keeps_wr

theorem keeps_lossMoves {m₀ : Nat} {s₀ : State} {x step : Nat} (hM₀ : Sub 134219809 m₀) {s : State}
    (h₀ : Keeps m₀ s₀ s) : Keeps m₀ s₀ (lossMoves x step s) := by
  unfold lossMoves
  try dsimp only
  repeat' first
    | with_reducible assumption
    | exact hM₀.le (by decide)
    | with_reducible apply keeps_bump
    | with_reducible apply keeps_raiseBit
    | with_reducible apply keeps_setPendingLoss
    | with_reducible apply keeps_showLast
    | with_reducible apply Keeps.ite

theorem keeps_lossEvaluate {m₀ : Nat} {s₀ : State} {step : Nat} (hM₀ : Sub 134219809 m₀) {s : State}
    (h₀ : Keeps m₀ s₀ s) : Keeps m₀ s₀ (lossEvaluate step s).1 := by
  unfold lossEvaluate
  try dsimp only
  repeat' first
    | with_reducible assumption
    | exact hM₀.le (by decide)
    | with_reducible apply keeps_bump
    | with_reducible apply keeps_lossMoves
    | with_reducible apply keeps_raiseBit
    | with_reducible apply keeps_setPendingLoss
    | with_reducible apply keeps_showLast
    | with_reducible apply keeps_wr
    | split

theorem keeps_lossResolve {m₀ : Nat} {s₀ : State} {step : Nat} {commit : Bool} (hM₀ : Sub 2049 m₀) {s : State}
    (h₀ : Keeps m₀ s₀ s) : Keeps m₀ s₀ (lossResolve step commit s) := by
  unfold lossResolve
  try dsimp only
  repeat' first
    | with_reducible assumption
    | exact hM₀.le (by decide)
    | with_reducible apply keeps_wr
    | split
    | with_reducible apply Keeps.upd_mon

end Sys2Proof.Machine
end

