-- ==== Sys2Proof/Laws/KeepsMedia.lean ====
section
/-! SUPPORT. What each operation on decoders, encoders and the cistern can do to the state, as `Keeps`. -/

namespace Sys2Proof.Machine

/-! ### Machine/Media.lean -/

theorem keeps_setDec {m₀ : Nat} {s₀ : State} {n : Nat} {x : Decoder} (hM₀ : Sub 65537 m₀) {s : State}
    (h₀ : Keeps m₀ s₀ s) : Keeps m₀ s₀ (setDec n x s) := by
  unfold setDec
  try dsimp only
  repeat' first
    | with_reducible assumption
    | exact hM₀.le (by decide)
    | with_reducible apply keeps_wr
    | with_reducible apply Keeps.upd_decoders

theorem keeps_vdSubmit {m₀ : Nat} {s₀ : State} {n off : Nat} {data : List Byte} (hM₀ : Sub 134283297 m₀) {s : State}
    (h₀ : Keeps m₀ s₀ s) : Keeps m₀ s₀ (vdSubmit n off data s) := by
  unfold vdSubmit
  try dsimp only
  repeat' first
    | with_reducible assumption
    | exact hM₀.le (by decide)
    | with_reducible apply keeps_bump
    | with_reducible apply keeps_logErr
    | with_reducible apply keeps_setDec
    | with_reducible apply Keeps.ite

theorem keeps_setMark {m₀ : Nat} {s₀ : State} {n : Nat} {f : Field} {b : Nat} {on : Bool} (hM₀ : Sub 1 m₀)
    {s : State} (h₀ : Keeps m₀ s₀ s) : Keeps m₀ s₀ (setMark n f b on s) := by
  unfold setMark
  try dsimp only
  repeat' first
    | with_reducible assumption
    | with_reducible apply keeps_wr

theorem keeps_entryWritten {m₀ : Nat} {s₀ : State} {n : Nat} {e : List Byte} (hM₀ : Sub 134283297 m₀) {s : State}
    (h₀ : Keeps m₀ s₀ s) : Keeps m₀ s₀ (entryWritten n e s) := by
  unfold entryWritten
  try dsimp only
  repeat' first
    | with_reducible assumption
    | exact hM₀.le (by decide)
    | with_reducible apply keeps_bump
    | with_reducible apply keeps_raiseBit
    | with_reducible apply keeps_setDec
    | with_reducible apply keeps_setMark
    | with_reducible apply Keeps.ite

theorem keeps_ringFlush {m₀ : Nat} {s₀ : State} {n : Nat} (hM₀ : Sub 1543571327 m₀) :
    ∀ (x0 : Nat) (t₀ : State), Keeps m₀ s₀ t₀ → Keeps m₀ s₀ (runM (ringFlush n x0) t₀).2
  | 0, t₀, h₀ => by
    unfold ringFlush
    try dsimp only
    repeat' first
      | with_reducible assumption
      | exact hM₀.le (by decide)
      | (intro)
      | (with_reducible apply keeps_ringFlush hM₀)
      | with_reducible apply keeps_busWrite
      | with_reducible apply keeps_codeOf
      | with_reducible apply keeps_entryWritten
      | with_reducible apply keeps_setDec
      | with_reducible apply keeps_wr
      | with_reducible apply Keeps.m_get_bind
      | with_reducible apply Keeps.m_modify_bind
      | with_reducible apply Keeps.m_bind
      | with_reducible apply Keeps.m_pure
      | with_reducible apply Keeps.m_ite
      | split
  | k + 1, t₀, h₀ => by
    unfold ringFlush
    try dsimp only
    repeat' first
      | with_reducible assumption
      | exact hM₀.le (by decide)
      | (intro)
      | (with_reducible apply keeps_ringFlush hM₀)
      | with_reducible apply keeps_busWrite
      | with_reducible apply keeps_codeOf
      | with_reducible apply keeps_entryWritten
      | with_reducible apply keeps_setDec
      | with_reducible apply keeps_wr
      | with_reducible apply Keeps.m_get_bind
      | with_reducible apply Keeps.m_modify_bind
      | with_reducible apply Keeps.m_bind
      | with_reducible apply Keeps.m_pure
      | with_reducible apply Keeps.m_ite
      | split

theorem keeps_ringPut {m₀ : Nat} {s₀ : State} {n : Nat} {es : List (List Byte)} (hM₀ : Sub 1543571327 m₀)
    {t₀ : State} (h₀ : Keeps m₀ s₀ t₀) : Keeps m₀ s₀ (runM (ringPut n es) t₀).2 := by
  unfold ringPut
  try dsimp only
  repeat' first
    | with_reducible assumption
    | exact hM₀.le (by decide)
    | with_reducible apply keeps_ringFlush
    | with_reducible apply keeps_setDec
    | with_reducible apply Keeps.m_get_bind
    | with_reducible apply Keeps.m_modify_bind

theorem keeps_endDecode {m₀ : Nat} {s₀ : State} {n : Nat} {job : List Byte} {code : Nat} (hM₀ : Sub 134283297 m₀)
    {s : State} (h₀ : Keeps m₀ s₀ s) : Keeps m₀ s₀ (endDecode n job code s) := by
  unfold endDecode
  try dsimp only
  repeat' first
    | with_reducible assumption
    | exact hM₀.le (by decide)
    | with_reducible apply keeps_logErr
    | with_reducible apply keeps_setDec
    | with_reducible apply keeps_wr

theorem keeps_vdStart {m₀ : Nat} {s₀ : State} {n : Nat} (hM₀ : Sub 134283297 m₀) {s : State} (h₀ : Keeps m₀ s₀ s) :
    Keeps m₀ s₀ (vdStart n s) := by
  unfold vdStart
  try dsimp only
  repeat' first
    | with_reducible assumption
    | exact hM₀.le (by decide)
    | with_reducible apply keeps_endDecode
    | with_reducible apply keeps_setDec
    | with_reducible apply Keeps.ite
    | split

theorem keeps_sourceRows {m₀ : Nat} {s₀ : State} {n off len : Nat} (hM₀ : Sub 1476396911 m₀) :
    ∀ (x0 : List Nat) (t₀ : State), Keeps m₀ s₀ t₀ → Keeps m₀ s₀ (runM (sourceRows n off len x0) t₀).2
  | [], t₀, h₀ => by
    unfold sourceRows
    repeat' first
      | with_reducible assumption
      | (intro)
      | (with_reducible apply keeps_sourceRows hM₀)
      | with_reducible apply keeps_busRead
      | with_reducible apply Keeps.m_get_bind
      | with_reducible apply Keeps.m_bind
      | with_reducible apply Keeps.m_pure
  | b :: bs, t₀, h₀ => by
    unfold sourceRows
    repeat' first
      | with_reducible assumption
      | (intro)
      | (with_reducible apply keeps_sourceRows hM₀)
      | with_reducible apply keeps_busRead
      | with_reducible apply Keeps.m_get_bind
      | with_reducible apply Keeps.m_bind
      | with_reducible apply Keeps.m_pure

theorem keeps_writePicture {m₀ : Nat} {s₀ : State} {n buf : Nat} {c : Picture} {planes : List (List (List Nat))}
    {units : List (Nat × Option Nat)} (hM₀ : Sub 1543505791 m₀) :
    ∀ (x0 : List (Nat × Nat)) (t₀ : State), Keeps m₀ s₀ t₀ → Keeps m₀ s₀
    (runM (writePicture n buf c planes units x0) t₀).2
  | [], t₀, h₀ => by
    unfold writePicture
    try dsimp only
    repeat' first
      | with_reducible assumption
      | exact hM₀.le (by decide)
      | (intro)
      | (with_reducible apply keeps_writePicture hM₀)
      | with_reducible apply keeps_busWrite
      | with_reducible apply keeps_sourceRows
      | with_reducible apply Keeps.m_get_bind
      | with_reducible apply Keeps.m_bind
      | with_reducible apply Keeps.m_pure
  | (p, y) :: rest, t₀, h₀ => by
    unfold writePicture
    try dsimp only
    repeat' first
      | with_reducible assumption
      | exact hM₀.le (by decide)
      | (intro)
      | (with_reducible apply keeps_writePicture hM₀)
      | with_reducible apply keeps_busWrite
      | with_reducible apply keeps_sourceRows
      | with_reducible apply Keeps.m_get_bind
      | with_reducible apply Keeps.m_bind
      | with_reducible apply Keeps.m_pure

theorem keeps_pictureDone {m₀ : Nat} {s₀ : State} {n b : Nat} {j : List Byte} {c : Picture}
    {units : List (Nat × Option Nat)} (hM₀ : Sub 65537 m₀) {s : State} (h₀ : Keeps m₀ s₀ s) : Keeps m₀ s₀
    (pictureDone n b j c units s) := by
  unfold pictureDone
  try dsimp only
  repeat' first
    | with_reducible assumption
    | exact hM₀.le (by decide)
    | with_reducible apply keeps_bump
    | with_reducible apply keeps_setDec

theorem keeps_vdPicture {m₀ : Nat} {s₀ : State} {n : Nat} {c : Picture} (hM₀ : Sub 1543571327 m₀) {t₀ : State}
    (h₀ : Keeps m₀ s₀ t₀) : Keeps m₀ s₀ (runM (vdPicture n c) t₀).2 := by
  unfold vdPicture
  try dsimp only
  repeat' first
    | with_reducible assumption
    | exact hM₀.le (by decide)
    | (intro)
    | with_reducible apply keeps_busRead
    | with_reducible apply keeps_catchCode
    | with_reducible apply keeps_endDecode
    | with_reducible apply keeps_logErr
    | with_reducible apply keeps_pictureDone
    | with_reducible apply keeps_ringFlush
    | with_reducible apply keeps_ringPut
    | with_reducible apply keeps_setDec
    | with_reducible apply keeps_wr
    | with_reducible apply keeps_writePicture
    | with_reducible apply Keeps.m_get_bind
    | with_reducible apply Keeps.m_modify_bind
    | with_reducible apply Keeps.m_bind
    | with_reducible apply Keeps.m_pure
    | with_reducible apply Keeps.m_throw
    | with_reducible apply Keeps.m_modify
    | with_reducible apply Keeps.m_ite
    | with_reducible apply Keeps.foldl
    | split

theorem keeps_vdFrameEntry {m₀ : Nat} {s₀ : State} {n : Nat} (hM₀ : Sub 1543571327 m₀) {t₀ : State}
    (h₀ : Keeps m₀ s₀ t₀) : Keeps m₀ s₀ (runM (vdFrameEntry n) t₀).2 := by
  unfold vdFrameEntry
  try dsimp only
  repeat' first
    | with_reducible assumption
    | exact hM₀.le (by decide)
    | (intro)
    | with_reducible apply keeps_acknowledged
    | with_reducible apply keeps_codeOf
    | with_reducible apply keeps_endDecode
    | with_reducible apply keeps_ringFlush
    | with_reducible apply keeps_ringPut
    | with_reducible apply keeps_setDec
    | with_reducible apply Keeps.m_get_bind
    | with_reducible apply Keeps.m_modify_bind
    | with_reducible apply Keeps.m_bind
    | with_reducible apply Keeps.m_throw
    | with_reducible apply Keeps.m_modify
    | with_reducible apply Keeps.m_ite
    | with_reducible apply Keeps.m_waitFor
    | split

theorem keeps_vdRelease {m₀ : Nat} {s₀ : State} {n buf : Nat} (hM₀ : Sub 1 m₀) {s : State} (h₀ : Keeps m₀ s₀ s) :
    Keeps m₀ s₀ (vdRelease n buf s) := by
  unfold vdRelease
  try dsimp only
  repeat' first
    | with_reducible assumption
    | with_reducible apply keeps_bump
    | with_reducible apply keeps_setMark
    | with_reducible apply Keeps.ite

theorem keeps_lockDecoder {m₀ : Nat} {s₀ : State} {n : Nat} (hM₀ : Sub 1543571327 m₀) {s : State}
    (h₀ : Keeps m₀ s₀ s) : Keeps m₀ s₀ (lockDecoder n s) := by
  unfold lockDecoder
  try dsimp only
  repeat' first
    | with_reducible assumption
    | exact hM₀.le (by decide)
    | (intro)
    | with_reducible apply keeps_attempt
    | with_reducible apply keeps_endDecode
    | with_reducible apply keeps_logErr
    | with_reducible apply keeps_ringPut
    | with_reducible apply keeps_setDec
    | with_reducible apply Keeps.foldl
    | split

theorem keeps_setEnc {m₀ : Nat} {s₀ : State} {n : Nat} {x : Encoder} (hM₀ : Sub 131073 m₀) {s : State}
    (h₀ : Keeps m₀ s₀ s) : Keeps m₀ s₀ (setEnc n x s) := by
  unfold setEnc
  try dsimp only
  repeat' first
    | with_reducible assumption
    | exact hM₀.le (by decide)
    | with_reducible apply keeps_wr
    | with_reducible apply Keeps.upd_encoders

theorem keeps_veRecord {m₀ : Nat} {s₀ : State} {n : Nat} {j : List Byte} {code frames : Nat} {bytes misses : Nat}
    (hM₀ : Sub 1543505791 m₀) {t₀ : State} (h₀ : Keeps m₀ s₀ t₀) : Keeps m₀ s₀
    (runM (veRecord n j code frames bytes misses) t₀).2 := by
  unfold veRecord
  try dsimp only
  repeat' first
    | with_reducible assumption
    | exact hM₀.le (by decide)
    | (intro)
    | with_reducible apply keeps_busWrite
    | with_reducible apply keeps_codeOf
    | with_reducible apply keeps_logErr
    | with_reducible apply keeps_raiseBit
    | with_reducible apply Keeps.m_modify_bind
    | with_reducible apply Keeps.m_bind
    | with_reducible apply Keeps.m_pure
    | with_reducible apply Keeps.m_modify
    | with_reducible apply Keeps.m_ite

theorem keeps_veSubmit {m₀ : Nat} {s₀ : State} {n off : Nat} {data : List Byte} (hM₀ : Sub 1543636863 m₀)
    {s : State} (h₀ : Keeps m₀ s₀ s) : Keeps m₀ s₀ (veSubmit n off data s) := by
  unfold veSubmit
  try dsimp only
  repeat' first
    | with_reducible assumption
    | exact hM₀.le (by decide)
    | (intro)
    | with_reducible apply keeps_attempt
    | with_reducible apply keeps_bump
    | with_reducible apply keeps_logErr
    | with_reducible apply keeps_setEnc
    | with_reducible apply keeps_veRecord
    | with_reducible apply Keeps.m_modify_bind
    | with_reducible apply Keeps.ite

theorem keeps_veStart {m₀ : Nat} {s₀ : State} {n : Nat} (hM₀ : Sub 131073 m₀) {s : State} (h₀ : Keeps m₀ s₀ s) :
    Keeps m₀ s₀ (veStart n s) := by
  unfold veStart
  try dsimp only
  repeat' first
    | with_reducible assumption
    | with_reducible apply keeps_setEnc
    | with_reducible apply Keeps.ite
    | split

theorem keeps_veFrame {m₀ : Nat} {s₀ : State} {n : Nat} (hM₀ : Sub 1543636863 m₀) {t₀ : State} (h₀ : Keeps m₀ s₀ t₀)
    : Keeps m₀ s₀ (runM (veFrame n) t₀).2 := by
  unfold veFrame
  try dsimp only
  repeat' first
    | with_reducible assumption
    | exact hM₀.le (by decide)
    | (intro)
    | with_reducible apply keeps_bump
    | with_reducible apply keeps_busRead
    | with_reducible apply keeps_busWrite
    | with_reducible apply keeps_catchCode
    | with_reducible apply keeps_codeOf
    | with_reducible apply keeps_setEnc
    | with_reducible apply Keeps.m_get_bind
    | with_reducible apply Keeps.m_modify_bind
    | with_reducible apply Keeps.m_bind
    | with_reducible apply Keeps.m_throw
    | with_reducible apply Keeps.m_modify
    | with_reducible apply Keeps.m_ite
    | with_reducible apply Keeps.m_waitFor
    | split

theorem keeps_veResult {m₀ : Nat} {s₀ : State} {n : Nat} (hM₀ : Sub 1543636863 m₀) {t₀ : State}
    (h₀ : Keeps m₀ s₀ t₀) : Keeps m₀ s₀ (runM (veResult n) t₀).2 := by
  unfold veResult
  try dsimp only
  repeat' first
    | with_reducible assumption
    | exact hM₀.le (by decide)
    | (intro)
    | with_reducible apply keeps_acknowledged
    | with_reducible apply keeps_codeOf
    | with_reducible apply keeps_setEnc
    | with_reducible apply keeps_veRecord
    | with_reducible apply Keeps.m_get_bind
    | with_reducible apply Keeps.m_bind
    | with_reducible apply Keeps.m_throw
    | with_reducible apply Keeps.m_modify
    | split

theorem keeps_lockEncoder {m₀ : Nat} {s₀ : State} {n : Nat} (hM₀ : Sub 131073 m₀) {s : State} (h₀ : Keeps m₀ s₀ s) :
    Keeps m₀ s₀ (lockEncoder n s) := by
  unfold lockEncoder
  try dsimp only
  repeat' first
    | with_reducible assumption
    | with_reducible apply keeps_setEnc

/-! ### Machine/Cistern.lean -/

theorem keeps_modCist {m₀ : Nat} {s₀ : State} {f : Cist → Cist} (hM₀ : Sub 262144 m₀) {s : State}
    (h₀ : Keeps m₀ s₀ s) : Keeps m₀ s₀ (modCist f s) := by
  unfold modCist
  repeat' first
    | with_reducible assumption
    | with_reducible apply Keeps.upd_cist

theorem keeps_showCiLow {m₀ : Nat} {s₀ : State} (hM₀ : Sub 134217761 m₀) {s : State} (h₀ : Keeps m₀ s₀ s) :
    Keeps m₀ s₀ (showCiLow s) := by
  unfold showCiLow
  repeat' first
    | with_reducible assumption
    | exact hM₀.le (by decide)
    | with_reducible apply keeps_raiseBit
    | with_reducible apply keeps_wr
    | with_reducible apply Keeps.ite

theorem keeps_showCistern {m₀ : Nat} {s₀ : State} (hM₀ : Sub 1 m₀) {s : State} (h₀ : Keeps m₀ s₀ s) : Keeps m₀ s₀
    (showCistern s) := by
  unfold showCistern
  try dsimp only
  repeat' first
    | with_reducible assumption
    | with_reducible apply keeps_wr

theorem keeps_ciCommand {m₀ : Nat} {s₀ : State} {m : M Unit} (hM₀ : Sub 201326617 m₀)
    (h_m : ∀ {t : State}, Keeps m₀ s₀ t → Keeps m₀ s₀ (runM (m) t).2) {s : State} (h₀ : Keeps m₀ s₀ s) : Keeps m₀ s₀
    (ciCommand m s) := by
  unfold ciCommand
  repeat' first
    | with_reducible assumption
    | exact hM₀.le (by decide)
    | (intro)
    | with_reducible apply h_m
    | with_reducible apply keeps_attempt
    | with_reducible apply keeps_showCistern
    | with_reducible apply Keeps.m_bind
    | with_reducible apply Keeps.m_modify

theorem keeps_ciWrite {m₀ : Nat} {s₀ : State} {a : Nat} {d : List PByte} (hM₀ : Sub 1543505791 m₀) {t₀ : State}
    (h₀ : Keeps m₀ s₀ t₀) : Keeps m₀ s₀ (runM (ciWrite a d) t₀).2 := by
  unfold ciWrite
  repeat' first
    | with_reducible assumption
    | exact hM₀.le (by decide)
    | (intro)
    | with_reducible apply keeps_busWrite
    | with_reducible apply keeps_codeOf
    | with_reducible apply keeps_logErr
    | with_reducible apply Keeps.m_bind
    | with_reducible apply Keeps.m_pure
    | with_reducible apply Keeps.m_modify
    | with_reducible apply Keeps.m_ite

theorem keeps_takeEntry {m₀ : Nat} {s₀ : State} {mine : Nat → Bool} (hM₀ : Sub 1476396911 m₀) {t₀ : State}
    (h₀ : Keeps m₀ s₀ t₀) : Keeps m₀ s₀ (runM (takeEntry mine) t₀).2 := by
  unfold takeEntry
  try dsimp only
  repeat' first
    | with_reducible assumption
    | exact hM₀.le (by decide)
    | (intro)
    | with_reducible apply keeps_busRead
    | with_reducible apply keeps_catchCode
    | with_reducible apply keeps_logErr
    | with_reducible apply keeps_wr
    | with_reducible apply Keeps.m_get_bind
    | with_reducible apply Keeps.m_modify_bind
    | with_reducible apply Keeps.m_bind
    | with_reducible apply Keeps.m_pure
    | with_reducible apply Keeps.m_waitFor
    | with_reducible apply Keeps.ite

theorem keeps_ciRefuse {m₀ : Nat} {s₀ : State} {code tag : Nat} (hM₀ : Sub 134217761 m₀) {s : State}
    (h₀ : Keeps m₀ s₀ s) : Keeps m₀ s₀ (ciRefuse code tag s) := by
  unfold ciRefuse
  repeat' first
    | with_reducible assumption
    | exact hM₀.le (by decide)
    | with_reducible apply keeps_bump
    | with_reducible apply keeps_logErr

theorem keeps_newSample {m₀ : Nat} {s₀ : State} {d xform : List Byte} {code : Nat} (hM₀ : Sub 402915361 m₀)
    {s : State} (h₀ : Keeps m₀ s₀ s) : Keeps m₀ s₀ (newSample d xform code s) := by
  unfold newSample
  try dsimp only
  repeat' first
    | with_reducible assumption
    | exact hM₀.le (by decide)
    | with_reducible apply keeps_ciRefuse
    | with_reducible apply keeps_modCist
    | with_reducible apply keeps_wr
    | split
    | with_reducible apply Keeps.upd_drawn

theorem keeps_checkDecode {m₀ : Nat} {s₀ : State} {d : List Byte} (hM₀ : Sub 1476396911 m₀) {t₀ : State}
    (h₀ : Keeps m₀ s₀ t₀) : Keeps m₀ s₀ (runM (checkDecode d) t₀).2 := by
  unfold checkDecode
  try dsimp only
  repeat' first
    | with_reducible assumption
    | (intro)
    | with_reducible apply keeps_busRead
    | with_reducible apply keeps_catchCode
    | with_reducible apply Keeps.m_get_bind
    | with_reducible apply Keeps.m_bind
    | with_reducible apply Keeps.m_pure
    | with_reducible apply Keeps.m_ite
    | split

theorem keeps_putSample {m₀ : Nat} {s₀ : State} {x : CiSample} (hM₀ : Sub 262144 m₀) {s : State}
    (h₀ : Keeps m₀ s₀ s) : Keeps m₀ s₀ (putSample x s) := by
  unfold putSample
  repeat' first
    | with_reducible assumption
    | with_reducible apply keeps_modCist

theorem keeps_fillFrames {m₀ : Nat} {s₀ : State} {x : CiSample} (hM₀ : Sub 1543505791 m₀) :
    ∀ (x0 : List Nat) (t₀ : State), Keeps m₀ s₀ t₀ → Keeps m₀ s₀ (runM (fillFrames x x0) t₀).2
  | [], t₀, h₀ => by
    unfold fillFrames
    try dsimp only
    repeat' first
      | with_reducible assumption
      | exact hM₀.le (by decide)
      | (intro)
      | (with_reducible apply keeps_fillFrames hM₀)
      | with_reducible apply keeps_bump
      | with_reducible apply keeps_busRead
      | with_reducible apply keeps_catchCode
      | with_reducible apply keeps_ciWrite
      | with_reducible apply keeps_logErr
      | with_reducible apply Keeps.m_get_bind
      | with_reducible apply Keeps.m_modify_bind
      | with_reducible apply Keeps.m_bind
      | with_reducible apply Keeps.m_pure
      | with_reducible apply Keeps.m_ite
      | split
  | f :: fs, t₀, h₀ => by
    unfold fillFrames
    try dsimp only
    repeat' first
      | with_reducible assumption
      | exact hM₀.le (by decide)
      | (intro)
      | (with_reducible apply keeps_fillFrames hM₀)
      | with_reducible apply keeps_bump
      | with_reducible apply keeps_busRead
      | with_reducible apply keeps_catchCode
      | with_reducible apply keeps_ciWrite
      | with_reducible apply keeps_logErr
      | with_reducible apply Keeps.m_get_bind
      | with_reducible apply Keeps.m_modify_bind
      | with_reducible apply Keeps.m_bind
      | with_reducible apply Keeps.m_pure
      | with_reducible apply Keeps.m_ite
      | split

theorem keeps_meanTakes {m₀ : Nat} {s₀ : State} {t : Nat} (hM₀ : Sub 1 m₀) {s : State} (h₀ : Keeps m₀ s₀ s) :
    Keeps m₀ s₀ (meanTakes t s) := by
  unfold meanTakes
  try dsimp only
  repeat' first
    | with_reducible assumption
    | with_reducible apply keeps_wr

theorem keeps_finishSample {m₀ : Nat} {s₀ : State} {x : CiSample} (hM₀ : Sub 1543767935 m₀) {t₀ : State}
    (h₀ : Keeps m₀ s₀ t₀) : Keeps m₀ s₀ (runM (finishSample x) t₀).2 := by
  unfold finishSample
  try dsimp only
  repeat' first
    | with_reducible assumption
    | exact hM₀.le (by decide)
    | (intro)
    | with_reducible apply keeps_bump
    | with_reducible apply keeps_ciWrite
    | with_reducible apply keeps_fillFrames
    | with_reducible apply keeps_meanTakes
    | with_reducible apply keeps_putSample
    | with_reducible apply Keeps.m_get_bind
    | with_reducible apply Keeps.m_bind
    | with_reducible apply Keeps.m_modify
    | with_reducible apply Keeps.m_ite
    | with_reducible apply Keeps.ite
    | split

theorem keeps_setStream {m₀ : Nat} {s₀ : State} {n : Nat} {x : CiStream} (hM₀ : Sub 262144 m₀) {s : State}
    (h₀ : Keeps m₀ s₀ s) : Keeps m₀ s₀ (setStream n x s) := by
  unfold setStream
  repeat' first
    | with_reducible assumption
    | with_reducible apply keeps_modCist

theorem keeps_examineStream {m₀ : Nat} {s₀ : State} {n : Nat} (hM₀ : Sub 1476659055 m₀) :
    ∀ (x0 : Nat) (t₀ : State), Keeps m₀ s₀ t₀ → Keeps m₀ s₀ (runM (examineStream n x0) t₀).2
  | 0, t₀, h₀ => by
    unfold examineStream
    try dsimp only
    repeat' first
      | with_reducible assumption
      | exact hM₀.le (by decide)
      | (intro)
      | (with_reducible apply keeps_examineStream hM₀)
      | with_reducible apply keeps_addAt
      | with_reducible apply keeps_busReadNat
      | with_reducible apply keeps_catchCode
      | with_reducible apply keeps_logErr
      | with_reducible apply keeps_setStream
      | with_reducible apply Keeps.m_get_bind
      | with_reducible apply Keeps.m_modify_bind
      | with_reducible apply Keeps.m_bind
      | with_reducible apply Keeps.m_pure
      | with_reducible apply Keeps.m_ite
      | with_reducible apply Keeps.ite
      | split
  | k + 1, t₀, h₀ => by
    unfold examineStream
    try dsimp only
    repeat' first
      | with_reducible assumption
      | exact hM₀.le (by decide)
      | (intro)
      | (with_reducible apply keeps_examineStream hM₀)
      | with_reducible apply keeps_addAt
      | with_reducible apply keeps_busReadNat
      | with_reducible apply keeps_catchCode
      | with_reducible apply keeps_logErr
      | with_reducible apply keeps_setStream
      | with_reducible apply Keeps.m_get_bind
      | with_reducible apply Keeps.m_modify_bind
      | with_reducible apply Keeps.m_bind
      | with_reducible apply Keeps.m_pure
      | with_reducible apply Keeps.m_ite
      | with_reducible apply Keeps.ite
      | split

theorem keeps_examineAll {m₀ : Nat} {s₀ : State} {n : Nat} (hM₀ : Sub 1476659055 m₀) {t₀ : State}
    (h₀ : Keeps m₀ s₀ t₀) : Keeps m₀ s₀ (runM (examineAll n) t₀).2 := by
  unfold examineAll
  repeat' first
    | with_reducible assumption
    | with_reducible apply keeps_examineStream
    | with_reducible apply Keeps.m_get_bind

theorem keeps_settleOn {m₀ : Nat} {s₀ : State} {x : CiSample} {n : Nat} {r : Option (Nat × Int)}
    (hM₀ : Sub 1543767935 m₀) {t₀ : State} (h₀ : Keeps m₀ s₀ t₀) : Keeps m₀ s₀ (runM (settleOn x n r) t₀).2 := by
  unfold settleOn
  try dsimp only
  repeat' first
    | with_reducible assumption
    | exact hM₀.le (by decide)
    | (intro)
    | with_reducible apply keeps_busRead
    | with_reducible apply keeps_busReadNat
    | with_reducible apply keeps_catchCode
    | with_reducible apply keeps_ciWrite
    | with_reducible apply keeps_logErr
    | with_reducible apply keeps_setStream
    | with_reducible apply keeps_wrAt
    | with_reducible apply Keeps.m_get_bind
    | with_reducible apply Keeps.m_modify_bind
    | with_reducible apply Keeps.m_pure_bind
    | with_reducible apply Keeps.m_bind
    | with_reducible apply Keeps.m_pure
    | split

theorem keeps_settleStreams {m₀ : Nat} {s₀ : State} {expired : Bool} {x : CiSample} (hM₀ : Sub 1543767935 m₀) :
    ∀ (x0 : List Nat) (t₀ : State), Keeps m₀ s₀ t₀ → Keeps m₀ s₀ (runM (settleStreams expired x x0) t₀).2
  | [], t₀, h₀ => by
    unfold settleStreams
    try dsimp only
    repeat' first
      | with_reducible assumption
      | (intro)
      | (with_reducible apply keeps_settleStreams hM₀)
      | with_reducible apply keeps_settleOn
      | with_reducible apply Keeps.m_get_bind
      | with_reducible apply Keeps.m_pure_bind
      | with_reducible apply Keeps.m_bind
      | with_reducible apply Keeps.m_pure
      | with_reducible apply Keeps.m_ite
  | n :: ns, t₀, h₀ => by
    unfold settleStreams
    try dsimp only
    repeat' first
      | with_reducible assumption
      | (intro)
      | (with_reducible apply keeps_settleStreams hM₀)
      | with_reducible apply keeps_settleOn
      | with_reducible apply Keeps.m_get_bind
      | with_reducible apply Keeps.m_pure_bind
      | with_reducible apply Keeps.m_bind
      | with_reducible apply Keeps.m_pure
      | with_reducible apply Keeps.m_ite

theorem keeps_settleSample {m₀ : Nat} {s₀ : State} {expired : Bool} {x : CiSample} (hM₀ : Sub 1543767935 m₀)
    {t₀ : State} (h₀ : Keeps m₀ s₀ t₀) : Keeps m₀ s₀ (runM (settleSample expired x) t₀).2 := by
  unfold settleSample
  repeat' first
    | with_reducible assumption
    | exact hM₀.le (by decide)
    | (intro)
    | with_reducible apply keeps_finishSample
    | with_reducible apply keeps_putSample
    | with_reducible apply keeps_settleStreams
    | with_reducible apply Keeps.m_bind
    | with_reducible apply Keeps.m_modify
    | with_reducible apply Keeps.m_ite

theorem keeps_settleAll {m₀ : Nat} {s₀ : State} (hM₀ : Sub 1543767935 m₀) :
    ∀ (x0 : List Nat) (t₀ : State), Keeps m₀ s₀ t₀ → Keeps m₀ s₀ (runM (settleAll x0) t₀).2
  | [], t₀, h₀ => by
    unfold settleAll
    try dsimp only
    repeat' first
      | with_reducible assumption
      | (intro)
      | (with_reducible apply keeps_settleAll hM₀)
      | with_reducible apply keeps_settleSample
      | with_reducible apply Keeps.m_get_bind
      | with_reducible apply Keeps.m_bind
      | with_reducible apply Keeps.m_pure
      | split
  | n :: ns, t₀, h₀ => by
    unfold settleAll
    try dsimp only
    repeat' first
      | with_reducible assumption
      | (intro)
      | (with_reducible apply keeps_settleAll hM₀)
      | with_reducible apply keeps_settleSample
      | with_reducible apply Keeps.m_get_bind
      | with_reducible apply Keeps.m_bind
      | with_reducible apply Keeps.m_pure
      | split

theorem keeps_ssTailAdvance {m₀ : Nat} {s₀ : State} {n : Nat} (hM₀ : Sub 1543767935 m₀) {t₀ : State}
    (h₀ : Keeps m₀ s₀ t₀) : Keeps m₀ s₀ (runM (ssTailAdvance n) t₀).2 := by
  unfold ssTailAdvance
  repeat' first
    | with_reducible assumption
    | exact hM₀.le (by decide)
    | (intro)
    | with_reducible apply keeps_examineAll
    | with_reducible apply keeps_settleAll
    | with_reducible apply Keeps.m_get_bind
    | with_reducible apply Keeps.m_bind
    | with_reducible apply Keeps.m_pure
    | with_reducible apply Keeps.m_ite

theorem keeps_ssTail {m₀ : Nat} {s₀ : State} {n tail : Nat} (hM₀ : Sub 1543767935 m₀) {s : State}
    (h₀ : Keeps m₀ s₀ s) : Keeps m₀ s₀ (ssTail n tail s) := by
  unfold ssTail
  repeat' first
    | with_reducible assumption
    | exact hM₀.le (by decide)
    | (intro)
    | with_reducible apply keeps_ciCommand
    | with_reducible apply keeps_ssTailAdvance
    | with_reducible apply keeps_wrAt
    | with_reducible apply Keeps.ite

theorem keeps_examineEach {m₀ : Nat} {s₀ : State} (hM₀ : Sub 1476659055 m₀) :
    ∀ (x0 : List Nat) (t₀ : State), Keeps m₀ s₀ t₀ → Keeps m₀ s₀ (runM (examineEach x0) t₀).2
  | [], t₀, h₀ => by
    unfold examineEach
    repeat' first
      | with_reducible assumption
      | (intro)
      | (with_reducible apply keeps_examineEach hM₀)
      | with_reducible apply keeps_examineAll
      | with_reducible apply Keeps.m_bind
      | with_reducible apply Keeps.m_pure
  | n :: ns, t₀, h₀ => by
    unfold examineEach
    repeat' first
      | with_reducible assumption
      | (intro)
      | (with_reducible apply keeps_examineEach hM₀)
      | with_reducible apply keeps_examineAll
      | with_reducible apply Keeps.m_bind
      | with_reducible apply Keeps.m_pure

theorem keeps_copySample {m₀ : Nat} {s₀ : State} {x : CiSample} (hM₀ : Sub 1543505791 m₀) {t₀ : State}
    (h₀ : Keeps m₀ s₀ t₀) : Keeps m₀ s₀ (runM (copySample x) t₀).2 := by
  unfold copySample
  repeat' first
    | with_reducible assumption
    | exact hM₀.le (by decide)
    | (intro)
    | with_reducible apply keeps_busRead
    | with_reducible apply keeps_catchCode
    | with_reducible apply keeps_ciRefuse
    | with_reducible apply keeps_ciWrite
    | with_reducible apply Keeps.m_get_bind
    | with_reducible apply Keeps.m_modify_bind
    | with_reducible apply Keeps.m_bind
    | with_reducible apply Keeps.m_pure
    | with_reducible apply Keeps.m_ite
    | split

theorem keeps_ciDispatch {m₀ : Nat} {s₀ : State} (hM₀ : Sub 1543833471 m₀) {t₀ : State} (h₀ : Keeps m₀ s₀ t₀) :
    Keeps m₀ s₀ (runM (ciDispatch) t₀).2 := by
  unfold ciDispatch
  try dsimp only
  repeat' first
    | with_reducible assumption
    | exact hM₀.le (by decide)
    | (intro)
    | with_reducible apply keeps_ciWrite
    | with_reducible apply keeps_copySample
    | with_reducible apply keeps_examineEach
    | with_reducible apply keeps_finishSample
    | with_reducible apply keeps_modCist
    | with_reducible apply keeps_putSample
    | with_reducible apply keeps_settleSample
    | with_reducible apply keeps_vdSubmit
    | with_reducible apply Keeps.m_get_bind
    | with_reducible apply Keeps.m_modify_bind
    | with_reducible apply Keeps.m_bind
    | with_reducible apply Keeps.m_throw
    | with_reducible apply Keeps.m_modify
    | with_reducible apply Keeps.m_ite
    | with_reducible apply Keeps.m_waitFor
    | split

theorem keeps_dispatchSome {m₀ : Nat} {s₀ : State} (hM₀ : Sub 1543833471 m₀) :
    ∀ (x0 : Nat) (t₀ : State), Keeps m₀ s₀ t₀ → Keeps m₀ s₀ (runM (dispatchSome x0) t₀).2
  | 0, t₀, h₀ => by
    unfold dispatchSome
    repeat' first
      | with_reducible assumption
      | (intro)
      | (with_reducible apply keeps_dispatchSome hM₀)
      | with_reducible apply keeps_ciDispatch
      | with_reducible apply Keeps.m_get_bind
      | with_reducible apply Keeps.m_bind
      | with_reducible apply Keeps.m_pure
      | with_reducible apply Keeps.m_ite
      | split
  | k + 1, t₀, h₀ => by
    unfold dispatchSome
    repeat' first
      | with_reducible assumption
      | (intro)
      | (with_reducible apply keeps_dispatchSome hM₀)
      | with_reducible apply keeps_ciDispatch
      | with_reducible apply Keeps.m_get_bind
      | with_reducible apply Keeps.m_bind
      | with_reducible apply Keeps.m_pure
      | with_reducible apply Keeps.m_ite
      | split

theorem keeps_ciDecode {m₀ : Nat} {s₀ : State} (hM₀ : Sub 1543833471 m₀) {t₀ : State} (h₀ : Keeps m₀ s₀ t₀) :
    Keeps m₀ s₀ (runM (ciDecode) t₀).2 := by
  unfold ciDecode
  try dsimp only
  repeat' first
    | with_reducible assumption
    | exact hM₀.le (by decide)
    | (intro)
    | with_reducible apply keeps_checkDecode
    | with_reducible apply keeps_ciRefuse
    | with_reducible apply keeps_dispatchSome
    | with_reducible apply keeps_newSample
    | with_reducible apply keeps_takeEntry
    | with_reducible apply Keeps.m_modify_bind
    | with_reducible apply Keeps.m_bind
    | with_reducible apply Keeps.m_pure
    | with_reducible apply Keeps.m_modify
    | with_reducible apply Keeps.m_ite

theorem keeps_ciCopy {m₀ : Nat} {s₀ : State} (hM₀ : Sub 1543833471 m₀) {t₀ : State} (h₀ : Keeps m₀ s₀ t₀) :
    Keeps m₀ s₀ (runM (ciCopy) t₀).2 := by
  unfold ciCopy
  repeat' first
    | with_reducible assumption
    | exact hM₀.le (by decide)
    | (intro)
    | with_reducible apply keeps_dispatchSome
    | with_reducible apply keeps_newSample
    | with_reducible apply keeps_takeEntry
    | with_reducible apply Keeps.m_modify_bind
    | with_reducible apply Keeps.m_bind

theorem keeps_ciSensor {m₀ : Nat} {s₀ : State} (hM₀ : Sub 1543833471 m₀) {t₀ : State} (h₀ : Keeps m₀ s₀ t₀) :
    Keeps m₀ s₀ (runM (ciSensor) t₀).2 := by
  unfold ciSensor
  try dsimp only
  repeat' first
    | with_reducible assumption
    | exact hM₀.le (by decide)
    | (intro)
    | with_reducible apply keeps_dispatchSome
    | with_reducible apply keeps_newSample
    | with_reducible apply keeps_takeEntry
    | with_reducible apply Keeps.m_modify_bind
    | with_reducible apply Keeps.m_bind

theorem keeps_newSamples {m₀ : Nat} {s₀ : State} {d : List Byte} (hM₀ : Sub 402915361 m₀) :
    ∀ (x0 : Nat) (x1 : State), Keeps m₀ s₀ x1 → Keeps m₀ s₀ (newSamples d x0 x1)
  | 0, s, h₀ => by
    unfold newSamples
    repeat' first
      | with_reducible assumption
      | (with_reducible apply keeps_newSamples hM₀)
      | with_reducible apply keeps_newSample
  | k + 1, s, h₀ => by
    unfold newSamples
    repeat' first
      | with_reducible assumption
      | (with_reducible apply keeps_newSamples hM₀)
      | with_reducible apply keeps_newSample

theorem keeps_ciPad {m₀ : Nat} {s₀ : State} (hM₀ : Sub 1543833471 m₀) {t₀ : State} (h₀ : Keeps m₀ s₀ t₀) :
    Keeps m₀ s₀ (runM (ciPad) t₀).2 := by
  unfold ciPad
  try dsimp only
  repeat' first
    | with_reducible assumption
    | exact hM₀.le (by decide)
    | (intro)
    | with_reducible apply keeps_ciRefuse
    | with_reducible apply keeps_dispatchSome
    | with_reducible apply keeps_newSamples
    | with_reducible apply keeps_takeEntry
    | with_reducible apply Keeps.m_get_bind
    | with_reducible apply Keeps.m_modify_bind
    | with_reducible apply Keeps.m_bind
    | with_reducible apply Keeps.m_modify
    | with_reducible apply Keeps.m_ite

theorem keeps_ciSetAug {m₀ : Nat} {s₀ : State} (hM₀ : Sub 1476396911 m₀) {t₀ : State} (h₀ : Keeps m₀ s₀ t₀) :
    Keeps m₀ s₀ (runM (ciSetAug) t₀).2 := by
  unfold ciSetAug
  repeat' first
    | with_reducible assumption
    | exact hM₀.le (by decide)
    | (intro)
    | with_reducible apply keeps_ciRefuse
    | with_reducible apply keeps_takeEntry
    | with_reducible apply keeps_wrAt
    | with_reducible apply Keeps.m_get_bind
    | with_reducible apply Keeps.m_bind
    | with_reducible apply Keeps.m_modify
    | with_reducible apply Keeps.m_ite

theorem keeps_frameDone {m₀ : Nat} {s₀ : State} {n : Nat} (hM₀ : Sub 1543767935 m₀) {t₀ : State}
    (h₀ : Keeps m₀ s₀ t₀) : Keeps m₀ s₀ (runM (frameDone n) t₀).2 := by
  unfold frameDone
  repeat' first
    | with_reducible assumption
    | with_reducible apply keeps_finishSample
    | with_reducible apply Keeps.m_get_bind
    | with_reducible apply Keeps.m_pure
    | with_reducible apply Keeps.m_ite
    | split

theorem keeps_ciFrameEntry {m₀ : Nat} {s₀ : State} {n cycles : Nat} (hM₀ : Sub 1543767935 m₀) {t₀ : State}
    (h₀ : Keeps m₀ s₀ t₀) : Keeps m₀ s₀ (runM (ciFrameEntry n cycles) t₀).2 := by
  unfold ciFrameEntry
  try dsimp only
  repeat' first
    | with_reducible assumption
    | exact hM₀.le (by decide)
    | (intro)
    | with_reducible apply keeps_busRead
    | with_reducible apply keeps_catchCode
    | with_reducible apply keeps_frameDone
    | with_reducible apply keeps_logErr
    | with_reducible apply keeps_modCist
    | with_reducible apply keeps_putSample
    | with_reducible apply keeps_vdRelease
    | with_reducible apply keeps_wr
    | with_reducible apply Keeps.m_get_bind
    | with_reducible apply Keeps.m_modify_bind
    | with_reducible apply Keeps.m_throw_bind
    | with_reducible apply Keeps.m_bind
    | with_reducible apply Keeps.m_modify
    | with_reducible apply Keeps.m_ite
    | with_reducible apply Keeps.m_waitFor
    | with_reducible apply Keeps.ite
    | split

theorem keeps_lockTransform {m₀ : Nat} {s₀ : State} {u : Nat} (hM₀ : Sub 262144 m₀) {s : State} (h₀ : Keeps m₀ s₀ s)
    : Keeps m₀ s₀ (lockTransform u s) := by
  unfold lockTransform
  repeat' first
    | with_reducible assumption
    | (intro)
    | with_reducible apply keeps_modCist
    | with_reducible apply Keeps.foldl
    | split

theorem keeps_planeSample {m₀ : Nat} {s₀ : State} {u : Nat} {k : TxWork} {c : Picture} {p y x : Nat}
    (hM₀ : Sub 1476396911 m₀) {t₀ : State} (h₀ : Keeps m₀ s₀ t₀) : Keeps m₀ s₀ (runM (planeSample u k c p y x) t₀).2
    := by
  unfold planeSample
  try dsimp only
  repeat' first
    | with_reducible assumption
    | (intro)
    | with_reducible apply keeps_busReadNat
    | with_reducible apply Keeps.m_bind
    | with_reducible apply Keeps.m_pure

theorem keeps_tapSum {m₀ : Nat} {s₀ : State} {u : Nat} {k : TxWork} {c : Picture} {p : Nat}
    (hM₀ : Sub 1476396911 m₀) :
    ∀ (x0 : List (Tap × Tap)) (x1 : Nat × Nat × Bool) (t₀ : State), Keeps m₀ s₀ t₀ → Keeps m₀ s₀
    (runM (tapSum u k c p x0 x1) t₀).2
  | [], acc, t₀, h₀ => by
    unfold tapSum
    try dsimp only
    repeat' first
      | with_reducible assumption
      | (intro)
      | (with_reducible apply keeps_tapSum hM₀)
      | with_reducible apply keeps_planeSample
      | with_reducible apply Keeps.m_bind
      | with_reducible apply Keeps.m_pure
  | (ty, tx) :: ts, (sum, ws, q), t₀, h₀ => by
    unfold tapSum
    try dsimp only
    repeat' first
      | with_reducible assumption
      | (intro)
      | (with_reducible apply keeps_tapSum hM₀)
      | with_reducible apply keeps_planeSample
      | with_reducible apply Keeps.m_bind
      | with_reducible apply Keeps.m_pure

theorem keeps_samplePlane {m₀ : Nat} {s₀ : State} {u : Nat} {k : TxWork} {c : Picture} {p x : Nat} {y fw fh : Nat}
    (hM₀ : Sub 1476396911 m₀) {t₀ : State} (h₀ : Keeps m₀ s₀ t₀) : Keeps m₀ s₀
    (runM (samplePlane u k c p x y fw fh) t₀).2 := by
  unfold samplePlane
  try dsimp only
  repeat' first
    | with_reducible assumption
    | (intro)
    | with_reducible apply keeps_planeSample
    | with_reducible apply keeps_tapSum
    | with_reducible apply Keeps.m_bind
    | with_reducible apply Keeps.m_pure
    | with_reducible apply Keeps.m_ite

theorem keeps_txPixel {m₀ : Nat} {s₀ : State} {u : Nat} {k : TxWork} {oy ox : Nat} (hM₀ : Sub 1476396911 m₀)
    {t₀ : State} (h₀ : Keeps m₀ s₀ t₀) : Keeps m₀ s₀ (runM (txPixel u k oy ox) t₀).2 := by
  unfold txPixel
  try dsimp only
  repeat' first
    | with_reducible assumption
    | exact hM₀.le (by decide)
    | (intro)
    | with_reducible apply keeps_freshNat
    | with_reducible apply keeps_samplePlane
    | with_reducible apply Keeps.m_pure_bind
    | with_reducible apply Keeps.m_bind
    | with_reducible apply Keeps.m_pure
    | with_reducible apply Keeps.m_ite
    | split

theorem keeps_txPixels {m₀ : Nat} {s₀ : State} {u : Nat} {k : TxWork} {oy : Nat} (hM₀ : Sub 1476396911 m₀) :
    ∀ (x0 : List Nat) (t₀ : State), Keeps m₀ s₀ t₀ → Keeps m₀ s₀ (runM (txPixels u k oy x0) t₀).2
  | [], t₀, h₀ => by
    unfold txPixels
    repeat' first
      | with_reducible assumption
      | (intro)
      | (with_reducible apply keeps_txPixels hM₀)
      | with_reducible apply keeps_txPixel
      | with_reducible apply Keeps.m_bind
      | with_reducible apply Keeps.m_pure
  | ox :: rest, t₀, h₀ => by
    unfold txPixels
    repeat' first
      | with_reducible assumption
      | (intro)
      | (with_reducible apply keeps_txPixels hM₀)
      | with_reducible apply keeps_txPixel
      | with_reducible apply Keeps.m_bind
      | with_reducible apply Keeps.m_pure

theorem keeps_writeRecords {m₀ : Nat} {s₀ : State} {u : Nat} {k : TxWork} {rnd : Nat → Nat} {a base : Nat}
    (hM₀ : Sub 1543505791 m₀) :
    ∀ (x0 : List ((List Nat × Bool) × Nat)) (t₀ : State), Keeps m₀ s₀ t₀ → Keeps m₀ s₀
    (runM (writeRecords u k rnd a base x0) t₀).2
  | [], t₀, h₀ => by
    unfold writeRecords
    try dsimp only
    repeat' first
      | with_reducible assumption
      | (intro)
      | (with_reducible apply keeps_writeRecords hM₀)
      | with_reducible apply keeps_busWrite
      | with_reducible apply Keeps.m_bind
      | with_reducible apply Keeps.m_pure
  | ((xs, q), i) :: rest, t₀, h₀ => by
    unfold writeRecords
    try dsimp only
    repeat' first
      | with_reducible assumption
      | (intro)
      | (with_reducible apply keeps_writeRecords hM₀)
      | with_reducible apply keeps_busWrite
      | with_reducible apply Keeps.m_bind
      | with_reducible apply Keeps.m_pure

theorem keeps_writePlanes {m₀ : Nat} {s₀ : State} {u : Nat} {k : TxWork} {rnd : Nat → Nat} {a base : Nat}
    {ps : List (List Nat × Bool)} (hM₀ : Sub 1543505791 m₀) :
    ∀ (x0 : List Nat) (t₀ : State), Keeps m₀ s₀ t₀ → Keeps m₀ s₀ (runM (writePlanes u k rnd a base ps x0) t₀).2
  | [], t₀, h₀ => by
    unfold writePlanes
    try dsimp only
    repeat' first
      | with_reducible assumption
      | (intro)
      | (with_reducible apply keeps_writePlanes hM₀)
      | with_reducible apply keeps_busWrite
      | with_reducible apply Keeps.m_bind
      | with_reducible apply Keeps.m_pure
  | c :: cs, t₀, h₀ => by
    unfold writePlanes
    try dsimp only
    repeat' first
      | with_reducible assumption
      | (intro)
      | (with_reducible apply keeps_writePlanes hM₀)
      | with_reducible apply keeps_busWrite
      | with_reducible apply Keeps.m_bind
      | with_reducible apply Keeps.m_pure

theorem keeps_txRows {m₀ : Nat} {s₀ : State} {u : Nat} {k : TxWork} {rnd : Nat → Nat} {a : Nat}
    (hM₀ : Sub 1543505791 m₀) :
    ∀ (x0 : List Nat) (t₀ : State), Keeps m₀ s₀ t₀ → Keeps m₀ s₀ (runM (txRows u k rnd a x0) t₀).2
  | [], t₀, h₀ => by
    unfold txRows
    try dsimp only
    repeat' first
      | with_reducible assumption
      | exact hM₀.le (by decide)
      | (intro)
      | (with_reducible apply keeps_txRows hM₀)
      | with_reducible apply keeps_txPixels
      | with_reducible apply keeps_writePlanes
      | with_reducible apply keeps_writeRecords
      | with_reducible apply Keeps.m_bind
      | with_reducible apply Keeps.m_pure
      | with_reducible apply Keeps.m_ite
  | oy :: rest, t₀, h₀ => by
    unfold txRows
    try dsimp only
    repeat' first
      | with_reducible assumption
      | exact hM₀.le (by decide)
      | (intro)
      | (with_reducible apply keeps_txRows hM₀)
      | with_reducible apply keeps_txPixels
      | with_reducible apply keeps_writePlanes
      | with_reducible apply keeps_writeRecords
      | with_reducible apply Keeps.m_bind
      | with_reducible apply Keeps.m_pure
      | with_reducible apply Keeps.m_ite

theorem keeps_txFrame {m₀ : Nat} {s₀ : State} {u : Nat} {x : CiSample} {fr : CiFrame} (hM₀ : Sub 1543505791 m₀)
    {t₀ : State} (h₀ : Keeps m₀ s₀ t₀) : Keeps m₀ s₀ (runM (txFrame u x fr) t₀).2 := by
  unfold txFrame
  try dsimp only
  repeat' first
    | with_reducible assumption
    | exact hM₀.le (by decide)
    | (intro)
    | with_reducible apply keeps_readCoarse
    | with_reducible apply keeps_txRows
    | with_reducible apply Keeps.m_get_bind
    | with_reducible apply Keeps.m_bind

theorem keeps_tfFrame {m₀ : Nat} {s₀ : State} {u : Nat} (hM₀ : Sub 1543767935 m₀) {t₀ : State} (h₀ : Keeps m₀ s₀ t₀)
    : Keeps m₀ s₀ (runM (tfFrame u) t₀).2 := by
  unfold tfFrame
  try dsimp only
  repeat' first
    | with_reducible assumption
    | exact hM₀.le (by decide)
    | (intro)
    | with_reducible apply keeps_catchCode
    | with_reducible apply keeps_frameDone
    | with_reducible apply keeps_logErr
    | with_reducible apply keeps_modCist
    | with_reducible apply keeps_putSample
    | with_reducible apply keeps_txFrame
    | with_reducible apply keeps_vdRelease
    | with_reducible apply Keeps.m_get_bind
    | with_reducible apply Keeps.m_modify_bind
    | with_reducible apply Keeps.m_bind
    | with_reducible apply Keeps.m_throw
    | with_reducible apply Keeps.m_waitFor
    | split

theorem keeps_dropFrames {m₀ : Nat} {s₀ : State} {n : Nat} (hM₀ : Sub 262145 m₀) {s : State} (h₀ : Keeps m₀ s₀ s) :
    Keeps m₀ s₀ (dropFrames n s) := by
  unfold dropFrames
  try dsimp only
  repeat' first
    | with_reducible assumption
    | exact hM₀.le (by decide)
    | (intro)
    | with_reducible apply keeps_modCist
    | with_reducible apply keeps_vdRelease
    | with_reducible apply Keeps.foldl

theorem keeps_budgetExpiry {m₀ : Nat} {s₀ : State} {n cycles : Nat} (hM₀ : Sub 1543767935 m₀) {t₀ : State}
    (h₀ : Keeps m₀ s₀ t₀) : Keeps m₀ s₀ (runM (budgetExpiry n cycles) t₀).2 := by
  unfold budgetExpiry
  try dsimp only
  repeat' first
    | with_reducible assumption
    | exact hM₀.le (by decide)
    | (intro)
    | with_reducible apply keeps_bump
    | with_reducible apply keeps_dropFrames
    | with_reducible apply keeps_finishSample
    | with_reducible apply keeps_modCist
    | with_reducible apply keeps_putSample
    | with_reducible apply keeps_raiseBit
    | with_reducible apply keeps_settleSample
    | with_reducible apply Keeps.m_get_bind
    | with_reducible apply Keeps.m_modify_bind
    | with_reducible apply Keeps.m_bind
    | with_reducible apply Keeps.m_pure
    | with_reducible apply Keeps.m_throw
    | with_reducible apply Keeps.m_ite
    | with_reducible apply Keeps.m_waitFor
    | split

theorem keeps_notifyAdds {m₀ : Nat} {s₀ : State} (hM₀ : Sub 8 m₀) :
    ∀ (x0 : List Nat) (t₀ : State), Keeps m₀ s₀ t₀ → Keeps m₀ s₀ (runM (notifyAdds x0) t₀).2
  | [], t₀, h₀ => by
    unfold notifyAdds
    try dsimp only
    repeat' first
      | with_reducible assumption
      | (intro)
      | (with_reducible apply keeps_notifyAdds hM₀)
      | with_reducible apply keeps_busAdd
      | with_reducible apply Keeps.m_bind
      | with_reducible apply Keeps.m_pure
      | with_reducible apply Keeps.m_ite
  | a :: as, t₀, h₀ => by
    unfold notifyAdds
    try dsimp only
    repeat' first
      | with_reducible assumption
      | (intro)
      | (with_reducible apply keeps_notifyAdds hM₀)
      | with_reducible apply keeps_busAdd
      | with_reducible apply Keeps.m_bind
      | with_reducible apply Keeps.m_pure
      | with_reducible apply Keeps.m_ite

theorem keeps_cisternAcks {m₀ : Nat} {s₀ : State} (hM₀ : Sub 134217769 m₀) :
    ∀ (x0 : List (Who × Nat)) (t₀ : State), Keeps m₀ s₀ t₀ → Keeps m₀ s₀ (runM (cisternAcks x0) t₀).2
  | [], t₀, h₀ => by
    unfold cisternAcks
    try dsimp only
    repeat' first
      | with_reducible assumption
      | exact hM₀.le (by decide)
      | (intro)
      | (with_reducible apply keeps_cisternAcks hM₀)
      | with_reducible apply keeps_acknowledged
      | with_reducible apply keeps_codeOf
      | with_reducible apply keeps_logErr
      | with_reducible apply Keeps.m_modify_bind
      | with_reducible apply Keeps.m_bind
      | with_reducible apply Keeps.m_pure
      | with_reducible apply Keeps.m_ite
  | (w, page) :: ws, t₀, h₀ => by
    unfold cisternAcks
    try dsimp only
    repeat' first
      | with_reducible assumption
      | exact hM₀.le (by decide)
      | (intro)
      | (with_reducible apply keeps_cisternAcks hM₀)
      | with_reducible apply keeps_acknowledged
      | with_reducible apply keeps_codeOf
      | with_reducible apply keeps_logErr
      | with_reducible apply Keeps.m_modify_bind
      | with_reducible apply Keeps.m_bind
      | with_reducible apply Keeps.m_pure
      | with_reducible apply Keeps.m_ite

theorem keeps_batchRelease {m₀ : Nat} {s₀ : State} (hM₀ : Sub 1543767935 m₀) {t₀ : State} (h₀ : Keeps m₀ s₀ t₀) :
    Keeps m₀ s₀ (runM (batchRelease) t₀).2 := by
  unfold batchRelease
  try dsimp only
  repeat' first
    | with_reducible assumption
    | exact hM₀.le (by decide)
    | (intro)
    | with_reducible apply keeps_ciWrite
    | with_reducible apply keeps_cisternAcks
    | with_reducible apply keeps_modCist
    | with_reducible apply keeps_notifyAdds
    | with_reducible apply keeps_showCiLow
    | with_reducible apply keeps_wr
    | with_reducible apply Keeps.m_get_bind
    | with_reducible apply Keeps.m_modify_bind
    | with_reducible apply Keeps.m_bind
    | with_reducible apply Keeps.m_modify
    | with_reducible apply Keeps.m_waitFor
    | split

theorem keeps_releaseSteps {m₀ : Nat} {s₀ : State} (hM₀ : Sub 1543767935 m₀) :
    ∀ (x0 : Nat) (x1 : State), Keeps m₀ s₀ x1 → Keeps m₀ s₀ (releaseSteps x0 x1)
  | 0, s, h₀ => by
    unfold releaseSteps
    try dsimp only
    repeat' first
      | with_reducible assumption
      | exact hM₀.le (by decide)
      | (intro)
      | (with_reducible apply keeps_releaseSteps hM₀)
      | with_reducible apply keeps_batchRelease
      | with_reducible apply keeps_ciCommand
      | with_reducible apply Keeps.ite
  | k + 1, s, h₀ => by
    unfold releaseSteps
    try dsimp only
    repeat' first
      | with_reducible assumption
      | exact hM₀.le (by decide)
      | (intro)
      | (with_reducible apply keeps_releaseSteps hM₀)
      | with_reducible apply keeps_batchRelease
      | with_reducible apply keeps_ciCommand
      | with_reducible apply Keeps.ite

theorem keeps_releaseBatch {m₀ : Nat} {s₀ : State} (hM₀ : Sub 1543767935 m₀) {s : State} (h₀ : Keeps m₀ s₀ s) :
    Keeps m₀ s₀ (releaseBatch s) := by
  unfold releaseBatch
  repeat' first
    | with_reducible assumption
    | with_reducible apply keeps_releaseSteps

theorem keeps_ciReturn {m₀ : Nat} {s₀ : State} {off : Nat} {data : List Byte} (hM₀ : Sub 134479905 m₀) {s : State}
    (h₀ : Keeps m₀ s₀ s) : Keeps m₀ s₀ (ciReturn off data s) := by
  unfold ciReturn
  try dsimp only
  repeat' first
    | with_reducible assumption
    | exact hM₀.le (by decide)
    | with_reducible apply keeps_logErr
    | with_reducible apply keeps_modCist
    | with_reducible apply keeps_showCiLow
    | with_reducible apply keeps_showCistern
    | with_reducible apply keeps_wr
    | with_reducible apply Keeps.ite

theorem keeps_sendCursor {m₀ : Nat} {s₀ : State} (hM₀ : Sub 1543767935 m₀) {t₀ : State} (h₀ : Keeps m₀ s₀ t₀) :
    Keeps m₀ s₀ (runM (sendCursor) t₀).2 := by
  unfold sendCursor
  repeat' first
    | with_reducible assumption
    | exact hM₀.le (by decide)
    | (intro)
    | with_reducible apply keeps_modCist
    | with_reducible apply keeps_post
    | with_reducible apply Keeps.m_get_bind
    | with_reducible apply Keeps.m_bind
    | with_reducible apply Keeps.m_pure
    | with_reducible apply Keeps.m_throw
    | with_reducible apply Keeps.m_modify
    | with_reducible apply Keeps.m_ite
    | split

theorem keeps_captureCursor {m₀ : Nat} {s₀ : State} {step : Nat} (hM₀ : Sub 1543767935 m₀) {s : State}
    (h₀ : Keeps m₀ s₀ s) : Keeps m₀ s₀ (captureCursor step s) := by
  unfold captureCursor
  try dsimp only
  repeat' first
    | with_reducible assumption
    | exact hM₀.le (by decide)
    | (intro)
    | with_reducible apply keeps_attempt
    | with_reducible apply keeps_modCist
    | with_reducible apply keeps_sendCursor
    | with_reducible apply Keeps.ite

theorem keeps_cursorStep {m₀ : Nat} {s₀ : State} (hM₀ : Sub 1543767935 m₀) {t₀ : State} (h₀ : Keeps m₀ s₀ t₀) :
    Keeps m₀ s₀ (runM (cursorStep) t₀).2 := by
  unfold cursorStep
  try dsimp only
  repeat' first
    | with_reducible assumption
    | exact hM₀.le (by decide)
    | (intro)
    | with_reducible apply keeps_acknowledged
    | with_reducible apply keeps_busWriteNat
    | with_reducible apply keeps_codeOf
    | with_reducible apply keeps_logErr
    | with_reducible apply keeps_modCist
    | with_reducible apply Keeps.m_get_bind
    | with_reducible apply Keeps.m_bind
    | with_reducible apply Keeps.m_throw
    | with_reducible apply Keeps.m_modify
    | with_reducible apply Keeps.m_waitFor
    | with_reducible apply Keeps.ite
    | split

theorem keeps_cursorRecord {m₀ : Nat} {s₀ : State} (hM₀ : Sub 1543767935 m₀) {s : State} (h₀ : Keeps m₀ s₀ s) :
    Keeps m₀ s₀ (cursorRecord s) := by
  unfold cursorRecord
  repeat' first
    | with_reducible assumption
    | exact hM₀.le (by decide)
    | (intro)
    | with_reducible apply keeps_attempt
    | with_reducible apply keeps_cursorStep
    | with_reducible apply keeps_sendCursor
    | with_reducible apply Keeps.ite

theorem keeps_readCursor {m₀ : Nat} {s₀ : State} {a : Nat} (hM₀ : Sub 1476396911 m₀) {t₀ : State}
    (h₀ : Keeps m₀ s₀ t₀) : Keeps m₀ s₀ (runM (readCursor a) t₀).2 := by
  unfold readCursor
  try dsimp only
  repeat' first
    | with_reducible assumption
    | (intro)
    | with_reducible apply keeps_busRead
    | with_reducible apply Keeps.m_get_bind
    | with_reducible apply Keeps.m_bind
    | with_reducible apply Keeps.m_pure
    | with_reducible apply Keeps.m_refuseIf

theorem keeps_refuseRestore {m₀ : Nat} {s₀ : State} {c : Nat} (hM₀ : Sub 134217761 m₀) {s : State}
    (h₀ : Keeps m₀ s₀ s) : Keeps m₀ s₀ (refuseRestore c s) := by
  unfold refuseRestore
  repeat' first
    | with_reducible assumption
    | exact hM₀.le (by decide)
    | with_reducible apply keeps_logErr
    | with_reducible apply keeps_wr

theorem keeps_restoreCursor {m₀ : Nat} {s₀ : State} {b : List Byte} (hM₀ : Sub 134479905 m₀) {s : State}
    (h₀ : Keeps m₀ s₀ s) : Keeps m₀ s₀ (restoreCursor b s) := by
  unfold restoreCursor
  try dsimp only
  repeat' first
    | with_reducible assumption
    | exact hM₀.le (by decide)
    | (intro)
    | with_reducible apply keeps_modCist
    | with_reducible apply keeps_showCiLow
    | with_reducible apply keeps_showCistern
    | with_reducible apply keeps_vdRelease
    | with_reducible apply keeps_wr
    | with_reducible apply keeps_wrAt
    | with_reducible apply Keeps.foldl

theorem keeps_ciRestore {m₀ : Nat} {s₀ : State} {a : Nat} (hM₀ : Sub 1476661103 m₀) {t₀ : State}
    (h₀ : Keeps m₀ s₀ t₀) : Keeps m₀ s₀ (runM (ciRestore a) t₀).2 := by
  unfold ciRestore
  try dsimp only
  repeat' first
    | with_reducible assumption
    | exact hM₀.le (by decide)
    | (intro)
    | with_reducible apply keeps_catchCode
    | with_reducible apply keeps_readCursor
    | with_reducible apply keeps_refuseRestore
    | with_reducible apply keeps_refuseRng
    | with_reducible apply keeps_restoreCursor
    | with_reducible apply keeps_setStage
    | with_reducible apply keeps_wr
    | with_reducible apply Keeps.m_get_bind
    | with_reducible apply Keeps.m_bind
    | with_reducible apply Keeps.m_modify
    | with_reducible apply Keeps.m_ite
    | split

theorem keeps_ciRestoreWrite {m₀ : Nat} {s₀ : State} {a : Nat} (hM₀ : Sub 1543769983 m₀) {s : State}
    (h₀ : Keeps m₀ s₀ s) : Keeps m₀ s₀ (ciRestoreWrite a s) := by
  unfold ciRestoreWrite
  repeat' first
    | with_reducible assumption
    | exact hM₀.le (by decide)
    | (intro)
    | with_reducible apply keeps_attempt
    | with_reducible apply keeps_ciRestore
    | with_reducible apply Keeps.ite

end Sys2Proof.Machine
end

