-- ==== Sys2Proof/Laws/KeepsSteps.lean ====
section
/-! SUPPORT. What each operation on ports, GDDR7, resilience, reduction, the commit and the marker wave can do to the state, as `Keeps`. -/

namespace Sys2Proof.Machine

/-! ### Machine/Kuslight.lean -/

theorem keeps_setPortState {m₀ : Nat} {s₀ : State} {n v : Nat} (hM₀ : Sub 1 m₀) {s : State} (h₀ : Keeps m₀ s₀ s) :
    Keeps m₀ s₀ (setPortState n v s) := by
  unfold setPortState
  repeat' first
    | with_reducible assumption
    | with_reducible apply keeps_wr

theorem keeps_hostFail {m₀ : Nat} {s₀ : State} {c a : Nat} (hM₀ : Sub 134217761 m₀) {s : State} (h₀ : Keeps m₀ s₀ s)
    : Keeps m₀ s₀ (hostFail c a s) := by
  unfold hostFail
  try dsimp only
  repeat' first
    | with_reducible assumption
    | exact hM₀.le (by decide)
    | with_reducible apply keeps_bump
    | with_reducible apply keeps_logErr
    | with_reducible apply keeps_wr

theorem keeps_completeRequest {m₀ : Nat} {s₀ : State} {o : Outstanding} {code : Nat} {data : List PByte}
    (hM₀ : Sub 134217769 m₀) {s : State} (h₀ : Keeps m₀ s₀ s) : Keeps m₀ s₀ (completeRequest o code data s) := by
  unfold completeRequest
  try dsimp only
  repeat' first
    | with_reducible assumption
    | exact hM₀.le (by decide)
    | with_reducible apply keeps_hostFail
    | with_reducible apply keeps_noteWriteErr
    | with_reducible apply Keeps.ite
    | split
    | with_reducible apply Keeps.upd_bus

theorem keeps_failRequests {m₀ : Nat} {s₀ : State} {p : Outstanding → Bool} {code : Nat} (hM₀ : Sub 134217769 m₀)
    {s : State} (h₀ : Keeps m₀ s₀ s) : Keeps m₀ s₀ (failRequests p code s) := by
  unfold failRequests
  repeat' first
    | with_reducible assumption
    | (intro)
    | with_reducible apply keeps_completeRequest
    | with_reducible apply Keeps.foldl

theorem keeps_responseArrives {m₀ : Nat} {s₀ : State} {port tag code : Nat} {data : List Byte} {poison : Nat}
    (hM₀ : Sub 134217769 m₀) {s : State} (h₀ : Keeps m₀ s₀ s) : Keeps m₀ s₀
    (responseArrives port tag code data poison s) := by
  unfold responseArrives
  try dsimp only
  repeat' first
    | with_reducible assumption
    | exact hM₀.le (by decide)
    | with_reducible apply keeps_bump
    | with_reducible apply keeps_completeRequest
    | with_reducible apply Keeps.ite
    | split
    | with_reducible apply Keeps.upd_bus

theorem keeps_requestTimeout {m₀ : Nat} {s₀ : State} {tag : Nat} (hM₀ : Sub 134217769 m₀) {s : State}
    (h₀ : Keeps m₀ s₀ s) : Keeps m₀ s₀ (requestTimeout tag s) := by
  unfold requestTimeout
  repeat' first
    | with_reducible assumption
    | with_reducible apply keeps_failRequests
    | with_reducible apply Keeps.ite

theorem keeps_dropMark {m₀ : Nat} {s₀ : State} {n : Nat} (hM₀ : Sub 134217745 m₀) {s : State} (h₀ : Keeps m₀ s₀ s) :
    Keeps m₀ s₀ (dropMark n s) := by
  unfold dropMark
  try dsimp only
  repeat' first
    | with_reducible assumption
    | exact hM₀.le (by decide)
    | with_reducible apply keeps_sendNotice
    | with_reducible apply Keeps.ite
    | with_reducible apply Keeps.upd_link

theorem keeps_tryUp {m₀ : Nat} {s₀ : State} {n : Nat} (hM₀ : Sub 134217777 m₀) {s : State} (h₀ : Keeps m₀ s₀ s) :
    Keeps m₀ s₀ (tryUp n s) := by
  unfold tryUp
  try dsimp only
  repeat' first
    | with_reducible assumption
    | exact hM₀.le (by decide)
    | with_reducible apply keeps_dropMark
    | with_reducible apply keeps_raiseBit
    | with_reducible apply keeps_sendWaiting
    | with_reducible apply keeps_setPortState
    | with_reducible apply Keeps.ite

theorem keeps_sendHello {m₀ : Nat} {s₀ : State} {n : Nat} (hM₀ : Sub 134217745 m₀) {s : State} (h₀ : Keeps m₀ s₀ s)
    : Keeps m₀ s₀ (sendHello n s) := by
  unfold sendHello
  repeat' first
    | with_reducible assumption
    | with_reducible apply keeps_emitLink

theorem keeps_sendGrant {m₀ : Nat} {s₀ : State} {n : Nat} (hM₀ : Sub 134217777 m₀) {s : State} (h₀ : Keeps m₀ s₀ s)
    : Keeps m₀ s₀ (sendGrant n s) := by
  unfold sendGrant
  try dsimp only
  repeat' first
    | with_reducible assumption
    | exact hM₀.le (by decide)
    | with_reducible apply keeps_emitLink
    | with_reducible apply keeps_logErr
    | with_reducible apply keeps_setPort
    | with_reducible apply Keeps.ite

theorem keeps_clearPort {m₀ : Nat} {s₀ : State} {n : Nat} (hM₀ : Sub 16 m₀) {s : State} (h₀ : Keeps m₀ s₀ s) :
    Keeps m₀ s₀ (clearPort n s) := by
  unfold clearPort
  repeat' first
    | with_reducible assumption
    | with_reducible apply keeps_setPort

theorem keeps_goDown {m₀ : Nat} {s₀ : State} {n : Nat} (hM₀ : Sub 134217849 m₀) {s : State} (h₀ : Keeps m₀ s₀ s) :
    Keeps m₀ s₀ (goDown n s) := by
  unfold goDown
  try dsimp only
  repeat' first
    | with_reducible assumption
    | exact hM₀.le (by decide)
    | with_reducible apply keeps_bump
    | with_reducible apply keeps_clearPort
    | with_reducible apply keeps_failRequests
    | with_reducible apply keeps_journal
    | with_reducible apply keeps_lifeAdd
    | with_reducible apply keeps_raiseBit
    | with_reducible apply keeps_setPortState
    | with_reducible apply keeps_wr
    | with_reducible apply Keeps.ite

theorem keeps_portEnableChanged {m₀ : Nat} {s₀ : State} {n : Nat} {on : Bool} (hM₀ : Sub 17 m₀) {s : State}
    (h₀ : Keeps m₀ s₀ s) : Keeps m₀ s₀ (portEnableChanged n on s) := by
  unfold portEnableChanged
  repeat' first
    | with_reducible assumption
    | exact hM₀.le (by decide)
    | with_reducible apply keeps_clearPort
    | with_reducible apply keeps_setPortState
    | with_reducible apply Keeps.ite

theorem keeps_portEnable {m₀ : Nat} {s₀ : State} {n : Nat} {on : Bool} (hM₀ : Sub 17 m₀) {s : State}
    (h₀ : Keeps m₀ s₀ s) : Keeps m₀ s₀ (portEnable n on s) := by
  unfold portEnable
  repeat' first
    | with_reducible assumption
    | exact hM₀.le (by decide)
    | with_reducible apply keeps_portEnableChanged
    | with_reducible apply keeps_wr
    | with_reducible apply Keeps.ite

theorem keeps_laserLoss {m₀ : Nat} {s₀ : State} {n : Nat} (hM₀ : Sub 134217777 m₀) {s : State} (h₀ : Keeps m₀ s₀ s)
    : Keeps m₀ s₀ (laserLoss n s) := by
  unfold laserLoss
  try dsimp only
  repeat' first
    | with_reducible assumption
    | exact hM₀.le (by decide)
    | with_reducible apply keeps_clearPort
    | with_reducible apply keeps_raiseBit
    | with_reducible apply keeps_setPortState
    | with_reducible apply keeps_wr
    | with_reducible apply Keeps.ite

theorem keeps_laserOk {m₀ : Nat} {s₀ : State} {n : Nat} (hM₀ : Sub 1 m₀) {s : State} (h₀ : Keeps m₀ s₀ s) :
    Keeps m₀ s₀ (laserOk n s) := by
  unfold laserOk
  try dsimp only
  repeat' first
    | with_reducible assumption
    | with_reducible apply keeps_setPortState
    | with_reducible apply keeps_wr
    | with_reducible apply Keeps.ite

theorem keeps_portTuneDone {m₀ : Nat} {s₀ : State} {n : Nat} (hM₀ : Sub 1 m₀) {s : State} (h₀ : Keeps m₀ s₀ s) :
    Keeps m₀ s₀ (portTuneDone n s) := by
  unfold portTuneDone
  repeat' first
    | with_reducible assumption
    | with_reducible apply keeps_setPortState
    | with_reducible apply Keeps.ite

theorem keeps_portTrainDone {m₀ : Nat} {s₀ : State} {n : Nat} (hM₀ : Sub 1 m₀) {s : State} (h₀ : Keeps m₀ s₀ s) :
    Keeps m₀ s₀ (portTrainDone n s) := by
  unfold portTrainDone
  repeat' first
    | with_reducible assumption
    | with_reducible apply keeps_setPortState
    | with_reducible apply Keeps.ite

theorem keeps_portAlignDone {m₀ : Nat} {s₀ : State} {n : Nat} (hM₀ : Sub 134217777 m₀) {s : State}
    (h₀ : Keeps m₀ s₀ s) : Keeps m₀ s₀ (portAlignDone n s) := by
  unfold portAlignDone
  repeat' first
    | with_reducible assumption
    | exact hM₀.le (by decide)
    | with_reducible apply keeps_clearPort
    | with_reducible apply keeps_sendGrant
    | with_reducible apply keeps_sendHello
    | with_reducible apply keeps_setPortState
    | with_reducible apply Keeps.ite

theorem keeps_portRetrain {m₀ : Nat} {s₀ : State} {n : Nat} (hM₀ : Sub 134217849 m₀) {s : State}
    (h₀ : Keeps m₀ s₀ s) : Keeps m₀ s₀ (portRetrain n s) := by
  unfold portRetrain
  repeat' first
    | with_reducible assumption
    | with_reducible apply keeps_goDown
    | with_reducible apply Keeps.ite

theorem keeps_peerFlitTimeout {m₀ : Nat} {s₀ : State} {n : Nat} (hM₀ : Sub 134217849 m₀) {s : State}
    (h₀ : Keeps m₀ s₀ s) : Keeps m₀ s₀ (peerFlitTimeout n s) := by
  unfold peerFlitTimeout
  repeat' first
    | with_reducible assumption
    | with_reducible apply keeps_goDown
    | with_reducible apply Keeps.ite

theorem keeps_takeFlit {m₀ : Nat} {s₀ : State} {n ack : Nat} {crVc crCount : Nat} (hM₀ : Sub 17 m₀) {s : State}
    (h₀ : Keeps m₀ s₀ s) : Keeps m₀ s₀ (takeFlit n ack crVc crCount s) := by
  unfold takeFlit
  try dsimp only
  repeat' first
    | with_reducible assumption
    | exact hM₀.le (by decide)
    | with_reducible apply keeps_bump
    | with_reducible apply keeps_setPort

theorem keeps_idleFlit {m₀ : Nat} {s₀ : State} {n ack : Nat} {crVc crCount : Nat} (hM₀ : Sub 134217745 m₀)
    {s : State} (h₀ : Keeps m₀ s₀ s) : Keeps m₀ s₀ (idleFlit n ack crVc crCount s) := by
  unfold idleFlit
  repeat' first
    | with_reducible assumption
    | exact hM₀.le (by decide)
    | with_reducible apply keeps_sendWaiting
    | with_reducible apply keeps_takeFlit
    | with_reducible apply Keeps.ite

theorem keeps_askReplay {m₀ : Nat} {s₀ : State} {n : Nat} (hM₀ : Sub 134217745 m₀) {s : State} (h₀ : Keeps m₀ s₀ s)
    : Keeps m₀ s₀ (askReplay n s) := by
  unfold askReplay
  try dsimp only
  repeat' first
    | with_reducible assumption
    | exact hM₀.le (by decide)
    | with_reducible apply keeps_emitLink
    | with_reducible apply keeps_setPort

theorem keeps_heardFlit {m₀ : Nat} {s₀ : State} {n : Nat} (hM₀ : Sub 16 m₀) {s : State} (h₀ : Keeps m₀ s₀ s) :
    Keeps m₀ s₀ (heardFlit n s) := by
  unfold heardFlit
  try dsimp only
  repeat' first
    | with_reducible assumption
    | with_reducible apply keeps_setPort

theorem keeps_dataFlit {m₀ : Nat} {s₀ : State} {n : Nat} {bytes : List Byte} {uncorrectable : Bool}
    {corrected : Nat} (hM₀ : Sub 134217809 m₀) {s : State} (h₀ : Keeps m₀ s₀ s) : Keeps m₀ s₀
    (dataFlit n bytes uncorrectable corrected s) := by
  unfold dataFlit
  try dsimp only
  repeat' first
    | with_reducible assumption
    | exact hM₀.le (by decide)
    | with_reducible apply keeps_askReplay
    | with_reducible apply keeps_bump
    | with_reducible apply keeps_heardFlit
    | with_reducible apply keeps_lifeAdd
    | with_reducible apply keeps_sendWaiting
    | with_reducible apply keeps_setPort
    | with_reducible apply keeps_takeFlit
    | with_reducible apply Keeps.ite

theorem keeps_resend {m₀ : Nat} {s₀ : State} {n : Nat} (hM₀ : Sub 134217745 m₀) :
    ∀ (x0 : List TxFlit) (x1 : State), Keeps m₀ s₀ x1 → Keeps m₀ s₀ (resend n x0 x1)
  | [], s, h₀ => by
    unfold resend
    repeat' first
      | with_reducible assumption
      | (with_reducible apply keeps_resend hM₀)
      | with_reducible apply keeps_emitFlit
  | f :: fs, s, h₀ => by
    unfold resend
    repeat' first
      | with_reducible assumption
      | (with_reducible apply keeps_resend hM₀)
      | with_reducible apply keeps_emitFlit

theorem keeps_nakReplay {m₀ : Nat} {s₀ : State} {n ack : Nat} {crVc crCount : Nat} (hM₀ : Sub 134217849 m₀)
    {s : State} (h₀ : Keeps m₀ s₀ s) : Keeps m₀ s₀ (nakReplay n ack crVc crCount s) := by
  unfold nakReplay
  try dsimp only
  repeat' first
    | with_reducible assumption
    | exact hM₀.le (by decide)
    | with_reducible apply keeps_bump
    | with_reducible apply keeps_goDown
    | with_reducible apply keeps_lifeAdd
    | with_reducible apply keeps_resend
    | with_reducible apply keeps_sendWaiting
    | with_reducible apply keeps_setPort
    | with_reducible apply keeps_takeFlit
    | with_reducible apply Keeps.ite

theorem keeps_hello {m₀ : Nat} {s₀ : State} {n ack : Nat} {crVc crCount : Nat} {module port : Nat}
    (hM₀ : Sub 134217777 m₀) {s : State} (h₀ : Keeps m₀ s₀ s) : Keeps m₀ s₀ (hello n ack crVc crCount module port s)
    := by
  unfold hello
  try dsimp only
  repeat' first
    | with_reducible assumption
    | exact hM₀.le (by decide)
    | with_reducible apply keeps_setPort
    | with_reducible apply keeps_takeFlit
    | with_reducible apply keeps_tryUp
    | with_reducible apply keeps_wr
    | with_reducible apply Keeps.ite

theorem keeps_grant {m₀ : Nat} {s₀ : State} {n ack : Nat} {credits : List Nat} (hM₀ : Sub 134217777 m₀) {s : State}
    (h₀ : Keeps m₀ s₀ s) : Keeps m₀ s₀ (grant n ack credits s) := by
  unfold grant
  try dsimp only
  repeat' first
    | with_reducible assumption
    | exact hM₀.le (by decide)
    | with_reducible apply keeps_setPort
    | with_reducible apply keeps_takeFlit
    | with_reducible apply keeps_tryUp
    | with_reducible apply Keeps.ite

theorem keeps_recordSwitch {m₀ : Nat} {s₀ : State} {n : Nat} (hM₀ : Sub 134217825 m₀) {s : State}
    (h₀ : Keeps m₀ s₀ s) : Keeps m₀ s₀ (recordSwitch n s) := by
  unfold recordSwitch
  try dsimp only
  repeat' first
    | with_reducible assumption
    | exact hM₀.le (by decide)
    | with_reducible apply keeps_bump
    | with_reducible apply keeps_journal
    | with_reducible apply keeps_lifeAdd
    | with_reducible apply keeps_lifeSet
    | with_reducible apply keeps_raiseBit

theorem keeps_laneFail {m₀ : Nat} {s₀ : State} {n lane : Nat} (hM₀ : Sub 134217849 m₀) {s : State}
    (h₀ : Keeps m₀ s₀ s) : Keeps m₀ s₀ (laneFail n lane s) := by
  unfold laneFail
  try dsimp only
  repeat' first
    | with_reducible assumption
    | exact hM₀.le (by decide)
    | with_reducible apply keeps_emitLink
    | with_reducible apply keeps_goDown
    | with_reducible apply keeps_setPort
    | with_reducible apply Keeps.ite

theorem keeps_swap {m₀ : Nat} {s₀ : State} {n ack : Nat} {crVc crCount lane : Nat} (hM₀ : Sub 134217849 m₀)
    {s : State} (h₀ : Keeps m₀ s₀ s) : Keeps m₀ s₀ (swap n ack crVc crCount lane s) := by
  unfold swap
  try dsimp only
  repeat' first
    | with_reducible assumption
    | exact hM₀.le (by decide)
    | with_reducible apply keeps_goDown
    | with_reducible apply keeps_recordSwitch
    | with_reducible apply keeps_setPort
    | with_reducible apply keeps_takeFlit
    | with_reducible apply keeps_wr
    | with_reducible apply Keeps.ite

theorem keeps_spareW8Lock {m₀ : Nat} {s₀ : State} {n : Nat} (hM₀ : Sub 134217841 m₀) {s : State}
    (h₀ : Keeps m₀ s₀ s) : Keeps m₀ s₀ (spareW8Lock n s) := by
  unfold spareW8Lock
  try dsimp only
  repeat' first
    | with_reducible assumption
    | exact hM₀.le (by decide)
    | with_reducible apply keeps_askReplay
    | with_reducible apply keeps_emitLink
    | with_reducible apply keeps_recordSwitch
    | with_reducible apply keeps_setPort
    | with_reducible apply keeps_wr
    | with_reducible apply Keeps.ite

theorem keeps_swapDone {m₀ : Nat} {s₀ : State} {n ack : Nat} {crVc crCount : Nat} (hM₀ : Sub 17 m₀) {s : State}
    (h₀ : Keeps m₀ s₀ s) : Keeps m₀ s₀ (swapDone n ack crVc crCount s) := by
  unfold swapDone
  try dsimp only
  repeat' first
    | with_reducible assumption
    | exact hM₀.le (by decide)
    | with_reducible apply keeps_setPort
    | with_reducible apply keeps_takeFlit
    | with_reducible apply Keeps.ite

theorem keeps_klRtData {m₀ : Nat} {s₀ : State} {mask : Nat} (hM₀ : Sub 17 m₀) {s : State} (h₀ : Keeps m₀ s₀ s) :
    Keeps m₀ s₀ (klRtData mask s) := by
  unfold klRtData
  try dsimp only
  repeat' first
    | with_reducible assumption
    | exact hM₀.le (by decide)
    | with_reducible apply keeps_wr
    | with_reducible apply Keeps.upd_link

theorem keeps_noteNotice {m₀ : Nat} {s₀ : State} {module : Nat} {released : Bool} (hM₀ : Sub 1 m₀) {s : State}
    (h₀ : Keeps m₀ s₀ s) : Keeps m₀ s₀ (noteNotice module released s) := by
  unfold noteNotice
  try dsimp only
  repeat' first
    | with_reducible assumption
    | with_reducible apply keeps_wr

theorem keeps_forwardNotice {m₀ : Nat} {s₀ : State} {kind module : Nat} {hops port : Nat} (hM₀ : Sub 134217745 m₀)
    {s : State} (h₀ : Keeps m₀ s₀ s) : Keeps m₀ s₀ (forwardNotice kind module hops port s) := by
  unfold forwardNotice
  repeat' first
    | with_reducible assumption
    | with_reducible apply keeps_sendNotice
    | with_reducible apply Keeps.ite

theorem keeps_markLocked {m₀ : Nat} {s₀ : State} {port module hops : Nat} (hM₀ : Sub 134217785 m₀) {s : State}
    (h₀ : Keeps m₀ s₀ s) : Keeps m₀ s₀ (markLocked port module hops s) := by
  unfold markLocked
  try dsimp only
  repeat' first
    | with_reducible assumption
    | exact hM₀.le (by decide)
    | with_reducible apply keeps_failRequests
    | with_reducible apply keeps_forwardNotice
    | with_reducible apply keeps_noteNotice
    | with_reducible apply keeps_raiseBit
    | with_reducible apply Keeps.upd_link

theorem keeps_releaseNotice {m₀ : Nat} {s₀ : State} {port module hops : Nat} (hM₀ : Sub 134217745 m₀) {s : State}
    (h₀ : Keeps m₀ s₀ s) : Keeps m₀ s₀ (releaseNotice port module hops s) := by
  unfold releaseNotice
  try dsimp only
  repeat' first
    | with_reducible assumption
    | exact hM₀.le (by decide)
    | with_reducible apply keeps_forwardNotice
    | with_reducible apply keeps_noteNotice
    | with_reducible apply Keeps.ite
    | with_reducible apply Keeps.upd_link

theorem keeps_freeFlits {m₀ : Nat} {s₀ : State} {n vc k : Nat} (hM₀ : Sub 16 m₀) {s : State} (h₀ : Keeps m₀ s₀ s) :
    Keeps m₀ s₀ (freeFlits n vc k s) := by
  unfold freeFlits
  try dsimp only
  repeat' first
    | with_reducible assumption
    | with_reducible apply keeps_setPort

theorem keeps_forwardPacket {m₀ : Nat} {s₀ : State} {n vc : Nat} {p : Packet} (hM₀ : Sub 134217745 m₀) {s : State}
    (h₀ : Keeps m₀ s₀ s) : Keeps m₀ s₀ (forwardPacket n vc p s) := by
  unfold forwardPacket
  try dsimp only
  repeat' first
    | with_reducible assumption
    | exact hM₀.le (by decide)
    | with_reducible apply keeps_bump
    | with_reducible apply keeps_sendOn
    | with_reducible apply keeps_sendResponse
    | with_reducible apply keeps_unsent
    | with_reducible apply Keeps.ite
    | split

theorem keeps_serveRequest {m₀ : Nat} {s₀ : State} {n : Nat} {p : Packet} (hM₀ : Sub 1476395133 m₀) {t₀ : State}
    (h₀ : Keeps m₀ s₀ t₀) : Keeps m₀ s₀ (runM (serveRequest n p) t₀).2 := by
  unfold serveRequest
  try dsimp only
  repeat' first
    | with_reducible assumption
    | exact hM₀.le (by decide)
    | (intro)
    | with_reducible apply keeps_codeOf
    | with_reducible apply keeps_localRead
    | with_reducible apply keeps_localWrite
    | with_reducible apply keeps_pushAdd
    | with_reducible apply keeps_sendResponse
    | with_reducible apply keeps_takeOrd
    | with_reducible apply Keeps.m_bind
    | with_reducible apply Keeps.m_pure
    | with_reducible apply Keeps.m_throw
    | with_reducible apply Keeps.m_modify
    | with_reducible apply Keeps.m_ite
    | with_reducible apply Keeps.m_tryCatch
    | split

/-! ### Machine/MemCommands.lean -/

theorem keeps_deliver {m₀ : Nat} {s₀ : State} {w : Who} {a n code : Nat} {d : List PByte} (hM₀ : Sub 8 m₀)
    {s : State} (h₀ : Keeps m₀ s₀ s) : Keeps m₀ s₀ (deliver w a n code d s) := by
  unfold deliver
  try dsimp only
  repeat' first
    | with_reducible assumption
    | with_reducible apply Keeps.upd_bus

theorem keeps_issuePieces {m₀ : Nat} {s₀ : State} {w : Who} {slack : Nat} (hM₀ : Sub 134217753 m₀) :
    ∀ (x0 : List (Nat × Nat)) (x1 : State), Keeps m₀ s₀ x1 → Keeps m₀ s₀ (issuePieces w slack x0 x1)
  | [], s, h₀ => by
    unfold issuePieces
    repeat' first
      | with_reducible assumption
      | exact hM₀.le (by decide)
      | (with_reducible apply keeps_issuePieces hM₀)
      | with_reducible apply keeps_deliver
      | (with_reducible refine keeps_sendRequest ?_ (by assumption) ?_)
      | split
  | (a, n) :: ps, s, h₀ => by
    unfold issuePieces
    repeat' first
      | with_reducible assumption
      | exact hM₀.le (by decide)
      | (with_reducible apply keeps_issuePieces hM₀)
      | with_reducible apply keeps_deliver
      | (with_reducible refine keeps_sendRequest ?_ (by assumption) ?_)
      | split

theorem keeps_issueRead {m₀ : Nat} {s₀ : State} {w : Who} {a n slack : Nat} (hM₀ : Sub 1543505791 m₀) {s : State}
    (h₀ : Keeps m₀ s₀ s) : Keeps m₀ s₀ (issueRead w a n slack s) := by
  unfold issueRead
  repeat' first
    | with_reducible assumption
    | exact hM₀.le (by decide)
    | with_reducible apply keeps_busRead
    | with_reducible apply keeps_deliver
    | with_reducible apply keeps_issuePieces
    | with_reducible apply keeps_startWake
    | with_reducible apply Keeps.ite
    | (with_reducible refine Keeps.of_pair (by assumption) ?_)
    | split

theorem keeps_issueWrite {m₀ : Nat} {s₀ : State} {w : Who} {a : Nat} {d : List PByte} {slack : Nat}
    (hM₀ : Sub 1543505791 m₀) {s : State} (h₀ : Keeps m₀ s₀ s) : Keeps m₀ s₀ (issueWrite w a d slack s) := by
  unfold issueWrite
  try dsimp only
  repeat' first
    | with_reducible assumption
    | exact hM₀.le (by decide)
    | with_reducible apply keeps_post
    | with_reducible apply Keeps.upd_bus

theorem keeps_requestIssue {m₀ : Nat} {s₀ : State} {w : Who} {kind : ReqKind} {a n : Nat} {d : List PByte}
    {slack : Nat} (hM₀ : Sub 1543505791 m₀) {s : State} (h₀ : Keeps m₀ s₀ s) : Keeps m₀ s₀
    (requestIssue w kind a n d slack s) := by
  unfold requestIssue
  repeat' first
    | with_reducible assumption
    | exact hM₀.le (by decide)
    | with_reducible apply keeps_issueRead
    | with_reducible apply keeps_issueWrite
    | with_reducible apply keeps_pushAdd
    | split

theorem keeps_memoryRead {m₀ : Nat} {s₀ : State} {page a n : Nat} {upsets : List (Nat × Nat)}
    (hM₀ : Sub 1543505791 m₀) {s : State} (h₀ : Keeps m₀ s₀ s) : Keeps m₀ s₀ (memoryRead page a n upsets s) := by
  unfold memoryRead
  repeat' first
    | with_reducible assumption
    | exact hM₀.le (by decide)
    | with_reducible apply keeps_issueRead
    | with_reducible apply keeps_upset
    | with_reducible apply Keeps.ite

theorem keeps_memoryWrite {m₀ : Nat} {s₀ : State} {page a : Nat} {d : List PByte} (hM₀ : Sub 1543505791 m₀)
    {s : State} (h₀ : Keeps m₀ s₀ s) : Keeps m₀ s₀ (memoryWrite page a d s) := by
  unfold memoryWrite
  repeat' first
    | with_reducible assumption
    | with_reducible apply keeps_issueWrite
    | with_reducible apply Keeps.ite

theorem keeps_memDiscard {m₀ : Nat} {s₀ : State} {off : Nat} {data : List Byte} (hM₀ : Sub 1207959589 m₀)
    {s : State} (h₀ : Keeps m₀ s₀ s) : Keeps m₀ s₀ (memDiscard off data s) := by
  unfold memDiscard
  try dsimp only
  repeat' first
    | with_reducible assumption
    | exact hM₀.le (by decide)
    | with_reducible apply keeps_clearGddr
    | with_reducible apply keeps_clearWells
    | with_reducible apply keeps_logErr
    | with_reducible apply Keeps.ite
    | split

theorem keeps_memRetire {m₀ : Nat} {s₀ : State} {c : Nat} (hM₀ : Sub 1207959589 m₀) {s : State} (h₀ : Keeps m₀ s₀ s)
    : Keeps m₀ s₀ (memRetire c s) := by
  unfold memRetire
  try dsimp only
  repeat' first
    | with_reducible assumption
    | exact hM₀.le (by decide)
    | with_reducible apply keeps_clearGddr
    | with_reducible apply keeps_logErr
    | with_reducible apply keeps_wr
    | with_reducible apply Keeps.ite
    | with_reducible apply Keeps.upd_migrateK

theorem keeps_migrationCopy {m₀ : Nat} {s₀ : State} (hM₀ : Sub 1476395109 m₀) {s : State} (h₀ : Keeps m₀ s₀ s) :
    Keeps m₀ s₀ (migrationCopy s) := by
  unfold migrationCopy
  try dsimp only
  repeat' first
    | with_reducible assumption
    | exact hM₀.le (by decide)
    | (intro)
    | with_reducible apply keeps_bump
    | with_reducible apply keeps_memRead
    | with_reducible apply keeps_setPoison
    | with_reducible apply Keeps.foldl
    | split
    | with_reducible apply Keeps.upd_migrateK

theorem keeps_migrationDone {m₀ : Nat} {s₀ : State} (hM₀ : Sub 134217825 m₀) {s : State} (h₀ : Keeps m₀ s₀ s) :
    Keeps m₀ s₀ (migrationDone s) := by
  unfold migrationDone
  try dsimp only
  repeat' first
    | with_reducible assumption
    | exact hM₀.le (by decide)
    | with_reducible apply keeps_journal
    | with_reducible apply keeps_lifeSet
    | with_reducible apply keeps_raiseBit
    | with_reducible apply keeps_wr
    | split

theorem keeps_scrubGranule {m₀ : Nat} {s₀ : State} {a : Nat} (hM₀ : Sub 1476395109 m₀) {s : State}
    (h₀ : Keeps m₀ s₀ s) : Keeps m₀ s₀ (scrubGranule a s) := by
  unfold scrubGranule
  try dsimp only
  repeat' first
    | with_reducible assumption
    | exact hM₀.le (by decide)
    | (intro)
    | with_reducible apply keeps_bump
    | with_reducible apply keeps_readWords
    | with_reducible apply Keeps.ite
    | with_reducible apply Keeps.foldl
    | split

theorem keeps_gddr7Scrub {m₀ : Nat} {s₀ : State} {upsets : List (Nat × Nat)} (hM₀ : Sub 1476395109 m₀) {s : State}
    (h₀ : Keeps m₀ s₀ s) : Keeps m₀ s₀ (gddr7Scrub upsets s) := by
  unfold gddr7Scrub
  try dsimp only
  repeat' first
    | with_reducible assumption
    | exact hM₀.le (by decide)
    | with_reducible apply keeps_bump
    | with_reducible apply keeps_scrubGranule
    | with_reducible apply keeps_upset
    | with_reducible apply Keeps.ite
    | split
    | with_reducible apply Keeps.upd_scrubNext

theorem keeps_wellScrub {m₀ : Nat} {s₀ : State} {k : Nat} {upsets : List (Nat × Nat)} (hM₀ : Sub 1476395109 m₀)
    {s : State} (h₀ : Keeps m₀ s₀ s) : Keeps m₀ s₀ (wellScrub k upsets s) := by
  unfold wellScrub
  try dsimp only
  repeat' first
    | with_reducible assumption
    | exact hM₀.le (by decide)
    | with_reducible apply keeps_bump
    | with_reducible apply keeps_scrubGranule
    | with_reducible apply keeps_upset
    | with_reducible apply Keeps.ite
    | split
    | with_reducible apply Keeps.upd_wellScrubNext

theorem keeps_arbGrant {m₀ : Nat} {s₀ : State} {point : Nat} {rs : List ArbRequest} (hM₀ : Sub 9 m₀) {s : State}
    (h₀ : Keeps m₀ s₀ s) : Keeps m₀ s₀ (arbGrant point rs s) := by
  unfold arbGrant
  try dsimp only
  repeat' first
    | with_reducible assumption
    | exact hM₀.le (by decide)
    | with_reducible apply keeps_bump
    | with_reducible apply Keeps.ite
    | split
    | with_reducible apply Keeps.upd_bus

/-! ### Machine/Resilience.lean -/

theorem keeps_modRes {m₀ : Nat} {s₀ : State} {f : Resil → Resil} (hM₀ : Sub 524288 m₀) {s : State}
    (h₀ : Keeps m₀ s₀ s) : Keeps m₀ s₀ (modRes f s) := by
  unfold modRes
  repeat' first
    | with_reducible assumption
    | with_reducible apply Keeps.upd_res

theorem keeps_rsFail {m₀ : Nat} {s₀ : State} {c : Nat} (hM₀ : Sub 134217761 m₀) {s : State} (h₀ : Keeps m₀ s₀ s) :
    Keeps m₀ s₀ (rsFail c s) := by
  unfold rsFail
  repeat' first
    | with_reducible assumption
    | exact hM₀.le (by decide)
    | with_reducible apply keeps_logErr
    | with_reducible apply keeps_wr

theorem keeps_readTable {m₀ : Nat} {s₀ : State} (hM₀ : Sub 1476396911 m₀) {t₀ : State} (h₀ : Keeps m₀ s₀ t₀) :
    Keeps m₀ s₀ (runM (readTable) t₀).2 := by
  unfold readTable
  try dsimp only
  repeat' first
    | with_reducible assumption
    | (intro)
    | with_reducible apply keeps_busRead
    | with_reducible apply Keeps.m_get_bind
    | with_reducible apply Keeps.m_bind
    | with_reducible apply Keeps.m_pure
    | with_reducible apply Keeps.m_refuseIf

theorem keeps_twinBad {m₀ : Nat} {s₀ : State} {e : Protect} (hM₀ : Sub 1476396911 m₀) {t₀ : State}
    (h₀ : Keeps m₀ s₀ t₀) : Keeps m₀ s₀ (runM (twinBad e) t₀).2 := by
  unfold twinBad
  try dsimp only
  repeat' first
    | with_reducible assumption
    | (intro)
    | with_reducible apply keeps_busRead
    | with_reducible apply Keeps.m_get_bind
    | with_reducible apply Keeps.m_bind
    | with_reducible apply Keeps.m_pure
    | with_reducible apply Keeps.m_ite

theorem keeps_anyTwinBad {m₀ : Nat} {s₀ : State} (hM₀ : Sub 1476396911 m₀) :
    ∀ (x0 : List Protect) (t₀ : State), Keeps m₀ s₀ t₀ → Keeps m₀ s₀ (runM (anyTwinBad x0) t₀).2
  | [], t₀, h₀ => by
    unfold anyTwinBad
    try dsimp only
    repeat' first
      | with_reducible assumption
      | (intro)
      | (with_reducible apply keeps_anyTwinBad hM₀)
      | with_reducible apply keeps_twinBad
      | with_reducible apply Keeps.m_bind
      | with_reducible apply Keeps.m_pure
      | with_reducible apply Keeps.m_ite
  | e :: es, t₀, h₀ => by
    unfold anyTwinBad
    try dsimp only
    repeat' first
      | with_reducible assumption
      | (intro)
      | (with_reducible apply keeps_anyTwinBad hM₀)
      | with_reducible apply keeps_twinBad
      | with_reducible apply Keeps.m_bind
      | with_reducible apply Keeps.m_pure
      | with_reducible apply Keeps.m_ite

theorem keeps_rsValidate {m₀ : Nat} {s₀ : State} (hM₀ : Sub 1476396911 m₀) {t₀ : State} (h₀ : Keeps m₀ s₀ t₀) :
    Keeps m₀ s₀ (runM (rsValidate) t₀).2 := by
  unfold rsValidate
  try dsimp only
  repeat' first
    | with_reducible assumption
    | (intro)
    | with_reducible apply keeps_anyTwinBad
    | with_reducible apply keeps_readTable
    | with_reducible apply Keeps.m_get_bind
    | with_reducible apply Keeps.m_bind
    | with_reducible apply Keeps.m_pure
    | with_reducible apply Keeps.m_refuseIf

theorem keeps_rsStart {m₀ : Nat} {s₀ : State} (hM₀ : Sub 1476921199 m₀) {t₀ : State} (h₀ : Keeps m₀ s₀ t₀) :
    Keeps m₀ s₀ (runM (rsStart) t₀).2 := by
  unfold rsStart
  repeat' first
    | with_reducible assumption
    | exact hM₀.le (by decide)
    | (intro)
    | with_reducible apply keeps_catchCode
    | with_reducible apply keeps_modRes
    | with_reducible apply keeps_rsFail
    | with_reducible apply keeps_rsValidate
    | with_reducible apply keeps_wr
    | with_reducible apply Keeps.m_bind
    | with_reducible apply Keeps.m_modify
    | split

theorem keeps_rsEnable {m₀ : Nat} {s₀ : State} {on : Bool} (hM₀ : Sub 1544030079 m₀) {s : State}
    (h₀ : Keeps m₀ s₀ s) : Keeps m₀ s₀ (rsEnable on s) := by
  unfold rsEnable
  repeat' first
    | with_reducible assumption
    | exact hM₀.le (by decide)
    | (intro)
    | with_reducible apply keeps_attempt
    | with_reducible apply keeps_rsStart
    | with_reducible apply keeps_wr
    | with_reducible apply Keeps.ite

theorem keeps_twinStale {m₀ : Nat} {s₀ : State} (hM₀ : Sub 134217761 m₀) {s : State} (h₀ : Keeps m₀ s₀ s) :
    Keeps m₀ s₀ (twinStale s) := by
  unfold twinStale
  repeat' first
    | with_reducible assumption
    | exact hM₀.le (by decide)
    | with_reducible apply keeps_bump
    | with_reducible apply keeps_raiseBit
    | with_reducible apply keeps_wr

theorem keeps_protectPages {m₀ : Nat} {s₀ : State} {on : Bool} {ps : List Nat} (hM₀ : Sub 4 m₀) {s : State}
    (h₀ : Keeps m₀ s₀ s) : Keeps m₀ s₀ (protectPages on ps s) := by
  unfold protectPages
  try dsimp only
  repeat' first
    | with_reducible assumption
    | with_reducible apply Keeps.upd_wprot

theorem keeps_setRound {m₀ : Nat} {s₀ : State} {r : Option Round} (hM₀ : Sub 524288 m₀) {s : State}
    (h₀ : Keeps m₀ s₀ s) : Keeps m₀ s₀ (setRound r s) := by
  unfold setRound
  repeat' first
    | with_reducible assumption
    | with_reducible apply keeps_modRes

theorem keeps_roundEnds {m₀ : Nat} {s₀ : State} {cycles : Nat} (hM₀ : Sub 1544030079 m₀) {s : State}
    (h₀ : Keeps m₀ s₀ s) : Keeps m₀ s₀ (roundEnds cycles s) := by
  unfold roundEnds
  try dsimp only
  repeat' first
    | with_reducible assumption
    | exact hM₀.le (by decide)
    | with_reducible apply keeps_bump
    | with_reducible apply keeps_releaseHeld
    | with_reducible apply keeps_setRound
    | with_reducible apply Keeps.upd_wprot

theorem keeps_roundFails {m₀ : Nat} {s₀ : State} {c cycles : Nat} (hM₀ : Sub 1544030079 m₀) {s : State}
    (h₀ : Keeps m₀ s₀ s) : Keeps m₀ s₀ (roundFails c cycles s) := by
  unfold roundFails
  try dsimp only
  repeat' first
    | with_reducible assumption
    | exact hM₀.le (by decide)
    | with_reducible apply keeps_bump
    | with_reducible apply keeps_disown
    | with_reducible apply keeps_raiseBit
    | with_reducible apply keeps_roundEnds
    | with_reducible apply keeps_rsFail
    | with_reducible apply keeps_wr

theorem keeps_writeRecord {m₀ : Nat} {s₀ : State} {r : Round} (hM₀ : Sub 1544030079 m₀) {t₀ : State}
    (h₀ : Keeps m₀ s₀ t₀) : Keeps m₀ s₀ (runM (writeRecord r) t₀).2 := by
  unfold writeRecord
  repeat' first
    | with_reducible assumption
    | exact hM₀.le (by decide)
    | (intro)
    | with_reducible apply keeps_busWrite
    | with_reducible apply keeps_codeOf
    | with_reducible apply keeps_roundFails
    | with_reducible apply keeps_setRound
    | with_reducible apply Keeps.m_get_bind
    | with_reducible apply Keeps.m_bind
    | with_reducible apply Keeps.m_modify
    | split

theorem keeps_roundBegin {m₀ : Nat} {s₀ : State} {step : Nat} (hM₀ : Sub 1544030079 m₀) {s : State}
    (h₀ : Keeps m₀ s₀ s) : Keeps m₀ s₀ (roundBegin step s) := by
  unfold roundBegin
  try dsimp only
  repeat' first
    | with_reducible assumption
    | exact hM₀.le (by decide)
    | (intro)
    | with_reducible apply keeps_attempt
    | with_reducible apply keeps_protectPages
    | with_reducible apply keeps_setRound
    | with_reducible apply keeps_wr
    | with_reducible apply keeps_writeRecord
    | with_reducible apply Keeps.ite

theorem keeps_copyImage {m₀ : Nat} {s₀ : State} {src dst n : Nat} (hM₀ : Sub 1543505791 m₀) {t₀ : State}
    (h₀ : Keeps m₀ s₀ t₀) : Keeps m₀ s₀ (runM (copyImage src dst n) t₀).2 := by
  unfold copyImage
  repeat' first
    | with_reducible assumption
    | exact hM₀.le (by decide)
    | (intro)
    | with_reducible apply keeps_bump
    | with_reducible apply keeps_busRead
    | with_reducible apply keeps_busWrite
    | with_reducible apply Keeps.m_bind
    | with_reducible apply Keeps.m_modify

theorem keeps_copyPage {m₀ : Nat} {s₀ : State} {slot p : Nat} (hM₀ : Sub 1543505791 m₀) {t₀ : State}
    (h₀ : Keeps m₀ s₀ t₀) : Keeps m₀ s₀ (runM (copyPage slot p) t₀).2 := by
  unfold copyPage
  repeat' first
    | with_reducible assumption
    | exact hM₀.le (by decide)
    | (intro)
    | with_reducible apply keeps_copyImage
    | with_reducible apply keeps_protectPages
    | with_reducible apply keeps_releaseHeld
    | with_reducible apply Keeps.m_get_bind
    | with_reducible apply Keeps.m_bind
    | with_reducible apply Keeps.m_pure
    | with_reducible apply Keeps.m_modify
    | split

theorem keeps_copyPages {m₀ : Nat} {s₀ : State} {slot : Nat} (hM₀ : Sub 1543505791 m₀) :
    ∀ (x0 : List Nat) (t₀ : State), Keeps m₀ s₀ t₀ → Keeps m₀ s₀ (runM (copyPages slot x0) t₀).2
  | [], t₀, h₀ => by
    unfold copyPages
    try dsimp only
    repeat' first
      | with_reducible assumption
      | (intro)
      | (with_reducible apply keeps_copyPages hM₀)
      | with_reducible apply keeps_copyPage
      | with_reducible apply Keeps.m_get_bind
      | with_reducible apply Keeps.m_bind
      | with_reducible apply Keeps.m_pure
      | with_reducible apply Keeps.m_ite
  | p :: ps, t₀, h₀ => by
    unfold copyPages
    try dsimp only
    repeat' first
      | with_reducible assumption
      | (intro)
      | (with_reducible apply keeps_copyPages hM₀)
      | with_reducible apply keeps_copyPage
      | with_reducible apply Keeps.m_get_bind
      | with_reducible apply Keeps.m_bind
      | with_reducible apply Keeps.m_pure
      | with_reducible apply Keeps.m_ite

theorem keeps_copyGroups {m₀ : Nat} {s₀ : State} {r : Round} (hM₀ : Sub 1543505791 m₀) :
    ∀ (x0 : List Protect) (t₀ : State), Keeps m₀ s₀ t₀ → Keeps m₀ s₀ (runM (copyGroups r x0) t₀).2
  | [], t₀, h₀ => by
    unfold copyGroups
    try dsimp only
    repeat' first
      | with_reducible assumption
      | (intro)
      | (with_reducible apply keeps_copyGroups hM₀)
      | with_reducible apply keeps_copyImage
      | with_reducible apply Keeps.m_get_bind
      | with_reducible apply Keeps.m_bind
      | with_reducible apply Keeps.m_pure
      | with_reducible apply Keeps.m_ite
  | e :: es, t₀, h₀ => by
    unfold copyGroups
    try dsimp only
    repeat' first
      | with_reducible assumption
      | (intro)
      | (with_reducible apply keeps_copyGroups hM₀)
      | with_reducible apply keeps_copyImage
      | with_reducible apply Keeps.m_get_bind
      | with_reducible apply Keeps.m_bind
      | with_reducible apply Keeps.m_pure
      | with_reducible apply Keeps.m_ite

theorem keeps_roundCode {m₀ : Nat} {s₀ : State} (hM₀ : Sub 8 m₀) {t₀ : State} (h₀ : Keeps m₀ s₀ t₀) : Keeps m₀ s₀
    (runM (roundCode) t₀).2 := by
  unfold roundCode
  repeat' first
    | with_reducible assumption
    | (intro)
    | with_reducible apply keeps_acknowledged
    | with_reducible apply keeps_codeOf
    | with_reducible apply Keeps.m_get_bind
    | with_reducible apply Keeps.m_pure
    | split

theorem keeps_roundAt {m₀ : Nat} {s₀ : State} {k : Nat} (hM₀ : Sub 8 m₀) {t₀ : State} (h₀ : Keeps m₀ s₀ t₀) :
    Keeps m₀ s₀ (runM (roundAt k) t₀).2 := by
  unfold roundAt
  repeat' first
    | with_reducible assumption
    | (intro)
    | with_reducible apply keeps_roundCode
    | with_reducible apply Keeps.m_get_bind
    | with_reducible apply Keeps.m_bind
    | with_reducible apply Keeps.m_pure
    | with_reducible apply Keeps.m_throw
    | with_reducible apply Keeps.m_waitFor
    | split

theorem keeps_roundCopy {m₀ : Nat} {s₀ : State} {cycles : Nat} (hM₀ : Sub 1544030079 m₀) {t₀ : State}
    (h₀ : Keeps m₀ s₀ t₀) : Keeps m₀ s₀ (runM (roundCopy cycles) t₀).2 := by
  unfold roundCopy
  try dsimp only
  repeat' first
    | with_reducible assumption
    | exact hM₀.le (by decide)
    | (intro)
    | with_reducible apply keeps_codeOf
    | with_reducible apply keeps_copyGroups
    | with_reducible apply keeps_copyPages
    | with_reducible apply keeps_roundAt
    | with_reducible apply keeps_roundFails
    | with_reducible apply keeps_setRound
    | with_reducible apply Keeps.m_get_bind
    | with_reducible apply Keeps.m_pure_bind
    | with_reducible apply Keeps.m_bind
    | with_reducible apply Keeps.m_modify
    | with_reducible apply Keeps.m_ite

theorem keeps_copyCursor {m₀ : Nat} {s₀ : State} {cycles : Nat} (hM₀ : Sub 1544030079 m₀) {t₀ : State}
    (h₀ : Keeps m₀ s₀ t₀) : Keeps m₀ s₀ (runM (copyCursor cycles) t₀).2 := by
  unfold copyCursor
  repeat' first
    | with_reducible assumption
    | exact hM₀.le (by decide)
    | (intro)
    | with_reducible apply keeps_busRead
    | with_reducible apply keeps_busWrite
    | with_reducible apply keeps_codeOf
    | with_reducible apply keeps_roundFails
    | with_reducible apply keeps_setRound
    | with_reducible apply Keeps.m_get_bind
    | with_reducible apply Keeps.m_bind
    | with_reducible apply Keeps.m_throw
    | with_reducible apply Keeps.m_modify
    | with_reducible apply Keeps.m_ite
    | with_reducible apply Keeps.m_waitFor
    | split

theorem keeps_firstTouch {m₀ : Nat} {s₀ : State} {p cycles : Nat} (hM₀ : Sub 1544030079 m₀) {t₀ : State}
    (h₀ : Keeps m₀ s₀ t₀) : Keeps m₀ s₀ (runM (firstTouch p cycles) t₀).2 := by
  unfold firstTouch
  try dsimp only
  repeat' first
    | with_reducible assumption
    | exact hM₀.le (by decide)
    | (intro)
    | with_reducible apply keeps_bump
    | with_reducible apply keeps_codeOf
    | with_reducible apply keeps_copyPage
    | with_reducible apply keeps_roundAt
    | with_reducible apply keeps_roundFails
    | with_reducible apply Keeps.m_get_bind
    | with_reducible apply Keeps.m_pure_bind
    | with_reducible apply Keeps.m_bind
    | with_reducible apply Keeps.m_modify
    | with_reducible apply Keeps.m_ite
    | with_reducible apply Keeps.m_waitFor

theorem keeps_roundCompleteWrite {m₀ : Nat} {s₀ : State} {cycles : Nat} (hM₀ : Sub 1544030079 m₀) {t₀ : State}
    (h₀ : Keeps m₀ s₀ t₀) : Keeps m₀ s₀ (runM (roundCompleteWrite cycles) t₀).2 := by
  unfold roundCompleteWrite
  try dsimp only
  repeat' first
    | with_reducible assumption
    | exact hM₀.le (by decide)
    | (intro)
    | with_reducible apply keeps_busWriteNat
    | with_reducible apply keeps_codeOf
    | with_reducible apply keeps_roundAt
    | with_reducible apply keeps_roundFails
    | with_reducible apply keeps_setRound
    | with_reducible apply Keeps.m_get_bind
    | with_reducible apply Keeps.m_pure_bind
    | with_reducible apply Keeps.m_bind
    | with_reducible apply Keeps.m_modify
    | with_reducible apply Keeps.m_ite
    | with_reducible apply Keeps.m_waitFor

theorem keeps_roundComplete {m₀ : Nat} {s₀ : State} {cycles : Nat} (hM₀ : Sub 1544030079 m₀) {t₀ : State}
    (h₀ : Keeps m₀ s₀ t₀) : Keeps m₀ s₀ (runM (roundComplete cycles) t₀).2 := by
  unfold roundComplete
  try dsimp only
  repeat' first
    | with_reducible assumption
    | exact hM₀.le (by decide)
    | (intro)
    | with_reducible apply keeps_bump
    | with_reducible apply keeps_raiseBit
    | with_reducible apply keeps_roundAt
    | with_reducible apply keeps_roundEnds
    | with_reducible apply keeps_roundFails
    | with_reducible apply keeps_wr
    | with_reducible apply Keeps.m_bind
    | with_reducible apply Keeps.m_modify
    | with_reducible apply Keeps.m_ite

theorem keeps_setRestore {m₀ : Nat} {s₀ : State} {r : Option Restore} (hM₀ : Sub 524288 m₀) {s : State}
    (h₀ : Keeps m₀ s₀ s) : Keeps m₀ s₀ (setRestore r s) := by
  unfold setRestore
  repeat' first
    | with_reducible assumption
    | with_reducible apply keeps_modRes

theorem keeps_restoreEnds {m₀ : Nat} {s₀ : State} {state : Nat} (hM₀ : Sub 524289 m₀) {s : State}
    (h₀ : Keeps m₀ s₀ s) : Keeps m₀ s₀ (restoreEnds state s) := by
  unfold restoreEnds
  repeat' first
    | with_reducible assumption
    | exact hM₀.le (by decide)
    | with_reducible apply keeps_setRestore
    | with_reducible apply keeps_wr

theorem keeps_restoreRefused {m₀ : Nat} {s₀ : State} {c : Nat} (hM₀ : Sub 134742057 m₀) {s : State}
    (h₀ : Keeps m₀ s₀ s) : Keeps m₀ s₀ (restoreRefused c s) := by
  unfold restoreRefused
  repeat' first
    | with_reducible assumption
    | exact hM₀.le (by decide)
    | with_reducible apply keeps_disown
    | with_reducible apply keeps_restoreEnds
    | with_reducible apply keeps_rsFail

theorem keeps_restoreFails {m₀ : Nat} {s₀ : State} {c : Nat} (hM₀ : Sub 134742057 m₀) {s : State}
    (h₀ : Keeps m₀ s₀ s) : Keeps m₀ s₀ (restoreFails c s) := by
  unfold restoreFails
  repeat' first
    | with_reducible assumption
    | exact hM₀.le (by decide)
    | with_reducible apply keeps_raiseBit
    | with_reducible apply keeps_restoreRefused

theorem keeps_matchingRecord {m₀ : Nat} {s₀ : State} {k : Nat} (hM₀ : Sub 1476396911 m₀) {t₀ : State}
    (h₀ : Keeps m₀ s₀ t₀) : Keeps m₀ s₀ (runM (matchingRecord k) t₀).2 := by
  unfold matchingRecord
  try dsimp only
  repeat' first
    | with_reducible assumption
    | (intro)
    | with_reducible apply keeps_busRead
    | with_reducible apply Keeps.m_get_bind
    | with_reducible apply Keeps.m_bind
    | with_reducible apply Keeps.m_pure

theorem keeps_sameTable {m₀ : Nat} {s₀ : State} {k : Nat} {r : List Byte} {n : Nat} (hM₀ : Sub 1476396911 m₀)
    {t₀ : State} (h₀ : Keeps m₀ s₀ t₀) : Keeps m₀ s₀ (runM (sameTable k r n) t₀).2 := by
  unfold sameTable
  repeat' first
    | with_reducible assumption
    | (intro)
    | with_reducible apply keeps_readTable
    | with_reducible apply Keeps.m_bind
    | with_reducible apply Keeps.m_pure
    | with_reducible apply Keeps.m_refuseIf

theorem keeps_checkRestore {m₀ : Nat} {s₀ : State} (hM₀ : Sub 1476396911 m₀) {t₀ : State} (h₀ : Keeps m₀ s₀ t₀) :
    Keeps m₀ s₀ (runM (checkRestore) t₀).2 := by
  unfold checkRestore
  try dsimp only
  repeat' first
    | with_reducible assumption
    | (intro)
    | with_reducible apply keeps_matchingRecord
    | with_reducible apply keeps_sameTable
    | with_reducible apply Keeps.m_pure_bind
    | with_reducible apply Keeps.m_bind
    | with_reducible apply Keeps.m_failWith
    | with_reducible apply Keeps.m_ite
    | with_reducible apply Keeps.m_gets
    | split

theorem keeps_restoreEntries {m₀ : Nat} {s₀ : State} {slot gen : Nat} (hM₀ : Sub 1544030079 m₀) :
    ∀ (x0 : List (List Byte)) (t₀ : State), Keeps m₀ s₀ t₀ → Keeps m₀ s₀ (runM (restoreEntries slot gen x0) t₀).2
  | [], t₀, h₀ => by
    unfold restoreEntries
    try dsimp only
    repeat' first
      | with_reducible assumption
      | exact hM₀.le (by decide)
      | (intro)
      | (with_reducible apply keeps_restoreEntries hM₀)
      | with_reducible apply keeps_busRead
      | with_reducible apply keeps_busWrite
      | with_reducible apply keeps_setRestore
      | with_reducible apply Keeps.m_get_bind
      | with_reducible apply Keeps.m_modify_bind
      | with_reducible apply Keeps.m_bind
      | with_reducible apply Keeps.m_pure
      | split
  | d :: ds, t₀, h₀ => by
    unfold restoreEntries
    try dsimp only
    repeat' first
      | with_reducible assumption
      | exact hM₀.le (by decide)
      | (intro)
      | (with_reducible apply keeps_restoreEntries hM₀)
      | with_reducible apply keeps_busRead
      | with_reducible apply keeps_busWrite
      | with_reducible apply keeps_setRestore
      | with_reducible apply Keeps.m_get_bind
      | with_reducible apply Keeps.m_modify_bind
      | with_reducible apply Keeps.m_bind
      | with_reducible apply Keeps.m_pure
      | split

theorem keeps_restoreWork {m₀ : Nat} {s₀ : State} (hM₀ : Sub 1544030079 m₀) {t₀ : State} (h₀ : Keeps m₀ s₀ t₀) :
    Keeps m₀ s₀ (runM (restoreWork) t₀).2 := by
  unfold restoreWork
  try dsimp only
  repeat' first
    | with_reducible assumption
    | exact hM₀.le (by decide)
    | (intro)
    | with_reducible apply keeps_catchCode
    | with_reducible apply keeps_checkRestore
    | with_reducible apply keeps_codeOf
    | with_reducible apply keeps_restoreEntries
    | with_reducible apply keeps_restoreFails
    | with_reducible apply keeps_restoreRefused
    | with_reducible apply keeps_setRestore
    | with_reducible apply Keeps.m_get_bind
    | with_reducible apply Keeps.m_modify_bind
    | with_reducible apply Keeps.m_pure_bind
    | with_reducible apply Keeps.m_bind
    | with_reducible apply Keeps.m_pure
    | with_reducible apply Keeps.m_throw
    | with_reducible apply Keeps.m_modify
    | with_reducible apply Keeps.m_ite
    | split

theorem keeps_rsRestore {m₀ : Nat} {s₀ : State} (hM₀ : Sub 1544030079 m₀) {s : State} (h₀ : Keeps m₀ s₀ s) :
    Keeps m₀ s₀ (rsRestore s) := by
  unfold rsRestore
  try dsimp only
  repeat' first
    | with_reducible assumption
    | exact hM₀.le (by decide)
    | (intro)
    | with_reducible apply keeps_attempt
    | with_reducible apply keeps_restoreRefused
    | with_reducible apply keeps_restoreWork
    | with_reducible apply keeps_rsFail
    | with_reducible apply keeps_setRestore
    | with_reducible apply keeps_wr
    | with_reducible apply Keeps.ite

theorem keeps_restoreDone {m₀ : Nat} {s₀ : State} (hM₀ : Sub 134742057 m₀) {t₀ : State} (h₀ : Keeps m₀ s₀ t₀) :
    Keeps m₀ s₀ (runM (restoreDone) t₀).2 := by
  unfold restoreDone
  repeat' first
    | with_reducible assumption
    | exact hM₀.le (by decide)
    | (intro)
    | with_reducible apply keeps_acknowledged
    | with_reducible apply keeps_bump
    | with_reducible apply keeps_codeOf
    | with_reducible apply keeps_raiseBit
    | with_reducible apply keeps_restoreEnds
    | with_reducible apply keeps_restoreFails
    | with_reducible apply Keeps.m_get_bind
    | with_reducible apply Keeps.m_bind
    | with_reducible apply Keeps.m_modify
    | with_reducible apply Keeps.m_waitFor
    | split

theorem keeps_restoreGoesOn {m₀ : Nat} {s₀ : State} (hM₀ : Sub 1544030079 m₀) {s : State} (h₀ : Keeps m₀ s₀ s) :
    Keeps m₀ s₀ (restoreGoesOn s) := by
  unfold restoreGoesOn
  repeat' first
    | with_reducible assumption
    | exact hM₀.le (by decide)
    | (intro)
    | with_reducible apply keeps_attempt
    | with_reducible apply keeps_restoreDone
    | with_reducible apply keeps_restoreWork
    | with_reducible apply Keeps.ite

theorem keeps_abandonFill {m₀ : Nat} {s₀ : State} (hM₀ : Sub 134742057 m₀) {s : State} (h₀ : Keeps m₀ s₀ s) :
    Keeps m₀ s₀ (abandonFill s) := by
  unfold abandonFill
  repeat' first
    | with_reducible assumption
    | with_reducible apply keeps_restoreFails
    | with_reducible apply Keeps.ite
    | split

theorem keeps_noticeToFill {m₀ : Nat} {s₀ : State} {module : Nat} (hM₀ : Sub 134742057 m₀) {s : State}
    (h₀ : Keeps m₀ s₀ s) : Keeps m₀ s₀ (noticeToFill module s) := by
  unfold noticeToFill
  repeat' first
    | with_reducible assumption
    | with_reducible apply keeps_abandonFill
    | with_reducible apply Keeps.ite

theorem keeps_digestPages {m₀ : Nat} {s₀ : State} {sha : Bool} {dst i : Nat} (hM₀ : Sub 1543505791 m₀) :
    ∀ (x0 : List (Nat × Nat)) (t₀ : State), Keeps m₀ s₀ t₀ → Keeps m₀ s₀ (runM (digestPages sha dst i x0) t₀).2
  | [], t₀, h₀ => by
    unfold digestPages
    try dsimp only
    repeat' first
      | with_reducible assumption
      | exact hM₀.le (by decide)
      | (intro)
      | (with_reducible apply keeps_digestPages hM₀)
      | with_reducible apply keeps_busRead
      | with_reducible apply keeps_busWrite
      | with_reducible apply keeps_wr
      | with_reducible apply Keeps.m_modify_bind
      | with_reducible apply Keeps.m_bind
      | with_reducible apply Keeps.m_pure
      | with_reducible apply Keeps.m_ite
  | (a, n) :: ps, t₀, h₀ => by
    unfold digestPages
    try dsimp only
    repeat' first
      | with_reducible assumption
      | exact hM₀.le (by decide)
      | (intro)
      | (with_reducible apply keeps_digestPages hM₀)
      | with_reducible apply keeps_busRead
      | with_reducible apply keeps_busWrite
      | with_reducible apply keeps_wr
      | with_reducible apply Keeps.m_modify_bind
      | with_reducible apply Keeps.m_bind
      | with_reducible apply Keeps.m_pure
      | with_reducible apply Keeps.m_ite

theorem keeps_digestWork {m₀ : Nat} {s₀ : State} (hM₀ : Sub 1544030079 m₀) {t₀ : State} (h₀ : Keeps m₀ s₀ t₀) :
    Keeps m₀ s₀ (runM (digestWork) t₀).2 := by
  unfold digestWork
  repeat' first
    | with_reducible assumption
    | exact hM₀.le (by decide)
    | (intro)
    | with_reducible apply keeps_codeOf
    | with_reducible apply keeps_digestPages
    | with_reducible apply keeps_modRes
    | with_reducible apply Keeps.m_get_bind
    | with_reducible apply Keeps.m_bind
    | with_reducible apply Keeps.m_modify

theorem keeps_digestRefused {m₀ : Nat} {s₀ : State} {c : Nat} (hM₀ : Sub 134217761 m₀) {s : State}
    (h₀ : Keeps m₀ s₀ s) : Keeps m₀ s₀ (digestRefused c s) := by
  unfold digestRefused
  repeat' first
    | with_reducible assumption
    | exact hM₀.le (by decide)
    | with_reducible apply keeps_logErr
    | with_reducible apply keeps_wr

theorem keeps_rsDigest {m₀ : Nat} {s₀ : State} (hM₀ : Sub 1544030079 m₀) {s : State} (h₀ : Keeps m₀ s₀ s) :
    Keeps m₀ s₀ (rsDigest s) := by
  unfold rsDigest
  try dsimp only
  repeat' first
    | with_reducible assumption
    | exact hM₀.le (by decide)
    | (intro)
    | with_reducible apply keeps_attempt
    | with_reducible apply keeps_digestRefused
    | with_reducible apply keeps_digestWork
    | with_reducible apply keeps_wr
    | with_reducible apply Keeps.ite

theorem keeps_digestDone {m₀ : Nat} {s₀ : State} (hM₀ : Sub 134742057 m₀) {t₀ : State} (h₀ : Keeps m₀ s₀ t₀) :
    Keeps m₀ s₀ (runM (digestDone) t₀).2 := by
  unfold digestDone
  try dsimp only
  repeat' first
    | with_reducible assumption
    | exact hM₀.le (by decide)
    | (intro)
    | with_reducible apply keeps_acknowledged
    | with_reducible apply keeps_codeOf
    | with_reducible apply keeps_digestRefused
    | with_reducible apply keeps_modRes
    | with_reducible apply keeps_wr
    | with_reducible apply Keeps.m_get_bind
    | with_reducible apply Keeps.m_bind
    | with_reducible apply Keeps.m_modify
    | with_reducible apply Keeps.m_waitFor
    | with_reducible apply Keeps.ite

theorem keeps_digestGoesOn {m₀ : Nat} {s₀ : State} (hM₀ : Sub 1544030079 m₀) {s : State} (h₀ : Keeps m₀ s₀ s) :
    Keeps m₀ s₀ (digestGoesOn s) := by
  unfold digestGoesOn
  repeat' first
    | with_reducible assumption
    | exact hM₀.le (by decide)
    | (intro)
    | with_reducible apply keeps_attempt
    | with_reducible apply keeps_digestDone
    | with_reducible apply keeps_digestWork
    | with_reducible apply Keeps.ite

/-! ### Machine/Reduction.lean -/

theorem keeps_setRed {m₀ : Nat} {s₀ : State} {n : Nat} {x : Reduct} (hM₀ : Sub 1048577 m₀) {s : State}
    (h₀ : Keeps m₀ s₀ s) : Keeps m₀ s₀ (setRed n x s) := by
  unfold setRed
  repeat' first
    | with_reducible assumption
    | exact hM₀.le (by decide)
    | with_reducible apply keeps_wr
    | with_reducible apply Keeps.upd_reds

theorem keeps_modRed {m₀ : Nat} {s₀ : State} {n : Nat} {f : Reduct → Reduct} (hM₀ : Sub 1048577 m₀) {s : State}
    (h₀ : Keeps m₀ s₀ s) : Keeps m₀ s₀ (modRed n f s) := by
  unfold modRed
  repeat' first
    | with_reducible assumption
    | with_reducible apply keeps_setRed

theorem keeps_readMaps {m₀ : Nat} {s₀ : State} {n : Nat} (hM₀ : Sub 1476396911 m₀) :
    ∀ (x0 : List Nat) (t₀ : State), Keeps m₀ s₀ t₀ → Keeps m₀ s₀ (runM (readMaps n x0) t₀).2
  | [], t₀, h₀ => by
    unfold readMaps
    try dsimp only
    repeat' first
      | with_reducible assumption
      | (intro)
      | (with_reducible apply keeps_readMaps hM₀)
      | with_reducible apply keeps_busRead
      | with_reducible apply Keeps.m_get_bind
      | with_reducible apply Keeps.m_bind
      | with_reducible apply Keeps.m_pure
  | g :: gs, t₀, h₀ => by
    unfold readMaps
    try dsimp only
    repeat' first
      | with_reducible assumption
      | (intro)
      | (with_reducible apply keeps_readMaps hM₀)
      | with_reducible apply keeps_busRead
      | with_reducible apply Keeps.m_get_bind
      | with_reducible apply Keeps.m_bind
      | with_reducible apply Keeps.m_pure

theorem keeps_readWaits {m₀ : Nat} {s₀ : State} {n : Nat} (hM₀ : Sub 1476396911 m₀) :
    ∀ (x0 : List (RedEntry × Nat)) (t₀ : State), Keeps m₀ s₀ t₀ → Keeps m₀ s₀ (runM (readWaits n x0) t₀).2
  | [], t₀, h₀ => by
    unfold readWaits
    try dsimp only
    repeat' first
      | with_reducible assumption
      | (intro)
      | (with_reducible apply keeps_readWaits hM₀)
      | with_reducible apply keeps_busReadNat
      | with_reducible apply Keeps.m_bind
      | with_reducible apply Keeps.m_pure
  | (e, i) :: es, t₀, h₀ => by
    unfold readWaits
    try dsimp only
    repeat' first
      | with_reducible assumption
      | (intro)
      | (with_reducible apply keeps_readWaits hM₀)
      | with_reducible apply keeps_busReadNat
      | with_reducible apply Keeps.m_bind
      | with_reducible apply Keeps.m_pure

theorem keeps_redFail {m₀ : Nat} {s₀ : State} {n code entry : Nat} (hM₀ : Sub 134217761 m₀) {s : State}
    (h₀ : Keeps m₀ s₀ s) : Keeps m₀ s₀ (redFail n code entry s) := by
  unfold redFail
  try dsimp only
  repeat' first
    | with_reducible assumption
    | exact hM₀.le (by decide)
    | with_reducible apply keeps_logErr
    | with_reducible apply keeps_wr

theorem keeps_redStart {m₀ : Nat} {s₀ : State} {n : Nat} (hM₀ : Sub 1477445487 m₀) {t₀ : State}
    (h₀ : Keeps m₀ s₀ t₀) : Keeps m₀ s₀ (runM (redStart n) t₀).2 := by
  unfold redStart
  try dsimp only
  repeat' first
    | with_reducible assumption
    | exact hM₀.le (by decide)
    | (intro)
    | with_reducible apply keeps_busRead
    | with_reducible apply keeps_catchCode
    | with_reducible apply keeps_readMaps
    | with_reducible apply keeps_readWaits
    | with_reducible apply keeps_redFail
    | with_reducible apply keeps_setRed
    | with_reducible apply keeps_wr
    | with_reducible apply Keeps.m_get_bind
    | with_reducible apply Keeps.m_bind
    | with_reducible apply Keeps.m_pure
    | with_reducible apply Keeps.m_modify
    | with_reducible apply Keeps.m_refuseIf
    | split

theorem keeps_rdEnable {m₀ : Nat} {s₀ : State} {n : Nat} {on : Bool} (hM₀ : Sub 1544554367 m₀) {s : State}
    (h₀ : Keeps m₀ s₀ s) : Keeps m₀ s₀ (rdEnable n on s) := by
  unfold rdEnable
  try dsimp only
  repeat' first
    | with_reducible assumption
    | exact hM₀.le (by decide)
    | (intro)
    | with_reducible apply keeps_attempt
    | with_reducible apply keeps_redStart
    | with_reducible apply keeps_setRed
    | with_reducible apply keeps_wr
    | with_reducible apply Keeps.ite

theorem keeps_completeRun {m₀ : Nat} {s₀ : State} {n : Nat} {r : RedRun} {code : Nat} (hM₀ : Sub 135266345 m₀)
    {s : State} (h₀ : Keeps m₀ s₀ s) : Keeps m₀ s₀ (completeRun n r code s) := by
  unfold completeRun
  try dsimp only
  repeat' first
    | with_reducible assumption
    | exact hM₀.le (by decide)
    | with_reducible apply keeps_bump
    | with_reducible apply keeps_modRed
    | with_reducible apply keeps_pushAdd
    | with_reducible apply keeps_redFail
    | with_reducible apply Keeps.ite
    | split

theorem keeps_putRun {m₀ : Nat} {s₀ : State} {n : Nat} {r : RedRun} (hM₀ : Sub 1048577 m₀) {s : State}
    (h₀ : Keeps m₀ s₀ s) : Keeps m₀ s₀ (putRun n r s) := by
  unfold putRun
  repeat' first
    | with_reducible assumption
    | with_reducible apply keeps_modRed

theorem keeps_tryComplete {m₀ : Nat} {s₀ : State} {n entry step : Nat} (hM₀ : Sub 135266345 m₀) {s : State}
    (h₀ : Keeps m₀ s₀ s) : Keeps m₀ s₀ (tryComplete n entry step s) := by
  unfold tryComplete
  repeat' first
    | with_reducible assumption
    | with_reducible apply keeps_completeRun
    | with_reducible apply Keeps.ite
    | split

theorem keeps_settleRuns {m₀ : Nat} {s₀ : State} (hM₀ : Sub 135266345 m₀) {s : State} (h₀ : Keeps m₀ s₀ s) :
    Keeps m₀ s₀ (settleRuns s) := by
  unfold settleRuns
  repeat' first
    | with_reducible assumption
    | (intro)
    | with_reducible apply keeps_tryComplete
    | with_reducible apply Keeps.foldl

theorem keeps_windowExp {m₀ : Nat} {s₀ : State} {n : Nat} {e : RedEntry} (hM₀ : Sub 1476396911 m₀) {t₀ : State}
    (h₀ : Keeps m₀ s₀ t₀) : Keeps m₀ s₀ (runM (windowExp n e) t₀).2 := by
  unfold windowExp
  try dsimp only
  repeat' first
    | with_reducible assumption
    | (intro)
    | with_reducible apply keeps_readCoarse
    | with_reducible apply Keeps.m_get_bind
    | with_reducible apply Keeps.m_bind
    | with_reducible apply Keeps.m_pure
    | with_reducible apply Keeps.m_ite

theorem keeps_sourceChunk {m₀ : Nat} {s₀ : State} {n : Nat} {e : RedEntry} {coarse j : Nat}
    (hM₀ : Sub 1476396911 m₀) {t₀ : State} (h₀ : Keeps m₀ s₀ t₀) : Keeps m₀ s₀
    (runM (sourceChunk n e coarse j) t₀).2 := by
  unfold sourceChunk
  try dsimp only
  repeat' first
    | with_reducible assumption
    | (intro)
    | with_reducible apply keeps_busRead
    | with_reducible apply Keeps.m_pure_bind
    | with_reducible apply Keeps.m_bind
    | with_reducible apply Keeps.m_pure
    | with_reducible apply Keeps.m_ite
    | with_reducible apply Keeps.m_refuseIf

theorem keeps_loadRecord {m₀ : Nat} {s₀ : State} {n : Nat} {e : RedEntry} {step m : Nat} (hM₀ : Sub 1476396911 m₀)
    {t₀ : State} (h₀ : Keeps m₀ s₀ t₀) : Keeps m₀ s₀ (runM (loadRecord n e step m) t₀).2 := by
  unfold loadRecord
  repeat' first
    | with_reducible assumption
    | (intro)
    | with_reducible apply keeps_busRead
    | with_reducible apply Keeps.m_bind
    | with_reducible apply Keeps.m_pure

theorem keeps_storeRecord {m₀ : Nat} {s₀ : State} {n : Nat} {e : RedEntry} {m : Nat} {r : AccRecord}
    (hM₀ : Sub 1543505791 m₀) {t₀ : State} (h₀ : Keeps m₀ s₀ t₀) : Keeps m₀ s₀ (runM (storeRecord n e m r) t₀).2 := by
  unfold storeRecord
  repeat' first
    | with_reducible assumption
    | with_reducible apply keeps_busWrite

theorem keeps_setMaskBit {m₀ : Nat} {s₀ : State} {n : Nat} {e : RedEntry} {step half r : Nat}
    (hM₀ : Sub 1543505791 m₀) {t₀ : State} (h₀ : Keeps m₀ s₀ t₀) : Keeps m₀ s₀
    (runM (setMaskBit n e step half r) t₀).2 := by
  unfold setMaskBit
  try dsimp only
  repeat' first
    | with_reducible assumption
    | exact hM₀.le (by decide)
    | (intro)
    | with_reducible apply keeps_busReadNat
    | with_reducible apply keeps_busWriteNat
    | with_reducible apply Keeps.m_bind

theorem keeps_setMaskBits {m₀ : Nat} {s₀ : State} {n : Nat} {e : RedEntry} {step half : Nat}
    (hM₀ : Sub 1543505791 m₀) :
    ∀ (x0 : List Nat) (t₀ : State), Keeps m₀ s₀ t₀ → Keeps m₀ s₀ (runM (setMaskBits n e step half x0) t₀).2
  | [], t₀, h₀ => by
    unfold setMaskBits
    repeat' first
      | with_reducible assumption
      | (intro)
      | (with_reducible apply keeps_setMaskBits hM₀)
      | with_reducible apply keeps_setMaskBit
      | with_reducible apply Keeps.m_bind
      | with_reducible apply Keeps.m_pure
  | r :: rs, t₀, h₀ => by
    unfold setMaskBits
    repeat' first
      | with_reducible assumption
      | (intro)
      | (with_reducible apply keeps_setMaskBits hM₀)
      | with_reducible apply keeps_setMaskBit
      | with_reducible apply Keeps.m_bind
      | with_reducible apply Keeps.m_pure

theorem keeps_raiseOnce {m₀ : Nat} {s₀ : State} {n entry : Nat} {step bit : Nat} (hM₀ : Sub 135266337 m₀)
    {s : State} (h₀ : Keeps m₀ s₀ s) : Keeps m₀ s₀ (raiseOnce n entry step bit s) := by
  unfold raiseOnce
  repeat' first
    | with_reducible assumption
    | exact hM₀.le (by decide)
    | with_reducible apply keeps_modRed
    | with_reducible apply keeps_raiseBit
    | with_reducible apply Keeps.ite

theorem keeps_redResult {m₀ : Nat} {s₀ : State} {n : Nat} {data : List Byte} (hM₀ : Sub 1544554495 m₀) {t₀ : State}
    (h₀ : Keeps m₀ s₀ t₀) : Keeps m₀ s₀ (runM (redResult n data) t₀).2 := by
  unfold redResult
  try dsimp only
  repeat' first
    | with_reducible assumption
    | exact hM₀.le (by decide)
    | (intro)
    | with_reducible apply keeps_addAt
    | with_reducible apply keeps_busWrite
    | with_reducible apply keeps_codeOf
    | with_reducible apply keeps_putRun
    | with_reducible apply keeps_tryComplete
    | with_reducible apply keeps_twinStale
    | with_reducible apply keeps_vetoStep
    | with_reducible apply Keeps.m_get_bind
    | with_reducible apply Keeps.m_modify_bind
    | with_reducible apply Keeps.m_pure_bind
    | with_reducible apply Keeps.m_bind
    | with_reducible apply Keeps.m_pure
    | with_reducible apply Keeps.m_modify
    | with_reducible apply Keeps.m_ite
    | with_reducible apply Keeps.ite
    | split

theorem keeps_sendResult {m₀ : Nat} {s₀ : State} {n : Nat} {e : RedEntry} {data : List Byte}
    (hM₀ : Sub 1544554495 m₀) :
    ∀ (x0 : List Nat) (t₀ : State), Keeps m₀ s₀ t₀ → Keeps m₀ s₀ (runM (sendResult n e data x0) t₀).2
  | [], t₀, h₀ => by
    unfold sendResult
    try dsimp only
    repeat' first
      | with_reducible assumption
      | exact hM₀.le (by decide)
      | (intro)
      | (with_reducible apply keeps_sendResult hM₀)
      | with_reducible apply keeps_redResult
      | with_reducible apply keeps_sendMessage
      | with_reducible apply Keeps.m_get_bind
      | with_reducible apply Keeps.m_modify_bind
      | with_reducible apply Keeps.m_bind
      | with_reducible apply Keeps.m_pure
      | with_reducible apply Keeps.m_ite
  | r :: rs, t₀, h₀ => by
    unfold sendResult
    try dsimp only
    repeat' first
      | with_reducible assumption
      | exact hM₀.le (by decide)
      | (intro)
      | (with_reducible apply keeps_sendResult hM₀)
      | with_reducible apply keeps_redResult
      | with_reducible apply keeps_sendMessage
      | with_reducible apply Keeps.m_get_bind
      | with_reducible apply Keeps.m_modify_bind
      | with_reducible apply Keeps.m_bind
      | with_reducible apply Keeps.m_pure
      | with_reducible apply Keeps.m_ite

theorem keeps_endRun {m₀ : Nat} {s₀ : State} {n entry : Nat} {step code : Nat} (hM₀ : Sub 135266345 m₀) {s : State}
    (h₀ : Keeps m₀ s₀ s) : Keeps m₀ s₀ (endRun n entry step code s) := by
  unfold endRun
  repeat' first
    | with_reducible assumption
    | exact hM₀.le (by decide)
    | with_reducible apply keeps_completeRun
    | with_reducible apply keeps_logErr
    | split

theorem keeps_closeChunk {m₀ : Nat} {s₀ : State} {n entry : Nat} {e : RedEntry} {step j : Nat}
    (hM₀ : Sub 1544554495 m₀) {t₀ : State} (h₀ : Keeps m₀ s₀ t₀) : Keeps m₀ s₀
    (runM (closeChunk n entry e step j) t₀).2 := by
  unfold closeChunk
  try dsimp only
  repeat' first
    | with_reducible assumption
    | exact hM₀.le (by decide)
    | (intro)
    | with_reducible apply keeps_bump
    | with_reducible apply keeps_catchCode
    | with_reducible apply keeps_endRun
    | with_reducible apply keeps_loadRecord
    | with_reducible apply keeps_raiseBit
    | with_reducible apply keeps_raiseOnce
    | with_reducible apply keeps_readCoarse
    | with_reducible apply keeps_sendResult
    | with_reducible apply keeps_setMaskBits
    | with_reducible apply keeps_storeRecord
    | with_reducible apply keeps_vetoStep
    | with_reducible apply Keeps.m_get_bind
    | with_reducible apply Keeps.m_modify_bind
    | with_reducible apply Keeps.m_bind
    | with_reducible apply Keeps.m_pure
    | with_reducible apply Keeps.m_modify
    | with_reducible apply Keeps.m_ite
    | with_reducible apply Keeps.ite
    | split

theorem keeps_zeroMasks {m₀ : Nat} {s₀ : State} {n step : Nat} (hM₀ : Sub 1543505791 m₀) :
    ∀ (x0 : List RedEntry) (t₀ : State), Keeps m₀ s₀ t₀ → Keeps m₀ s₀ (runM (zeroMasks n step x0) t₀).2
  | [], t₀, h₀ => by
    unfold zeroMasks
    try dsimp only
    repeat' first
      | with_reducible assumption
      | exact hM₀.le (by decide)
      | (intro)
      | (with_reducible apply keeps_zeroMasks hM₀)
      | with_reducible apply keeps_busWrite
      | with_reducible apply keeps_codeOf
      | with_reducible apply keeps_logErr
      | with_reducible apply Keeps.m_modify_bind
      | with_reducible apply Keeps.m_bind
      | with_reducible apply Keeps.m_pure
      | with_reducible apply Keeps.m_ite
  | e :: es, t₀, h₀ => by
    unfold zeroMasks
    try dsimp only
    repeat' first
      | with_reducible assumption
      | exact hM₀.le (by decide)
      | (intro)
      | (with_reducible apply keeps_zeroMasks hM₀)
      | with_reducible apply keeps_busWrite
      | with_reducible apply keeps_codeOf
      | with_reducible apply keeps_logErr
      | with_reducible apply Keeps.m_modify_bind
      | with_reducible apply Keeps.m_bind
      | with_reducible apply Keeps.m_pure
      | with_reducible apply Keeps.m_ite

theorem keeps_zeroOpened {m₀ : Nat} {s₀ : State} {n : Nat} (hM₀ : Sub 1544554367 m₀) :
    ∀ (x0 : List Nat) (t₀ : State), Keeps m₀ s₀ t₀ → Keeps m₀ s₀ (runM (zeroOpened n x0) t₀).2
  | [], t₀, h₀ => by
    unfold zeroOpened
    repeat' first
      | with_reducible assumption
      | exact hM₀.le (by decide)
      | (intro)
      | (with_reducible apply keeps_zeroOpened hM₀)
      | with_reducible apply keeps_modRed
      | with_reducible apply keeps_zeroMasks
      | with_reducible apply Keeps.m_get_bind
      | with_reducible apply Keeps.m_bind
      | with_reducible apply Keeps.m_modify
  | t :: ts, t₀, h₀ => by
    unfold zeroOpened
    repeat' first
      | with_reducible assumption
      | exact hM₀.le (by decide)
      | (intro)
      | (with_reducible apply keeps_zeroOpened hM₀)
      | with_reducible apply keeps_modRed
      | with_reducible apply keeps_zeroMasks
      | with_reducible apply Keeps.m_get_bind
      | with_reducible apply Keeps.m_bind
      | with_reducible apply Keeps.m_modify

theorem keeps_redReady {m₀ : Nat} {s₀ : State} {n : Nat} (hM₀ : Sub 1544554367 m₀) {t₀ : State}
    (h₀ : Keeps m₀ s₀ t₀) : Keeps m₀ s₀ (runM (redReady n) t₀).2 := by
  unfold redReady
  repeat' first
    | with_reducible assumption
    | with_reducible apply keeps_zeroOpened
    | with_reducible apply Keeps.m_get_bind

theorem keeps_redOpens {m₀ : Nat} {s₀ : State} {step : Nat} (hM₀ : Sub 1544554367 m₀) {s : State}
    (h₀ : Keeps m₀ s₀ s) : Keeps m₀ s₀ (redOpens step s) := by
  unfold redOpens
  try dsimp only
  repeat' first
    | with_reducible assumption
    | exact hM₀.le (by decide)
    | (intro)
    | with_reducible apply keeps_attempt
    | with_reducible apply keeps_modRed
    | with_reducible apply keeps_redReady
    | with_reducible apply keeps_wrAt
    | with_reducible apply Keeps.ite
    | with_reducible apply Keeps.foldl

theorem keeps_redContrib {m₀ : Nat} {s₀ : State} {n : Nat} {data : List Byte} (hM₀ : Sub 1544554495 m₀) {t₀ : State}
    (h₀ : Keeps m₀ s₀ t₀) : Keeps m₀ s₀ (runM (redContrib n data) t₀).2 := by
  unfold redContrib
  try dsimp only
  repeat' first
    | with_reducible assumption
    | exact hM₀.le (by decide)
    | (intro)
    | with_reducible apply keeps_bump
    | with_reducible apply keeps_closeChunk
    | with_reducible apply keeps_loadRecord
    | with_reducible apply keeps_raiseOnce
    | with_reducible apply keeps_redReady
    | with_reducible apply keeps_setMaskBit
    | with_reducible apply keeps_storeRecord
    | with_reducible apply Keeps.m_get_bind
    | with_reducible apply Keeps.m_modify_bind
    | with_reducible apply Keeps.m_bind
    | with_reducible apply Keeps.m_pure
    | with_reducible apply Keeps.m_modify
    | with_reducible apply Keeps.m_ite
    | split

theorem keeps_contribArrives {m₀ : Nat} {s₀ : State} {n : Nat} {data : List Byte} (hM₀ : Sub 1544554495 m₀)
    {t₀ : State} (h₀ : Keeps m₀ s₀ t₀) : Keeps m₀ s₀ (runM (contribArrives n data) t₀).2 := by
  unfold contribArrives
  repeat' first
    | with_reducible assumption
    | exact hM₀.le (by decide)
    | (intro)
    | with_reducible apply keeps_codeOf
    | with_reducible apply keeps_logErr
    | with_reducible apply keeps_redContrib
    | with_reducible apply Keeps.m_bind
    | with_reducible apply Keeps.m_pure
    | with_reducible apply Keeps.m_modify
    | with_reducible apply Keeps.m_ite

theorem keeps_contribMessage {m₀ : Nat} {s₀ : State} {data : List Byte} (hM₀ : Sub 1544554495 m₀) {t₀ : State}
    (h₀ : Keeps m₀ s₀ t₀) : Keeps m₀ s₀ (runM (contribMessage data) t₀).2 := by
  unfold contribMessage
  repeat' first
    | with_reducible assumption
    | with_reducible apply keeps_contribArrives

theorem keeps_resultMessage {m₀ : Nat} {s₀ : State} {data : List Byte} (hM₀ : Sub 1544554495 m₀) {t₀ : State}
    (h₀ : Keeps m₀ s₀ t₀) : Keeps m₀ s₀ (runM (resultMessage data) t₀).2 := by
  unfold resultMessage
  repeat' first
    | with_reducible assumption
    | with_reducible apply keeps_redResult

theorem keeps_closeDue {m₀ : Nat} {s₀ : State} {n entry : Nat} {e : RedEntry} {step : Nat} (hM₀ : Sub 1544554495 m₀) :
    ∀ (x0 : List Nat) (t₀ : State), Keeps m₀ s₀ t₀ → Keeps m₀ s₀ (runM (closeDue n entry e step x0) t₀).2
  | [], t₀, h₀ => by
    unfold closeDue
    try dsimp only
    repeat' first
      | with_reducible assumption
      | exact hM₀.le (by decide)
      | (intro)
      | (with_reducible apply keeps_closeDue hM₀)
      | with_reducible apply keeps_closeChunk
      | with_reducible apply keeps_loadRecord
      | with_reducible apply Keeps.m_get_bind
      | with_reducible apply Keeps.m_bind
      | with_reducible apply Keeps.m_pure
      | with_reducible apply Keeps.m_ite
  | j :: js, t₀, h₀ => by
    unfold closeDue
    try dsimp only
    repeat' first
      | with_reducible assumption
      | exact hM₀.le (by decide)
      | (intro)
      | (with_reducible apply keeps_closeDue hM₀)
      | with_reducible apply keeps_closeChunk
      | with_reducible apply keeps_loadRecord
      | with_reducible apply Keeps.m_get_bind
      | with_reducible apply Keeps.m_bind
      | with_reducible apply Keeps.m_pure
      | with_reducible apply Keeps.m_ite

theorem keeps_sweepRuns {m₀ : Nat} {s₀ : State} {n : Nat} (hM₀ : Sub 1544554495 m₀) :
    ∀ (x0 : List RedRun) (t₀ : State), Keeps m₀ s₀ t₀ → Keeps m₀ s₀ (runM (sweepRuns n x0) t₀).2
  | [], t₀, h₀ => by
    unfold sweepRuns
    try dsimp only
    repeat' first
      | with_reducible assumption
      | exact hM₀.le (by decide)
      | (intro)
      | (with_reducible apply keeps_sweepRuns hM₀)
      | with_reducible apply keeps_closeDue
      | with_reducible apply keeps_codeOf
      | with_reducible apply keeps_completeRun
      | with_reducible apply keeps_logErr
      | with_reducible apply Keeps.m_get_bind
      | with_reducible apply Keeps.m_modify_bind
      | with_reducible apply Keeps.m_bind
      | with_reducible apply Keeps.m_pure
      | with_reducible apply Keeps.m_ite
      | with_reducible apply Keeps.ite
      | split
  | r :: rs, t₀, h₀ => by
    unfold sweepRuns
    try dsimp only
    repeat' first
      | with_reducible assumption
      | exact hM₀.le (by decide)
      | (intro)
      | (with_reducible apply keeps_sweepRuns hM₀)
      | with_reducible apply keeps_closeDue
      | with_reducible apply keeps_codeOf
      | with_reducible apply keeps_completeRun
      | with_reducible apply keeps_logErr
      | with_reducible apply Keeps.m_get_bind
      | with_reducible apply Keeps.m_modify_bind
      | with_reducible apply Keeps.m_bind
      | with_reducible apply Keeps.m_pure
      | with_reducible apply Keeps.m_ite
      | with_reducible apply Keeps.ite
      | split

theorem keeps_redSweep {m₀ : Nat} {s₀ : State} {n : Nat} (hM₀ : Sub 1544554495 m₀) {t₀ : State}
    (h₀ : Keeps m₀ s₀ t₀) : Keeps m₀ s₀ (runM (redSweep n) t₀).2 := by
  unfold redSweep
  repeat' first
    | with_reducible assumption
    | exact hM₀.le (by decide)
    | (intro)
    | with_reducible apply keeps_redReady
    | with_reducible apply keeps_sweepRuns
    | with_reducible apply Keeps.m_get_bind
    | with_reducible apply Keeps.m_bind

theorem keeps_sweepEngine {m₀ : Nat} {s₀ : State} {n : Nat} (hM₀ : Sub 1544554495 m₀) {s : State}
    (h₀ : Keeps m₀ s₀ s) : Keeps m₀ s₀ (sweepEngine n s) := by
  unfold sweepEngine
  repeat' first
    | with_reducible assumption
    | exact hM₀.le (by decide)
    | (intro)
    | with_reducible apply keeps_attempt
    | with_reducible apply keeps_redSweep
    | with_reducible apply keeps_sweepRuns
    | with_reducible apply Keeps.m_get_bind
    | with_reducible apply Keeps.m_bind
    | with_reducible apply Keeps.ite

theorem keeps_redNotice {m₀ : Nat} {s₀ : State} (hM₀ : Sub 1544554495 m₀) {s : State} (h₀ : Keeps m₀ s₀ s) :
    Keeps m₀ s₀ (redNotice s) := by
  unfold redNotice
  repeat' first
    | with_reducible assumption
    | (intro)
    | with_reducible apply keeps_sweepEngine
    | with_reducible apply Keeps.foldl

theorem keeps_chunkDeadline {m₀ : Nat} {s₀ : State} {n step us : Nat} (hM₀ : Sub 1544554495 m₀) {s : State}
    (h₀ : Keeps m₀ s₀ s) : Keeps m₀ s₀ (chunkDeadline n step us s) := by
  unfold chunkDeadline
  try dsimp only
  repeat' first
    | with_reducible assumption
    | exact hM₀.le (by decide)
    | with_reducible apply keeps_modRed
    | with_reducible apply keeps_sweepEngine
    | with_reducible apply Keeps.ite

theorem keeps_redAbort {m₀ : Nat} {s₀ : State} {step : Nat} (hM₀ : Sub 135266345 m₀) {s : State}
    (h₀ : Keeps m₀ s₀ s) : Keeps m₀ s₀ (redAbort step s) := by
  unfold redAbort
  try dsimp only
  repeat' first
    | with_reducible assumption
    | exact hM₀.le (by decide)
    | (intro)
    | with_reducible apply keeps_completeRun
    | with_reducible apply keeps_modRed
    | with_reducible apply Keeps.ite
    | with_reducible apply Keeps.foldl

theorem keeps_redForget {m₀ : Nat} {s₀ : State} {step : Nat} (hM₀ : Sub 1048577 m₀) {s : State} (h₀ : Keeps m₀ s₀ s)
    : Keeps m₀ s₀ (redForget step s) := by
  unfold redForget
  repeat' first
    | with_reducible assumption
    | (intro)
    | with_reducible apply keeps_modRed
    | with_reducible apply Keeps.ite
    | with_reducible apply Keeps.foldl

theorem keeps_sendChunks {m₀ : Nat} {s₀ : State} {n entry : Nat} {e : RedEntry} {step coarse : Nat} {E : Int}
    (hM₀ : Sub 1544554495 m₀) :
    ∀ (x0 : List Nat) (t₀ : State), Keeps m₀ s₀ t₀ → Keeps m₀ s₀ (runM (sendChunks n entry e step coarse E x0) t₀).2
  | [], t₀, h₀ => by
    unfold sendChunks
    try dsimp only
    repeat' first
      | with_reducible assumption
      | exact hM₀.le (by decide)
      | (intro)
      | (with_reducible apply keeps_sendChunks hM₀)
      | with_reducible apply keeps_bump
      | with_reducible apply keeps_redContrib
      | with_reducible apply keeps_sendMessage
      | with_reducible apply keeps_sourceChunk
      | with_reducible apply Keeps.m_get_bind
      | with_reducible apply Keeps.m_modify_bind
      | with_reducible apply Keeps.m_bind
      | with_reducible apply Keeps.m_pure
      | with_reducible apply Keeps.m_ite
  | j :: js, t₀, h₀ => by
    unfold sendChunks
    try dsimp only
    repeat' first
      | with_reducible assumption
      | exact hM₀.le (by decide)
      | (intro)
      | (with_reducible apply keeps_sendChunks hM₀)
      | with_reducible apply keeps_bump
      | with_reducible apply keeps_redContrib
      | with_reducible apply keeps_sendMessage
      | with_reducible apply keeps_sourceChunk
      | with_reducible apply Keeps.m_get_bind
      | with_reducible apply Keeps.m_modify_bind
      | with_reducible apply Keeps.m_bind
      | with_reducible apply Keeps.m_pure
      | with_reducible apply Keeps.m_ite

theorem keeps_runStart {m₀ : Nat} {s₀ : State} {n i : Nat} (hM₀ : Sub 1544554495 m₀) {t₀ : State}
    (h₀ : Keeps m₀ s₀ t₀) : Keeps m₀ s₀ (runM (runStart n i) t₀).2 := by
  unfold runStart
  try dsimp only
  repeat' first
    | with_reducible assumption
    | exact hM₀.le (by decide)
    | (intro)
    | with_reducible apply keeps_busReadNat
    | with_reducible apply keeps_catchCode
    | with_reducible apply keeps_codeOf
    | with_reducible apply keeps_completeRun
    | with_reducible apply keeps_modRed
    | with_reducible apply keeps_readCoarse
    | with_reducible apply keeps_redReady
    | with_reducible apply keeps_sendChunks
    | with_reducible apply keeps_sweepRuns
    | with_reducible apply keeps_windowExp
    | with_reducible apply Keeps.m_get_bind
    | with_reducible apply Keeps.m_modify_bind
    | with_reducible apply Keeps.m_bind
    | with_reducible apply Keeps.m_throw
    | with_reducible apply Keeps.m_modify
    | with_reducible apply Keeps.m_ite
    | with_reducible apply Keeps.m_waitFor
    | split

theorem keeps_forwardFail {m₀ : Nat} {s₀ : State} {n entry : Nat} {step j : Nat} (hM₀ : Sub 135266345 m₀)
    {s : State} (h₀ : Keeps m₀ s₀ s) : Keeps m₀ s₀ (forwardFail n entry step j s) := by
  unfold forwardFail
  try dsimp only
  repeat' first
    | with_reducible assumption
    | exact hM₀.le (by decide)
    | with_reducible apply keeps_tryComplete
    | with_reducible apply keeps_twinStale
    | with_reducible apply Keeps.ite
    | with_reducible apply Keeps.upd_bus

/-! ### Machine/CommitCommands.lean -/

theorem keeps_enterDoubt {m₀ : Nat} {s₀ : State} (hM₀ : Sub 134217761 m₀) {s : State} (h₀ : Keeps m₀ s₀ s) :
    Keeps m₀ s₀ (enterDoubt s) := by
  unfold enterDoubt
  repeat' first
    | with_reducible assumption
    | exact hM₀.le (by decide)
    | with_reducible apply keeps_raiseBit
    | with_reducible apply keeps_wr
    | with_reducible apply Keeps.ite

theorem keeps_doubtIfCut {m₀ : Nat} {s₀ : State} (hM₀ : Sub 134217761 m₀) {s : State} (h₀ : Keeps m₀ s₀ s) :
    Keeps m₀ s₀ (doubtIfCut s) := by
  unfold doubtIfCut
  repeat' first
    | with_reducible assumption
    | with_reducible apply keeps_enterDoubt
    | with_reducible apply Keeps.ite

theorem keeps_afterOpen {m₀ : Nat} {s₀ : State} (hM₀ : Sub 1544554367 m₀) {s : State} (h₀ : Keeps m₀ s₀ s) :
    Keeps m₀ s₀ (afterOpen old s) := by
  unfold afterOpen
  try dsimp only
  repeat' first
    | with_reducible assumption
    | exact hM₀.le (by decide)
    | with_reducible apply keeps_doubtIfCut
    | with_reducible apply keeps_redOpens
    | with_reducible apply Keeps.ite

theorem keeps_enableGen {m₀ : Nat} {s₀ : State} {on : Bool} (hM₀ : Sub 1544556543 m₀) {s : State}
    (h₀ : Keeps m₀ s₀ s) : Keeps m₀ s₀ (enableGen on s) := by
  unfold enableGen
  try dsimp only
  repeat' first
    | with_reducible assumption
    | exact hM₀.le (by decide)
    | with_reducible apply keeps_afterOpen
    | with_reducible apply keeps_genEnable

theorem keeps_openNext {m₀ : Nat} {s₀ : State} (hM₀ : Sub 1544554495 m₀) {s : State} (h₀ : Keeps m₀ s₀ s) :
    Keeps m₀ s₀ (openNext s) := by
  unfold openNext
  repeat' first
    | with_reducible assumption
    | exact hM₀.le (by decide)
    | with_reducible apply keeps_afterOpen
    | with_reducible apply keeps_stepOpenNext

theorem keeps_readMap {m₀ : Nat} {s₀ : State} (hM₀ : Sub 1476396911 m₀) {t₀ : State} (h₀ : Keeps m₀ s₀ t₀) :
    Keeps m₀ s₀ (runM (readMap) t₀).2 := by
  unfold readMap
  try dsimp only
  repeat' first
    | with_reducible assumption
    | exact hM₀.le (by decide)
    | (intro)
    | with_reducible apply keeps_busRead
    | with_reducible apply keeps_catchCode
    | with_reducible apply keeps_logErr
    | with_reducible apply Keeps.m_get_bind
    | with_reducible apply Keeps.m_modify_bind
    | with_reducible apply Keeps.m_bind
    | with_reducible apply Keeps.m_pure
    | split

theorem keeps_sendDecision {m₀ : Nat} {s₀ : State} {d : Decision} {m : Nat} (hM₀ : Sub 134217777 m₀) {s : State}
    (h₀ : Keeps m₀ s₀ s) : Keeps m₀ s₀ (sendDecision d m s) := by
  unfold sendDecision
  repeat' first
    | with_reducible assumption
    | with_reducible apply keeps_sendMessage

theorem keeps_stray {m₀ : Nat} {s₀ : State} (hM₀ : Sub 1 m₀) {s : State} (h₀ : Keeps m₀ s₀ s) : Keeps m₀ s₀
    (stray s) := by
  unfold stray
  repeat' first
    | with_reducible assumption
    | with_reducible apply keeps_bump

theorem keeps_resolveStep {m₀ : Nat} {s₀ : State} {t : Nat} (hM₀ : Sub 1544554495 m₀) {s : State}
    (h₀ : Keeps m₀ s₀ s) : Keeps m₀ s₀ (resolveStep t s) := by
  unfold resolveStep
  try dsimp only
  repeat' first
    | with_reducible assumption
    | exact hM₀.le (by decide)
    | (intro)
    | with_reducible apply keeps_doubtIfCut
    | with_reducible apply keeps_openNext
    | with_reducible apply keeps_redForget
    | with_reducible apply keeps_setPhase
    | with_reducible apply keeps_showStatq
    | with_reducible apply keeps_wr
    | with_reducible apply Keeps.ite
    | with_reducible apply Keeps.foldl
    | with_reducible apply Keeps.upd_gen

theorem keeps_commitStep {m₀ : Nat} {s₀ : State} {t : Nat} (hM₀ : Sub 1545342975 m₀) {s : State}
    (h₀ : Keeps m₀ s₀ s) : Keeps m₀ s₀ (commitStep t s) := by
  unfold commitStep
  try dsimp only
  repeat' first
    | with_reducible assumption
    | exact hM₀.le (by decide)
    | with_reducible apply keeps_bump
    | with_reducible apply keeps_captureCursor
    | with_reducible apply keeps_lifeAddTo
    | with_reducible apply keeps_lossResolve
    | with_reducible apply keeps_raiseBit
    | with_reducible apply keeps_resolveStep
    | with_reducible apply keeps_roundBegin
    | with_reducible apply keeps_wr

theorem keeps_abortStep {m₀ : Nat} {s₀ : State} {d : Decision} (hM₀ : Sub 135266473 m₀) {s : State}
    (h₀ : Keeps m₀ s₀ s) : Keeps m₀ s₀ (abortStep d s) := by
  unfold abortStep
  try dsimp only
  repeat' first
    | with_reducible assumption
    | exact hM₀.le (by decide)
    | (intro)
    | with_reducible apply keeps_redAbort
    | with_reducible apply keeps_showStatq
    | with_reducible apply Keeps.foldl
    | with_reducible apply Keeps.upd_gen

theorem keeps_applyDecision {m₀ : Nat} {s₀ : State} {d : Decision} (hM₀ : Sub 1545342975 m₀) {s : State}
    (h₀ : Keeps m₀ s₀ s) : Keeps m₀ s₀ (applyDecision d s) := by
  unfold applyDecision
  try dsimp only
  repeat' first
    | with_reducible assumption
    | exact hM₀.le (by decide)
    | with_reducible apply keeps_abortStep
    | with_reducible apply keeps_commitStep
    | with_reducible apply keeps_wr
    | with_reducible apply Keeps.ite
    | with_reducible apply Keeps.upd_gen

theorem keeps_abortDiscard {m₀ : Nat} {s₀ : State} (hM₀ : Sub 1544556543 m₀) {s : State} (h₀ : Keeps m₀ s₀ s) :
    Keeps m₀ s₀ (abortDiscard s) := by
  unfold abortDiscard
  try dsimp only
  repeat' first
    | with_reducible assumption
    | exact hM₀.le (by decide)
    | with_reducible apply keeps_bump
    | with_reducible apply keeps_journal
    | with_reducible apply keeps_lifeAddTo
    | with_reducible apply keeps_logErr
    | with_reducible apply keeps_lossResolve
    | with_reducible apply keeps_raiseBit
    | with_reducible apply keeps_resolveStep
    | with_reducible apply keeps_wr
    | with_reducible apply Keeps.ite
    | split

theorem keeps_tellMembers {m₀ : Nat} {s₀ : State} {d : Decision} (hM₀ : Sub 1545342975 m₀) {t₀ : State}
    (h₀ : Keeps m₀ s₀ t₀) : Keeps m₀ s₀ (runM (tellMembers d) t₀).2 := by
  unfold tellMembers
  try dsimp only
  repeat' first
    | with_reducible assumption
    | exact hM₀.le (by decide)
    | (intro)
    | with_reducible apply keeps_applyDecision
    | with_reducible apply keeps_readMap
    | with_reducible apply keeps_sendDecision
    | with_reducible apply Keeps.m_bind
    | with_reducible apply Keeps.m_modify
    | with_reducible apply Keeps.foldl
    | with_reducible apply Keeps.upd_gen

theorem keeps_publish {m₀ : Nat} {s₀ : State} {d : Decision} (hM₀ : Sub 1545342975 m₀) {t₀ : State}
    (h₀ : Keeps m₀ s₀ t₀) : Keeps m₀ s₀ (runM (publish d) t₀).2 := by
  unfold publish
  repeat' first
    | with_reducible assumption
    | exact hM₀.le (by decide)
    | with_reducible apply keeps_sendDecision
    | with_reducible apply keeps_tellMembers
    | with_reducible apply Keeps.m_get_bind
    | with_reducible apply Keeps.m_modify
    | with_reducible apply Keeps.m_ite

theorem keeps_decideStep {m₀ : Nat} {s₀ : State} {d : Decision} (hM₀ : Sub 1545342975 m₀) {t₀ : State}
    (h₀ : Keeps m₀ s₀ t₀) : Keeps m₀ s₀ (runM (decideStep d) t₀).2 := by
  unfold decideStep
  try dsimp only
  repeat' first
    | with_reducible assumption
    | exact hM₀.le (by decide)
    | (intro)
    | with_reducible apply keeps_publish
    | with_reducible apply Keeps.m_get_bind
    | with_reducible apply Keeps.m_set_bind
    | with_reducible apply Keeps.m_bind
    | with_reducible apply Keeps.m_waitFor
    | with_reducible apply Keeps.upd_gen

theorem keeps_coordReady {m₀ : Nat} {s₀ : State} {t rank : Nat} (hM₀ : Sub 1545342975 m₀) {t₀ : State}
    (h₀ : Keeps m₀ s₀ t₀) : Keeps m₀ s₀ (runM (coordReady t rank) t₀).2 := by
  unfold coordReady
  try dsimp only
  repeat' first
    | with_reducible assumption
    | exact hM₀.le (by decide)
    | with_reducible apply keeps_decideStep
    | with_reducible apply Keeps.m_get_bind
    | with_reducible apply Keeps.m_set_bind
    | with_reducible apply Keeps.m_pure
    | with_reducible apply Keeps.m_ite
    | split
    | with_reducible apply Keeps.upd_gen

theorem keeps_coordinator {m₀ : Nat} {s₀ : State} {t : Nat} {m : M Unit} (hM₀ : Sub 1 m₀)
    (h_m : ∀ {t : State}, Keeps m₀ s₀ t → Keeps m₀ s₀ (runM (m) t).2) {t₀ : State} (h₀ : Keeps m₀ s₀ t₀) :
    Keeps m₀ s₀ (runM (coordinator t m) t₀).2 := by
  unfold coordinator
  repeat' first
    | with_reducible assumption
    | with_reducible apply h_m
    | with_reducible apply keeps_stray
    | with_reducible apply Keeps.m_get_bind
    | with_reducible apply Keeps.m_pure
    | with_reducible apply Keeps.m_modify
    | with_reducible apply Keeps.m_ite

theorem keeps_readyArrives {m₀ : Nat} {s₀ : State} {t rank : Nat} (hM₀ : Sub 1545342975 m₀) {t₀ : State}
    (h₀ : Keeps m₀ s₀ t₀) : Keeps m₀ s₀ (runM (readyArrives t rank) t₀).2 := by
  unfold readyArrives
  repeat' first
    | with_reducible assumption
    | exact hM₀.le (by decide)
    | (intro)
    | with_reducible apply keeps_coordReady
    | with_reducible apply keeps_coordinator

theorem keeps_vetoArrives {m₀ : Nat} {s₀ : State} {t code rank : Nat} (hM₀ : Sub 1545342975 m₀) {t₀ : State}
    (h₀ : Keeps m₀ s₀ t₀) : Keeps m₀ s₀ (runM (vetoArrives t code rank) t₀).2 := by
  unfold vetoArrives
  repeat' first
    | with_reducible assumption
    | exact hM₀.le (by decide)
    | (intro)
    | with_reducible apply keeps_coordinator
    | with_reducible apply keeps_decideStep

theorem keeps_commitDeadline {m₀ : Nat} {s₀ : State} {us : Nat} (hM₀ : Sub 1545342975 m₀) {s : State}
    (h₀ : Keeps m₀ s₀ s) : Keeps m₀ s₀ (commitDeadline us s) := by
  unfold commitDeadline
  try dsimp only
  repeat' first
    | with_reducible assumption
    | exact hM₀.le (by decide)
    | (intro)
    | with_reducible apply keeps_attempt
    | with_reducible apply keeps_decideStep
    | with_reducible apply Keeps.ite
    | split

theorem keeps_decisionResend {m₀ : Nat} {s₀ : State} (hM₀ : Sub 134217777 m₀) {s : State} (h₀ : Keeps m₀ s₀ s) :
    Keeps m₀ s₀ (decisionResend s) := by
  unfold decisionResend
  repeat' first
    | with_reducible assumption
    | with_reducible apply keeps_sendDecision
    | with_reducible apply Keeps.ite
    | split

theorem keeps_ackArrives {m₀ : Nat} {s₀ : State} {t : Nat} (hM₀ : Sub 1545342975 m₀) {t₀ : State}
    (h₀ : Keeps m₀ s₀ t₀) : Keeps m₀ s₀ (runM (ackArrives t) t₀).2 := by
  unfold ackArrives
  repeat' first
    | with_reducible assumption
    | exact hM₀.le (by decide)
    | with_reducible apply keeps_stray
    | with_reducible apply keeps_tellMembers
    | with_reducible apply Keeps.m_get_bind
    | with_reducible apply Keeps.m_pure
    | with_reducible apply Keeps.m_modify
    | with_reducible apply Keeps.m_ite
    | split

theorem keeps_sendAck {m₀ : Nat} {s₀ : State} {t : Nat} (hM₀ : Sub 134217777 m₀) {s : State} (h₀ : Keeps m₀ s₀ s) :
    Keeps m₀ s₀ (sendAck t s) := by
  unfold sendAck
  repeat' first
    | with_reducible assumption
    | with_reducible apply keeps_sendMessage
    | split

theorem keeps_decisionArrives {m₀ : Nat} {s₀ : State} {d : Decision} (hM₀ : Sub 1545342975 m₀) {s : State}
    (h₀ : Keeps m₀ s₀ s) : Keeps m₀ s₀ (decisionArrives d s) := by
  unfold decisionArrives
  try dsimp only
  repeat' first
    | with_reducible assumption
    | exact hM₀.le (by decide)
    | with_reducible apply keeps_applyDecision
    | with_reducible apply keeps_sendAck
    | with_reducible apply keeps_stray
    | with_reducible apply Keeps.ite

theorem keeps_deputyAborts {m₀ : Nat} {s₀ : State} {t : Nat} (hM₀ : Sub 1545342975 m₀) {t₀ : State}
    (h₀ : Keeps m₀ s₀ t₀) : Keeps m₀ s₀ (runM (deputyAborts t) t₀).2 := by
  unfold deputyAborts
  try dsimp only
  repeat' first
    | with_reducible assumption
    | exact hM₀.le (by decide)
    | (intro)
    | with_reducible apply keeps_applyDecision
    | with_reducible apply keeps_readMap
    | with_reducible apply keeps_sendDecision
    | with_reducible apply Keeps.m_bind
    | with_reducible apply Keeps.m_modify
    | with_reducible apply Keeps.foldl

theorem keeps_deputyAnswers {m₀ : Nat} {s₀ : State} {d : Decision} {rank : Nat} (hM₀ : Sub 1476396927 m₀)
    {t₀ : State} (h₀ : Keeps m₀ s₀ t₀) : Keeps m₀ s₀ (runM (deputyAnswers d rank) t₀).2 := by
  unfold deputyAnswers
  try dsimp only
  repeat' first
    | with_reducible assumption
    | exact hM₀.le (by decide)
    | (intro)
    | with_reducible apply keeps_readMap
    | with_reducible apply keeps_sendDecision
    | with_reducible apply Keeps.m_bind
    | with_reducible apply Keeps.m_modify
    | with_reducible apply Keeps.ite

theorem keeps_queryArrives {m₀ : Nat} {s₀ : State} {t rank : Nat} (hM₀ : Sub 1545342975 m₀) {t₀ : State}
    (h₀ : Keeps m₀ s₀ t₀) : Keeps m₀ s₀ (runM (queryArrives t rank) t₀).2 := by
  unfold queryArrives
  repeat' first
    | with_reducible assumption
    | exact hM₀.le (by decide)
    | with_reducible apply keeps_deputyAborts
    | with_reducible apply keeps_deputyAnswers
    | with_reducible apply keeps_stray
    | with_reducible apply Keeps.m_get_bind
    | with_reducible apply Keeps.m_pure
    | with_reducible apply Keeps.m_modify
    | with_reducible apply Keeps.m_ite
    | split

theorem keeps_noticeToCoordinator {m₀ : Nat} {s₀ : State} {t module : Nat} (hM₀ : Sub 1545342975 m₀) {t₀ : State}
    (h₀ : Keeps m₀ s₀ t₀) : Keeps m₀ s₀ (runM (noticeToCoordinator t module) t₀).2 := by
  unfold noticeToCoordinator
  repeat' first
    | with_reducible assumption
    | exact hM₀.le (by decide)
    | (intro)
    | with_reducible apply keeps_decideStep
    | with_reducible apply keeps_readMap
    | with_reducible apply keeps_tellMembers
    | with_reducible apply Keeps.m_get_bind
    | with_reducible apply Keeps.m_bind
    | with_reducible apply Keeps.m_pure
    | with_reducible apply Keeps.m_ite
    | split

theorem keeps_noticeToMember {m₀ : Nat} {s₀ : State} {t module : Nat} (hM₀ : Sub 1545342975 m₀) {t₀ : State}
    (h₀ : Keeps m₀ s₀ t₀) : Keeps m₀ s₀ (runM (noticeToMember t module) t₀).2 := by
  unfold noticeToMember
  try dsimp only
  repeat' first
    | with_reducible assumption
    | exact hM₀.le (by decide)
    | with_reducible apply keeps_deputyAborts
    | with_reducible apply keeps_enterDoubt
    | with_reducible apply keeps_sendMessage
    | with_reducible apply Keeps.m_get_bind
    | with_reducible apply Keeps.m_pure
    | with_reducible apply Keeps.m_modify
    | with_reducible apply Keeps.m_ite

theorem keeps_noticeToCommit {m₀ : Nat} {s₀ : State} {module : Nat} (hM₀ : Sub 1545342975 m₀) {t₀ : State}
    (h₀ : Keeps m₀ s₀ t₀) : Keeps m₀ s₀ (runM (noticeToCommit module) t₀).2 := by
  unfold noticeToCommit
  repeat' first
    | with_reducible assumption
    | with_reducible apply keeps_noticeToCoordinator
    | with_reducible apply keeps_noticeToMember
    | with_reducible apply Keeps.m_get_bind
    | with_reducible apply Keeps.m_pure
    | with_reducible apply Keeps.m_ite
    | split

theorem keeps_cutSteps {m₀ : Nat} {s₀ : State} (hM₀ : Sub 128 m₀) {s : State} (h₀ : Keeps m₀ s₀ s) : Keeps m₀ s₀
    (cutSteps s) := by
  unfold cutSteps
  try dsimp only
  repeat' first
    | with_reducible assumption
    | with_reducible apply Keeps.upd_gen

theorem keeps_scaleUpdate {m₀ : Nat} {s₀ : State} {amaxAt rec : Nat} (hM₀ : Sub 1543505791 m₀) {t₀ : State}
    (h₀ : Keeps m₀ s₀ t₀) : Keeps m₀ s₀ (runM (scaleUpdate amaxAt rec) t₀).2 := by
  unfold scaleUpdate
  try dsimp only
  repeat' first
    | with_reducible assumption
    | exact hM₀.le (by decide)
    | (intro)
    | with_reducible apply keeps_busRead
    | with_reducible apply keeps_busReadNat
    | with_reducible apply keeps_busWriteNat
    | with_reducible apply Keeps.m_bind
    | with_reducible apply Keeps.m_pure
    | with_reducible apply Keeps.m_ite
    | split

theorem keeps_scaleUpdates {m₀ : Nat} {s₀ : State} {t : Nat} (hM₀ : Sub 1543505919 m₀) :
    ∀ (x0 : List OpenEntry) (t₀ : State), Keeps m₀ s₀ t₀ → Keeps m₀ s₀ (runM (scaleUpdates t x0) t₀).2
  | [], t₀, h₀ => by
    unfold scaleUpdates
    try dsimp only
    repeat' first
      | with_reducible assumption
      | exact hM₀.le (by decide)
      | (intro)
      | (with_reducible apply keeps_scaleUpdates hM₀)
      | with_reducible apply keeps_codeOf
      | with_reducible apply keeps_refuseEntry
      | with_reducible apply keeps_scaleUpdate
      | with_reducible apply Keeps.m_get_bind
      | with_reducible apply Keeps.m_bind
      | with_reducible apply Keeps.m_pure
      | with_reducible apply Keeps.m_ite
  | e :: es, t₀, h₀ => by
    unfold scaleUpdates
    try dsimp only
    repeat' first
      | with_reducible assumption
      | exact hM₀.le (by decide)
      | (intro)
      | (with_reducible apply keeps_scaleUpdates hM₀)
      | with_reducible apply keeps_codeOf
      | with_reducible apply keeps_refuseEntry
      | with_reducible apply keeps_scaleUpdate
      | with_reducible apply Keeps.m_get_bind
      | with_reducible apply Keeps.m_bind
      | with_reducible apply Keeps.m_pure
      | with_reducible apply Keeps.m_ite

theorem keeps_noteCauses {m₀ : Nat} {s₀ : State} {t : Nat} (hM₀ : Sub 128 m₀) {s : State} (h₀ : Keeps m₀ s₀ s) :
    Keeps m₀ s₀ (noteCauses t s) := by
  unfold noteCauses
  try dsimp only
  repeat' first
    | with_reducible assumption
    | with_reducible apply keeps_vetoStep
    | with_reducible apply Keeps.ite

theorem keeps_evaluateStep {m₀ : Nat} {s₀ : State} {t : Nat} (hM₀ : Sub 1543507967 m₀) {t₀ : State}
    (h₀ : Keeps m₀ s₀ t₀) : Keeps m₀ s₀ (runM (evaluateStep t) t₀).2 := by
  unfold evaluateStep
  try dsimp only
  repeat' first
    | with_reducible assumption
    | exact hM₀.le (by decide)
    | with_reducible apply keeps_lossEvaluate
    | with_reducible apply keeps_scaleUpdates
    | with_reducible apply keeps_vetoStep
    | with_reducible apply Keeps.m_get_bind
    | with_reducible apply Keeps.m_set_bind
    | with_reducible apply Keeps.m_modify
    | with_reducible apply Keeps.m_ite
    | with_reducible apply Keeps.upd_gen

theorem keeps_sendVetoIf {m₀ : Nat} {s₀ : State} {t : Nat} (hM₀ : Sub 1545342975 m₀) {t₀ : State}
    (h₀ : Keeps m₀ s₀ t₀) : Keeps m₀ s₀ (runM (sendVetoIf t) t₀).2 := by
  unfold sendVetoIf
  try dsimp only
  repeat' first
    | with_reducible assumption
    | exact hM₀.le (by decide)
    | with_reducible apply keeps_decideStep
    | with_reducible apply keeps_sendMessage
    | with_reducible apply Keeps.m_get_bind
    | with_reducible apply Keeps.m_set_bind
    | with_reducible apply Keeps.m_pure
    | with_reducible apply Keeps.m_modify
    | with_reducible apply Keeps.m_ite
    | split
    | with_reducible apply Keeps.upd_gen

theorem keeps_sendReady {m₀ : Nat} {s₀ : State} {t : Nat} (hM₀ : Sub 1545342975 m₀) {t₀ : State}
    (h₀ : Keeps m₀ s₀ t₀) : Keeps m₀ s₀ (runM (sendReady t) t₀).2 := by
  unfold sendReady
  try dsimp only
  repeat' first
    | with_reducible assumption
    | exact hM₀.le (by decide)
    | with_reducible apply keeps_coordReady
    | with_reducible apply keeps_sendMessage
    | with_reducible apply keeps_setPhase
    | with_reducible apply Keeps.m_get_bind
    | with_reducible apply Keeps.m_modify_bind
    | with_reducible apply Keeps.m_pure
    | with_reducible apply Keeps.m_modify
    | with_reducible apply Keeps.m_ite
    | with_reducible apply Keeps.upd_gen

theorem keeps_moduleEvaluate {m₀ : Nat} {s₀ : State} {t : Nat} (hM₀ : Sub 1543507967 m₀) {t₀ : State}
    (h₀ : Keeps m₀ s₀ t₀) : Keeps m₀ s₀ (runM (moduleEvaluate t) t₀).2 := by
  unfold moduleEvaluate
  repeat' first
    | with_reducible assumption
    | (intro)
    | with_reducible apply keeps_evaluateStep
    | with_reducible apply Keeps.m_get_bind
    | with_reducible apply Keeps.m_bind
    | with_reducible apply Keeps.m_waitFor

theorem keeps_moduleAnswer {m₀ : Nat} {s₀ : State} {t : Nat} (hM₀ : Sub 1545342975 m₀) {t₀ : State}
    (h₀ : Keeps m₀ s₀ t₀) : Keeps m₀ s₀ (runM (moduleAnswer t) t₀).2 := by
  unfold moduleAnswer
  repeat' first
    | with_reducible assumption
    | exact hM₀.le (by decide)
    | (intro)
    | with_reducible apply keeps_acknowledged
    | with_reducible apply keeps_codeOf
    | with_reducible apply keeps_refuseEntry
    | with_reducible apply keeps_sendReady
    | with_reducible apply keeps_sendVetoIf
    | with_reducible apply Keeps.m_get_bind
    | with_reducible apply Keeps.m_bind
    | with_reducible apply Keeps.m_ite
    | with_reducible apply Keeps.m_waitFor

theorem keeps_moduleReady {m₀ : Nat} {s₀ : State} {t : Nat} (hM₀ : Sub 1545342975 m₀) {s : State}
    (h₀ : Keeps m₀ s₀ s) : Keeps m₀ s₀ (moduleReady t s) := by
  unfold moduleReady
  try dsimp only
  repeat' first
    | with_reducible assumption
    | exact hM₀.le (by decide)
    | (intro)
    | with_reducible apply keeps_attempt
    | with_reducible apply keeps_moduleAnswer
    | with_reducible apply keeps_moduleEvaluate
    | with_reducible apply keeps_noteCauses
    | with_reducible apply Keeps.ite

theorem keeps_rsResolve {m₀ : Nat} {s₀ : State} {v : Nat} (hM₀ : Sub 1545342975 m₀) {s : State} (h₀ : Keeps m₀ s₀ s)
    : Keeps m₀ s₀ (rsResolve v s) := by
  unfold rsResolve
  repeat' first
    | with_reducible assumption
    | exact hM₀.le (by decide)
    | with_reducible apply keeps_applyDecision
    | with_reducible apply keeps_logErr
    | with_reducible apply Keeps.ite
    | split

/-! ### Machine/Wave.lean -/

theorem keeps_markerGo {m₀ : Nat} {s₀ : State} (hM₀ : Sub 1025 m₀) {s : State} (h₀ : Keeps m₀ s₀ s) : Keeps m₀ s₀
    (markerGo s) := by
  unfold markerGo
  try dsimp only
  repeat' first
    | with_reducible assumption
    | exact hM₀.le (by decide)
    | with_reducible apply keeps_bump
    | with_reducible apply keeps_wr
    | with_reducible apply Keeps.ite
    | with_reducible apply Keeps.upd_marker

theorem keeps_markerLatch {m₀ : Nat} {s₀ : State} {page : Nat} (hM₀ : Sub 1803 m₀) {s : State} (h₀ : Keeps m₀ s₀ s)
    : Keeps m₀ s₀ (markerLatch page s) := by
  unfold markerLatch
  repeat' first
    | with_reducible assumption
    | with_reducible apply keeps_latchPage
    | with_reducible apply Keeps.ite

theorem keeps_recordAudits {m₀ : Nat} {s₀ : State} (hM₀ : Sub 134217825 m₀) {s : State} (h₀ : Keeps m₀ s₀ s) :
    Keeps m₀ s₀ (recordAudits s) := by
  unfold recordAudits
  try dsimp only
  repeat' first
    | with_reducible assumption
    | exact hM₀.le (by decide)
    | (intro)
    | with_reducible apply keeps_bump
    | with_reducible apply keeps_journal
    | with_reducible apply keeps_lifeAddTo
    | with_reducible apply keeps_raiseBit
    | with_reducible apply keeps_wr
    | with_reducible apply keeps_wrAt
    | with_reducible apply Keeps.ite
    | with_reducible apply Keeps.foldl
    | split

theorem keeps_markerWaveComplete {m₀ : Nat} {s₀ : State} (hM₀ : Sub 134217825 m₀) {s : State} (h₀ : Keeps m₀ s₀ s) :
    Keeps m₀ s₀ (markerWaveComplete s) := by
  unfold markerWaveComplete
  repeat' first
    | with_reducible assumption
    | exact hM₀.le (by decide)
    | with_reducible apply keeps_raiseBit
    | with_reducible apply keeps_recordAudits
    | with_reducible apply keeps_wr
    | with_reducible apply Keeps.ite

theorem keeps_modLife {m₀ : Nat} {s₀ : State} {f : LifeLog → LifeLog} (hM₀ : Sub 64 m₀) {s : State}
    (h₀ : Keeps m₀ s₀ s) : Keeps m₀ s₀ (modLife f s) := by
  unfold modLife
  repeat' first
    | with_reducible assumption
    | with_reducible apply Keeps.upd_life

theorem keeps_accrue {m₀ : Nat} {s₀ : State} {off bytes : Nat} (hM₀ : Sub 2147483712 m₀) {s : State}
    (h₀ : Keeps m₀ s₀ s) : Keeps m₀ s₀ (accrue off bytes s) := by
  unfold accrue
  try dsimp only
  repeat' first
    | with_reducible assumption
    | exact hM₀.le (by decide)
    | with_reducible apply keeps_lifeAddTo
    | with_reducible apply keeps_retain
    | with_reducible apply Keeps.ite

theorem keeps_lifeSample {m₀ : Nat} {s₀ : State} (hM₀ : Sub 2147483712 m₀) {s : State} (h₀ : Keeps m₀ s₀ s) :
    Keeps m₀ s₀ (lifeSample s) := by
  unfold lifeSample
  try dsimp only
  repeat' first
    | with_reducible assumption
    | exact hM₀.le (by decide)
    | with_reducible apply keeps_accrue
    | with_reducible apply keeps_modLife

theorem keeps_writeSummary {m₀ : Nat} {s₀ : State} (hM₀ : Sub 64 m₀) {s : State} (h₀ : Keeps m₀ s₀ s) : Keeps m₀ s₀
    (writeSummary s) := by
  unfold writeSummary
  try dsimp only
  repeat' first
    | with_reducible assumption
    | with_reducible apply keeps_modLife

theorem keeps_journalAppend {m₀ : Nat} {s₀ : State} (hM₀ : Sub 64 m₀) {s : State} (h₀ : Keeps m₀ s₀ s) : Keeps m₀ s₀
    (journalAppend s) := by
  unfold journalAppend
  try dsimp only
  repeat' first
    | with_reducible assumption
    | with_reducible apply keeps_lifeAddTo
    | with_reducible apply keeps_modLife
    | with_reducible apply Keeps.ite
    | split

end Sys2Proof.Machine
end

