-- ==== Sys2Proof/Laws/KeepsResets.lean ====
section
/-! SUPPORT. What each operation on the keyring, rings, locks, resets, power and the mailbox can do to the state, as `Keeps`. -/

namespace Sys2Proof.Machine

/-! ### Machine/Trust.lean -/

theorem keeps_modTrust {m₀ : Nat} {s₀ : State} {f : Trust → Trust} (hM₀ : Sub 2097152 m₀) {s : State}
    (h₀ : Keeps m₀ s₀ s) : Keeps m₀ s₀ (modTrust f s) := by
  unfold modTrust
  repeat' first
    | with_reducible assumption
    | with_reducible apply Keeps.upd_tr

theorem keeps_trustRefuse {m₀ : Nat} {s₀ : State} {c : Nat} (hM₀ : Sub 134217761 m₀) {s : State}
    (h₀ : Keeps m₀ s₀ s) : Keeps m₀ s₀ (trustRefuse c s) := by
  unfold trustRefuse
  repeat' first
    | with_reducible assumption
    | exact hM₀.le (by decide)
    | with_reducible apply keeps_logErr
    | with_reducible apply keeps_wr

theorem keeps_setStarts {m₀ : Nat} {s₀ : State} {slot n : Nat} (hM₀ : Sub 2147483648 m₀) {s : State}
    (h₀ : Keeps m₀ s₀ s) : Keeps m₀ s₀ (setStarts slot n s) := by
  unfold setStarts
  repeat' first
    | with_reducible assumption
    | with_reducible apply keeps_retain

theorem keeps_markFailed {m₀ : Nat} {s₀ : State} {slot : Nat} (hM₀ : Sub 2097152 m₀) {s : State}
    (h₀ : Keeps m₀ s₀ s) : Keeps m₀ s₀ (markFailed slot s) := by
  unfold markFailed
  repeat' first
    | with_reducible assumption
    | with_reducible apply keeps_modTrust

theorem keeps_enterRecovery {m₀ : Nat} {s₀ : State} (hM₀ : Sub 2097153 m₀) {s : State} (h₀ : Keeps m₀ s₀ s) :
    Keeps m₀ s₀ (enterRecovery s) := by
  unfold enterRecovery
  repeat' first
    | with_reducible assumption
    | exact hM₀.le (by decide)
    | with_reducible apply keeps_modTrust
    | with_reducible apply keeps_wr

theorem keeps_runImage {m₀ : Nat} {s₀ : State} {slot : Nat} {first : Bool} (hM₀ : Sub 2283798561 m₀) {s : State}
    (h₀ : Keeps m₀ s₀ s) : Keeps m₀ s₀ (runImage slot first s) := by
  unfold runImage
  try dsimp only
  repeat' first
    | with_reducible assumption
    | exact hM₀.le (by decide)
    | with_reducible apply keeps_modTrust
    | with_reducible apply keeps_raiseBit
    | with_reducible apply keeps_setStarts
    | with_reducible apply keeps_wr
    | with_reducible apply Keeps.ite

theorem keeps_considerImages {m₀ : Nat} {s₀ : State} {first : Bool} (hM₀ : Sub 2283798561 m₀) :
    ∀ (x0 : List Nat) (x1 : State), Keeps m₀ s₀ x1 → Keeps m₀ s₀ (considerImages first x0 x1)
  | [], s, h₀ => by
    unfold considerImages
    repeat' first
      | with_reducible assumption
      | exact hM₀.le (by decide)
      | (with_reducible apply keeps_considerImages hM₀)
      | with_reducible apply keeps_bump
      | with_reducible apply keeps_enterRecovery
      | with_reducible apply keeps_markFailed
      | with_reducible apply keeps_runImage
      | with_reducible apply keeps_trustRefuse
      | with_reducible apply Keeps.ite
      | split
  | k :: ks, s, h₀ => by
    unfold considerImages
    repeat' first
      | with_reducible assumption
      | exact hM₀.le (by decide)
      | (with_reducible apply keeps_considerImages hM₀)
      | with_reducible apply keeps_bump
      | with_reducible apply keeps_enterRecovery
      | with_reducible apply keeps_markFailed
      | with_reducible apply keeps_runImage
      | with_reducible apply keeps_trustRefuse
      | with_reducible apply Keeps.ite
      | split

theorem keeps_bootSelect {m₀ : Nat} {s₀ : State} (hM₀ : Sub 2283798561 m₀) {s : State} (h₀ : Keeps m₀ s₀ s) :
    Keeps m₀ s₀ (bootSelect s) := by
  unfold bootSelect
  try dsimp only
  repeat' first
    | with_reducible assumption
    | exact hM₀.le (by decide)
    | with_reducible apply keeps_considerImages
    | with_reducible apply keeps_enterRecovery
    | with_reducible apply keeps_modTrust
    | with_reducible apply keeps_trustRefuse
    | with_reducible apply Keeps.ite

theorem keeps_deriveKey {m₀ : Nat} {s₀ : State} (hM₀ : Sub 136314913 m₀) {s : State} (h₀ : Keeps m₀ s₀ s) :
    Keeps m₀ s₀ (deriveKey s) := by
  unfold deriveKey
  try dsimp only
  repeat' first
    | with_reducible assumption
    | exact hM₀.le (by decide)
    | with_reducible apply keeps_modTrust
    | with_reducible apply keeps_raiseBit
    | with_reducible apply keeps_wr
    | with_reducible apply Keeps.ite

theorem keeps_drawBytes {m₀ : Nat} {s₀ : State} {n : Nat} (hM₀ : Sub 268435456 m₀) {s : State} (h₀ : Keeps m₀ s₀ s)
    : Keeps m₀ s₀ (drawBytes n s).2 := by
  unfold drawBytes
  try dsimp only
  repeat' first
    | with_reducible assumption
    | with_reducible apply Keeps.upd_drawn

theorem keeps_keySign {m₀ : Nat} {s₀ : State} {digest : List Byte} (hM₀ : Sub 134217761 m₀) {s : State}
    (h₀ : Keeps m₀ s₀ s) : Keeps m₀ s₀ (keySign digest s).2 := by
  unfold keySign
  repeat' first
    | with_reducible assumption
    | exact hM₀.le (by decide)
    | with_reducible apply keeps_bump
    | with_reducible apply keeps_trustRefuse
    | split

theorem keeps_keyRandom {m₀ : Nat} {s₀ : State} {n : Nat} (hM₀ : Sub 402653217 m₀) {s : State} (h₀ : Keeps m₀ s₀ s)
    : Keeps m₀ s₀ (keyRandom n s).2 := by
  unfold keyRandom
  repeat' first
    | with_reducible assumption
    | exact hM₀.le (by decide)
    | with_reducible apply keeps_drawBytes
    | with_reducible apply keeps_trustRefuse
    | split

theorem keeps_keyExchange {m₀ : Nat} {s₀ : State} {peer : List Byte} (hM₀ : Sub 404750369 m₀) {s : State}
    (h₀ : Keeps m₀ s₀ s) : Keeps m₀ s₀ (keyExchange peer s).2 := by
  unfold keyExchange
  try dsimp only
  repeat' first
    | with_reducible assumption
    | exact hM₀.le (by decide)
    | with_reducible apply keeps_drawBytes
    | with_reducible apply keeps_modTrust
    | with_reducible apply keeps_trustRefuse
    | split

theorem keeps_keyAnswer {m₀ : Nat} {s₀ : State} {r : Option (List Byte) × State} (hM₀ : Sub 2097152 m₀)
    (h₀ : Keeps m₀ s₀ r.2) : Keeps m₀ s₀ (keyAnswer r) := by
  unfold keyAnswer
  split
  · exact keeps_modTrust hM₀ h₀
  · exact keeps_modTrust hM₀ h₀

theorem keeps_spdmSend {m₀ : Nat} {s₀ : State} {kind : Nat} {data : List Byte} (hM₀ : Sub 134217728 m₀) {s : State}
    (h₀ : Keeps m₀ s₀ s) : Keeps m₀ s₀ (spdmSend kind data s) := by
  unfold spdmSend
  repeat' first
    | with_reducible assumption
    | with_reducible apply Keeps.upd_outs

theorem keeps_spdmError {m₀ : Nat} {s₀ : State} {c : Nat} (hM₀ : Sub 134217728 m₀) {s : State} (h₀ : Keeps m₀ s₀ s)
    : Keeps m₀ s₀ (spdmError c s) := by
  unfold spdmError
  repeat' first
    | with_reducible assumption
    | with_reducible apply keeps_spdmSend

theorem keeps_spdmAt {m₀ : Nat} {s₀ : State} {k : Nat} {f : State → State} (hM₀ : Sub 134217728 m₀)
    (h_f : ∀ {t : State}, Keeps m₀ s₀ t → Keeps m₀ s₀ (f t)) {s : State} (h₀ : Keeps m₀ s₀ s) : Keeps m₀ s₀
    (spdmAt k f s) := by
  unfold spdmAt
  repeat' first
    | with_reducible assumption
    | with_reducible apply h_f
    | with_reducible apply keeps_spdmError
    | with_reducible apply Keeps.ite

theorem keeps_endSessions {m₀ : Nat} {s₀ : State} (hM₀ : Sub 2097152 m₀) {s : State} (h₀ : Keeps m₀ s₀ s) :
    Keeps m₀ s₀ (endSessions s) := by
  unfold endSessions
  repeat' first
    | with_reducible assumption
    | with_reducible apply keeps_modTrust

theorem keeps_getVersion {m₀ : Nat} {s₀ : State} (hM₀ : Sub 136314880 m₀) {s : State} (h₀ : Keeps m₀ s₀ s) :
    Keeps m₀ s₀ (getVersion s) := by
  unfold getVersion
  repeat' first
    | with_reducible assumption
    | exact hM₀.le (by decide)
    | with_reducible apply keeps_modTrust
    | with_reducible apply keeps_spdmSend

theorem keeps_getCapabilities {m₀ : Nat} {s₀ : State} (hM₀ : Sub 136314880 m₀) {s : State} (h₀ : Keeps m₀ s₀ s) :
    Keeps m₀ s₀ (getCapabilities s) := by
  unfold getCapabilities
  repeat' first
    | with_reducible assumption
    | exact hM₀.le (by decide)
    | with_reducible apply keeps_modTrust
    | with_reducible apply keeps_spdmSend

theorem keeps_negotiateAlgorithms {m₀ : Nat} {s₀ : State} {common : Bool} (hM₀ : Sub 136314880 m₀) {s : State}
    (h₀ : Keeps m₀ s₀ s) : Keeps m₀ s₀ (negotiateAlgorithms common s) := by
  unfold negotiateAlgorithms
  repeat' first
    | with_reducible assumption
    | exact hM₀.le (by decide)
    | with_reducible apply keeps_modTrust
    | with_reducible apply keeps_spdmError
    | with_reducible apply keeps_spdmSend
    | with_reducible apply Keeps.ite

theorem keeps_spdmSigned {m₀ : Nat} {s₀ : State} {kind : Nat} {data digest : List Byte} (hM₀ : Sub 134217761 m₀)
    {s : State} (h₀ : Keeps m₀ s₀ s) : Keeps m₀ s₀ (spdmSigned kind data digest s) := by
  unfold spdmSigned
  repeat' first
    | with_reducible assumption
    | exact hM₀.le (by decide)
    | with_reducible apply keeps_keySign
    | with_reducible apply keeps_spdmError
    | with_reducible apply keeps_spdmSend
    | (with_reducible refine Keeps.of_pair (by assumption) ?_)
    | split

theorem keeps_spdmNonce {m₀ : Nat} {s₀ : State} {kind : Nat} {data digest : List Byte} (hM₀ : Sub 402653217 m₀)
    {s : State} (h₀ : Keeps m₀ s₀ s) : Keeps m₀ s₀ (spdmNonce kind data digest s) := by
  unfold spdmNonce
  repeat' first
    | with_reducible assumption
    | exact hM₀.le (by decide)
    | with_reducible apply keeps_keyRandom
    | with_reducible apply keeps_spdmError
    | with_reducible apply keeps_spdmSigned
    | (with_reducible refine Keeps.of_pair (by assumption) ?_)
    | split

theorem keeps_getMeasurements {m₀ : Nat} {s₀ : State} {index : Nat} {sign : Bool} {digest : List Byte}
    (hM₀ : Sub 402653217 m₀) {s : State} (h₀ : Keeps m₀ s₀ s) : Keeps m₀ s₀ (getMeasurements index sign digest s) :=
    by
  unfold getMeasurements
  try dsimp only
  repeat' first
    | with_reducible assumption
    | exact hM₀.le (by decide)
    | with_reducible apply keeps_spdmError
    | with_reducible apply keeps_spdmNonce
    | with_reducible apply keeps_spdmSend
    | with_reducible apply Keeps.ite

theorem keeps_spdmKeyExchange {m₀ : Nat} {s₀ : State} {slot : Nat} {peer digest : List Byte}
    (hM₀ : Sub 404750369 m₀) {s : State} (h₀ : Keeps m₀ s₀ s) : Keeps m₀ s₀ (spdmKeyExchange slot peer digest s) := by
  unfold spdmKeyExchange
  try dsimp only
  repeat' first
    | with_reducible assumption
    | exact hM₀.le (by decide)
    | with_reducible apply keeps_keyExchange
    | with_reducible apply keeps_keySign
    | with_reducible apply keeps_modTrust
    | with_reducible apply keeps_spdmError
    | with_reducible apply keeps_spdmSend
    | with_reducible apply Keeps.ite
    | (with_reducible refine Keeps.of_pair (by assumption) ?_)
    | split

theorem keeps_inSession {m₀ : Nat} {s₀ : State} {id : Nat} {established : Bool} {f : Session → State → State}
    (hM₀ : Sub 134217728 m₀) (h_f : ∀ (a₀ : Session) {t : State}, Keeps m₀ s₀ t → Keeps m₀ s₀ (f a₀ t)) {s : State}
    (h₀ : Keeps m₀ s₀ s) : Keeps m₀ s₀ (inSession id established f s) := by
  unfold inSession
  repeat' first
    | with_reducible assumption
    | with_reducible apply h_f
    | with_reducible apply keeps_spdmError
    | with_reducible apply Keeps.ite
    | split

theorem keeps_putSession {m₀ : Nat} {s₀ : State} {x : Session} (hM₀ : Sub 2097152 m₀) {s : State}
    (h₀ : Keeps m₀ s₀ s) : Keeps m₀ s₀ (putSession x s) := by
  unfold putSession
  repeat' first
    | with_reducible assumption
    | with_reducible apply keeps_modTrust

theorem keeps_dropSession {m₀ : Nat} {s₀ : State} {id : Nat} (hM₀ : Sub 2097152 m₀) {s : State} (h₀ : Keeps m₀ s₀ s)
    : Keeps m₀ s₀ (dropSession id s) := by
  unfold dropSession
  repeat' first
    | with_reducible assumption
    | with_reducible apply keeps_modTrust

theorem keeps_spdmFinish {m₀ : Nat} {s₀ : State} {ok : Bool} {x : Session} (hM₀ : Sub 136314881 m₀) {s : State}
    (h₀ : Keeps m₀ s₀ s) : Keeps m₀ s₀ (spdmFinish ok x s) := by
  unfold spdmFinish
  repeat' first
    | with_reducible assumption
    | exact hM₀.le (by decide)
    | with_reducible apply keeps_bump
    | with_reducible apply keeps_dropSession
    | with_reducible apply keeps_putSession
    | with_reducible apply keeps_spdmError
    | with_reducible apply keeps_spdmSend
    | with_reducible apply Keeps.ite

theorem keeps_debugChallenge {m₀ : Nat} {s₀ : State} (hM₀ : Sub 404750369 m₀) {s : State} (h₀ : Keeps m₀ s₀ s) :
    Keeps m₀ s₀ (debugChallenge s) := by
  unfold debugChallenge
  repeat' first
    | with_reducible assumption
    | exact hM₀.le (by decide)
    | with_reducible apply keeps_keyRandom
    | with_reducible apply keeps_modTrust
    | with_reducible apply Keeps.ite
    | (with_reducible refine Keeps.of_pair (by assumption) ?_)
    | split
    | with_reducible apply Keeps.upd_outs

theorem keeps_debugOpen {m₀ : Nat} {s₀ : State} (hM₀ : Sub 136314913 m₀) {s : State} (h₀ : Keeps m₀ s₀ s) :
    Keeps m₀ s₀ (debugOpen s) := by
  unfold debugOpen
  try dsimp only
  repeat' first
    | with_reducible assumption
    | exact hM₀.le (by decide)
    | with_reducible apply keeps_bump
    | with_reducible apply keeps_endSessions
    | with_reducible apply keeps_raiseBit
    | with_reducible apply keeps_wr

theorem keeps_debugAuth {m₀ : Nat} {s₀ : State} {key sig : List Byte} (hM₀ : Sub 136314913 m₀) {s : State}
    (h₀ : Keeps m₀ s₀ s) : Keeps m₀ s₀ (debugAuth key sig s) := by
  unfold debugAuth
  try dsimp only
  repeat' first
    | with_reducible assumption
    | exact hM₀.le (by decide)
    | with_reducible apply keeps_bump
    | with_reducible apply keeps_debugOpen
    | with_reducible apply keeps_modTrust
    | with_reducible apply keeps_trustRefuse
    | with_reducible apply Keeps.ite

theorem keeps_trustReset {m₀ : Nat} {s₀ : State} (hM₀ : Sub 2097153 m₀) {s : State} (h₀ : Keeps m₀ s₀ s) :
    Keeps m₀ s₀ (trustReset s) := by
  unfold trustReset
  repeat' first
    | with_reducible assumption
    | exact hM₀.le (by decide)
    | with_reducible apply keeps_endSessions
    | with_reducible apply keeps_modTrust
    | with_reducible apply keeps_wr

theorem keeps_signedStatement {m₀ : Nat} {s₀ : State} {st : List Byte} (hM₀ : Sub 134217761 m₀) {s : State}
    (h₀ : Keeps m₀ s₀ s) : Keeps m₀ s₀ (signedStatement st s).2 := by
  unfold signedStatement
  repeat' first
    | with_reducible assumption
    | with_reducible apply keeps_keySign
    | (with_reducible refine Keeps.of_pair (by assumption) ?_)
    | split

/-! ### Machine/Rings.lean -/

theorem keeps_ringWr {m₀ : Nat} {s₀ : State} {r : Nat} {f : Field} {v : Nat} (hM₀ : Sub 1 m₀) {s : State}
    (h₀ : Keeps m₀ s₀ s) : Keeps m₀ s₀ (ringWr r f v s) := by
  unfold ringWr
  repeat' first
    | with_reducible assumption
    | with_reducible apply keeps_wrAt

theorem keeps_setEntry {m₀ : Nat} {s₀ : State} {r : Nat} {e : RingEntry} (hM₀ : Sub 32 m₀) {s : State}
    (h₀ : Keeps m₀ s₀ s) : Keeps m₀ s₀ (setEntry r e s) := by
  unfold setEntry
  try dsimp only
  repeat' first
    | with_reducible assumption
    | with_reducible apply Keeps.upd_host

theorem keeps_refuseDoorbell {m₀ : Nat} {s₀ : State} (hM₀ : Sub 134217761 m₀) {s : State} (h₀ : Keeps m₀ s₀ s) :
    Keeps m₀ s₀ (refuseDoorbell s) := by
  unfold refuseDoorbell
  repeat' first
    | with_reducible assumption
    | exact hM₀.le (by decide)
    | with_reducible apply keeps_bump
    | with_reducible apply keeps_logErr

theorem keeps_doorbell {m₀ : Nat} {s₀ : State} {r tail : Nat} (hM₀ : Sub 134217761 m₀) {s : State}
    (h₀ : Keeps m₀ s₀ s) : Keeps m₀ s₀ (doorbell r tail s) := by
  unfold doorbell
  repeat' first
    | with_reducible assumption
    | exact hM₀.le (by decide)
    | with_reducible apply keeps_refuseDoorbell
    | with_reducible apply keeps_ringWr
    | with_reducible apply Keeps.ite

theorem keeps_doorbellWrite {m₀ : Nat} {s₀ : State} {r tail : Nat} (hM₀ : Sub 134217761 m₀) {s : State}
    (h₀ : Keeps m₀ s₀ s) : Keeps m₀ s₀ (doorbellWrite r tail s) := by
  unfold doorbellWrite
  repeat' first
    | with_reducible assumption
    | with_reducible apply keeps_doorbell
    | with_reducible apply keeps_hostFail
    | with_reducible apply Keeps.ite

theorem keeps_ringEnable {m₀ : Nat} {s₀ : State} {r : Nat} {on : Bool} (hM₀ : Sub 1 m₀) {s : State}
    (h₀ : Keeps m₀ s₀ s) : Keeps m₀ s₀ (ringEnable r on s) := by
  unfold ringEnable
  try dsimp only
  repeat' first
    | with_reducible assumption
    | with_reducible apply keeps_ringWr
    | with_reducible apply Keeps.ite

theorem keeps_ringRead {m₀ : Nat} {s₀ : State} {r : Nat} {host : Bool} {a n : Nat} (hM₀ : Sub 1476396911 m₀)
    {t₀ : State} (h₀ : Keeps m₀ s₀ t₀) : Keeps m₀ s₀ (runM (ringRead r host a n) t₀).2 := by
  unfold ringRead
  try dsimp only
  repeat' first
    | with_reducible assumption
    | (intro)
    | with_reducible apply keeps_busRead
    | with_reducible apply keeps_hostRead
    | with_reducible apply Keeps.m_bind
    | with_reducible apply Keeps.m_pure
    | with_reducible apply Keeps.m_ite
    | with_reducible apply Keeps.m_refuseIf

theorem keeps_servedRing {m₀ : Nat} {s₀ : State} {r : Nat} (hM₀ : Sub 32 m₀) {s : State} (h₀ : Keeps m₀ s₀ s) :
    Keeps m₀ s₀ (servedRing r s) := by
  unfold servedRing
  try dsimp only
  repeat' first
    | with_reducible assumption
    | with_reducible apply Keeps.upd_host

theorem keeps_takeRingEntry {m₀ : Nat} {s₀ : State} {r : Nat} (hM₀ : Sub 1476396911 m₀) {t₀ : State}
    (h₀ : Keeps m₀ s₀ t₀) : Keeps m₀ s₀ (runM (takeRingEntry r) t₀).2 := by
  unfold takeRingEntry
  try dsimp only
  repeat' first
    | with_reducible assumption
    | exact hM₀.le (by decide)
    | (intro)
    | with_reducible apply keeps_catchCode
    | with_reducible apply keeps_ringRead
    | with_reducible apply keeps_servedRing
    | with_reducible apply keeps_setEntry
    | with_reducible apply Keeps.m_get_bind
    | with_reducible apply Keeps.m_modify_bind
    | with_reducible apply Keeps.m_bind
    | with_reducible apply Keeps.m_modify
    | with_reducible apply Keeps.m_waitFor
    | split

theorem keeps_endEntry {m₀ : Nat} {s₀ : State} {r c : Nat} (hM₀ : Sub 32 m₀) {t₀ : State} (h₀ : Keeps m₀ s₀ t₀) :
    Keeps m₀ s₀ (runM (endEntry r c) t₀).2 := by
  unfold endEntry
  try dsimp only
  repeat' first
    | with_reducible assumption
    | with_reducible apply keeps_setEntry
    | with_reducible apply Keeps.m_modify

theorem keeps_ringCommand {m₀ : Nat} {s₀ : State} {op r : Nat} {m : RingEntry → M Unit} (hM₀ : Sub 1543505791 m₀)
    (h_m : ∀ (a₀ : RingEntry) {t : State}, Keeps m₀ s₀ t → Keeps m₀ s₀ (runM (m a₀) t).2) {s : State}
    (h₀ : Keeps m₀ s₀ s) : Keeps m₀ s₀ (ringCommand op r m s) := by
  unfold ringCommand
  try dsimp only
  repeat' first
    | with_reducible assumption
    | exact hM₀.le (by decide)
    | (intro)
    | with_reducible apply h_m
    | with_reducible apply keeps_attempt
    | with_reducible apply keeps_takeRingEntry
    | with_reducible apply Keeps.ite

theorem keeps_endsEntry {m₀ : Nat} {s₀ : State} {r : Nat} {m : M Unit} (hM₀ : Sub 32 m₀)
    (h_m : ∀ {t : State}, Keeps m₀ s₀ t → Keeps m₀ s₀ (runM (m) t).2) {t₀ : State} (h₀ : Keeps m₀ s₀ t₀) :
    Keeps m₀ s₀ (runM (endsEntry r m) t₀).2 := by
  unfold endsEntry
  repeat' first
    | with_reducible assumption
    | (intro)
    | with_reducible apply keeps_codeOf
    | with_reducible apply keeps_endEntry
    | with_reducible apply Keeps.m_bind

theorem keeps_wrWait {m₀ : Nat} {s₀ : State} {r : Nat} {e : RingEntry} (hM₀ : Sub 1476396911 m₀) {t₀ : State}
    (h₀ : Keeps m₀ s₀ t₀) : Keeps m₀ s₀ (runM (wrWait r e) t₀).2 := by
  unfold wrWait
  repeat' first
    | with_reducible assumption
    | exact hM₀.le (by decide)
    | (intro)
    | with_reducible apply keeps_endsEntry
    | with_reducible apply keeps_ringRead
    | with_reducible apply Keeps.m_bind
    | with_reducible apply Keeps.m_waitFor

theorem keeps_loadUnit {m₀ : Nat} {s₀ : State} {r : Nat} {g : Stage} {a u : Nat} (hM₀ : Sub 1543546879 m₀)
    {t₀ : State} (h₀ : Keeps m₀ s₀ t₀) : Keeps m₀ s₀ (runM (loadUnit r g a u) t₀).2 := by
  unfold loadUnit
  try dsimp only
  repeat' first
    | with_reducible assumption
    | exact hM₀.le (by decide)
    | (intro)
    | with_reducible apply keeps_apStart
    | with_reducible apply keeps_busRead
    | with_reducible apply keeps_busWriteNow
    | with_reducible apply keeps_hpStart
    | with_reducible apply keeps_ringRead
    | with_reducible apply keeps_schedStart
    | with_reducible apply keeps_setHp
    | with_reducible apply keeps_setPipe
    | with_reducible apply keeps_takeOrd
    | with_reducible apply keeps_wr
    | with_reducible apply Keeps.m_get_bind
    | with_reducible apply Keeps.m_bind
    | with_reducible apply Keeps.m_modify
    | with_reducible apply Keeps.m_refuseIf
    | split

theorem keeps_loadUnits {m₀ : Nat} {s₀ : State} {r : Nat} {g : Stage} (hM₀ : Sub 1543546879 m₀) :
    ∀ (x0 : List (Nat × Nat)) (t₀ : State), Keeps m₀ s₀ t₀ → Keeps m₀ s₀ (runM (loadUnits r g x0) t₀).2
  | [], t₀, h₀ => by
    unfold loadUnits
    repeat' first
      | with_reducible assumption
      | (intro)
      | (with_reducible apply keeps_loadUnits hM₀)
      | with_reducible apply keeps_loadUnit
      | with_reducible apply Keeps.m_bind
      | with_reducible apply Keeps.m_pure
  | (u, i) :: us, t₀, h₀ => by
    unfold loadUnits
    repeat' first
      | with_reducible assumption
      | (intro)
      | (with_reducible apply keeps_loadUnits hM₀)
      | with_reducible apply keeps_loadUnit
      | with_reducible apply Keeps.m_bind
      | with_reducible apply Keeps.m_pure

theorem keeps_loadStages {m₀ : Nat} {s₀ : State} {r : Nat} (hM₀ : Sub 1543546879 m₀) :
    ∀ (x0 : List Stage) (t₀ : State), Keeps m₀ s₀ t₀ → Keeps m₀ s₀ (runM (loadStages r x0) t₀).2
  | [], t₀, h₀ => by
    unfold loadStages
    repeat' first
      | with_reducible assumption
      | (intro)
      | (with_reducible apply keeps_loadStages hM₀)
      | with_reducible apply keeps_loadUnits
      | with_reducible apply Keeps.m_bind
      | with_reducible apply Keeps.m_pure
  | g :: gs, t₀, h₀ => by
    unfold loadStages
    repeat' first
      | with_reducible assumption
      | (intro)
      | (with_reducible apply keeps_loadStages hM₀)
      | with_reducible apply keeps_loadUnits
      | with_reducible apply Keeps.m_bind
      | with_reducible apply Keeps.m_pure

theorem keeps_loadStep {m₀ : Nat} {s₀ : State} {r : Nat} {e : RingEntry} (hM₀ : Sub 1543546879 m₀) {t₀ : State}
    (h₀ : Keeps m₀ s₀ t₀) : Keeps m₀ s₀ (runM (loadStep r e) t₀).2 := by
  unfold loadStep
  try dsimp only
  repeat' first
    | with_reducible assumption
    | exact hM₀.le (by decide)
    | (intro)
    | with_reducible apply keeps_endsEntry
    | with_reducible apply keeps_loadStages
    | with_reducible apply keeps_refuseSome
    | with_reducible apply keeps_ringRead
    | with_reducible apply Keeps.m_bind

theorem keeps_exportData {m₀ : Nat} {s₀ : State} {r gen : Nat} {x : ExportEntry} (hM₀ : Sub 1476396911 m₀)
    {t₀ : State} (h₀ : Keeps m₀ s₀ t₀) : Keeps m₀ s₀ (runM (exportData r gen x) t₀).2 := by
  unfold exportData
  try dsimp only
  repeat' first
    | with_reducible assumption
    | (intro)
    | with_reducible apply keeps_ringRead
    | with_reducible apply Keeps.m_bind
    | with_reducible apply Keeps.m_pure

theorem keeps_exportEntries {m₀ : Nat} {s₀ : State} {r gen : Nat} (hM₀ : Sub 1476396911 m₀) :
    ∀ (x0 : Nat) (x1 : List ExportEntry) (t₀ : State), Keeps m₀ s₀ t₀ → Keeps m₀ s₀
    (runM (exportEntries r gen x0 x1) t₀).2
  | _, [], t₀, h₀ => by
    unfold exportEntries
    try dsimp only
    repeat' first
      | with_reducible assumption
      | (intro)
      | (with_reducible apply keeps_exportEntries hM₀)
      | with_reducible apply keeps_exportData
      | with_reducible apply Keeps.m_bind
      | with_reducible apply Keeps.m_pure
  | off, x :: xs, t₀, h₀ => by
    unfold exportEntries
    try dsimp only
    repeat' first
      | with_reducible assumption
      | (intro)
      | (with_reducible apply keeps_exportEntries hM₀)
      | with_reducible apply keeps_exportData
      | with_reducible apply Keeps.m_bind
      | with_reducible apply Keeps.m_pure

theorem keeps_exportWrite {m₀ : Nat} {s₀ : State} {r : Nat} {host relaxed : Bool} {a : Nat} {d : List Byte}
    (hM₀ : Sub 1543505791 m₀) {t₀ : State} (h₀ : Keeps m₀ s₀ t₀) : Keeps m₀ s₀
    (runM (exportWrite r host relaxed a d) t₀).2 := by
  unfold exportWrite
  repeat' first
    | with_reducible assumption
    | exact hM₀.le (by decide)
    | with_reducible apply keeps_busWrite
    | with_reducible apply keeps_hostWrite
    | with_reducible apply Keeps.m_ite

theorem keeps_exportPack {m₀ : Nat} {s₀ : State} {r : Nat} {e : RingEntry} (hM₀ : Sub 1543505791 m₀) {t₀ : State}
    (h₀ : Keeps m₀ s₀ t₀) : Keeps m₀ s₀ (runM (exportPack r e) t₀).2 := by
  unfold exportPack
  try dsimp only
  repeat' first
    | with_reducible assumption
    | exact hM₀.le (by decide)
    | (intro)
    | with_reducible apply keeps_exportEntries
    | with_reducible apply keeps_exportWrite
    | with_reducible apply keeps_refuseSome
    | with_reducible apply keeps_ringRead
    | with_reducible apply keeps_setEntry
    | with_reducible apply Keeps.m_get_bind
    | with_reducible apply Keeps.m_bind
    | with_reducible apply Keeps.m_modify
    | with_reducible apply Keeps.m_refuseIf

theorem keeps_wrExport {m₀ : Nat} {s₀ : State} {r : Nat} {e : RingEntry} (hM₀ : Sub 1543505791 m₀) {t₀ : State}
    (h₀ : Keeps m₀ s₀ t₀) : Keeps m₀ s₀ (runM (wrExport r e) t₀).2 := by
  unfold wrExport
  repeat' first
    | with_reducible assumption
    | exact hM₀.le (by decide)
    | (intro)
    | with_reducible apply keeps_codeOf
    | with_reducible apply keeps_endEntry
    | with_reducible apply keeps_exportPack
    | with_reducible apply Keeps.m_bind
    | with_reducible apply Keeps.m_pure
    | with_reducible apply Keeps.m_ite

theorem keeps_exportSign {m₀ : Nat} {s₀ : State} {r : Nat} (hM₀ : Sub 1543505791 m₀) {t₀ : State}
    (h₀ : Keeps m₀ s₀ t₀) : Keeps m₀ s₀ (runM (exportSign r) t₀).2 := by
  unfold exportSign
  try dsimp only
  repeat' first
    | with_reducible assumption
    | exact hM₀.le (by decide)
    | (intro)
    | with_reducible apply keeps_acknowledged
    | with_reducible apply keeps_codeOf
    | with_reducible apply keeps_endEntry
    | with_reducible apply keeps_exportWrite
    | with_reducible apply keeps_keySign
    | with_reducible apply keeps_raiseBit
    | with_reducible apply Keeps.m_get_bind
    | with_reducible apply Keeps.m_set_bind
    | with_reducible apply Keeps.m_bind
    | with_reducible apply Keeps.m_pure
    | with_reducible apply Keeps.m_failWith
    | with_reducible apply Keeps.m_modify
    | with_reducible apply Keeps.m_ite
    | with_reducible apply Keeps.m_waitFor
    | split

theorem keeps_recordWrite {m₀ : Nat} {s₀ : State} {r a : Nat} {d : List Byte} (hM₀ : Sub 1543505791 m₀) {t₀ : State}
    (h₀ : Keeps m₀ s₀ t₀) : Keeps m₀ s₀ (runM (recordWrite r a d) t₀).2 := by
  unfold recordWrite
  repeat' first
    | with_reducible assumption
    | exact hM₀.le (by decide)
    | (intro)
    | with_reducible apply keeps_busWrite
    | with_reducible apply keeps_codeOf
    | with_reducible apply keeps_hostWrite
    | with_reducible apply Keeps.m_get_bind
    | with_reducible apply Keeps.m_bind
    | with_reducible apply Keeps.m_pure
    | with_reducible apply Keeps.m_ite

theorem keeps_completeFirst {m₀ : Nat} {s₀ : State} {r : Nat} (hM₀ : Sub 1543505791 m₀) {t₀ : State}
    (h₀ : Keeps m₀ s₀ t₀) : Keeps m₀ s₀ (runM (completeFirst r) t₀).2 := by
  unfold completeFirst
  try dsimp only
  repeat' first
    | with_reducible assumption
    | exact hM₀.le (by decide)
    | (intro)
    | with_reducible apply keeps_acknowledged
    | with_reducible apply keeps_codeOf
    | with_reducible apply keeps_recordWrite
    | with_reducible apply keeps_setEntry
    | with_reducible apply Keeps.m_get_bind
    | with_reducible apply Keeps.m_bind
    | with_reducible apply Keeps.m_modify
    | with_reducible apply Keeps.m_waitFor

theorem keeps_completeSecond {m₀ : Nat} {s₀ : State} {r : Nat} (hM₀ : Sub 1543505791 m₀) {t₀ : State}
    (h₀ : Keeps m₀ s₀ t₀) : Keeps m₀ s₀ (runM (completeSecond r) t₀).2 := by
  unfold completeSecond
  try dsimp only
  repeat' first
    | with_reducible assumption
    | exact hM₀.le (by decide)
    | (intro)
    | with_reducible apply keeps_acknowledged
    | with_reducible apply keeps_codeOf
    | with_reducible apply keeps_recordWrite
    | with_reducible apply keeps_setEntry
    | with_reducible apply Keeps.m_get_bind
    | with_reducible apply Keeps.m_bind
    | with_reducible apply Keeps.m_modify
    | with_reducible apply Keeps.m_waitFor

theorem keeps_retireEntry {m₀ : Nat} {s₀ : State} {r : Nat} {e : RingEntry} (hM₀ : Sub 134217761 m₀) {s : State}
    (h₀ : Keeps m₀ s₀ s) : Keeps m₀ s₀ (retireEntry r e s) := by
  unfold retireEntry
  try dsimp only
  repeat' first
    | with_reducible assumption
    | exact hM₀.le (by decide)
    | with_reducible apply keeps_logErr
    | with_reducible apply keeps_ringWr
    | with_reducible apply keeps_setEntry
    | with_reducible apply keeps_signalVector
    | with_reducible apply Keeps.ite

theorem keeps_completeThird {m₀ : Nat} {s₀ : State} {r : Nat} (hM₀ : Sub 134217769 m₀) {t₀ : State}
    (h₀ : Keeps m₀ s₀ t₀) : Keeps m₀ s₀ (runM (completeThird r) t₀).2 := by
  unfold completeThird
  try dsimp only
  repeat' first
    | with_reducible assumption
    | exact hM₀.le (by decide)
    | (intro)
    | with_reducible apply keeps_acknowledged
    | with_reducible apply keeps_codeOf
    | with_reducible apply keeps_retireEntry
    | with_reducible apply Keeps.m_get_bind
    | with_reducible apply Keeps.m_bind
    | with_reducible apply Keeps.m_modify
    | with_reducible apply Keeps.m_waitFor

theorem keeps_wrCompletion {m₀ : Nat} {s₀ : State} {r : Nat} (hM₀ : Sub 1543505791 m₀) {s : State}
    (h₀ : Keeps m₀ s₀ s) : Keeps m₀ s₀ (wrCompletion r s) := by
  unfold wrCompletion
  repeat' first
    | with_reducible assumption
    | exact hM₀.le (by decide)
    | (intro)
    | with_reducible apply keeps_attempt
    | with_reducible apply keeps_completeFirst
    | with_reducible apply keeps_completeSecond
    | with_reducible apply keeps_completeThird
    | with_reducible apply Keeps.ite

theorem keeps_lockRing {m₀ : Nat} {s₀ : State} {r : Nat} (hM₀ : Sub 1543505791 m₀) {s : State} (h₀ : Keeps m₀ s₀ s)
    : Keeps m₀ s₀ (lockRing r s) := by
  unfold lockRing
  try dsimp only
  repeat' first
    | with_reducible assumption
    | exact hM₀.le (by decide)
    | (intro)
    | with_reducible apply keeps_attempt
    | with_reducible apply keeps_recordWrite
    | with_reducible apply keeps_retireEntry
    | with_reducible apply keeps_ringWr
    | with_reducible apply Keeps.m_bind
    | with_reducible apply Keeps.ite
    | with_reducible apply Keeps.foldl

theorem keeps_lockRings {m₀ : Nat} {s₀ : State} {c : Nat} (hM₀ : Sub 1543505791 m₀) {s : State} (h₀ : Keeps m₀ s₀ s)
    : Keeps m₀ s₀ (lockRings c s) := by
  unfold lockRings
  repeat' first
    | with_reducible assumption
    | (intro)
    | with_reducible apply keeps_lockRing
    | with_reducible apply Keeps.foldl

/-! ### Machine/Locks.lean -/

theorem keeps_modRc {m₀ : Nat} {s₀ : State} {f : Rc → Rc} (hM₀ : Sub 4194304 m₀) {s : State}
    (hf : ∀ x, (f x).extended = x.extended) (h₀ : Keeps m₀ s₀ s) : Keeps m₀ s₀ (modRc f s) :=
  h₀.upd_rc hM₀ (hf _)

theorem keeps_putLock {m₀ : Nat} {s₀ : State} {l : DomLock} (hM₀ : Sub 4194304 m₀) {s : State} (h₀ : Keeps m₀ s₀ s)
    : Keeps m₀ s₀ (putLock l s) := by
  unfold putLock
  try dsimp only
  repeat' first
    | with_reducible assumption
    | exact fun _ => rfl
    | with_reducible apply keeps_modRc

theorem keeps_dropLock {m₀ : Nat} {s₀ : State} {kind inst : Nat} (hM₀ : Sub 4194304 m₀) {s : State}
    (h₀ : Keeps m₀ s₀ s) : Keeps m₀ s₀ (dropLock kind inst s) := by
  unfold dropLock
  repeat' first
    | with_reducible assumption
    | exact fun _ => rfl
    | with_reducible apply keeps_modRc

theorem keeps_lockUnit {m₀ : Nat} {s₀ : State} {page : Nat} (hM₀ : Sub 1544546303 m₀) {s : State}
    (h₀ : Keeps m₀ s₀ s) : Keeps m₀ s₀ (lockUnit page s) := by
  unfold lockUnit
  try dsimp only
  repeat' first
    | with_reducible assumption
    | exact hM₀.le (by decide)
    | with_reducible apply keeps_abandonFill
    | with_reducible apply keeps_haltHp
    | with_reducible apply keeps_haltPipe
    | with_reducible apply keeps_haltTile
    | with_reducible apply keeps_lockChannels
    | with_reducible apply keeps_lockDecoder
    | with_reducible apply keeps_lockEncoder
    | with_reducible apply keeps_lockStep
    | with_reducible apply keeps_lockTransform
    | with_reducible apply keeps_returnPins
    | with_reducible apply keeps_roundFails
    | with_reducible apply keeps_showStatq
    | with_reducible apply Keeps.ite
    | split

theorem keeps_stalePages {m₀ : Nat} {s₀ : State} {pages : List Nat} (hM₀ : Sub 8 m₀) {s : State}
    (h₀ : Keeps m₀ s₀ s) : Keeps m₀ s₀ (stalePages pages s) := by
  unfold stalePages
  repeat' first
    | with_reducible assumption
    | with_reducible apply keeps_staleWhere

theorem keeps_beginLock {m₀ : Nat} {s₀ : State} {kind inst : Nat} (hM₀ : Sub 1548740607 m₀) {s : State}
    (h₀ : Keeps m₀ s₀ s) : Keeps m₀ s₀ (beginLock kind inst s) := by
  unfold beginLock
  try dsimp only
  repeat' first
    | with_reducible assumption
    | exact hM₀.le (by decide)
    | (intro)
    | with_reducible apply keeps_cutSteps
    | with_reducible apply keeps_lockUnit
    | with_reducible apply keeps_putLock
    | with_reducible apply keeps_sendNotice
    | with_reducible apply keeps_stalePages
    | with_reducible apply keeps_wr
    | with_reducible apply Keeps.ite
    | with_reducible apply Keeps.foldl

theorem keeps_lockPump {m₀ : Nat} {s₀ : State} {p : Nat} (hM₀ : Sub 1543509887 m₀) {s : State} (h₀ : Keeps m₀ s₀ s)
    : Keeps m₀ s₀ (lockPump p s) := by
  unfold lockPump
  try dsimp only
  repeat' first
    | with_reducible assumption
    | exact hM₀.le (by decide)
    | (intro)
    | with_reducible apply keeps_attempt
    | with_reducible apply keeps_bump
    | with_reducible apply keeps_freeXfer
    | with_reducible apply keeps_logErr
    | with_reducible apply keeps_recordXfer
    | with_reducible apply keeps_setPump
    | with_reducible apply keeps_showSlots
    | with_reducible apply Keeps.foldl

theorem keeps_lockPort {m₀ : Nat} {s₀ : State} {n : Nat} (hM₀ : Sub 134217785 m₀) {s : State} (h₀ : Keeps m₀ s₀ s) :
    Keeps m₀ s₀ (lockPort n s) := by
  unfold lockPort
  try dsimp only
  repeat' first
    | with_reducible assumption
    | exact hM₀.le (by decide)
    | with_reducible apply keeps_clearPort
    | with_reducible apply keeps_failRequests
    | with_reducible apply keeps_setPortState
    | with_reducible apply keeps_wr

theorem keeps_lockCredits {m₀ : Nat} {s₀ : State} {t : Nat} (hM₀ : Sub 257 m₀) {s : State} (h₀ : Keeps m₀ s₀ s) :
    Keeps m₀ s₀ (lockCredits t s) := by
  unfold lockCredits
  repeat' first
    | with_reducible assumption
    | (intro)
    | with_reducible apply keeps_unreserve
    | with_reducible apply Keeps.foldl

theorem keeps_returnUnit {m₀ : Nat} {s₀ : State} {page : Nat} (hM₀ : Sub 1543509887 m₀) {s : State}
    (h₀ : Keeps m₀ s₀ s) : Keeps m₀ s₀ (returnUnit page s) := by
  unfold returnUnit
  try dsimp only
  repeat' first
    | with_reducible assumption
    | exact hM₀.le (by decide)
    | with_reducible apply keeps_lockCredits
    | with_reducible apply keeps_lockPort
    | with_reducible apply keeps_lockPump
    | with_reducible apply keeps_lockRings
    | split

theorem keeps_enterLocked {m₀ : Nat} {s₀ : State} {kind inst : Nat} (hM₀ : Sub 1547704191 m₀) {s : State}
    (h₀ : Keeps m₀ s₀ s) : Keeps m₀ s₀ (enterLocked kind inst s) := by
  unfold enterLocked
  try dsimp only
  repeat' first
    | with_reducible assumption
    | exact hM₀.le (by decide)
    | exact fun _ => rfl
    | (intro)
    | with_reducible apply keeps_bump
    | with_reducible apply keeps_modRc
    | with_reducible apply keeps_raiseBit
    | with_reducible apply keeps_returnUnit
    | with_reducible apply Keeps.foldl

theorem keeps_openUnit {m₀ : Nat} {s₀ : State} {page : Nat} (hM₀ : Sub 1 m₀) {s : State} (h₀ : Keeps m₀ s₀ s) :
    Keeps m₀ s₀ (openUnit page s) := by
  unfold openUnit
  try dsimp only
  repeat' first
    | with_reducible assumption
    | with_reducible apply keeps_abandonTest
    | with_reducible apply keeps_setPortState
    | split

theorem keeps_sendOwed {m₀ : Nat} {s₀ : State} (hM₀ : Sub 138412049 m₀) {s : State} (h₀ : Keeps m₀ s₀ s) :
    Keeps m₀ s₀ (sendOwed s) := by
  unfold sendOwed
  repeat' first
    | with_reducible assumption
    | exact hM₀.le (by decide)
    | exact fun _ => rfl
    | with_reducible apply keeps_modRc
    | with_reducible apply keeps_sendNotice
    | with_reducible apply Keeps.ite

theorem keeps_openDomain {m₀ : Nat} {s₀ : State} {kind inst : Nat} (hM₀ : Sub 138412049 m₀) {s : State}
    (h₀ : Keeps m₀ s₀ s) : Keeps m₀ s₀ (openDomain kind inst s) := by
  unfold openDomain
  try dsimp only
  repeat' first
    | with_reducible assumption
    | exact hM₀.le (by decide)
    | exact fun _ => rfl
    | (intro)
    | with_reducible apply keeps_dropLock
    | with_reducible apply keeps_modRc
    | with_reducible apply keeps_openUnit
    | with_reducible apply keeps_sendOwed
    | with_reducible apply Keeps.ite
    | with_reducible apply Keeps.foldl

/-! ### Machine/Resets.lean -/

theorem keeps_writeDump {m₀ : Nat} {s₀ : State} {x : DomReset} (hM₀ : Sub 406847585 m₀) {s : State}
    (h₀ : Keeps m₀ s₀ s) : Keeps m₀ s₀ (writeDump x s) := by
  unfold writeDump
  try dsimp only
  repeat' first
    | with_reducible assumption
    | exact hM₀.le (by decide)
    | exact fun _ => rfl
    | with_reducible apply keeps_bump
    | with_reducible apply keeps_journal
    | with_reducible apply keeps_modRc
    | with_reducible apply keeps_raiseBit
    | with_reducible apply Keeps.ite
    | with_reducible apply Keeps.upd_drawn

theorem reset_canonical : State.reset.canonical = true := by decide

theorem keeps_resetRegs {m₀ : Nat} {s₀ : State} {inD : Nat → Bool} (hM₀ : Sub 1 m₀) {s : State} (h₀ : Keeps m₀ s₀ s) :
    Keeps m₀ s₀ (resetRegs inD s) := by
  unfold resetRegs
  exact Keeps.foldl (fun _ _ h => keeps_wr hM₀ h) (h₀.upd_regs hM₀ (rising_filter _))

theorem keeps_clearHub0 {m₀ : Nat} {s₀ : State} (hM₀ : Sub 789653 m₀) {s : State} (h₀ : Keeps m₀ s₀ s) :
    Keeps m₀ s₀ (clearHub0 s) := by
  have h₁ : Keeps m₀ s₀ (discardStaged s) := keeps_discardStaged (hM₀.le (by decide)) h₀
  exact { h₁ with
    gen := .inl (hM₀.one' (i := 7) (by decide))
    mon := .inl (hM₀.one' (i := 11) (by decide))
    marker := .inl (hM₀.one' (i := 10) (by decide))
    cist := .inl (hM₀.one' (i := 18) (by decide))
    res := .inl (hM₀.one' (i := 19) (by decide))
    mem := .inl (hM₀.one' (i := 2) (by decide))
    link := .inl (hM₀.one' (i := 4) (by decide)) }

theorem keeps_clearUnits {m₀ : Nat} {s₀ : State} {inD : Nat → Bool} (hM₀ : Sub 102759869 m₀) {s : State}
    (h₀ : Keeps m₀ s₀ s) :
    Keeps m₀ s₀ (clearUnits inD s) := by
  have h₁ : Keeps m₀ s₀ { s with
      tiles := s.tiles.filter fun e => !inD (pgTile e.1)
      pumps := s.pumps.filter fun e => !inD (pgPump e.1)
      pipes := s.pipes.filter fun e => !inD (pgAttention e.1)
      hpipes := s.hpipes.filter fun e => !inD (pgHandpump e.1)
      decoders := s.decoders.filter fun e => !inD (pgDecoder e.1)
      encoders := s.encoders.filter fun e => !inD (pgEncoder e.1)
      whq := s.whq.filter fun e => !inD (pgWellhead e.1)
      reds := s.reds.filter fun e => !inD (pgReduction e.1)
      gated := s.gated.filter fun e => !inD (pgCluster e.1)
      waking := s.waking.filter fun e => !inD (pgCluster e.1)
      host := { s.host with
        rings := s.host.rings.filter fun e => !inD (pgCp (e.1 / 32))
        served := s.host.served.filter fun e => !inD (pgCp e.1) }
      bus := { s.bus with
        arrived := s.bus.arrived.filter fun r => !inD r.who.page
        writeErr := s.bus.writeErr.filter fun e => !inD e.who.page }
      gen := { s.gen with
        copies := s.gen.copies.filter fun e => !inD (e.1 / 256)
        finished := s.gen.finished.filter fun e => !inD e.1
        took := s.gen.took.filter fun e => !inD e.1
        statq := s.gen.statq.filter fun q => !inD q.page } } :=
  { h₀ with
    tiles := .inl (hM₀.one' (i := 8) (by decide))
    pumps := .inl (hM₀.one' (i := 12) (by decide))
    pipes := .inl (hM₀.one' (i := 13) (by decide))
    hpipes := .inl (hM₀.one' (i := 15) (by decide))
    decoders := .inl (hM₀.one' (i := 16) (by decide))
    encoders := .inl (hM₀.one' (i := 17) (by decide))
    whq := .inl (hM₀.one' (i := 14) (by decide))
    reds := .inl (hM₀.one' (i := 20) (by decide))
    gated := .inl (hM₀.one' (i := 25) (by decide))
    waking := .inl (hM₀.one' (i := 26) (by decide))
    host := .inl (hM₀.one' (i := 5) (by decide))
    bus := .inl (hM₀.one' (i := 3) (by decide))
    gen := .inl (hM₀.one' (i := 7) (by decide)) }
  unfold clearUnits
  exact Keeps.ite (keeps_clearHub0 (hM₀.le (by decide)) h₁) h₁

theorem keeps_loseWells {m₀ : Nat} {s₀ : State} {kind inst : Nat} (hM₀ : Sub 1073741828 m₀) {s : State}
    (h₀ : Keeps m₀ s₀ s) : Keeps m₀ s₀ (loseWells kind inst s) := by
  unfold loseWells
  repeat' first
    | with_reducible assumption
    | with_reducible apply keeps_clearWells
    | split

theorem keeps_clearDomain {m₀ : Nat} {s₀ : State} {kind inst : Nat} (hM₀ : Sub 1176501693 m₀) {s : State}
    (h₀ : Keeps m₀ s₀ s) : Keeps m₀ s₀ (clearDomain kind inst s) := by
  unfold clearDomain
  try dsimp only
  repeat' first
    | with_reducible assumption
    | exact hM₀.le (by decide)
    | with_reducible apply keeps_clearUnits
    | with_reducible apply keeps_loseWells
    | with_reducible apply keeps_resetRegs

theorem keeps_retrain {m₀ : Nat} {s₀ : State} {failed : List Nat} {c : Nat} (hM₀ : Sub 1 m₀) {s : State}
    (h₀ : Keeps m₀ s₀ s) : Keeps m₀ s₀ (retrain failed c s) := by
  unfold retrain
  try dsimp only
  repeat' first
    | with_reducible assumption
    | with_reducible apply keeps_wr
    | with_reducible apply Keeps.ite

theorem keeps_applyMap {m₀ : Nat} {s₀ : State} {e : Nat × Nat} (hM₀ : Sub 16777217 m₀) {s : State}
    (h₀ : Keeps m₀ s₀ s) : Keeps m₀ s₀ (applyMap e s) := by
  unfold applyMap
  try dsimp only
  repeat' first
    | with_reducible assumption
    | exact hM₀.le (by decide)
    | with_reducible apply keeps_wr
    | with_reducible apply Keeps.ite
    | split
    | with_reducible apply Keeps.upd_subst

theorem keeps_applyMaps {m₀ : Nat} {s₀ : State} (hM₀ : Sub 16777217 m₀) {s : State} (h₀ : Keeps m₀ s₀ s) :
    Keeps m₀ s₀ (applyMaps s) := by
  unfold applyMaps
  repeat' first
    | with_reducible assumption
    | (intro)
    | with_reducible apply keeps_applyMap
    | with_reducible apply Keeps.foldl

theorem keeps_retrainDomain {m₀ : Nat} {s₀ : State} {kind inst : Nat} {failed : List Nat} (hM₀ : Sub 1 m₀)
    {s : State} (h₀ : Keeps m₀ s₀ s) : Keeps m₀ s₀ (retrainDomain kind inst failed s) := by
  unfold retrainDomain
  try dsimp only
  repeat' first
    | with_reducible assumption
    | (intro)
    | with_reducible apply keeps_retrain
    | with_reducible apply keeps_setPortState
    | with_reducible apply Keeps.foldl

theorem keeps_restartLockkeeper {m₀ : Nat} {s₀ : State} (hM₀ : Sub 2287992865 m₀) {s : State} (h₀ : Keeps m₀ s₀ s) :
    Keeps m₀ s₀ (restartLockkeeper s) := by
  unfold restartLockkeeper
  try dsimp only
  repeat' first
    | with_reducible assumption
    | exact hM₀.le (by decide)
    | exact fun _ => rfl
    | with_reducible apply keeps_bootSelect
    | with_reducible apply keeps_modRc
    | with_reducible apply keeps_trustReset
    | with_reducible apply keeps_wr
    | with_reducible apply Keeps.ite

theorem keeps_resetDomain {m₀ : Nat} {s₀ : State} {x : DomReset} {failed : List Nat} (hM₀ : Sub 3481271805 m₀)
    {s : State} (h₀ : Keeps m₀ s₀ s) : Keeps m₀ s₀ (resetDomain x failed s) := by
  unfold resetDomain
  try dsimp only
  repeat' first
    | with_reducible assumption
    | exact hM₀.le (by decide)
    | (intro)
    | with_reducible apply keeps_applyMaps
    | with_reducible apply keeps_bump
    | with_reducible apply keeps_clearDomain
    | with_reducible apply keeps_journal
    | with_reducible apply keeps_lifeAdd
    | with_reducible apply keeps_raiseBit
    | with_reducible apply keeps_restartLockkeeper
    | with_reducible apply keeps_retrainDomain
    | with_reducible apply Keeps.ite
    | with_reducible apply Keeps.foldl

theorem keeps_suspendResets {m₀ : Nat} {s₀ : State} (hM₀ : Sub 4194304 m₀) {s : State} (h₀ : Keeps m₀ s₀ s) :
    Keeps m₀ s₀ (suspendResets s) := by
  unfold suspendResets
  try dsimp only
  repeat' first
    | with_reducible assumption
    | exact fun _ => rfl
    | with_reducible apply keeps_modRc

theorem keeps_enterReset {m₀ : Nat} {s₀ : State} {x : DomReset} (hM₀ : Sub 406847585 m₀) {s : State}
    (h₀ : Keeps m₀ s₀ s) : Keeps m₀ s₀ (enterReset x s) := by
  unfold enterReset
  try dsimp only
  repeat' first
    | with_reducible assumption
    | exact hM₀.le (by decide)
    | exact fun _ => rfl
    | with_reducible apply keeps_modRc
    | with_reducible apply keeps_putLock
    | with_reducible apply keeps_suspendResets
    | with_reducible apply keeps_writeDump
    | with_reducible apply Keeps.ite

theorem keeps_kickResets {m₀ : Nat} {s₀ : State} (hM₀ : Sub 406847585 m₀) {s : State} (h₀ : Keeps m₀ s₀ s) :
    Keeps m₀ s₀ (kickResets s) := by
  unfold kickResets
  repeat' first
    | with_reducible assumption
    | (intro)
    | with_reducible apply keeps_enterReset
    | with_reducible apply Keeps.ite
    | with_reducible apply Keeps.foldl

theorem keeps_beginReset {m₀ : Nat} {s₀ : State} {x : DomReset} (hM₀ : Sub 1548740607 m₀) {s : State}
    (h₀ : Keeps m₀ s₀ s) : Keeps m₀ s₀ (beginReset x s) := by
  unfold beginReset
  try dsimp only
  repeat' first
    | with_reducible assumption
    | exact hM₀.le (by decide)
    | exact fun _ => rfl
    | with_reducible apply keeps_beginLock
    | with_reducible apply keeps_kickResets
    | with_reducible apply keeps_modRc
    | with_reducible apply Keeps.ite

theorem keeps_setPstate {m₀ : Nat} {s₀ : State} {v : Nat} (hM₀ : Sub 1 m₀) {s : State} (h₀ : Keeps m₀ s₀ s) :
    Keeps m₀ s₀ (setPstate v s) := by
  unfold setPstate
  repeat' first
    | with_reducible assumption
    | with_reducible apply keeps_wr

theorem keeps_enterM2 {m₀ : Nat} {s₀ : State} (hM₀ : Sub 1180695997 m₀) {s : State} (h₀ : Keeps m₀ s₀ s) :
    Keeps m₀ s₀ (enterM2 s) := by
  unfold enterM2
  try dsimp only
  repeat' first
    | with_reducible assumption
    | exact hM₀.le (by decide)
    | (intro)
    | with_reducible apply keeps_clearDomain
    | with_reducible apply keeps_putLock
    | with_reducible apply keeps_setPstate
    | with_reducible apply keeps_wr
    | with_reducible apply Keeps.foldl

theorem keeps_enterM3 {m₀ : Nat} {s₀ : State} (hM₀ : Sub 1180696573 m₀) {s : State} (h₀ : Keeps m₀ s₀ s) :
    Keeps m₀ s₀ (enterM3 s) := by
  unfold enterM3
  try dsimp only
  repeat' first
    | with_reducible assumption
    | exact hM₀.le (by decide)
    | exact fun _ => rfl
    | with_reducible apply keeps_clearDomain
    | with_reducible apply keeps_clearGddr
    | with_reducible apply keeps_lifeAdd
    | with_reducible apply keeps_modRc
    | with_reducible apply keeps_putLock
    | with_reducible apply keeps_setPstate
    | with_reducible apply keeps_writeSummary
    | with_reducible apply Keeps.upd_link_bus_chanq

theorem keeps_leaveOff {m₀ : Nat} {s₀ : State} (hM₀ : Sub 4194304 m₀) {s : State} (h₀ : Keeps m₀ s₀ s) : Keeps m₀ s₀
    (leaveOff s) := by
  unfold leaveOff
  try dsimp only
  repeat' first
    | with_reducible assumption
    | exact fun _ => rfl
    | with_reducible apply keeps_modRc

theorem keeps_arriveM0 {m₀ : Nat} {s₀ : State} (hM₀ : Sub 134217745 m₀) {s : State} (h₀ : Keeps m₀ s₀ s) :
    Keeps m₀ s₀ (arriveM0 s) := by
  unfold arriveM0
  try dsimp only
  repeat' first
    | with_reducible assumption
    | exact hM₀.le (by decide)
    | (intro)
    | with_reducible apply keeps_sendWaiting
    | with_reducible apply keeps_setPstate
    | with_reducible apply keeps_wr
    | with_reducible apply Keeps.foldl

theorem keeps_settlePower {m₀ : Nat} {s₀ : State} (hM₀ : Sub 1314914301 m₀) {s : State} (h₀ : Keeps m₀ s₀ s) :
    Keeps m₀ s₀ (settlePower s) := by
  unfold settlePower
  try dsimp only
  repeat' first
    | with_reducible assumption
    | exact hM₀.le (by decide)
    | with_reducible apply keeps_arriveM0
    | with_reducible apply keeps_enterM2
    | with_reducible apply keeps_enterM3
    | with_reducible apply keeps_leaveOff
    | with_reducible apply Keeps.ite

theorem keeps_showQueue {m₀ : Nat} {s₀ : State} (hM₀ : Sub 1 m₀) {s : State} (h₀ : Keeps m₀ s₀ s) : Keeps m₀ s₀
    (showQueue s) := by
  unfold showQueue
  repeat' first
    | with_reducible assumption
    | with_reducible apply keeps_wr

theorem keeps_refuseRequest {m₀ : Nat} {s₀ : State} {c : Nat} (hM₀ : Sub 134217761 m₀) {s : State}
    (h₀ : Keeps m₀ s₀ s) : Keeps m₀ s₀ (refuseRequest c s) := by
  unfold refuseRequest
  repeat' first
    | with_reducible assumption
    | exact hM₀.le (by decide)
    | with_reducible apply keeps_logErr
    | with_reducible apply keeps_wr

theorem keeps_ownLock {m₀ : Nat} {s₀ : State} {kind inst : Nat} (hM₀ : Sub 4194304 m₀) {s : State}
    (h₀ : Keeps m₀ s₀ s) : Keeps m₀ s₀ (ownLock kind inst s) := by
  unfold ownLock
  repeat' first
    | with_reducible assumption
    | with_reducible apply keeps_putLock
    | with_reducible apply Keeps.ite

theorem keeps_endRequest {m₀ : Nat} {s₀ : State} (hM₀ : Sub 4194305 m₀) {s : State} (h₀ : Keeps m₀ s₀ s) :
    Keeps m₀ s₀ (endRequest s) := by
  unfold endRequest
  repeat' first
    | with_reducible assumption
    | exact hM₀.le (by decide)
    | exact fun _ => rfl
    | with_reducible apply keeps_modRc
    | with_reducible apply keeps_wr

theorem keeps_runRequest {m₀ : Nat} {s₀ : State} {r : RcReq} (hM₀ : Sub 1548740607 m₀) {s : State}
    (h₀ : Keeps m₀ s₀ s) : Keeps m₀ s₀ (runRequest r s) := by
  unfold runRequest
  try dsimp only
  repeat' first
    | with_reducible assumption
    | exact hM₀.le (by decide)
    | exact fun _ => rfl
    | with_reducible apply keeps_beginLock
    | with_reducible apply keeps_beginReset
    | with_reducible apply keeps_endRequest
    | with_reducible apply keeps_modRc
    | with_reducible apply keeps_openDomain
    | with_reducible apply keeps_ownLock
    | with_reducible apply keeps_refuseRequest
    | with_reducible apply keeps_wr
    | with_reducible apply Keeps.ite
    | split

theorem keeps_runQueue {m₀ : Nat} {s₀ : State} (hM₀ : Sub 1548740607 m₀) :
    ∀ (x0 : Nat) (x1 : State), Keeps m₀ s₀ x1 → Keeps m₀ s₀ (runQueue x0 x1)
  | 0, s, h₀ => by
    unfold runQueue
    repeat' first
      | with_reducible assumption
      | exact hM₀.le (by decide)
      | exact fun _ => rfl
      | (with_reducible apply keeps_runQueue hM₀)
      | with_reducible apply keeps_modRc
      | with_reducible apply keeps_runRequest
      | with_reducible apply Keeps.ite
      | split
  | n + 1, s, h₀ => by
    unfold runQueue
    repeat' first
      | with_reducible assumption
      | exact hM₀.le (by decide)
      | exact fun _ => rfl
      | (with_reducible apply keeps_runQueue hM₀)
      | with_reducible apply keeps_modRc
      | with_reducible apply keeps_runRequest
      | with_reducible apply Keeps.ite
      | split

theorem keeps_settleDomains {m₀ : Nat} {s₀ : State} (hM₀ : Sub 1583349759 m₀) {s : State} (h₀ : Keeps m₀ s₀ s) :
    Keeps m₀ s₀ (settleDomains s) := by
  unfold settleDomains
  try dsimp only
  repeat' first
    | with_reducible assumption
    | exact hM₀.le (by decide)
    | with_reducible apply keeps_endRequest
    | with_reducible apply keeps_kickResets
    | with_reducible apply keeps_releaseHeld
    | with_reducible apply keeps_runQueue
    | with_reducible apply keeps_settlePower
    | with_reducible apply keeps_showQueue
    | with_reducible apply Keeps.ite
    | split

theorem keeps_rcRequest {m₀ : Nat} {s₀ : State} {r : RcReq} (hM₀ : Sub 1583349759 m₀) {s : State}
    (h₀ : Keeps m₀ s₀ s) : Keeps m₀ s₀ (rcRequest r s) := by
  unfold rcRequest
  repeat' first
    | with_reducible assumption
    | exact hM₀.le (by decide)
    | exact fun _ => rfl
    | with_reducible apply keeps_modRc
    | with_reducible apply keeps_settleDomains

theorem keeps_lockDrained {m₀ : Nat} {s₀ : State} {kind inst : Nat} (hM₀ : Sub 1583349759 m₀) {s : State}
    (h₀ : Keeps m₀ s₀ s) : Keeps m₀ s₀ (lockDrained kind inst s) := by
  unfold lockDrained
  repeat' first
    | with_reducible assumption
    | exact hM₀.le (by decide)
    | with_reducible apply keeps_enterLocked
    | with_reducible apply keeps_settleDomains
    | with_reducible apply Keeps.ite

theorem keeps_drainWellhead {m₀ : Nat} {s₀ : State} {n : Nat} (hM₀ : Sub 1543522175 m₀) {s : State}
    (h₀ : Keeps m₀ s₀ s) : Keeps m₀ s₀ (drainWellhead n s) := by
  unfold drainWellhead
  try dsimp only
  repeat' first
    | with_reducible assumption
    | exact hM₀.le (by decide)
    | (intro)
    | with_reducible apply keeps_attempt
    | with_reducible apply keeps_showWellhead
    | with_reducible apply keeps_whRefuse
    | with_reducible apply Keeps.foldl
    | with_reducible apply Keeps.upd_whq

theorem keeps_drainExpiry {m₀ : Nat} {s₀ : State} {kind inst : Nat} (hM₀ : Sub 1583349759 m₀) {s : State}
    (h₀ : Keeps m₀ s₀ s) : Keeps m₀ s₀ (drainExpiry kind inst s) := by
  unfold drainExpiry
  try dsimp only
  repeat' first
    | with_reducible assumption
    | exact hM₀.le (by decide)
    | (intro)
    | with_reducible apply keeps_bump
    | with_reducible apply keeps_drainWellhead
    | with_reducible apply keeps_enterLocked
    | with_reducible apply keeps_settleDomains
    | with_reducible apply keeps_wr
    | with_reducible apply Keeps.ite
    | with_reducible apply Keeps.foldl

theorem keeps_coldOpen {m₀ : Nat} {s₀ : State} {failed : List Nat} (hM₀ : Sub 155189265 m₀) {s : State}
    (h₀ : Keeps m₀ s₀ s) : Keeps m₀ s₀ (coldOpen failed s) := by
  unfold coldOpen
  repeat' first
    | with_reducible assumption
    | exact hM₀.le (by decide)
    | with_reducible apply keeps_applyMaps
    | with_reducible apply keeps_openDomain
    | with_reducible apply keeps_retrainDomain

theorem keeps_endReset {m₀ : Nat} {s₀ : State} {x : DomReset} {failed : List Nat} (hM₀ : Sub 3481271805 m₀)
    {s : State} (h₀ : Keeps m₀ s₀ s) : Keeps m₀ s₀ (endReset x failed s) := by
  unfold endReset
  try dsimp only
  repeat' first
    | with_reducible assumption
    | exact hM₀.le (by decide)
    | exact fun _ => rfl
    | with_reducible apply keeps_coldOpen
    | with_reducible apply keeps_modRc
    | with_reducible apply keeps_openDomain
    | with_reducible apply keeps_putLock
    | with_reducible apply keeps_resetDomain
    | with_reducible apply Keeps.ite

theorem keeps_resetComplete {m₀ : Nat} {s₀ : State} {kind inst : Nat} {failed : List Nat} (hM₀ : Sub 3749707775 m₀)
    {s : State} (h₀ : Keeps m₀ s₀ s) : Keeps m₀ s₀ (resetComplete kind inst failed s) := by
  unfold resetComplete
  repeat' first
    | with_reducible assumption
    | exact hM₀.le (by decide)
    | with_reducible apply keeps_endReset
    | with_reducible apply keeps_settleDomains
    | with_reducible apply Keeps.ite
    | split

theorem keeps_resetEndpoint {m₀ : Nat} {s₀ : State} (hM₀ : Sub 33 m₀) {s : State} (h₀ : Keeps m₀ s₀ s) :
    Keeps m₀ s₀ (resetEndpoint s) := by
  exact Keeps.upd_host (t := { s with regs := s.regs.filter _ }) (hM₀.le (by decide))
    (h₀.upd_regs (hM₀.le (by decide)) (rising_filter _))

theorem keeps_resetModule {m₀ : Nat} {s₀ : State} {cause : Nat} (hM₀ : Sub 1583349759 m₀) {s : State}
    (h₀ : Keeps m₀ s₀ s) : Keeps m₀ s₀ (resetModule cause s) := by
  unfold resetModule
  repeat' first
    | with_reducible assumption
    | exact hM₀.le (by decide)
    | with_reducible apply keeps_beginReset
    | with_reducible apply keeps_settleDomains
    | with_reducible apply Keeps.ite

theorem keeps_perst {m₀ : Nat} {s₀ : State} (hM₀ : Sub 1583349759 m₀) {s : State} (h₀ : Keeps m₀ s₀ s) : Keeps m₀ s₀
    (perst s) := by
  unfold perst
  try dsimp only
  repeat' first
    | with_reducible assumption
    | exact hM₀.le (by decide)
    | with_reducible apply keeps_resetEndpoint
    | with_reducible apply keeps_resetModule
    | with_reducible apply Keeps.upd_host

theorem keeps_coldState {m₀ : Nat} {s₀ : State} (hM₀ : Sub 4294967295 m₀) {s : State} (h₀ : Keeps m₀ s₀ s) :
    Keeps m₀ s₀ (coldState s) := 
  { h₀ with
    regs := .inl (hM₀.one' (i := 0) (by decide))
    latched := .inl (hM₀.one' (i := 1) (by decide))
    mem := .inl (hM₀.one' (i := 2) (by decide))
    bus := .inl (hM₀.one' (i := 3) (by decide))
    link := .inl (hM₀.one' (i := 4) (by decide))
    host := .inl (hM₀.one' (i := 5) (by decide))
    life := .inl (hM₀.one' (i := 6) (by decide))
    gen := .inl (hM₀.one' (i := 7) (by decide))
    tiles := .inl (hM₀.one' (i := 8) (by decide))
    chanq := .inl (hM₀.one' (i := 9) (by decide))
    marker := .inl (hM₀.one' (i := 10) (by decide))
    mon := .inl (hM₀.one' (i := 11) (by decide))
    pumps := .inl (hM₀.one' (i := 12) (by decide))
    pipes := .inl (hM₀.one' (i := 13) (by decide))
    whq := .inl (hM₀.one' (i := 14) (by decide))
    hpipes := .inl (hM₀.one' (i := 15) (by decide))
    decoders := .inl (hM₀.one' (i := 16) (by decide))
    encoders := .inl (hM₀.one' (i := 17) (by decide))
    cist := .inl (hM₀.one' (i := 18) (by decide))
    res := .inl (hM₀.one' (i := 19) (by decide))
    reds := .inl (hM₀.one' (i := 20) (by decide))
    tr := .inl (hM₀.one' (i := 21) (by decide))
    rc := .inl (hM₀.one' (i := 22) (by decide))
    faulty := .inl (hM₀.one' (i := 23) (by decide))
    subst := .inl (hM₀.one' (i := 24) (by decide))
    gated := .inl (hM₀.one' (i := 25) (by decide))
    waking := .inl (hM₀.one' (i := 26) (by decide))
    powered := .inl (hM₀.one' (i := 29) (by decide))
    data := .inl (hM₀.one' (i := 30) (by decide))
    retention := .inl (hM₀.one' (i := 31) (by decide))
    canonical := fun _ => reset_canonical }

theorem keeps_coldPowerUp {m₀ : Nat} {s₀ : State} {failed : List Nat} (hM₀ : Sub 4294967295 m₀) {s : State}
    (h₀ : Keeps m₀ s₀ s) : Keeps m₀ s₀ (coldPowerUp failed s) := by
  unfold coldPowerUp
  try dsimp only
  repeat' first
    | with_reducible assumption
    | exact hM₀.le (by decide)
    | exact fun _ => rfl
    | with_reducible apply keeps_bootSelect
    | with_reducible apply keeps_coldState
    | with_reducible apply keeps_deriveKey
    | with_reducible apply keeps_endReset
    | with_reducible apply keeps_journal
    | with_reducible apply keeps_lifeAdd
    | with_reducible apply keeps_modRc
    | with_reducible apply keeps_wr
    | with_reducible apply Keeps.ite

theorem keeps_heartbeat {m₀ : Nat} {s₀ : State} {phase : Nat} (hM₀ : Sub 2147483649 m₀) {s : State}
    (h₀ : Keeps m₀ s₀ s) : Keeps m₀ s₀ (heartbeat phase s) := by
  unfold heartbeat
  try dsimp only
  repeat' first
    | with_reducible assumption
    | exact hM₀.le (by decide)
    | with_reducible apply keeps_setStarts
    | with_reducible apply keeps_wr
    | with_reducible apply Keeps.ite

theorem keeps_watchdog {m₀ : Nat} {s₀ : State} (hM₀ : Sub 1583349759 m₀) {s : State} (h₀ : Keeps m₀ s₀ s) :
    Keeps m₀ s₀ (watchdog s) := by
  unfold watchdog
  try dsimp only
  repeat' first
    | with_reducible assumption
    | exact hM₀.le (by decide)
    | with_reducible apply keeps_beginReset
    | with_reducible apply keeps_bump
    | with_reducible apply keeps_journal
    | with_reducible apply keeps_raiseBit
    | with_reducible apply keeps_settleDomains
    | with_reducible apply keeps_wr
    | with_reducible apply Keeps.ite

/-! ### Machine/Power.lean -/

theorem keeps_pstateTarget {m₀ : Nat} {s₀ : State} {v : Nat} (hM₀ : Sub 1583349759 m₀) {s : State}
    (h₀ : Keeps m₀ s₀ s) : Keeps m₀ s₀ (pstateTarget v s) := by
  unfold pstateTarget
  repeat' first
    | with_reducible assumption
    | exact hM₀.le (by decide)
    | with_reducible apply keeps_logErr
    | with_reducible apply keeps_settleDomains
    | with_reducible apply keeps_wr
    | with_reducible apply Keeps.ite

theorem keeps_showM1 {m₀ : Nat} {s₀ : State} (hM₀ : Sub 1 m₀) {s : State} (h₀ : Keeps m₀ s₀ s) : Keeps m₀ s₀
    (showM1 s) := by
  unfold showM1
  repeat' first
    | with_reducible assumption
    | with_reducible apply keeps_setPstate
    | with_reducible apply Keeps.ite

theorem keeps_clusterGate {m₀ : Nat} {s₀ : State} {k : Nat} (hM₀ : Sub 33554433 m₀) {s : State} (h₀ : Keeps m₀ s₀ s)
    : Keeps m₀ s₀ (clusterGate k s) := by
  unfold clusterGate
  repeat' first
    | with_reducible assumption
    | exact hM₀.le (by decide)
    | with_reducible apply keeps_showM1
    | with_reducible apply Keeps.ite
    | with_reducible apply Keeps.upd_gated

theorem keeps_clusterWake {m₀ : Nat} {s₀ : State} {k : Nat} (hM₀ : Sub 1577060223 m₀) {s : State}
    (h₀ : Keeps m₀ s₀ s) : Keeps m₀ s₀ (clusterWake k s) := by
  unfold clusterWake
  try dsimp only
  repeat' first
    | with_reducible assumption
    | exact hM₀.le (by decide)
    | with_reducible apply keeps_releaseHeld
    | with_reducible apply keeps_showM1
    | with_reducible apply keeps_wr
    | with_reducible apply Keeps.ite
    | with_reducible apply Keeps.upd_gated_waking

theorem keeps_tileMapWrite {m₀ : Nat} {s₀ : State} {k active logical : Nat} (hM₀ : Sub 134217761 m₀) {s : State}
    (h₀ : Keeps m₀ s₀ s) : Keeps m₀ s₀ (tileMapWrite k active logical s) := by
  unfold tileMapWrite
  try dsimp only
  repeat' first
    | with_reducible assumption
    | exact hM₀.le (by decide)
    | with_reducible apply keeps_logErr
    | with_reducible apply keeps_wr
    | with_reducible apply Keeps.ite

theorem keeps_takeRole {m₀ : Nat} {s₀ : State} {t : Nat} (hM₀ : Sub 257 m₀) {s : State} (h₀ : Keeps m₀ s₀ s) :
    Keeps m₀ s₀ (takeRole t s) := by
  unfold takeRole
  try dsimp only
  repeat' first
    | with_reducible assumption
    | exact hM₀.le (by decide)
    | with_reducible apply keeps_setSched
    | with_reducible apply keeps_setTile
    | with_reducible apply keeps_wr

theorem keeps_substitutionApply {m₀ : Nat} {s₀ : State} {k : Nat} (hM₀ : Sub 150995297 m₀) {s : State}
    (h₀ : Keeps m₀ s₀ s) : Keeps m₀ s₀ (substitutionApply k s) := by
  unfold substitutionApply
  try dsimp only
  repeat' first
    | with_reducible assumption
    | exact hM₀.le (by decide)
    | with_reducible apply keeps_journal
    | with_reducible apply keeps_lifeAdd
    | with_reducible apply keeps_lifeSet
    | with_reducible apply keeps_raiseBit
    | with_reducible apply keeps_takeRole
    | with_reducible apply keeps_wr
    | with_reducible apply Keeps.ite
    | with_reducible apply Keeps.upd_subst

theorem keeps_powerFail {m₀ : Nat} {s₀ : State} (hM₀ : Sub 536870912 m₀) {s : State} (h₀ : Keeps m₀ s₀ s) :
    Keeps m₀ s₀ (powerFail s) := by
  unfold powerFail
  repeat' first
    | with_reducible assumption
    | with_reducible apply Keeps.upd_powered

theorem keeps_capWrite {m₀ : Nat} {s₀ : State} {watts : Nat} (hM₀ : Sub 1 m₀) {s : State} (h₀ : Keeps m₀ s₀ s) :
    Keeps m₀ s₀ (capWrite watts s) := by
  unfold capWrite
  repeat' first
    | with_reducible assumption
    | with_reducible apply keeps_wr

theorem keeps_powerInterval {m₀ : Nat} {s₀ : State} {watts vin : Nat} {deci capCall : Nat}
    {heatCall supplyCall : Nat} (hM₀ : Sub 4194305 m₀) {s : State} (h₀ : Keeps m₀ s₀ s) : Keeps m₀ s₀
    (powerInterval watts vin deci capCall heatCall supplyCall s) := by
  unfold powerInterval
  try dsimp only
  repeat' first
    | with_reducible assumption
    | exact hM₀.le (by decide)
    | exact fun _ => rfl
    | with_reducible apply keeps_bump
    | with_reducible apply keeps_modRc
    | with_reducible apply keeps_wr
    | with_reducible apply Keeps.ite

theorem keeps_thermalTrip {m₀ : Nat} {s₀ : State} (hM₀ : Sub 1583349759 m₀) {s : State} (h₀ : Keeps m₀ s₀ s) :
    Keeps m₀ s₀ (thermalTrip s) := by
  unfold thermalTrip
  try dsimp only
  repeat' first
    | with_reducible assumption
    | exact hM₀.le (by decide)
    | exact fun _ => rfl
    | with_reducible apply keeps_beginLock
    | with_reducible apply keeps_bump
    | with_reducible apply keeps_drainExpiry
    | with_reducible apply keeps_lockDrained
    | with_reducible apply keeps_modRc
    | with_reducible apply keeps_settleDomains
    | with_reducible apply keeps_wr
    | with_reducible apply Keeps.ite

theorem keeps_thermalSample {m₀ : Nat} {s₀ : State} {die inlet outlet : Nat} (hM₀ : Sub 1583349759 m₀) {s : State}
    (h₀ : Keeps m₀ s₀ s) : Keeps m₀ s₀ (thermalSample die inlet outlet s) := by
  unfold thermalSample
  try dsimp only
  repeat' first
    | with_reducible assumption
    | exact hM₀.le (by decide)
    | exact fun _ => rfl
    | with_reducible apply keeps_modRc
    | with_reducible apply keeps_thermalTrip
    | with_reducible apply keeps_wr
    | with_reducible apply Keeps.ite

/-! ### Machine/Mailbox.lean -/

theorem keeps_mbRefuse {m₀ : Nat} {s₀ : State} {c : Nat} (hM₀ : Sub 1 m₀) {s : State} (h₀ : Keeps m₀ s₀ s) :
    Keeps m₀ s₀ (mbRefuse c s) := by
  unfold mbRefuse
  repeat' first
    | with_reducible assumption
    | with_reducible apply keeps_wr

theorem keeps_mailboxGo {m₀ : Nat} {s₀ : State} (hM₀ : Sub 138412065 m₀) {s : State} (h₀ : Keeps m₀ s₀ s) :
    Keeps m₀ s₀ (mailboxGo s) := by
  unfold mailboxGo
  try dsimp only
  repeat' first
    | with_reducible assumption
    | exact hM₀.le (by decide)
    | exact fun _ => rfl
    | with_reducible apply keeps_logErr
    | with_reducible apply keeps_mbRefuse
    | with_reducible apply keeps_modRc
    | with_reducible apply keeps_wr
    | with_reducible apply Keeps.ite

theorem keeps_mbEnd {m₀ : Nat} {s₀ : State} {code len : Nat} {data : List Byte} (hM₀ : Sub 4194305 m₀) {s : State}
    (h₀ : Keeps m₀ s₀ s) : Keeps m₀ s₀ (mbEnd code len data s) := by
  unfold mbEnd
  try dsimp only
  repeat' first
    | with_reducible assumption
    | exact hM₀.le (by decide)
    | exact fun _ => rfl
    | (intro)
    | with_reducible apply keeps_mbRefuse
    | with_reducible apply keeps_modRc
    | with_reducible apply keeps_wr
    | with_reducible apply keeps_wrAt
    | with_reducible apply Keeps.ite
    | with_reducible apply Keeps.foldl

theorem keeps_getStatus {m₀ : Nat} {s₀ : State} (hM₀ : Sub 4194305 m₀) {s : State} (h₀ : Keeps m₀ s₀ s) :
    Keeps m₀ s₀ (getStatus s) := by
  unfold getStatus
  repeat' first
    | with_reducible assumption
    | with_reducible apply keeps_mbEnd
    | with_reducible apply Keeps.ite

theorem keeps_readSensors {m₀ : Nat} {s₀ : State} (hM₀ : Sub 4194305 m₀) {s : State} (h₀ : Keeps m₀ s₀ s) :
    Keeps m₀ s₀ (readSensors s) := by
  unfold readSensors
  repeat' first
    | with_reducible assumption
    | with_reducible apply keeps_mbEnd
    | with_reducible apply Keeps.ite

theorem keeps_mbWork {m₀ : Nat} {s₀ : State} {op : Nat} {m : List Byte → M Nat} (hM₀ : Sub 205520921 m₀)
    (h_m : ∀ (a₀ : List Byte) {t : State}, Keeps m₀ s₀ t → Keeps m₀ s₀ (runM (m a₀) t).2) {s : State}
    (h₀ : Keeps m₀ s₀ s) : Keeps m₀ s₀ (mbWork op m s) := by
  unfold mbWork
  repeat' first
    | with_reducible assumption
    | exact hM₀.le (by decide)
    | exact fun _ => rfl
    | (intro)
    | with_reducible apply h_m
    | with_reducible apply keeps_attempt
    | with_reducible apply keeps_catchCode
    | with_reducible apply keeps_modRc
    | with_reducible apply Keeps.m_bind
    | with_reducible apply Keeps.m_modify
    | with_reducible apply Keeps.ite
    | split

theorem keeps_mbReturn {m₀ : Nat} {s₀ : State} {c d : List Byte} (hM₀ : Sub 1543505791 m₀) {t₀ : State}
    (h₀ : Keeps m₀ s₀ t₀) : Keeps m₀ s₀ (runM (mbReturn c d) t₀).2 := by
  unfold mbReturn
  try dsimp only
  repeat' first
    | with_reducible assumption
    | exact hM₀.le (by decide)
    | (intro)
    | with_reducible apply keeps_busWrite
    | with_reducible apply keeps_hostWrite
    | with_reducible apply Keeps.m_bind
    | with_reducible apply Keeps.m_pure
    | with_reducible apply Keeps.m_ite
    | with_reducible apply Keeps.m_refuseIf

theorem keeps_hostPieces {m₀ : Nat} {s₀ : State} :
    ∀ (x0 : List (Nat × Nat)) (t₀ : State), Keeps m₀ s₀ t₀ → Keeps m₀ s₀ (runM (hostPieces x0) t₀).2
  | [], t₀, h₀ => by
    unfold hostPieces
    repeat' first
      | with_reducible assumption
      | (intro)
      | (with_reducible apply keeps_hostPieces)
      | with_reducible apply keeps_hostRead
      | with_reducible apply Keeps.m_bind
      | with_reducible apply Keeps.m_pure
  | (a, n) :: ps, t₀, h₀ => by
    unfold hostPieces
    repeat' first
      | with_reducible assumption
      | (intro)
      | (with_reducible apply keeps_hostPieces)
      | with_reducible apply keeps_hostRead
      | with_reducible apply Keeps.m_bind
      | with_reducible apply Keeps.m_pure

theorem keeps_mbBring {m₀ : Nat} {s₀ : State} {c : List Byte} {least most : Nat} (hM₀ : Sub 1476396911 m₀)
    {t₀ : State} (h₀ : Keeps m₀ s₀ t₀) : Keeps m₀ s₀ (runM (mbBring c least most) t₀).2 := by
  unfold mbBring
  try dsimp only
  repeat' first
    | with_reducible assumption
    | (intro)
    | with_reducible apply keeps_busRead
    | with_reducible apply keeps_hostPieces
    | with_reducible apply Keeps.m_bind
    | with_reducible apply Keeps.m_pure
    | with_reducible apply Keeps.m_ite
    | with_reducible apply Keeps.m_refuseIf

theorem keeps_mbSign {m₀ : Nat} {s₀ : State} {purpose step : Nat} {arg nonce : Nat} {covered : List Byte}
    (hM₀ : Sub 134217761 m₀) {t₀ : State} (h₀ : Keeps m₀ s₀ t₀) : Keeps m₀ s₀
    (runM (mbSign purpose step arg nonce covered) t₀).2 := by
  unfold mbSign
  repeat' first
    | with_reducible assumption
    | with_reducible apply keeps_signedStatement
    | with_reducible apply Keeps.m_get_bind
    | with_reducible apply Keeps.m_set_bind
    | with_reducible apply Keeps.m_pure
    | with_reducible apply Keeps.m_failWith
    | (with_reducible refine Keeps.of_pair (by assumption) ?_)
    | split

theorem keeps_readLifeLog {m₀ : Nat} {s₀ : State} {c : List Byte} (hM₀ : Sub 1543505791 m₀) {t₀ : State}
    (h₀ : Keeps m₀ s₀ t₀) : Keeps m₀ s₀ (runM (readLifeLog c) t₀).2 := by
  unfold readLifeLog
  repeat' first
    | with_reducible assumption
    | exact hM₀.le (by decide)
    | (intro)
    | with_reducible apply keeps_mbReturn
    | with_reducible apply keeps_mbSign
    | with_reducible apply Keeps.m_bind
    | with_reducible apply Keeps.m_ite
    | with_reducible apply Keeps.m_gets
    | with_reducible apply Keeps.m_refuseIf

theorem keeps_readDumpSummary {m₀ : Nat} {s₀ : State} {c : List Byte} (hM₀ : Sub 1543505791 m₀) {t₀ : State}
    (h₀ : Keeps m₀ s₀ t₀) : Keeps m₀ s₀ (runM (readDumpSummary c) t₀).2 := by
  unfold readDumpSummary
  repeat' first
    | with_reducible assumption
    | (intro)
    | with_reducible apply keeps_mbReturn
    | with_reducible apply Keeps.m_bind
    | with_reducible apply Keeps.m_gets
    | with_reducible apply Keeps.m_refuseIf

theorem keeps_readDump {m₀ : Nat} {s₀ : State} {c : List Byte} (hM₀ : Sub 1543505791 m₀) {t₀ : State}
    (h₀ : Keeps m₀ s₀ t₀) : Keeps m₀ s₀ (runM (readDump c) t₀).2 := by
  unfold readDump
  repeat' first
    | with_reducible assumption
    | (intro)
    | with_reducible apply keeps_mbReturn
    | with_reducible apply Keeps.m_bind
    | with_reducible apply Keeps.m_failWith
    | with_reducible apply Keeps.m_gets
    | split

theorem keeps_setImage {m₀ : Nat} {s₀ : State} {slot : Nat} {b : List Byte} (hM₀ : Sub 2097152 m₀) {s : State}
    (h₀ : Keeps m₀ s₀ s) : Keeps m₀ s₀ (setImage slot b s) := by
  unfold setImage
  repeat' first
    | with_reducible assumption
    | with_reducible apply keeps_modTrust

theorem keeps_writeImage {m₀ : Nat} {s₀ : State} {c : List Byte} (hM₀ : Sub 1482688367 m₀) {t₀ : State}
    (h₀ : Keeps m₀ s₀ t₀) : Keeps m₀ s₀ (runM (writeImage c) t₀).2 := by
  unfold writeImage
  repeat' first
    | with_reducible assumption
    | exact hM₀.le (by decide)
    | exact fun _ => rfl
    | (intro)
    | with_reducible apply keeps_mbBring
    | with_reducible apply keeps_modRc
    | with_reducible apply keeps_setImage
    | with_reducible apply Keeps.m_modify_bind
    | with_reducible apply Keeps.m_bind
    | with_reducible apply Keeps.m_pure

theorem keeps_writeConfig {m₀ : Nat} {s₀ : State} {c : List Byte} (hM₀ : Sub 1478494063 m₀) {t₀ : State}
    (h₀ : Keeps m₀ s₀ t₀) : Keeps m₀ s₀ (runM (writeConfig c) t₀).2 := by
  unfold writeConfig
  repeat' first
    | with_reducible assumption
    | exact hM₀.le (by decide)
    | (intro)
    | with_reducible apply keeps_mbBring
    | with_reducible apply keeps_modTrust
    | with_reducible apply Keeps.m_get_bind
    | with_reducible apply Keeps.m_set_bind
    | with_reducible apply Keeps.m_bind
    | with_reducible apply Keeps.m_pure
    | with_reducible apply Keeps.m_refuseIf

theorem keeps_shaPages {m₀ : Nat} {s₀ : State} (hM₀ : Sub 1476396911 m₀) :
    ∀ (x0 : List (Nat × Nat)) (t₀ : State), Keeps m₀ s₀ t₀ → Keeps m₀ s₀ (runM (shaPages x0) t₀).2
  | [], t₀, h₀ => by
    unfold shaPages
    try dsimp only
    repeat' first
      | with_reducible assumption
      | (intro)
      | (with_reducible apply keeps_shaPages hM₀)
      | with_reducible apply keeps_busRead
      | with_reducible apply Keeps.m_bind
      | with_reducible apply Keeps.m_pure
  | (a, n) :: ps, t₀, h₀ => by
    unfold shaPages
    try dsimp only
    repeat' first
      | with_reducible assumption
      | (intro)
      | (with_reducible apply keeps_shaPages hM₀)
      | with_reducible apply keeps_busRead
      | with_reducible apply Keeps.m_bind
      | with_reducible apply Keeps.m_pure

theorem keeps_signRound {m₀ : Nat} {s₀ : State} {c : List Byte} (hM₀ : Sub 1543505791 m₀) {t₀ : State}
    (h₀ : Keeps m₀ s₀ t₀) : Keeps m₀ s₀ (runM (signRound c) t₀).2 := by
  unfold signRound
  try dsimp only
  repeat' first
    | with_reducible assumption
    | exact hM₀.le (by decide)
    | (intro)
    | with_reducible apply keeps_busRead
    | with_reducible apply keeps_busWrite
    | with_reducible apply keeps_mbReturn
    | with_reducible apply keeps_mbSign
    | with_reducible apply keeps_shaPages
    | with_reducible apply keeps_wr
    | with_reducible apply Keeps.m_get_bind
    | with_reducible apply Keeps.m_modify_bind
    | with_reducible apply Keeps.m_bind
    | with_reducible apply Keeps.m_ite
    | with_reducible apply Keeps.m_refuseIf

theorem keeps_resetLockkeeper {m₀ : Nat} {s₀ : State} (hM₀ : Sub 1583349759 m₀) {s : State} (h₀ : Keeps m₀ s₀ s) :
    Keeps m₀ s₀ (resetLockkeeper s) := by
  unfold resetLockkeeper
  repeat' first
    | with_reducible assumption
    | exact hM₀.le (by decide)
    | exact fun _ => rfl
    | with_reducible apply keeps_beginReset
    | with_reducible apply keeps_modRc
    | with_reducible apply keeps_settleDomains
    | with_reducible apply Keeps.ite

theorem keeps_finishImage {m₀ : Nat} {s₀ : State} {code : Nat} (hM₀ : Sub 2283798561 m₀) {s : State}
    (h₀ : Keeps m₀ s₀ s) : Keeps m₀ s₀ (finishImage code s).2 := by
  unfold finishImage
  try dsimp only
  repeat' first
    | with_reducible assumption
    | exact hM₀.le (by decide)
    | with_reducible apply keeps_bump
    | with_reducible apply keeps_modTrust
    | with_reducible apply keeps_setImage
    | with_reducible apply keeps_setStarts
    | with_reducible apply keeps_trustRefuse
    | with_reducible apply Keeps.ite
    | split

theorem keeps_noteTrust {m₀ : Nat} {s₀ : State} {code : Nat} (hM₀ : Sub 134217761 m₀) {s : State}
    (h₀ : Keeps m₀ s₀ s) : Keeps m₀ s₀ (noteTrust code s) := by
  unfold noteTrust
  repeat' first
    | with_reducible assumption
    | with_reducible apply keeps_logErr
    | with_reducible apply keeps_trustRefuse
    | with_reducible apply Keeps.ite

theorem keeps_longDone {m₀ : Nat} {s₀ : State} (hM₀ : Sub 2287992873 m₀) {t₀ : State} (h₀ : Keeps m₀ s₀ t₀) :
    Keeps m₀ s₀ (runM (longDone) t₀).2 := by
  unfold longDone
  try dsimp only
  repeat' first
    | with_reducible assumption
    | exact hM₀.le (by decide)
    | (intro)
    | with_reducible apply keeps_acknowledged
    | with_reducible apply keeps_codeOf
    | with_reducible apply keeps_finishImage
    | with_reducible apply keeps_mbEnd
    | with_reducible apply keeps_noteTrust
    | with_reducible apply keeps_raiseBit
    | with_reducible apply Keeps.m_get_bind
    | with_reducible apply Keeps.m_bind
    | with_reducible apply Keeps.m_throw
    | with_reducible apply Keeps.m_modify
    | with_reducible apply Keeps.m_waitFor
    | split

end Sys2Proof.Machine
end

