-- ==== Sys2Proof/Laws/KeepsAccess.lean ====
section
/-! SUPPORT. What each operation on register writes, packets and the host can do to the state, as `Keeps`. -/

namespace Sys2Proof.Machine

/-! ### Machine/Registers.lean -/

theorem keeps_portWrite {m₀ : Nat} {s₀ : State} {page off : Nat} {d : List Byte} (hM₀ : Sub 1543722879 m₀)
    {s : State} (h₀ : Keeps m₀ s₀ s) : Keeps m₀ s₀ (portWrite page off d s) := by
  unfold portWrite
  try dsimp only
  repeat' first
    | with_reducible assumption
    | exact hM₀.le (by decide)
    | with_reducible apply keeps_memDiscard
    | with_reducible apply keeps_pmSubmit
    | with_reducible apply keeps_vdSubmit
    | with_reducible apply keeps_veSubmit
    | with_reducible apply keeps_whPortWrite
    | split

theorem keeps_tileAction {m₀ : Nat} {s₀ : State} {page : Nat} {w : FieldWrite} (hM₀ : Sub 1543505919 m₀)
    {g₀ : State → State} {t₀ : State} (e₀ : tileAction page w = some g₀) (h₀ : Keeps m₀ s₀ t₀) : Keeps m₀ s₀ (g₀ t₀)
    := by
  unfold tileAction at e₀
  try dsimp only at e₀
  repeat' split at e₀
  all_goals first | cases e₀ | skip
  repeat' first
    | with_reducible assumption
    | exact hM₀.le (by decide)
    | with_reducible apply keeps_haSpareWrite
    | with_reducible apply keeps_haTestStart
    | with_reducible apply keeps_schedStart
    | with_reducible apply keeps_schedStop

theorem keeps_pipeAction {m₀ : Nat} {s₀ : State} {page : Nat} {w : FieldWrite} (hM₀ : Sub 201334953 m₀)
    {g₀ : State → State} {t₀ : State} (e₀ : pipeAction page w = some g₀) (h₀ : Keeps m₀ s₀ t₀) : Keeps m₀ s₀ (g₀ t₀)
    := by
  unfold pipeAction at e₀
  try dsimp only at e₀
  repeat' split at e₀
  all_goals first | cases e₀ | skip
  repeat' first
    | with_reducible assumption
    | exact hM₀.le (by decide)
    | with_reducible apply keeps_apStart
    | with_reducible apply keeps_apStop
    | with_reducible apply keeps_haSpareWrite
    | with_reducible apply keeps_haTestStart

theorem keeps_clusterAction {m₀ : Nat} {s₀ : State} {page : Nat} {ws : List FieldWrite} {w : FieldWrite}
    (hM₀ : Sub 134217761 m₀) {g₀ : State → State} {t₀ : State} (e₀ : clusterAction page ws w = some g₀)
    (h₀ : Keeps m₀ s₀ t₀) : Keeps m₀ s₀ (g₀ t₀) := by
  unfold clusterAction at e₀
  repeat' split at e₀
  all_goals first | cases e₀ | skip
  repeat' first
    | with_reducible assumption
    | with_reducible apply keeps_tileMapWrite

theorem keeps_portAction {m₀ : Nat} {s₀ : State} {page : Nat} {w : FieldWrite} (hM₀ : Sub 134217849 m₀)
    {g₀ : State → State} {t₀ : State} (e₀ : portAction page w = some g₀) (h₀ : Keeps m₀ s₀ t₀) : Keeps m₀ s₀ (g₀ t₀)
    := by
  unfold portAction at e₀
  try dsimp only at e₀
  repeat' split at e₀
  all_goals first | cases e₀ | skip
  repeat' first
    | with_reducible assumption
    | exact hM₀.le (by decide)
    | with_reducible apply keeps_plainWrite
    | with_reducible apply keeps_portEnable
    | with_reducible apply keeps_portRetrain
    | with_reducible apply keeps_sendGrant
    | with_reducible apply keeps_tryUp
    | with_reducible apply Keeps.ite

theorem keeps_moduleNumber {m₀ : Nat} {s₀ : State} {w : FieldWrite} (hM₀ : Sub 138412081 m₀) {s : State}
    (h₀ : Keeps m₀ s₀ s) : Keeps m₀ s₀ (moduleNumber w s) := by
  unfold moduleNumber
  try dsimp only
  repeat' first
    | with_reducible assumption
    | exact hM₀.le (by decide)
    | (intro)
    | with_reducible apply keeps_plainWrite
    | with_reducible apply keeps_sendOwed
    | with_reducible apply keeps_tryUp
    | with_reducible apply Keeps.ite
    | with_reducible apply Keeps.foldl

theorem keeps_hubAction {m₀ : Nat} {s₀ : State} {w : FieldWrite} (hM₀ : Sub 1212153909 m₀) {g₀ : State → State}
    {t₀ : State} (e₀ : hubAction w = some g₀) (h₀ : Keeps m₀ s₀ t₀) : Keeps m₀ s₀ (g₀ t₀) := by
  unfold hubAction at e₀
  try dsimp only at e₀
  repeat' split at e₀
  all_goals first | cases e₀ | skip
  repeat' first
    | with_reducible assumption
    | exact hM₀.le (by decide)
    | with_reducible apply keeps_klRtData
    | with_reducible apply keeps_memRetire
    | with_reducible apply keeps_moduleNumber

theorem keeps_cisternAction {m₀ : Nat} {s₀ : State} {off : Nat} {d : List Byte} {w : FieldWrite}
    (hM₀ : Sub 1543769983 m₀) {g₀ : State → State} {t₀ : State} (e₀ : cisternAction off d w = some g₀)
    (h₀ : Keeps m₀ s₀ t₀) : Keeps m₀ s₀ (g₀ t₀) := by
  unfold cisternAction at e₀
  try dsimp only at e₀
  repeat' split at e₀
  all_goals first | cases e₀ | skip
  repeat' first
    | with_reducible assumption
    | exact hM₀.le (by decide)
    | with_reducible apply keeps_ciRestoreWrite
    | with_reducible apply keeps_ciReturn
    | with_reducible apply keeps_plainWrite
    | with_reducible apply keeps_showCiLow
    | with_reducible apply keeps_ssTail

theorem keeps_generationAction {m₀ : Nat} {s₀ : State} {w : FieldWrite} (hM₀ : Sub 1544556543 m₀)
    {g₀ : State → State} {t₀ : State} (e₀ : generationAction w = some g₀) (h₀ : Keeps m₀ s₀ t₀) : Keeps m₀ s₀
    (g₀ t₀) := by
  unfold generationAction at e₀
  try dsimp only at e₀
  repeat' split at e₀
  all_goals first | cases e₀ | skip
  repeat' first
    | with_reducible assumption
    | exact hM₀.le (by decide)
    | with_reducible apply keeps_enableGen
    | with_reducible apply keeps_mbBind
    | with_reducible apply keeps_plainWrite
    | with_reducible apply keeps_retire

theorem keeps_resilienceAction {m₀ : Nat} {s₀ : State} {w : FieldWrite} (hM₀ : Sub 1545342975 m₀)
    {g₀ : State → State} {t₀ : State} (e₀ : resilienceAction w = some g₀) (h₀ : Keeps m₀ s₀ t₀) : Keeps m₀ s₀
    (g₀ t₀) := by
  unfold resilienceAction at e₀
  try dsimp only at e₀
  repeat' split at e₀
  all_goals first | cases e₀ | skip
  repeat' first
    | with_reducible assumption
    | exact hM₀.le (by decide)
    | with_reducible apply keeps_rsDigest
    | with_reducible apply keeps_rsEnable
    | with_reducible apply keeps_rsResolve
    | with_reducible apply keeps_rsRestore

theorem keeps_monitorAction {m₀ : Nat} {s₀ : State} {off : Nat} {d : List Byte} {w : FieldWrite}
    (hM₀ : Sub 1543507839 m₀) {g₀ : State → State} {t₀ : State} (e₀ : monitorAction off d w = some g₀)
    (h₀ : Keeps m₀ s₀ t₀) : Keeps m₀ s₀ (g₀ t₀) := by
  unfold monitorAction at e₀
  try dsimp only at e₀
  repeat' split at e₀
  all_goals first | cases e₀ | skip
  repeat' first
    | with_reducible assumption
    | exact hM₀.le (by decide)
    | (intro)
    | with_reducible apply keeps_attempt
    | with_reducible apply keeps_lmLossIn
    | with_reducible apply keeps_markerGo
    | with_reducible apply keeps_rngProbe
    | with_reducible apply keeps_rngStage

theorem keeps_lockkeeperAction {m₀ : Nat} {s₀ : State} {w : FieldWrite} (hM₀ : Sub 1583349759 m₀)
    {g₀ : State → State} {t₀ : State} (e₀ : lockkeeperAction w = some g₀) (h₀ : Keeps m₀ s₀ t₀) : Keeps m₀ s₀
    (g₀ t₀) := by
  unfold lockkeeperAction at e₀
  try dsimp only at e₀
  repeat' split at e₀
  all_goals first | cases e₀ | skip
  repeat' first
    | with_reducible assumption
    | exact hM₀.le (by decide)
    | with_reducible apply keeps_capWrite
    | with_reducible apply keeps_mailboxGo
    | with_reducible apply keeps_pstateTarget
    | with_reducible apply keeps_rcRequest
    | with_reducible apply keeps_wr

theorem keeps_vmapData {m₀ : Nat} {s₀ : State} {v : Nat} (hM₀ : Sub 33 m₀) {s : State} (h₀ : Keeps m₀ s₀ s) :
    Keeps m₀ s₀ (vmapData v s) := by
  unfold vmapData
  try dsimp only
  repeat' first
    | with_reducible assumption
    | exact hM₀.le (by decide)
    | with_reducible apply keeps_wr
    | with_reducible apply Keeps.upd_host

theorem keeps_intTest {m₀ : Nat} {s₀ : State} {page : Nat} (hM₀ : Sub 134217761 m₀) {s : State} (h₀ : Keeps m₀ s₀ s)
    : Keeps m₀ s₀ (intTest page s) := by
  unfold intTest
  repeat' first
    | with_reducible assumption
    | with_reducible apply keeps_raiseBit
    | with_reducible apply Keeps.ite

theorem keeps_regAction {m₀ : Nat} {s₀ : State} {page off : Nat} {d : List Byte} {ws : List FieldWrite}
    {w : FieldWrite} (hM₀ : Sub 1583349759 m₀) {g₀ : State → State} {t₀ : State}
    (e₀ : regAction page off d ws w = some g₀) (h₀ : Keeps m₀ s₀ t₀) : Keeps m₀ s₀ (g₀ t₀) := by
  unfold regAction at e₀
  try dsimp only at e₀
  repeat' split at e₀
  all_goals first | cases e₀ | skip
  repeat' first
    | with_reducible assumption
    | exact hM₀.le (by decide)
    | (with_reducible refine keeps_cisternAction ?_ (by assumption) ?_)
    | (with_reducible refine keeps_clusterAction ?_ (by assumption) ?_)
    | with_reducible apply keeps_doorbell
    | (with_reducible refine keeps_generationAction ?_ (by assumption) ?_)
    | with_reducible apply keeps_hpStart
    | with_reducible apply keeps_hpStop
    | (with_reducible refine keeps_hubAction ?_ (by assumption) ?_)
    | with_reducible apply keeps_intTest
    | (with_reducible refine keeps_lockkeeperAction ?_ (by assumption) ?_)
    | (with_reducible refine keeps_monitorAction ?_ (by assumption) ?_)
    | (with_reducible refine keeps_pipeAction ?_ (by assumption) ?_)
    | with_reducible apply keeps_plainWrite
    | (with_reducible refine keeps_portAction ?_ (by assumption) ?_)
    | with_reducible apply keeps_rdEnable
    | (with_reducible refine keeps_resilienceAction ?_ (by assumption) ?_)
    | with_reducible apply keeps_ringEnable
    | with_reducible apply keeps_showLow
    | (with_reducible refine keeps_tileAction ?_ (by assumption) ?_)
    | with_reducible apply keeps_vdRelease
    | with_reducible apply keeps_vmapData
    | with_reducible apply Keeps.upd_ceSince

theorem keeps_regStore {m₀ : Nat} {s₀ : State} {page off : Nat} {d : List Byte} (hM₀ : Sub 1583349759 m₀)
    {s : State} (h₀ : Keeps m₀ s₀ s) : Keeps m₀ s₀ (regStore page off d s) := by
  unfold regStore
  try dsimp only
  repeat' first
    | with_reducible assumption
    | exact hM₀.le (by decide)
    | (intro)
    | with_reducible apply keeps_plainWrite
    | (with_reducible refine keeps_regAction ?_ (by assumption) ?_)
    | with_reducible apply Keeps.ite
    | with_reducible apply Keeps.foldl
    | split

theorem keeps_regPieces {m₀ : Nat} {s₀ : State} {page : Nat} (hM₀ : Sub 1583349759 m₀) :
    ∀ (x0 : Nat) (x1 : Nat) (x2 : List Byte) (x3 : State), Keeps m₀ s₀ x3 → Keeps m₀ s₀ (regPieces page x0 x1 x2 x3)
  | 0, _, _, s, h₀ => by
    unfold regPieces
    try dsimp only
    repeat' first
      | with_reducible assumption
      | (with_reducible apply keeps_regPieces hM₀)
      | with_reducible apply keeps_regStore
      | split
  | _ + 1, _, [], s, h₀ => by
    unfold regPieces
    try dsimp only
    repeat' first
      | with_reducible assumption
      | (with_reducible apply keeps_regPieces hM₀)
      | with_reducible apply keeps_regStore
      | split
  | fuel + 1, off, d, s, h₀ => by
    unfold regPieces
    try dsimp only
    repeat' first
      | with_reducible assumption
      | (with_reducible apply keeps_regPieces hM₀)
      | with_reducible apply keeps_regStore
      | split

theorem keeps_pageWrite {m₀ : Nat} {s₀ : State} {page off : Nat} {d : List Byte} (hM₀ : Sub 1583349759 m₀)
    {t₀ : State} (h₀ : Keeps m₀ s₀ t₀) : Keeps m₀ s₀ (runM (pageWrite page off d) t₀).2 := by
  unfold pageWrite
  repeat' first
    | with_reducible assumption
    | exact hM₀.le (by decide)
    | (intro)
    | with_reducible apply keeps_portWrite
    | with_reducible apply keeps_regPieces
    | with_reducible apply Keeps.m_get_bind
    | with_reducible apply Keeps.m_bind
    | with_reducible apply Keeps.m_throw
    | with_reducible apply Keeps.m_failWith
    | with_reducible apply Keeps.m_modify
    | with_reducible apply Keeps.m_ite
    | with_reducible apply Keeps.m_refuseIf
    | with_reducible apply Keeps.m_waitFor
    | split

theorem keeps_regWrite {m₀ : Nat} {s₀ : State} (hM₀ : Sub 1583349759 m₀) :
    ∀ (x0 : Nat) (x1 : Nat) (x2 : List Byte) (t₀ : State), Keeps m₀ s₀ t₀ → Keeps m₀ s₀
    (runM (regWrite x0 x1 x2) t₀).2
  | 0, _, _, t₀, h₀ => by
    unfold regWrite
    try dsimp only
    repeat' first
      | with_reducible assumption
      | (intro)
      | (with_reducible apply keeps_regWrite hM₀)
      | with_reducible apply keeps_pageWrite
      | with_reducible apply Keeps.m_bind
      | with_reducible apply Keeps.m_pure
      | with_reducible apply Keeps.m_ite
      | split
  | _ + 1, _, [], t₀, h₀ => by
    unfold regWrite
    try dsimp only
    repeat' first
      | with_reducible assumption
      | (intro)
      | (with_reducible apply keeps_regWrite hM₀)
      | with_reducible apply keeps_pageWrite
      | with_reducible apply Keeps.m_bind
      | with_reducible apply Keeps.m_pure
      | with_reducible apply Keeps.m_ite
      | split
  | fuel + 1, x, d, t₀, h₀ => by
    unfold regWrite
    try dsimp only
    repeat' first
      | with_reducible assumption
      | (intro)
      | (with_reducible apply keeps_regWrite hM₀)
      | with_reducible apply keeps_pageWrite
      | with_reducible apply Keeps.m_bind
      | with_reducible apply Keeps.m_pure
      | with_reducible apply Keeps.m_ite
      | split

theorem keeps_regAccess {m₀ : Nat} {s₀ : State} {x : Nat} {d : List Byte} (hM₀ : Sub 1583349759 m₀) {t₀ : State}
    (h₀ : Keeps m₀ s₀ t₀) : Keeps m₀ s₀ (runM (regAccess x d) t₀).2 := by
  unfold regAccess
  repeat' first
    | with_reducible assumption
    | with_reducible apply keeps_regWrite
    | with_reducible apply Keeps.m_get_bind
    | with_reducible apply Keeps.m_throw
    | split

theorem keeps_registerWrite {m₀ : Nat} {s₀ : State} {i : Nat} (hM₀ : Sub 1583349759 m₀) {s : State}
    (h₀ : Keeps m₀ s₀ s) : Keeps m₀ s₀ (registerWrite i s) := by
  unfold registerWrite
  try dsimp only
  repeat' first
    | with_reducible assumption
    | exact hM₀.le (by decide)
    | with_reducible apply keeps_noteAnswer
    | with_reducible apply keeps_regAccess
    | with_reducible apply keeps_releaseHeld
    | with_reducible apply keeps_startWake
    | with_reducible apply Keeps.ite
    | (with_reducible refine Keeps.of_pair (by assumption) ?_)
    | split
    | with_reducible apply Keeps.upd_bus

theorem keeps_wordAdd {m₀ : Nat} {s₀ : State} {a v : Nat} (hM₀ : Sub 1583349759 m₀) {t₀ : State}
    (h₀ : Keeps m₀ s₀ t₀) : Keeps m₀ s₀ (runM (wordAdd a v) t₀).2 := by
  unfold wordAdd
  repeat' first
    | with_reducible assumption
    | exact hM₀.le (by decide)
    | with_reducible apply keeps_memAdd
    | with_reducible apply keeps_regWrite
    | with_reducible apply Keeps.m_get_bind
    | with_reducible apply Keeps.m_throw
    | with_reducible apply Keeps.m_failWith
    | with_reducible apply Keeps.m_modify
    | with_reducible apply Keeps.m_ite
    | split

theorem keeps_addAnswer {m₀ : Nat} {s₀ : State} {x : Add} {c : Nat} (hM₀ : Sub 134217753 m₀) {s : State}
    (h₀ : Keeps m₀ s₀ s) : Keeps m₀ s₀ (addAnswer x c s) := by
  unfold addAnswer
  repeat' first
    | with_reducible assumption
    | exact hM₀.le (by decide)
    | with_reducible apply keeps_noteAnswer
    | with_reducible apply keeps_sendResponse
    | split

theorem keeps_atomicAdd {m₀ : Nat} {s₀ : State} {i : Nat} (hM₀ : Sub 1583349759 m₀) {s : State} (h₀ : Keeps m₀ s₀ s)
    : Keeps m₀ s₀ (atomicAdd i s) := by
  unfold atomicAdd
  try dsimp only
  repeat' first
    | with_reducible assumption
    | exact hM₀.le (by decide)
    | with_reducible apply keeps_addAnswer
    | with_reducible apply keeps_reachOwner
    | with_reducible apply keeps_releaseHeld
    | (with_reducible refine keeps_sendRequest ?_ (by assumption) ?_)
    | with_reducible apply keeps_staleWhere
    | with_reducible apply keeps_startWake
    | with_reducible apply keeps_wordAdd
    | with_reducible apply Keeps.ite
    | (with_reducible refine Keeps.of_pair (by assumption) ?_)
    | split
    | with_reducible apply Keeps.upd_bus

/-! ### Machine/Access.lean -/

theorem keeps_lockNotice {m₀ : Nat} {s₀ : State} {port module hops : Nat} (hM₀ : Sub 1545342975 m₀) {t₀ : State}
    (h₀ : Keeps m₀ s₀ t₀) : Keeps m₀ s₀ (runM (lockNotice port module hops) t₀).2 := by
  unfold lockNotice
  repeat' first
    | with_reducible assumption
    | exact hM₀.le (by decide)
    | with_reducible apply keeps_markLocked
    | with_reducible apply keeps_noticeToCommit
    | with_reducible apply keeps_noticeToFill
    | with_reducible apply keeps_redNotice
    | with_reducible apply keeps_settleRuns
    | with_reducible apply Keeps.m_get_bind
    | with_reducible apply Keeps.m_modify_bind
    | with_reducible apply Keeps.m_pure
    | with_reducible apply Keeps.m_ite

theorem keeps_outerWrite {m₀ : Nat} {s₀ : State} {page x : Nat} {d : List Byte} (hM₀ : Sub 1583349759 m₀)
    {t₀ : State} (h₀ : Keeps m₀ s₀ t₀) : Keeps m₀ s₀ (runM (outerWrite page x d) t₀).2 := by
  unfold outerWrite
  repeat' first
    | with_reducible assumption
    | (intro)
    | with_reducible apply keeps_regAccess
    | with_reducible apply Keeps.m_get_bind
    | with_reducible apply Keeps.m_bind
    | with_reducible apply Keeps.m_waitFor

theorem keeps_servePeer {m₀ : Nat} {s₀ : State} {n : Nat} {p : Packet} (hM₀ : Sub 1583349759 m₀) {t₀ : State}
    (h₀ : Keeps m₀ s₀ t₀) : Keeps m₀ s₀ (runM (servePeer n p) t₀).2 := by
  unfold servePeer
  repeat' first
    | with_reducible assumption
    | exact hM₀.le (by decide)
    | (intro)
    | with_reducible apply keeps_codeOf
    | with_reducible apply keeps_outerWrite
    | with_reducible apply keeps_reachOwner
    | with_reducible apply keeps_sendResponse
    | with_reducible apply keeps_serveRequest
    | with_reducible apply Keeps.m_get_bind
    | with_reducible apply Keeps.m_modify_bind
    | with_reducible apply Keeps.m_bind
    | with_reducible apply Keeps.m_modify
    | with_reducible apply Keeps.m_ite

theorem keeps_serveMessage {m₀ : Nat} {s₀ : State} {n : Nat} {p : Packet} (hM₀ : Sub 1545342975 m₀) {t₀ : State}
    (h₀ : Keeps m₀ s₀ t₀) : Keeps m₀ s₀ (runM (serveMessage n p) t₀).2 := by
  unfold serveMessage
  try dsimp only
  repeat' first
    | with_reducible assumption
    | exact hM₀.le (by decide)
    | with_reducible apply keeps_ackArrives
    | with_reducible apply keeps_contribMessage
    | with_reducible apply keeps_decisionArrives
    | with_reducible apply keeps_lockNotice
    | with_reducible apply keeps_queryArrives
    | with_reducible apply keeps_readyArrives
    | with_reducible apply keeps_releaseNotice
    | with_reducible apply keeps_resultMessage
    | with_reducible apply keeps_vetoArrives
    | with_reducible apply Keeps.m_pure
    | with_reducible apply Keeps.m_modify
    | split

theorem keeps_takePacket {m₀ : Nat} {s₀ : State} {n vc : Nat} {p : Packet} (hM₀ : Sub 1583349759 m₀) {t₀ : State}
    (h₀ : Keeps m₀ s₀ t₀) : Keeps m₀ s₀ (runM (takePacket n vc p) t₀).2 := by
  unfold takePacket
  repeat' first
    | with_reducible assumption
    | exact hM₀.le (by decide)
    | with_reducible apply keeps_forwardPacket
    | with_reducible apply keeps_responseArrives
    | with_reducible apply keeps_serveMessage
    | with_reducible apply keeps_servePeer
    | with_reducible apply Keeps.m_get_bind
    | with_reducible apply Keeps.m_modify
    | with_reducible apply Keeps.m_ite

theorem keeps_packetArrival {m₀ : Nat} {s₀ : State} {n vc : Nat} (hM₀ : Sub 1583349759 m₀) {s : State}
    (h₀ : Keeps m₀ s₀ s) : Keeps m₀ s₀ (packetArrival n vc s) := by
  unfold packetArrival
  try dsimp only
  repeat' first
    | with_reducible assumption
    | exact hM₀.le (by decide)
    | (intro)
    | with_reducible apply keeps_attempt
    | with_reducible apply keeps_bump
    | with_reducible apply keeps_freeFlits
    | with_reducible apply keeps_settleRuns
    | with_reducible apply keeps_takePacket
    | with_reducible apply Keeps.m_bind
    | with_reducible apply Keeps.m_modify
    | with_reducible apply Keeps.ite
    | split

theorem keeps_hostRefuse {m₀ : Nat} {s₀ : State} {c a len : Nat} {read : Bool} (hM₀ : Sub 134217761 m₀) {s : State}
    (h₀ : Keeps m₀ s₀ s) : Keeps m₀ s₀ (hostRefuse c a len read s) := by
  unfold hostRefuse
  try dsimp only
  repeat' first
    | with_reducible assumption
    | exact hM₀.le (by decide)
    | with_reducible apply keeps_hostFail
    | with_reducible apply Keeps.ite
    | with_reducible apply Keeps.upd_outs

theorem keeps_hostAnswer {m₀ : Nat} {s₀ : State} {d : List PByte} (hM₀ : Sub 134217729 m₀) {s : State}
    (h₀ : Keeps m₀ s₀ s) : Keeps m₀ s₀ (hostAnswer d s) := by
  unfold hostAnswer
  try dsimp only
  repeat' first
    | with_reducible assumption
    | exact hM₀.le (by decide)
    | with_reducible apply keeps_bump
    | split
    | with_reducible apply Keeps.upd_outs

theorem keeps_hostRun {m₀ : Nat} {s₀ : State} {a len : Nat} {read : Bool} {m : M Unit} (hM₀ : Sub 201326649 m₀)
    (h_m : ∀ {t : State}, Keeps m₀ s₀ t → Keeps m₀ s₀ (runM (m) t).2) {s : State} (h₀ : Keeps m₀ s₀ s) : Keeps m₀ s₀
    (hostRun a len read m s) := by
  unfold hostRun
  repeat' first
    | with_reducible assumption
    | exact hM₀.le (by decide)
    | (intro)
    | with_reducible apply keeps_attempt
    | with_reducible apply keeps_codeOf
    | with_reducible apply keeps_hostRefuse
    | with_reducible apply Keeps.m_bind
    | with_reducible apply Keeps.m_pure
    | with_reducible apply Keeps.m_modify
    | with_reducible apply Keeps.m_ite

theorem keeps_bar0Access {m₀ : Nat} {s₀ : State} {x len : Nat} {data : Option (List Byte)} {ep : Bool}
    (hM₀ : Sub 1583349759 m₀) {s : State} (h₀ : Keeps m₀ s₀ s) : Keeps m₀ s₀ (bar0Access x len data ep s) := by
  unfold bar0Access
  try dsimp only
  repeat' first
    | with_reducible assumption
    | exact hM₀.le (by decide)
    | (intro)
    | with_reducible apply keeps_hostAnswer
    | with_reducible apply keeps_hostRefuse
    | with_reducible apply keeps_hostRun
    | with_reducible apply keeps_localRead
    | with_reducible apply keeps_outerWrite
    | with_reducible apply Keeps.m_bind
    | with_reducible apply Keeps.m_modify
    | with_reducible apply Keeps.ite
    | split

theorem keeps_bar2Access {m₀ : Nat} {s₀ : State} {x len : Nat} {data : Option (List Byte)} {ep : Bool}
    (hM₀ : Sub 1583349759 m₀) {s : State} (h₀ : Keeps m₀ s₀ s) : Keeps m₀ s₀ (bar2Access x len data ep s) := by
  unfold bar2Access
  try dsimp only
  repeat' first
    | with_reducible assumption
    | exact hM₀.le (by decide)
    | (intro)
    | with_reducible apply keeps_busRead
    | with_reducible apply keeps_busWriteNow
    | with_reducible apply keeps_hostAnswer
    | with_reducible apply keeps_hostRefuse
    | with_reducible apply keeps_hostRun
    | with_reducible apply keeps_outerWrite
    | with_reducible apply keeps_takeOrd
    | with_reducible apply Keeps.m_bind
    | with_reducible apply Keeps.m_modify
    | with_reducible apply Keeps.ite
    | split

theorem keeps_hostEnds {m₀ : Nat} {s₀ : State} {tag code : Nat} {stray : Bool} {d : Outstanding → List PByte}
    (hM₀ : Sub 134217769 m₀) {s : State} (h₀ : Keeps m₀ s₀ s) : Keeps m₀ s₀ (hostEnds tag code stray d s) := by
  unfold hostEnds
  try dsimp only
  repeat' first
    | with_reducible assumption
    | exact hM₀.le (by decide)
    | with_reducible apply keeps_bump
    | with_reducible apply keeps_completeRequest
    | with_reducible apply Keeps.ite
    | split
    | with_reducible apply Keeps.upd_bus

theorem keeps_hostCompletion {m₀ : Nat} {s₀ : State} {tag : Nat} {data : List Byte} {ep : Bool}
    (hM₀ : Sub 134217769 m₀) {s : State} (h₀ : Keeps m₀ s₀ s) : Keeps m₀ s₀ (hostCompletion tag data ep s) := by
  unfold hostCompletion
  repeat' first
    | with_reducible assumption
    | with_reducible apply keeps_hostEnds

theorem keeps_hostCplTimeout {m₀ : Nat} {s₀ : State} {tag : Nat} {refused : Bool} (hM₀ : Sub 134217769 m₀)
    {s : State} (h₀ : Keeps m₀ s₀ s) : Keeps m₀ s₀ (hostCplTimeout tag refused s) := by
  unfold hostCplTimeout
  repeat' first
    | with_reducible assumption
    | with_reducible apply keeps_hostEnds

theorem keeps_perstOff {m₀ : Nat} {s₀ : State} (hM₀ : Sub 1583349759 m₀) {s : State} (h₀ : Keeps m₀ s₀ s) :
    Keeps m₀ s₀ (perstOff s) := by
  unfold perstOff
  try dsimp only
  repeat' first
    | with_reducible assumption
    | exact hM₀.le (by decide)
    | with_reducible apply Keeps.ite
    | with_reducible apply Keeps.upd_host

theorem keeps_configuration {m₀ : Nat} {s₀ : State} {k : Nat} {data : Option Nat} {loaded : Bool}
    (hM₀ : Sub 134217760 m₀) {s : State} (h₀ : Keeps m₀ s₀ s) : Keeps m₀ s₀ (configuration k data loaded s) := by
  unfold configuration
  try dsimp only
  repeat' first
    | with_reducible assumption
    | exact hM₀.le (by decide)
    | with_reducible apply Keeps.ite
    | split
    | with_reducible apply Keeps.upd_outs
    | with_reducible apply Keeps.upd_host_outs

theorem keeps_msixEntry {m₀ : Nat} {s₀ : State} {v : Nat} {b : List Byte} (hM₀ : Sub 134217760 m₀) {s : State}
    (h₀ : Keeps m₀ s₀ s) : Keeps m₀ s₀ (msixEntry v b s) := by
  unfold msixEntry
  try dsimp only
  repeat' first
    | with_reducible assumption
    | exact hM₀.le (by decide)
    | with_reducible apply Keeps.ite
    | split
    | with_reducible apply Keeps.upd_host
    | with_reducible apply Keeps.upd_host_outs

theorem keeps_msixWrite {m₀ : Nat} {s₀ : State} {off : Nat} {data : List Byte} (hM₀ : Sub 134217761 m₀) {s : State}
    (h₀ : Keeps m₀ s₀ s) : Keeps m₀ s₀ (msixWrite off data s) := by
  unfold msixWrite
  try dsimp only
  repeat' first
    | with_reducible assumption
    | exact hM₀.le (by decide)
    | (intro)
    | with_reducible apply keeps_hostFail
    | with_reducible apply keeps_msixEntry
    | with_reducible apply Keeps.ite
    | with_reducible apply Keeps.foldl

end Sys2Proof.Machine
end

