-- ==== Sys2Proof/Laws/Memory.lean ====
section
/-! SUPPORT. Laws of memory: what a read sees after a write, and that every memory operation keeps the canonical form. -/

namespace Sys2Proof.Machine

@[simp] theorem cellAt_setCell_self (a : Nat) (b : Byte) (s : State) : cellAt (setCell a b s) a = b :=
  look_put_self ..

theorem cellAt_setCell_other {a a' : Nat} (b : Byte) (s : State) (h : a' ≠ a) : cellAt (setCell a b s) a' = cellAt s a' :=
  look_put_other _ _ _ _ h

/-- A store leaves the cells below it and behind it. -/
theorem cellAt_setCells_other {a a' : Nat} (bs : List Byte) (s : State) (h : a' < a ∨ a + bs.length ≤ a') :
    cellAt (setCells a bs s) a' = cellAt s a' := by
  induction bs generalizing a s with
  | nil => rfl
  | cons b bs ih =>
    simp only [List.length_cons] at h
    rw [setCells_cons, ih _ (by omega), cellAt_setCell_other _ _ (by omega)]

/-- A store leaves what it stores. -/
theorem cellAt_setCells_self {a : Nat} (bs : List Byte) (s : State) (i : Nat) (h : i < bs.length) :
    cellAt (setCells a bs s) (a + i) = bs[i] := by
  induction bs generalizing a s i with
  | nil => simp at h
  | cons b bs ih =>
    cases i with
    | zero =>
      simp only [setCells_cons, Nat.add_zero, List.getElem_cons_zero]
      rw [cellAt_setCells_other _ _ (by omega), cellAt_setCell_self]
    | succ i =>
      have k := ih (a := a + 1) (setCell a b s) i (by simpa using h)
      rw [Nat.add_right_comm, Nat.add_assoc] at k
      simpa only [setCells_cons, List.getElem_cons_succ] using k

@[simp] theorem isPoisoned_setPoison_self (u : Nat) (b : Bool) (s : State) : isPoisoned (setPoison u b s) u = b :=
  look_put_self ..

theorem isPoisoned_setPoison_other {u u' : Nat} (b : Bool) (s : State) (h : u' ≠ u) :
    isPoisoned (setPoison u b s) u' = isPoisoned s u' :=
  look_put_other _ _ _ _ h

@[simp] theorem flipsOf_setFlips_self (w m : Nat) (s : State) : flipsOf (setFlips w m s) w = m :=
  look_put_self ..

theorem flipsOf_setFlips_other {w w' : Nat} (m : Nat) (s : State) (h : w' ≠ w) : flipsOf (setFlips w m s) w' = flipsOf s w' :=
  look_put_other _ _ _ _ h

/-! ### The canonical form -/

section
variable {s : State} (c : s.canonical = true)
include c

theorem setCells_canonical (a : Nat) (bs : List Byte) : (setCells a bs s).canonical = true :=
  (keeps_setCells Sub.rfl _ _ (Keeps.refl s)).canonical c

theorem setPoison_canonical (u : Nat) (b : Bool) : (setPoison u b s).canonical = true :=
  (keeps_setPoison Sub.rfl (Keeps.refl s)).canonical c

theorem setFlips_canonical (w m : Nat) : (setFlips w m s).canonical = true :=
  (keeps_setFlips Sub.rfl (Keeps.refl s)).canonical c

theorem zeroFill_canonical (a : Nat) : (zeroFill a s).canonical = true :=
  (keeps_zeroFill Sub.rfl (Keeps.refl s)).canonical c

theorem memRead_canonical (a n : Nat) : (memRead a n s).2.canonical = true :=
  (keeps_memRead Sub.rfl (Keeps.refl s)).canonical c

theorem memWrite_canonical (a : Nat) (d : List PByte) : (memWrite a d s).canonical = true :=
  (keeps_memWrite Sub.rfl (Keeps.refl s)).canonical c

theorem memAdd_canonical (a v : Nat) : (memAdd a v s).canonical = true :=
  (keeps_memAdd Sub.rfl (Keeps.refl s)).canonical c

theorem clearWells_canonical (lo hi : Nat) : (clearWells lo hi s).canonical = true :=
  (keeps_clearWells Sub.rfl (Keeps.refl s)).canonical c

theorem clearGddr_canonical (lo hi : Nat) : (clearGddr lo hi s).canonical = true :=
  (keeps_clearGddr Sub.rfl (Keeps.refl s)).canonical c

theorem upset_canonical (us : List (Nat × Nat)) : (upset us s).canonical = true :=
  (keeps_upset Sub.rfl _ _ (Keeps.refl s)).canonical c

end

/-- Memory after reset has the form. -/
theorem reset_mem_wf : State.reset.mem.wf = true := by decide

end Sys2Proof.Machine
end

