-- ==== Sys2Proof/Laws/Work.lean ====
section
/-! SUPPORT. Work, step by step: what each form of work answers, and what an attempt at work that gets through leaves. -/

namespace Sys2Proof.Machine

section
variable {α β : Type} {s t : State}

@[simp] theorem runM_pure (a : α) (s : State) : runM (pure a) s = (.ok a, s) := rfl
@[simp] theorem runM_throw (e : Stop) (s : State) : runM (throw e : M α) s = (.error e, s) := rfl
@[simp] theorem runM_failWith (c : Nat) (s : State) : runM (failWith c : M α) s = (.error (.code c), s) := rfl
@[simp] theorem runM_get (s : State) : runM get s = (.ok s, s) := rfl
@[simp] theorem runM_set (t s : State) : runM (set t : M PUnit) s = (.ok ⟨⟩, t) := rfl
@[simp] theorem runM_modify (f : State → State) (s : State) : runM (modify f : M PUnit) s = (.ok ⟨⟩, f s) := rfl
@[simp] theorem runM_gets (f : State → α) (s : State) : runM (gets f) s = (.ok (f s), s) := rfl
@[simp] theorem runM_refuseIf (b : Bool) (c : Nat) (s : State) :
    runM (refuseIf b c) s = (if b then .error (.code c) else .ok (), s) := by cases b <;> rfl
@[simp] theorem runM_waitFor (b : Bool) (s : State) :
    runM (waitFor b) s = (if b then .ok () else .error .hold, s) := by cases b <;> rfl
@[simp] theorem runM_onlyIf (b : Bool) (m : M Unit) (s : State) :
    runM (onlyIf b m) s = if b then runM m s else (.ok (), s) := by cases b <;> rfl

theorem runM_ite (c : Prop) [Decidable c] (m n : M α) (s : State) :
    runM (if c then m else n) s = if c then runM m s else runM n s := by split <;> rfl

/-- Work in two parts whose first part gets through. -/
theorem runM_bind_ok {m : M α} {f : α → M β} {a : α} (h : runM m s = (.ok a, t)) : runM (m >>= f) s = runM (f a) t := by
  rw [runM_bind, h]

/-- Work in two parts whose first part stops. -/
theorem runM_bind_error {m : M α} {f : α → M β} {e : Stop} (h : runM m s = (.error e, t)) :
    runM (m >>= f) s = (.error e, t) := by
  rw [runM_bind, h]

/-- The code of work that gets through is 0. -/
theorem runM_codeOf {m : M Unit} (h : Works m s t) : runM (codeOf m) s = (.ok 0, t) := by
  unfold codeOf
  rw [runM_tryCatch, runM_bind, h]
  rfl

/-- What an attempt at work that gets through leaves. -/
theorem attempt_works {w : Who} {m : M Unit} (h : Works m s t) : attempt w m s = after w t := by
  unfold Works at h
  unfold attempt attemptUpTo
  rw [h]
  rfl

/-- An attempt at work that stops for a condition leaves what it was. -/
theorem attempt_hold {w : Who} {m : M Unit} (h : runM m s = (.error .hold, t)) : attempt w m s = after w s := by
  unfold attempt attemptUpTo
  rw [h]
  rfl

end

end Sys2Proof.Machine
end

