-- ==== Sys2Proof/WellFormed.lean ====
section
/-! DEFINITION. Which commands can occur: every operand within the range of the thing it names (R898, R658, R664) or the
width of the field it is written to. -/

namespace Sys2Proof

/-- The operands lie in their ranges. -/
def Instr.wf : Instr → Bool
  | .registerWrite _ => true
  | .requestIssue page _ _ addr _ _ poison slack =>
    decide (page < 5274) && decide (addr < 2 ^ 64) && decide (poison < 2 ^ 64) && decide (slack < 2 ^ 32)
  | .memoryRead page _ _ _ => decide (page < 5274)
  | .memoryWrite page _ _ _ => decide (page < 5274)
  | .atomicAddRequest _ => true
  | .statsAddApply page => decide (page < 5274)
  | .arrayRowRead tile => decide (tile < 4352)
  | .arrayColumnRead tile => decide (tile < 4352)
  | .arrayLoadOnly tile => decide (tile < 4352)
  | .arrayWindowOp tile => decide (tile < 4352)
  | .stationaryLoad tile => decide (tile < 4352)
  | .vectorEntry tile _ => decide (tile < 4352)
  | .arrayOpComplete tile _ => decide (tile < 4352)
  | .haSpareWrite page array req col =>
    decide (page < 5274) && decide (array < 2) && decide (req < 2) && decide (col < 64)
  | .spareMapApply page array => decide (page < 5274) && decide (array < 2)
  | .haTestStart page array => decide (page < 5274) && decide (array < 2)
  | .haSelfTestDone page array _ _ => decide (page < 5274) && decide (array < 2)
  | .drain tile => decide (tile < 4352)
  | .drainStart tile => decide (tile < 4352)
  | .setRelease tile => decide (tile < 4352)
  | .drainComplete tile _ => decide (tile < 4352)
  | .clArithUpdate cluster => decide (cluster < 256)
  | .monArithUpdate => true
  | .tailBiasAct tile _ => decide (tile < 4352)
  | .tailAddAct tile _ => decide (tile < 4352)
  | .tailMul tile _ => decide (tile < 4352)
  | .tailNorm tile _ => decide (tile < 4352)
  | .tailRowstat tile _ => decide (tile < 4352)
  | .tailNormApply tile _ => decide (tile < 4352)
  | .tailConvert tile _ => decide (tile < 4352)
  | .tailSplit3 tile _ => decide (tile < 4352)
  | .tailPool tile _ => decide (tile < 4352)
  | .tailSgd tile _ => decide (tile < 4352)
  | .tailAdamw tile _ => decide (tile < 4352)
  | .tailComplete tile _ => decide (tile < 4352)
  | .send tile _ => decide (tile < 4352)
  | .sendComplete tile _ => decide (tile < 4352)
  | .recv tile _ => decide (tile < 4352)
  | .recvComplete tile _ => decide (tile < 4352)
  | .pump tile => decide (tile < 4352)
  | .pumpInstrComplete tile _ => decide (tile < 4352)
  | .waitCmd tile => decide (tile < 4352)
  | .waitPoll tile => decide (tile < 4352)
  | .signal tile => decide (tile < 4352)
  | .signalAck tile _ => decide (tile < 4352)
  | .seg tile => decide (tile < 4352)
  | .fillOn tile => decide (tile < 4352)
  | .fillOff tile => decide (tile < 4352)
  | .stepEnd tile => decide (tile < 4352)
  | .fillRingIssue tile => decide (tile < 4352)
  | .mainListPassBegin tile => decide (tile < 4352)
  | .schedStart tile => decide (tile < 4352)
  | .schedStop tile => decide (tile < 4352)
  | .channelOpenRequest _ => true
  | .channelGrant _ => true
  | .channelMessage _ => true
  | .creditReturn _ => true
  | .channelReopen tile ch => decide (tile < 4352) && decide (ch < 64)
  | .mbBind mb mode need => decide (mb < 256) && decide (mode < 2) && decide (need < 256)
  | .bindingCopy page mb => decide (page < 5274) && decide (mb < 256)
  | .genEnable _ => true
  | .stepOpenNext => true
  | .pendingSlotOpen => true
  | .moduleReady => true
  | .ready step rank => decide (step < 2 ^ 32) && decide (rank < 2 ^ 16)
  | .veto step code rank => decide (step < 2 ^ 32) && decide (code < 2 ^ 16) && decide (rank < 2 ^ 16)
  | .commitDeadlineExpiry _ => true
  | .decisionResend => true
  | .ack step => decide (step < 2 ^ 32)
  | .query step rank => decide (step < 2 ^ 32) && decide (rank < 2 ^ 16)
  | .commit step gen => decide (step < 2 ^ 32) && decide (gen < 2 ^ 32)
  | .abort step code rank => decide (step < 2 ^ 32) && decide (code < 2 ^ 16) && decide (rank < 2 ^ 16)
  | .abortDiscard => true
  | .packStart cluster => decide (cluster < 256)
  | .packBody cluster => decide (cluster < 256)
  | .packHeaderValid cluster => decide (cluster < 256)
  | .packComplete cluster => decide (cluster < 256)
  | .unpack cluster => decide (cluster < 256)
  | .apStart cluster => decide (cluster < 256)
  | .apStop cluster => decide (cluster < 256)
  | .atForward cluster => decide (cluster < 256)
  | .atBackward cluster => decide (cluster < 256)
  | .atWaitPoll cluster => decide (cluster < 256)
  | .atPass drive => decide (drive.cluster < 256)
    && drive.parity.all fun e => decide (e.array < 2) && decide (e.slice < 4) && e.columns.all fun c => decide (c < 65)
  | .atDescComplete cluster _ => decide (cluster < 256)
  | .whCmdPortWrite wellhead _ _ => decide (wellhead < 2)
  | .alloc wellhead => decide (wellhead < 2)
  | .share wellhead => decide (wellhead < 2)
  | .freePage wellhead => decide (wellhead < 2)
  | .cow wellhead => decide (wellhead < 2)
  | .pin wellhead => decide (wellhead < 2)
  | .unpin wellhead => decide (wellhead < 2)
  | .lookup wellhead => decide (wellhead < 2)
  | .insert wellhead => decide (wellhead < 2)
  | .evict wellhead => decide (wellhead < 2)
  | .hpStart handpump => decide (handpump < 32)
  | .hpStop handpump => decide (handpump < 32)
  | .conv handpump => decide (handpump < 32)
  | .crop handpump => decide (handpump < 32)
  | .wgrad handpump => decide (handpump < 32)
  | .hdDescComplete handpump _ => decide (handpump < 32)
  | .rngProbe ctr3 => decide (ctr3 < 2 ^ 32)
  | .rngRestoreStage addr => decide (addr < 2 ^ 64)
  | .lmLossIn _ _ => true
  | .tailNonfiniteRollup cluster => decide (cluster < 256)
  | .wrExport ring => decide (ring < 64)
  | .exportSign ring => decide (ring < 64)
  | .vdJobSubmit decoder _ _ => decide (decoder < 16)
  | .vdJobStart decoder => decide (decoder < 16)
  | .vdPictureDecode decoder _ => decide (decoder < 16)
  | .vdFrameEntry decoder => decide (decoder < 16)
  | .vdRelease decoder buf => decide (decoder < 16) && decide (buf < 32)
  | .veJobSubmit encoder _ _ => decide (encoder < 4)
  | .veJobStart encoder => decide (encoder < 4)
  | .veFrameEncode encoder _ => decide (encoder < 4)
  | .veResult encoder => decide (encoder < 4)
  | .ciDecode => true
  | .ciCopy => true
  | .ciSensor => true
  | .ciPad => true
  | .ciSetAug => true
  | .ciDispatch => true
  | .ciFrameEntry decoder _ => decide (decoder < 16)
  | .tfFrameTransform unit => decide (unit < 8)
  | .ciBudgetExpiry _ _ => true
  | .ssTailAdvance stream tail => decide (stream < 16) && decide (tail < 2 ^ 32)
  | .ciBatchRelease => true
  | .ciReturn _ _ => true
  | .ciRestore addr => decide (addr < 2 ^ 64)
  | .cursorRecordStep => true
  | .pmSubmit p _ _ => decide (p < 32)
  | .pumpCopy p slot => decide (p < 288) && decide (slot < 8)
  | .pumpConvert p slot => decide (p < 288) && decide (slot < 8)
  | .pumpStream p slot => decide (p < 288) && decide (slot < 8)
  | .streamRecord p slot => decide (p < 288) && decide (slot < 8)
  | .streamPoll p slot => decide (p < 288) && decide (slot < 8)
  | .pumpDescComplete p slot => decide (p < 288) && decide (slot < 8)
  | .arbGrant point rs => decide (point < 128) && rs.all fun r => decide (r.unit < 5274) && decide (r.target < 5274)
  | .memDiscard _ _ => true
  | .memRetire ch => decide (ch < 16)
  | .migrationCopy => true
  | .migrationDone => true
  | .gddr7Scrub _ => true
  | .wellScrub cluster _ => decide (cluster < 256)
  | .portEnable port _ => decide (port < 32)
  | .laserLoss port => decide (port < 32)
  | .laserOk port => decide (port < 32)
  | .portTuneDone port => decide (port < 32)
  | .portTrainDone port => decide (port < 32)
  | .portAlignDone port => decide (port < 32)
  | .hello port acked crVc crCount peerModule peerPort =>
    decide (port < 32) && decide (acked < 2 ^ 16) && decide (crVc < 8) && decide (crCount < 2 ^ 13)
      && decide (peerModule < 2 ^ 16) && decide (peerPort < 2 ^ 16)
  | .grant port acked credits => decide (port < 32) && decide (acked < 2 ^ 16) && decide (credits.length = 8)
  | .dataFlit port bytes _ _ => decide (port < 32) && decide (bytes.length = 256)
  | .idleFlit port acked crVc crCount =>
    decide (port < 32) && decide (acked < 2 ^ 16) && decide (crVc < 8) && decide (crCount < 2 ^ 13)
  | .nakReplay port acked crVc crCount =>
    decide (port < 32) && decide (acked < 2 ^ 16) && decide (crVc < 8) && decide (crCount < 2 ^ 13)
  | .swap port acked crVc crCount lane =>
    decide (port < 32) && decide (acked < 2 ^ 16) && decide (crVc < 8) && decide (crCount < 2 ^ 13)
      && decide (lane < 8)
  | .swapDone port acked crVc crCount =>
    decide (port < 32) && decide (acked < 2 ^ 16) && decide (crVc < 8) && decide (crCount < 2 ^ 13)
  | .laneFail port lane => decide (port < 32) && decide (lane < 8)
  | .peerFlitTimeout port => decide (port < 32)
  | .portRetrain port => decide (port < 32)
  | .packetArrival port vc => decide (port < 32) && decide (vc < 8)
  | .responseArrival port tag code _ poison =>
    decide (port < 32) && decide (tag < 2 ^ 32) && decide (code < 2 ^ 16) && decide (poison < 2 ^ 64)
  | .requestTimeout tag => decide (tag < 2 ^ 32)
  | .klRtData mask => decide (mask < 2 ^ 32)
  | .lockNotice port module hops => decide (port < 32) && decide (module < 2 ^ 16) && decide (hops < 256)
  | .releaseNotice port module hops => decide (port < 32) && decide (module < 2 ^ 16) && decide (hops < 256)
  | .rdEnable engine _ => decide (engine < 2)
  | .reductionRunStart engine entry => decide (engine < 2) && decide (entry < 1024)
  | .contrib data => decide (data.length ≤ 4096)
  | .chunkDeadline engine step _ => decide (engine < 2) && decide (step < 2 ^ 32)
  | .result data => decide (data.length ≤ 4096)
  | .twinForwardFail engine entry step _ => decide (engine < 2) && decide (entry < 1024) && decide (step < 2 ^ 32)
  | .rsEnable _ => true
  | .roundCopy _ => true
  | .firstTouch _ => true
  | .roundCompleteWrite _ => true
  | .roundComplete _ => true
  | .rsRestore => true
  | .rsRestoreDone => true
  | .rsDigest => true
  | .rsDigestDone => true
  | .rsResolve decision => decide (decision < 4)
  | .domainLock kind inst => decide (kind < 16) && decide (inst < 2 ^ 13)
  | .domainReset kind inst _ _ => decide (kind < 16) && decide (inst < 2 ^ 13)
  | .domainRelease kind inst => decide (kind < 16) && decide (inst < 2 ^ 13)
  | .lockDrained _ _ => true
  | .drainBoundExpiry _ _ => true
  | .resetComplete _ _ _ => true
  | .coldPowerUp _ => true
  | .perst => true
  | .flr => true
  | .lkHeartbeat phase => decide (phase < 4)
  | .lkWatchdog => true
  | .clTileMapWrite cluster active logical => decide (cluster < 256) && decide (active < 2) && decide (logical < 16)
  | .substitutionApply cluster => decide (cluster < 256)
  | .pstateTarget target => decide (target < 4)
  | .clusterGate cluster => decide (cluster < 256)
  | .clusterWake cluster => decide (cluster < 256)
  | .markerGo => true
  | .markerLatch page => decide (page < 5274)
  | .markerNotice _ => true
  | .markerWaveComplete => true
  | .lifeSample => true
  | .lifeSummaryWrite => true
  | .journalAppend => true
  | .keyringSign digest => decide (digest.length = 32)
  | .keyringEcdhe peer => decide (peer.length = 64)
  | .keyringRandom _ => true
  | .keyringPublicKey => true
  | .getVersion => true
  | .getCapabilities => true
  | .negotiateAlgorithms _ => true
  | .getDigests => true
  | .getCertificate _ _ _ => true
  | .challenge _ digest => decide (digest.length = 32)
  | .getMeasurements _ _ _ => true
  | .keyExchange _ _ digest => decide (digest.length = 32)
  | .finish session _ => decide (session < 2 ^ 32)
  | .heartbeat session => decide (session < 2 ^ 32)
  | .keyUpdate session => decide (session < 2 ^ 32)
  | .endSession session => decide (session < 2 ^ 32)
  | .debugChallenge => true
  | .debugAuth key sig => decide (key.length = 64) && decide (sig.length = 64)
  | .debugChallengeExpiry => true
  | .bar0Access off _ _ _ => decide (off < 2 ^ 26)
  | .bar2Access off _ _ _ => decide (off < 2 ^ 36)
  | .hostCplTimeout _ _ => true
  | .doorbell ring tail => decide (ring < 64) && decide (tail < 2 ^ 32)
  | .wrEnable ring _ => decide (ring < 64)
  | .wrNop ring => decide (ring < 64)
  | .wrLoadStep ring => decide (ring < 64)
  | .wrWrite ring => decide (ring < 64)
  | .wrWait ring => decide (ring < 64)
  | .wrAdd ring => decide (ring < 64)
  | .wrCompletion ring => decide (ring < 64)
  | .hiVmapData entry => decide (entry < 2 ^ 16)
  | .getStatus => true
  | .readSensors => true
  | .readLifeLog => true
  | .readDumpSummary => true
  | .readDump => true
  | .writeImage => true
  | .writeConfig => true
  | .signRound => true
  | .resetLockkeeper => true
  | .mailboxLongDone => true
  | .smbusRequest _ _ => true
  | .intTest page => decide (page < 5274)
  | .powerFail => true
  | .overcurrentTrip => true
  | .powerInterval _ _ _ _ _ _ => true
  | .pwCapWrite watts => decide (watts < 2 ^ 13)
  | .thermalSample _ _ _ => true
  | .perstNDeassertion => true
  | .configurationRequest request => decide (request.reg < 1024) && request.data.all fun v => decide (v < 2 ^ 32)
  | .hostCompletion _ _ _ => true
  | .msixTableWrite _ _ => true
  | .spareW8Lock port => decide (port < 32)
  | .hdWaitPoll handpump => decide (handpump < 32)

end Sys2Proof
end

