-- ==== Sys2Proof/Tests/Slice0.lean ====
section
/-! SUPPORT. Tests of the model against the spec's own examples, and witnesses of the statements' hypotheses. -/

namespace Sys2Proof.Tests

open Sys2Proof.Machine

set_option Elab.async false

/-- The work gets through. -/
def ok {α : Type} (m : M α) (s : State) : Bool :=
  match runM m s with
  | (.ok _, _) => true
  | _ => false

/-- The state that work leaves. -/
def out {α : Type} (m : M α) (s : State) : State := (runM m s).2

/-- What work that gets through answers. -/
def answer {α : Type} (d : α) (m : M α) (s : State) : α :=
  match runM m s with
  | (.ok a, _) => a
  | _ => d

/-- What work that gets through answers, if it does. -/
def result {α : Type} (m : M α) (s : State) : Option α :=
  match runM m s with
  | (.ok a, _) => some a
  | _ => none

/-- The code that refuses work, if one does. -/
def refusal {α : Type} (m : M α) (s : State) : Option Nat :=
  match runM m s with
  | (.error (.code c), _) => some c
  | _ => none

/-- Work that answers `a` reads it. -/
theorem reads_of {α : Type} {m : M α} {s : State} {a : α} (h : result m s = some a) : Reads m s a (out m s) := by
  unfold result at h
  unfold Reads out
  split at h
  · next h1 => cases h; rw [h1]
  · cases h

/-- Work that gets through reads what it answers. -/
theorem reads_answer {α : Type} (d : α) {m : M α} {s : State} (h : (result m s).isSome = true) :
    Reads m s (answer d m s) (out m s) := by
  unfold result at h
  unfold Reads answer out
  split at h
  · next a t h1 => simp [h1]
  · cases h

/-- The next state of a command. -/
def leaves (c : Instr) (s : State) : State :=
  match exec c s with
  | .next t => t
  | _ => s

/-- The next state of a step. -/
def stepped (s : State) : State :=
  match step s with
  | .next t => t
  | _ => s

/-- The state after reset with one field written. -/
def with1 (page : Nat) (f : Field) (v : Nat) : State := wr page f v State.reset

def dark : State := { State.reset with powered := false }

/-! ### The whole machine -/

theorem test_idle : stepped State.reset = State.reset := by decide +kernel

theorem witness_step_runs_front :
    State.reset.pending = [] ∧ decodeTableWord 16 0 = none ∧
      stepped { State.reset with pending := [.laserOk 0, .laserOk 1] } =
        leaves (.laserOk 0) { State.reset with pending := [.laserOk 1] } := by decide +kernel

theorem witness_unpowered_module_is_inert :
    dark.powered = false ∧ leaves (.laserLoss 31) dark = dark ∧ State.reset.powered = true ∧
      leaves .powerFail State.reset = dark ∧ leaves .overcurrentTrip State.reset = dark ∧
      (leaves (.coldPowerUp []) dark).powered = true := by decide +kernel

/-- A state with written memory, poison and a counter. -/
def written : State := memWrite 0xFC0 ((List.replicate 64 ((7 : Byte), false)) ++ [(1, true)]) State.reset

theorem witness_step_keeps_canonical :
    written.canonical = true ∧
      (stepped { written with pending := [.memoryWrite 0 0xFC0 (List.replicate 64 0) 0] }).canonical = true ∧
      (stepped { written with pending := [.memoryWrite 0 0xFC0 (List.replicate 64 0) 0] }).mem.cells = [(0x1000, 1)] := by
  decide +kernel

theorem witness_register_fields :
    Reg.PAGE_INT_STATUS.acc = .w1c ∧ Reg.PAGE_INT_ENABLE.acc = .rws ∧ Reg.PAGE_ERR_COUNT.acc = .ro ∧
      guarded State.reset 0 Reg.PAGE_INT_ENABLE = false ∧
      Reg.PAGE_INT_ENABLE.key 0 0 ≠ Reg.PAGE_INT_STATUS.key 0 0 ∧
      rd (plainWrite 0 { f := Reg.PAGE_INT_STATUS, i := 0, old := 5, new := 4, ones := 4 }
        (with1 0 Reg.PAGE_INT_STATUS 5)) 0 Reg.PAGE_INT_STATUS = 1 ∧
      Reg.KL_MODULE.guard = .ports ∧ guarded (with1 (pgPort 31) Reg.KP_STATUS_STATE 6) (pgHub 0) Reg.KL_MODULE = true := by
  decide +kernel

theorem witness_counters_saturate :
    Reg.PAGE_ERR_COUNT.w = 32 ∧ Reg.KP_TX_FLITS.w = 64 ∧
      rd (with1 0 Reg.PAGE_ERR_COUNT 0xFFFFFFFF) 0 Reg.PAGE_ERR_COUNT = 0xFFFFFFFF ∧
      rd (bump 0 Reg.PAGE_ERR_COUNT 3 (with1 0 Reg.PAGE_ERR_COUNT 0xFFFFFFFE)) 0 Reg.PAGE_ERR_COUNT = 0xFFFFFFFF ∧
      rd (with1 (pgPort 0) Reg.KP_TX_FLITS (2 ^ 64 - 1)) (pgPort 0) Reg.KP_TX_FLITS = 2 ^ 64 - 1 := by decide +kernel

/-- Vector 2 is unmasked. -/
def unmasked : State := { State.reset with host := { msix := [(2, { addr := 0x1000, data := 9, masked := false })] } }

theorem witness_errors_and_events :
    pgHost < pageCount ∧ rd State.reset pgHost Reg.PAGE_INT_STATUS < 2 ^ 32 ∧
      rd (logErr pgHost 0x0421 5 State.reset) pgHost Reg.PAGE_ERR_COUNT = 1 ∧
      rdAt (logErr pgHost 0x0421 5 State.reset) pgHost Reg.PAGE_ERR_LOG 1 = 0x100050421 ∧
      bitOf (rd (with1 pgHost Reg.PAGE_INT_STATUS 0x80000000) pgHost Reg.PAGE_INT_STATUS) 31 = true ∧
      bitOf (rd State.reset pgHost Reg.PAGE_INT_STATUS) 0 = false ∧
      bitOf (rd State.reset pgHost Reg.PAGE_INT_ENABLE) 31 = false ∧
      bitOf (rd (with1 pgHost Reg.PAGE_INT_ENABLE 0x80000000) pgHost Reg.PAGE_INT_ENABLE) 31 = true ∧
      (look {} unmasked.host.msix 2).masked = false ∧ (signalVector 2 unmasked).outs = [.msix 2 0x1000 9] ∧
      (look {} State.reset.host.msix 2047).masked = true := by decide +kernel

theorem witness_memory_reads_what_was_written :
    ([(1, false)] : List PByte) ≠ [] ∧ 0x3F / 64 = (0x3F + 1 - 1) / 64 ∧ flipsOf State.reset 7 = 0 ∧
      regionOf State.reset (wellEnd - 1) = .well ((wellEnd - 1) / 0x200000) ((wellEnd - 1) % 0x200000) ∧
      (readUnit 0x3F 1 (writeUnit 0x3F [(1, false)] State.reset)).1 = [(1, false)] ∧
      (memRead 0x1FFC 8 (memWrite 0x1FFC (clean [1, 2, 3, 4, 5, 6, 7, 8]) written)).1 = clean [1, 2, 3, 4, 5, 6, 7, 8] ∧
      (memRead 0x1000 1 written).1 = [(1, true)] := by decide +kernel

theorem witness_unwritten_memory_reads_zero :
    isValid State.reset (gddrBase + 95999999999) = false ∧
      readUnit (gddrBase + 95999999999) 1 State.reset = ([(0, false)], State.reset) := by decide +kernel

/-- A write request of three bytes, and a read request, as the packets a peer sends. -/
def writePacket : Packet := {
  type := 2, hops := 255, dst := 65535, src := 1, len := 3, addr := 2 ^ 64 - 1, tag := 7, slack := 9, poison := 1
  data := [1, 2, 3] }
def readPacket : Packet := { writePacket with type := 1, len := 4096, poison := 0, data := [] }

theorem witness_packets_travel_whole :
    writePacket.data.length = carried writePacket.type writePacket.len ∧
      readPacket.data.length = carried readPacket.type readPacket.len ∧ readPacket.len ≤ 4096 ∧
      parsePacket (packetBytes writePacket) = writePacket ∧ (packetFlits 0 readPacket).length = 1 ∧
      frontPacket { rx := (packetFlits 4 readPacket).map fun f => ⟨f.vc, f.sop, padTo 240 f.payload⟩ } 4 =
        .packet readPacket 1 := by decide +kernel

/-! ### Kuslight -/

/-- Port `n` in state `st`. -/
def portIn (n st : Nat) : State := with1 (pgPort n) Reg.KP_STATUS_STATE st

theorem witness_port_lanes :
    (portIn 31 1).powered = true ∧ portState (portIn 31 1) 31 = 1 ∧ portState (portIn 31 2) 31 = 2 ∧
      portState (portIn 0 3) 0 = 3 ∧ portState (portIn 0 4) 0 = 4 ∧ portState (portIn 0 6) 0 = 6 ∧
      portState (portIn 0 0) 0 = 0 ∧ portState (portIn 31 8) 31 = 8 ∧
      portState (leaves (.laserLoss 31) (portIn 31 8)) 31 = 8 ∧ portState (leaves (.laserLoss 31) (portIn 31 6)) 31 = 1 ∧
      rd (portIn 0 6) (pgPort 0) Reg.KP_LANE_MAP_RX = 0xF ∧ rd (portIn 0 6) (pgPort 0) Reg.KP_LANE_MAP_TX = 0xF ∧
      (getPort (portIn 0 6) 0).failing = 0 ∧ (getPort (leaves (.laneFail 0 7) (portIn 0 6)) 0).failing = 8 ∧
      portState (leaves (.laneFail 0 7) (portIn 0 6)) 0 = 6 ∧
      rd (leaves (.spareW8Lock 0) (leaves (.laneFail 0 7) (portIn 0 6))) (pgPort 0) Reg.KP_LANE_MAP_RX = 7 ∧
      (leaves (.laneFail 0 7) (portIn 0 6)).outs.map (fun o => match o with
        | .flit n lane wave _ => (n, lane, wave)
        | _ => (99, 99, 99)) = [(0, 0, 0)] ∧
      portState (leaves (.portAlignDone 0) (portIn 0 4)) 0 = 5 := by decide +kernel

/-- The spare wavelength of port 0 stands for lane 3, both ways. -/
def swapped : State := wr (pgPort 0) Reg.KP_LANE_MAP_RX 3 (wr (pgPort 0) Reg.KP_LANE_MAP_TX 3 (portIn 0 6))

theorem witness_port_lanes_spare :
    rd (leaves (.swap 0 0xFFFF 0 0 7) (portIn 0 6)) (pgPort 0) Reg.KP_LANE_MAP_TX = 7 ∧
      (getPort (leaves (.swap 0 0xFFFF 0 0 7) (portIn 0 6)) 0).paused = true ∧
      (getPort (leaves (.swapDone 0 0xFFFF 0 0) (leaves (.swap 0 0xFFFF 0 0 7) (portIn 0 6))) 0).paused = false ∧
      rd swapped (pgPort 0) Reg.KP_LANE_MAP_RX ≠ 0xF ∧ rd swapped (pgPort 0) Reg.KP_LANE_MAP_TX ≠ 0xF ∧
      portState (leaves (.laneFail 0 7) swapped) 0 = 1 ∧ portState (leaves (.swap 0 0xFFFF 0 0 7) swapped) 0 = 1 := by
  decide +kernel

/-- Port 0 UP with one flit sent and not acknowledged. -/
def sending : State := setPort 0 { unacked := [{ vc := 0, sop := true, payload := [] }] } (portIn 0 6)

/-- The first data flit of a peer. -/
def firstFlit : List Byte := flitBytes 0 0xFFFF (dataCtl { vc := 3, sop := true, payload := [] }) [1, 2]

/-- Its last transmission was its eighth replay; port 0 is paused. -/
def wornOut : State := setPort 0 { unacked := [{ vc := 0, sop := true, payload := [], replays := 8 }] } (portIn 0 6)
def pausedPort : State := setPort 0 { getPort sending 0 with paused := true } sending

theorem witness_port_link :
    portState (portIn 31 5) 31 = 5 ∧ portState (portIn 31 6) 31 = 6 ∧ firstFlit.length = 256 ∧
      leNat (firstFlit.drop 0xFC) = crc32 (firstFlit.take 0xFC) ∧
      leNat (firstFlit.take 2) = ((getPort (portIn 31 6) 31).rxSeq + 1) % 2 ^ 16 ∧
      ((getPort (leaves (.dataFlit 31 firstFlit false 0) (portIn 31 6)) 31).rx.map RxFlit.vc) = [3] ∧
      (getPort (leaves (.dataFlit 31 firstFlit true 0) (portIn 31 6)) 31).discarding = true ∧
      (getPort (leaves (.dataFlit 31 (firstFlit.drop 1) false 0) (portIn 31 6)) 31).rx = [] ∧
      (getPort (leaves (.hello 31 0xFFFF 0 0 5 1) (portIn 31 5)) 31).greeted = true ∧
      (getPort (leaves (.grant 31 0xFFFF [1, 2, 3, 4, 5, 6, 7, 8]) (portIn 31 5)) 31).granted = true ∧
      (getPort (leaves (.idleFlit 0 0 7 9) sending) 0).unacked = [] ∧
      look 0 (getPort (leaves (.idleFlit 0 0 7 9) sending) 0).credits 7 = 9 := by decide +kernel

theorem witness_port_link_replay :
    portState sending 0 = 6 ∧ (getPort sending 0).paused = false ∧ (getPort pausedPort 0).paused = true ∧
      ackThrough 9 (getPort sending 0).unacked = (getPort sending 0).unacked ∧ (getPort sending 0).unacked.length = 1 ∧
      ackThrough 0 (getPort sending 0).unacked = [] ∧
      (∀ f ∈ (getPort sending 0).unacked, f.replays < 8) ∧ (∃ f ∈ (getPort wornOut 0).unacked, 8 ≤ f.replays) ∧
      (getPort (leaves (.nakReplay 0 9 0 0) sending) 0).unacked.map TxFlit.replays = [1] ∧
      (leaves (.nakReplay 0 9 0 0) sending).outs.length = 1 ∧ (leaves (.nakReplay 0 9 0 0) pausedPort).outs = [] ∧
      portState (leaves (.nakReplay 0 9 0 0) wornOut) 0 = 1 ∧
      isSet (portIn 0 0) (pgPort 0) Reg.KP_CTRL_ENABLE ≠ true ∧
      portState (leaves (.portEnable 0 true) (portIn 0 0)) 0 = 1 ∧
      portState (leaves (.portEnable 0 false) (wr (pgPort 0) Reg.KP_CTRL_ENABLE 1 (portIn 0 6))) 0 = 0 ∧
      portState (leaves (.portEnable 0 true) (portIn 0 8)) 0 = 8 ∧
      portState (leaves (.peerFlitTimeout 31) (portIn 31 5)) 31 = 1 ∧
      portState (leaves (.portRetrain 31) (portIn 31 6)) 31 = 1 := by decide +kernel

/-- A read of 64 bytes at module 2 is outstanding with tag 5. -/
def asked : Outstanding := { tag := 5, who := ⟨0, 0⟩, kind := .read, dst := 2, addr := 2 * 2 ^ 48 + 0x40, len := 64 }
def asking : State := { State.reset with bus := { outstanding := [asked] } }

theorem witness_routing_and_notices :
    noticeApplies State.reset 2 true = true ∧
      currentStep (settleRuns (noticeToFill 2 (redNotice (markLocked 31 2 0 State.reset)))) = none ∧
      look false (leaves (.lockNotice 31 2 0) State.reset).link.marks 2 = true ∧
      noticeApplies (leaves (.lockNotice 31 2 0) State.reset) 2 false = true ∧
      (leaves (.releaseNotice 0 2 1) (leaves (.lockNotice 31 2 0) State.reset)).link.marks = [] ∧
      (asking.bus.outstanding.find? fun o => o.tag == 5 && !o.host) = some asked ∧ asked.stale = false ∧
      (leaves (.responseArrival 31 5 0 (List.replicate 64 1) 1) asking).bus.arrived.map Arrived.data =
        [List.replicate 64 (1, true)] ∧
      (asking.bus.outstanding.find? fun o => o.tag == 6 && !o.host) = none ∧
      rd (leaves (.responseArrival 31 6 0 [] 0) asking) (pgPort 31) Reg.KP_STRAY = 1 ∧
      rd (wr (pgHub 0) Reg.KL_REQ_TIMEOUT 1 asking) (pgHub 0) Reg.KL_REQ_TIMEOUT ≠ 0 ∧
      (leaves (.requestTimeout 5) (wr (pgHub 0) Reg.KL_REQ_TIMEOUT 1 asking)).bus.arrived.map Arrived.code = [0x404] ∧
      look 0 (leaves (.klRtData 0x80000000) State.reset).link.routes 0 = 0x80000000 := by decide +kernel

/-! ### The fabric, memory, the host -/

/-- A packet at the front of a port that is UP. -/
def arrived (n vc : Nat) (p : Packet) : State :=
  setPort n { rx := (packetFlits vc p).map fun f => ⟨f.vc, f.sop, padTo 240 f.payload⟩ } (portIn n 6)

def storePacket : Packet := { writePacket with dst := 5, addr := 0x100, poison := 0 }
def transitPacket : Packet := { storePacket with dst := 9 }
def wrongPacket : Packet := { storePacket with type := 6 }

/-- The module is module 5. -/
def five (s : State) : State := wr (pgHub 0) Reg.KL_MODULE 5 s

/-- Requests of registers and of other kinds, a READY and a release notice. -/
def loadPacket : Packet := { storePacket with type := 1, len := 3, data := [] }
def pagePacket : Packet := { storePacket with addr := regBase + 0x10014, data := [1, 0, 0, 0], len := 4 }
def addPacket : Packet := { storePacket with type := 3, len := 4, data := [1, 0, 0, 0] }
def answerPacket : Packet := { storePacket with type := 4, addr := 0, len := 0, data := [] }
def readyPacket : Packet := { storePacket with type := 5, addr := 1, len := 16, data := List.replicate 16 0 }
def releasePacket : Packet := { readyPacket with dst := 0xFFFF, addr := 9, len := 8, data := [2, 0, 0, 0, 0, 0, 0, 0] }

/-- What an arriving packet finds. -/
def served (p : Packet) : State := reachOwner (pgPort 31) (localOf p.addr) (five (arrived 31 7 p))

theorem witness_packets :
    frontPacket (getPort (arrived 31 7 wrongPacket) 31) 7 = .packet wrongPacket 1 ∧ badPacket wrongPacket = true ∧
      portState (arrived 31 7 wrongPacket) 31 = 6 ∧ badPacket storePacket = false ∧
      storePacket.dst = ownModule (five (arrived 31 7 storePacket)) ∧
      writeHeld (served storePacket) 0x100 3 = false ∧
      cellsAt (leaves (.packetArrival 31 7) (five (arrived 31 7 storePacket))) 0x100 3 = [1, 2, 3] ∧
      (getPort (leaves (.packetArrival 31 7) (five (arrived 31 7 storePacket))) 31).rx = [] ∧
      transitPacket.dst ≠ ownModule (five (arrived 0 0 transitPacket)) ∧ isNotice transitPacket = false ∧
      rd (leaves (.packetArrival 0 0) (five (arrived 0 0 transitPacket))) (pgHub 0) Reg.KL_UNSENT = 1 ∧
      rd (leaves (.packetArrival 31 7) (arrived 31 7 wrongPacket)) (pgPort 31) Reg.KP_BAD_PACKETS = 1 := by decide +kernel

theorem witness_packets_kinds :
    frontPacket (getPort (arrived 31 7 loadPacket) 31) 7 = .packet loadPacket 1 ∧ badPacket loadPacket = false ∧
      rd (leaves (.packetArrival 31 7) (five (arrived 31 7 loadPacket))) (pgHub 0) Reg.KL_UNSENT = 1 ∧
      regionOf (served pagePacket) (localOf pagePacket.addr) = .reg 0x10014 ∧
      behind (served pagePacket) (pgPort 31) (served pagePacket).bus.nextOrd (localOf pagePacket.addr) 4 = false ∧
      rd (leaves (.packetArrival 31 7) (five (arrived 31 7 pagePacket))) 0 Reg.PAGE_INT_ENABLE = 1 ∧
      (leaves (.packetArrival 31 7) (five (arrived 31 7 addPacket))).bus.adds.map Add.addr = [0x100] ∧
      rd (leaves (.packetArrival 31 7) (five (arrived 31 7 answerPacket))) (pgPort 31) Reg.KP_STRAY = 1 ∧
      badPacket readyPacket = false ∧ currentStep (five (arrived 31 7 readyPacket)) ≠ some (fld readyPacket.data 0 4) ∧
      rd (leaves (.packetArrival 31 7) (five (arrived 31 7 readyPacket))) pgGeneration Reg.GEN_STRAY = 1 ∧
      badPacket releasePacket = false ∧
      (getPort (leaves (.packetArrival 31 7) (five (arrived 31 7 releasePacket))) 31).rx = [] := by decide +kernel

theorem witness_memory_takes_packet :
    MemoryTakes (served storePacket) (pgPort 31) (served storePacket).bus.nextOrd 0x100 3 :=
  ⟨by decide +kernel, by decide +kernel, by decide +kernel, by decide +kernel, by decide +kernel⟩

theorem witness_page_takes_packet :
    PageTakes (served pagePacket) 0x10014 [1, 0, 0, 0]
      (regPieces 0 5 0x14 [1, 0, 0, 0] (served pagePacket)) :=
  ⟨by decide, by decide +kernel, .inr ⟨by decide, by decide, 0, by decide, by decide +kernel, by decide +kernel,
    .inl ⟨fun a n h => (by cases (show (none : Option (Nat × Nat)) = some (a, n) from h)), rfl⟩⟩⟩

/-- Channel `c` has been trained. -/
def trained (c : Nat) : State := with1 (pgChannel c) Reg.CH_STATE 0

/-- A request from outside the module's own units; module 2 has no route. -/
def routed : State := wr (pgPort 3) Reg.KP_STATUS_STATE 6 { trained 15 with link := { routes := [(2, 8)] } }

theorem witness_fabric_requests :
    moduleOf (0xFFFF * 2 ^ 48) = 0xFFFF ∧
      (leaves (.requestIssue 9 1 .read (0xFFFF * 2 ^ 48) 64 [] 0 9) routed).bus.arrived.map Arrived.code = [0x0202] ∧
      (leaves (.requestIssue 9 1 .write (0xFFFF * 2 ^ 48) 1 [7] 0 9) routed).bus.writeErr = [⟨⟨9, 1⟩, 0, 0x0202⟩] ∧
      moduleOf (2 * 2 ^ 48) ≠ 0xFFFF ∧ isLocal routed (2 * 2 ^ 48) = false ∧ behind routed 9 0 (2 * 2 ^ 48 + 0xFFF) 1 = false ∧
      (routeSelect routed 2 (requestHash 0xFFF 9)).toOption = some 3 ∧
      (leaves (.requestIssue 9 1 .read (2 * 2 ^ 48 + 0xFFF) 2 [] 0 9) routed).bus.outstanding.map Outstanding.len = [1, 1] ∧
      (leaves (.requestIssue 9 1 .write (2 * 2 ^ 48 + 0xFFF) 1 [7] 0 9) routed).bus.outstanding.map Outstanding.len = [1] ∧
      isLocal routed (gddrBase + 95999999999) = true ∧
      (leaves (.requestIssue 9 1 .read (gddrBase + 95999999999) 1 [] 0 9) routed).bus.arrived.map Arrived.data = [[(0, false)]] ∧
      cellAt (leaves (.requestIssue 9 1 .write (gddrBase + 95999999999) 1 [7] 0 9) routed) (gddrBase + 95999999999) = 7 ∧
      (leaves (.requestIssue 9 1 .read (regBase + 0x10000) 4 [] 0 9) routed).bus.arrived.map Arrived.data = [clean [1, 0, 0, 0]] ∧
      (leaves (.requestIssue 9 1 .write (regBase + 0x10014) 4 [1, 0, 0, 0] 0 9) routed).bus.regq.map RegWrite.off = [0x10014] ∧
      (leaves (.requestIssue 9 1 .atomic 0xFC0 4 [1, 0, 0, 0] 0 9) routed).bus.adds.map Add.val = [1] := by decide +kernel

/-- Page 0 of the wells is protected by a round. -/
def guarded0 : State := { State.reset with mem := { wprot := [(0, true)] } }

theorem witness_fabric_requests_memory :
    isMemory (trained 15) (gddrBase + 95999999999) = true ∧ gddrBase + 95999999999 < 2 ^ 48 ∧
      writeHeld (trained 15) (gddrBase + 95999999999) 1 = false ∧ writeHeld guarded0 0xFFFF 1 = true ∧
      (leaves (.memoryRead 5273 0xFC0 65 []) written).bus.arrived.map Arrived.data =
        [List.replicate 64 (7, false) ++ [(1, true)]] ∧
      (leaves (.memoryRead 5273 0xFC0 1 [(0xFC0 / 8, 1)]) written).bus.arrived.map Arrived.data = [[(7, false)]] ∧
      (leaves (.memoryWrite 5273 0xFFFF [9] 0) guarded0).bus.held.map HeldWrite.addr = [0xFFFF] ∧
      (leaves (.requestIssue 9 1 .write 0xFFFF 1 [7] 0 9) guarded0).bus.held.map HeldWrite.addr = [0xFFFF] ∧
      atPoint 15 0 (pgChannel 15) = true ∧ atPoint 63 0 (pgPort 31) = true ∧ atPoint 64 0 pgHost = true ∧
      arbFirst ([⟨0, pgHost, 4, 2, 0, 1⟩, ⟨0, pgHost, 3, 5, 0, 0⟩, ⟨0, pgPort 0, 0, 9, 0, 2⟩].filter
        fun r => atPoint 64 r.unit r.target) = some ⟨0, pgHost, 3, 5, 0, 0⟩ ∧
      (leaves (.arbGrant 64 [⟨0, pgHost, 4, 2, 0, 1⟩]) State.reset).bus.granted = [(64, 1)] ∧
      remainingSlack ⟨0, pgChannel 15, 4, 5, 0, 1⟩ < 0 ∧
      rd (leaves (.arbGrant 15 [⟨0, pgChannel 15, 4, 5, 0, 1⟩]) State.reset) (pgChannel 15) Reg.CH_LATE_GRANTS = 1 := by
  decide +kernel

theorem witness_memory_takes :
    MemoryTakes (reachOwner 9 (gddrBase + 95999999999) routed) 9 0 (gddrBase + 95999999999) 1 ∧
      MemoryTakes (reachOwner 9 0xFFFF (numbered guarded0)) 9 0 0xFFFF 1 :=
  ⟨⟨by decide +kernel, by decide, by decide +kernel, by decide +kernel, by decide +kernel⟩,
    ⟨by decide +kernel, by decide, by decide +kernel, by decide +kernel, by decide +kernel⟩⟩

theorem witness_page_reads : PageReads (reachOwner 9 (regBase + 0x10000) routed) 9 0x10000 4 [1, 0, 0, 0] :=
  ⟨by decide, by decide +kernel, by decide +kernel, by decide +kernel, by rfl⟩

theorem witness_memory_upkeep :
    ((leBytes 8 0x100 ++ leBytes 8 0x100 : List Byte)).length = 16 ∧ 0x100 < wellEnd ∧ 0x100 + 0x100 ≤ wellEnd ∧
      retireState State.reset = 0 ∧ retireState (with1 (pgHub 0) Reg.MEM_RETIRE_STATUS_STATE 1) = 1 ∧
      nextMigration (with1 (pgHub 0) Reg.MEM_RETIRE_STATUS_STATE 1) = none ∧
      nextMigration (memWrite gddrBase [(1, false)] (with1 (pgHub 0) Reg.MEM_RETIRE_STATUS_STATE 1)) = some 0 ∧
      (leaves .migrationCopy (memWrite gddrBase [(1, false)] (with1 (pgHub 0) Reg.MEM_RETIRE_STATUS_STATE 1))).mem.migrateK = 1 ∧
      retireState (leaves (.memRetire 15) State.reset) = 1 ∧
      retireState (leaves .migrationDone (with1 (pgHub 0) Reg.MEM_RETIRE_STATUS_STATE 1)) = 2 ∧
      rd State.reset (pgHub 0) Reg.MEM_SCRUB_RATE_GBH ≠ 0 ∧ rd State.reset (pgHub 0) Reg.MEM_SCRUB_WELL_PASS_S ≠ 0 ∧
      look 0 (leaves (.wellScrub 255 []) State.reset).mem.wellScrubNext 255 = 1 := by decide +kernel

theorem witness_memory_upkeep_refused :
    (leBytes 8 gddrBase ++ leBytes 8 4096 : List Byte).length = 16 ∧ 0 < rd State.reset (pgHub 0) Reg.MEM_LIMIT ∧
      4096 ≤ rd State.reset (pgHub 0) Reg.MEM_LIMIT ∧
      (leaves (.memDiscard 0x220 (leBytes 8 0x1000 ++ leBytes 8 0x100)) written).mem.cells.map Prod.fst =
        (List.range 64).map (0xFC0 + ·) ∧
      (leaves (.memDiscard 0x220 (leBytes 8 gddrBase ++ leBytes 8 4096)) (memWrite gddrBase [(1, false)] (trained 0))).mem.cells = [] ∧
      rd (leaves (.memDiscard 0x220 (leBytes 8 0x1001 ++ leBytes 8 0x100)) written) (pgHub 0) Reg.PAGE_ERR_COUNT = 1 ∧
      rd (leaves (.memDiscard 0x224 []) written) (pgHub 0) Reg.PAGE_ERR_COUNT = 1 ∧
      retireState (leaves (.memRetire 15) State.reset) ≠ 0 ∧
      rd (leaves (.memRetire 0) (leaves (.memRetire 15) State.reset)) (pgHub 0) Reg.PAGE_ERR_COUNT = 1 ∧
      isPoisoned (leaves .migrationCopy (wr (pgChannel 0) Reg.CH_STATE 2 (memWrite gddrBase [(1, false)]
        (with1 (pgHub 0) Reg.MEM_RETIRE_STATUS_STATE 1)))) (gddrBase / 64 + 3) = true := by decide +kernel

/-- A register write and an atomic add on their way. -/
def onTheWay : State := { State.reset with bus := {
  regq := [{ who := ⟨0, 0⟩, off := 0x10000 + pgHost * 0x1000 + 0x14, data := [1, 0, 0, 0] }]
  adds := [{ who := ⟨0, 0⟩, addr := 0xFC0, val := 2 ^ 32 - 1 }] } }

/-- A register write to a page that is RESETTING; adds to nowhere, to a register and to a peer. -/
def resetting0 : State := { onTheWay with rc := { locks := [⟨4, 0, 3, true⟩] }, bus := { onTheWay.bus with
  regq := [{ who := ⟨0, 0⟩, off := 0x10100, data := [1, 0, 0, 0] }] } }
def adds (a : Nat) (s : State) : State := { s with bus := { adds := [{ who := ⟨9, 0⟩, addr := a, val := 3 }] } }

theorem witness_register_delivery :
    onTheWay.bus.regq.length = 1 ∧
      behind onTheWay 0 0 (regBase + (0x10000 + pgHost * 0x1000 + 0x14)) 4 = false ∧
      (leaves (.registerWrite 0) onTheWay).bus.regq = [] ∧ resetting0.bus.regq.length = 1 ∧
      (leaves (.registerWrite 0) resetting0).bus.writeErr = [⟨⟨0, 0⟩, 0, 0x0801⟩] ∧
      onTheWay.bus.adds.length = 1 ∧ moduleOf 0xFC0 ≠ 0xFFFF ∧ isLocal onTheWay 0xFC0 = true ∧
      behind onTheWay 0 0 (wholeAddr onTheWay 0xFC0) 4 = false ∧
      isMemory (reachOwner 0 0xFC0 onTheWay) 0xFC0 = true ∧ gatedCluster (reachOwner 0 0xFC0 onTheWay) 0xFC0 = none ∧
      admitMem (reachOwner 0 0xFC0 onTheWay) 0xFC0 4 = .ok ∧ writeHeld (reachOwner 0 0xFC0 onTheWay) 0xFC0 4 = false ∧
      cellsAt (leaves (.atomicAddRequest 0) onTheWay) 0xFC0 4 = [255, 255, 255, 255] ∧
      (leaves (.atomicAddRequest 0) onTheWay).bus.adds = [] := by decide +kernel

theorem witness_register_delivery_adds :
    (leaves (.atomicAddRequest 0) (adds (0xFFFF * 2 ^ 48) routed)).bus.writeErr = [⟨⟨9, 0⟩, 0, 0x0202⟩] ∧
      regionOf routed (regBase + 0x10014) = .reg 0x10014 ∧ (regReadBytes routed 5 0x10014 4).toOption = some [0, 0, 0, 0] ∧
      rd (leaves (.atomicAddRequest 0) (adds (regBase + 0x10014) routed)) 0 Reg.PAGE_INT_ENABLE = 3 ∧
      isLocal routed (2 * 2 ^ 48) = false ∧ (routeSelect routed 2 (requestHash 0 9)).toOption = some 3 ∧
      (leaves (.atomicAddRequest 0) (adds (2 * 2 ^ 48) routed)).bus.outstanding.map Outstanding.len = [4] ∧
      (routeSelect routed 7 (requestHash 0 9)).toOption = none ∧
      (leaves (.atomicAddRequest 0) (adds (7 * 2 ^ 48) routed)).bus.writeErr = [⟨⟨9, 0⟩, 0, 0x0401⟩] ∧
      pgHost < pageCount ∧ rd (leaves (.intTest pgHost) State.reset) pgHost Reg.PAGE_INT_STATUS = 0x80000000 ∧
      look 0 (leaves (.hiVmapData 0x87FF) State.reset).host.vmap 0 = 0x87FF := by decide +kernel

theorem witness_page_takes :
    PageTakes onTheWay (0x10000 + pgHost * 0x1000 + 0x14) [1, 0, 0, 0]
      (regPieces pgHost 5 0x14 [1, 0, 0, 0] onTheWay) ∧
    PageTakes onTheWay 0xFFFC [1, 2, 3, 4] onTheWay ∧
    PageTakes onTheWay (0x10000 + pgHub 0 * 0x1000 + 0x220) (List.replicate 16 0)
      (portWrite (pgHub 0) 0x220 (List.replicate 16 0) onTheWay) :=
  ⟨⟨by decide, by decide +kernel, .inr ⟨by decide, by decide, pgHost, by decide, by decide +kernel, by decide +kernel,
      .inl ⟨fun a n h => (by cases (show (none : Option (Nat × Nat)) = some (a, n) from h)), rfl⟩⟩⟩,
    ⟨by decide, by decide +kernel, .inl ⟨by decide, rfl⟩⟩,
    ⟨by decide, by decide +kernel, .inr ⟨by decide, by decide, pgHub 0, by decide, by decide +kernel, by decide +kernel,
      .inr ⟨0x220, 16, rfl, by decide, .inl (by decide), fun _ => by decide +kernel, rfl⟩⟩⟩⟩

theorem witness_page_refuses : PageRefuses resetting0 0x10100 [1, 0, 0, 0] 0x0801 :=
  ⟨by decide, by decide +kernel, by decide, by decide +kernel⟩

theorem witness_host_accesses :
    (trained 0).powered = true ∧ endpointUp (trained 0) = true ∧ rd (trained 0) pgLockkeeper Reg.TR_BOOT_RECOVERY = 0 ∧
      bar0Allowed 0x10000 4 true = true ∧ (leaves (.bar0Access 0x10000 4 none false) (trained 0)).outs =
        [.hostCpl [1, 0, 0, 0] false] ∧
      bar0Allowed 0x3FFFFFC 8 true = false ∧
      (leaves (.bar0Access 0x3FFFFFC 8 none false) (trained 0)).outs = [.hostCpl (List.replicate 8 255) false] ∧
      bar0Allowed 0x10014 3 false = false ∧ rd (leaves (.bar0Access 0x10014 3 (some [1, 0, 0]) false) (trained 0)) pgHost Reg.HI_FAILS = 1 ∧
      bar0Allowed 0x10014 4 false = true ∧ behind (trained 0) pgHost 0 (regBase + 0x10014) 4 = false ∧
      rd (leaves (.bar0Access 0x10014 4 (some [1, 0, 0, 0]) false) (trained 0)) 0 Reg.PAGE_INT_ENABLE = 1 ∧
      leaves (.bar0Access 0x10014 4 (some [1, 0, 0, 0]) true) (trained 0) = trained 0 ∧
      rd (leaves (.bar0Access 0x10100 4 (some [1, 0, 0, 0]) false) resetting0) pgHost Reg.HI_LAST_FAIL_CODE = 0x0801 := by
  decide +kernel

/-- The aperture stands at module `m`, or at the registers. -/
def aimed (m : Nat) : State := wr pgHost Reg.HI_APERTURE (m * 2 ^ 18) routed
def aimedRegs : State := wr pgHost Reg.HI_APERTURE (regBase / 2 ^ 30) routed

theorem witness_host_accesses_bar2 :
    rd (trained 0) pgHost Reg.HI_APERTURE * 2 ^ 30 = gddrBase ∧ isLocal (trained 0) gddrBase = true ∧
      writeHeld (reachOwner pgHost gddrBase (numbered (trained 0))) gddrBase 1 = false ∧
      cellAt (leaves (.bar2Access 0 1 (some [9]) false) (trained 0)) gddrBase = 9 ∧
      (leaves (.bar2Access 0 1 none false) (trained 0)).outs = [.hostCpl [0] false] ∧
      moduleOf (rd (aimed 0xFFFF) pgHost Reg.HI_APERTURE * 2 ^ 30) = 0xFFFF ∧
      (leaves (.bar2Access 0 1 none false) (aimed 0xFFFF)).outs = [.hostCpl [255] false] ∧
      rd (leaves (.bar2Access 0 1 (some [9]) false) (aimed 0xFFFF)) pgHost Reg.HI_LAST_FAIL_CODE = 0x0202 ∧
      isLocal (aimed 2) (rd (aimed 2) pgHost Reg.HI_APERTURE * 2 ^ 30) = false ∧
      (arrivedFor (aimed 2) hostWho false (2 * 2 ^ 48) 8).isNone = true ∧ behind (aimed 2) pgHost 0 (2 * 2 ^ 48) 8 = false ∧
      (leaves (.bar2Access 0 8 none false) (aimed 2)).bus.outstanding.map Outstanding.len = [8] ∧
      (leaves (.bar2Access 0 8 none false) (deliver hostWho (2 * 2 ^ 48) 8 0 (clean [1, 2]) (aimed 2))).outs =
        [.hostCpl [1, 2] false] ∧
      (leaves (.bar2Access 0 1 (some [9]) false) (aimed 2)).bus.outstanding.map Outstanding.len = [1] ∧
      rd aimedRegs pgHost Reg.HI_APERTURE * 2 ^ 30 + regBase % 2 ^ 30 = regBase ∧
      (leaves (.bar2Access (regBase % 2 ^ 30 + 0x10000) 4 none false) aimedRegs).outs = [.hostCpl [1, 0, 0, 0] false] ∧
      rd (leaves (.bar2Access (regBase % 2 ^ 30 + 0x10014) 4 (some [1, 0, 0, 0]) false) aimedRegs) 0 Reg.PAGE_INT_ENABLE = 1 := by
  decide +kernel

theorem witness_host_memory :
    MemoryTakes (reachOwner pgHost gddrBase (trained 0)) pgHost 0 gddrBase 1 ∧
      PageReads (trained 0) pgHost 0x10000 4 [1, 0, 0, 0] :=
  ⟨⟨by decide +kernel, by decide, by decide +kernel, by decide +kernel, by decide +kernel⟩,
    ⟨by decide, by decide +kernel, by decide +kernel, by decide +kernel, by rfl⟩⟩

/-- A host read of 8 bytes is outstanding with tag 3. -/
def hostAsked : Outstanding := { tag := 3, who := ⟨0, 0⟩, kind := .read, host := true, dst := 0, addr := 0x40, len := 8 }
def hostAsking : State := { State.reset with bus := { outstanding := [hostAsked] } }
def inPerst : State := { State.reset with host := { perst := true, settings := false } }

/-- Ring 63 enabled. -/
def ringOn (s : State) : State := ringWr 63 Reg.WR_CFG_ENABLE 1 s

theorem witness_host_side :
    (hostAsking.bus.outstanding.find? fun o => o.tag == 3 && o.host) = some hostAsked ∧ hostAsked.stale = false ∧
      (leaves (.hostCompletion 3 [1] true) hostAsking).bus.arrived.map Arrived.data = [(1, true) :: List.replicate 7 (0, true)] ∧
      (leaves (.hostCplTimeout 3 false) hostAsking).bus.arrived.map Arrived.code = [0x426] ∧
      inPerst.host.perst = true ∧ (leaves .perstNDeassertion inPerst).host.perst = false ∧ State.reset.host.perst = false ∧
      (leaves (.configurationRequest ⟨2, none, true⟩) { inPerst with host := { settings := false } }).host.settings = true ∧
      (leaves (.configurationRequest ⟨2, none, false⟩) { inPerst with host := { settings := false } }).outs = [.cfgCpl true none] ∧
      look 0 (leaves (.configurationRequest ⟨4, some 7, false⟩) State.reset).host.cfg 4 = 7 ∧
      (look {} (leaves (.msixTableWrite 0x7FF0 (leBytes 8 0x1234 ++ leBytes 8 9)) State.reset).host.msix 2047).data = 9 ∧
      writable (ringOn State.reset) (ringPage 63) = true ∧ ringRd (ringOn State.reset) 63 Reg.WR_CFG_ENABLE = 1 ∧
      (1 + 2 ^ 32 - ringRd (ringOn State.reset) 63 Reg.WR_HEAD) % 2 ^ 32 ≤ ringSize (ringOn State.reset) 63 ∧
      ringRd (leaves (.doorbell 63 1) (ringOn State.reset)) 63 Reg.WR_TAIL = 1 ∧
      ringSize (ringOn State.reset) 63 < (65537 + 2 ^ 32 - ringRd (ringOn State.reset) 63 Reg.WR_HEAD) % 2 ^ 32 ∧
      rd (leaves (.doorbell 63 65537) (ringOn State.reset)) pgHost Reg.HI_DOORBELL_REFUSED = 1 ∧
      ringRd State.reset 63 Reg.WR_CFG_ENABLE = 0 ∧
      ringRd (leaves (.wrEnable 63 false) (ringOn State.reset)) 63 Reg.WR_CFG_ENABLE = 0 ∧
      ringRd (leaves (.wrEnable 63 true) State.reset) 63 Reg.WR_CFG_ENABLE = 1 := by decide +kernel

/-! ### The Lockkeeper -/

/-- The mailbox runs opcode `op`: flags, buffer address, length and first argument. -/
def serving (op flags addr len arg : Nat) : State :=
  { State.reset with rc := { mailbox := (leBytes 2 op ++ leBytes 2 7 ++ leBytes 4 flags ++
    leBytes 8 addr ++ leBytes 4 len ++ leBytes 8 arg ++ List.replicate 36 0) } }

/-- The same with a dump, its summary and a private key. -/
def withDump (s : State) : State :=
  { s with rc := { s.rc with dumps := [{ seq := 3, bytes := [1, 2] }], summaries := [(3, [4, 5])] }, tr := { key := some 9 } }

/-- SIGN_ROUND over a held round record with its COMPLETE flag, of one 64-byte page. -/
def signing : State :=
  let s := serving 8 1 0x8000 4096 0x10000
  let s := wr pgLockkeeper Reg.TR_STATUS_KEY_OK 1 (wr pgResilience Reg.RS_IMAGE_BYTES 4160 (wr pgResilience Reg.RS_HOLD_BYTES 0x20000 s))
  memWrite 0x1000C [(1, false)] { withDump s with rc := { s.rc with mailbox := (s.rc.mailbox.take 0x1C ++
    leBytes 8 0x9000 ++ s.rc.mailbox.drop 0x24) } }

/-- A signed READ_LIFE_LOG. -/
def signedLog : State := wr pgLockkeeper Reg.TR_STATUS_KEY_OK 1 (withDump (serving 3 3 0x100 0x100C0 0))

theorem witness_mailbox_commands :
    mbRuns (serving 1 0 0 0 0) 1 = true ∧ (leaves .getStatus (serving 1 0 0 0 0)).rc.mailbox = [] ∧
      mbRuns (serving 2 0 0 0 0) 2 = true ∧ mbRuns (serving 3 1 0x100 0x10000 0) 3 = true ∧
      mbRuns (serving 3 1 0x100 0 0) 3 = true ∧ mcLen (serving 3 1 0x100 0 0).rc.mailbox < (lifeExtract State.reset 0).length ∧
      (leaves .readLifeLog (serving 3 1 0x100 0 0)).rc.mbDone = some (0x424, 0) ∧
      mbRuns signedLog 3 = true ∧ mcSign signedLog.rc.mailbox = true ∧
      signedLog.tr.key = some 9 ∧ keyLocked signedLog = false ∧
      (lifeExtract signedLog 0).length + 192 ≤ mcLen signedLog.rc.mailbox ∧
      mbRuns (withDump (serving 4 1 0x100 2 3)) 4 = true ∧ look [] (withDump (serving 4 1 0x100 2 3)).rc.summaries 3 = [4, 5] ∧
      (leaves .readDumpSummary (withDump (serving 4 1 0x100 2 3))).outs = [.hostWrite 0x100 (clean [4, 5]) false] ∧
      (leaves .readDumpSummary (serving 4 1 0x100 2 3)).rc.mbDone = some (0x424, 0) ∧
      mbRuns (withDump (serving 5 0 0x100 2 3)) 5 = true ∧ mbRuns (serving 5 0 0x100 2 3) 5 = true ∧
      (leaves .readDump (withDump (serving 5 0 0x100 2 3))).rc.mbDone = some (0, 2) ∧
      (leaves .readDump (serving 5 0 0x100 2 3)).rc.mbDone = some (0x424, 0) ∧
      mbRuns (serving 6 0 0x10000 4096 0) 6 = true ∧ mbRuns signing 8 = true ∧ mbRuns (serving 7 0 0x100 320 0) 7 = true ∧
      configValid (List.replicate 320 0) = false ∧
      (leaves .writeConfig (serving 7 0 0x100 320 0)).rc.mbDone = some (0x701, 0) ∧
      mbRuns (serving 9 0 0 0 0) 9 = true := by
  and_intros <;> decide +kernel

theorem witness_mailbox_returns :
    Returned (serving 3 1 0x100 0x10000 0).rc.mailbox (lifeExtract State.reset 0) (serving 3 1 0x100 0x10000 0)
        { serving 3 1 0x100 0x10000 0 with outs := [.hostWrite 0x100 (clean (lifeExtract State.reset 0)) false] } ∧
      Returned (serving 4 0 0x100 2 3).rc.mailbox [4, 5] (serving 4 0 0x100 2 3)
        (out (busWrite lkWho 0x100 (clean [4, 5])) (serving 4 0 0x100 2 3)) :=
  ⟨⟨by decide +kernel, .inl ⟨by decide +kernel, rfl⟩⟩, ⟨by decide +kernel, .inr ⟨by decide +kernel, reads_of (by decide +kernel)⟩⟩⟩

/-- What WRITE_IMAGE and WRITE_CONFIG bring. -/
def imageBrought : List PByte := answer [] (busRead lkWho 0x10000 4096) (serving 6 0 0x10000 4096 0)
def configBrought : List PByte := answer [] (busRead lkWho 0x100 320) (serving 7 0 0x100 320 0)

theorem witness_mailbox_brings :
    Brought (serving 6 0 0x10000 4096 0).rc.mailbox 4096 (24 * 2 ^ 20) (imageBrought.map Prod.fst)
        (serving 6 0 0x10000 4096 0) (out (busRead lkWho 0x10000 4096) (serving 6 0 0x10000 4096 0)) ∧
      Brought (serving 7 0 0x100 320 0).rc.mailbox 320 (2 ^ 20) (configBrought.map Prod.fst) (serving 7 0 0x100 320 0)
        (out (busRead lkWho 0x100 320) (serving 7 0 0x100 320 0)) :=
  ⟨⟨by decide +kernel, by decide +kernel, imageBrought, rfl, by decide +kernel, reads_answer [] (by decide +kernel)⟩,
    ⟨by decide +kernel, by decide +kernel, configBrought, rfl, by decide +kernel, reads_answer [] (by decide +kernel)⟩⟩

/-- What SIGN_ROUND reads and digests there. -/
def roundRecord : List PByte := answer [] (busRead lkWho 0x10000 256) signing
def recordRead : State := out (busRead lkWho 0x10000 256) signing
def roundPages : List Byte × Bool := answer ([], true) (shaPages (digestRanges 0x11000 64)) recordRead
def pagesRead : State := out (shaPages (digestRanges 0x11000 64)) recordRead
def digestsLeft : State := out (busWrite digestWho 0x9000 (clean roundPages.1)) pagesRead

theorem witness_sign_round :
    mcArg signing.rc.mailbox 0 = 0x10000 ∧ mcArg signing.rc.mailbox 1 = 0x9000 ∧
      rd signing pgResilience Reg.RS_IMAGE_BYTES = 4160 ∧ heldHere signing 0x10000 4160 = true ∧
      rd signing pgResilience Reg.RS_DIGEST_GO = 0 ∧ 192 ≤ mcLen signing.rc.mailbox ∧
      (result (busRead lkWho 0x10000 256) signing).isSome = true ∧ roundRecord.any Prod.snd = false ∧
      bitOf (fld (roundRecord.map Prod.fst) 0xC 4) 0 = true ∧ keyLocked signing = false ∧
      (result (shaPages (digestRanges 0x11000 64)) recordRead).isSome = true ∧ roundPages.2 = false ∧
      result (busWrite digestWho 0x9000 (clean roundPages.1)) pagesRead = some () ∧
      digestsLeft.tr.key = some 9 ∧ keyLocked digestsLeft = false ∧
      result (busWrite lkWho 0x8000 (clean (List.replicate 192 0))) (bump pgLockkeeper Reg.TR_SIGNATURES 1 digestsLeft) = some () := by
  decide +kernel

theorem witness_mailbox_long_done :
    (leaves .readDump (withDump (serving 5 0 0x100 2 3))).rc.mbDone = some (0, 2) ∧
      (leaves .readDump (withDump (serving 5 0 0x100 2 3))).rc.mbHead = [] ∧
      lockState (leaves .readDump (withDump (serving 5 0 0x100 2 3))) pgLockkeeper = 0 ∧
      accepted (leaves .readDump (withDump (serving 5 0 0x100 2 3))) digestWho = true ∧
      accepted (leaves .readDump (withDump (serving 5 0 0x100 2 3))) lkWho = true ∧
      rd (leaves .mailboxLongDone (leaves .readDump (withDump (serving 5 0 0x100 2 3)))) pgLockkeeper
        Reg.LK_MB_STATUS_STATE = 2 := by decide +kernel

/-- `LK_MB_CMD` holds opcode `op`. -/
def commanding (op : Nat) : State := with1 pgLockkeeper Reg.LK_MB_CMD op

theorem witness_mailbox_go :
    (serving 1 0 0 0 0).rc.mailbox ≠ [] ∧ (commanding 9).rc.mailbox = [] ∧ lockState (commanding 9) pgLockkeeper = 0 ∧
      mcOp (mbCommand (commanding 9)) = 9 ∧ mcOp (mbCommand (commanding 10)) = 10 ∧
      rd (commanding 9) pgLockkeeper Reg.TR_BOOT_RECOVERY = 0 ∧
      rd (wr pgLockkeeper Reg.TR_BOOT_RECOVERY 1 (commanding 2)) pgLockkeeper Reg.TR_BOOT_RECOVERY = 1 ∧
      rd (mailboxGo (wr pgLockkeeper Reg.TR_BOOT_RECOVERY 1 (commanding 2))) pgLockkeeper Reg.LK_MB_STATUS_STATE = 3 ∧
      (mailboxGo (commanding 9)).rc.mailbox.length = 64 := by decide +kernel

/-- The identity key is there and good, and the running configuration block names a debug key. -/
def keyed : State := { with1 pgLockkeeper Reg.TR_STATUS_KEY_OK 1 with
  tr := { key := some 9, active := List.replicate 0x20 0 ++ List.replicate 32 1, stage := 3 } }

theorem witness_keyring_and_debug :
    keyed.tr.key = some 9 ∧ keyLocked keyed = false ∧ keyBad keyed = false ∧
      (pointOf (pointBytes eccBase)).isSome = true ∧ (cfgDebugKey keyed.tr.active).all (· == 0) = false ∧
      keyed.tr.debugFails < 3 ∧
      (leaves (.keyringRandom 4) keyed).drawn = 4 := by decide +kernel

/-- A configuration block whose debug key and signature are those of private key 1. -/
def ownBlock : List Byte :=
  leBytes 4 0x4B474643 ++ leBytes 2 1 ++ leBytes 2 0 ++ leBytes 4 5 ++ List.replicate 20 0 ++ sha256 (pointBytes eccBase) ++
    List.replicate 16 0 ++ leBytes 4 320 ++ List.replicate 172 0 ++
    beBytes 32 33436750959680601708968496190827284602000455703152024372022318183497638894912 ++
    beBytes 32 28354171800136594553247442066778818392667890242869060260553816452762745703858

theorem witness_configuration_block (chains : Config.chainsToRoot (cfgModuleCa ownBlock) = true)
    (key : Config.certKey (cfgModuleCa ownBlock) = pointBytes eccBase) : configValid ownBlock = true := by
  unfold configValid
  rw [chains, key]
  decide +kernel

/-- The port has sent a challenge of zeros under that block. -/
def challenged : State := { keyed with tr := { keyed.tr with active := ownBlock, challenge := some (List.replicate 32 0) } }

theorem witness_debug_port :
    challenged.tr.debugFails < 3 ∧ (cfgDebugKey challenged.tr.active).all (· == 0) = false ∧
      sha256 (pointBytes eccBase) = cfgDebugKey challenged.tr.active ∧
      ecdsaVerify (pointBytes eccBase) (sha256 (List.replicate 32 0 ++ cfgSerial challenged.tr.active))
        (beBytes 32 109314090998637266134309130306236924651172091651784805786742825953528607007516 ++
          beBytes 32 10820795844745262547047164363599760304296990743722355866961778752070736548322) = true ∧
      sha256 [1] ≠ cfgDebugKey challenged.tr.active ∧ keyed.tr.challenge = none ∧
      (leaves (.debugAuth [1] []) challenged).tr.debugFails = 1 ∧
      3 ≤ (leaves (.debugAuth [] []) (leaves (.debugAuth [] []) (leaves (.debugAuth [] []) keyed))).tr.debugFails ∧
      State.reset.tr.key = none ∧ keyLocked State.reset = true ∧ keyBad State.reset = true ∧
      (leaves (.keyringRandom 4) State.reset).tr.answer = (0x0710, []) := by
  and_intros <;> decide +kernel

theorem witness_certificates : 0 < (certChain keyed).length := by
  have h : 0 < cfgNat keyed.tr.active 0x4C 4 := by decide +kernel
  simp only [certChain, cfgChain, flashAt, List.length_append, List.length_take, List.length_drop, List.length_replicate]
  omega

theorem witness_spdm_negotiation :
    1 ≤ keyed.tr.stage ∧ 2 ≤ keyed.tr.stage ∧ 3 ≤ keyed.tr.stage ∧ keyed.tr.key = some 9 ∧ keyLocked keyed = false ∧
      (leaves .getVersion keyed).tr.stage = 1 ∧ State.reset.tr.stage < 3 ∧
      (leaves .getDigests State.reset).outs = (spdmError 0x04 State.reset).outs ∧
      (leaves (.getMeasurements 9 false []) keyed).outs = (spdmError 0x01 keyed).outs ∧
      (leaves (.negotiateAlgorithms false) keyed).outs = (spdmError 0x01 keyed).outs ∧
      (leaves .getCapabilities { keyed with tr := { stage := 1 } }).tr.stage = 2 := by decide +kernel

/-- A session, established or not. -/
def inSession (e : Bool) : State := { keyed with tr := { keyed.tr with sessions := [{ id := 1, established := e, secret := 0 }] } }

def fullSessions : State := { keyed with tr := { keyed.tr with sessions := (List.range 4).map fun n => { id := n, secret := 0 } } }

theorem witness_spdm_sessions :
    keyed.tr.sessions.length < 4 ∧ (pointOf (pointBytes eccBase)).isSome = true ∧ 4 ≤ fullSessions.tr.sessions.length ∧
      (leaves (.keyExchange 0 (pointBytes eccBase) []) fullSessions).outs = (spdmError 0x0A fullSessions).outs ∧
      (keyed.tr.sessions.find? fun x => x.id == 1 && x.established == true) = none ∧
      (leaves (.heartbeat 1) keyed).outs = (spdmError 0x02 keyed).outs ∧
      (leaves (.finish 1 false) (inSession false)).tr.sessions = [] ∧
      ((inSession false).tr.sessions.find? fun x => x.id == 1 && x.established == false).isSome = true ∧
      ((inSession true).tr.sessions.find? fun x => x.id == 1 && x.established == true).isSome = true ∧
      (leaves (.finish 1 true) (inSession false)).tr.sessions = [{ id := 1, established := true, secret := 0 }] ∧
      (leaves (.keyUpdate 1) (inSession true)).tr.sessions.map Session.updates = [1] ∧
      (leaves (.endSession 1) (inSession true)).tr.sessions = [] := by decide +kernel

/-- A domain in a lock state of its own. -/
def lockedIn (kind inst state : Nat) : State := { State.reset with rc := { locks := [⟨kind, inst, state, true⟩] } }

/-- HD0 drains while its Wellhead holds a command. -/
def drainingHub : State := { lockedIn 1 0 1 with whq := [(0, [List.replicate 64 0])] }

theorem witness_locks_and_requests :
    ownState (lockedIn 6 31 1) 6 31 1 = true ∧ domainHolds (lockedIn 6 31 1) 6 31 = false ∧
      ownState drainingHub 1 0 1 = true ∧ domainHolds drainingHub 1 0 = true ∧
      lockState (leaves (.lockDrained 1 0) drainingHub) (pgHub 0) = 1 ∧
      lockState (leaves (.domainLock 4 4351) State.reset) (pgTile 4351) = 1 ∧
      lockState (leaves (.lockDrained 6 31) (lockedIn 6 31 1)) (pgPort 31) = 2 ∧
      rd (leaves (.drainBoundExpiry 6 31) (lockedIn 6 31 1)) pgLockkeeper Reg.RC_DRAIN_EXPIRED = 1 := by decide +kernel

/-- A reset of port 31 runs. -/
def resetting : State := { State.reset with rc := {
  locks := [⟨6, 31, 3, true⟩], resets := [{ kind := 6, inst := 31, cause := 6 }] } }

/-- The module's reset runs. -/
def resettingModule : State := { State.reset with rc := {
  locks := [⟨0, 0, 3, true⟩], resets := [{ kind := 0, inst := 0, cause := 6 }] } }

theorem witness_reset_kinds :
    (resetting.rc.resets.find? fun x => x.kind == 6 && x.inst == 31).isSome = true ∧ ownState resetting 6 31 3 = true ∧
      (leaves (.resetComplete 6 31 []) resetting).rc.resets = [] ∧ keeperUp State.reset = true ∧
      (resettingModule.rc.resets.find? fun x => x.kind == 0 && x.inst == 0).isSome = true ∧
      ownState resettingModule 0 0 3 = true ∧ keeperUp resettingModule = true ∧
      rd State.reset pgLockkeeper Reg.TR_BOOT_SLOT < 2 ∧
      rd (with1 pgLockkeeper Reg.RC_HEARTBEAT_PHASE 1) pgLockkeeper Reg.RC_WDOG_AUTO ≠ 0 ∧
      rd (leaves .lkWatchdog (with1 pgLockkeeper Reg.RC_HEARTBEAT_PHASE 1)) pgLockkeeper Reg.RC_LK_HANGS = 1 ∧
      lockState State.reset pgLockkeeper = 0 ∧ rd State.reset pgLockkeeper Reg.TR_BOOT_RECOVERY = 0 ∧
      rd (leaves (.lkHeartbeat 2) State.reset) pgLockkeeper Reg.RC_HEARTBEAT_PHASE = 2 ∧
      rd (with1 pgLockkeeper Reg.RC_HEARTBEAT_PHASE 1) pgLockkeeper Reg.RC_HEARTBEAT_PHASE ≠ 0 ∧
      rd (wr pgLockkeeper Reg.RC_WDOG_AUTO 0 State.reset) pgLockkeeper Reg.RC_WDOG_AUTO = 0 ∧
      (leaves (.coldPowerUp []) written).mem.cells = [] := by decide +kernel

/-- Cluster 255 has a substitution asked for, its tile 0 LOCKED. -/
def substituting : State :=
  wr (pgCluster 255) Reg.CL_TILE_MAP_PENDING 1 (wr (pgCluster 255) Reg.CL_TILE_MAP_SUBST_ACTIVE 1 (lockedIn 4 4335 2))

/-- The module has tripped. -/
def tripped : State := { with1 pgLockkeeper Reg.RC_PSTATE_TARGET 3 with rc := { tripped := true } }

theorem witness_power_management :
    2 ≠ rd State.reset pgLockkeeper Reg.RC_PSTATE_TARGET ∧ powerBusy State.reset = false ∧ State.reset.rc.tripped = false ∧
      0 ≠ rd (with1 pgLockkeeper Reg.RC_PSTATE_TARGET 2) pgLockkeeper Reg.RC_PSTATE_TARGET ∧
      powerBusy (with1 pgGeneration Reg.GEN_CTRL_ENABLE 1) = true ∧
      rd (leaves (.pstateTarget 3) (with1 pgGeneration Reg.GEN_CTRL_ENABLE 1)) pgLockkeeper Reg.RC_PSTATE_TARGET = 0 ∧
      tripped.rc.tripped = true ∧ rd (leaves (.pstateTarget 0) tripped) pgLockkeeper Reg.RC_PSTATE_TARGET = 3 ∧
      pstate State.reset < 2 ∧ rd (with1 pgLockkeeper Reg.RC_PSTATE_IDLE_US 1) pgLockkeeper Reg.RC_PSTATE_IDLE_US ≠ 0 ∧
      clusterIdle (with1 pgLockkeeper Reg.RC_PSTATE_IDLE_US 1) 255 = true ∧
      look false (leaves (.clusterGate 255) (with1 pgLockkeeper Reg.RC_PSTATE_IDLE_US 1)).gated 255 = true ∧
      look false { State.reset with waking := [(255, true)] }.waking 255 = true ∧
      writable (lockedIn 4 4335 2) (pgCluster 255) = true ∧
      1 ≠ rd (lockedIn 4 4335 2) (pgCluster 255) Reg.CL_TILE_MAP_SUBST_ACTIVE ∧
      lockState (lockedIn 4 4335 2) (pgTile 4335) = 2 ∧ lockState (lockedIn 4 4335 2) (pgTile 4351) = 0 ∧
      isSet (leaves (.clTileMapWrite 255 1 0) (lockedIn 4 4335 2)) (pgCluster 255) Reg.CL_TILE_MAP_PENDING = true ∧
      lockState State.reset (pgTile 4335) ≠ 2 ∧
      rd (leaves (.clTileMapWrite 255 1 0) State.reset) (pgCluster 255) Reg.PAGE_ERR_COUNT = 1 ∧
      (leaves (.clusterWake 255) { State.reset with waking := [(255, true)], gated := [(255, true)] }).gated = [] ∧
      isSet substituting (pgCluster 255) Reg.CL_TILE_MAP_PENDING = true ∧ clusterBoundary substituting 255 = true ∧
      look 0 (leaves (.substitutionApply 255) substituting).subst 255 = 1 ∧
      rd (leaves (.pwCapWrite 8191) State.reset) pgLockkeeper Reg.PW_CAP_WATTS = 4600 ∧
      lockState State.reset pgLockkeeper ≠ 3 ∧
      rd (leaves (.powerInterval 100 540 20 0 0 0) State.reset) pgLockkeeper Reg.PW_STATUS_VIN = 540 ∧
      throttleC (with1 pgLockkeeper Reg.PW_TEMP_DIE_C 95) ≤ rd (with1 pgLockkeeper Reg.PW_TEMP_DIE_C 95) pgLockkeeper
        Reg.PW_TEMP_DIE_C ∧
      rd (leaves (.powerInterval 100 540 20 0 0 0) (with1 pgLockkeeper Reg.PW_TEMP_DIE_C 95)) pgLockkeeper
        Reg.RC_THROTTLE_THERMAL = 1 ∧
      pstate State.reset ≠ 3 ∧
      rd (leaves (.thermalSample 109 255 0) State.reset) pgLockkeeper Reg.PW_TEMP_DIE_C = 109 := by decide +kernel

/-- Cluster 255 is gated. -/
def asleep : State := { State.reset with gated := [(255, true)] }

theorem witness_spare_columns :
    hasArray (pgTile 4351) 0 = true ∧ hasArray (pgAttention 255) 1 = true ∧ pgAttention 255 < pageCount ∧
      lockState State.reset (pgAttention 255) ≠ 3 ∧ spareReq State.reset (pgAttention 255) 1 ≠ 1 ∧
      sparePending (leaves (.haSpareWrite (pgAttention 255) 1 1 63) State.reset) (pgAttention 255) 1 = true ∧
      atBoundary (wr (pgAttention 255) Reg.AP_STATUS_STATE 2 State.reset) (pgAttention 255) = true ∧
      arrayIdle (wr (pgAttention 255) Reg.AP_STATUS_STATE 2 State.reset) (pgAttention 255) = true ∧
      spareColActive (leaves (.spareMapApply (pgAttention 255) 1) (wr (pgAttention 255) Reg.AP_STATUS_STATE 2
        (leaves (.haSpareWrite (pgAttention 255) 1 1 63) State.reset))) (pgAttention 255) 1 = 63 ∧
      lockState (lockedIn 4 4351 2) (pgTile 4351) = 2 ∧ testing (lockedIn 4 4351 2) (pgTile 4351) 0 = false ∧
      testing (leaves (.haTestStart (pgTile 4351) 0) (lockedIn 4 4351 2)) (pgTile 4351) 0 = true ∧
      lockState (lockedIn 4 4351 1) (pgTile 4351) = 1 ∧
      testing (leaves (.haSelfTestDone (pgTile 4351) 0 [] false)
        (leaves (.haTestStart (pgTile 4351) 0) (lockedIn 4 4351 2))) (pgTile 4351) 0 = false ∧
      look [] (leaves (.haSelfTestDone (pgTile 4351) 0 [64] true)
        (leaves (.haTestStart (pgTile 4351) 0) (lockedIn 4 4351 2))).faulty (pgTile 4351 * 2) = [64] ∧
      clusterOfPage (pgTile 4351) = some 255 ∧ look false (lockedIn 4 4351 2).gated 255 = false ∧
      look false asleep.gated 255 = true ∧ sparePending (leaves (.haSpareWrite (pgTile 4351) 0 1 63) asleep) (pgTile 4351) 0 = false ∧
      rd (leaves (.haTestStart (pgTile 4351) 0) (lockedIn 4 4351 1)) (pgTile 4351) Reg.PAGE_ERR_COUNT = 1 := by decide +kernel

theorem witness_page_awake : pageAwake (lockedIn 4 4351 2) (pgTile 4351) := by
  intro k h
  cases (show some 255 = some k from h)
  rfl

/-! ### Work rings -/

/-- Ring 63 runs an entry. -/
def running (op addr arg0 : Nat) : State := setEntry 63 { busy := true, op := op, tag := 9, addr := addr, arg0 := arg0 } State.reset

/-- Ring 63 is enabled with one NOP entry at its base, a well address. -/
def ringReadyState : State :=
  ringWr 63 Reg.WR_TAIL 1 (ringOn (ringWr 63 Reg.WR_BASE 0x1000 (memWrite 0x1000 (clean [1]) State.reset)))

/-- An EXPORT descriptor at 0x1000 with one entry, of 64 F32 values at 0x2000, for the binding of micro-batch 1. -/
def exporting : State :=
  let d := leBytes 4 1 ++ leBytes 4 1 ++ leBytes 8 0x1800 ++ leBytes 8 0x4000 ++ leBytes 8 0x1000
  let x := leBytes 4 0 ++ leBytes 4 0 ++ leBytes 4 0 ++ leBytes 4 64 ++ leBytes 8 0x2000 ++ leBytes 8 0
  let s := memWrite 0x1000 (clean d) (memWrite 0x1800 (clean x) (running 3 0x1000 0))
  { wr pgLockkeeper Reg.TR_STATUS_KEY_OK 1 s with
    tr := { key := some 9 }, gen := { binds := [(1, { seq := 1, gen := 0, step := none, sample := 0 })] } }

/-- A stage of one unit: kind, unit, well offset or header offset of the image at 0x2000. -/
def stageOf (kind unit off hdr : Nat) : List Byte :=
  leBytes 2 0 ++ leBytes 2 kind ++ leBytes 2 unit ++ leBytes 2 1 ++ leBytes 8 0x8000 ++ leBytes 8 0x2000 ++
    leBytes 8 256 ++ leBytes 4 off ++ leBytes 4 hdr ++ leBytes 24 0

/-- Ring 63 runs a LOAD_STEP of the stages `b`. -/
def loading (b : List Byte) : State := memWrite 0x1000 (clean b) (running 2 0x1000 (b.length / 64))

/-- Its one entry is malformed. -/
def malformed : State := memWrite 0x1000 (clean [7]) ringReadyState

/-- The entry as it is read, and the state that it leaves. -/
def entryRead (s : State) : List Byte := answer [] (ringRead 63 false 0x1000 64) (servedRing 63 s)

theorem witness_ring_turn :
    lockState State.reset (ringPage 63) = 0 ∧ (ringEntryOf ringReadyState 63).busy = false ∧
      nextRing ringReadyState 1 = some 63 ∧ (result (ringRead 63 false 0x1000 64) (servedRing 63 ringReadyState)).isSome = true ∧
      (ringRd ringReadyState 63 Reg.WR_CFG_LOC == 1) = false ∧
      ringRd ringReadyState 63 Reg.WR_BASE + 64 * (ringRd ringReadyState 63 Reg.WR_HEAD % ringSize ringReadyState 63) = 0x1000 ∧
      entryMalformed (entryRead ringReadyState) = false ∧ fld (entryRead ringReadyState) 0 1 = 1 ∧
      (out (ringRead 63 false 0x1000 64) (servedRing 63 ringReadyState)).powered = true ∧
      (ringEntryOf (leaves (.wrNop 63) ringReadyState) 63).finished = true ∧
      nextRing malformed 1 = some 63 ∧ entryMalformed (entryRead malformed) = true ∧
      (ringEntryOf (leaves (.wrExport 63) malformed) 63).code = 0x01C0 := by decide +kernel

theorem witness_ring_entries :
    (ringEntryOf (running 4 0x100 7) 63).busy = true ∧ (ringEntryOf (running 4 0x100 7) 63).finished = false ∧
      (ringEntryOf (running 4 0x100 7) 63).stage = 0 ∧ (ringEntryOf (running 1 0 0) 63).op = 1 ∧
      result (busWriteNat (ringWho 63) 0x100 8 7) (running 4 0x100 7) = some () ∧
      cellAt (leaves (.wrWrite 63) (running 4 0x100 7)) 0x100 = 7 ∧
      refusal (busWriteNat (ringWho 63) (0xFFFF * 2 ^ 48) 8 7) (running 4 (0xFFFF * 2 ^ 48) 7) = some 0x0202 ∧
      (leaves (.wrAdd 63) (running 6 0x100 7)).bus.adds.map Add.val = [7] ∧
      result (ringRead 63 false 0x100 4) (running 5 0x100 0) = some [0, 0, 0, 0] ∧
      (ringEntryOf (leaves (.wrWait 63) (running 5 0x100 0)) 63).finished = true ∧
      (result (ringRead 63 false 0x1000 64) (loading (stageOf 3 0 0 0))).isSome = true ∧
      stagesRefused [⟨stageOf 3 0 0 0⟩] = some 0x0130 ∧ stagesRefused [⟨stageOf 1 256 0 0⟩] = some 0x0131 ∧
      stagesRefused [⟨stageOf 2 31 0 0⟩, ⟨stageOf 2 31 0 0⟩] = some 0x0132 ∧
      (ringEntryOf (leaves (.wrLoadStep 63) (loading (stageOf 3 0 0 0))) 63).code = 0x0130 ∧
      stagesRefused [⟨stageOf 0 255 0x100 0⟩] = none ∧ Stage.units ⟨stageOf 0 255 0x100 0⟩ = [4095] ∧
      physicalOf (loading (stageOf 0 255 0x100 0)) 4095 = 4350 ∧
      (result (busRead (ringWho 63) 0x2000 256) (loading (stageOf 0 255 0x100 0))).isSome = true ∧
      result (busWriteNow (ringWho 63) 0 (wellBase 4350 + 0x100) (List.replicate 256 (0, false)))
        (numbered (loading (stageOf 0 255 0x100 0))) = some () ∧
      result (loadStages 63 [⟨stageOf 0 255 0x100 0⟩, ⟨stageOf 1 255 0 0⟩]) (loading (stageOf 0 255 0x100 0)) = some () ∧
      stagesRefused [⟨stageOf 1 255 0 0⟩] = none ∧ lockState (loading (stageOf 1 255 0 0)) (pgAttention 255) = 0 ∧
      (result (ringRead 63 false 0x2000 256) (loading (stageOf 1 255 0 0))).isSome = true ∧
      rd (leaves (.wrLoadStep 63) (memWrite 0x2000 (clean (List.replicate 256 7)) (loading (stageOf 1 255 0 0))))
        (pgAttention 255) Reg.AP_STATUS_STATE ≠ 0 ∧
      stagesRefused [⟨stageOf 2 31 0 0⟩] = none ∧ lockState (loading (stageOf 2 31 0 0)) (pgHandpump 31) = 0 ∧
      (result (ringRead 63 false 0x2000 256) (loading (stageOf 2 31 0 0))).isSome = true := by
  and_intros <;> decide +kernel

/-- Its descriptor and list as they are read; a descriptor of no entry. -/
def exportRead : List Byte := answer [] (ringRead 63 false 0x1000 64) exporting
def exportList : List ExportEntry := (piecesOfList 32 2 (answer [] (ringRead 63 false 0x1800 32) exporting)).map ExportEntry.mk
def exportSigned : State := leaves (.wrExport 63) exporting
def exportFailed : State := { exportSigned with bus := { exportSigned.bus with writeErr := [⟨ringWho 63, 0, 0x0220⟩] } }

theorem witness_exports :
    (result (ringRead 63 false 0x1000 64) exporting).isSome = true ∧ fld exportRead 0 4 / 512 = 0 ∧
      zeroFrom exportRead 0x28 0x40 = true ∧ fld exportRead 4 4 = 1 ∧ fld exportRead 8 8 = 0x1800 ∧
      (result (ringRead 63 false 0x1800 32) exporting).isSome = true ∧ exportRefused exporting exportRead exportList = none ∧
      (exporting.gen.binds.find? fun e => e.1 == fld exportRead 0 1).isSome = true ∧
      (result (exportEntries 63 0 192 exportList) exporting).isSome = true ∧
      (ringEntryOf exportSigned 63).stage = 1 ∧ (ringEntryOf exportSigned 63).busy = true ∧
      (ringEntryOf exportSigned 63).finished = false ∧
      (ringEntryOf (leaves (.wrExport 63) (running 3 0x1000 0)) 63).code = 0x0190 ∧
      exportRefused { exporting with gen := {} } exportRead exportList = some 0x0192 ∧
      accepted exportSigned (ringWho 63) = true ∧ exportSigned.tr.key = some 9 ∧ keyLocked exportSigned = false ∧
      result (exportWrite 63 false false (ringEntryOf exportSigned 63).signAt (List.replicate 64 0))
        (bump pgLockkeeper Reg.TR_SIGNATURES 1 exportSigned) = some () ∧
      keyLocked (wr pgLockkeeper Reg.TR_STATUS_KEY_OK 0 exportSigned) = true ∧
      (ringEntryOf (leaves (.exportSign 63) (wr pgLockkeeper Reg.TR_STATUS_KEY_OK 0 exportSigned)) 63).code = 0x0710 ∧
      answered exportFailed (ringWho 63) = true ∧ writeCode exportFailed (ringWho 63) = 0x0220 ∧
      (ringEntryOf (leaves (.exportSign 63) exportFailed) 63).code = 0x0220 := by decide +kernel

/-- Ring 63 in host memory, its entry finished with code `c`. -/
def ended (c : Nat) : State :=
  ringWr 63 Reg.WR_CFG_LOC 1 (setEntry 63 { busy := true, finished := true, op := 1, tag := 9, code := c } State.reset)

/-- The same in the module's memory. -/
def endedHere : State := ringWr 63 Reg.WR_CFG_LOC 0 (ended 0)
def recorded : State := setEntry 63 { busy := true, finished := true, op := 1, tag := 9, stage := 3 } State.reset

theorem witness_ring_completion :
    ringRd (ended 0) 63 Reg.WR_CFG_LOC = 1 ∧ (ringEntryOf (ended 0) 63).busy = true ∧
      (ringEntryOf (ended 0) 63).finished = true ∧ (ringEntryOf (ended 0) 63).stage < 2 ∧
      answered (ended 0) (ringWho 63) = true ∧ answered (ended 0) (recordWho 63) = true ∧
      (leaves (.wrCompletion 63) (ended 0)).outs.length = 2 ∧
      ringRd (leaves (.wrCompletion 63) (ended 0x1C0)) 63 Reg.WR_CFG_HALTED = 1 ∧
      ringEntryOf (leaves (.wrCompletion 63) (ended 0x1C0)) 63 = {} ∧
      answered endedHere (ringWho 63) = true ∧ ringEntryOf (leaves (.wrCompletion 63) endedHere) 63 = {} ∧
      (ringEntryOf recorded 63).stage = 3 ∧ answered recorded (recordWho 63) = true ∧
      ringEntryOf (leaves (.wrCompletion 63) recorded) 63 = {} ∧
      ringRd (leaves (.wrCompletion 63) recorded) 63 Reg.WR_HEAD = 1 := by decide +kernel

/-! ### Tiles -/

/-- `n` bytes of a descriptor from values at byte offsets. -/
def desc (n : Nat) (fs : List (Nat × Nat)) : List Byte := leBytes n (fs.foldl (fun v f => v + f.2 * 256 ^ f.1) 0)

/-- An instruction of a list. -/
def insBytes (opc flags mb a0 a1 a2 : Nat) : List Byte :=
  leBytes 1 opc ++ leBytes 1 flags ++ leBytes 1 mb ++ [0] ++ leBytes 4 a0 ++ leBytes 4 a1 ++ leBytes 4 a2

/-- Tile 0 runs a main list of one instruction at 0x1000 whose descriptor stands at 0x2000. -/
def runTile (i d : List Byte) (s : State) : State :=
  setSched 0 1 (setTile 0 { mainBase := 0x1000, mainLen := 1, fillBase := 0x1100, fillLen := 2, compLen := 16 }
    (memWrite 0x2000 (clean d) (memWrite 0x1000 (clean i) s)))

/-- The head of a tile's main list. -/
def headOf (s : State) : Head :=
  match answer none (mainHead 0) s with
  | some h => h
  | none => ⟨false, false, 0, 0, 0, 0, 0, 0, 0⟩

/-- The state once the head and what names its kind have been read. -/
def headRead (p : Head → M Bool) (s : State) : State := out (p (headOf s)) (out (mainHead 0) s)

/-- The head stands there, is of the kind, and passes the checks of the list. -/
def headStands (p : Head → M Bool) (s : State) : Bool :=
  result (mainHead 0) s == some (some (headOf s)) && result (p (headOf s)) (out (mainHead 0) s) == some true
    && !bitOf (headOf s).flags 1 && listChecks (headRead p s) 0 (headOf s) == none

theorem headAt_of {p : Head → M Bool} {s : State} (c : headStands p s = true) :
    HeadAt s 0 p (headOf s) (headRead p s) := by
  simp only [headStands, Bool.and_eq_true, beq_iff_eq, Bool.not_eq_true'] at c
  exact ⟨⟨_, reads_of c.1.1.1, reads_of c.1.1.2⟩, .inl c.1.2, c.2⟩

/-- The ring's entry. -/
def ringOf (s : State) : Head :=
  match answer none (ringHead 0) s with
  | some h => h
  | none => ⟨false, false, 0, 0, 0, 0, 0, 0, 0⟩

/-- The ring's entry stands there while the main list cannot issue, and passes the checks of the list. -/
def ringStands (s : State) : Bool :=
  fillOpen s 0 && !mainCouldIssue 0 s && result (ringHead 0) s == some (some (ringOf s)) && !bitOf (ringOf s).flags 1
    && listChecks (out (ringHead 0) s) 0 (ringOf s) == none

theorem ringAt_of {s : State} (c : ringStands s = true) : RingAt s 0 (ringOf s) (out (ringHead 0) s) := by
  simp only [ringStands, Bool.and_eq_true, beq_iff_eq, Bool.not_eq_true'] at c
  exact ⟨c.1.1.1.1, .inl c.1.1.1.2, reads_of c.1.1.2, .inl c.1.2, c.2⟩

/-- An ARRAY of K16 operands, one vector, one row and lane, with `ctrl` and a window descriptor at `win`. -/
def arrayIns (ctrl win : Nat) : State :=
  runTile (insBytes 1 0 0xFF 0x2000 win 0)
    (desc 128 [(0, ctrl), (8, 0x8000), (0x10, 0x1001), (0x14, 128), (0x30, 0x7000), (0x38, 0x1001), (0x3C, 128)]
      ++ desc 32 [(0, 1), (1, 1), (2, 1)]) State.reset

/-- A TAIL whose descriptor has the given fields, all formats F32 under coarse scale 1. -/
def tailIns (fs : List (Nat × Nat)) (s : State) : State :=
  runTile (insBytes 3 0 0xFF 0x2000 0 0) (desc 192 ([(8, 0x5000), (0x10, 0x1000), (0x2C, 0x1000), (0x30, 0x6000),
    (0x50, 0x7000), (0x80, 0x8000)] ++ fs)) s

/-- One vector of 64 lanes. -/
def lanes64 : Nat × Nat := (4, 63 * 2 ^ 24)

/-- Step 0 is open and ready; tile 0's window 0 covers 0x7000 to 0x7FFF. -/
def stepOpen0 (s : State) : State :=
  wr pgGeneration Reg.GEN_STATUS_PHASE 2 (wrAt (pgTile 0) Reg.GEN_WIN_LO 0 0x7000 (wrAt (pgTile 0) Reg.GEN_WIN_LEN 0 0x1000
    (wrAt (pgTile 0) Reg.GEN_WIN_STRIDE 0 0x1000 (wrAt (pgTile 0) Reg.GEN_WIN_ENABLE 0 1
      { s with gen := { opened := [⟨0, 0⟩] } }))))

/-- An update of one element: gradient at 0x5000, states in the window, parameters at 0x8000. -/
def updateIns (kind : Nat) : State :=
  stepOpen0 (memWrite 0x8000 (clean (desc 96 [(0x28, 0x1000), (0x2C, 0x1000), (0x30, 0x1000), (0x38, 0x7100),
    (0x40, 0x7200), (0x48, 0x7300)])) (tailIns [(0, kind + 0x100), (0x58, 0x1000)] State.reset))

def poolIns : State :=
  memWrite 0x8000 (clean (desc 64 [(1, 1), (2, 1), (3, 1), (4, 1)])) (tailIns [(0, 0x109), (0x58, 0x1000)] State.reset)

/-- A program header at 0: one main instruction, 16 completion entries, no channels. -/
def headered : State :=
  memWrite 0 (clean (desc 64 [(0, 0x1000), (4, 1), (0x18, 0x100), (0x1C, 16)])) State.reset

theorem witness_scheduler_passes :
    writable headered (pgTile 0) = true ∧ rd headered (pgTile 0) Reg.SCHED_CTRL_START = 0 ∧
      look false headered.gated (clusterOf 0) = false ∧ schedState headered 0 = 0 ∧
      rd headered (pgTile 0) Reg.SCHED_CTRL_STOP = 0 ∧
      schedState (leaves (.schedStart 0) headered) 0 = 2 ∧
      writable (setSched 0 1 headered) (pgTile 0) = true ∧ schedState (setSched 0 1 headered) 0 = 1 ∧
      rd (leaves (.schedStart 0) (setSched 0 1 headered)) (pgTile 0) Reg.SCHED_CTRL_START = 1 ∧
      rd (leaves (.schedStop 0) (setSched 0 1 headered)) (pgTile 0) Reg.SCHED_CTRL_STOP = 1 ∧
      rd (leaves (.schedStart 0) headered) (pgTile 0) Reg.HA_SPARE_PENDING = 0 ∧
      canReopen 0 (leaves (.schedStart 0) headered) = false ∧
      nextPass (leaves (.schedStart 0) headered) (getTile (leaves (.schedStart 0) headered) 0).fresh 0 = some 0 ∧
      schedState (leaves (.mainListPassBegin 0) (leaves (.schedStart 0) headered)) 0 = 1 ∧
      schedState (leaves (.schedStop 0) (leaves (.schedStart 0) headered)) 0 = 0 := by decide +kernel

theorem witness_scheduler_reads : ∃ hd es u, Reads (readHeader 0) (clearSched 0 headered) (hd, es) u :=
  ⟨_, _, _, reads_answer ([], []) (by decide +kernel)⟩

/-! #### Instructions for the units -/

/-- Instruction `i` stands in the fill ring; a WAIT that cannot issue at the main head. -/
def inRing (i d : List Byte) (s : State) : State :=
  wr (pgTile 0) Reg.SCHED_STATUS_FILL_OPEN 1 (wr (pgTile 0) Reg.SCHED_FILL_TAIL 1 (memWrite 0x1100 (clean i)
    (memWrite 0x2200 (clean (leBytes 8 0)) (memWrite 0x2000 (clean d)
      (runTile (insBytes 7 0 0xFF 0x2200 9 0) [] s)))))

/-- Channel 3 of tile 0, open, with records of 256 bytes, and credits to one receiver. -/
def chanOpen (s : State) : State :=
  setChanState 0 3 1 (setChan 0 3 {
    send := true, recBytes := 256, recs := 1, slots := 4, peerMask := 2, credits := [(1, 4)], lent := [(1, 4)] } s)

/-- The same as a receiver with one record in its slot. -/
def chanFilled (s : State) : State :=
  setChanState 0 3 1 (setChan 0 3 {
    recBytes := 256, recs := 1, slots := 4, buf := 0x4000, peerCh := 3
    filled := [⟨0, 1, [false], 0⟩] } s)

def arrayWindow : State := arrayIns 0x20 0x2080
def drainIns (ctrl dst : Nat) : List Byte := desc 64 [(0, ctrl), (8, dst), (0x10, 0x1000)]
def drainHead : State := runTile (insBytes 2 0 0xFF 0x2000 0 0) (drainIns 0 0x5000) State.reset
def drainChannel : State := chanOpen (runTile (insBytes 2 0 0xFF 0x2000 0 0) (drainIns 2 3) State.reset)
def sendHead : State := chanOpen (runTile (insBytes 4 0 0xFF 0x5000 3 2) [] State.reset)
def recvHead : State := chanFilled (runTile (insBytes 5 0 0xFF 0x5000 3 1) [] State.reset)
def pumpHead : State := runTile (insBytes 6 0 0xFF 0x2000 0 0) (desc 128 []) State.reset
/-- A TAIL from channel 3 of two vectors; one to channel 3. -/
def tailFrom : State := chanFilled (tailIns [(0, 0x207), (4, 1), (8, 3), (0x58, 0x1000)] State.reset)
def tailTo : State := chanOpen (tailIns [(0, 0x1007), (0x50, 3), (0x58, 0x1000)] State.reset)

theorem witness_instruction_heads :
    headStands (fun h => pure (h.opc == O_ARRAY && h.a1 != 0)) arrayWindow = true ∧
      headStands (isArray 0 fun m => m != some 1 && m != some 2) (arrayIns 0x20 0) = true ∧
      headStands (isArray 0 fun m => m == some 1) (arrayIns 0x21 0) = true ∧
      headStands (isArray 0 fun m => m == some 2) (arrayIns 0x22 0) = true ∧
      headStands (isOpc O_DRAIN) drainHead = true ∧ headStands (isOpc O_DRAIN) drainChannel = true ∧
      headStands (isOpc O_SEND) sendHead = true ∧ headStands (isOpc O_RECV) recvHead = true ∧
      headStands (isOpc O_PUMP) pumpHead = true ∧
      headStands (isTail 0 .biasAct) (tailIns [(0, 1), (0x58, 0x1000)] State.reset) = true ∧
      headStands (isTail 0 .addAct) (tailIns [(0, 2), (0x58, 0x1000)] State.reset) = true ∧
      headStands (isTail 0 .mul) (tailIns [(0, 3), (0x58, 0x1000)] State.reset) = true ∧
      headStands (isTail 0 .norm) (tailIns [(0, 0x104), (0x58, 0x1000), lanes64] State.reset) = true ∧
      headStands (isTail 0 .rowstat) (tailIns [(0, 5), (0x58, 0x1000), lanes64] State.reset) = true ∧
      headStands (isTail 0 .normApply) (tailIns [(0, 0x106), (0x58, 0x1000), lanes64] State.reset) = true ∧
      headStands (isTail 0 .convert) (tailIns [(0, 7), (0x58, 0x1000)] State.reset) = true ∧
      headStands (isTail 0 .split3) (tailIns [(0, 0x108), (0x58, 0x1001)] State.reset) = true ∧
      headStands (isTail 0 .pool) poolIns = true ∧ headStands (isTail 0 .sgd) (updateIns 10) = true ∧
      headStands (isTail 0 .adamw) (updateIns 11) = true ∧
      headStands (isTail 0 .convert) tailFrom = true ∧ headStands (isTail 0 .convert) tailTo = true ∧
      (headOf arrayWindow).opc = 1 ∧ (headOf drainHead).opc = 2 ∧ (headOf poolIns).opc = 3 ∧ (headOf sendHead).opc = 4 ∧
      (headOf recvHead).opc = 5 ∧ (headOf pumpHead).opc = 6 := by decide +kernel

theorem witness_instruction_at_head :
    HeadAt (updateIns 11) 0 (isTail 0 .adamw) (headOf (updateIns 11)) (headRead (isTail 0 .adamw) (updateIns 11)) :=
  headAt_of (by decide +kernel)

/-- The fill ring holds an ARRAY, a DRAIN, a TAIL, a SEND or a RECV. -/
def ringArray : State :=
  inRing (insBytes 1 0 0xFF 0x2000 0 0) (desc 128 [(0, 0x21), (8, 0x8000), (0x10, 0x1001), (0x14, 128), (0x30, 0x7000),
    (0x38, 0x1001), (0x3C, 128)]) (wr (pgTile 0) Reg.SCHED_STATUS_FILL_SET 0 State.reset)
def ringDrain : State := inRing (insBytes 2 0 0xFF 0x2000 0 0) (drainIns 0 0x5000) State.reset
def ringTail : State :=
  inRing (insBytes 3 0 0xFF 0x2000 0 0) (desc 192 [(0, 7), (8, 0x5000), (0x10, 0x1000), (0x2C, 0x1000), (0x30, 0x6000),
    (0x50, 0x7000), (0x80, 0x8000), (0x58, 0x1000)]) State.reset
def ringSend : State := chanOpen (inRing (insBytes 4 0 0xFF 0x5000 3 2) [] State.reset)
def ringRecv : State := chanFilled (inRing (insBytes 5 0 0xFF 0x5000 3 1) [] State.reset)

theorem witness_instruction_ring_heads :
    ringStands ringArray = true ∧ ringStands ringDrain = true ∧ ringStands ringTail = true ∧ ringStands ringSend = true ∧
      ringStands ringRecv = true ∧ (ringOf ringArray).opc = 1 ∧ (ringOf ringTail).opc = 3 ∧
      (getTile (leaves (.fillRingIssue 0) ringArray) 0).array.length = 1 ∧
      (getTile (leaves (.fillRingIssue 0) ringDrain) 0).epi.length = 1 ∧
      (getTile (leaves (.fillRingIssue 0) ringTail) 0).epi.length = 1 ∧
      (getTile (leaves (.fillRingIssue 0) ringSend) 0).copy.length = 1 ∧
      (getTile (leaves (.fillRingIssue 0) ringRecv) 0).copy.length = 1 := by decide +kernel

theorem witness_instruction_in_ring : RingAt ringArray 0 (ringOf ringArray) (out (ringHead 0) ringArray) :=
  ringAt_of (by decide +kernel)

theorem witness_can_send : CanSend drainChannel 0 3 4 ∧ HasCredits drainChannel 0 3 4 :=
  ⟨⟨by decide +kernel, by decide +kernel, by decide +kernel, by decide +kernel⟩,
    (by decide +kernel : (getChan drainChannel 0 3).reserved + 4 ≤ (getChan drainChannel 0 3).least)⟩

/-! ##### Each check of an issue, in its order -/

/-- What a DRAIN reads. -/
def drainD (u : State) (h : Head) : List Byte := answer [] (readDesc 0 h h.a0 64) u
def drainV (u : State) (h : Head) : State := out (readDesc 0 h h.a0 64) u
def drainI (u : State) (h : Head) : Issued := issuedOf 0 h (fld (drainD u h) 0x38 2) (drainV u h)
def drainScale (u : State) (h : Head) : M Nat :=
  readCoarse ⟨pgTile 0, 0⟩ (DrainDesc.mk (drainD u h)).fmt (fld (drainD u h) 0x20 8) (drainI u h).slot

/-- The checks of a DRAIN to memory hold. -/
def drainStands (u : State) (h : Head) : Bool :=
  let d := drainD u h
  decide ((getTile u 0).epi.length < 4) && h.mb == 0xFF && !beyondWell h.a0 64 && (result (readDesc 0 h h.a0 64) u).isSome
    && !fillSetBreach (drainV u h) 0 h (some (DrainDesc.mk d).set) && !(DrainDesc.mk d).toChan
    && drainChecks h.a0 ⟨d⟩ (rdAt (drainV u h) (pgTile 0) Reg.ACC_SET_PAIRED (DrainDesc.mk d).set == 1) (drainI u h).stats.isSome == none
    && (result (drainScale u h) (drainV u h)).isSome
    && windowCheck (out (drainScale u h) (drainV u h)) (pgTile 0) h.mb ([(wellBase 0 + h.a0, 64)] ++
      scaleRange (DrainDesc.mk d).fmt (fld d 0x20 8)) ((DrainDesc.mk d).writes (drainI u h).stats.isSome) == none

theorem drainIssues_of {u : State} {h : Head} (c : drainStands u h = true) :
    DrainIssues u 0 h (drainD u h) (drainI u h) (answer 0 (drainScale u h) (drainV u h)) (drainV u h)
      (out (drainScale u h) (drainV u h)) := by
  simp only [drainStands, Bool.and_eq_true, beq_iff_eq, Bool.not_eq_true', decide_eq_true_eq] at c
  obtain ⟨⟨⟨⟨⟨⟨⟨⟨room, mb⟩, well⟩, desc⟩, fill⟩, chan⟩, checks⟩, scale⟩, windows⟩ := c
  exact ⟨room, .inl mb, well, ⟨reads_answer [] desc, fill, rfl, fun k => absurd k (by simp [chan]), checks,
    reads_answer 0 scale, fun k => absurd k (by simp [chan])⟩, windows⟩

theorem witness_drain_issues :
    drainStands (headRead (isOpc O_DRAIN) drainHead) (headOf drainHead) = true ∧
      drainStands (out (ringHead 0) ringDrain) (ringOf ringDrain) = true ∧
      (getTile (leaves (.drain 0) drainHead) 0).epi.length = 1 ∧
      (getChan (leaves (.drain 0) drainChannel) 0 3).reserved = 1 := by decide +kernel

theorem witness_drain_to_channel :
    chanCheck drainChannel 0 3 true = none ∧ recordCheck drainChannel 0 3 (DrainDesc.mk (drainIns 2 3)).recBytes = none ∧
      slotsFor drainChannel 0 3 (DrainDesc.mk (drainIns 2 3)).vectors = 1 := by decide +kernel

/-- The checks of a SEND or RECV hold. -/
theorem witness_copy_issues :
    CopyIssues (headRead (isOpc O_SEND) sendHead) 0 (headOf sendHead) true ∧
      CopyIssues (headRead (isOpc O_RECV) recvHead) 0 (headOf recvHead) false ∧
      CopyIssues (out (ringHead 0) ringSend) 0 (ringOf ringSend) true :=
  ⟨⟨by decide +kernel, .inl (by decide +kernel), by decide +kernel, by decide +kernel,
      fun _ => ⟨⟨by decide +kernel, by decide +kernel, by decide +kernel, by decide +kernel⟩, by unfold HasCredits; decide +kernel⟩,
      by decide +kernel⟩,
    ⟨by decide +kernel, .inl (by decide +kernel), by decide +kernel, by decide +kernel, (fun k => by cases k), by decide +kernel⟩,
    ⟨by decide +kernel, .inl (by decide +kernel), by decide +kernel, by decide +kernel,
      fun _ => ⟨⟨by decide +kernel, by decide +kernel, by decide +kernel, by decide +kernel⟩, by unfold HasCredits; decide +kernel⟩,
      by decide +kernel⟩⟩

theorem witness_pump_issues :
    MbBound (headRead (isOpc O_PUMP) pumpHead) 0 (headOf pumpHead) ∧
      beyondWell (headOf pumpHead).a0 128 = false ∧ lockState (headRead (isOpc O_PUMP) pumpHead) (pgPump (clusterOf 0)) = 0 ∧
      (freePumpSlot (getPump (headRead (isOpc O_PUMP) pumpHead) (clusterOf 0))).isSome = true ∧
      Reads (readDesc 0 (headOf pumpHead) (headOf pumpHead).a0 128) (headRead (isOpc O_PUMP) pumpHead)
        (answer [] (readDesc 0 (headOf pumpHead) (headOf pumpHead).a0 128) (headRead (isOpc O_PUMP) pumpHead))
        (out (readDesc 0 (headOf pumpHead) (headOf pumpHead).a0 128) (headRead (isOpc O_PUMP) pumpHead)) :=
  ⟨.inl (by decide +kernel), by decide +kernel, by decide +kernel, by decide +kernel, reads_answer [] (by decide +kernel)⟩

/-- What an ARRAY reads: descriptor, window descriptor, scales. -/
def arrayD (u : State) (h : Head) : List Byte := answer [] (readDesc 0 h h.a0 128) u
def arrayV (u : State) (h : Head) : State := out (readDesc 0 h h.a0 128) u
def winRead32 (h : Head) : M (List Byte) := if h.a1 = 0 then pure [] else readDesc 0 h h.a1 32
def arrayW (u : State) (h : Head) : State := out (winRead32 h) (arrayV u h)
/-- The operation, but for its scale. -/
def arrayBare (u : State) (h : Head) : ArrayOp := {
  ins := issuedOf 0 h (bitsOf (fld (arrayD u h) 4 4) 16 16) (arrayW u h), desc := arrayD u h
  win := answer [] (winRead32 h) (arrayV u h), cab := 0 }
def scaleA (o : ArrayOp) : M Nat := readCoarse ⟨pgTile 0, 0⟩ o.statFmt (fld o.desc 0x20 8) o.ins.slot
def scaleB (o : ArrayOp) : M Nat := if o.loadOnly then pure f32One else readCoarse ⟨pgTile 0, 0⟩ o.strmFmt (fld o.desc 0x48 8) o.ins.slot
def arrayY (u : State) (h : Head) : State := out (scaleA (arrayBare u h)) (arrayW u h)
def arrayX (u : State) (h : Head) : State := out (scaleB (arrayBare u h)) (arrayY u h)
def arrayOpOf (u : State) (h : Head) : ArrayOp := { arrayBare u h with
  cab := coarseProduct (answer 0 (scaleA (arrayBare u h)) (arrayW u h)) (answer 0 (scaleB (arrayBare u h)) (arrayY u h)) }
/-- The checks of an ARRAY whose vectors come from memory hold. -/
def arrayStands (u : State) (h : Head) : Bool :=
  let (o, w) := (arrayOpOf u h, arrayW u h)
  decide (((getTile u 0).array.filter fun o => !o.done).length < 2) && h.mb == 0xFF && !beyondWell h.a0 128
    && (result (readDesc 0 h h.a0 128) u).isSome && !fillSetBreach (arrayV u h) 0 h (some o.accSet)
    && (h.a1 == 0 || h.a1 % 32 == 0 && !beyondWell h.a1 32) && (result (winRead32 h) (arrayV u h)).isSome && !o.fromChannel
    && arrayChecks w 0 h.a0 o.ins.slot o == none && (result (scaleA (arrayBare u h)) w).isSome
    && (result (scaleB (arrayBare u h)) (arrayY u h)).isSome
    && (o.loadOnly || f32PosNormal o.cab && ownerChecks (arrayX u h) 0 o == none)
    && (!o.isWindow || windowOpChecks w 0 h.a1 o.ins.slot o == none)
    && windowCheck (arrayX u h) (pgTile 0) h.mb ([(wellBase 0 + h.a0, 128)] ++
      (if h.a1 = 0 then [] else [(wellBase 0 + h.a1, 32)]) ++ o.statRanges ++ o.strmRanges ++ o.scaleRanges) [] == none

theorem arrayIssues_of {u : State} {h : Head} (c : arrayStands u h = true) :
    ArrayIssues u 0 h (arrayOpOf u h) (arrayX u h) := by
  simp only [arrayStands, Bool.and_eq_true, beq_iff_eq, Bool.not_eq_true', decide_eq_true_eq, Bool.or_eq_true] at c
  obtain ⟨⟨⟨⟨⟨⟨⟨⟨⟨⟨⟨⟨⟨room, mb⟩, well⟩, desc⟩, fill⟩, win⟩, wins⟩, chan⟩, checks⟩, sa⟩, sb⟩, own⟩, wop⟩, windows⟩ := c
  refine ⟨room, .inl mb, well, rfl, ⟨arrayV u h, arrayW u h, arrayY u h, _, _, reads_answer [] desc, fill, ?_, ?_, rfl,
    fun k => absurd k (by simp [chan]), checks, reads_answer 0 sa, ?_, ?_, rfl, ?_⟩, windows⟩
  · intro z
    have e : winRead32 h = pure [] := by unfold winRead32; exact if_pos z
    refine ⟨?_, ?_⟩
    · show answer [] (winRead32 h) (arrayV u h) = []
      rw [e]; rfl
    · show out (winRead32 h) (arrayV u h) = _
      rw [e]; rfl
  · intro z
    have e : winRead32 h = readDesc 0 h h.a1 32 := by unfold winRead32; exact if_neg z
    rcases win with w0 | w1
    · exact absurd w0 z
    · exact ⟨w1.1, w1.2, e ▸ reads_answer [] wins⟩
  · intro l
    have l : (arrayBare u h).loadOnly = true := l
    have e : scaleB (arrayBare u h) = pure f32One := by unfold scaleB; exact if_pos l
    refine ⟨?_, ?_⟩
    · show answer 0 (scaleB (arrayBare u h)) (arrayY u h) = _
      rw [e]; rfl
    · show out (scaleB (arrayBare u h)) (arrayY u h) = _
      rw [e]; rfl
  · intro l
    have e : scaleB (arrayBare u h) = readCoarse ⟨pgTile 0, 0⟩ (arrayBare u h).strmFmt (fld (arrayBare u h).desc 0x48 8)
        (arrayBare u h).ins.slot := by
      have l : ¬ (arrayBare u h).loadOnly = true := by show ¬ (arrayOpOf u h).loadOnly = true; simp [l]
      unfold scaleB; exact if_neg l
    rcases own with o | o
    · exact absurd o (by simp [l])
    · exact ⟨e ▸ reads_answer 0 sb, o.1, o.2⟩
  · intro l
    rcases wop with o | o
    · exact absurd o (by simp [l])
    · exact o

theorem witness_array_issues :
    arrayStands (headRead (fun h => pure (h.opc == O_ARRAY && h.a1 != 0)) arrayWindow) (headOf arrayWindow) = true ∧
      arrayStands (headRead (isArray 0 fun m => m != some 1 && m != some 2) (arrayIns 0x20 0)) (headOf (arrayIns 0x20 0)) = true ∧
      arrayStands (headRead (isArray 0 fun m => m == some 1) (arrayIns 0x21 0)) (headOf (arrayIns 0x21 0)) = true ∧
      arrayStands (headRead (isArray 0 fun m => m == some 2) (arrayIns 0x22 0)) (headOf (arrayIns 0x22 0)) = true ∧
      arrayStands (out (ringHead 0) ringArray) (ringOf ringArray) = true ∧
      (arrayOpOf (headRead (isArray 0 fun m => m == some 2) (arrayIns 0x22 0)) (headOf (arrayIns 0x22 0))).loadOnly = true ∧
      (arrayOpOf (headRead (isArray 0 fun m => m == some 1) (arrayIns 0x21 0)) (headOf (arrayIns 0x21 0))).loadOnly = false := by
  decide +kernel

/-! What a TAIL reads: descriptor, optimizer record, three scales, pooling record. -/

def tailD (u : State) (h : Head) : List Byte := answer [] (readDesc 0 h h.a0 192) u
def tailV (u : State) (h : Head) : State := out (readDesc 0 h h.a0 192) u
def tailX (u : State) (h : Head) : TailDesc := ⟨tailD u h⟩
def tailI (u : State) (h : Head) : Issued := issuedOf 0 h (tailX u h).tag (tailV u h)
def tailPar (u : State) (h : Head) : M (List PByte) :=
  if (tailX u h).update then winRead ⟨pgTile 0, 0⟩ (tailI u h).slot (tailX u h).param 96 else pure []
def tailPd (u : State) (h : Head) : List PByte := answer [] (tailPar u h) (tailV u h)
def tailV2 (u : State) (h : Head) : State := out (tailPar u h) (tailV u h)
def tailS (u : State) (h : Head) : M Nat :=
  if (tailX u h).src = 0 ∨ (tailX u h).is .split3 then pure f32One
  else readCoarse ⟨pgTile 0, 0⟩ (tailX u h).srcFmt (fld (tailD u h) 0x18 8) (tailI u h).slot
def tailV3 (u : State) (h : Head) : State := out (tailS u h) (tailV2 u h)
def tailA (u : State) (h : Head) : M Nat :=
  if (tailX u h).usesAux then readCoarse ⟨pgTile 0, 0⟩ (tailX u h).auxFmt (fld (tailD u h) 0x40 8) (tailI u h).slot
  else pure f32One
def tailV4 (u : State) (h : Head) : State := out (tailA u h) (tailV3 u h)
def tailO (u : State) (h : Head) : M Nat :=
  if (tailX u h).is .rowstat || (tailX u h).is .split3 then pure f32One
  else readCoarse ⟨pgTile 0, 0⟩ (tailX u h).dstFmt (fld (tailD u h) 0x60 8)
    (if (tailX u h).update then pendingSlot (tailV u h) else (tailI u h).slot)
def tailV5 (u : State) (h : Head) : State := out (tailO u h) (tailV4 u h)
def tailPool (u : State) (h : Head) : M (List PByte) :=
  if (tailX u h).is .pool then winRead ⟨pgTile 0, 0⟩ (tailI u h).slot (tailX u h).param 64 else pure []
def tailPp (u : State) (h : Head) : List PByte := answer [] (tailPool u h) (tailV5 u h)
def tailY (u : State) (h : Head) : State := out (tailPool u h) (tailV5 u h)

/-- The checks of a TAIL hold; one that names a send channel has its credits. -/
def tailStands (u : State) (h : Head) : Bool :=
  let (x, v, i) := (tailX u h, tailV u h, tailI u h)
  let (n, need) := (fld (tailD u h) 0x50 1, slotsFor v 0 (fld (tailD u h) 0x50 1) x.vectors)
  decide ((getTile u 0).epi.length < 4) && !beyondWell h.a0 192 && (result (readDesc 0 h h.a0 192) u).isSome && h.mb == 0xFF
    && listChecks v 0 h == none && !fillSetBreach v 0 h (if x.src = 0 then some x.set else none)
    && (x.src != 2 || chanCheck v 0 (fld (tailD u h) 8 1) false == none
      && recordCheck v 0 (fld (tailD u h) 8 1) (recordBytes x.srcFmt) == none)
    && (!x.dstCh || chanCheck v 0 n true == none && recordCheck v 0 n (recordBytes x.dstFmt) == none
      && chanState v 0 n == 1 && rdAt v (pgTile 0) Reg.CH_STATUS_MISMATCH n == 0 && (getChan v 0 n).refused == 0
      && decide (∀ r ∈ receivers (getChan v 0 n), need ≤ look 0 (getChan v 0 n).lent r)
      && decide ((getChan (tailY u h) 0 n).reserved + need ≤ (getChan (tailY u h) 0 n).least))
    && tailFirstCheck h.a0 x i.stats.isSome == none && (result (tailPar u h) v).isSome
    && tailCheck x (x.src == 0 && rdAt v (pgTile 0) Reg.ACC_SET_PAIRED x.set == 1) ((tailPd u h).map Prod.fst) == none
    && (!x.update || pendingOpen (tailV2 u h) (updateStep 0 h (tailV2 u h)))
    && (result (tailS u h) (tailV2 u h)).isSome && (result (tailA u h) (tailV3 u h)).isSome
    && (result (tailO u h) (tailV4 u h)).isSome && (result (tailPool u h) (tailV5 u h)).isSome
    && (!x.is .pool || poolCheck x.param ((tailPp u h).map Prod.fst) == none)
    && windowCheck (tailY u h) (pgTile 0) h.mb (tailReads 0 h x ++
      (if x.is .pool then poolReads x ((tailPp u h).map Prod.fst) else [])) (tailWrites x i.stats.isSome) == none
    && (!x.update || !noWindow (tailY u h) 0 x ((tailPd u h).map Prod.fst))

theorem unless_of {a : Bool} {p : Prop} (h : a = false ∨ p) (k : a = true) : p := h.resolve_left (by simp [k])

theorem tailIssues_of {u : State} {h : Head} (c : tailStands u h = true) :
    TailIssues u 0 h (tailD u h) (tailI u h) (answer 0 (tailS u h) (tailV2 u h)) (answer 0 (tailA u h) (tailV3 u h))
      (answer 0 (tailO u h) (tailV4 u h)) (tailV u h) (tailY u h) := by
  simp only [tailStands, Bool.and_eq_true, beq_iff_eq, Bool.not_eq_true', decide_eq_true_eq, Bool.or_eq_true, bne_iff_ne,
    and_assoc] at c
  obtain ⟨room, well, desc, mb, list, fill, src, dst, first, par, check, upd, sc, ac, dc, pool, pooled, windows, none_⟩ := c
  exact ⟨room, well, ⟨tailPd u h, tailV2 u h, tailV3 u h, tailV4 u h, tailV5 u h, tailPp u h, reads_answer [] desc,
    fun _ => .inl mb, list, fill, rfl, fun k => src.resolve_left (fun z => z k),
    fun k => have d := unless_of dst k; ⟨d.1, d.2.1, ⟨d.2.2.1, d.2.2.2.1, d.2.2.2.2.1, d.2.2.2.2.2.1⟩, d.2.2.2.2.2.2⟩,
    first, reads_answer [] par, check, fun k => unless_of upd k, reads_answer 0 sc, reads_answer 0 ac, reads_answer 0 dc,
    reads_answer [] pool, fun k => unless_of pooled k, windows, fun k => unless_of none_ k⟩⟩

/-- The checks hold once the head of that kind has been read. -/
def tailGoes (k : TailKind) (s : State) : Bool := tailStands (headRead (isTail 0 k) s) (headOf s)

theorem witness_tail_issues :
    tailGoes .biasAct (tailIns [(0, 1), (0x58, 0x1000)] State.reset) = true ∧
      tailGoes .addAct (tailIns [(0, 2), (0x58, 0x1000)] State.reset) = true ∧
      tailGoes .mul (tailIns [(0, 3), (0x58, 0x1000)] State.reset) = true ∧
      tailGoes .norm (tailIns [(0, 0x104), (0x58, 0x1000), lanes64] State.reset) = true ∧
      tailGoes .rowstat (tailIns [(0, 5), (0x58, 0x1000), lanes64] State.reset) = true ∧
      tailGoes .normApply (tailIns [(0, 0x106), (0x58, 0x1000), lanes64] State.reset) = true ∧
      tailGoes .convert (tailIns [(0, 7), (0x58, 0x1000)] State.reset) = true ∧
      tailGoes .split3 (tailIns [(0, 0x108), (0x58, 0x1001)] State.reset) = true ∧
      tailGoes .pool poolIns = true ∧ tailGoes .sgd (updateIns 10) = true ∧ tailGoes .adamw (updateIns 11) = true ∧
      tailGoes .convert tailFrom = true ∧ tailGoes .convert tailTo = true ∧
      tailStands (out (ringHead 0) ringTail) (ringOf ringTail) = true ∧
      (getTile (leaves (.tailConvert 0 true) tailTo) 0).epi.length = 1 ∧
      (getChan (leaves (.tailConvert 0 true) tailTo) 0 3).reserved = 1 := by
  decide +kernel

/-- Tile 0 at an instruction that its scheduler carries out, with `w` at 0x2000. -/
def ownIns (opc a0 a1 a2 w : Nat) : State := runTile (insBytes opc 0 0xFF a0 a1 a2) (leBytes 8 w) State.reset

/-- The head of the opcode, once it has been read. -/
def ownRead (opc : Nat) (s : State) : State := headRead (isOpc opc) s

/-- The fill window is open with set 0. -/
def filling (s : State) : State := wr (pgTile 0) Reg.SCHED_STATUS_FILL_OPEN 1 s

/-- Tile 0 has a live SIGNAL with nothing on the bus. -/
def signalled : State := setTile 0 { live := [{ seq := 5, opc := 8 }], compLen := 16 } State.reset

/-- The scheduler carries out STEP_END while START, or STOP, stands. -/
def endStarting : State :=
  setTile 0 { getTile (ownIns 12 0 0 0 0) 0 with starting := true } (memWrite 0 (clean (desc 64 [(0, 0x1000), (4, 1),
    (0x18, 0x100), (0x1C, 16)])) (ownIns 12 0 0 0 0))
def endStopping : State := setTile 0 { getTile (ownIns 12 0 0 0 0) 0 with stopping := true } (ownIns 12 0 0 0 0)

/-- The tile after the head `h` of its list at its boundary. -/
def endedAt (s : State) : State := toBoundary 0 (out (settleHead 0 (headOf s) 0 0) (ownRead O_STEP_END s))

theorem witness_scheduler_instructions :
    headStands (isOpc O_WAIT) (ownIns 7 0x2000 9 0 9) = true ∧ (headOf (ownIns 7 0x2000 9 0 9)).opc = 7 ∧
      beyondWell 0x2000 4 = false ∧
      windowCheck (ownRead O_WAIT (ownIns 7 0x2000 9 0 9)) (pgTile 0) 0xFF [(wellBase 0 + 0x2000, 4)] [] = none ∧
      (result (readDesc 0 (headOf (ownIns 7 0x2000 9 0 9)) 0x2000 4) (ownRead O_WAIT (ownIns 7 0x2000 9 0 9))).isSome = true ∧
      leNat (answer [] (readDesc 0 (headOf (ownIns 7 0x2000 9 0 9)) 0x2000 4) (ownRead O_WAIT (ownIns 7 0x2000 9 0 9))) = 9 ∧
      headStands (isOpc O_SIGNAL) (ownIns 8 0x2000 0 7 0) = true ∧ isLocal (ownIns 8 0x2000 0 7 0) 0x2000 = true ∧
      windowCheck (ownRead O_SIGNAL (ownIns 8 0x2000 0 7 0)) (pgTile 0) 0xFF [] [(localOf 0x2000, 4)] = none ∧
      (leaves (.signal 0) (ownIns 8 0x2000 0 7 0)).bus.adds.map Add.val = [7] ∧
      headStands (isOpc O_SEG) (ownIns 9 0x2000 0x3000 1 1) = true ∧ beyondWell 0x2000 8 = false ∧ beyondWell 0x3000 16 = false ∧
      windowCheck (ownRead O_SEG (ownIns 9 0x2000 0x3000 1 1)) (pgTile 0) 0xFF [(wellBase 0 + 0x2000, 8)] [] = none ∧
      leNat (answer [] (readDesc 0 (headOf (ownIns 9 0x2000 0x3000 1 1)) 0x2000 8) (ownRead O_SEG (ownIns 9 0x2000 0x3000 1 1))) = 1 ∧
      rd (leaves (.seg 0) (ownIns 9 0x2000 0x3000 1 1)) (pgTile 0) Reg.SCHED_STATUS_IN_SEG = 1 ∧
      headStands (isOpc O_SEG) (ownIns 9 0x2000 0x3000 0 0) = true ∧ (headOf (ownIns 9 0x2000 0x3000 0 0)).a2 = 0 ∧
      leNat (answer [] (readDesc 0 (headOf (ownIns 9 0x2000 0x3000 0 0)) 0x2000 8) (ownRead O_SEG (ownIns 9 0x2000 0x3000 0 0))) = 0 ∧
      headStands (isOpc O_FILL_ON) (ownIns 10 1 0 0 0) = true ∧ setFree (ownRead O_FILL_ON (ownIns 10 1 0 0 0)) 0 1 = true ∧
      headStands (isOpc O_FILL_OFF) (filling (ownIns 11 0 0 0 0)) = true ∧
      setFree (ownRead O_FILL_OFF (filling (ownIns 11 0 0 0 0))) 0 0 = true ∧
      rd (leaves (.fillOff 0) (filling (ownIns 11 0 0 0 0))) (pgTile 0) Reg.SCHED_STATUS_FILL_OPEN = 0 := by decide +kernel

theorem witness_step_end :
    headStands (isOpc O_STEP_END) (ownIns 12 0 0 0 0) = true ∧
      liveOf (getTile (ownRead O_STEP_END (ownIns 12 0 0 0 0)) 0) false = [] ∧
      (getTile (endedAt (ownIns 12 0 0 0 0)) 0).starting = false ∧ (getTile (endedAt (ownIns 12 0 0 0 0)) 0).stopping = false ∧
      schedState (leaves (.stepEnd 0) (ownIns 12 0 0 0 0)) 0 = 2 ∧
      headStands (isOpc O_STEP_END) endStopping = true ∧ (getTile (endedAt endStopping) 0).stopping = true ∧
      schedState (leaves (.stepEnd 0) endStopping) 0 = 0 ∧
      headStands (isOpc O_STEP_END) endStarting = true ∧ (getTile (endedAt endStarting) 0).starting = true ∧
      (result (readHeader 0) (clearSched 0 (endedAt endStarting))).isSome = true ∧
      schedState (leaves (.stepEnd 0) endStarting) 0 = 2 := by decide +kernel

theorem witness_signal_ack :
    (getTile signalled 0).live.find? (fun i => i.opc == O_SIGNAL && answered signalled (opWho 0 i)) =
        some { seq := 5, opc := 8 } ∧
      (getTile (leaves (.signalAck 0 3) signalled) 0).live = [] := by decide +kernel

/-- The column-read array of `arrayIns` after its issue, its load and its vector. -/
def arrayIssued : State := leaves (.arrayColumnRead 0) (arrayIns 0x21 0)
def arrayLoaded : State := leaves (.stationaryLoad 0) arrayIssued
def arrayDone : State := leaves (.vectorEntry 0 none) arrayLoaded

/-- Its operation, with stationary rows or streamed vectors in a module that does not exist. -/
def arrayFront (s : State) : ArrayOp := (getTile s 0).array.headD { ins := { seq := 0, opc := 0 }, desc := [], cab := 0 }
def fromNowhere (at_ : Nat) (s : State) : State :=
  setTile 0 { getTile s 0 with array := [{ arrayFront s with
    desc := (arrayFront s).desc.take at_ ++ leBytes 8 (0xFFFF * 2 ^ 48) ++ (arrayFront s).desc.drop (at_ + 8) }] } s
def rowsNowhere : State := fromNowhere 8 arrayIssued
def vectorsNowhere : State := fromNowhere 0x30 arrayLoaded
/-- The rows of the operation's next load. -/
def rowsOf (s : State) : M (List Encoded × Nat) :=
  readUntil (fun i => readVecWith (winRead (opWho 0 (arrayFront s).ins) (arrayFront s).ins.slot) (arrayFront s).statFmt 64
    ((arrayFront s).statRow (arrayFront s).loads i).1.1 ((arrayFront s).statRow (arrayFront s).loads i).2.1) (List.range 64)
/-- The next vector is answered, with data or with a code. -/
def vectorComes (s : State) : Bool := (result (catchCode (nextVector 0 (arrayFront s))) s).isSome

theorem witness_array_work :
    nextLoad [] (getTile arrayIssued 0).array = some ([], arrayFront arrayIssued) ∧
      loadFree [] (arrayFront arrayIssued) = true ∧ (answer ([], 1) (rowsOf arrayIssued) arrayIssued).2 = 0 ∧
      (answer ([], 1) (rowsOf arrayIssued) arrayIssued).1.length = 64 ∧ (arrayFront arrayIssued).loadOnly = false ∧
      nextLoad [] (getTile rowsNowhere 0).array = some ([], arrayFront rowsNowhere) ∧
      (result (rowsOf rowsNowhere) rowsNowhere).map Prod.snd = some 0x0202 ∧
      (arrayFront (leaves (.stationaryLoad 0) rowsNowhere)).done = true ∧
      ((getTile arrayLoaded 0).array.find? fun o => !o.done) = some (arrayFront arrayLoaded) ∧
      (arrayFront arrayLoaded).pass < (arrayFront arrayLoaded).loads ∧
      (getTile arrayLoaded 0).releases = [] ∧ (getTile arrayLoaded 0).epi = [] ∧ vectorComes arrayLoaded = true ∧
      servingColumns arrayLoaded (pgTile 0) 0 = List.range 64 ∧
      (getTile (leaves (.vectorEntry 0 (some [3])) arrayLoaded) 0).array ≠ [] ∧
      vectorComes vectorsNowhere = true ∧ (arrayFront (leaves (.vectorEntry 0 none) vectorsNowhere)).done = true ∧
      (arrayFront (leaves (.vectorEntry 0 none) vectorsNowhere)).ins.code = 0x0202 ∧
      ((getTile arrayDone 0).array.find? fun o => o.done).isSome = true ∧
      (getTile (leaves (.arrayOpComplete 0 40) arrayDone) 0).array = [] ∧
      (arrayFront (leaves (.arrayWindowOp 0) arrayWindow)).isWindow = true ∧
      rd (leaves (.clArithUpdate 0) (with1 (pgTile 3) Reg.AS_STATUS_INVALID 1)) (pgCluster 0) Reg.CL_ARITH_INV_TILES = 8 ∧
      rd (with1 (pgCluster 0) Reg.CL_ARITH_FIRST_VALID 1) (pgCluster 0) Reg.CL_ARITH_FIRST_VALID = 1 := by decide +kernel

/-- A drain in the epilogue queue. -/
def drainIssued : State := leaves (.drain 0) (runTile (insBytes 2 0 0xFF 0x2000 0 0) (drainIns 8 0x5000) State.reset)
def drainRun : State := leaves (.drainStart 0) drainIssued

/-- The front of the epilogue queue may run. -/
def epiFront (s : State) : EpiOp := (getTile s 0).epi.headD { ins := { seq := 0, opc := 0 }, desc := [], tail := false, set := 0, release := false }
def epiGoes (s : State) : Bool :=
  ((getTile s 0).epi.find? fun e => !e.started) == some (epiFront s) && (getTile s 0).array.isEmpty

theorem epiFront_of {s : State} (c : epiGoes s = true) : EpiFront s 0 (epiFront s) := by
  simp only [epiGoes, Bool.and_eq_true, beq_iff_eq, List.isEmpty_iff] at c
  refine ⟨c.1, .inr ?_⟩
  rw [c.2]
  rfl

/-- A TAIL of the kind has been issued, may run, and its outputs or its update can be made. -/
def tailReady (k : TailKind) (s : State) : Bool :=
  let e := epiFront s
  epiGoes s && e.tail && (TailDesc.mk e.desc).is k && (TailDesc.mk e.desc).src != 2
    && (if (TailDesc.mk e.desc).update then (result (runUpdate 0 e ⟨e.desc⟩ (draws s 2 (TailDesc.mk e.desc).tag e.ins.sample
          e.ins.pass)) s).isSome
        else (result (tailOuts 0 e ⟨e.desc⟩) s).isSome)

theorem witness_epilogue_work :
    epiGoes drainIssued = true ∧ (epiFront drainIssued).tail = false ∧
      tailReady .biasAct (leaves (.tailBiasAct 0 true) (tailIns [(0, 1), (0x58, 0x1000)] State.reset)) = true ∧
      tailReady .addAct (leaves (.tailAddAct 0 true) (tailIns [(0, 2), (0x58, 0x1000)] State.reset)) = true ∧
      tailReady .mul (leaves (.tailMul 0 true) (tailIns [(0, 3), (0x58, 0x1000)] State.reset)) = true ∧
      tailReady .convert (leaves (.tailConvert 0 true) (tailIns [(0, 7), (0x58, 0x1000)] State.reset)) = true ∧
      tailReady .split3 (leaves (.tailSplit3 0 true) (tailIns [(0, 0x108), (0x58, 0x1001)] State.reset)) = true ∧
      tailReady .pool (leaves (.tailPool 0 true) poolIns) = true := by decide +kernel

theorem witness_epilogue_front : EpiFront drainIssued 0 (epiFront drainIssued) := epiFront_of (by decide +kernel)

theorem witness_epilogue_work_lanes :
    tailReady .norm (leaves (.tailNorm 0 true) (tailIns [(0, 0x104), (0x58, 0x1000), lanes64] State.reset)) = true ∧
      tailReady .rowstat (leaves (.tailRowstat 0 true) (tailIns [(0, 5), (0x58, 0x1000), lanes64] State.reset)) = true ∧
      tailReady .normApply (leaves (.tailNormApply 0 true)
        (tailIns [(0, 0x106), (0x58, 0x1000), lanes64] State.reset)) = true ∧
      tailReady .sgd (leaves (.tailSgd 0 true) (updateIns 10)) = true ∧
      tailReady .adamw (leaves (.tailAdamw 0 true) (updateIns 11)) = true := by
  and_intros <;> decide +kernel

/-- The TAIL from channel 3 has been issued, and has one record of its two; the second has come too. -/
def fromIssued : State := leaves (.tailConvert 0 true) tailFrom
def fromTaken : State := leaves (.tailConvert 0 false) fromIssued
def fromWhole : State := setChan 0 3 { getChan fromTaken 0 3 with filled := [⟨1, 1, [false], 0⟩], got := 2 } fromTaken
/-- An operation that is done, with the statistics adds offered; the tail's and the drain's. -/
def tailDone : State := leaves (.tailBiasAct 0 false) (leaves (.tailBiasAct 0 true) (tailIns [(0, 1), (0x58, 0x1000)] State.reset))
def epiEnds (tail : Bool) (s : State) : Bool :=
  let u := offerLeft (opWho 0 (epiFront s).ins) (epiAdds 0 tail) (dropEpiAdd 0) 1 s
  (epiFront u).started && (epiFront u).tail == tail && (epiFront u).stats.isEmpty && slotsAccepted u 0 (epiFront u).ins
    && answered u (opWho 0 (epiFront u).ins)

theorem witness_epilogue_channel :
    epiGoes fromIssued = true ∧ (TailDesc.mk (epiFront fromIssued).desc).src = 2 ∧
      (TailDesc.mk (epiFront fromIssued).desc).vectors = 2 ∧ (epiFront fromIssued).buf = [] ∧
      ((answer ([], 1) (consumeAll 0 3 (epiFront fromIssued).ins.slot (opWho 0 (epiFront fromIssued).ins) 2 []) fromIssued).1.length,
        (answer ([], 1) (consumeAll 0 3 (epiFront fromIssued).ins.slot (opWho 0 (epiFront fromIssued).ins) 2 []) fromIssued).2)
        = (1, 0) ∧
      (epiFront fromTaken).buf.length = 1 ∧ epiGoes fromWhole = true ∧
      ((getTile drainRun 0).releases.find? fun r => r.2.2) = some (0, 0, true) ∧
      rdAt (leaves (.setRelease 0) drainRun) (pgTile 0) Reg.ACC_SET_RELEASING 0 = 0 ∧
      epiEnds false drainRun = true ∧ (getTile (leaves (.drainComplete 0 7) drainRun) 0).epi = [] ∧
      epiEnds true tailDone = true ∧ (getTile (leaves (.tailComplete 0 7) tailDone) 0).epi = [] := by decide +kernel

/-- Tile 0 with one front operation in its copy queue, over channel 3. -/
def copying (opc left : Nat) : State :=
  setChan 0 3 { recBytes := 4, recs := 1, slots := 1, filled := [⟨0, 1, [false], 0⟩], peerMask := 2, peerCh := 3 } (setTile 0
    { compLen := 16, live := [{ seq := 5, opc := opc }], copy := [⟨{ seq := 5, opc := opc }, 0x5000, 3, left⟩] } State.reset)

def copyFront (s : State) : CopyOp := (getTile s 0).copy.headD ⟨{ seq := 0, opc := 0 }, 0, 0, 0⟩

theorem witness_copy_work :
    (result (sendAll 0 1 (copyFront (copying 4 1))) (copying 4 1)).map Prod.snd = some 0 ∧
      (getTile (leaves (.send 0 false) (copying 4 1)) 0).copy.map CopyOp.left = [0] ∧
      (result (recvSome 0 false (64 * 256) (copyFront (copying 5 1))) (copying 5 1)).map Prod.snd = some (0, true) ∧
      (getTile (leaves (.recv 0 false) (copying 5 1)) 0).copy.map CopyOp.left = [0] ∧
      (getTile (copying 4 0) 0).copy = [⟨{ seq := 5, opc := 4 }, 0x5000, 3, 0⟩] ∧
      slotsAccepted (copying 4 0) 0 { seq := 5, opc := 4 } = true ∧
      answered (copying 4 0) (opWho 0 { seq := 5, opc := 4 }) = true ∧
      (getTile (leaves (.sendComplete 0 9) (copying 4 0)) 0).live = [] ∧
      (getTile (leaves (.recvComplete 0 9) (copying 5 0)) 0).live = [] ∧
      (getPump (setPump 0 { reports := [(0, 5, 0)] } (copying 6 0)) 0).reports.find? (fun r => r.1 == 0) = some (0, 5, 0) ∧
      (getTile (setPump 0 { reports := [(0, 5, 0)] } (copying 6 0)) 0).live.find? (fun i => i.seq == 5) =
        some { seq := 5, opc := 6 } := by decide +kernel

/-! ### Channels -/

/-- One message from endpoint 3 of tile 0 to endpoint 4 of tile 1, which is in state `st`, all of opening 5. -/
def messaged (b : ChanBody) (st : Nat) (send : Bool) : State :=
  setChanState 1 4 st (setChan 1 4 {
      send := send, session := 5, recBytes := 8, recs := 1, slots := 2, buf := 0x400, peerMask := 1, peerCh := 3
      markGot := 2 }
    { State.reset with chanq := [{ tile := 0, ch := 3, toTile := 1, toCh := 4, session := 5, stamp := 0, body := b }] })

/-- Tile 1 is LOCKED. -/
def locked1 (s : State) : State := { s with rc := { locks := [⟨4, 1, 2, true⟩] } }

/-- The endpoint of tile 1 belongs to a later opening. -/
def reopened (s : State) : State := setChan 1 4 { getChan s 1 4 with session := 6 } s

/-- A data message of one slot. -/
def slotMessage : ChanBody := .data 1 1 [false] [1, 2, 3, 4, 5, 6, 7, 8] 9

/-- Tile 1's page has still to latch for marker 1, whose number the message carries. -/
def latching : State :=
  let s := wr pgMonitor Reg.MON_MARKER_GO 1 (wr pgMonitor Reg.MON_MARKER_NUMBER 1 (messaged .credit 1 true))
  { s with chanq := s.chanq.map fun m => { m with stamp := 1 } }

theorem witness_channel_commands :
    (messaged (.openReq 8 1) 1 false).chanq.length = 1 ∧
      look false (messaged (.openReq 8 1) 1 false).gated (clusterOf 1) = false ∧
      (messaged (.openReq 8 1) 1 false).chanq.any (slotHeld (messaged (.openReq 8 1) 1 false)) = false ∧
      unlatched (messaged (.openReq 8 1) 1 false) (pgTile 1) = false ∧ unlatched latching (pgTile 1) = true ∧
      rd (leaves (.creditReturn 0) latching) (pgTile 1) Reg.PAGE_MARKER_EPOCH = 1 ∧
      tileLocked (messaged (.openReq 8 1) 1 false) 1 = false ∧
      chanState (messaged (.openReq 8 1) 1 false) 1 4 = 1 ∧ chanState (messaged (.openReq 8 1) 0 false) 1 4 ≠ 1 ∧
      tileLocked (locked1 (messaged (.openReq 8 1) 1 false)) 1 = true ∧
      (leaves (.channelOpenRequest 0) (messaged (.openReq 8 1) 1 false)).chanq.map ChanMsg.body = [.grant 8 1 2] ∧
      (leaves (.channelOpenRequest 0) (messaged (.openReq 8 1) 0 false)).chanq = [] ∧
      (getChan (leaves (.channelOpenRequest 0) (messaged (.openReq 8 1) 0 false)) 1 4).waiting = [⟨0, 3, 5⟩] := by decide +kernel

theorem witness_channel_answers :
    (getChan (messaged (.grant 8 1 2) 3 true) 1 4).session = 5 ∧
      (getChan (messaged (.grant 8 1 2) 3 true) 1 4).recBytes = 8 ∧
      chanState (leaves (.channelGrant 0) (messaged (.grant 8 1 2) 3 true)) 1 4 = 1 ∧
      rdAt (leaves (.channelGrant 0) (messaged (.grant 4 1 2) 3 true)) (pgTile 1) Reg.CH_STATUS_MISMATCH 4 = 1 ∧
      (getChan (reopened (messaged (.grant 8 1 2) 3 true)) 1 4).session ≠ 5 ∧
      chanState (leaves (.channelGrant 0) (reopened (messaged (.grant 8 1 2) 3 true))) 1 4 = 3 ∧
      chanState (leaves (.channelGrant 0) (messaged .refuse 3 true)) 1 4 = 0 := by decide +kernel

theorem witness_channel_traffic :
    (getChan (messaged slotMessage 1 false) 1 4).send = false ∧
      cellAt (leaves (.channelMessage 0) (messaged slotMessage 1 false)) (wellBase 1 + 0x408) = 1 ∧
      (leaves (.channelMessage 0) (messaged slotMessage 0 false)).bus.writeErr.map WriteErr.code = [0x0412] ∧
      (getChan (reopened (messaged slotMessage 1 false)) 1 4).session ≠ 5 ∧
      (leaves (.channelMessage 0) (reopened (messaged slotMessage 1 false))).bus.writeErr.map WriteErr.code = [0x0412] ∧
      tileLocked (locked1 (messaged slotMessage 1 false)) 1 = true ∧
      (leaves (.channelMessage 0) (locked1 (messaged slotMessage 1 false))).bus.writeErr.map WriteErr.code = [0x0801] ∧
      (getChan (messaged .credit 1 true) 1 4).send = true ∧
      rdAt (leaves (.creditReturn 0) (messaged .credit 1 true)) (pgTile 1) Reg.CH_STATUS_COUNT 4 = 1 ∧
      (getChan (leaves (.markerNotice 0) (messaged (.notice 0 5 6 7) 1 false)) 1 4).markCredits = 6 := by decide +kernel

/-- Endpoint 4 of tile 1 receives from endpoint 3 of tile 0 and stands in PEER_LOCKED; its tile is in state `st`. -/
def reopening (peer st : Nat) : State := setSched 1 st (setChanState 0 3 peer (messaged .credit 2 false))

theorem witness_channel_reopen :
    chanState (reopening 3 2) 1 4 = 2 ∧ rd (reopening 3 2) (pgTile 1) Reg.SCHED_STATUS_STATE = 2 ∧
      peersOpen (reopening 3 2) (getChan (reopening 3 2) 1 4) = true ∧
      chanState (leaves (.channelReopen 1 4) (reopening 3 2)) 1 4 = 1 ∧
      peersOpen (reopening 0 2) (getChan (reopening 0 2) 1 4) = false ∧
      leaves (.channelReopen 1 4) (reopening 0 2) = reopening 0 2 ∧
      rd (reopening 3 1) (pgTile 1) Reg.SCHED_STATUS_STATE = 1 ∧ leaves (.channelReopen 1 4) (reopening 3 1) = reopening 3 1 := by
  decide +kernel

/-! ### The generation unit -/

/-- Steps are open, the module is of `rank` in a group of `size`. -/
def group (rank size : Nat) (steps : List OpenStep) : State :=
  wr pgGeneration Reg.GEN_GROUP_RANK rank (wr pgGeneration Reg.GEN_GROUP_SIZE (size - 1)
    (wr pgGeneration Reg.GEN_CTRL_ENABLE 1 { State.reset with gen := { opened := steps } }))

/-- A binding of micro-batch 1 to generation 0. -/
def bound (s : State) : State := { s with gen := { s.gen with binds := [(1, { seq := 1, gen := 0, step := none, sample := 0 })] } }

theorem witness_bindings :
    writable State.reset pgGeneration = true ∧ rdAt State.reset pgGeneration Reg.MB_ENTRY_BOUND 254 = 0 ∧
      rdAt State.reset pgGeneration Reg.MB_ENTRY_DONE 254 < 1 ∧ noStepOpen (group 0 1 [⟨0, 0⟩]) = false ∧
      writable (group 0 1 [⟨0, 0⟩]) pgGeneration = true ∧
      rdAt (leaves (.mbBind 254 1 1) State.reset) pgGeneration Reg.MB_ENTRY_BOUND 254 = 1 ∧
      rdAt (leaves (.mbBind 0 0 255) (group 0 1 [⟨0, 0⟩])) pgGeneration Reg.MB_ENTRY_NEED 0 = 255 ∧
      rd (leaves (.mbBind 255 1 1) State.reset) pgGeneration Reg.PAGE_ERR_COUNT = 1 ∧
      ((bound State.reset).gen.binds.find? fun e => e.1 == 1).isSome = true ∧ holdsCopies (pgTile 4351) = true ∧
      holdsCopies (pgAttention 255) = true ∧ holdsCopies (pgHandpump 0) = true ∧
      lockState (bound State.reset) (pgTile 4351) = 0 ∧
      rdAt (leaves (.mbBind 254 1 1) State.reset) pgGeneration Reg.MB_ENTRY_SLOT 254 = 0 ∧
      look 0 (leaves (.bindingCopy (pgTile 4351) 1) (bound State.reset)).gen.copies (pgTile 4351 * 256 + 1) = 1 := by
  decide +kernel

/-- An add of one crushed element for a record at 0x4000, waiting for step `t`. -/
def adding (t : Nat) (s : State) : State :=
  { s with gen := { s.gen with statq := [{ page := 0, unit := 0, step := t, addr := 0x4000, scale := none, crushed := 1
                                           clipped := 0, nonfinite := 0, flushed := 0, overflow := 0, zeroBlocks := 0
                                           nanBlocks := 0, amax := 0, blocks := 1, hist := [] }] } }

/-- The pending slot of step 0 is open. -/
def pendingNow (s : State) : State := wr pgGeneration Reg.GEN_STATUS_PHASE 2 s

/-- Its opening has copied; the copy's write to a peer is not answered. -/
def openCopied : State := { group 0 1 [⟨0, 0⟩] with gen := { (group 0 1 [⟨0, 0⟩]).gen with copied := true } }
def unanswered (s : State) : State := { s with bus := { s.bus with outstanding := [
  { tag := 3, who := genWho, dst := 1, kind := .write, addr := 2 ^ 48, len := 64 }] } }

/-- The add is to a record with a scale record at 0x5000 whose alarm is 1 in the pending slot. -/
def alarming : State :=
  let s := memWrite (0x5000 + 128 + 8) (clean [1, 0, 0, 0]) (pendingNow (adding 0 (group 0 1 [⟨0, 0⟩])))
  { s with gen := { s.gen with statq := s.gen.statq.map fun a => { a with scale := some 0x5000, unit := pgTile 4351 } } }

theorem witness_steps_open :
    rd State.reset pgGeneration Reg.GEN_CTRL_ENABLE = 0 ∧ rd (group 0 1 []) pgGeneration Reg.GEN_CTRL_ENABLE = 1 ∧
      lockState (group 0 1 []) pgGeneration = 0 ∧ (group 0 1 []).gen.opened = [] ∧
      (leaves (.genEnable true) State.reset).gen.opened = [⟨1, 0⟩] ∧ (leaves .stepOpenNext (group 0 1 [])).gen.opened = [⟨1, 0⟩] ∧
      (pendingNow (wr pgGeneration Reg.GEN_CTRL_AHEAD 1 (group 0 1 [⟨0, 0⟩]))).gen.opened.length = 1 ∧
      2 ≤ phase (pendingNow (wr pgGeneration Reg.GEN_CTRL_AHEAD 1 (group 0 1 [⟨0, 0⟩]))) ∧
      rd (pendingNow (wr pgGeneration Reg.GEN_CTRL_AHEAD 1 (group 0 1 [⟨0, 0⟩]))) pgGeneration Reg.GEN_CTRL_AHEAD = 1 ∧
      phase (group 0 1 [⟨0, 0⟩]) < 2 ∧
      heldBack (bound (wr pgGeneration Reg.GEN_COMMITTED 2 (group 0 1 [⟨0, 2⟩]))) = true ∧
      isSet (leaves .pendingSlotOpen (bound (wr pgGeneration Reg.GEN_COMMITTED 2 (group 0 1 [⟨0, 2⟩])))) pgGeneration
        Reg.GEN_STATUS_STALL_FOURTH = true ∧
      heldBack openCopied = false ∧ answered openCopied genWho = true ∧ phase (leaves .pendingSlotOpen openCopied) = 2 ∧
      (group 0 1 [⟨0, 0⟩]).gen.copied = false ∧ rd (group 0 1 [⟨0, 0⟩]) pgGeneration Reg.GEN_OPEN_COUNT = 0 ∧
      (result (walkOpenList 0 []) (group 0 1 [⟨0, 0⟩])).isSome = true ∧
      answered (unanswered (group 0 1 [⟨0, 0⟩])) genWho = false ∧
      phase (leaves .pendingSlotOpen (unanswered (group 0 1 [⟨0, 0⟩]))) = 1 ∧
      phase (leaves .pendingSlotOpen (group 0 1 [⟨0, 0⟩])) = 2 := by decide +kernel

theorem witness_statistics_adds :
    dropsAdds (adding 7 (group 0 1 [⟨0, 0⟩])) 7 = true ∧
      (leaves (.statsAddApply 0) (adding 7 (group 0 1 [⟨0, 0⟩]))).gen.statq = [] ∧
      dropsAdds (pendingNow (adding 0 (group 0 1 [⟨0, 0⟩]))) 0 = false ∧
      pendingOpen (pendingNow (adding 0 (group 0 1 [⟨0, 0⟩]))) 0 = true ∧
      pendingSlot (pendingNow (adding 0 (group 0 1 [⟨0, 0⟩]))) = 1 ∧
      recordBusy (pendingNow (adding 0 (group 0 1 [⟨0, 0⟩]))) (statWho 0) 0x4080 = false ∧
      (result (busRead (statWho 0) 0x4080 0x70) (pendingNow (adding 0 (group 0 1 [⟨0, 0⟩])))).isSome = true ∧
      cellAt (leaves (.statsAddApply 0) (pendingNow (adding 0 (group 0 1 [⟨0, 0⟩])))) 0x4080 = 1 ∧
      dropsAdds alarming 0 = false ∧ pendingOpen alarming 0 = true ∧ recordBusy alarming (statWho 0) 0x4080 = false ∧
      result (busReadNat (statWho 0) 0x5088 4) alarming = some (1, false) ∧
      bitOf (rd (leaves (.statsAddApply 0) alarming) (pgTile 4351) Reg.PAGE_INT_STATUS) 3 = true := by decide +kernel

/-- Step 0 is evaluated at a member of rank 2 of 4. -/
def evaluated : State :=
  let s := pendingNow (wr pgGeneration Reg.GEN_COORD_COORD_MODULE 5 (group 2 4 [⟨0, 0⟩]))
  { s with gen := { s.gen with evaluated := true } }

/-- The coordinator of a group of 4, with a decision or none. -/
def coordinating (d : Option Decision) : State :=
  let s := pendingNow (wr pgGeneration Reg.GEN_DEADLINE 100 (wr pgGeneration Reg.GEN_COORD_DEPUTY_MODULE 6
    (group 0 4 [⟨0, 0⟩])))
  { s with gen := { s.gen with decision := d } }

def aborted : Decision := { step := 0, commit := false, cause := 0x0623, rank := 0 }

/-- Not yet evaluated, with a write under way; with a cause for a veto. -/
def unevaluated : State := unanswered { evaluated with gen := { evaluated.gen with evaluated := false } }
def vetoing : State := { evaluated with gen := { evaluated.gen with vetoes := [(0, 0x0620)] } }

/-- The coordinator of one, and of four with three of them ready; the deputy's lock is marked. -/
def readyBut (rs : List Nat) : State := { coordinating none with gen := { (coordinating none).gen with readyRanks := rs, evaluated := true } }
def deputyLocked (s : State) : State := { s with link := { s.link with marks := [(6, true)] } }

theorem witness_commit_protocol :
    currentStep State.reset ≠ some 0 ∧ currentStep evaluated = some 0 ∧ evaluated.gen.readySent = false ∧
      evaluated.gen.vetoSent = false ∧ evaluated.gen.aborting.isNone = true ∧ lockState evaluated pgGeneration = 0 ∧
      vetoed evaluated 0 = false ∧ stepReady evaluated 0 = true ∧ evaluated.res.round.isNone = true ∧
      genRank evaluated ≠ 0 ∧ evaluated.gen.evaluated = true ∧ answered evaluated genWho = true ∧
      writeCode evaluated genWho = 0 ∧ haltedUnits evaluated 0 = false ∧ gradientVeto evaluated 0 = false ∧
      stepReady unevaluated 0 = true ∧ result (evaluateStep 0) unevaluated = some () ∧
      vetoed (out (evaluateStep 0) unevaluated) 0 = false ∧ answered (out (evaluateStep 0) unevaluated) genWho = false ∧
      (leaves .moduleReady unevaluated).gen.evaluated = true ∧
      ((noteCauses 0 vetoing).gen.vetoes.find? fun v => v.1 == 0) = some (0, 0x0620) ∧ genRank vetoing ≠ 0 ∧
      (leaves .moduleReady vetoing).gen.vetoSent = true ∧
      stepReady (readyBut []) 0 = true ∧ (readyBut []).gen.evaluated = true ∧ 0 ∉ (readyBut []).gen.readyRanks ∧
      (List.range (genSize (readyBut []))).all ((readyBut []).gen.readyRanks ++ [0]).contains = false ∧
      (leaves .moduleReady (readyBut [])).gen.readyRanks = [0] ∧
      (List.range (genSize (readyBut [0, 1, 2]))).all ((readyBut [0, 1, 2]).gen.readyRanks ++ [3]).contains = true ∧
      3 ∉ (readyBut [0, 1, 2]).gen.readyRanks ∧
      (leaves (.ready 0 3) (readyBut [0, 1, 2])).gen.decision = some { step := 0, commit := true, gen := 1 } ∧
      phase (leaves .moduleReady evaluated) = 3 ∧
      genRank (coordinating none) = 0 ∧ (coordinating none).gen.decision.isNone = true ∧
      1 ∉ (coordinating none).gen.readyRanks ∧
      (List.range (genSize (coordinating none))).all ((coordinating none).gen.readyRanks ++ [1]).contains = false ∧
      genSize (coordinating none) ≠ 1 ∧ look false (coordinating none).link.marks (deputyModule (coordinating none)) = false ∧
      (leaves (.veto 0 0x0623 0) (coordinating none)).gen.decision = some aborted ∧
      rd (coordinating none) pgGeneration Reg.GEN_DEADLINE = 100 ∧ 2 ≤ phase (coordinating none) ∧
      (leaves (.commitDeadlineExpiry 100) (coordinating none)).gen.decision = some aborted ∧
      (coordinating (some aborted)).gen.told = false ∧ (leaves (.ack 0) (coordinating (some aborted))).gen.told = true := by
  decide +kernel

theorem witness_published :
    Published aborted (coordinating (some aborted)) (sendDecision aborted 6 (coordinating (some aborted))) ∧
      ∃ u, Published aborted (deputyLocked (coordinating (some aborted))) u :=
  ⟨.inl ⟨by decide +kernel, by decide +kernel, rfl⟩,
    ⟨_, .inr ⟨.inr (by decide +kernel), _, _, reads_answer [] (by decide +kernel), rfl⟩⟩⟩

/-- The deputy of a group of 4, with step 0 open, holding a decision on step 7. -/
def deputy : State :=
  let s := wr pgGeneration Reg.GEN_COORD_COORD_MODULE 5 (group 1 4 [⟨0, 0⟩])
  { s with gen := { s.gen with history := [{ step := 7, commit := true, gen := 1 }] } }

theorem witness_decisions_applied :
    currentStep deputy = some 0 ∧ isDeputy (applyDecision { step := 0, commit := true, gen := 1 } deputy) = true ∧
      committed (leaves (.commit 0 1) deputy) = 1 ∧ (leaves (.abort 0 0x0623 0) deputy).gen.aborting = some aborted ∧
      currentStep State.reset ≠ some 0 ∧ isDeputy State.reset = false ∧ isDeputy deputy = true ∧ 7 ∉ deputy.gen.cut ∧
      heldDecision deputy 7 = some { step := 7, commit := true, gen := 1 } ∧
      (result readMap deputy).isSome = true ∧ heldDecision deputy 0 = none ∧ 0 ∉ deputy.gen.cut ∧
      (leaves (.query 0 2) deputy).gen.aborting = some { step := 0, commit := false, cause := 0x0624, rank := 0 } ∧
      isDeputy { deputy with gen := { deputy.gen with opened := [] } } = true ∧
      rd (leaves (.commit 9 1) deputy) pgGeneration Reg.GEN_STRAY = 1 ∧
      rd (leaves (.commit 7 1) deputy) pgGeneration Reg.GEN_STRAY = 0 ∧
      finishingUnits (leaves (.abort 0 0x0623 0) deputy) 0 = false ∧
      rd (leaves .abortDiscard (leaves (.abort 0 0x0623 0) deputy)) pgGeneration Reg.GEN_ABORTS = 1 ∧
      writable deputy pgResilience = true ∧ rd deputy pgGeneration Reg.GEN_STATUS_IN_DOUBT = 0 ∧
      rd (wr pgGeneration Reg.GEN_STATUS_IN_DOUBT 1 deputy) pgGeneration Reg.GEN_STATUS_IN_DOUBT = 1 ∧
      currentStep (wr pgGeneration Reg.GEN_STATUS_IN_DOUBT 1 deputy) = some 0 ∧
      committed (leaves (.rsResolve 1) (wr pgGeneration Reg.GEN_STATUS_IN_DOUBT 1 deputy)) = 1 ∧
      rd (leaves (.rsResolve 3) deputy) pgResilience Reg.PAGE_ERR_COUNT = 1 := by decide +kernel

/-- The rank map at 0x4000 names modules 5, 6, 7 and 8. -/
def mapped (s : State) : State :=
  memWrite 0x4000 (clean ([5, 6, 7, 8].flatMap (leBytes 2))) (wr pgGeneration Reg.GEN_MAP 0x100
    (wr pgGeneration Reg.GEN_COORD_COORD_MODULE 5 (wr pgGeneration Reg.GEN_COORD_DEPUTY_MODULE 6 s)))

/-- What module `m`'s lock notice has done before the step hears of it. -/
def noticed (m : Nat) (s : State) : State := settleRuns (noticeToFill m (redNotice (markLocked 31 m 0 s)))

/-- Ranks 0, 1 and 2 of that group. -/
def ranked (r : Nat) : State := mapped (wr (pgHub 0) Reg.KL_MODULE (5 + r) (pendingNow (group r 4 [⟨0, 0⟩])))
def cutOff (s : State) : State := { s with gen := { s.gen with cut := [0] } }
def marked5 (s : State) : State := { s with link := { s.link with marks := [(5, true)] } }
def marked6 (s : State) : State := { s with link := { s.link with marks := [(6, true)] } }
def holdsAbort (s : State) : State := { s with gen := { s.gen with decision := some aborted } }

/-- The map as rank 0 reads it on that notice. -/
def mapRead (m : Nat) : List Nat := answer [] readMap (noticed m (ranked 0))

theorem witness_lock_notice_coordinator :
    noticeApplies (ranked 0) 7 true = true ∧ currentStep (noticed 7 (ranked 0)) = some 0 ∧
      (noticed 7 (ranked 0)).gen.aborting = none ∧ genRank (noticed 7 (ranked 0)) = 0 ∧
      (noticed 7 (ranked 0)).gen.decision = none ∧ (result readMap (noticed 7 (ranked 0))).isSome = true ∧
      (mapRead 7).findIdx? (· == 7) = some 2 ∧ 9 ∉ mapRead 9 ∧ noticeApplies (ranked 0) 9 true = true ∧
      (leaves (.lockNotice 31 9 0) (ranked 0)).gen.decision = none ∧
      (leaves (.lockNotice 31 7 0) (ranked 0)).gen.decision = some { step := 0, commit := false, cause := 0x0624, rank := 2 } ∧
      (noticed 6 (holdsAbort (ranked 0))).gen.decision = some aborted ∧ (noticed 6 (holdsAbort (ranked 0))).gen.told = false ∧
      1 < genSize (noticed 6 (holdsAbort (ranked 0))) ∧ deputyModule (noticed 6 (holdsAbort (ranked 0))) = 6 ∧
      (leaves (.lockNotice 31 6 0) (holdsAbort (ranked 0))).gen.told = true ∧
      deputyModule (noticed 7 (holdsAbort (ranked 0))) ≠ 7 ∧
      (leaves (.lockNotice 31 7 0) (holdsAbort (ranked 0))).gen.told = false := by decide +kernel

theorem witness_lock_notice_member :
    genRank (noticed 5 (ranked 1)) ≠ 0 ∧ coordModule (noticed 5 (ranked 1)) = 5 ∧ isDeputy (noticed 5 (ranked 1)) = true ∧
      (leaves (.lockNotice 31 5 0) (ranked 1)).gen.aborting = some { step := 0, commit := false, cause := 0x0624, rank := 0 } ∧
      0 ∉ (noticed 5 (ranked 1)).gen.cut ∧ 0 ∈ (noticed 5 (cutOff (ranked 1))).gen.cut ∧
      rd (leaves (.lockNotice 31 5 0) (cutOff (ranked 1))) pgGeneration Reg.GEN_STATUS_IN_DOUBT = 1 ∧
      isDeputy (noticed 5 (ranked 2)) = false ∧ look false (noticed 5 (ranked 2)).link.marks 6 = false ∧
      coordModule (noticed 7 (ranked 2)) ≠ 7 ∧ deputyModule (noticed 7 (ranked 2)) ≠ 7 ∧
      look false (noticed 5 (marked6 (ranked 2))).link.marks 6 = true ∧
      rd (leaves (.lockNotice 31 5 0) (marked6 (ranked 2))) pgGeneration Reg.GEN_STATUS_IN_DOUBT = 1 ∧
      look false (noticed 6 (marked5 (ranked 2))).link.marks 5 = true ∧
      rd (leaves (.lockNotice 31 6 0) (marked5 (ranked 2))) pgGeneration Reg.GEN_STATUS_IN_DOUBT = 1 ∧
      rd (leaves (.lockNotice 31 5 0) (ranked 2)) pgGeneration Reg.GEN_STATUS_IN_DOUBT = 0 := by decide +kernel

/-! ### Pumps -/

/-- Hub pump 31 holds a descriptor in slot 7. -/
def hubSlot (y : Xfer) : State := putSlot 287 7 y State.reset

def slotIn (d : List (Nat × Nat)) : Xfer := { desc := desc 128 d, addr := 0x2000 }

/-- A COPY of 64 bytes, a CONVERT of 32 F32 elements to K16, a STREAM of 64-byte records over rings of 2. -/
def copyXfer : Xfer := slotIn [(0, 1), (4, 1), (8, 64), (0x10, 0x4000), (0x18, 0x5000)]
def convertXfer : Xfer := slotIn [(0, 2), (4, 1), (8, 32), (0x10, 0x4000), (0x18, 0x5000), (0x28, 0x1000), (0x2C, 0x1001)]
def streamXfer : Xfer := slotIn [(0, 3), (4, 1), (8, 64), (0x10, 0x4000), (0x18, 0x5000), (0x20, 2), (0x24, 2),
  (0x28, 0x6000), (0x30, 0x6004), (0x38, 0x6008), (0x40, 1000), (0x48, 0x600C)]

/-- Sixteen submissions; one of descriptor `y` at 0x2000. -/
def fullQueue : State := setPump 287 { queue := List.replicate 16 (0x2000, 0) } State.reset
def submitted (y : Xfer) : State := setPump 287 { queue := [(0x2000, 0)] } (memWrite 0x2000 (clean y.desc) State.reset)
/-- What the pump takes into its slot. -/
def takenKind (y : Xfer) : Option Nat :=
  (result (busRead (slotWho 287 7) 0x2000 128) (submitted y)).map fun d => fld (d.map Prod.fst) 0 1

theorem witness_pump_submissions :
    writable State.reset (pgPump 287) = true ∧ lockState State.reset (pgPump 287) = 0 ∧
      (List.replicate 16 (1 : Byte)).length = 16 ∧ (getPump State.reset 287).queue.length = 0 ∧
      (getPump (leaves (.pmSubmit 31 0 (List.replicate 16 1)) State.reset) 287).queue.length = 1 ∧
      16 ≤ (getPump fullQueue 287).queue.length ∧ leaves (.pmSubmit 31 0 (List.replicate 16 1)) fullQueue = fullQueue ∧
      rd (leaves (.pmSubmit 31 4 (List.replicate 16 1)) State.reset) (pgPump 287) Reg.PM_REFUSED = 1 ∧
      slotOf (submitted copyXfer) 287 7 = none ∧ (getPump (submitted copyXfer) 287).queue = [(0x2000, 0)] ∧
      takenKind copyXfer = some 1 ∧ takenKind convertXfer = some 2 ∧ takenKind streamXfer = some 3 ∧
      (slotOf (leaves (.pumpCopy 287 7) (submitted copyXfer)) 287 7).map Xfer.finished = some true ∧
      (slotOf (leaves (.pumpConvert 287 7) (submitted convertXfer)) 287 7).map Xfer.finished = some true ∧
      (slotOf (leaves (.pumpStream 287 7) (submitted streamXfer)) 287 7).map Xfer.started = some true := by decide +kernel

/-- Descriptors that a check refuses: a reserved bit, a period of zero. -/
def badCopy : Xfer := slotIn [(0, 1), (4, 1), (8, 64), (0x10, 0x4000), (0x18, 0x5000), (0x7F, 1)]
def badConvert : Xfer := slotIn [(0, 2), (4, 1), (8, 32), (0x10, 0x4000), (0x18, 0x5000), (0x28, 0x1000), (0x2C, 0x1001), (0x7F, 1)]
def badStream : Xfer := slotIn [(0, 3), (4, 1), (8, 64), (0x20, 2), (0x24, 2)]
/-- The rows of the COPY; the scales and rows of the CONVERT. -/
def convertScale (f : FormatWord) : M Nat := readCoarse (slotWho 287 7) f 0 0
def nowhere : Xfer := slotIn [(0, 1), (4, 1), (8, 64), (0x10, 0xFFFF * 2 ^ 48), (0x18, 0x5000)]

theorem witness_pump_descriptors :
    slotOf (hubSlot copyXfer) 287 7 = some copyXfer ∧ startable copyXfer 1 = true ∧ copyXfer.check State.reset = none ∧
      copyXfer.windowCode (hubSlot copyXfer) copyXfer.reads copyXfer.writes = none ∧
      result (copyRows 287 7 copyXfer (List.range copyXfer.rows)) (hubSlot copyXfer) = some (64, 0) ∧
      result (copyRows 287 7 nowhere (List.range nowhere.rows)) (hubSlot nowhere) = some (0, 0x0202) ∧
      startable badCopy 1 = true ∧ badCopy.check State.reset = some 0x01A1 ∧
      startable badConvert 2 = true ∧ badConvert.check State.reset = some 0x01A1 ∧
      startable badStream 3 = true ∧ badStream.check State.reset = some 0x01A3 ∧
      (slotOf (leaves (.pumpStream 287 7) (hubSlot badStream)) 287 7).map Xfer.code = some 0x01A3 ∧
      startable convertXfer 2 = true ∧ convertXfer.check State.reset = none ∧
      convertXfer.windowCode (hubSlot convertXfer) convertXfer.reads convertXfer.writes = none ∧
      (result (convertScale convertXfer.srcFmt) (hubSlot convertXfer)).isSome = true ∧
      (result (convertScale convertXfer.dstFmt) (hubSlot convertXfer)).isSome = true ∧
      (result (convertRows 287 7 convertXfer 0x3F800000 0x3F800000 (fun _ => 0) (List.range convertXfer.rows))
        (hubSlot convertXfer)).isSome = true ∧
      startable streamXfer 3 = true ∧ streamXfer.check State.reset = none ∧
      streamXfer.windowCode (hubSlot streamXfer) streamXfer.reads streamXfer.writes = none ∧
      (result (xferRead (slotWho 287 7) streamXfer 0x600C 4) (hubSlot streamXfer)).isSome = true ∧
      (result (xferRead (slotWho 287 7) streamXfer 0x6008 4) (hubSlot streamXfer)).isSome = true := by decide +kernel

/-- A stream that runs, with one record at its source; with the record copied; with a write of it failed; stopped; full. -/
def streamAt (f : Xfer → Xfer) : State := hubSlot (f { streamXfer with started := true, srcTail := 1 })
def streamCopied : State := streamAt fun y => { y with copied := true }
def streamFailed : State := { streamCopied with bus := { writeErr := [⟨slotWho 287 7, 0, 0x0220⟩] } }
def streamStopped : State := streamAt fun y => { y with stopped := true, srcTail := 0 }
/-- The words that a poll reads. -/
def polled (s : State) : Option (Nat × Nat) :=
  result (do
    let t ← streamWord (slotWho 287 7) streamXfer 0x28
    let h ← streamWord (slotWho 287 7) streamXfer 0x30
    pure (t, h)) s

theorem witness_pump_streams :
    (slotOf (streamAt id) 287 7).map Xfer.copied = some false ∧ sub32 1 0 ≠ 0 ∧ ({ streamXfer with srcTail := 1 } : Xfer).fill < 2 ∧
      (result (xferRead (slotWho 287 7) streamXfer 0x4000 64) (streamAt id)).isSome = true ∧
      (result (xferWrite 287 (slotWho 287 7) 0x5000 (clean (List.replicate 64 0))) (streamAt id)).isSome = true ∧
      (slotOf (leaves (.streamRecord 287 7) (streamAt id)) 287 7).map Xfer.taken = some 1 ∧
      accepted streamCopied (slotWho 287 7) = true ∧
      result (busWriteNat (slotWho 287 7) 0x6008 4 1) streamCopied = some () ∧
      result (busWriteNat (slotWho 287 7) 0x600C 4 1) streamCopied = some () ∧
      (slotOf (leaves (.streamRecord 287 7) streamCopied) 287 7).map Xfer.delivered = some 1 ∧
      answered streamFailed (slotWho 287 7) = true ∧ writeCode streamFailed (slotWho 287 7) = 0x0220 ∧
      (slotOf (leaves (.streamRecord 287 7) streamFailed) 287 7).map Xfer.code = some 0x0220 ∧
      polled (streamAt id) = some (0, 0) ∧ fld streamXfer.desc 0x50 8 = 0 ∧
      (slotOf (leaves (.streamPoll 287 7) streamStopped) 287 7).map Xfer.finished = some true ∧
      (slotOf (leaves (.streamPoll 287 7) (streamAt id)) 287 7).map Xfer.dry = some true := by decide +kernel

/-- A descriptor that has finished: with its signal sent, with one to send, with a code, with a record to write. -/
def completed : Xfer := { copyXfer with started := true, finished := true, signaled := true }
def signalling : Xfer := { slotIn [(0, 1), (0x60, 0x7000), (0x68, 5)] with started := true, finished := true }
def failed : Xfer := { copyXfer with started := true, finished := true, code := 0x01A2 }
def recording : Xfer := { failed with record := 0x8000 }

theorem witness_pump_completion :
    slotOf (hubSlot completed) 287 7 = some completed ∧ completed.adds = [] ∧ completed.record = 0 ∧
      answered (hubSlot completed) (signalWho 287 7) = true ∧
      slotOf (leaves (.pumpDescComplete 287 7) (hubSlot completed)) 287 7 = none ∧
      answered (hubSlot signalling) (slotWho 287 7) = true ∧ signalling.lastCode 0 0 = 0 ∧ signalling.kind < 4 ∧
      fld signalling.desc 0x60 8 = 0x7000 ∧
      (leaves (.pumpDescComplete 287 7) (hubSlot signalling)).bus.adds.map Add.val = [5] ∧
      failed.lastCode 0 0 = 0x01A2 ∧ failed.tile = none ∧
      slotOf (leaves (.pumpDescComplete 287 7) (hubSlot failed)) 287 7 = none ∧ recording.record ≠ 0 ∧
      slotOf (leaves (.pumpDescComplete 287 7) (hubSlot recording)) 287 7 = none := by decide +kernel

/-! #### The packer -/

/-- Cluster 255's packer executes a descriptor of `kind` at `stage`: one row of 64 K8 elements at 0x4000, packed at
0x6000, mark at 0x7000; with `flags`, with disposition `disp`. -/
def packingOf (kind stage disp flags : Nat) : Xfer := { slotIn [(0, kind), (1, disp), (2, flags), (8, 64), (0xC, 1), (0x10, 0x7000),
  (0x18, 0x6000), (0x20, 0x1000), (0x28, 0x1002), (0x40, 0x4000), (0x48, 0x1002), (0x4C, 64), (0x58, 0x5000), (0x60, 4)] with
  stage := stage, header := List.replicate 64 0 }
def packing (kind stage : Nat) : Xfer := packingOf kind stage 0 0
def packerOf (y : Xfer) (s : State) : State := setPump 255 { packs := [3], slots := [(3, y)] } s
def packer (kind stage : Nat) : State := packerOf (packing kind stage) State.reset

/-- The pack, stage by stage. -/
def packStarted : State := leaves (.packStart 255) (packer 4 0)
def packBodied : State := leaves (.packBody 255) packStarted
def packValidated : State := leaves (.packHeaderValid 255) packBodied
def packDone : State := leaves (.packComplete 255) packValidated
def xferAt (s : State) : Xfer := (slotOf s 255 3).getD { desc := [], addr := 0 }

theorem witness_packer_stages :
    (getPump (packer 4 0) 255).packs = [3] ∧ slotOf (packer 4 0) 255 3 = some (packing 4 0) ∧
      (packing 4 0).finished = false ∧ (packing 4 0).kind = 4 ∧ (packing 4 0).packCheck (packer 4 0) = none ∧
      (packing 4 0).windowCode (packer 4 0) (packing 4 0).packReads (packing 4 0).packWrites = none ∧
      (packing 4 0).isDrop = false ∧ (packing 4 0).passThrough = true ∧ (packing 4 0).pkFmt.coarseOne = true ∧
      result (packWrite 255 3 0x6000 (clean (List.replicate 64 0))) (packer 4 0) = some () ∧
      (xferAt packStarted).stage = 1 ∧ accepted packStarted (slotWho 255 3) = true ∧
      (result (readUntil (packRow 255 3 (xferAt packStarted) 0x3F800000 0x3F800000 (fun _ => 0)) [0]) packStarted).map Prod.snd
        = some 0 ∧
      (xferAt packBodied).stage = 2 ∧ accepted packBodied (slotWho 255 3) = true ∧
      result (packWrite 255 3 (xferAt packBodied).packed (clean (xferAt packBodied).header)) packBodied = some () ∧
      (xferAt packValidated).stage = 3 ∧ accepted packValidated (slotWho 255 3) = true ∧
      (xferAt packDone).finished = true ∧ (xferAt packDone).code = 0 ∧ rd packDone (pgCluster 255) Reg.AW_PACKS = 1 ∧
      ({ packing 4 0 with addr := 1 } : Xfer).packCheck (packer 4 0) = some 0x0160 ∧
      (xferAt (leaves (.packStart 255) (packerOf { packing 4 0 with addr := 1 } State.reset))).code = 0x0160 ∧
      (xferAt (leaves (.packStart 255) (packerOf (packingOf 4 0 3 0) State.reset))).finished = true ∧
      (packingOf 4 0 3 0).isDrop = true ∧ (packingOf 4 0 3 0).packCheck State.reset = none := by decide +kernel

/-- A source that cannot be read; a write that has failed. -/
def packNowhere : State := packerOf { packing 4 1 with desc := desc 128 [(0, 4), (8, 64), (0xC, 1), (0x10, 0x7000), (0x18, 0x6000),
  (0x20, 0x1000), (0x28, 0x1002), (0x40, 0xFFFF * 2 ^ 48), (0x48, 0x1002), (0x4C, 64), (0x58, 0xFFFF * 2 ^ 48), (0x60, 4)] } State.reset
def withFailure (s : State) : State := { s with bus := { s.bus with writeErr := [⟨slotWho 255 3, 0, 0x0220⟩] } }

theorem witness_packer_failures :
    (result (readUntil (packRow 255 3 (xferAt packNowhere) 0x3F800000 0x3F800000 (fun _ => 0)) [0]) packNowhere).map Prod.snd
        = some 0x0202 ∧
      (xferAt (leaves (.packBody 255) packNowhere)).code = 0x0202 ∧
      answered (withFailure packStarted) (slotWho 255 3) = true ∧ writeCode (withFailure packStarted) (slotWho 255 3) = 0x0220 ∧
      (xferAt packStarted).fallback = false ∧ (xferAt (leaves (.packBody 255) (withFailure packStarted))).code = 0x0220 ∧
      (xferAt (leaves (.packHeaderValid 255) (withFailure packBodied))).code = 0x0220 ∧
      (xferAt (leaves (.packComplete 255) (withFailure packValidated))).code = 0x0220 := by decide +kernel

/-- An unpack of what was packed (its first header left out); of a nonzero mark; of nothing packed, with fallback and without. -/
def packedHere : State :=
  leaves (.packComplete 255) (leaves (.packHeaderValid 255) (leaves (.packBody 255)
    (packerOf { packing 4 1 with header := leBytes 4 0 ++ leBytes 4 f32One ++ leBytes 56 0 } State.reset)))
def unpacking : State := packerOf (packing 5 0) packedHere
def unpackMarked : State := memWrite 0x7000 (clean [1]) unpacking
def unpackEmpty (flags : Nat) : State := packerOf (packingOf 5 0 0 flags) State.reset
def unpackedFrom : State := out (xferRead (slotWho 255 3) (packing 5 0) 0x7000 8) unpacking
def packedRead : Nat × Nat × List Nat := answer (0, 0, []) (readPacked 255 3 (packing 5 0)) unpackedFrom

theorem witness_unpack :
    (packing 5 0).kind = 5 ∧ (packing 5 0).packCheck unpacking = none ∧
      (packing 5 0).windowCode unpacking (packing 5 0).packReads (packing 5 0).packWrites = none ∧
      (result (xferRead (slotWho 255 3) (packing 5 0) 0x7000 8) unpacking).map (fun m => leNat (m.map Prod.fst)) = some 0 ∧
      (result (readPacked 255 3 (packing 5 0)) unpackedFrom).isSome = true ∧
      (match result (unpackChunks 255 3 (packing 5 0) packedRead.1 packedRead.2.1
          ((List.range (packing 5 0).chunks).zip packedRead.2.2) [] 0) unpackedFrom with
        | some none => true
        | _ => false) = true ∧
      (xferAt (leaves (.unpack 255) unpacking)).finished = true ∧ rd (leaves (.unpack 255) unpacking) (pgCluster 255) Reg.AW_UNPACKS = 1 ∧
      rd (leaves (.unpack 255) unpackMarked) (pgCluster 255) Reg.AW_SKIPS = 1 ∧
      refusal (readPacked 255 3 (packing 5 0)) (unpackEmpty 0) = some 0x0221 ∧ (packing 5 0).fallback = false ∧
      (xferAt (leaves (.unpack 255) (unpackEmpty 0))).code = 0x0221 ∧
      (packingOf 5 0 0 1).fallback = true ∧ lostCode 0x0221 = true ∧
      (xferAt (leaves (.unpack 255) (unpackEmpty 1))).fell = true ∧
      answered (packer 5 1) (slotWho 255 3) = true ∧ writeCode (packer 5 1) (slotWho 255 3) = 0 ∧
      (xferAt (leaves (.unpack 255) (withFailure (packer 5 1)))).code = 0x0220 ∧
      (xferAt (leaves (.unpack 255) (packerOf { packing 5 0 with addr := 1 } State.reset))).code = 0x0160 := by decide +kernel

/-! ### Attention pipelines and handpumps -/

/-- Bytes of a store from an address on. -/
def stored (a : Nat) (d : List Byte) : List (Nat × Byte) := (d.zipIdx.filter fun e => e.1 != 0).map fun e => (a + e.2, e.1)

/-- A program header: its list at 128 with one descriptor, 16 completion entries. -/
def progHeader : List Byte := desc 64 [(0, 192), (4, 1), (8, 0x8000), (0x10, 16)]

/-- A gated cluster. -/
def gated255 : State := { State.reset with gated := [(255, true)] }

/-- A good header at the start of the store. -/
def headedPipe : State := setPipe 255 { store := stored 0 (desc 64 [(4, 1), (0x10, 16)]) } State.reset
def headedPump : State := setHp 31 { store := stored 0 progHeader } State.reset

theorem witness_pipelines_start_stop :
    writable State.reset (pgAttention 255) = true ∧ rd State.reset (pgAttention 255) Reg.AP_CTRL_START = 0 ∧
      look false State.reset.gated 255 = false ∧ apState State.reset 255 = 0 ∧ apState (setApState 255 1 State.reset) 255 = 1 ∧
      apState (setApState 255 2 State.reset) 255 = 2 ∧ rd State.reset (pgAttention 255) Reg.AP_CTRL_STOP = 0 ∧
      rd (leaves (.apStart 255) State.reset) (pgAttention 255) Reg.AP_STATUS_HALT_CODE = 0x0176 ∧
      apHeaderBad (storeBytes (getPipe headedPipe 255).store (getPipe headedPipe 255).header 64) = false ∧
      apState (leaves (.apStart 255) headedPipe) 255 = 2 ∧ apHeaderBad (storeBytes [] 0 64) = true ∧
      65536 < ({ header := 65536 } : Pipe).header + 64 ∧
      writable gated255 (pgAttention 255) = true ∧ look false gated255.gated 255 = true ∧
      rd (leaves (.apStart 255) gated255) (pgAttention 255) Reg.AP_CTRL_START = 0 ∧
      look false (leaves (.apStop 255) gated255).waking 255 = true ∧
      writable State.reset (pgHandpump 31) = true ∧ rd State.reset (pgHandpump 31) Reg.HP_CTRL_START = 0 ∧
      hpState State.reset 31 = 0 ∧ hpState (setHpState 31 1 State.reset) 31 = 1 ∧ hpState (setHpState 31 2 State.reset) 31 = 2 ∧
      rd State.reset (pgHandpump 31) Reg.HP_CTRL_STOP = 0 ∧
      hpHeaderBad (storeBytes (getHp headedPump 31).store (getHp headedPump 31).header 64) = false ∧
      hpState (leaves (.hpStart 31) headedPump) 31 = 2 ∧ hpHeaderBad (storeBytes [] 0 64) = true ∧
      hpState (leaves (.hpStart 31) State.reset) 31 = 3 ∧ 32768 < ({ header := 32768 } : Pipe).header + 64 := by decide +kernel

/-- An attention descriptor of K16 operands over one sequence at 0x2000. -/
def atDesc (mode : Nat) : List Byte := desc 128 [(0, 0xFF + mode * 512), (8, 0x1001), (0xC, 0x1001), (0x10, 0x1001),
  (0x14, 0x1001), (0x18, 0x1001), (0x1C, 0x3F800000), (0x20, 0x2000), (0x28, 1), (0x2C, 128), (0x68, 128)]

/-- A sequence of one key and one query, its block table at 0x5000, which names page 0 of Wellhead 1. -/
def seqRecord : List Byte := desc 64 [(0, 1), (4, 1), (0x10, 0x5000), (0x18, 0x3000), (0x20, 0x4000)]

/-- Wellhead 1 enabled, with a pool of two pages: page 0 live with `refs` references and `pins` pins, page 1 free; tree 0
enabled with a live node 1. -/
def poolIn (refs pins : Nat) (s : State) : State :=
  let s := memWrite 0x10000 (clean (desc 64 [(0, 0x40000), (8, refs), (0xC, pins), (0x10, 1), (0x12, 0x101),
    (0x14, f32One), (0x18, f32One), (0x1C, 1)])) s
  let s := memWrite 0x20000 (clean (desc 64 [(8, 0x21000), (0x10, 0x22000), (0x18, 0x23000), (0x20, 0x24000), (0x28, 2),
    (0x33, 1)])) s
  let s := memWrite 0x21040 (clean (desc 64 [(8, 0xFFFFFFFF), (0x10, 1)])) s
  ([(Reg.WH_CTRL_ENABLE, 1), (Reg.WH_PT_BASE, 0x10000), (Reg.WH_POOL, 2), (Reg.WH_FREE, 1), (Reg.WH_FREE_HEAD, 1),
    (Reg.WH_TREE_BASE, 0x20000)] : List (Field × Nat)).foldl (fun s e => wr (pgWellhead 1) e.1 e.2 s) s

/-- Pipeline 255 in its pass at such a descriptor. -/
def attending (mode : Nat) (r : Option AtRun) : State :=
  setApState 255 1 (setPipe 255 { store := stored 0 (atDesc mode), count := 1, compLen := 16, run := r }
    (memWrite 0x5000 (clean (leBytes 8 0x80000000)) (memWrite 0x2000 (clean seqRecord) (poolIn 1 0 State.reset))))

/-- The descriptor that it would take up. -/
def nextAt (mode : Nat) : AtRun := nextDesc (attending mode none) (pgAttention 255) 0 0 128 (getPipe (attending mode none) 255)
  (fun d => bitsOf (fld d 0 4) 0 8) 0

theorem witness_attention_ready :
    AtReady (attending 0 none) 255 (fun m => m != 1) (nextAt 0) (attending 0 none) ∧
      AtReady (attending 1 none) 255 (fun m => m == 1) (nextAt 1) (attending 1 none) ∧
      AtReady (attending 1 none) 255 (fun _ => true) (nextAt 1) (attending 1 none) :=
  ⟨⟨by decide +kernel, by decide +kernel, by decide +kernel, by decide +kernel, .inl (by decide +kernel),
      .inl ⟨by decide +kernel, rfl⟩⟩,
    ⟨by decide +kernel, by decide +kernel, by decide +kernel, by decide +kernel, .inl (by decide +kernel),
      .inl ⟨by decide +kernel, rfl⟩⟩,
    ⟨by decide +kernel, by decide +kernel, by decide +kernel, by decide +kernel, .inl (by decide +kernel),
      .inl ⟨by decide +kernel, rfl⟩⟩⟩

theorem witness_word_met : ∃ u, WordMet (apWho 255) (attending 0 none) 0x5003 0x80 u :=
  ⟨_, .inr ⟨by decide, 0x80, false, 0x80, false, _, reads_of (by decide +kernel), by decide, reads_of (by decide +kernel)⟩⟩

theorem witness_attention_descriptors :
    look false (attending 0 none).gated 255 = false ∧ apState (attending 0 none) 255 = 1 ∧
      apPassBegin 255 (fun m => m != 1) (attending 0 none) = attending 0 none ∧
      apPassBegin 255 (fun m => m == 1) (attending 1 none) = attending 1 none ∧
      (nextAt 0).check 0 = none ∧ (nextAt 1).check 0 = none ∧ ({ nextAt 0 with desc := [] } : AtRun).check 0 ≠ none ∧
      result (atReadChecks 255 (nextAt 0)) (attending 0 none) = some () ∧
      result (atReadChecks 255 (nextAt 1)) (attending 1 none) = some () ∧
      (result (readSeqs 255 (nextAt 0) (List.range (nextAt 0).seqCount)) (attending 0 none)).isSome = true ∧
      (getPipe (leaves (.atForward 255) (attending 0 none)) 255).run.map AtRun.passes = some [⟨0, seqRecord, [(0, 0)], 1⟩] ∧
      (getPipe (leaves (.atBackward 255) (attending 1 none)) 255).run.map AtRun.code = some 0 := by decide +kernel

/-- It runs a pass whose pairs are known, or not yet; at a block in a stage; beyond its last block. -/
def onePass : AtPass := ⟨0, seqRecord, [(0, 0)], 1⟩
def atRunning (passes : List AtPass) (cur : Option PassRun) : AtRun := { desc := atDesc 0, passes := passes, cur := cur }
def passing (cur : Option PassRun) : State := attending 0 (some (atRunning [onePass] cur))
def passAt (block stage : Nat) (want : List (Nat × Nat)) (code : Nat) : PassRun := {
  mask := List.replicate 32 0, cq := f32One, cv := none, co := f32One, block := block, stage := stage, want := want, code := code }
def fetched : State := leaves (.atPass ⟨255, none⟩) (passing none)

theorem witness_attention_pass :
    (atRunning [⟨0, [], [], 1⟩] none).code = 0 ∧
      (result (readSeq 255 (atRunning [⟨0, [], [], 1⟩] none) 0) (attending 0 (some (atRunning [⟨0, [], [], 1⟩] none)))).isSome = true ∧
      onePass.pairs ≠ [] ∧ (result (groupFetch 255 (atRunning [onePass] none) onePass) (passing none)).isSome = true ∧
      (passAt 0 0 [] 0).block < onePass.blocks ∧ 0 < (SeqRec.mk onePass.record).nkb ∧
      (SeqRec.mk ({ onePass with record := desc 64 [(4, 1)] } : AtPass).record).nkb ≤ 0 ∧
      result (blockTable 255 (atRunning [onePass] none) ⟨seqRecord⟩ (passAt 0 0 [] 0))
        (setPipe 255 { getPipe (passing none) 255 with rows := [{ head := 0, row := 0, q := [] }] } (passing none))
        = some (some [(0x80000000, 0)]) ∧
      result (blockTable 255 (atRunning [onePass] none) ⟨seqRecord⟩ { passAt 0 0 [] 0 with mask := [1, 0, 0, 0, 0xFF, 0xFF, 0xFF, 0xFF] })
        (setPipe 255 { getPipe (passing none) 255 with rows := [{ head := 0, row := 0, q := [] }] } (passing none))
        = some none ∧
      0x80000000 / 2 ^ 31 % 2 = 1 ∧
      result (pinPage 1 0x80000000 0) (bump (pgWellhead 1) Reg.WH_CMDS 1 (passing (some (passAt 0 1 [(0x80000000, 0)] 0)))) = some () ∧
      (result (meetBlock 255 (atRunning [onePass] none) onePass (passAt 0 1 [] 0) none) (passing none)).isSome = true ∧
      (result (catchCode (unpinPage 1 0x80000000 0)) (bump (pgWellhead 1) Reg.WH_CMDS 1 (passing none))).isSome = true ∧
      (passAt 0 2 [] 0x0210).code ≠ 0 ∧ onePass.blocks ≤ (passAt 1 0 [] 0).block ∧
      (result (writeRows (writeForward 255 (atRunning [onePass] none) ⟨seqRecord⟩ f32One) (getPipe (passing none) 255).rows {})
        (passing none)).map Prod.snd = some 0 ∧
      (getPipe fetched 255).run.map AtRun.passes = some [] ∧ (getPipe fetched 255).run.map AtRun.code = some 0 ∧
      (getPipe fetched 255).pins = [] ∧ rd fetched (pgAttention 255) Reg.AT_PASSES = 1 ∧
      (getPipe (setPipe 255 { pins := [(0x80000000, 0)] } State.reset) 255).pins = [(0x80000000, 0)] := by decide +kernel

theorem witness_wellhead_takes : WellheadTakes (passing none) 1 :=
  ⟨by decide +kernel, by decide +kernel, by decide +kernel⟩

/-- A descriptor that has run, without passes left; with a code; the last of the list, or not. -/
def attended (code count : Nat) : State :=
  setPipe 255 { getPipe (attending 0 none) 255 with count := count, run := some { atRunning [] none with code := code } } (attending 0 none)

theorem witness_attention_completes :
    (atRunning [] none).adds = [] ∧ answered (attended 0 1) (apWho 255) = true ∧ writeCode (attended 0 1) (apWho 255) = 0 ∧
      (getPipe (leaves (.atDescComplete 255 7) (attended 0 1)) 255).run = none ∧
      apState (leaves (.atDescComplete 255 7) (attended 0 1)) 255 ≠ 1 ∧
      rd (leaves (.atDescComplete 255 7) (attended 0 2)) (pgAttention 255) Reg.AP_PC = 1 ∧
      apState (leaves (.atDescComplete 255 7) (attended 0x0175 1)) 255 = 3 ∧ apState (attended 0x0175 1) 255 ≠ 3 ∧
      rd (leaves (.atDescComplete 255 7) (attended 0x0175 1)) (pgAttention 255) Reg.AP_STATUS_HALT_CODE = 0x0175 := by decide +kernel

/-- A handpump descriptor of one position, one channel, one tap, one box of one pixel. -/
def hdDesc (op : Nat) : List Byte := desc 192 [(0, 0xFF + op * 512), (0x1C, 0x1000), (0x20, 0x3000), (0x40, 1), (0x42, 1),
  (0x44, 1), (0x46, 1), (0x48, 1), (0x4A, 1), (0x4B, 1), (0x4C, 1), (0x4D, 1), (0x4E, 1), (0x4F, 1), (0x54, 0x1000),
  (0x58, 0x4000), (0x68, 0x5000), (0x70, 0x1000), (0x98, 0x6000), (0xA0, 1), (0xA4, 1), (0xA6, 1), (0xB0, 1), (0xB8, 0x7000)]

def pumping (op : Nat) (r : Option AtRun) : State :=
  setHpState 31 1 (setHp 31 { store := stored 0 (hdDesc op), count := 1, compLen := 16, run := r } State.reset)

/-- The descriptor that it would take up. -/
def nextHd (op : Nat) : AtRun := nextDesc (pumping op none) (pgHandpump 31) 0 0 192 (getHp (pumping op none) 31)
  (fun d => bitsOf (fld d 0 4) 0 8) 0

theorem witness_handpump_ready :
    HpReady (pumping 0 none) 31 (fun o => o == 0 || o == 3) (nextHd 0) (pumping 0 none) ∧
      HpReady (pumping 1 none) 31 (fun o => o == 1) (nextHd 1) (pumping 1 none) ∧
      HpReady (pumping 2 none) 31 (fun o => o == 2) (nextHd 2) (pumping 2 none) ∧
      HpReady (pumping 2 none) 31 (fun _ => true) (nextHd 2) (pumping 2 none) :=
  ⟨⟨by decide +kernel, by decide +kernel, by decide +kernel, by decide +kernel, .inl (by decide +kernel),
      .inl ⟨by decide +kernel, rfl⟩⟩,
    ⟨by decide +kernel, by decide +kernel, by decide +kernel, by decide +kernel, .inl (by decide +kernel),
      .inl ⟨by decide +kernel, rfl⟩⟩,
    ⟨by decide +kernel, by decide +kernel, by decide +kernel, by decide +kernel, .inl (by decide +kernel),
      .inl ⟨by decide +kernel, rfl⟩⟩,
    ⟨by decide +kernel, by decide +kernel, by decide +kernel, by decide +kernel, .inl (by decide +kernel),
      .inl ⟨by decide +kernel, rfl⟩⟩⟩

/-- Its operands are readable, and what it computes ends with code 0. -/
def hpGoes (op : Nat) : Bool :=
  match runM (hpOperands 31 ⟨hdDesc op⟩ 0) (pumping op none) with
  | (.ok w, u) => (result (hpCompute 31 ⟨hdDesc op⟩ w (fun _ => 0)) u).map Prod.snd == some 0
  | _ => false

def pumped (code count : Nat) : State :=
  setHp 31 { getHp (pumping 0 none) 31 with count := count, run := some { desc := hdDesc 0, code := code } } (pumping 0 none)

theorem witness_handpump_descriptors :
    hpState (pumping 0 none) 31 = 1 ∧ hpPassBegin 31 (fun _ => true) (pumping 2 none) = pumping 2 none ∧
      (HdDesc.mk (hdDesc 0)).check 0 = none ∧ (HdDesc.mk (hdDesc 1)).check 0 = none ∧ (HdDesc.mk (hdDesc 2)).check 0 = none ∧
      (HdDesc.mk (hdDesc 3)).check 0 ≠ none ∧ (HdDesc.mk (nextHd 3).desc).op = 3 ∧
      hpGoes 0 = true ∧ hpGoes 1 = true ∧ hpGoes 2 = true ∧
      (getHp (leaves (.conv 31) (pumping 0 none)) 31).run.map AtRun.code = some 0 ∧
      (getHp (leaves (.crop 31) (pumping 1 none)) 31).run.map AtRun.code = some 0 ∧
      (getHp (leaves (.wgrad 31) (pumping 2 none)) 31).run.map AtRun.code = some 0 ∧
      (getHp (leaves (.conv 31) (pumping 3 none)) 31).run.map AtRun.code ≠ some 0 ∧
      answered (pumped 0 1) (hpWho 31) = true ∧ writeCode (pumped 0 1) (hpWho 31) = 0 ∧
      hpState (leaves (.hdDescComplete 31 7) (pumped 0 1)) 31 ≠ 1 ∧
      rd (leaves (.hdDescComplete 31 7) (pumped 0 2)) (pgHandpump 31) Reg.HP_PC = 1 ∧
      hpState (leaves (.hdDescComplete 31 7) (pumped 0x0182 1)) 31 = 3 ∧ hpState (pumped 0x0182 1) 31 ≠ 3 := by decide +kernel

/-! ### Wellheads -/

/-- Wellhead 1 with the pool and the tree of `poolIn`. -/
def pool (refs pins : Nat) : State := poolIn refs pins State.reset

/-- A command of an operation on page, node or parent `h`, its result at 0x30000. -/
def whCmd (op h : Nat) : List Byte := desc 32 [(0, op), (4, h), (0x10, 0x30000), (0x18, 0x31000)]

/-- The command waits alone at Wellhead 1; the state in which it runs. -/
def whWaits (op h : Nat) (s : State) : State := { s with whq := [(1, [whCmd op h])] }
def whRunning (op h : Nat) (s : State) : State :=
  showWellhead 1 (bump (pgWellhead 1) Reg.WH_CMDS 1 { whWaits op h s with whq := put [] (whWaits op h s).whq 1 [] })

/-- What the command answers, and the state that its work leaves. -/
def whAnswers (run : List Byte → M WhAnswer) (op h : Nat) (s : State) : Option WhAnswer := result (run (whCmd op h)) (whRunning op h s)
def whLeft (run : List Byte → M WhAnswer) (op h : Nat) (s : State) : State := out (run (whCmd op h)) (whRunning op h s)

/-- Page 0 in state 2, draining. -/
def draining : State := memWrite 0x10010 [(2, false)] (wr (pgWellhead 1) Reg.WH_DRAINING 1 (pool 0 1))

theorem witness_wellhead_port :
    writable (pool 1 0) (pgWellhead 1) = true ∧ lockState (pool 1 0) (pgWellhead 1) = 0 ∧
      rd (pool 1 0) (pgWellhead 1) Reg.WH_CTRL_ENABLE = 1 ∧ (whCmd 1 0).length = 32 ∧ (look [] (pool 1 0).whq 1).length = 0 ∧
      (look [] (leaves (.whCmdPortWrite 1 0 (whCmd 1 0)) (pool 1 0)).whq 1).length = 1 ∧
      rd (leaves (.whCmdPortWrite 1 4 (whCmd 1 0)) (pool 1 0)) (pgWellhead 1) Reg.WH_REFUSED = 1 ∧
      fld (whCmd 10 0) 0 1 = 10 ∧ look [] (whWaits 10 0 (pool 1 0)).whq 1 = [whCmd 10 0] ∧
      rd (leaves (.alloc 1) (whWaits 10 0 (pool 1 0))) (pgWellhead 1) Reg.WH_REFUSED = 1 := by decide +kernel

theorem witness_wellhead_takes_command :
    WhTakes (whWaits 5 0x80000000 (pool 1 0)) 1 5 (whCmd 5 0x80000000) (whRunning 5 0x80000000 (pool 1 0)) ∧
      WhTakes (whWaits 9 1 (pool 1 0)) 1 9 (whCmd 9 1) (whRunning 9 1 (pool 1 0)) :=
  ⟨⟨⟨[], by decide +kernel, rfl⟩, by decide +kernel, by decide +kernel, by decide +kernel⟩,
    ⟨⟨[], by decide +kernel, rfl⟩, by decide +kernel, by decide +kernel, by decide +kernel⟩⟩

theorem witness_names_page :
    (∃ u, NamesPage (pool 1 0) 1 0x80000000 0 0 1 u) ∧ ∃ u, NamesPage draining 1 0x80000000 0 0 2 u :=
  ⟨⟨_, by decide, by decide, by decide +kernel, _, reads_of (by decide +kernel), reads_of (by decide +kernel)⟩,
    ⟨_, by decide, by decide, by decide +kernel, _, reads_of (by decide +kernel), reads_of (by decide +kernel)⟩⟩

theorem witness_reference_dropped :
    (∃ t, RefDropped 1 0 2 0 (pool 2 0) t) ∧ (∃ t, RefDropped 1 0 1 0 (pool 1 0) t) ∧ ∃ t, RefDropped 1 0 1 3 (pool 1 3) t :=
  ⟨⟨_, _, pool 2 0, reads_of (by decide +kernel), fun _ => rfl, fun h => by omega⟩,
    ⟨_, _, _, reads_of (by decide +kernel), fun h => by omega,
      fun _ => ⟨reads_of (by decide +kernel), fun _ => reads_of (by decide +kernel), fun h => absurd rfl h⟩⟩,
    ⟨_, _, _, reads_of (by decide +kernel), fun h => by omega,
      fun _ => ⟨reads_of (by decide +kernel), (fun h => by cases h), fun _ => ⟨_, reads_of (by decide +kernel), rfl⟩⟩⟩⟩

theorem witness_wellhead_pages :
    rd (whRunning 1 0 (pool 1 0)) (pgWellhead 1) Reg.WH_FREE ≠ 0 ∧ whAnswers (whAlloc 1) 1 0 (pool 1 0) = some ⟨0, 0x80000001, 1, 1⟩ ∧
      whAnswers (onePage 1 sharePage) 2 0x80000000 (pool 1 0) = some ⟨0, 0x80000000, 0, 2⟩ ∧
      whAnswers (onePage 1 unrefPage) 3 0x80000000 (pool 2 0) = some ⟨0, 0x80000000, 0, 1⟩ ∧
      whAnswers (onePage 1 unrefPage) 3 0x80000000 (pool 1 0) = some ⟨0, 0x80000000, 0, 0⟩ ∧
      whAnswers (whCow 1) 4 0x80000000 (pool 1 0) = some ⟨0, 0x80000000, 0, 1⟩ ∧
      result (ptRead 1 0 8 4) (pool 2 0) = some 2 ∧ result (allocPage 1 0x101 f32One f32One) (pool 2 0) = some 1 ∧
      (result (busRead (whWho 1) 0x40000 16384) (pool 2 0)).isSome = true ∧
      (result (busWrite (whWho 1) 0x60000 (List.replicate 16384 (0, false))) (pool 2 0)).isSome = true ∧
      whAnswers (onePage 1 pinPage) 5 0x80000000 (pool 1 0) = some ⟨0, 0x80000000, 0, 1⟩ ∧
      result (ptRead 1 0 0xC 2) (whLeft (onePage 1 pinPage) 5 0x80000000 (pool 1 0)) = some 1 ∧
      whAnswers (onePage 1 unpinPage) 6 0x80000000 (pool 1 2) = some ⟨0, 0x80000000, 0, 1⟩ ∧
      whAnswers (onePage 1 unpinPage) 6 0x80000000 (pool 1 1) = some ⟨0, 0x80000000, 0, 1⟩ ∧
      whAnswers (onePage 1 unpinPage) 6 0x80000000 draining = some ⟨0, 0x80000000, 0, 0⟩ ∧
      rd (leaves (.unpin 1) (whWaits 6 0x80000000 draining)) (pgWellhead 1) Reg.WH_DRAINING = 0 ∧
      rd (leaves (.alloc 1) (whWaits 1 0 (pool 1 0))) (pgWellhead 1) Reg.WH_FREE = 0 := by decide +kernel

/-- The tree of Wellhead 1; after an INSERT under the root it holds the tokens at 0x31000 in node 0. -/
def whTree : Tree := answer ⟨0, []⟩ (readTree 1 0) (pool 1 0)
def planted : State := whLeft (whInsert 1) 8 0xFFFFFFFF (pool 1 0)
def handleOf (a : Option WhAnswer) : Option (Nat × Nat) := a.map fun x => (x.flags, x.handle)

theorem witness_wellhead_trees :
    whTree.nodes = 2 ∧ whTree.freeHead < whTree.nodes ∧ (result (readBucket 1 whTree 7) (pool 1 0)).isSome = true ∧
      result (parentKey 1 whTree 0xFFFFFFFF) (pool 1 0) = some 0 ∧
      (result (busRead (whWho 1) 0x31000 256) (pool 1 0)).isSome = true ∧
      (whAnswers (whLookup 1) 7 0xFFFFFFFF (pool 1 0)).map WhAnswer.flags = some 0 ∧
      handleOf (whAnswers (whInsert 1) 8 0xFFFFFFFF (pool 1 0)) = some (0, 0) ∧
      handleOf (whAnswers (whLookup 1) 7 0xFFFFFFFF planted) = some (1, 0) ∧
      handleOf (whAnswers (whInsert 1) 8 0xFFFFFFFF planted) = some (2, 0) ∧
      (result (parentKey 1 whTree 1) (pool 1 0)).isSome = true ∧
      result (liveNode 1 whTree 1) (pool 1 0) = some () ∧
      handleOf (whAnswers (whEvict 1) 9 1 (pool 1 0)) = some (0, 1) ∧ handleOf (whAnswers (whEvict 1) 9 0 planted) = some (0, 0) := by
  decide +kernel

/-! ### Media engines -/

/-- Decoder 15 enabled, with a ring of 16 entries and a pool of two buffers of 12 288 bytes; buffer 31 is marked OUT. -/
def decoding (x : Decoder) : State :=
  ([(Reg.VD_CTRL_ENABLE, 1), (Reg.VD_POOL_CFG_COUNT, 1), (Reg.VD_POOL_CFG_SIZE, 3), (Reg.VD_POOL_BASE, 0x10000),
    (Reg.VD_RING_BASE, 0x20000), (Reg.VD_OUT_MARKS, 0x80000000)] : List (Field × Nat)).foldl
    (fun s e => wr (pgDecoder 15) e.1 e.2 s) (setDec 15 x State.reset)

/-- A job of 64 bytes at 0x30000 of each codec: HEVC, AV1, JPEG. -/
def vdJob (codec : Nat) : List Byte := desc 32 [(0, codec), (8, 0x30000), (0x10, 64)]

/-- A picture of one luma sample in 4:2:0, in one unit coded in bytes 8 to 15. -/
def onePicture : Picture := {
  unsupported := false, level := 61, width := 1, height := 1, depth := 8, chroma := 1, refs := 0
  planes := [[[9]], [[8]], [[7]]], grained := [[[6]], [[5]], [[4]]], output := 0, decode := 0, shown := true, key := true
  last := true, uses := [], drops := [1], keep := true, starts := [8], ends := 16, errors := [], slices := []
  unitW := 64, unitH := 64 }

/-- The decoder with a running job, and the bitstream that it reads. -/
def vdRunning (codec : Nat) : State := decoding { job := some (vdJob codec), held := [1] }
def bitstream (codec : Nat) : M (List PByte) := busRead (vdWho 15) (fld (vdJob codec) 8 8) (fld (vdJob codec) 0x10 4)

theorem witness_video_decode_jobs :
    writable (decoding {}) (pgDecoder 15) = true ∧ lockState (decoding {}) (pgDecoder 15) = 0 ∧
      rd (decoding {}) (pgDecoder 15) Reg.VD_CTRL_ENABLE = 1 ∧ (vdJob 2).length = 32 ∧
      (getDec (decoding {}) 15).queue.length = 0 ∧
      (getDec (leaves (.vdJobSubmit 15 0 (vdJob 2)) (decoding {})) 15).queue = [vdJob 2] ∧
      writable State.reset (pgDecoder 0) = true ∧ lockState State.reset (pgDecoder 0) = 0 ∧
      rd State.reset (pgDecoder 0) Reg.VD_CTRL_ENABLE = 0 ∧
      rd (leaves (.vdJobSubmit 0 0 (vdJob 0)) State.reset) (pgDecoder 0) Reg.VD_REFUSED = 1 ∧
      rd (leaves (.vdJobSubmit 15 4 (vdJob 0)) (decoding {})) (pgDecoder 15) Reg.VD_REFUSED = 1 ∧
      rd (leaves (.vdJobSubmit 15 0 [1]) (decoding {})) (pgDecoder 15) Reg.VD_REFUSED = 1 ∧
      (getDec (decoding { queue := [vdJob 2, vdJob 3] }) 15).queue = [vdJob 2, vdJob 3] ∧
      (getDec (decoding { queue := [vdJob 2] }) 15).job = none ∧ (getDec (decoding { queue := [vdJob 2] }) 15).out = [] ∧
      lockState (decoding { queue := [vdJob 2] }) (pgDecoder 15) = 0 ∧ jobBad (vdJob 2) = false ∧ jobBad (vdJob 3) = true ∧
      rd (leaves (.vdJobStart 15) (decoding { queue := [vdJob 2] })) (pgDecoder 15) Reg.VD_STATUS_BUSY = 1 ∧
      (getDec (leaves (.vdJobStart 15) (decoding { queue := [vdJob 3] })) 15).out = [finalEntry (vdJob 3) 0x0501] := by
  decide +kernel

theorem witness_video_decode_ends :
    (getDec (vdRunning 0) 15).job = some (vdJob 0) ∧ (getDec (vdRunning 0) 15).out = [] ∧ (getDec (vdRunning 0) 15).ended = false ∧
      codecOf (vdJob 0) = 0 ∧ codecOf (vdJob 1) = 1 ∧ codecOf (vdJob 2) = 2 ∧
      streamBad 0 { onePicture with depth := 12 } = 0x0502 ∧ streamBad 0 { onePicture with level := 62 } = 0x0504 ∧
      streamBad 2 { onePicture with width := 16385 } = 0x0502 ∧ streamBad 0 onePicture = 0 ∧ streamBad 1 onePicture = 0 ∧
      streamBad 2 onePicture = 0 ∧
      poolTooSmall (vdRunning 0) 15 0 { onePicture with refs := 1 } = true ∧ poolTooSmall (vdRunning 1) 15 1 onePicture = true ∧
      poolTooSmall (vdRunning 0) 15 0 onePicture = false ∧ poolTooSmall (vdRunning 2) 15 2 onePicture = false ∧
      (getDec (leaves (.vdPictureDecode 15 { onePicture with depth := 12 }) (vdRunning 0)) 15).out =
        [finalEntry (vdJob 0) 0x0502] ∧
      (getDec (leaves (.vdPictureDecode 15 { onePicture with refs := 1 }) (vdRunning 0)) 15).out =
        [finalEntry (vdJob 0) 0x0505] := by decide +kernel

/-- No buffer is free. -/
def noBuffer : State := wr (pgDecoder 15) Reg.VD_OUT_MARKS 3 (vdRunning 2)
/-- The running job of a codec once its bitstream is read and HEVC's and JPEG's reference drops are made. -/
def readHevc : State :=
  setDec 15 { getDec (vdRunning 0) 15 with held := [] } (out (bitstream 0) (vdRunning 0))

theorem witness_video_decode_waits :
    Reads (bitstream 2) noBuffer (answer [] (bitstream 2) noBuffer) (out (bitstream 2) noBuffer) ∧
      freeBuffer (setDec 15 { getDec noBuffer 15 with held := [] } (out (bitstream 2) noBuffer)) 15 = none ∧
      Reads (bitstream 0) (vdRunning 0) (answer [] (bitstream 0) (vdRunning 0)) (out (bitstream 0) (vdRunning 0)) ∧
      freeBuffer readHevc 15 = some 0 :=
  ⟨reads_answer [] (by decide +kernel), by decide +kernel, reads_answer [] (by decide +kernel), by decide +kernel⟩

/-- The samples of a picture go into buffer 0 of a decoder. -/
def writesPicture (c : Picture) (units : List (Nat × Option Nat)) : M Unit :=
  writePicture 15 0 c (chosenPlanes (vdJob 0) c) units (pictureRows c)
def damaged : Picture := { onePicture with ends := 65, errors := [9] }
def bytesRead : List PByte := answer [] (bitstream 0) (vdRunning 0)

theorem witness_video_decode_pictures :
    damagesOf 0 onePicture (bytesRead.map Prod.fst) 0 (pictureErrors onePicture 0x30000 bytesRead) = [] ∧
      result (writesPicture onePicture []) (wr (pgDecoder 15) Reg.VD_STATUS_BUF_WAIT 0 readHevc) = some () ∧
      (getDec (leaves (.vdPictureDecode 15 onePicture) (vdRunning 0)) 15).waiting.length = 1 ∧
      cellAt (leaves (.vdPictureDecode 15 onePicture) (vdRunning 0)) 0x11000 = 8 ∧
      damagesOf 0 damaged (bytesRead.map Prod.fst) 0 (pictureErrors damaged 0x30000 bytesRead) =
        [{ off := 9, code := 0x0503, unit := 0, resume := none, upTo := 1 }] ∧
      (getDec (leaves (.vdPictureDecode 15 damaged) (vdRunning 0)) 15).out = [] ∧
      concealedUnits (vdRunning 0) 15 0 damaged [{ off := 9, code := 0x0503, unit := 0, resume := none, upTo := 1 }] =
        [(0, none)] ∧
      ((getDec (leaves (.vdPictureDecode 15 damaged) (vdRunning 0)) 15).waiting.map WaitingPic.flags) = [5] ∧
      cellAt (leaves (.vdPictureDecode 15 damaged) (vdRunning 0)) 0x10000 = 128 ∧
      (getDec (leaves (.vdPictureDecode 15 damaged) (wr (pgDecoder 15) Reg.VD_RING_TAIL 16 (vdRunning 0))) 15).out.length = 1 ∧
      (getDec (leaves (.vdPictureDecode 15 { onePicture with drops := [] }) (vdRunning 2)) 15).ended = true := by decide +kernel

/-- Decoder 15 with entries that wait; with two pictures, the first of output index 0; at the end of a stream without one. -/
def entering : State := decoding { job := some (vdJob 0), out := [ringEntry (vdJob 0) 2 0 0xFFFF 0 0 9 0 0 0x0503] }
def picture (b o : Nat) : WaitingPic := { buf := b, output := o, decode := 0, flags := 0, size := 1, form := 8, concealed := 0 }
def delivering : State := decoding { job := some (vdJob 0), waiting := [picture 1 1, picture 0 0] }
def finishing : State := decoding { job := some (vdJob 0), waiting := [picture 1 5], ended := true }
def empty : State := decoding { job := some (vdJob 0), ended := true }

theorem witness_video_frame_entries :
    (getDec entering 15).out.length = 1 ∧ ringFull entering 15 = false ∧
      (getDec (leaves (.vdFrameEntry 15) entering) 15).out = [] ∧ (getDec delivering 15).out = [] ∧
      (getDec delivering 15).job = some (vdJob 0) ∧ duePicture (getDec delivering 15) (vdJob 0) = some (picture 0 0) ∧
      answered delivering (vdWho 15) = true ∧ writeCode delivering (vdWho 15) = 0 ∧
      lastPicture (getDec delivering 15) (vdJob 0) (picture 0 0) = false ∧ ringFull delivering 15 = false ∧
      bitOf (outMarks (leaves (.vdFrameEntry 15) delivering) 15) 0 = true ∧
      duePicture (getDec finishing 15) (vdJob 0) = some (picture 1 5) ∧ answered finishing (vdWho 15) = true ∧
      lastPicture (getDec finishing 15) (vdJob 0) (picture 1 5) = true ∧
      (getDec (leaves (.vdFrameEntry 15) finishing) 15).job = none ∧
      duePicture (getDec empty 15) (vdJob 0) = none ∧ (getDec empty 15).ended = true ∧ (getDec empty 15).waiting = [] ∧
      ringFull empty 15 = false ∧ (getDec (leaves (.vdFrameEntry 15) empty) 15).job = none ∧
      bitOf (outMarks (decoding {}) 15) 31 = true ∧ bitOf (outMarks (decoding {}) 15) 0 = false ∧
      outMarks (leaves (.vdRelease 15 31) (decoding {})) 15 = 0 ∧
      rd (leaves (.vdRelease 15 0) (decoding {})) (pgDecoder 15) Reg.VD_REFUSED = 1 := by decide +kernel

/-- Encoder 3 enabled. -/
def encoding (x : Encoder) : State := wr (pgEncoder 3) Reg.VE_CTRL_ENABLE 1 (setEnc 3 x State.reset)

/-- A job of one 64 by 64 frame of planes, its stream at 0x50000, its result at 0x60000. -/
def veJob : List Byte := desc 64 [(4, 1), (8, 0x30000), (0x14, 64), (0x16, 64), (0x18, 0x50000), (0x2A, 40),
  (0x30, 1), (0x32, 1), (0x38, 0x60000)]
def veEnded : Encoder := { job := some veJob, ended := some 0 }
def veLeft : Encoder := { results := [(veJob, 0x0801, 0, 0, 0)] }

theorem witness_video_encode_jobs :
    writable (encoding {}) (pgEncoder 3) = true ∧ lockState (encoding {}) (pgEncoder 3) = 0 ∧
      rd (encoding {}) (pgEncoder 3) Reg.VE_CTRL_ENABLE = 1 ∧ veJob.length = 64 ∧ (getEnc (encoding {}) 3).queue.length = 0 ∧
      (getEnc (leaves (.veJobSubmit 3 0 veJob) (encoding {})) 3).queue = [veJob] ∧
      rd (leaves (.veJobSubmit 3 1 veJob) (encoding {})) (pgEncoder 3) Reg.VE_REFUSED = 1 ∧
      rd (leaves (.veJobSubmit 3 0 []) (encoding {})) (pgEncoder 3) Reg.VE_REFUSED = 1 ∧
      writable State.reset (pgEncoder 3) = true ∧ lockState State.reset (pgEncoder 3) = 0 ∧
      rd State.reset (pgEncoder 3) Reg.VE_CTRL_ENABLE = 0 ∧
      rd (leaves (.veJobSubmit 3 0 veJob) State.reset) (pgEncoder 3) Reg.VE_REFUSED = 1 ∧
      (getEnc (encoding { queue := [veJob] }) 3).queue = [veJob] ∧ (getEnc (encoding { queue := [veJob] }) 3).job = none ∧
      (getEnc (encoding { queue := [veJob] }) 3).results = [] ∧ encBad veJob = false ∧
      lockState (encoding { queue := [veJob] }) (pgEncoder 3) = 0 ∧
      answered (encoding veEnded) (veWho 3) = true ∧ (getEnc (encoding veEnded) 3).results = [] ∧
      (getEnc (encoding veEnded) 3).job = some veJob ∧ (getEnc (encoding veEnded) 3).ended = some 0 ∧
      (getEnc (leaves (.veResult 3) (encoding veEnded)) 3).job = none ∧
      answered (encoding veLeft) (veWho 3) = true ∧ (getEnc (encoding veLeft) 3).results = [(veJob, 0x0801, 0, 0, 0)] ∧
      (getEnc (leaves (.veResult 3) (encoding veLeft)) 3).results = [] := by decide +kernel

/-- Encoder 3 in a job; with a job whose source no module holds. -/
def veRunning : State := encoding { job := some veJob }
def veLost : State := encoding { job := some (veJob.take 14 ++ [0xFF, 0xFF] ++ veJob.drop 16) }
def veSource : M (List PByte) := busRead (veWho 3) 0x30000 (sourceBytes veJob)

/-- The job has no room for a byte: a frame of bytes ends it, a frame without any is stored. -/
theorem witness_video_encode_frames :
    (getEnc veRunning 3).job = some veJob ∧ (getEnc veRunning 3).ended = none ∧ (getEnc veRunning 3).frames < fld veJob 4 4 ∧
      fld veJob 8 8 + (getEnc veRunning 3).frames * fld veJob 0x10 4 = 0x30000 ∧
      Reads veSource veRunning (answer [] veSource veRunning) (out veSource veRunning) ∧
      (∀ bytes : List Byte, fld veJob 0x20 8 < (getEnc veRunning 3).bytes + bytes.length ∨
        ((getEnc veRunning 3).bytes + bytes.length ≤ fld veJob 0x20 8 ∧
          Reads (busWrite (veWho 3) (fld veJob 0x18 8) (marked false bytes)) (out veSource veRunning) ()
            (out (busWrite (veWho 3) (fld veJob 0x18 8) (marked false bytes)) (out veSource veRunning)))) ∧
      (getEnc veLost 3).frames < 1 ∧
      refusal (busRead (veWho 3) 0xFFFF000000030000 (sourceBytes veJob)) veLost = some 0x0202 ∧
      (getEnc (leaves (.veFrameEncode 3 []) veLost) 3).ended = some 0x0202 := by
  refine ⟨by decide +kernel, by decide +kernel, by decide +kernel, by decide +kernel, reads_answer [] (by decide +kernel), ?_,
    by decide +kernel, by decide +kernel, by decide +kernel⟩
  intro bytes
  cases bytes with
  | nil => exact .inr ⟨by decide +kernel, reads_of (by decide +kernel)⟩
  | cons b bs => exact .inl (by simp [show fld veJob 0x20 8 = 0 by decide +kernel] <;> omega)

/-! ### The cistern -/

/-- The controller runs with batches of `slots` samples, slots of 128 bytes and one entry in its submission ring. -/
def cistern (slots : Nat) (d : List Byte) (c : Cist) : State :=
  ([(Reg.CI_CTRL_ENABLE, 1), (Reg.CI_GEOM_SLOTS, slots - 1), (Reg.CI_SLOT_BYTES, 128), (Reg.CI_BASE, 0x40000),
    (Reg.CI_SUB_BASE, 0x2000), (Reg.CI_SUB_TAIL, 1), (Reg.CI_DECODERS_DEC, 1), (Reg.CI_DECODERS_XF, 0x80)] :
    List (Field × Nat)).foldl (fun s e => wr pgCistern e.1 e.2 s)
    (memWrite 0x2000 (clean d) { State.reset with cist := c })

def ciEntry (kind : Nat) : List Byte := desc 64 [(0, kind), (4, if kind = 1 then 1 else 0), (8, 0x5000),
  (0x10, if kind = 1 then 64 else 0), (0x15, if kind = 5 then 7 else 0), (0x18, 0x6000)]

/-- A K16 transform of a one-pixel crop to one pixel. -/
def txDesc : List Byte := desc 64 [(4, 0x1001), (0xC, 1), (0xE, 1), (0x10, 1), (0x12, 1)]

/-- Decoder 0 runs for the cistern, and a transform descriptor stands in memory. -/
def decodable (s : State) : State := wr (pgDecoder 0) Reg.VD_CTRL_ENABLE 1 (memWrite 0x6000 (clean txDesc) s)

/-- The read of the ring's entry, and the state once it has been taken. -/
def ciRead : M (List PByte) := busRead ciWho 0x2000 64
def taken (s : State) : State := wr pgCistern Reg.CI_SUB_HEAD 1 (out ciRead s)

theorem entered {s : State} {d : List Byte} (h : (ciOn s && s.cist.waiting.isEmpty) = true)
    (hh : rd s pgCistern Reg.CI_SUB_HEAD = 0) (ht : rd s pgCistern Reg.CI_SUB_TAIL = 1)
    (hb : rd s pgCistern Reg.CI_SUB_BASE = 0x2000) (hr : result ciRead s = some (clean d)) : SubEntry s d (taken s) := by
  simp only [Bool.and_eq_true, List.isEmpty_iff] at h
  refine ⟨h.1, h.2, by simp [hh, ht], clean d, out ciRead s, ?_, by simp [clean, Function.comp_def], by simp [taken, hh]⟩
  rw [hb, hh]
  exact reads_of hr

/-- The entry of each kind is read, and what its command does next. -/
def entryState (kind : Nat) : State := decodable (cistern 2 (ciEntry kind) {})

theorem witness_cistern_entries :
    SubEntry (entryState 0) (ciEntry 0) (taken (entryState 0)) ∧ SubEntry (entryState 1) (ciEntry 1) (taken (entryState 1)) ∧
      SubEntry (entryState 2) (ciEntry 2) (taken (entryState 2)) ∧ SubEntry (entryState 3) (ciEntry 3) (taken (entryState 3)) ∧
      SubEntry (entryState 4) (ciEntry 4) (taken (entryState 4)) ∧ SubEntry (entryState 5) (ciEntry 5) (taken (entryState 5)) :=
  ⟨entered (by decide +kernel) (by decide +kernel) (by decide +kernel) (by decide +kernel) (by decide +kernel),
    entered (by decide +kernel) (by decide +kernel) (by decide +kernel) (by decide +kernel) (by decide +kernel),
    entered (by decide +kernel) (by decide +kernel) (by decide +kernel) (by decide +kernel) (by decide +kernel),
    entered (by decide +kernel) (by decide +kernel) (by decide +kernel) (by decide +kernel) (by decide +kernel),
    entered (by decide +kernel) (by decide +kernel) (by decide +kernel) (by decide +kernel) (by decide +kernel),
    entered (by decide +kernel) (by decide +kernel) (by decide +kernel) (by decide +kernel) (by decide +kernel)⟩

/-- Entries that are refused: of a reserved kind, with a reserved bit, with a counter beyond 7, inside a batch. -/
def refusedWith (d : List Byte) (c : Instr) : Nat :=
  bitsOf (rdAt (leaves c (cistern 2 d {})) pgCistern Reg.PAGE_ERR_LOG 0) 0 16
/-- A descriptor with a reserved bit. -/
def reservedBit (kind : Nat) : List Byte := desc 64 [(0, kind), (0x30, 1)]
/-- The state of an entry of a kind, inside a batch. -/
def inBatch (kind : Nat) : State := wr pgCistern Reg.CI_NEXT_SAMPLE 1 (entryState kind)

theorem witness_cistern_submission :
    fld (ciEntry 1) 0 1 = 1 ∧ result (checkDecode (ciEntry 1)) (taken (entryState 1)) = some (0, txDesc) ∧
      (leaves .ciDecode (entryState 1)).cist.flight.map CiSample.dec = [some 0] ∧
      (leaves .ciDecode (cistern 2 (reservedBit 1) {})).cist.flight.map CiSample.code = [0x0520] ∧
      fld (ciEntry 0) 0 1 = 0 ∧ ciEntry 0 ≠ [] ∧
      rd (leaves .ciDecode (entryState 0)) pgCistern Reg.CI_ERRORS = 1 ∧
      (leaves .ciCopy (entryState 2)).cist.flight.map CiSample.finished = [true] ∧
      (leaves .ciCopy (cistern 2 (desc 64 [(0, 2), (0x10, 129)]) {})).cist.flight.map CiSample.code = [0x0520] ∧
      (leaves .ciSensor (entryState 3)).cist.flight.map CiSample.finished = [true] ∧
      descReserved (ciEntry 4) = false ∧ rd (inBatch 4) pgCistern Reg.CI_NEXT_SAMPLE % ciSlots (inBatch 4) = 1 ∧
      (leaves .ciPad (inBatch 4)).cist.flight.map CiSample.finished = [true] ∧
      (leaves .ciPad (entryState 4)).cist.flight = [] ∧
      descReserved (reservedBit 4) = true ∧ rd (leaves .ciPad (cistern 2 (reservedBit 4) {})) pgCistern Reg.CI_ERRORS = 1 ∧
      descReserved (reservedBit 5) = true ∧ rd (leaves .ciSetAug (cistern 2 (reservedBit 5) {})) pgCistern Reg.CI_ERRORS = 1 ∧
      7 < fld (desc 64 [(0, 5), (0x15, 8)]) 0x15 1 ∧
      rd (leaves .ciSetAug (cistern 2 (desc 64 [(0, 5), (0x15, 8)]) {})) pgCistern Reg.CI_ERRORS = 1 ∧
      descReserved (ciEntry 5) = false ∧ fld (ciEntry 5) 0x15 1 ≤ 7 ∧
      rd (inBatch 5) pgCistern Reg.CI_NEXT_SAMPLE % ciSlots (inBatch 5) ≠ 0 ∧
      rd (leaves .ciSetAug (inBatch 5)) pgCistern Reg.CI_ERRORS = 1 ∧
      rd (entryState 5) pgCistern Reg.CI_NEXT_SAMPLE % ciSlots (entryState 5) = 0 ∧
      rdAt (leaves .ciSetAug (entryState 5)) pgCistern Reg.CI_AUG 7 = 0x5000 := by decide +kernel

/-- Samples that wait: refused, PAD, COPY, SENSOR, DECODE. -/
def waitingFor (x : CiSample) : State := decodable (cistern 1 [] { waiting := [x] })
def sampleOf (kind : Nat) : CiSample := { num := 0, desc := ciEntry kind, xform := if kind = 1 then txDesc else [] }
/-- The state with that sample under way. -/
def dispatched (x : CiSample) : State :=
  modCist (fun c => { c with waiting := [], flight := c.flight ++ [{ x with budget := budgetOf (waitingFor x) x }] }) (waitingFor x)

theorem witness_cistern_dispatch :
    ciOn (waitingFor (sampleOf 2)) = true ∧ (waitingFor (sampleOf 2)).cist.waiting = [sampleOf 2] ∧
      canDispatch (waitingFor (sampleOf 1)) (sampleOf 1) = true ∧ canDispatch (waitingFor (sampleOf 2)) (sampleOf 2) = true ∧
      canDispatch (waitingFor (sampleOf 3)) (sampleOf 3) = true ∧ canDispatch (waitingFor (sampleOf 4)) (sampleOf 4) = true ∧
      ({ sampleOf 2 with code := 0x0520 } : CiSample).code ≠ 0 ∧ (sampleOf 4).pad = true ∧
      canDispatch (waitingFor { sampleOf 2 with code := 0x0520 }) { sampleOf 2 with code := 0x0520 } = true ∧
      (leaves .ciDispatch (waitingFor { sampleOf 2 with code := 0x0520 })).cist.flight.map CiSample.finished = [true] ∧
      (leaves .ciDispatch (waitingFor (sampleOf 4))).cist.flight.map CiSample.finished = [true] ∧
      (sampleOf 2).code = 0 ∧ (sampleOf 2).kind = 2 ∧ (result (copySample (sampleOf 2)) (dispatched (sampleOf 2))).isSome = true ∧
      (sampleOf 3).code = 0 ∧ (sampleOf 3).kind = 3 ∧
      (result (examineEach (streamsOf (sampleOf 3).desc)) (dispatched (sampleOf 3))).isSome = true ∧
      (leaves .ciDispatch (waitingFor (sampleOf 3))).cist.flight.map CiSample.finished = [true] ∧
      (sampleOf 1).code = 0 ∧ (sampleOf 1).kind = 1 ∧ freeDecoder (waitingFor (sampleOf 1)) = some 0 ∧
      (getDec (leaves .ciDispatch (waitingFor (sampleOf 1))) 0).queue.length = 1 := by decide +kernel

/-- Sample 0 decodes on decoder 0; the decoder's ring holds entry `e`. -/
def decodingSample : CiSample := { num := 0, desc := ciEntry 1, xform := txDesc, dec := some 0, budget := some 100 }
def ringEntryOf (e : List Byte) (c : Cist) : State :=
  wr (pgDecoder 0) Reg.VD_OUT_MARKS 1 (wr (pgDecoder 0) Reg.VD_RING_BASE 0x7000
    (wr (pgDecoder 0) Reg.VD_RING_TAIL 1 (memWrite 0x7000 (clean e) (cistern 1 [] c))))
/-- Frame 0 in buffer 0, the last; an entry that ends a job without a picture. -/
def pictureEntry : List Byte := desc 32 [(0, 1), (1, 16), (0x10, 1), (0x12, 1), (0x14, 8)]
def endEntry : List Byte := desc 32 [(0, 1), (1, 0x19), (2, 0xFFFF), (0x1C, 0x0502)]

theorem witness_cistern_frame_entries :
    ciOn (ringEntryOf pictureEntry {}) = true ∧ bitOf (rd (ringEntryOf pictureEntry {}) pgCistern Reg.CI_DECODERS_DEC) 0 = true ∧
      rd (ringEntryOf pictureEntry {}) (pgDecoder 0) Reg.VD_RING_HEAD = 0 ∧
      rd (ringEntryOf pictureEntry {}) (pgDecoder 0) Reg.VD_RING_TAIL = 1 ∧
      result (busRead ciWho 0x7000 32) (ringEntryOf pictureEntry {}) = some (clean pictureEntry) ∧
      (ringEntryOf pictureEntry { owed := [0] }).cist.owed.contains 0 = true ∧
      (leaves (.ciFrameEntry 0 9) (ringEntryOf pictureEntry { owed := [0] })).cist.owed = [] ∧
      outMarks (leaves (.ciFrameEntry 0 9) (ringEntryOf pictureEntry { owed := [0] })) 0 = 0 ∧
      (ringEntryOf pictureEntry {}).cist.flight = [] ∧
      outMarks (leaves (.ciFrameEntry 0 9) (ringEntryOf pictureEntry {})) 0 = 0 ∧
      decodingSample.num = fld pictureEntry 4 4 ∧ decodingSample.finished = false ∧
      pickUnit (ringEntryOf pictureEntry { flight := [decodingSample] }) none = some 7 ∧
      (leaves (.ciFrameEntry 0 9) (ringEntryOf pictureEntry { flight := [decodingSample] })).cist.frames.length = 1 ∧
      result (busRead ciWho 0x7000 32) (ringEntryOf endEntry {}) = some (clean endEntry) ∧
      (leaves (.ciFrameEntry 0 9) (ringEntryOf endEntry { flight := [decodingSample] })).cist.flight.map CiSample.finished =
        [true] := by decide +kernel

/-- Frame 0 of the sample stands at transform unit 7. -/
def transforming (x : CiSample) : State :=
  cistern 1 [] { flight := [x], frames := [⟨0, 0, 0, 0, 7, 1, 1, 8, 0⟩] }
/-- Its coarse scale is an invalid one. -/
def badScale : CiSample := { decodingSample with xform := desc 64 [(4, 1), (0xC, 1), (0xE, 1), (0x10, 1), (0x12, 1), (0x30, 0x8000)] }
/-- A sensor sample with a budget of 100 cycles. -/
def sensing : CiSample := { num := 0, desc := desc 64 [(0, 3), (0x16, 0x8000)], budget := some 100 }
def budgeted (x : CiSample) : State := cistern 1 [] { flight := [x] }

theorem witness_cistern_frames :
    (transforming decodingSample).cist.frames.find? (fun f => f.unit == 7) = some ⟨0, 0, 0, 0, 7, 1, 1, 8, 0⟩ ∧
      ciOn (transforming decodingSample) = true ∧ lockState (transforming decodingSample) (pgTransform 7) = 0 ∧
      result (txFrame 7 decodingSample ⟨0, 0, 0, 0, 7, 1, 1, 8, 0⟩) (transforming decodingSample) = some () ∧
      (leaves (.tfFrameTransform 7) (transforming decodingSample)).cist.frames = [] ∧
      (leaves (.tfFrameTransform 7) (transforming decodingSample)).cist.flight.map CiSample.frames = [[0]] ∧
      refusal (txFrame 7 badScale ⟨0, 0, 0, 0, 7, 1, 1, 8, 0⟩) (transforming badScale) = some 0x0301 ∧
      (leaves (.tfFrameTransform 7) (transforming badScale)).cist.flight.map CiSample.damaged = [true] ∧
      decodingSample.budget = some 100 ∧ decodingSample.kind = 1 ∧
      rd (budgeted decodingSample) pgCistern Reg.CI_CTRL_ABANDON = 0 ∧
      (leaves (.ciBudgetExpiry 0 100) (budgeted decodingSample)).cist.flight.map CiSample.slow = [true] ∧
      rd (wr pgCistern Reg.CI_CTRL_ABANDON 1 (budgeted decodingSample)) pgCistern Reg.CI_CTRL_ABANDON = 1 ∧
      (leaves (.ciBudgetExpiry 0 100) (wr pgCistern Reg.CI_CTRL_ABANDON 1 (budgeted decodingSample))).cist.flight.map
        CiSample.finished = [true] ∧
      sensing.kind = 3 ∧ (leaves (.ciBudgetExpiry 0 100) (budgeted sensing)).cist.flight.map CiSample.missing = [[15]] ∧
      writable (cistern 1 [] {}) pgCistern = true ∧ writable State.reset pgCistern = true ∧ ciOn State.reset = false ∧
      rdAt (leaves (.ssTailAdvance 15 1) State.reset) pgCistern Reg.SS_TAIL 15 = 1 ∧
      result (examineAll 15) (wrAt pgCistern Reg.SS_TAIL 15 0 (budgeted sensing)) = some () ∧
      rdAt (leaves (.ssTailAdvance 15 0) (budgeted sensing)) pgCistern Reg.SS_TAIL 15 = 0 := by decide +kernel

/-- A batch of one finished sample at a step of its release; a batch ready. -/
def finishedBatch (step : Nat) : State :=
  cistern 1 [] { flight := [{ decodingSample with finished := true, status := 1 }], releasing := step }
def readyBatch (c : Cist) : State := wr pgCistern Reg.CI_READY 1 (cistern 1 [] c)
/-- A write of CI_RETURN. -/
def returning (step count : Nat) : List Byte := desc 8 [(0, step), (4, count)]
/-- The code that the newest log entry of the cistern holds. -/
def cisternLog (s : State) : Nat := bitsOf (rdAt s pgCistern Reg.PAGE_ERR_LOG 0) 0 16

theorem witness_cistern_batches :
    rd (finishedBatch 0) pgCistern Reg.CI_READY = 0 ∧ ciSlots (finishedBatch 0) = 1 ∧
      (finishedBatch 0).cist.flight.map CiSample.finished = [true] ∧
      (cisternWriters.all fun e => answered (finishedBatch 0) e.1) = true ∧
      (finishedBatch 1).cist.releasing = 1 ∧ (finishedBatch 2).cist.releasing = 2 ∧
      rd (leaves .ciBatchRelease (finishedBatch 0)) pgCistern Reg.CI_READY = 1 ∧
      rd (leaves .ciBatchRelease (finishedBatch 1)) pgCistern Reg.CI_READY = 1 ∧
      rd (leaves .ciBatchRelease (finishedBatch 2)) pgCistern Reg.CI_READY = 1 ∧
      writable (readyBatch {}) pgCistern = true ∧ (returning 5 1).length = 8 ∧ fld (returning 5 1) 4 1 = 1 ∧
      readyCount (readyBatch {}) = 1 ∧ (readyBatch {}).cist.lastReturn = none ∧
      rd (leaves (.ciReturn 0 (returning 5 1)) (readyBatch {})) pgCistern Reg.CI_RETURNED = 1 ∧
      rd (leaves (.ciReturn 0 (returning 5 1)) (readyBatch { lastReturn := some 5 })) pgCistern Reg.CI_RETURNED = 1 ∧
      leaves (.ciReturn 4 (returning 5 1)) (readyBatch {}) = readyBatch {} ∧
      leaves (.ciReturn 0 [1]) (readyBatch {}) = readyBatch {} ∧
      (leaves (.ciReturn 0 (returning 5 0)) (readyBatch {})).cist.returns = [] ∧
      (leaves (.ciReturn 0 (returning 5 65)) (readyBatch {})).cist.returns = [] ∧
      (leaves (.ciReturn 0 (returning 5 2)) (readyBatch {})).cist.returns = [] ∧
      (leaves (.ciReturn 0 (returning 5 1)) (readyBatch { lastReturn := some 6 })).cist.returns = [] := by decide +kernel

/-- The body of the record of step 3 is sent; its write failed. -/
def sentCursor : State := cistern 1 [] { cursors := [⟨3, [], true⟩] }
def failedCursor : State := { sentCursor with bus := { writeErr := [⟨cursorWho, 0, 0x0220⟩] } }
/-- A cursor record of step `n` at 0x5000, and the random state of step 4 staged. -/
def cursorOf (n : Nat) : State :=
  { memWrite 0x5000 (clean (desc 128 [(0, n), (4, 1), (6, 1)])) State.reset with mon := { staged := some (9, 4) } }

theorem witness_cistern_cursors :
    sentCursor.cist.cursors = [⟨3, [], true⟩] ∧ accepted sentCursor cursorWho = true ∧
      result (busWriteNat cursorWho (cursorAt sentCursor 3) 4 3) sentCursor = some () ∧
      (leaves .cursorRecordStep sentCursor).cist.cursors = [] ∧
      answered failedCursor cursorWho = true ∧ writeCode failedCursor cursorWho = 0x0220 ∧
      rd (leaves .cursorRecordStep failedCursor) pgCistern Reg.PAGE_ERR_COUNT = 1 ∧
      writable (cursorOf 4) pgCistern = true ∧ (result (readCursor 0x5000) (cursorOf 4)).isSome = true ∧
      rd (leaves (.ciRestore 0x5000) (cursorOf 4)) pgCistern Reg.CI_RESTORE_STATUS_STATE = 2 ∧
      rd (leaves (.ciRestore 0x5000) (cursorOf 4)) pgMonitor Reg.RNG_SEED = 9 ∧
      (result (readCursor 0x5000) (cursorOf 5)).isSome = true ∧
      rd (leaves (.ciRestore 0x5000) (cursorOf 5)) pgCistern Reg.CI_RESTORE_STATUS_CODE = 0x0630 ∧
      writable (cistern 1 [] {}) pgCistern = true ∧ refusal (readCursor 0x5000) (cistern 1 [] {}) = some 0x0631 ∧
      rd (leaves (.ciRestore 0x5000) (cistern 1 [] {})) pgCistern Reg.CI_RESTORE_STATUS_STATE = 3 := by decide +kernel

/-! ### Resilience and reduction -/

/-- Registers of a page at these values. -/
def having (page : Nat) (fs : List (Field × Nat)) (s : State) : State := fs.foldl (fun s e => wr page e.1 e.2 s) s

/-- A table of one group of slots of 64 bytes at 0x20000, its image at the start of the body. -/
def protectEntry : List Byte := desc 32 [(0, 3), (4, 64), (8, 0x20000), (0x10, 64)]
def protecting : State :=
  having pgResilience [(Reg.RS_TABLE, 0x10000), (Reg.RS_TABLE_COUNT, 1), (Reg.RS_IMAGE_BASE, 0x40000),
    (Reg.RS_IMAGE_BYTES, 0x2000)] (memWrite 0x20000 (clean (desc 64 [(0, 5)])) (memWrite 0x10000 (clean protectEntry) State.reset))

/-- A round of step 3 at a stage, writing slot 1. -/
def roundOf (stage : Nat) : Round := { step := 3, gen := 0, slot := 1, noCursor := true, stage := stage, cursor := true }
def atStage (stage : Nat) : State := modRes (fun r => { r with table := [protectEntry], round := some (roundOf stage) }) protecting
def copiedGroups : State := out (copyGroups (roundOf 1) [⟨protectEntry⟩]) (atStage 1)
def touched : State := protectPages true [7] (atStage 1)
/-- The copies are made, the cursor record of step 3 is in memory and still to be copied. -/
def cursorDue : State :=
  setRound (some { roundOf 2 with noCursor := false, cursor := false })
    (wr pgCistern Reg.CI_CURSOR_BASE 0x80000 (memWrite 0x80180 (clean [3]) (atStage 2)))
def cursorData : M (List PByte) := busRead roundWho 0x80180 128
/-- A write of the round has failed. -/
def failedRound (stage : Nat) : State := { atStage stage with bus := { writeErr := [⟨roundWho, 0, 0x0220⟩] } }

theorem witness_snapshot_tables :
    writable protecting pgResilience = true ∧ rd protecting pgResilience Reg.RS_CTRL_ENABLE = 0 ∧
      result rsValidate protecting = some [protectEntry] ∧
      rd (leaves (.rsEnable true) protecting) pgResilience Reg.RS_CTRL_ENABLE = 1 ∧
      writable State.reset pgResilience = true ∧ rd State.reset pgResilience Reg.RS_CTRL_ENABLE = 0 ∧
      refusal rsValidate State.reset = some 0x0650 ∧
      rd (leaves (.rsEnable true) State.reset) pgResilience Reg.RS_STATUS_CODE = 0x0650 ∧
      writable (with1 pgResilience Reg.RS_CTRL_ENABLE 1) pgResilience = true ∧
      rd (with1 pgResilience Reg.RS_CTRL_ENABLE 1) pgResilience Reg.RS_CTRL_ENABLE = 1 ∧
      rd (leaves (.rsEnable false) (with1 pgResilience Reg.RS_CTRL_ENABLE 1)) pgResilience Reg.RS_CTRL_ENABLE = 0 := by
  decide +kernel

theorem witness_snapshot_rounds :
    (atStage 1).res.round = some (roundOf 1) ∧ accepted (atStage 1) roundWho = true ∧
      (atStage 1).res.table.map Protect.mk = [⟨protectEntry⟩] ∧
      result (copyGroups (roundOf 1) [⟨protectEntry⟩]) (atStage 1) = some () ∧ regionPages [protectEntry] = [] ∧
      result (copyPages 1 []) copiedGroups = some () ∧ cellAt (leaves (.roundCopy 9) (atStage 1)) 0x43000 = 5 ∧
      accepted cursorDue roundWho = true ∧ (cursorDue.cist.cursors.all fun c => c.step != 3) = true ∧ cursorAt cursorDue 3 = 0x80180 ∧
      fld ((answer [] cursorData (after roundWho cursorDue)).map Prod.fst) 0 4 = 3 ∧
      result (busWrite roundWho 0x42080 (answer [] cursorData (after roundWho cursorDue)))
        (out cursorData (after roundWho cursorDue)) = some () ∧
      cellAt (leaves (.roundCopy 9) cursorDue) 0x42080 = 3 ∧
      look false touched.mem.wprot (0x7FFFF / 65536) = true ∧ accepted touched roundWho = true ∧
      result (copyPage 1 7) touched = some () ∧ rd (leaves (.firstTouch ⟨0x7FFFF, 9⟩) touched) pgResilience Reg.RS_FIRST_TOUCH = 1 ∧
      accepted (atStage 2) roundWho = true ∧ (roundOf 2).cursor = true ∧
      result (busWriteNat roundWho (imageAt (atStage 2) 1 + 0xC) 4 3) (atStage 2) = some () ∧
      cellAt (leaves (.roundCompleteWrite 9) (atStage 2)) 0x4200C = 3 ∧ accepted (atStage 3) roundWho = true ∧
      rd (leaves (.roundComplete 9) (atStage 3)) pgResilience Reg.RS_STATUS_NEWEST_SLOT = 1 ∧
      (failedRound 1).res.round = some (roundOf 1) ∧
      (failedRound 1).bus.writeErr.find? (fun e => e.who == roundWho) = some ⟨roundWho, 0, 0x0220⟩ ∧
      rd (leaves (.roundCopy 9) (failedRound 1)) pgResilience Reg.RS_STATUS_ROUND = 3 ∧
      rd (leaves (.roundCompleteWrite 9) (failedRound 2)) pgResilience Reg.RS_STATUS_ROUND = 3 ∧
      rd (leaves (.roundComplete 9) (failedRound 3)) pgResilience Reg.RS_STATUS_ROUND = 3 := by decide +kernel

/-- A restore under way that has no entry left to write; one of its writes has failed. -/
def restored : State := setRestore (some { fill := true, checked := true }) State.reset
def unrestored : State := { restored with bus := { writeErr := [⟨restoreWho, 0, 0x0220⟩] } }
/-- The state in which a restore is checked. -/
def restoring (s : State) : State :=
  setRestore (some { fill := false }) (wr pgResilience Reg.RS_STATUS_RESTORE 1 (wr pgResilience Reg.RS_CTRL_RESTORE 1 s))
/-- Slot 0 holds a complete image of the table, of step 0 and generation 2. -/
def imaged : State := memWrite 0x40000 (clean (desc 256 [(0, 1), (8, 2), (0xC, 1), (0x10, 1), (0x18, crc64 protectEntry)])) protecting
def checkedState : State := setRestore (some { fill := false, checked := true, slot := 0, gen := 2, table := [protectEntry] })
  (out checkRestore (restoring imaged))

theorem witness_restores :
    writable State.reset pgResilience = true ∧ rd State.reset pgResilience Reg.RS_CTRL_ENABLE = 0 ∧
      rd State.reset pgGeneration Reg.GEN_CTRL_ENABLE = 0 ∧ rd State.reset pgCistern Reg.CI_CTRL_ENABLE = 0 ∧
      rd State.reset pgResilience Reg.RS_DIGEST_GO = 0 ∧ State.reset.res.restore = none ∧
      isSet State.reset pgResilience Reg.RS_CTRL_FILL = false ∧ refusal checkRestore (restoring State.reset) = some 0x0652 ∧
      rd (leaves .rsRestore State.reset) pgResilience Reg.RS_STATUS_CODE = 0x0652 ∧
      writable imaged pgResilience = true ∧ rd imaged pgResilience Reg.RS_CTRL_ENABLE = 0 ∧
      rd imaged pgGeneration Reg.GEN_CTRL_ENABLE = 0 ∧ rd imaged pgCistern Reg.CI_CTRL_ENABLE = 0 ∧
      rd imaged pgResilience Reg.RS_DIGEST_GO = 0 ∧ imaged.res.restore = none ∧ isSet imaged pgResilience Reg.RS_CTRL_FILL = false ∧
      result checkRestore (restoring imaged) = some (0, 2, [protectEntry]) ∧
      result (restoreEntries 0 2 [protectEntry]) checkedState = some () ∧
      (leaves .rsRestore imaged).res.restore.any (fun r => !r.unfinished) = true ∧
      rd (leaves .rsRestore (with1 pgResilience Reg.RS_CTRL_ENABLE 1)) pgResilience Reg.RS_STATUS_CODE = 0x0651 ∧
      writable (with1 pgResilience Reg.RS_CTRL_ENABLE 1) pgResilience = true ∧
      restored.res.restore = some { fill := true, checked := true } ∧
      ({ fill := true, checked := true } : Restore).unfinished = false ∧ accepted restored restoreWho = true ∧
      rd (leaves .rsRestoreDone restored) pgResilience Reg.RS_RESTORES = 1 ∧
      answered unrestored restoreWho = true ∧ writeCode unrestored restoreWho = 0x0220 ∧
      rd (leaves .rsRestoreDone unrestored) pgResilience Reg.RS_STATUS_CODE = 0x0220 := by decide +kernel

def digesting : State := having pgResilience [(Reg.RS_DIGEST_SRC, 0x40), (Reg.RS_DIGEST_LEN, 64), (Reg.RS_DIGEST_DST, 8)] State.reset
def digested (c : Nat) : State := modRes (fun r => { r with digest := some c }) (with1 pgResilience Reg.RS_DIGEST_GO 1)

theorem witness_digests :
    writable digesting pgResilience = true ∧ rd digesting pgResilience Reg.RS_DIGEST_GO = 0 ∧
      rd digesting pgResilience Reg.RS_DIGEST_SRC % 64 = 0 ∧
      isLocal digesting (rd digesting pgResilience Reg.RS_DIGEST_SRC) = true ∧
      isMemory digesting (localOf (rd digesting pgResilience Reg.RS_DIGEST_SRC)) = true ∧
      rd digesting pgResilience Reg.RS_DIGEST_LEN = 64 ∧ rd digesting pgResilience Reg.RS_DIGEST_DST % 8 = 0 ∧
      isSet digesting pgResilience Reg.RS_DIGEST_SHA = false ∧
      result (digestPages false 8 0 (digestRanges 0x40 64)) (wr pgResilience Reg.RS_DIGEST_GO 1 digesting) = some () ∧
      (leaves .rsDigest digesting).res.digest = some 0 ∧
      writable State.reset pgResilience = true ∧ rd State.reset pgResilience Reg.RS_DIGEST_GO = 0 ∧
      rd State.reset pgResilience Reg.RS_DIGEST_LEN = 0 ∧
      rd (leaves .rsDigest State.reset) pgResilience Reg.RS_DIGEST_CODE = 0x0656 ∧
      rd (leaves .rsDigest (wr pgResilience Reg.RS_DIGEST_SRC 1 digesting)) pgResilience Reg.RS_DIGEST_CODE = 0x0656 ∧
      rd (leaves .rsDigest (wr pgResilience Reg.RS_DIGEST_LEN 63 digesting)) pgResilience Reg.RS_DIGEST_CODE = 0x0656 ∧
      rd (leaves .rsDigest (wr pgResilience Reg.RS_DIGEST_DST 4 digesting)) pgResilience Reg.RS_DIGEST_CODE = 0x0656 ∧
      rd (digested 0) pgResilience Reg.RS_DIGEST_GO = 1 ∧ (digested 0).res.digest = some 0 ∧ accepted (digested 0) digestWho = true ∧
      rd (leaves .rsDigestDone (digested 0)) pgResilience Reg.RS_DIGEST_GO = 0 ∧
      (digested 0x0202).res.digest = some 0x0202 ∧ accepted (digested 0x0202) digestWho = true ∧
      rd (leaves .rsDigestDone (digested 0x0202)) pgResilience Reg.RS_DIGEST_CODE = 0x0202 := by decide +kernel

/-- A table of one entry: 8 F32 elements at 0x20000, its result as F32, its signals at 0x30000; one of a reserved format. -/
def redTable : List Byte := desc 128 [(4, 8), (8, 0x20000), (0x20, 0x1000), (0x24, 0x1000), (0x28, 0x50000), (0x38, 0x40), (0x48, 0x80000),
  (0x50, 9216), (0x58, 0x30000), (0x60, 0x30008), (0x68, 0x60000)]
def redBad : List Byte := redTable.take 0x24 ++ [0xF] ++ redTable.drop 0x25
def scaled : List Byte := redTable.take 0x21 ++ [0] ++ redTable.drop 0x22
/-- Engine 1 reads such a table at 0x10000. -/
def redIdle (t : List Byte) : State :=
  having (pgReduction 1) [(Reg.RD_TABLE, 0x10000), (Reg.RD_TABLE_COUNT, 1)] (memWrite 0x10000 (clean t) State.reset)
/-- Engine 1 is active with step 0 open, this module rank `r` of `n`, the others modules 9. -/
def reducing (t : List Byte) (r n : Nat) : State :=
  let s := setRed 1 { table := [t], maps := [(0, [9, 9])] } (group 0 1 [⟨0, 0⟩])
  wrAt (pgReduction 1) Reg.RD_GROUP_SIZE 0 (n - 1) (wrAt (pgReduction 1) Reg.RD_GROUP_RANK 0 r
    (having (pgReduction 1) [(Reg.RD_CTRL_ENABLE, 1), (Reg.RD_STATUS_ACTIVE, 1), (Reg.RD_DEADLINE, 50)] s))
def tableRead : M (List PByte) := busRead (redWho 1) 0x10000 128
def redEntries (t : List Byte) : List (RedEntry × Nat) := [(⟨t⟩, 0)]

theorem witness_reduction_tables :
    writable (redIdle redTable) (pgReduction 1) = true ∧ rd (redIdle redTable) (pgReduction 1) Reg.RD_CTRL_ENABLE = 0 ∧
      rd (redIdle redTable) (pgReduction 1) Reg.RD_TABLE_COUNT = 1 ∧ rd (redIdle redTable) (pgReduction 1) Reg.RD_TABLE = 0x10000 ∧
      result tableRead (redIdle redTable) = some (clean redTable) ∧ piecesOfList 128 2 redTable = [redTable] ∧
      redCheck (redIdle redTable) 1 (redEntries redTable) = none ∧
      result (readMaps 1 [0]) (out tableRead (redIdle redTable)) = some [(0, [0])] ∧
      result (readWaits 1 (redEntries redTable)) (out (readMaps 1 [0]) (out tableRead (redIdle redTable))) = some [(0, 0)] ∧
      rd (leaves (.rdEnable 1 true) (redIdle redTable)) (pgReduction 1) Reg.RD_STATUS_ACTIVE = 1 ∧
      result tableRead (redIdle redBad) = some (clean redBad) ∧ redCheck (redIdle redBad) 1 (redEntries redBad) = some (0x01B0, 0) ∧
      rd (leaves (.rdEnable 1 true) (redIdle redBad)) (pgReduction 1) Reg.RD_LAST_FAIL_CODE = 0x01B0 ∧
      writable (reducing redTable 1 2) (pgReduction 1) = true ∧ rd (reducing redTable 1 2) (pgReduction 1) Reg.RD_CTRL_ENABLE = 1 ∧
      (getRed (leaves (.rdEnable 1 false) (reducing redTable 1 2)) 1).table = [] := by decide +kernel

/-- The run of entry 0 has started. -/
def runStarted (t : List Byte) : State := modRed 1 (fun y => { y with
    consumed := insertKey y.consumed 0 0
    runs := y.runs ++ [{ entry := 0, step := 0 }] }) (out (busReadNat (redWho 1) 0x30000 4) (reducing t 1 2))
def sends : M Unit := sendChunks 1 0 ⟨redTable⟩ 0 f32One 0 [0]

theorem witness_reduction_runs :
    result (redReady 1) (reducing redTable 1 2) = some () ∧ redActive (reducing redTable 1 2) 1 = true ∧
      redEntry (reducing redTable 1 2) 1 0 = some ⟨redTable⟩ ∧ nextRun (reducing redTable 1 2) 1 0 = some 0 ∧
      look 0 (getRed (reducing redTable 1 2) 1).consumed 0 = 0 ∧
      result (busReadNat (redWho 1) (RedEntry.wait ⟨redTable⟩) 4) (reducing redTable 1 2) = some (0, false) ∧
      fld redTable 0x3C 4 = 0 ∧ result (readCoarse (redWho 1) (RedEntry.srcFmt ⟨redTable⟩) 0 0) (runStarted redTable) = some f32One ∧
      result (windowExp 1 ⟨redTable⟩) (runStarted redTable) = some 0 ∧ (RedEntry.mk redTable).chunks = 1 ∧
      result sends (runStarted redTable) = some () ∧
      result (sweepRuns 1 (findRun (out sends (runStarted redTable)) 1 0 0).toList) (out sends (runStarted redTable)) = some () ∧
      (getRed (leaves (.reductionRunStart 1 0) (reducing redTable 1 2)) 1).runs.length = 1 ∧
      rd (leaves (.reductionRunStart 1 0) (reducing redTable 1 2)) (pgReduction 1) Reg.RD_CHUNKS_SENT = 1 ∧
      refusal (readCoarse (redWho 1) (RedEntry.srcFmt ⟨scaled⟩) 0 0) (runStarted scaled) = some 0x0301 ∧
      (getRed (leaves (.reductionRunStart 1 0) (reducing scaled 1 2)) 1).ended = [(0, 0, 0x0301)] := by decide +kernel

/-- A contribution of rank 1 to chunk 0 of entry 0 of engine 1, for a step, with a window exponent and a flag byte. -/
def contribMsg (step e flag : Nat) : List Byte :=
  desc 128 [(0, step), (4, 0x8000), (6, 1), (0xC, e), (0xE, 8), (0x10, 36), (0x18, flag), (64, 36)]
def owner : State := reducing redTable 0 2
def accRead : M AccRecord := loadRecord 1 ⟨redTable⟩ 0 0
/-- The accumulator record of chunk 0 with these fields. -/
def accHas (fs : List (Nat × Nat)) : State := memWrite 0x80000 (clean (desc 128 fs)) owner
/-- The contribution's step has aborted; its module is marked locked. -/
def abortedStep : State := modRed 1 (fun y => { y with aborted := [0] }) owner
def lockedRank : State := { owner with link := { owner.link with marks := [(9, true)] } }

theorem witness_contributions_dropped :
    engineOf (contribMsg 0 0 0) = 1 ∧ result (redReady 1) State.reset = some () ∧ redActive State.reset 1 = false ∧
      rd (leaves (.contrib (contribMsg 0 0 0)) State.reset) (pgReduction 1) Reg.RD_STRAY = 1 ∧
      redActive owner 1 = true ∧ redEntry owner 1 0 = some ⟨redTable⟩ ∧ redEntry owner 1 1 = none ∧ sizeOf_ owner 1 ⟨redTable⟩ = 2 ∧
      rankOf owner 1 ⟨redTable⟩ = 0 ∧ (RedEntry.mk redTable).chunkLen 0 = 8 ∧
      rd (leaves (.contrib (contribMsg 2 0 0)) owner) (pgReduction 1) Reg.RD_STRAY = 1 ∧
      (getRed abortedStep 1).aborted.contains 0 = true ∧
      rd (leaves (.contrib (contribMsg 0 0 0)) abortedStep) (pgReduction 1) Reg.RD_LATE = 1 ∧
      (result accRead (accHas [(4, 1), (0x10, 1)])).map AccRecord.closed = some true ∧
      rd (leaves (.contrib (contribMsg 0 0 0)) (accHas [(4, 1), (0x10, 1)])) (pgReduction 1) Reg.RD_LATE = 1 ∧
      (result accRead (accHas [(4, 1), (0x40, 2)])).map (fun r => bitOf r.arrived 1) = some true ∧
      rankLocked lockedRank 1 ⟨redTable⟩ 1 = true ∧ rankLocked owner 1 ⟨redTable⟩ 1 = false ∧
      (result accRead (accHas [(4, 1), (6, 7)])).map (fun r => (r.present, r.e)) = some (1, 7) ∧
      rd (leaves (.contrib (contribMsg 0 0 0)) (accHas [(4, 1), (6, 7)])) (pgReduction 1) Reg.RD_WINDOW_MISMATCH = 1 := by
  decide +kernel

/-- A table and group whose record has been loaded, and the record once one contribution of 36 is added. -/
def loaded (t : List Byte) (n : Nat) : State := Sys2Proof.Machine.leaves (loadRecord 1 ⟨t⟩ 0 0) (reducing t 0 n)
def oneIn (rank : Nat) : AccRecord :=
  { step := 0, present := 1, sum := 36, arrived := 2 ^ rank, elems := (36, false) :: List.replicate 503 (0, false) }
def storesIt (t : List Byte) (n rank : Nat) : State :=
  Sys2Proof.Machine.leaves (storeRecord 1 ⟨t⟩ 0 (oneIn rank)) (loaded t n)

/-- The first of two contributions, of rank 1, alone and with an overflow. -/
theorem witness_contributions_added :
    (result accRead owner).map (fun r => (r.present, r.arrived)) = some (0, 0) ∧ allIn owner 1 ⟨redTable⟩ (oneIn 1) = false ∧
      result (storeRecord 1 ⟨redTable⟩ 0 (oneIn 1)) (loaded redTable 2) = some () ∧
      result (setMaskBit 1 ⟨redTable⟩ 0 1 1) (storesIt redTable 2 1) = some () := by
  and_intros <;> decide +kernel

/-- The overflow of the only contribution falls into the record itself, which is then closed before it is looked at. -/
def overlapping : List Byte := redTable.take 0x68 ++ leBytes 8 (0x80010 - 1024) ++ redTable.drop 0x70
def lastIn : State := Sys2Proof.Machine.leaves (setMaskBit 1 ⟨overlapping⟩ 0 1 0) (storesIt overlapping 1 0)

set_option maxRecDepth 200000 in
theorem witness_last_contribution :
    allIn (reducing overlapping 0 1) 1 ⟨overlapping⟩ (oneIn 0) = true ∧
      result (closeChunk 1 0 ⟨overlapping⟩ 0 0) (raiseOnce 1 0 0 5 (bump (pgReduction 1) Reg.RD_OVERFLOWS 1 lastIn)) = some () := by
  and_intros <;> decide +kernel

/-- A record that holds both contributions is closed. -/
theorem witness_chunk_closes :
    rd (Sys2Proof.Machine.leaves (closeChunk 1 0 ⟨redTable⟩ 0 0) (accHas [(4, 2), (0x40, 3)])) (pgReduction 1)
      Reg.RD_CHUNKS_CLOSED = 1 := by decide +kernel

/-- A run of one chunk waits for its result. -/
def runOpen : State := setRed 1 { (getRed owner 1) with runs := [{ entry := 0, step := 0 }] } owner
def hasResult : State := setRed 1 { (getRed owner 1) with runs := [{ entry := 0, step := 0, got := [0] }] } owner
/-- Its result. -/
def redMessage : List Byte := desc 96 [(4, 0x8000), (0x40, 0x3F800000)]
/-- The deadline of step 0 passes. -/
def deadline : M Unit := do
  redSweep 1
  sweepRuns 1 (endedRuns (← get) 1)
def runAway : State := setRed 1 { (getRed (reducing redTable 1 2) 1) with runs := [{ entry := 0, step := 0 }] } (reducing redTable 1 2)
def expiring : State := modRed 1 (fun x => { x with expired := [0] }) runAway
def forwardFailed : State := { State.reset with bus := { writeErr := [⟨forwardWho 1 1023 7 4, 0, 0x0403⟩] } }

theorem witness_results_and_deadlines :
    engineOf redMessage = 1 ∧ findRun owner 1 0 0 = none ∧ findRun runOpen 1 0 0 = some { entry := 0, step := 0 } ∧
      redEntry runOpen 1 0 = some ⟨redTable⟩ ∧ (getRed (leaves (.result redMessage) runOpen) 1).ended = [(0, 0, 0)] ∧
      cellAt (leaves (.result redMessage) runOpen) 0x50003 = 0x3F ∧
      findRun hasResult 1 0 0 = some { entry := 0, step := 0, got := [0] } ∧
      (getRed (leaves (.result redMessage) hasResult) 1).ended = [] ∧
      rd runAway (pgReduction 1) Reg.RD_DEADLINE = 50 ∧ stepOpen runAway 0 = true ∧ redActive runAway 1 = true ∧
      leaves (.chunkDeadline 1 0 49) runAway = runAway ∧ result deadline expiring = some () ∧
      (getRed (leaves (.chunkDeadline 1 0 50) runAway) 1).expired = [0] ∧
      (forwardFailed.bus.writeErr.any fun e => e.who == forwardWho 1 1023 7 4) = true ∧
      rd (leaves (.twinForwardFail 1 1023 7 4) forwardFailed) pgResilience Reg.RS_STATUS_TWIN_STALE = 1 := by decide +kernel

/-! ### Monitors, the marker wave and the life log -/

/-- An RNG state record of seed 5 and step 9 at 0x1000. -/
def rngRecord : State := memWrite 0x1000 (clean (desc 16 [(0, 1), (4, 5), (8, 9)])) State.reset

theorem witness_monitor_commands :
    State.reset.powered = true ∧ writable State.reset pgMonitor = true ∧ rdAt (leaves (.rngProbe 1) State.reset) pgMonitor Reg.RNG_PROBE_CTR 3 = 1 ∧
      rdAt (leaves (.rngProbe 0) State.reset) pgMonitor Reg.RNG_PROBE_OUT 0 = 0x6627E8D5 ∧
      result (readRngRecord 0x1000) rngRecord = some (5, 9) ∧ (leaves (.rngRestoreStage 0x1000) rngRecord).mon.staged = some (5, 9) ∧
      refusal (readRngRecord 8) State.reset = some 0x0633 ∧
      rd (leaves (.rngRestoreStage 8) State.reset) pgMonitor Reg.RNG_RESTORE_STATUS_CODE = 0x0633 ∧
      (desc 8 [(0, 0x40400000)]).length = 8 ∧ stepOpen (group 0 1 [⟨0, 0⟩]) 0 = true ∧ sentFor (group 0 1 [⟨0, 0⟩]) 0 = false ∧
      (leaves (.lmLossIn 0 (desc 8 [(0, 0x40400000)])) (group 0 1 [⟨0, 0⟩])).mon.loss = [(0, 0x40400000)] ∧
      sentFor { group 0 1 [⟨0, 0⟩] with gen := { opened := [⟨0, 0⟩], readySent := true } } 0 = true ∧
      rd (leaves (.lmLossIn 4 (desc 8 [])) (group 0 1 [⟨0, 0⟩])) pgMonitor Reg.LM_LATE = 1 ∧
      rd (leaves (.lmLossIn 0 []) (group 0 1 [⟨0, 0⟩])) pgMonitor Reg.LM_LATE = 1 ∧ stepOpen State.reset 0 = false ∧ rd (leaves (.lmLossIn 0 (desc 8 [])) State.reset) pgMonitor Reg.LM_LATE = 1 := by
  decide +kernel

/-- A wave is under way that every page has latched for. -/
def waved : State := with1 pgMonitor Reg.MON_MARKER_GO 1
def event : JournalEvent := { kind := 8, code := 0, unit := 1, data := 2 }
def waitingEvent (n : Nat) : State := { State.reset with life := { waiting := [event], thisSecond := n } }

theorem witness_marker_wave :
    rd State.reset pgMonitor Reg.MON_MARKER_GO = 0 ∧ writable State.reset pgMonitor = true ∧
      unlatched (leaves .markerGo State.reset) 5273 = true ∧
      rd (leaves (.markerLatch 5273) (leaves .markerGo State.reset)) 5273 Reg.PAGE_MARKER_EPOCH = 1 ∧
      waveComplete waved = true ∧ rd (leaves .markerWaveComplete waved) pgMonitor Reg.MON_AUDIT_DONE = 1 ∧
      lockState State.reset pgLockkeeper = 0 ∧ (leaves .lifeSample State.reset).life.seconds = 1 ∧
      (newestCopy (leaves .lifeSummaryWrite State.reset).life).map LifeCopy.seq = some 1 ∧
      (waitingEvent 63).life.waiting = [event] ∧ (waitingEvent 63).life.thisSecond < 64 ∧
      (leaves .journalAppend (waitingEvent 63)).life.journal.length = 1 ∧ 64 ≤ (waitingEvent 64).life.thisSecond ∧
      (leaves .journalAppend (waitingEvent 64)).life.journal = [] := by decide +kernel

/-! ### Frames -/

/-- The command answers a next state. -/
def goesOn (c : Instr) (s : State) : Bool :=
  match exec c s with
  | .next _ => true
  | _ => false

theorem witness_unit_frames :
    portCommand (.laserOk 31) = true ∧ goesOn (.laserOk 31) State.reset = true ∧ trustCommand .getVersion = true ∧
      goesOn .getVersion State.reset = true ∧ wellheadCommand (.whCmdPortWrite 1 0 (desc 64 [])) = true ∧
      goesOn (.whCmdPortWrite 1 0 (desc 64 [])) State.reset = true ∧ mediaCommand (.vdRelease 15 31) = true ∧
      goesOn (.vdRelease 15 31) (decoding {}) = true ∧ passCommand (.apStop 255) = true ∧
      goesOn (.apStop 255) State.reset = true ∧ pumpCommand (.pmSubmit 31 0 (desc 64 [])) = true ∧
      goesOn (.pmSubmit 31 0 (desc 64 [])) State.reset = true ∧ arrayCommand (.setRelease 0) = true ∧
      goesOn (.setRelease 0) State.reset = true ∧ cisternCommand .ciDispatch = true ∧
      goesOn .ciDispatch State.reset = true := by decide +kernel

theorem witness_memory_frame :
    noMemory .markerGo = true ∧ goesOn .markerGo written = true ∧
      cellAt (leaves .markerGo written) 0x1000 = 1 ∧ isPoisoned (leaves .markerGo written) 0x40 = true := by decide +kernel

/-! ### Ill-formed commands -/

def half : List Byte := List.replicate 32 0
def whole : List Byte := List.replicate 64 0
def flit : List Byte := List.replicate 256 0
def eight : List Nat := List.replicate 8 0
def long : List Byte := List.replicate 4097 0

/-- One command for each check, with one operand just out of its range. -/
theorem test_ill_formed_refused : [
    (.requestIssue 5274 0 .read 0 0 [] 0 0 : Instr), .requestIssue 0 0 .read (2 ^ 64) 0 [] 0 0,
    .requestIssue 0 0 .read 0 0 [] (2 ^ 64) 0, .requestIssue 0 0 .read 0 0 [] 0 (2 ^ 32), .arrayRowRead 4352,
    .haSpareWrite 0 2 0 0, .haSpareWrite 0 0 2 0, .haSpareWrite 0 0 0 64, .clArithUpdate 256, .channelReopen 0 64,
    .mbBind 256 0 0, .mbBind 0 2 0, .mbBind 0 0 256, .ready (2 ^ 32) 0, .ready 0 (2 ^ 16), .veto 0 (2 ^ 16) 0,
    .commit 0 (2 ^ 32), .whCmdPortWrite 2 0 [], .hpStart 32, .rngProbe (2 ^ 32), .wrExport 64,
    .vdJobSubmit 16 0 [], .vdRelease 0 32, .veJobSubmit 4 0 [], .tfFrameTransform 8, .ssTailAdvance 16 0,
    .ssTailAdvance 0 (2 ^ 32), .pmSubmit 32 0 [], .pumpCopy 288 0, .pumpCopy 0 8, .memRetire 16,
    .portEnable 32 false, .hello 0 (2 ^ 16) 0 0 0 0, .hello 0 0 8 0 0 0, .hello 0 0 0 (2 ^ 13) 0 0,
    .hello 0 0 0 0 (2 ^ 16) 0, .hello 0 0 0 0 0 (2 ^ 16), .grant 0 0 [], .dataFlit 0 [] false 0, .swap 0 0 0 0 8,
    .packetArrival 0 8, .responseArrival 0 (2 ^ 32) 0 [] 0, .klRtData (2 ^ 32), .lockNotice 0 (2 ^ 16) 0,
    .lockNotice 0 0 256, .rdEnable 2 false, .reductionRunStart 0 1024, .contrib long, .rsResolve 4,
    .domainLock 16 0, .domainLock 0 (2 ^ 13), .lkHeartbeat 4, .clTileMapWrite 0 2 0, .clTileMapWrite 0 0 16,
    .pstateTarget 4, .keyringSign [], .keyringEcdhe [], .finish (2 ^ 32) false, .debugAuth [] whole,
    .debugAuth whole [], .bar0Access (2 ^ 26) 0 none false, .bar2Access (2 ^ 36) 0 none false,
    .hiVmapData (2 ^ 16), .pwCapWrite (2 ^ 13), .atPass ⟨0, some ⟨2, 0, 0, []⟩⟩, .atPass ⟨0, some ⟨0, 0, 4, []⟩⟩,
    .atPass ⟨0, some ⟨0, 0, 0, [65]⟩⟩, .arbGrant 128 [], .arbGrant 0 [⟨5274, 0, 0, 0, 0, 0⟩], .arbGrant 0 [⟨0, 5274, 0, 0, 0, 0⟩],
    .configurationRequest ⟨1024, none, false⟩, .configurationRequest ⟨0, some (2 ^ 32), false⟩, .responseArrival 0 0 (2 ^ 16) [] 0,
    .memRetire 16, .haTestStart 0 2].all (fun i => !i.wf) = true := by decide +kernel

theorem test_well_formed_accepted : (.markerLatch 5273 : Instr).wf = true ∧ (.domainLock 15 8191 : Instr).wf = true ∧
    (.dataFlit 31 flit true 2 : Instr).wf = true ∧ (.contrib (long.drop 1) : Instr).wf = true ∧
    (.atPass ⟨255, some ⟨1, 9, 3, [64]⟩⟩ : Instr).wf = true := by decide +kernel

/-! ### Values the spec's worked examples and the cited standards give -/

/-- Number Formats and Scales, "a block with an outlier": the inputs as F32. -/
def outlierBlock : List Nat := [
    0x447A0000, 0x3F400000, 0xBF000000, 0x3B449BA6, 0x00000000, 0xBB03126F, 0x3BA3D70A, 0x3FA00000, 
    0x80000000, 0x3B4B295F, 0x40000000, 0xBF400000, 0x3A83126F, 0x3F000000, 0x3C23D70A, 0xBF800000]

theorem test_outlier_block_follow_max :
    (encodeBlock (FormatWord.ofNat 0x1002) f32One (fun _ => 0) 0 outlierBlock).1 = 0x81 ∧
      (encodeBlock (FormatWord.ofNat 0x1002) f32One (fun _ => 0) 0 outlierBlock).2.1 =
        [0x78, 0x24, 0xA0, 0, 0, 0, 1, 0x2A, 0, 0, 0x30, 0xA4, 0, 0x20, 1, 0xA8] ∧
      (encodeBlock (FormatWord.ofNat 0x1002) f32One (fun _ => 0) 0 outlierBlock).2.2.crushed = 4 ∧
      (encodeBlock (FormatWord.ofNat 0x1002) f32One (fun _ => 0) 0 outlierBlock).2.2.hist = [(15, 1)] := by decide +kernel

theorem test_outlier_block_clip :
    (encodeBlock (FormatWord.ofNat 0x1482) f32One (fun _ => 0) 0 outlierBlock).1 = 0x78 ∧
      (encodeBlock (FormatWord.ofNat 0x1482) f32One (fun _ => 0) 0 outlierBlock).2.1 =
        [0x7F, 0x6C, 0xE8, 0x2C, 0, 0xA8, 0x32, 0x72, 0, 0x2D, 0x78, 0xEC, 0x20, 0x68, 0x3A, 0xF0] := by decide +kernel

/-- Activation Wells, "coding one block": 127 bits. -/
theorem test_pack_one_block :
    (codeBlocks .k8 [{ s8 := 0x81, codes := [0x78, 0x24, 0xA0, 0, 0, 0, 1, 0x2A, 0, 0, 0x30, 0xA4, 0, 0x20, 1, 0xA8] }]
      1 0).length = 127 := by decide +kernel

/-- Learning Support, "one element's random bits". -/
theorem test_element_random :
    elementRandom 0x12345678 1 0x0A01 96 812 357 = (philox 0x12345678 0x00010A01 (44, 96, 812, 0)).getD 2 0 / 2 ^ 16 := by
  decide +kernel

/-- The published vector of Philox-4x32-10 for a zero key and counter. -/
theorem test_philox_zero : philox 0 0 (0, 0, 0, 0) = [0x6627E8D5, 0xE169C58D, 0xBC57AC4C, 0x9B00DBD8] := by decide +kernel

/-- Learning Support, "a spike". -/
def spiking : State :=
  having pgMonitor [(Reg.LM_ALPHA, 0x3E000000), (Reg.LM_OMA, 0x3F600000), (Reg.LM_Z_HI, 0x40C00000), (Reg.LM_WARMUP, 100),
    (Reg.LM_MEAN, 0x40000000), (Reg.LM_VAR, 0x3D800000), (Reg.LM_COUNT, 4000)] State.reset

theorem test_loss_spike :
    (lossMoves 0x40700000 9120 spiking).mon.pendingLoss = some (0x400E0000, 0x3EC78000, 4001) ∧
      rd (lossMoves 0x40700000 9120 spiking) pgMonitor Reg.LM_LAST_Z = 0x40E00000 ∧
      rd (lossMoves 0x40700000 9120 spiking) pgMonitor Reg.LM_SPIKES = 1 := by decide +kernel

/-- Pumps, GDDR7 and Well Memory, "an address that moves". -/
theorem test_address_that_moves :
    granulePlace State.reset 4194309 = (5, 262144) ∧ relocated 5 4194309 = (4, 23454976) ∧
      deviceByte State.reset 0x40000534 = 83886132 := by decide +kernel

/-- Module Map, "well addresses". -/
theorem test_well_address :
    regionOf State.reset 0x4F412340 = .well 634 0x12340 ∧ regionOf State.reset 0x100000000 = .well 2048 0 := by decide +kernel

/-- Register Pages, "finding a tile and its last error". -/
theorem test_directory_entry : dirEntry State.reset 634 = 0x00092A8A91027A01 := by decide +kernel

/-- Accumulators, "a tied weight gathered in place": the tie goes to even. -/
theorem test_tie_to_even : f32Add 0x3F800000 0x33800000 = 0x3F800000 := by decide +kernel

/-- The check values of CRC-32 (IEEE 802.3) and CRC-64 (ECMA-182) over "123456789". -/
theorem test_crc_check_values :
    crc32 ((List.range 9).map fun i => BitVec.ofNat 8 (0x31 + i)) = 0xCBF43926 ∧
      crc64 ((List.range 9).map fun i => BitVec.ofNat 8 (0x31 + i)) = 0x6C40DF5F0B497347 := by decide +kernel

/-- SHA-256 of "abc" (FIPS 180-4). -/
theorem test_sha_abc :
    beNat (sha256 [0x61, 0x62, 0x63]) = 0xBA7816BF8F01CFEA414140DE5DAE2223B00361A396177A9CB410FF61F20015AD := by
  decide +kernel

end Sys2Proof.Tests
end

section
/-! PROOFS. The register fields (R10, R106) and the state after reset (R11, R627, R776). -/

namespace Sys2Proof.Machine

/-! ### Bits of W1C fields -/

theorem bitOf_eq_testBit (v b : Nat) : bitOf v b = v.testBit b := by
  rw [Nat.testBit_eq_decide_div_mod_eq, bitOf, Bool.beq_eq_decide_eq]

theorem clearBits_mod_two (old ones : Nat) :
    clearBits old ones % 2 = 1 ↔ old % 2 = 1 ∧ ¬ ones % 2 = 1 := by
  have hle : old &&& ones ≤ old := Nat.and_le_left
  have hbit : (old &&& ones) % 2 = 1 ↔ old % 2 = 1 ∧ ones % 2 = 1 := Nat.and_mod_two_eq_one
  unfold clearBits
  omega

/-- Clearing bits commutes with shifting the word down: no bit of `old &&& ones` borrows from `old`. -/
theorem clearBits_div_two (old ones : Nat) : clearBits old ones / 2 = clearBits (old / 2) (ones / 2) := by
  have hle : old &&& ones ≤ old := Nat.and_le_left
  have hbit : (old &&& ones) % 2 = 1 ↔ old % 2 = 1 ∧ ones % 2 = 1 := Nat.and_mod_two_eq_one
  have hshift : (old &&& ones) / 2 = old / 2 &&& ones / 2 := Nat.and_div_two
  unfold clearBits
  rw [← hshift]
  omega

theorem testBit_clearBits (old ones b : Nat) :
    (clearBits old ones).testBit b = (old.testBit b && !ones.testBit b) := by
  induction b generalizing old ones with
  | zero =>
    simp only [Nat.testBit_zero, clearBits_mod_two, Bool.decide_and, decide_not]
  | succ b ih =>
    simp only [Nat.testBit_succ, clearBits_div_two, ih]

theorem bitOf_clearBits (old ones b : Nat) : bitOf (clearBits old ones) b = (bitOf old b && !bitOf ones b) := by
  simp only [bitOf_eq_testBit, testBit_clearBits]

theorem clearBits_le (old ones : Nat) : clearBits old ones ≤ old := Nat.sub_le ..

/-! ### A plain write, by access code -/

section
variable {s : State} {page : Nat} {w : FieldWrite}

theorem plainWrite_ro (h : w.f.acc = .ro) : plainWrite page w s = s := by
  simp only [plainWrite, h]

theorem plainWrite_rw (h : w.f.acc = .rw ∨ w.f.acc = .rws) :
    plainWrite page w s = if guarded s page w.f then s else wrAt page w.f w.i w.new s := by
  rcases h with h | h <;> simp only [plainWrite, h]

theorem plainWrite_w1c (h : w.f.acc = .w1c) :
    plainWrite page w s = wrAt page w.f w.i (clearBits w.old w.ones) s := by
  simp only [plainWrite, h]

/-- A plain write leaves the state or stores into its own field. -/
theorem plainWrite_cases (s : State) (page : Nat) (w : FieldWrite) :
    plainWrite page w s = s ∨ ∃ v, plainWrite page w s = wrAt page w.f w.i v s := by
  unfold plainWrite
  split
  · split
    · exact .inl rfl
    · exact .inr ⟨_, rfl⟩
  · split
    · exact .inl rfl
    · exact .inr ⟨_, rfl⟩
  · exact .inr ⟨_, rfl⟩
  · exact .inl rfl

/-- A W1C field reads as its old value with the bits written 1 cleared. -/
theorem rdAt_plainWrite_w1c (h : w.f.acc = .w1c) (hold : w.old < 2 ^ w.f.w) :
    rdAt (plainWrite page w s) page w.f w.i = clearBits w.old w.ones := by
  rw [plainWrite_w1c h, rdAt_wrAt_self, Nat.mod_eq_of_lt (Nat.lt_of_le_of_lt (clearBits_le ..) hold)]

/-- A plain write leaves every field copy at another key. -/
theorem rdAt_plainWrite_other {page' : Nat} {g : Field} {j : Nat} (h : g.key page' j ≠ w.f.key page w.i) :
    rdAt (plainWrite page w s) page' g j = rdAt s page' g j := by
  rcases plainWrite_cases s page w with hs | ⟨v, hs⟩
  · rw [hs]
  · rw [hs, rdAt_wrAt_other s v h]

end

/-- Settles O6: each access code by the equation of `plainWrite` for it, the counter by `rdAt_addAt`. -/
theorem registerFields : Obligations.register_fields := by
  intro s page w
  refine ⟨fun f i v => ⟨rdAt_wrAt_self .., fun _ _ _ h => rdAt_wrAt_other s v h⟩, rdAt_addAt s page, plainWrite_ro,
    fun h hg => ?rwFree, fun h hg => ?rwHeld, fun h hold b _ => ?w1c, fun _ _ _ => rdAt_plainWrite_other⟩
  case rwFree => rw [plainWrite_rw h, hg, if_neg Bool.false_ne_true, rdAt_wrAt_self]
  case rwHeld => rw [plainWrite_rw h, hg, if_pos rfl]
  case w1c => rw [rdAt_plainWrite_w1c h hold, bitOf_clearBits]

/-! ### The state after reset -/

theorem rdAt_reset (page : Nat) (f : Field) (i : Nat) : rdAt State.reset page f i = f.rst := rfl

theorem cellAt_reset (a : Nat) : cellAt State.reset a = 0 := rfl

/-- No granule of a well and no page of the data view is valid (R627). -/
theorem isValid_reset (a : Nat) : isValid State.reset a = false := by
  unfold isValid
  split
  · rfl
  · rfl

theorem isPoisoned_reset (u : Nat) : isPoisoned State.reset u = false := rfl

/-- No domain is locked, so every chain of domains reads OPEN. -/
theorem lockState_reset (page : Nat) : lockState State.reset page = 0 := rfl

theorem lockOwn_reset (page : Nat) : lockOwn State.reset page = false := rfl

/-- Settles O2: no map of `State.reset` lists a key, so each read gives its default, and the canonical form is
`reset_canonical`. -/
theorem resetState : Obligations.reset_state := by
  exact ⟨rdAt_reset, fun a => ⟨cellAt_reset a, isValid_reset a, isPoisoned_reset a⟩,
    fun page => ⟨lockState_reset page, lockOwn_reset page⟩, fun _ => ⟨rfl, rfl, rfl, rfl⟩,
    rfl, rfl, rfl, rfl, rfl, rfl, rfl, rfl, rfl, rfl, rfl, reset_canonical⟩

end Sys2Proof.Machine
end

section
/-! PROOFS. Counters that stop at their maximum (R106). -/

namespace Sys2Proof.Machine

section
variable {s : State} {page : Nat} {f : Field} {i n w : Nat}

/-- A counter of `w` bits that holds a value of its width stops at its maximum, and no addition lowers it. -/
theorem addAt_saturates (hw : f.w = w) (h : rdAt s page f i ≤ 2 ^ w - 1) :
    rdAt (addAt page f i n s) page f i = min (rdAt s page f i + n) (2 ^ w - 1) ∧
      rdAt s page f i ≤ rdAt (addAt page f i n s) page f i := by
  have hsum : rdAt (addAt page f i n s) page f i = min (rdAt s page f i + n) (2 ^ w - 1) := hw ▸ rdAt_addAt s page f i n
  exact ⟨hsum, hsum ▸ Nat.le_min.mpr ⟨Nat.le_add_right .., h⟩⟩

end

/-- Settles O7: `addAt_saturates` at the widths 32 and 64. -/
theorem countersSaturate : Obligations.counters_saturate :=
  fun _ _ _ _ _ => ⟨addAt_saturates, addAt_saturates⟩

end Sys2Proof.Machine
end

section
/-! PROOFS. Posted writes: what can stop a write, and that a posted one always gets through (R201, R936). -/

namespace Sys2Proof.Machine

/-- Work that stops, if it does, only with a stop that satisfies `P`. -/
def StopsOnly {α : Type} (P : Stop → Prop) (m : M α) : Prop := ∀ s e t, runM m s = (.error e, t) → P e

/-- The stops of a write: a completion code, a condition it waits for, or a gated cluster; never a read. -/
def Stop.ofWrite : Stop → Prop
  | .code _ | .hold | .wake _ => True
  | .ask _ | .stall _ => False

section
variable {α β : Type} {P Q : Stop → Prop}

theorem StopsOnly.m_pure (a : α) : StopsOnly P (pure a : M α) := fun _ _ _ h => by cases h
theorem StopsOnly.m_get : StopsOnly P (get : M State) := fun _ _ _ h => by cases h
theorem StopsOnly.m_set (t : State) : StopsOnly P (set t : M PUnit) := fun _ _ _ h => by cases h
theorem StopsOnly.m_modify (f : State → State) : StopsOnly P (modify f : M PUnit) := fun _ _ _ h => by cases h
theorem StopsOnly.m_throw {e : Stop} (h : P e) : StopsOnly P (throw e : M α) := fun _ _ _ k => by cases k; exact h

theorem StopsOnly.m_bind {m : M α} {f : α → M β} (h : StopsOnly P m) (k : ∀ a, StopsOnly P (f a)) :
    StopsOnly P (m >>= f) := by
  intro s e t hrun
  rw [runM_bind] at hrun
  split at hrun
  · exact k _ _ _ _ hrun
  · next hm => cases hrun; exact h _ _ _ hm

theorem StopsOnly.m_tryCatch {m : M α} {f : Stop → M α} (h : StopsOnly P m) (k : ∀ e, P e → StopsOnly Q (f e)) :
    StopsOnly Q (tryCatch m f) := by
  intro s e t hrun
  rw [runM_tryCatch] at hrun
  split at hrun
  · cases hrun
  · next hm => exact k _ (h _ _ _ hm) _ _ _ hrun

theorem StopsOnly.m_ite {c : Prop} [Decidable c] {m n : M α} (h : StopsOnly P m) (k : StopsOnly P n) :
    StopsOnly P (if c then m else n) := by
  split
  · exact h
  · exact k

/-- Work that nothing can stop gets through. -/
theorem StopsOnly.works {m : M Unit} (h : StopsOnly (fun _ => False) m) (s : State) : Works m s (leaves m s) := by
  unfold Works leaves
  match hrun : runM m s with
  | (.ok _, _) => rfl
  | (.error _, _) => exact (h _ _ _ hrun).elim

end

theorem stopsOnly_waitFor (b : Bool) : StopsOnly Stop.ofWrite (waitFor b) :=
  .m_ite (.m_pure ()) (.m_throw trivial)

theorem stopsOnly_takeOrd {P : Stop → Prop} : StopsOnly P takeOrd :=
  .m_bind .m_get fun _ => .m_bind (.m_set _) fun _ => .m_pure _

theorem stopsOnly_localWrite (w : Who) (ord a : Nat) (d : List PByte) : StopsOnly Stop.ofWrite (localWrite w ord a d) := by
  refine .m_bind .m_get fun s => .m_ite (.m_pure ()) ?_
  split
  case h_1 => exact .m_throw trivial
  case h_2 =>
    dsimp only
    split
    · exact .m_throw trivial
    · exact .m_throw trivial
    · exact .m_set _
  case h_3 =>
    refine .m_bind (stopsOnly_waitFor _) fun _ => ?_
    have hstore : StopsOnly Stop.ofWrite (if writeHeld s a d.length then throw .hold else set (memWrite a d s) : M Unit) :=
      .m_ite (.m_throw trivial) (.m_set _)
    split
    · exact .m_throw trivial
    · exact .m_throw trivial
    · dsimp only
      split
      · exact .m_bind (.m_throw trivial) fun _ => hstore
      · exact hstore

theorem stopsOnly_peerWrite (w : Who) (ord : Nat) (ps : List (Nat × Nat)) (d : List PByte) :
    StopsOnly Stop.ofWrite (peerWrite w ord ps d) := by
  induction ps generalizing d with
  | nil => exact .m_pure ()
  | cons p ps ih =>
    refine .m_bind .m_get fun s => ?_
    split
    · exact .m_throw trivial
    · exact .m_bind (.m_set _) fun _ => ih _

theorem stopsOnly_busWriteNow (w : Who) (ord a : Nat) (d : List PByte) :
    StopsOnly Stop.ofWrite (busWriteNow w ord a d) := by
  refine .m_ite (.m_pure ()) (.m_ite (.m_throw trivial) (.m_bind .m_get fun s => .m_ite ?here ?peer))
  case here => exact .m_bind (.m_modify _) fun _ => stopsOnly_localWrite _ _ _ _
  case peer => exact .m_bind .m_get fun _ => .m_bind (stopsOnly_waitFor _) fun _ => stopsOnly_peerWrite _ _ _ _

/-- The fabric takes over a write that must wait, so that a write is stopped only by its code. -/
theorem stopsOnly_busWrite (w : Who) (a : Nat) (d : List PByte) : StopsOnly (fun e => ∃ c, e = .code c) (busWrite w a d) := by
  refine .m_bind stopsOnly_takeOrd fun ord => .m_tryCatch (stopsOnly_busWriteNow w ord a d) fun e he => ?_
  match e, he with
  | .hold, _ => exact .m_modify _
  | .wake _, _ => exact .m_modify _
  | .code c, _ => exact .m_throw ⟨c, rfl⟩

/-- A posted write always gets through: a failing code is noted for later. -/
theorem post_works (w : Who) (a : Nat) (d : List PByte) (s : State) : Works (post w a d) s (leaves (post w a d) s) := by
  refine StopsOnly.works (.m_bind .m_get fun s => .m_tryCatch (stopsOnly_busWrite w a d) fun e he => ?_) s
  obtain ⟨c, rfl⟩ := he
  exact .m_modify _

end Sys2Proof.Machine
end

section
/-! PROOFS. Steps and their pending slots (R311 to R316), and the statistics adds that wait for them (R105, R308, R933). -/

namespace Sys2Proof.Machine

section
variable {s : State} {w : Who}

/-- A command does its effect while the supply is up (R906). -/
theorem whileOn_powered (t : State) (hp : s.powered = true) : whileOn s t = .next t := congrArg Host.Outcome.next (if_pos hp)

/-! ### Acknowledgements -/

/-- With every write answered, the code is that of the failed write issued first, and the failed ones are forgotten. -/
theorem codeOf_acknowledged (h : answered s w = true) :
    runM (codeOf (acknowledged w)) s = (.ok (writeCode s w), forgetErrors w s) := by
  unfold answered at h
  unfold codeOf acknowledged writeCode forgetErrors
  simp only [runM_tryCatch, runM_bind, runM_get, runM_waitFor, h, if_true]
  cases s.bus.writeErr.find? fun e => e.who == w with
  | none => rfl
  | some e => rfl

/-- It waits for those that are not answered. -/
theorem codeOf_acknowledged_hold (h : answered s w = false) : runM (codeOf (acknowledged w)) s = (.error .hold, s) := by
  unfold answered at h
  unfold codeOf acknowledged
  simp only [runM_tryCatch, runM_bind, runM_get, runM_waitFor, h, if_false, Bool.false_eq_true, runM_throw]

/-! ### Steps that open (R311, R312) -/

@[simp] theorem openStep_gen_opened (s : State) :
    (openStep s).gen.opened = s.gen.opened ++ [⟨(rd s pgGeneration Reg.GEN_STEP + 1) % 2 ^ 32, committed s⟩] := rfl

@[simp] theorem rd_openStep_GEN_STEP (s : State) :
    rd (openStep s) pgGeneration Reg.GEN_STEP = (rd s pgGeneration Reg.GEN_STEP + 1) % 2 ^ 32 := by
  unfold openStep
  rw [rd_wr_self]
  exact Nat.mod_mod _ _

/-- A step that opens after `old` starts in the reduction engines too, and the first one is in doubt where the module is
cut off (R331, R699). -/
theorem afterOpen_openStep {old : State} (h : s.gen.opened.length = old.gen.opened.length) :
    afterOpen old (openStep s) = if old.gen.opened = []
      then doubtIfCut (redOpens ((rd s pgGeneration Reg.GEN_STEP + 1) % 2 ^ 32) (openStep s))
      else redOpens ((rd s pgGeneration Reg.GEN_STEP + 1) % 2 ^ 32) (openStep s) := by
  unfold afterOpen
  rw [if_pos (by rw [openStep_gen_opened, List.length_append, h]; rfl), rd_openStep_GEN_STEP]
  simp only [List.isEmpty_iff]

/-- A field of the generation unit outside its status word is as it was. -/
theorem rd_clearSteps {g : Field} (hphase : g.bit ≠ Reg.GEN_STATUS_PHASE.bit)
    (hdoubt : g.bit ≠ Reg.GEN_STATUS_IN_DOUBT.bit) (hstall : g.bit ≠ Reg.GEN_STATUS_STALL_FOURTH.bit) :
    rd (clearSteps s) pgGeneration g = rd s pgGeneration g := by
  simp only [clearSteps, setPhase, rd_wr_field _ _ _ hphase, rd_wr_field _ _ _ hdoubt, rd_wr_field _ _ _ hstall]
  rfl

@[simp] theorem clearSteps_gen_opened (s : State) : (clearSteps s).gen.opened = [] := rfl

/-- A write of `ENABLE` 0 to 1. -/
theorem genEnable_true (hw : writable s pgGeneration = true) (h0 : rd s pgGeneration Reg.GEN_CTRL_ENABLE = 0) :
    genEnable true s = openStep (wr pgGeneration Reg.GEN_STATUS_COORD (natOf (rd s pgGeneration Reg.GEN_GROUP_RANK == 0))
      (wr pgGeneration Reg.GEN_CTRL_ENABLE 1 (clearSteps s))) := by
  have hoff : isSet s pgGeneration Reg.GEN_CTRL_ENABLE = false := by rw [isSet, h0]; rfl
  have hrank : rd (wr pgGeneration Reg.GEN_CTRL_ENABLE 1 (clearSteps s)) pgGeneration Reg.GEN_GROUP_RANK =
      rd s pgGeneration Reg.GEN_GROUP_RANK := by
    rw [rd_wr_field _ _ _ (by decide), rd_clearSteps (by decide) (by decide) (by decide)]
  simp [genEnable, hw, hoff, natOf, hrank]

/-- A write of `ENABLE` 1 to 0. -/
theorem genEnable_false (hw : writable s pgGeneration = true) (h1 : rd s pgGeneration Reg.GEN_CTRL_ENABLE = 1) :
    genEnable false s = wr pgGeneration Reg.GEN_STATUS_COORD 0 (wr pgGeneration Reg.GEN_CTRL_ENABLE 0 (clearSteps s)) := by
  have hon : isSet s pgGeneration Reg.GEN_CTRL_ENABLE = true := by rw [isSet, h1]; rfl
  simp [genEnable, hw, hon, natOf]

/-- The step that `ENABLE` opens is the first one, whatever was open before. -/
theorem enableGen_opens {on : Bool} {u : State} (h : genEnable on s = openStep u) (hu : u.gen.opened = []) :
    enableGen on s = doubtIfCut (redOpens ((rd u pgGeneration Reg.GEN_STEP + 1) % 2 ^ 32) (openStep u)) := by
  rw [enableGen, h]
  exact (afterOpen_openStep (by rw [hu])).trans (if_pos rfl)

theorem exec_genEnable_true (hp : s.powered = true) (hw : writable s pgGeneration = true)
    (h0 : rd s pgGeneration Reg.GEN_CTRL_ENABLE = 0) :
    exec (.genEnable true) s = .next (doubtIfCut (redOpens ((rd s pgGeneration Reg.GEN_STEP + 1) % 2 ^ 32)
      (openStep (wr pgGeneration Reg.GEN_STATUS_COORD (natOf (rd s pgGeneration Reg.GEN_GROUP_RANK == 0))
        (wr pgGeneration Reg.GEN_CTRL_ENABLE 1 (clearSteps s)))))) := by
  have hoff : isSet s pgGeneration Reg.GEN_CTRL_ENABLE ≠ true := by simp [isSet, h0]
  change whileOn s (if isSet s pgGeneration Reg.GEN_CTRL_ENABLE = true then genEnable true s else enableGen true s) = _
  rw [whileOn_powered _ hp, if_neg hoff, enableGen_opens (genEnable_true hw h0) rfl,
    rd_wr_field _ _ _ (by decide), rd_wr_field _ _ _ (by decide), rd_clearSteps (by decide) (by decide) (by decide)]

theorem exec_genEnable_false (hp : s.powered = true) (hw : writable s pgGeneration = true)
    (h1 : rd s pgGeneration Reg.GEN_CTRL_ENABLE = 1) :
    exec (.genEnable false) s = .next (wr pgGeneration Reg.GEN_STATUS_COORD 0
      (wr pgGeneration Reg.GEN_CTRL_ENABLE 0 (clearSteps s))) := by
  have hon : isSet s pgGeneration Reg.GEN_CTRL_ENABLE ≠ false := by simp [isSet, h1]
  change whileOn s (if isSet s pgGeneration Reg.GEN_CTRL_ENABLE = false then genEnable false s else enableGen false s) = _
  rw [whileOn_powered _ hp, if_neg hon, enableGen, genEnable_false hw h1]
  rfl

/-- The next step opens with none open, or beside the one open step under `AHEAD`. -/
theorem stepOpenNext_opens (hon : rd s pgGeneration Reg.GEN_CTRL_ENABLE = 1) (hl : lockState s pgGeneration = 0)
    (ho : s.gen.opened = [] ∨
      (s.gen.opened.length = 1 ∧ rd s pgGeneration Reg.GEN_CTRL_AHEAD = 1 ∧ 2 ≤ phase s)) :
    stepOpenNext s = openStep s := by
  have hset : isSet s pgGeneration Reg.GEN_CTRL_ENABLE = true := by rw [isSet, hon]; rfl
  unfold stepOpenNext
  rw [if_neg (by simp [hset, hl])]
  rcases ho with hnone | ⟨hone, hahead, hphase⟩
  · rw [hnone]
  · obtain ⟨o, ho⟩ := List.length_eq_one_iff.mp hone
    rw [ho]
    exact if_pos ⟨by rw [isSet, hahead]; rfl, hphase⟩

theorem exec_stepOpenNext (hp : s.powered = true) (hopens : stepOpenNext s = openStep s) :
    exec .stepOpenNext s = .next (if s.gen.opened = []
      then doubtIfCut (redOpens ((rd s pgGeneration Reg.GEN_STEP + 1) % 2 ^ 32) (openStep s))
      else redOpens ((rd s pgGeneration Reg.GEN_STEP + 1) % 2 ^ 32) (openStep s)) := by
  change whileOn s (openNext s) = _
  rw [whileOn_powered _ hp, openNext, hopens, afterOpen_openStep rfl]

/-! ### Pending slots (R314 to R316) -/

@[simp] theorem phase_setPhase (v : Nat) (s : State) : phase (setPhase v s) = v % 4 := rd_wr_self ..

@[simp] theorem phase_after (w : Who) (s : State) : phase (after w s) = phase s := rfl

/-- With every copy answered the pending slot is open, whether or not a copy has failed. -/
theorem openingDone_works (step : Nat) (h : answered s genWho = true) : ∃ u, Works (openingDone step) s (setPhase 2 u) := by
  unfold Works openingDone
  rw [runM_bind_ok (codeOf_acknowledged h)]
  dsimp only
  split
  · exact ⟨_, rfl⟩
  · exact ⟨_, rfl⟩

theorem attempt_openingDone (step : Nat) (h : answered s genWho = true) :
    phase (attempt genWho (openingDone step) s) = 2 := by
  obtain ⟨u, hu⟩ := openingDone_works step h
  rw [attempt_works hu, phase_after, phase_setPhase]

/-- While one is unanswered the slot waits. -/
theorem attempt_openingDone_waits (step : Nat) (h : answered s genWho = false) :
    attempt genWho (openingDone step) s = after genWho s :=
  attempt_hold (runM_bind_error (codeOf_acknowledged_hold h))

/-- The copies of a readable open list. -/
theorem attempt_openingCopies {step : Nat} {es : List OpenEntry} {u : State}
    (h : Reads (walkOpenList step (List.range (rd s pgGeneration Reg.GEN_OPEN_COUNT))) s es u) :
    attempt genWho (openingCopies step) s =
      after genWho (setPhase 1 { u with gen := { u.gen with copied := true, listed := es } }) := by
  refine attempt_works ?_
  unfold Works openingCopies
  rw [runM_bind_ok (runM_gets _ _), runM_bind_ok h]
  rfl

section
variable {o : OpenStep} {os : List OpenStep} (ho : s.gen.opened = o :: os) (hphase : phase s < 2)
  (hl : lockState s pgGeneration = 0)
include ho hphase hl

theorem pendingSlotOpen_heldBack (hb : heldBack s = true) : pendingSlotOpen s = stallOpening s := by
  simp [pendingSlotOpen, ho, hl, hb, Nat.not_le.mpr hphase]

theorem pendingSlotOpen_copied (hb : heldBack s = false) (hc : s.gen.copied = true) :
    pendingSlotOpen s = attempt genWho (openingDone o.step) (wr pgGeneration Reg.GEN_STATUS_STALL_FOURTH 0 s) := by
  simp [pendingSlotOpen, ho, hl, hb, hc, Nat.not_le.mpr hphase]

/-- The copies come first; once they are made the slot opens as soon as they are answered. -/
theorem pendingSlotOpen_copies {x : State} (hb : heldBack s = false) (hc : s.gen.copied = false)
    (hx : attempt genWho (openingCopies o.step) (wr pgGeneration Reg.GEN_STATUS_STALL_FOURTH 0 s) = x)
    (hcopied : x.gen.copied = true) : pendingSlotOpen s = attempt genWho (openingDone o.step) x := by
  simp [pendingSlotOpen, ho, hl, hb, hc, hx, hcopied, Nat.not_le.mpr hphase]

end

/-! ### Statistics adds (R105, R112, R308, R933) -/

/-- An add to the readable record at `at_`: the sums are posted, and EV_FMT_CRUSH is raised where the count reaches the
alarm of its scale record (R112). -/
theorem applyStats_works {a : StatAdd} {at_ : Nat} {old : List PByte} {u v t : State}
    (hat : at_ = a.addr + 128 * pendingSlot s) (hbusy : recordBusy s w at_ = false)
    (hold : Reads (busRead w at_ 0x70) s old u)
    (hv : v = leaves (post w at_ (clean (addRecord (old.map Prod.fst) a))) u)
    (hnone : a.scale = none → t = v)
    (hsome : ∀ rec_, a.scale = some rec_ → ∃ alarm p x n,
      Reads (busReadNat w (rec_ + 128 * pendingSlot s + 8) 4) v (alarm, p) x ∧
      n = leNat (((old.map Prod.fst).drop 8).take 4) ∧
      t = if alarm ≠ 0 ∧ n < alarm ∧ alarm ≤ min (n + a.crushed) 0xFFFFFFFF then raiseBit a.unit 3 x else x) :
    Works (applyStats w a) s t := by
  subst hat hv
  unfold Works applyStats
  rw [runM_bind_ok (runM_get s), runM_bind_ok (t := s) (a := ()) (by rw [runM_waitFor, hbusy]; rfl), runM_bind_ok hold]
  dsimp only
  rw [runM_bind_ok (post_works ..)]
  split
  · next hscale => rw [hnone hscale]; rfl
  · next rec_ hscale =>
    obtain ⟨alarm, p, x, n, halarm, rfl, rfl⟩ := hsome rec_ hscale
    rw [runM_bind_ok halarm]
    dsimp only
    split
    · rfl
    · rfl

section
variable {page : Nat} {a : StatAdd} (ha : s.gen.statq.find? (fun a => a.page == page) = some a)
include ha

theorem statsAddApply_drops (hd : dropsAdds s a.step = true) : statsAddApply page s = dropQueued page s := by
  simp [statsAddApply, ha, hd]

theorem statsAddApply_applies {t : State} (hd : dropsAdds s a.step = false) (hopen : pendingOpen s a.step = true)
    (ht : Works (applyStats (statWho page) a) s t) :
    statsAddApply page s = after (statWho page) (dropQueued page t) := by
  have hwork : Works (do let _ ← codeOf (applyStats (statWho page) a); modify (dropQueued page)) s (dropQueued page t) := by
    unfold Works
    rw [runM_bind_ok (runM_codeOf ht), runM_modify]
  simp only [statsAddApply, ha, hd, hopen, Bool.false_eq_true, if_false, if_true]
  exact attempt_works hwork

end

end

theorem exec_pendingSlotOpen {s : State} (hp : s.powered = true) : exec .pendingSlotOpen s = .next (pendingSlotOpen s) :=
  whileOn_powered _ hp

theorem exec_statsAddApply {s : State} (page : Nat) (hp : s.powered = true) :
    exec (.statsAddApply page) s = .next (statsAddApply page s) :=
  whileOn_powered _ hp

/-- Settles O40, clause by clause: `ENABLE`, the next step, the pending slot of the oldest open step, and the oldest queued
add of a page. -/
theorem stepsOpen : Obligations.steps_open := by
  intro s hp
  refine ⟨exec_genEnable_true hp, exec_genEnable_false hp, fun hon hl ho => ?next, fun o os ho hphase hl => ?slot,
    fun page a ha => ?adds⟩
  case next =>
    exact ⟨exec_stepOpenNext hp (stepOpenNext_opens hon hl ho), openStep_gen_opened s, rd_openStep_GEN_STEP s⟩
  case slot =>
    rw [exec_pendingSlotOpen hp]
    refine ⟨fun hb => ?held, fun hb hc hans => ⟨_, rfl, ?copied⟩, fun es u x hb hc hes hx => ?copies⟩
    case held => rw [pendingSlotOpen_heldBack ho hphase hl hb]
    case copied =>
      rw [pendingSlotOpen_copied ho hphase hl hb hc]
      exact attempt_openingDone _ hans
    case copies =>
      have hcount : rd (wr pgGeneration Reg.GEN_STATUS_STALL_FOURTH 0 s) pgGeneration Reg.GEN_OPEN_COUNT =
          rd s pgGeneration Reg.GEN_OPEN_COUNT := rd_wr_field s pgGeneration 0 (by decide)
      have hmade : attempt genWho (openingCopies o.step) (wr pgGeneration Reg.GEN_STATUS_STALL_FOURTH 0 s) = x :=
        hx ▸ attempt_openingCopies (by rwa [hcount])
      have hopening := pendingSlotOpen_copies ho hphase hl hb hc hmade (hx ▸ rfl)
      refine ⟨fun hwaits => ⟨_, rfl, ?_⟩, fun hans => ⟨_, rfl, ?_⟩⟩
      · rw [hopening, attempt_openingDone_waits _ hwaits, hx]
        exact ⟨phase_setPhase 1 _, rfl, rfl⟩
      · rw [hopening]
        exact attempt_openingDone _ hans
  case adds =>
    rw [exec_statsAddApply page hp]
    refine ⟨fun hd => ?drops, fun at_ old u v hd hopen hat hbusy hold hv => ⟨fun hnone => ?noScale,
      fun rec_ alarm p x n hsome halarm hn => ?scale⟩⟩
    case drops => rw [statsAddApply_drops ha hd]
    case noScale =>
      have hworks := applyStats_works hat hbusy hold hv (fun _ => rfl) fun rec_ h => by rw [hnone] at h; cases h
      rw [statsAddApply_applies ha hd hopen hworks]
    case scale =>
      have hworks := applyStats_works hat hbusy hold hv (fun h => by rw [hsome] at h; cases h) fun rec_' h =>
        ⟨alarm, p, x, n, by cases hsome.symm.trans h; exact halarm, hn, rfl⟩
      rw [statsAddApply_applies ha hd hopen hworks]

end Sys2Proof.Machine
end

section
/-! PROOFS. What a unit's reads and writes leave of the tiles: all but their channel endpoints (R802). -/

namespace Sys2Proof.Machine

/-- Of each tile nothing but its channel endpoints differs. -/
structure SameTiles (s t : State) : Prop where
  same : ∀ i, { getTile t i with chans := [] } = { getTile s i with chans := [] }

section
variable {s t u : State}

theorem SameTiles.refl (s : State) : SameTiles s s := ⟨fun _ => rfl⟩

theorem SameTiles.trans (h : SameTiles s t) (k : SameTiles t u) : SameTiles s u :=
  ⟨fun i => (k.same i).trans (h.same i)⟩

theorem SameTiles.epi (h : SameTiles s t) (i : Nat) : (getTile t i).epi = (getTile s i).epi :=
  (congrArg Tile.epi (h.same i) :)

theorem SameTiles.array (h : SameTiles s t) (i : Nat) : (getTile t i).array = (getTile s i).array :=
  (congrArg Tile.array (h.same i) :)

theorem SameTiles.of_tiles (h : t.tiles = s.tiles) : SameTiles s t := ⟨fun i => by unfold getTile; rw [h]⟩

/-- Operations whose parts leave the tiles out. -/
theorem SameTiles.of_keeps {M : Nat} (h : Keeps M s t) (hM : M.testBit 8 = false) : SameTiles s t :=
  .of_tiles (h.tiles.resolve_left (by simp [hM]))

theorem SameTiles.wrAt {page : Nat} {f : Field} {i v : Nat} (h : SameTiles s t) : SameTiles s (wrAt page f i v t) :=
  h.trans (.of_tiles rfl)

theorem SameTiles.ite {c : Prop} [Decidable c] (h : SameTiles s t) (k : SameTiles s u) :
    SameTiles s (if c then t else u) := by
  split
  · exact h
  · exact k

theorem SameTiles.foldl {α : Type} {f : State → α → State} (hf : ∀ u a, SameTiles u (f u a)) (l : List α)
    (s : State) : SameTiles s (l.foldl f s) := by
  induction l generalizing s with
  | nil => exact .refl s
  | cons a l ih => exact (hf s a).trans (ih _)

end

@[simp] theorem getTile_setTile_self (t : Nat) (x : Tile) (s : State) : getTile (setTile t x s) t = x := look_put_self ..

theorem getTile_setTile_other {t i : Nat} (x : Tile) (s : State) (h : i ≠ t) : getTile (setTile t x s) i = getTile s i :=
  look_put_other _ _ _ _ h

/-! ### Endpoints and the latch of a page -/

theorem sameTiles_setChan (t n : Nat) (c : Chan) (s : State) : SameTiles s (setChan t n c s) := by
  refine ⟨fun i => ?_⟩
  by_cases h : i = t
  · subst h
    rw [setChan, getTile_setTile_self]
  · rw [setChan, getTile_setTile_other _ _ h]

theorem sameTiles_putChan (t n : Nat) (c : Chan) (s : State) : SameTiles s (putChan t n c s) :=
  (sameTiles_setChan t n c s).wrAt

theorem sameTiles_sendChan (t ch session toTile toCh : Nat) (b : ChanBody) (s : State) :
    SameTiles s (sendChan t ch session toTile toCh b s) := .of_tiles rfl

theorem sameTiles_latchChan (t n : Nat) (s : State) : SameTiles s (latchChan t n s) := by
  unfold latchChan
  refine .ite (.of_tiles rfl) (.ite ?send ?receive)
  case send =>
    refine .trans ?_ (.foldl (fun u r => sameTiles_sendChan ..) _ _)
    exact .of_tiles rfl
  case receive =>
    refine .trans ?_ (sameTiles_setChan t n _ _)
    exact .of_tiles rfl

theorem sameTiles_latchPage (page : Nat) (s : State) : SameTiles s (latchPage page s) := by
  unfold latchPage
  refine .ite (.of_tiles rfl) ?_
  have hcounters : SameTiles s (latchCounters page s) := .of_keeps (keeps_latchCounters .rfl (.refl s)) rfl
  have hchans : ∀ u, SameTiles u ((List.range 64).foldl (fun s n => latchChan page n s) u) :=
    .foldl (fun u n => sameTiles_latchChan page n u) _
  have hport : ∀ n u, SameTiles u (latchPort n u) := fun _ u => .of_keeps (keeps_latchPort .rfl (.refl u)) rfl
  refine .wrAt (.trans (.trans (.trans (.trans hcounters (.ite (hchans _) (.refl _))) (.ite (hport _ _) (.refl _)))
    (.foldl (fun _ _ => ?verdict) _ _)) (.ite (.refl _) ?closed))
  case verdict => exact .of_tiles rfl
  case closed => exact .of_tiles rfl

theorem sameTiles_reachOwner (page a : Nat) (s : State) : SameTiles s (reachOwner page a s) := by
  have hreach : ∀ dst u, SameTiles u (reach page dst u) := fun dst u => .ite (sameTiles_latchPage dst u) (.refl u)
  have hcarry : ∀ dst, SameTiles s (carry page dst s) := fun dst => .of_tiles rfl
  unfold reachOwner
  dsimp only
  split
  · exact (hcarry _).trans (hreach _ _)
  · exact hcarry _
  · exact (hcarry _).trans (hreach _ _)

/-! ### Work -/

/-- Work that touches nothing of the tiles but channel endpoints, whether it gets through or stops. -/
def LeavesTiles {α : Type} (m : M α) : Prop := ∀ s, SameTiles s (runM m s).2

section
variable {α β : Type}

theorem LeavesTiles.of_holds {M : Nat} {m : Machine.M α} (h : Holds M m) (hM : M.testBit 8 = false) : LeavesTiles m :=
  fun s => .of_keeps (h s) hM

theorem LeavesTiles.of_reads {m : M α} {a : α} {s u : State} (h : LeavesTiles m) (hr : Reads m s a u) : SameTiles s u := by
  have hs := h s
  rwa [hr] at hs

theorem LeavesTiles.m_pure (a : α) : LeavesTiles (pure a : M α) := .refl
theorem LeavesTiles.m_throw (e : Stop) : LeavesTiles (throw e : M α) := .refl
theorem LeavesTiles.m_failWith (c : Nat) : LeavesTiles (failWith c : M α) := .refl
theorem LeavesTiles.m_get : LeavesTiles (get : M State) := .refl
theorem LeavesTiles.m_waitFor (b : Bool) : LeavesTiles (waitFor b) := fun s => by rw [runM_waitFor]; exact .refl s
theorem LeavesTiles.m_refuseIf (b : Bool) (c : Nat) : LeavesTiles (refuseIf b c) := fun s => by
  rw [runM_refuseIf]; exact .refl s
theorem LeavesTiles.m_modify {f : State → State} (h : ∀ s, SameTiles s (f s)) : LeavesTiles (modify f : M PUnit) := h

theorem LeavesTiles.m_bind {m : M α} {f : α → M β} (h : LeavesTiles m) (k : ∀ a, LeavesTiles (f a)) :
    LeavesTiles (m >>= f) := by
  intro s
  have hs := h s
  rw [runM_bind]
  split
  · next e => rw [e] at hs; exact hs.trans (k _ _)
  · next e => rw [e] at hs; exact hs

theorem LeavesTiles.m_tryCatch {m : M α} {f : Stop → M α} (h : LeavesTiles m) (k : ∀ e, LeavesTiles (f e)) :
    LeavesTiles (tryCatch m f) := by
  intro s
  have hs := h s
  rw [runM_tryCatch]
  split
  · next e => rw [e] at hs; exact hs
  · next e => rw [e] at hs; exact hs.trans (k _ _)

theorem LeavesTiles.m_ite {c : Prop} [Decidable c] {m n : M α} (h : LeavesTiles m) (k : LeavesTiles n) :
    LeavesTiles (if c then m else n) := by
  split
  · exact h
  · exact k

end

theorem leavesTiles_takeOrd : LeavesTiles takeOrd := fun _ => .of_tiles rfl

theorem leavesTiles_codeOf {m : M Unit} (h : LeavesTiles m) : LeavesTiles (codeOf m) := by
  refine .m_tryCatch (.m_bind h fun _ => .m_pure 0) fun e => ?_
  split
  · exact .m_pure _
  · exact .m_throw _

theorem leavesTiles_catchCode {α : Type} {m : M α} (h : LeavesTiles m) : LeavesTiles (catchCode m) := by
  refine .m_tryCatch (.m_bind h fun _ => .m_pure _) fun e => ?_
  split
  · exact .m_pure _
  · exact .m_throw _

theorem leavesTiles_noted (w : Who) {m : M Unit} (h : LeavesTiles m) : LeavesTiles (noted w m) := by
  refine .m_tryCatch h fun e => ?_
  split
  · exact .m_bind leavesTiles_takeOrd fun _ => .m_modify fun s => .of_keeps (keeps_noteWriteErr .rfl (.refl s)) rfl
  · exact .m_throw _

/-! ### Requests -/

theorem leavesTiles_busRead (w : Who) (a n : Nat) : LeavesTiles (busRead w a n) := by
  refine .m_ite (.m_pure _) ?_
  have hbus : LeavesTiles (do
      if isLocal (← get) a then
        modify (reachOwner w.page a)
        localRead w (localOf a) n
      else
        waitFor !behind (← get) w.page (← get).bus.nextOrd a n
        peerRead w (splitPages a n)) := by
    refine .m_bind .m_get fun s => .m_ite ?here ?peer
    case here =>
      exact .m_bind (.m_modify fun u => sameTiles_reachOwner _ _ u) fun _ =>
        .of_holds (fun u => keeps_localRead .rfl (.refl u)) rfl
    case peer =>
      exact .m_bind .m_get fun _ => .m_bind .m_get fun _ => .m_bind (.m_waitFor _) fun _ =>
        .of_holds (M := 0) (fun u => keeps_peerRead _ _ (.refl u)) rfl
  exact .m_ite (.m_bind (.m_failWith _) fun _ => hbus) hbus

theorem leavesTiles_busWriteNow (w : Who) (ord a : Nat) (d : List PByte) : LeavesTiles (busWriteNow w ord a d) := by
  refine .m_ite (.m_pure _) (.m_ite (.m_failWith _) (.m_bind .m_get fun s => .m_ite ?here ?peer))
  case here =>
    exact .m_bind (.m_modify fun u => sameTiles_reachOwner _ _ u) fun _ =>
      .of_holds (fun u => keeps_localWrite .rfl (.refl u)) rfl
  case peer =>
    exact .m_bind .m_get fun _ => .m_bind (.m_waitFor _) fun _ =>
      .of_holds (fun u => keeps_peerWrite .rfl _ _ _ (.refl u)) rfl

theorem leavesTiles_busWrite (w : Who) (a : Nat) (d : List PByte) : LeavesTiles (busWrite w a d) := by
  refine .m_bind leavesTiles_takeOrd fun ord => .m_tryCatch (leavesTiles_busWriteNow w ord a d) fun e => ?_
  split
  · exact .m_modify fun _ => .of_tiles rfl
  · exact .m_modify fun _ => .of_tiles rfl
  · exact .m_throw _

theorem leavesTiles_readRanges (w : Who) (rs : List (Nat × Nat)) : LeavesTiles (readRanges w rs) := by
  induction rs with
  | nil => exact .m_pure _
  | cons r rs ih => exact .m_bind (leavesTiles_busRead _ _ _) fun _ => .m_bind ih fun _ => .m_pure _

theorem leavesTiles_winReadFor (page : Nat) (w : Who) (h a n : Nat) : LeavesTiles (winReadFor page w h a n) :=
  .m_bind .m_get fun _ => .m_ite (.m_pure _) (leavesTiles_readRanges _ _)

theorem leavesTiles_winRead (w : Who) (h a n : Nat) : LeavesTiles (winRead w h a n) := leavesTiles_winReadFor _ _ _ _ _

/-! ### Vectors -/

theorem leavesTiles_writeVec (w : Who) (f : FormatWord) (a b : Nat) (e : Encoded) : LeavesTiles (writeVec w f a b e) :=
  .m_bind (leavesTiles_busWrite _ _ _) fun _ => leavesTiles_busWrite _ _ _

theorem leavesTiles_readUntil {α β : Type} {f : α → M β} (hf : ∀ a, LeavesTiles (f a)) (l : List α) :
    LeavesTiles (readUntil f l) := by
  induction l with
  | nil => exact .m_pure _
  | cons a l ih =>
    refine .m_bind (leavesTiles_catchCode (hf a)) fun r => ?_
    split
    · exact .m_pure _
    · exact .m_bind ih fun _ => .m_pure _

theorem leavesTiles_readVec (w : Who) (h : Nat) (f : FormatWord) (coarse n : Nat) (at_ : Nat × Nat) :
    LeavesTiles (readVec w h f coarse n at_) := by
  have hread : ∀ a n, LeavesTiles (winRead w h a n) := leavesTiles_winRead w h
  refine .m_bind (.m_bind (hread _ _) fun _ => ?_) fun _ => .m_pure _
  split
  · exact .m_bind (hread _ _) fun _ => .m_pure _
  · exact .m_bind (.m_pure _) fun _ => .m_pure _

theorem leavesTiles_readF32s (w : Who) (h a n : Nat) : LeavesTiles (readF32s w h a n) :=
  .m_bind (leavesTiles_winRead _ _ _ _) fun _ => .m_pure _

end Sys2Proof.Machine
end

section
/-! PROOFS. What channel messages and the operations of the epilogue leave of the tiles, and that their writes always get
through (R201, R236, R936). -/

namespace Sys2Proof.Machine

/-! ### Channel messages -/

theorem sameTiles_addUngranted (t n k : Nat) (s : State) : SameTiles s (addUngranted t n k s) := .of_tiles rfl

theorem sameTiles_sendSlot (t n op count : Nat) (poison : List Bool) (bytes : List Byte) (s : State) :
    SameTiles s (sendSlot t n op count poison bytes s) := by
  unfold sendSlot
  refine .ite (.of_keeps (keeps_noteWriteErr .rfl (.refl s)) rfl) ?_
  exact (sameTiles_putChan t n _ s).trans (.foldl (fun _ _ => sameTiles_sendChan ..) _ _)

theorem sameTiles_sendRecords (t n op fuel : Nat) (rs : List (List Byte × Bool)) (s : State) :
    SameTiles s (sendRecords t n op fuel rs s) := by
  induction fuel generalizing rs s with
  | zero => exact .refl s
  | succ fuel ih =>
    match rs with
    | [] => exact .refl s
    | r :: rs => exact (sameTiles_sendSlot ..).trans (ih _ _)

theorem sameTiles_unreserve (t n k : Nat) (s : State) : SameTiles s (unreserve t n k s) := by
  unfold unreserve
  refine .ite ?_ (sameTiles_setChan t n _ s)
  exact .trans (.foldl (fun _ _ => sameTiles_addUngranted ..) _ s) (sameTiles_putChan t n _ _)

theorem sameTiles_freeSlot (t n : Nat) (s : State) : SameTiles s (freeSlot t n s) := by
  have hfreed := sameTiles_putChan t n { getChan s t n with
    filled := (getChan s t n).filled.drop 1, nextRead := (getChan s t n).nextRead + 1
    returned := ((getChan s t n).returned + 1) % 2 ^ 32 } s
  unfold freeSlot
  refine .ite ?_ ?_
  · exact (hfreed.trans (sameTiles_setChan t n _ _)).trans (sameTiles_addUngranted ..)
  · exact hfreed.trans (sameTiles_sendChan ..)

theorem leavesTiles_sendOutput (t n : Nat) (e : EpiOp) (rs : List (List Byte × Bool)) : LeavesTiles (sendOutput t n e rs) :=
  .m_modify fun _ => (sameTiles_sendRecords ..).trans (sameTiles_unreserve ..)

theorem leavesTiles_takeRecord (w : Who) (h t n : Nat) : LeavesTiles (takeRecord w h t n) := by
  refine .m_bind .m_get fun s => ?_
  have hnone : LeavesTiles (do refuseIf (chanState s t n == 2) 0x0410; return none : M (Option (List Byte × Bool))) :=
    .m_bind (.m_refuseIf _ _) fun _ => .m_pure _
  dsimp only
  split
  · exact hnone
  · refine .m_ite hnone (.m_bind (leavesTiles_winReadFor _ _ _ _ _) fun d => .m_ite ?_ ?_)
    · exact .m_bind (.m_modify fun u => sameTiles_freeSlot t n u) fun _ => .m_pure _
    · exact .m_bind (.m_modify fun u => sameTiles_setChan t n _ u) fun _ => .m_pure _

theorem leavesTiles_consumeAll (t n h : Nat) (w : Who) (k : Nat) (got : List (List Byte × Bool)) :
    LeavesTiles (consumeAll t n h w k got) := by
  induction k generalizing got with
  | zero => exact .m_pure _
  | succ k ih =>
    refine .m_bind (leavesTiles_catchCode (leavesTiles_takeRecord w h t n)) fun r => ?_
    split
    · exact .m_pure _
    · exact .m_pure _
    · exact ih _

/-! ### What tail operations read -/

theorem sameTiles_addTailNonfinite (t pass n : Nat) (s : State) : SameTiles s (addTailNonfinite t pass n s) := .of_tiles rfl

theorem leavesTiles_tailSource (t : Nat) (e : EpiOp) (x : TailDesc) : LeavesTiles (tailSource t e x) := by
  refine .m_bind .m_get fun s => ?_
  split
  · exact .m_pure _
  · exact leavesTiles_readUntil (fun _ => leavesTiles_readVec _ _ _ _ _ _) _
  · exact .m_pure _

theorem leavesTiles_normOuts (t : Nat) (e : EpiOp) (x : TailDesc) (vs : List Vec) (rc : Nat) :
    LeavesTiles (normOuts t e x vs rc) := by
  refine .m_ite (.m_pure _) (.m_bind (leavesTiles_catchCode (leavesTiles_readF32s _ _ _ _)) fun r => ?_)
  split
  · exact .m_pure _
  · refine .m_bind (leavesTiles_readUntil (fun g => ?_) _) fun _ => .m_pure _
    refine .m_bind (.m_ite ?_ (.m_pure _)) fun _ => .m_pure _
    exact .m_bind (leavesTiles_readF32s _ _ _ _) fun _ => .m_pure _

theorem leavesTiles_poolOuts (t : Nat) (e : EpiOp) (x : TailDesc) : LeavesTiles (poolOuts t e x) := by
  refine .m_bind (leavesTiles_catchCode (leavesTiles_winRead _ _ _ _)) fun r => ?_
  split
  · exact .m_pure _
  · refine leavesTiles_readUntil (fun v => .m_bind (leavesTiles_readUntil (fun a => ?_) _) fun r => ?_) _
    · exact .m_bind (leavesTiles_winRead _ _ _ _) fun _ => .m_pure _
    · exact .m_bind (.m_refuseIf _ _) fun _ => .m_pure _

theorem leavesTiles_plainOuts (t : Nat) (e : EpiOp) (x : TailDesc) (vs : List Vec) (rc : Nat) :
    LeavesTiles (plainOuts t e x vs rc) := by
  unfold plainOuts
  dsimp only
  split
  case h_1 | h_2 =>
    refine .m_bind (leavesTiles_catchCode (leavesTiles_readF32s _ _ _ _)) fun r => ?_
    split
    · exact .m_pure _
    · exact .m_pure _
  case h_3 | h_4 =>
    refine .m_bind (leavesTiles_readUntil (fun v => ?_) _) fun _ => .m_pure _
    exact .m_bind (leavesTiles_readVec _ _ _ _ _ _) fun _ => .m_pure _
  case h_5 | h_6 => exact .m_pure _

theorem leavesTiles_tailOuts (t : Nat) (e : EpiOp) (x : TailDesc) : LeavesTiles (tailOuts t e x) := by
  refine .m_ite (leavesTiles_poolOuts t e x) (.m_bind (leavesTiles_tailSource t e x) fun v => ?_)
  have houts : LeavesTiles (if x.isNorm then normOuts t e x v.1 v.2 else plainOuts t e x v.1 v.2) :=
    .m_ite (leavesTiles_normOuts _ _ _ _ _) (leavesTiles_plainOuts _ _ _ _ _)
  exact .m_ite (.m_bind (.m_modify fun u => sameTiles_addTailNonfinite ..) fun _ => houts) houts

/-! ### What they write -/

theorem stopsOnly_writeVec (w : Who) (f : FormatWord) (a b : Nat) (e : Encoded) :
    StopsOnly (fun e => ∃ c, e = .code c) (writeVec w f a b e) :=
  .m_bind (stopsOnly_busWrite _ _ _) fun _ => stopsOnly_busWrite _ _ _

/-- What stops only with a code is noted, and does not stop. -/
theorem stopsOnly_noted {P : Stop → Prop} (w : Who) {m : M Unit} (h : StopsOnly (fun e => ∃ c, e = .code c) m) :
    StopsOnly P (noted w m) := by
  refine .m_tryCatch h fun e he => ?_
  obtain ⟨c, rfl⟩ := he
  exact .m_bind stopsOnly_takeOrd fun _ => .m_modify _

theorem stopsOnly_noted_failWith {P : Stop → Prop} (w : Who) (c : Nat) : StopsOnly P (noted w (failWith c)) :=
  stopsOnly_noted w (.m_throw ⟨c, rfl⟩)

/-- Work that nothing can stop, and that touches nothing of the tiles but channel endpoints. -/
structure GetsThrough {α : Type} (m : M α) : Prop where
  stops : StopsOnly (fun _ => False) m
  tiles : LeavesTiles m

section
variable {α β : Type}

theorem GetsThrough.m_pure (a : α) : GetsThrough (pure a : M α) := ⟨.m_pure a, .m_pure a⟩
theorem GetsThrough.m_get : GetsThrough (get : M State) := ⟨.m_get, .m_get⟩
theorem GetsThrough.m_modify {f : State → State} (h : ∀ s, SameTiles s (f s)) : GetsThrough (modify f : M PUnit) :=
  ⟨.m_modify f, .m_modify h⟩

theorem GetsThrough.m_bind {m : M α} {f : α → M β} (h : GetsThrough m) (k : ∀ a, GetsThrough (f a)) :
    GetsThrough (m >>= f) :=
  ⟨.m_bind h.stops fun a => (k a).stops, .m_bind h.tiles fun a => (k a).tiles⟩

theorem GetsThrough.m_ite {c : Prop} [Decidable c] {m n : M α} (h : GetsThrough m) (k : GetsThrough n) :
    GetsThrough (if c then m else n) :=
  ⟨.m_ite h.stops k.stops, .m_ite h.tiles k.tiles⟩

theorem GetsThrough.runM_eq {m : M α} (h : GetsThrough m) (s : State) :
    ∃ a u, runM m s = (.ok a, u) ∧ SameTiles s u := by
  have hs := h.tiles s
  match hrun : runM m s with
  | (.ok a, u) => exact ⟨a, u, rfl, by rwa [hrun] at hs⟩
  | (.error _, _) => exact (h.stops _ _ _ hrun).elim

end

theorem getsThrough_noted (w : Who) (c : Nat) : GetsThrough (noted w (failWith c)) :=
  ⟨stopsOnly_noted w (.m_throw ⟨c, rfl⟩), leavesTiles_noted w (.m_failWith c)⟩

/-- A failing write is noted, and the work goes on (R201, R936). -/
theorem getsThrough_writeOn (w : Who) {m : M Unit} (h : StopsOnly (fun e => ∃ c, e = .code c) m) (k : LeavesTiles m) :
    GetsThrough (writeOn w m) := by
  have hcode : StopsOnly (fun _ => False) (codeOf m) := by
    refine .m_tryCatch (.m_bind h fun _ => .m_pure _) fun e he => ?_
    obtain ⟨c, rfl⟩ := he
    exact .m_pure _
  exact .m_bind ⟨hcode, leavesTiles_codeOf k⟩ fun c => .m_ite (.m_pure _)
    (.m_bind (getsThrough_noted w c) fun _ => .m_pure _)

theorem getsThrough_writeOn_writeVec (w : Who) (f : FormatWord) (a b : Nat) (e : Encoded) :
    GetsThrough (writeOn w (writeVec w f a b e)) :=
  getsThrough_writeOn w (stopsOnly_writeVec w f a b e) (leavesTiles_writeVec w f a b e)

theorem getsThrough_writeOuts (t : Nat) (e : EpiOp) (x : TailDesc) (rnd : Nat → Nat) (os : List TailOut) (v : Nat) :
    GetsThrough (writeOuts t e x rnd os v) := by
  induction os generalizing v with
  | nil => exact .m_pure _
  | cons o os ih =>
    match o with
    | .raw a bs p =>
      have hwrite : GetsThrough (do
          if ← writeOn (opWho t e.ins) (busWrite (opWho t e.ins) a (marked p bs)) then writeOuts t e x rnd os v
          else return ([], {}, false)) :=
        .m_bind (getsThrough_writeOn _ (stopsOnly_busWrite _ _ _) (leavesTiles_busWrite _ _ _)) fun _ =>
          .m_ite (ih v) (.m_pure _)
      exact .m_ite (.m_bind (.m_modify fun _ => sameTiles_addTailNonfinite ..) fun _ => hwrite) hwrite
    | .vec (ys, p) =>
      refine .m_bind (.m_modify fun _ => sameTiles_addTailNonfinite ..) fun _ => .m_ite ?channel ?memory
      case channel => exact .m_bind (ih _) fun _ => .m_pure _
      case memory =>
        refine .m_bind (getsThrough_writeOn_writeVec ..) fun _ => .m_ite ?_ (.m_pure _)
        exact .m_bind (ih _) fun _ => .m_pure _

theorem getsThrough_drainOuts (t : Nat) (e : EpiOp) (d : DrainDesc) (rnd : Nat → Nat) (vs : List Nat) :
    GetsThrough (drainOuts t e d rnd vs) := by
  induction vs with
  | nil => exact .m_pure _
  | cons v vs ih =>
    refine .m_bind .m_get fun s => .m_ite (.m_bind (.m_modify fun _ => .of_tiles rfl) fun _ => ?poison) ?_
    all_goals
      refine .m_ite (.m_bind ih fun _ => .m_pure _) (.m_bind (getsThrough_writeOn _ ?stops ?tiles) fun _ =>
        .m_ite (.m_bind ih fun _ => .m_pure _) (.m_pure _))
      case stops =>
        exact .m_bind (stopsOnly_writeVec _ _ _ _ _) fun _ => .m_ite (stopsOnly_writeVec _ _ _ _ _) (.m_pure _)
      case tiles =>
        exact .m_bind (leavesTiles_writeVec _ _ _ _ _) fun _ => .m_ite (leavesTiles_writeVec _ _ _ _ _) (.m_pure _)

/-! ### Updates -/

theorem leavesTiles_updateVec (t : Nat) (e : EpiOp) (x : TailDesc) (p : List Byte) (rnd : Nat → Nat) (rs ws v : Nat)
    (g : Vec) : LeavesTiles (updateVec t e x p rnd rs ws v g) := by
  refine .m_bind .m_get fun s => .m_bind (leavesTiles_readUntil (fun q => ?read) _) fun r => ?write
  case read => exact .m_bind (leavesTiles_busRead _ _ _) fun _ => .m_pure _
  case write =>
    refine .m_ite (.m_failWith _) (.m_bind (leavesTiles_readUntil (fun q => ?_) _) fun _ => .m_pure _)
    exact .m_bind (.m_modify fun _ => sameTiles_addTailNonfinite ..) fun _ =>
      .m_bind (leavesTiles_busWrite _ _ _) fun _ => .m_pure _

theorem leavesTiles_updateVecs (t : Nat) (e : EpiOp) (x : TailDesc) (p : List Byte) (rnd : Nat → Nat) (rs ws : Nat)
    (gs : List Vec) (v : Nat) : LeavesTiles (updateVecs t e x p rnd rs ws gs v) := by
  have hnoted : ∀ c, LeavesTiles (do noted (opWho t e.ins) (failWith c); return (({} : Stats), false)) := fun c =>
    .m_bind (getsThrough_noted _ c).tiles fun _ => .m_pure _
  induction gs generalizing v with
  | nil => exact .m_pure _
  | cons g gs ih =>
    refine .m_bind (leavesTiles_catchCode (leavesTiles_updateVec _ _ _ _ _ _ _ _ _)) fun r => ?_
    split
    · exact hnoted _
    · refine .m_ite (hnoted _) (.m_bind .m_get fun s => .m_bind (.m_modify fun _ => sameTiles_addTailNonfinite ..) fun _ =>
        .m_bind (getsThrough_writeOn_writeVec ..).tiles fun _ => .m_ite ?_ (.m_pure _))
      exact .m_bind (ih _) fun _ => .m_pure _

theorem leavesTiles_runUpdate (t : Nat) (e : EpiOp) (x : TailDesc) (rnd : Nat → Nat) :
    LeavesTiles (runUpdate t e x rnd) := by
  refine .m_bind .m_get fun s => .m_bind (leavesTiles_catchCode (leavesTiles_winRead _ _ _ _)) fun r => ?_
  split
  · exact .m_pure _
  · exact .m_bind (leavesTiles_tailSource t e x) fun _ =>
      .m_bind (leavesTiles_updateVecs _ _ _ _ _ _ _ _ _) fun _ => .m_pure _

end Sys2Proof.Machine
end

section
/-! PROOFS. The epilogue queue at work: drains and tail operations, releases, completion and roll-up (R182, R197 to R201,
R273 to R286, R510). -/

namespace Sys2Proof.Machine

/-! ### Work of a tile -/

section
variable {s t : State} {tile : Nat}

/-- What a tile's work that gets through leaves. -/
theorem tileWork_works {m : M Unit} (h : Works m s t) : tileWork tile m s = after ⟨pgTile tile, 0⟩ t := by
  unfold Works at h
  unfold tileWork
  rw [h]
  rfl

/-- Work that runs alike leaves the same. -/
theorem tileWork_congr {m n : M Unit} (h : runM m s = runM n s) : tileWork tile m s = tileWork tile n s := by
  unfold tileWork
  rw [h]

@[simp] theorem getTile_after (w : Who) (s : State) (i : Nat) : getTile (after w s) i = getTile s i := rfl

/-- A condition that holds is not waited for. -/
theorem runM_waitFor_true {b : Bool} (h : b = true) (s : State) : runM (waitFor b) s = (.ok (), s) := by
  rw [runM_waitFor, if_pos h]

/-! ### The entry that runs next (R197, R285) -/

theorem EpiFront.mem {e : EpiOp} (h : EpiFront s tile e) : e ∈ (getTile s tile).epi := List.mem_of_find?_eq_some h.1

theorem EpiFront.not_started {e : EpiOp} (h : EpiFront s tile e) : e.started = false := by
  simpa using List.find?_some h.1

theorem epiNext_front {e : EpiOp} (h : EpiFront s tile e) : runM (epiNext tile) s = (.ok e, s) := by
  obtain ⟨hnext, hset⟩ := h
  unfold epiNext
  rw [runM_bind_ok (runM_gets _ s), hnext]
  have hfree : (e.set == 0 || (getTile s tile).array.all fun o =>
      o.done || o.loadOnly || decide (e.ins.seq ≤ o.ins.seq) || o.accSet + 1 != e.set) = true := by
    rw [Bool.or_eq_true, beq_iff_eq]
    exact hset
  dsimp only
  rw [runM_bind_ok (runM_waitFor_true hfree s), runM_pure]

/-- Where the first entry that satisfies `p` is replaced by one of its issue number that does so too, the new one is the
first. -/
theorem find?_replaceSeq {p : EpiOp → Bool} {l : List EpiOp} {e f : EpiOp} (he : l.find? p = some e) (hf : p f = true)
    (hseq : f.ins.seq = e.ins.seq) : (l.map fun q => if q.ins.seq = f.ins.seq then f else q).find? p = some f := by
  induction l with
  | nil => cases he
  | cons a l ih =>
    rw [List.map_cons]
    by_cases ha : a.ins.seq = f.ins.seq
    · rw [if_pos ha, List.find?_cons_of_pos hf]
    · rw [if_neg ha]
      by_cases hpa : p a = true
      · rw [List.find?_cons_of_pos hpa] at he
        cases he
        exact absurd hseq.symm ha
      · rw [List.find?_cons_of_neg hpa] at he ⊢
        exact ih he

/-- The state in which `f` has replaced the queue entry of its issue number. -/
def replaceEpi (tile : Nat) (f : EpiOp) (s : State) : State :=
  setTile tile { getTile s tile with epi := (getTile s tile).epi.map fun p => if p.ins.seq = f.ins.seq then f else p } s

theorem runM_putEpi (f : EpiOp) (s : State) : runM (putEpi tile f) s = (.ok (), replaceEpi tile f s) := rfl

theorem mem_replaceEpi {e f : EpiOp} (he : e ∈ (getTile s tile).epi) (hseq : e.ins.seq = f.ins.seq) :
    f ∈ (getTile (replaceEpi tile f s) tile).epi := by
  rw [replaceEpi, getTile_setTile_self]
  exact List.mem_map.mpr ⟨e, he, if_pos hseq⟩

/-- An entry that is replaced by one of its kind still runs next. -/
theorem EpiFront.replaced {e f : EpiOp} (h : EpiFront s tile e) (hstarted : f.started = false)
    (hseq : f.ins.seq = e.ins.seq) (hset : f.set = e.set) : EpiFront (replaceEpi tile f s) tile f := by
  unfold EpiFront replaceEpi
  rw [getTile_setTile_self]
  refine ⟨find?_replaceSeq h.1 (by rw [hstarted]; rfl) hseq, ?_⟩
  rw [hset, hseq]
  exact h.2

theorem EpiFront.of_sameTiles {e : EpiOp} (h : EpiFront s tile e) (k : SameTiles s t) : EpiFront t tile e := by
  unfold EpiFront
  rw [k.epi, k.array]
  exact h

/-! ### Operations that read their last row (R200, R201) -/

/-- Work for queue entry `e` that gets through, and whose last step is that the entry has read its last row. -/
def EndsStarted (m : M Unit) (s : State) (tile : Nat) (e : EpiOp) : Prop :=
  ∃ u stats, SameTiles s u ∧ runM m s = runM (epiStarted tile e stats) u

theorem EndsStarted.spec {m : M Unit} {e : EpiOp} (h : EndsStarted m s tile e) (he : e ∈ (getTile s tile).epi) :
    tileWork tile m s = after ⟨pgTile tile, 0⟩ (leaves m s) ∧
      EpiStarted (after ⟨pgTile tile, 0⟩ (leaves m s)) tile e.ins := by
  obtain ⟨u, stats, hu, hrun⟩ := h
  have hworks : Works m s (leaves m s) := by
    unfold Works leaves
    rw [hrun]
    rfl
  refine ⟨tileWork_works hworks, { e with started := true, stats := stats }, ?_, rfl, rfl⟩
  have hstands := mem_replaceEpi (e := e) (f := { e with started := true, stats := stats }) (hu.epi tile ▸ he) rfl
  rw [getTile_after]
  unfold leaves
  rw [hrun]
  unfold epiStarted modTile
  rw [runM_bind_ok (runM_putEpi _ _), runM_modify, getTile_setTile_self]
  exact hstands

section
variable {α : Type} {e : EpiOp}

theorem EndsStarted.last (stats : List StatAdd) (s : State) : EndsStarted (epiStarted tile e stats) s tile e :=
  ⟨s, stats, .refl s, rfl⟩

theorem EndsStarted.m_reads {m : M α} {f : α → M Unit} {a : α} {u : State} (h : runM m s = (.ok a, u))
    (hu : SameTiles s u) (k : EndsStarted (f a) u tile e) : EndsStarted (m >>= f) s tile e := by
  obtain ⟨v, stats, hv, hrun⟩ := k
  exact ⟨v, stats, hu.trans hv, (runM_bind_ok h).trans hrun⟩

theorem EndsStarted.m_bind {m : M α} {f : α → M Unit} (h : GetsThrough m) (k : ∀ a u, EndsStarted (f a) u tile e) :
    EndsStarted (m >>= f) s tile e := by
  obtain ⟨a, u, hrun, hu⟩ := h.runM_eq s
  exact .m_reads hrun hu (k a u)

theorem EndsStarted.m_ite {c : Prop} [Decidable c] {m n : M Unit} (h : EndsStarted m s tile e) (k : EndsStarted n s tile e) :
    EndsStarted (if c then m else n) s tile e := by
  split
  · exact h
  · exact k

end

theorem getsThrough_sendOutput (t n : Nat) (e : EpiOp) (rs : List (List Byte × Bool)) : GetsThrough (sendOutput t n e rs) :=
  ⟨.m_modify _, leavesTiles_sendOutput t n e rs⟩

/-- A drain writes its vectors, and counts as having read its last row (R189 to R201). -/
theorem drainStart_endsStarted {e : EpiOp} (h : EpiFront s tile e) (htail : e.tail = false) :
    EndsStarted (drainStart tile) s tile e := by
  refine .m_reads (epiNext_front h) (.refl s) (.m_reads (u := s) (a := ()) ?_ (.refl s) ?_)
  · rw [runM_waitFor, htail]
    rfl
  refine .m_bind .m_get fun v _ => .m_bind (getsThrough_drainOuts ..) fun r _ => .m_ite ?_ (.last _ _)
  exact .m_bind (getsThrough_sendOutput ..) fun _ _ => .last _ _

/-- A tail operation whose operands can be read writes its results, and counts as having read its last row (R273 to R286). -/
theorem tailRun_endsStarted {e : EpiOp} {x : TailDesc}
    (h : if x.update then ∃ r u, Reads (runUpdate tile e x (draws s 2 x.tag e.ins.sample e.ins.pass)) s r u
      else ∃ r u, Reads (tailOuts tile e x) s r u) :
    EndsStarted (tailRun tile e x) s tile e := by
  have hnoted : ∀ b c, GetsThrough (onlyIf b (noted (opWho tile e.ins) (failWith c))) := fun _ c =>
    .m_ite (getsThrough_noted _ c) (.m_pure _)
  refine .m_reads (runM_get s) (.refl s) ?_
  dsimp only
  split at h
  case isTrue hup =>
    obtain ⟨r, u, hr⟩ := h
    rw [if_pos hup]
    exact .m_reads hr ((leavesTiles_runUpdate _ _ _ _).of_reads hr) (.m_bind (hnoted _ _) fun _ _ => .last _ _)
  case isFalse hup =>
    obtain ⟨r, u, hr⟩ := h
    rw [if_neg hup]
    refine .m_reads hr ((leavesTiles_tailOuts _ _ _).of_reads hr) (.m_bind (getsThrough_writeOuts ..) fun o _ =>
      .m_bind (hnoted _ _) fun _ _ => .m_ite ?_ (.last _ _))
    exact .m_bind (getsThrough_sendOutput ..) fun _ _ => .last _ _

/-! ### TAIL at work (R273, R284, R285) -/

section
variable {e : EpiOp} {k : TailKind}

/-- A tail operation whose source stands ready runs. -/
theorem runM_tailStart_ready (h : EpiFront s tile e) (htail : e.tail = true) (hk : (TailDesc.mk e.desc).is k = true)
    (hready : (TailDesc.mk e.desc).src ≠ 2 ∨ e.ins.code ≠ 0 ∨ (TailDesc.mk e.desc).vectors ≤ e.buf.length) :
    runM (tailStart tile k) s = runM (tailRun tile e ⟨e.desc⟩) s := by
  have hwhole : ¬ ((TailDesc.mk e.desc).src = 2 ∧ e.ins.code = 0 ∧ e.buf.length < (TailDesc.mk e.desc).vectors) := by
    omega
  unfold tailStart
  rw [runM_bind_ok (epiNext_front h)]
  dsimp only
  rw [runM_bind_ok (runM_waitFor_true (by rw [htail, hk]; rfl) s), if_neg hwhole, runM_bind_ok (epiNext_front h),
    if_neg hwhole]

/-- The entry once it has taken records of its channel (R273). -/
abbrev EpiOp.taking (e : EpiOp) (got : List (List Byte × Bool)) : EpiOp :=
  { e with buf := e.buf ++ got, ins := { e.ins with code := 0 } }

/-- One that waits for records of a channel takes those that have come. -/
theorem tailStart_takes {got : List (List Byte × Bool)} {u : State} (h : EpiFront s tile e) (htail : e.tail = true)
    (hk : (TailDesc.mk e.desc).is k = true) (hsrc : (TailDesc.mk e.desc).src = 2) (hcode : e.ins.code = 0)
    (hgot : Reads (consumeAll tile (fld e.desc 8 1) e.ins.slot (opWho tile e.ins)
      ((TailDesc.mk e.desc).vectors - e.buf.length) []) s (got, 0) u) (hsome : got ≠ [])
    (hmore : e.buf.length + got.length < (TailDesc.mk e.desc).vectors) :
    Works (tailStart tile k) s (replaceEpi tile (e.taking got) u) := by
  have hu := (leavesTiles_consumeAll _ _ _ _ _ _).of_reads hgot
  have hfront := (h.of_sameTiles hu).replaced (f := e.taking got) h.not_started rfl rfl
  unfold Works tailStart
  rw [runM_bind_ok (epiNext_front h)]
  dsimp only
  rw [runM_bind_ok (runM_waitFor_true (by rw [htail, hk]; rfl) s), if_pos ⟨hsrc, hcode, by omega⟩,
    runM_bind_ok hgot]
  dsimp only
  rw [runM_bind_ok (runM_waitFor_true (by simp [hsome]) u), runM_bind_ok (runM_putEpi _ _),
    runM_bind_ok (epiNext_front hfront)]
  dsimp only
  rw [if_pos ⟨hsrc, rfl, by rwa [List.length_append]⟩, runM_pure]

/-- The command that runs an issued tail operation of a kind. -/
def runsTail (tile : Nat) : TailKind → Instr
  | .biasAct => .tailBiasAct tile false
  | .addAct => .tailAddAct tile false
  | .mul => .tailMul tile false
  | .norm => .tailNorm tile false
  | .rowstat => .tailRowstat tile false
  | .normApply => .tailNormApply tile false
  | .convert => .tailConvert tile false
  | .split3 => .tailSplit3 tile false
  | .pool => .tailPool tile false
  | .sgd => .tailSgd tile false
  | .adamw => .tailAdamw tile false

theorem exec_runsTail (hp : s.powered = true) (ht : tile < 4352) (k : TailKind) :
    exec (runsTail tile k) s = .next (tileWork tile (tailStart tile k) s) := by
  have hcommand : exec (runsTail tile k) s = whileOn s (tailCommand tile false k s) := by cases k <;> rfl
  rw [hcommand, whileOn_powered _ hp, tailCommand, if_neg (Nat.not_le.mpr ht)]
  rfl

end

end

theorem exec_drainStart {s : State} {tile : Nat} (hp : s.powered = true) (ht : tile < 4352) :
    exec (.drainStart tile) s = .next (tileWork tile (drainStart tile) s) :=
  (whileOn_powered _ hp).trans (by rw [if_pos ht])

theorem exec_setRelease {s : State} {tile : Nat} (hp : s.powered = true) (ht : tile < 4352) :
    exec (.setRelease tile) s = .next (setRelease tile s) :=
  (whileOn_powered _ hp).trans (by rw [if_pos ht])

theorem exec_drainComplete {s : State} {tile : Nat} (cycles : Nat) (hp : s.powered = true) (ht : tile < 4352) :
    exec (.drainComplete tile cycles) s = .next (epiEnd tile false cycles s) :=
  (whileOn_powered _ hp).trans (by rw [if_pos ht])

theorem exec_tailComplete {s : State} {tile : Nat} (cycles : Nat) (hp : s.powered = true) (ht : tile < 4352) :
    exec (.tailComplete tile cycles) s = .next (epiEnd tile true cycles s) :=
  (whileOn_powered _ hp).trans (by rw [if_pos ht])

/-! ### Releases, completion, roll-up (R182, R200, R201, R510) -/

section
variable {s : State} {tile : Nat}

/-- The oldest release whose reader has read its last row takes effect. -/
theorem setRelease_eq {seq set : Nat} (h : (getTile s tile).releases.find? (fun r => r.2.2) = some (seq, set, true)) :
    setRelease tile s = wrAt (pgTile tile) Reg.ACC_SET_RELEASING set
      (natOf (((getTile s tile).releases.filter fun q => q.1 != seq).any fun q => q.2.1 == set))
      (setTile tile { getTile s tile with releases := (getTile s tile).releases.filter fun q => q.1 != seq } s) := by
  unfold setRelease
  dsimp only
  rw [h]

theorem setRelease_releases {seq set : Nat} (h : (getTile s tile).releases.find? (fun r => r.2.2) = some (seq, set, true)) :
    (getTile (setRelease tile s) tile).releases = (getTile s tile).releases.filter (fun q => q.1 != seq) := by
  rw [setRelease_eq h]
  exact congrArg Tile.releases (getTile_setTile_self ..)

theorem natOf_mod_two (b : Bool) : natOf b % 2 = natOf b := by cases b <;> rfl

/-- `RELEASING` shows whether another release of the set waits. -/
theorem rdAt_setRelease {seq set : Nat} (h : (getTile s tile).releases.find? (fun r => r.2.2) = some (seq, set, true)) :
    rdAt (setRelease tile s) (pgTile tile) Reg.ACC_SET_RELEASING set =
      natOf ((getTile (setRelease tile s) tile).releases.any fun q => q.2.1 == set) := by
  rw [setRelease_releases h, setRelease_eq h, rdAt_wrAt_self]
  exact natOf_mod_two _

/-- The front entry of the queue completes with its code once its adds are offered and all it has sent is answered. -/
theorem epiComplete_works {e : EpiOp} {rest : List EpiOp} {tail : Bool} {u : State} (cycles : Nat)
    (hfront : (getTile u tile).epi = e :: rest) (hstarted : e.started = true) (htail : e.tail = tail) (hstats : e.stats = [])
    (hsent : slotsAccepted u tile e.ins = true) (hans : answered u (opWho tile e.ins) = true) :
    Works (epiComplete tile tail cycles) u (after (opWho tile e.ins)
      (completeIns tile e.ins (writeCode u (opWho tile e.ins)) cycles
        (setTile tile { getTile (forgetErrors (opWho tile e.ins) u) tile with epi := rest }
          (forgetErrors (opWho tile e.ins) u)))) := by
  have hdone : (e.started && e.tail == tail && e.stats.isEmpty) = true := by
    rw [hstarted, htail, hstats, beq_self_eq_true]
    rfl
  unfold Works epiComplete
  rw [runM_bind_ok (runM_get u), hfront]
  dsimp only
  rw [runM_bind_ok (runM_waitFor_true hdone u)]
  refine (runM_bind_ok (runM_waitFor_true hsent u)).trans ?_
  rw [runM_bind_ok (codeOf_acknowledged hans)]
  rfl

/-- The counter of a cluster follows its tiles. -/
theorem rd_tailRollup {k : Nat} (hk : k < 256) : rd (tailRollup k s) (pgCluster k) Reg.CL_TAIL_NONFINITE = min (2 ^ 64 - 1)
    ((List.range 17).foldl (fun n i => n + rd s (pgTile (k * 17 + i)) Reg.TAIL_NONFINITE) 0) := by
  have hpage : pgCluster k ≠ pgMonitor := by unfold pgCluster pgMonitor; omega
  unfold tailRollup
  rw [rd_wr_page _ _ (by decide) (by decide) hpage, if_pos hk, rd_wr_self]
  exact Nat.mod_eq_of_lt (by show min _ _ < 2 ^ 64; omega)

end

/-- Settles O36, clause by clause: drains, tail operations, releases, completion and the roll-up. -/
theorem epilogueWork : Obligations.epilogue_work := by
  intro s tile hp ht
  refine ⟨fun e hfront htail => ?drain, fun k e hfront htail hk => ⟨fun hready hreads => ?runs,
    fun got c u hsrc hcode hgot hsome hc hmore => ?takes⟩, fun seq set hrel => ?release,
    fun tail cycles e rest u v hu hepi hstarted htail hstats hsent hans hv => ?complete, fun k hk => ?rollup⟩
  case drain =>
    obtain ⟨hwork, hdone⟩ := (drainStart_endsStarted hfront htail).spec hfront.mem
    exact ⟨_, exec_drainStart hp ht, hwork, hwork ▸ hdone⟩
  case runs =>
    obtain ⟨hwork, hdone⟩ := (tailRun_endsStarted hreads).spec hfront.mem
    have hstep := (tileWork_congr (runM_tailStart_ready hfront htail hk hready)).trans hwork
    exact ⟨_, exec_runsTail hp ht k, hstep, hstep ▸ hdone⟩
  case takes =>
    subst hc
    have hu := (leavesTiles_consumeAll _ _ _ _ _ _).of_reads hgot
    have hworks := tailStart_takes hfront htail hk hsrc hcode hgot hsome hmore
    refine ⟨_, exec_runsTail hp ht k, e.taking got, ?_, rfl, rfl⟩
    rw [tileWork_works hworks, getTile_after]
    exact mem_replaceEpi (e := e) (hu.epi tile ▸ hfront.mem) rfl
  case release => exact ⟨_, exec_setRelease hp ht, setRelease_releases hrel, rdAt_setRelease hrel⟩
  case complete =>
    obtain ⟨e₀, rest₀, hepi₀, hu⟩ := hu
    have hends : epiEnd tile tail cycles s = v := by
      rw [epiEnd, hepi₀, hv, ← tileWork_works (epiComplete_works cycles hepi hstarted htail hstats hsent hans), hu]
    refine ⟨fun hd => ?_, fun hd => ?_⟩
    · rw [exec_drainComplete cycles hp ht, ← hd, hends]
    · rw [exec_tailComplete cycles hp ht, ← hd, hends]
  case rollup => exact ⟨_, whileOn_powered _ hp, rd_tailRollup hk⟩

end Sys2Proof.Machine
end

section
/-! PROOFS. The copy queue at work: SEND and RECV, their completion, and the reports of the cluster pump (R226, R228, R229,
R600). -/

namespace Sys2Proof.Machine

section
variable {s : State} {tile : Nat} {c : CopyOp} {rest : List CopyOp}

/-- Work that gets through is what the command leaves. -/
theorem tileWork_ok {m : M Unit} {v : State} (h : runM m s = (.ok (), v)) :
    tileWork tile m s = after ⟨pgTile tile, 0⟩ (leaves m s) ∧ leaves m s = v := by
  have hleaves : leaves m s = v := congrArg Prod.snd h
  exact ⟨(tileWork_works h).trans (by rw [hleaves]), hleaves⟩

theorem runM_copyFront {send : Bool} (hfront : (getTile s tile).copy = c :: rest) (hkind : (c.ins.opc == O_SEND) = send) :
    runM (copyFront tile send) s = (.ok (c, rest), s) := by
  unfold copyFront
  rw [runM_bind_ok (runM_gets _ s), hfront]
  dsimp only
  rw [runM_bind_ok (runM_waitFor_true (by rw [hkind, beq_self_eq_true]) s), runM_pure]

/-- The front of the copy queue as its run leaves it: a failure ends its copying. -/
def copied (f : CopyOp) (code : Nat) : CopyOp := { f with left := if code = 0 then f.left else 0 }

theorem runM_putCopy (f : CopyOp) (code : Nat) (s : State) : runM (putCopy tile f rest code) s =
    (.ok (), setTile tile { getTile s tile with copy := copied f code :: rest } s) := rfl

/-- A failure of the run is noted, or there is none; the run goes on. -/
theorem getsThrough_onlyIf_noted (w : Who) (b : Bool) (code : Nat) : GetsThrough (onlyIf b (noted w (failWith code))) :=
  .m_ite (getsThrough_noted w code) (.m_pure _)

/-- A SEND whose slots are readable sends them, and stands at the front as the run leaves it (R228). -/
theorem sendRun_runs {f : CopyOp} {k : Nat} {u : State} (hfront : (getTile s tile).copy = c :: rest) (hleft : 0 < c.left)
    (hop : c.ins.opc = O_SEND) (hsent : Reads (sendAll tile c.left c) s (f, k) u) :
    ∃ v, runM (sendRun tile) s = (.ok (), v) ∧ (getTile v tile).copy = copied f k :: rest := by
  obtain ⟨_, v, hnoted, _⟩ := (getsThrough_onlyIf_noted (opWho tile f.ins) (k != 0) k).runM_eq u
  unfold sendRun
  rw [runM_bind_ok (runM_copyFront hfront (by rw [hop]; rfl))]
  dsimp only
  rw [runM_bind_ok (runM_waitFor_true (decide_eq_true hleft) s), runM_bind_ok hsent]
  dsimp only
  rw [runM_bind_ok hnoted, runM_bind_ok (runM_modify _ _), runM_bind_ok (runM_putCopy ..), runM_modify]
  exact ⟨_, rfl, congrArg Tile.copy (getTile_setTile_self ..)⟩

/-- A RECV copies what has come of its records, and stands at the front as the run leaves it (R229). -/
theorem recvRun_runs {f : CopyOp} {k : Nat} {b : Bool} {u : State} (hfront : (getTile s tile).copy = c :: rest)
    (hleft : 0 < c.left) (hop : c.ins.opc ≠ O_SEND)
    (hgot : Reads (recvSome tile false (64 * 256) c) s (f, k, b) u) (hsome : b = true ∨ k ≠ 0) :
    ∃ v, runM (recvRun tile) s = (.ok (), v) ∧ (getTile v tile).copy = copied f k :: rest := by
  obtain ⟨_, v, hnoted, _⟩ := (getsThrough_onlyIf_noted (opWho tile f.ins) (k != 0) k).runM_eq u
  have hdone : (b || k != 0) = true := by rwa [Bool.or_eq_true, bne_iff_ne]
  unfold recvRun
  rw [runM_bind_ok (runM_copyFront hfront (beq_false_of_ne hop))]
  dsimp only
  rw [runM_bind_ok (runM_waitFor_true (decide_eq_true hleft) s), runM_bind_ok hgot]
  dsimp only
  rw [runM_bind_ok (runM_waitFor_true hdone u), runM_bind_ok hnoted, runM_putCopy]
  exact ⟨_, rfl, congrArg Tile.copy (getTile_setTile_self ..)⟩

/-- The front that has no slot left completes with the code of its writes, once all it has sent is answered (R226). -/
theorem copyComplete_works {send : Bool} (cycles : Nat) (hfront : (getTile s tile).copy = c :: rest) (hleft : c.left = 0)
    (hkind : (c.ins.opc == O_SEND) = send) (hsent : slotsAccepted s tile c.ins = true)
    (hans : answered s (opWho tile c.ins) = true) :
    Works (copyComplete tile send cycles) s (completeIns tile c.ins (writeCode s (opWho tile c.ins)) cycles
      (setTile tile { getTile (forgetErrors (opWho tile c.ins) s) tile with copy := rest }
        (forgetErrors (opWho tile c.ins) s))) := by
  unfold Works copyComplete
  rw [runM_bind_ok (runM_copyFront hfront hkind)]
  dsimp only
  rw [runM_bind_ok (runM_waitFor_true (beq_iff_eq.mpr hleft) s), runM_bind_ok (runM_get s)]
  refine (runM_bind_ok (runM_waitFor_true hsent s)).trans ?_
  rw [runM_bind_ok (codeOf_acknowledged hans)]
  rfl

theorem pumpReport_completes {r : Nat × Nat × Nat} {i : Issued} (cycles : Nat)
    (hreport : (getPump s (clusterOf tile)).reports.find? (fun r => r.1 == tile) = some r)
    (hlive : (getTile s tile).live.find? (fun i => i.seq == r.2.1) = some i) :
    pumpReport tile cycles s = completeIns tile i r.2.2 cycles (setPump (clusterOf tile)
      { getPump s (clusterOf tile) with reports := dropFirst (fun q => q == r) (getPump s (clusterOf tile)).reports } s) := by
  unfold pumpReport
  dsimp only
  rw [hreport]
  dsimp only
  rw [show getTile (setPump _ _ s) tile = getTile s tile from rfl, hlive]

end

section
variable {s : State} {tile : Nat} (hp : s.powered = true) (ht : tile < 4352)
include hp ht

theorem exec_sendRun : exec (.send tile false) s = .next (tileWork tile (sendRun tile) s) :=
  (whileOn_powered _ hp).trans (by rw [if_neg (Nat.not_le.mpr ht)]; rfl)

theorem exec_recvRun : exec (.recv tile false) s = .next (tileWork tile (recvRun tile) s) :=
  (whileOn_powered _ hp).trans (by rw [if_neg (Nat.not_le.mpr ht)]; rfl)

theorem exec_sendComplete (cycles : Nat) :
    exec (.sendComplete tile cycles) s = .next (tileWork tile (copyComplete tile true cycles) s) :=
  (whileOn_powered _ hp).trans (by rw [if_pos ht])

theorem exec_recvComplete (cycles : Nat) :
    exec (.recvComplete tile cycles) s = .next (tileWork tile (copyComplete tile false cycles) s) :=
  (whileOn_powered _ hp).trans (by rw [if_pos ht])

end

/-- Settles O37, clause by clause: the front of the copy queue runs, it completes, and a report of the pump. -/
theorem copyWork : Obligations.copy_work := by
  intro s tile hp ht
  refine ⟨fun c rest hfront hleft => ⟨fun f k u hop hsent => ?sends, fun f k b u hop hgot hsome => ?receives⟩,
    fun c rest cycles v hfront hleft hsent hans hv => ⟨fun hop => ?sent, fun hop => ?received⟩,
    fun r i cycles hreport hlive => ?reports⟩
  case sends =>
    obtain ⟨v, hrun, hcopy⟩ := sendRun_runs hfront hleft hop hsent
    obtain ⟨hwork, hleaves⟩ := tileWork_ok (tile := tile) hrun
    exact ⟨_, exec_sendRun hp ht, hwork, by rwa [hwork, hleaves, getTile_after]⟩
  case receives =>
    obtain ⟨v, hrun, hcopy⟩ := recvRun_runs hfront hleft hop hgot hsome
    obtain ⟨hwork, hleaves⟩ := tileWork_ok (tile := tile) hrun
    exact ⟨_, exec_recvRun hp ht, hwork, by rwa [hwork, hleaves, getTile_after]⟩
  case sent =>
    rw [exec_sendComplete hp ht, hv,
      tileWork_works (copyComplete_works cycles hfront hleft (by rw [hop]; rfl) hsent hans)]
  case received =>
    rw [exec_recvComplete hp ht, hv,
      tileWork_works (copyComplete_works cycles hfront hleft (beq_false_of_ne hop) hsent hans)]
  case reports => exact (whileOn_powered _ hp).trans (by rw [pumpReport_completes cycles hreport hlive])

end Sys2Proof.Machine
end

section
/-! PROOFS. A marker notice: what of its channel it records (R810). -/

namespace Sys2Proof.Machine

/-- A notice shows the messages in flight in the 9 bits of `CH_MARK_INFLIGHT`. -/
theorem rdAt_receiveNotice (m : ChanMsg) (credits sent back : Nat) (s : State) :
    rdAt (receiveNotice m credits sent back s) (pgTile m.toTile) Reg.CH_MARK_INFLIGHT m.toCh =
      (sent + 2 ^ 32 - (getChan s m.toTile m.toCh).markGot) % 2 ^ 32 % 2 ^ 9 := by
  have hother : Reg.CH_MARK_INFLIGHT.key (pgTile m.toTile) m.toCh ≠ Reg.CH_MARK_RETURNS.key (pgTile m.toTile) m.toCh := by
    simp only [Field.key, Reg.CH_MARK_INFLIGHT, Reg.CH_MARK_RETURNS]
    omega
  unfold receiveNotice
  rw [setChan_rdAt, rdAt_wrAt_other _ _ hother, rdAt_wrAt_self]
  rfl

/-- A notice of 512 messages sent, to endpoint 0 of tile 0, which has counted none. -/
def noticeOf512 : ChanMsg where
  tile := 1
  ch := 0
  session := 0
  ord := 0
  toTile := 0
  toCh := 0
  stamp := 0
  body := .notice 0 0 512 0

/-- It is all that the fabric holds. -/
def withNotice : State := { State.reset with chanq := [noticeOf512] }

theorem exec_markerNotice_withNotice :
    exec (.markerNotice 0) withNotice = .next (receiveNotice noticeOf512 0 512 0 State.reset) := rfl

/-- Refutes O38: of 512 messages in flight a notice shows 0, since `CH_MARK_INFLIGHT` has 9 bits. -/
theorem not_channelCommands : ¬ Obligations.channel_commands := by
  intro h
  obtain ⟨_, _, _, _, _, hnotice⟩ :=
    h.1 withNotice State.reset 0 noticeOf512 {} rfl rfl rfl rfl rfl rfl
  obtain ⟨t, ht, _, _, hflight⟩ := hnotice 0 0 512 0 rfl
  obtain rfl : t = receiveNotice noticeOf512 0 512 0 State.reset :=
    Host.Outcome.next.inj (ht.symm.trans exec_markerNotice_withNotice)
  exact absurd ((rdAt_receiveNotice noticeOf512 0 512 0 State.reset).symm.trans hflight) (by decide)

end Sys2Proof.Machine
end

section
/-! PROOFS. Work that ends with a code, and its readings. -/

namespace Sys2Proof.Machine

section
variable {α : Type} {s t : State}

/-- The code of work that a code has stopped. -/
theorem runM_codeOf_code {m : M Unit} {c : Nat} (h : runM m s = (.error (.code c), t)) : runM (codeOf m) s = (.ok c, t) := by
  unfold codeOf
  rw [runM_tryCatch, runM_bind_error h]
  rfl

/-- A reading that gets through is not caught. -/
theorem runM_catchCode_ok {m : M α} {a : α} (h : Reads m s a t) : runM (catchCode m) s = (.ok (.ok a), t) := by
  unfold catchCode
  rw [runM_tryCatch, runM_bind_ok h]
  rfl

theorem runM_refuseIf_false {b : Bool} (c : Nat) (h : b = false) (s : State) : runM (refuseIf b c) s = (.ok (), s) := by
  rw [h]
  rfl

theorem runM_refuseIf_true {b : Bool} (c : Nat) (h : b = true) (s : State) : runM (refuseIf b c) s = (.error (.code c), s) := by
  rw [h]
  rfl

theorem runM_refuseSome_none {o : Option Nat} (h : o = none) (s : State) : runM (refuseSome o) s = (.ok (), s) := by
  rw [h]
  rfl

theorem runM_refuseSome_some {o : Option Nat} {c : Nat} (h : o = some c) (s : State) :
    runM (refuseSome o) s = (.error (.code c), s) := by
  rw [h]
  rfl

/-- With every write answered and none failed, the acknowledgement gets through. -/
theorem runM_acknowledged {w : Who} (h : accepted s w = true) : runM (acknowledged w) s = (.ok (), s) := by
  obtain ⟨hans, hnone⟩ := Bool.and_eq_true_iff.mp h
  have hfind : s.bus.writeErr.find? (fun e => e.who == w) = none := by
    rw [List.find?_eq_none]
    intro e he
    simpa using List.all_eq_true.mp hnone e he
  unfold acknowledged
  rw [runM_bind_ok (runM_get s)]
  refine (runM_bind_ok (runM_waitFor_true hans s)).trans ?_
  rw [hfind, runM_pure]

/-- With every write answered, the code of a failed one stops the work. -/
theorem runM_acknowledged_failed {w : Who} (hans : answered s w = true) (hcode : writeCode s w ≠ 0) :
    runM (acknowledged w) s = (.error (.code (writeCode s w)), forgetErrors w s) := by
  unfold writeCode at hcode ⊢
  unfold acknowledged forgetErrors
  rw [runM_bind_ok (runM_get s)]
  refine (runM_bind_ok (runM_waitFor_true hans s)).trans ?_
  cases hfind : s.bus.writeErr.find? fun e => e.who == w with
  | none => rw [hfind] at hcode; exact absurd rfl hcode
  | some e => rfl

end

end Sys2Proof.Machine
end

section
/-! PROOFS. Work-ring entries: how a ring takes one, and how each opcode runs and ends (R219 to R222, R512 to R519, R870 to
R872). -/

namespace Sys2Proof.Machine

/-! ### A ring's entry (R870 to R872) -/

/-- The entry of ring `r` has ended with code `c`. -/
def endedWith (r c : Nat) (t : State) : State := setEntry r { ringEntryOf t r with finished := true, code := c } t

@[simp] theorem ringEntryOf_setEntry (r : Nat) (e : RingEntry) (s : State) : ringEntryOf (setEntry r e s) r = e := look_put_self ..

@[simp] theorem ringEntryOf_after (w : Who) (s : State) (r : Nat) : ringEntryOf (after w s) r = ringEntryOf s r := rfl

section
variable {s t u : State} {r op : Nat} {e : RingEntry}

/-- The entry that a ring takes up, of bytes `b`: a malformed one ends at once. -/
def entryOfBytes (b : List Byte) : RingEntry where
  busy := true
  op := fld b 0 1
  flags := fld b 1 1
  tag := fld b 2 2
  addr := fld b 8 8
  arg0 := fld b 0x10 8
  arg1 := fld b 0x18 8
  finished := entryMalformed b
  code := if entryMalformed b then 0x01C0 else 0

theorem takeRingEntry_works {b : List Byte} (hturn : nextRing s (r / 32) = some r)
    (hread : Reads (ringRead r (ringRd s r Reg.WR_CFG_LOC == 1)
      (ringRd s r Reg.WR_BASE + 64 * (ringRd s r Reg.WR_HEAD % ringSize s r)) 64) (servedRing r s) b u) :
    Works (takeRingEntry r) s (setEntry r (entryOfBytes b) u) := by
  unfold Works takeRingEntry
  rw [runM_bind_ok (runM_get s), runM_bind_ok (runM_waitFor_true (by rw [hturn, beq_self_eq_true]) s),
    runM_bind_ok (runM_modify _ s)]
  dsimp only
  rw [runM_bind_ok (runM_catchCode_ok hread)]
  rfl

/-- An entry that has ended does not run. -/
theorem ringCommand_ended {m : RingEntry → M Unit} (hbusy : (ringEntryOf s r).busy = true)
    (hended : (ringEntryOf s r).finished = true) : ringCommand op r m s = s := by
  simp [ringCommand, hbusy, hended]

section
variable (hp : s.powered = true) (hr : r < 64)
include hp hr

/-- The ring is one of the 64, and the supply is up. -/
theorem ringServed : ¬ ((!s.powered) = true ∨ 64 ≤ r) := by
  rw [hp]
  exact not_or.mpr ⟨Bool.false_ne_true, Nat.not_le.mpr hr⟩

/-- A ring without an entry takes its next one, and runs it. -/
theorem ringCommand_takes {m : RingEntry → M Unit} {w : State} (hidle : (ringEntryOf s r).busy = false)
    (htakes : attempt (ringWho r) (takeRingEntry r) s = w) (hw : w.powered = true) (hbusy : (ringEntryOf w r).busy = true) :
    ringCommand op r m s = ringCommand op r m w := by
  unfold ringCommand
  rw [if_neg (ringServed hp hr), if_neg (ringServed hw hr), hidle, if_neg Bool.false_ne_true, htakes, if_pos hbusy]

/-- An entry runs while its hub die is open. -/
theorem ringCommand_runs {m : RingEntry → M Unit} (hbusy : (ringEntryOf s r).busy = true)
    (hruns : (ringEntryOf s r).finished = false) (hstage : (ringEntryOf s r).stage = 0)
    (hop : (ringEntryOf s r).op = op) (hl : lockState s (ringPage r) = 0) (hm : Works (m (ringEntryOf s r)) s t) :
    ringCommand op r m s = after (ringWho r) t := by
  have hready : ((ringEntryOf s r).busy && !(ringEntryOf s r).finished && (ringEntryOf s r).stage == 0
      && (ringEntryOf s r).op == op && lockState s (ringPage r) == 0) = true := by
    rw [hbusy, hruns, hstage, hop, hl, beq_self_eq_true op]
    rfl
  unfold ringCommand
  rw [if_neg (ringServed hp hr), if_pos hbusy]
  exact (if_pos hready).trans (attempt_works hm)

end

/-! ### NOP, WRITE, ADD, WAIT (R871) -/

theorem endEntry_works (r c : Nat) (s : State) : Works (endEntry r c) s (endedWith r c s) := rfl

theorem endsEntry_works {m : M Unit} {c : Nat} (h : runM (codeOf m) s = (.ok c, t)) :
    Works (endsEntry r m) s (endedWith r c t) := by
  unfold Works endsEntry
  rw [runM_bind_ok h, endEntry_works]

theorem wrWait_works {b : List Byte} (hread : Reads (ringRead r false e.addr 4) s b t) (hmet : e.arg0 % 2 ^ 32 ≤ leNat b) :
    Works (wrWait r e) s (endedWith r 0 t) := by
  refine endsEntry_works (runM_codeOf ?_)
  unfold Works
  rw [runM_bind_ok hread, runM_waitFor_true (decide_eq_true hmet)]

/-! ### LOAD_STEP (R219 to R222) -/

section
variable {b : List Byte} {gs : List Stage}
  (hread : Reads (ringRead r false e.addr (64 * (e.arg0 % 2 ^ 16))) s b u)
  (hgs : gs = (piecesOfList 64 (e.arg0 % 2 ^ 16 + 1) b).map Stage.mk)
include hread hgs

theorem loadStep_refused {c : Nat} (hc : stagesRefused gs = some c) : Works (loadStep r e) s (endedWith r c u) := by
  subst hgs
  refine endsEntry_works (runM_codeOf_code ?_)
  rw [runM_bind_ok hread]
  exact runM_bind_error (runM_refuseSome_some hc u)

theorem loadStep_loads (hok : stagesRefused gs = none) (hload : Works (loadStages r gs) u t) :
    Works (loadStep r e) s (endedWith r 0 t) := by
  subst hgs
  refine endsEntry_works (runM_codeOf ?_)
  unfold Works
  rw [runM_bind_ok hread]
  exact (runM_bind_ok (runM_refuseSome_none hok u)).trans hload

end

/-- A step program of one stage with one unit. -/
theorem loadStages_single {g : Stage} {k : Nat} (hunits : g.units = [k])
    (hload : Works (loadUnit r g (fld g.b 0x10 8) k) u t) : Works (loadStages r [g]) u t := by
  have hunit : Works (loadUnits r g [(k, 0)]) u t := by
    unfold Works loadUnits
    rw [Nat.zero_mul, Nat.add_zero, runM_bind_ok hload]
    rfl
  unfold Works loadStages
  rw [hunits]
  exact (runM_bind_ok hunit).trans rfl

section
variable {g : Stage} {k a : Nat}

/-- A tile gets its image in its well, and START. -/
theorem loadUnit_tile {d : List PByte} {v x : State} (hk : g.kind = 0) (hread : Reads (busRead (ringWho r) a g.size) u d v)
    (hwrite : Reads (busWriteNow (ringWho r) v.bus.nextOrd (wellBase (physicalOf u k) + g.off) d) (numbered v) () x) :
    Works (loadUnit r g a k) u
      (schedStart (physicalOf u k) (wr (pgTile (physicalOf u k)) Reg.SCHED_BASE (g.off + g.hdr) x)) := by
  have hord : runM takeOrd v = (.ok v.bus.nextOrd, numbered v) := rfl
  unfold Works loadUnit
  rw [runM_bind_ok (runM_get u), hk]
  refine (runM_bind_ok hread).trans ?_
  rw [runM_bind_ok hord, runM_bind_ok hwrite, runM_modify]

/-- An attention pipeline gets its image in its program store, and START. -/
theorem loadUnit_pipeline {bytes : List Byte} {v : State} (hk : g.kind = 1) (hl : lockState u (pgAttention k) = 0)
    (hread : Reads (ringRead r false a g.size) u bytes v) :
    Works (loadUnit r g a k) u (apStart k (setPipe k { getPipe v k with
      store := storeImage (getPipe v k).store bytes, header := g.hdr } v)) := by
  unfold Works loadUnit
  rw [runM_bind_ok (runM_get u), hk]
  refine (runM_bind_ok (runM_refuseIf_false _ (bne_eq_false_iff_eq.mpr hl) u)).trans ?_
  rw [runM_bind_ok hread, runM_modify]

/-- A handpump likewise. -/
theorem loadUnit_handpump {bytes : List Byte} {v : State} (hk : g.kind = 2) (hl : lockState u (pgHandpump k) = 0)
    (hread : Reads (ringRead r false a g.size) u bytes v) :
    Works (loadUnit r g a k) u (hpStart k (setHp k { getHp v k with
      store := storeImage (getHp v k).store bytes, header := g.hdr } v)) := by
  unfold Works loadUnit
  rw [runM_bind_ok (runM_get u), hk]
  refine (runM_bind_ok (runM_refuseIf_false _ (bne_eq_false_iff_eq.mpr hl) u)).trans ?_
  rw [runM_bind_ok hread, runM_modify]

end

/-! ### Packs (R512 to R518) -/

/-- A pack that a code stops ends its entry with it. -/
theorem wrExport_refused {c : Nat} (h : runM (exportPack r e) s = (.error (.code c), t)) (hc : c ≠ 0) :
    Works (wrExport r e) s (endedWith r c t) := by
  unfold Works wrExport
  rw [runM_bind_ok (runM_codeOf_code h), if_pos hc, endEntry_works]

/-- One that writes its pack goes on. -/
theorem wrExport_goes (h : Works (exportPack r e) s t) : Works (wrExport r e) s t := by
  unfold Works wrExport
  rw [runM_bind_ok (runM_codeOf h)]
  rfl

/-- The test of the descriptor of a pack, on a well-formed one. -/
theorem exportFormed {d : List Byte} (hform : fld d 0 4 / 512 = 0) (hzero : zeroFrom d 0x28 0x40 = true)
    (hsome : 0 < fld d 4 4) (hmost : fld d 4 4 ≤ 65536) (halign : fld d 8 8 % 32 = 0) :
    (fld d 0 4 / 512 != 0 || !zeroFrom d 0x28 0x40 || fld d 4 4 == 0 || decide (65536 < fld d 4 4)
      || fld d 8 8 % 32 != 0) = false := by
  simp only [Bool.or_eq_false_iff, bne_eq_false_iff_eq, Bool.not_eq_false', beq_eq_false_iff_ne, decide_eq_false_iff_not]
  exact ⟨⟨⟨⟨hform, hzero⟩, Nat.ne_of_gt hsome⟩, Nat.not_lt_of_ge hmost⟩, halign⟩

section
variable {d : List Byte} (hdesc : Reads (ringRead r false e.addr 64) s d u)
include hdesc

theorem exportPack_malformed (hbad : fld d 0 4 / 512 ≠ 0 ∨ zeroFrom d 0x28 0x40 = false ∨ fld d 4 4 = 0 ∨
      65536 < fld d 4 4 ∨ fld d 8 8 % 32 ≠ 0) : runM (exportPack r e) s = (.error (.code 0x0190), u) := by
  have hrefused : (fld d 0 4 / 512 != 0 || !zeroFrom d 0x28 0x40 || fld d 4 4 == 0 || decide (65536 < fld d 4 4)
      || fld d 8 8 % 32 != 0) = true := by
    simpa only [Bool.or_eq_true, bne_iff_ne, Bool.not_eq_true', beq_iff_eq, decide_eq_true_eq, or_assoc] using hbad
  unfold exportPack
  rw [runM_bind_ok hdesc]
  exact runM_bind_error (runM_refuseIf_true _ hrefused u)

section
variable {l : List Byte} {xs : List ExportEntry} {v : State} (hform : fld d 0 4 / 512 = 0) (hzero : zeroFrom d 0x28 0x40 = true)
  (hsome : 0 < fld d 4 4) (hmost : fld d 4 4 ≤ 65536) (halign : fld d 8 8 % 32 = 0)
  (hlist : Reads (ringRead r false (fld d 8 8) (32 * fld d 4 4)) u l v)
  (hxs : xs = (piecesOfList 32 (fld d 4 4 + 1) l).map ExportEntry.mk)
include hform hzero hsome hmost halign hlist hxs

theorem exportPack_refused {c : Nat} (hc : exportRefused v d xs = some c) :
    runM (exportPack r e) s = (.error (.code c), v) := by
  subst hxs
  unfold exportPack
  rw [runM_bind_ok hdesc]
  refine (runM_bind_ok (runM_refuseIf_false _ (exportFormed hform hzero hsome hmost halign) u)).trans ?_
  rw [runM_bind_ok hlist, runM_bind_ok (runM_get v)]
  exact runM_bind_error (runM_refuseSome_some hc v)

theorem exportPack_writes {i : Nat × Bind} {table data h : List Byte} {w x : State}
    (hok : exportRefused v d xs = none) (hbind : v.gen.binds.find? (fun e => e.1 == fld d 0 1) = some i)
    (hdata : Reads (exportEntries r i.2.gen (128 + 64 * fld d 4 4) xs) v (table, data) w)
    (hh : h = packHeader v d (fld d 4 4) i.2.gen (192 + 64 * fld d 4 4 + data.length) ++ table)
    (hwrite : Reads (exportWrite r (bitOf (fld d 0 4) 8) true (fld d 0x10 8) (h ++ data)) w () x) :
    Works (exportPack r e) s (setEntry r { ringEntryOf x r with
      stage := 1, digest := sha256 h, signAt := fld d 0x10 8 + (192 + 64 * fld d 4 4 + data.length) - 64
      toHost := bitOf (fld d 0 4) 8 } x) := by
  subst hh hxs
  unfold Works exportPack
  rw [runM_bind_ok hdesc]
  refine (runM_bind_ok (runM_refuseIf_false _ (exportFormed hform hzero hsome hmost halign) u)).trans ?_
  rw [runM_bind_ok hlist, runM_bind_ok (runM_get v), runM_bind_ok (runM_refuseSome_none hok v), hbind]
  dsimp only
  rw [runM_bind_ok hdata]
  dsimp only
  rw [runM_bind_ok hwrite, runM_modify]

end

end

/-! ### The signature (R517, R519) -/

section
variable (hbusy : (ringEntryOf s r).busy = true) (hruns : (ringEntryOf s r).finished = false)
  (hstage : (ringEntryOf s r).stage = 1)
include hbusy hruns hstage

/-- The entry waits for its signature. -/
theorem runM_exportSign_stage : runM (waitFor ((ringEntryOf s r).busy && !(ringEntryOf s r).finished &&
    (ringEntryOf s r).stage == 1)) s = (.ok (), s) :=
  runM_waitFor_true (by rw [hbusy, hruns, hstage]; rfl) s

/-- A pack whose writes are accepted is signed where the key serves, and the event raised. -/
theorem exportSign_signs {key : Nat} (hacc : accepted s (ringWho r) = true) (hkey : s.tr.key = some key)
    (hopen : keyLocked s = false)
    (hwrite : Reads (exportWrite r (ringEntryOf s r).toHost false (ringEntryOf s r).signAt
      (ecdsaSign key (ringEntryOf s r).digest)) (bump pgLockkeeper Reg.TR_SIGNATURES 1 s) () t) :
    Works (exportSign r) s (raiseBit (ringPage r) 4 (endedWith r 0 t)) := by
  have hsign : keySign (ringEntryOf s r).digest s =
      (some (ecdsaSign key (ringEntryOf s r).digest), bump pgLockkeeper Reg.TR_SIGNATURES 1 s) := by
    simp [keySign, hkey, hopen]
  unfold Works exportSign
  rw [runM_bind_ok (runM_get s)]
  refine (runM_bind_ok (runM_exportSign_stage hbusy hruns hstage)).trans ?_
  refine (runM_bind_ok (runM_codeOf (t := t) ?signed)).trans ?_
  case signed =>
    unfold Works
    rw [runM_bind_ok (runM_acknowledged hacc), runM_bind_ok (runM_get s), hsign]
    exact (runM_bind_ok (runM_set _ s)).trans hwrite
  exact (runM_bind_ok (endEntry_works r 0 t)).trans rfl

/-- Where the key does not serve, the entry ends with 0x0710. -/
theorem exportSign_keyLocked (hacc : accepted s (ringWho r) = true) (hlocked : keyLocked s = true) :
    Works (exportSign r) s (endedWith r 0x0710 (trustRefuse 0x0710 s)) := by
  have hsign : keySign (ringEntryOf s r).digest s = (none, trustRefuse 0x0710 s) := by
    unfold keySign
    split
    · rw [if_pos hlocked]
    · rfl
  unfold Works exportSign
  rw [runM_bind_ok (runM_get s)]
  refine (runM_bind_ok (runM_exportSign_stage hbusy hruns hstage)).trans ?_
  refine (runM_bind_ok (runM_codeOf_code (c := 0x0710) (t := trustRefuse 0x0710 s) ?refused)).trans ?_
  case refused =>
    rw [runM_bind_ok (runM_acknowledged hacc), runM_bind_ok (runM_get s), hsign]
    exact (runM_bind_ok (runM_set _ s)).trans rfl
  exact (runM_bind_ok (endEntry_works r 0x0710 _)).trans rfl

/-- One with a failed write ends with the code of that write. -/
theorem exportSign_failed (hans : answered s (ringWho r) = true) (hcode : writeCode s (ringWho r) ≠ 0) :
    Works (exportSign r) s (endedWith r (writeCode s (ringWho r)) (forgetErrors (ringWho r) s)) := by
  unfold Works exportSign
  rw [runM_bind_ok (runM_get s)]
  refine (runM_bind_ok (runM_exportSign_stage hbusy hruns hstage)).trans ?_
  refine (runM_bind_ok (runM_codeOf_code (runM_bind_error (runM_acknowledged_failed hans hcode)))).trans ?_
  rw [runM_bind_ok (endEntry_works r _ _), if_neg hcode, runM_pure]

end

theorem exec_exportSign (hp : s.powered = true) (hr : r < 64) (h : Works (exportSign r) s t) :
    exec (.exportSign r) s = .next (after (ringWho r) t) :=
  (whileOn_powered _ hp).trans (by rw [hp, decide_eq_true hr, Bool.and_self, if_pos rfl, attempt_works h])

end

/-- Settles O30: a ring takes its entry, which the command of its opcode runs; a written pack is signed. -/
theorem ringEntries : Obligations.ring_entries := by
  intro s r ends hp hr hl hends
  subst hends
  refine ⟨fun b u e w hidle hturn hread he hw hpw => ?takes, fun e he hbusy hruns hstage => ?runs,
    fun e he hbusy hruns hstage => ?signs⟩
  case takes =>
    have htakes : attempt (ringWho r) (takeRingEntry r) s = w := by
      rw [hw, he, attempt_works (takeRingEntry_works hturn hread)]
      rfl
    have hentry : ringEntryOf w r = entryOfBytes b := by
      rw [hw, ringEntryOf_after, ringEntryOf_setEntry, he]
      rfl
    have hsame : ∀ op m, whileOn s (ringCommand op r m s) = whileOn w (ringCommand op r m w) := fun op m => by
      rw [whileOn_powered _ hp, whileOn_powered _ hpw, ringCommand_takes hp hr hidle htakes hpw (by rw [hentry]; rfl)]
    refine ⟨hsame 1 _, hsame 4 _, hsame 6 _, hsame 5 _, hsame 2 _, hsame 3 _, fun hbad => (hsame 1 _).trans ?_⟩
    rw [whileOn_powered _ hpw, ringCommand_ended (by rw [hentry]; rfl) (by rw [hentry]; exact hbad)]
  case runs =>
    subst he
    have hrun : ∀ {op m t}, (ringEntryOf s r).op = op → Works (m (ringEntryOf s r)) s t →
        whileOn s (ringCommand op r m s) = .next (after (ringWho r) t) := fun hop hm => by
      rw [whileOn_powered _ hp, ringCommand_runs hp hr hbusy hruns hstage hop hl hm]
    refine ⟨fun hop => hrun hop (endEntry_works r 0 s), fun t hop => ⟨fun hwrite => ?written, fun c hfails => ?failed⟩,
      fun hop => hrun hop (endsEntry_works (runM_codeOf (runM_modify _ s))),
      fun b t hop hread hmet => hrun hop (wrWait_works hread hmet), fun b u gs hop hread hgs => ?loads,
      fun d n l u v xs hop hdesc hn => ?exports⟩
    case written => exact hrun hop (endsEntry_works (runM_codeOf hwrite))
    case failed => exact hrun hop (endsEntry_works (runM_codeOf_code hfails))
    case loads =>
      refine ⟨fun c hc => hrun hop (loadStep_refused hread hgs hc),
        fun t hok hload => hrun hop (loadStep_loads hread hgs hok hload), fun g k d v hok hone hunit => ?one⟩
      have hends : ∀ {t}, Works (loadUnit r g (fld g.b 0x10 8) k) u t →
          exec (.wrLoadStep r) s = .next (after (ringWho r) (endedWith r 0 t)) := fun hload =>
        hrun hop (loadStep_loads hread hgs hok (hone ▸ loadStages_single hunit hload))
      refine ⟨fun hk himage p x hphys hwrite => ?_, fun bytes hk hopen himage => hends (loadUnit_pipeline hk hopen himage),
        fun bytes hk hopen himage => hends (loadUnit_handpump hk hopen himage)⟩
      subst hphys
      exact hends (loadUnit_tile hk himage hwrite)
    case exports =>
      subst hn
      refine ⟨fun hbad => hrun hop (wrExport_refused (exportPack_malformed hdesc hbad) (by decide)),
        fun hform hzero hsome hmost halign hlist hxs => ⟨fun c hc hrefused => hrun hop (wrExport_refused
          (exportPack_refused hdesc hform hzero hsome hmost halign hlist hxs hrefused) hc),
          fun i table data w h x hok hbind hdata hh hwrite => hrun hop (wrExport_goes
            (exportPack_writes hdesc hform hzero hsome hmost halign hlist hxs hok hbind hdata hh hwrite))⟩⟩
  case signs =>
    subst he
    exact ⟨fun key t hacc hkey hopen hwrite =>
        exec_exportSign hp hr (exportSign_signs hbusy hruns hstage hacc hkey hopen hwrite),
      fun hacc hlocked => exec_exportSign hp hr (exportSign_keyLocked hbusy hruns hstage hacc hlocked),
      fun hans hcode => exec_exportSign hp hr (exportSign_failed hbusy hruns hstage hans hcode)⟩

end Sys2Proof.Machine
end

section
/-! PROOFS. Passes of a scheduler: START, STOP and the begin of a pass (R223, R224, R240, R257, R288, R319). -/

namespace Sys2Proof.Machine

/-! ### The count of steps, `SCHED_STEP` -/

/-- The step count of a tile is as it was. -/
def SameStep (tile : Nat) (s t : State) : Prop :=
  rd t (pgTile tile) Reg.SCHED_STEP = rd s (pgTile tile) Reg.SCHED_STEP

section
variable {tile page i v : Nat} {f : Field} {s t u : State}

theorem SameStep.refl (tile : Nat) (s : State) : SameStep tile s s := rfl

theorem SameStep.trans (h : SameStep tile s t) (k : SameStep tile t u) : SameStep tile s u := Eq.trans k h

theorem SameStep.of_regs (h : t.regs = s.regs) : SameStep tile s t := by
  unfold SameStep rd rdAt
  rw [h]

theorem SameStep.wrAt (h : SameStep tile s t) (hkey : Reg.SCHED_STEP.key (pgTile tile) 0 ≠ f.key page i) :
    SameStep tile s (wrAt page f i v t) :=
  h.trans (rdAt_wrAt_other t v hkey)

/-- Where only endpoints of the tiles and fields of `tile`'s page beyond its step count have changed. -/
structure SameSchedule (tile : Nat) (s t : State) : Prop where
  tiles : SameTiles s t
  step : SameStep tile s t

theorem SameSchedule.refl (tile : Nat) (s : State) : SameSchedule tile s s := ⟨.refl s, .refl tile s⟩

theorem SameSchedule.trans (h : SameSchedule tile s t) (k : SameSchedule tile t u) : SameSchedule tile s u :=
  ⟨h.tiles.trans k.tiles, h.step.trans k.step⟩

theorem SameSchedule.ite {c : Prop} [Decidable c] (h : SameSchedule tile s t) (k : SameSchedule tile s u) :
    SameSchedule tile s (if c then t else u) := by
  split
  · exact h
  · exact k

theorem SameSchedule.foldl {α : Type} {f : State → α → State} (hf : ∀ u a, SameSchedule tile u (f u a)) (l : List α)
    (s : State) : SameSchedule tile s (l.foldl f s) := by
  induction l generalizing s with
  | nil => exact .refl tile s
  | cons a l ih => exact (hf s a).trans (ih _)

/-! ### Endpoints that open (R248, R257) -/

/-- The fields of the endpoints lie behind the step count. -/
theorem SameSchedule.wrAt (h : SameSchedule tile s t) (hf : Reg.SCHED_STEP.bit < f.bit) :
    SameSchedule tile s (wrAt (pgTile tile) f i v t) := by
  refine ⟨h.tiles.wrAt, h.step.wrAt ?_⟩
  simp only [Field.key]
  omega

theorem SameSchedule.setChanState (h : SameSchedule tile s t) (n : Nat) : SameSchedule tile s (setChanState tile n v t) :=
  h.wrAt (by decide)

theorem SameSchedule.putChan (h : SameSchedule tile s t) (n : Nat) (c : Chan) : SameSchedule tile s (putChan tile n c t) :=
  (h.trans ⟨sameTiles_setChan tile n c t, .of_regs rfl⟩).wrAt (by decide)

theorem sameSchedule_sendChan (t ch session toTile toCh : Nat) (b : ChanBody) (s : State) :
    SameSchedule tile s (sendChan t ch session toTile toCh b s) := ⟨sameTiles_sendChan .., .of_regs rfl⟩

theorem sameSchedule_openSend (n : Nat) (c : Chan) (s : State) : SameSchedule tile s (openSend tile n c s) := by
  refine .trans (.setChanState (.wrAt (.putChan ?numbered n _) (by decide)) n) (.foldl (fun _ _ => sameSchedule_sendChan ..) _ _)
  exact ⟨.of_tiles rfl, .of_regs rfl⟩

theorem sameSchedule_answerOpen (n : Nat) (q : OpenReq) (s : State) : SameSchedule tile s (answerOpen tile n q s) :=
  .ite (((SameSchedule.refl tile s).putChan n _).wrAt (by decide) |>.trans (sameSchedule_sendChan ..))
    (sameSchedule_sendChan ..)

theorem sameSchedule_openReceive (n : Nat) (c : Chan) (s : State) : SameSchedule tile s (openReceive tile n c s) :=
  .trans ((((SameSchedule.refl tile s).putChan n _).wrAt (by decide)).setChanState n)
    (.foldl (fun u q => sameSchedule_answerOpen n q u) _ _)

theorem sameSchedule_openChan (n : Nat) (c : Chan) (s : State) : SameSchedule tile s (openChan tile n c s) :=
  .trans ((SameSchedule.refl tile s).wrAt (by decide)) (.ite (sameSchedule_openSend n c _) (sameSchedule_openReceive n c _))

theorem sameSchedule_openEntry (n : Nat) (e : Option (List Byte)) (s : State) :
    SameSchedule tile s (openEntry tile n e s) := by
  have hclosed : ∀ c, SameSchedule tile s (setChanState tile n 0 (putChan tile n c s)) := fun c =>
    ((SameSchedule.refl tile s).putChan n c).setChanState n
  unfold openEntry
  dsimp only
  split
  · exact .ite (sameSchedule_openChan ..) (hclosed _)
  · exact hclosed _

/-! ### START (R223, R224, R257) -/

/-- The tile with the lists of header `hd`, and no step behind it. -/
def withHeader (tile : Nat) (hd : List Byte) (s : State) : State :=
  wr (pgTile tile) Reg.SCHED_STEP 0 (setTile tile { getTile s tile with
    mainBase := fld hd 0 4, mainLen := fld hd 4 4, fillBase := fld hd 8 4, fillLen := fld hd 0xC 4
    chanBase := fld hd 0x10 4, chanCount := fld hd 0x14 4, compBase := fld hd 0x18 4, compLen := fld hd 0x1C 4 } s)

theorem getTile_withHeader (tile : Nat) (hd : List Byte) (s : State) : getTile (withHeader tile hd s) tile =
    { getTile s tile with
      mainBase := fld hd 0 4, mainLen := fld hd 4 4, fillBase := fld hd 8 4, fillLen := fld hd 0xC 4
      chanBase := fld hd 0x10 4, chanCount := fld hd 0x14 4, compBase := fld hd 0x18 4, compLen := fld hd 0x1C 4 } :=
  getTile_setTile_self ..

/-- With a readable header that passes its checks, START loads it and opens the endpoints. -/
theorem startSched_starts {hd : List Byte} {es : List (List Byte)}
    (h : Reads (readHeader tile) (clearSched tile s) (hd, es) u) :
    ∃ v, runM (startSched tile) s = (.ok (), v) ∧ SameSchedule tile (withHeader tile hd u) v := by
  unfold startSched
  rw [runM_bind_ok (runM_modify _ s), runM_bind_ok (runM_catchCode_ok h)]
  exact ⟨_, rfl, .foldl (fun u n => sameSchedule_openEntry n _ u) _ _⟩

end

section
variable {s : State} {tile : Nat} (hp : s.powered = true) (ht : tile < 4352)
include hp ht

section
variable (hw : writable s (pgTile tile) = true) (hawake : look false s.gated (clusterOf tile) = false)
include hw hawake

/-- A write of START that takes effect. -/
theorem exec_schedStart (hfree : rd s (pgTile tile) Reg.SCHED_CTRL_START = 0) :
    exec (.schedStart tile) s = .next (if schedState s tile = 1
      then wr (pgTile tile) Reg.SCHED_CTRL_START 1 (setTile tile { getTile s tile with starting := true } s)
      else tileWork tile (startSched tile) s) := by
  have htakes : ¬ (4352 ≤ tile ∨ (!writable s (pgTile tile)) = true ∨ isSet s (pgTile tile) Reg.SCHED_CTRL_START = true) := by
    simp [isSet, hw, hfree, Nat.not_le.mpr ht]
  change whileOn s (schedStart tile s) = _
  rw [whileOn_powered _ hp, schedStart, if_neg htakes, hawake, if_neg Bool.false_ne_true]

/-- A write of STOP that takes effect. -/
theorem exec_schedStop (hfree : rd s (pgTile tile) Reg.SCHED_CTRL_STOP = 0) :
    exec (.schedStop tile) s = .next (if schedState s tile = 2
      then setSched tile 0 (setTile tile { getTile s tile with loaded := false } s)
      else wr (pgTile tile) Reg.SCHED_CTRL_STOP 1 (setTile tile { getTile s tile with stopping := true } s)) := by
  have htakes : ¬ (4352 ≤ tile ∨ (!writable s (pgTile tile)) = true ∨ isSet s (pgTile tile) Reg.SCHED_CTRL_STOP = true) := by
    simp [isSet, hw, hfree, Nat.not_le.mpr ht]
  change whileOn s (schedStop tile s) = _
  rw [whileOn_powered _ hp, schedStop, if_neg htakes, hawake, if_neg Bool.false_ne_true]

end

/-- A tile at its boundary takes part in the step that is open for its next pass. -/
theorem exec_mainListPassBegin {step : Nat} (hb : schedState s tile = 2)
    (hspare : rd s (pgTile tile) Reg.HA_SPARE_PENDING = 0) (hopen : canReopen tile s = false)
    (hnext : nextPass s (getTile s tile).fresh (rd s (pgTile tile) Reg.GEN_TSTEP) = some step) :
    exec (.mainListPassBegin tile) s = .next (joinStep (pgTile tile) step (wr (pgTile tile) Reg.GEN_TSTEP step
      (wr (pgTile tile) Reg.SCHED_PC_MAIN 0 (setSched tile 1
        (setTile tile { getTile s tile with fresh := false, mainIdx := 0 } s))))) := by
  have hbegins : ¬ (4352 ≤ tile ∨ schedState s tile ≠ 2 ∨ isSet s (pgTile tile) Reg.HA_SPARE_PENDING = true ∨
      canReopen tile s = true) := by
    simp [isSet, hb, hspare, hopen, Nat.not_le.mpr ht]
  change whileOn s (passBegin tile s) = _
  rw [whileOn_powered _ hp, passBegin, if_neg hbegins]
  dsimp only
  rw [hnext]

end

section
variable {s : State} {tile : Nat}

@[simp] theorem schedState_setSched (v : Nat) (s : State) : schedState (setSched tile v s) tile = v % 4 := rd_wr_self ..

/-- A write of the tile's page beside its scheduler's state. -/
theorem schedState_wr {f : Field} {v : Nat} (h : Reg.SCHED_STATUS_STATE.bit ≠ f.bit) :
    schedState (wr (pgTile tile) f v s) tile = schedState s tile := rd_wr_field _ _ _ h

end

/-- Settles O32, clause by clause: START outside and within a pass, the begin of a pass, STOP at a boundary and elsewhere. -/
theorem schedulerPasses : Obligations.scheduler_passes := by
  intro s tile hp ht
  refine ⟨fun hd es u hw hfree hawake hout hread => ?starts, fun hw hfree hawake hin => ?waits,
    fun step hb hspare hopen hnext hstep => ?begins, fun hw hfree hawake hb => ?stops, fun hw hfree hawake hb => ?stopWaits⟩
  case starts =>
    obtain ⟨v, hrun, htiles, hstep⟩ := startSched_starts hread
    obtain ⟨hwork, hleaves⟩ := tileWork_ok (tile := tile) hrun
    have htile : { getTile v tile with chans := [] } = { getTile (withHeader tile hd u) tile with chans := [] } :=
      htiles.same tile
    rw [getTile_withHeader] at htile
    have hzero : rd (withHeader tile hd u) (pgTile tile) Reg.SCHED_STEP = 0 := rd_wr_self ..
    refine ⟨_, (exec_schedStart hp ht hw hawake hfree).trans (by rw [if_neg hout]), hwork, ?_⟩
    rw [hwork, hleaves, getTile_after]
    exact ⟨congrArg Tile.mainBase htile, congrArg Tile.mainLen htile, congrArg Tile.fillBase htile,
      congrArg Tile.fillLen htile, congrArg Tile.compBase htile, congrArg Tile.compLen htile, Eq.trans hstep hzero⟩
  case waits => rw [exec_schedStart hp ht hw hawake hfree, if_pos hin]
  case begins =>
    refine ⟨_, exec_mainListPassBegin hp ht hb hspare hopen hnext, ?state, ?pass, ?counter, ?member⟩
    case state => exact (schedState_wr (by decide)).trans ((schedState_wr (by decide)).trans (schedState_setSched 1 _))
    case pass => exact (rd_wr_self ..).trans (Nat.mod_eq_of_lt hstep)
    case counter => exact (rd_wr_field _ _ _ (by decide)).trans (rd_wr_self ..)
    case member => exact List.mem_append_right _ (List.mem_singleton_self _)
  case stops => rw [exec_schedStop hp ht hw hawake hfree, if_pos hb]
  case stopWaits => rw [exec_schedStop hp ht hw hawake hfree, if_neg hb]

end Sys2Proof.Machine
end

section
/-! PROOFS. What accesses to memory leave of the registers: the step count of every tile (R619 to R629). -/

namespace Sys2Proof.Machine

section
variable {tile : Nat} {s t u : State}

/-- A field of any page at another bit place. -/
theorem SameStep.wr {page v : Nat} {f : Field} (h : SameStep tile s t) (hpage : f.bit < 32768)
    (hplace : f.bit ≠ Reg.SCHED_STEP.bit) : SameStep tile s (wr page f v t) := by
  have hstep : Reg.SCHED_STEP.bit < 32768 := by decide
  refine h.wrAt ?_
  simp only [Field.key]
  omega

theorem SameStep.bump {page n : Nat} {f : Field} (h : SameStep tile s t) (hpage : f.bit < 32768)
    (hplace : f.bit ≠ Reg.SCHED_STEP.bit) : SameStep tile s (bump page f n t) := h.wr hpage hplace

theorem SameStep.ite {c : Prop} [Decidable c] (h : SameStep tile s t) (k : SameStep tile s u) :
    SameStep tile s (if c then t else u) := by
  split
  · exact h
  · exact k

theorem SameStep.foldl {α : Type} {f : State → α → State} (hf : ∀ u a, SameStep tile u (f u a)) (l : List α)
    (s : State) : SameStep tile s (l.foldl f s) := by
  induction l generalizing s with
  | nil => exact .refl tile s
  | cons a l ih => exact (hf s a).trans (ih _)

/-- An event moves the fields of the event ring and `PAGE_INT_STATUS` alone. -/
theorem SameStep.raiseBit {page b : Nat} (h : SameStep tile s t) : SameStep tile s (raiseBit page b t) := by
  refine h.trans (raiseBit_rd page b t ?_)
  simp only [OffEvent, OffRing, Field.key, Reg.SCHED_STEP, Reg.PAGE_INT_STATUS, Reg.HI_EQ_TAIL, Reg.HI_EQ_DROPS,
    Reg.HI_STATUS_EQ_OVERFLOW, pgHost]
  omega

/-! ### Words, units, ranges -/

theorem sameStep_countCorrected (a : Nat) (s : State) : SameStep tile s (countCorrected a s) := by
  unfold countCorrected
  split
  · exact .trans (.bump (.refl tile s) (by decide) (by decide)) (.of_regs rfl)
  · extract_lets c aged counted n mem since lim
    have hsince : SameStep tile s since := .trans (t := counted) (.bump (.of_regs rfl) (by decide) (by decide)) (.of_regs rfl)
    exact .ite (.raiseBit (hsince.wr (by decide) (by decide))) hsince
  · exact .refl tile s

theorem sameStep_countUncorrectable (a : Nat) (s : State) : SameStep tile s (countUncorrectable a s) := by
  have hpoison : SameStep tile s (setPoison (a / 64) true s) := .of_regs rfl
  unfold countUncorrectable
  dsimp only
  split
  · refine .raiseBit (.trans ?_ (.of_regs rfl))
    exact .wr (.wr (.bump hpoison (by decide) (by decide)) (by decide) (by decide)) (by decide) (by decide)
  · refine .raiseBit (.wr (.wr (.bump (.trans hpoison (.of_regs rfl)) ?_ ?_) ?_ ?_) ?_ ?_)
    all_goals decide
  · exact hpoison

theorem sameStep_setCells (a : Nat) (bs : List Byte) (s : State) : SameStep tile s (setCells a bs s) := by
  induction bs generalizing a s with
  | nil => exact .refl tile s
  | cons b bs ih =>
    rw [setCells_cons]
    exact .trans (.of_regs rfl) (ih _ _)

theorem sameStep_readWord (w : Nat) (s : State) : SameStep tile s (readWord w s).2 := by
  have hwrong : ∀ u bs, SameStep tile s u → SameStep tile s (countUncorrectable (w * 8) (setCells (w * 8) bs u)) :=
    fun u bs h => (h.trans (sameStep_setCells ..)).trans (sameStep_countUncorrectable ..)
  have hdrawn : SameStep tile s (setFlips w 0 { s with drawn := s.drawn + 2 }) := .of_regs rfl
  unfold readWord
  dsimp only
  split
  · exact .refl tile s
  split
  · exact .trans (t := setFlips w 0 s) (.of_regs rfl) (sameStep_countCorrected ..)
  split
  · exact hwrong (setFlips w 0 s) _ (.of_regs rfl)
  split
  · exact .of_regs rfl
  split
  · exact hdrawn.trans (sameStep_setCells ..)
  · exact hwrong _ _ hdrawn

theorem sameStep_readWords (n w : Nat) (s : State) : SameStep tile s (readWords n w s).2 := by
  induction n generalizing w s with
  | zero => exact .refl tile s
  | succ n ih =>
    unfold readWords
    have hword := sameStep_readWord (tile := tile) w s
    generalize readWord w s = word at hword ⊢
    by_cases hp : isPoisoned s (w / 8) = true
    · rw [if_pos hp]
      exact ih _ _
    · rw [if_neg hp]
      exact hword.trans (ih _ _)

theorem sameStep_zeroFill (a : Nat) (s : State) : SameStep tile s (zeroFill a s) := by
  unfold zeroFill
  refine .ite (.refl tile s) (.ite ?well ?gddr)
  case well => exact .bump (.of_regs rfl) (by decide) (by decide)
  case gddr => exact .trans (.of_regs rfl) (.foldl (fun u _ => .bump (.refl tile u) (by decide) (by decide)) _ _)

theorem sameStep_writeUnit (a : Nat) (data : List PByte) (s : State) : SameStep tile s (writeUnit a data s) := by
  unfold writeUnit
  extract_lets n unit fresh filled whole partly merged stored cleared bad marked
  have hread : SameStep tile filled merged := by
    refine .ite (.refl tile _) ?_
    split
    · refine .trans (t := if isPoisoned (bump _ Reg.CH_RMW 1 filled) unit then _ else _) (.ite ?_ ?_) (sameStep_readWords ..)
      · exact .bump (.bump (.refl tile _) (by decide) (by decide)) (by decide) (by decide)
      · exact .bump (.refl tile _) (by decide) (by decide)
    · exact .foldl (fun v w => .ite (.refl tile v) (sameStep_readWord w v)) _ _
  have hcleared : SameStep tile stored cleared := by
    refine .foldl (fun v w => ?_) _ _
    exact .ite (.of_regs rfl) (.refl tile v)
  have hmarked : SameStep tile cleared marked := .ite (.of_regs rfl) (.ite (.of_regs rfl) (.refl tile _))
  have hall : SameStep tile s marked :=
    ((((sameStep_zeroFill a s).trans hread).trans (sameStep_setCells ..)).trans hcleared).trans hmarked
  split
  · exact hall.bump (by decide) (by decide)
  · exact hall

theorem sameStep_memWrite (a : Nat) (data : List PByte) (s : State) : SameStep tile s (memWrite a data s) := by
  unfold memWrite
  generalize piecesOf a data.length = ps
  induction ps generalizing data s with
  | nil => exact .refl tile s
  | cons p ps ih => exact (sameStep_writeUnit ..).trans (ih _ _)

theorem sameStep_wellWrite (w : Who) (a : Nat) (d : List PByte) (s : State) : SameStep tile s (wellWrite w a d s) :=
  .ite (.of_regs rfl) (sameStep_memWrite ..)

end

end Sys2Proof.Machine
end

section
/-! PROOFS. The instructions that a scheduler carries out itself (R226 to R240, R264 to R267). -/

namespace Sys2Proof.Machine

/-! ### The head of the main list issues (R232, R233, R241) -/

section
variable {s t u : State} {tile : Nat} {h : Head} {p : Head → M Bool}

/-- The head that stands issues in the state in which it has been read. -/
theorem HeadAt.runM_issueMain (hh : HeadAt s tile p h u) : runM (issueMain tile p) s = runM (issueOne tile h) u := by
  obtain ⟨⟨v, hread, hkind⟩, _, _⟩ := hh
  unfold issueMain
  rw [runM_bind_ok hread]
  dsimp only
  rw [runM_bind_ok (runM_get v), runM_bind_ok hkind, runM_bind_ok (runM_waitFor_true (Bool.or_true _) u)]

/-- A head whose own conditions and checks hold issues, and no code is reported. -/
theorem HeadAt.issueOne_works (hh : HeadAt s tile p h u) (hbody : Works (issueBody tile h) u t) :
    Works (issueOne tile h) u t := by
  have horder : (!bitOf h.flags 1 || (liveOf (getTile u tile) h.ring).isEmpty) = true := by
    rcases hh.order with hflag | hlive
    · rw [hflag]
      rfl
    · rw [hlive]
      exact Bool.or_true _
  unfold Works issueOne headWaits
  rw [runM_tryCatch, runM_bind_ok (runM_get u), runM_bind_ok (runM_waitFor_true horder u), runM_bind_ok (runM_codeOf hbody)]
  rfl

/-- What the command of an issuing head leaves. -/
theorem HeadAt.issueKind_works (hh : HeadAt s tile p h u) (ht : tile < 4352) (hbody : Works (issueBody tile h) u t) :
    issueKind tile p s = after ⟨pgTile tile, 0⟩ t := by
  have hrun := hh.runM_issueMain.trans (hh.issueOne_works hbody)
  unfold issueKind headWork
  rw [if_pos ht, hrun]
  rfl

theorem runM_listChecksM (hlisted : listChecks u tile h = none) : runM (listChecksM tile h) u = (.ok (), u) := by
  unfold listChecksM
  rw [runM_bind_ok (runM_get u), runM_refuseSome_none hlisted]

theorem runM_checkWindows {rs ws : List (Nat × Nat)} (hw : windowCheck u (pgTile tile) h.mb rs ws = none) :
    runM (checkWindows tile h rs ws) u = (.ok (), u) := by
  unfold checkWindows
  rw [runM_bind_ok (runM_get u), runM_refuseSome_none hw]

/-- A head that completes at once always does. -/
theorem settleHead_works (tile : Nat) (h : Head) (tag code : Nat) (s : State) :
    Works (settleHead tile h tag code) s (leaves (settleHead tile h tag code) s) := rfl

/-! ### WAIT, SIGNAL, SEG (R230, R235, R238, R371) -/

theorem issueWait_works {d : List Byte} {v : State} (hlisted : listChecks u tile h = none)
    (hin : beyondWell h.a0 4 = false)
    (hw : windowCheck u (pgTile tile) h.mb [(wellBase tile + h.a0, 4)] [] = none)
    (hread : Reads (readDesc tile h h.a0 4) u d v) (hmet : h.a1 ≤ leNat d) :
    Works (issueWait tile h) u (leaves (settleHead tile h 0 0) v) := by
  unfold Works issueWait
  rw [runM_bind_ok (runM_listChecksM hlisted), runM_bind_ok (runM_refuseIf_false _ hin u),
    runM_bind_ok (runM_checkWindows hw), runM_bind_ok hread, runM_bind_ok (runM_waitFor_true (decide_eq_true hmet) v),
    settleHead_works]

/-- The head has issued: its list has moved on, and it stands among the live instructions. -/
def issuedHead (tile : Nat) (h : Head) (i : Issued) (s : State) : State :=
  advanceList tile h (setTile tile { getTile s tile with
    nextSeq := (getTile s tile).nextSeq + 1, live := (getTile s tile).live ++ [i] } s)

theorem runM_issueHead (i : Issued) (s : State) : runM (issueHead tile h i) s = (.ok (), issuedHead tile h i s) := rfl

theorem live_setWait (ring : Bool) (why : Nat) (s : State) :
    (getTile (setWait tile ring why s) tile).live = (getTile s tile).live := by
  unfold setWait
  dsimp only
  refine (congrArg Tile.live (getTile_setTile_self ..) :).trans ?_
  split
  · rfl
  · rfl

/-- Only the place in the list moves. -/
theorem live_advanceList (h : Head) (s : State) : (getTile (advanceList tile h s) tile).live = (getTile s tile).live := by
  unfold advanceList
  extract_lets page waits x issued moved
  have hwaits : (getTile waits tile).live = (getTile s tile).live := live_setWait ..
  split
  · exact hwaits
  split
  · have hmoved : (getTile moved tile).live = (getTile s tile).live :=
      (congrArg Tile.live (getTile_setTile_self ..) :).trans hwaits
    split
    · exact hmoved
    · exact hmoved
  · exact (congrArg Tile.live (getTile_setTile_self ..) :).trans hwaits

theorem live_issuedHead (h : Head) (i : Issued) (s : State) :
    (getTile (issuedHead tile h i s) tile).live = (getTile s tile).live ++ [i] :=
  (live_advanceList ..).trans (congrArg Tile.live (getTile_setTile_self ..))

theorem issuedHead_bus (h : Head) (i : Issued) (s : State) : (issuedHead tile h i s).bus = s.bus :=
  (keeps_advanceList .rfl (.refl _)).bus.resolve_left (by decide)

theorem pushAdd_adds (w : Who) (a v : Nat) (s : State) : (pushAdd w a v none s).bus.adds =
    s.bus.adds ++ [{ who := w, addr := a, val := v % 2 ^ 32, ord := s.bus.nextOrd }] := rfl

theorem issueSignal_works (hlisted : listChecks u tile h = none)
    (hw : isLocal u (h.a0 + h.a1 * 2 ^ 32) = true →
      windowCheck u (pgTile tile) h.mb [] [(localOf (h.a0 + h.a1 * 2 ^ 32), 4)] = none) :
    Works (issueSignal tile h) u (pushAdd (opWho tile (issuedOf tile h 0 u)) (h.a0 + h.a1 * 2 ^ 32) h.a2 none
      (issuedHead tile h (issuedOf tile h 0 u) u)) := by
  have hissues : runM (do
      issueHead tile h (issuedOf tile h 0 u)
      busAdd (opWho tile (issuedOf tile h 0 u)) (h.a0 + h.a1 * 2 ^ 32) h.a2) u =
      (.ok (), pushAdd (opWho tile (issuedOf tile h 0 u)) (h.a0 + h.a1 * 2 ^ 32) h.a2 none
        (issuedHead tile h (issuedOf tile h 0 u) u)) := runM_bind_ok (runM_issueHead _ u)
  unfold Works issueSignal
  rw [runM_bind_ok (runM_listChecksM hlisted)]
  dsimp only
  rw [runM_bind_ok (runM_get u)]
  split
  · next hl => rw [runM_bind_ok (runM_checkWindows (hw hl)), hissues]
  · exact hissues

/-- The mark of a segment was not zero: the segment counts, and starts where it has instructions. -/
def segStarted (tile : Nat) (h : Head) (w : State) : State :=
  let runs := bump (pgTile tile) Reg.SEG_RUNS 1 w
  if h.a2 = 0 then runs
  else wr (pgTile tile) Reg.SCHED_PC_SEG 0 (wr (pgTile tile) Reg.SCHED_STATUS_IN_SEG 1
    (setTile tile { getTile runs tile with segBase := h.a1, segLen := h.a2, segIdx := 0 } runs))

theorem issueSeg_works {d : List Byte} {v w : State} (hlisted : listChecks u tile h = none)
    (hmark : beyondWell h.a0 8 = false) (hlist : beyondWell h.a1 (16 * h.a2) = false)
    (hw : windowCheck u (pgTile tile) h.mb [(wellBase tile + h.a0, 8)] [] = none)
    (hread : Reads (readDesc tile h h.a0 8) u d v) (hsettled : w = leaves (settleHead tile h 0 0) v) :
    Works (issueSeg tile h) u (if leNat d = 0 then w else segStarted tile h w) := by
  subst hsettled
  unfold Works issueSeg
  rw [runM_bind_ok (runM_listChecksM hlisted),
    runM_bind_ok (runM_refuseIf_false _ (by rw [hmark, hlist, Bool.or_self]) u), runM_bind_ok (runM_checkWindows hw),
    runM_bind_ok hread, runM_bind_ok (settleHead_works tile h 0 0 v)]
  unfold segStarted
  by_cases hzero : leNat d = 0
  · rw [if_neg (not_not_intro hzero), if_pos hzero, runM_pure]
  · rw [if_pos hzero, if_neg hzero, runM_bind_ok (runM_modify _ _)]
    by_cases hnone : h.a2 = 0
    · rw [if_neg (not_not_intro hnone), if_pos hnone, runM_pure]
    · rw [if_pos hnone, if_neg hnone]
      rfl

theorem rd_segStarted_SEG_RUNS (h : Head) (w : State) : rd (segStarted tile h w) (pgTile tile) Reg.SEG_RUNS =
    min (rd w (pgTile tile) Reg.SEG_RUNS + 1) (2 ^ 64 - 1) := by
  have hruns : rd (bump (pgTile tile) Reg.SEG_RUNS 1 w) (pgTile tile) Reg.SEG_RUNS =
      min (rd w (pgTile tile) Reg.SEG_RUNS + 1) (2 ^ 64 - 1) := rdAt_addAt ..
  unfold segStarted
  dsimp only
  split
  · exact hruns
  · rw [rd_wr_field _ _ _ (by decide), rd_wr_field _ _ _ (by decide), setTile_rd, hruns]

theorem segStarted_runs (w : State) (hsome : h.a2 ≠ 0) :
    rd (segStarted tile h w) (pgTile tile) Reg.SCHED_STATUS_IN_SEG = 1 ∧ (getTile (segStarted tile h w) tile).segBase = h.a1 ∧
      (getTile (segStarted tile h w) tile).segLen = h.a2 ∧ (getTile (segStarted tile h w) tile).segIdx = 0 := by
  have htile : getTile (segStarted tile h w) tile = { getTile w tile with segBase := h.a1, segLen := h.a2, segIdx := 0 } := by
    unfold segStarted
    rw [if_neg hsome]
    exact getTile_setTile_self ..
  rw [htile]
  refine ⟨?_, rfl, rfl, rfl⟩
  unfold segStarted
  rw [if_neg hsome, rd_wr_field _ _ _ (by decide), rd_wr_self]
  rfl

/-! ### FILL_ON, FILL_OFF (R264, R267) -/

theorem issueFillOn_works (hlisted : listChecks u tile h = none) (hfree : setFree u tile (bitsOf h.a0 0 1) = true) :
    Works (issueFillOn tile h) u (wr (pgTile tile) Reg.SCHED_STATUS_FILL_SET (bitsOf h.a0 0 1)
      (wr (pgTile tile) Reg.SCHED_STATUS_FILL_OPEN 1 (leaves (settleHead tile h 0 0) u))) := by
  unfold Works issueFillOn
  rw [runM_bind_ok (runM_listChecksM hlisted), runM_bind_ok (runM_get u), runM_bind_ok (runM_waitFor_true hfree u),
    runM_bind_ok (settleHead_works tile h 0 0 u), runM_modify]

theorem issueFillOff_works (hlisted : listChecks u tile h = none)
    (hfree : setFree u tile (rd u (pgTile tile) Reg.SCHED_STATUS_FILL_SET) = true) :
    Works (issueFillOff tile h) u (wr (pgTile tile) Reg.SCHED_STATUS_FILL_OPEN 0 (leaves (settleHead tile h 0 0) u)) := by
  unfold Works issueFillOff
  rw [runM_bind_ok (runM_listChecksM hlisted), runM_bind_ok (runM_get u), if_pos hfree,
    runM_bind_ok (settleHead_works tile h 0 0 u), runM_modify]

/-! ### STEP_END (R233, R240) -/

theorem sameStep_setWait (ring : Bool) (why : Nat) (s : State) : SameStep tile s (setWait tile ring why s) := by
  refine .wr (.wr (.wr (.of_regs rfl) ?_ ?_) ?_ ?_) ?_ ?_
  all_goals decide

theorem sameStep_advanceList (h : Head) (s : State) : SameStep tile s (advanceList tile h s) := by
  unfold advanceList
  extract_lets page waits x issued moved
  have hwaits : SameStep tile s waits := sameStep_setWait ..
  have hmoved : SameStep tile s moved :=
    .wr ((hwaits.bump (by decide) (by decide)).trans (u := setTile _ _ issued) (.of_regs rfl)) (by decide) (by decide)
  refine .ite ?ring (.ite (.ite (hmoved.wr (by decide) (by decide)) hmoved) ?main)
  case ring => exact (hwaits.wr (by decide) (by decide)).bump (by decide) (by decide)
  case main => exact .wr (hwaits.trans (.of_regs rfl)) (by decide) (by decide)

/-- An instruction that completes with code 0 leaves the step count: its completion entry goes to the well (R242). -/
theorem sameStep_completeIns (i : Issued) (cycles : Nat) (s : State) : SameStep tile s (completeIns tile i 0 cycles s) := by
  unfold completeIns
  extract_lets page x removed progress n
  have hprogress : SameStep tile s progress := .bump (.of_regs rfl) (by decide) (by decide)
  rw [if_pos rfl]
  exact .ite (.wr (hprogress.trans (sameStep_wellWrite ..)) (by decide) (by decide)) hprogress

theorem sameStep_settleHead (tile : Nat) (h : Head) (s : State) : SameStep tile s (leaves (settleHead tile h 0 0) s) := by
  have hissued : SameStep tile s (issuedHead tile h (issuedOf tile h 0 s) s) :=
    .trans (.of_regs rfl) (sameStep_advanceList ..)
  exact hissued.trans (sameStep_completeIns ..)

/-- The boundary counts a step, and so does `SCHED_STEP` up to its maximum. -/
theorem rd_toBoundary_SCHED_STEP (s : State) : rd (toBoundary tile s) (pgTile tile) Reg.SCHED_STEP =
    min (rd s (pgTile tile) Reg.SCHED_STEP + 1) (2 ^ 32 - 1) := by
  have hcounts : rd (bump (pgTile tile) Reg.SCHED_STEP 1 s) (pgTile tile) Reg.SCHED_STEP =
      min (rd s (pgTile tile) Reg.SCHED_STEP + 1) (2 ^ 32 - 1) := rdAt_addAt ..
  have hrest : SameStep tile (bump (pgTile tile) Reg.SCHED_STEP 1 s) (toBoundary tile s) := by
    refine .wr (.wr (.of_regs rfl) ?_ ?_) ?_ ?_
    all_goals decide
  exact Eq.trans hrest hcounts

/-- With nothing of its list live, STEP_END completes and brings the tile to its boundary. -/
theorem runM_issueStepEnd (hlisted : listChecks u tile h = none) (hlive : liveOf (getTile u tile) false = []) :
    runM (issueStepEnd tile h) u = runM (reachBoundary tile) (leaves (settleHead tile h 0 0) u) := by
  unfold issueStepEnd
  rw [runM_bind_ok (runM_listChecksM hlisted), runM_bind_ok (runM_get u),
    runM_bind_ok (runM_waitFor_true (by rw [hlive]; rfl) u), runM_bind_ok (settleHead_works tile h 0 0 u)]

section
variable {v w : State} (hw : w = toBoundary tile v)
include hw

/-- A tile at its boundary starts afresh where START stands, … -/
theorem runM_reachBoundary_starting (hstart : (getTile w tile).starting = true) :
    runM (reachBoundary tile) v = runM (startSched tile) w := by
  subst hw
  unfold reachBoundary
  rw [runM_bind_ok (runM_modify _ v), runM_bind_ok (runM_gets _ _), if_pos hstart]

/-- … stops where STOP stands, … -/
theorem reachBoundary_stopping (hstart : (getTile w tile).starting = false) (hstop : (getTile w tile).stopping = true) :
    ∃ x, Works (reachBoundary tile) v x ∧ schedState x tile = 0 := by
  subst hw
  unfold Works reachBoundary
  rw [runM_bind_ok (runM_modify _ v), runM_bind_ok (runM_gets _ _), hstart, hstop, if_neg Bool.false_ne_true, if_pos rfl]
  exact ⟨_, runM_modify _ _, (schedState_wr (by decide)).trans (schedState_setSched 0 _)⟩

/-- … and else stands there. -/
theorem reachBoundary_stands (hstart : (getTile w tile).starting = false) (hstop : (getTile w tile).stopping = false) :
    Works (reachBoundary tile) v w := by
  subst hw
  unfold Works reachBoundary
  rw [runM_bind_ok (runM_modify _ v), runM_bind_ok (runM_gets _ _), hstart, hstop, if_neg Bool.false_ne_true,
    if_neg Bool.false_ne_true, runM_pure]

/-- In each case the work of STEP_END gets through. -/
theorem reachBoundary_works
    (hheader : (getTile w tile).starting = true → ∃ r x, Reads (readHeader tile) (clearSched tile w) r x) :
    Works (reachBoundary tile) v (leaves (reachBoundary tile) v) := by
  have hleaves : ∀ {x}, Works (reachBoundary tile) v x → Works (reachBoundary tile) v (leaves (reachBoundary tile) v) :=
    fun hx => by
      unfold Works leaves at *
      rw [hx]
  cases hstart : (getTile w tile).starting with
  | true =>
    obtain ⟨⟨hd, es⟩, x, hread⟩ := hheader hstart
    obtain ⟨y, hy, _⟩ := startSched_starts hread
    exact hleaves ((runM_reachBoundary_starting hw hstart).trans hy)
  | false =>
    cases hstop : (getTile w tile).stopping with
    | true =>
      obtain ⟨x, hx, _⟩ := reachBoundary_stopping hw hstart hstop
      exact hleaves hx
    | false => exact hleaves (reachBoundary_stands hw hstart hstop)

end

/-! ### SIGNAL's acknowledgement (R226) -/

theorem signalAcked_of_answered {i : Issued} (h : answered s (opWho tile i) = true) :
    signalAcked tile i s = some (writeCode s (opWho tile i)) := by
  unfold signalAcked
  rw [codeOf_acknowledged h]

theorem isSome_signalAcked (i : Issued) : (signalAcked tile i s).isSome = answered s (opWho tile i) := by
  cases h : answered s (opWho tile i) with
  | true =>
    rw [signalAcked_of_answered h]
    rfl
  | false =>
    unfold signalAcked
    rw [codeOf_acknowledged_hold h]
    rfl

theorem signalAck_completes {i : Issued} (cycles : Nat)
    (hfirst : (getTile s tile).live.find? (fun i => i.opc == O_SIGNAL && answered s (opWho tile i)) = some i) :
    signalAck tile cycles s =
      completeIns tile i (writeCode s (opWho tile i)) cycles (forgetErrors (opWho tile i) s) := by
  have hans : answered s (opWho tile i) = true := (Bool.and_eq_true_iff.mp (List.find?_some hfirst :)).2
  unfold signalAck
  simp only [isSome_signalAcked]
  rw [hfirst]
  dsimp only
  rw [signalAcked_of_answered hans, codeOf_acknowledged hans]
  rfl

end

/-! ### The work of each opcode (R225) -/

section
variable {h : Head} (tile : Nat)

theorem issueBody_wait (hopc : h.opc = 7) : issueBody tile h = issueWait tile h := by simp only [issueBody, hopc]
theorem issueBody_signal (hopc : h.opc = 8) : issueBody tile h = issueSignal tile h := by simp only [issueBody, hopc]
theorem issueBody_seg (hopc : h.opc = 9) : issueBody tile h = issueSeg tile h := by simp only [issueBody, hopc]
theorem issueBody_fillOn (hopc : h.opc = 10) : issueBody tile h = issueFillOn tile h := by simp only [issueBody, hopc]
theorem issueBody_fillOff (hopc : h.opc = 11) : issueBody tile h = issueFillOff tile h := by simp only [issueBody, hopc]
theorem issueBody_stepEnd (hopc : h.opc = 12) : issueBody tile h = issueStepEnd tile h := by simp only [issueBody, hopc]

end

/-- Settles O34, clause by clause: each instruction of the scheduler issues and completes, and a SIGNAL's add is answered. -/
theorem schedulerInstructions : Obligations.scheduler_instructions := by
  intro s tile hp ht
  refine ⟨fun u h => ?issues, fun i cycles hfirst => ?ack⟩
  case issues =>
    have hexec : ∀ {o m t}, HeadAt s tile (isOpc o) h u → issueBody tile h = m → Works m u t →
        whileOn s (issueKind tile (isOpc o) s) = .next (after ⟨pgTile tile, 0⟩ t) := fun hh hbody hworks => by
      rw [whileOn_powered _ hp, hh.issueKind_works ht (hbody ▸ hworks)]
    refine ⟨fun d v hh hopc hin hw hread hmet => ?wait, fun i hh hopc hi hw => ?signal,
      fun d v w hh hopc hmark hlist hw hread hsettled => ?seg,
      fun hh hopc hfree => hexec hh (issueBody_fillOn tile hopc) (issueFillOn_works hh.listed hfree),
      fun hh hopc hfree => hexec hh (issueBody_fillOff tile hopc) (issueFillOff_works hh.listed hfree),
      fun w hh hopc hlive hw hheader => ?stepEnd⟩
    case wait =>
      have hissues := hexec hh (issueBody_wait tile hopc) (issueWait_works hh.listed hin hw hread hmet)
      exact ⟨hissues, hissues⟩
    case signal =>
      subst hi
      refine ⟨_, hexec hh (issueBody_signal tile hopc) (issueSignal_works hh.listed hw), live_issuedHead .., ?_⟩
      exact (pushAdd_adds ..).trans (by rw [issuedHead_bus])
    case seg =>
      have hissues := hexec hh (issueBody_seg tile hopc) (issueSeg_works hh.listed hmark hlist hw hread hsettled)
      refine ⟨fun hzero => hissues.trans (by rw [if_pos hzero]), fun hsome =>
        ⟨after ⟨pgTile tile, 0⟩ (segStarted tile h w), hissues.trans (by rw [if_neg hsome]),
          rd_segStarted_SEG_RUNS h w, segStarted_runs w⟩⟩
    case stepEnd =>
      have hreach : Works (issueStepEnd tile h) u (leaves (reachBoundary tile) (leaves (settleHead tile h 0 0) u)) :=
        (runM_issueStepEnd hh.listed hlive).trans (reachBoundary_works hw hheader)
      refine ⟨_, hexec hh (issueBody_stepEnd tile hopc) hreach, ?counts, fun hstart hstop => ?stands, fun hstart hstop => ?stops,
        fun hstart => ?starts⟩
      case counts => rw [hw, rd_toBoundary_SCHED_STEP, sameStep_settleHead tile h u]
      case stands => rw [leaves, reachBoundary_stands hw hstart hstop]
      case stops =>
        obtain ⟨x, hx, hstate⟩ := reachBoundary_stopping hw hstart hstop
        rw [leaves, hx]
        exact hstate
      case starts => rw [leaves, runM_reachBoundary_starting hw hstart, leaves]
  case ack => exact (whileOn_powered _ hp).trans (by rw [if_pos ht, signalAck_completes cycles hfirst])

end Sys2Proof.Machine
end

section
/-! PROOFS. READY, VETO, the deadline, the decision and its acknowledgement (R294, R320 to R327). -/

namespace Sys2Proof.Machine

section
variable {s u : State} {d : Decision} {m : M Unit} {step rank : Nat}

/-! ### A decision goes out (R325 to R328) -/

theorem Decision.eq_commit (hcommit : d.commit = true) (hcause : d.cause = 0) (hrank : d.rank = 0) :
    d = { step := d.step, commit := true, gen := d.gen } := by
  cases d
  cases hcommit
  cases hcause
  cases hrank
  rfl

theorem Decision.eq_abort (habort : d.commit = false) (hgen : d.gen = 0) :
    d = { step := d.step, commit := false, cause := d.cause, rank := d.rank } := by
  cases d
  cases habort
  cases hgen
  rfl

/-- The coordinator may decide on its current step. -/
structure Undecided (s : State) (step : Nat) : Prop where
  coordinates : genRank s = 0
  undecided : s.gen.decision = none
  current : currentStep s = some step
  notAborting : s.gen.aborting = none

/-- Only a commit can be turned into an abort, by a G at its maximum (R294). -/
theorem Decision.held_abort (h : d.commit = false) (s : State) : d.held s = d := by simp [Decision.held, h]

theorem tellMembers_works (h : Told d s u) : Works (tellMembers d) s u := by
  obtain ⟨map, x, hmap, rfl⟩ := h
  exact runM_bind_ok hmap

theorem publish_works (h : Published d s u) : Works (publish d) s u := by
  unfold Works publish
  rw [runM_bind_ok (runM_get s), runM_ite]
  rcases h with ⟨hsize, hmark, rfl⟩ | ⟨hall, htold⟩
  · rw [if_neg (by simp [hsize, hmark])]
    rfl
  · rw [if_pos hall]
    exact tellMembers_works htold

theorem decideStep_works (h : Undecided s d.step)
    (hout : Published (d.held s) { s with gen := { s.gen with decision := some (d.held s) } } u) :
    Works (decideStep d) s u := by
  have hmay : (genRank s == 0 && s.gen.decision.isNone && currentStep s == some d.step &&
      s.gen.aborting.isNone) = true := by
    simp [h.coordinates, h.undecided, h.current, h.notAborting]
  unfold Works decideStep
  rw [runM_bind_ok (runM_get s), runM_bind_ok (by rw [runM_waitFor, hmay]; rfl), runM_bind_ok (runM_set _ _)]
  exact publish_works hout

/-- An ABORT is decided as it stands. -/
theorem decideStep_aborts (h : Undecided s d.step) (habort : d.commit = false)
    (hout : Published d { s with gen := { s.gen with decision := some d } } u) : Works (decideStep d) s u :=
  decideStep_works h (by rwa [Decision.held_abort habort])

/-! ### Messages at the coordinator (R321, R325, R326) -/

theorem coordinator_stray (m : M Unit) (h : currentStep s ≠ some step) : Works (coordinator step m) s (stray s) := by
  unfold Works coordinator
  rw [runM_bind_ok (runM_get s), runM_ite, if_pos h, runM_modify]

theorem coordinator_works (h : Undecided s step) (hm : Works m s u) : Works (coordinator step m) s u := by
  unfold Works coordinator
  rw [runM_bind_ok (runM_get s), runM_ite, if_neg (not_not_intro h.current), runM_ite,
    if_neg (by simp [h.coordinates, h.undecided, h.notAborting])]
  exact hm

section
variable (hnew : rank ∉ s.gen.readyRanks)
include hnew

/-- A READY that is not the last of its group is kept. -/
theorem coordReady_keeps (hmore : (List.range (genSize s)).all (s.gen.readyRanks ++ [rank]).contains = false) :
    Works (coordReady step rank) s { s with gen := { s.gen with readyRanks := s.gen.readyRanks ++ [rank] } } := by
  unfold Works coordReady
  rw [runM_bind_ok (runM_get s)]
  simp only [List.contains_iff_mem, if_neg hnew]
  rw [runM_bind_ok (runM_set _ _), runM_ite, if_neg (Bool.not_eq_true _ ▸ hmore), runM_pure]

/-- The last READY makes the coordinator decide COMMIT. -/
theorem coordReady_decides (hall : (List.range (genSize s)).all (s.gen.readyRanks ++ [rank]).contains = true)
    (hdecide : Works (decideStep { step := step, commit := true, gen := (committed s + 1) % 2 ^ 32 })
      { s with gen := { s.gen with readyRanks := s.gen.readyRanks ++ [rank] } } u) :
    Works (coordReady step rank) s u := by
  unfold Works coordReady
  rw [runM_bind_ok (runM_get s)]
  simp only [List.contains_iff_mem, if_neg hnew]
  rw [runM_bind_ok (runM_set _ _), runM_ite, if_pos hall]
  exact hdecide

end

theorem exec_ready (hp : s.powered = true) (h : Works (readyArrives step rank) s u) :
    exec (.ready step rank) s = .next (after genWho u) :=
  (whileOn_powered _ hp).trans (by rw [attempt_works h])

theorem exec_veto {code : Nat} (hp : s.powered = true) (h : Works (vetoArrives step code rank) s u) :
    exec (.veto step code rank) s = .next (after genWho u) :=
  (whileOn_powered _ hp).trans (by rw [attempt_works h])

theorem exec_ack (hp : s.powered = true) (h : Works (ackArrives step) s u) :
    exec (.ack step) s = .next (after genWho u) :=
  (whileOn_powered _ hp).trans (by rw [attempt_works h])

theorem ackArrives_stray (h : currentStep s ≠ some step) : Works (ackArrives step) s (stray s) := by
  unfold Works ackArrives
  rw [runM_bind_ok (runM_get s), runM_ite, if_pos h, runM_modify]

/-- The first ACK lets the coordinator tell the members. -/
theorem ackArrives_tells (hcur : currentStep s = some step) (hrank : genRank s = 0) (hd : s.gen.decision = some d)
    (htold : s.gen.told = false) (h : Told d s u) : Works (ackArrives step) s u := by
  unfold Works ackArrives
  rw [runM_bind_ok (runM_get s), runM_ite, if_neg (not_not_intro hcur), hd]
  dsimp only
  rw [runM_ite, if_pos ⟨hrank, by rw [htold]; rfl⟩]
  exact tellMembers_works h

theorem commitDeadline_decides {us : Nat} (h : Undecided s step) (hon : rd s pgGeneration Reg.GEN_DEADLINE ≠ 0)
    (hus : rd s pgGeneration Reg.GEN_DEADLINE ≤ us) (hphase : 2 ≤ phase s)
    (hdecide : Works (decideStep { step := step, commit := false, cause := 0x0623, rank := 0 }) s u) :
    commitDeadline us s = after genWho u := by
  simp only [commitDeadline, h.current]
  rw [if_neg (by omega), attempt_works hdecide]

/-! ### The evaluation of a step that is ready (R320) -/

/-- Work that leaves the mark of an evaluated step as it is. -/
def LeavesEvaluated {α : Type} (m : M α) : Prop := ∀ s, (runM m s).2.gen.evaluated = s.gen.evaluated

theorem LeavesEvaluated.of_holds {α : Type} {M : Nat} {m : Machine.M α} (h : Holds M m) (hM : M.testBit 7 = false) :
    LeavesEvaluated m := fun s => by
  rcases (h s).gen with hbit | hgen
  · rw [hM] at hbit
    cases hbit
  · rw [hgen]

theorem LeavesEvaluated.m_bind {α β : Type} {m : M α} {f : α → M β} (h : LeavesEvaluated m)
    (k : ∀ a, LeavesEvaluated (f a)) : LeavesEvaluated (m >>= f) := by
  intro s
  have hs := h s
  rw [runM_bind]
  split
  · next e => rw [k, ← hs, e]
  · next e => rw [← hs, e]

theorem LeavesEvaluated.m_ite {α : Type} {c : Prop} [Decidable c] {m n : M α} (h : LeavesEvaluated m)
    (k : LeavesEvaluated n) : LeavesEvaluated (if c then m else n) := by
  split
  · exact h
  · exact k

/-- Of what the generation unit holds, a cause of a veto moves only the list of causes. -/
theorem vetoStep_vetoes (step code : Nat) (s : State) :
    ∃ vs, vetoStep step code s = { s with gen := { s.gen with vetoes := vs } } := by
  unfold vetoStep
  dsimp only
  split
  · exact ⟨_, rfl⟩
  · exact ⟨_, rfl⟩

theorem vetoStep_evaluated (step code : Nat) (s : State) : (vetoStep step code s).gen.evaluated = s.gen.evaluated := by
  obtain ⟨vs, hvs⟩ := vetoStep_vetoes step code s
  rw [hvs]

theorem leavesEvaluated_refuseEntry (step code : Nat) : LeavesEvaluated (refuseEntry step code) := by
  intro s
  have hlog : (logErr pgGeneration code 0 s).gen = s.gen := (keeps_logErr .rfl (.refl s)).gen.resolve_left (by decide)
  refine (vetoStep_evaluated ..).trans ?_
  split
  · rfl
  · rw [hlog]

theorem leavesEvaluated_scaleUpdates (step : Nat) (es : List OpenEntry) : LeavesEvaluated (scaleUpdates step es) := by
  induction es with
  | nil => exact fun _ => rfl
  | cons e es ih =>
    have hscale : ∀ a r, LeavesEvaluated (codeOf (scaleUpdate a r)) := fun a r =>
      .of_holds (fun s => keeps_codeOf (fun h => keeps_scaleUpdate .rfl h) (.refl s)) rfl
    refine .m_bind (fun _ => rfl) fun s => .m_ite (.m_bind (hscale _ _) fun c => .m_ite ?_ ih) ih
    exact .m_bind (leavesEvaluated_refuseEntry _ _) fun _ => ih

theorem evaluateStep_evaluated (h : Reads (evaluateStep step) s () u) : u.gen.evaluated = true := by
  unfold Reads evaluateStep at h
  rw [runM_bind_ok (runM_get s), runM_bind_ok (runM_set _ _), runM_ite] at h
  split at h
  · cases h
    exact vetoStep_evaluated ..
  · have hleft := leavesEvaluated_scaleUpdates step s.gen.listed
      { (lossEvaluate step s).1 with gen := { (lossEvaluate step s).1.gen with evaluated := true } }
    rwa [h] at hleft

/-! ### MODULE_READY (R320 to R322, R336) -/

/-- The module has not answered for its current step yet, and may. -/
structure MayAnswer (s : State) : Prop where
  notAborting : s.gen.aborting = none
  readyDue : s.gen.readySent = false
  vetoDue : s.gen.vetoSent = false
  unlocked : lockState s pgGeneration = 0

theorem MayAnswer.gate (h : MayAnswer s) : (s.gen.aborting.isNone && !s.gen.readySent && !s.gen.vetoSent &&
    decide (lockState s pgGeneration = 0)) = true := by
  simp [h.notAborting, h.readyDue, h.vetoDue, h.unlocked]

theorem MayAnswer.runM_gate (h : MayAnswer s) : runM (waitFor (s.gen.aborting.isNone && !s.gen.readySent &&
    !s.gen.vetoSent && decide (lockState s pgGeneration = 0))) s = (.ok (), s) := by
  rw [runM_waitFor, h.gate]
  rfl

theorem noteCauses_vetoes (step : Nat) (s : State) :
    ∃ vs, noteCauses step s = { s with gen := { s.gen with vetoes := vs } } := by
  have hhalted : ∃ vs, (if haltedUnits s step then vetoStep step 0x0621 s else s) =
      { s with gen := { s.gen with vetoes := vs } } := by
    split
    · exact vetoStep_vetoes ..
    · exact ⟨_, rfl⟩
  obtain ⟨vs, hvs⟩ := hhalted
  unfold noteCauses
  dsimp only
  rw [hvs]
  split
  · obtain ⟨ws, hws⟩ := vetoStep_vetoes step 0x0620 { s with gen := { s.gen with vetoes := vs } }
    exact ⟨ws, hws⟩
  · exact ⟨vs, rfl⟩

@[simp] theorem noteCauses_rd (step : Nat) (s : State) (page : Nat) (f : Field) :
    rd (noteCauses step s) page f = rd s page f := by
  obtain ⟨vs, hvs⟩ := noteCauses_vetoes step s
  rw [hvs]
  rfl

theorem MayAnswer.noteCauses (h : MayAnswer s) (step : Nat) : MayAnswer (noteCauses step s) := by
  obtain ⟨vs, hvs⟩ := noteCauses_vetoes step s
  rw [hvs]
  exact ⟨h.notAborting, h.readyDue, h.vetoDue, h.unlocked⟩

theorem exec_moduleReady (hp : s.powered = true) (hcur : currentStep s = some step) :
    exec .moduleReady s = .next (moduleReady step s) := by
  refine (whileOn_powered _ hp).trans ?_
  rw [hcur]

/-- Nothing stands against the READY of step `step`: no cause for a veto, the conditions of R320, no round that copies. -/
structure ReadyHere (s : State) (step : Nat) : Prop where
  mayAnswer : MayAnswer s
  noneHalted : haltedUnits s step = false
  gradients : gradientVeto s step = false
  unvetoed : vetoed s step = false
  ready : stepReady s step = true
  noRound : s.res.round = none

theorem ReadyHere.noteCauses_self (h : ReadyHere s step) : noteCauses step s = s := by
  simp [noteCauses, h.noneHalted, h.gradients]

theorem ReadyHere.moduleEvaluate_works (h : ReadyHere s step) (heval : Reads (evaluateStep step) s () u) :
    Works (moduleEvaluate step) s u := by
  unfold Works moduleEvaluate
  rw [runM_bind_ok (runM_get s), runM_bind_ok h.mayAnswer.runM_gate,
    runM_bind_ok (by rw [runM_waitFor, h.ready, h.noRound]; rfl)]
  exact heval

/-- Work that waits for `b` and then for something else waits, whatever `b` is. -/
theorem runM_waitFor_hold {α : Type} {b : Bool} {f : Unit → M α} (h : runM (f ()) s = (.error .hold, s)) :
    runM (waitFor b >>= f) s = (.error .hold, s) := by
  cases b
  · rfl
  · exact (runM_bind_ok rfl).trans h

/-- Without a cause for a veto the module answers nothing while a write of the evaluation is unanswered. -/
theorem moduleAnswer_waits (hcause : vetoed s step = false) (hans : answered s genWho = false) :
    runM (moduleAnswer step) s = (.error .hold, s) := by
  unfold moduleAnswer
  rw [runM_bind_ok (runM_get s)]
  refine runM_waitFor_hold ?_
  rw [runM_ite, if_neg (Bool.not_eq_true _ ▸ hcause)]
  exact runM_waitFor_hold (runM_bind_error (codeOf_acknowledged_hold hans))

/-- MODULE_READY of a step that is ready evaluates it, and then waits for the evaluation's writes. -/
theorem ReadyHere.moduleReady_evaluates (h : ReadyHere s step) (hdue : s.gen.evaluated = false)
    (heval : Reads (evaluateStep step) s () u) (hnone : vetoed u step = false) (hans : answered u genWho = false) :
    (moduleReady step s).gen.evaluated = true := by
  have hmade : attempt genWho (moduleEvaluate step) s = after genWho u := attempt_works (h.moduleEvaluate_works heval)
  have hwaits : runM (moduleAnswer step) (after genWho u) = (.error .hold, after genWho u) := moduleAnswer_waits hnone hans
  unfold moduleReady
  dsimp only
  rw [h.noteCauses_self, hdue, h.unvetoed, if_neg (by decide), hmade, attempt_hold hwaits]
  exact (evaluateStep_evaluated heval : u.gen.evaluated = true)

@[simp] theorem forgetErrors_gen (w : Who) (s : State) : (forgetErrors w s).gen = s.gen := by
  unfold forgetErrors
  split
  · rfl
  · rfl

@[simp] theorem forgetErrors_rd (w : Who) (s : State) (page : Nat) (f : Field) :
    rd (forgetErrors w s) page f = rd s page f := by
  unfold forgetErrors
  split
  · rfl
  · rfl

/-- With the writes of an evaluated step acknowledged, MODULE_READY sends the READY. -/
theorem ReadyHere.moduleReady_sends (h : ReadyHere s step) (hmade : s.gen.evaluated = true)
    (hans : answered s genWho = true) (hcode : writeCode s genWho = 0)
    (hsend : Works (sendReady step) (forgetErrors genWho s) u) : moduleReady step s = after genWho u := by
  have hworks : Works (moduleAnswer step) s u := by
    unfold Works moduleAnswer
    rw [runM_bind_ok (runM_get s), runM_bind_ok h.mayAnswer.runM_gate, runM_ite, if_neg (Bool.not_eq_true _ ▸ h.unvetoed),
      runM_bind_ok (by rw [runM_waitFor, hmade, h.ready, h.noRound]; rfl), runM_bind_ok (codeOf_acknowledged hans), hcode]
    exact hsend
  unfold moduleReady
  dsimp only
  rw [h.noteCauses_self, hmade]
  exact attempt_works hworks

/-- The state from which a module sends its READY. -/
def readied (s : State) : State := setPhase 3 { s with gen := { s.gen with readySent := true } }

/-- Of the generation unit's registers only the phase has moved. -/
theorem rd_readied (s : State) {f : Field} (h : f.bit ≠ Reg.GEN_STATUS_PHASE.bit) :
    rd (readied s) pgGeneration f = rd s pgGeneration f := by
  rw [readied, setPhase, rd_wr_field _ _ _ h]
  rfl

theorem genRank_readied (s : State) : genRank (readied s) = genRank s := rd_readied s (by decide)
theorem genSize_readied (s : State) : genSize (readied s) = genSize s := congrArg (· + 1) (rd_readied s (by decide))
theorem coordModule_readied (s : State) : coordModule (readied s) = coordModule s := rd_readied s (by decide)
theorem committed_readied (s : State) : committed (readied s) = committed s := rd_readied s (by decide)
theorem phase_readied (s : State) : phase (readied s) = 3 := phase_setPhase 3 _

theorem sendReady_member (hrank : genRank s ≠ 0) : Works (sendReady step) s (sendMessage pgGeneration 0x01 (coordModule s)
    (controlData step ((committed s + 1) % 2 ^ 32) 0 (genRank s) 0) (readied s)) := by
  unfold Works sendReady
  rw [runM_bind_ok (t := readied s) (by rfl), runM_bind_ok (runM_get _), runM_ite, genRank_readied, if_neg hrank,
    runM_modify, coordModule_readied, committed_readied]

/-- The coordinator counts its own READY. -/
theorem sendReady_coordinator (hrank : genRank s = 0) (hnone : s.gen.decision = none)
    (h : Works (coordReady step 0) (readied s) u) : Works (sendReady step) s u := by
  have hopen : (readied s).gen.decision.isNone = true := Option.isNone_iff_eq_none.mpr hnone
  unfold Works sendReady
  rw [runM_bind_ok (t := readied s) (by rfl), runM_bind_ok (runM_get _), runM_ite, genRank_readied, if_pos hrank, runM_ite,
    if_pos hopen]
  exact h

/-- It keeps it while others are missing. -/
theorem sendReady_counts (hrank : genRank s = 0) (hnone : s.gen.decision = none) (hnew : 0 ∉ s.gen.readyRanks)
    (hmore : (List.range (genSize s)).all (s.gen.readyRanks ++ [0]).contains = false) : Works (sendReady step) s
      { readied s with gen := { (readied s).gen with readyRanks := s.gen.readyRanks ++ [0] } } :=
  sendReady_coordinator hrank hnone (coordReady_keeps hnew (by rwa [genSize_readied]))

/-- A cause for a veto makes a member send VETO with its code. -/
theorem sendVetoIf_member {v : Nat × Nat} (hfirst : s.gen.vetoes.find? (fun v => v.1 == step) = some v)
    (hdue : s.gen.vetoSent = false) (hrank : genRank s ≠ 0) : Works (sendVetoIf step) s
      (sendMessage pgGeneration 0x02 (coordModule s) (controlData step 0 v.2 (genRank s) 0)
        { s with gen := { s.gen with vetoSent := true } }) := by
  unfold Works sendVetoIf
  rw [runM_bind_ok (runM_get s), hfirst]
  dsimp only
  rw [runM_ite, if_pos (by rw [hdue]; rfl), runM_bind_ok (runM_set _ s), runM_ite, if_neg hrank, runM_modify]

/-- MODULE_READY with a cause for a veto, whether or not the step is ready. -/
theorem moduleReady_vetoes (hmay : MayAnswer s) (hcause : vetoed (noteCauses step s) step = true)
    (hsend : Works (sendVetoIf step) (noteCauses step s) u) : moduleReady step s = after genWho u := by
  have hworks : Works (moduleAnswer step) (noteCauses step s) u := by
    unfold Works moduleAnswer
    rw [runM_bind_ok (runM_get _), runM_bind_ok (hmay.noteCauses step).runM_gate, runM_ite, if_pos hcause]
    exact hsend
  unfold moduleReady
  dsimp only
  rw [hcause, Bool.or_true, if_pos rfl, attempt_works hworks]

theorem vetoed_of_find {v : Nat × Nat} (h : s.gen.vetoes.find? (fun v => v.1 == step) = some v) : vetoed s step = true :=
  List.any_eq_true.mpr ⟨v, List.mem_of_find?_eq_some h, List.find?_some (p := fun v : Nat × Nat => v.1 == step) h⟩

end

/-- Settles O41, clause by clause: messages about another step, what MODULE_READY answers, what the coordinator decides,
and how its decision goes out. -/
theorem commitProtocol : Obligations.commit_protocol := by
  intro s step hp
  refine ⟨fun hother rank code => ?stray, fun hcur hab => ⟨fun hready hveto hl =>
    ⟨fun hhalt hgrad hcause hdone hround => ?ready, fun x v hx hfirst hrank => ?veto⟩, fun hrank hd => ?coordinator,
    fun d hd htold => ?decided⟩⟩
  case stray =>
    exact ⟨exec_ready hp (coordinator_stray _ hother), exec_veto hp (coordinator_stray _ hother),
      exec_ack hp (ackArrives_stray hother)⟩
  case ready =>
    have hhere : ReadyHere s step := ⟨⟨hab, hready, hveto, hl⟩, hhalt, hgrad, hcause, hdone, hround⟩
    rw [exec_moduleReady hp hcur]
    refine ⟨fun u hdue heval hnone hans => ⟨_, rfl, hhere.moduleReady_evaluates hdue heval hnone hans⟩,
      fun hmade hans hcode => ⟨fun hrank => ?member, fun hrank hd hnew hmore => ⟨_, rfl, ?own⟩⟩⟩
    case member =>
      have hsend := sendReady_member (s := forgetErrors genWho s) (step := step) (by rwa [genRank, forgetErrors_rd])
      rw [hhere.moduleReady_sends hmade hans hcode hsend]
      simp only [readied, forgetErrors_gen, genRank, coordModule, committed, forgetErrors_rd]
    case own =>
      have hsend := sendReady_counts (s := forgetErrors genWho s) (step := step) (by rwa [genRank, forgetErrors_rd])
        (by rwa [forgetErrors_gen]) (by rwa [forgetErrors_gen]) (by rwa [forgetErrors_gen, genSize, forgetErrors_rd])
      rw [hhere.moduleReady_sends hmade hans hcode hsend, forgetErrors_gen]
      exact ⟨rfl, rfl, phase_readied _⟩
  case veto =>
    subst hx
    have hmay := MayAnswer.noteCauses ⟨hab, hready, hveto, hl⟩ step
    have hsend := sendVetoIf_member hfirst hmay.vetoDue (by rwa [genRank, noteCauses_rd])
    rw [exec_moduleReady hp hcur, moduleReady_vetoes ⟨hab, hready, hveto, hl⟩ (vetoed_of_find hfirst) hsend]
    simp only [coordModule, genRank, noteCauses_rd]
  case coordinator =>
    have hmay : Undecided s step := ⟨hrank, hd, hcur, hab⟩
    refine ⟨fun rank hnew hmore => ?kept, fun rank d u hnew hall hd' hout => ?last,
      fun d u hstep habort hgen hout => ?abort⟩
    case kept => exact exec_ready hp (coordinator_works hmay (coordReady_keeps hnew hmore))
    case last =>
      subst hd'
      have hmay' : Undecided { s with gen := { s.gen with readyRanks := s.gen.readyRanks ++ [rank] } } step :=
        ⟨hrank, hd, hcur, hab⟩
      exact exec_ready hp (coordinator_works hmay (coordReady_decides hnew hall (decideStep_works hmay' hout)))
    case abort =>
      subst hstep
      have hdecide : Works (decideStep { step := d.step, commit := false, cause := d.cause, rank := d.rank }) s u :=
        Decision.eq_abort habort hgen ▸ decideStep_aborts hmay habort hout
      refine ⟨exec_veto hp (coordinator_works hmay hdecide), fun us hcause hr hon hus hphase => ?_⟩
      rw [hcause, hr] at hdecide
      exact (whileOn_powered _ hp).trans (congrArg _ (commitDeadline_decides hmay hon hus hphase hdecide))
  case decided =>
    refine ⟨fun hsize => ?resend, fun u hrank hall => exec_ack hp (ackArrives_tells hcur hrank hd htold hall)⟩
    refine (whileOn_powered _ hp).trans ?_
    simp [decisionResend, hd, htold, hsize]

end Sys2Proof.Machine
end

section
/-! PROOFS. A decision at a member, the deputy's answers, the discard of an aborted step, a doubt resolved (R329 to R335,
R750). -/

namespace Sys2Proof.Machine

section
variable {s u : State} {d : Decision} {step rank : Nat} {map : List Nat}

/-! ### COMMIT and ABORT (R329, R335) -/

/-- A member that is not in doubt applies the decision on its current step; the deputy acknowledges it. -/
theorem decisionArrives_current (hcur : currentStep s = some d.step)
    (hsure : rd s pgGeneration Reg.GEN_STATUS_IN_DOUBT = 0) : decisionArrives d s =
      if isDeputy (applyDecision d s) then sendAck d.step (applyDecision d s) else applyDecision d s := by
  have hdoubt : ¬ isSet s pgGeneration Reg.GEN_STATUS_IN_DOUBT = true := by simp [isSet, hsure]
  unfold decisionArrives
  dsimp only
  rw [if_pos hcur, if_neg hdoubt]

theorem decisionArrives_other (hother : currentStep s ≠ some d.step) : decisionArrives d s =
    if isDeputy s && (heldDecision s d.step).isSome then sendAck d.step s else stray s := by
  unfold decisionArrives
  rw [if_neg hother]

theorem exec_commit (gen : Nat) (hp : s.powered = true) :
    exec (.commit step gen) s = .next (decisionArrives { step := step, commit := true, gen := gen } s) :=
  whileOn_powered _ hp

theorem exec_abort (cause rank : Nat) (hp : s.powered = true) : exec (.abort step cause rank) s =
    .next (decisionArrives { step := step, commit := false, cause := cause, rank := rank } s) :=
  whileOn_powered _ hp

/-! ### QUERY (R330) -/

/-- The deputy's ABORT for want of the coordinator, told to every other module of the rank map (R330). -/
theorem deputyAborts_works (hmap : Reads readMap s map u) : Works (deputyAborts step) s
    ((map.eraseDups.filter fun m => m != 0 && m != ownModule u).foldl
      (fun s m => sendDecision { step := step, commit := false, cause := 0x0624, rank := 0 } m s)
      (applyDecision { step := step, commit := false, cause := 0x0624, rank := 0 } u)) := by
  unfold Works deputyAborts
  rw [runM_bind_ok hmap]
  rfl

theorem deputyAnswers_works (hmap : Reads readMap s map u) : Works (deputyAnswers d rank) s
    (if map.getD rank 0 = 0 then u else sendDecision d (map.getD rank 0) u) := by
  unfold Works deputyAnswers
  rw [runM_bind_ok hmap]
  rfl

section
variable (hdep : isDeputy s = true) (hcut : step ∉ s.gen.cut)
include hdep hcut

theorem queryArrives_held (hheld : heldDecision s step = some d) (hmap : Reads readMap s map u) :
    Works (queryArrives step rank) s (if map.getD rank 0 = 0 then u else sendDecision d (map.getD rank 0) u) := by
  unfold Works queryArrives
  rw [runM_bind_ok (runM_get s), runM_ite, if_neg (by simp [hdep]), runM_ite, if_neg (by simpa using hcut), hheld]
  exact deputyAnswers_works hmap

theorem queryArrives_undecided {x : State} (hnone : heldDecision s step = none) (hcur : currentStep s = some step)
    (habort : Works (deputyAborts step) s x) : Works (queryArrives step rank) s x := by
  unfold Works queryArrives
  rw [runM_bind_ok (runM_get s), runM_ite, if_neg (by simp [hdep]), runM_ite, if_neg (by simpa using hcut), hnone]
  dsimp only
  rw [runM_ite, if_pos hcur]
  exact habort

end

theorem exec_query {x : State} (hp : s.powered = true) (h : Works (queryArrives step rank) s x) :
    exec (.query step rank) s = .next (after genWho x) :=
  (whileOn_powered _ hp).trans (by rw [attempt_works h])

/-! ### The discard (R332, R333, R891) -/

theorem abortDiscard_finished (hd : s.gen.aborting = some d) (hdone : finishingUnits s d.step = false) :
    abortDiscard s = resolveStep d.step (lossResolve d.step false (raiseBit pgGeneration 5
      (journal 0x07 d.cause pgGeneration d.step (lifeAddTo 8 0xE8 1 (bump pgGeneration Reg.GEN_ABORTS 1
        (wr pgGeneration Reg.GEN_ABORT_CAUSE d.cause (wr pgGeneration Reg.GEN_ABORT_RANK d.rank
          (wr pgGeneration Reg.GEN_ABORT_STEP d.step (logErr pgGeneration d.cause 0 s))))))))) := by
  simp only [abortDiscard, hd, hdone, Bool.false_eq_true, if_false]

/-! ### RS_RESOLVE (R331, R750) -/

section
variable (hw : writable s pgResilience = true)
include hw

/-- In doubt, RS_RESOLVE names the decision on the current step. -/
theorem rsResolve_inDoubt (hcur : currentStep s = some step) (hdoubt : rd s pgGeneration Reg.GEN_STATUS_IN_DOUBT = 1) :
    rsResolve 1 s = applyDecision { step := step, commit := true, gen := (committed s + 1) % 2 ^ 32 } s ∧
      rsResolve 2 s = applyDecision { step := step, commit := false, cause := 0x0624, rank := 0 } s := by
  have hset : isSet s pgGeneration Reg.GEN_STATUS_IN_DOUBT = true := by simp [isSet, hdoubt]
  simp [rsResolve, hw, hset, hcur]

theorem rsResolve_sure (hsure : rd s pgGeneration Reg.GEN_STATUS_IN_DOUBT = 0) (v : Nat) :
    rsResolve v s = logErr pgResilience 0x0655 0 s := by
  have hset : isSet s pgGeneration Reg.GEN_STATUS_IN_DOUBT = false := by simp [isSet, hsure]
  simp [rsResolve, hw, hset]

end

theorem exec_rsResolve (v : Nat) (hp : s.powered = true) : exec (.rsResolve v) s = .next (rsResolve v s) :=
  whileOn_powered _ hp

end

/-- Settles O42, clause by clause: a decision about the current step and about another, QUERY at the deputy, the discard,
RS_RESOLVE in doubt and outside it. -/
theorem decisionsApplied : Obligations.decisions_applied := by
  intro s step hp
  refine ⟨fun d hstep hcur hsure => ⟨_, rfl, fun hcommit hcause hrank => ?commit, fun habort hgen => ?abort⟩,
    fun hother t ht gen code rank => ?other, fun rank map u hdep hcut hmap =>
      ⟨fun d hheld => ?held, fun d hnone hcur hd => ?undecided⟩,
    fun d hd hdone => ?discard, fun hw hcur hdoubt => ?inDoubt, fun hw hsure v => ?sure⟩
  case commit =>
    subst hstep
    rw [exec_commit d.gen hp, ← Decision.eq_commit hcommit hcause hrank, decisionArrives_current hcur hsure]
  case abort =>
    subst hstep
    rw [exec_abort d.cause d.rank hp, ← Decision.eq_abort habort hgen, decisionArrives_current hcur hsure]
  case other =>
    rw [exec_commit gen hp, exec_abort code rank hp, decisionArrives_other hother, decisionArrives_other hother, ht]
    exact ⟨rfl, rfl⟩
  case held => exact exec_query hp (queryArrives_held hdep hcut hheld hmap)
  case undecided =>
    subst hd
    exact exec_query hp (queryArrives_undecided hdep hcut hnone hcur (deputyAborts_works hmap))
  case discard => exact (whileOn_powered _ hp).trans (congrArg _ (abortDiscard_finished hd hdone))
  case inDoubt =>
    obtain ⟨hcommit, habort⟩ := rsResolve_inDoubt hw hcur hdoubt
    exact ⟨(exec_rsResolve 1 hp).trans (congrArg _ hcommit), (exec_rsResolve 2 hp).trans (congrArg _ habort)⟩
  case sure => rw [exec_rsResolve v hp, rsResolve_sure hw hsure v]

end Sys2Proof.Machine
end

section
/-! PROOFS. Routing entries, lock and release notices, responses and timeouts (R325 to R331, R676 to R685). -/

namespace Sys2Proof.Machine

section
variable {s u v x : State} {h : Decision} {step port m hops : Nat} {map : List Nat}

/-! ### A lock notice that the commit hears of (R325, R328, R330, R331) -/

theorem noticeToCommit_ignored (hno : currentStep u = none ∨ u.gen.aborting.isSome = true ∨ m = 0) :
    Works (noticeToCommit m) u u := by
  unfold Works noticeToCommit
  rw [runM_bind_ok (runM_get u)]
  split
  · rfl
  · next t hcur =>
    rw [runM_ite, if_pos (hno.resolve_left (by rw [hcur]; simp))]
    rfl

section
variable (hcur : currentStep u = some step) (hab : u.gen.aborting = none) (hm : m ≠ 0)
include hcur hab hm

theorem noticeToCommit_coordinator (hrank : genRank u = 0) :
    runM (noticeToCommit m) u = runM (noticeToCoordinator step m) u := by
  unfold noticeToCommit
  rw [runM_bind_ok (runM_get u), hcur]
  dsimp only
  rw [runM_ite, if_neg (by simp [hab, hm]), runM_ite, if_pos hrank]

theorem noticeToCommit_member (hrank : genRank u ≠ 0) : runM (noticeToCommit m) u = runM (noticeToMember step m) u := by
  unfold noticeToCommit
  rw [runM_bind_ok (runM_get u), hcur]
  dsimp only
  rw [runM_ite, if_neg (by simp [hab, hm]), runM_ite, if_neg hrank]

end

section
variable (hnone : u.gen.decision = none) (hmap : Reads readMap u map v)
include hnone hmap

/-- A module that the rank map does not name is no member. -/
theorem noticeToCoordinator_stranger (hm : m ∉ map) : Works (noticeToCoordinator step m) u v := by
  have hfind : map.findIdx? (· == m) = none :=
    List.findIdx?_eq_none_iff.mpr fun a ha => beq_false_of_ne fun h => hm (h ▸ ha)
  unfold Works noticeToCoordinator
  rw [runM_bind_ok (runM_get u), hnone]
  dsimp only
  rw [runM_bind_ok hmap, hfind]
  rfl

theorem noticeToCoordinator_decides {r : Nat} (hr : map.findIdx? (· == m) = some r)
    (hdecide : Works (decideStep { step := step, commit := false, cause := 0x0624, rank := r }) v x) :
    Works (noticeToCoordinator step m) u x := by
  unfold Works noticeToCoordinator
  rw [runM_bind_ok (runM_get u), hnone]
  dsimp only
  rw [runM_bind_ok hmap, hr]
  exact hdecide

end

section
variable (hheld : u.gen.decision = some h)
include hheld

/-- The deputy locked before its ACK: the decision goes to the members. -/
theorem noticeToCoordinator_tells (htold : u.gen.told = false) (hsize : 1 < genSize u) (hm : m = deputyModule u)
    (hall : Told h u x) : Works (noticeToCoordinator step m) u x := by
  unfold Works noticeToCoordinator
  rw [runM_bind_ok (runM_get u), hheld]
  dsimp only
  rw [runM_ite, if_pos (by simp [htold, hsize, hm])]
  exact tellMembers_works hall

theorem noticeToCoordinator_stands (hno : u.gen.told = true ∨ genSize u ≤ 1 ∨ m ≠ deputyModule u) :
    Works (noticeToCoordinator step m) u u := by
  have hskip : (!u.gen.told && decide (1 < genSize u) && m == deputyModule u) = false := by
    rcases hno with htold | hsize | hm
    · simp [htold]
    · simp [Nat.not_lt.mpr hsize]
    · simp [hm]
  unfold Works noticeToCoordinator
  rw [runM_bind_ok (runM_get u), hheld]
  dsimp only
  rw [runM_ite, hskip]
  rfl

end

/-- The notice leaves a member without its coordinator: it names it, or it names the deputy and the coordinator stands
locked. -/
def cutsOff (m : Nat) (u : State) : Bool :=
  m == coordModule u || (m == deputyModule u && look false u.link.marks (coordModule u))

/-- `cutsOff` is what a member tests. -/
theorem cutsOff_eq (m : Nat) (u : State) : (!(m == coordModule u || look false u.link.marks (coordModule u)) ||
    !(m == coordModule u || m == deputyModule u)) = !cutsOff m u := by
  unfold cutsOff
  cases m == coordModule u <;> cases m == deputyModule u <;> cases look false u.link.marks (coordModule u) <;> rfl

theorem noticeToMember_heeds (hoff : cutsOff m u = false) : Works (noticeToMember step m) u u := by
  unfold Works noticeToMember
  rw [runM_bind_ok (runM_get u)]
  dsimp only
  rw [cutsOff_eq, hoff]
  rfl

section
variable (hoff : cutsOff m u = true)
include hoff

theorem noticeToMember_deputy (hdep : isDeputy u = true) : runM (noticeToMember step m) u =
    runM (if u.gen.cut.contains step then modify enterDoubt else deputyAborts step) u := by
  unfold noticeToMember
  rw [runM_bind_ok (runM_get u)]
  dsimp only
  rw [cutsOff_eq, hoff, runM_ite, if_neg (by decide), runM_ite, if_pos hdep]

theorem noticeToMember_other (hdep : isDeputy u = false) : runM (noticeToMember step m) u =
    runM (if look false u.link.marks (deputyModule u) then modify enterDoubt
      else modify (sendMessage pgGeneration 0x06 (deputyModule u) (controlData step 0 0 (genRank u) 0))) u := by
  unfold noticeToMember
  rw [runM_bind_ok (runM_get u)]
  dsimp only
  rw [cutsOff_eq, hoff, runM_ite, if_neg (by decide), runM_ite, if_neg (Bool.not_eq_true _ ▸ hdep)]

end

/-- A lock notice that changes a mark: the mark with what follows it, then what the commit does. -/
theorem exec_lockNotice (hp : s.powered = true) (happ : noticeApplies s m true = true)
    (hu : u = settleRuns (noticeToFill m (redNotice (markLocked port m hops s)))) (hx : Works (noticeToCommit m) u x) :
    exec (.lockNotice port m hops) s = .next (after genWho x) := by
  subst hu
  have hworks : Works (lockNotice port m hops) s x := by
    unfold Works lockNotice
    rw [runM_bind_ok (runM_get s), runM_ite, if_pos happ, runM_bind_ok (runM_modify _ s)]
    exact hx
  exact (whileOn_powered _ hp).trans (by rw [attempt_works hworks])

/-! ### Routing, release notices, responses, timeouts (R676, R681, R683) -/

theorem klRtData_stores (mask : Nat) (s : State) :
    (klRtData mask s).link.routes = put 0 s.link.routes (rd s (pgHub 0) Reg.KL_RT_INDEX) (mask % 2 ^ 32) ∧
      rd (klRtData mask s) (pgHub 0) Reg.KL_RT_INDEX = (rd s (pgHub 0) Reg.KL_RT_INDEX + 1) % 2 ^ 16 :=
  ⟨rfl, rd_wr_self ..⟩

theorem exec_releaseNotice (hp : s.powered = true) (happ : noticeApplies s m false = true) :
    exec (.releaseNotice port m hops) s = .next (forwardNotice 9 m hops port (noteNotice m true
      { s with link := { s.link with marks := put false s.link.marks m false } })) :=
  (whileOn_powered _ hp).trans (by rw [releaseNotice, if_pos happ])

theorem exec_responseArrival {tag code poison : Nat} {data : List Byte} (hp : s.powered = true) (hport : port < 32) :
    exec (.responseArrival port tag code data poison) s =
      .next (settleRuns (responseArrives port tag code data poison s)) :=
  (whileOn_powered _ hp).trans (by rw [if_pos hport])

theorem exec_requestTimeout (tag : Nat) (hp : s.powered = true) (hon : rd s (pgHub 0) Reg.KL_REQ_TIMEOUT ≠ 0) :
    exec (.requestTimeout tag) s = .next (settleRuns (failRequests (fun o => o.tag == tag && !o.host) 0x0404 s)) :=
  (whileOn_powered _ hp).trans (by rw [requestTimeout, if_neg hon])

end

/-- Settles O14, clause by clause: KL_RT_DATA; a lock notice at a module without a step, at the coordinator, and at a
member; a release notice; responses; a timeout. -/
theorem routingAndNotices : Obligations.routing_and_notices := by
  intro s hp
  refine ⟨fun mask => ⟨_, whileOn_powered _ hp, klRtData_stores mask s⟩, fun port m hops u happ hu =>
    ⟨fun hno => exec_lockNotice hp happ hu (noticeToCommit_ignored hno), fun step d hcur hab hm hd =>
      ⟨fun hrank => ?coordinator, fun hrank off hoff => ?member⟩⟩,
    fun port m hops happ => exec_releaseNotice hp happ, fun port tag code data poison hport => ?response,
    fun tag hon => exec_requestTimeout tag hp hon⟩
  case coordinator =>
    have hnotice : ∀ {x}, Works (noticeToCoordinator step m) u x →
        exec (.lockNotice port m hops) s = .next (after genWho x) :=
      fun hx => exec_lockNotice hp happ hu ((noticeToCommit_coordinator hcur hab hm hrank).trans hx)
    subst hd
    refine ⟨fun map v hnone hmap => ⟨fun hstranger => hnotice (noticeToCoordinator_stranger hnone hmap hstranger),
      fun r x hr hrank' hnone' hcur' hab' hout => hnotice (noticeToCoordinator_decides hnone hmap hr
        (decideStep_aborts ⟨hrank', hnone', hcur', hab'⟩ rfl hout))⟩,
      fun h hheld => ⟨fun x htold hsize hdep hall => hnotice (noticeToCoordinator_tells hheld htold hsize hdep hall),
        fun hno => hnotice (noticeToCoordinator_stands hheld hno)⟩⟩
  case member =>
    have hnotice : ∀ {x}, Works (noticeToMember step m) u x →
        exec (.lockNotice port m hops) s = .next (after genWho x) :=
      fun hx => exec_lockNotice hp happ hu ((noticeToCommit_member hcur hab hm hrank).trans hx)
    change off = cutsOff m u at hoff
    subst hd hoff
    refine ⟨fun hoff => hnotice (noticeToMember_heeds hoff), fun hoff hdep => ⟨fun hcut => hnotice ?doubt,
      fun map v hcut hmap => hnotice ?aborts⟩, fun hoff hdep =>
      ⟨fun hlocked => hnotice ?cutFromBoth, fun hlocked => hnotice ?query⟩⟩
    case doubt =>
      refine (noticeToMember_deputy hoff hdep).trans ?_
      rw [if_pos (by simpa using hcut), runM_modify]
    case aborts =>
      refine (noticeToMember_deputy hoff hdep).trans ?_
      rw [if_neg (by simpa using hcut)]
      exact deputyAborts_works hmap
    case cutFromBoth =>
      refine (noticeToMember_other hoff hdep).trans ?_
      rw [if_pos hlocked, runM_modify]
    case query =>
      refine (noticeToMember_other hoff hdep).trans ?_
      rw [if_neg (Bool.not_eq_true _ ▸ hlocked), runM_modify]
  case response =>
    rw [exec_responseArrival hp hport, responseArrives]
    refine ⟨fun o ho hfresh => ?_, fun hnone => ?_⟩
    · simp only [ho, hfresh, Bool.false_eq_true, if_false]
    · simp only [hnone]

end Sys2Proof.Machine
end

section
/-! PROOFS. Bindings of micro-batches and their copies (R296 to R300). -/

namespace Sys2Proof.Machine

section
variable {s u : State} {mb mode need slot : Nat}

/-! ### The entry of a bound micro-batch (R296, R297, R300) -/

/-- The hold counts move no field that lies above them in the generation unit's page. -/
theorem rdAt_showHolds {f : Field} (h : Reg.GEN_HOLD.bit + 24 ≤ f.bit) (i : Nat) (s : State) :
    rdAt (showHolds s) pgGeneration f i = rdAt s pgGeneration f i := by
  have hkey : ∀ k, k < 3 → f.key pgGeneration i ≠ Reg.GEN_HOLD.key pgGeneration k := fun k hk => by
    simp only [Field.key, Reg.GEN_HOLD] at h ⊢
    omega
  change rdAt (wrAt _ _ 2 _ (wrAt _ _ 1 _ (wrAt _ _ 0 _ s))) _ f i = _
  rw [rdAt_wrAt_other _ _ (hkey 2 (by omega)), rdAt_wrAt_other _ _ (hkey 1 (by omega)),
    rdAt_wrAt_other _ _ (hkey 0 (by omega))]

/-- The entry of a micro-batch as MB_BIND writes it. -/
def boundEntry (mb need slot : Nat) (s : State) : State :=
  showHolds (wrAt pgGeneration Reg.MB_ENTRY_SLOT mb slot (wrAt pgGeneration Reg.MB_ENTRY_NEED mb need
    (wrAt pgGeneration Reg.MB_ENTRY_BOUND mb 1 s)))

/-- Fields of one entry stand at their own bit places. -/
theorem rdAt_wrAt_entry {f g : Field} (page i v : Nat) (s : State) (hstride : g.stride = f.stride)
    (hbit : g.bit ≠ f.bit) : rdAt (wrAt page f i v s) page g i = rdAt s page g i := by
  refine rdAt_wrAt_other s v ?_
  simp only [Field.key, hstride]
  omega

theorem rdAt_boundEntry_SLOT (mb need slot : Nat) (s : State) :
    rdAt (boundEntry mb need slot s) pgGeneration Reg.MB_ENTRY_SLOT mb = slot % 4 := by
  rw [boundEntry, rdAt_showHolds (by decide), rdAt_wrAt_self]
  rfl

theorem rdAt_boundEntry_NEED (mb need slot : Nat) (s : State) :
    rdAt (boundEntry mb need slot s) pgGeneration Reg.MB_ENTRY_NEED mb = need % 256 := by
  rw [boundEntry, rdAt_showHolds (by decide), rdAt_wrAt_entry _ _ _ _ (by rfl) (by decide), rdAt_wrAt_self]
  rfl

theorem rdAt_boundEntry_BOUND (mb need slot : Nat) (s : State) :
    rdAt (boundEntry mb need slot s) pgGeneration Reg.MB_ENTRY_BOUND mb = 1 := by
  rw [boundEntry, rdAt_showHolds (by decide), rdAt_wrAt_entry _ _ _ _ (by rfl) (by decide),
    rdAt_wrAt_entry _ _ _ _ (by rfl) (by decide), rdAt_wrAt_self]
  rfl

theorem rdAt_boundEntry_DONE (mb need slot : Nat) (s : State) :
    rdAt (boundEntry mb need slot s) pgGeneration Reg.MB_ENTRY_DONE mb = rdAt s pgGeneration Reg.MB_ENTRY_DONE mb := by
  rw [boundEntry, rdAt_showHolds (by decide), rdAt_wrAt_entry _ _ _ _ (by rfl) (by decide),
    rdAt_wrAt_entry _ _ _ _ (by rfl) (by decide), rdAt_wrAt_entry _ _ _ _ (by rfl) (by decide)]

/-- An entry whose `DONE` is below its `NEED` does not retire. -/
theorem retire_stays (h : rdAt s pgGeneration Reg.MB_ENTRY_DONE mb < rdAt s pgGeneration Reg.MB_ENTRY_NEED mb) :
    retire mb s = s := if_neg fun hdone => Nat.not_le.mpr h hdone.2

section
variable (hw : writable s pgGeneration = true)
include hw

theorem mbBind_refused (mode : Nat) (h : mb % 256 = 255 ∨ need % 256 = 0) :
    mbBind mb mode need s = logErr pgGeneration 0x0152 0 s := by
  unfold mbBind
  dsimp only
  rw [if_neg (by simp [hw]), if_pos (h.imp id fun hneed => .inr (.inl hneed))]

/-- A free micro-batch is bound to the generation that the current step reads, or, in mode 1, to the committed one; its
entry then retires if `DONE` has reached `NEED`. -/
theorem mbBind_binds (hmb : mb < 255) (hpos : 0 < need) (hneed : need < 256)
    (hfree : rdAt s pgGeneration Reg.MB_ENTRY_BOUND mb = 0) (hmode : mode % 2 = 1 ∨ noStepOpen s = false) :
    ∃ g u, (mode % 2 = 1 → g = committed s) ∧ u.regs = s.regs ∧
      mbBind mb mode need s = retire mb (boundEntry mb need (g % 3) u) := by
  have htaken : ¬(mb = 0xFF ∨ rdAt s pgGeneration Reg.MB_ENTRY_BOUND mb = 1 ∨ need = 0 ∨
      (¬ mode % 2 = 1 ∧ noStepOpen s = true)) := by
    rintro (h | h | h | ⟨h1, h2⟩)
    · omega
    · omega
    · omega
    · rcases hmode with h | h
      · exact h1 h
      · rw [h] at h2
        cases h2
  unfold mbBind boundEntry
  dsimp only
  rw [if_neg (by simp [hw]), Nat.mod_eq_of_lt (by omega : mb < 256), Nat.mod_eq_of_lt hneed, if_neg htaken]
  refine ⟨_, _, ?_, ?_, rfl⟩
  · exact fun hm => if_pos hm
  · rfl

end

theorem exec_mbBind (mb mode need : Nat) (hp : s.powered = true) :
    exec (.mbBind mb mode need) s = .next (mbBind mb mode need s) :=
  whileOn_powered _ hp

/-! ### Copies (R299) -/

theorem exec_bindingCopy {page : Nat} {e : Nat × Bind} (hp : s.powered = true)
    (hbind : s.gen.binds.find? (fun e => e.1 == mb) = some e) (hholds : holdsCopies page = true)
    (hl : lockState s page = 0) : exec (.bindingCopy page mb) s =
      .next { s with gen := { s.gen with copies := put 0 s.gen.copies (page * 256 + mb) e.2.seq } } := by
  refine (whileOn_powered _ hp).trans ?_
  rw [bindingCopy, hbind]
  dsimp only
  rw [if_pos ⟨hholds, hl⟩]

end

/-- Settles O39, clause by clause: a micro-batch that MB_BIND binds, one it refuses, and a copy. -/
theorem bindings : Obligations.bindings := by
  intro s hp
  refine ⟨fun mb mode need hw hmb hpos hneed hfree hdone hmode => ⟨_, exec_mbBind mb mode need hp, ?binds⟩,
    fun mb mode need hw href => ?refused, fun page mb e hbind hholds hl =>
      ⟨_, exec_bindingCopy hp hbind hholds hl, ?copy⟩⟩
  case binds =>
    obtain ⟨g, u, hg, hregs, hbinds⟩ := mbBind_binds hw hmb hpos hneed hfree hmode
    have hkept : rdAt u pgGeneration Reg.MB_ENTRY_DONE mb = rdAt s pgGeneration Reg.MB_ENTRY_DONE mb := by
      rw [rdAt, hregs, ← rdAt]
    have hneeds : rdAt (boundEntry mb need (g % 3) u) pgGeneration Reg.MB_ENTRY_NEED mb = need := by
      rw [rdAt_boundEntry_NEED, Nat.mod_eq_of_lt hneed]
    rw [hbinds, retire_stays (by rw [rdAt_boundEntry_DONE, hkept, hneeds]; exact hdone)]
    refine ⟨rdAt_boundEntry_BOUND .., hneeds, fun hm => ?_⟩
    rw [rdAt_boundEntry_SLOT, hg hm]
    omega
  case refused => rw [exec_mbBind mb mode need hp, mbBind_refused hw mode href]
  case copy => exact ⟨look_put_self .., fun k hk => look_put_other _ _ _ _ hk⟩

end Sys2Proof.Machine
end

section
/-! PROOFS. The packer of a cluster: its front descriptor, from the checks of a pack to the end of an unpack (R344, R347, R348,
R353, R354, R357, R363, R364, R374, R375, R380). -/

namespace Sys2Proof.Machine

section
variable {s t u : State} {p k : Nat} {y z : Xfer} {w : Who}

/-! ### Work that gets through, and what it leaves -/

/-- A reading in two parts that gets through has got through both. -/
theorem Reads.of_bind {α β : Type} {m : M α} {f : α → M β} {b : β} (h : Reads (m >>= f) s b u) :
    ∃ a t, Reads m s a t ∧ Reads (f a) t b u := by
  unfold Reads at h ⊢
  rw [runM_bind] at h
  split at h
  · next a t hm => exact ⟨a, t, hm, h⟩
  · cases h

/-- The code of a reading that a code has stopped. -/
theorem runM_catchCode_code {α : Type} {m : M α} {c : Nat} (h : runM m s = (.error (.code c), t)) :
    runM (catchCode m) s = (.ok (.error c), t) := by
  unfold catchCode
  rw [runM_tryCatch, runM_bind_error h]
  rfl

/-- Work of parts that leave the pumps out. -/
theorem pumps_of_runM {α : Type} {m : M α} {r : Except Stop α} {M : Nat} (hr : runM m s = (r, t))
    (h : Keeps M s (runM m s).2) (hM : M.testBit 12 = false) : t.pumps = s.pumps :=
  (Keeps.of_pair hr h).pumps.resolve_left (by simp [hM])

@[simp] theorem rd_after (w : Who) (s : State) (page : Nat) (f : Field) : rd (after w s) page f = rd s page f := rfl

@[simp] theorem after_after (w : Who) (s : State) : after w (after w s) = after w s := by
  simp [after, forgetArrived, List.filter_filter]

/-- Forgetting what has arrived and what has failed commute: they are two lists of the bus. -/
theorem forgetErrors_after (w : Who) (s : State) : forgetErrors w (after w s) = after w (forgetErrors w s) := by
  unfold forgetErrors
  split
  · next h => rw [if_pos (show (s.bus.writeErr.find? fun e => e.who == w).isSome = true from h)]; rfl
  · next h => rw [if_neg (show ¬ (s.bus.writeErr.find? fun e => e.who == w).isSome = true from h)]

/-! ### Slots of a pump, and the registers that show them (R599, R648) -/

theorem find?_insertKey_self {α : Type} (m : List (Nat × α)) (k : Nat) (v : α) :
    (insertKey m k v).find? (fun e => e.1 == k) = some (k, v) := by
  induction m with
  | nil => simp [insertKey]
  | cons e m ih =>
    unfold insertKey
    split
    · simp
    · split
      · simp
      · next hne =>
        have hskip : (e.1 == k) = false := beq_false_of_ne fun h => hne h.symm
        rw [List.find?_cons, hskip, ih]

@[simp] theorem showPump_pumps (p : Nat) (s : State) : (showPump p s).pumps = s.pumps :=
  (keeps_showPump .rfl (.refl s)).pumps.resolve_left (by decide)

theorem getPump_putSlot (p k : Nat) (y : Xfer) (s : State) :
    getPump (putSlot p k y s) p = { getPump s p with slots := insertKey (getPump s p).slots k y } := by
  unfold putSlot getPump
  rw [showPump_pumps, setPump_pumps, look_put_self]

@[simp] theorem slotOf_putSlot_self (p k : Nat) (y : Xfer) (s : State) : slotOf (putSlot p k y s) p k = some y := by
  rw [slotOf, getPump_putSlot, find?_insertKey_self]
  rfl

@[simp] theorem slotOf_after (w : Who) (s : State) (p k : Nat) : slotOf (after w s) p k = slotOf s p k := rfl

/-- A pump shows its slots in the registers of its own page. -/
theorem rd_putSlot {page : Nat} {f : Field} (hpage : page ≠ pgPump p) (hf : f.bit < 32768) :
    rd (putSlot p k y s) page f = rd s page f := by
  have hkey : ∀ {g : Field} {i : Nat}, g.bit + i * (g.stride * 8) < 32768 → f.key page 0 ≠ g.key (pgPump p) i := by
    intro g i hg
    simp only [Field.key]
    omega
  unfold putSlot showPump
  dsimp only
  refine List.foldlRecOn (motive := fun t => rd t page f = rd s page f) _ _ ?_ fun t ht i hi => ?_
  · exact (rdAt_wrAt_other _ _ (hkey (by decide))).trans (rdAt_wrAt_other _ _ (hkey (by decide)))
  · have hi := List.mem_range.mp hi
    have hkind : Reg.PM_SLOT_KIND.bit + i * (Reg.PM_SLOT_KIND.stride * 8) < 32768 := by simp only [Reg.PM_SLOT_KIND]; omega
    have hbusy : Reg.PM_SLOT_BUSY.bit + i * (Reg.PM_SLOT_BUSY.stride * 8) < 32768 := by simp only [Reg.PM_SLOT_BUSY]; omega
    have hdry : Reg.PM_SLOT_DRY.bit + i * (Reg.PM_SLOT_DRY.stride * 8) < 32768 := by simp only [Reg.PM_SLOT_DRY]; omega
    rw [← ht]
    split
    · exact (rdAt_wrAt_other _ _ (hkey hkind)).trans
        ((rdAt_wrAt_other _ _ (hkey hbusy)).trans (rdAt_wrAt_other _ _ (hkey hdry)))
    · exact (rdAt_wrAt_other _ _ (hkey hkind)).trans
        ((rdAt_wrAt_other _ _ (hkey hbusy)).trans (rdAt_wrAt_other _ _ (hkey hdry)))

/-! ### The descriptor that the packer executes (R344) -/

/-- The packer of cluster `p` executes `y`, in slot `k`. -/
structure PackFront (s : State) (p k : Nat) (y : Xfer) : Prop where
  first : ∃ ks, (getPump s p).packs = k :: ks
  slot : slotOf s p k = some y

theorem PackFront.of_pumps (h : PackFront s p k y) (hpumps : t.pumps = s.pumps) : PackFront t p k y := by
  obtain ⟨hfirst, hslot⟩ := h
  unfold slotOf at hslot
  constructor
  · rwa [getPump, hpumps]
  · rwa [slotOf, getPump, hpumps]

theorem PackFront.afterWork (h : PackFront s p k y) : PackFront (after w s) p k y := h.of_pumps rfl

theorem PackFront.ofPutSlot (h : PackFront s p k y) : PackFront (putSlot p k z s) p k z where
  first := by
    rw [getPump_putSlot]
    exact h.first
  slot := slotOf_putSlot_self ..

theorem PackFront.headD_packs (h : PackFront s p k y) : (getPump s p).packs.headD 0 = k := by
  obtain ⟨⟨ks, hks⟩, -⟩ := h
  rw [hks, List.headD_cons]

theorem PackFront.packFront_eq (h : PackFront s p k y) (kind stage : Nat) : packFront s p kind stage = do
    waitFor (y.kind == kind && y.stage == stage && !y.finished)
    return (k, y) := by
  obtain ⟨⟨ks, hks⟩, hslot⟩ := h
  unfold packFront
  rw [hks]
  dsimp only
  rw [hslot]

section
variable {kind stage : Nat} {run : Nat → Xfer → M Unit} (h : PackFront s p k y) (hp : p < 256)
include h hp

/-- The command of the front's kind and stage runs. -/
theorem PackFront.packCommand_works (hkind : y.kind = kind) (hstage : y.stage = stage) (hopen : y.finished = false)
    (hrun : Works (run k y) s t) : packCommand p kind stage run s = after (slotWho p k) t := by
  have hdue : (y.kind == kind && y.stage == stage && !y.finished) = true := by simp [hkind, hstage, hopen]
  unfold packCommand
  rw [if_neg (Nat.not_le.mpr hp)]
  dsimp only
  rw [h.headD_packs, h.packFront_eq]
  refine attempt_works ?_
  unfold Works
  rw [runM_bind_ok ((runM_bind_ok (runM_waitFor_true hdue s)).trans (runM_pure (k, y) s))]
  exact hrun

/-- Every other command of the packer leaves the front. -/
theorem PackFront.packCommand_waits (hno : y.stage ≠ stage ∨ y.finished = true) :
    packCommand p kind stage run s = after (slotWho p k) s := by
  have hnot : (y.kind == kind && y.stage == stage && !y.finished) = false := by
    rcases hno with hstage | hdone
    · simp [hstage]
    · simp [hdone]
  unfold packCommand
  rw [if_neg (Nat.not_le.mpr hp)]
  dsimp only
  rw [h.headD_packs, h.packFront_eq]
  exact attempt_hold (runM_bind_error (runM_bind_error (by rw [runM_waitFor, hnot]; rfl)))

end

/-! ### How a descriptor ends (R348, R375, R380) -/

/-- The descriptor, ended with code `c`. -/
def Xfer.ended (y : Xfer) (c : Nat) : Xfer := { y with started := true, finished := true, code := c }

theorem endXfer_works (p k : Nat) (y : Xfer) (c : Nat) (s : State) : Works (endXfer p k y c) s (putSlot p k (y.ended c) s) := rfl

theorem endWithMark_works {v : Nat} {count : State → State}
    (hmark : Reads (do let _ ← xferWrite p (signalWho p k) y.mark (clean (leBytes 8 v))) s () u) :
    Works (endWithMark p k y v count) s (putSlot p k (y.ended 0) (count u)) := by
  unfold Works endWithMark
  rw [runM_bind_ok (runM_codeOf hmark)]
  rfl

theorem packedFails_ends {c : Nat} (h : y.fallback = false ∨ lostCode c = false) (s : State) :
    Works (packedFails p k y c) s (putSlot p k (y.ended c) s) := by
  have hkeeps : ¬ (y.fallback = true ∧ lostCode c = true) := by
    rintro ⟨hfall, hlost⟩
    simp [hfall, hlost] at h
  unfold packedFails
  rw [if_neg hkeeps]
  exact endXfer_works ..

/-- What a fallback with code `c` counts and raises (R375, R380). -/
def countFallback (p : Nat) (y : Xfer) (c : Nat) (s : State) : State :=
  raiseBit (pgCluster p) 4 (bump (pgCluster p) Reg.AW_FALLBACKS 1 (logErr (pgCluster p) c 0
    (wr (pgCluster p) Reg.AW_STATUS_LAST_FB_CODE c (countDone p y s))))

theorem packedFails_lost {c : Nat} (hfall : y.fallback = true) (hlost : lostCode c = true)
    (hmark : Reads (do let _ ← xferWrite p (signalWho p k) y.mark (clean (leBytes 8 (y.markWord 25)))) s () u) :
    Works (packedFails p k y c) s (putSlot p k (({ y with fell := true } : Xfer).ended 0) (countFallback p y c u)) := by
  unfold packedFails
  rw [if_pos ⟨hfall, hlost⟩]
  exact endWithMark_works hmark

theorem countFallback_pumps (p : Nat) (y : Xfer) (c : Nat) (s : State) : (countFallback p y c s).pumps = s.pumps := by
  have hdone : Keeps 134217761 s (countDone p y s) := keeps_countDone (Sub.rfl.le (by decide)) (.refl s)
  have hall : Keeps 134217761 s (countFallback p y c s) :=
    keeps_raiseBit .rfl (keeps_bump (Sub.rfl.le (by decide)) (keeps_logErr .rfl (keeps_wr (Sub.rfl.le (by decide)) hdone)))
  exact hall.pumps.resolve_left (by decide)

theorem rd_countFallback (hp : p < 256) (c : Nat) : rd (countFallback p y c s) (pgCluster p) Reg.AW_FALLBACKS =
    min (rd s (pgCluster p) Reg.AW_FALLBACKS + 1) (2 ^ 64 - 1) := by
  have hoff : OffEvent (pgCluster p) (Reg.AW_FALLBACKS.key (pgCluster p) 0) := by
    simp only [OffEvent, OffRing, Field.key, Reg.AW_FALLBACKS, Reg.PAGE_INT_STATUS, Reg.HI_EQ_TAIL, Reg.HI_EQ_DROPS,
      Reg.HI_STATUS_EQ_OVERFLOW, pgHost, pgCluster]
    omega
  have hlog : ∀ t : State, rd (logErr (pgCluster p) c 0 t) (pgCluster p) Reg.AW_FALLBACKS =
      rd t (pgCluster p) Reg.AW_FALLBACKS := fun t => by
    refine logErr_rdAt _ _ _ _ hoff ?_ fun i hi => ?_
    · simp only [Field.key, Reg.AW_FALLBACKS, Reg.PAGE_ERR_COUNT]
      omega
    · simp only [Field.key, Reg.AW_FALLBACKS, Reg.PAGE_ERR_LOG]
      omega
  have hdone : rd (countDone p y s) (pgCluster p) Reg.AW_FALLBACKS = rd s (pgCluster p) Reg.AW_FALLBACKS := by
    unfold countDone
    split
    · exact rd_wr_field s _ _ (by decide)
    · exact rd_wr_field s _ _ (by decide)
  rw [countFallback, raiseBit_rd _ _ _ hoff]
  refine (rdAt_addAt _ _ _ _ _).trans ?_
  rw [← rd, hlog, rd_wr_field _ _ _ (by decide), hdone]
  rfl

/-! ### PACK_START (R347, R353, R354) -/

/-- The coarse scale that a pack codes under; its window checks stand where PACK_START makes them. -/
def packCoarse (w : Who) (s : State) (y : Xfer) : M Nat := do
  let c ← if y.isDrop then pure 0
    else if y.passThrough then pure 0
    else do
      let _ ← readCoarse w y.tFmt y.tScale y.slot
      readCoarse w y.pkFmt y.pkScale y.slot
  refuseSome (y.windowCode s y.packReads y.packWrites)
  if y.isDrop ∨ !y.passThrough then pure c
  else if y.pkFmt.coarseOne then pure f32One
  else do
    let (v, _) ← busReadNat w (y.pkScale + 128 * y.slot) 4
    pure v

section
variable (hwin : y.windowCode s y.packReads y.packWrites = none)
include hwin

theorem packCoarse_drop (hdrop : y.isDrop = true) : Reads (packCoarse w s y) s 0 s := by
  unfold Reads packCoarse
  dsimp only
  rw [if_pos hdrop, runM_bind_ok (runM_pure 0 s), runM_bind_ok (runM_refuseSome_none hwin s), if_pos (.inl hdrop), runM_pure]

theorem packCoarse_keeps {coarse : Nat} (hkeep : y.isDrop = false)
    (hread : Reads (if y.passThrough then (if y.pkFmt.coarseOne then pure f32One else do
          let (v, _) ← busReadNat w (y.pkScale + 128 * y.slot) 4
          pure v)
        else do
          let _ ← readCoarse w y.tFmt y.tScale y.slot
          readCoarse w y.pkFmt y.pkScale y.slot) s coarse u) : Reads (packCoarse w s y) s coarse u := by
  unfold Reads packCoarse
  dsimp only
  rw [hkeep, if_neg Bool.false_ne_true]
  cases hpass : y.passThrough with
  | true =>
    rw [hpass] at hread
    rw [if_pos rfl, runM_bind_ok (runM_pure 0 s), runM_bind_ok (runM_refuseSome_none hwin s), if_neg (by simp)]
    exact hread
  | false =>
    rw [hpass, if_neg Bool.false_ne_true] at hread
    obtain ⟨c, v, hfirst, hlast⟩ := hread.of_bind
    rw [if_neg Bool.false_ne_true, runM_bind_ok hfirst, runM_bind_ok hlast, runM_bind_ok (runM_refuseSome_none hwin u),
      if_pos (.inr rfl), runM_pure]

end

theorem packStart_refused {c : Nat} (hcheck : y.packCheck s = some c) :
    Works (packStart p k y) s (putSlot p k (y.ended c) s) := by
  unfold Works packStart
  rw [runM_bind_ok (runM_get s), hcheck]
  exact endXfer_works ..

section
variable (hcheck : y.packCheck s = none)
include hcheck

theorem packStart_drops (hwin : y.windowCode s y.packReads y.packWrites = none) (hdrop : y.isDrop = true)
    (hmark : Reads (do let _ ← xferWrite p (signalWho p k) y.mark (clean (leBytes 8 (y.markWord 24)))) s () u) :
    Works (packStart p k y) s (putSlot p k (y.ended 0) (bump (pgCluster p) Reg.AW_DROPS 1 u)) := by
  unfold Works packStart
  rw [runM_bind_ok (runM_get s), hcheck]
  refine (runM_bind_ok (runM_catchCode_ok (packCoarse_drop (w := slotWho p k) hwin hdrop))).trans ?_
  dsimp only
  rw [if_pos hdrop]
  exact endWithMark_works hmark

/-- The header goes out, not valid yet, with the free values in the fields that no chunk has filled. -/
theorem packStart_starts {coarse : Nat} {h : List Byte} {v : State} (hkeep : y.isDrop = false)
    (hcoarse : Reads (packCoarse (slotWho p k) s y) s coarse u)
    (hh : h = y.headerBytes coarse (Config.freeNat u.drawn) (Config.freeNat (u.drawn + 1)) (Config.freeNat (u.drawn + 2)) 0)
    (hwrite : Reads (packWrite p k y.packed (clean h)) { u with drawn := u.drawn + 3 } () v) :
    Works (packStart p k y) s (putSlot p k { y with started := true, stage := 1, header := h } v) := by
  subst hh
  unfold Works packStart
  rw [runM_bind_ok (runM_get s), hcheck]
  refine (runM_bind_ok (runM_catchCode_ok hcoarse)).trans ?_
  dsimp only
  rw [hkeep, if_neg Bool.false_ne_true, runM_bind_ok (runM_get u), runM_bind_ok (runM_modify _ u),
    runM_bind_ok (runM_codeOf hwrite)]
  rfl

end

/-! ### PACK_BODY, PACK_HEADER_VALID, PACK_COMPLETE (R353, R357, R359, R374) -/

/-- Chunks are written alike whatever sums the descriptor holds. -/
theorem writeChunks_adds (l : List StatAdd) (chunks : List (List PackBlock)) (a : Packed) :
    writeChunks p k { y with adds := l } chunks a = writeChunks p k y chunks a := by
  induction chunks generalizing a with
  | nil => rfl
  | cons bs rest ih =>
    unfold writeChunks
    simp only [ih]
    rfl

/-- The statistics adds that a pack of sums `st` makes (R355, R308). -/
def packAdds (p : Nat) (y : Xfer) (st : Stats) : List StatAdd :=
  match y.tile, y.stats with
  | some (t, _), some step => if y.pkFmt.stats ∧ y.makesAdds then
      [{ statAdd (pgTile t) step y.pkStats (if y.pkFmt.coarseOne then none else some y.pkScale) st with
          unit := pgCluster p }] else []
  | _, _ => []

/-- The chunks of a source of these rows: all, or, where a later row has failed, those that are full (R374). -/
def chunksToWrite (y : Xfer) (rows : List (List PackBlock × Stats)) (code : Nat) : List (List PackBlock) :=
  let blocks := (rows.map Prod.fst).flatten
  let chunks := piecesOfList y.chunkBlocks (blocks.length + 1) blocks
  if code = 0 then chunks else chunks.filter fun c => c.length == y.chunkBlocks

section
variable {ct code : Nat} {rows : List (List PackBlock × Stats)} {f : Xfer} {a : Packed} {v x u₀ : State}
  (hacc : accepted s (slotWho p k) = true)
  (hcoarse : Reads (if y.passThrough then pure (fld y.header 4 4) else readCoarse (slotWho p k) y.tFmt y.tScale y.slot) s ct u₀)
  (hrows : Reads (readUntil (packRow p k y ct (fld y.header 4 4) (draws s 5 y.tensor y.sample y.pass)) (List.range y.packRows))
    u₀ (rows, code) u)
  (hf : f = { y with adds := packAdds p y (sumStats (rows.map Prod.snd)) })
  (hchunks : Reads (writeChunks p k f (chunksToWrite y rows code) {}) u (a, 0) v)
include hacc hcoarse hrows hf hchunks

/-- With the chunks written, a source that has failed ends the pack, and one that has not goes on to the index. -/
theorem packBody_works {z : Xfer} (hfails : code ≠ 0 → z = f.ended code ∧ x = v)
    (hindex : code = 0 → Reads (packWrite p k (y.packed + 64)
        (clean (padTo y.indexBytes (a.index.flatMap (leBytes 4))))) v () x ∧
      z = { f with stage := 2, bytes := 64 * a.body, header := y.headerBytes (fld y.header 4 4) a.body a.coded a.raw 1 }) :
    Works (packBody p k y) s (putSlot p k z x) := by
  subst hf
  unfold Works packBody
  dsimp only
  rw [runM_bind_ok (runM_codeOf (runM_acknowledged hacc))]
  refine (runM_bind_ok (runM_get s)).trans ((runM_bind_ok (runM_catchCode_ok hcoarse)).trans ?_)
  refine (runM_bind_ok hrows).trans ((runM_bind_ok hchunks).trans ?_)
  dsimp only
  rw [if_neg (Decidable.not_not.mpr rfl)]
  split
  · next hcode =>
    obtain ⟨rfl, rfl⟩ := hfails hcode
    exact endXfer_works ..
  · next hcode =>
    obtain ⟨hwrite, rfl⟩ := hindex (Decidable.not_not.mp hcode)
    refine (runM_bind_ok (runM_codeOf hwrite)).trans ?_
    rfl

end

theorem packValid_stores (hacc : accepted s (slotWho p k) = true)
    (hwrite : Reads (packWrite p k y.packed (clean y.header)) s () u) :
    Works (packValid p k y) s (putSlot p k { y with stage := 3 } u) := by
  have hsent : Works (do acknowledged (slotWho p k); packWrite p k y.packed (clean y.header)) s u :=
    (runM_bind_ok (runM_acknowledged hacc)).trans hwrite
  unfold Works packValid
  rw [runM_bind_ok (runM_codeOf hsent)]
  rfl

theorem packEnd_ends (hacc : accepted s (slotWho p k) = true)
    (hmark : Reads (do let _ ← xferWrite p (signalWho p k) y.mark (clean (leBytes 8 0))) s () u) :
    Works (packEnd p k y) s (putSlot p k (y.ended 0) (countDone p y u)) := by
  unfold Works packEnd
  rw [runM_bind_ok (runM_codeOf (runM_acknowledged hacc))]
  exact endWithMark_works hmark

/-! A stage that finds a write of the stage before failed ends the pack with its code (R375). -/

section
variable (hans : answered s (slotWho p k) = true) (hcode : writeCode s (slotWho p k) ≠ 0)
  (hends : y.fallback = false ∨ lostCode (writeCode s (slotWho p k)) = false)
include hans hcode hends

theorem packBody_failed : Works (packBody p k y) s
    (putSlot p k (y.ended (writeCode s (slotWho p k))) (forgetErrors (slotWho p k) s)) := by
  unfold Works packBody
  dsimp only
  rw [runM_bind_ok (codeOf_acknowledged hans)]
  split
  · next h => exact absurd h hcode
  · exact packedFails_ends hends _

theorem packValid_failed : Works (packValid p k y) s
    (putSlot p k (y.ended (writeCode s (slotWho p k))) (forgetErrors (slotWho p k) s)) := by
  unfold Works packValid
  rw [runM_bind_ok (runM_codeOf_code (runM_bind_error (runM_acknowledged_failed hans hcode)))]
  split
  · next h => exact absurd h hcode
  · exact packedFails_ends hends _

theorem packEnd_failed : Works (packEnd p k y) s
    (putSlot p k (y.ended (writeCode s (slotWho p k))) (forgetErrors (slotWho p k) s)) := by
  unfold Works packEnd
  rw [runM_bind_ok (codeOf_acknowledged hans)]
  split
  · next h => exact absurd h hcode
  · exact packedFails_ends hends _

end

/-! ### UNPACK (R363, R364, R366, R376) -/

theorem unpack_refused {c : Nat} (hcheck : (y.packCheck s).or (y.windowCode s y.packReads y.packWrites) = some c) :
    Works (unpack p k y) s (putSlot p k (y.ended c) s) := by
  unfold Works unpack
  rw [runM_bind_ok (runM_get s), hcheck]
  exact endXfer_works ..

section
variable {m : List PByte} (hcheck : (y.packCheck s).or (y.windowCode s y.packReads y.packWrites) = none)
  (hmark : Reads (xferRead (slotWho p k) y y.mark 8) s m u)
include hcheck hmark

theorem unpack_skips (hset : leNat (m.map Prod.fst) ≠ 0) :
    Works (unpack p k y) s (putSlot p k (y.ended 0) (bump (pgCluster p) Reg.AW_SKIPS 1 u)) := by
  unfold Works unpack
  rw [runM_bind_ok (runM_get s), hcheck]
  dsimp only
  rw [runM_bind_ok (runM_catchCode_ok hmark)]
  dsimp only
  rw [if_pos hset]
  rfl

section
variable (hzero : leNat (m.map Prod.fst) = 0)
include hzero

/-- A packed tensor that fails leaves the unpack to `packedFails` (R376). -/
theorem runM_unpack_failed {c : Nat} {v : State} (hread : runM (readPacked p k y) u = (.error (.code c), v)) :
    runM (unpack p k y) s = runM (packedFails p k y c) v := by
  unfold unpack
  rw [runM_bind_ok (runM_get s), hcheck]
  dsimp only
  rw [runM_bind_ok (runM_catchCode_ok hmark)]
  dsimp only
  rw [if_neg (Decidable.not_not.mpr hzero), runM_bind_ok (runM_catchCode_code hread)]

section
variable {coarse body : Nat} {index : List Nat} {v x z : State} {o : Option (Nat × Bool)}
  (hread : Reads (readPacked p k y) u (coarse, body, index) v)
  (hchunks : Reads (unpackChunks p k y coarse body ((List.range y.chunks).zip index) [] 0) v o x)
include hread hchunks

theorem unpack_stores (ho : o = none) (hscale : Reads (writeScaleRecord p k y coarse) x () z) :
    Works (unpack p k y) s (putSlot p k { y with started := true, stage := 1 } z) := by
  subst ho
  unfold Works unpack
  rw [runM_bind_ok (runM_get s), hcheck]
  dsimp only
  rw [runM_bind_ok (runM_catchCode_ok hmark)]
  dsimp only
  rw [if_neg (Decidable.not_not.mpr hzero), runM_bind_ok (runM_catchCode_ok hread)]
  refine (runM_bind_ok hchunks).trans ?_
  refine (runM_bind_ok (runM_codeOf hscale)).trans ?_
  rfl

/-- A chunk whose packed bytes fail without fallback, or whose rows fail, ends the unpack. -/
theorem unpack_chunkFailed {c : Nat} {b : Bool} (ho : o = some (c, b))
    (hends : b = false ∨ y.fallback = false ∨ lostCode c = false) :
    Works (unpack p k y) s (putSlot p k (y.ended c) x) := by
  subst ho
  unfold Works unpack
  rw [runM_bind_ok (runM_get s), hcheck]
  dsimp only
  rw [runM_bind_ok (runM_catchCode_ok hmark)]
  dsimp only
  rw [if_neg (Decidable.not_not.mpr hzero), runM_bind_ok (runM_catchCode_ok hread)]
  refine (runM_bind_ok hchunks).trans ?_
  cases b with
  | true => exact packedFails_ends (hends.resolve_left Bool.noConfusion) x
  | false => exact endXfer_works ..

end

end

end

/-- An unpack whose writes are answered ends with their code, counted where there is none (R380). -/
theorem unpackEnd_ends (hans : answered s (slotWho p k) = true) : Works (unpackEnd p k y) s
    (putSlot p k (y.ended (writeCode s (slotWho p k)))
      (if writeCode s (slotWho p k) = 0 then countDone p y (forgetErrors (slotWho p k) s)
        else forgetErrors (slotWho p k) s)) := by
  unfold Works unpackEnd
  rw [runM_bind_ok (codeOf_acknowledged hans)]
  split
  · rfl
  · rfl

/-! ### The commands -/

/-- An unpack that its work has ended stays as it is: its second part finds it finished. -/
theorem PackFront.unpackFront_ends (h : PackFront s p k y) (hp : p < 256) (hkind : y.kind = 5) (hstage : y.stage = 0)
    (hopen : y.finished = false) (hwork : Works (unpack p k y) s (putSlot p k z u)) (hpumps : u.pumps = s.pumps)
    (hdone : z.finished = true) : unpackFront p s = after (slotWho p k) (putSlot p k z u) := by
  have hfront : PackFront (after (slotWho p k) (putSlot p k z u)) p k z :=
    (h.of_pumps hpumps).ofPutSlot.afterWork
  unfold unpackFront
  rw [h.packCommand_works hp hkind hstage hopen hwork, hfront.packCommand_waits hp (.inr hdone), after_after]

section
variable (hpow : s.powered = true)
include hpow

theorem exec_packStart : exec (.packStart p) s = .next (packCommand p 4 0 (packStart p) s) := whileOn_powered _ hpow
theorem exec_packBody : exec (.packBody p) s = .next (packCommand p 4 1 (packBody p) s) := whileOn_powered _ hpow
theorem exec_packHeaderValid : exec (.packHeaderValid p) s = .next (packCommand p 4 2 (packValid p) s) := whileOn_powered _ hpow
theorem exec_packComplete : exec (.packComplete p) s = .next (packCommand p 4 3 (packEnd p) s) := whileOn_powered _ hpow
theorem exec_unpack : exec (.unpack p) s = .next (unpackFront p s) := whileOn_powered _ hpow

end

/-- The slot shows the descriptor that a command has ended. -/
theorem exists_ended {i : Instr} {c : Nat} (h : exec i s = .next (after w (putSlot p k (y.ended c) u))) :
    ∃ t z, exec i s = .next t ∧ slotOf t p k = some z ∧ z.finished = true ∧ z.code = c :=
  ⟨_, _, h, (slotOf_after ..).trans (slotOf_putSlot_self ..), rfl, rfl⟩

end

/-- Settles O44, clause by clause: the checks, a pack stage by stage, a failed write at each stage, and an unpack. -/
theorem packerStages : Obligations.packer_stages := by
  intro s p k ks y w hpow hp hpacks hslot hopen hw
  subst hw
  have hfront : PackFront s p k y := ⟨⟨ks, hpacks⟩, hslot⟩
  refine ⟨fun c u hstage hu => ⟨fun hkind hcheck => ?packRefused, fun hkind hcheck => ?unpackRefused⟩,
    fun hkind hstage hcheck hwin => ⟨fun u hdrop hmark => ?drops, fun coarse u h v hkeep hcoarse hh hwrite => ?starts⟩,
    fun ct rows code u chunks u₀ hkind hstage hacc hcoarse hrows hchunks =>
      ⟨fun f a v x hcode hadds hf hwritten hindex => ?stores, fun a v hcode hwritten => ?sourceFails⟩,
    fun u hkind hstage hacc hwrite => ?valid, fun u hkind hstage hacc hmark => ?completes,
    fun c hkind hfirst hlast hans hc hfailed hends => ?writeFails,
    fun m u hkind hstage hcheck hread => ?unpacks, fun hkind hstage hans => ?unpackEnds⟩
  case packRefused =>
    rw [hu, exec_packStart hpow, hfront.packCommand_works hp hkind hstage hopen (packStart_refused hcheck)]
    rfl
  case unpackRefused =>
    refine ⟨_, exec_unpack hpow, ?_⟩
    rw [hu, hfront.unpackFront_ends hp hkind hstage hopen (unpack_refused hcheck) rfl rfl]
    rfl
  case drops =>
    rw [exec_packStart hpow, hfront.packCommand_works hp hkind hstage hopen (packStart_drops hcheck hwin hdrop hmark)]
    rfl
  case starts =>
    rw [exec_packStart hpow, hfront.packCommand_works hp hkind hstage hopen
      (packStart_starts hcheck hkeep (packCoarse_keeps hwin hkeep hcoarse) hh hwrite)]
  case stores =>
    have hsums : f = { y with adds := packAdds p y (sumStats (rows.map Prod.snd)) } := hf.trans (by rw [hadds]; rfl)
    have hall : chunksToWrite y rows code = chunks := (if_pos hcode).trans hchunks.symm
    rw [exec_packBody hpow, hfront.packCommand_works hp hkind hstage hopen (packBody_works hacc hcoarse hrows hsums
      (hall.symm ▸ hwritten) (absurd hcode) fun _ => ⟨hindex, rfl⟩)]
  case sourceFails =>
    have hfull : chunksToWrite y rows code = chunks.filter fun c => c.length == y.chunkBlocks :=
      (if_neg hcode).trans (by rw [hchunks])
    have hwork := packBody_works hacc hcoarse hrows rfl (hfull.symm ▸ (writeChunks_adds ..).symm ▸ hwritten)
      (fun _ => ⟨rfl, rfl⟩) fun h => absurd h hcode
    exact exists_ended ((exec_packBody hpow).trans (by rw [hfront.packCommand_works hp hkind hstage hopen hwork]))
  case valid =>
    rw [exec_packHeaderValid hpow, hfront.packCommand_works hp hkind hstage hopen (packValid_stores hacc hwrite)]
  case completes =>
    have hpack : y.isPack = true := beq_iff_eq.mpr hkind
    rw [exec_packComplete hpow, hfront.packCommand_works hp hkind hstage hopen (packEnd_ends hacc hmark), countDone, if_pos hpack]
    rfl
  case writeFails =>
    subst hc
    obtain hstage | hstage | hstage : y.stage = 1 ∨ y.stage = 2 ∨ y.stage = 3 := by omega
    · simp only [hstage]
      exact exists_ended ((exec_packBody hpow).trans (congrArg _
        (hfront.packCommand_works hp hkind hstage hopen (packBody_failed hans hfailed hends))))
    · simp only [hstage]
      exact exists_ended ((exec_packHeaderValid hpow).trans (congrArg _
        (hfront.packCommand_works hp hkind hstage hopen (packValid_failed hans hfailed hends))))
    · simp only [hstage]
      exact exists_ended ((exec_packComplete hpow).trans (congrArg _
        (hfront.packCommand_works hp hkind hstage hopen (packEnd_failed hans hfailed hends))))
  case unpacks =>
    have hu : u.pumps = s.pumps := pumps_of_runM hread (keeps_xferRead .rfl (.refl s)) rfl
    have hends : ∀ {z x}, Works (unpack p k y) s (putSlot p k z x) → x.pumps = s.pumps → z.finished = true →
        exec (.unpack p) s = .next (after (slotWho p k) (putSlot p k z x)) := fun hwork hx hz =>
      (exec_unpack hpow).trans (congrArg _ (hfront.unpackFront_ends hp hkind hstage hopen hwork hx hz))
    have hkept : ∀ {r v}, runM (readPacked p k y) u = (r, v) → v.pumps = s.pumps := fun h =>
      (pumps_of_runM h (keeps_readPacked .rfl (.refl u)) rfl).trans hu
    refine ⟨fun hset => hends (unpack_skips hcheck hread hset) hu rfl, fun coarse body index v o x hzero htensor hchunks =>
      ⟨fun z ho hscale => ?unpacked, fun c b ho hfatal => exists_ended (hends
        (unpack_chunkFailed hcheck hread hzero htensor hchunks ho hfatal) ?chunks rfl)⟩,
      fun c v hzero htensor hfatal => exists_ended (hends
        ((runM_unpack_failed hcheck hread hzero htensor).trans (packedFails_ends hfatal v)) (hkept htensor) rfl),
      fun c v x hzero htensor hfall hlost hmark => ⟨_, _, hends
        ((runM_unpack_failed hcheck hread hzero htensor).trans (packedFails_lost hfall hlost hmark)) ?mark rfl,
        (slotOf_after ..).trans (slotOf_putSlot_self ..), rfl, rfl, rfl, ?counted⟩⟩
    case unpacked =>
      rw [exec_unpack hpow, unpackFront, hfront.packCommand_works hp hkind hstage hopen
        (unpack_stores hcheck hread hzero htensor hchunks ho hscale)]
    case chunks => exact (pumps_of_runM hchunks (keeps_unpackChunks .rfl _ _ _ _ (.refl v)) rfl).trans (hkept htensor)
    case mark =>
      have hx : x.pumps = v.pumps := pumps_of_runM hmark (.m_bind (keeps_xferWrite .rfl (.refl v)) fun _ _ h => h) rfl
      rw [countFallback_pumps, hx, hkept htensor]
    case counted =>
      have hpage : pgCluster p ≠ pgPump p := by
        unfold pgCluster pgPump
        omega
      rw [rd_after, rd_putSlot hpage (by decide), rd_countFallback hp]
  case unpackEnds =>
    have hlater : PackFront (after (slotWho p k) s) p k y := hfront.afterWork
    have hno : y.stage ≠ 0 := by omega
    rw [exec_unpack hpow, unpackFront, hfront.packCommand_waits hp (.inl hno),
      hlater.packCommand_works hp hkind hstage hopen (unpackEnd_ends hans), forgetErrors_after]
    rfl

end Sys2Proof.Machine
end

section
/-! PROOFS. The random probe, the staging of the random state, the losses of a step (R500, R503, R505). -/

namespace Sys2Proof.Machine

section
variable {s u : State} {v step : Nat}

/-! ### The random probe (R500) -/

/-- The four words of a Philox block, in the copies of the output field. -/
def showBlock (a b c d : Nat) (s : State) : State :=
  wrAt pgMonitor Reg.RNG_PROBE_OUT 3 d (wrAt pgMonitor Reg.RNG_PROBE_OUT 2 c
    (wrAt pgMonitor Reg.RNG_PROBE_OUT 1 b (wrAt pgMonitor Reg.RNG_PROBE_OUT 0 a s)))

theorem rdAt_showBlock_OUT (a b c d : Nat) (s : State) :
    (List.range 4).map (rdAt (showBlock a b c d s) pgMonitor Reg.RNG_PROBE_OUT) = [a, b, c, d].map (· % 2 ^ 32) := by
  change [_, _, _, _] = [_, _, _, _]
  simp (disch := decide) only [showBlock, rdAt_wrAt_self, rdAt_wrAt_other]
  rfl

theorem rdAt_showBlock_CTR (a b c d : Nat) (s : State) :
    rdAt (showBlock a b c d s) pgMonitor Reg.RNG_PROBE_CTR 3 = rdAt s pgMonitor Reg.RNG_PROBE_CTR 3 := by
  simp (disch := decide) only [showBlock, rdAt_wrAt_other]

/-- The counter's last word takes the written value, and the block is that of the key and the counter. -/
theorem rngProbe_shows {a b c d : Nat} (hw : writable s pgMonitor = true) (hv : v < 2 ^ 32)
    (hblock : philox (rd s pgMonitor Reg.RNG_PROBE_KEY % 2 ^ 32) (rd s pgMonitor Reg.RNG_PROBE_KEY / 2 ^ 32)
      (rdAt s pgMonitor Reg.RNG_PROBE_CTR 0, rdAt s pgMonitor Reg.RNG_PROBE_CTR 1, rdAt s pgMonitor Reg.RNG_PROBE_CTR 2, v) =
        [a, b, c, d]) :
    rngProbe v s = showBlock a b c d (wrAt pgMonitor Reg.RNG_PROBE_CTR 3 v s) := by
  have hlast : v % 2 ^ Reg.RNG_PROBE_CTR.w = v := Nat.mod_eq_of_lt hv
  unfold rngProbe
  rw [if_neg (by simp [hw])]
  simp (disch := decide) only [rd, rdAt_wrAt_self, rdAt_wrAt_other, hlast] at hblock ⊢
  rw [hblock]
  rfl

theorem exec_rngProbe (v : Nat) (hp : s.powered = true) : exec (.rngProbe v) s = .next (rngProbe v s) :=
  whileOn_powered _ hp

/-! ### Staging the random state (R503) -/

theorem rngStage_stages {a : Nat} {r : Nat × Nat} (h : Reads (readRngRecord a) s r u) :
    Works (rngStage a) s (setStage (some r) 1 u) := runM_bind_ok (runM_catchCode_ok h)

theorem rngStage_refuses {a c : Nat} (h : runM (readRngRecord a) s = (.error (.code c), u)) :
    Works (rngStage a) s (refuseRng c u) := runM_bind_ok (runM_catchCode_code h)

theorem exec_rngRestoreStage {a : Nat} (hp : s.powered = true) (hw : writable s pgMonitor = true) (ha : a < 2 ^ 64)
    (h : Works (rngStage a) s u) : exec (.rngRestoreStage a) s = .next (after monWho u) := by
  refine (whileOn_powered _ hp).trans ?_
  rw [if_pos hw, Nat.mod_eq_of_lt ha, attempt_works h]

/-! ### Losses (R505) -/

theorem lmLossIn_keeps {data : List Byte} (hw : writable s pgMonitor = true) (hlen : data.length = 8)
    (hopen : stepOpen s (fld data 4 4) = true) (hsent : sentFor s (fld data 4 4) = false) :
    lmLossIn 0 data s =
      { s with mon := { s.mon with loss := insertKey s.mon.loss (fld data 4 4) (fld data 0 4) } } := by
  unfold lmLossIn
  dsimp only
  rw [if_neg (by simp [hw]), if_pos ⟨rfl, hlen, hopen, by simp [hsent]⟩]

theorem lmLossIn_late {off : Nat} {data : List Byte} (hw : writable s pgMonitor = true)
    (h : off ≠ 0 ∨ data.length ≠ 8 ∨ stepOpen s (fld data 4 4) = false ∨ sentFor s (fld data 4 4) = true) :
    lmLossIn off data s = bump pgMonitor Reg.LM_LATE 1 s := by
  have htaken : ¬(off = 0 ∧ data.length = 8 ∧ stepOpen s (fld data 4 4) ∧ !sentFor s (fld data 4 4)) := by
    rintro ⟨hoff, hlen, hopen, hsent⟩
    rcases h with h | h | h | h
    · exact h hoff
    · exact h hlen
    · rw [h] at hopen; cases hopen
    · rw [h] at hsent; cases hsent
  unfold lmLossIn
  dsimp only
  rw [if_neg (by simp [hw]), if_neg htaken]

theorem exec_lmLossIn (off : Nat) (data : List Byte) (hp : s.powered = true) :
    exec (.lmLossIn off data) s = .next (lmLossIn off data s) := whileOn_powered _ hp

end

/-- Settles O57, clause by clause: the probe, a record that is staged or refused, a loss that is kept or comes late. -/
theorem monitorCommands : Obligations.monitor_commands := by
  intro s hp hw
  refine ⟨fun v hv => ⟨_, exec_rngProbe v hp, ?probe⟩, fun a ha => ⟨fun r u h => ?staged, fun c u h => ?refused⟩,
    fun data hlen hopen hsent => ?kept, fun off data hlate => ?late⟩
  case probe =>
    obtain ⟨a, b, c, d, hblock⟩ : ∃ a b c d, philox (rd s pgMonitor Reg.RNG_PROBE_KEY % 2 ^ 32)
        (rd s pgMonitor Reg.RNG_PROBE_KEY / 2 ^ 32) (rdAt s pgMonitor Reg.RNG_PROBE_CTR 0,
          rdAt s pgMonitor Reg.RNG_PROBE_CTR 1, rdAt s pgMonitor Reg.RNG_PROBE_CTR 2, v) = [a, b, c, d] :=
      ⟨_, _, _, _, rfl⟩
    rw [rngProbe_shows hw hv hblock, hblock]
    refine ⟨?_, rdAt_showBlock_OUT ..⟩
    rw [rdAt_showBlock_CTR, rdAt_wrAt_self]
    exact Nat.mod_eq_of_lt hv
  case staged => exact exec_rngRestoreStage hp hw ha (rngStage_stages h)
  case refused => exact exec_rngRestoreStage hp hw ha (rngStage_refuses h)
  case kept => rw [exec_lmLossIn 0 data hp, lmLossIn_keeps hw hlen hopen hsent]
  case late => rw [exec_lmLossIn off data hp, lmLossIn_late hw hlate]

end Sys2Proof.Machine
end

section
/-! PROOFS. Batches of the cistern: their release, their return, the cursor record and its restore (R504, R587, R591 to
R595). -/

namespace Sys2Proof.Machine

section
variable {s t u v : State} {w : Who} {page : Nat}

/-! ### What the status registers leave (R592) -/

/-- The cistern's status shows in fields that lie below the batch counters. -/
theorem rd_showCistern {f : Field} (h : Reg.CI_STATUS_BLOCKED.bit < f.bit) (s : State) :
    rd (showCistern s) pgCistern f = rd s pgCistern f := by
  have hbits : f.bit ≠ Reg.CI_STATUS_READY.bit ∧ f.bit ≠ Reg.CI_STATUS_FILLING.bit ∧ f.bit ≠ Reg.CI_STATUS_BLOCKED.bit := by
    simp only [Reg.CI_STATUS_BLOCKED, Reg.CI_STATUS_READY, Reg.CI_STATUS_FILLING] at h ⊢
    omega
  obtain ⟨hready, hfilling, hblocked⟩ := hbits
  unfold showCistern
  rw [rd_wr_field _ _ _ hready, rd_wr_field _ _ _ hfilling, rd_wr_field _ _ _ hblocked]

/-- `LOW` and its event move no field of the cistern above its status. -/
theorem rd_showCiLow {f : Field} (h : Reg.CI_STATUS_BLOCKED.bit < f.bit) (hpage : f.bit < 32768) (s : State) :
    rd (showCiLow s) pgCistern f = rd s pgCistern f := by
  have hlow : f.bit ≠ Reg.CI_STATUS_LOW.bit := by
    simp only [Reg.CI_STATUS_BLOCKED, Reg.CI_STATUS_LOW] at h ⊢
    omega
  have hoff : OffEvent pgCistern (f.key pgCistern 0) := by
    simp only [OffEvent, OffRing, Field.key, pgCistern, pgHost, Reg.CI_STATUS_BLOCKED, Reg.PAGE_INT_STATUS,
      Reg.HI_EQ_TAIL, Reg.HI_EQ_DROPS, Reg.HI_STATUS_EQ_OVERFLOW] at h ⊢
    omega
  unfold showCiLow
  split
  · split
    · rfl
    · rw [raiseBit_rd _ _ _ hoff, rd_wr_field _ _ _ hlow]
  · rw [rd_wr_field _ _ _ hlow]

@[simp] theorem after_cist (w : Who) (s : State) : (after w s).cist = s.cist := rfl

@[simp] theorem showCistern_cist (s : State) : (showCistern s).cist = s.cist := rfl

@[simp] theorem showCiLow_cist (s : State) : (showCiLow s).cist = s.cist :=
  (keeps_showCiLow .rfl (.refl s)).cist.resolve_left (by decide)

/-! ### Acknowledgements of the controller and the transform units (R587) -/

@[simp] theorem answered_forgetErrors (w' : Who) (s : State) : answered (forgetErrors w' s) w = answered s w := by
  unfold forgetErrors
  split
  · rfl
  · rfl

@[simp] theorem answered_logErr (page code tag : Nat) (s : State) : answered (logErr page code tag s) w = answered s w := by
  have hbus : (logErr page code tag s).bus = s.bus := (keeps_logErr .rfl (.refl s)).bus.resolve_left (by decide)
  unfold answered
  rw [hbus]

/-- A requester's failed writes are forgotten, the code of the first one in the page's log. -/
def logFailed (w : Who) (page : Nat) (s : State) : State :=
  if writeCode s w ≠ 0 then logErr page (writeCode s w) 0 (forgetErrors w s) else forgetErrors w s

theorem answered_logFailed (w' : Who) (page : Nat) (s : State) : answered (logFailed w' page s) w = answered s w := by
  unfold logFailed
  split
  · rw [answered_logErr, answered_forgetErrors]
  · rw [answered_forgetErrors]

theorem runM_cisternAcks_cons (ws : List (Who × Nat)) (h : answered s w = true) :
    runM (cisternAcks ((w, page) :: ws)) s = runM (cisternAcks ws) (logFailed w page s) := by
  rw [cisternAcks, runM_bind_ok (codeOf_acknowledged h)]
  unfold logFailed
  split
  · rw [runM_bind_ok (runM_modify _ _)]
  · rfl

/-- With every write answered, the acknowledgements get through: taking up one leaves the others answered. -/
theorem cisternAcks_works (ws : List (Who × Nat)) (h : ∀ e ∈ ws, answered s e.1 = true) :
    Works (cisternAcks ws) s (leaves (cisternAcks ws) s) := by
  unfold Works leaves
  induction ws generalizing s with
  | nil => rfl
  | cons e ws ih =>
    rw [runM_cisternAcks_cons ws (h e List.mem_cons_self)]
    exact ih fun e' he => by rw [answered_logFailed]; exact h e' (List.mem_cons_of_mem _ he)

@[simp] theorem leaves_cisternAcks_cist (ws : List (Who × Nat)) (s : State) : (leaves (cisternAcks ws) s).cist = s.cist :=
  (keeps_cisternAcks .rfl ws s (.refl s)).cist.resolve_left (by decide)

/-! ### Writes and notifications -/

/-- The code of work that only a code can stop is always found. -/
theorem stopsOnly_codeOf {P : Stop → Prop} {m : M Unit} (h : StopsOnly (fun e => ∃ c, e = .code c) m) :
    StopsOnly P (codeOf m) := by
  refine .m_tryCatch (.m_bind h fun _ => .m_pure 0) fun e he => ?_
  obtain ⟨c, rfl⟩ := he
  exact .m_pure c

/-- A write to a buffer gets through: its code goes to the log. -/
theorem ciWrite_works (a : Nat) (d : List PByte) (s : State) : Works (ciWrite a d) s (leaves (ciWrite a d) s) :=
  StopsOnly.works (.m_bind (stopsOnly_codeOf (stopsOnly_busWrite ciWho a d)) fun _ =>
    .m_ite (.m_modify _) (.m_pure ())) s

theorem notifyAdds_works (as : List Nat) (s : State) : Works (notifyAdds as) s (leaves (notifyAdds as) s) := by
  refine StopsOnly.works ?_ s
  induction as with
  | nil => exact .m_pure ()
  | cons a as ih => exact .m_ite (.m_bind (.m_modify _) fun _ => ih) ih

theorem keeps_leaves_notifyAdds (as : List Nat) (s : State) : Keeps 8 s (leaves (notifyAdds as) s) :=
  keeps_notifyAdds .rfl as s (.refl s)

@[simp] theorem leaves_notifyAdds_cist (as : List Nat) (s : State) : (leaves (notifyAdds as) s).cist = s.cist :=
  (keeps_leaves_notifyAdds as s).cist.resolve_left (by decide)

@[simp] theorem rd_leaves_notifyAdds (as : List Nat) (s : State) (page : Nat) (f : Field) :
    rd (leaves (notifyAdds as) s) page f = rd s page f := by
  have hregs : (leaves (notifyAdds as) s).regs = s.regs := (keeps_leaves_notifyAdds as s).regs.resolve_left (by decide)
  rw [rd, rdAt, hregs, ← rdAt, ← rd]

/-! ### The steps of a release (R587) -/

/-- The samples in flight of the oldest filling batch. -/
def oldestBatch (s : State) : List CiSample :=
  s.cist.flight.filter fun x => x.num / ciSlots s == rd s pgCistern Reg.CI_READY

/-- The batch is released: it leaves the flight, and `CI_READY` goes to `ready`. -/
def releasedTo (b n ready : Nat) (s : State) : State :=
  showCiLow (wr pgCistern Reg.CI_READY ready
    (modCist (fun c => { c with releasing := 0, flight := c.flight.filter fun x => x.num / n != b }) s))

/-- The oldest filling batch is complete, and all that was written for it is answered. -/
structure BatchDone (s : State) : Prop where
  on : ciOn s = true
  full : (oldestBatch s).length = ciSlots s
  finished : (oldestBatch s).all CiSample.finished = true
  answered : ∀ e ∈ cisternWriters, answered s e.1 = true

/-- What one step of the release does once the acknowledgements are taken up. -/
def releasePart (s : State) : Nat → M Unit
  | 0 => do
    ciWrite (bufferAt s (rd s pgCistern Reg.CI_READY)) (clean
      (batchHeader (rd s pgCistern Reg.CI_READY) (ciSlots s) ((oldestBatch s).map CiSample.status) ++
        batchMask (ciSlots s) ((oldestBatch s).map CiSample.status)))
    modify (modCist fun c => { c with releasing := 1 })
  | 1 => do
    ciWrite (bufferAt s (rd s pgCistern Reg.CI_READY) + 0x1C) (clean (leBytes 4 1))
    modify (modCist fun c => { c with releasing := 2 })
  | _ => do
    modify (releasedTo (rd s pgCistern Reg.CI_READY) (ciSlots s) (rd s pgCistern Reg.CI_READY + 1))
    notifyAdds ((List.range 4).map fun i => rdAt s pgCistern Reg.CI_NOTIFY i)

theorem BatchDone.runM_batchRelease (h : BatchDone s) :
    runM batchRelease s = runM (releasePart s s.cist.releasing) (leaves (cisternAcks cisternWriters) s) := by
  have hgate : (ciOn s && (oldestBatch s).length == ciSlots s && (oldestBatch s).all CiSample.finished) = true := by
    rw [h.on, h.full, h.finished, beq_self_eq_true]
    rfl
  unfold batchRelease
  refine (runM_bind_ok (runM_get s)).trans ?_
  refine (runM_bind_ok (runM_waitFor_true hgate s)).trans ?_
  refine (runM_bind_ok (cisternAcks_works _ h.answered)).trans ?_
  match s.cist.releasing with
  | 0 => rfl
  | 1 => rfl
  | _ + 2 => rfl

theorem ciCommand_works {m : M Unit} (h : Works m s t) : ciCommand m s = after ciWho (showCistern t) :=
  attempt_works (runM_bind_ok h)

/-- A step that leaves the release under way at another stage is followed by the next. -/
theorem releaseSteps_goesOn (k : Nat) (h : Works batchRelease s t) (hmore : t.cist.releasing ≠ 0)
    (hnew : t.cist.releasing ≠ s.cist.releasing) :
    releaseSteps (k + 1) s = releaseSteps k (after ciWho (showCistern t)) := by
  rw [releaseSteps, ciCommand_works h]
  exact if_neg (not_or.mpr ⟨hmore, hnew⟩)

theorem releaseSteps_ends (k : Nat) (h : Works batchRelease s t) (hdone : t.cist.releasing = 0) :
    releaseSteps (k + 1) s = after ciWho (showCistern t) := by
  rw [releaseSteps, ciCommand_works h]
  exact if_pos (.inl hdone)

theorem exec_ciBatchRelease (hp : s.powered = true) : exec .ciBatchRelease s = .next (releaseSteps 3 s) :=
  whileOn_powered _ hp

/-- A step of the release that writes to the buffer and notes stage `r`. -/
theorem BatchDone.writes {a r : Nat} {d : List PByte} (h : BatchDone s)
    (hpart : releasePart s s.cist.releasing = do
      ciWrite a d
      modify (modCist fun c => { c with releasing := r }))
    (hmore : r ≠ 0) (hnew : r ≠ s.cist.releasing) (hp : s.powered = true) :
    exec .ciBatchRelease s = .next (releaseSteps 2 (after ciWho (showCistern (modCist (fun c => { c with releasing := r })
      (leaves (ciWrite a d) (leaves (cisternAcks cisternWriters) s)))))) := by
  have hworks := h.runM_batchRelease
  rw [hpart, runM_bind_ok (ciWrite_works a d _)] at hworks
  rw [exec_ciBatchRelease hp, releaseSteps_goesOn 2 hworks hmore hnew]

@[simp] theorem releasedTo_cist (b n ready : Nat) (s : State) : (releasedTo b n ready s).cist =
    { s.cist with releasing := 0, flight := s.cist.flight.filter fun x => x.num / n != b } := by
  rw [releasedTo, showCiLow_cist]
  rfl

theorem rd_releasedTo_CI_READY (b n ready : Nat) (s : State) :
    rd (releasedTo b n ready s) pgCistern Reg.CI_READY = ready % 2 ^ 64 := by
  rw [releasedTo, rd_showCiLow (by decide) (by decide), rd_wr_self]
  rfl

/-- The last step of the release ends it. -/
theorem BatchDone.releases (h : BatchDone s) (hstage : s.cist.releasing = 2) :
    releaseSteps 3 s = after ciWho (showCistern
      (leaves (notifyAdds ((List.range 4).map fun i => rdAt s pgCistern Reg.CI_NOTIFY i))
        (releasedTo (rd s pgCistern Reg.CI_READY) (ciSlots s) (rd s pgCistern Reg.CI_READY + 1)
          (leaves (cisternAcks cisternWriters) s)))) := by
  have hworks := h.runM_batchRelease
  rw [hstage] at hworks
  exact releaseSteps_ends 2 (hworks.trans ((runM_bind_ok (runM_modify _ _)).trans (notifyAdds_works _ _)))
    (by rw [leaves_notifyAdds_cist, releasedTo_cist])

/-! ### Returns (R591, R592) -/

theorem exec_ciReturn (off : Nat) (data : List Byte) (hp : s.powered = true) :
    exec (.ciReturn off data) s = .next (ciReturn off data s) := whileOn_powered _ hp

theorem ciReturn_ignored {off : Nat} {data : List Byte} (h : off ≠ 0 ∨ data.length ≠ 8) : ciReturn off data s = s :=
  if_pos (.inr h)

/-- A return is taken: it is noted under its step, and `CI_RETURNED` goes to `returned`. -/
def returnedTo (step count returned : Nat) (s : State) : State :=
  showCistern (showCiLow (modCist (fun c => { c with returns := c.returns ++ [(step, count)], lastReturn := some step })
    (wr pgCistern Reg.CI_RETURNED returned s)))

/-- The count of a return is out of range, or its step falls behind the last one. -/
def badReturn (s : State) (data : List Byte) : Prop :=
  fld data 4 1 = 0 ∨ 64 < fld data 4 1 ∨ readyCount s < fld data 4 1 ∨
    ∃ l, s.cist.lastReturn = some l ∧ fld data 0 4 < l

/-- A return of 8 bytes is refused where it is a bad one, and else taken. -/
theorem ciReturn_cases {data : List Byte} (hw : writable s pgCistern = true) (hlen : data.length = 8) :
    (badReturn s data → ciReturn 0 data s = logErr pgCistern 0x0524 (fld data 0 4) s) ∧
    (¬badReturn s data → ciReturn 0 data s =
      returnedTo (fld data 0 4) (fld data 4 1) (rd s pgCistern Reg.CI_RETURNED + fld data 4 1) s) := by
  have hfalls : (match s.cist.lastReturn with
      | some l => decide (fld data 0 4 < l)
      | none => false) = true ↔ ∃ l, s.cist.lastReturn = some l ∧ fld data 0 4 < l := by
    cases s.cist.lastReturn with
    | none => simp
    | some l => simp
  have hshape : ¬((!writable s pgCistern) = true ∨ (0 : Nat) ≠ 0 ∨ data.length ≠ 8) := by simp [hw, hlen]
  unfold ciReturn
  rw [if_neg hshape]
  exact ⟨fun h => if_pos (h.imp_right (Or.imp_right (Or.imp_right hfalls.mpr))),
    fun h => if_neg fun k => h (k.imp_right (Or.imp_right (Or.imp_right hfalls.mp)))⟩

theorem rd_returnedTo_CI_RETURNED (step count returned : Nat) (s : State) :
    rd (returnedTo step count returned s) pgCistern Reg.CI_RETURNED = returned % 2 ^ 64 := by
  rw [returnedTo, rd_showCistern (by decide), rd_showCiLow (by decide) (by decide), modCist_rd, rd_wr_self]
  rfl

@[simp] theorem returnedTo_cist (step count returned : Nat) (s : State) : (returnedTo step count returned s).cist =
    { s.cist with returns := s.cist.returns ++ [(step, count)], lastReturn := some step } := by
  rw [returnedTo, showCistern_cist, showCiLow_cist]
  rfl

/-! ### The cursor record (R593) -/

section
variable {c : CiCursor} {cs : List CiCursor} (hfront : s.cist.cursors = c :: cs) (hsent : c.sent = true)
include hfront hsent

/-- The record leaves with the code of its writes, which a failing one puts in the log. -/
theorem cursorStep_works {code : Nat} (hcode : runM (codeOf (do
      acknowledged cursorWho
      busWriteNat cursorWho (cursorAt s c.step) 4 c.step)) s = (.ok code, v)) :
    Works cursorStep s (if code = 0 then modCist (fun x => { x with cursors := cs }) v
      else logErr pgCistern code c.step (modCist (fun x => { x with cursors := cs }) v)) := by
  unfold cursorStep Works
  rw [runM_bind_ok (runM_get s), hfront]
  refine (runM_bind_ok (runM_waitFor_true hsent s)).trans ?_
  exact runM_bind_ok hcode

theorem exec_cursorRecordStep (hp : s.powered = true) (h : Works cursorStep s t) :
    exec .cursorRecordStep s = .next (after cursorWho t) := by
  have hbody : ¬(s.cist.cursors.head?.any fun c => !c.sent) = true := by simp [hfront, hsent]
  refine (whileOn_powered _ hp).trans ?_
  rw [cursorRecord, if_neg hbody, attempt_works h]

end

/-! ### The restore (R504, R594, R595) -/

theorem exec_ciRestore {a : Nat} (hp : s.powered = true) (hw : writable s pgCistern = true)
    (h : Works (ciRestore (a % 2 ^ 64)) s u) : exec (.ciRestore a) s = .next (after cursorWho u) := by
  refine (whileOn_powered _ hp).trans ?_
  rw [ciRestoreWrite, if_pos hw, attempt_works h]

theorem ciRestore_refuses {a c : Nat} (h : runM (readCursor a) s = (.error (.code c), u)) :
    Works (ciRestore a) s (refuseRestore c u) := runM_bind_ok (runM_catchCode_code h)

/-- A record that passes is held against the staged random state. -/
theorem ciRestore_settles {a seed step : Nat} {d : List Byte} (h : Reads (readCursor a) s d u)
    (hstaged : u.mon.staged = some (seed, step)) :
    Works (ciRestore a) s (if fld d 0 4 = step
      then restoreCursor d (setStage none 2 (wr pgMonitor Reg.RNG_SEED seed (wr pgMonitor Reg.RNG_STEP_TAG step
        (wr pgGeneration Reg.GEN_STEP step u))))
      else refuseRestore 0x0630 (refuseRng 0x0630 (setStage none 3 u))) := by
  refine (runM_bind_ok (runM_catchCode_ok h)).trans ?_
  refine (runM_bind_ok (runM_get u)).trans ?_
  rw [hstaged]
  dsimp only
  split
  · rfl
  · rfl

end

/-- Settles O53, clause by clause: the three steps of a release, a return, the cursor record, its restore. -/
theorem cisternBatches : Obligations.cistern_batches := by
  intro s hp
  refine ⟨?release, fun off data hw => ?ret, fun c cs hfront hsent => ?cursor, fun a hw => ?restore⟩
  case release =>
    rintro b n mine v ws hon rfl rfl rfl hfull hfinished hans rfl rfl
    have hdone : BatchDone s := ⟨hon, hfull, hfinished, hans⟩
    refine ⟨fun hstage => ?_, fun hstage => ?_, fun hstage => ⟨_, exec_ciBatchRelease hp, ?_⟩⟩
    · exact hdone.writes (by rw [hstage]; rfl) (by decide) (by rw [hstage]; decide) hp
    · exact hdone.writes (by rw [hstage]; rfl) (by decide) (by rw [hstage]; decide) hp
    · rw [hdone.releases hstage]
      refine ⟨?_, ?_⟩
      · rw [rd_after, rd_showCistern (by decide), rd_leaves_notifyAdds, rd_releasedTo_CI_READY]
      · rw [after_cist, showCistern_cist, leaves_notifyAdds_cist, releasedTo_cist, leaves_cisternAcks_cist]
        exact ⟨rfl, rfl⟩
  case ret =>
    refine ⟨fun hshape => ?_, fun hoff hlen => ?_⟩
    · rw [exec_ciReturn off data hp, ciReturn_ignored hshape]
    · subst hoff
      obtain ⟨hrefused, htaken⟩ := ciReturn_cases hw hlen
      refine ⟨fun hpos hmost hready hstep => ⟨_, exec_ciReturn 0 data hp, ?_⟩, fun hbad => ?_⟩
      · have hgood : ¬badReturn s data := by
          rintro (h | h | h | ⟨l, hl, h⟩)
          · omega
          · omega
          · omega
          · exact absurd (hstep l hl) (by omega)
        rw [htaken hgood, returnedTo_cist]
        exact ⟨rd_returnedTo_CI_RETURNED .., rfl, rfl⟩
      · rw [exec_ciReturn 0 data hp, hrefused hbad]
  case cursor =>
    refine ⟨fun v hacc hwrite => ?_, fun hans hcode => ?_⟩
    · have hworks : Works (do acknowledged cursorWho; busWriteNat cursorWho (cursorAt s c.step) 4 c.step) s v :=
        (runM_bind_ok (runM_acknowledged hacc)).trans hwrite
      exact exec_cursorRecordStep hfront hsent hp (cursorStep_works hfront hsent (runM_codeOf hworks))
    · have hfails := runM_codeOf_code (runM_bind_error (f := fun _ =>
        busWriteNat cursorWho (cursorAt s c.step) 4 c.step) (runM_acknowledged_failed hans hcode))
      have hworks := cursorStep_works hfront hsent hfails
      rw [if_neg hcode] at hworks
      exact exec_cursorRecordStep hfront hsent hp hworks
  case restore =>
    refine ⟨fun d u seed step hread hstaged => ?_, fun c u hfail => exec_ciRestore hp hw (ciRestore_refuses hfail)⟩
    have hworks := ciRestore_settles hread hstaged
    refine ⟨fun hsame => ?_, fun hother => ?_⟩
    · rw [if_pos hsame] at hworks
      exact exec_ciRestore hp hw hworks
    · rw [if_neg hother] at hworks
      exact exec_ciRestore hp hw hworks

end Sys2Proof.Machine
end

section
/-! PROOFS. What a write of a unit leaves of the pages of the decoders and encoders: every field behind their headers (R802,
R619 to R629). -/

namespace Sys2Proof.Machine

/-- The keys of the decoders' and encoders' own fields, which lie behind the headers of their pages. -/
def InMedia (k : Nat) : Prop := pgDecoder 0 * 32768 ≤ k ∧ k < pgTransform 0 * 32768 ∧ 2048 ≤ k % 32768

/-- Every field of the decoders and encoders is as it was. -/
structure SameMedia (s t : State) : Prop where
  same : ∀ page f i, InMedia (f.key page i) → rdAt t page f i = rdAt s page f i

section
variable {page i v : Nat} {f : Field} {s t u : State}

theorem not_inMedia_of_lt (hp : page < pgDecoder 0) (hf : f.bit + i * (f.stride * 8) < 32768) :
    ¬ InMedia (f.key page i) := by
  simp only [InMedia, Field.key, pgDecoder] at hp ⊢
  omega

theorem not_inMedia_of_le (hp : pgTransform 0 ≤ page) : ¬ InMedia (f.key page i) := by
  simp only [InMedia, Field.key, pgTransform] at hp ⊢
  omega

theorem not_inMedia_header (hf : f.bit < 2048) : ¬ InMedia (f.key page 0) := by
  simp only [InMedia, Field.key]
  omega

theorem SameMedia.refl (s : State) : SameMedia s s := ⟨fun _ _ _ _ => rfl⟩

theorem SameMedia.trans (h : SameMedia s t) (k : SameMedia t u) : SameMedia s u :=
  ⟨fun page f i hk => (k.same page f i hk).trans (h.same page f i hk)⟩

theorem SameMedia.of_regs (h : t.regs = s.regs) : SameMedia s t := ⟨fun _ _ _ _ => by rw [rdAt, h, ← rdAt]⟩

/-- Operations whose parts leave the registers out. -/
theorem SameMedia.of_keeps {M : Nat} (h : Keeps M s t) (hM : M.testBit 0 = false) : SameMedia s t :=
  .of_regs (h.regs.resolve_left (by simp [hM]))

theorem SameMedia.wrAt (h : SameMedia s t) (hoff : ¬ InMedia (f.key page i)) : SameMedia s (wrAt page f i v t) :=
  h.trans ⟨fun _ _ _ hk => rdAt_wrAt_other t v fun heq => hoff (heq ▸ hk)⟩

/-- A field of a page that lies before theirs: of a tile, a channel or a port. -/
theorem SameMedia.wr (h : SameMedia s t) (hp : page < pgDecoder 0) (hf : f.bit < 32768) : SameMedia s (wr page f v t) :=
  h.wrAt (not_inMedia_of_lt hp (by omega))

theorem SameMedia.bump (h : SameMedia s t) (hp : page < pgDecoder 0) (hf : f.bit < 32768) : SameMedia s (bump page f v t) :=
  h.wr hp hf

theorem SameMedia.ite {c : Prop} [Decidable c] (h : SameMedia s t) (k : SameMedia s u) :
    SameMedia s (if c then t else u) := by
  split
  · exact h
  · exact k

theorem SameMedia.foldl {α : Type} {f : State → α → State} {l : List α} (hf : ∀ a ∈ l, ∀ u, SameMedia u (f u a))
    (s : State) : SameMedia s (l.foldl f s) := by
  induction l generalizing s with
  | nil => exact .refl s
  | cons a l ih => exact (hf a List.mem_cons_self s).trans (ih (fun b hb => hf b (List.mem_cons_of_mem _ hb)) _)

/-- An event moves `PAGE_INT_STATUS` of its page and the event ring of the host page alone. -/
theorem SameMedia.raiseBit {b : Nat} (h : SameMedia s t) : SameMedia s (raiseBit page b t) := by
  refine h.trans ⟨fun p f i hk => raiseBit_rdAt page b t ?_⟩
  have hne : ∀ {k}, ¬ InMedia k → f.key p i ≠ k := fun hoff heq => hoff (heq ▸ hk)
  exact ⟨hne (not_inMedia_header (by decide)), hne (not_inMedia_of_le (by decide)), hne (not_inMedia_of_le (by decide)),
    hne (not_inMedia_of_le (by decide))⟩

end

/-! ### Where memory lies -/

theorem tile_lt_of_regionOf {s : State} {a p o : Nat} (h : regionOf s a = .well p o) : p < 4352 := by
  unfold regionOf at h
  split at h
  · next hwell =>
    simp only [wellEnd] at hwell
    injection h with hp
    omega
  · split at h
    · cases h
    · split at h <;> cases h

theorem channelOf_lt (s : State) (off : Nat) : channelOf s off < 16 := by
  unfold channelOf granulePlace
  split
  · unfold relocated
    dsimp only
    split <;> omega
  · exact Nat.mod_lt _ (by decide)

theorem pgChannel_channelOf_lt (s : State) (off : Nat) : pgChannel (channelOf s off) < pgDecoder 0 := by
  have h := channelOf_lt s off
  simp only [pgChannel, pgDecoder]
  omega

theorem pgTile_lt_of_regionOf {s : State} {a p o : Nat} (h : regionOf s a = .well p o) : pgTile p < pgDecoder 0 :=
  Nat.lt_trans (tile_lt_of_regionOf h) (by decide)

/-! ### Words, units, ranges of memory -/

section
variable (a w n : Nat) (data : List PByte) (s : State)

theorem sameMedia_countCorrected : SameMedia s (countCorrected a s) := by
  unfold countCorrected
  split
  · next hr => exact .trans (.bump (.refl s) (pgTile_lt_of_regionOf hr) (by decide)) (.of_regs rfl)
  · next o hr =>
    extract_lets c aged counted m mem since lim
    have hc : pgChannel c < pgDecoder 0 := pgChannel_channelOf_lt s o
    have hsince : SameMedia s since := .trans (t := counted) (.bump (.of_regs rfl) hc (by decide)) (.of_regs rfl)
    exact .ite (.raiseBit (hsince.wr hc (by decide))) hsince
  · exact .refl s

theorem sameMedia_countUncorrectable : SameMedia s (countUncorrectable a s) := by
  unfold countUncorrectable
  extract_lets unit poisoned
  have hpoison : SameMedia s poisoned := .of_regs rfl
  split
  · next p o hr =>
    have hp : pgTile p < pgDecoder 0 := pgTile_lt_of_regionOf hr
    extract_lets counted captured aged
    have hcaptured : SameMedia s captured :=
      .wr (.wr (.bump hpoison hp (by decide)) hp (by decide)) hp (by decide)
    exact .raiseBit (hcaptured.trans (.of_regs rfl))
  · next o hr =>
    have hc : pgChannel (channelOf poisoned o) < pgDecoder 0 := pgChannel_channelOf_lt poisoned o
    extract_lets c aged counted captured
    have haged : SameMedia s aged := hpoison.trans (.of_regs rfl)
    have hcaptured : SameMedia s captured := .wr (.wr (.bump haged hc (by decide)) hc (by decide)) hc (by decide)
    exact .raiseBit hcaptured
  · exact hpoison

theorem sameMedia_readWord : SameMedia s (readWord w s).2 := by
  have hset : ∀ u bs, SameMedia u (setCells (w * 8) bs u) := fun _ _ => .of_regs rfl
  have hwrong : ∀ u bs, SameMedia s u → SameMedia s (countUncorrectable (w * 8) (setCells (w * 8) bs u)) :=
    fun u bs h => (h.trans (hset u bs)).trans (sameMedia_countUncorrectable ..)
  unfold readWord
  dsimp only
  split
  · exact .refl s
  split
  · exact .trans (t := setFlips w 0 s) (.of_regs rfl) (sameMedia_countCorrected ..)
  split
  · exact hwrong (setFlips w 0 s) _ (.of_regs rfl)
  split
  · exact .of_regs rfl
  split
  · exact .of_regs rfl
  · exact hwrong _ _ (.of_regs rfl)

theorem sameMedia_readWords : SameMedia s (readWords n w s).2 := by
  induction n generalizing w s with
  | zero => exact .refl s
  | succ n ih =>
    unfold readWords
    have hword := sameMedia_readWord w s
    generalize readWord w s = word at hword ⊢
    by_cases hp : isPoisoned s (w / 8) = true
    · rw [if_pos hp]
      exact ih _ _
    · rw [if_neg hp]
      exact hword.trans (ih _ _)

theorem sameMedia_zeroFill : SameMedia s (zeroFill a s) := by
  unfold zeroFill
  split
  · exact .refl s
  split
  · next hwell =>
    refine .bump (.of_regs rfl) ?_ (by decide)
    simp only [wellEnd, pgTile, pgDecoder] at hwell ⊢
    omega
  · extract_lets off page memory filled chans
    refine .trans (t := filled) (.of_regs rfl) (.foldl (fun c hc u => ?_) _)
    refine .bump (.refl u) ?_ (by decide)
    obtain ⟨i, -, rfl⟩ := List.mem_map.mp (List.mem_eraseDups.mp hc)
    exact pgChannel_channelOf_lt ..

theorem sameMedia_writeUnit : SameMedia s (writeUnit a data s) := by
  unfold writeUnit
  extract_lets n unit fresh filled whole partly merged stored cleared bad marked
  have hread : SameMedia filled merged := by
    refine .ite (.refl _) ?_
    split
    · next o hr =>
      have hc := pgChannel_channelOf_lt filled o
      refine .trans (.ite (t := bump _ Reg.CH_POISON_READS 1 _) ?_ ?_) (sameMedia_readWords ..)
      · exact .bump (.bump (.refl _) hc (by decide)) hc (by decide)
      · exact .bump (.refl _) hc (by decide)
    · exact .foldl (fun w _ v => .ite (.refl v) (sameMedia_readWord w v)) _
  have hcleared : SameMedia stored cleared := by
    refine .foldl (fun w _ v => ?_) _
    exact .ite (.of_regs rfl) (.refl v)
  have hmarked : SameMedia cleared marked := .ite (.of_regs rfl) (.ite (.of_regs rfl) (.refl _))
  have hall : SameMedia s marked :=
    (((sameMedia_zeroFill a s).trans hread).trans (u := stored) (.of_regs rfl)).trans (hcleared.trans hmarked)
  split
  · exact hall.bump (pgChannel_channelOf_lt ..) (by decide)
  · exact hall

theorem sameMedia_memWrite : SameMedia s (memWrite a data s) := by
  unfold memWrite
  generalize piecesOf a data.length = ps
  induction ps generalizing data s with
  | nil => exact .refl s
  | cons p ps ih => exact (sameMedia_writeUnit ..).trans (ih _ _)

end

/-! ### The latch of a page (R802 to R811) -/

/-- Pages of the types below the decoders' lie before theirs. -/
theorem lt_of_typeOf {page : Nat} (hlisted : typeOf page ≠ 0) (hbelow : typeOf page < 8) : page < pgDecoder 0 := by
  refine Nat.lt_of_not_le fun hge => ?_
  have hfirst : ∀ a ∈ typeStarts.take 8, decide (a ≤ page) = true := fun a ha =>
    decide_eq_true (Nat.le_trans ((by decide : ∀ a ∈ typeStarts.take 8, a ≤ pgDecoder 0) a ha) hge)
  have hcount : 8 ≤ (typeStarts.filter fun a => decide (a ≤ page)).length := by
    rw [← List.take_append_drop 8 typeStarts, List.filter_append, List.filter_eq_self.mpr hfirst, List.length_append]
    exact Nat.le_add_right 8 _
  unfold typeOf at hlisted hbelow
  split at hbelow
  · omega
  · next hout => exact hlisted (if_neg hout)

section
variable {page : Nat} {s t : State}

theorem sameMedia_latchChan {n : Nat} (hp : page < pgDecoder 0) (hn : n < 64) (s : State) :
    SameMedia s (latchChan page n s) := by
  have hmark : ∀ {f : Field} {v u}, SameMedia s u → f.bit + 64 * (f.stride * 8) < 32768 →
      SameMedia s (wrAt (pgTile page) f n v u) := fun {f} _ _ h hf => by
    have hcopy : n * (f.stride * 8) ≤ 64 * (f.stride * 8) := Nat.mul_le_mul_right _ (Nat.le_of_lt hn)
    exact h.wrAt (not_inMedia_of_lt hp (by omega))
  unfold latchChan
  extract_lets p c counted marked
  have hmarked : SameMedia s marked :=
    hmark (hmark (hmark (hmark (.refl s) (by decide)) (by decide)) (by decide)) (by decide)
  have hsend : ∀ u r b, SameMedia u (sendChan page n c.session r c.peerCh b u) := fun _ _ _ => .of_regs rfl
  have hset : ∀ u d, SameMedia u (setChan page n d u) := fun _ _ => .of_regs rfl
  refine .ite hmarked (.ite (hmarked.trans (.foldl (fun r _ u => ?_) _)) (hmarked.trans (hset _ _)))
  exact hsend u r _

theorem sameMedia_latchPort {n : Nat} (hn : n < 32) (s : State) : SameMedia s (latchPort n s) := by
  have hp : pgPort n < pgDecoder 0 := by
    simp only [pgPort, pgDecoder]
    omega
  refine .foldl (fun vc hvc u => .wrAt (.wrAt (.refl u) ?_) ?_) s
  all_goals
    have hvc := List.mem_range.mp hvc
    refine not_inMedia_of_lt hp ?_
    simp only [Reg.KP_MARK_VC_CREDITS, Reg.KP_MARK_VC_BUFFERED]
    omega

theorem sameMedia_latchPage (page : Nat) (s : State) : SameMedia s (latchPage page s) := by
  unfold latchPage
  split
  · exact .wrAt (.of_regs rfl) (not_inMedia_of_le (by decide))
  · extract_lets counters chans port verdicts marker closed
    have hcounters : SameMedia s counters := .of_keeps (keeps_latchCounters .rfl (.refl s)) rfl
    have hchans : SameMedia counters chans := by
      refine iteInduction (fun htile => ?_) fun _ => .refl _
      have hp := lt_of_typeOf (page := page) (by omega) (by omega)
      exact .foldl (fun n hn u => sameMedia_latchChan hp (List.mem_range.mp hn) u) _
    have hport : SameMedia chans port := by
      refine iteInduction (fun hkind => ?_) fun _ => .refl _
      have hp := lt_of_typeOf (page := page) (by omega) (by omega)
      refine sameMedia_latchPort ?_ _
      unfold instanceOf
      rw [hkind]
      simp only [pgDecoder, typeStarts] at hp ⊢
      change page - 5200 < 32
      omega
    have hverdicts : SameMedia port verdicts := by
      refine .foldl (fun e _ u => ?_) _
      exact .of_regs rfl
    have hclosed : SameMedia verdicts closed := .ite (.refl _) (.of_regs rfl)
    exact ((((hcounters.trans hchans).trans hport).trans hverdicts).trans hclosed).wrAt (not_inMedia_header (by decide))

theorem sameMedia_reachOwner (page a : Nat) (s : State) : SameMedia s (reachOwner page a s) := by
  have hreach : ∀ dst u, SameMedia u (reach page dst u) := fun dst u => .ite (sameMedia_latchPage dst u) (.refl u)
  have hcarry : ∀ dst, SameMedia s (carry page dst s) := fun dst => .of_regs rfl
  unfold reachOwner
  dsimp only
  split
  · exact (hcarry _).trans (hreach _ _)
  · exact hcarry _
  · exact (hcarry _).trans (hreach _ _)

/-! ### Requests to peers -/

theorem sameMedia_emitFlit {n : Nat} (hn : n < 32) (seq ctl vc cr : Nat) (payload : List Byte) (s : State) :
    SameMedia s (emitFlit n seq ctl vc cr payload s) := by
  refine .bump (.of_regs rfl) ?_ (by decide)
  simp only [pgPort, pgDecoder]
  omega

theorem sameMedia_drainPort {n : Nat} (hn : n < 32) (fuel : Nat) (s : State) : SameMedia s (drainPort fuel n s) := by
  induction fuel generalizing s with
  | zero => exact .refl s
  | succ fuel ih =>
    unfold drainPort
    dsimp only
    split
    · exact .refl s
    split
    · exact .refl s
    · refine .trans (.trans ?_ (sameMedia_emitFlit hn ..)) (ih _)
      exact .of_regs rfl

theorem routeSelect_lt {dst h n : Nat} (hroute : routeSelect s dst h = .ok n) : n < 32 := by
  unfold routeSelect at hroute
  dsimp only at hroute
  split at hroute
  · cases hroute
  split at hroute
  · cases hroute
  split at hroute
  · cases hroute
  · next m hm =>
    cases hroute
    have hmem := List.mem_of_getElem? hm
    exact List.mem_range.mp (List.mem_filter.mp hmem).1

theorem sameMedia_sendRequest {w : Who} {kind : ReqKind} {ord a n slack : Nat} {d : List PByte}
    (h : sendRequest w kind ord a n d slack s = .ok t) : SameMedia s t := by
  unfold sendRequest at h
  dsimp only at h
  split at h
  · cases h
  · next port hport =>
    cases h
    unfold sendOn sendWaiting
    refine .trans ?_ (sameMedia_drainPort (routeSelect_lt hport) _ _)
    exact .of_regs rfl

end

/-! ### Work -/

section
variable {α β : Type} {s t u : State}

theorem SameMedia.m_bind {m : M α} {f : α → M β} (h : SameMedia s (runM m t).2)
    (k : ∀ a u, SameMedia s u → SameMedia s (runM (f a) u).2) : SameMedia s (runM (m >>= f) t).2 := by
  rw [runM_bind]
  split
  · next e => rw [e] at h; exact k _ _ h
  · next e => rw [e] at h; exact h

theorem SameMedia.m_tryCatch {m : M α} {f : Stop → M α} (h : SameMedia s (runM m t).2)
    (k : ∀ e u, SameMedia s u → SameMedia s (runM (f e) u).2) : SameMedia s (runM (tryCatch m f) t).2 := by
  rw [runM_tryCatch]
  split
  · next e => rw [e] at h; exact h
  · next e => rw [e] at h; exact k _ _ h

theorem SameMedia.m_ite {c : Prop} [Decidable c] {m n : M α} (h : SameMedia s (runM m t).2)
    (k : SameMedia s (runM n t).2) : SameMedia s (runM (if c then m else n) t).2 := by
  split
  · exact h
  · exact k

theorem SameMedia.m_waitFor (b : Bool) (h : SameMedia s t) : SameMedia s (runM (waitFor b) t).2 := by
  rwa [runM_waitFor]

theorem sameMedia_localWrite (w : Who) (ord a : Nat) (d : List PByte) (s : State) :
    SameMedia s (runM (localWrite w ord a d) s).2 := by
  unfold localWrite
  rw [runM_bind_ok (runM_get s)]
  refine .m_ite (.refl s) ?_
  split
  case h_1 => exact .refl s
  case h_2 =>
    dsimp only
    split
    · exact .refl s
    · exact .refl s
    · exact .of_regs rfl
  case h_3 =>
    refine .m_bind (.m_waitFor _ (.refl s)) fun _ u hu => ?_
    split
    · exact hu
    · exact hu
    · dsimp only
      split
      · exact hu
      · exact .m_ite hu (sameMedia_memWrite ..)

theorem sameMedia_peerWrite (w : Who) (ord : Nat) (ps : List (Nat × Nat)) (d : List PByte) (s : State) :
    SameMedia s (runM (peerWrite w ord ps d) s).2 := by
  induction ps generalizing d s with
  | nil => exact .refl s
  | cons p ps ih =>
    unfold peerWrite
    rw [runM_bind_ok (runM_get s)]
    split
    · exact .refl s
    · next hsent => exact (sameMedia_sendRequest hsent).trans (ih _ _)

theorem sameMedia_busWriteNow (w : Who) (ord a : Nat) (d : List PByte) (s : State) :
    SameMedia s (runM (busWriteNow w ord a d) s).2 := by
  unfold busWriteNow
  refine .m_ite (.refl s) (.m_ite (.refl s) ?_)
  rw [runM_bind_ok (runM_get s)]
  refine .m_ite ?here ?peer
  case here => exact (sameMedia_reachOwner w.page a s).trans (sameMedia_localWrite ..)
  case peer =>
    rw [runM_bind_ok (runM_get s)]
    exact .m_bind (.m_waitFor _ (.refl s)) fun _ u hu => hu.trans (sameMedia_peerWrite ..)

/-- A write of a unit leaves every field of the decoders and encoders: one to a register is on its way (R52). -/
theorem sameMedia_busWrite (w : Who) (a : Nat) (d : List PByte) (s : State) : SameMedia s (runM (busWrite w a d) s).2 := by
  unfold busWrite
  refine .m_bind (.of_regs rfl) fun ord t ht => ht.trans (.m_tryCatch (sameMedia_busWriteNow ..) fun e u hu => ?_)
  match e with
  | .hold => exact hu.trans (.of_regs rfl)
  | .wake k =>
    have hwake : SameMedia u (startWake k u) := .trans (t := wr pgLockkeeper Reg.RC_THROTTLE_WAKE 1 u)
      (.wrAt (.refl u) (not_inMedia_of_le (by decide))) (.of_regs rfl)
    exact (hu.trans hwake).trans (.of_regs rfl)
  | .code _ => exact hu
  | .ask _ => exact hu
  | .stall _ => exact hu

theorem sameMedia_codeOf {m : M Unit} (h : SameMedia s (runM m t).2) : SameMedia s (runM (codeOf m) t).2 := by
  refine .m_tryCatch (.m_bind h fun _ _ hu => hu) fun e u hu => ?_
  split
  · exact hu
  · exact hu

end

end Sys2Proof.Machine
end

section
/-! PROOFS. Video decoders: jobs, the notice ring, pictures, frame entries, releases (R527 to R545). -/

namespace Sys2Proof.Machine

/-! ### A decoder and its page -/

section
variable {s : State} {n : Nat}

theorem getDec_setDec (n : Nat) (x : Decoder) (s : State) : getDec (setDec n x s) n = x := look_put_self ..

theorem getDec_of_decoders {t : State} (h : t.decoders = s.decoders) : getDec t n = getDec s n := by
  rw [getDec, h, ← getDec]

@[simp] theorem outMarks_after (w : Who) (s : State) (n : Nat) : outMarks (after w s) n = outMarks s n := rfl
@[simp] theorem after_decoders (w : Who) (s : State) : (after w s).decoders = s.decoders := rfl

/-- A decoder shows itself in `VD_STATUS` and in the REF marks; no other field of its page moves. -/
theorem rd_setDec {f : Field} (hstatus : f.bit < Reg.VD_STATUS_QUEUE.bit ∨ Reg.VD_STATUS_RING_WAIT.bit < f.bit)
    (hmarks : f.bit ≠ Reg.VD_REF_MARKS.bit) (x : Decoder) (s : State) :
    rd (setDec n x s) (pgDecoder n) f = rd s (pgDecoder n) f := by
  simp only [Reg.VD_STATUS_QUEUE, Reg.VD_STATUS_RING_WAIT] at hstatus
  unfold setDec
  dsimp only
  rw [rd_wr_field, rd_wr_field, rd_wr_field, rd_wr_field _ _ _ hmarks]
  · rfl
  all_goals
    simp only [Reg.VD_STATUS_QUEUE, Reg.VD_STATUS_BUSY, Reg.VD_STATUS_RING_WAIT]
    omega

theorem ringFull_setDec (x : Decoder) (s : State) : ringFull (setDec n x s) n = ringFull s n := by
  unfold ringFull ringLen
  rw [rd_setDec (by decide) (by decide), rd_setDec (by decide) (by decide), rd_setDec (by decide) (by decide)]

theorem ringFull_forgetErrors (w : Who) (s : State) : ringFull (forgetErrors w s) n = ringFull s n := by
  unfold ringFull ringLen
  simp only [forgetErrors_rd]

theorem bitOf_setMark {f : Field} {b : Nat} (hb : b < f.w) (s : State) :
    bitOf (rd (setMark n f b true s) (pgDecoder n) f) b = true := by
  unfold setMark
  rw [rd_wr_self, bitOf_eq_testBit, Nat.testBit_mod_two_pow, decide_eq_true hb, if_pos rfl, Nat.testBit_or,
    Nat.testBit_two_pow_self, Bool.or_true, Bool.and_true]

end

/-! ### Entries of the notice ring (R537 to R539) -/

theorem leBytes_length (n v : Nat) : (leBytes n v).length = n := by
  induction n generalizing v with
  | zero => rfl
  | succ n ih => exact congrArg (· + 1) (ih _)

section
variable (job : List Byte) (kind flags buf frame dec a b c code : Nat)

theorem ringEntry_kind : fld (ringEntry job kind flags buf frame dec a b c code) 0 1 = kind % 256 := by
  simp [fld, ringEntry, leBytes, leNat]

theorem ringEntry_flags : fld (ringEntry job kind flags buf frame dec a b c code) 1 1 = flags % 256 := by
  simp [fld, ringEntry, leBytes, leNat]

theorem ringEntry_buf (h : buf < 2 ^ 16) : fld (ringEntry job kind flags buf frame dec a b c code) 2 2 = buf := by
  have hbytes : buf % 256 + 256 * (buf / 256 % 256) = buf := by omega
  simpa [fld, ringEntry, leBytes, leNat] using hbytes

end

section
variable {s : State} {n k : Nat} {e : List Byte} {es : List (List Byte)}

/-- The buffer that a frame entry names is counted, and marked OUT. -/
def bufferOut (n : Nat) (e : List Byte) (s : State) : State :=
  if fld e 2 2 = 0xFFFF then s else setMark n Reg.VD_OUT_MARKS (fld e 2 2) true (bump (pgDecoder n) Reg.VD_FRAMES 1 s)

/-- An entry that is no damage entry: its buffer goes out, and the job's last entry ends it. -/
theorem entryWritten_frame (h : fld e 0 1 ≠ 2) : entryWritten n e s =
    if bitOf (fld e 1 1) 4 then setDec n { getDec (bufferOut n e s) n with job := none } (bufferOut n e s)
    else bufferOut n e s := if_neg h

theorem entryWritten_damage (h : fld e 0 1 = 2) :
    entryWritten n e s = raiseBit (pgDecoder n) 4 (bump (pgDecoder n) Reg.VD_DAMAGE 1 s) := if_pos h

theorem bufferOut_decoders (n : Nat) (e : List Byte) (s : State) : (bufferOut n e s).decoders = s.decoders := by
  unfold bufferOut
  split
  · rfl
  · rfl

theorem rd_bufferOut_TAIL (n : Nat) (e : List Byte) (s : State) :
    rd (bufferOut n e s) (pgDecoder n) Reg.VD_RING_TAIL = rd s (pgDecoder n) Reg.VD_RING_TAIL := by
  unfold bufferOut
  split
  · rfl
  · exact (rd_wr_field _ _ _ (by decide)).trans (rd_wr_field _ _ _ (by decide))

/-- An entry as it is written moves no tail. -/
theorem rd_entryWritten_TAIL (n : Nat) (e : List Byte) (s : State) :
    rd (entryWritten n e s) (pgDecoder n) Reg.VD_RING_TAIL = rd s (pgDecoder n) Reg.VD_RING_TAIL := by
  by_cases hkind : fld e 0 1 = 2
  · rw [entryWritten_damage hkind, raiseBit_rd]
    · exact rd_wr_field _ _ _ (by decide)
    · simp only [OffEvent, OffRing, Field.key, Reg.VD_RING_TAIL, Reg.PAGE_INT_STATUS, Reg.HI_EQ_TAIL, Reg.HI_EQ_DROPS,
        Reg.HI_STATUS_EQ_OVERFLOW, pgHost]
      omega
  · rw [entryWritten_frame hkind]
    split
    · rw [rd_setDec (by decide) (by decide), rd_bufferOut_TAIL]
    · exact rd_bufferOut_TAIL ..

/-- Nor any entry that waits. -/
theorem entryWritten_out (n : Nat) (e : List Byte) (s : State) : (getDec (entryWritten n e s) n).out = (getDec s n).out := by
  by_cases hkind : fld e 0 1 = 2
  · have hraise : ∀ u, (raiseBit (pgDecoder n) 4 u).decoders = u.decoders := fun u =>
      (keeps_raiseBit .rfl (.refl u)).decoders.resolve_left (by decide)
    rw [entryWritten_damage hkind, getDec_of_decoders (hraise _)]
    rfl
  · rw [entryWritten_frame hkind]
    split
    · rw [getDec_setDec, getDec_of_decoders (bufferOut_decoders ..)]
    · rw [getDec_of_decoders (bufferOut_decoders ..)]

theorem entryWritten_last (hkind : fld e 0 1 ≠ 2) (hlast : bitOf (fld e 1 1) 4 = true) :
    (getDec (entryWritten n e s) n).job = none := by
  rw [entryWritten_frame hkind, if_pos hlast, getDec_setDec]

theorem outMarks_entryWritten (hkind : fld e 0 1 ≠ 2) (hbuf : fld e 2 2 < 32) :
    bitOf (outMarks (entryWritten n e s) n) (fld e 2 2) = true := by
  have hmarked : bitOf (outMarks (bufferOut n e s) n) (fld e 2 2) = true := by
    rw [bufferOut, if_neg (by omega)]
    exact bitOf_setMark hbuf _
  rw [entryWritten_frame hkind]
  split
  · rwa [outMarks, rd_setDec (by decide) (by decide)]
  · exact hmarked

/-! ### The ring takes entries (R537) -/

/-- A write of a unit always answers its code. -/
theorem runM_codeOf_busWrite (w : Who) (a : Nat) (d : List PByte) (s : State) :
    ∃ c, runM (codeOf (busWrite w a d)) s = (.ok c, leaves (busWrite w a d) s) := by
  unfold leaves
  match hrun : runM (busWrite w a d) s with
  | (.ok (), t) => exact ⟨0, runM_codeOf hrun⟩
  | (.error e, t) =>
    obtain ⟨c, rfl⟩ := stopsOnly_busWrite w a d s e t hrun
    exact ⟨c, runM_codeOf_code hrun⟩

theorem stopsOnly_ringFlush {P : Stop → Prop} (n k : Nat) : StopsOnly P (ringFlush n k) := by
  induction k with
  | zero => exact .m_pure ()
  | succ k ih =>
    refine .m_bind .m_get fun s => ?_
    dsimp only
    split
    · exact .m_pure ()
    · exact .m_ite (.m_pure ()) (.m_bind (stopsOnly_codeOf (stopsOnly_busWrite _ _ _)) fun _ =>
        .m_bind (.m_modify _) fun _ => ih)

theorem stopsOnly_ringPut {P : Stop → Prop} (n : Nat) (es : List (List Byte)) : StopsOnly P (ringPut n es) :=
  .m_bind (.m_modify _) fun _ => .m_bind .m_get fun _ => stopsOnly_ringFlush n _

/-- The place of the ring's next entry. -/
def ringPlace (n : Nat) (s : State) : Nat :=
  rd s (pgDecoder n) Reg.VD_RING_BASE + 32 * (rd s (pgDecoder n) Reg.VD_RING_TAIL % ringLen s n)

/-- The front entry `e` of those that wait is written; `es` wait still. -/
def entryTaken (n : Nat) (e : List Byte) (es : List (List Byte)) (s : State) : State :=
  let t := wr (pgDecoder n) Reg.VD_RING_TAIL (rd s (pgDecoder n) Reg.VD_RING_TAIL + 1)
    (leaves (busWrite (vdWho n) (ringPlace n s) (clean e)) s)
  entryWritten n e (setDec n { getDec t n with out := es } t)

theorem runM_ringFlush_front (k : Nat) (hout : (getDec s n).out = e :: es) (hroom : ringFull s n = false) :
    runM (ringFlush n (k + 1)) s = runM (ringFlush n k) (entryTaken n e es s) := by
  obtain ⟨c, hwrite⟩ := runM_codeOf_busWrite (vdWho n) (ringPlace n s) (clean e) s
  conv => lhs; unfold ringFlush
  rw [runM_bind_ok (runM_get s)]
  dsimp only
  rw [hout]
  dsimp only
  rw [hroom]
  exact (runM_bind_ok hwrite).trans (runM_bind_ok (runM_modify _ _))

theorem leaves_ringFlush_one (hout : (getDec s n).out = e :: es) (hroom : ringFull s n = false) :
    leaves (ringFlush n 1) s = entryTaken n e es s := by
  unfold leaves
  rw [runM_ringFlush_front 0 hout hroom]
  rfl

/-- An entry with none before it goes out at once where the ring has room. -/
theorem leaves_ringPut_one {x : Decoder} (hout : x.out = []) (hroom : ringFull s n = false) (e : List Byte) :
    leaves (ringPut n [e]) (setDec n x s) = entryTaken n e [] (setDec n { x with out := [e] } (setDec n x s)) := by
  have hfront : (getDec (setDec n { x with out := [e] } (setDec n x s)) n).out = [e] :=
    congrArg Decoder.out (getDec_setDec ..)
  rw [← leaves_ringFlush_one hfront ((ringFull_setDec ..).trans ((ringFull_setDec ..).trans hroom))]
  unfold leaves ringPut
  rw [runM_bind_ok (runM_modify _ _), runM_bind_ok (runM_get _)]
  simp only [getDec_setDec, hout, List.nil_append]
  rfl

/-- Where no entry waits, work that begins with a flush begins with what follows. -/
theorem runM_flushed {α : Type} {f : State → M α} (hout : (getDec s n).out = []) :
    runM (do ringFlush n (getDec (← get) n).out.length; let t ← get; f t) s = runM (f s) s := by
  rw [runM_bind_ok (runM_get s), hout]
  rfl

theorem rd_entryTaken_TAIL (n : Nat) (e : List Byte) (es : List (List Byte)) (s : State) :
    rd (entryTaken n e es s) (pgDecoder n) Reg.VD_RING_TAIL = (rd s (pgDecoder n) Reg.VD_RING_TAIL + 1) % 2 ^ 32 := by
  unfold entryTaken
  rw [rd_entryWritten_TAIL, rd_setDec (by decide) (by decide)]
  exact rd_wr_self ..

theorem entryTaken_out (n : Nat) (e : List Byte) (es : List (List Byte)) (s : State) :
    (getDec (entryTaken n e es s) n).out = es := by
  unfold entryTaken
  rw [entryWritten_out, getDec_setDec]

theorem entryTaken_last (hkind : fld e 0 1 ≠ 2) (hlast : bitOf (fld e 1 1) 4 = true) :
    (getDec (entryTaken n e es s) n).job = none := entryWritten_last hkind hlast

theorem outMarks_entryTaken {b : Nat} (hkind : fld e 0 1 ≠ 2) (hbuf : fld e 2 2 = b) (hb : b < 32) :
    bitOf (outMarks (entryTaken n e es s) n) b = true := by
  subst hbuf
  exact outMarks_entryWritten hkind hb

end

/-! ### Jobs (R527 to R530, R545) -/

section
variable {s : State} {n : Nat} {j : List Byte}

section
variable (hn : n < 16)
include hn

theorem vdSubmit_joins {data : List Byte} (hw : writable s (pgDecoder n) = true) (hl : lockState s (pgDecoder n) = 0)
    (hon : rd s (pgDecoder n) Reg.VD_CTRL_ENABLE = 1) (hlen : data.length = 32) (hroom : (getDec s n).queue.length < 16) :
    vdSubmit n 0 data s = setDec n { getDec s n with queue := (getDec s n).queue ++ [data] } s := by
  unfold vdSubmit
  dsimp only
  rw [if_neg (by simp [hw, hl, hn]), if_neg (by simp [hlen, hon]), if_neg (Nat.not_le.mpr hroom)]

theorem vdSubmit_refuses {off : Nat} {data : List Byte} (hw : writable s (pgDecoder n) = true)
    (hl : lockState s (pgDecoder n) = 0)
    (hbad : off ≠ 0 ∨ data.length ≠ 32 ∨ rd s (pgDecoder n) Reg.VD_CTRL_ENABLE = 0) :
    vdSubmit n off data s = logErr (pgDecoder n) 0x0501 0 (bump (pgDecoder n) Reg.VD_REFUSED 1 s) := by
  unfold vdSubmit
  dsimp only
  rw [if_neg (by simp [hw, hl, hn]), if_pos hbad]

theorem vdStart_takes {rest : List (List Byte)} (hq : (getDec s n).queue = j :: rest) (hfree : (getDec s n).job = none)
    (hout : (getDec s n).out = []) (hl : lockState s (pgDecoder n) = 0) :
    vdStart n s =
      if jobBad j then endDecode n j 0x0501 (setDec n { queue := rest, job := some j, nextOut := fld j 0x14 2 } s)
      else setDec n { queue := rest, job := some j, nextOut := fld j 0x14 2 } s := by
  unfold vdStart
  dsimp only
  rw [hq]
  dsimp only
  rw [if_neg (by simp [hfree, hout, hl, hn])]

theorem vdRelease_clears {buf : Nat} (hb : buf < 32) (hw : writable s (pgDecoder n) = true)
    (hheld : bitOf (outMarks s n) buf = true) : vdRelease n buf s = setMark n Reg.VD_OUT_MARKS buf false s := by
  unfold vdRelease
  dsimp only
  rw [Nat.mod_eq_of_lt hb, if_neg (by simp [hw, hn]), if_pos hheld]

theorem vdRelease_refuses {buf : Nat} (hb : buf < 32) (hw : writable s (pgDecoder n) = true)
    (hheld : bitOf (outMarks s n) buf = false) : vdRelease n buf s = bump (pgDecoder n) Reg.VD_REFUSED 1 s := by
  unfold vdRelease
  dsimp only
  rw [Nat.mod_eq_of_lt hb, if_neg (by simp [hw, hn]), if_neg (by simp [hheld])]

end

section
variable {α : Type}

/-- Work that goes on alike after a change that is made where `p` holds. -/
theorem runM_if_modify (p : Prop) [Decidable p] (g : State → State) (m : M α) (s : State) :
    runM (if p then do modify g; m else m) s = runM m (if p then g s else s) := by
  split
  · rfl
  · rfl

end

/-! ### Pictures (R531 to R536, R541 to R545) -/

/-- What is left of a picture once its damages have been entered: its samples go into buffer `b`. -/
def storePicture (n b : Nat) (j : List Byte) (c : Picture) (ds : List Damage) : M Unit := do
  if !(getDec (← get) n).out.isEmpty then return ()
  else
    let units := concealedUnits (← get) n (codecOf j) c ds
    match ← catchCode (writePicture n b c (chosenPlanes j c) units (pictureRows c)) with
    | .error e => modify (endDecode n j e)
    | .ok _ => modify (pictureDone n b j c units)

/-- The damages of a picture enter the log and the ring. -/
def enterDamages (n : Nat) (j : List Byte) (c : Picture) (ds : List Damage) : M Unit := do
  modify fun s => ds.foldl (fun s e => logErr (pgDecoder n) e.code 0 s) (setDec n { getDec s n with reported := true } s)
  ringPut n (ds.map fun e => ringEntry j 2 0 0xFFFF 0 c.decode e.off e.unit (e.resume.getD 0xFFFFFFFF) e.code)

/-- A picture whose bitstream is read takes the lowest free buffer; its damages are entered once. -/
def placePicture (n : Nat) (j : List Byte) (c : Picture) (reported : Bool) (ds : List Damage) : M Unit := do
  match freeBuffer (← get) n with
  | none => modify (wr (pgDecoder n) Reg.VD_STATUS_BUF_WAIT 1)
  | some b =>
    modify (wr (pgDecoder n) Reg.VD_STATUS_BUF_WAIT 0)
    onlyIf (!reported && !ds.isEmpty) (enterDamages n j c ds)
    storePicture n b j c ds

/-- A decoder that decodes: no entry waits, and the stream of its job goes on. -/
structure Decoding (s : State) (n : Nat) (j : List Byte) : Prop where
  job : (getDec s n).job = some j
  out : (getDec s n).out = []
  going : (getDec s n).ended = false

section
variable {c : Picture} (h : Decoding s n j)
include h

theorem Decoding.unsupported (hbad : streamBad (codecOf j) c ≠ 0) :
    Works (vdPicture n c) s (endDecode n j (streamBad (codecOf j) c) s) := by
  obtain ⟨hjob, hout, hgoing⟩ := h
  unfold Works vdPicture
  rw [runM_flushed hout]
  dsimp only
  rw [hjob]
  dsimp only
  rw [hout, hgoing, if_neg (by decide), if_pos hbad]
  rfl

theorem Decoding.poolTooSmall (hgood : streamBad (codecOf j) c = 0) (hpool : poolTooSmall s n (codecOf j) c = true) :
    Works (vdPicture n c) s (endDecode n j 0x0505 s) := by
  obtain ⟨hjob, hout, hgoing⟩ := h
  unfold Works vdPicture
  rw [runM_flushed hout]
  dsimp only
  rw [hjob]
  dsimp only
  rw [hout, hgoing, if_neg (by decide), if_neg (Decidable.not_not.mpr hgood), if_pos hpool]
  rfl

/-- A supported picture whose bitstream is read is placed; HEVC and JPEG make their reference drops before. -/
theorem Decoding.runM_vdPicture {d : List PByte} {u : State} (hgood : streamBad (codecOf j) c = 0)
    (hpool : Machine.poolTooSmall s n (codecOf j) c = false)
    (hread : Reads (busRead (vdWho n) (fld j 8 8) (fld j 0x10 4)) s d u) :
    runM (vdPicture n c) s = runM (placePicture n j c (getDec s n).reported
        (damagesOf (codecOf j) c (d.map Prod.fst) 0 (pictureErrors c (fld j 8 8) d)))
      (if codecOf j = 1 then u
        else setDec n { getDec s n with held := (getDec s n).held.filter fun b => !c.drops.contains b } u) := by
  obtain ⟨hjob, hout, hgoing⟩ := h
  conv => lhs; unfold vdPicture
  rw [runM_flushed hout]
  dsimp only
  rw [hjob]
  dsimp only
  rw [hout, hgoing, if_neg (by decide), if_neg (Decidable.not_not.mpr hgood), hpool, if_neg (by decide)]
  refine (runM_bind_ok (runM_catchCode_ok hread)).trans ((runM_if_modify ..).trans ?_)
  rw [ite_not]
  unfold placePicture
  generalize (if codecOf j = 1 then u else _) = v
  rw [runM_bind_ok (runM_get v), runM_bind_ok (runM_get v)]
  cases freeBuffer v n with
  | none => rfl
  | some b =>
    dsimp only
    rw [runM_bind_ok (runM_modify _ v), runM_bind_ok (runM_modify _ v)]
    generalize damagesOf .. = ds
    cases !(getDec s n).reported && !ds.isEmpty
    · rfl
    · rfl

end

section
variable {c : Picture} {ds : List Damage} {b : Nat} {u v w : State}

theorem placePicture_waits (reported : Bool) (hfree : freeBuffer v n = none) :
    Works (placePicture n j c reported ds) v (wr (pgDecoder n) Reg.VD_STATUS_BUF_WAIT 1 v) := by
  unfold Works placePicture
  rw [runM_bind_ok (runM_get v), hfree]
  rfl

/-- The state once a picture has its buffer and its damages have been entered. -/
def placedPicture (n : Nat) (j : List Byte) (c : Picture) (reported : Bool) (ds : List Damage) (v : State) : State :=
  if reported = true ∨ ds = [] then wr (pgDecoder n) Reg.VD_STATUS_BUF_WAIT 0 v
  else leaves (enterDamages n j c ds) (wr (pgDecoder n) Reg.VD_STATUS_BUF_WAIT 0 v)

theorem enterDamages_works (n : Nat) (j : List Byte) (c : Picture) (ds : List Damage) (v : State) :
    Works (enterDamages n j c ds) v (leaves (enterDamages n j c ds) v) :=
  StopsOnly.works (.m_bind (.m_modify _) fun _ => stopsOnly_ringPut _ _) v

theorem runM_placePicture (reported : Bool) (hfree : freeBuffer v n = some b) :
    runM (placePicture n j c reported ds) v = runM (storePicture n b j c ds) (placedPicture n j c reported ds v) := by
  have henter : runM (onlyIf (!reported && !ds.isEmpty) (enterDamages n j c ds))
      (wr (pgDecoder n) Reg.VD_STATUS_BUF_WAIT 0 v) = (.ok (), placedPicture n j c reported ds v) := by
    rw [runM_onlyIf, placedPicture]
    match reported, ds with
    | true, _ =>
      rw [if_pos (Or.inl rfl)]
      rfl
    | false, [] =>
      rw [if_pos (Or.inr rfl)]
      rfl
    | false, d :: ds =>
      have hentered : ¬ (false = true ∨ d :: ds = []) := fun h => h.elim Bool.noConfusion (List.cons_ne_nil d ds)
      rw [if_neg hentered]
      exact enterDamages_works ..
  unfold placePicture
  rw [runM_bind_ok (runM_get v), hfree]
  exact (runM_bind_ok (runM_modify _ v)).trans (runM_bind_ok henter)

theorem storePicture_waits (b : Nat) (hout : (getDec w n).out ≠ []) : Works (storePicture n b j c ds) w w := by
  unfold Works storePicture
  rw [runM_bind_ok (runM_get w), if_pos (by simpa using hout)]
  rfl

theorem storePicture_stores (hout : (getDec w n).out = [])
    (hwrite : Reads (writePicture n b c (chosenPlanes j c) (concealedUnits w n (codecOf j) c ds) (pictureRows c)) w () u) :
    Works (storePicture n b j c ds) w (pictureDone n b j c (concealedUnits w n (codecOf j) c ds) u) := by
  unfold Works storePicture
  rw [runM_bind_ok (runM_get w), if_neg (by simp [hout]), runM_bind_ok (runM_get w)]
  exact runM_bind_ok (runM_catchCode_ok hwrite)

end

/-! ### Frame entries (R539, R540) -/

theorem runM_vdFrameEntry_waiting {e : List Byte} {es : List (List Byte)} (hout : (getDec s n).out = e :: es) :
    runM (vdFrameEntry n) s = runM (ringFlush n (es.length + 1)) s := by
  unfold vdFrameEntry
  rw [runM_bind_ok (runM_get s)]
  dsimp only
  rw [hout]
  rfl

section
variable (hout : (getDec s n).out = []) (hjob : (getDec s n).job = some j)
include hout hjob

/-- The decoder once the frame entry of picture `w` goes to the ring. -/
def delivered (x : Decoder) (j : List Byte) (w : WaitingPic) : Decoder := { x with
  nextOut := w.output + 1
  waiting := if lastPicture x j w then [] else x.waiting.filter fun v => v.buf != w.buf
  held := if lastPicture x j w then [] else x.held }

theorem runM_vdFrameEntry_due {w : WaitingPic} (hdue : duePicture (getDec s n) j = some w)
    (hans : answered s (vdWho n) = true) (hcode : writeCode s (vdWho n) = 0) :
    runM (vdFrameEntry n) s = runM (ringPut n
        [ringEntry j 1 (w.flags + 16 * natOf (lastPicture (getDec s n) j w)) w.buf w.output w.decode w.size w.form
          w.concealed 0])
      (setDec n (delivered (getDec s n) j w) (forgetErrors (vdWho n) s)) := by
  unfold vdFrameEntry
  rw [runM_bind_ok (runM_get s)]
  dsimp only
  rw [hjob, hout, if_neg (by decide)]
  dsimp only
  rw [hdue]
  refine (runM_bind_ok (codeOf_acknowledged hans)).trans ?_
  rw [hcode]
  refine (runM_bind_ok (runM_modify _ _)).trans ?_
  rw [delivered, hjob, hout]

theorem runM_vdFrameEntry_ended (hdue : duePicture (getDec s n) j = none) (hended : (getDec s n).ended = true)
    (hnone : (getDec s n).waiting = []) :
    runM (vdFrameEntry n) s = runM (ringPut n [ringEntry j 1 0x18 0xFFFF 0 0 0 0 0 0])
      (setDec n { getDec s n with held := [] } s) := by
  unfold vdFrameEntry
  rw [runM_bind_ok (runM_get s)]
  dsimp only
  rw [hjob, hout, if_neg (by decide)]
  dsimp only
  rw [hdue, hended, hnone]
  refine (runM_bind_ok (runM_waitFor_true rfl s)).trans ((runM_bind_ok (runM_modify _ s)).trans ?_)
  rfl

end

/-! ### The commands -/

/-- An attempt that carries out other work which gets through leaves what that leaves. -/
theorem attempt_leaves {w : Who} {m k : M Unit} {u : State} (hsame : runM m s = runM k u)
    (hk : StopsOnly (fun _ => False) k) : attempt w m s = after w (leaves k u) :=
  attempt_works (hsame.trans (hk.works u))

section
variable (hp : s.powered = true)
include hp

theorem exec_vdJobSubmit (n off : Nat) (data : List Byte) :
    exec (.vdJobSubmit n off data) s = .next (vdSubmit n off data s) := whileOn_powered _ hp

theorem exec_vdJobStart (n : Nat) : exec (.vdJobStart n) s = .next (vdStart n s) := whileOn_powered _ hp

theorem exec_vdRelease (n buf : Nat) : exec (.vdRelease n buf) s = .next (vdRelease n buf s) := whileOn_powered _ hp

variable (hn : n < 16)
include hn

theorem exec_vdPictureDecode {c : Picture} {t : State} (hwork : Works (vdPicture n c) s t) :
    exec (.vdPictureDecode n c) s = .next (after (vdWho n) t) :=
  (whileOn_powered _ hp).trans (congrArg _ ((if_neg (Nat.not_le.mpr hn)).trans (attempt_works hwork)))

theorem exec_vdFrameEntry {k : M Unit} {u : State} (hsame : runM (vdFrameEntry n) s = runM k u)
    (hk : StopsOnly (fun _ => False) k) : exec (.vdFrameEntry n) s = .next (after (vdWho n) (leaves k u)) :=
  (whileOn_powered _ hp).trans (congrArg _ ((if_neg (Nat.not_le.mpr hn)).trans (attempt_leaves hsame hk)))

end

end

/-- Settles O49, clause by clause: jobs, pictures, frame entries and releases. -/
theorem videoDecode : Obligations.video_decode := by
  intro s n hp hn
  refine ⟨fun data hw hl hon hlen hroom => ?joins, fun off data hw hl hbad => ?refused,
    fun j rest hq hfree hout hl => ?starts,
    fun c j hjob hout hgoing => ?pictures, fun e es hout hroom => ?flushes, fun j hout hjob => ?entries,
    fun buf hb hw => ⟨fun hheld => ?clears, fun hheld => ?kept⟩⟩
  case joins => rw [exec_vdJobSubmit hp, vdSubmit_joins hn hw hl hon hlen hroom]
  case refused => rw [exec_vdJobSubmit hp, vdSubmit_refuses hn hw hl hbad]
  case starts => exact ⟨_, rfl, by rw [exec_vdJobStart hp, vdStart_takes hn hq hfree hout hl]⟩
  case pictures =>
    have hdec : Decoding s n j := ⟨hjob, hout, hgoing⟩
    refine ⟨fun hbad => exec_vdPictureDecode hp hn (hdec.unsupported hbad),
      fun hgood hpool => exec_vdPictureDecode hp hn (hdec.poolTooSmall hgood hpool), fun d u v hgood hpool hread hv => ?_⟩
    subst hv
    have hplace := hdec.runM_vdPicture hgood hpool hread
    refine ⟨fun hfree => exec_vdPictureDecode hp hn (hplace.trans (placePicture_waits _ hfree)),
      fun b ds w x hfree hds hw => ?_⟩
    subst hds hw
    have hstore := hplace.trans (runM_placePicture _ hfree)
    exact ⟨fun hfull => exec_vdPictureDecode hp hn (hstore.trans (storePicture_waits b hfull)),
      fun hempty hwrite => exec_vdPictureDecode hp hn (hstore.trans (storePicture_stores hempty hwrite))⟩
  case flushes =>
    refine ⟨_, exec_vdFrameEntry hp hn (runM_vdFrameEntry_waiting hout) (stopsOnly_ringFlush _ _), rfl, ?_⟩
    rintro rfl
    rw [List.length_nil, Nat.zero_add, leaves_ringFlush_one hout hroom]
    exact ⟨entryTaken_out .., rd_entryTaken_TAIL ..⟩
  case entries =>
    refine ⟨?due, ?ended⟩
    case due =>
      rintro w last u hdue hans hcode rfl rfl
      refine ⟨_, exec_vdFrameEntry hp hn (runM_vdFrameEntry_due hout hjob hdue hans hcode) (stopsOnly_ringPut _ _), rfl,
        fun hroom hbuf => ?_⟩
      have hnone : (delivered (getDec s n) j w).out = [] := hout
      rw [leaves_ringPut_one hnone ((ringFull_forgetErrors ..).trans hroom)]
      constructor
      · rw [rd_after, rd_entryTaken_TAIL, rd_setDec (by decide) (by decide), rd_setDec (by decide) (by decide),
          forgetErrors_rd]
      · rw [outMarks_after]
        exact outMarks_entryTaken (by rw [ringEntry_kind]; decide) (ringEntry_buf (h := by omega) ..) hbuf
    case ended =>
      intro hdue hended hnone
      refine ⟨_, exec_vdFrameEntry hp hn (runM_vdFrameEntry_ended hout hjob hdue hended hnone) (stopsOnly_ringPut _ _),
        rfl, fun hroom => ?_⟩
      rw [getDec_of_decoders (after_decoders ..), leaves_ringPut_one (x := { getDec s n with held := [] }) hout hroom]
      exact entryTaken_last (by rw [ringEntry_kind]; decide) (by rw [ringEntry_flags]; decide)
  case clears => rw [exec_vdRelease hp, vdRelease_clears hn hb hw hheld]
  case kept => rw [exec_vdRelease hp, vdRelease_refuses hn hb hw hheld]

end Sys2Proof.Machine
end

section
/-! PROOFS. Video encoders: jobs, frames and results (R547 to R554). -/

namespace Sys2Proof.Machine

section
variable {s : State} {n : Nat} {j : List Byte}

/-! ### Result records (R554) -/

/-- A result record is written where its job has an address for one, and EV_ME_DONE follows. -/
def resultOut (n : Nat) (j : List Byte) (code frames bytes misses : Nat) : M Unit := do
  let a := fld j 0x38 8
  if a = 0 ∨ a % 16 ≠ 0 then return ()
  else
    let _ ← codeOf (do
      busWrite (veWho n) (a + 4) (clean (leBytes 4 frames ++ leBytes 8 bytes ++ leBytes 4 misses ++ leBytes 12 0))
      busWrite (veWho n) a (clean (leBytes 2 code ++ leBytes 2 0x8000)))
    modify (raiseBit (pgEncoder n) 4)

section
variable (n : Nat) (j : List Byte) (code frames bytes misses : Nat)

theorem runM_veRecord (s : State) : runM (veRecord n j code frames bytes misses) s =
    runM (resultOut n j code frames bytes misses) (if code ≠ 0 then logErr (pgEncoder n) code 0 s else s) :=
  runM_if_modify ..

/-- A result record always gets through: a write that fails is not reported. -/
theorem veRecord_works (s : State) :
    Works (veRecord n j code frames bytes misses) s (leaves (veRecord n j code frames bytes misses) s) := by
  have hout : StopsOnly (fun _ => False) (resultOut n j code frames bytes misses) :=
    .m_ite (.m_pure ()) (.m_bind (stopsOnly_codeOf (.m_bind (stopsOnly_busWrite _ _ _) fun _ => stopsOnly_busWrite _ _ _))
      fun _ => .m_modify _)
  unfold Works leaves
  rw [runM_veRecord]
  exact hout.works _

/-- A code enters the log, in the header of the page. -/
theorem sameMedia_logErr (page code tag : Nat) (s : State) : SameMedia s (logErr page code tag s) := by
  refine .raiseBit (.wrAt (.wrAt (.refl s) (not_inMedia_header (by decide))) ?_)
  simp only [InMedia, Field.key, Reg.PAGE_ERR_LOG]
  omega

theorem sameMedia_veRecord (s : State) : SameMedia s (leaves (veRecord n j code frames bytes misses) s) := by
  unfold leaves
  rw [runM_veRecord]
  refine .trans (t := if code ≠ 0 then logErr (pgEncoder n) code 0 s else s)
    (.ite (sameMedia_logErr ..) (.refl s)) (.m_ite (.refl _) (.m_bind (sameMedia_codeOf ?_) fun _ u hu => .raiseBit hu))
  exact .m_bind (sameMedia_busWrite ..) fun _ u hu => hu.trans (sameMedia_busWrite ..)

end

/-! ### Jobs (R549, R552, R553) -/

section
variable (hn : n < 4)
include hn

section
variable {off : Nat} {data : List Byte} (hw : writable s (pgEncoder n) = true) (hl : lockState s (pgEncoder n) = 0)
include hw hl

theorem veSubmit_joins (hlen : data.length = 64) (hon : rd s (pgEncoder n) Reg.VE_CTRL_ENABLE = 1)
    (hroom : (getEnc s n).queue.length < 4) :
    veSubmit n 0 data s = setEnc n { getEnc s n with queue := (getEnc s n).queue ++ [data] } s := by
  unfold veSubmit
  dsimp only
  rw [if_neg (by simp [hw, hl, hn]), if_neg (by simp [hlen]), if_neg (by simp [hon]), if_neg (Nat.not_le.mpr hroom)]

theorem veSubmit_refuses (hbad : off ≠ 0 ∨ data.length ≠ 64) :
    veSubmit n off data s = logErr (pgEncoder n) 0x0510 0 (bump (pgEncoder n) Reg.VE_REFUSED 1 s) := by
  unfold veSubmit
  dsimp only
  rw [if_neg (by simp [hw, hl, hn]), if_pos hbad]

/-- A disabled port counts the job as refused, and answers it with a result record. -/
theorem veSubmit_disabled (hlen : data.length = 64) (hoff : rd s (pgEncoder n) Reg.VE_CTRL_ENABLE = 0) :
    veSubmit n 0 data s =
      after (veWho n) (leaves (veRecord n data 0x0510 0 0 0) (bump (pgEncoder n) Reg.VE_REFUSED 1 s)) := by
  unfold veSubmit
  dsimp only
  rw [if_neg (by simp [hw, hl, hn]), if_neg (by simp [hlen]), if_pos hoff]
  exact attempt_works ((runM_bind_ok (runM_modify _ s)).trans (veRecord_works ..))

end

/-- The encoder's own fields stand while it writes a result record. -/
theorem rd_leaves_veRecord {f : Field} (hown : 2048 ≤ f.bit) (hpage : f.bit < 32768) (j : List Byte)
    (code frames bytes misses : Nat) (s : State) :
    rd (leaves (veRecord n j code frames bytes misses) s) (pgEncoder n) f = rd s (pgEncoder n) f := by
  refine (sameMedia_veRecord n j code frames bytes misses s).same _ _ _ ?_
  simp only [InMedia, Field.key, pgEncoder, pgDecoder, pgTransform]
  omega

theorem veStart_takes {rest : List (List Byte)} (hq : (getEnc s n).queue = j :: rest) (hfree : (getEnc s n).job = none)
    (hnone : (getEnc s n).results = []) (hl : lockState s (pgEncoder n) = 0) : veStart n s =
      setEnc n { queue := rest, job := some j, ended := if encBad j then some 0x0510 else none } s := by
  unfold veStart
  dsimp only
  rw [hq]
  dsimp only
  rw [if_neg (by simp [hfree, hnone, hl, hn])]

end

/-! ### Frames (R547, R548, R551) -/

/-- Bad bits met by stored words are none of an encoder's matter until it reads. -/
theorem getEnc_upset (us : List (Nat × Nat)) (s : State) (n : Nat) : getEnc (upset us s) n = getEnc s n := by
  have henc : (upset us s).encoders = s.encoders := (keeps_upset .rfl us s (.refl s)).encoders.resolve_left (by decide)
  rw [getEnc, henc, ← getEnc]

/-- An encoder whose job has frames left. -/
structure Encoding (s : State) (n : Nat) (j : List Byte) (x : Encoder) : Prop where
  enc : getEnc s n = x
  job : x.job = some j
  going : x.ended = none
  left : x.frames < fld j 4 4

/-- The read of the frame that is next. -/
def frameSource (n : Nat) (j : List Byte) (x : Encoder) : M (List PByte) :=
  busRead (veWho n) (fld j 8 8 + x.frames * fld j 0x10 4) (sourceBytes j)

/-- The cap on a job's bits, and the bits of the frames of the window before the next. -/
def rateCap (j : List Byte) : Nat := fld j 0x2C 4 * 1000
def windowBits (j : List Byte) (x : Encoder) : Nat := (x.window.take (fld j 0x30 2 - 1)).foldl (· + ·) 0

/-- The frame of source `src` under the cap: its bytes, their quantiser, the re-encodes made. -/
def codedFrame (j : List Byte) (x : Encoder) (src : List PByte) : List Byte × Nat × Nat :=
  rateLoop (rateCap j) (windowBits j x) (fld j 0x2A 1) (codeFrame j x (sourceSamples j (src.map Prod.fst))) 2 (frameQp j x)

/-- 1 for a frame of `bytes` bytes that misses the cap. -/
def capMiss (j : List Byte) (x : Encoder) (bytes : Nat) : Nat :=
  natOf (rateCap j != 0 && decide (rateCap j < windowBits j x + bytes * 8))

/-- The encoder with one more frame behind it. -/
def frameStored (j : List Byte) (x : Encoder) (src : List PByte) (bytes qp : Nat) : Encoder := { x with
  frames := x.frames + 1, bytes := x.bytes + bytes, misses := x.misses + capMiss j x bytes
  boost := nextBoost j x (rateCap j) (windowBits j x + bytes * 8)
  past := frameChain j x (sourceSamples j (src.map Prod.fst)) qp
  window := ((bytes * 8) :: x.window).take 1024
  ended := if x.frames + 1 = fld j 4 4 then some 0 else none }

/-- What becomes of a frame once its source has been read, or has failed. -/
def frameEnds (n : Nat) (j : List Byte) (x : Encoder) : Except Nat (List PByte) → M Unit
  | .error c => modify (setEnc n { x with ended := some c })
  | .ok src => do
    let (out, qp, again) := codedFrame j x src
    modify (bump (pgEncoder n) Reg.VE_REENCODES again)
    if fld j 0x20 8 < x.bytes + out.length then modify (setEnc n { x with ended := some 0x0511 })
    else
      match ← codeOf (busWrite (veWho n) (fld j 0x18 8 + x.bytes) (marked (src.any Prod.snd) out)) with
      | 0 =>
        modify fun s => setEnc n (frameStored j x src out.length qp)
          (bump (pgEncoder n) Reg.VE_FRAMES 1 (bump (pgEncoder n) Reg.VE_BYTES out.length
            (bump (pgEncoder n) Reg.VE_CAP_MISSES (capMiss j x out.length) s)))
      | c => modify (setEnc n { x with ended := some c })

section
variable {x : Encoder} {u : State}

theorem Encoding.runM_veFrame (h : Encoding s n j x) :
    runM (veFrame n) s = runM (catchCode (frameSource n j x) >>= frameEnds n j x) s := by
  obtain ⟨rfl, hjob, hgoing, hleft⟩ := h
  conv => lhs; unfold veFrame
  rw [runM_bind_ok (runM_get s)]
  dsimp only
  split
  · next hnone => simp [hnone] at hjob
  · next j' hrunning =>
    obtain rfl : j' = j := Option.some.inj (hrunning.symm.trans hjob)
    rw [runM_bind_ok (runM_waitFor_true (by simp [hgoing, hleft]) s)]
    rfl

theorem frameEnds_fails (c : Nat) : Works (frameEnds n j x (.error c)) u (setEnc n { x with ended := some c } u) := rfl

section
variable {src : List PByte} {out : List Byte} {qp again : Nat} (hcode : codedFrame j x src = (out, qp, again))
include hcode

/-- A frame that the output has no room for ends the job. -/
theorem frameEnds_overflows (hfull : fld j 0x20 8 < x.bytes + out.length) : Works (frameEnds n j x (.ok src)) u
    (setEnc n { x with ended := some 0x0511 } (bump (pgEncoder n) Reg.VE_REENCODES again u)) := by
  unfold Works frameEnds
  dsimp only
  rw [hcode]
  exact (runM_bind_ok (runM_modify _ u)).trans (by rw [if_pos hfull]; rfl)

theorem frameEnds_stores {v : State} (hroom : x.bytes + out.length ≤ fld j 0x20 8)
    (hwrite : Reads (busWrite (veWho n) (fld j 0x18 8 + x.bytes) (marked (src.any Prod.snd) out))
      (bump (pgEncoder n) Reg.VE_REENCODES again u) () v) :
    Works (frameEnds n j x (.ok src)) u (setEnc n (frameStored j x src out.length qp)
      (bump (pgEncoder n) Reg.VE_FRAMES 1 (bump (pgEncoder n) Reg.VE_BYTES out.length
        (bump (pgEncoder n) Reg.VE_CAP_MISSES (capMiss j x out.length) v)))) := by
  unfold Works frameEnds
  dsimp only
  rw [hcode]
  refine (runM_bind_ok (runM_modify _ u)).trans ?_
  rw [if_neg (Nat.not_lt.mpr hroom)]
  exact runM_bind_ok (runM_codeOf hwrite)

end

end

/-! ### Results (R552, R554) -/

section
variable (hans : answered s (veWho n) = true)
include hans

/-- The result of a job that a lock has ended. -/
theorem veResult_locked {code frames bytes misses : Nat} {rest : List (List Byte × Nat × Nat × Nat × Nat)}
    (hres : (getEnc s n).results = (j, code, frames, bytes, misses) :: rest) :
    Works (veResult n) s (setEnc n { getEnc s n with results := rest }
      (leaves (veRecord n j code frames bytes misses) (forgetErrors (veWho n) s))) := by
  unfold Works veResult
  rw [runM_bind_ok (runM_get s)]
  dsimp only
  rw [hres]
  refine (runM_bind_ok (codeOf_acknowledged hans)).trans ((runM_bind_ok (veRecord_works ..)).trans ?_)
  rfl

/-- The result of the running job: the code it has ended with, else that of a failed write. -/
theorem veResult_ended {code : Nat} (hres : (getEnc s n).results = []) (hjob : (getEnc s n).job = some j)
    (hended : (getEnc s n).ended = some code) :
    Works (veResult n) s (setEnc n { queue := (getEnc s n).queue }
      (leaves (veRecord n j (if code ≠ 0 then code else writeCode s (veWho n)) (getEnc s n).frames (getEnc s n).bytes
        (getEnc s n).misses) (forgetErrors (veWho n) s))) := by
  unfold Works veResult
  rw [runM_bind_ok (runM_get s)]
  dsimp only
  rw [hres, hjob, hended]
  refine (runM_bind_ok (codeOf_acknowledged hans)).trans ((runM_bind_ok (veRecord_works ..)).trans ?_)
  rfl

end

/-! ### The commands -/

section
variable (hp : s.powered = true)
include hp

theorem exec_veJobSubmit (n off : Nat) (data : List Byte) :
    exec (.veJobSubmit n off data) s = .next (veSubmit n off data s) := whileOn_powered _ hp

theorem exec_veJobStart (n : Nat) : exec (.veJobStart n) s = .next (veStart n s) := whileOn_powered _ hp

variable (hn : n < 4)
include hn

theorem exec_veFrameEncode {us : List (Nat × Nat)} {t : State} (hwork : Works (veFrame n) (upset us s) t) :
    exec (.veFrameEncode n us) s = .next (after (veWho n) t) :=
  (whileOn_powered _ hp).trans (congrArg _ ((if_neg (Nat.not_le.mpr hn)).trans (attempt_works hwork)))

theorem exec_veResult {t : State} (hwork : Works (veResult n) s t) : exec (.veResult n) s = .next (after (veWho n) t) :=
  (whileOn_powered _ hp).trans (congrArg _ ((if_neg (Nat.not_le.mpr hn)).trans (attempt_works hwork)))

end

end

/-- Settles O50, clause by clause: jobs, the next job, frames and results. -/
theorem videoEncode : Obligations.video_encode := by
  intro s n hp hn
  refine ⟨fun off data hw hl => ⟨?joins, fun hbad => ?refused, ?disabled⟩, fun j rest hq hfree hnone hl => ?starts,
    ?frames, fun hans => ⟨fun j code frames bytes misses rest hres => exec_veResult hp hn (veResult_locked hans hres),
      fun j code hres hjob hended => exec_veResult hp hn (veResult_ended hans hres hjob hended)⟩⟩
  case joins =>
    rintro rfl hlen hon hroom
    rw [exec_veJobSubmit hp, veSubmit_joins hn hw hl hlen hon hroom]
  case refused => rw [exec_veJobSubmit hp, veSubmit_refuses hn hw hl hbad]
  case disabled =>
    rintro rfl hlen hoff
    refine ⟨_, exec_veJobSubmit hp n 0 data, ?_⟩
    rw [veSubmit_disabled hn hw hl hlen hoff, rd_after, rd_leaves_veRecord hn (by decide) (by decide)]
    exact rdAt_addAt ..
  case starts => rw [exec_veJobStart hp, veStart_takes hn hq hfree hnone hl]
  case frames =>
    rintro us x j cap win p rfl rfl hjob hgoing hleft rfl rfl
    have henc : Encoding (upset us s) n j (getEnc s n) := ⟨getEnc_upset us s n, hjob, hgoing, hleft⟩
    have hends : ∀ {r u t}, runM (catchCode (frameSource n j (getEnc s n))) (upset us s) = (.ok r, u) →
        Works (frameEnds n j (getEnc s n) r) u t → exec (.veFrameEncode n us) s = .next (after (veWho n) t) :=
      fun hread hwork => exec_veFrameEncode hp hn (henc.runM_veFrame.trans ((runM_bind_ok hread).trans hwork))
    refine ⟨fun src samples out qp again u hread hsamples hcode => ?coded,
      fun c u hread => hends (runM_catchCode_code hread) (frameEnds_fails c)⟩
    subst hsamples
    have hcoded : codedFrame j (getEnc s n) src = (out, qp, again) := hcode.symm
    refine ⟨fun hfull => hends (runM_catchCode_ok hread) (frameEnds_overflows hcoded hfull),
      fun miss v hroom hmiss hwrite => ?_⟩
    subst hmiss
    exact hends (runM_catchCode_ok hread) (frameEnds_stores hcoded hroom hwrite)

end Sys2Proof.Machine
end

section
/-! PROOFS. Every command goes on, and what each family of commands can change (R661, R669, R792, R802, R825); the
canonical form of the state and its history under a step (R47, R620, R627, R906). -/

namespace Sys2Proof.Machine

/-- The command goes on to a state that differs from `s` in parts of mask `M` alone. -/
def Goes (M : Nat) (c : Instr) (s : State) : Prop := ∃ t, exec c s = .next t ∧ Keeps M s t

theorem goes_of {M : Nat} {c : Instr} {s t : State} (e : exec c s = whileOn s t) (k : Keeps M s t) : Goes M c s :=
  ⟨_, e, .ite k (.refl s)⟩

theorem part {a M : Nat} (h : a ||| M = M := by decide) : Sub a M := Sub.rfl.le h

/-- What may change under a mask may change under a larger one. -/
theorem Keeps.mono {a M : Nat} {s t : State} (ha : Sub a M) (h : Keeps a s t) : Keeps M s t :=
  { h with
    regs := h.regs.imp (ha.parts _) id
    latched := h.latched.imp (ha.parts _) id
    mem := h.mem.imp (ha.parts _) id
    bus := h.bus.imp (ha.parts _) id
    link := h.link.imp (ha.parts _) id
    host := h.host.imp (ha.parts _) id
    life := h.life.imp (ha.parts _) id
    gen := h.gen.imp (ha.parts _) id
    tiles := h.tiles.imp (ha.parts _) id
    chanq := h.chanq.imp (ha.parts _) id
    marker := h.marker.imp (ha.parts _) id
    mon := h.mon.imp (ha.parts _) id
    pumps := h.pumps.imp (ha.parts _) id
    pipes := h.pipes.imp (ha.parts _) id
    whq := h.whq.imp (ha.parts _) id
    hpipes := h.hpipes.imp (ha.parts _) id
    decoders := h.decoders.imp (ha.parts _) id
    encoders := h.encoders.imp (ha.parts _) id
    cist := h.cist.imp (ha.parts _) id
    res := h.res.imp (ha.parts _) id
    reds := h.reds.imp (ha.parts _) id
    tr := h.tr.imp (ha.parts _) id
    rc := h.rc.imp (ha.parts _) id
    faulty := h.faulty.imp (ha.parts _) id
    subst := h.subst.imp (ha.parts _) id
    gated := h.gated.imp (ha.parts _) id
    waking := h.waking.imp (ha.parts _) id
    outs := h.outs.imp (ha.parts _) id
    drawn := h.drawn.imp (ha.parts _) id
    powered := h.powered.imp (ha.parts _) id
    retention := h.retention.imp (ha.parts _) id
    data := h.data.imp (ha.parts _) id }

theorem Goes.mono {a M : Nat} {c : Instr} {s : State} (h : Goes a c s) (ha : Sub a M := by exact part) : Goes M c s :=
  h.imp fun _ h => ⟨h.1, h.2.mono ha⟩

/-! ### Families -/

/-- The parts of the state that a port's command may change, as a mask. -/
def portParts : Nat := 134217849

theorem goes_portCommand {c : Instr} {s : State} (hc : portCommand c = true) : Goes portParts c s := by
  have h : Keeps portParts s s := .refl s
  cases c with
  | portEnable _ _ => exact goes_of rfl (.ite (keeps_portEnable part h) h)
  | laserLoss _ => exact goes_of rfl (.ite (keeps_laserLoss part h) h)
  | laserOk _ => exact goes_of rfl (.ite (keeps_laserOk part h) h)
  | portTuneDone _ => exact goes_of rfl (.ite (keeps_portTuneDone part h) h)
  | portTrainDone _ => exact goes_of rfl (.ite (keeps_portTrainDone part h) h)
  | portAlignDone _ => exact goes_of rfl (.ite (keeps_portAlignDone part h) h)
  | hello _ _ _ _ _ _ => exact goes_of rfl (.ite (keeps_hello part h) h)
  | grant _ _ _ => exact goes_of rfl (.ite (keeps_grant part h) h)
  | dataFlit _ _ _ _ => exact goes_of rfl (.ite (keeps_dataFlit part h) h)
  | idleFlit _ _ _ _ => exact goes_of rfl (.ite (keeps_idleFlit part h) h)
  | nakReplay _ _ _ _ => exact goes_of rfl (.ite (keeps_nakReplay part h) h)
  | swap _ _ _ _ _ => exact goes_of rfl (.ite (keeps_swap part h) h)
  | swapDone _ _ _ _ => exact goes_of rfl (.ite (keeps_swapDone part h) h)
  | laneFail _ _ => exact goes_of rfl (.ite (keeps_laneFail part h) h)
  | peerFlitTimeout _ => exact goes_of rfl (.ite (keeps_peerFlitTimeout part h) h)
  | portRetrain _ => exact goes_of rfl (.ite (keeps_portRetrain part h) h)
  | klRtData _ => exact goes_of rfl (keeps_klRtData part h)
  | releaseNotice _ _ _ => exact goes_of rfl (keeps_releaseNotice part h)
  | spareW8Lock _ => exact goes_of rfl (.ite (keeps_spareW8Lock part h) h)
  | _ => exact absurd hc Bool.false_ne_true

/-- The parts of the state that a command of the keyring, the debug port or the SPDM responder may change, as a mask. -/
def trustParts : Nat := 404750369

theorem goes_trustCommand {c : Instr} {s : State} (hc : trustCommand c = true) : Goes trustParts c s := by
  have h : Keeps trustParts s s := .refl s
  cases c with
  | keyringSign _ => exact goes_of rfl (.ite (keeps_keyAnswer part (keeps_keySign part h)) h)
  | keyringEcdhe _ => exact goes_of rfl (.ite (keeps_keyAnswer part (keeps_keyExchange part h)) h)
  | keyringRandom _ => exact goes_of rfl (.ite (keeps_keyAnswer part (keeps_keyRandom part h)) h)
  | keyringPublicKey =>
    refine goes_of rfl (.ite h (keeps_keyAnswer part ?_))
    split
    · exact keeps_trustRefuse part h
    · exact h
  | getVersion => exact goes_of rfl (keeps_spdmAt part (keeps_getVersion part) h)
  | getCapabilities => exact goes_of rfl (keeps_spdmAt part (keeps_getCapabilities part) h)
  | negotiateAlgorithms _ => exact goes_of rfl (keeps_spdmAt part (keeps_negotiateAlgorithms part) h)
  | getDigests => exact goes_of rfl (keeps_spdmAt part (keeps_spdmSend part) h)
  | getCertificate _ _ _ =>
    exact goes_of rfl (keeps_spdmAt part (fun h => .ite (keeps_spdmSend part h) (keeps_spdmError part h)) h)
  | challenge _ _ =>
    exact goes_of rfl (keeps_spdmAt part (fun h => .ite (keeps_spdmNonce part h) (keeps_spdmError part h)) h)
  | getMeasurements _ _ _ => exact goes_of rfl (keeps_spdmAt part (keeps_getMeasurements part) h)
  | keyExchange _ _ _ => exact goes_of rfl (keeps_spdmAt part (keeps_spdmKeyExchange part) h)
  | finish _ _ => exact goes_of rfl (keeps_inSession part (fun _ => keeps_spdmFinish part) h)
  | heartbeat _ => exact goes_of rfl (keeps_inSession part (fun _ => keeps_spdmSend part) h)
  | keyUpdate _ =>
    exact goes_of rfl (keeps_inSession part (fun _ _ h => keeps_spdmSend part (keeps_putSession part h)) h)
  | endSession _ =>
    exact goes_of rfl (keeps_inSession part (fun _ _ h => keeps_spdmSend part (keeps_dropSession part h)) h)
  | debugChallenge => exact goes_of rfl (.ite (keeps_debugChallenge part h) h)
  | debugAuth _ _ => exact goes_of rfl (.ite (keeps_debugAuth part h) h)
  | debugChallengeExpiry => exact goes_of rfl (.ite (keeps_modTrust part h) h)
  | _ => exact absurd hc Bool.false_ne_true

/-- The parts of the state that a Wellhead's command may change, as a mask. -/
def wellheadParts : Nat := 1543522175

theorem goes_wellheadCommand {c : Instr} {s : State} (hc : wellheadCommand c = true) : Goes wellheadParts c s := by
  have h : Keeps wellheadParts s s := .refl s
  cases c with
  | whCmdPortWrite _ _ _ => exact goes_of rfl (keeps_whPortWrite part h)
  | alloc _ => exact goes_of rfl (keeps_whCommand part (fun _ => keeps_whAlloc part) h)
  | share _ =>
    exact goes_of rfl (keeps_whCommand part (fun _ => keeps_onePage part fun _ _ _ => keeps_sharePage part) h)
  | freePage _ =>
    exact goes_of rfl (keeps_whCommand part (fun _ => keeps_onePage part fun _ _ _ => keeps_unrefPage part) h)
  | cow _ => exact goes_of rfl (keeps_whCommand part (fun _ => keeps_whCow part) h)
  | pin _ => exact goes_of rfl (keeps_whCommand part (fun _ => keeps_onePage part fun _ _ _ => keeps_pinPage part) h)
  | unpin _ =>
    exact goes_of rfl (keeps_whCommand part (fun _ => keeps_onePage part fun _ _ _ => keeps_unpinPage part) h)
  | lookup _ => exact goes_of rfl (keeps_whCommand part (fun _ => keeps_whLookup part) h)
  | insert _ => exact goes_of rfl (keeps_whCommand part (fun _ => keeps_whInsert part) h)
  | evict _ => exact goes_of rfl (keeps_whCommand part (fun _ => keeps_whEvict part) h)
  | _ => exact absurd hc Bool.false_ne_true

/-- The parts of the state that a command of a decoder or encoder may change, as a mask. -/
def mediaParts : Nat := 1543702399

theorem goes_mediaCommand {c : Instr} {s : State} (hc : mediaCommand c = true) : Goes mediaParts c s := by
  have h : Keeps mediaParts s s := .refl s
  cases c with
  | vdJobSubmit _ _ _ => exact goes_of rfl (keeps_vdSubmit part h)
  | vdJobStart _ => exact goes_of rfl (keeps_vdStart part h)
  | vdPictureDecode _ _ => exact goes_of rfl (.ite h (keeps_attempt part (keeps_vdPicture part) h))
  | vdFrameEntry _ => exact goes_of rfl (.ite h (keeps_attempt part (keeps_vdFrameEntry part) h))
  | vdRelease _ _ => exact goes_of rfl (keeps_vdRelease part h)
  | veJobSubmit _ _ _ => exact goes_of rfl (keeps_veSubmit part h)
  | veJobStart _ => exact goes_of rfl (keeps_veStart part h)
  | veFrameEncode _ _ => exact goes_of rfl (.ite h (keeps_attempt part (keeps_veFrame part) (keeps_upset part _ _ h)))
  | veResult _ => exact goes_of rfl (.ite h (keeps_attempt part (keeps_veResult part) h))
  | _ => exact absurd hc Bool.false_ne_true

/-- The parts of the state that a command of a pipeline or a Handpump may change, as a mask. -/
def passParts : Nat := 1551935487

theorem goes_passCommand {c : Instr} {s : State} (hc : passCommand c = true) : Goes passParts c s := by
  have h : Keeps passParts s s := .refl s
  cases c with
  | apStart _ => exact goes_of rfl (keeps_apStart part h)
  | apStop _ => exact goes_of rfl (keeps_apStop part h)
  | atForward _ => exact goes_of rfl (keeps_atRun part h)
  | atBackward _ => exact goes_of rfl (keeps_atRun part h)
  | atWaitPoll _ => exact goes_of rfl (keeps_atWaitPoll part h)
  | atPass _ => exact goes_of rfl (keeps_atPass part h)
  | atDescComplete _ _ => exact goes_of rfl (keeps_atFinish part h)
  | hpStart _ => exact goes_of rfl (keeps_hpStart part h)
  | hpStop _ => exact goes_of rfl (keeps_hpStop part h)
  | conv _ => exact goes_of rfl (keeps_hpRun part h)
  | crop _ => exact goes_of rfl (keeps_hpRun part h)
  | wgrad _ => exact goes_of rfl (keeps_hpRun part h)
  | hdDescComplete _ _ => exact goes_of rfl (keeps_hdFinish part h)
  | hdWaitPoll _ => exact goes_of rfl (keeps_hdWaitPoll part h)
  | _ => exact absurd hc Bool.false_ne_true

/-- The parts of the state that a Pump's command may change, as a mask. -/
def pumpParts : Nat := 1543510015

theorem goes_pumpCommand {c : Instr} {s : State} (hc : pumpCommand c = true) : Goes pumpParts c s := by
  have h : Keeps pumpParts s s := .refl s
  cases c with
  | packStart _ => exact goes_of rfl (keeps_packCommand part (fun _ _ => keeps_packStart part) h)
  | packBody _ => exact goes_of rfl (keeps_packCommand part (fun _ _ => keeps_packBody part) h)
  | packHeaderValid _ => exact goes_of rfl (keeps_packCommand part (fun _ _ => keeps_packValid part) h)
  | packComplete _ => exact goes_of rfl (keeps_packCommand part (fun _ _ => keeps_packEnd part) h)
  | unpack _ => exact goes_of rfl (keeps_unpackFront part h)
  | pmSubmit _ _ _ => exact goes_of rfl (keeps_pmSubmit part h)
  | pumpCopy _ _ => exact goes_of rfl (keeps_pumpStart part h)
  | pumpConvert _ _ => exact goes_of rfl (keeps_pumpStart part h)
  | pumpStream _ _ => exact goes_of rfl (keeps_pumpStart part h)
  | streamRecord _ _ => exact goes_of rfl (keeps_recordFront part h)
  | streamPoll _ _ => exact goes_of rfl (keeps_attempt part (keeps_streamPoll part) h)
  | pumpDescComplete _ _ => exact goes_of rfl (keeps_finishSlot part h)
  | _ => exact absurd hc Bool.false_ne_true

/-- The parts of the state that a command of a tile's array or epilogue may change, as a mask. -/
def arrayParts : Nat := 1551894527

theorem goes_arrayCommand {c : Instr} {s : State} (hc : arrayCommand c = true) : Goes arrayParts c s := by
  have h : Keeps arrayParts s s := .refl s
  cases c with
  | stationaryLoad _ => exact goes_of rfl (.ite (keeps_tileWork part (keeps_stationaryLoad part) h) h)
  | vectorEntry _ _ => exact goes_of rfl (.ite (keeps_tileWork part (keeps_vectorEntry part) h) h)
  | arrayOpComplete _ _ => exact goes_of rfl (.ite (keeps_arrayOpComplete part h) h)
  | drainStart _ => exact goes_of rfl (.ite (keeps_tileWork part (keeps_drainStart part) h) h)
  | setRelease _ => exact goes_of rfl (.ite (keeps_setRelease part h) h)
  | drainComplete _ _ => exact goes_of rfl (.ite (keeps_epiEnd part h) h)
  | tailComplete _ _ => exact goes_of rfl (.ite (keeps_epiEnd part h) h)
  | _ => exact absurd hc Bool.false_ne_true

/-- The parts of the state that a command of the Cistern may change, as a mask. -/
def cisternParts : Nat := 1543833471

theorem goes_cisternCommand {c : Instr} {s : State} (hc : cisternCommand c = true) : Goes cisternParts c s := by
  have h : Keeps cisternParts s s := .refl s
  cases c with
  | ciDecode => exact goes_of rfl (keeps_ciCommand part (keeps_ciDecode part) h)
  | ciCopy => exact goes_of rfl (keeps_ciCommand part (keeps_ciCopy part) h)
  | ciSensor => exact goes_of rfl (keeps_ciCommand part (keeps_ciSensor part) h)
  | ciPad => exact goes_of rfl (keeps_ciCommand part (keeps_ciPad part) h)
  | ciSetAug => exact goes_of rfl (keeps_ciCommand part (keeps_ciSetAug part) h)
  | ciDispatch => exact goes_of rfl (keeps_ciCommand part (keeps_ciDispatch part) h)
  | ciFrameEntry _ _ => exact goes_of rfl (keeps_ciCommand part (keeps_ciFrameEntry part) h)
  | tfFrameTransform _ =>
    exact goes_of rfl (.ite h (keeps_attempt part
      (fun h => .m_bind (keeps_tfFrame part h) fun _ _ h => .m_modify (keeps_showCistern part h)) h))
  | ciBudgetExpiry _ _ => exact goes_of rfl (keeps_ciCommand part (keeps_budgetExpiry part) h)
  | ssTailAdvance _ _ => exact goes_of rfl (keeps_ssTail part h)
  | ciBatchRelease => exact goes_of rfl (keeps_releaseBatch part h)
  | ciReturn _ _ => exact goes_of rfl (keeps_ciReturn part h)
  | cursorRecordStep => exact goes_of rfl (keeps_cursorRecord part h)
  | _ => exact absurd hc Bool.false_ne_true

/-! ### All commands -/

/-- Every part of the state. -/
def allParts : Nat := 4294967295

/-- The command belongs to one of the families. -/
def inFamily (c : Instr) : Bool :=
  portCommand c || trustCommand c || wellheadCommand c || mediaCommand c || passCommand c || pumpCommand c
    || arrayCommand c || cisternCommand c

theorem goes_inFamily {c : Instr} {s : State} (hc : inFamily c = true) : Goes allParts c s := by
  simp only [inFamily, Bool.or_eq_true] at hc
  rcases hc with ((((((h | h) | h) | h) | h) | h) | h) | h
  · exact (goes_portCommand h).mono
  · exact (goes_trustCommand h).mono
  · exact (goes_wellheadCommand h).mono
  · exact (goes_mediaCommand h).mono
  · exact (goes_passCommand h).mono
  · exact (goes_pumpCommand h).mono
  · exact (goes_arrayCommand h).mono
  · exact (goes_cisternCommand h).mono

/-- Every command goes on, and keeps the canonical form and the history. -/
theorem exec_goes (c : Instr) (s : State) : Goes allParts c s := by
  by_cases hc : inFamily c = true
  · exact goes_inFamily hc
  have h : Keeps allParts s s := .refl s
  cases c with
  | registerWrite _ => exact goes_of rfl (keeps_settleRuns part (keeps_registerWrite part h))
  | requestIssue _ _ _ _ _ _ _ _ => exact goes_of rfl (keeps_requestIssue part h)
  | memoryRead _ _ _ _ => exact goes_of rfl (keeps_memoryRead part h)
  | memoryWrite _ _ _ _ => exact goes_of rfl (keeps_memoryWrite part h)
  | atomicAddRequest _ => exact goes_of rfl (keeps_settleRuns part (keeps_atomicAdd part h))
  | statsAddApply _ => exact goes_of rfl (keeps_statsAddApply part h)
  | arrayRowRead _ => exact goes_of rfl (keeps_issueKind part (fun _ => keeps_isArray part) h)
  | arrayColumnRead _ => exact goes_of rfl (keeps_issueKind part (fun _ => keeps_isArray part) h)
  | arrayLoadOnly _ => exact goes_of rfl (keeps_issueKind part (fun _ => keeps_isArray part) h)
  | arrayWindowOp _ => exact goes_of rfl (keeps_issueKind part (fun _ _ h => .m_pure h) h)
  | haSpareWrite _ _ _ _ => exact goes_of rfl (keeps_onAwake part (keeps_haSpareWrite part) h)
  | spareMapApply _ _ => exact goes_of rfl (keeps_spareMapApply part h)
  | haTestStart _ _ => exact goes_of rfl (keeps_onAwake part (keeps_haTestStart part) h)
  | haSelfTestDone _ _ _ _ => exact goes_of rfl (keeps_haSelfTestDone part h)
  | drain _ => exact goes_of rfl (keeps_issueKind part (fun _ => keeps_isOpc) h)
  | clArithUpdate _ => exact goes_of rfl (keeps_clArithUpdate part h)
  | monArithUpdate => exact goes_of rfl (keeps_monArithUpdate part h)
  | tailBiasAct _ _ => exact goes_of rfl (keeps_tailCommand part h)
  | tailAddAct _ _ => exact goes_of rfl (keeps_tailCommand part h)
  | tailMul _ _ => exact goes_of rfl (keeps_tailCommand part h)
  | tailNorm _ _ => exact goes_of rfl (keeps_tailCommand part h)
  | tailRowstat _ _ => exact goes_of rfl (keeps_tailCommand part h)
  | tailNormApply _ _ => exact goes_of rfl (keeps_tailCommand part h)
  | tailConvert _ _ => exact goes_of rfl (keeps_tailCommand part h)
  | tailSplit3 _ _ => exact goes_of rfl (keeps_tailCommand part h)
  | tailPool _ _ => exact goes_of rfl (keeps_tailCommand part h)
  | tailSgd _ _ => exact goes_of rfl (keeps_tailCommand part h)
  | tailAdamw _ _ => exact goes_of rfl (keeps_tailCommand part h)
  | send _ _ =>
    exact goes_of rfl
      (.ite h (.ite (keeps_issueKind part (fun _ => keeps_isOpc) h) (keeps_tileWork part (keeps_sendRun part) h)))
  | sendComplete _ _ => exact goes_of rfl (.ite (keeps_tileWork part (keeps_copyComplete part) h) h)
  | recv _ _ =>
    exact goes_of rfl
      (.ite h (.ite (keeps_issueKind part (fun _ => keeps_isOpc) h) (keeps_tileWork part (keeps_recvRun part) h)))
  | recvComplete _ _ => exact goes_of rfl (.ite (keeps_tileWork part (keeps_copyComplete part) h) h)
  | pump _ => exact goes_of rfl (keeps_issueKind part (fun _ => keeps_isOpc) h)
  | pumpInstrComplete _ _ => exact goes_of rfl (keeps_pumpReport part h)
  | waitCmd _ => exact goes_of rfl (keeps_issueKind part (fun _ => keeps_isOpc) h)
  | waitPoll _ => exact goes_of rfl (keeps_waitPoll part h)
  | signal _ => exact goes_of rfl (keeps_issueKind part (fun _ => keeps_isOpc) h)
  | signalAck _ _ => exact goes_of rfl (.ite (keeps_signalAck part h) h)
  | seg _ => exact goes_of rfl (keeps_issueKind part (fun _ => keeps_isOpc) h)
  | fillOn _ => exact goes_of rfl (keeps_issueKind part (fun _ => keeps_isOpc) h)
  | fillOff _ => exact goes_of rfl (keeps_issueKind part (fun _ => keeps_isOpc) h)
  | stepEnd _ => exact goes_of rfl (keeps_issueKind part (fun _ => keeps_isOpc) h)
  | fillRingIssue _ => exact goes_of rfl (keeps_fillRingIssue part h)
  | mainListPassBegin _ => exact goes_of rfl (keeps_passBegin part h)
  | schedStart _ => exact goes_of rfl (keeps_schedStart part h)
  | schedStop _ => exact goes_of rfl (keeps_schedStop part h)
  | channelOpenRequest _ => exact goes_of rfl (keeps_deliverChan part h)
  | channelGrant _ => exact goes_of rfl (keeps_deliverChan part h)
  | channelMessage _ => exact goes_of rfl (keeps_deliverChan part h)
  | creditReturn _ => exact goes_of rfl (keeps_deliverChan part h)
  | channelReopen _ _ => exact goes_of rfl (keeps_channelReopen part h)
  | mbBind _ _ _ => exact goes_of rfl (keeps_mbBind part h)
  | bindingCopy _ _ => exact goes_of rfl (keeps_bindingCopy part h)
  | genEnable _ => exact goes_of rfl (.ite (keeps_genEnable part h) (keeps_enableGen part h))
  | stepOpenNext => exact goes_of rfl (keeps_openNext part h)
  | pendingSlotOpen => exact goes_of rfl (keeps_pendingSlotOpen part h)
  | moduleReady =>
    refine goes_of rfl ?_
    split
    · exact keeps_moduleReady part h
    · exact h
  | ready _ _ => exact goes_of rfl (keeps_attempt part (keeps_readyArrives part) h)
  | veto _ _ _ => exact goes_of rfl (keeps_attempt part (keeps_vetoArrives part) h)
  | commitDeadlineExpiry _ => exact goes_of rfl (keeps_commitDeadline part h)
  | decisionResend => exact goes_of rfl (keeps_decisionResend part h)
  | ack _ => exact goes_of rfl (keeps_attempt part (keeps_ackArrives part) h)
  | query _ _ => exact goes_of rfl (keeps_attempt part (keeps_queryArrives part) h)
  | commit _ _ => exact goes_of rfl (keeps_decisionArrives part h)
  | abort _ _ _ => exact goes_of rfl (keeps_decisionArrives part h)
  | abortDiscard => exact goes_of rfl (keeps_abortDiscard part h)
  | rngProbe _ => exact goes_of rfl (keeps_rngProbe part h)
  | rngRestoreStage _ => exact goes_of rfl (.ite (keeps_attempt part (keeps_rngStage part) h) h)
  | lmLossIn _ _ => exact goes_of rfl (keeps_lmLossIn part h)
  | tailNonfiniteRollup _ => exact goes_of rfl (keeps_tailRollup part h)
  | wrExport _ => exact goes_of rfl (keeps_ringCommand part (fun _ => keeps_wrExport part) h)
  | exportSign _ => exact goes_of rfl (.ite (keeps_attempt part (keeps_exportSign part) h) h)
  | ciRestore _ => exact goes_of rfl (keeps_ciRestoreWrite part h)
  | arbGrant _ _ => exact goes_of rfl (keeps_arbGrant part h)
  | memDiscard _ _ => exact goes_of rfl (keeps_memDiscard part h)
  | memRetire _ => exact goes_of rfl (keeps_memRetire part h)
  | migrationCopy => exact goes_of rfl (keeps_migrationCopy part h)
  | migrationDone => exact goes_of rfl (keeps_migrationDone part h)
  | gddr7Scrub _ => exact goes_of rfl (keeps_gddr7Scrub part h)
  | wellScrub _ _ => exact goes_of rfl (keeps_wellScrub part h)
  | packetArrival _ _ => exact goes_of rfl (keeps_packetArrival part h)
  | responseArrival _ _ _ _ _ => exact goes_of rfl (.ite (keeps_settleRuns part (keeps_responseArrives part h)) h)
  | requestTimeout _ => exact goes_of rfl (keeps_settleRuns part (keeps_requestTimeout part h))
  | lockNotice _ _ _ => exact goes_of rfl (keeps_attempt part (keeps_lockNotice part) h)
  | rdEnable _ _ => exact goes_of rfl (keeps_rdEnable part h)
  | reductionRunStart _ _ => exact goes_of rfl (.ite h (keeps_attempt part (keeps_runStart part) h))
  | contrib _ => exact goes_of rfl (keeps_attempt part (keeps_contribMessage part) h)
  | chunkDeadline _ _ _ => exact goes_of rfl (keeps_chunkDeadline part h)
  | result _ => exact goes_of rfl (keeps_attempt part (keeps_resultMessage part) h)
  | twinForwardFail _ _ _ _ => exact goes_of rfl (keeps_forwardFail part h)
  | rsEnable _ => exact goes_of rfl (keeps_rsEnable part h)
  | roundCopy _ =>
    exact goes_of rfl (keeps_attempt part (keeps_copyCursor part) (keeps_attempt part (keeps_roundCopy part) h))
  | firstTouch _ => exact goes_of rfl (keeps_attempt part (keeps_firstTouch part) h)
  | roundCompleteWrite _ => exact goes_of rfl (keeps_attempt part (keeps_roundCompleteWrite part) h)
  | roundComplete _ => exact goes_of rfl (keeps_attempt part (keeps_roundComplete part) h)
  | rsRestore => exact goes_of rfl (keeps_rsRestore part h)
  | rsRestoreDone => exact goes_of rfl (keeps_restoreGoesOn part h)
  | rsDigest => exact goes_of rfl (keeps_rsDigest part h)
  | rsDigestDone => exact goes_of rfl (keeps_digestGoesOn part h)
  | rsResolve _ => exact goes_of rfl (keeps_rsResolve part h)
  | domainLock _ _ => exact goes_of rfl (keeps_rcRequest part h)
  | domainReset _ _ _ _ => exact goes_of rfl (keeps_rcRequest part h)
  | domainRelease _ _ => exact goes_of rfl (keeps_rcRequest part h)
  | lockDrained _ _ => exact goes_of rfl (keeps_lockDrained part h)
  | drainBoundExpiry _ _ => exact goes_of rfl (keeps_drainExpiry part h)
  | resetComplete _ _ _ => exact goes_of rfl (keeps_resetComplete part h)
  | perst => exact goes_of rfl (keeps_perst part h)
  | flr => exact goes_of rfl (keeps_resetModule part (keeps_resetEndpoint part h))
  | lkHeartbeat _ => exact goes_of rfl (keeps_heartbeat part h)
  | lkWatchdog => exact goes_of rfl (keeps_watchdog part h)
  | clTileMapWrite _ _ _ => exact goes_of rfl (.ite h (keeps_onAwake part (keeps_tileMapWrite part) h))
  | substitutionApply _ => exact goes_of rfl (keeps_substitutionApply part h)
  | pstateTarget _ => exact goes_of rfl (keeps_pstateTarget part h)
  | clusterGate _ => exact goes_of rfl (keeps_clusterGate part h)
  | clusterWake _ => exact goes_of rfl (keeps_clusterWake part h)
  | markerGo => exact goes_of rfl (keeps_markerGo part h)
  | markerLatch _ => exact goes_of rfl (keeps_markerLatch part h)
  | markerNotice _ => exact goes_of rfl (keeps_deliverChan part h)
  | markerWaveComplete => exact goes_of rfl (keeps_markerWaveComplete part h)
  | lifeSample => exact goes_of rfl (.ite (keeps_lifeSample part h) h)
  | lifeSummaryWrite => exact goes_of rfl (.ite (keeps_writeSummary part h) h)
  | journalAppend => exact goes_of rfl (.ite (keeps_journalAppend part h) h)
  | bar0Access _ _ _ _ => exact goes_of rfl (keeps_bar0Access part h)
  | bar2Access _ _ _ _ => exact goes_of rfl (keeps_bar2Access part h)
  | hostCplTimeout _ _ => exact goes_of rfl (keeps_hostCplTimeout part h)
  | doorbell _ _ => exact goes_of rfl (keeps_doorbellWrite part h)
  | wrEnable _ _ => exact goes_of rfl (.ite (keeps_ringEnable part h) h)
  | wrNop _ => exact goes_of rfl (keeps_ringCommand part (fun _ => keeps_endEntry part) h)
  | wrLoadStep _ => exact goes_of rfl (keeps_ringCommand part (fun _ => keeps_loadStep part) h)
  | wrWrite _ => exact goes_of rfl (keeps_ringCommand part (fun _ => keeps_endsEntry part (keeps_busWriteNat part)) h)
  | wrWait _ => exact goes_of rfl (keeps_ringCommand part (fun _ => keeps_wrWait part) h)
  | wrAdd _ => exact goes_of rfl (keeps_ringCommand part (fun _ => keeps_endsEntry part (keeps_busAdd part)) h)
  | wrCompletion _ => exact goes_of rfl (keeps_wrCompletion part h)
  | hiVmapData _ => exact goes_of rfl (keeps_vmapData part h)
  | getStatus => exact goes_of rfl (keeps_getStatus part h)
  | readSensors => exact goes_of rfl (keeps_readSensors part h)
  | readLifeLog => exact goes_of rfl (keeps_mbWork part (fun _ => keeps_readLifeLog part) h)
  | readDumpSummary => exact goes_of rfl (keeps_mbWork part (fun _ => keeps_readDumpSummary part) h)
  | readDump => exact goes_of rfl (keeps_mbWork part (fun _ => keeps_readDump part) h)
  | writeImage => exact goes_of rfl (keeps_mbWork part (fun _ => keeps_writeImage part) h)
  | writeConfig => exact goes_of rfl (keeps_mbWork part (fun _ => keeps_writeConfig part) h)
  | signRound => exact goes_of rfl (keeps_mbWork part (fun _ => keeps_signRound part) h)
  | resetLockkeeper => exact goes_of rfl (keeps_resetLockkeeper part h)
  | mailboxLongDone => exact goes_of rfl (keeps_attempt part (keeps_longDone part) h)
  | smbusRequest _ _ => exact goes_of rfl (.upd_outs part h)
  | intTest _ => exact goes_of rfl (keeps_intTest part h)
  | powerFail => exact goes_of rfl (keeps_powerFail part h)
  | overcurrentTrip => exact goes_of rfl (keeps_powerFail part h)
  | powerInterval _ _ _ _ _ _ => exact goes_of rfl (.ite h (keeps_powerInterval part h))
  | pwCapWrite _ => exact goes_of rfl (keeps_capWrite part h)
  | thermalSample _ _ _ => exact goes_of rfl (keeps_thermalSample part h)
  | perstNDeassertion => exact goes_of rfl (keeps_perstOff part h)
  | configurationRequest _ => exact goes_of rfl (keeps_configuration part h)
  | hostCompletion _ _ _ => exact goes_of rfl (keeps_hostCompletion part h)
  | msixTableWrite _ _ => exact goes_of rfl (keeps_msixWrite part h)
  | coldPowerUp _ => exact ⟨_, rfl, keeps_coldPowerUp part h⟩
  | _ => exact absurd rfl hc

/-- A step on an empty queue idles; any other runs its command on the rest of the queue. -/
theorem step_goes (s : State) : ∃ t, step s = .next t ∧ Keeps allParts { s with pending := s.pending.tail } t := by
  unfold step
  split
  · next hq =>
    have hs : { s with pending := s.pending.tail } = s :=
      congrArg (fun q => { s with pending := q }) (by rw [hq]; rfl : s.pending.tail = s.pending)
    exact ⟨s, rfl, hs.symm ▸ .refl s⟩
  · next c cs hq => rw [hq]; exact exec_goes c { s with pending := cs }

/-- Settles O5: every operation of the model appends to what was sent and draws onward (`Keeps`). -/
theorem stepKeepsHistory : Obligations.step_keeps_history := by
  intro s
  obtain ⟨t, ht, k⟩ := step_goes s
  exact ⟨t, ht, k.sent, k.pending, k.draws, k.strap⟩

/-- Settles O4: every operation of the model keeps the canonical form (`Keeps`). -/
theorem stepKeepsCanonical : Obligations.step_keeps_canonical := by
  intro s t hs ht
  obtain ⟨u, hu, k⟩ := step_goes s
  cases hu.symm.trans ht
  exact k.canonical hs

/-! ### Frames -/

/-- `t` in the parts of mask `M`, `s` in all others. -/
def merged (M : Nat) (s t : State) : State where
  regs := if M.testBit 0 then t.regs else s.regs
  latched := if M.testBit 1 then t.latched else s.latched
  mem := if M.testBit 2 then t.mem else s.mem
  bus := if M.testBit 3 then t.bus else s.bus
  link := if M.testBit 4 then t.link else s.link
  host := if M.testBit 5 then t.host else s.host
  life := if M.testBit 6 then t.life else s.life
  gen := if M.testBit 7 then t.gen else s.gen
  tiles := if M.testBit 8 then t.tiles else s.tiles
  chanq := if M.testBit 9 then t.chanq else s.chanq
  marker := if M.testBit 10 then t.marker else s.marker
  mon := if M.testBit 11 then t.mon else s.mon
  pumps := if M.testBit 12 then t.pumps else s.pumps
  pipes := if M.testBit 13 then t.pipes else s.pipes
  whq := if M.testBit 14 then t.whq else s.whq
  hpipes := if M.testBit 15 then t.hpipes else s.hpipes
  decoders := if M.testBit 16 then t.decoders else s.decoders
  encoders := if M.testBit 17 then t.encoders else s.encoders
  cist := if M.testBit 18 then t.cist else s.cist
  res := if M.testBit 19 then t.res else s.res
  reds := if M.testBit 20 then t.reds else s.reds
  tr := if M.testBit 21 then t.tr else s.tr
  retention := if M.testBit 31 then t.retention else s.retention
  rc := if M.testBit 22 then t.rc else s.rc
  faulty := if M.testBit 23 then t.faulty else s.faulty
  subst := if M.testBit 24 then t.subst else s.subst
  gated := if M.testBit 25 then t.gated else s.gated
  waking := if M.testBit 26 then t.waking else s.waking
  outs := if M.testBit 27 then t.outs else s.outs
  drawn := if M.testBit 28 then t.drawn else s.drawn
  powered := if M.testBit 29 then t.powered else s.powered
  pending := s.pending

theorem ite_or_eq {α : Type} {p : Prop} [Decidable p] {a b : α} (h : p ∨ b = a) : b = if p then b else a := by
  split
  · rfl
  · exact h.resolve_left ‹_›

theorem Keeps.eq_merged {M : Nat} {s t : State} (h : Keeps M s t) : t = merged M s t := by
  unfold merged
  rw [← ite_or_eq h.regs, ← ite_or_eq h.latched, ← ite_or_eq h.mem, ← ite_or_eq h.bus, ← ite_or_eq h.link,
    ← ite_or_eq h.host, ← ite_or_eq h.life, ← ite_or_eq h.gen, ← ite_or_eq h.tiles, ← ite_or_eq h.chanq,
    ← ite_or_eq h.marker, ← ite_or_eq h.mon, ← ite_or_eq h.pumps, ← ite_or_eq h.pipes, ← ite_or_eq h.whq,
    ← ite_or_eq h.hpipes, ← ite_or_eq h.decoders, ← ite_or_eq h.encoders, ← ite_or_eq h.cist, ← ite_or_eq h.res,
    ← ite_or_eq h.reds, ← ite_or_eq h.tr, ← ite_or_eq h.retention, ← ite_or_eq h.rc, ← ite_or_eq h.faulty,
    ← ite_or_eq h.subst, ← ite_or_eq h.gated, ← ite_or_eq h.waking, ← ite_or_eq h.outs, ← ite_or_eq h.drawn,
    ← ite_or_eq h.powered, ← h.pending]

theorem eq_merged_of_goes {M : Nat} {c : Instr} {s t : State} (h : Goes M c s) (e : exec c s = .next t) :
    t = merged M s t := by
  obtain ⟨u, hu, k⟩ := h
  cases hu.symm.trans e
  exact k.eq_merged

/-- Settles O59: each command of a family keeps within the parts of its family. -/
theorem unitFrames : Obligations.unit_frames := by
  intro c s t e
  exact ⟨fun h => eq_merged_of_goes (goes_portCommand h) e, fun h => eq_merged_of_goes (goes_trustCommand h) e,
    fun h => eq_merged_of_goes (goes_wellheadCommand h) e, fun h => eq_merged_of_goes (goes_mediaCommand h) e,
    fun h => eq_merged_of_goes (goes_passCommand h) e, fun h => eq_merged_of_goes (goes_pumpCommand h) e,
    fun h => eq_merged_of_goes (goes_arrayCommand h) e, fun h => eq_merged_of_goes (goes_cisternCommand h) e⟩

end Sys2Proof.Machine
end

section
/-! PROOFS. A packet and the flits that carry it (R658, R664): what a sender formats and cuts, a receiver reads back. -/

namespace Sys2Proof.Machine

theorem leNat_leBytes (n v : Nat) : leNat (leBytes n v) = v % 256 ^ n := by
  induction n generalizing v with
  | zero => simp [leBytes, leNat, Nat.mod_one]
  | succ n ih =>
    rw [leBytes, leNat, ih, BitVec.toNat_ofNat, Nat.pow_succ 256, Nat.mul_comm (256 ^ n), Nat.mod_mul]

theorem leNat_leBytes_of_lt {n v : Nat} (h : v < 256 ^ n) : leNat (leBytes n v) = v := by
  rw [leNat_leBytes, Nat.mod_eq_of_lt h]

/-- The fields of the packet fit the widths of its header, and its data has the length that the header names (R664). -/
structure PacketFits (p : Packet) : Prop where
  type : p.type < 2 ^ 8
  hops : p.hops < 2 ^ 8
  dst : p.dst < 2 ^ 16
  src : p.src < 2 ^ 16
  len : p.len < 2 ^ 16
  addr : p.addr < 2 ^ 64
  tag : p.tag < 2 ^ 32
  slack : p.slack < 2 ^ 32
  poison : p.poison < 2 ^ 64
  data : p.data.length = carried p.type p.len

theorem packetBytes_length (p : Packet) : (packetBytes p).length = 32 + p.data.length := by
  simp only [packetBytes, List.length_append, leBytes_length]

section
variable {p : Packet} (h : PacketFits p) (pad : List Byte)
include h

theorem type_packetBytes : leNat ((packetBytes p ++ pad).take 1) = p.type := leNat_leBytes_of_lt (n := 1) h.type

theorem len_packetBytes : leNat (((packetBytes p ++ pad).drop 6).take 2) = p.len := leNat_leBytes_of_lt (n := 2) h.len

/-- Parsing undoes formatting; what follows the packet does not matter. -/
theorem parsePacket_packetBytes : parsePacket (packetBytes p ++ pad) = p := by
  have hdata : (packetBytes p ++ pad).drop 32 = p.data ++ pad := rfl
  have htype : leNat (((packetBytes p ++ pad).drop 0).take 1) = p.type := type_packetBytes h pad
  have hhops : leNat (((packetBytes p ++ pad).drop 1).take 1) = p.hops := leNat_leBytes_of_lt (n := 1) h.hops
  have hdst : leNat (((packetBytes p ++ pad).drop 2).take 2) = p.dst := leNat_leBytes_of_lt (n := 2) h.dst
  have hsrc : leNat (((packetBytes p ++ pad).drop 4).take 2) = p.src := leNat_leBytes_of_lt (n := 2) h.src
  have haddr : leNat (((packetBytes p ++ pad).drop 8).take 8) = p.addr := leNat_leBytes_of_lt (n := 8) h.addr
  have htag : leNat (((packetBytes p ++ pad).drop 0x10).take 4) = p.tag := leNat_leBytes_of_lt (n := 4) h.tag
  have hslack : leNat (((packetBytes p ++ pad).drop 0x14).take 4) = p.slack := leNat_leBytes_of_lt (n := 4) h.slack
  have hpoison : leNat (((packetBytes p ++ pad).drop 0x18).take 8) = p.poison := leNat_leBytes_of_lt (n := 8) h.poison
  unfold parsePacket
  dsimp only
  rw [htype, hhops, hdst, hsrc, len_packetBytes h pad, haddr, htag, hslack, hpoison, hdata, ← h.data, List.take_left]

end

/-! ### Cutting into flits -/

/-- The flit as its receiver buffers it. -/
def received (f : TxFlit) : RxFlit := ⟨f.vc, f.sop, padTo 240 f.payload⟩

theorem padTo_length (n : Nat) (bs : List Byte) : (padTo n bs).length = n := by
  simp only [padTo, List.length_take, List.length_append, List.length_replicate]
  omega

/-- The first `n` bytes, with zeros where there are fewer. -/
theorem padTo_take (n : Nat) (bs : List Byte) : padTo n (bs.take n) = bs.take n ++ List.replicate (n - bs.length) 0 := by
  have hlen : (bs.take n ++ List.replicate (n - bs.length) (0 : Byte)).length = n := by simp; omega
  have hpad : n - (bs.take n).length = n - bs.length := by simp; omega
  rw [padTo, hpad, List.take_of_length_le (Nat.le_of_eq hlen)]

theorem flitPayloads_length (fuel : Nat) (bs : List Byte) (h : bs.length < fuel) :
    (flitPayloads fuel bs).length = (bs.length + 239) / 240 := by
  induction fuel generalizing bs with
  | zero => omega
  | succ fuel ih =>
    cases bs with
    | nil => rfl
    | cons b bs =>
      rw [flitPayloads, List.length_cons, ih, List.length_drop, List.length_cons]
      · omega
      · simp only [List.length_drop, List.length_cons] at h ⊢
        omega
      · exact List.cons_ne_nil b bs

/-- The padded payloads in a row are the bytes with a padding. -/
theorem flitPayloads_flatten (fuel : Nat) (bs : List Byte) (h : bs.length < fuel) :
    ∃ pad, ((flitPayloads fuel bs).map (padTo 240)).flatten = bs ++ pad := by
  induction fuel generalizing bs with
  | zero => omega
  | succ fuel ih =>
    cases bs with
    | nil => exact ⟨[], rfl⟩
    | cons b bs =>
      obtain ⟨pad, hpad⟩ := ih ((b :: bs).drop 240) (by simp only [List.length_drop, List.length_cons] at h ⊢; omega)
      rw [flitPayloads, List.map_cons, List.flatten_cons, hpad, padTo_take]
      by_cases hlong : 240 ≤ (b :: bs).length
      · exact ⟨pad, by rw [Nat.sub_eq_zero_of_le hlong]; simp [← List.append_assoc]⟩
      · have hend : (b :: bs).drop 240 = [] := List.drop_of_length_le (by omega)
        have hall : (b :: bs).take 240 = b :: bs := List.take_of_length_le (by omega)
        rw [hend, hall, List.nil_append, List.append_assoc]
        exact ⟨_, rfl⟩
      · exact List.cons_ne_nil b bs

/-- The flits of a packet: the first with `SOP`, the others without, all on one virtual channel. -/
theorem packetFlits_eq (vc : Nat) (p : Packet) : ∃ b bs, flitPayloads ((packetBytes p).length + 1) (packetBytes p) = b :: bs ∧
    packetFlits vc p = { vc := vc, sop := true, payload := b } :: bs.map fun b => { vc := vc, sop := false, payload := b } := by
  unfold packetFlits
  split
  · next hnil =>
    have hlen := flitPayloads_length _ (packetBytes p) (Nat.lt_succ_self _)
    rw [hnil, packetBytes_length, List.length_nil] at hlen
    omega
  · next b bs hcons => exact ⟨b, bs, hcons, rfl⟩

theorem packetFlits_length (vc : Nat) {p : Packet} (h : PacketFits p) : (packetFlits vc p).length = flitsOf p.type p.len := by
  obtain ⟨b, bs, hpay, hflits⟩ := packetFlits_eq vc p
  have hlen := flitPayloads_length _ (packetBytes p) (Nat.lt_succ_self _)
  rw [hpay, packetBytes_length, h.data, List.length_cons] at hlen
  rw [hflits, List.length_cons, List.length_map, hlen, flitsOf]

theorem packetFlits_flatten (vc : Nat) (p : Packet) :
    ∃ pad, (((packetFlits vc p).map received).map RxFlit.payload).flatten = packetBytes p ++ pad := by
  obtain ⟨b, bs, hpay, hflits⟩ := packetFlits_eq vc p
  obtain ⟨pad, hpad⟩ := flitPayloads_flatten _ (packetBytes p) (Nat.lt_succ_self _)
  refine ⟨pad, ?_⟩
  rw [← hpad, hpay, hflits]
  simp [received, Function.comp_def]

theorem packetFlits_vc {vc : Nat} {p : Packet} : ∀ f ∈ (packetFlits vc p).map received, f.vc = vc := by
  obtain ⟨b, bs, -, hflits⟩ := packetFlits_eq vc p
  rw [hflits]
  simp [received]

/-! ### Taking a packet from the front -/

/-- A receiver frees exactly the flits of the front packet. -/
theorem dropFlits_append (vc : Nat) (fs rest : List RxFlit) (h : ∀ f ∈ fs, f.vc = vc) :
    dropFlits vc fs.length (fs ++ rest) = rest := by
  induction fs with
  | nil => cases rest <;> rfl
  | cons f fs ih =>
    rw [List.length_cons, List.cons_append, dropFlits, if_pos (h f (List.mem_cons_self ..))]
    exact ih fun g hg => h g (List.mem_cons_of_mem f hg)

/-- The front of the channel is the packet's flits, and perhaps flits without `SOP` behind them. -/
theorem frontFlits_packetFlits (vc : Nat) (p : Packet) (rest : List RxFlit) (q : Port) :
    ∃ more, (frontFlits { q with rx := (packetFlits vc p).map received ++ rest } vc).1 =
      (packetFlits vc p).map received ++ more := by
  obtain ⟨b, bs, -, hflits⟩ := packetFlits_eq vc p
  have hkeep : ((packetFlits vc p).map received).filter (fun f => f.vc == vc) = (packetFlits vc p).map received :=
    List.filter_eq_self.mpr fun f hf => beq_iff_eq.mpr (packetFlits_vc f hf)
  refine ⟨(rest.filter fun f => f.vc == vc).takeWhile fun g => !g.sop, ?_⟩
  unfold frontFlits
  rw [List.filter_append, hkeep, hflits]
  simp [received, Function.comp_def]

/-- A receiver takes exactly the packet that the sender cut. -/
theorem frontPacket_packetFlits (vc : Nat) {p : Packet} (h : PacketFits p) (hlen : p.len ≤ 4096) (rest : List RxFlit)
    (q : Port) : frontPacket { q with rx := (packetFlits vc p).map received ++ rest } vc =
      .packet p (flitsOf p.type p.len) := by
  obtain ⟨more, hmore⟩ := frontFlits_packetFlits vc p rest q
  obtain ⟨pad, hpad⟩ := packetFlits_flatten vc p
  obtain ⟨b, bs, -, hflits⟩ := packetFlits_eq vc p
  have hcount : ((packetFlits vc p).map received).length = flitsOf p.type p.len := by
    rw [List.length_map, packetFlits_length vc h]
  have htake : ((packetFlits vc p).map received ++ more).take (flitsOf p.type p.len) = (packetFlits vc p).map received := by
    rw [← hcount, List.take_left]
  have hfirst : padTo 240 b = (packetBytes p ++ pad).take 240 := by
    rw [← hpad, hflits]
    simp [received, padTo_length]
  have htype : leNat ((padTo 240 b).take 1) = p.type := by
    rw [hfirst, List.take_take]
    exact type_packetBytes h pad
  have hlenf : leNat (((padTo 240 b).drop 6).take 2) = p.len := by
    rw [hfirst, List.drop_take, List.take_take]
    exact len_packetBytes h pad
  unfold frontPacket
  generalize hfront : frontFlits { q with rx := (packetFlits vc p).map received ++ rest } vc = front at hmore ⊢
  obtain ⟨fs, ended⟩ := front
  dsimp only at hmore ⊢
  have hfs : fs = received { vc := vc, sop := true, payload := b } ::
      ((bs.map fun b => received { vc := vc, sop := false, payload := b }) ++ more) := by
    rw [hmore, hflits]
    simp [Function.comp_def]
  rw [hfs]
  dsimp only
  rw [← hfs, hmore, received, htype, hlenf, if_neg (by omega), htake, hpad, parsePacket_packetBytes h]
  exact if_pos (by rw [List.length_append, hcount]; omega)

/-- Settles O11: the header's fields read back one by one, and the padded flits of the cut in a row are the packet. -/
theorem packetsTravelWhole : Obligations.packets_travel_whole := by
  intro p pad htype hhops hdst hsrc hlen haddr htag hslack hpoison hdata
  have h : PacketFits p := ⟨htype, hhops, hdst, hsrc, hlen, haddr, htag, hslack, hpoison, hdata⟩
  refine ⟨parsePacket_packetBytes h pad, fun vc rest q hshort => ⟨frontPacket_packetFlits vc h hshort rest q, ?_⟩⟩
  rw [← packetFlits_length vc h, ← List.length_map received]
  exact dropFlits_append vc _ rest packetFlits_vc

end Sys2Proof.Machine
end

section
/-! PROOFS. Ports: their states, the spare wavelength, and the link layer (R654 to R675). -/

namespace Sys2Proof.Machine

section
variable {s t : State}

/-- A command of a module that has its supply. -/
theorem exec_on {c : Instr} (hp : s.powered = true) (e : exec c s = whileOn s t) : exec c s = .next t :=
  e.trans (whileOn_powered t hp)

/-- A count in another field of the page. -/
theorem rd_bump_field (s : State) (page : Nat) {f g : Field} (n : Nat) (h : g.bit ≠ f.bit) :
    rd (bump page f n s) page g = rd s page g := rd_wr_field s page _ h

/-- A count in a field of another page. -/
theorem rd_bump_page (s : State) {page page' : Nat} {f g : Field} (n : Nat) (hf : f.bit < 32768) (hg : g.bit < 32768)
    (h : page' ≠ page) : rd (bump page f n s) page' g = rd s page' g := rd_wr_page s _ hf hg h

@[simp] theorem getPort_setPort (n : Nat) (p : Port) (s : State) : getPort (setPort n p s) n = p := look_put_self ..

@[simp] theorem getPort_bump (page : Nat) (f : Field) (v : Nat) (s : State) (n : Nat) :
    getPort (bump page f v s) n = getPort s n := rfl

@[simp] theorem getPort_lifeAdd (off v : Nat) (s : State) (n : Nat) : getPort (lifeAdd off v s) n = getPort s n := rfl

@[simp] theorem rd_setPort (n : Nat) (p : Port) (s : State) (page : Nat) (f : Field) :
    rd (setPort n p s) page f = rd s page f := rfl

@[simp] theorem portState_setPort (n m : Nat) (p : Port) (s : State) : portState (setPort n p s) m = portState s m := rfl

theorem portState_wr (n v : Nat) (s : State) {f : Field} (h : Reg.KP_STATUS_STATE.bit ≠ f.bit) :
    portState (wr (pgPort n) f v s) n = portState s n := rd_wr_field s _ v h

theorem portState_bump (n v : Nat) (s : State) {f : Field} (h : Reg.KP_STATUS_STATE.bit ≠ f.bit) :
    portState (bump (pgPort n) f v s) n = portState s n := rd_bump_field s _ v h

/-! ### A good flit (R659) -/

/-- A good flit counts in one field alone. -/
theorem rd_takeFlit (n ack vc cr : Nat) (s : State) {f : Field} (h : f.bit ≠ Reg.KP_RX_FLITS.bit) :
    rd (takeFlit n ack vc cr s) (pgPort n) f = rd s (pgPort n) f := rd_bump_field _ _ _ h

theorem portState_takeFlit (n ack vc cr : Nat) (s : State) : portState (takeFlit n ack vc cr s) n = portState s n :=
  rd_takeFlit n ack vc cr s (by decide)

@[simp] theorem getPort_takeFlit (n ack vc cr : Nat) (s : State) : getPort (takeFlit n ack vc cr s) n =
    { getPort s n with
      heard := (getPort s n).heard + 1
      unacked := ackThrough ack (getPort s n).unacked
      credits := put 0 (getPort s n).credits vc (look 0 (getPort s n).credits vc + cr) } :=
  getPort_setPort ..

/-! ### States of a port (R654, R669, R672) -/

section
variable {n : Nat}

theorem laserOk_waiting (h : portState s n = 1) : laserOk n s = setPortState n 2 (wr (pgPort n) Reg.KP_STATUS_LASER 1 s) :=
  if_pos ((portState_wr n 1 s (by decide)).trans h)

theorem laserLoss_running (h0 : portState s n ≠ 0) (h8 : portState s n ≠ 8) : laserLoss n s =
    raiseBit (pgPort n) 7 (setPortState n 1 (clearPort n (wr (pgPort n) Reg.KP_STATUS_LASER 0 s))) := by
  rw [← portState_wr n 0 s (f := Reg.KP_STATUS_LASER) (by decide)] at h0 h8
  rw [laserLoss, if_neg (by rintro (h | h); exacts [h0 h, h8 h])]

theorem laserLoss_stopped (h : portState s n = 0 ∨ portState s n = 8) :
    laserLoss n s = raiseBit (pgPort n) 7 (wr (pgPort n) Reg.KP_STATUS_LASER 0 s) := by
  rw [← portState_wr n 0 s (f := Reg.KP_STATUS_LASER) (by decide)] at h
  rw [laserLoss, if_pos h]

theorem portTuneDone_tuning (h : portState s n = 2) : portTuneDone n s = setPortState n 3 s := if_pos h
theorem portTrainDone_training (h : portState s n = 3) : portTrainDone n s = setPortState n 4 s := if_pos h
theorem portAlignDone_aligning (h : portState s n = 4) :
    portAlignDone n s = sendGrant n (sendHello n (setPortState n 5 (clearPort n s))) := if_pos h

/-! ### The spare wavelength (R673 to R675) -/

theorem laneFail_spare (lane : Nat) (hup : portState s n = 6) (hmap : rd s (pgPort n) Reg.KP_LANE_MAP_RX = 0xF)
    (hfail : (getPort s n).failing = 0) : laneFail n lane s = emitLink n false 1 (leBytes 1 lane)
      (setPort n { getPort s n with failing := lane % 8 + 1, discarding := true } s) := by
  rw [laneFail, if_neg (not_not.mpr hup), if_neg (by rintro (h | h); exacts [h hmap, h hfail])]

theorem laneFail_taken (lane : Nat) (hup : portState s n = 6)
    (h : rd s (pgPort n) Reg.KP_LANE_MAP_RX ≠ 0xF ∨ (getPort s n).failing ≠ 0) : laneFail n lane s = goDown n s := by
  rw [laneFail, if_neg (not_not.mpr hup), if_pos h]

theorem swap_spare (ack vc cr lane : Nat) (hup : portState s n = 6) (h : rd s (pgPort n) Reg.KP_LANE_MAP_TX = 0xF) :
    swap n ack vc cr lane s = recordSwitch n (wr (pgPort n) Reg.KP_LANE_MAP_TX (lane % 8)
      (setPort n { getPort (takeFlit n ack vc cr s) n with paused := true } (takeFlit n ack vc cr s))) := by
  rw [← rd_takeFlit n ack vc cr s (by decide)] at h
  rw [swap, if_neg (not_not.mpr hup), if_neg (not_not.mpr h)]

theorem swap_taken (ack vc cr lane : Nat) (hup : portState s n = 6) (h : rd s (pgPort n) Reg.KP_LANE_MAP_TX ≠ 0xF) :
    swap n ack vc cr lane s = goDown n (takeFlit n ack vc cr s) := by
  rw [← rd_takeFlit n ack vc cr s (by decide)] at h
  rw [swap, if_neg (not_not.mpr hup), if_pos h]

theorem spareW8Lock_failing (hup : portState s n = 6) (h : (getPort s n).failing ≠ 0) : spareW8Lock n s =
    askReplay n (emitLink n false 2 [] (recordSwitch n (setPort n { getPort s n with failing := 0 }
      (wr (pgPort n) Reg.KP_LANE_MAP_RX ((getPort s n).failing - 1) s)))) := if_pos ⟨hup, h⟩

theorem swapDone_up (ack vc cr : Nat) (hup : portState s n = 6) : swapDone n ack vc cr s =
    setPort n { getPort (takeFlit n ack vc cr s) n with paused := false } (takeFlit n ack vc cr s) := if_pos hup

/-! ### Flits on their way out (R656, R657) -/

theorem emitFlit_outs (n seq ctl vc cr : Nat) (payload : List Byte) (s : State) : ∃ wave bytes,
    (emitFlit n seq ctl vc cr payload s).outs = s.outs ++ [.flit n ((getPort s n).sent % 8) wave bytes] := ⟨_, _, rfl⟩

@[simp] theorem getPort_emitFlit (n seq ctl vc cr : Nat) (payload : List Byte) (s : State) :
    getPort (emitFlit n seq ctl vc cr payload s) n = { getPort s n with sent := (getPort s n).sent + 1 } :=
  getPort_setPort ..

@[simp] theorem getPort_emitLink (n : Nat) (nak : Bool) (code : Nat) (data : List Byte) (s : State) :
    getPort (emitLink n nak code data s) n =
      { payCredit (getPort s n) with sent := (payCredit (getPort s n)).sent + 1 } := by
  rw [emitLink, getPort_emitFlit, getPort_setPort]

end

end

/-- Settles O12: each command of a port in the state that it waits for. -/
theorem portLanes : Obligations.port_lanes := by
  have hcmd : ∀ {s : State} {c : Instr} {n : Nat} {t u : State}, s.powered = true → n < 32 →
      exec c s = whileOn s (if n < 32 then t else s) → t = u → exec c s = .next u := fun hp hn he ht =>
    (exec_on hp he).trans (by rw [if_pos hn, ht])
  refine ⟨fun s n hp hn => ⟨fun h => hcmd hp hn rfl (laserOk_waiting h),
      fun h0 h8 => hcmd hp hn rfl (laserLoss_running h0 h8), fun h => hcmd hp hn rfl (laserLoss_stopped h),
      fun h => hcmd hp hn rfl (portTuneDone_tuning h), fun h => hcmd hp hn rfl (portTrainDone_training h),
      fun h => hcmd hp hn rfl (portAlignDone_aligning h)⟩,
    fun s n hp hn hup => ⟨fun lane hmap hfail => hcmd hp hn rfl (laneFail_spare lane hup hmap hfail),
      fun lane h => hcmd hp hn rfl (laneFail_taken lane hup h),
      fun ack vc cr lane h => hcmd hp hn rfl (swap_spare ack vc cr lane hup h),
      fun ack vc cr lane h => hcmd hp hn rfl (swap_taken ack vc cr lane hup h),
      fun h => hcmd hp hn rfl (spareW8Lock_failing hup h),
      fun ack vc cr => hcmd hp hn rfl (swapDone_up ack vc cr hup)⟩,
    fun s n seq ctl vc cr payload _ =>
      ⟨emitFlit_outs n seq ctl vc cr payload s, congrArg Port.sent (getPort_emitFlit n seq ctl vc cr payload s)⟩⟩

/-! ### The link layer (R659 to R672) -/

section
variable {s : State} {n : Nat}

theorem hello_linking (ack vc cr m p : Nat) (h : portState s n = 5) : hello n ack vc cr m p s =
    tryUp n (setPort n { getPort (takeFlit n ack vc cr s) n with greeted := true } (wr (pgPort n) Reg.KP_PEER_VALID 1
      (wr (pgPort n) Reg.KP_PEER_MODULE m (wr (pgPort n) Reg.KP_PEER_PORT p (takeFlit n ack vc cr s))))) := if_pos h

theorem grant_linking (ack : Nat) (cs : List Nat) (h : portState s n = 5) : grant n ack cs s =
    tryUp n (setPort n { getPort (takeFlit n ack 0 0 s) n with
      credits := (List.range 8).foldl (fun m i => put 0 m i (cs.getD i 0)) [], granted := true } (takeFlit n ack 0 0 s)) :=
  if_pos h

theorem idleFlit_active (ack vc cr : Nat) (h : portState s n = 5 ∨ portState s n = 6) :
    idleFlit n ack vc cr s = sendWaiting n (takeFlit n ack vc cr s) := if_pos (by simpa [linkActive] using h)

theorem peerFlitTimeout_active (h : portState s n = 5 ∨ portState s n = 6) : peerFlitTimeout n s = goDown n s := if_pos h

theorem portRetrain_running (h0 : portState s n ≠ 0) (h7 : portState s n ≠ 7) (h8 : portState s n ≠ 8) :
    portRetrain n s = goDown n s := if_neg (by rintro (h | h | h); exacts [h0 h, h8 h, h7 h])

/-! #### Data flits (R655, R659, R661) -/

/-- What the codewords of a data flit count, whatever becomes of the flit (R655). -/
def flitCounted (n : Nat) (bad : Bool) (corrected : Nat) (s : State) : State :=
  if bad then lifeAdd (0x308 + 16 * n) 1 (bump (pgPort n) Reg.KP_FEC_UNCORR 1 (bump (pgPort n) Reg.KP_FEC_CORRECTED corrected s))
  else bump (pgPort n) Reg.KP_FEC_CORRECTED corrected s

@[simp] theorem getPort_flitCounted (n : Nat) (bad : Bool) (corrected : Nat) (s : State) :
    getPort (flitCounted n bad corrected s) n = getPort s n := by
  cases bad <;> rfl

@[simp] theorem portState_flitCounted (n : Nat) (bad : Bool) (corrected : Nat) (s : State) :
    portState (flitCounted n bad corrected s) n = portState s n := by
  have hcorrected : portState (bump (pgPort n) Reg.KP_FEC_CORRECTED corrected s) n = portState s n :=
    portState_bump n corrected s (by decide)
  cases bad
  · exact hcorrected
  · exact (portState_bump n 1 _ (f := Reg.KP_FEC_UNCORR) (by decide)).trans hcorrected

/-- The flit has its 256 bytes and a right CRC (R658, R932). -/
def flitGood (bs : List Byte) : Bool := bs.length == 256 && leNat (bs.drop 0xFC) == crc32 (bs.take 0xFC)

/-- The next data flit in order has been acknowledged and buffered. -/
def flitTaken (n : Nat) (bs : List Byte) (s : State) : State :=
  let ctl := leNat ((bs.drop 4).take 4)
  let s := takeFlit n (leNat ((bs.drop 2).take 2)) (bitsOf ctl 8 3) (bitsOf ctl 11 13) s
  setPort n { getPort s n with
    rxSeq := leNat (bs.take 2), discarding := false
    rx := (getPort s n).rx ++ [⟨ctl % 8, bitOf ctl 4, (bs.drop 8).take 240⟩] } s

/-- The next flit in order, undamaged, is buffered behind those before it. -/
theorem dataFlit_next {bs : List Byte} (corrected : Nat) (hup : portState s n = 6) (hgood : flitGood bs = true)
    (hseq : leNat (bs.take 2) = ((getPort s n).rxSeq + 1) % 2 ^ 16) :
    dataFlit n bs false corrected s = sendWaiting n (flitTaken n bs (flitCounted n false corrected s)) := by
  rw [← portState_flitCounted n false corrected s] at hup
  rw [← getPort_flitCounted n false corrected s] at hseq
  have hundamaged : ¬ (false || !flitGood bs) = true := by rw [hgood]; decide
  exact (if_neg (not_not.mpr hup)).trans ((if_neg hundamaged).trans (if_pos hseq))

/-- A port that asks for a replay discards until it has come. -/
theorem discarding_askReplay (n : Nat) (s : State) : (getPort (askReplay n s) n).discarding = true := by
  rw [askReplay, getPort_emitLink, getPort_setPort]
  rfl

@[simp] theorem getPort_heardFlit (n : Nat) (s : State) :
    getPort (heardFlit n s) n = { getPort s n with heard := (getPort s n).heard + 1 } := getPort_setPort ..

/-- A damaged flit has been heard, and counted where its CRC is wrong. -/
def flitDropped (n : Nat) (bs : List Byte) (s : State) : State :=
  heardFlit n (if flitGood bs then s else bump (pgPort n) Reg.KP_CRC_ERRORS 1 s)

@[simp] theorem getPort_flitDropped (n : Nat) (bs : List Byte) (s : State) :
    getPort (flitDropped n bs s) n = { getPort s n with heard := (getPort s n).heard + 1 } := by
  rw [flitDropped, getPort_heardFlit]
  split <;> rfl

/-- A damaged flit is not taken, and the port asks for a replay. -/
theorem dataFlit_damaged {bs : List Byte} {bad : Bool} (corrected : Nat) (hup : portState s n = 6)
    (hbad : (bad || !flitGood bs) = true) :
    dataFlit n bs bad corrected s = askReplay n (flitDropped n bs (flitCounted n bad corrected s)) := by
  rw [← portState_flitCounted n bad corrected s] at hup
  exact (if_neg (not_not.mpr hup)).trans (if_pos hbad)

/-! #### Replay (R662, R663) -/

/-- Every unacknowledged flit of a port is sent once more. -/
def replayed (p : Port) : Port := { p with unacked := p.unacked.map fun f => { f with replays := f.replays + 1 } }

section
variable (ack vc cr : Nat)

theorem unacked_takeFlit : (getPort (takeFlit n ack vc cr s) n).unacked = ackThrough ack (getPort s n).unacked := by
  rw [getPort_takeFlit]

variable (hup : portState s n = 6)
include hup

theorem nakReplay_nothing (h : ackThrough ack (getPort s n).unacked = []) :
    nakReplay n ack vc cr s = sendWaiting n (takeFlit n ack vc cr s) := by
  rw [← unacked_takeFlit ack vc cr] at h
  exact (if_neg (not_not.mpr hup)).trans (if_pos h)

theorem nakReplay_exhausted (hf : ∃ f ∈ ackThrough ack (getPort s n).unacked, 8 ≤ f.replays) :
    nakReplay n ack vc cr s = goDown n (takeFlit n ack vc cr s) := by
  rw [← unacked_takeFlit ack vc cr] at hf
  obtain ⟨f, hmem, hf⟩ := hf
  exact (if_neg (not_not.mpr hup)).trans
    ((if_neg (List.ne_nil_of_mem hmem)).trans (if_pos (List.any_eq_true.mpr ⟨f, hmem, decide_eq_true hf⟩)))

theorem nakReplay_replays (h : ackThrough ack (getPort s n).unacked ≠ [])
    (hf : ∀ f ∈ ackThrough ack (getPort s n).unacked, f.replays < 8) : ∃ t,
      (getPort t n).unacked = (ackThrough ack (getPort s n).unacked).map (fun f => { f with replays := f.replays + 1 }) ∧
      nakReplay n ack vc cr s =
        if (getPort s n).paused then t else sendWaiting n (resend n (getPort t n).unacked t) := by
  have hpaused : (getPort s n).paused = (replayed (getPort (takeFlit n ack vc cr s) n)).paused := by
    rw [getPort_takeFlit]
    rfl
  rw [← unacked_takeFlit ack vc cr] at h hf ⊢
  have hfew : ¬ ((getPort (takeFlit n ack vc cr s) n).unacked.any fun f => decide (8 ≤ f.replays)) = true := by
    rw [List.any_eq_true]
    rintro ⟨f, hmem, hlong⟩
    exact absurd (of_decide_eq_true hlong) (Nat.not_le.mpr (hf f hmem))
  rw [nakReplay, if_neg (not_not.mpr hup), hpaused]
  generalize takeFlit n ack vc cr s = u at h hfew ⊢
  have hport : getPort (lifeAdd (0x30C + 16 * n) 1 (bump (pgPort n) Reg.KP_REPLAYS 1 (setPort n (replayed (getPort u n)) u)))
        n = replayed (getPort u n) := by
    rw [getPort_lifeAdd, getPort_bump, getPort_setPort]
  refine ⟨_, congrArg Port.unacked hport, ?_⟩
  rw [hport]
  exact (if_neg h).trans (if_neg hfew)

end

/-! #### `KP_CTRL.ENABLE` (R669, R671) -/

theorem portEnable_changes {on : Bool} (h : isSet s (pgPort n) Reg.KP_CTRL_ENABLE ≠ on) :
    portEnable n on s = portEnableChanged n on (wr (pgPort n) Reg.KP_CTRL_ENABLE (natOf on) s) := if_neg h

theorem portEnableChanged_locked (on : Bool) (h : portState s n = 8) : portEnableChanged n on s = s := if_pos h

theorem portEnableChanged_on (h : portState s n = 0) : portEnableChanged n true s =
    setPortState n (if isSet s (pgPort n) Reg.KP_STATUS_LASER then 2 else 1) s := by
  rw [portEnableChanged, if_neg (by omega), if_pos rfl, if_pos h]

theorem portEnableChanged_off (h : portState s n ≠ 8) :
    portEnableChanged n false s = setPortState n 0 (clearPort n s) := by
  rw [portEnableChanged, if_neg h, if_neg Bool.false_ne_true]

end

/-- Settles O13: each command of the link layer, by what the port's state and the flit say. -/
theorem portLink : Obligations.port_link := by
  intro s n hp hn
  have hcmd : ∀ {c : Instr} {t u : State}, exec c s = whileOn s (if n < 32 then t else s) → t = u → exec c s = .next u :=
    fun he ht => (exec_on hp he).trans (by rw [if_pos hn, ht])
  refine ⟨?hello, fun ack cs h => hcmd rfl (grant_linking ack cs h), fun ack vc cr h => hcmd rfl (idleFlit_active ack vc cr h),
    ?next, ?damaged, ?nak, fun h => hcmd rfl (peerFlitTimeout_active h),
    fun h0 h7 h8 => hcmd rfl (portRetrain_running h0 h7 h8), ?enable⟩
  case hello =>
    rintro ack vc cr m p u h rfl
    exact hcmd rfl (hello_linking ack vc cr m p h)
  case next =>
    intro bs corrected hup hlen hcrc hseq
    have hgood : flitGood bs = true := by rw [flitGood, hlen, hcrc, beq_self_eq_true, beq_self_eq_true]; rfl
    refine ⟨_, hcmd rfl (dataFlit_next corrected hup hgood hseq), ?_⟩
    rw [flitTaken, getPort_setPort, getPort_takeFlit, getPort_flitCounted]
    exact ⟨rfl, rfl, rfl⟩
  case damaged =>
    intro bs bad corrected hup hbad
    have hdamaged : (bad || !flitGood bs) = true := by
      simp only [flitGood, Bool.or_eq_true, Bool.not_eq_true', Bool.and_eq_false_iff, beq_eq_false_iff_ne]
      exact hbad
    refine ⟨_, _, hcmd rfl (dataFlit_damaged corrected hup hdamaged), rfl, ?_, ?_, ?_, discarding_askReplay n _⟩
    · rw [getPort_flitDropped, getPort_flitCounted]
    · rw [getPort_flitDropped, getPort_flitCounted]
    · rw [getPort_flitDropped, getPort_flitCounted]
  case nak =>
    intro ack vc cr hup
    refine ⟨fun h => hcmd rfl (nakReplay_nothing ack vc cr hup h), fun h =>
      ⟨fun hf => hcmd rfl (nakReplay_exhausted ack vc cr hup hf), fun hf => ?_⟩⟩
    obtain ⟨t, hunacked, ht⟩ := nakReplay_replays ack vc cr hup h hf
    exact ⟨t, hunacked, hcmd rfl ht⟩
  case enable =>
    intro on hchange
    have hstate := portState_wr n (natOf on) s (f := Reg.KP_CTRL_ENABLE) (by decide)
    rw [← hstate]
    refine ⟨_, rfl, fun h => hcmd rfl ((portEnable_changes hchange).trans (portEnableChanged_locked on h)), ?_, ?_⟩
    · rintro rfl h
      exact hcmd rfl ((portEnable_changes hchange).trans (portEnableChanged_on h))
    · rintro rfl h
      exact hcmd rfl ((portEnable_changes hchange).trans (portEnableChanged_off h))

end Sys2Proof.Machine
end

section
/-! PROOFS. Memory: what a write within a unit stores, what it leaves, what a read gives (R619, R621, R624, R628, R629). -/

namespace Sys2Proof.Machine

/-- `t` holds the bytes, valid bits of wells, poison and bad bits of `s`. -/
structure SameMem (s t : State) : Prop where
  cells : t.mem.cells = s.mem.cells
  wellValid : t.mem.wellValid = s.mem.wellValid
  poison : t.mem.poison = s.mem.poison
  flips : t.mem.flips = s.mem.flips

section
variable {s t u : State}

theorem SameMem.of_mem (h : t.mem = s.mem) : SameMem s t := by
  constructor <;> rw [h]

theorem SameMem.trans (h : SameMem s t) (k : SameMem t u) : SameMem s u :=
  ⟨k.cells.trans h.cells, k.wellValid.trans h.wellValid, k.poison.trans h.poison, k.flips.trans h.flips⟩

theorem SameMem.cellAt (h : SameMem s t) (b : Nat) : cellAt t b = cellAt s b := congrArg (look 0 · b) h.cells
theorem SameMem.isPoisoned (h : SameMem s t) (b : Nat) : isPoisoned t b = isPoisoned s b := congrArg (look false · b) h.poison
theorem SameMem.flipsOf (h : SameMem s t) (w : Nat) : flipsOf t w = flipsOf s w := congrArg (look 0 · w) h.flips

theorem SameMem.cellsAt (h : SameMem s t) (a n : Nat) : cellsAt t a n = cellsAt s a n :=
  List.map_congr_left fun _ _ => h.cellAt _

/-- The memory of a counter's update, repeated. -/
theorem mem_foldl_bump {α : Type} (page : α → Nat) (f : Field) (n : Nat) (l : List α) (s : State) :
    (l.foldl (fun s c => bump (page c) f n s) s).mem = s.mem :=
  List.foldlRecOn (motive := fun t : State => t.mem = s.mem) _ _ rfl fun _ ht _ _ => ht

/-! ### Words without bad bits (R623) -/

theorem cellsAt_add (s : State) (a m n : Nat) : cellsAt s a (m + n) = cellsAt s a m ++ cellsAt s (a + m) n := by
  simp only [cellsAt, List.range_add, List.map_append, List.map_map]
  congr 2
  funext i
  rw [Function.comp_apply, Nat.add_assoc]

@[simp] theorem cellsAt_length (s : State) (a n : Nat) : (cellsAt s a n).length = n := by simp [cellsAt]

theorem getElem_cellsAt {s : State} {a n i : Nat} (h : i < (cellsAt s a n).length) : (cellsAt s a n)[i] = cellAt s (a + i) := by
  simp [cellsAt]

theorem cellsAt_drop_take (s : State) (a : Nat) {i m n : Nat} (h : i + n ≤ m) :
    ((cellsAt s a m).drop i).take n = cellsAt s (a + i) n := by
  obtain ⟨k, rfl⟩ := Nat.exists_eq_add_of_le h
  rw [Nat.add_assoc, cellsAt_add, cellsAt_add, List.drop_left' (cellsAt_length ..), List.take_left' (cellsAt_length ..)]

theorem readWord_clean {w : Nat} (h : flipsOf s w = 0) : readWord w s = (cellsAt s (w * 8) 8, s) := by
  unfold readWord
  rw [h]
  rfl

theorem readWords_clean (n w : Nat) (h : ∀ v, w ≤ v → v < w + n → flipsOf s v = 0) :
    readWords n w s = (cellsAt s (w * 8) (8 * n), s) := by
  induction n generalizing w with
  | zero => rfl
  | succ n ih =>
    have hrest := ih (w + 1) fun v hlo hhi => h v (by omega) (by omega)
    have hword : (if isPoisoned s (w / 8) then (cellsAt s (w * 8) 8, s) else readWord w s) = (cellsAt s (w * 8) 8, s) := by
      rw [readWord_clean (h w (Nat.le_refl w) (by omega)), ite_self]
    unfold readWords
    rw [hword]
    dsimp only
    rw [hrest, show 8 * (n + 1) = 8 + 8 * n by omega, cellsAt_add, show (w + 1) * 8 = w * 8 + 8 by omega]

/-! ### What a write stores -/

/-- `t` differs from `s` in no stored byte, poison or bad bit. -/
def SameStore (s t : State) : Prop := t.mem.cells = s.mem.cells ∧ t.mem.poison = s.mem.poison ∧ t.mem.flips = s.mem.flips

theorem SameStore.of_mem (h : SameStore s t) (k : u.mem = t.mem) : SameStore s u := by
  unfold SameStore
  rwa [k]

theorem SameStore.ite {c : Prop} [Decidable c] (h : SameStore s t) (k : SameStore s u) : SameStore s (if c then t else u) := by
  split
  · exact h
  · exact k

/-- A zero fill touches valid bits alone: unlisted bytes read zero already. -/
theorem sameStore_zeroFill (a : Nat) (s : State) : SameStore s (zeroFill a s) := by
  unfold zeroFill
  refine .ite ⟨rfl, rfl, rfl⟩ (.ite ?well ?gddr)
  case well =>
    extract_lets mem filled
    exact .of_mem (t := filled) ⟨rfl, rfl, rfl⟩ (bump_mem ..)
  case gddr =>
    extract_lets off page mem filled chans
    exact .of_mem (t := filled) ⟨rfl, rfl, rfl⟩ (mem_foldl_bump pgChannel _ _ chans filled)

/-- A write sets the valid bit of its granule (R629). -/
theorem wellValid_zeroFill {a : Nat} (h : a < wellEnd) (s : State) : look false (zeroFill a s).mem.wellValid (a / 256) = true := by
  by_cases hv : isValid s a = true
  · rw [zeroFill, if_pos hv]
    rwa [isValid, if_pos h] at hv
  · rw [zeroFill, if_neg hv, if_pos h, bump_mem, look_put_self]

/-- The bad bits of the words that a write covers whole are gone. -/
def clearFlips (a n : Nat) (ws : List Nat) (s : State) : State :=
  ws.foldl (fun s w => if decide (a ≤ w * 8) && decide (w * 8 + 8 ≤ a + n) then setFlips w 0 s else s) s

theorem clearFlips_keeps (a n : Nat) (ws : List Nat) (s : State) : (clearFlips a n ws s).mem.cells = s.mem.cells ∧
    (clearFlips a n ws s).mem.wellValid = s.mem.wellValid ∧ (clearFlips a n ws s).mem.poison = s.mem.poison ∧
    ∀ w, flipsOf s w = 0 → flipsOf (clearFlips a n ws s) w = 0 := by
  refine List.foldlRecOn (motive := fun t => t.mem.cells = s.mem.cells ∧ t.mem.wellValid = s.mem.wellValid ∧
    t.mem.poison = s.mem.poison ∧ ∀ w, flipsOf s w = 0 → flipsOf t w = 0) ws _ ⟨rfl, rfl, rfl, fun _ => id⟩ ?_
  intro t ⟨hcells, hvalid, hpoison, hflips⟩ w _
  split
  · refine ⟨hcells, hvalid, hpoison, fun v hv => ?_⟩
    by_cases hvw : v = w
    · rw [hvw, flipsOf_setFlips_self]
    · rw [flipsOf_setFlips_other 0 t hvw, hflips v hv]
  · exact ⟨hcells, hvalid, hpoison, hflips⟩

/-- The bytes of a write within a unit stored, with the poison that they leave on it (R619, R621). -/
def storeUnit (a : Nat) (data : List PByte) (s : State) : State :=
  let s := clearFlips a data.length ((List.range 8).map (a / 64 * 8 + ·)) (setCells a (data.map Prod.fst) s)
  if data.any Prod.snd then setPoison (a / 64) true s else if data.length == 64 then setPoison (a / 64) false s else s

/-- Before it stores, a write fills an unwritten granule; a unit without bad bits it leaves as it was. -/
theorem writeUnit_clean {a : Nat} (data : List PByte) (h : ∀ w, w / 8 = a / 64 → flipsOf s w = 0) :
    ∃ m, SameMem (zeroFill a s) m ∧ SameMem (storeUnit a data m) (writeUnit a data s) := by
  have hflips : ∀ w, w / 8 = a / 64 → flipsOf (zeroFill a s) w = 0 := fun w hw => by
    rw [flipsOf, (sameStore_zeroFill a s).2.2]
    exact h w hw
  unfold writeUnit
  extract_lets n unit fresh filled whole partly merged stored cleared bad marked
  refine ⟨merged, ?_, ?_⟩
  · refine iteInduction (fun _ => .of_mem rfl) fun _ => ?_
    split
    · next o _ =>
      have hclean : ∀ t : State, t.mem = filled.mem → (readWords 8 (unit * 8) t).2.mem = filled.mem := fun t ht => by
        rw [readWords_clean]
        · exact ht
        · intro v hlo hhi
          rw [flipsOf, ht]
          exact hflips v (by omega)
      refine .of_mem (hclean _ ?_)
      split <;> rfl
    · refine .of_mem (congrArg State.mem (?_ : partly.foldl _ filled = filled))
      refine List.foldlRecOn (motive := fun t => t = filled) _ _ rfl fun t ht w hw => ?_
      obtain ⟨i, hi, rfl⟩ := List.mem_map.mp (List.mem_filter.mp hw).1
      have hi := List.mem_range.mp hi
      rw [ht, readWord_clean (hflips _ (by omega)), ite_self]
  · split
    · exact .of_mem rfl
    · exact .of_mem rfl

section
variable (a : Nat) (data : List PByte) (s : State)

/-- The bytes have been stored; the poison is still as it was. -/
theorem storeUnit_marks : ∃ t, t.mem.cells = (setCells a (data.map Prod.fst) s).mem.cells ∧ t.mem.wellValid = s.mem.wellValid ∧
    t.mem.poison = s.mem.poison ∧ (∀ w, flipsOf s w = 0 → flipsOf t w = 0) ∧
    storeUnit a data s = if data.any Prod.snd then setPoison (a / 64) true t
      else if data.length == 64 then setPoison (a / 64) false t else t := by
  have hcells : ∀ (bs : List Byte) (b : Nat) (u : State), (setCells b bs u).mem.wellValid = u.mem.wellValid ∧
      (setCells b bs u).mem.poison = u.mem.poison ∧ (setCells b bs u).mem.flips = u.mem.flips := fun _ _ _ => ⟨rfl, rfl, rfl⟩
  obtain ⟨hvalid, hpoison, hflips⟩ := hcells (data.map Prod.fst) a s
  obtain ⟨kcells, kvalid, kpoison, kflips⟩ := clearFlips_keeps a data.length ((List.range 8).map (a / 64 * 8 + ·))
    (setCells a (data.map Prod.fst) s)
  exact ⟨_, kcells, kvalid.trans hvalid, kpoison.trans hpoison, fun w hw => kflips w (by rw [flipsOf, hflips]; exact hw), rfl⟩

/-- Poison is stored beside the bytes. -/
theorem setPoison_ite_keeps (c d : Bool) (u : Nat) (t : State) :
    (if c then setPoison u true t else if d then setPoison u false t else t).mem.cells = t.mem.cells ∧
    (if c then setPoison u true t else if d then setPoison u false t else t).mem.wellValid = t.mem.wellValid ∧
    (if c then setPoison u true t else if d then setPoison u false t else t).mem.flips = t.mem.flips := by
  cases c <;> cases d <;> exact ⟨rfl, rfl, rfl⟩

theorem cells_storeUnit : (storeUnit a data s).mem.cells = (setCells a (data.map Prod.fst) s).mem.cells := by
  obtain ⟨t, hcells, -, -, -, h⟩ := storeUnit_marks a data s
  rw [h, (setPoison_ite_keeps ..).1, hcells]

theorem cellsAt_storeUnit : cellsAt (storeUnit a data s) a data.length = data.map Prod.fst := by
  refine List.ext_getElem (by simp [cellsAt]) fun i hi hlen => ?_
  rw [getElem_cellsAt, cellAt, cells_storeUnit]
  exact cellAt_setCells_self (data.map Prod.fst) s i hlen

theorem cellAt_storeUnit_other {b : Nat} (h : b < a ∨ a + data.length ≤ b) : cellAt (storeUnit a data s) b = cellAt s b := by
  rw [cellAt, cells_storeUnit]
  exact cellAt_setCells_other _ s (by rwa [List.length_map])

theorem wellValid_storeUnit : (storeUnit a data s).mem.wellValid = s.mem.wellValid := by
  obtain ⟨t, -, hvalid, -, -, h⟩ := storeUnit_marks a data s
  rw [h, (setPoison_ite_keeps ..).2.1, hvalid]

theorem flipsOf_storeUnit {w : Nat} (hw : flipsOf s w = 0) : flipsOf (storeUnit a data s) w = 0 := by
  obtain ⟨t, -, -, -, hflips, h⟩ := storeUnit_marks a data s
  rw [h, flipsOf, (setPoison_ite_keeps ..).2.2]
  exact hflips w hw

/-- Poisoned data poisons the unit; clean data clears its poison where it covers all 64 bytes (R621). -/
theorem isPoisoned_storeUnit : isPoisoned (storeUnit a data s) (a / 64) =
    (data.any Prod.snd || (isPoisoned s (a / 64) && data.length != 64)) := by
  obtain ⟨t, -, -, hpoison, -, h⟩ := storeUnit_marks a data s
  rw [h]
  by_cases hbad : data.any Prod.snd = true
  · rw [if_pos hbad, isPoisoned_setPoison_self, hbad, Bool.true_or]
  · rw [if_neg hbad, Bool.eq_false_iff.mpr hbad, Bool.false_or]
    by_cases hall : (data.length == 64) = true
    · rw [if_pos hall, isPoisoned_setPoison_self, bne, hall, Bool.not_true, Bool.and_false]
    · rw [if_neg hall, bne, Bool.eq_false_iff.mpr hall, Bool.not_false, Bool.and_true]
      exact congrArg (look false · (a / 64)) hpoison

end

/-! ### Reads (R624, R628) -/

/-- Settles O10: a read of unwritten memory looks at its valid bit alone. -/
theorem unwrittenMemoryReadsZero : Obligations.unwritten_memory_reads_zero := by
  intro s a n h
  rw [readUnit, h]
  rfl

/-- A read of valid bytes within a unit without bad bits gives them, all with the poison of the unit. -/
theorem readUnit_clean {a n : Nat} (hv : isValid s a = true) (hn : 0 < n) (hunit : a / 64 = (a + n - 1) / 64)
    (h : ∀ w, w / 8 = a / 64 → flipsOf s w = 0) :
    (readUnit a n s).1 = (cellsAt s a n).map fun b => (b, isPoisoned s (a / 64)) := by
  have hwords := readWords_clean ((a + n - 1) / 8 + 1 - a / 8) (a / 8) (s := s) fun w hlo hhi => h w (by omega)
  unfold readUnit
  rw [hv]
  dsimp only
  rw [hwords]
  dsimp only
  rw [cellsAt_drop_take s _ (by omega), show a / 8 * 8 + a % 8 = a by omega]
  rfl

/-! ### A write within a unit -/

section
variable {a : Nat} {data : List PByte} (h : ∀ w, w / 8 = a / 64 → flipsOf s w = 0)
include h

theorem cellAt_writeUnit_other {b : Nat} (hb : b < a ∨ a + data.length ≤ b) : cellAt (writeUnit a data s) b = cellAt s b := by
  obtain ⟨m, hfill, hstore⟩ := writeUnit_clean data h
  rw [hstore.cellAt, cellAt_storeUnit_other a data m hb, hfill.cellAt]
  exact congrArg (look 0 · b) (sameStore_zeroFill a s).1

theorem flipsOf_writeUnit {w : Nat} (hw : flipsOf s w = 0) : flipsOf (writeUnit a data s) w = 0 := by
  obtain ⟨m, hfill, hstore⟩ := writeUnit_clean data h
  rw [hstore.flipsOf]
  refine flipsOf_storeUnit a data m ?_
  rw [hfill.flipsOf, flipsOf, (sameStore_zeroFill a s).2.2]
  exact hw

theorem cellsAt_writeUnit : cellsAt (writeUnit a data s) a data.length = data.map Prod.fst := by
  obtain ⟨m, -, hstore⟩ := writeUnit_clean data h
  rw [hstore.cellsAt, cellsAt_storeUnit]

theorem isPoisoned_writeUnit : isPoisoned (writeUnit a data s) (a / 64) =
    (data.any Prod.snd || (isPoisoned s (a / 64) && data.length != 64)) := by
  obtain ⟨m, hfill, hstore⟩ := writeUnit_clean data h
  rw [hstore.isPoisoned, isPoisoned_storeUnit, hfill.isPoisoned, isPoisoned, (sameStore_zeroFill a s).2.1]
  rfl

theorem isValid_writeUnit (ha : a < wellEnd) : isValid (writeUnit a data s) a = true := by
  obtain ⟨m, hfill, hstore⟩ := writeUnit_clean data h
  rw [isValid, if_pos ha, hstore.wellValid, wellValid_storeUnit, hfill.wellValid]
  exact wellValid_zeroFill ha s

end

/-! ### A write of any range -/

theorem lt_wellEnd_of_well {a tile off : Nat} (h : regionOf s a = .well tile off) : a < wellEnd := by
  unfold regionOf at h
  split at h
  · assumption
  · split at h
    · cases h
    · split at h <;> cases h

/-- A write, piece by piece, leaves every byte outside its range. -/
theorem cellAt_writePieces_other (fuel : Nat) {a n b : Nat} (data : List PByte) (hlen : data.length = n)
    (h : ∀ w, a / 64 ≤ w / 8 → w / 8 ≤ (a + n - 1) / 64 → flipsOf s w = 0) (hb : b < a ∨ a + n ≤ b) :
    cellAt (writePieces (unitPieces fuel a n) data s) b = cellAt s b := by
  induction fuel generalizing a n data s with
  | zero => rfl
  | succ fuel ih =>
    cases n with
    | zero => rfl
    | succ n =>
      rw [unitPieces, writePieces]
      · generalize hk : min (n + 1) (64 - a % 64) = k
        have htake : (data.take k).length = k := by
          rw [List.length_take]
          omega
        have hunit : ∀ w, w / 8 = a / 64 → flipsOf s w = 0 := fun w hw => h w (by omega) (by omega)
        rw [ih (data.drop k) (by rw [List.length_drop]; omega)
            (fun w hlo hhi => flipsOf_writeUnit hunit (h w (by omega) (by omega))) (by omega)]
        exact cellAt_writeUnit_other hunit (by rw [htake]; omega)
      · exact Nat.succ_ne_zero n

/-- Settles O9: a write fills, merges and stores; what it stores is read back, and what it does not cover stays. -/
theorem memoryReadsWhatWasWritten : Obligations.memory_reads_what_was_written := by
  intro s a data hdata
  have hpos : 0 < data.length := List.length_pos_iff.mpr hdata
  refine ⟨fun hunit h => ⟨cellsAt_writeUnit h, fun hall => ?_, fun hpart => ?_, fun hwell => ?_⟩,
    fun h b hb => cellAt_writePieces_other _ data rfl h hb⟩
  · rw [isPoisoned_writeUnit h, bne, beq_iff_eq.mpr hall, Bool.not_true, Bool.and_false, Bool.or_false]
  · rw [isPoisoned_writeUnit h, bne_iff_ne.mpr hpart, Bool.and_true, Bool.or_comm]
  · have hvalid := isValid_writeUnit (data := data) h (lt_wellEnd_of_well hwell)
    refine ⟨hvalid, ?_⟩
    rw [readUnit_clean hvalid hpos hunit fun w hw => flipsOf_writeUnit h (h w hw), cellsAt_writeUnit h, List.map_map]
    rfl

end

end Sys2Proof.Machine
end

section
/-! PROOFS. Migration of a retired channel (R623, R624, R640): a migration read stores what it corrects. -/

namespace Sys2Proof.Machine

/-- Channel 0 migrates; of page 0 of the data view, valid and zero, the first word has bad data bits 0, 1 and 2. -/
def worndown : State :=
  { wr (pgHub 0) Reg.MEM_RETIRE_STATUS_STATE 1 State.reset with
    mem := { pageValid := [(0, true)], flips := [(gddrBase / 8, 7)] } }

/-- The uncorrectable word is stored with its bad bits, as R624 has it for every read. -/
theorem cells_migrationCopy_worndown : (migrationCopy worndown).mem.cells = [(gddrBase, 7)] := by decide +kernel

/-- Refutes O17: the copy of a granule with an uncorrectable word stores that word poisoned with the bits as they were
read (R624), so that MIGRATION_COPY does not leave every stored byte as it was. -/
theorem not_memoryUpkeep : ¬ Obligations.memory_upkeep := by
  intro h
  obtain ⟨-, -, -, hmigrates, -⟩ := h worndown rfl
  obtain ⟨t, ht, -, hcells, -⟩ := hmigrates 0 0 (by decide +kernel) (by decide +kernel) (by decide +kernel)
  have hrun : exec .migrationCopy worndown = .next (migrationCopy worndown) := exec_on rfl rfl
  have hcopy : migrationCopy worndown = t := Host.Outcome.next.inj (hrun.symm.trans ht)
  rw [← hcopy, cells_migrationCopy_worndown] at hcells
  exact absurd hcells (by decide +kernel)

end Sys2Proof.Machine
end

section
/-! PROOFS. The queue, the module without its supply, the error log and the events of a page (R877, R891, R906). -/

namespace Sys2Proof.Machine

/-! ### The queue -/

/-- Settles O1: a step is `exec` of the front of the queue, and no word decodes in this model. -/
theorem stepRunsFront : Obligations.step_runs_front := by
  intro s
  refine ⟨fun c cs => rfl, fun c => rfl, fun nbits w c h => ?_, fun h => ?_⟩
  · exact nomatch h
  · unfold step
    rw [h]

/-! ### Without the supply (R906, R922) -/

theorem whileOn_unpowered {s : State} (t : State) (h : s.powered = false) : whileOn s t = .next s := by
  rw [whileOn, h]
  rfl

/-- Every command but COLD_POWER_UP waits for the supply. -/
theorem exec_unpowered {s : State} (h : s.powered = false) (c : Instr) (hc : ∀ failed, c ≠ .coldPowerUp failed) :
    exec c s = .next s := by
  cases c with
  | coldPowerUp failed => exact absurd rfl (hc failed)
  | _ => exact whileOn_unpowered _ h

/-- What COLD_POWER_UP starts from: the flash, the straps, what the world has seen, and one more power-up counted. -/
def coldStart (s : State) : State :=
  let lost := (newestCopy s.life).isNone
  let s := coldState s
  let s := if s.rc.extended then
      wr pgLockkeeper Reg.PW_CAP_EXTENDED 1 (wr pgLockkeeper Reg.PW_CAP_LIMIT 4100 (wr pgLockkeeper Reg.PW_CAP_WATTS 4100 s))
    else s
  let s := if lost then journal 0x0C 0 pgLockkeeper 0 s else s
  lifeAdd 0x20 1 (lifeAdd (0xA0 + 4 * 9) 1 s)

/-- COLD_POWER_UP after `coldStart`: the reset of the module and the boot. -/
def coldBoot (failed : List Nat) (s : State) : State :=
  let x : DomReset := { kind := 0, inst := 0, cause := 9 }
  let s := modRc (fun r => { r with locks := [{ kind := 0, inst := 0, state := 3, own := false }], resets := [x] }) s
  let s := bootSelect (deriveKey s)
  if keeperUp s then endReset x failed s else s

theorem coldPowerUp_eq (failed : List Nat) (s : State) : coldPowerUp failed s = coldBoot failed (coldStart s) := rfl

/-- The parts that the boot can change: not the memory, not the life log, not the supply. -/
def bootParts : Nat := 2304770097

theorem keeps_endReset_cold {m₀ : Nat} {s₀ : State} {x : DomReset} {failed : List Nat} (hx : x.cause = 9)
    (hM₀ : Sub 155189265 m₀) {s : State} (h₀ : Keeps m₀ s₀ s) : Keeps m₀ s₀ (endReset x failed s) := by
  unfold endReset
  rw [if_pos hx]
  exact keeps_coldOpen (hM₀.le (by decide)) (keeps_modRc (hM₀.le (by decide)) (fun _ => rfl) h₀)

theorem keeps_coldBoot (failed : List Nat) (s : State) : Keeps bootParts s (coldBoot failed s) := by
  have hboot := keeps_bootSelect (m₀ := bootParts) part (keeps_deriveKey part (keeps_modRc (f := fun r => { r with
    locks := [{ kind := 0, inst := 0, state := 3, own := false }], resets := [{ kind := 0, inst := 0, cause := 9 }] })
    part (fun _ => rfl) (.refl s)))
  exact .ite (keeps_endReset_cold rfl part hboot) hboot

/-- What the counts and the straps leave of the cold state. -/
theorem keeps_coldStart (s : State) : Keeps 65 (coldState s) (coldStart s) := by
  have hstraps : Keeps 65 (coldState s) (if (coldState s).rc.extended then wr pgLockkeeper Reg.PW_CAP_EXTENDED 1
      (wr pgLockkeeper Reg.PW_CAP_LIMIT 4100 (wr pgLockkeeper Reg.PW_CAP_WATTS 4100 (coldState s))) else coldState s) :=
    .ite (keeps_wr part (keeps_wr part (keeps_wr part (.refl _)))) (.refl _)
  exact keeps_lifeAdd part (keeps_lifeAdd part (.ite (keeps_journal part hstraps) hstraps))

theorem powered_coldPowerUp (failed : List Nat) (s : State) : (coldPowerUp failed s).powered = true := by
  rw [coldPowerUp_eq, (keeps_coldBoot failed _).powered.resolve_left (by decide),
    (keeps_coldStart s).powered.resolve_left (by decide)]
  rfl

/-- Settles O3: every command but COLD_POWER_UP is guarded by the supply, and a boot only adds to what was sent. -/
theorem unpoweredModuleIsInert : Obligations.unpowered_module_is_inert := by
  intro s
  refine ⟨exec_unpowered, fun hp => ⟨exec_on hp rfl, exec_on hp rfl⟩, fun failed => ?_⟩
  have hkeeps : Keeps allParts s (coldPowerUp failed s) := keeps_coldPowerUp .rfl (.refl s)
  exact ⟨_, rfl, powered_coldPowerUp failed s, hkeeps.pending, hkeeps.sent⟩

/-! ### Fields that an event leaves (R877, R878, R891) -/

section
variable {s : State} {page page' b : Nat} {f : Field}

theorem offRing_of_page {i : Nat} (hf : f.bit + i * (f.stride * 8) < 32768) (h : page' ≠ pgHost) : OffRing (f.key page' i) := by
  unfold pgHost at h
  simp only [OffRing, Field.key, Reg.HI_EQ_TAIL, Reg.HI_EQ_DROPS, Reg.HI_STATUS_EQ_OVERFLOW, pgHost]
  omega

theorem offEvent_of_page (hf : f.bit < 32768) (h : page' ≠ pgHost) (hstatus : f.bit ≠ Reg.PAGE_INT_STATUS.bit) :
    OffEvent page (f.key page' 0) := by
  refine ⟨?_, offRing_of_page (by omega) h⟩
  have : Reg.PAGE_INT_STATUS.bit < 32768 := by decide
  simp only [Field.key]
  omega

/-- A field of a page other than the host's that is not `PAGE_INT_STATUS` stands through an event. -/
theorem rd_raiseBit (h : page' ≠ pgHost) (hf : f.bit < 32768) (hstatus : f.bit ≠ Reg.PAGE_INT_STATUS.bit) :
    rd (raiseBit page b s) page' f = rd s page' f :=
  raiseBit_rd page b s (offEvent_of_page hf h hstatus)

/-- Such a field behind the error log stands through a record of it. -/
theorem rd_logErr {code tag : Nat} (h : page' ≠ pgHost) (hf : f.bit < 32768)
    (hlog : Reg.PAGE_ERR_LOG.bit + 256 ≤ f.bit) : rd (logErr page code tag s) page' f = rd s page' f := by
  simp only [Reg.PAGE_ERR_LOG] at hlog
  have hne : ∀ k, k < 4 → f.key page' 0 ≠ Reg.PAGE_ERR_LOG.key page k := fun k hk => by
    simp only [Field.key, Reg.PAGE_ERR_LOG]
    omega
  refine logErr_rdAt page code tag s (offEvent_of_page hf h ?_) ?_ hne
  · simp only [Reg.PAGE_INT_STATUS]
    omega
  · simp only [Field.key, Reg.PAGE_ERR_COUNT]
    omega

/-- The common fields of a page stand before those of the host interface. -/
theorem offRing_common {i : Nat} (hf : f.bit + i * (f.stride * 8) < 2048) : OffRing (f.key page i) := by
  simp only [OffRing, Field.key, Reg.HI_EQ_TAIL, Reg.HI_EQ_DROPS, Reg.HI_STATUS_EQ_OVERFLOW, pgHost]
  omega

/-! ### Bits of the event status -/

/-- A bit that is clear is set by its power of two: nothing carries. -/
theorem testBit_add_two_pow {v : Nat} (h : v.testBit b = false) (j : Nat) :
    (v + 2 ^ b).testBit j = (v.testBit j || j == b) := by
  induction b generalizing v j with
  | zero =>
    have heven : v % 2 = 0 := by simpa using h
    cases j with
    | zero => simp [Nat.testBit_zero, Nat.add_mod, heven]
    | succ j =>
      have hhalf : (v + 1) / 2 = v / 2 := by omega
      simp [Nat.testBit_succ, hhalf]
  | succ b ih =>
    have hhalf : (v + 2 ^ (b + 1)) / 2 = v / 2 + 2 ^ b := by omega
    cases j with
    | zero => simp [Nat.testBit_zero, Nat.pow_succ, Nat.add_mod]
    | succ j => simp [Nat.testBit_succ, hhalf, ih (v := v / 2) (by rwa [← Nat.testBit_succ])]

theorem bitOf_add_two_pow {v : Nat} (h : bitOf v b = false) (j : Nat) : bitOf (v + 2 ^ b) j = (bitOf v j || j == b) := by
  simp only [bitOf_eq_testBit] at h ⊢
  exact testBit_add_two_pow h j

/-- A risen bit as it is written; the rest of the event moves no status. -/
theorem status_raiseBit (h : bitOf (rd s page Reg.PAGE_INT_STATUS) b = false) :
    rd (raiseBit page b s) page Reg.PAGE_INT_STATUS = (rd s page Reg.PAGE_INT_STATUS + 2 ^ b) % 2 ^ 32 := by
  unfold raiseBit
  dsimp only
  rw [if_neg (by simp [h])]
  split
  · exact (deliverEvent_rdAt page _ (offRing_common (by decide))).trans (rd_wr_self ..)
  · exact rd_wr_self ..

theorem raiseBit_of_set (h : bitOf (rd s page Reg.PAGE_INT_STATUS) b = true) : raiseBit page b s = s := if_pos h

theorem raiseBit_of_clear (h : bitOf (rd s page Reg.PAGE_INT_STATUS) b = false) : raiseBit page b s =
    if bitOf (rd s page Reg.PAGE_INT_ENABLE) b then
      deliverEvent page (wr page Reg.PAGE_INT_STATUS (rd s page Reg.PAGE_INT_STATUS + 2 ^ b) s)
    else wr page Reg.PAGE_INT_STATUS (rd s page Reg.PAGE_INT_STATUS + 2 ^ b) s := by
  unfold raiseBit
  dsimp only
  rw [if_neg (by simp [h]), rd_wr_field _ _ _ (by decide)]

/-- The bit stands after it is raised, whatever stood above the field. -/
theorem bitOf_status_raiseBit (hb : b < 32) (s : State) (page : Nat) :
    bitOf (rd (raiseBit page b s) page Reg.PAGE_INT_STATUS) b = true := by
  rcases Bool.eq_false_or_eq_true (bitOf (rd s page Reg.PAGE_INT_STATUS) b) with h | h
  · rw [raiseBit_of_set h, h]
  · rw [status_raiseBit h, bitOf_eq_testBit, Nat.testBit_mod_two_pow, ← bitOf_eq_testBit, bitOf_add_two_pow h]
    simp [hb]

theorem bitOf_raiseBit {j : Nat} (hj : j < 32) (s : State) (page b : Nat) :
    bitOf (rd (raiseBit page b s) page Reg.PAGE_INT_STATUS) j = (bitOf (rd s page Reg.PAGE_INT_STATUS) j || j == b) := by
  rcases Bool.eq_false_or_eq_true (bitOf (rd s page Reg.PAGE_INT_STATUS) b) with h | h
  · rw [raiseBit_of_set h]
    rcases eq_or_ne j b with rfl | hne
    · simp [h]
    · simp [hne]
  · rw [status_raiseBit h, bitOf_eq_testBit, Nat.testBit_mod_two_pow, ← bitOf_eq_testBit, bitOf_add_two_pow h]
    simp [hj]

/-! ### The error log (R891) -/

theorem rd_bump_self (s : State) (page : Nat) (f : Field) (n : Nat) :
    rd (bump page f n s) page f = min (rd s page f + n) (2 ^ f.w - 1) := rdAt_addAt ..

/-- The count of a page's errors goes up by one with every record. -/
theorem errCount_logErr (page code tag : Nat) (s : State) :
    rd (logErr page code tag s) page Reg.PAGE_ERR_COUNT = min (rd s page Reg.PAGE_ERR_COUNT + 1) (2 ^ 32 - 1) := by
  unfold logErr
  extract_lets u n v
  have hoff : OffEvent page (Reg.PAGE_ERR_COUNT.key page 0) := by
    refine ⟨?_, offRing_common (by decide)⟩
    simp only [Field.key, Reg.PAGE_ERR_COUNT, Reg.PAGE_INT_STATUS]
    omega
  rw [raiseBit_rd page 0 v hoff]
  refine (rdAt_wrAt_other (f := Reg.PAGE_ERR_LOG) _ _ ?_).trans (rd_bump_self ..)
  simp only [Field.key, Reg.PAGE_ERR_COUNT, Reg.PAGE_ERR_LOG]
  omega

/-- The entry that the count names holds the code, the tag and the count. -/
theorem errLog_logErr {code : Nat} (hcode : code < 2 ^ 16) (page tag : Nat) (s : State) :
    rdAt (logErr page code tag s) page Reg.PAGE_ERR_LOG (rd (logErr page code tag s) page Reg.PAGE_ERR_COUNT % 4) =
      code + tag % 2 ^ 16 * 2 ^ 16 + rd (logErr page code tag s) page Reg.PAGE_ERR_COUNT * 2 ^ 32 := by
  rw [errCount_logErr]
  unfold logErr
  extract_lets u n v
  have hn : n = min (rd s page Reg.PAGE_ERR_COUNT + 1) (2 ^ 32 - 1) := rd_bump_self ..
  have hk : n % 4 < 4 := Nat.mod_lt _ (by omega)
  have hoff : OffEvent page (Reg.PAGE_ERR_LOG.key page (n % 4)) := by
    refine ⟨?_, offRing_common ?_⟩
    · simp only [Field.key, Reg.PAGE_ERR_LOG, Reg.PAGE_INT_STATUS]
      omega
    · simp only [Reg.PAGE_ERR_LOG]
      omega
  rw [← hn, raiseBit_rdAt page 0 v hoff]
  refine (rdAt_wrAt_self ..).trans (Nat.mod_eq_of_lt ?_)
  simp only [Reg.PAGE_ERR_LOG]
  omega

end

/-- Settles O8: the count names the entry, and a bit that rises is written, then delivered where it is enabled. -/
theorem errorsAndEvents : Obligations.errors_and_events := by
  intro s page _
  refine ⟨fun code tag hcode => ⟨errCount_logErr .., errLog_logErr hcode .., bitOf_status_raiseBit (by decide) ..⟩,
    fun b _ _ j hj => bitOf_raiseBit hj .., fun b h => raiseBit_of_set h, fun b h he => ?_, fun b h he => ?_,
    fun v h => ?_, fun v h => ?_⟩
  · rw [raiseBit_of_clear h, he]
    rfl
  · rw [raiseBit_of_clear h, he]
    rfl
  · rw [signalVector, h]
    rfl
  · rw [signalVector, h]
    exact ⟨congrArg Msix.pend (look_put_self ..), rfl⟩

end Sys2Proof.Machine
end

section
/-! PROOFS. The marker wave and the life log (R803, R812, R816 to R820). -/

namespace Sys2Proof.Machine

section
variable {s : State}

theorem isSet_eq_false {page : Nat} {f : Field} (h : rd s page f = 0) : isSet s page f = false := by
  simp [isSet, h]

/-! ### The wave -/

theorem rd_markerGo (hw : writable s pgMonitor = true) (h : rd s pgMonitor Reg.MON_MARKER_GO = 0) :
    rd (markerGo s) pgMonitor Reg.MON_MARKER_NUMBER = (rd s pgMonitor Reg.MON_MARKER_NUMBER + 1) % 2 ^ 32 ∧
      rd (markerGo s) pgMonitor Reg.MON_MARKER_GO = 1 ∧ rd (markerGo s) pgMonitor Reg.MON_AUDIT_DONE = 0 ∧
      (markerGo s).marker = {} := by
  unfold markerGo
  rw [if_neg (by simp [hw, isSet_eq_false h])]
  dsimp only
  refine ⟨?_, ?_, ?_, rfl⟩
  · rw [rd_bump_field _ _ _ (by decide), rd_wr_field _ _ _ (by decide), rd_wr_field _ _ _ (by decide)]
    exact rd_wr_self ..
  · rw [rd_bump_field _ _ _ (by decide)]
    exact rd_wr_self ..
  · rw [rd_bump_field _ _ _ (by decide), rd_wr_field _ _ _ (by decide)]
    exact rd_wr_self ..

/-! ### Seconds and the summary -/

theorem seconds_accrue (off bytes : Nat) (s : State) :
    (accrue off bytes s).life.seconds = s.life.seconds ∧ (accrue off bytes s).life.thisSecond = s.life.thisSecond := by
  unfold accrue
  have hretain : ∀ n, (retain off n s).life = s.life := fun n =>
    (keeps_retain .rfl (.refl s)).life.resolve_left (by decide)
  extract_lets n
  split
  · rw [hretain]
    exact ⟨rfl, rfl⟩
  · rw [lifeAddTo, hretain]
    exact ⟨rfl, rfl⟩

theorem seconds_lifeSample (s : State) :
    (lifeSample s).life.seconds = s.life.seconds + 1 ∧ (lifeSample s).life.thisSecond = 0 := by
  unfold lifeSample
  extract_lets u v
  obtain ⟨hsec, hthis⟩ := seconds_accrue 0x18 8 (modLife (fun l => { l with seconds := l.seconds + 1, thisSecond := 0 }) v)
  refine ⟨hsec.trans (congrArg (· + 1) ?_), hthis⟩
  exact (seconds_accrue ..).1.trans (seconds_accrue ..).1

/-- The summary goes to the older copy under the next number, so that it is the newest then. -/
theorem newestCopy_writeSummary (s : State) : newestCopy (writeSummary s).life =
    some { valid := true, seq := (newestCopy s.life).elim 0 LifeCopy.seq + 1, fields := summaryFields s } := by
  unfold writeSummary modLife
  generalize summaryFields s = fields
  generalize s.life = l
  rcases hA : l.copyA.valid <;> rcases hB : l.copyB.valid
  · simp [newestCopy, hA, hB]
  · simp [newestCopy, hA, hB]
  · simp [newestCopy, hA, hB]
  · rcases Nat.lt_or_ge l.copyB.seq l.copyA.seq with h | h
    · simp [newestCopy, hA, hB, h]
    · simp [newestCopy, hA, hB, Nat.not_lt.mpr h]

/-! ### The journal -/

theorem journalAppend_drop {e : JournalEvent} {rest : List JournalEvent} (h : s.life.waiting = e :: rest)
    (hfull : 64 ≤ s.life.thisSecond) :
    (journalAppend s).life.waiting = rest ∧ (journalAppend s).life.journal = s.life.journal := by
  unfold journalAppend
  rw [h]
  dsimp only [modLife]
  rw [if_pos hfull]
  exact ⟨rfl, rfl⟩

theorem journalAppend_entry {e : JournalEvent} {rest : List JournalEvent} (h : s.life.waiting = e :: rest)
    (hroom : s.life.thisSecond < 64) :
    (journalAppend s).life.waiting = rest ∧ (∃ js, (journalAppend s).life.journal =
      js ++ [{ seq := s.life.nextEntry, minute := look 0 s.life.live 0x18 % 2 ^ 32, ev := e }]) ∧
      (journalAppend s).life.nextEntry = s.life.nextEntry + 1 := by
  unfold journalAppend
  rw [h]
  dsimp only [modLife]
  rw [if_neg (Nat.not_le.mpr hroom)]
  exact ⟨rfl, ⟨_, rfl⟩, rfl⟩

/-- A command of the Lockkeeper's log runs while the Lockkeeper is open. -/
theorem ifOpen_eq (hp : s.powered = true) (h : lockState s pgLockkeeper = 0) (t : State) :
    (if s.powered && decide (lockState s pgLockkeeper = 0) then t else s) = t := by
  simp [hp, h]

end

/-- Settles O58: the parts of a marker wave and of the life log, each by the lemma about its operation. -/
theorem markerWave : Obligations.marker_wave := by
  intro s hp
  refine ⟨fun hw h => ⟨_, exec_on hp rfl, rd_markerGo hw h⟩, fun page h => exec_on hp ?_, fun h => exec_on hp ?_,
    fun h => ⟨?_, ?_, fun e rest hw => ⟨fun hroom => ?_, fun hfull => ?_⟩⟩⟩
  · exact congrArg (whileOn s) (if_pos h)
  · exact congrArg (whileOn s) (if_pos h)
  · exact ⟨_, exec_on hp (congrArg (whileOn s) (ifOpen_eq hp h _)), seconds_lifeSample s⟩
  · exact ⟨_, _, exec_on hp (congrArg (whileOn s) (ifOpen_eq hp h _)), newestCopy_writeSummary s, rfl, rfl, rfl⟩
  · obtain ⟨hrest, ⟨js, hjs⟩, hnext⟩ := journalAppend_entry hw hroom
    exact ⟨_, js, exec_on hp (congrArg (whileOn s) (ifOpen_eq hp h _)), hrest, hjs, hnext⟩
  · exact ⟨_, exec_on hp (congrArg (whileOn s) (ifOpen_eq hp h _)), journalAppend_drop hw hfull⟩

end Sys2Proof.Machine
end

section
/-! PROOFS. Locks, resets, the boot from flash, and power (R759 to R793, R885, R906 to R923). -/

namespace Sys2Proof.Machine

section
variable {s : State}

/-! ### Locks (R759, R761, R770) -/

theorem lockDrained_free {kind inst : Nat} (hown : ownState s kind inst 1 = true) (h : domainHolds s kind inst = false) :
    lockDrained kind inst s = settleDomains (enterLocked kind inst s) := if_pos (by simp [hown, h])

theorem lockDrained_holding {kind inst : Nat} (h : domainHolds s kind inst = true) : lockDrained kind inst s = s :=
  if_neg (by simp [h])

end

/-- Settles O26: a request joins the queue, and a drained or expired domain enters LOCKED. -/
theorem locksAndRequests : Obligations.locks_and_requests := by
  intro s hp
  refine ⟨fun _ _ => exec_on hp rfl, fun _ _ _ _ => exec_on hp rfl, fun _ _ => exec_on hp rfl, fun kind inst hown =>
    ⟨fun h => ?_, fun h => ?_, fun u hu => ?_⟩⟩
  · exact exec_on hp (congrArg (whileOn s) (lockDrained_free hown h))
  · exact exec_on hp (congrArg (whileOn s) (lockDrained_holding h))
  · subst hu
    exact exec_on hp (congrArg (whileOn s) (if_pos hown))

section
variable {s t : State}

/-! ### The boot leaves the flash (R835) -/

/-- The flash of `t`, its images and its configuration, is that of `s`. -/
structure SameFlash (s t : State) : Prop where
  imageA : t.tr.imageA = s.tr.imageA
  imageB : t.tr.imageB = s.tr.imageB
  config : t.tr.config = s.tr.config

theorem SameFlash.of_tr (h : t.tr = s.tr) : SameFlash s t := ⟨by rw [h], by rw [h], by rw [h]⟩

theorem SameFlash.trans {u : State} (h : SameFlash s t) (k : SameFlash t u) : SameFlash s u :=
  ⟨k.imageA.trans h.imageA, k.imageB.trans h.imageB, k.config.trans h.config⟩

theorem sameFlash_wr (page : Nat) (f : Field) (v : Nat) (s : State) : SameFlash s (wr page f v s) := .of_tr (wr_tr ..)

theorem sameFlash_modTrust {f : Trust → Trust} (hA : (f s.tr).imageA = s.tr.imageA)
    (hB : (f s.tr).imageB = s.tr.imageB) (hconfig : (f s.tr).config = s.tr.config) : SameFlash s (modTrust f s) :=
  ⟨hA, hB, hconfig⟩

theorem sameFlash_enterRecovery (s : State) : SameFlash s (enterRecovery s) :=
  (sameFlash_wr ..).trans ((sameFlash_wr ..).trans (sameFlash_modTrust rfl rfl rfl))

theorem sameFlash_trustRefuse (c : Nat) (s : State) : SameFlash s (trustRefuse c s) :=
  .of_tr ((keeps_trustRefuse .rfl (.refl s)).tr.resolve_left (by decide))

theorem sameFlash_markFailed (slot : Nat) (s : State) : SameFlash s (markFailed slot s) := by
  unfold markFailed
  by_cases h : slot = 0
  · simp only [h, if_true]
    exact ⟨rfl, rfl, rfl⟩
  · simp only [h, if_false]
    exact ⟨rfl, rfl, rfl⟩

theorem sameFlash_runImage (slot : Nat) (first : Bool) (s : State) : SameFlash s (runImage slot first s) := by
  unfold runImage
  extract_lets u v w x y
  have hu : u.tr = s.tr := (keeps_setStarts .rfl (.refl s)).tr.resolve_left (by decide)
  have hy : y.tr = s.tr := by
    unfold y
    split
    · exact hu
    · exact ((keeps_raiseBit .rfl (.refl x)).tr.resolve_left (by decide)).trans hu
  exact (SameFlash.of_tr hy).trans ⟨rfl, rfl, rfl⟩

theorem sameFlash_considerImages (first : Bool) (ks : List Nat) (s : State) :
    SameFlash s (considerImages first ks s) := by
  induction ks generalizing first s with
  | nil => exact sameFlash_enterRecovery s
  | cons k ks ih =>
    unfold considerImages
    split
    · exact ih false s
    · split
      · exact (sameFlash_markFailed k s).trans (ih false _)
      · split
        · exact sameFlash_runImage k first s
        · exact (SameFlash.of_tr (bump_tr ..)).trans ((sameFlash_trustRefuse _ _).trans (ih false _))

theorem sameFlash_bootSelect (s : State) : SameFlash s (bootSelect s) := by
  unfold bootSelect
  extract_lets u
  have hu : SameFlash s u := sameFlash_modTrust rfl rfl rfl
  split
  · exact hu.trans (sameFlash_considerImages ..)
  · exact hu.trans ((sameFlash_trustRefuse _ _).trans (sameFlash_enterRecovery _))

theorem sameFlash_deriveKey (s : State) : SameFlash s (deriveKey s) := by
  unfold deriveKey
  split
  · exact ⟨rfl, rfl, rfl⟩
  · extract_lets d pub u
    have hu : SameFlash s u := (sameFlash_wr ..).trans (sameFlash_modTrust rfl rfl rfl)
    split
    · exact hu.trans (sameFlash_wr ..)
    · exact hu.trans (.of_tr ((keeps_raiseBit .rfl (keeps_wr part (.refl u))).tr.resolve_left (by decide)))

theorem sameFlash_coldPowerUp (failed : List Nat) (s : State) : SameFlash s (coldPowerUp failed s) := by
  have hstart : SameFlash s (coldStart s) :=
    SameFlash.trans (t := coldState s) ⟨rfl, rfl, rfl⟩ (.of_tr ((keeps_coldStart s).tr.resolve_left (by decide)))
  rw [coldPowerUp_eq]
  unfold coldBoot
  extract_lets x u v
  have hu : SameFlash s u := hstart.trans (.of_tr (modRc_tr ..))
  have hv : SameFlash s v := hu.trans ((sameFlash_deriveKey u).trans (sameFlash_bootSelect _))
  split
  · exact hv.trans (.of_tr ((keeps_endReset_cold rfl .rfl (.refl v)).tr.resolve_left (by decide)))
  · exact hv

/-! ### What cold power-up starts from (R776, R816) -/

theorem cells_coldPowerUp (failed : List Nat) (s : State) : (coldPowerUp failed s).mem.cells = [] := by
  rw [coldPowerUp_eq, (keeps_coldBoot failed _).mem.resolve_left (by decide),
    (keeps_coldStart s).mem.resolve_left (by decide)]
  rfl

/-- The power-ups of the newest summary, and this one. -/
theorem powerUps_coldPowerUp (failed : List Nat) (s : State) : look 0 (coldPowerUp failed s).life.live 0x20 =
    min (look 0 ((newestCopy s.life).elim [] LifeCopy.fields) 0x20 + 1) (256 ^ 4 - 1) := by
  rw [coldPowerUp_eq, (keeps_coldBoot failed _).life.resolve_left (by decide)]
  unfold coldStart
  extract_lets lost t u v
  have hu : u.life = t.life := by
    unfold u
    split <;> rfl
  have hv : v.life.live = (newestCopy s.life).elim [] LifeCopy.fields := by
    unfold v
    split
    · exact congrArg LifeLog.live hu
    · exact congrArg LifeLog.live hu
  refine (look_put_self ..).trans ?_
  rw [← hv]
  exact congrArg (fun n => min (n + 1) (256 ^ 4 - 1)) (look_put_other _ _ _ _ (by decide))

/-! ### The Lockkeeper's heartbeat and its watchdog (R781, R782, R885) -/

theorem regs_retain (a v : Nat) (s : State) : (retain a v s).regs = s.regs :=
  (keeps_retain .rfl (.refl s)).regs.resolve_left (by decide)

theorem rd_of_regs (h : t.regs = s.regs) (page : Nat) (f : Field) : rd t page f = rd s page f := by
  simp only [rd, rdAt, h]

theorem startsOf_setStarts {slot : Nat} (h : slot < 2) (n : Nat) (s : State) :
    startsOf (setStarts slot n s) slot = n % 2 ^ 8 := by
  unfold startsOf setStarts retained retain
  rw [if_pos (by simp only [retentionBytes]; omega), look_put_self]
  exact BitVec.toNat_ofNat ..

theorem rd_heartbeat {phase : Nat} (hopen : lockState s pgLockkeeper = 0)
    (hservice : rd s pgLockkeeper Reg.TR_BOOT_RECOVERY = 0) :
    rd (heartbeat phase s) pgLockkeeper Reg.RC_HEARTBEAT_COUNT = (rd s pgLockkeeper Reg.RC_HEARTBEAT_COUNT + 1) % 2 ^ 24 ∧
      rd (heartbeat phase s) pgLockkeeper Reg.RC_HEARTBEAT_PHASE = phase % 3 ∧
      (phase % 3 = 0 → rd s pgLockkeeper Reg.TR_BOOT_SLOT < 2 →
        startsOf (heartbeat phase s) (rd s pgLockkeeper Reg.TR_BOOT_SLOT) = 0) := by
  unfold heartbeat
  rw [if_neg (by simp [hopen]), isSet_eq_false hservice]
  extract_lets ph n u
  have hph : ph = phase % 3 := rfl
  have hbeat : ∀ v : State, v.regs = u.regs → rd v pgLockkeeper Reg.RC_HEARTBEAT_COUNT =
      (rd s pgLockkeeper Reg.RC_HEARTBEAT_COUNT + 1) % 2 ^ 24 ∧ rd v pgLockkeeper Reg.RC_HEARTBEAT_PHASE = phase % 3 := by
    intro v hv
    rw [rd_of_regs hv, rd_of_regs hv]
    constructor
    · exact (rd_wr_field _ _ _ (by decide)).trans (rd_wr_self ..)
    · refine (rd_wr_self ..).trans (Nat.mod_eq_of_lt ?_)
      simp only [Reg.RC_HEARTBEAT_PHASE, hph]
      omega
  have hslot : rd u pgLockkeeper Reg.TR_BOOT_SLOT = rd s pgLockkeeper Reg.TR_BOOT_SLOT :=
    (rd_wr_field _ _ _ (by decide)).trans (rd_wr_field _ _ _ (by decide))
  split
  next hzero =>
    obtain ⟨hcount, hphase⟩ := hbeat _ (regs_retain ..)
    refine ⟨hcount, hphase, fun _ hlt => ?_⟩
    rw [hslot, startsOf_setStarts hlt, Nat.zero_mod]
  next hzero =>
    obtain ⟨hcount, hphase⟩ := hbeat _ rfl
    exact ⟨hcount, hphase, fun h => absurd h hzero⟩

/-- A hang as it is counted and recorded; with AUTO a reset of the Lockkeeper follows. -/
def recordHang (s : State) : State :=
  raiseBit pgLockkeeper 4 (journal 0x0A 0 pgLockkeeper 0
    (bump pgLockkeeper Reg.RC_LK_HANGS 1 (wr pgLockkeeper Reg.RC_WDOG_HANG 1 s)))

theorem rd_recordHang {f : Field} (hf : f.bit < 32768) (hstatus : f.bit ≠ Reg.PAGE_INT_STATUS.bit) :
    rd (recordHang s) pgLockkeeper f =
      rd (bump pgLockkeeper Reg.RC_LK_HANGS 1 (wr pgLockkeeper Reg.RC_WDOG_HANG 1 s)) pgLockkeeper f :=
  rd_raiseBit (by decide) hf hstatus

theorem watchdog_hang (hphase : rd s pgLockkeeper Reg.RC_HEARTBEAT_PHASE ≠ 0) (hopen : lockState s pgLockkeeper = 0) :
    watchdog s = if isSet s pgLockkeeper Reg.RC_WDOG_AUTO then
      settleDomains (beginReset { kind := 8, inst := 0, cause := 8 } (recordHang s)) else recordHang s := by
  have hauto : isSet (recordHang s) pgLockkeeper Reg.RC_WDOG_AUTO = isSet s pgLockkeeper Reg.RC_WDOG_AUTO := by
    rw [isSet, rd_recordHang (by decide) (by decide), rd_bump_field _ _ _ (by decide), rd_wr_field _ _ _ (by decide), isSet]
  rw [← hauto]
  exact if_neg (by simp [hphase, hopen])

theorem resetComplete_due {kind inst : Nat} {failed : List Nat} {x : DomReset}
    (hx : s.rc.resets.find? (fun x => x.kind == kind && x.inst == inst) = some x) (hown : ownState s kind inst 3 = true)
    (hup : 2 < kind ∨ keeperUp s = true) : resetComplete kind inst failed s = settleDomains (endReset x failed s) := by
  unfold resetComplete
  rw [hx]
  exact if_pos (by simpa [hown] using hup)

end

/-- Settles O27: the ends of resets, the endpoint's resets, the cold start, and the watch over the Lockkeeper. -/
theorem resetKinds : Obligations.reset_kinds := by
  intro s
  refine ⟨fun kind inst failed x hp hx hown hup => exec_on hp (congrArg (whileOn s) (resetComplete_due hx hown hup)),
    fun hp => ⟨{ resetEndpoint s with host := { (resetEndpoint s).host with perst := true, settings := false } },
      exec_on hp rfl, rfl, rfl, rfl, rfl, rfl⟩,
    fun hp => exec_on hp rfl, fun failed => ?_, fun phase hp hopen hservice => ⟨_, exec_on hp rfl, rd_heartbeat hopen hservice⟩,
    fun hp hphase hopen => ⟨recordHang s, ?_, ?_, fun hauto => ?_, fun hauto => ?_⟩⟩
  · obtain ⟨hA, hB, hconfig⟩ := sameFlash_coldPowerUp failed s
    exact ⟨_, rfl, powered_coldPowerUp failed s, cells_coldPowerUp failed s, hA, hB, hconfig, powerUps_coldPowerUp failed s⟩
  · rw [rd_recordHang (by decide) (by decide), rd_bump_field _ _ _ (by decide)]
    exact rd_wr_self ..
  · rw [rd_recordHang (by decide) (by decide), rd_bump_self, rd_wr_field _ _ _ (by decide)]
    rfl
  · exact exec_on hp (congrArg (whileOn s) ((watchdog_hang hphase hopen).trans (if_neg (by simp [isSet, hauto]))))
  · exact exec_on hp (congrArg (whileOn s) ((watchdog_hang hphase hopen).trans (if_pos (by simp [isSet, hauto]))))

section
variable {s : State}

/-! ### Power states and clock gates (R787, R788, R791, R793) -/

theorem pstateTarget_taken {v : Nat} (hv : v = 0 ∨ v = 2 ∨ v = 3) (hne : v ≠ rd s pgLockkeeper Reg.RC_PSTATE_TARGET)
    (hbusy : 2 ≤ v → powerBusy s = false) (htrip : v = 0 → s.rc.tripped = false) :
    pstateTarget v s = settleDomains (wr pgLockkeeper Reg.RC_PSTATE_TARGET v s) := by
  unfold pstateTarget
  rw [if_neg (by omega), if_neg]
  rintro (⟨h, hb⟩ | ⟨h, ht⟩)
  · simp [hbusy h] at hb
  · simp [htrip h] at ht

theorem pstateTarget_refused {v : Nat} (hv : v = 0 ∨ v = 2 ∨ v = 3) (hne : v ≠ rd s pgLockkeeper Reg.RC_PSTATE_TARGET)
    (h : (2 ≤ v ∧ powerBusy s = true) ∨ (v = 0 ∧ s.rc.tripped = true)) :
    pstateTarget v s = logErr pgLockkeeper 0x0807 0 s := by
  unfold pstateTarget
  rw [if_neg (by omega), if_pos h]

theorem gated_showM1 (s : State) : (showM1 s).gated = s.gated :=
  (keeps_showM1 .rfl (.refl s)).gated.resolve_left (by decide)

theorem waking_showM1 (s : State) : (showM1 s).waking = s.waking :=
  (keeps_showM1 .rfl (.refl s)).waking.resolve_left (by decide)

/-- A waking cluster wakes, and the writes that waited for it go on. -/
theorem clusterWake_waking {k : Nat} (h : look false s.waking k = true) : ∃ t, clusterWake k s = releaseHeld t ∧
    look false t.gated k = false ∧ look false t.waking k = false := by
  refine ⟨_, if_pos h, ?_, ?_⟩
  · rw [gated_showM1, wr_gated]
    exact look_put_self false s.gated k false
  · rw [waking_showM1, wr_waking]
    exact look_put_self false s.waking k false

/-! ### The tile map (R788) -/

theorem clusterOfPage_pgCluster : ∀ k < 256, clusterOfPage (pgCluster k) = some k := by decide +kernel

theorem onAwake_pgCluster {k : Nat} (hk : k < 256) (h : look false s.gated k = false) (off v : Nat) (f : State → State) :
    onAwake (pgCluster k) off v f s = f s := by
  unfold onAwake
  rw [clusterOfPage_pgCluster k hk]
  simp [h]

section
variable {k a n : Nat}

theorem execClTileMapWrite_eq (hp : s.powered = true) (hk : k < 256) (hawake : look false s.gated k = false) :
    exec (.clTileMapWrite k a n) s = .next (tileMapWrite k a n s) := by
  refine exec_on hp (congrArg (whileOn s) ?_)
  rw [if_neg (by omega), onAwake_pgCluster hk hawake]

theorem tileMapWrite_refused (hk : k < 256) (hw : writable s (pgCluster k) = true) (ha : a < 2) (hn : n < 16)
    (hchange : a ≠ rd s (pgCluster k) Reg.CL_TILE_MAP_SUBST_ACTIVE ∨ n ≠ rd s (pgCluster k) Reg.CL_TILE_MAP_SUBST_LOGICAL)
    (hactive : a = 1) (h : lockState s (pgTile (17 * k + n)) ≠ 2 ∨ lockState s (pgTile (17 * k + 16)) ≠ 0) :
    tileMapWrite k a n s = logErr (pgCluster k) 0x0808 0 s := by
  unfold tileMapWrite
  rw [Nat.mod_eq_of_lt ha, Nat.mod_eq_of_lt hn]
  dsimp only
  rw [if_neg (by simp [hw, hk]), if_neg (by omega), if_pos ⟨hactive, h⟩]

theorem tileMapWrite_taken (hk : k < 256) (hw : writable s (pgCluster k) = true) (ha : a < 2) (hn : n < 16)
    (hchange : a ≠ rd s (pgCluster k) Reg.CL_TILE_MAP_SUBST_ACTIVE ∨ n ≠ rd s (pgCluster k) Reg.CL_TILE_MAP_SUBST_LOGICAL)
    (h : a = 1 → lockState s (pgTile (17 * k + n)) = 2 ∧ lockState s (pgTile (17 * k + 16)) = 0) :
    ∃ t, tileMapWrite k a n s = t ∧ rd t (pgCluster k) Reg.CL_TILE_MAP_SUBST_ACTIVE = a ∧
      rd t (pgCluster k) Reg.CL_TILE_MAP_SUBST_LOGICAL = n ∧
      rd t (pgCluster k) Reg.CL_TILE_MAP_PENDING = natOf (wantedRole t k != look 0 s.subst k) := by
  refine ⟨_, rfl, ?_⟩
  unfold tileMapWrite
  rw [Nat.mod_eq_of_lt ha, Nat.mod_eq_of_lt hn]
  dsimp only
  rw [if_neg (by simp [hw, hk]), if_neg (by omega), if_neg (by rintro ⟨h1, h2⟩; have := h h1; omega)]
  set u := wr (pgCluster k) Reg.CL_TILE_MAP_SUBST_ACTIVE a (wr (pgCluster k) Reg.CL_TILE_MAP_SUBST_LOGICAL n s) with hu
  have hrole : ∀ v, wantedRole (wr (pgCluster k) Reg.CL_TILE_MAP_PENDING v u) k = wantedRole u k := fun v => by
    have hf : ∀ f : Field, f.bit ≠ Reg.CL_TILE_MAP_PENDING.bit →
        rd (wr (pgCluster k) Reg.CL_TILE_MAP_PENDING v u) (pgCluster k) f = rd u (pgCluster k) f := fun f h =>
      rd_wr_field _ _ _ h
    have hactive : isSet (wr (pgCluster k) Reg.CL_TILE_MAP_PENDING v u) (pgCluster k) Reg.CL_TILE_MAP_SUBST_ACTIVE =
        isSet u (pgCluster k) Reg.CL_TILE_MAP_SUBST_ACTIVE := congrArg (· != 0) (hf _ (by decide))
    rw [wantedRole, hactive, hf _ (by decide), wantedRole]
  refine ⟨?_, ?_, ?_⟩
  · rw [rd_wr_field _ _ _ (by decide), hu, rd_wr_self]
    exact Nat.mod_eq_of_lt ha
  · rw [rd_wr_field _ _ _ (by decide), hu, rd_wr_field _ _ _ (by decide), rd_wr_self]
    exact Nat.mod_eq_of_lt hn
  · rw [hrole, rd_wr_self]
    have hs : u.subst = s.subst := rfl
    rw [hs]
    generalize (wantedRole u k != look 0 s.subst k) = b
    cases b <;> rfl

end

/-! ### The pending substitution (R788) -/

/-- A field of any page at another bit place. -/
theorem rd_wr_place (s : State) (page page' : Nat) {f g : Field} (v : Nat) (hf : f.bit < 32768) (hg : g.bit < 32768)
    (h : g.bit ≠ f.bit) : rd (wr page f v s) page' g = rd s page' g := by
  refine rdAt_wrAt_other s v ?_
  simp only [Field.key]
  omega

theorem pending_takeRole (t page : Nat) (s : State) :
    rd (takeRole t s) page Reg.CL_TILE_MAP_PENDING = rd s page Reg.CL_TILE_MAP_PENDING := by
  unfold takeRole setSched
  dsimp only
  rw [rd_wr_place _ _ _ _ (by decide) (by decide) (by decide), rd_wr_place _ _ _ _ (by decide) (by decide) (by decide)]
  rfl

theorem subst_takeRole (t : Nat) (s : State) : (takeRole t s).subst = s.subst :=
  (keeps_takeRole .rfl (.refl s)).subst.resolve_left (by decide)

theorem substitutionApply_boundary {k : Nat} (hk : k < 256) (hpend : isSet s (pgCluster k) Reg.CL_TILE_MAP_PENDING = true)
    (h : clusterBoundary s k = true) : look 0 (substitutionApply k s).subst k = wantedRole s k ∧
      rd (substitutionApply k s) (pgCluster k) Reg.CL_TILE_MAP_PENDING = 0 := by
  unfold substitutionApply
  extract_lets page old new t u v w
  rw [if_pos (by simp [page, hk, hpend, h])]
  have hu : u.subst = t.subst ∧ rd u (pgCluster k) Reg.CL_TILE_MAP_PENDING = rd t (pgCluster k) Reg.CL_TILE_MAP_PENDING := by
    unfold u
    split
    · exact ⟨subst_takeRole .., pending_takeRole ..⟩
    · split
      · exact ⟨subst_takeRole .., pending_takeRole ..⟩
      · exact ⟨rfl, rfl⟩
  have hw : w.subst = u.subst ∧ rd w (pgCluster k) Reg.CL_TILE_MAP_PENDING = rd u (pgCluster k) Reg.CL_TILE_MAP_PENDING := by
    unfold w
    split
    · exact ⟨rfl, rfl⟩
    · exact ⟨rfl, rfl⟩
  constructor
  · rw [(keeps_raiseBit .rfl (.refl _)).subst.resolve_left (by decide)]
    change look 0 w.subst k = _
    rw [hw.1, hu.1]
    exact look_put_self ..
  · have hpage : pgCluster k ≠ pgHost := by
      simp only [pgCluster, pgHost]
      omega
    rw [rd_raiseBit hpage (by decide) (by decide)]
    change rd w (pgCluster k) Reg.CL_TILE_MAP_PENDING = _
    rw [hw.2, hu.2]
    exact rd_wr_self ..

/-! ### Readings (R908, R914, R915) -/

theorem powerInterval_records {w v d c h u : Nat} (hv : v < 2 ^ 10) :
    rd (powerInterval w v d c h u s) pgLockkeeper Reg.PW_STATUS_VIN = v ∧
      (powerInterval w v d c h u s).rc.powers = ((w, d) :: s.rc.powers).take 10 ∧
      (throttleC s ≤ rd s pgLockkeeper Reg.PW_TEMP_DIE_C →
        rd (powerInterval w v d c h u s) pgLockkeeper Reg.RC_THROTTLE_THERMAL = 1) := by
  unfold powerInterval
  extract_lets heat want powers s1 energy s2 s3 s4 s5 s6 s7 s8
  refine ⟨?_, rfl, fun hhot => ?_⟩
  · rw [rd_wr_field _ _ _ (by decide), rd_wr_field _ _ _ (by decide), rd_wr_field _ _ _ (by decide),
      rd_wr_field _ _ _ (by decide), rd_wr_field _ _ _ (by decide), rd_wr_field _ _ _ (by decide), rd_wr_self]
    exact Nat.mod_eq_of_lt hv
  · have hheat : 0 < heat := by
      unfold heat
      rw [if_pos hhot]
      omega
    rw [rd_wr_field _ _ _ (by decide), rd_wr_self, decide_eq_true hheat]
    rfl

/-- The three temperatures as they are recorded. -/
def recordTemperatures (die inlet outlet : Nat) (s : State) : State :=
  wr pgLockkeeper Reg.PW_TEMP_INLET_C (min 255 inlet) (wr pgLockkeeper Reg.PW_TEMP_OUTLET_C (min 255 outlet)
    (wr pgLockkeeper Reg.PW_TEMP_DIE_C (min 255 die) s))

section
variable {die i o : Nat}

theorem thermalSample_hot (hdie : 110 ≤ die) (hp : pstate s ≠ 3) :
    thermalSample die i o s = thermalTrip (recordTemperatures die i o s) := by
  have hstate : pstate (recordTemperatures die i o s) = pstate s :=
    (rd_wr_field _ _ _ (by decide)).trans ((rd_wr_field _ _ _ (by decide)).trans (rd_wr_field _ _ _ (by decide)))
  exact (if_pos hdie).trans (if_neg (hstate ▸ hp))

theorem thermalSample_cool (hdie : die < 110) : thermalSample die i o s =
    if die < 85 then modRc (fun r => { r with tripped := false }) (recordTemperatures die i o s)
    else recordTemperatures die i o s := if_neg (by omega)

theorem rd_die_recordTemperatures :
    rd (recordTemperatures die i o s) pgLockkeeper Reg.PW_TEMP_DIE_C = min 255 die := by
  unfold recordTemperatures
  rw [rd_wr_field _ _ _ (by decide), rd_wr_field _ _ _ (by decide), rd_wr_self]
  exact Nat.mod_eq_of_lt (by simp only [Reg.PW_TEMP_DIE_C]; omega)

theorem rd_air_recordTemperatures (hi : i < 2 ^ 8) (ho : o < 2 ^ 8) :
    rd (recordTemperatures die i o s) pgLockkeeper Reg.PW_TEMP_INLET_C = i ∧
      rd (recordTemperatures die i o s) pgLockkeeper Reg.PW_TEMP_OUTLET_C = o := by
  unfold recordTemperatures
  constructor
  · rw [rd_wr_self]
    simp only [Reg.PW_TEMP_INLET_C]
    omega
  · rw [rd_wr_field _ _ _ (by decide), rd_wr_self]
    simp only [Reg.PW_TEMP_OUTLET_C]
    omega

theorem thermalSample_records (hdie : die < 110) (hi : i < 2 ^ 8) (ho : o < 2 ^ 8) :
    rd (thermalSample die i o s) pgLockkeeper Reg.PW_TEMP_DIE_C = die ∧
      rd (thermalSample die i o s) pgLockkeeper Reg.PW_TEMP_INLET_C = i ∧
      rd (thermalSample die i o s) pgLockkeeper Reg.PW_TEMP_OUTLET_C = o ∧
      (die < 85 → (thermalSample die i o s).rc.tripped = false) := by
  have hd : rd (recordTemperatures die i o s) pgLockkeeper Reg.PW_TEMP_DIE_C = die :=
    rd_die_recordTemperatures.trans (by omega)
  obtain ⟨hin, hout⟩ := rd_air_recordTemperatures (die := die) (s := s) hi ho
  rw [thermalSample_cool hdie]
  split
  · exact ⟨hd, hin, hout, fun _ => rfl⟩
  next hcool => exact ⟨hd, hin, hout, fun h => absurd h hcool⟩

end

end

/-- Settles O28: each command of power management by the lemma about its operation. -/
theorem powerManagement : Obligations.power_management := by
  intro s hp
  refine ⟨fun v hv hne => ⟨fun hbusy htrip => ?_, fun h => ?_⟩, fun k hk hstate hidle hcluster => ?_, fun k h => ?_,
    fun k a n hk hw hawake ha hn hchange => ⟨fun h => ?_, fun ha1 h => ?_⟩, fun k hk hpend h =>
      ⟨_, exec_on hp rfl, substitutionApply_boundary hk hpend h⟩,
    exec_on hp rfl, exec_on hp rfl, fun w hw => ?_, fun w v d c h u hopen hv => ?_, fun die i o hi ho =>
      ⟨fun hdie => ⟨_, exec_on hp rfl, thermalSample_records hdie hi ho⟩, fun hdie hstate => ?_⟩⟩
  · exact exec_on hp (congrArg (whileOn s) (pstateTarget_taken hv hne hbusy htrip))
  · exact exec_on hp (congrArg (whileOn s) (pstateTarget_refused hv hne h))
  · exact exec_on hp (congrArg (whileOn s) (if_pos (by simp [hk, hstate, hidle, hcluster])))
  · obtain ⟨t, ht, hgated, hwaking⟩ := clusterWake_waking h
    exact ⟨t, exec_on hp (congrArg (whileOn s) ht), hgated, hwaking⟩
  · obtain ⟨t, ht, hactive, hlogical, hpending⟩ := tileMapWrite_taken hk hw ha hn hchange h
    exact ⟨t, (execClTileMapWrite_eq hp hk hawake).trans (congrArg _ ht), hactive, hlogical, hpending⟩
  · exact (execClTileMapWrite_eq hp hk hawake).trans (congrArg _ (tileMapWrite_refused hk hw ha hn hchange ha1 h))
  · refine exec_on hp (congrArg (whileOn s) ?_)
    rw [Nat.mod_eq_of_lt hw, capWrite]
  · exact ⟨_, exec_on hp (congrArg (whileOn s) (if_neg hopen)), powerInterval_records hv⟩
  · exact ⟨_, exec_on hp (congrArg (whileOn s) (thermalSample_hot hdie hstate)), rd_die_recordTemperatures⟩

end Sys2Proof.Machine
end

section
/-! PROOFS. The keyring, SPDM, the debug port, and GO of the mailbox (R825 to R849, R882). -/

namespace Sys2Proof.Machine

section
variable {s : State}

/-! ### GO (R882) -/

theorem rc_logErr (page code tag : Nat) (s : State) : (logErr page code tag s).rc = s.rc :=
  (keeps_logErr .rfl (.refl s)).rc.resolve_left (by decide)

theorem mailboxGo_running (h : s.rc.mailbox ≠ []) :
    mailboxGo s = wr pgLockkeeper Reg.LK_MB_STATUS_CODE 0x0425 (logErr pgLockkeeper 0x0425 0 s) := if_pos h

theorem mailboxGo_refused (h : s.rc.mailbox = []) (hopen : lockState s pgLockkeeper = 0)
    (hop : mbAllowed s (mcOp (mbCommand s)) = false) :
    mailboxGo s = mbRefuse 0x0424 (logErr pgLockkeeper 0x0424 0 s) := by
  unfold mailboxGo
  rw [if_neg (not_not.mpr h), if_neg (not_not.mpr hopen), if_pos (by simp [hop])]

theorem mailboxGo_taken (h : s.rc.mailbox = []) (hopen : lockState s pgLockkeeper = 0)
    (hop : mbAllowed s (mcOp (mbCommand s)) = true) : mailboxGo s =
      modRc (fun r => { r with mailbox := mbCommand s, mbDone := none, mbHead := [] })
        (wr pgLockkeeper Reg.LK_MB_CTRL_GO 1 (wr pgLockkeeper Reg.LK_MB_STATUS_STATE 1 s)) := by
  unfold mailboxGo
  rw [if_neg (not_not.mpr h), if_neg (not_not.mpr hopen), if_neg (by simp [hop])]

theorem mbAllowed_eq_false {op : Nat} (h : op = 0 ∨ 9 < op ∨ (rd s pgLockkeeper Reg.TR_BOOT_RECOVERY = 1 ∧
    op ≠ 1 ∧ op ≠ 6 ∧ op ≠ 7 ∧ op ≠ 9)) : mbAllowed s op = false := by
  unfold mbAllowed isSet
  rcases h with h | h | ⟨h, h1, h6, h7, h9⟩
  · simp [h]
  · have h1 : op ≠ 1 := by omega
    have h6 : op ≠ 6 := by omega
    have h7 : op ≠ 7 := by omega
    have h9 : op ≠ 9 := by omega
    simp [h1, h6, h7, h9, Nat.not_le.mpr h]
  · simp [h, h1, h6, h7, h9]

theorem mbAllowed_service {op : Nat} (hservice : rd s pgLockkeeper Reg.TR_BOOT_RECOVERY = 0) (h1 : 1 ≤ op) (h9 : op ≤ 9) :
    mbAllowed s op = true := by
  simp [mbAllowed, isSet, hservice, h1, h9]

/-! ### The keyring (R825 to R828) -/

theorem keyBad_of_serving (h : keyLocked s = false) : keyBad s = false := by
  rw [keyLocked, Bool.or_eq_false_iff] at h
  exact h.1

theorem keySign_serving {d : Nat} (hkey : s.tr.key = some d) (h : keyLocked s = false) (digest : List Byte) :
    keySign digest s = (some (ecdsaSign d digest), bump pgLockkeeper Reg.TR_SIGNATURES 1 s) := by
  simp only [keySign, hkey, h, Bool.false_eq_true, if_false]

theorem keySign_refused (h : s.tr.key = none ∨ keyLocked s = true) (digest : List Byte) :
    keySign digest s = (none, trustRefuse 0x0710 s) := by
  unfold keySign
  cases hkey : s.tr.key with
  | none => rfl
  | some d =>
    have hlocked : keyLocked s = true := h.resolve_left (by simp [hkey])
    simp only [hlocked, if_true]

theorem keyRandom_serving (h : keyBad s = false) (n : Nat) :
    keyRandom n s = (some (drawBytes n s).1, (drawBytes n s).2) := by
  simp only [keyRandom, h, Bool.false_eq_true, if_false]

theorem keyRandom_refused (h : keyBad s = true) (n : Nat) : keyRandom n s = (none, trustRefuse 0x0710 s) := if_pos h

/-- The ephemeral secret key that the next draw gives. -/
def ephemeralOf (s : State) : Nat := 1 + beNat (drawBytes 32 s).1 % (eccN - 1)

theorem keyExchange_serving {peer : List Byte} {q : Nat × Nat} (h : keyLocked s = false) (hq : pointOf peer = some q) :
    keyExchange peer s = (some (pointBytes (scalarMul (ephemeralOf s) eccBase)),
      modTrust (fun t => { t with secret := xOf (scalarMul (ephemeralOf s) (some q)) }) (drawBytes 32 s).2) := by
  simp only [keyExchange, h, hq, Bool.false_eq_true, if_false]
  rfl

theorem keyExchange_refused (h : keyLocked s = true) (peer : List Byte) :
    keyExchange peer s = (none, trustRefuse 0x0710 s) := if_pos h

/-! ### The debug port (R846, R847) -/

theorem debugChallenge_issued (hkey : (cfgDebugKey s.tr.active).all (· == 0) = false) (hvalid : configValid s.tr.active = true)
    (hfails : s.tr.debugFails < 3) (h : keyBad s = false) : debugChallenge s =
      modTrust (fun t => { t with challenge := some (drawBytes 32 s).1 })
        { (drawBytes 32 s).2 with outs := (drawBytes 32 s).2.outs ++ [.debugPort (drawBytes 32 s).1] } := by
  have hissue : ¬ ((cfgDebugKey s.tr.active).all (· == 0) = true ∨ (!configValid s.tr.active) = true ∨ 3 ≤ s.tr.debugFails) := by
    rw [hkey, hvalid]
    simpa using hfails
  unfold debugChallenge
  rw [if_neg hissue, keyRandom_serving h]

theorem debugChallenge_none (h : (cfgDebugKey s.tr.active).all (· == 0) = true ∨ configValid s.tr.active = false ∨
    3 ≤ s.tr.debugFails) : debugChallenge s = s := if_pos (by simpa using h)

theorem debugAuth_right {c key sig : List Byte} (hc : s.tr.challenge = some c)
    (hset : (cfgDebugKey s.tr.active).all (· == 0) = false) (hkey : sha256 key = cfgDebugKey s.tr.active)
    (hsig : ecdsaVerify key (sha256 (c ++ cfgSerial s.tr.active)) sig = true) :
    debugAuth key sig s = debugOpen (modTrust (fun t => { t with challenge := none }) s) := by
  unfold debugAuth
  extract_lets ok t
  have hok : ok = true := by
    simp only [ok, hc, hset, hkey, hsig, beq_self_eq_true, Bool.not_false, Bool.and_true]
  rw [hok]
  exact if_pos rfl

theorem debugAuth_wrong {key sig : List Byte} (h : s.tr.challenge = none ∨ (cfgDebugKey s.tr.active).all (· == 0) = true ∨
    sha256 key ≠ cfgDebugKey s.tr.active) : debugAuth key sig s =
      trustRefuse 0x0704 (bump pgLockkeeper Reg.TR_DEBUG_FAILS 1 (modTrust (fun t => { t with debugFails := t.debugFails + 1 })
        (modTrust (fun t => { t with challenge := none }) s))) := by
  unfold debugAuth
  extract_lets ok t
  have hok : ok = false := by
    unfold ok
    split
    next c hc =>
      rcases h with h | h | h
      · exact absurd hc (by rw [h]; exact nofun)
      · rw [h]
        rfl
      · rw [beq_false_of_ne h, Bool.and_false]
        rfl
    · rfl
  rw [hok]
  exact if_neg Bool.false_ne_true

/-! ### The SPDM responder (R838 to R841) -/

theorem spdmAt_reached {k : Nat} (hp : s.powered = true) (h : k ≤ s.tr.stage) (f : State → State) : spdmAt k f s = f s := by
  unfold spdmAt
  rw [if_neg (by simp [hp]), if_neg (Nat.not_lt.mpr h)]

theorem spdmAt_early {k : Nat} (hp : s.powered = true) (h : s.tr.stage < k) (f : State → State) :
    spdmAt k f s = spdmError 0x04 s := by
  unfold spdmAt
  rw [if_neg (by simp [hp]), if_pos h]

theorem inSession_found {id : Nat} {established : Bool} {x : Session} (hp : s.powered = true)
    (h : s.tr.sessions.find? (fun x => x.id == id && x.established == established) = some x) (f : Session → State → State) :
    inSession id established f s = f x s := by
  unfold inSession
  rw [if_neg (by simp [hp]), h]

theorem inSession_unknown {id : Nat} {established : Bool} (hp : s.powered = true)
    (h : s.tr.sessions.find? (fun x => x.id == id && x.established == established) = none) (f : Session → State → State) :
    inSession id established f s = spdmError 0x02 s := by
  unfold inSession
  rw [if_neg (by simp [hp]), h]

/-- A nonce and a signature of a serving key. -/
theorem spdmNonce_serving {d : Nat} (hkey : s.tr.key = some d) (h : keyLocked s = false) (kind : Nat) (data digest : List Byte) :
    spdmNonce kind data digest s = spdmSend kind (data ++ (drawBytes 32 s).1 ++ ecdsaSign d digest)
      (bump pgLockkeeper Reg.TR_SIGNATURES 1 (drawBytes 32 s).2) := by
  have hsign : keySign digest (drawBytes 32 s).2 =
      (some (ecdsaSign d digest), bump pgLockkeeper Reg.TR_SIGNATURES 1 (drawBytes 32 s).2) :=
    keySign_serving (s := (drawBytes 32 s).2) hkey h digest
  rw [spdmNonce, keyRandom_serving (keyBad_of_serving h)]
  dsimp only
  rw [spdmSigned, hsign]

theorem getMeasurements_data {k : Nat} {data : List Byte} (hk : (k = 0 ∧ data = leBytes 1 s.tr.measures.length) ∨
    (1 ≤ k ∧ k ≤ 8 ∧ data = measureBlock s k) ∨
    (k = 0xFF ∧ data = (List.range 8).flatMap fun k => measureBlock s (k + 1))) (sign : Bool) (digest : List Byte) :
    getMeasurements k sign digest s = if sign then spdmNonce 0x60 data digest s else spdmSend 0x60 data s := by
  unfold getMeasurements
  rcases hk with ⟨rfl, rfl⟩ | ⟨h1, h8, rfl⟩ | ⟨rfl, rfl⟩
  · rfl
  · have h0 : k ≠ 0 := by omega
    have hall : k ≠ 0xFF := by omega
    rw [if_neg (by omega)]
    dsimp only
    rw [if_neg h0, if_neg hall]
  · rfl

theorem spdmKeyExchange_opens {peer digest : List Byte} {q : Nat × Nat} {d : Nat} (hq : pointOf peer = some q)
    (hroom : s.tr.sessions.length < 4) (hkey : s.tr.key = some d) (h : keyLocked s = false) :
    (spdmKeyExchange 0 peer digest s).tr.sessions = s.tr.sessions ++
        [{ id := s.tr.nextSession, secret := xOf (scalarMul (ephemeralOf s) (some q)) }] ∧
      (spdmKeyExchange 0 peer digest s).tr.nextSession = s.tr.nextSession + 1 ∧
      (spdmKeyExchange 0 peer digest s).tr.secret = 0 := by
  have hsign := keySign_serving (s := modTrust (fun t => { t with secret := xOf (scalarMul (ephemeralOf s) (some q)) })
    (drawBytes 32 s).2) hkey h digest
  unfold spdmKeyExchange
  rw [if_neg (by simp [hq]), if_neg (Nat.not_le.mpr hroom), keyExchange_serving h hq]
  dsimp only
  rw [hsign]
  exact ⟨rfl, rfl, rfl⟩

theorem spdmKeyExchange_full {peer digest : List Byte} {q : Nat × Nat} (hq : pointOf peer = some q)
    (h : 4 ≤ s.tr.sessions.length) : spdmKeyExchange 0 peer digest s = spdmError 0x0A s := by
  unfold spdmKeyExchange
  rw [if_neg (by simp [hq]), if_pos h]

end

/-- Settles O22: GO leaves a running command, refuses what it must, and starts any other command. -/
theorem mailboxGo_outcome : Obligations.mailbox_go := by
  intro s
  refine ⟨fun h => ?_, fun h hopen hop => ?_, fun h hopen hservice h1 h9 => ?_⟩
  · rw [mailboxGo_running h]
    refine ⟨(wr_rc ..).trans (rc_logErr ..), rd_wr_self .., ?_, ?_⟩
    · exact (rd_wr_field _ _ _ (by decide)).trans (rd_logErr (by decide) (by decide) (by decide))
    · exact (rd_wr_field _ _ _ (by decide)).trans (errCount_logErr ..)
  · rw [mailboxGo_refused h hopen (mbAllowed_eq_false hop), mbRefuse]
    refine ⟨(wr_rc ..).trans ((wr_rc ..).trans (rc_logErr ..)), ?_, ?_, ?_⟩
    · exact rd_wr_self ..
    · exact (rd_wr_field _ _ _ (by decide)).trans (rd_wr_self ..)
    · exact (rd_wr_field _ _ _ (by decide)).trans ((rd_wr_field _ _ _ (by decide)).trans (errCount_logErr ..))
  · rw [mailboxGo_taken h hopen (mbAllowed_service hservice h1 h9)]
    refine ⟨rfl, ?_, ?_⟩
    · rw [modRc_rd, rd_wr_field _ _ _ (by decide)]
      exact rd_wr_self ..
    · rw [modRc_rd]
      exact rd_wr_self ..

/-- Settles O23: each request of the keyring and of the debug port by the lemma about its operation. -/
theorem keyringAndDebug : Obligations.keyring_and_debug := by
  intro s refused hp hrefused
  have hrefuse : ∀ r : Option (List Byte) × State, r = (none, trustRefuse 0x0710 s) → keyAnswer r = refused := by
    rintro _ rfl
    exact hrefused.symm
  have hon : ∀ {c : Instr} {t : State}, exec c s = whileOn s (if s.powered then t else s) → exec c s = .next t :=
    fun {c t} e => exec_on hp (e.trans (congrArg (whileOn s) (if_pos hp)))
  have hpublic : ∀ {r}, (if keyBad s then (none, trustRefuse 0x0710 s)
      else (some (leBytes 64 (rd s pgLockkeeper Reg.TR_PUBKEY)), s)) = r → exec .keyringPublicKey s = .next (keyAnswer r) := by
    rintro _ rfl
    exact exec_on hp (congrArg (whileOn s) (if_neg (by simp [hp])))
  refine ⟨fun digest hlen => ?_, fun h => hpublic (if_neg (by simp [h])), fun n h => ?_, fun n h => ⟨?_, ?_⟩, fun peer => ⟨?_, ?_⟩,
    fun hset hvalid hfails h => ?_, fun h => ?_, fun c key sig hc hset hkey hsig => ?_, fun key sig h => ?_, hon rfl⟩
  · have hsign : exec (.keyringSign digest) s = .next (keyAnswer (keySign digest s)) :=
      exec_on hp (congrArg (whileOn s) (if_pos (by simp [hp, hlen])))
    refine ⟨fun d hkey h => ?_, fun h => ?_⟩
    · rw [hsign, keySign_serving hkey h]
      rfl
    · rw [hsign, hrefuse _ (keySign_refused h digest)]
  · rw [hon (t := keyAnswer (keyRandom n s)) rfl, keyRandom_serving h]
    rfl
  · rw [hpublic (if_pos h), hrefuse _ rfl]
  · rw [hon (t := keyAnswer (keyRandom n s)) rfl, hrefuse _ (keyRandom_refused h n)]
  · intro q h hq
    refine ⟨_, ephemeralOf s, hon (t := keyAnswer (keyExchange peer s)) rfl, ?_⟩
    rw [keyExchange_serving h hq]
    exact ⟨rfl, rfl, rfl⟩
  · intro h
    rw [hon (t := keyAnswer (keyExchange peer s)) rfl, hrefuse _ (keyExchange_refused h peer)]
  · rw [hon (t := debugChallenge s) rfl, debugChallenge_issued hset hvalid hfails h]
    rfl
  · rw [hon (t := debugChallenge s) rfl, debugChallenge_none h]
  · rw [hon (t := debugAuth key sig s) rfl, debugAuth_right hc hset hkey hsig]
  · refine ⟨_, (hon (t := debugAuth key sig s) rfl).trans (congrArg _ (debugAuth_wrong h)), ?_, ?_⟩
    · rw [bump_tr]
      rfl
    · rw [bump_tr]
      rfl

/-- Settles O24: the negotiation in its order, and its errors. -/
theorem spdmNegotiation : Obligations.spdm_negotiation := by
  intro s hp
  have hat : ∀ {c : Instr} {k : Nat} {f : State → State}, exec c s = whileOn s (spdmAt k f s) → k ≤ s.tr.stage →
      exec c s = .next (f s) := fun {c k f} e hk =>
    exec_on hp (e.trans (congrArg (whileOn s) (spdmAt_reached hp hk f)))
  have hearly : ∀ {c : Instr} {f : State → State}, exec c s = whileOn s (spdmAt 3 f s) → s.tr.stage < 3 →
      exec c s = .next (spdmError 0x04 s) := fun {c f} e hk =>
    exec_on hp (e.trans (congrArg (whileOn s) (spdmAt_early hp hk f)))
  refine ⟨hat (f := getVersion) rfl (Nat.zero_le _), fun h => hat (f := getCapabilities) rfl h, fun h => ⟨?_, ?_⟩,
    fun h => ⟨?_, fun off len hoff => ?_, fun slot off len hoff => ?_, fun digest d hkey hserve => ?_,
      fun digest slot hslot => ?_, fun k digest data hk => ⟨?_, fun d hkey hserve => ?_⟩, fun k sign digest h8 hall => ?_⟩,
    fun h slot off len k sign digest => ⟨?_, ?_, ?_, ?_⟩⟩
  · exact hat (f := negotiateAlgorithms true) rfl h
  · exact hat (f := negotiateAlgorithms false) rfl h
  · exact hat (f := fun s => spdmSend 0x01 (sha256 (certChain s)) s) rfl h
  · refine (hat rfl h).trans ?_
    exact congrArg Host.Outcome.next (if_pos ⟨rfl, hoff⟩)
  · refine (hat rfl h).trans ?_
    exact congrArg Host.Outcome.next (if_neg (by omega))
  · refine (hat rfl h).trans ?_
    exact congrArg Host.Outcome.next ((if_pos rfl).trans (spdmNonce_serving hkey hserve ..))
  · refine (hat rfl h).trans ?_
    exact congrArg Host.Outcome.next (if_neg hslot)
  · refine (hat rfl h).trans ?_
    exact congrArg Host.Outcome.next (getMeasurements_data hk false digest)
  · refine (hat rfl h).trans ?_
    exact congrArg Host.Outcome.next ((getMeasurements_data hk true digest).trans (spdmNonce_serving hkey hserve ..))
  · refine (hat rfl h).trans ?_
    exact congrArg Host.Outcome.next (if_pos ⟨h8, hall⟩)
  · exact hearly rfl h
  · exact hearly rfl h
  · exact hearly rfl h
  · exact hearly rfl h

/-- Settles O25: a session opens, is established, serves and ends. -/
theorem spdmSessions : Obligations.spdm_sessions := by
  intro s hp
  have hkex : ∀ peer digest, 3 ≤ s.tr.stage → exec (.keyExchange 0 peer digest) s = .next (spdmKeyExchange 0 peer digest s) :=
    fun peer digest h => exec_on hp (congrArg (whileOn s) (spdmAt_reached hp h _))
  refine ⟨fun peer digest q h3 hq => ⟨fun d hroom hkey h => ?_, fun h => ?_⟩, fun id x hx => ⟨?_, ?_⟩,
    fun id x hx => ⟨?_, ?_, ?_⟩, fun id hx => ⟨?_, ?_, ?_⟩⟩
  · exact ⟨_, ephemeralOf s, hkex peer digest h3, spdmKeyExchange_opens hq hroom hkey h⟩
  · rw [hkex peer digest h3, spdmKeyExchange_full hq h]
  · exact exec_on hp (congrArg (whileOn s) (inSession_found hp hx (spdmFinish true)))
  · exact exec_on hp (congrArg (whileOn s) (inSession_found hp hx (spdmFinish false)))
  · exact exec_on hp (congrArg (whileOn s) (inSession_found hp hx _))
  · exact exec_on hp (congrArg (whileOn s) (inSession_found hp hx _))
  · exact exec_on hp (congrArg (whileOn s) (inSession_found hp hx _))
  · exact exec_on hp (congrArg (whileOn s) (inSession_unknown hp hx _))
  · exact exec_on hp (congrArg (whileOn s) (inSession_unknown hp hx _))
  · exact exec_on hp (congrArg (whileOn s) (inSession_unknown hp hx _))

end Sys2Proof.Machine
end

section
/-! PROOFS. The host's side: completions, start-up, the MSI-X table, doorbells (R851 to R877), and completion records of
work rings (R873, R874). -/

namespace Sys2Proof.Machine

section
variable {s : State}

/-! ### Answers of the host (R854, R855) -/

theorem hostEnds_outstanding {tag code : Nat} {stray : Bool} {d : Outstanding → List PByte} {o : Outstanding}
    (ho : s.bus.outstanding.find? (fun o => o.tag == tag && o.host) = some o) (hstale : o.stale = false) :
    hostEnds tag code stray d s = completeRequest o code (d o) s := by
  unfold hostEnds
  rw [ho]
  exact if_neg (by simp [hstale])

/-! ### Configuration (R864) -/

theorem configuration_retry {k : Nat} {data : Option Nat} (hperst : s.host.perst = false) (h : s.host.settings = false) :
    configuration k data false s = { s with outs := s.outs ++ [.cfgCpl true none] } := by
  unfold configuration
  rw [if_neg (by simp [hperst]), if_pos (by simp [h])]

theorem configuration_read {k : Nat} {loaded : Bool} (hperst : s.host.perst = false)
    (h : s.host.settings = true ∨ loaded = true) : configuration k none loaded s = { s with
      host := { s.host with settings := true }
      outs := s.outs ++ [.cfgCpl false (some (configRead { s with host := { s.host with settings := true } } k))] } := by
  unfold configuration
  rw [if_neg (by simp [hperst]), if_neg (by simpa [Bool.eq_false_or_eq_true, or_iff_not_imp_left] using h)]

theorem configuration_write {k w : Nat} {loaded : Bool} (hperst : s.host.perst = false)
    (h : s.host.settings = true ∨ loaded = true) : configuration k (some w) loaded s = { s with
      host := { s.host with settings := true, cfg := put 0 s.host.cfg k (w % 2 ^ 32) }
      outs := s.outs ++ [.cfgCpl false none] } := by
  unfold configuration
  rw [if_neg (by simp [hperst]), if_neg (by simpa [Bool.eq_false_or_eq_true, or_iff_not_imp_left] using h)]

/-- The class code of a Type 0 header. -/
theorem configRead_class (s : State) : configRead s 2 / 256 = 0x120000 := by
  have h : configRead s 2 = Config.configWord 2 (look 0 s.host.cfg 2) % 2 ^ 32 % 256 + 0x120000 * 256 := rfl
  rw [h]
  omega

theorem configRead_headerType (s : State) : configRead s 3 / 2 ^ 16 % 2 ^ 8 = 0 := by
  have h : configRead s 3 = Config.configWord 3 (look 0 s.host.cfg 3) % 2 ^ 32 % 2 ^ 16 +
      Config.configWord 3 (look 0 s.host.cfg 3) % 2 ^ 32 / 2 ^ 24 * 2 ^ 24 := rfl
  rw [h]
  omega

/-! ### The MSI-X table (R877) -/

/-- A write of 16 bytes at an entry's place touches that entry alone. -/
theorem touched_entries {v : Nat} (hv : v < 2048) :
    (List.range 2048).filter (fun k => touches (16 * v) 16 (16 * k) 16) = [v] := by
  have hone : (fun k => touches (16 * v) 16 (16 * k) 16) = (fun k => k == v) := by
    funext k
    simp only [touches]
    rw [Bool.eq_iff_iff]
    simp only [Bool.and_eq_true, decide_eq_true_eq, beq_iff_eq]
    omega
  rw [hone, List.filter_beq, List.count_eq_one_of_mem List.nodup_range (List.mem_range.mpr hv)]
  rfl

theorem msixWrite_entry {v : Nat} {b : List Byte} (hv : v < 2048) (hb : b.length = 16) (hup : endpointUp s = true)
    (hservice : rd s pgLockkeeper Reg.TR_BOOT_RECOVERY = 0) : msixWrite (16 * v) b s = msixEntry v b s := by
  unfold msixWrite
  rw [hb, touched_entries hv, if_neg (by simp [hup]), if_neg (by simp [isSet_eq_false hservice])]
  have hlen : b.drop 16 = [] := List.drop_eq_nil_of_le hb.le
  simp only [List.foldl_cons, List.foldl_nil, Nat.sub_self, Nat.sub_zero, List.drop_zero, overlay, List.take_zero,
    List.nil_append, List.take_of_length_le hb.le, Nat.zero_add, hb]
  congr 1
  have hold : ((look {} s.host.msix v).bytes).length = 16 := by
    simp [Msix.bytes, leBytes_length]
  rw [List.drop_eq_nil_of_le hold.le, List.append_nil]

theorem look_msixEntry {v : Nat} {b : List Byte} (hb : b.length = 16) :
    (look {} (msixEntry v b s).host.msix v).addr = leNat (b.take 8) ∧
      (look {} (msixEntry v b s).host.msix v).data = leNat ((b.drop 8).take 4) ∧
      (look {} (msixEntry v b s).host.msix v).masked = bitOf (leNat (b.drop 12)) 0 := by
  have hmask : leNat (b.drop 12) = fld b 0xC 4 := by
    rw [fld, List.take_of_length_le (by simp [hb])]
  rw [hmask]
  unfold msixEntry
  extract_lets e n sent host t
  have hentry : ∀ u : State, u.host = t.host → look {} u.host.msix v = if sent then { n with pend := false } else n := by
    intro u hu
    rw [hu]
    exact look_put_self ..
  have hfields : ∀ u : State, u.host = t.host → (look {} u.host.msix v).addr = leNat (b.take 8) ∧
      (look {} u.host.msix v).data = leNat ((b.drop 8).take 4) ∧
      (look {} u.host.msix v).masked = bitOf (fld b 0xC 4) 0 := by
    intro u hu
    rw [hentry u hu]
    split
    · exact ⟨rfl, rfl, rfl⟩
    · exact ⟨rfl, rfl, rfl⟩
  split
  · exact hfields _ rfl
  · exact hfields _ rfl

/-! ### Doorbells (R867, R868) -/

theorem doorbellWrite_reaches {r tail : Nat} (hr : r < 64) (htail : tail < 2 ^ 32) (hup : endpointUp s = true)
    (hservice : rd s pgLockkeeper Reg.TR_BOOT_RECOVERY = 0) (hw : writable s (ringPage r) = true) :
    doorbellWrite r tail s = doorbell r tail s := by
  unfold doorbellWrite
  rw [if_neg (by simp [hr, hup]), if_neg (by simp [isSet_eq_false hservice, hw]), Nat.mod_eq_of_lt htail]

theorem doorbell_taken {r tail : Nat} (hon : ringRd s r Reg.WR_CFG_ENABLE = 1)
    (h : (tail + 2 ^ 32 - ringRd s r Reg.WR_HEAD) % 2 ^ 32 ≤ ringSize s r) :
    doorbell r tail s = ringWr r Reg.WR_TAIL tail s := if_neg (by omega)

theorem ringEnable_on {r : Nat} (h : ringRd s r Reg.WR_CFG_ENABLE = 0) :
    ringEnable r true s = ringWr r Reg.WR_CFG_HALTED 0 (ringWr r Reg.WR_CFG_ENABLE 1 s) := if_pos ⟨rfl, h⟩

theorem ringEnable_off (r : Nat) : ringEnable r false s = ringWr r Reg.WR_CFG_ENABLE 0 s := by
  unfold ringEnable
  exact if_neg (fun h => Bool.false_ne_true h.1)

end

/-- Settles O20: each of the host's commands by the lemma about its operation. -/
theorem hostSide : Obligations.host_side := by
  intro s hp
  refine ⟨fun tag data ep o ho hstale => exec_on hp (congrArg (whileOn s) (hostEnds_outstanding ho hstale)),
    fun tag refused o ho hstale => exec_on hp (congrArg (whileOn s) (hostEnds_outstanding ho hstale)),
    fun h => exec_on hp (congrArg (whileOn s) (if_pos h)), fun k data loaded hperst => ⟨fun h hl => ?_, fun h => ⟨?_, fun w => ?_⟩⟩,
    fun v b hv hb hup hservice => ?_, fun r tail hr htail hup hservice hw => ⟨fun hon h => ?_, fun h => ?_⟩,
    fun r hr hw => ⟨fun h => ?_, ?_⟩⟩
  · subst hl
    exact exec_on hp (congrArg (whileOn s) (configuration_retry hperst h))
  · exact ⟨_, exec_on hp (congrArg (whileOn s) (configuration_read hperst h)), fun hk => hk ▸ configRead_class _,
      fun hk => hk ▸ configRead_headerType _⟩
  · exact exec_on hp (congrArg (whileOn s) (configuration_write hperst h))
  · exact ⟨_, exec_on hp (congrArg (whileOn s) (msixWrite_entry hv hb hup hservice)), look_msixEntry hb⟩
  · exact exec_on hp (congrArg (whileOn s) ((doorbellWrite_reaches hr htail hup hservice hw).trans (doorbell_taken hon h)))
  · exact exec_on hp (congrArg (whileOn s) ((doorbellWrite_reaches hr htail hup hservice hw).trans (if_pos h)))
  · exact exec_on hp (congrArg (whileOn s) ((if_pos (by simp [hr, hw])).trans (ringEnable_on h)))
  · exact exec_on hp (congrArg (whileOn s) ((if_pos (by simp [hr, hw])).trans (ringEnable_off r)))

section
variable {s t : State} {r : Nat} {e : RingEntry}

/-! ### Fields of a ring (R866) -/

/-- Two fields of the rings of one command processor lie apart when their places differ within a ring's 32 bytes. -/
theorem ringRd_ringWr_other {f g : Field} (hf : f.stride = 32) (hg : g.stride = 32)
    (h : g.bit % 256 ≠ f.bit % 256) (v : Nat) (s : State) : ringRd (ringWr r f v s) r g = ringRd s r g := by
  refine rdAt_wrAt_other s v ?_
  simp only [Field.key, hf, hg]
  omega

theorem ringRd_ringWr_self (f : Field) (v : Nat) (s : State) : ringRd (ringWr r f v s) r f = v % 2 ^ f.w := rdAt_wrAt_self ..

@[simp] theorem ringRd_setEntry (f : Field) (s : State) : ringRd (setEntry r e s) r f = ringRd s r f := rfl

theorem ringRd_of_regs (h : t.regs = s.regs) (f : Field) : ringRd t r f = ringRd s r f := by
  simp only [ringRd, rdAt, h]

theorem ringRd_signalVector (v : Nat) (f : Field) (s : State) : ringRd (signalVector v s) r f = ringRd s r f :=
  signalVector_rdAt ..

/-- A record in the error log of the ring's page leaves the fields of its rings. -/
theorem ringRd_logErr (hr : r < 64) {f : Field} (hplace : 8192 ≤ f.bit) (hend : f.bit < 8448) (hf : f.stride = 32)
    (code tag : Nat) (s : State) : ringRd (logErr (ringPage r) code tag s) r f = ringRd s r f := by
  have hpage : ringPage r ≠ pgHost := by
    simp only [ringPage, pgCp, pgHost]
    omega
  refine logErr_rdAt _ _ _ _ ⟨?_, offRing_of_page (by rw [hf]; omega) hpage⟩ ?_ fun k hk => ?_
  · simp only [Field.key, hf, Reg.PAGE_INT_STATUS]
    omega
  · simp only [Field.key, hf, Reg.PAGE_ERR_COUNT]
    omega
  · simp only [Field.key, hf, Reg.PAGE_ERR_LOG]
    omega

/-! ### Events leave the entries of the rings -/

theorem rings_signalVector (v : Nat) (s : State) : (signalVector v s).host.rings = s.host.rings := by
  unfold signalVector
  dsimp only
  split
  · rfl
  · rfl

theorem rings_deliverEvent (page : Nat) (s : State) : (deliverEvent page s).host.rings = s.host.rings := by
  unfold deliverEvent
  dsimp only
  rw [rings_signalVector]
  split
  · rw [(keeps_eventRecord .rfl (.refl s)).host.resolve_left (by decide)]
  · rfl

theorem rings_raiseBit (page b : Nat) (s : State) : (raiseBit page b s).host.rings = s.host.rings := by
  unfold raiseBit
  dsimp only
  split
  · rfl
  · split
    · exact rings_deliverEvent ..
    · rfl

theorem rings_logErr (page code tag : Nat) (s : State) : (logErr page code tag s).host.rings = s.host.rings := by
  unfold logErr
  extract_lets u n v
  rw [rings_raiseBit]
  exact congrArg HostIf.rings ((wrAt_host ..).trans (bump_host ..))

theorem ringEntryOf_of_rings (h : t.host.rings = s.host.rings) : ringEntryOf t r = ringEntryOf s r := by
  simp only [ringEntryOf, h]

/-! ### An entry leaves its ring (R873, R874) -/

theorem ringEntryOf_retireEntry (r : Nat) (e : RingEntry) (s : State) : ringEntryOf (retireEntry r e s) r = {} := by
  unfold retireEntry
  extract_lets u v
  have hu : ringEntryOf u r = {} := (ringEntryOf_of_rings rfl).trans (ringEntryOf_setEntry r {} s)
  have hv : ringEntryOf v r = {} := by
    unfold v
    split
    · exact (ringEntryOf_of_rings (rings_signalVector ..)).trans hu
    · exact hu
  split
  · exact hv
  · exact (ringEntryOf_of_rings (rings_logErr ..)).trans hv

/-- The head goes on, and a code halts the ring. -/
theorem ringRd_retireEntry (hr : r < 64) (e : RingEntry) (s : State) :
    ringRd (retireEntry r e s) r Reg.WR_HEAD = (ringRd s r Reg.WR_HEAD + 1) % 2 ^ 32 ∧
      ringRd (retireEntry r e s) r Reg.WR_CFG_HALTED = if e.code = 0 then ringRd s r Reg.WR_CFG_HALTED else 1 := by
  unfold retireEntry
  extract_lets u v
  have hu : ringRd u r Reg.WR_HEAD = (ringRd s r Reg.WR_HEAD + 1) % 2 ^ 32 ∧
      ringRd u r Reg.WR_CFG_HALTED = ringRd s r Reg.WR_CFG_HALTED :=
    ⟨ringRd_ringWr_self .., ringRd_ringWr_other rfl rfl (by decide) ..⟩
  have hv : ringRd v r Reg.WR_HEAD = (ringRd s r Reg.WR_HEAD + 1) % 2 ^ 32 ∧
      ringRd v r Reg.WR_CFG_HALTED = ringRd s r Reg.WR_CFG_HALTED := by
    unfold v
    split
    · rw [ringRd_signalVector, ringRd_signalVector]
      exact hu
    · exact hu
  split
  · exact hv
  · rw [ringRd_logErr hr (by decide) (by decide) rfl, ringRd_logErr hr (by decide) (by decide) rfl,
      ringRd_ringWr_other rfl rfl (by decide), ringRd_ringWr_self]
    exact ⟨hv.1, rfl⟩

theorem sent_retireEntry (r : Nat) (e : RingEntry) (s : State) : s.outs <+: (retireEntry r e s).outs :=
  (keeps_retireEntry (m₀ := allParts) part (.refl s)).sent

/-! ### The record's parts (R873) -/

/-- The code that a finished entry completes with. -/
def entryCode (s : State) (r : Nat) (e : RingEntry) : Nat := if e.code = 0 then writeCode s (ringWho r) else e.code

theorem runM_waitFor_false {b : Bool} (h : b = false) (s : State) : runM (waitFor b) s = (.error .hold, s) := by
  rw [runM_waitFor, h]
  rfl

theorem recordWrite_works (r a : Nat) (d : List Byte) (s : State) :
    Works (recordWrite r a d) s (leaves (recordWrite r a d) s) :=
  StopsOnly.works (.m_bind .m_get fun _ => .m_ite (.m_modify _)
    (.m_bind (stopsOnly_codeOf (stopsOnly_busWrite _ _ _)) fun _ => .m_pure ())) s

/-- A record in host memory is sent. -/
theorem recordWrite_host {a : Nat} {d : List Byte} (h : ringRd s r Reg.WR_CFG_LOC = 1) :
    leaves (recordWrite r a d) s = { s with outs := s.outs ++ [.hostWrite a (clean d) false] } := by
  unfold leaves recordWrite
  rw [runM_bind_ok (runM_get s), if_pos h]
  rfl

section
variable (hbusy : (ringEntryOf s r).busy = true)
include hbusy

theorem completeFirst_works (hdone : (ringEntryOf s r).finished = true) (hstage : (ringEntryOf s r).stage < 2)
    (hans : answered s (ringWho r) = true) : Works (completeFirst r) s
      (setEntry r { ringEntryOf s r with stage := 2, code := entryCode s r (ringEntryOf s r) }
        (leaves (recordWrite r (cqAt s r + 4) (cqBytes s r (ringRd s r Reg.WR_HEAD) (entryCode s r (ringEntryOf s r))
          (ringEntryOf s r).tag).2) (forgetErrors (ringWho r) s))) := by
  unfold Works completeFirst
  rw [runM_bind_ok (runM_get s), runM_bind_ok (runM_waitFor_true (by simp [hbusy, hdone, hstage]) s),
    runM_bind_ok (codeOf_acknowledged hans)]
  exact runM_bind_ok (recordWrite_works ..)

theorem completeSecond_works (hstage : (ringEntryOf s r).stage = 2) (hans : answered s (recordWho r) = true) :
    Works (completeSecond r) s (setEntry r { ringEntryOf s r with stage := 3 }
      (leaves (recordWrite r (cqAt s r) (cqBytes s r (ringRd s r Reg.WR_HEAD) (ringEntryOf s r).code
        (ringEntryOf s r).tag).1) (forgetErrors (recordWho r) s))) := by
  unfold Works completeSecond
  rw [runM_bind_ok (runM_get s), runM_bind_ok (runM_waitFor_true (by simp [hbusy, hstage]) s),
    runM_bind_ok (codeOf_acknowledged hans)]
  exact runM_bind_ok (recordWrite_works ..)

theorem completeThird_works (hstage : (ringEntryOf s r).stage = 3) (hans : answered s (recordWho r) = true) :
    Works (completeThird r) s (retireEntry r (ringEntryOf s r) (forgetErrors (recordWho r) s)) := by
  unfold Works completeThird
  rw [runM_bind_ok (runM_get s), runM_bind_ok (runM_waitFor_true (by simp [hbusy, hstage]) s),
    runM_bind_ok (codeOf_acknowledged hans)]
  rfl

end

theorem attempt_completeSecond_wait (hans : answered s (recordWho r) = false) :
    attempt (recordWho r) (completeSecond r) s = after (recordWho r) s := by
  refine attempt_hold (t := s) ?_
  unfold completeSecond
  rw [runM_bind_ok (runM_get s)]
  dsimp only
  cases hw : (ringEntryOf s r).busy && (ringEntryOf s r).stage == 2 with
  | false => exact runM_bind_error (runM_waitFor_false rfl s)
  | true =>
    rw [runM_bind_ok (runM_waitFor_true rfl s)]
    exact runM_bind_error (codeOf_acknowledged_hold hans)

theorem attempt_completeFirst_stage (hstage : 2 ≤ (ringEntryOf s r).stage) :
    attempt (recordWho r) (completeFirst r) s = after (recordWho r) s := by
  refine attempt_hold (t := s) ?_
  unfold completeFirst
  rw [runM_bind_ok (runM_get s)]
  exact runM_bind_error (runM_waitFor_false (by simp [Nat.not_lt.mpr hstage]) s)

theorem attempt_completeSecond_stage (hstage : (ringEntryOf s r).stage ≠ 2) :
    attempt (recordWho r) (completeSecond r) s = after (recordWho r) s := by
  refine attempt_hold (t := s) ?_
  unfold completeSecond
  rw [runM_bind_ok (runM_get s)]
  exact runM_bind_error (runM_waitFor_false (by simp [hstage]) s)

theorem attempt_completeThird_wait (h : (ringEntryOf s r).stage ≠ 3 ∨ answered s (recordWho r) = false) :
    attempt (recordWho r) (completeThird r) s = after (recordWho r) s := by
  refine attempt_hold (t := s) ?_
  unfold completeThird
  rw [runM_bind_ok (runM_get s)]
  dsimp only
  cases hw : (ringEntryOf s r).busy && (ringEntryOf s r).stage == 3 with
  | false => exact runM_bind_error (runM_waitFor_false rfl s)
  | true =>
    have hstage : (ringEntryOf s r).stage = 3 := by
      rw [Bool.and_eq_true, beq_iff_eq] at hw
      exact hw.2
    rw [runM_bind_ok (runM_waitFor_true rfl s)]
    exact runM_bind_error (codeOf_acknowledged_hold (h.resolve_left (not_not.mpr hstage)))

/-! ### Once the first part is out -/

/-- The first part of the record of entry `r` is out, or the entry is gone. -/
def RecordOut (r : Nat) (s : State) : Prop := ringEntryOf s r = {} ∨ 2 ≤ (ringEntryOf s r).stage

theorem recordOut_second (hbusy : (ringEntryOf s r).busy = true) (hstage : (ringEntryOf s r).stage = 2) :
    (ringEntryOf (attempt (recordWho r) (completeSecond r) s) r).busy = true ∧
      2 ≤ (ringEntryOf (attempt (recordWho r) (completeSecond r) s) r).stage := by
  cases hans : answered s (recordWho r) with
  | true =>
    rw [attempt_works (completeSecond_works hbusy hstage hans), ringEntryOf_after, ringEntryOf_setEntry]
    exact ⟨hbusy, (by decide : 2 ≤ 3)⟩
  | false =>
    rw [attempt_completeSecond_wait hans, ringEntryOf_after]
    exact ⟨hbusy, hstage.ge⟩

theorem recordOut_third (hbusy : (ringEntryOf s r).busy = true) (hstage : 2 ≤ (ringEntryOf s r).stage) :
    RecordOut r (attempt (recordWho r) (completeThird r) s) := by
  by_cases h : (ringEntryOf s r).stage ≠ 3 ∨ answered s (recordWho r) = false
  · rw [attempt_completeThird_wait h]
    exact .inr hstage
  · have hready := not_or.mp h
    rw [attempt_works (completeThird_works hbusy (not_not.mp hready.1) (by simpa using hready.2))]
    exact .inl (ringEntryOf_retireEntry ..)

theorem wrCompletion_eq (hp : s.powered = true) (hr : r < 64) : wrCompletion r s =
    attempt (recordWho r) (completeThird r) (attempt (recordWho r) (completeSecond r)
      (attempt (recordWho r) (completeFirst r) s)) := if_neg (ringServed hp hr)

theorem recordOut_wrCompletion (hp : s.powered = true) (hr : r < 64) (hbusy : (ringEntryOf s r).busy = true)
    (hdone : (ringEntryOf s r).finished = true) (hstage : (ringEntryOf s r).stage < 2)
    (hans : answered s (ringWho r) = true) : RecordOut r (wrCompletion r s) := by
  rw [wrCompletion_eq hp hr, attempt_works (completeFirst_works hbusy hdone hstage hans)]
  set t := after (recordWho r) (setEntry r { ringEntryOf s r with stage := 2, code := entryCode s r (ringEntryOf s r) }
        (leaves (recordWrite r (cqAt s r + 4) (cqBytes s r (ringRd s r Reg.WR_HEAD) (entryCode s r (ringEntryOf s r))
          (ringEntryOf s r).tag).2) (forgetErrors (ringWho r) s))) with ht
  have hentry : ringEntryOf t r = { ringEntryOf s r with stage := 2, code := entryCode s r (ringEntryOf s r) } := by
    rw [ht, ringEntryOf_after, ringEntryOf_setEntry]
  obtain ⟨hbusy', hstage'⟩ := recordOut_second (s := t) (r := r) (by rw [hentry]; exact hbusy) (by rw [hentry])
  exact recordOut_third hbusy' hstage'

/-- With both parts out and answered, the entry leaves its ring. -/
theorem wrCompletion_retires (hp : s.powered = true) (hr : r < 64) (hbusy : (ringEntryOf s r).busy = true)
    (hstage : (ringEntryOf s r).stage = 3) (hans : answered s (recordWho r) = true) : wrCompletion r s =
      after (recordWho r) (retireEntry r (ringEntryOf s r) (forgetErrors (recordWho r) (after (recordWho r) s))) := by
  have hsecond : (ringEntryOf (after (recordWho r) s) r).stage ≠ 2 := by
    rw [ringEntryOf_after, hstage]
    decide
  rw [wrCompletion_eq hp hr, attempt_completeFirst_stage (by omega), attempt_completeSecond_stage hsecond, after_after,
    attempt_works (completeThird_works (s := after (recordWho r) s) hbusy hstage hans), ringEntryOf_after]

/-! ### A record in host memory is sent at once -/

/-- A part of the record is sent to the host, and the entry goes to the next stage. -/
def partSent (w : Who) (r a : Nat) (d : List Byte) (e : RingEntry) (s : State) : State :=
  after (recordWho r) (setEntry r e { forgetErrors w s with outs := s.outs ++ [.hostWrite a (clean d) false] })

section
variable {w : Who} {a : Nat} {d : List Byte}

@[simp] theorem ringEntryOf_partSent : ringEntryOf (partSent w r a d e s) r = e := ringEntryOf_setEntry ..

@[simp] theorem ringRd_partSent (f : Field) : ringRd (partSent w r a d e s) r f = ringRd s r f := by
  refine ringRd_of_regs ?_ f
  change (forgetErrors w s).regs = s.regs
  unfold forgetErrors
  split <;> rfl

@[simp] theorem answered_partSent (w' : Who) : answered (partSent w r a d e s) w' = answered s w' :=
  (rfl : _ = answered (forgetErrors w s) w').trans (answered_forgetErrors ..)

@[simp] theorem outs_partSent : (partSent w r a d e s).outs = s.outs ++ [.hostWrite a (clean d) false] := rfl

@[simp] theorem outs_forgetErrors (w : Who) (s : State) : (forgetErrors w s).outs = s.outs := by
  unfold forgetErrors
  split <;> rfl

theorem leaves_recordWrite_host (h : ringRd s r Reg.WR_CFG_LOC = 1) :
    leaves (recordWrite r a d) (forgetErrors w s) =
      { forgetErrors w s with outs := s.outs ++ [.hostWrite a (clean d) false] } := by
  have hregs : (forgetErrors w s).regs = s.regs := by
    unfold forgetErrors
    split <;> rfl
  rw [recordWrite_host (by rw [ringRd_of_regs hregs, h]), outs_forgetErrors]

end

/-- The record of an entry in host memory: both parts are sent, and the entry leaves its ring. -/
theorem wrCompletion_host (hp : s.powered = true) (hr : r < 64) (hbusy : (ringEntryOf s r).busy = true)
    (hloc : ringRd s r Reg.WR_CFG_LOC = 1) (hdone : (ringEntryOf s r).finished = true) (hstage : (ringEntryOf s r).stage < 2)
    (hans : answered s (ringWho r) = true) (hrec : answered s (recordWho r) = true) :
    ∃ u v, wrCompletion r s = after (recordWho r) (retireEntry r v u) ∧ v.code = entryCode s r (ringEntryOf s r) ∧
      (∀ f, ringRd u r f = ringRd s r f) ∧
      u.outs = s.outs ++
        [.hostWrite (cqAt s r + 4) (clean (cqBytes s r (ringRd s r Reg.WR_HEAD) (entryCode s r (ringEntryOf s r))
          (ringEntryOf s r).tag).2) false, .hostWrite (cqAt s r) (clean (cqBytes s r (ringRd s r Reg.WR_HEAD)
            (entryCode s r (ringEntryOf s r)) (ringEntryOf s r).tag).1) false] := by
  set c := entryCode s r (ringEntryOf s r) with hc
  set e₂ : RingEntry := { ringEntryOf s r with stage := 2, code := c } with he₂
  set s₁ := partSent (ringWho r) r (cqAt s r + 4) (cqBytes s r (ringRd s r Reg.WR_HEAD) c (ringEntryOf s r).tag).2 e₂ s with hs₁
  have h₁ : attempt (recordWho r) (completeFirst r) s = s₁ := by
    rw [attempt_works (completeFirst_works hbusy hdone hstage hans), leaves_recordWrite_host hloc]
    rfl
  have hentry₁ : ringEntryOf s₁ r = e₂ := ringEntryOf_partSent
  set s₂ := partSent (recordWho r) r (cqAt s₁ r) (cqBytes s₁ r (ringRd s₁ r Reg.WR_HEAD) c (ringEntryOf s r).tag).1
    { e₂ with stage := 3 } s₁ with hs₂
  have h₂ : attempt (recordWho r) (completeSecond r) s₁ = s₂ := by
    have hworks := completeSecond_works (s := s₁) (r := r) (by rw [hentry₁]; exact hbusy) (by rw [hentry₁])
      ((answered_partSent _).trans hrec)
    rw [hentry₁, leaves_recordWrite_host ((ringRd_partSent _).trans hloc)] at hworks
    exact attempt_works hworks
  have hentry₂ : ringEntryOf s₂ r = { e₂ with stage := 3 } := ringEntryOf_partSent
  have h₃ := attempt_works (w := recordWho r) (completeThird_works (s := s₂) (r := r) (by rw [hentry₂]; exact hbusy)
    (by rw [hentry₂]) ((answered_partSent _).trans ((answered_partSent _).trans hrec)))
  have hread : ∀ f, ringRd s₁ r f = ringRd s r f := fun f => ringRd_partSent f
  have hplace : cqAt s₁ r = cqAt s r := by
    simp only [cqAt, ringSize, hread]
  have hbytes : ∀ i k, cqBytes s₁ r i c k = cqBytes s r i c k := fun i k => by
    simp only [cqBytes, hread]
  refine ⟨forgetErrors (recordWho r) s₂, { e₂ with stage := 3 }, ?_, rfl, fun f => ?_, ?_⟩
  · rw [wrCompletion_eq hp hr, h₁, h₂, h₃, hentry₂]
  · have hregs : (forgetErrors (recordWho r) s₂).regs = s₂.regs := by
      unfold forgetErrors
      split <;> rfl
    rw [ringRd_of_regs hregs, ringRd_partSent, hread]
  · rw [outs_forgetErrors, outs_partSent, outs_partSent, hplace, hbytes, hread, List.append_assoc]
    rfl

end

/-- Settles O31: the three parts of a completion, by what each leaves of the entry. -/
theorem ringCompletion : Obligations.ring_completion := by
  rintro s r _ hp hr rfl hbusy
  refine ⟨?_, fun hdone hstage hans => ?_, ?_⟩
  · rintro _ _ hloc hdone hstage hans hrec rfl rfl
    obtain ⟨u, v, hrun, hcode, hread, houts⟩ := wrCompletion_host hp hr hbusy hloc hdone hstage hans hrec
    obtain ⟨rest, hrest⟩ := sent_retireEntry r v u
    obtain ⟨hhead, hhalted⟩ := ringRd_retireEntry hr v u
    refine ⟨_, rest, (exec_on hp rfl).trans (congrArg _ hrun), ?_, ?_, ringEntryOf_retireEntry r v u, ?_⟩
    · rw [houts] at hrest
      exact hrest.symm
    · rw [hread] at hhead
      exact hhead
    · rw [hread, hcode] at hhalted
      exact hhalted
  · exact ⟨_, exec_on hp rfl, recordOut_wrCompletion hp hr hbusy hdone hstage hans⟩
  · rintro _ hstage hrec rfl
    exact (exec_on hp rfl).trans (congrArg _ (wrCompletion_retires hp hr hbusy hstage hrec))

end Sys2Proof.Machine
end

section
/-! PROOFS. The commands of the Lockkeeper mailbox and the sideband target (R832, R837, R842, R843, R879 to R883). -/

namespace Sys2Proof.Machine

section
variable {s t : State} {c d : List Byte} {op n : Nat} {m : List Byte → M Nat}

/-! ### Long commands: work and result (R881) -/

theorem mbWork_works (hruns : mbRuns s op = true) (h : Reads (m s.rc.mailbox) s n t) : mbWork op m s = mbResult 0 n t := by
  refine (if_pos hruns).trans (attempt_works ?_)
  unfold Works
  rw [runM_bind_ok (runM_catchCode_ok h)]
  rfl

theorem mbWork_refused {code : Nat} (hruns : mbRuns s op = true) (h : runM (m s.rc.mailbox) s = (.error (.code code), t)) :
    mbWork op m s = mbResult code 0 t := by
  refine (if_pos hruns).trans (attempt_works ?_)
  unfold Works
  rw [runM_bind_ok (runM_catchCode_code h)]
  rfl

theorem mbReturn_reads (h : Returned c d s t) : Reads (mbReturn c d) s d.length t := by
  obtain ⟨hroom, hwrite⟩ := h
  unfold Reads mbReturn
  rw [runM_bind_ok (runM_refuseIf_false _ (decide_eq_false (Nat.not_lt.mpr hroom)) s)]
  rcases hwrite with ⟨hhost, rfl⟩ | ⟨hhost, hrun⟩
  · rw [hhost]
    rfl
  · rw [hhost, if_neg Bool.false_ne_true, runM_bind_ok hrun]
    rfl

theorem mbReturn_refused (h : mcLen c < d.length) : runM (mbReturn c d) s = (.error (.code 0x0424), s) :=
  runM_bind_error (runM_refuseIf_true _ (decide_eq_true h) s)

theorem mbBring_reads {least most : Nat} {b : List Byte} (h : Brought c least most b s t) :
    Reads (mbBring c least most) s b t := by
  obtain ⟨hleast, hmost, d, rfl, hclean, hread⟩ := h
  unfold Reads mbBring
  dsimp only
  rw [runM_bind_ok (runM_refuseIf_false _ (by simp [Nat.not_lt.mpr hleast, Nat.not_lt.mpr hmost]) s)]
  cases hhost : mcHost c with
  | true =>
    rw [hhost, if_pos rfl] at hread
    rw [if_pos rfl, runM_bind_ok hread, runM_bind_ok (runM_refuseIf_false _ hclean t)]
    rfl
  | false =>
    rw [hhost, if_neg Bool.false_ne_true] at hread
    rw [if_neg Bool.false_ne_true, runM_bind_ok hread, runM_bind_ok (runM_refuseIf_false _ hclean t)]
    rfl

theorem mbSign_reads {key purpose step arg nonce : Nat} {covered : List Byte} (hkey : s.tr.key = some key)
    (h : keyLocked s = false) : Reads (mbSign purpose step arg nonce covered) s (signedBy s key purpose step arg nonce covered)
      (bump pgLockkeeper Reg.TR_SIGNATURES 1 s) := by
  unfold Reads mbSign
  rw [runM_bind_ok (runM_get s)]
  unfold signedStatement
  rw [keySign_serving hkey h]
  rfl

/-! ### Reading the life log and the dumps (R880) -/

theorem readLifeLog_plain (hsign : mcSign c = false) (h : Returned c (lifeExtract s (mcArg c 0)) s t) :
    Reads (readLifeLog c) s (lifeExtract s (mcArg c 0)).length t := by
  unfold Reads readLifeLog
  rw [runM_bind_ok (runM_gets _ s), hsign]
  exact mbReturn_reads h

theorem readLifeLog_refused (hsign : mcSign c = false) (h : mcLen c < (lifeExtract s (mcArg c 0)).length) :
    runM (readLifeLog c) s = (.error (.code 0x0424), s) := by
  unfold readLifeLog
  rw [runM_bind_ok (runM_gets _ s), hsign]
  exact mbReturn_refused h

theorem readLifeLog_signed {key : Nat} {g : List Byte} (hsign : mcSign c = true) (hkey : s.tr.key = some key)
    (hserve : keyLocked s = false) (hg : g = signedBy s key 2 0 (mcArg c 0) (mcArg c 1) (lifeExtract s (mcArg c 0)))
    (hroom : (lifeExtract s (mcArg c 0)).length + 192 ≤ mcLen c)
    (h : Returned c (lifeExtract s (mcArg c 0) ++ g) (bump pgLockkeeper Reg.TR_SIGNATURES 1 s) t) :
    Reads (readLifeLog c) s (lifeExtract s (mcArg c 0) ++ g).length t := by
  subst hg
  unfold Reads readLifeLog
  rw [runM_bind_ok (runM_gets _ s), hsign, if_pos rfl,
    runM_bind_ok (runM_refuseIf_false _ (decide_eq_false (Nat.not_lt.mpr hroom)) s), runM_bind_ok (mbSign_reads hkey hserve)]
  exact mbReturn_reads h

theorem readDumpSummary_reads (hd : d = look [] s.rc.summaries (mcArg c 0 % 16)) (hsome : d ≠ []) (h : Returned c d s t) :
    Reads (readDumpSummary c) s d.length t := by
  subst hd
  unfold Reads readDumpSummary
  rw [runM_bind_ok (runM_gets _ s), runM_bind_ok (runM_refuseIf_false _ (List.isEmpty_eq_false_iff.mpr hsome) s)]
  exact mbReturn_reads h

theorem readDumpSummary_refused (hnone : look [] s.rc.summaries (mcArg c 0 % 16) = []) :
    runM (readDumpSummary c) s = (.error (.code 0x0424), s) := by
  unfold readDumpSummary
  rw [runM_bind_ok (runM_gets _ s)]
  exact runM_bind_error (runM_refuseIf_true _ (List.isEmpty_iff.mpr hnone) s)

theorem readDump_reads {x : Dump} (hx : s.rc.dumps.find? (fun x => x.seq == mcArg c 0 % 2 ^ 32) = some x)
    (h : Returned c x.bytes s t) : Reads (readDump c) s x.bytes.length t := by
  unfold Reads readDump
  rw [runM_bind_ok (runM_gets _ s), hx]
  exact mbReturn_reads h

theorem readDump_refused (hx : s.rc.dumps.find? (fun x => x.seq == mcArg c 0 % 2 ^ 32) = none) :
    runM (readDump c) s = (.error (.code 0x0424), s) := by
  unfold readDump
  rw [runM_bind_ok (runM_gets _ s), hx]
  rfl

/-! ### Images and configuration (R832, R837) -/

theorem writeImage_reads {b : List Byte} (h : Brought c 4096 (24 * 2 ^ 20) b s t) : Reads (writeImage c) s 0
    (modRc (fun r => { r with mbHead := b.take 4096 })
      (setImage (idleSlot t) (List.replicate 4096 0xFF ++ b.drop 4096) t)) := by
  unfold Reads writeImage
  rw [runM_bind_ok (mbBring_reads h)]
  rfl

/-- The new block `b` is not taken: it is not valid, or not newer than the valid block that runs. -/
def configStale (b : List Byte) (t : State) : Bool :=
  !configValid b || (configValid t.tr.active && decide (cfgNat b 8 4 ≤ cfgNat t.tr.active 8 4))

theorem writeConfig_taken {b : List Byte} (h : Brought c 320 (2 ^ 20) b s t) (hfresh : configStale b t = false) :
    Reads (writeConfig c) s 0 (modTrust (fun x => { x with config := b }) t) := by
  unfold Reads writeConfig
  rw [runM_bind_ok (mbBring_reads h), runM_bind_ok (runM_get t), runM_bind_ok (runM_refuseIf_false 0x0701 (b := !configValid b || _) hfresh t)]
  rfl

theorem writeConfig_refused {b : List Byte} (h : Brought c 320 (2 ^ 20) b s t) (hstale : configStale b t = true) :
    runM (writeConfig c) s = (.error (.code 0x0701), t) := by
  unfold writeConfig
  rw [runM_bind_ok (mbBring_reads h), runM_bind_ok (runM_get t)]
  exact runM_bind_error (runM_refuseIf_true _ hstale t)

/-! ### Round statements (R843) -/

/-- The round in the holding region is as SIGN_ROUND wants it, and its record `b` is complete. -/
structure RoundReady (s : State) (c : List Byte) (n : Nat) : Prop where
  held : heldHere s (mcArg c 0) n = true
  idle : rd s pgResilience Reg.RS_DIGEST_GO = 0
  least : 4096 < n
  whole : n % 64 = 0
  slot : mcArg c 0 % 64 = 0
  dst : mcArg c 1 % 8 = 0
  room : 192 ≤ mcLen c
  serves : keyLocked s = false

/-- The digests are written and the statement is returned. -/
theorem roundStatement_reads {w x : State} {bytes : List PByte} {key step arg nonce : Nat} {covered : List Byte}
    (hwrite : Reads (busWrite digestWho arg bytes) w () x) (hkey : x.tr.key = some key) (hserve : keyLocked x = false)
    {a : Nat} (hreturn : Returned c (signedBy x key 1 step a nonce covered) (bump pgLockkeeper Reg.TR_SIGNATURES 1 x) t) :
    Reads (do
      busWrite digestWho arg bytes
      let g ← mbSign 1 step a nonce covered
      mbReturn c g) w (signedBy x key 1 step a nonce covered).length t := by
  unfold Reads
  rw [runM_bind_ok hwrite, runM_bind_ok (mbSign_reads hkey hserve)]
  exact mbReturn_reads hreturn

theorem signRound_reads {r : List PByte} {b ds g : List Byte} {poison : Bool} {u v w x : State} {key : Nat}
    (hready : RoundReady s c (rd s pgResilience Reg.RS_IMAGE_BYTES)) (hread : Reads (busRead lkWho (mcArg c 0) 256) s r u)
    (hclean : r.any Prod.snd = false) (hb : b = r.map Prod.fst) (hcomplete : bitOf (fld b 0xC 4) 0 = true)
    (hdigests : Reads (shaPages (digestRanges (mcArg c 0 + 4096) (rd s pgResilience Reg.RS_IMAGE_BYTES - 4096))) u
      (ds, poison) v) (hw : w = (if poison then wr pgResilience Reg.RS_DIGEST_POISON 1 v else v))
    (hwrite : Reads (busWrite digestWho (mcArg c 1) (clean ds)) w () x) (hkey : x.tr.key = some key)
    (hserve : keyLocked x = false)
    (hg : g = signedBy x key 1 (fld b 4 4) (fld b 8 4 + fld b 2 2 * 2 ^ 32) (mcArg c 2) (b ++ ds))
    (hreturn : Returned c g (bump pgLockkeeper Reg.TR_SIGNATURES 1 x) t) : Reads (signRound c) s g.length t := by
  subst hb hg
  obtain ⟨hheld, hidle, hleast, hwhole, hslot, hdst, hroom, hserves⟩ := hready
  have hsizes : (mcArg c 0 % 64 != 0 || decide (rd s pgResilience Reg.RS_IMAGE_BYTES ≤ 4096) ||
      rd s pgResilience Reg.RS_IMAGE_BYTES % 64 != 0 || mcArg c 1 % 8 != 0) = false := by
    simp [hslot, hwhole, hdst, Nat.not_le.mpr hleast]
  have hheld' : (!heldHere s (mcArg c 0) (rd s pgResilience Reg.RS_IMAGE_BYTES) || isSet s pgResilience Reg.RS_DIGEST_GO ||
      decide (rd s pgResilience Reg.RS_IMAGE_BYTES < 256)) = false := by
    rw [hheld, isSet_eq_false hidle, decide_eq_false (by omega)]
    rfl
  unfold Reads signRound
  rw [runM_bind_ok (runM_get s)]
  dsimp only
  rw [runM_bind_ok (runM_refuseIf_false _ hheld' s), runM_bind_ok hread, runM_bind_ok (runM_refuseIf_false _ hclean u),
    runM_bind_ok (runM_refuseIf_false _ (by rw [hcomplete]; rfl) u),
    runM_bind_ok (runM_refuseIf_false _ (decide_eq_false (Nat.not_lt.mpr hroom)) u),
    runM_bind_ok (runM_refuseIf_false _ hsizes u), runM_bind_ok (runM_refuseIf_false _ hserves u), runM_bind_ok hdigests]
  dsimp only
  have hsigned := roundStatement_reads hwrite hkey hserve hreturn
  subst hw
  cases poison with
  | true => exact (runM_bind_ok (runM_modify _ v)).trans hsigned
  | false => exact hsigned

/-! ### The end of a long command (R881) -/

/-- What the end of a command answers. -/
def longEnded (code n : Nat) (s : State) : State :=
  raiseBit pgLockkeeper 9 (mbEnd code (if code = 0 then n else 0) [] (noteTrust code s))

theorem longDone_works {code : Nat} (hdone : s.rc.mbDone = some (code, n)) (hhead : s.rc.mbHead = [])
    (hopen : lockState s pgLockkeeper = 0) (hreset : (s.rc.resets.any fun x => x.kind == 8) = false)
    (hdigest : accepted s digestWho = true) (hlk : accepted s lkWho = true) : Works longDone s (longEnded code n s) := by
  have hfinish : finishImage code s = (code, s) := if_pos (.inr hhead)
  unfold Works longDone
  rw [runM_bind_ok (runM_get s), hdone]
  dsimp only
  rw [runM_bind_ok (runM_waitFor_true (by rw [hopen, hreset]; rfl) s), runM_bind_ok (runM_codeOf (runM_acknowledged hdigest)),
    runM_bind_ok (runM_codeOf (runM_acknowledged hlk)), runM_modify]
  have hcode : (if code ≠ 0 then code else if (0 : Nat) ≠ 0 then 0 else 0) = code := by
    by_cases h : code = 0
    · simp [h]
    · simp [h]
  rw [hcode, hfinish]
  rfl

theorem rc_mbEnd (code len : Nat) (data : List Byte) (s : State) : (mbEnd code len data s).rc.mbDone = none ∧
    (mbEnd code len data s).rc.mailbox = [] := by
  unfold mbEnd
  extract_lets r u v
  have hv : v.rc.mbDone = none ∧ v.rc.mailbox = [] := ⟨rfl, rfl⟩
  split
  · rw [mbRefuse, wr_rc, wr_rc]
    exact hv
  · rw [wr_rc]
    exact hv

theorem rc_longEnded (code n : Nat) (s : State) : (longEnded code n s).rc.mbDone = none ∧ (longEnded code n s).rc.mailbox = [] := by
  unfold longEnded
  rw [(keeps_raiseBit .rfl (.refl _)).rc.resolve_left (by decide)]
  exact rc_mbEnd ..

end

/-- Settles O21: each command by the lemma about its work, and the end of a long one. -/
theorem mailboxCommands : Obligations.mailbox_commands := by
  rintro s _ hp rfl
  have hwork : ∀ {c : Instr} {op : Nat} {m : List Byte → M Nat} {u : State}, exec c s = whileOn s (mbWork op m s) →
      mbWork op m s = u → exec c s = .next u := fun {c op m u} e h => exec_on hp (e.trans (congrArg (whileOn s) h))
  refine ⟨fun h => exec_on hp (congrArg (whileOn s) (if_pos h)), fun h => exec_on hp (congrArg (whileOn s) (if_pos h)),
    ?_, ?_, fun hruns => ⟨fun x t hx h => ?_, fun hx => ?_⟩, fun b t hruns h => ?_, fun b t hruns h => ⟨?_, ?_⟩, ?_,
    fun h => exec_on hp (congrArg (whileOn s) (if_pos h)), ?_, fun tag => exec_on hp rfl, fun tag => exec_on hp rfl⟩
  · rintro _ t hruns rfl
    refine ⟨fun hsign h => hwork rfl (mbWork_works hruns (readLifeLog_plain hsign h)),
      fun hsign h => hwork rfl (mbWork_refused hruns (readLifeLog_refused hsign h)), ?_⟩
    intro key g hsign hkey hserve hg hroom h
    exact hwork rfl (mbWork_works hruns (readLifeLog_signed hsign hkey hserve hg hroom h))
  · intro d t hruns hd
    refine ⟨fun hsome h => hwork rfl (mbWork_works hruns (readDumpSummary_reads hd hsome h)), fun hnone => ?_⟩
    exact hwork rfl (mbWork_refused hruns (readDumpSummary_refused (hd ▸ hnone)))
  · exact hwork rfl (mbWork_works hruns (readDump_reads hx h))
  · exact hwork rfl (mbWork_refused hruns (readDump_refused hx))
  · exact hwork rfl (mbWork_works hruns (writeImage_reads h))
  · rintro ⟨hvalid, hnewer⟩
    refine hwork rfl (mbWork_works hruns (writeConfig_taken h ?_))
    simpa [configStale, hvalid] using hnewer
  · intro hstale
    refine hwork rfl (mbWork_refused hruns (writeConfig_refused h ?_))
    simpa [configStale] using hstale
  · rintro _ r b u ds poison v w x key g t hruns rfl hheld hidle hleast hwhole hslot hdst hroom hread hclean hb hcomplete
      hserves hdigests hw hwrite hkey hserve hg hreturn
    exact hwork rfl (mbWork_works hruns (signRound_reads ⟨hheld, hidle, hleast, hwhole, hslot, hdst, hroom, hserves⟩ hread
      hclean hb hcomplete hdigests hw hwrite hkey hserve hg hreturn))
  · intro code n hdone hhead hopen hreset hdigest hlk
    obtain ⟨hnone, hempty⟩ := rc_longEnded code n s
    refine ⟨_, exec_on hp rfl, attempt_works (longDone_works hdone hhead hopen hreset hdigest hlk), ?_⟩
    rw [attempt_works (longDone_works hdone hhead hopen hreset hdigest hlk)]
    exact ⟨hnone, hempty, (rd_after ..).symm ▸ bitOf_status_raiseBit (by decide) ..⟩

end Sys2Proof.Machine
end

section
/-! PROOFS. The pumps: submissions, COPY, CONVERT, STREAM, and how a descriptor completes (R601 to R614). -/

namespace Sys2Proof.Machine

section
variable {s t u v : State} {p k : Nat} {y : Xfer}

/-! ### Submission (R601) -/

section
variable {n off : Nat} {data : List Byte} (hn : n < 32) (hw : writable s (pgPump (256 + n)) = true)
  (hopen : lockState s (pgPump (256 + n)) = 0)
include hn hw hopen

theorem pmSubmit_malformed (h : off ≠ 0 ∨ data.length ≠ 16) : pmSubmit n off data s =
    logErr (pgPump (256 + n)) 0x01A5 0 (bump (pgPump (256 + n)) Reg.PM_REFUSED 1 s) := by
  unfold pmSubmit
  dsimp only
  rw [if_neg (by simp [hw, hopen, hn]), if_pos h]

theorem pmSubmit_wellFormed (hoff : off = 0) (hlen : data.length = 16) : pmSubmit n off data s =
    if 16 ≤ (getPump s (256 + n)).queue.length then s else showPump (256 + n) (setPump (256 + n) { getPump s (256 + n) with
      queue := (getPump s (256 + n)).queue ++ [(fld data 0 8, fld data 8 8)] } s) := by
  unfold pmSubmit
  dsimp only
  rw [if_neg (by simp [hw, hopen, hn]), if_neg (by simp [hoff, hlen])]

end

theorem getPump_showPump_setPump (p : Nat) (x : Pump) (s : State) : getPump (showPump p (setPump p x s)) p = x := by
  rw [getPump, showPump_pumps]
  exact look_put_self ..

/-! ### A hub pump takes its oldest submission (R601, R603) -/

/-- The work of the command of kind `kind`. -/
def pumpWork (p k : Nat) (y : Xfer) : Nat → M Unit
  | 2 => runConvert p k y
  | 3 => startStream p k y
  | _ => runCopy p k y

/-- A slot that holds a descriptor takes no submission. -/
theorem pumpStart_slot (hslot : slotOf s p k = some y) (kind : Nat) : pumpStart p k kind s =
    if !startable y kind ∨ (p < 256 ∧ (y.kind = 4 ∨ y.kind = 5)) then s
    else attempt (slotWho p k) (pumpWork p k y kind) s := by
  unfold pumpStart
  dsimp only
  rw [if_neg (by simp [hslot]), hslot]
  rfl

/-- The descriptor of a submission as it enters its slot. -/
def taken (a record : Nat) (d : List PByte) (s : State) : Xfer where
  desc := d.map Prod.fst
  addr := a
  record := record
  slot := committed s % 3
  pass := rd s pgGeneration Reg.GEN_STEP

section
variable {a record kind : Nat} {rest : List (Nat × Nat)} {d : List PByte} (hk : k < 8) (hfree : slotOf s p k = none)
  (hopen : lockState s (pgPump p) = 0) (hqueue : (getPump s p).queue = (a, record) :: rest) (halign : a % 128 = 0)
  (hread : Reads (busRead (slotWho p k) a 128) s d u)
include hk hfree hopen hqueue halign hread

theorem takeSubmission_works
    (hkind : (if fld (d.map Prod.fst) 0 1 = 2 ∨ fld (d.map Prod.fst) 0 1 = 3 then fld (d.map Prod.fst) 0 1 == kind
      else kind == 1) = true) : Works (takeSubmission p k kind) s
        (putSlot p k (taken a record d u) (setPump p { getPump u p with queue := rest } u)) := by
  have hready : (decide (k < 8) && (slotOf s p k).isNone && decide (lockState s (pgPump p) = 0)) = true := by
    simp [hk, hfree, hopen]
  unfold Works takeSubmission
  rw [runM_bind_ok (runM_get s)]
  dsimp only
  rw [hqueue]
  dsimp only
  rw [runM_bind_ok (runM_waitFor_true hready s), if_neg (not_not.mpr halign), runM_bind_ok (runM_catchCode_ok hread)]
  dsimp only
  rw [runM_bind_ok (runM_pure _ u), runM_bind_ok (runM_waitFor_true hkind u)]
  rfl

/-- With its descriptor in the slot, the pump goes on as with any other. -/
theorem pumpStart_takes (hp : 256 ≤ p) (hp' : p < 288)
    (hv : v = after (slotWho p k) (putSlot p k (taken a record d u) (setPump p { getPump u p with queue := rest } u)))
    (hkind : (if fld (d.map Prod.fst) 0 1 = 2 ∨ fld (d.map Prod.fst) 0 1 = 3 then fld (d.map Prod.fst) 0 1 == kind
      else kind == 1) = true) : pumpStart p k kind s = pumpStart p k kind v := by
  have htake : attempt (slotWho p k) (takeSubmission p k kind) s = v := by
    rw [hv, attempt_works (takeSubmission_works hk hfree hopen hqueue halign hread hkind)]
  have hslot : slotOf v p k = some (taken a record d u) := by
    rw [hv, slotOf_after, slotOf_putSlot_self]
  rw [pumpStart_slot hslot, pumpStart, if_pos ⟨hp, hp', by simp [hfree]⟩, htake, hslot]
  rfl

end

/-! ### COPY, CONVERT and STREAM (R605 to R608, R610) -/

theorem pumpStart_runs {kind : Nat} (hslot : slotOf s p k = some y)
    (hpump : 256 ≤ p ∨ (y.kind ≠ 4 ∧ y.kind ≠ 5)) (hstart : startable y kind = true)
    (hworks : Works (pumpWork p k y kind) s t) : pumpStart p k kind s = after (slotWho p k) t := by
  have hruns : ¬ ((!startable y kind) = true ∨ (p < 256 ∧ (y.kind = 4 ∨ y.kind = 5))) := by
    rw [hstart]
    rintro (h | ⟨hp, h⟩)
    · cases h
    · omega
  rw [pumpStart_slot hslot, if_neg hruns, attempt_works hworks]

/-- A command's kind is that of the descriptor that it starts. -/
theorem kind_of_startable {kind : Nat} (h : startable y kind = true) :
    (kind = 1 → y.kind ≠ 2 ∧ y.kind ≠ 3) ∧ (kind ≠ 1 → y.kind = kind) := by
  unfold startable at h
  simp only [Bool.and_eq_true] at h
  obtain ⟨-, hkind⟩ := h
  split at hkind
  next hq =>
    have hkind := beq_iff_eq.mp hkind
    exact ⟨fun h1 => by omega, fun _ => hkind⟩
  next hq =>
    have hkind := beq_iff_eq.mp hkind
    exact ⟨fun _ => not_or.mp hq, fun h1 => absurd hkind h1⟩

section
variable {c : Nat}

theorem runCopy_refused (h : (y.check s).or (y.windowCode s y.reads y.writes) = some c) :
    Works (runCopy p k y) s (putSlot p k (y.ended c) s) := by
  unfold Works runCopy
  rw [runM_bind_ok (runM_get s), h]
  exact endXfer_works ..

theorem runConvert_refused (h : y.check s = some c) : Works (runConvert p k y) s (putSlot p k (y.ended c) s) := by
  unfold Works runConvert
  rw [runM_bind_ok (runM_get s), h]
  exact endXfer_works ..

theorem startStream_refused (h : (y.check s).or (y.windowCode s y.reads y.writes) = some c) :
    Works (startStream p k y) s (putSlot p k (y.ended c) s) := by
  unfold Works startStream
  rw [runM_bind_ok (runM_get s), h]
  exact endXfer_works ..

end

section
variable (hcheck : y.check s = none) (hwin : y.windowCode s y.reads y.writes = none)
include hcheck hwin

theorem runCopy_copies {n c : Nat} (hrows : Reads (copyRows p k y (List.range y.rows)) s (n, c) u) :
    Works (runCopy p k y) s (putSlot p k (({ y with bytes := n } : Xfer).ended c) u) := by
  unfold Works runCopy
  rw [runM_bind_ok (runM_get s), hcheck, hwin]
  refine (runM_bind_ok hrows).trans ?_
  exact endXfer_works ..

theorem runConvert_converts {cs cd n c : Nat} {st : Stats} {u₁ u₂ : State}
    (hsrc : Reads (readCoarse (slotWho p k) y.srcFmt (fld y.desc 0x30 8) y.slot) s cs u₁)
    (hdst : Reads (readCoarse (slotWho p k) y.dstFmt (fld y.desc 0x38 8) y.slot) u₁ cd u₂)
    (hrows : Reads (convertRows p k y cs cd (draws s 6 (fld y.desc 2 2) y.sample y.pass) (List.range y.rows)) u₂
      (n, c, st) u) :
    Works (runConvert p k y) s (putSlot p k (({ y with bytes := n, adds := xferStats p y st } : Xfer).ended c) u) := by
  have hscales : Reads (do
      let cs ← readCoarse (slotWho p k) y.srcFmt (fld y.desc 0x30 8) y.slot
      let cd ← readCoarse (slotWho p k) y.dstFmt (fld y.desc 0x38 8) y.slot
      refuseSome (y.windowCode s y.reads y.writes)
      pure (cs, cd)) s (cs, cd) u₂ := by
    unfold Reads
    rw [runM_bind_ok hsrc, runM_bind_ok hdst, runM_bind_ok (runM_refuseSome_none hwin u₂)]
    rfl
  unfold Works runConvert
  rw [runM_bind_ok (runM_get s)]
  dsimp only
  rw [hcheck]
  dsimp only
  refine (runM_bind_ok (runM_catchCode_ok hscales)).trans ?_
  refine (runM_bind_ok hrows).trans ?_
  exact endXfer_works ..

theorem startStream_starts {a b : List PByte} {u₁ : State}
    (htail : Reads (xferRead (slotWho p k) y (fld y.desc 0x48 8) 4) s a u₁)
    (hhead : Reads (xferRead (slotWho p k) y (fld y.desc 0x38 8) 4) u₁ b u) :
    Works (startStream p k y) s (putSlot p k { y with
      started := true, taken := leNat (a.map Prod.fst), delivered := leNat (b.map Prod.fst)
      srcTail := leNat (a.map Prod.fst), dstHead := leNat (b.map Prod.fst) } u) := by
  have hcounts : Reads (do
      let a ← xferRead (slotWho p k) y (fld y.desc 0x48 8) 4
      let b ← xferRead (slotWho p k) y (fld y.desc 0x38 8) 4
      pure (leNat (a.map Prod.fst), leNat (b.map Prod.fst))) s (leNat (a.map Prod.fst), leNat (b.map Prod.fst)) u := by
    unfold Reads
    rw [runM_bind_ok htail, runM_bind_ok hhead]
    rfl
  unfold Works startStream
  rw [runM_bind_ok (runM_get s), hcheck, hwin]
  exact runM_bind_ok (runM_catchCode_ok hcounts)

end

/-! ### A running stream (R610 to R614) -/

/-- The stream in slot `k` of pump `p` runs. -/
structure Streaming (s : State) (p k : Nat) (y : Xfer) : Prop where
  slot : slotOf s p k = some y
  started : y.started = true
  running : y.finished = false
  kind : y.kind = 3

theorem Streaming.runningStream_reads (h : Streaming s p k y) (u : State) : Reads (runningStream s p k) u y u := by
  obtain ⟨hslot, hstarted, hrunning, hkind⟩ := h
  unfold Reads runningStream
  rw [hslot]
  dsimp only
  rw [runM_bind_ok (runM_waitFor_true (by simp [hstarted, hrunning, hkind]) u)]
  rfl

/-- The slack of a stream's requests stands in the bus while it works on a record. -/
def withSlack (n : Nat) (s : State) : State := { s with bus := { s.bus with slack := n } }

theorem streamWork_works {m : M Xfer} {z : Xfer} (h : Reads m (withSlack (y.slackNs + 1) s) z u) :
    Works (streamWork p k m y) s (putSlot p k z (withSlack 0 u)) := by
  unfold Works streamWork
  rw [runM_bind_ok (runM_modify _ s)]
  refine (runM_bind_ok (runM_catchCode_ok h)).trans ?_
  rw [runM_bind_ok (runM_modify _ u)]
  rfl

theorem streamWork_failed {m : M Xfer} {c : Nat} (h : runM m (withSlack (y.slackNs + 1) s) = (.error (.code c), u)) :
    Works (streamWork p k m y) s (putSlot p k (y.ended c) (withSlack 0 u)) := by
  unfold Works streamWork
  rw [runM_bind_ok (runM_modify _ s)]
  refine (runM_bind_ok (runM_catchCode_code h)).trans ?_
  rw [runM_bind_ok (runM_modify _ u)]
  exact endXfer_works ..

section
variable (hs : Streaming s p k y)
include hs

theorem Streaming.streamCopy_works {b : List PByte} {n : Nat} (hfresh : y.copied = false)
    (hsource : sub32 y.srcTail y.taken ≠ 0) (hroom : y.fill < fld y.desc 0x24 4)
    (hread : Reads (xferRead (slotWho p k) y (fld y.desc 0x10 8 + y.taken % fld y.desc 0x20 4 * y.size) y.size)
      (withSlack (y.slackNs + 1) s) b u)
    (hwrite : Reads (xferWrite p (slotWho p k) (fld y.desc 0x18 8 + y.delivered % fld y.desc 0x24 4 * y.size) b) u n v) :
    Works (streamCopy p k) s (putSlot p k { y with copied := true, bytes := y.bytes + n } (withSlack 0 v)) := by
  have hready : (!y.copied && sub32 y.srcTail y.taken != 0 && decide (y.fill < fld y.desc 0x24 4)) = true := by
    simp [hfresh, hsource, hroom]
  unfold Works streamCopy
  rw [runM_bind_ok (runM_get s), runM_bind_ok (hs.runningStream_reads s)]
  dsimp only
  rw [runM_bind_ok (runM_waitFor_true hready s)]
  refine streamWork_works ?_
  unfold Reads
  rw [runM_bind_ok hread, runM_bind_ok hwrite]
  rfl

/-- A record that has been copied is not copied again. -/
theorem Streaming.streamCopy_waits (hcopied : y.copied = true) :
    attempt (slotWho p k) (streamCopy p k) s = after (slotWho p k) s := by
  refine attempt_hold (t := s) ?_
  unfold streamCopy
  rw [runM_bind_ok (runM_get s), runM_bind_ok (hs.runningStream_reads s)]
  exact runM_bind_error (runM_waitFor_false (by simp [hcopied]) s)

section
variable (hcopied : y.copied = true)
include hcopied

theorem Streaming.runM_streamCounts : runM (streamCounts p k) s = runM (streamWork p k (do
    acknowledged (slotWho p k)
    busWriteNat (slotWho p k) (fld y.desc 0x38 8) 4 ((y.delivered + 1) % 2 ^ 32)
    busWriteNat (slotWho p k) (fld y.desc 0x48 8) 4 ((y.taken + 1) % 2 ^ 32)
    pure y.nextRecord) y) s := by
  unfold streamCounts
  rw [runM_bind_ok (runM_get s), runM_bind_ok (hs.runningStream_reads s), runM_bind_ok (runM_waitFor_true hcopied s)]

theorem Streaming.streamCounts_works (hacc : accepted s (slotWho p k) = true)
    (hhead : Reads (busWriteNat (slotWho p k) (fld y.desc 0x38 8) 4 ((y.delivered + 1) % 2 ^ 32))
      (withSlack (y.slackNs + 1) s) () u)
    (htail : Reads (busWriteNat (slotWho p k) (fld y.desc 0x48 8) 4 ((y.taken + 1) % 2 ^ 32)) u () v) :
    Works (streamCounts p k) s (putSlot p k y.nextRecord (withSlack 0 v)) := by
  have hacc' : accepted (withSlack (y.slackNs + 1) s) (slotWho p k) = true := hacc
  unfold Works
  rw [hs.runM_streamCounts hcopied]
  refine streamWork_works ?_
  unfold Reads
  rw [runM_bind_ok (runM_acknowledged hacc'), runM_bind_ok hhead, runM_bind_ok htail]
  rfl

theorem Streaming.streamCounts_failed (hans : answered s (slotWho p k) = true) (hcode : writeCode s (slotWho p k) ≠ 0) :
    Works (streamCounts p k) s (putSlot p k (y.ended (writeCode s (slotWho p k)))
      (withSlack 0 (forgetErrors (slotWho p k) (withSlack (y.slackNs + 1) s)))) := by
  have hans' : answered (withSlack (y.slackNs + 1) s) (slotWho p k) = true := hans
  unfold Works
  rw [hs.runM_streamCounts hcopied]
  exact streamWork_failed (runM_bind_error (runM_acknowledged_failed hans' hcode))

end

/-- The stream with the words that a poll reads. -/
def Xfer.polled (y : Xfer) (tail head stop : Nat) : Xfer :=
  { y with srcTail := tail, dstHead := head, stopped := y.stopped || stop != 0 }

section
variable {tl hd z : Nat} {u₁ u₂ : State} (htail : Reads (streamWord (slotWho p k) y 0x28) s tl u₁)
  (hhead : Reads (streamWord (slotWho p k) y 0x30) u₁ hd u₂)
  (hstop : Reads (if fld y.desc 0x50 8 = 0 then pure 0 else streamWord (slotWho p k) y 0x50) u₂ z u)
include htail hhead hstop

theorem Streaming.runM_streamPoll : runM (streamPoll p k) s = runM (if (y.polled tl hd z).streamDone then
    endXfer p k (y.polled tl hd z) 0 else modify fun s =>
      putSlot p k (dryPeriod p (y.polled tl hd z) s).1 (dryPeriod p (y.polled tl hd z) s).2) u := by
  have hwords : Reads (do
      let t ← streamWord (slotWho p k) y 0x28
      let h ← streamWord (slotWho p k) y 0x30
      let z ← (if fld y.desc 0x50 8 = 0 then pure 0 else streamWord (slotWho p k) y 0x50)
      pure (y.polled t h z)) s (y.polled tl hd z) u := by
    unfold Reads
    rw [runM_bind_ok htail, runM_bind_ok hhead]
    exact runM_bind_ok hstop
  unfold streamPoll
  rw [runM_bind_ok (runM_get s), runM_bind_ok (hs.runningStream_reads s)]
  exact runM_bind_ok (runM_catchCode_ok hwords)

theorem Streaming.streamPoll_ends (hdone : (y.polled tl hd z).streamDone = true) :
    Works (streamPoll p k) s (putSlot p k ((y.polled tl hd z).ended 0) u) := by
  unfold Works
  rw [hs.runM_streamPoll htail hhead hstop, if_pos hdone]
  exact endXfer_works ..

theorem Streaming.streamPoll_goesOn (hdone : (y.polled tl hd z).streamDone = false) : Works (streamPoll p k) s
    (putSlot p k (dryPeriod p (y.polled tl hd z) u).1 (dryPeriod p (y.polled tl hd z) u).2) := by
  unfold Works
  rw [hs.runM_streamPoll htail hhead hstop, if_neg (by simp [hdone])]
  rfl

end

end

/-! ### Completion (R603, R609) -/

/-- No counts are left to offer. -/
theorem finishSlot_eq (hslot : slotOf s p k = some y) (hadds : y.adds = []) :
    finishSlot p k s = attempt (slotWho p k) (descComplete p k) s := by
  have hnone : slotAdds p k s = [] := by
    simp [slotAdds, hslot, hadds]
  unfold finishSlot offerLeft
  rw [hnone]

theorem recordXfer_none (h : y.tile.isSome = true ∨ y.record = 0) (s : State) : Works (recordXfer p k y) s s := by
  unfold Works recordXfer
  rw [if_neg (by rcases h with h | h <;> simp [Option.isSome_iff_ne_none.mp, h])]
  rfl

theorem stopsOnly_recordXfer (p k : Nat) (y : Xfer) : StopsOnly (fun _ => False) (recordXfer p k y) :=
  .m_ite (.m_bind (stopsOnly_codeOf (.m_bind (stopsOnly_busWrite _ _ _) fun _ => stopsOnly_busWrite _ _ _)) fun _ => .m_pure _)
    (.m_pure _)

theorem reportXfer_works (p k : Nat) (y : Xfer) (s : State) :
    Works (reportXfer p k y) s (leaves (recordXfer p k y) (freeXfer p k y s)) := by
  unfold Works reportXfer
  rw [runM_bind_ok (runM_modify _ s)]
  exact (stopsOnly_recordXfer p k y).works _

theorem leaves_recordXfer_none (h : y.tile.isSome = true ∨ y.record = 0) (s : State) : leaves (recordXfer p k y) s = s := by
  rw [leaves, recordXfer_none h s]

theorem pumps_showSlots (p : Nat) (s : State) : (showSlots p s).pumps = s.pumps :=
  (keeps_showSlots .rfl (.refl s)).pumps.resolve_left (by decide)

/-- The slot is free. -/
theorem slotOf_freeXfer (p k : Nat) (y : Xfer) (s : State) : slotOf (freeXfer p k y s) p k = none := by
  unfold freeXfer
  extract_lets x x₁ x₂ t
  have hslots : x₂.slots = x.slots.filter fun e => e.1 != k := by
    unfold x₂
    split
    · rfl
    · rfl
  have hpump : getPump (showSlots p (bump (pgPump p) Reg.PM_DESCS 1 (setPump p x₂ t))) p = x₂ := by
    rw [getPump, pumps_showSlots]
    exact look_put_self ..
  have hnone : x₂.slots.find? (fun e => e.1 == k) = none := by
    rw [hslots, List.find?_eq_none]
    intro e he
    have hne := (List.mem_filter.mp he).2
    simpa using hne
  rw [slotOf, hpump, hnone]
  rfl

theorem slotOf_recordXfer (p k : Nat) (y : Xfer) (s : State) :
    slotOf (leaves (recordXfer p k y) s) p k = slotOf s p k := by
  have hpumps : (leaves (recordXfer p k y) s).pumps = s.pumps :=
    (keeps_recordXfer (m₀ := 1543505791) .rfl (.refl s)).pumps.resolve_left (by decide)
  simp only [slotOf, getPump, hpumps]

/-- The two requesters of a slot differ. -/
theorem slotWho_ne_signalWho (p k : Nat) : slotWho p k ≠ signalWho p k := by
  intro h
  have hsub : k + 1 = 0x1000 + k := congrArg Who.sub h
  omega

/-- Forgetting the failures of one requester leaves the code of another. -/
theorem writeCode_forgetErrors {w w' : Who} (h : w' ≠ w) (s : State) : writeCode (forgetErrors w s) w' = writeCode s w' := by
  unfold writeCode forgetErrors
  split
  · have hkept : ∀ e : WriteErr, decide ((e.who != w) = true ∧ (e.who == w') = true) = (e.who == w') := fun e => by
      by_cases he : e.who = w'
      · simp [he, h]
      · simp [he]
    simp only [List.find?_filter, hkept]
  · rfl

section
variable (hslot : slotOf s p k = some y) (hdone : y.finished = true) (hadds : y.adds = [])
  (hsig : answered s (signalWho p k) = true)
include hslot hdone hadds hsig

theorem descComplete_signaled (hsignaled : y.signaled = true) : Works (descComplete p k) s
    (leaves (recordXfer p k y) (freeXfer p k y (forgetErrors (signalWho p k) s))) := by
  unfold Works descComplete
  rw [runM_bind_ok (runM_get s), hslot]
  dsimp only
  rw [runM_bind_ok (runM_waitFor_true (by simp [hdone, hadds]) s), if_pos hsignaled,
    runM_bind_ok (codeOf_acknowledged hsig)]
  exact reportXfer_works ..

/-- The descriptor with the code that it completes with. -/
def Xfer.coded (y : Xfer) (s : State) (p k : Nat) : Xfer :=
  { y with code := y.lastCode (writeCode s (slotWho p k)) (writeCode s (signalWho p k)) }

section
variable (hunsignaled : y.signaled = false) (hans : answered s (slotWho p k) = true)
include hunsignaled hans

theorem runM_descComplete : runM (descComplete p k) s =
    runM (if (y.coded s p k).code = 0 ∧ y.kind < 4 ∧ fld y.desc 0x60 8 ≠ 0 then do
        busAdd (signalWho p k) (fld y.desc 0x60 8) (fld y.desc 0x68 4)
        modify (putSlot p k { y.coded s p k with signaled := true })
      else reportXfer p k (y.coded s p k)) (forgetErrors (signalWho p k) (forgetErrors (slotWho p k) s)) := by
  unfold descComplete
  rw [runM_bind_ok (runM_get s), hslot]
  dsimp only
  rw [runM_bind_ok (runM_waitFor_true (by simp [hdone, hadds]) s), if_neg (by simp [hunsignaled]),
    runM_bind_ok (codeOf_acknowledged hans), runM_bind_ok (codeOf_acknowledged ((answered_forgetErrors _ s).trans hsig)),
    writeCode_forgetErrors (slotWho_ne_signalWho p k).symm]
  rfl

theorem descComplete_signals (h : (y.coded s p k).code = 0 ∧ y.kind < 4 ∧ fld y.desc 0x60 8 ≠ 0) :
    Works (descComplete p k) s (putSlot p k { y.coded s p k with signaled := true }
      (pushAdd (signalWho p k) (fld y.desc 0x60 8) (fld y.desc 0x68 4) none
        (forgetErrors (signalWho p k) (forgetErrors (slotWho p k) s)))) := by
  unfold Works
  rw [runM_descComplete hslot hdone hadds hsig hunsignaled hans, if_pos h]
  rfl

theorem descComplete_reports (h : ¬ ((y.coded s p k).code = 0 ∧ y.kind < 4 ∧ fld y.desc 0x60 8 ≠ 0)) :
    Works (descComplete p k) s (leaves (recordXfer p k (y.coded s p k)) (freeXfer p k (y.coded s p k)
      (forgetErrors (signalWho p k) (forgetErrors (slotWho p k) s)))) := by
  unfold Works
  rw [runM_descComplete hslot hdone hadds hsig hunsignaled hans, if_neg h]
  exact reportXfer_works ..

end

end

/-! ### The supply -/

@[simp] theorem after_powered (w : Who) (t : State) : (after w t).powered = t.powered := rfl

@[simp] theorem putSlot_powered (x : Xfer) (t : State) : (putSlot p k x t).powered = t.powered :=
  (keeps_putSlot .rfl (.refl t)).powered.resolve_left (by decide)

end

/-- Settles O43: the submission, the three kinds of descriptor, the running stream and the completion, each by the lemma
about its work. -/
theorem pumpDescriptors : Obligations.pump_descriptors := by
  intro s hp
  refine ⟨fun n off data hn hw hopen => ⟨fun hoff hlen hroom => ?_, fun hoff hlen hfull => ?_, fun h => ?_⟩, ?_⟩
  · refine ⟨_, exec_on hp (congrArg (whileOn s) ((pmSubmit_wellFormed hn hw hopen hoff hlen).trans
      (if_neg (Nat.not_le.mpr hroom)))), ?_⟩
    rw [getPump_showPump_setPump]
  · exact exec_on hp (congrArg (whileOn s) ((pmSubmit_wellFormed hn hw hopen hoff hlen).trans (if_pos hfull)))
  · exact exec_on hp (congrArg (whileOn s) (pmSubmit_malformed hn hw hopen h))
  rintro p k _ rfl
  refine ⟨?takes, ?starts, ?streams, ?completes⟩
  case takes =>
    intro a record rest d u v hp256 hp288 hk hfree hopen hqueue halign hread hv
    have hpv : v.powered = true := by
      rw [hv, after_powered, putSlot_powered, setPump_powered]
      exact ((Keeps.of_pair hread (keeps_busRead .rfl (.refl s))).powered.resolve_left (by decide)).trans hp
    have htake : ∀ kind, (if fld (d.map Prod.fst) 0 1 = 2 ∨ fld (d.map Prod.fst) 0 1 = 3 then fld (d.map Prod.fst) 0 1 == kind
        else kind == 1) = true → pumpStart p k kind s = pumpStart p k kind v := fun kind =>
      pumpStart_takes hk hfree hopen hqueue halign hread hp256 hp288 hv
    refine ⟨fun hq => ?_, fun hq => ?_, fun h2 h3 => ?_⟩
    · exact (exec_on hp rfl).trans ((congrArg _ (htake 2 (by simp [hq]))).trans (exec_on hpv rfl).symm)
    · exact (exec_on hp rfl).trans ((congrArg _ (htake 3 (by simp [hq]))).trans (exec_on hpv rfl).symm)
    · exact (exec_on hp rfl).trans ((congrArg _ (htake 1 (by simp [h2, h3]))).trans (exec_on hpv rfl).symm)
  case starts =>
    intro y hslot hpump
    have hrun : ∀ {c : Instr} {kind : Nat} {t : State}, exec c s = whileOn s (pumpStart p k kind s) →
        startable y kind = true → Works (pumpWork p k y kind) s t → exec c s = .next (after (slotWho p k) t) :=
      fun e hstart hworks => exec_on hp (e.trans (congrArg (whileOn s) (pumpStart_runs hslot hpump hstart hworks)))
    refine ⟨?_, fun hcheck => ⟨fun n c u hstart hwin hrows => ?_, ?_, fun a b u₁ u hstart hwin htail hhead => ?_⟩⟩
    · rintro c _ hcode rfl
      refine ⟨fun hstart => ?_, fun hstart => ?_, fun hstart => ?_⟩
      · rw [if_neg ((kind_of_startable hstart).1 rfl).1] at hcode
        exact hrun rfl hstart (runCopy_refused hcode)
      · rw [if_pos ((kind_of_startable hstart).2 (by decide)), Option.or_none] at hcode
        exact hrun rfl hstart (runConvert_refused hcode)
      · rw [if_neg (by rw [(kind_of_startable hstart).2 (by decide)]; decide)] at hcode
        exact hrun rfl hstart (startStream_refused hcode)
    · have hcopies := hrun (c := .pumpCopy p k) rfl hstart (runCopy_copies hcheck hwin hrows)
      exact hcopies
    · intro cs cd n c st u₁ u₂ u hstart hwin hsrc hdst hrows
      have hconverts := hrun (c := .pumpConvert p k) rfl hstart (runConvert_converts hcheck hwin hsrc hdst hrows)
      exact hconverts
    · have hstarts := hrun (c := .pumpStream p k) rfl hstart (startStream_starts hcheck hwin htail hhead)
      exact hstarts
  case streams =>
    intro y hslot hstarted hrunning hkind
    have hs : Streaming s p k y := ⟨hslot, hstarted, hrunning, hkind⟩
    refine ⟨fun b n u v hfresh hsource hroom hread hwrite => ?_, ?_, ?_⟩
    · exact exec_on hp (congrArg (whileOn s) (congrArg (attempt _ _)
        (attempt_works (hs.streamCopy_works hfresh hsource hroom hread hwrite))))
    · rintro _ u v hcopied rfl
      have hx : Streaming (after (slotWho p k) s) p k y := ⟨hslot, hstarted, hrunning, hkind⟩
      have hfront : ∀ {t}, Works (streamCounts p k) (after (slotWho p k) s) t →
          exec (.streamRecord p k) s = .next (after (slotWho p k) t) := fun hworks => by
        refine exec_on hp (congrArg (whileOn s) ?_)
        rw [recordFront, hs.streamCopy_waits hcopied, attempt_works hworks]
      refine ⟨fun hacc hhead htail => hfront (hx.streamCounts_works hcopied hacc hhead htail), fun hans hcode => ?_⟩
      exact ⟨_, _, hfront (hx.streamCounts_failed hcopied hans hcode), (slotOf_after ..).trans (slotOf_putSlot_self ..), rfl, rfl⟩
    · rintro tl hd z u₁ u₂ u _ htail hhead hstop rfl
      refine ⟨fun hdone => ?_, fun hdone => ?_⟩
      · exact exec_on hp (congrArg (whileOn s) (attempt_works (hs.streamPoll_ends htail hhead hstop hdone)))
      · exact exec_on hp (congrArg (whileOn s) (attempt_works (hs.streamPoll_goesOn htail hhead hstop hdone)))
  case completes =>
    intro y u hslot hdone hadds hsig
    have hrun : ∀ {t}, Works (descComplete p k) s t → exec (.pumpDescComplete p k) s = .next (after (slotWho p k) t) :=
      fun hworks => exec_on hp (congrArg (whileOn s) ((finishSlot_eq hslot hadds).trans (attempt_works hworks)))
    refine ⟨?_, ?_⟩
    · rintro hsignaled rfl hplain
      rw [hrun (descComplete_signaled hslot hdone hadds hsig hsignaled), leaves_recordXfer_none hplain]
    · rintro hunsignaled hans rfl _ rfl
      refine ⟨fun hcode hkind haddr => ?_, fun h hplain => ?_, fun h htile hrecord => ?_⟩
      · exact hrun (descComplete_signals hslot hdone hadds hsig hunsignaled hans ⟨hcode, hkind, haddr⟩)
      · have hno : ¬ ((y.coded s p k).code = 0 ∧ y.kind < 4 ∧ fld y.desc 0x60 8 ≠ 0) := by
          rintro ⟨h1, h2, h3⟩
          rcases h with h | h | h
          exacts [h h1, by omega, h3 h]
        rw [hrun (descComplete_reports hslot hdone hadds hsig hunsignaled hans hno),
          leaves_recordXfer_none (y := y.coded s p k) hplain]
        rfl
      · have hno : ¬ ((y.coded s p k).code = 0 ∧ y.kind < 4 ∧ fld y.desc 0x60 8 ≠ 0) := by
          rintro ⟨h1, h2, h3⟩
          rcases h with h | h | h
          exacts [h h1, by omega, h3 h]
        exact ⟨_, hrun (descComplete_reports hslot hdone hadds hsig hunsignaled hans hno),
          (slotOf_after ..).trans ((slotOf_recordXfer ..).trans (slotOf_freeXfer ..))⟩

end Sys2Proof.Machine
end

section
/-! PROOFS. The Cistern takes submissions and dispatches samples (R560 to R567, R586, R588). -/

namespace Sys2Proof.Machine

section
variable {s t u v : State} {d : List Byte} {x : CiSample}

/-! ### The next entry of the submission ring (R561) -/

/-- The entry at the head is taken by the command of its kind. -/
theorem SubEntry.takeEntry_reads (h : SubEntry s d v) {mine : Nat → Bool} (hkind : mine (fld d 0 1) = true) :
    Reads (takeEntry mine) s d v := by
  obtain ⟨hon, hwaiting, hhead, b, u, hread, rfl, rfl⟩ := h
  have hgate : (ciOn s && s.cist.waiting.isEmpty &&
      rd s pgCistern Reg.CI_SUB_HEAD != rd s pgCistern Reg.CI_SUB_TAIL) = true := by simp [hon, hwaiting, hhead]
  unfold takeEntry
  refine (runM_bind_ok (runM_get s)).trans ?_
  refine (runM_bind_ok (runM_waitFor_true hgate s)).trans ?_
  refine (runM_bind_ok (runM_catchCode_ok hread)).trans ?_
  exact runM_bind_ok (runM_waitFor_true hkind u)

/-- The command of the entry's kind completes as its work on the entry does. -/
theorem SubEntry.ciCommand_takes (h : SubEntry s d v) {mine : Nat → Bool} {f : List Byte → M Unit}
    (hkind : mine (fld d 0 1) = true) (hwork : Works (f d) v t) :
    ciCommand (takeEntry mine >>= f) s = after ciWho (showCistern t) :=
  ciCommand_works ((runM_bind_ok (h.takeEntry_reads hkind)).trans hwork)

/-! ### What writes to the buffers leave of the Cistern -/

@[simp] theorem leaves_ciWrite_cist (a : Nat) (d : List PByte) (s : State) : (leaves (ciWrite a d) s).cist = s.cist :=
  (keeps_ciWrite .rfl (.refl s)).cist.resolve_left (by decide)

theorem copySample_cist {y : CiSample} (h : Reads (copySample x) s y t) : t.cist = s.cist := by
  have hkeeps : Keeps 1543505791 s (runM (copySample x) s).2 := keeps_copySample .rfl (.refl s)
  rw [h] at hkeeps
  exact hkeeps.cist.resolve_left (by decide)

/-- A copy changes nothing of the sample but how it went. -/
theorem copySample_sample {y : CiSample} (h : Reads (copySample x) s y t) : y.num = x.num ∧ y.desc = x.desc := by
  unfold copySample at h
  obtain ⟨_, _, -, h⟩ := h.of_bind
  obtain ⟨c, _, -, h⟩ := h.of_bind
  cases c with
  | error c =>
    obtain ⟨_, _, -, h⟩ := h.of_bind
    obtain ⟨_, _, -, h⟩ := h.of_bind
    cases h
    exact ⟨rfl, rfl⟩
  | ok d =>
    obtain ⟨_, _, -, h⟩ := h.of_bind
    split at h
    · cases h
      exact ⟨rfl, rfl⟩
    · cases h
      exact ⟨rfl, rfl⟩

/-! ### A sample finishes (R583) -/

@[simp] theorem meanTakes_cist (n : Nat) (s : State) : (meanTakes n s).cist = s.cist := rfl

/-- What the counters of the Cistern take from a finished sample. -/
def countSample (x : CiSample) (s : State) : State :=
  let s := bump pgCistern Reg.CI_SAMPLES 1 s
  let s := if x.damaged then bump pgCistern Reg.CI_DAMAGED 1 s else s
  let s := if x.pad then bump pgCistern Reg.CI_PADDED 1 s else s
  match x.last with
  | some t => if x.abandoned then s else meanTakes t s
  | none => s

theorem countSample_cist (x : CiSample) (s : State) : (countSample x s).cist = s.cist := by
  have hdamaged : ∀ t : State, (if x.damaged then bump pgCistern Reg.CI_DAMAGED 1 t else t).cist = t.cist := fun t => by
    split
    · rfl
    · rfl
  have hpad : ∀ t : State, (if x.pad then bump pgCistern Reg.CI_PADDED 1 t else t).cist = t.cist := fun t => by
    split
    · rfl
    · rfl
  unfold countSample
  extract_lets a b c
  have hc : c.cist = s.cist := (hpad b).trans (hdamaged a)
  split
  · split
    · exact hc
    · exact hc
  · exact hc

/-- A sample without frames to fill in finishes: its status word is written, and it counts. -/
theorem finishSample_works (hframes : x.decodes = false) (s : State) :
    ∃ c, c.cist = s.cist ∧ Works (finishSample x) s (putSample { x with finished := true, status := x.word c } c) := by
  refine ⟨countSample x (leaves (ciWrite (statusAt s x.num) (clean (leBytes 8 (x.word s)))) s), ?_, ?_⟩
  · rw [countSample_cist, leaves_ciWrite_cist]
  · unfold finishSample Works
    rw [hframes]
    refine (runM_bind_ok (runM_get s)).trans ?_
    exact runM_bind_ok (ciWrite_works _ _ s)

theorem putSample_cist (x : CiSample) (s : State) : (putSample x s).cist =
    { s.cist with flight := s.cist.flight.map fun y => if y.num = x.num then x else y } := rfl

/-- A sample of the flight that finishes stands in it, finished, and none waits that did not. -/
theorem finishSample_finishes (hframes : x.decodes = false) {y : CiSample} (hmem : y ∈ s.cist.flight)
    (hnum : y.num = x.num) : ∃ t, Works (finishSample x) s t ∧ t.cist.waiting = s.cist.waiting ∧
      ∃ z ∈ t.cist.flight, z.num = x.num ∧ z.finished = true := by
  obtain ⟨c, hcist, hworks⟩ := finishSample_works hframes s
  refine ⟨_, hworks, ?_⟩
  rw [putSample_cist, hcist]
  exact ⟨rfl, _, List.mem_map.mpr ⟨y, hmem, if_pos hnum⟩, rfl, rfl⟩

/-! ### The oldest waiting sample is dispatched (R586, R588) -/

/-- The sample `y` has left the waiting ones, `rest` of which go on waiting, for the flight. -/
def dispatched (y : CiSample) (rest : List CiSample) (s : State) : State :=
  modCist (fun c => { c with waiting := rest, flight := c.flight ++ [y] }) s

theorem dispatched_cist (y : CiSample) (rest : List CiSample) (s : State) :
    (dispatched y rest s).cist = { s.cist with waiting := rest, flight := s.cist.flight ++ [y] } := rfl

theorem dispatched_mem (y : CiSample) (rest : List CiSample) (s : State) : y ∈ (dispatched y rest s).cist.flight := by
  rw [dispatched_cist]
  exact List.mem_append_right _ (List.mem_singleton.mpr rfl)

theorem dispatched_waiting (y : CiSample) (rest : List CiSample) (s : State) : (dispatched y rest s).cist.waiting = rest := by
  rw [dispatched_cist]

/-- What a sample's kind asks for once it stands in the flight; `n` is the decoder that was free. -/
def dispatchWork (n : Option Nat) (x : CiSample) : M Unit := do
  if x.code ≠ 0 || x.pad then
    ciWrite (slotAt (← get) x.num) (zeros (slotBytes (← get)))
    finishSample x
  else if x.kind = 2 then finishSample (← copySample x)
  else if x.kind = 3 then
    examineEach (streamsOf x.desc)
    settleSample false x
  else
    match n with
    | some n => modify fun s => putSample { x with dec := some n } (vdSubmit n 0 (decodeJob x) s)
    | none => throw .hold

variable {rest : List CiSample} {y : CiSample}

theorem runM_ciDispatch (hon : ciOn s = true) (hwaiting : s.cist.waiting = x :: rest) (hcan : canDispatch s x = true)
    (hy : y = { x with budget := budgetOf s x }) :
    runM ciDispatch s = runM (dispatchWork (freeDecoder s) y) (dispatched y rest s) := by
  subst hy
  have hgate : (ciOn s && canDispatch s x) = true := by rw [hon, hcan]; rfl
  unfold ciDispatch
  refine (runM_bind_ok (runM_get s)).trans ?_
  rw [hwaiting]
  refine (runM_bind_ok (runM_waitFor_true hgate s)).trans ?_
  refine (runM_bind_ok (runM_modify _ s)).trans ?_
  unfold dispatchWork
  split
  · rfl
  · rfl

/-- The dispatch completes as the work of the sample's kind does. -/
theorem exec_ciDispatch (hp : s.powered = true) (hon : ciOn s = true) (hwaiting : s.cist.waiting = x :: rest)
    (hcan : canDispatch s x = true) (hy : y = { x with budget := budgetOf s x })
    (hwork : Works (dispatchWork (freeDecoder s) y) (dispatched y rest s) t) :
    exec .ciDispatch s = .next (after ciWho (showCistern t)) := by
  have hworks : Works ciDispatch s t := (runM_ciDispatch hon hwaiting hcan hy).trans hwork
  refine (whileOn_powered _ hp).trans ?_
  exact congrArg Host.Outcome.next (ciCommand_works hworks)

theorem not_decodes (h : x.code ≠ 0 ∨ x.kind ≠ 1) : x.decodes = false := by
  unfold CiSample.decodes
  rcases h with h | h
  · simp [h]
  · simp [h]

/-- A refused or PAD sample has its slot zeroed and finishes. -/
theorem dispatchWork_zeroes (n : Option Nat) (h : x.code ≠ 0 ∨ x.pad = true) (hmem : x ∈ s.cist.flight) :
    ∃ t, Works (dispatchWork n x) s t ∧ t.cist.waiting = s.cist.waiting ∧
      ∃ z ∈ t.cist.flight, z.num = x.num ∧ z.finished = true := by
  have hframes : x.decodes = false := not_decodes (h.imp_right fun hpad hkind => by simp [CiSample.pad, hkind] at hpad)
  have hzeroed := ciWrite_works (slotAt s x.num) (zeros (slotBytes s)) s
  have hcist := leaves_ciWrite_cist (slotAt s x.num) (zeros (slotBytes s)) s
  generalize leaves (ciWrite (slotAt s x.num) (zeros (slotBytes s))) s = u at hzeroed hcist
  rw [← hcist] at hmem
  obtain ⟨t, hfinish, hwaiting, hflight⟩ := finishSample_finishes hframes hmem rfl
  refine ⟨t, ?_, by rw [hwaiting, hcist], hflight⟩
  have hif : (decide (x.code ≠ 0) || x.pad) = true := by
    rcases h with h | h
    · simp [h]
    · simp [h]
  unfold dispatchWork
  rw [if_pos hif]
  exact (runM_bind_ok hzeroed).trans hfinish

theorem not_refused_or_pad {k : Nat} (hcode : x.code = 0) (hkind : x.kind = k) (hk : k ≠ 4) :
    ¬(decide (x.code ≠ 0) || x.pad) = true := by simp [CiSample.pad, hcode, hkind, hk]

/-- A COPY sample takes its source and finishes. -/
theorem dispatchWork_copies (n : Option Nat) (hcode : x.code = 0) (hkind : x.kind = 2) (hmem : x ∈ s.cist.flight)
    {z : CiSample} (hcopy : Reads (copySample x) s z v) :
    ∃ t, Works (dispatchWork n x) s t ∧ t.cist.waiting = s.cist.waiting ∧
      ∃ f ∈ t.cist.flight, f.num = x.num ∧ f.finished = true := by
  obtain ⟨hnum, hdesc⟩ := copySample_sample hcopy
  have hcist := copySample_cist hcopy
  have hz : z.kind = 2 := (congrArg (fld · 0 1) hdesc).trans hkind
  have hframes : z.decodes = false := not_decodes (.inr (by rw [hz]; decide))
  obtain ⟨t, hfinish, hwaiting, hflight⟩ := finishSample_finishes hframes (by rw [hcist]; exact hmem) hnum.symm
  refine ⟨t, ?_, by rw [hwaiting, hcist], by rw [← hnum]; exact hflight⟩
  unfold dispatchWork
  rw [if_neg (not_refused_or_pad hcode hkind (by decide)), if_pos hkind]
  exact (runM_bind_ok hcopy).trans hfinish

/-- A SENSOR sample examines its streams and settles what it can. -/
theorem dispatchWork_settles (n : Option Nat) (hcode : x.code = 0) (hkind : x.kind = 3)
    (hexamine : Reads (examineEach (streamsOf x.desc)) s () u) (hsettle : Reads (settleSample false x) u () v) :
    Works (dispatchWork n x) s v := by
  unfold dispatchWork
  rw [if_neg (not_refused_or_pad hcode hkind (by decide)), if_neg (by rw [hkind]; decide), if_pos hkind]
  exact (runM_bind_ok hexamine).trans hsettle

/-- A DECODE sample gives its job to the free decoder. -/
theorem dispatchWork_submits (n : Nat) (hcode : x.code = 0) (hkind : x.kind = 1) (s : State) :
    Works (dispatchWork (some n) x) s (putSample { x with dec := some n } (vdSubmit n 0 (decodeJob x) s)) := by
  unfold dispatchWork
  rw [if_neg (not_refused_or_pad hcode hkind (by decide)), if_neg (by rw [hkind]; decide),
    if_neg (by rw [hkind]; decide)]
  rfl

/-! ### The commands of the submission ring (R562 to R567) -/

/-- A new sample goes on at once, as far as the conditions allow. -/
theorem newSample_works {f : State → State} {k : Nat} (h : Reads (dispatchSome k) (f v) () u) :
    Works (do modify f; dispatchSome k) v u := h

theorem exec_ciDecode (hp : s.powered = true) (h : SubEntry s d v)
    (hkind : fld d 0 1 = 0 ∨ fld d 0 1 = 1 ∨ 5 < fld d 0 1)
    (hwork : Works (do
      if fld d 0 1 = 1 then
        let (c, x) ← checkDecode d
        modify (newSample d x c)
        dispatchSome 1
      else if !d.isEmpty then modify (ciRefuse 0x0520 0)) v t) :
    exec .ciDecode s = .next (after ciWho (showCistern t)) := by
  refine (whileOn_powered _ hp).trans ?_
  refine congrArg Host.Outcome.next (h.ciCommand_takes ?_ hwork)
  simp
  omega

theorem exec_ciSetAug (hp : s.powered = true) (h : SubEntry s d v) (hkind : fld d 0 1 = 5)
    (hwork : Works (do
      let s ← get
      if descReserved d || decide (7 < fld d 0x15 1) then modify (ciRefuse 0x0520 0)
      else if rd s pgCistern Reg.CI_NEXT_SAMPLE % ciSlots s ≠ 0 then modify (ciRefuse 0x0523 0)
      else modify (wrAt pgCistern Reg.CI_AUG (fld d 0x15 1) (fld d 8 8))) v t) :
    exec .ciSetAug s = .next (after ciWho (showCistern t)) := by
  refine (whileOn_powered _ hp).trans ?_
  exact congrArg Host.Outcome.next (h.ciCommand_takes (by simp [hkind]) hwork)

theorem exec_ciPad (hp : s.powered = true) (h : SubEntry s d v) (hkind : fld d 0 1 = 4)
    (hwork : Works (do
      if descReserved d then modify (ciRefuse 0x0520 0)
      else
        let k := (ciSlots v - rd v pgCistern Reg.CI_NEXT_SAMPLE % ciSlots v) % ciSlots v
        modify (newSamples d k)
        dispatchSome k) v t) :
    exec .ciPad s = .next (after ciWho (showCistern t)) := by
  refine (whileOn_powered _ hp).trans ?_
  exact congrArg Host.Outcome.next (h.ciCommand_takes (by simp [hkind]) ((runM_bind_ok (runM_get v)).trans hwork))

end

/-- Settles O51, command by command: the ring's entry is taken, then its kind decides; a dispatch does what the sample's
kind asks for. -/
theorem cisternSubmission : Obligations.cistern_submission := by
  intro s hp
  refine ⟨fun d v h => ⟨?decode, ?other, ?copy, ?sensor, ?pad, ?padRefused, fun hkind => ⟨?augBad, ?augMid, ?aug⟩⟩, ?dispatch⟩
  case decode =>
    intro c x w u hkind hcheck hdispatch
    refine exec_ciDecode hp h (.inr (.inl hkind)) ?_
    rw [if_pos hkind]
    exact (runM_bind_ok hcheck).trans hdispatch
  case other =>
    intro hkind hd
    have hne : fld d 0 1 ≠ 1 := by omega
    have hfull : (!d.isEmpty) = true := by simp [hd]
    refine exec_ciDecode hp h (hkind.imp_right .inr) ?_
    rw [if_neg hne, if_pos hfull]
    rfl
  case copy =>
    intro u hkind hdispatch
    refine (whileOn_powered _ hp).trans ?_
    exact congrArg Host.Outcome.next (h.ciCommand_takes (by simp [hkind]) (newSample_works hdispatch))
  case sensor =>
    intro u hkind hdispatch
    refine (whileOn_powered _ hp).trans ?_
    exact congrArg Host.Outcome.next (h.ciCommand_takes (by simp [hkind]) (newSample_works hdispatch))
  case pad =>
    rintro k u hkind hgood rfl hdispatch
    refine exec_ciPad hp h hkind ?_
    rw [if_neg (by rw [hgood]; decide)]
    exact hdispatch
  case padRefused =>
    intro hkind hbad
    refine exec_ciPad hp h hkind ?_
    rw [if_pos hbad]
    rfl
  case augBad =>
    intro hbad
    refine exec_ciSetAug hp h hkind ((runM_bind_ok (runM_get v)).trans ?_)
    rw [if_pos (by simpa using hbad)]
    rfl
  case augMid =>
    intro hgood hindex hmid
    refine exec_ciSetAug hp h hkind ((runM_bind_ok (runM_get v)).trans ?_)
    rw [if_neg (by simp [hgood, hindex]), if_pos hmid]
    rfl
  case aug =>
    intro hgood hindex hstart
    refine exec_ciSetAug hp h hkind ((runM_bind_ok (runM_get v)).trans ?_)
    rw [if_neg (by simp [hgood, hindex]), if_neg (not_not_intro hstart)]
    rfl
  case dispatch =>
    rintro x rest y u hon hwaiting hcan hy hu
    have hu' : u = dispatched y rest s := hu
    have hmem : y ∈ u.cist.flight := hu' ▸ dispatched_mem y rest s
    have hrest : u.cist.waiting = rest := hu' ▸ dispatched_waiting y rest s
    have hnum : y.num = x.num := hy ▸ rfl
    have hcode : y.code = x.code := hy ▸ rfl
    have hdesc : y.desc = x.desc := hy ▸ rfl
    have hkind : y.kind = x.kind := congrArg (fld · 0 1) hdesc
    have hpad : y.pad = x.pad := congrArg (· == 4) hkind
    have hexec : ∀ {t}, Works (dispatchWork (freeDecoder s) y) u t →
        exec .ciDispatch s = .next (after ciWho (showCistern t)) := fun hwork =>
      exec_ciDispatch hp hon hwaiting hcan hy (hu' ▸ hwork)
    rw [← hcode, ← hkind, ← hpad, ← hnum, ← hdesc, ← hrest]
    refine ⟨fun hzero => ?_, fun z v hcode hkind hcopy => ?_, fun v w hcode hkind hexamine hsettle => ?_,
      fun n hcode hkind hfree => ?_⟩
    · obtain ⟨t, hwork, hdone⟩ := dispatchWork_zeroes (freeDecoder s) hzero hmem
      exact ⟨_, hexec hwork, hdone⟩
    · obtain ⟨t, hwork, hdone⟩ := dispatchWork_copies (freeDecoder s) hcode hkind hmem hcopy
      exact ⟨_, hexec hwork, hdone⟩
    · exact hexec (dispatchWork_settles _ hcode hkind hexamine hsettle)
    · rw [hfree] at hexec
      exact hexec (dispatchWork_submits n hcode hkind u)

end Sys2Proof.Machine
end

section
/-! PROOFS. A read of a unit leaves the transform units that the Cistern may use (R568, R569, R802, R619 to R629). -/

namespace Sys2Proof.Machine

/-- The transform units that the Cistern may use are as they were. -/
structure SameUnits (s t : State) : Prop where
  same : rd t pgCistern Reg.CI_DECODERS_XF = rd s pgCistern Reg.CI_DECODERS_XF

section
variable {page i v b : Nat} {f : Field} {s t u : State}

theorem SameUnits.refl (s : State) : SameUnits s s := ⟨rfl⟩

theorem SameUnits.trans (h : SameUnits s t) (k : SameUnits t u) : SameUnits s u := ⟨k.same.trans h.same⟩

theorem SameUnits.of_regs (h : t.regs = s.regs) : SameUnits s t := ⟨rd_of_regs h _ _⟩

/-- Operations whose parts leave the registers out. -/
theorem SameUnits.of_keeps {M : Nat} (h : Keeps M s t) (hM : M.testBit 0 = false) : SameUnits s t :=
  .of_regs (h.regs.resolve_left (by simp [hM]))

/-- A field in another place of its page than theirs has in its own. -/
theorem SameUnits.wrAt (h : SameUnits s t) (hpage : f.bit + i * (f.stride * 8) < 32768)
    (hplace : f.bit + i * (f.stride * 8) ≠ Reg.CI_DECODERS_XF.bit) : SameUnits s (wrAt page f i v t) := by
  refine h.trans ⟨rdAt_wrAt_other t v fun heq => ?_⟩
  simp only [Field.key, Reg.CI_DECODERS_XF] at heq hplace
  omega

theorem SameUnits.wr (h : SameUnits s t) (hpage : f.bit < 32768) (hplace : f.bit ≠ Reg.CI_DECODERS_XF.bit) :
    SameUnits s (wr page f v t) :=
  h.wrAt (by omega) (by omega)

theorem SameUnits.bump (h : SameUnits s t) (hpage : f.bit < 32768) (hplace : f.bit ≠ Reg.CI_DECODERS_XF.bit) :
    SameUnits s (bump page f v t) := h.wr hpage hplace

theorem SameUnits.ite {c : Prop} [Decidable c] (h : SameUnits s t) (k : SameUnits s u) : SameUnits s (if c then t else u) :=
  iteInduction (fun _ => h) fun _ => k

theorem SameUnits.foldl {α : Type} {f : State → α → State} {l : List α} (hf : ∀ a ∈ l, ∀ u, SameUnits u (f u a))
    (s : State) : SameUnits s (l.foldl f s) := by
  induction l generalizing s with
  | nil => exact .refl s
  | cons a l ih => exact (hf a List.mem_cons_self s).trans (ih (fun b hb => hf b (List.mem_cons_of_mem _ hb)) _)

theorem SameUnits.raiseBit (h : SameUnits s t) : SameUnits s (raiseBit page b t) :=
  h.trans ⟨rd_raiseBit (by decide) (by decide) (by decide)⟩

end

/-! ### Reads of memory -/

section
variable (a w n : Nat) (s : State)

theorem sameUnits_countCorrected : SameUnits s (countCorrected a s) := by
  unfold countCorrected
  split
  · exact .trans (.bump (.refl s) (by decide) (by decide)) (.of_regs rfl)
  · extract_lets c aged counted m mem since lim
    have hsince : SameUnits s since :=
      .trans (t := counted) (.bump (.of_regs rfl) (by decide) (by decide)) (.of_regs rfl)
    exact .ite (.raiseBit (hsince.wr (by decide) (by decide))) hsince
  · exact .refl s

theorem sameUnits_countUncorrectable : SameUnits s (countUncorrectable a s) := by
  unfold countUncorrectable
  extract_lets unit poisoned
  have hpoison : SameUnits s poisoned := .of_regs rfl
  split
  · extract_lets counted captured aged
    have hcaptured : SameUnits s captured :=
      .wr (.wr (.bump hpoison (by decide) (by decide)) (by decide) (by decide)) (by decide) (by decide)
    exact .raiseBit (hcaptured.trans (.of_regs rfl))
  · extract_lets c aged counted captured
    have haged : SameUnits s aged := hpoison.trans (.of_regs rfl)
    exact .raiseBit (.wr (.wr (.bump haged (by decide) (by decide)) (by decide) (by decide)) (by decide) (by decide))
  · exact hpoison

theorem sameUnits_readWord : SameUnits s (readWord w s).2 := by
  have hwrong : ∀ u bs, SameUnits s u → SameUnits s (countUncorrectable (w * 8) (setCells (w * 8) bs u)) :=
    fun u bs h => (h.trans (u := setCells (w * 8) bs u) (.of_regs rfl)).trans (sameUnits_countUncorrectable ..)
  unfold readWord
  dsimp only
  split
  · exact .refl s
  split
  · exact .trans (t := setFlips w 0 s) (.of_regs rfl) (sameUnits_countCorrected ..)
  split
  · exact hwrong (setFlips w 0 s) _ (.of_regs rfl)
  split
  · exact .of_regs rfl
  split
  · exact .of_regs rfl
  · exact hwrong _ _ (.of_regs rfl)

theorem sameUnits_readWords : SameUnits s (readWords n w s).2 := by
  induction n generalizing w s with
  | zero => exact .refl s
  | succ n ih =>
    unfold readWords
    have hword := sameUnits_readWord w s
    generalize readWord w s = word at hword ⊢
    by_cases hp : isPoisoned s (w / 8) = true
    · rw [if_pos hp]
      exact ih _ _
    · rw [if_neg hp]
      exact hword.trans (ih _ _)

theorem sameUnits_readUnit : SameUnits s (readUnit a n s).2 := by
  unfold readUnit
  split
  · exact .refl s
  dsimp only
  have hwords := sameUnits_readWords (a / 8) ((a + n - 1) / 8 + 1 - a / 8) s
  split
  · generalize pgChannel _ = c
    have hread := hwords.bump (page := c) (f := Reg.CH_READ_BYTES) (v := n) (by decide) (by decide)
    exact .ite (hread.bump (by decide) (by decide)) hread
  · exact hwords

theorem sameUnits_memRead : SameUnits s (memRead a n s).2 := by
  unfold memRead
  generalize piecesOf a n = ps
  induction ps generalizing s with
  | nil => exact .refl s
  | cons p ps ih => exact (sameUnits_readUnit ..).trans (ih _)

end

/-! ### The latch of a page (R802 to R811) -/

section
variable {s t : State}

theorem sameUnits_latchChan {n : Nat} (page : Nat) (hn : n < 64) (s : State) : SameUnits s (latchChan page n s) := by
  unfold latchChan
  extract_lets p c counted marked
  have hplaces : ∀ f ∈ [Reg.CH_MARK_COUNT, Reg.CH_MARK_RETURNS, Reg.CH_MARK_INFLIGHT, Reg.CH_MARK_AUDIT],
      f.bit + n * (f.stride * 8) < 32768 ∧ f.bit + n * (f.stride * 8) ≠ Reg.CI_DECODERS_XF.bit := by
    simp only [List.forall_mem_cons, Reg.CH_MARK_COUNT, Reg.CH_MARK_RETURNS, Reg.CH_MARK_INFLIGHT, Reg.CH_MARK_AUDIT,
      Reg.CI_DECODERS_XF]
    simp
    omega
  have hmark : ∀ {f v u}, SameUnits s u → f ∈ [Reg.CH_MARK_COUNT, Reg.CH_MARK_RETURNS, Reg.CH_MARK_INFLIGHT,
      Reg.CH_MARK_AUDIT] → SameUnits s (wrAt (pgTile page) f n v u) := fun h hf =>
    h.wrAt (hplaces _ hf).1 (hplaces _ hf).2
  have hmarked : SameUnits s marked :=
    hmark (hmark (hmark (hmark (.refl s) (by simp)) (by simp)) (by simp)) (by simp)
  have hsend : ∀ u r b, SameUnits u (sendChan page n c.session r c.peerCh b u) := fun _ _ _ => .of_regs rfl
  have hset : ∀ u d, SameUnits u (setChan page n d u) := fun _ _ => .of_regs rfl
  refine .ite hmarked (.ite (hmarked.trans (.foldl (fun r _ u => ?_) _)) (hmarked.trans (hset _ _)))
  exact hsend u r _

theorem sameUnits_latchPort (n : Nat) (s : State) : SameUnits s (latchPort n s) := by
  refine .foldl (fun vc hvc u => .wrAt (.wrAt (.refl u) ?_ ?_) ?_ ?_) s
  all_goals
    have hvc := List.mem_range.mp hvc
    simp only [Reg.KP_MARK_VC_CREDITS, Reg.KP_MARK_VC_BUFFERED, Reg.CI_DECODERS_XF]
    omega

theorem sameUnits_latchPage (page : Nat) (s : State) : SameUnits s (latchPage page s) := by
  unfold latchPage
  split
  · exact .wr (.of_regs rfl) (by decide) (by decide)
  · extract_lets counters chans port verdicts marker closed
    have hcounters : SameUnits s counters := .of_keeps (keeps_latchCounters .rfl (.refl s)) rfl
    have hchans : SameUnits counters chans :=
      .ite (.foldl (fun n hn u => sameUnits_latchChan page (List.mem_range.mp hn) u) _) (.refl _)
    have hport : SameUnits chans port := .ite (sameUnits_latchPort ..) (.refl _)
    have hverdicts : SameUnits port verdicts := by
      refine .foldl (fun e _ u => ?_) _
      exact .of_regs rfl
    have hclosed : SameUnits verdicts closed := .ite (.refl _) (.of_regs rfl)
    exact ((((hcounters.trans hchans).trans hport).trans hverdicts).trans hclosed).wr (by decide) (by decide)

theorem sameUnits_reachOwner (page a : Nat) (s : State) : SameUnits s (reachOwner page a s) := by
  have hreach : ∀ dst u, SameUnits u (reach page dst u) := fun dst u => .ite (sameUnits_latchPage dst u) (.refl u)
  have hcarry : ∀ dst, SameUnits s (carry page dst s) := fun dst => .of_regs rfl
  unfold reachOwner
  dsimp only
  split
  · exact (hcarry _).trans (hreach _ _)
  · exact hcarry _
  · exact (hcarry _).trans (hreach _ _)

/-! ### A read of a unit -/

theorem sameUnits_localRead (w : Who) (a n : Nat) (s : State) : SameUnits s (runM (localRead w a n) s).2 := by
  unfold localRead
  rw [runM_bind_ok (runM_get s), runM_ite]
  split
  · exact .refl s
  have hwait := runM_waitFor (!behind s w.page s.bus.nextOrd a n) s
  rw [runM_bind, hwait]
  split
  case h_2 h =>
    cases congrArg Prod.snd h
    exact .refl s
  case h_1 h =>
    cases congrArg Prod.snd h
    split
    · exact .refl s
    · dsimp only
      split
      · exact .refl s
      · split
        · exact .refl s
        · exact .refl s
    · split
      · exact .refl s
      · exact .refl s
      · dsimp only
        split
        · exact .refl s
        · exact sameUnits_memRead a n s

/-- A read of a unit leaves the units that the Cistern may use: what it counts stands elsewhere. -/
theorem sameUnits_busRead (w : Who) (a n : Nat) (s : State) : SameUnits s (runM (busRead w a n) s).2 := by
  unfold busRead
  rw [runM_ite]
  split
  · exact .refl s
  rw [runM_ite]
  split
  · exact .refl s
  rw [runM_bind_ok (runM_get s), runM_ite]
  split
  · rw [runM_bind_ok (runM_modify _ s)]
    exact (sameUnits_reachOwner ..).trans (sameUnits_localRead ..)
  · refine .of_keeps (M := 0) ?_ rfl
    refine .m_get_bind (.m_get_bind (.m_bind (.m_waitFor (.refl s)) fun _ _ hu => ?_))
    exact keeps_peerRead _ _ hu

end

end Sys2Proof.Machine
end

section
/-! PROOFS. Frame entries of the Cistern's decoders, their transform, budgets and sensor tails (R568 to R570, R576 to R581,
R589, R590). -/

namespace Sys2Proof.Machine

section
variable {s t u v w z : State} {n cycles : Nat} {e : List Byte} {x y : CiSample}

/-! ### The next entry of a decoder's ring (R558, R568, R569) -/

/-- The decoder's ring holds entry `e` at its head, readable; `v` is the state once it has been taken. -/
structure EntryTaken (s : State) (n : Nat) (d : List PByte) (u : State) : Prop where
  on : ciOn s = true
  exists_ : n < 16
  ours : bitOf (rd s pgCistern Reg.CI_DECODERS_DEC) n = true
  pending : rd s (pgDecoder n) Reg.VD_RING_HEAD ≠ rd s (pgDecoder n) Reg.VD_RING_TAIL
  read : Reads (busRead ciWho (rd s (pgDecoder n) Reg.VD_RING_BASE +
    32 * (rd s (pgDecoder n) Reg.VD_RING_HEAD % ringLen s n)) 32) s d u

/-- The entry shows a frame, the last one of its sample, a picture that was decoded. -/
def entryFrame (e : List Byte) : Bool := fld e 0 1 == 1
def entryLast (e : List Byte) : Bool := entryFrame e && bitOf (fld e 1 1) 4
def entryPicture (e : List Byte) : Bool := entryFrame e && !bitOf (fld e 1 1) 3

/-- The buffer of an entry that nothing takes up goes back to its decoder. -/
def entryDrop (n : Nat) (e : List Byte) (s : State) : State :=
  if entryFrame e && fld e 2 2 != 0xFFFF then vdRelease n (fld e 2 2) s else s

/-- What an entry says of its sample. -/
def entrySample (cycles : Nat) (e : List Byte) (x : CiSample) : CiSample :=
  { x with
    damaged := x.damaged || (entryFrame e && (bitOf (fld e 1 1) 0 || bitOf (fld e 1 1) 3))
    tainted := x.tainted || (entryFrame e && bitOf (fld e 1 1) 1)
    cause := if x.cause = 0 then fld e 0x1C 2 else x.cause
    last := if entryLast e then some cycles else x.last }

/-- The frame that an entry gives to transform unit `k`. -/
def entryToUnit (n k : Nat) (e : List Byte) (x : CiSample) (s : State) : State :=
  modCist (fun c => { c with frames := c.frames ++ [{
    sample := x.num, f := fld e 8 4 - fld x.desc 6 2, dec := n, buf := fld e 2 2, unit := k
    width := fld e 0x10 2, height := fld e 0x12 2, depth := fld e 0x14 1, chroma := fld e 0x15 1 }] }) s

/-- The work on an entry that was taken from `s`. -/
def entryWork (s : State) (n cycles : Nat) (e : List Byte) : M Unit := do
  if s.cist.owed.contains n then
    modify fun s => entryDrop n e (if entryLast e then modCist (fun c => { c with owed := c.owed.erase n }) s else s)
  else
    match s.cist.flight.find? fun x => x.dec == some n && x.num % 2 ^ 32 == fld e 4 4 && !x.finished with
    | none => modify (entryDrop n e)
    | some x =>
      modify (putSample (entrySample cycles e x))
      if entryPicture e then
        match pickUnit s none with
        | none => throw .hold
        | some k => modify (entryToUnit n k e x)
      frameDone x.num

theorem EntryTaken.exec_ciFrameEntry {d : List PByte} (h : EntryTaken s n d u) (hp : s.powered = true)
    (hv : v = wr (pgDecoder n) Reg.VD_RING_HEAD (rd s (pgDecoder n) Reg.VD_RING_HEAD + 1) u)
    (he : e = d.map Prod.fst) (hwork : Works (entryWork s n cycles e) v t) :
    exec (.ciFrameEntry n cycles) s = .next (after ciWho (showCistern t)) := by
  obtain ⟨hon, hn, hours, hpending, hread⟩ := h
  have hgate : (ciOn s && decide (n < 16) && bitOf (rd s pgCistern Reg.CI_DECODERS_DEC) n &&
      rd s (pgDecoder n) Reg.VD_RING_HEAD != rd s (pgDecoder n) Reg.VD_RING_TAIL) = true := by
    simp [hon, hn, hours, hpending]
  have hworks : Works (ciFrameEntry n cycles) s t := by
    unfold ciFrameEntry
    refine (runM_bind_ok (runM_get s)).trans ?_
    refine (runM_bind_ok (runM_waitFor_true hgate s)).trans ?_
    refine (runM_bind_ok (runM_catchCode_ok hread)).trans ?_
    refine (runM_bind_ok (runM_modify _ u)).trans ?_
    subst hv he
    exact hwork
  refine (whileOn_powered _ hp).trans ?_
  exact congrArg Host.Outcome.next (ciCommand_works hworks)

theorem entryDrop_eq (n : Nat) (e : List Byte) (s : State) :
    entryDrop n e s = if fld e 0 1 = 1 ∧ fld e 2 2 ≠ 0xFFFF then vdRelease n (fld e 2 2) s else s := by
  unfold entryDrop entryFrame
  exact if_congr (by simp) rfl rfl

/-- An entry of a decoder that owes an abandoned sample's last one goes back. -/
theorem entryWork_owed (howed : s.cist.owed.contains n = true) (v : State) :
    Works (entryWork s n cycles e) v (entryDrop n e
      (if fld e 0 1 = 1 ∧ bitOf (fld e 1 1) 4 = true then modCist (fun c => { c with owed := c.owed.erase n }) v else v)) := by
  have hlast : (entryLast e = true) ↔ (fld e 0 1 = 1 ∧ bitOf (fld e 1 1) 4 = true) := by simp [entryLast, entryFrame]
  unfold entryWork
  rw [if_pos howed]
  refine (runM_modify _ v).trans ?_
  rw [if_congr hlast rfl rfl]

/-- An entry of no sample goes back. -/
theorem entryWork_stray (howed : s.cist.owed.contains n = false)
    (hflight : s.cist.flight.find? (fun x => x.dec == some n && x.num % 2 ^ 32 == fld e 4 4 && !x.finished) = none)
    (v : State) : Works (entryWork s n cycles e) v (entryDrop n e v) := by
  unfold entryWork
  rw [if_neg (by rw [howed]; decide), hflight]
  rfl

section
variable (howed : s.cist.owed.contains n = false)
  (hflight : s.cist.flight.find? (fun x => x.dec == some n && x.num % 2 ^ 32 == fld e 4 4 && !x.finished) = some x)
include howed hflight

/-- An entry without a picture tells its sample what it says. -/
theorem entryWork_tells (hpicture : entryPicture e = false)
    (hdone : Reads (frameDone x.num) (putSample (entrySample cycles e x) v) () z) :
    Works (entryWork s n cycles e) v z := by
  unfold entryWork
  rw [if_neg (by rw [howed]; decide), hflight, hpicture]
  exact hdone

/-- A picture goes to the transform unit that was picked. -/
theorem entryWork_gives {k : Nat} (hpicture : entryPicture e = true) (hpick : pickUnit s none = some k)
    (hdone : Reads (frameDone x.num) (entryToUnit n k e x (putSample (entrySample cycles e x) v)) () z) :
    Works (entryWork s n cycles e) v z := by
  unfold entryWork
  rw [if_neg (by rw [howed]; decide), hflight, hpicture, hpick]
  exact hdone

end

/-- The choice of a unit looks at the permitted ones, their locks and their frames. -/
theorem pickUnit_congr (hunits : SameUnits s t) (hlocks : t.rc = s.rc) (hframes : t.cist.frames = s.cist.frames)
    (but : Option Nat) : pickUnit t but = pickUnit s but := by
  unfold pickUnit lockState lockOver framesAt
  rw [hunits.same, hlocks, hframes]

theorem putSample_regs (y : CiSample) (s : State) : (putSample y s).regs = s.regs := rfl

theorem putSample_rc (y : CiSample) (s : State) : (putSample y s).rc = s.rc := rfl

/-- Taking an entry and telling its sample leave the choice of a unit. -/
theorem EntryTaken.pickUnit_eq {d : List PByte} (h : EntryTaken s n d u) (y : CiSample) (r : Nat) :
    pickUnit (putSample y (wr (pgDecoder n) Reg.VD_RING_HEAD r u)) none = pickUnit s none := by
  have hkeeps := Keeps.of_pair h.read (keeps_busRead .rfl (.refl s))
  have hread := sameUnits_busRead ciWho (rd s (pgDecoder n) Reg.VD_RING_BASE +
    32 * (rd s (pgDecoder n) Reg.VD_RING_HEAD % ringLen s n)) 32 s
  rw [h.read] at hread
  have hwritten : SameUnits u (wr (pgDecoder n) Reg.VD_RING_HEAD r u) := .wr (.refl u) (by decide) (by decide)
  have htold : SameUnits s (putSample y (wr (pgDecoder n) Reg.VD_RING_HEAD r u)) :=
    (hread.trans hwritten).trans (.of_regs (putSample_regs ..))
  refine pickUnit_congr htold ?_ ?_ none
  · rw [putSample_rc, wr_rc]
    exact hkeeps.rc.resolve_left (by decide)
  · rw [putSample_cist, wr_cist, hkeeps.cist.resolve_left (by decide)]

/-! ### The transform of a frame (R570, R576) -/

variable {k : Nat} {fr : CiFrame}

theorem exec_tfFrameTransform (hp : s.powered = true) (hk : k < 8) (h : Works (tfFrame k) s t) :
    exec (.tfFrameTransform k) s = .next (after (tfWho k) (showCistern t)) := by
  have hin : ¬ 8 ≤ k := by omega
  have hshown : Works (do tfFrame k; modify showCistern) s (showCistern t) :=
    (runM_bind_ok h).trans (runM_modify showCistern t)
  exact exec_on hp (congrArg (whileOn s) ((if_neg hin).trans (attempt_works hshown)))

/-- What a transform's outcome makes of its sample. -/
def transformed (k : Nat) (x : CiSample) (fr : CiFrame) : Except Nat Unit → State → State
  | .ok _, s => putSample { x with frames := x.frames ++ [fr.f] } s
  | .error c, s => logErr (pgTransform k) c x.num
      (putSample { x with damaged := true, cause := if x.cause = 0 then c else x.cause } s)

theorem tfFrame_works (hframe : s.cist.frames.find? (fun f => f.unit == k) = some fr) (hon : ciOn s = true)
    (hopen : lockState s (pgTransform k) = 0)
    (hflight : s.cist.flight.find? (fun x => x.num == fr.sample && !x.finished) = some x) {r : Except Nat Unit}
    (htx : runM (catchCode (txFrame k x fr)) s = (.ok r, v))
    (hdone : Reads (frameDone fr.sample) (vdRelease fr.dec fr.buf
      (modCist (fun c => { c with frames := c.frames.erase fr }) (transformed k x fr r v))) () z) :
    Works (tfFrame k) s z := by
  have hgate : (ciOn s && decide (lockState s (pgTransform k) = 0)) = true := by simp [hon, hopen]
  unfold tfFrame
  refine (runM_bind_ok (runM_get s)).trans ?_
  rw [hframe]
  refine (runM_bind_ok (runM_waitFor_true hgate s)).trans ?_
  rw [hflight]
  refine (runM_bind_ok htx).trans ?_
  cases r with
  | ok _ =>
    refine (runM_bind_ok (runM_modify _ v)).trans ?_
    refine (runM_bind_ok (runM_modify _ _)).trans ?_
    exact hdone
  | error c =>
    refine (runM_bind_ok (runM_modify _ v)).trans ?_
    refine (runM_bind_ok (runM_modify _ _)).trans ?_
    exact hdone

/-! ### Budgets (R588, R590) -/

variable {b : Nat}

/-- The budget of sample `n` has expired: the sample is slow. -/
def slowed (x : CiSample) (s : State) : State :=
  raiseBit pgCistern 5 (bump pgCistern Reg.CI_SLOW 1 (putSample { x with slow := true } s))

/-- What an expired budget asks for beyond that; `abandon` is whether the module abandons late samples. -/
def budgetWork (n : Nat) (abandon : Bool) (x : CiSample) : M Unit := do
  if x.kind = 3 then settleSample true x
  else if abandon then
    modify fun s =>
      let s := dropFrames n (raiseBit pgCistern 6 (bump pgCistern Reg.CI_LATE 1 s))
      match x.dec, x.last with
      | some d, none => modCist (fun c => { c with owed := c.owed ++ [d] }) s
      | _, _ => s
    finishSample { x with late := true, abandoned := true }

theorem budgetWork_settles {abandon : Bool} (hkind : x.kind = 3) (h : Reads (settleSample true x) u () v) :
    Works (budgetWork n abandon x) u v := by
  unfold budgetWork
  rw [if_pos hkind]
  exact h

theorem budgetWork_leaves (hkind : x.kind ≠ 3) (u : State) : Works (budgetWork n false x) u u := by
  unfold budgetWork
  rw [if_neg hkind]
  rfl

theorem budgetWork_abandons (hkind : x.kind ≠ 3)
    (hw : w = match x.dec, x.last with
      | some d, none => modCist (fun c => { c with owed := c.owed ++ [d] })
          (dropFrames n (raiseBit pgCistern 6 (bump pgCistern Reg.CI_LATE 1 u)))
      | _, _ => dropFrames n (raiseBit pgCistern 6 (bump pgCistern Reg.CI_LATE 1 u)))
    (h : Reads (finishSample { x with late := true, abandoned := true }) w () v) : Works (budgetWork n true x) u v := by
  unfold budgetWork
  rw [if_neg hkind, if_pos rfl]
  subst hw
  exact h

theorem exec_ciBudgetExpiry (hp : s.powered = true)
    (hflight : s.cist.flight.find? (fun x => x.num == n && !x.finished && !x.slow) = some x) (hbudget : x.budget = some b)
    (hon : ciOn s = true) (hover : b ≤ cycles)
    (hwork : Works (budgetWork n (isSet s pgCistern Reg.CI_CTRL_ABANDON) { x with slow := true }) (slowed x s) t) :
    exec (.ciBudgetExpiry n cycles) s = .next (after ciWho (showCistern t)) := by
  have hgate : (ciOn s && decide (b ≤ cycles)) = true := by simp [hon, hover]
  have hworks : Works (budgetExpiry n cycles) s t := by
    unfold budgetExpiry
    refine (runM_bind_ok (runM_get s)).trans ?_
    rw [hflight]
    dsimp only
    split
    · next hnone =>
      rw [hbudget] at hnone
      cases hnone
    · next b' hsome =>
      obtain rfl : b = b' := Option.some.inj (hbudget.symm.trans hsome)
      refine (runM_bind_ok (runM_waitFor_true hgate s)).trans ?_
      exact (runM_bind_ok (runM_modify _ s)).trans hwork
  refine (whileOn_powered _ hp).trans ?_
  exact congrArg Host.Outcome.next (ciCommand_works hworks)

/-! ### The tail of a sensor stream (R577 to R581) -/

/-- A write to `SS_TAIL` does not stop the controller. -/
theorem ciOn_wrAt_SS_TAIL (n tail : Nat) (s : State) : ciOn (wrAt pgCistern Reg.SS_TAIL n tail s) = ciOn s := by
  have henable : rd (wrAt pgCistern Reg.SS_TAIL n tail s) pgCistern Reg.CI_CTRL_ENABLE = rd s pgCistern Reg.CI_CTRL_ENABLE := by
    refine rdAt_wrAt_other s tail fun heq => ?_
    simp only [Field.key, Reg.SS_TAIL, Reg.CI_CTRL_ENABLE] at heq
    omega
  exact congrArg (fun r => s.powered && (r != 0) && decide (lockState s pgCistern = 0)) henable

theorem exec_ssTailAdvance {tail : Nat} (hp : s.powered = true) (hn : n < 16) (hw : writable s pgCistern = true)
    (hwork : Works (ssTailAdvance n) (wrAt pgCistern Reg.SS_TAIL n tail s) t) :
    exec (.ssTailAdvance n tail) s = .next (after ciWho (showCistern t)) := by
  have hbody : ¬ (16 ≤ n ∨ (!writable s pgCistern) = true) := by
    rw [hw]
    simp [hn]
  refine (whileOn_powered _ hp).trans ?_
  rw [ssTail, if_neg hbody, ciCommand_works hwork]

theorem ssTailAdvance_stopped (hoff : ciOn u = false) : Works (ssTailAdvance n) u u := by
  unfold ssTailAdvance
  refine (runM_bind_ok (runM_get u)).trans ?_
  rw [if_neg (by rw [hoff]; decide)]
  rfl

theorem ssTailAdvance_settles (hon : ciOn u = true) (hexamine : Reads (examineAll n) u () v)
    (hsettle : Reads (settleAll (sensorSamples v)) v () w) : Works (ssTailAdvance n) u w := by
  unfold ssTailAdvance
  refine (runM_bind_ok (runM_get u)).trans ?_
  rw [if_pos hon]
  refine (runM_bind_ok hexamine).trans ?_
  exact (runM_bind_ok (runM_get v)).trans hsettle

end

/-- Settles O52, command by command. The transform unit that takes a picture is chosen before the entry is read: the read
leaves the choice as it is. -/
theorem cisternFrames : Obligations.cistern_frames := by
  intro s hp
  refine ⟨?entry, ?transform, ?budget, ?tail⟩
  case entry =>
    intro n cycles d u v e hon hn hours hpending hread hv he
    have h : EntryTaken s n d u := ⟨hon, hn, hours, hpending, hread⟩
    refine ⟨?owed, ?stray, ?taken⟩
    case owed =>
      rintro z howed rfl
      rw [← entryDrop_eq]
      exact h.exec_ciFrameEntry hp hv he (entryWork_owed howed v)
    case stray =>
      intro howed hflight
      rw [← entryDrop_eq]
      exact h.exec_ciFrameEntry hp hv he (entryWork_stray howed hflight v)
    case taken =>
      intro x y w z howed hflight hy hplain hpicture hdone
      have hy' : y = entrySample cycles e x := hy
      refine h.exec_ciFrameEntry hp hv he ?_
      cases hpic : entryPicture e with
      | false =>
        have hno : fld e 0 1 ≠ 1 ∨ bitOf (fld e 1 1) 3 = true := by
          by_cases hf : fld e 0 1 = 1
          · exact .inr (by simpa [entryPicture, entryFrame, hf] using hpic)
          · exact .inl hf
        rw [hplain hno, hy'] at hdone
        exact entryWork_tells howed hflight hpic hdone
      | true =>
        have hyes : fld e 0 1 = 1 ∧ bitOf (fld e 1 1) 3 = false := by simpa [entryPicture, entryFrame] using hpic
        obtain ⟨k, hpick, hw⟩ := hpicture hyes.1 hyes.2
        rw [hv, h.pickUnit_eq] at hpick
        rw [hw, hy'] at hdone
        exact entryWork_gives howed hflight hpic hpick hdone
  case transform =>
    intro k fr x v w z hk hframe hon hopen hflight htx hdone
    refine exec_tfFrameTransform hp hk ?_
    rcases htx with ⟨htx, rfl⟩ | ⟨c, htx, rfl⟩
    · exact tfFrame_works hframe hon hopen hflight (runM_catchCode_ok htx) hdone
    · exact tfFrame_works hframe hon hopen hflight (runM_catchCode_code htx) hdone
  case budget =>
    rintro n cycles x b u hflight hbudget hon hover hu
    have hu' : u = slowed x s := hu
    subst hu'
    have hrun : ∀ {t}, Works (budgetWork n (isSet s pgCistern Reg.CI_CTRL_ABANDON) { x with slow := true }) (slowed x s) t →
        exec (.ciBudgetExpiry n cycles) s = .next (after ciWho (showCistern t)) := fun hwork =>
      exec_ciBudgetExpiry hp hflight hbudget hon hover hwork
    refine ⟨fun v hkind hsettle => hrun ?_, fun hkind habandon => hrun ?_, fun w v hkind habandon hw hfinish => hrun ?_⟩
    · exact budgetWork_settles (x := { x with slow := true }) hkind hsettle
    · have hno : isSet s pgCistern Reg.CI_CTRL_ABANDON = false := congrArg (· != 0) habandon
      rw [hno]
      exact budgetWork_leaves (x := { x with slow := true }) hkind _
    · have hyes : isSet s pgCistern Reg.CI_CTRL_ABANDON = true := congrArg (· != 0) habandon
      rw [hyes]
      rw [hw] at hfinish
      exact budgetWork_abandons (x := { x with slow := true }) hkind rfl hfinish
  case tail =>
    rintro n tail u hn hw rfl
    refine ⟨fun hoff => ?_, fun v w hon hexamine hsettle => ?_⟩
    · exact exec_ssTailAdvance hp hn hw (ssTailAdvance_stopped ((ciOn_wrAt_SS_TAIL n tail s).trans hoff))
    · exact exec_ssTailAdvance hp hn hw (ssTailAdvance_settles ((ciOn_wrAt_SS_TAIL n tail s).trans hon) hexamine hsettle)

end Sys2Proof.Machine
end

section
/-! PROOFS. Writes leave the protection of pages by a round as it is (R619 to R629, R737, R738). -/

namespace Sys2Proof.Machine

/-- The pages that a round protects are as they were. -/
structure SameProtection (s t : State) : Prop where
  same : t.mem.wprot = s.mem.wprot

section
variable {page b : Nat} {s t u : State}

theorem SameProtection.of_mem (h : t.mem = s.mem) : SameProtection s t := ⟨congrArg Mem.wprot h⟩

theorem SameProtection.refl (s : State) : SameProtection s s := ⟨rfl⟩

theorem SameProtection.trans (h : SameProtection s t) (k : SameProtection t u) : SameProtection s u :=
  ⟨k.same.trans h.same⟩

/-- Operations whose parts leave memory out. -/
theorem SameProtection.of_keeps {M : Nat} (h : Keeps M s t) (hM : M.testBit 2 = false) : SameProtection s t :=
  .of_mem (h.mem.resolve_left (by simp [hM]))

theorem SameProtection.ite {c : Prop} [Decidable c] (h : SameProtection s t) (k : SameProtection s u) :
    SameProtection s (if c then t else u) := iteInduction (fun _ => h) fun _ => k

theorem SameProtection.foldl {α : Type} {f : State → α → State} {l : List α} (hf : ∀ a ∈ l, ∀ u, SameProtection u (f u a))
    (s : State) : SameProtection s (l.foldl f s) := by
  induction l generalizing s with
  | nil => exact .refl s
  | cons a l ih => exact (hf a List.mem_cons_self s).trans (ih (fun b hb => hf b (List.mem_cons_of_mem _ hb)) _)

theorem SameProtection.raiseBit (h : SameProtection s t) : SameProtection s (raiseBit page b t) :=
  h.trans (.of_keeps (keeps_raiseBit .rfl (.refl t)) rfl)

end

/-! ### Words, units and ranges of memory -/

section
variable (a w n : Nat) (data : List PByte) (s : State)

theorem sameProtection_countCorrected : SameProtection s (countCorrected a s) := by
  unfold countCorrected
  split
  · exact .of_mem rfl
  · extract_lets c aged counted m mem since lim
    have hsince : SameProtection s since := ⟨rfl⟩
    exact .ite (.raiseBit (hsince.trans (.of_mem rfl))) hsince
  · exact .refl s

theorem sameProtection_countUncorrectable : SameProtection s (countUncorrectable a s) := by
  unfold countUncorrectable
  extract_lets unit poisoned
  have hpoison : SameProtection s poisoned := ⟨rfl⟩
  split
  · exact .raiseBit (hpoison.trans (.of_mem rfl))
  · exact .raiseBit (hpoison.trans (.of_mem rfl))
  · exact hpoison

theorem sameProtection_readWord : SameProtection s (readWord w s).2 := by
  have hwrong : ∀ u bs, SameProtection s u → SameProtection s (countUncorrectable (w * 8) (setCells (w * 8) bs u)) :=
    fun u bs h => (h.trans (u := setCells (w * 8) bs u) ⟨rfl⟩).trans (sameProtection_countUncorrectable ..)
  unfold readWord
  dsimp only
  split
  · exact .refl s
  split
  · exact .trans (t := setFlips w 0 s) ⟨rfl⟩ (sameProtection_countCorrected ..)
  split
  · exact hwrong (setFlips w 0 s) _ ⟨rfl⟩
  split
  · exact ⟨rfl⟩
  split
  · exact ⟨rfl⟩
  · exact hwrong _ _ ⟨rfl⟩

theorem sameProtection_readWords : SameProtection s (readWords n w s).2 := by
  induction n generalizing w s with
  | zero => exact .refl s
  | succ n ih =>
    unfold readWords
    have hword := sameProtection_readWord w s
    generalize readWord w s = word at hword ⊢
    by_cases hp : isPoisoned s (w / 8) = true
    · rw [if_pos hp]
      exact ih _ _
    · rw [if_neg hp]
      exact hword.trans (ih _ _)

theorem sameProtection_zeroFill : SameProtection s (zeroFill a s) := by
  unfold zeroFill
  split
  · exact .refl s
  split
  · exact ⟨rfl⟩
  · extract_lets off page memory filled chans
    refine .trans (t := filled) ⟨rfl⟩ (.foldl (fun c _ u => ?_) _)
    exact .of_mem rfl

theorem sameProtection_writeUnit : SameProtection s (writeUnit a data s) := by
  unfold writeUnit
  extract_lets n unit fresh filled whole partly merged stored cleared bad marked
  have hread : SameProtection filled merged := by
    refine .ite (.refl _) ?_
    split
    · refine .trans (.ite ?_ ?_) (sameProtection_readWords ..)
      · exact .of_mem rfl
      · exact .of_mem rfl
    · exact .foldl (fun w _ v => .ite (.refl v) (sameProtection_readWord w v)) _
  have hcleared : SameProtection stored cleared := by
    refine .foldl (fun w _ v => ?_) _
    exact .ite ⟨rfl⟩ (.refl v)
  have hmarked : SameProtection cleared marked := .ite ⟨rfl⟩ (.ite ⟨rfl⟩ (.refl _))
  have hall : SameProtection s marked :=
    (((sameProtection_zeroFill a s).trans hread).trans (u := stored) ⟨rfl⟩).trans (hcleared.trans hmarked)
  split
  · exact hall.trans (.of_mem rfl)
  · exact hall

theorem sameProtection_memWrite : SameProtection s (memWrite a data s) := by
  unfold memWrite
  generalize piecesOf a data.length = ps
  induction ps generalizing data s with
  | nil => exact .refl s
  | cons p ps ih => exact (sameProtection_writeUnit ..).trans (ih _ _)

end

/-! ### Writes that waited -/

section
variable {s t u : State}

theorem sameProtection_localWrite (w : Who) (ord a : Nat) (d : List PByte) (s : State) :
    SameProtection s (runM (localWrite w ord a d) s).2 := by
  unfold localWrite
  rw [runM_bind_ok (runM_get s), runM_ite]
  split
  · exact .refl s
  split
  case h_1 => exact .refl s
  case h_2 =>
    dsimp only
    split
    · exact .refl s
    · exact .refl s
    · exact .of_mem rfl
  case h_3 =>
    rw [runM_bind, runM_waitFor]
    split
    case h_2 h =>
      cases congrArg Prod.snd h
      exact .refl s
    case h_1 h =>
      cases congrArg Prod.snd h
      split
      · exact .refl s
      · exact .refl s
      · dsimp only
        split
        · exact .refl s
        · rw [runM_ite]
          exact iteInduction (motive := fun r : Except Stop Unit × State => SameProtection s r.2) (fun _ => .refl s)
            fun _ => sameProtection_memWrite a d s

theorem sameProtection_busWriteNow (w : Who) (ord a : Nat) (d : List PByte) (s : State) :
    SameProtection s (runM (busWriteNow w ord a d) s).2 := by
  unfold busWriteNow
  rw [runM_ite]
  split
  · exact .refl s
  rw [runM_ite]
  split
  · exact .refl s
  rw [runM_bind_ok (runM_get s), runM_ite]
  split
  · rw [runM_bind_ok (runM_modify _ s)]
    exact .trans (.of_keeps (keeps_reachOwner .rfl (.refl s)) rfl) (sameProtection_localWrite ..)
  · refine .of_keeps (M := 134217753) ?_ rfl
    refine .m_get_bind (.m_bind (.m_waitFor (.refl s)) fun _ _ hu => ?_)
    exact keeps_peerWrite .rfl _ _ _ hu

theorem sameProtection_tryHeld (s : State) (x : HeldWrite) : SameProtection s (tryHeld s x) := by
  unfold tryHeld
  extract_lets bus gone
  have hgone : SameProtection s gone := .of_mem rfl
  have hwrite := hgone.trans (sameProtection_busWriteNow x.who x.ord x.addr x.data gone)
  split
  · next t hrun =>
    rw [hrun] at hwrite
    exact .ite (hwrite.trans (.of_keeps (keeps_staleWhere .rfl (.refl t)) rfl)) hwrite
  · next c t hrun =>
    rw [hrun] at hwrite
    exact hwrite.trans (.of_keeps (keeps_noteAnswer .rfl (.refl t)) rfl)
  · exact .of_keeps (keeps_startWake .rfl (.refl s)) rfl
  · exact .refl s

/-- Writes that waited, of whatever unit, leave the protection of pages. -/
theorem sameProtection_releaseHeld (s : State) : SameProtection s (releaseHeld s) :=
  .foldl (fun x _ u => sameProtection_tryHeld u x) s

end

end Sys2Proof.Machine
end

section
/-! PROOFS. Snapshot rounds: the table, the copies, the cursor record, first touches, and how a round ends (R723, R724,
R735 to R742). -/

namespace Sys2Proof.Machine

section
variable {s t u v : State} {r : Round} {c cycles : Nat}

/-! ### The protection table (R723, R724) -/

theorem exec_rsEnable (on : Bool) (hp : s.powered = true) : exec (.rsEnable on) s = .next (rsEnable on s) :=
  whileOn_powered _ hp

theorem rsEnable_sets (hw : writable s pgResilience = true) (hoff : rd s pgResilience Reg.RS_CTRL_ENABLE = 0)
    (h : Works rsStart s u) : rsEnable true s = after restoreWho u := by
  have hset : isSet s pgResilience Reg.RS_CTRL_ENABLE = false := congrArg (· != 0) hoff
  unfold rsEnable
  rw [hset, if_neg (by simp [hw]), if_pos rfl, attempt_works h]

theorem rsEnable_clears (hw : writable s pgResilience = true) (hon : rd s pgResilience Reg.RS_CTRL_ENABLE = 1) :
    rsEnable false s = wr pgResilience Reg.RS_CTRL_ENABLE 0 s := by
  have hset : isSet s pgResilience Reg.RS_CTRL_ENABLE = true := congrArg (· != 0) hon
  unfold rsEnable
  rw [hset, if_neg (by simp [hw]), if_neg (by decide)]

/-! ### The running round and the writes so far (R740) -/

/-- The round runs at stage `k`, and every write of it has been accepted. -/
structure RoundRuns (s : State) (r : Round) (k : Nat) : Prop where
  round : s.res.round = some r
  stage : r.stage = k
  accepted : accepted s roundWho = true

theorem runM_roundAt {k : Nat} (hround : s.res.round = some r) (hstage : r.stage = k)
    (hcode : runM roundCode s = (.ok c, s)) : runM (roundAt k) s = (.ok (r, c), s) := by
  have hat : (r.stage == k) = true := beq_iff_eq.mpr hstage
  unfold roundAt
  refine (runM_bind_ok (runM_get s)).trans ?_
  rw [hround]
  refine (runM_bind_ok (runM_waitFor_true hat s)).trans ?_
  exact runM_bind_ok hcode

theorem RoundRuns.runM_roundAt {k : Nat} (h : RoundRuns s r k) : runM (roundAt k) s = (.ok (r, 0), s) := by
  have hnone : s.bus.writeErr.find? (fun e => e.who == roundWho) = none := by
    obtain ⟨-, hall⟩ := Bool.and_eq_true_iff.mp h.accepted
    refine List.find?_eq_none.mpr fun e he => ?_
    simpa using List.all_eq_true.mp hall e he
  refine Machine.runM_roundAt h.round h.stage ?_
  unfold roundCode
  refine (runM_bind_ok (runM_get s)).trans ?_
  rw [hnone]
  exact runM_codeOf (runM_acknowledged h.accepted)

/-- A write of the round that has failed. -/
theorem runM_roundAt_failed {e : WriteErr} (hround : s.res.round = some r)
    (he : s.bus.writeErr.find? (fun e => e.who == roundWho) = some e) :
    runM (roundAt r.stage) s = (.ok (r, e.code), s) := by
  refine runM_roundAt hround rfl ?_
  unfold roundCode
  refine (runM_bind_ok (runM_get s)).trans ?_
  rw [he]
  rfl

/-- A round at another stage keeps the work of stage `k` waiting. -/
theorem runM_roundAt_other {k : Nat} (hround : s.res.round = some r) (hstage : r.stage ≠ k) :
    runM (roundAt k) s = (.error .hold, s) := by
  have hat : (r.stage == k) = false := beq_eq_false_iff_ne.mpr hstage
  unfold roundAt
  refine (runM_bind_ok (runM_get s)).trans ?_
  rw [hround]
  exact runM_bind_error (runM_waitFor_false hat s)

/-! ### The copies (R735, R737, R738) -/

theorem exec_roundCopy (hp : s.powered = true) (h : attempt roundWho (roundCopy cycles) s = t) :
    exec (.roundCopy cycles) s = .next (attempt roundWho (copyCursor cycles) t) :=
  exec_on hp (congrArg (fun t => whileOn s (attempt roundWho (copyCursor cycles) t)) h)

theorem RoundRuns.roundCopy_works (h : RoundRuns s r 1)
    (hgroups : Reads (copyGroups r (s.res.table.map Protect.mk)) s () u)
    (hpages : Reads (copyPages r.slot (regionPages s.res.table)) u () v) :
    Works (roundCopy cycles) s (setRound (some { r with stage := 2 }) v) := by
  have hcopies : Works (do
      let s ← get
      copyGroups r (s.res.table.map Protect.mk)
      copyPages r.slot (regionPages s.res.table)) s v :=
    (runM_bind_ok (runM_get s)).trans ((runM_bind_ok hgroups).trans hpages)
  unfold roundCopy
  refine (runM_bind_ok h.runM_roundAt).trans ?_
  exact runM_bind_ok (runM_codeOf hcopies)

theorem RoundRuns.roundCopy_waits (h : RoundRuns s r 2) : attempt roundWho (roundCopy cycles) s = after roundWho s := by
  have hat : runM (roundAt 1) s = (.error .hold, s) := runM_roundAt_other h.round (by rw [h.stage]; decide)
  exact attempt_hold (runM_bind_error hat)

/-- The cursor record of the round's step is copied once it is there. -/
theorem copyCursor_works {d : List PByte} (hround : s.res.round = some r) (hstage : r.stage = 2) (hcursor : r.cursor = false)
    (hnone : (s.cist.cursors.all fun c => c.step != r.step) = true)
    (hread : Reads (busRead roundWho (cursorAt s r.step) 128) s d u) (hstep : fld (d.map Prod.fst) 0 4 = r.step)
    (hwrite : Reads (busWrite roundWho (imageAt s r.slot + 0x80) d) u () v) :
    Works (copyCursor cycles) s (setRound (some { r with cursor := true }) v) := by
  have hgate : (r.stage == 2 && !r.cursor && s.cist.cursors.all fun c => c.step != r.step) = true := by
    rw [hstage, hcursor, hnone]
    rfl
  have hthere : (fld (d.map Prod.fst) 0 4 == r.step) = true := beq_iff_eq.mpr hstep
  have hcopy : Works (do
      let d ← busRead roundWho (cursorAt s r.step) 128
      waitFor (fld (d.map Prod.fst) 0 4 == r.step)
      busWrite roundWho (imageAt s r.slot + 0x80) d) s v :=
    (runM_bind_ok hread).trans ((runM_bind_ok (runM_waitFor_true hthere u)).trans hwrite)
  unfold copyCursor
  refine (runM_bind_ok (runM_get s)).trans ?_
  rw [hround]
  refine (runM_bind_ok (runM_waitFor_true hgate s)).trans ?_
  exact runM_bind_ok (runM_codeOf hcopy)

/-- A page that is touched before its copy is copied first. -/
theorem RoundRuns.firstTouch_works {p : Nat} (h : RoundRuns s r 1) (hprotected : look false s.mem.wprot p = true)
    (hcopy : Reads (copyPage r.slot p) s () u) :
    Works (firstTouch p cycles) s (bump pgResilience Reg.RS_FIRST_TOUCH 1 u) := by
  unfold firstTouch
  refine (runM_bind_ok h.runM_roundAt).trans ?_
  refine (runM_bind_ok (runM_get s)).trans ?_
  refine (runM_bind_ok (runM_waitFor_true hprotected s)).trans ?_
  exact runM_bind_ok (runM_codeOf hcopy)

theorem RoundRuns.roundCompleteWrite_works (h : RoundRuns s r 2) (hcursor : r.cursor = true)
    (hwrite : Reads (busWriteNat roundWho (imageAt s r.slot + 0xC) 4 (1 + natOf r.noCursor * 2)) s () u) :
    Works (roundCompleteWrite cycles) s (setRound (some { r with stage := 3 }) u) := by
  have hgate : (r.cursor || (0 : Nat) != 0) = true := by rw [hcursor]; rfl
  unfold roundCompleteWrite
  refine (runM_bind_ok h.runM_roundAt).trans ?_
  refine (runM_bind_ok (runM_waitFor_true hgate s)).trans ?_
  refine (runM_bind_ok (runM_get s)).trans ?_
  exact runM_bind_ok (runM_codeOf hwrite)

/-! ### How a round ends (R740, R742) -/

@[simp] theorem roundEnds_round (cycles : Nat) (s : State) : (roundEnds cycles s).res.round = none := by
  unfold roundEnds
  rw [(keeps_releaseHeld .rfl (.refl _)).res.resolve_left (by decide)]
  rfl

@[simp] theorem roundEnds_wprot (cycles : Nat) (s : State) : (roundEnds cycles s).mem.wprot = [] := by
  unfold roundEnds
  rw [(sameProtection_releaseHeld _).same]
  rfl

/-- The round has ended with its slot the newest valid one. -/
def roundKept (r : Round) (cycles : Nat) (s : State) : State :=
  let s := wr pgResilience Reg.RS_ROUND_STEP r.step (wr pgResilience Reg.RS_STATUS_ROUND 2 (roundEnds cycles s))
  let s := wr pgResilience Reg.RS_STATUS_NEWEST_SLOT r.slot (wr pgResilience Reg.RS_STATUS_NEWEST_VALID 1 s)
  raiseBit pgResilience 4 (bump pgResilience Reg.RS_ROUNDS 1 s)

theorem RoundRuns.roundComplete_works (h : RoundRuns s r 3) : Works (roundComplete cycles) s (roundKept r cycles s) := by
  unfold roundComplete
  refine (runM_bind_ok h.runM_roundAt).trans ?_
  dsimp only
  rw [if_neg (not_not_intro rfl)]
  exact runM_modify _ s

@[simp] theorem after_res (w : Who) (s : State) : (after w s).res = s.res := rfl

@[simp] theorem after_mem (w : Who) (s : State) : (after w s).mem = s.mem := rfl

theorem raiseBit_res (page b : Nat) (s : State) : (raiseBit page b s).res = s.res :=
  (keeps_raiseBit .rfl (.refl s)).res.resolve_left (by decide)

theorem raiseBit_mem (page b : Nat) (s : State) : (raiseBit page b s).mem = s.mem :=
  (keeps_raiseBit .rfl (.refl s)).mem.resolve_left (by decide)

theorem roundKept_ended (r : Round) (cycles : Nat) (s : State) :
    (roundKept r cycles s).res.round = none ∧ (roundKept r cycles s).mem.wprot = [] := by
  unfold roundKept
  dsimp only
  rw [raiseBit_res, bump_res, wr_res, wr_res, wr_res, wr_res, raiseBit_mem, bump_mem, wr_mem, wr_mem, wr_mem, wr_mem]
  exact ⟨roundEnds_round cycles s, roundEnds_wprot cycles s⟩

theorem roundKept_status (r : Round) (cycles : Nat) (s : State) :
    rd (roundKept r cycles s) pgResilience Reg.RS_STATUS_NEWEST_VALID = 1 ∧
    rd (roundKept r cycles s) pgResilience Reg.RS_STATUS_NEWEST_SLOT = r.slot % 2 ∧
    rd (roundKept r cycles s) pgResilience Reg.RS_STATUS_ROUND = 2 := by
  unfold roundKept
  dsimp only
  refine ⟨?_, ?_, ?_⟩
  · rw [rd_raiseBit (by decide) (by decide) (by decide), rd_bump_field _ _ _ (by decide), rd_wr_field _ _ _ (by decide),
      rd_wr_self]
    rfl
  · rw [rd_raiseBit (by decide) (by decide) (by decide), rd_bump_field _ _ _ (by decide), rd_wr_self]
    rfl
  · rw [rd_raiseBit (by decide) (by decide) (by decide), rd_bump_field _ _ _ (by decide), rd_wr_field _ _ _ (by decide),
      rd_wr_field _ _ _ (by decide), rd_wr_field _ _ _ (by decide), rd_wr_self]
    rfl

theorem roundFails_eq (c cycles : Nat) (s : State) : roundFails c cycles s =
    raiseBit pgResilience 5 (bump pgResilience Reg.RS_ROUND_FAILS 1 (wr pgResilience Reg.RS_STATUS_ROUND 3
      (roundEnds cycles (disown roundWho (rsFail c s))))) := rfl

@[simp] theorem roundFails_round (c cycles : Nat) (s : State) : (roundFails c cycles s).res.round = none := by
  rw [roundFails_eq, raiseBit_res, bump_res, wr_res, roundEnds_round]

@[simp] theorem roundFails_wprot (c cycles : Nat) (s : State) : (roundFails c cycles s).mem.wprot = [] := by
  rw [roundFails_eq, raiseBit_mem, bump_mem, wr_mem, roundEnds_wprot]

theorem rd_roundFails (c cycles : Nat) (s : State) : rd (roundFails c cycles s) pgResilience Reg.RS_STATUS_ROUND = 3 := by
  rw [roundFails_eq, rd_raiseBit (by decide) (by decide) (by decide), rd_bump_field _ _ _ (by decide), rd_wr_self]
  rfl

/-- Without a round there is no cursor record to copy. -/
theorem copyCursor_waits (h : s.res.round = none) : attempt roundWho (copyCursor cycles) s = after roundWho s := by
  have hwaits : runM (copyCursor cycles) s = (.error .hold, s) := by
    unfold copyCursor
    rw [runM_bind_ok (runM_get s), h]
    rfl
  exact attempt_hold hwaits

section
variable (hat : runM (roundAt r.stage) s = (.ok (r, c), s)) (hc : c ≠ 0)
include hat hc

theorem roundCopy_fails (hstage : r.stage = 1) : Works (roundCopy cycles) s (roundFails c cycles s) := by
  rw [hstage] at hat
  unfold roundCopy
  refine (runM_bind_ok hat).trans ?_
  dsimp only
  rw [if_pos hc]
  rw [runM_bind_ok (runM_pure c s), if_pos hc]
  exact runM_modify _ s

theorem roundCompleteWrite_fails (hstage : r.stage = 2) : Works (roundCompleteWrite cycles) s (roundFails c cycles s) := by
  have hgate : (r.cursor || c != 0) = true := by simp [hc]
  rw [hstage] at hat
  unfold roundCompleteWrite
  refine (runM_bind_ok hat).trans ?_
  refine (runM_bind_ok (runM_waitFor_true hgate s)).trans ?_
  refine (runM_bind_ok (runM_get s)).trans ?_
  rw [if_pos hc]
  rw [runM_bind_ok (runM_pure c s)]
  dsimp only
  rw [if_pos hc]
  exact runM_modify _ s

theorem roundComplete_fails (hstage : r.stage = 3) : Works (roundComplete cycles) s (roundFails c cycles s) := by
  rw [hstage] at hat
  unfold roundComplete
  refine (runM_bind_ok hat).trans ?_
  dsimp only
  rw [if_pos hc]
  exact runM_modify _ s

/-- A write that failed ends the round at any stage, as failed. -/
theorem roundFails_exec (hp : s.powered = true) (hlow : 1 ≤ r.stage) (hhigh : r.stage ≤ 3) :
    exec (match r.stage with
      | 1 => .roundCopy cycles
      | 2 => .roundCompleteWrite cycles
      | _ => .roundComplete cycles) s = .next (after roundWho (roundFails c cycles s)) := by
  have hstages : r.stage = 1 ∨ r.stage = 2 ∨ r.stage = 3 := by omega
  rcases hstages with h | h | h
  · have hnone : (after roundWho (roundFails c cycles s)).res.round = none := by
      rw [after_res]
      exact roundFails_round c cycles s
    rw [h]
    refine (exec_roundCopy hp (attempt_works (roundCopy_fails hat hc h))).trans ?_
    rw [copyCursor_waits hnone, after_after]
  · rw [h]
    exact exec_on hp (congrArg (whileOn s) (attempt_works (roundCompleteWrite_fails hat hc h)))
  · rw [h]
    exact exec_on hp (congrArg (whileOn s) (attempt_works (roundComplete_fails hat hc h)))

end

end

/-- Settles O54: the table's enable, then the stages of a round one by one, then the write that fails. -/
theorem snapshotRounds : Obligations.snapshot_rounds := by
  intro s hp
  refine ⟨fun hw hoff => ⟨fun t u hreads => ?_, fun c u hfails => ?_⟩, fun hw hon => ?_, fun r hround hacc => ?_,
    fun r e cycles hround hlow hhigh he hcode => ?_⟩
  · rw [exec_rsEnable true hp, rsEnable_sets hw hoff (runM_bind_ok (runM_catchCode_ok hreads))]
  · rw [exec_rsEnable true hp, rsEnable_sets hw hoff (runM_bind_ok (runM_catchCode_code hfails))]
  · rw [exec_rsEnable false hp, rsEnable_clears hw hon]
  · refine ⟨fun cycles u v hstage hgroups hpages => ?_, fun cycles d u v hstage hcursor hnone hread hstep hwrite => ?_,
      fun cycles a u hstage hprotected hcopy => ?_, fun cycles u hstage hcursor hwrite => ?_, fun cycles hstage => ?_⟩
    · have h : RoundRuns s r 1 := ⟨hround, hstage, hacc⟩
      exact exec_roundCopy hp (attempt_works (h.roundCopy_works hgroups hpages))
    · have h : RoundRuns s r 2 := ⟨hround, hstage, hacc⟩
      have hcursor' := copyCursor_works (s := after roundWho s) (cycles := cycles) hround hstage hcursor hnone hread hstep hwrite
      rw [exec_roundCopy hp h.roundCopy_waits, attempt_works hcursor']
    · have h : RoundRuns s r 1 := ⟨hround, hstage, hacc⟩
      exact exec_on hp (congrArg (whileOn s) (attempt_works (h.firstTouch_works hprotected hcopy)))
    · have h : RoundRuns s r 2 := ⟨hround, hstage, hacc⟩
      exact exec_on hp (congrArg (whileOn s) (attempt_works (h.roundCompleteWrite_works hcursor hwrite)))
    · have h : RoundRuns s r 3 := ⟨hround, hstage, hacc⟩
      obtain ⟨hgone, hfree⟩ := roundKept_ended r cycles s
      have hexec : exec (.roundComplete cycles) s = .next (after roundWho (roundKept r cycles s)) :=
        exec_on hp (congrArg (whileOn s) (attempt_works h.roundComplete_works))
      refine ⟨_, hexec, ?_⟩
      rw [after_res, after_mem, rd_after, rd_after, rd_after]
      exact ⟨hgone, hfree, roundKept_status r cycles s⟩
  · refine ⟨_, roundFails_exec (runM_roundAt_failed hround he) hcode hp hlow hhigh, ?_⟩
    rw [after_res, after_mem, rd_after]
    exact ⟨roundFails_round e.code cycles s, roundFails_wprot e.code cycles s, rd_roundFails e.code cycles s⟩

end Sys2Proof.Machine
end

section
/-! PROOFS. Restores and digests (R743, R744, R746 to R749). -/

namespace Sys2Proof.Machine

section
variable {s t u v x : State} {c : Nat}

/-! ### A restore begins (R743, R744) -/

theorem exec_rsRestore (hp : s.powered = true) : exec .rsRestore s = .next (rsRestore s) := whileOn_powered _ hp

/-- The restore has begun; `fill` says whether it fills a spare. -/
def restoreBegun (fill : Bool) (s : State) : State :=
  setRestore (some { fill := fill }) (wr pgResilience Reg.RS_STATUS_RESTORE 1 (wr pgResilience Reg.RS_CTRL_RESTORE 1 s))

theorem restoreBegun_res (fill : Bool) (s : State) :
    (restoreBegun fill s).res = { s.res with restore := some { fill := fill } } := rfl

theorem rsRestore_begins (hw : writable s pgResilience = true) (hrounds : rd s pgResilience Reg.RS_CTRL_ENABLE = 0)
    (hsteps : rd s pgGeneration Reg.GEN_CTRL_ENABLE = 0) (hcistern : rd s pgCistern Reg.CI_CTRL_ENABLE = 0)
    (hdigest : rd s pgResilience Reg.RS_DIGEST_GO = 0) (hnone : s.res.restore = none) :
    rsRestore s = attempt restoreWho restoreWork (restoreBegun (isSet s pgResilience Reg.RS_CTRL_FILL) s) := by
  have hfill : isSet (wr pgResilience Reg.RS_STATUS_RESTORE 1 (wr pgResilience Reg.RS_CTRL_RESTORE 1 s)) pgResilience
      Reg.RS_CTRL_FILL = isSet s pgResilience Reg.RS_CTRL_FILL :=
    congrArg (· != 0) ((rd_wr_field _ _ _ (by decide)).trans (rd_wr_field _ _ _ (by decide)))
  unfold rsRestore
  rw [if_neg (by simp [hw]), if_neg (by simp [isSet, hrounds, hsteps, hcistern, hdigest]), if_neg (by simp [hnone])]
  dsimp only
  rw [hfill]
  rfl

theorem rsRestore_forbidden (hw : writable s pgResilience = true) (hrounds : rd s pgResilience Reg.RS_CTRL_ENABLE = 1) :
    rsRestore s = restoreRefused 0x0651 s := by
  unfold rsRestore
  rw [if_neg (by simp [hw]), if_pos (.inl (by simp [isSet, hrounds]))]

/-- The image is found: its entries are written back, one after another. -/
theorem restoreWork_writes {r : Restore} {k g : Nat} {table : List (List Byte)} (hr : u.res.restore = some r)
    (hnew : r.checked = false) (hfirst : r.next = 0) (hcheck : Reads checkRestore u (k, g, table) v)
    (hwrite : Reads (restoreEntries k g table)
      (setRestore (some { r with checked := true, slot := k, gen := g, table := table }) v) () x) :
    Works restoreWork u x := by
  have hentries : runM (codeOf (restoreEntries k g (table.drop r.next)))
      (setRestore (some { r with checked := true, slot := k, gen := g, table := table }) v) = (.ok 0, x) := by
    have hall : table.drop r.next = table := by rw [hfirst, List.drop_zero]
    rw [hall]
    exact runM_codeOf hwrite
  unfold restoreWork
  refine (runM_bind_ok (runM_get u)).trans ?_
  rw [hr]
  dsimp only
  rw [hnew]
  refine (runM_bind_ok (runM_catchCode_ok hcheck)).trans ?_
  refine (runM_bind_ok (runM_modify _ v)).trans ?_
  refine (runM_bind_ok (runM_get _)).trans ?_
  exact runM_bind_ok hentries

/-- A restore that a check refuses ends with its code. -/
theorem restoreWork_refused {r : Restore} (hr : u.res.restore = some r) (hnew : r.checked = false)
    (hcheck : runM checkRestore u = (.error (.code c), v)) : Works restoreWork u (restoreRefused c v) := by
  unfold restoreWork
  refine (runM_bind_ok (runM_get u)).trans ?_
  rw [hr]
  dsimp only
  rw [hnew]
  refine (runM_bind_ok (runM_catchCode_code hcheck)).trans ?_
  refine (runM_bind_ok (runM_modify _ v)).trans ?_
  exact runM_bind_ok (runM_get _)

/-! ### A restore ends (R744) -/

/-- With every entry written, what is left is the acknowledgement. -/
theorem exec_rsRestoreDone {r : Restore} (hp : s.powered = true) (hr : s.res.restore = some r)
    (hdone : r.unfinished = false) (h : Works restoreDone s t) : exec .rsRestoreDone s = .next (after restoreWho t) := by
  have hgoesOn : restoreGoesOn s = after restoreWho t := by
    unfold restoreGoesOn
    rw [hr, if_neg (by simp [hdone]), attempt_works h]
  exact exec_on hp (congrArg (whileOn s) hgoesOn)

theorem restoreDone_works {r : Restore} (hr : s.res.restore = some r) (hdone : r.unfinished = false)
    (hcode : runM (codeOf (acknowledged restoreWho)) s = (.ok c, t)) :
    Works restoreDone s (if c = 0 then raiseBit pgResilience 7 (bump pgResilience Reg.RS_RESTORES 1 (restoreEnds 2 t))
      else restoreFails c t) := by
  have hgate : (s.res.restore.any fun r => !r.unfinished) = true := by simp [hr, hdone]
  unfold restoreDone
  refine (runM_bind_ok (runM_get s)).trans ?_
  refine (runM_bind_ok (runM_waitFor_true hgate s)).trans ?_
  refine (runM_bind_ok hcode).trans ?_
  cases c with
  | zero =>
    rw [if_pos rfl]
    exact runM_modify _ t
  | succ c =>
    rw [if_neg (Nat.succ_ne_zero c)]
    exact runM_modify _ t

/-! ### Digests (R746 to R749) -/

theorem exec_rsDigest (hp : s.powered = true) : exec .rsDigest s = .next (rsDigest s) := whileOn_powered _ hp

/-- What `GO` finds malformed of the range and its destination. -/
def digestMalformed (s : State) : Prop :=
  rd s pgResilience Reg.RS_DIGEST_SRC % 64 ≠ 0 ∨ (!isLocal s (rd s pgResilience Reg.RS_DIGEST_SRC)) = true ∨
    (!isMemory s (localOf (rd s pgResilience Reg.RS_DIGEST_SRC))) = true ∨ rd s pgResilience Reg.RS_DIGEST_LEN = 0 ∨
    rd s pgResilience Reg.RS_DIGEST_LEN % 64 ≠ 0 ∨ rd s pgResilience Reg.RS_DIGEST_DST % 8 ≠ 0

section
variable (hw : writable s pgResilience = true) (hgo : rd s pgResilience Reg.RS_DIGEST_GO = 0)
include hw hgo

theorem rsDigest_starts (hgood : ¬ digestMalformed s) (h : Works digestWork (wr pgResilience Reg.RS_DIGEST_GO 1 s) t) :
    rsDigest s = after digestWho t := by
  unfold rsDigest
  dsimp only
  rw [if_neg (by simp [hw, isSet, hgo])]
  exact (if_neg hgood).trans (attempt_works h)

theorem rsDigest_refused (hbad : digestMalformed s) : rsDigest s = digestRefused 0x0656 s := by
  unfold rsDigest
  dsimp only
  rw [if_neg (by simp [hw, isSet, hgo])]
  exact if_pos hbad

end

/-- The pages are digested; `GO` is set while they are. -/
theorem digestWork_works
    (hpages : Reads (digestPages (isSet s pgResilience Reg.RS_DIGEST_SHA) (rd s pgResilience Reg.RS_DIGEST_DST) 0
      (digestRanges (rd s pgResilience Reg.RS_DIGEST_SRC) (rd s pgResilience Reg.RS_DIGEST_LEN)))
      (wr pgResilience Reg.RS_DIGEST_GO 1 s) () t) :
    Works digestWork (wr pgResilience Reg.RS_DIGEST_GO 1 s) (modRes (fun r => { r with digest := some 0 }) t) := by
  have hsha : isSet (wr pgResilience Reg.RS_DIGEST_GO 1 s) pgResilience Reg.RS_DIGEST_SHA =
      isSet s pgResilience Reg.RS_DIGEST_SHA := congrArg (· != 0) (rd_wr_field _ _ _ (by decide))
  unfold digestWork
  refine (runM_bind_ok (runM_get _)).trans ?_
  rw [hsha, rd_wr_field _ _ _ (by decide), rd_wr_field _ _ _ (by decide), rd_wr_field _ _ _ (by decide)]
  exact runM_bind_ok (runM_codeOf hpages)

/-- `GO` is clear again, and no digest is under way. -/
def digestEnds (s : State) : State := wr pgResilience Reg.RS_DIGEST_GO 0 (modRes (fun r => { r with digest := none }) s)

theorem digestDone_works (hgo : rd s pgResilience Reg.RS_DIGEST_GO = 1) (hdigest : s.res.digest = some c)
    (hacc : accepted s digestWho = true) :
    Works digestDone s (if c = 0 then digestEnds s else digestRefused c (digestEnds s)) := by
  have hgate : (isSet s pgResilience Reg.RS_DIGEST_GO && s.res.digest.isSome) = true := by simp [isSet, hgo, hdigest]
  have hcode : (if (s.res.digest.getD 0) = 0 then 0 else s.res.digest.getD 0) = c := by
    rw [hdigest]
    exact ite_eq_right_iff.mpr fun h => h.symm
  unfold digestDone
  refine (runM_bind_ok (runM_get s)).trans ?_
  refine (runM_bind_ok (runM_get s)).trans ?_
  refine (runM_bind_ok (runM_waitFor_true hgate s)).trans ?_
  refine (runM_bind_ok (runM_codeOf (runM_acknowledged hacc))).trans ?_
  refine (runM_bind_ok (runM_get s)).trans ?_
  dsimp only
  rw [hcode]
  exact runM_modify _ s

theorem exec_rsDigestDone (hp : s.powered = true) (hdigest : s.res.digest = some c) (h : Works digestDone s t) :
    exec .rsDigestDone s = .next (after digestWho t) := by
  have hgoesOn : digestGoesOn s = after digestWho t := by
    unfold digestGoesOn
    rw [if_neg (by simp [hdigest]), attempt_works h]
  exact exec_on hp (congrArg (whileOn s) hgoesOn)

end

/-- Settles O55: a restore's begin, its refusals, its end, then the same of a digest. -/
theorem restoresAndDigests : Obligations.restores_and_digests := by
  intro s hp
  refine ⟨fun u hw hrounds hsteps hcistern hdigest hnone hu => ?begins, fun hw hrounds => ?forbidden,
    fun r hr hdone => ⟨fun hacc => ?ends, fun hans hcode => ?fails⟩,
    fun t hw hgo hsrc hlocal hmem hlen hlen' hdst hpages => ?digests, fun hw hgo hbad => ?malformed,
    fun hgo hdigest hacc => ?digested, fun c hgo hdigest hc hacc => ?failed⟩
  case begins =>
    have hu' : u = restoreBegun (isSet s pgResilience Reg.RS_CTRL_FILL) s := hu
    have hr : u.res.restore = some { fill := isSet s pgResilience Reg.RS_CTRL_FILL } := by rw [hu', restoreBegun_res]
    refine ⟨fun k g t v x hcheck hwrite => ?_, fun c v hcheck => ?_⟩
    · rw [exec_rsRestore hp, rsRestore_begins hw hrounds hsteps hcistern hdigest hnone, ← hu',
        attempt_works (restoreWork_writes hr rfl rfl hcheck hwrite)]
    · rw [exec_rsRestore hp, rsRestore_begins hw hrounds hsteps hcistern hdigest hnone, ← hu',
        attempt_works (restoreWork_refused hr rfl hcheck)]
  case forbidden => rw [exec_rsRestore hp, rsRestore_forbidden hw hrounds]
  case ends =>
    have hworks := restoreDone_works hr hdone (runM_codeOf (runM_acknowledged hacc))
    rw [if_pos rfl] at hworks
    exact exec_rsRestoreDone hp hr hdone hworks
  case fails =>
    have hworks := restoreDone_works hr hdone (codeOf_acknowledged hans)
    rw [if_neg hcode] at hworks
    exact exec_rsRestoreDone hp hr hdone hworks
  case digests =>
    have hgood : ¬ digestMalformed s := by simp [digestMalformed, hsrc, hlocal, hmem, hlen, hlen', hdst]
    rw [exec_rsDigest hp, rsDigest_starts hw hgo hgood (digestWork_works hpages)]
  case malformed =>
    have hbad' : digestMalformed s := by
      rcases hbad with h | h | h | h
      · exact .inl h
      · exact .inr (.inr (.inr (.inl h)))
      · exact .inr (.inr (.inr (.inr (.inl h))))
      · exact .inr (.inr (.inr (.inr (.inr h))))
    rw [exec_rsDigest hp, rsDigest_refused hw hgo hbad']
  case digested =>
    have hworks := digestDone_works hgo hdigest hacc
    rw [if_pos rfl] at hworks
    exact exec_rsDigestDone hp hdigest hworks
  case failed =>
    have hworks := digestDone_works hgo hdigest hacc
    rw [if_neg hc] at hworks
    exact exec_rsDigestDone hp hdigest hworks

end Sys2Proof.Machine
end

section
/-! PROOFS. The reduction engines: what their state keeps, and the runs that are open (R694 to R698). -/

namespace Sys2Proof.Machine

section
variable {s t u : State} {n : Nat} {r q : RedRun} {entry step j code : Nat}

/-! ### The state of an engine -/

@[simp] theorem getRed_setRed (n : Nat) (x : Reduct) (s : State) : getRed (setRed n x s) n = x := look_put_self ..

@[simp] theorem getRed_modRed (n : Nat) (f : Reduct → Reduct) (s : State) : getRed (modRed n f s) n = f (getRed s n) :=
  getRed_setRed ..

/-- The runs stand in the engines' part of the state. -/
theorem findRun_of_reds (h : t.reds = s.reds) (n entry step : Nat) : findRun t n entry step = findRun s n entry step := by
  unfold findRun getRed
  rw [h]

theorem redFail_reds (n code entry : Nat) (s : State) : (redFail n code entry s).reds = s.reds :=
  (keeps_redFail .rfl (.refl s)).reds.resolve_left (by decide)

theorem twinStale_reds (s : State) : (twinStale s).reds = s.reds :=
  (keeps_twinStale .rfl (.refl s)).reds.resolve_left (by decide)

theorem vetoStep_reds (step code : Nat) (s : State) : (vetoStep step code s).reds = s.reds :=
  (keeps_vetoStep .rfl (.refl s)).reds.resolve_left (by decide)

theorem pushAdd_reds (w : Who) (a v : Nat) (s : State) : (pushAdd w a v none s).reds = s.reds := rfl

/-- Whether an engine works depends on its `ACTIVE` bit and its lock; its runs show elsewhere. -/
theorem redActive_modRed (n : Nat) (f : Reduct → Reduct) (s : State) : redActive (modRed n f s) n = redActive s n := by
  have hactive : rd (modRed n f s) (pgReduction n) Reg.RD_STATUS_ACTIVE = rd s (pgReduction n) Reg.RD_STATUS_ACTIVE :=
    (rd_wr_field _ _ _ (by decide)).trans (rd_of_regs rfl _ _)
  exact congrArg (fun x => (x != 0) && decide (lockState s (pgReduction n) = 0)) hactive

/-! ### A run completes (R697, R698) -/

/-- A completed run is open no longer. -/
theorem findRun_completeRun (n : Nat) (r : RedRun) (code : Nat) (s : State) :
    findRun (completeRun n r code s) n r.entry r.step = none := by
  have hreds : (completeRun n r code s).reds = (modRed n (fun x => { x with
      runs := x.runs.filter fun q => !(q.entry == r.entry && q.step == r.step)
      ended := x.ended ++ [(r.entry, r.step, code)] }) s).reds := by
    unfold completeRun
    extract_lets page ended counted told
    have htold : told.reds = ended.reds := by
      refine Eq.trans (b := counted.reds) ?_ (bump_reds ..)
      dsimp only [told]
      split
      · exact pushAdd_reds ..
      · rfl
    split
    · exact htold
    · rw [redFail_reds]
      exact htold
  rw [findRun_of_reds hreds, findRun, getRed_modRed, List.find?_eq_none]
  intro q hq
  have hkept := List.of_mem_filter (p := fun q : RedRun => !(q.entry == r.entry && q.step == r.step)) hq
  exact fun hsame => by simp [hsame] at hkept

/-- The run that is open, if it is, has the result of chunk `j`. -/
def RunHas (n entry step j : Nat) (s : State) : Prop := ∀ q, findRun s n entry step = some q → j ∈ q.got

theorem RunHas.of_reds (h : RunHas n entry step j s) (hreds : t.reds = s.reds) : RunHas n entry step j t := by
  unfold RunHas
  rw [findRun_of_reds hreds]
  exact h

theorem RunHas.of_none (h : findRun s n entry step = none) : RunHas n entry step j s := fun q hq => by
  rw [h] at hq
  cases hq

theorem entry_of_findRun (h : findRun s n entry step = some r) : r.entry = entry ∧ r.step = step := by
  simpa using List.find?_some h

/-- The run is replaced by one that has the result. -/
theorem runHas_putRun (hentry : r.entry = entry) (hstep : r.step = step) (hj : j ∈ r.got) (s : State) :
    RunHas n entry step j (putRun n r s) := by
  intro q hq
  obtain ⟨hqe, hqs⟩ := entry_of_findRun hq
  unfold findRun putRun at hq
  rw [getRed_modRed] at hq
  obtain ⟨p, -, rfl⟩ := List.mem_map.mp (List.mem_of_find?_eq_some hq)
  by_cases hsame : p.entry = r.entry ∧ p.step = r.step
  · rw [if_pos hsame]
    exact hj
  · rw [if_neg hsame] at hqe hqs
    exact absurd ⟨hqe.trans hentry.symm, hqs.trans hstep.symm⟩ hsame

theorem runHas_tryComplete (h : RunHas n entry step j s) : RunHas n entry step j (tryComplete n entry step s) := by
  unfold tryComplete
  split
  · next r e hrun _ =>
    split
    · obtain ⟨rfl, rfl⟩ := entry_of_findRun hrun
      exact .of_none (findRun_completeRun ..)
    · exact h
  · exact h

end

end Sys2Proof.Machine
end

section
/-! PROOFS. The reduction engines: tables, runs, contributions, results, deadlines and forwarded writes (R693 to R710, R716,
R730). -/

namespace Sys2Proof.Machine

section
variable {s t u v w x y z : State} {n : Nat}

/-! ### The table (R693, R694) -/

theorem exec_rdEnable (on : Bool) (hp : s.powered = true) : exec (.rdEnable n on) s = .next (rdEnable n on s) :=
  whileOn_powered _ hp

theorem rdEnable_sets (hn : n < 2) (hw : writable s (pgReduction n) = true)
    (hoff : rd s (pgReduction n) Reg.RD_CTRL_ENABLE = 0) (h : Works (redStart n) s t) :
    rdEnable n true s = after (redWho n) t := by
  unfold rdEnable
  dsimp only
  rw [if_neg (by simp [isSet, hn, hw, hoff]), if_pos rfl, attempt_works h]

theorem rdEnable_clears (hn : n < 2) (hw : writable s (pgReduction n) = true)
    (hon : rd s (pgReduction n) Reg.RD_CTRL_ENABLE = 1) :
    rdEnable n false s = wr (pgReduction n) Reg.RD_CTRL_ENABLE 0 (wr (pgReduction n) Reg.RD_STATUS_ACTIVE 0 (setRed n {} s)) := by
  unfold rdEnable
  dsimp only
  rw [if_neg (by simp [isSet, hn, hw, hon]), if_neg (by decide)]

section
variable {k : Nat} {d : List PByte} {table : List (List Byte)} {es : List (RedEntry × Nat)}
  (hk : k = rd s (pgReduction n) Reg.RD_TABLE_COUNT) (hmin : 1 ≤ k) (hmax : k ≤ 1024)
  (halign : rd s (pgReduction n) Reg.RD_TABLE % 128 = 0)
  (hread : Reads (busRead (redWho n) (rd s (pgReduction n) Reg.RD_TABLE) (128 * k)) s d u)
  (htable : table = piecesOfList 128 (k + 1) (d.map Prod.fst)) (hes : es = (table.map RedEntry.mk).zipIdx)
include hk hmin hmax halign hread htable hes

/-- The table is read, then held against its checks. -/
theorem runM_redStart : runM (redStart n) s = runM (match redCheck s n es with
    | some (c, i) => modify (redFail n c i)
    | none => do
      match ← catchCode (do
          let maps ← readMaps n ((table.map fun d => (RedEntry.mk d).group).eraseDups)
          let ws ← readWaits n es
          return (maps, ws)) with
      | .error c => modify (redFail n c 0)
      | .ok (maps, ws) =>
        modify fun s => wr (pgReduction n) Reg.RD_CTRL_ENABLE 1 (wr (pgReduction n) Reg.RD_STATUS_ACTIVE 1
          (setRed n { table := table, maps := maps, consumed := ws } s))) u := by
  have hshape : (k == 0 || decide (1024 < k) || rd s (pgReduction n) Reg.RD_TABLE % 128 != 0) = false := by
    simp [halign]
    omega
  have htaken : Reads (do
      refuseIf (k == 0 || decide (1024 < k) || rd s (pgReduction n) Reg.RD_TABLE % 128 != 0) 0x01B0
      let d ← busRead (redWho n) (rd s (pgReduction n) Reg.RD_TABLE) (128 * k)
      return piecesOfList 128 (k + 1) (d.map Prod.fst)) s table u := by
    refine (runM_bind_ok (runM_refuseIf_false _ hshape s)).trans ?_
    rw [htable]
    exact runM_bind_ok hread
  subst hk hes
  unfold redStart
  refine (runM_bind_ok (runM_get s)).trans ?_
  exact runM_bind_ok (runM_catchCode_ok htaken)

theorem redStart_refused {c i : Nat} (hcheck : redCheck s n es = some (c, i)) : Works (redStart n) s (redFail n c i u) := by
  refine (runM_redStart hk hmin hmax halign hread htable hes).trans ?_
  rw [hcheck]
  exact runM_modify _ u

theorem redStart_loads {maps : List (Nat × List Nat)} {ws : List (Nat × Nat)} (hcheck : redCheck s n es = none)
    (hmaps : Reads (readMaps n ((table.map fun d => (RedEntry.mk d).group).eraseDups)) u maps v)
    (hwaits : Reads (readWaits n es) v ws w) :
    Works (redStart n) s (wr (pgReduction n) Reg.RD_CTRL_ENABLE 1 (wr (pgReduction n) Reg.RD_STATUS_ACTIVE 1
      (setRed n { table := table, maps := maps, consumed := ws } w))) := by
  have hboth : Reads (do
      let maps ← readMaps n ((table.map fun d => (RedEntry.mk d).group).eraseDups)
      let ws ← readWaits n es
      return (maps, ws)) u (maps, ws) w := (runM_bind_ok hmaps).trans (runM_bind_ok hwaits)
  refine (runM_redStart hk hmin hmax halign hread htable hes).trans ?_
  rw [hcheck]
  refine (runM_bind_ok (runM_catchCode_ok hboth)).trans ?_
  exact runM_modify _ w

end

/-! ### A run starts (R694, R695, R701 to R703) -/

section
variable {i step used val c : Nat} {p : Bool} {e : RedEntry}

/-- The signals of a run are in: the engine is ready and active, and the count stands at what the entry asks for. -/
structure RunIn (s : State) (n i : Nat) (u : State) (e : RedEntry) (step used val : Nat) (p : Bool) (w : State) : Prop where
  ready : Reads (redReady n) s () u
  active : redActive u n = true
  entry : redEntry u n i = some e
  next : nextRun u n i = some step
  taken : used = look 0 (getRed u n).consumed i
  count : Reads (busReadNat (redWho n) e.wait 4) u (val, p) w
  enough : fld e.d 0x3C 4 ≤ sub32 val used
  ahead : sub32 val used < 2 ^ 31

/-- The run is open, its signals taken. -/
def runTaken (n i : Nat) (e : RedEntry) (step used : Nat) (w : State) : State :=
  modRed n (fun y => { y with
    consumed := insertKey y.consumed i ((used + fld e.d 0x3C 4) % 2 ^ 32)
    runs := y.runs ++ [{ entry := i, step := step }] }) w

/-- What the run sends once its signals are taken; `k` is the copy of its scale. -/
def runSends (n i : Nat) (e : RedEntry) (step k : Nat) : M Unit := do
  let coarse ← readCoarse (redWho n) e.srcFmt (fld e.d 0x10 8) k
  let E ← windowExp n e
  sendChunks n i e step coarse E (List.range e.chunks)

/-- How a run goes on from the code of what it sends. -/
def runGoesOn (n i step c : Nat) : M Unit := do
  if c ≠ 0 then
    modify fun s => match findRun s n i step with
      | some r => completeRun n r c s
      | none => s
  else sweepRuns n ((findRun (← get) n i step).toList)

theorem RunIn.runM_runStart (h : RunIn s n i u e step used val p w)
    (hcode : runM (codeOf (runSends n i e step (committed u % 3))) (runTaken n i e step used w) = (.ok c, x)) :
    runM (runStart n i) s = runM (runGoesOn n i step c) x := by
  obtain ⟨hready, hactive, hentry, hnext, rfl, hcount, henough, hahead⟩ := h
  have hgate : (decide (fld e.d 0x3C 4 ≤ sub32 val (look 0 (getRed u n).consumed i)) &&
      decide (sub32 val (look 0 (getRed u n).consumed i) < 2 ^ 31)) = true := by
    rw [decide_eq_true henough, decide_eq_true hahead]
    rfl
  unfold runStart
  refine (runM_bind_ok hready).trans ?_
  refine (runM_bind_ok (runM_get u)).trans ?_
  refine (runM_bind_ok (runM_waitFor_true hactive u)).trans ?_
  rw [hentry, hnext]
  refine (runM_bind_ok (runM_catchCode_ok hcount)).trans ?_
  refine (runM_bind_ok (runM_waitFor_true hgate w)).trans ?_
  refine (runM_bind_ok (runM_modify _ w)).trans ?_
  exact runM_bind_ok hcode

theorem exec_reductionRunStart (hp : s.powered = true) (hn : n < 2) (h : Works (runStart n i) s t) :
    exec (.reductionRunStart n i) s = .next (after (redWho n) t) := by
  have hin : ¬ 2 ≤ n := by omega
  exact exec_on hp (congrArg (whileOn s) ((if_neg hin).trans (attempt_works h)))

/-- A run whose scale and window are valid sends its chunks, and closes what is due. -/
theorem RunIn.runStart_sends (h : RunIn s n i u e step used val p w) {coarse : Nat} {x₁ x₂ : State} {E : Int}
    (hcoarse : Reads (readCoarse (redWho n) e.srcFmt (fld e.d 0x10 8) (committed u % 3)) (runTaken n i e step used w) coarse x₁)
    (hwindow : Reads (windowExp n e) x₁ E x₂)
    (hsend : Reads (sendChunks n i e step coarse E (List.range e.chunks)) x₂ () y)
    (hsweep : Reads (sweepRuns n (findRun y n i step).toList) y () z) : Works (runStart n i) s z := by
  have hsends : Works (runSends n i e step (committed u % 3)) (runTaken n i e step used w) y :=
    (runM_bind_ok hcoarse).trans ((runM_bind_ok hwindow).trans hsend)
  refine (h.runM_runStart (runM_codeOf hsends)).trans ?_
  unfold runGoesOn
  rw [if_neg (not_not_intro rfl)]
  exact (runM_bind_ok (runM_get y)).trans hsweep

/-- A run whose scale is not valid completes with the code. -/
theorem RunIn.runStart_ends (h : RunIn s n i u e step used val p w) {x₁ : State}
    (hcoarse : runM (readCoarse (redWho n) e.srcFmt (fld e.d 0x10 8) (committed u % 3)) (runTaken n i e step used w) =
      (.error (.code c), x₁)) (hc : c ≠ 0) : ∃ t, Works (runStart n i) s t ∧ findRun t n i step = none := by
  have hsends : runM (runSends n i e step (committed u % 3)) (runTaken n i e step used w) = (.error (.code c), x₁) :=
    runM_bind_error hcoarse
  have hruns := h.runM_runStart (runM_codeOf_code hsends)
  unfold runGoesOn at hruns
  rw [if_pos hc, runM_modify] at hruns
  refine ⟨_, hruns, ?_⟩
  split
  · next r hrun =>
    obtain ⟨rfl, rfl⟩ := entry_of_findRun hrun
    exact findRun_completeRun ..
  · next hrun => exact hrun

end

/-! ### Results (R712, R715, R728) -/

section
variable {data : List Byte} {r : RedRun} {e : RedEntry} {entry step j code : Nat}

theorem exec_result (hp : s.powered = true) (hengine : engineOf data = n) (h : Works (redResult n data) s t) :
    exec (.result data) s = .next (after (redWho n) t) := by
  subst hengine
  exact exec_on hp (congrArg (whileOn s) (attempt_works h))

/-- A result of no open run is not taken. -/
theorem redResult_strays (hrun : findRun s n (fld data 4 2 % 1024) (fld data 0 4) = none) : Works (redResult n data) s s := by
  unfold redResult
  refine (runM_bind_ok (runM_get s)).trans ?_
  dsimp only
  rw [hrun]
  cases redEntry s n (fld data 4 2 % 1024) with
  | none => rfl
  | some e => rfl

section
variable (hrun : findRun s n (fld data 4 2 % 1024) (fld data 0 4) = some r)
  (hentry : redEntry s n (fld data 4 2 % 1024) = some e)
include hrun hentry

theorem redResult_known (h : r.got.contains (fld data 8 4) = true ∨ e.chunks ≤ fld data 8 4) :
    Works (redResult n data) s s := by
  have hknown : (r.got.contains (fld data 8 4) || decide (e.chunks ≤ fld data 8 4)) = true := by
    rw [Bool.or_eq_true, decide_eq_true_eq]
    exact h
  unfold redResult
  refine (runM_bind_ok (runM_get s)).trans ?_
  dsimp only
  rw [hrun, hentry]
  dsimp only
  rw [if_pos hknown]
  rfl

/-- How a result ends once it is noted: it is forwarded, when `code` is 0 and the entry has a twin, and its run may
complete. -/
def resultEnds (s : State) (n : Nat) (e : RedEntry) (code entry step j off : Nat) (bytes : List Byte) : M Unit := do
  if code = 0 then
    match twinMirror s n entry with
    | none => pure ()
    | some a =>
      match ← codeOf (busWrite (forwardWho n entry step j) (a + step % 2 * fld e.d 0x38 4 + off) (clean bytes)) with
      | 0 => pure ()
      | _ => modify twinStale
  modify (tryComplete n entry step)

omit hrun hentry in
/-- A forwarded write, whatever its code, leaves the engines as they were. -/
theorem resultEnds_works (s : State) (n : Nat) (e : RedEntry) (code entry step j off : Nat) (bytes : List Byte) (v : State) :
    ∃ w, w.reds = v.reds ∧ Works (resultEnds s n e code entry step j off bytes) v (tryComplete n entry step w) := by
  unfold resultEnds
  split
  · split
    · exact ⟨v, rfl, runM_modify _ v⟩
    · next a _ =>
      obtain ⟨c, hcode⟩ := runM_codeOf_busWrite (forwardWho n entry step j) (a + step % 2 * fld e.d 0x38 4 + off) (clean bytes) v
      have hreds : (leaves (busWrite (forwardWho n entry step j) (a + step % 2 * fld e.d 0x38 4 + off) (clean bytes)) v).reds =
          v.reds := (keeps_busWrite .rfl (.refl v)).reds.resolve_left (by decide)
      unfold Works
      rw [runM_bind_ok hcode]
      split
      · exact ⟨_, hreds, runM_modify _ _⟩
      · exact ⟨_, (twinStale_reds _).trans hreds, (runM_bind_ok (runM_modify _ _)).trans (runM_modify _ _)⟩
  · exact ⟨v, rfl, runM_modify _ v⟩

/-- The result is noted with its run: its code, the veto of a failed checksum, and its elements that are not finite. -/
def resultNotes (n : Nat) (data : List Byte) (r : RedRun) (e : RedEntry) (wc : Nat) (s : State) : State :=
  let step := fld data 0 4
  let j := fld data 8 4
  let code := fld data 0xC 2
  let bytes := (data.drop 64).take (e.chunkLen j * e.dstSize)
  let c := if code ≠ 0 then code else wc
  let s := putRun n { r with got := r.got ++ [j], code := if r.code = 0 then c else r.code } s
  let s := if code = 0x0640 then vetoStep step 0x0640 s else s
  if c ≠ 0 then s
  else
    let bad := ((unpackCodes e.dstFmt.format (e.chunkLen j) bytes).filter fun x => !(elementVal e.dstFmt.format x).isFin).length
    addAt (pgReduction n) Reg.RD_STEP_NONFINITE (step % 3) bad s

omit hentry in
theorem runHas_resultNotes (wc : Nat) (u : State) :
    RunHas n (fld data 4 2 % 1024) (fld data 0 4) (fld data 8 4) (resultNotes n data r e wc u) := by
  obtain ⟨hre, hrs⟩ := entry_of_findRun hrun
  unfold resultNotes
  extract_lets step j code bytes c put noted bad
  have hput : RunHas n (fld data 4 2 % 1024) (fld data 0 4) (fld data 8 4) put :=
    runHas_putRun (r := { r with got := r.got ++ [j], code := if r.code = 0 then c else r.code }) hre hrs (List.mem_append_right _ (List.mem_singleton.mpr rfl)) u
  have hnoted : RunHas n (fld data 4 2 % 1024) (fld data 0 4) (fld data 8 4) noted :=
    iteInduction (fun _ => hput.of_reds (vetoStep_reds ..)) fun _ => hput
  exact iteInduction (fun _ => hnoted) fun _ => hnoted.of_reds rfl

/-- A new result is written, noted and forwarded; the run that is open then has it. -/
theorem redResult_takes (hnew : r.got.contains (fld data 8 4) = false) (hin : fld data 8 4 < e.chunks) :
    ∃ t, Works (redResult n data) s t ∧ RunHas n (fld data 4 2 % 1024) (fld data 0 4) (fld data 8 4) t := by
  have htaken : (r.got.contains (fld data 8 4) || decide (e.chunks ≤ fld data 8 4)) = false := by
    rw [hnew]
    simpa using hin
  obtain ⟨wc, hwrite⟩ := runM_codeOf_busWrite (redWho n)
    (e.resultAt (fld data 0 4) + 504 * fld data 8 4 * e.dstSize)
    (clean ((data.drop 64).take (e.chunkLen (fld data 8 4) * e.dstSize))) s
  have hwritten : ∃ wc u, Reads (if fld data 0xC 2 ≠ 0 then pure 0 else codeOf (busWrite (redWho n)
      (e.resultAt (fld data 0 4) + 504 * fld data 8 4 * e.dstSize)
      (clean ((data.drop 64).take (e.chunkLen (fld data 8 4) * e.dstSize))))) s wc u := by
    split
    · exact ⟨0, s, rfl⟩
    · exact ⟨wc, _, hwrite⟩
  obtain ⟨wc, u, hwritten⟩ := hwritten
  obtain ⟨w, hreds, hends⟩ := resultEnds_works s n e (fld data 0xC 2) (fld data 4 2 % 1024) (fld data 0 4) (fld data 8 4)
    (504 * fld data 8 4 * e.dstSize) ((data.drop 64).take (e.chunkLen (fld data 8 4) * e.dstSize))
    (resultNotes n data r e wc u)
  refine ⟨_, ?_, runHas_tryComplete ((runHas_resultNotes hrun wc u).of_reds hreds)⟩
  have hrest : Works (do
      modify (resultNotes n data r e wc)
      resultEnds s n e (fld data 0xC 2) (fld data 4 2 % 1024) (fld data 0 4) (fld data 8 4)
        (504 * fld data 8 4 * e.dstSize) ((data.drop 64).take (e.chunkLen (fld data 8 4) * e.dstSize))) u _ :=
    (runM_bind_ok (runM_modify _ u)).trans hends
  unfold redResult Works
  refine (runM_bind_ok (runM_get s)).trans ?_
  dsimp only
  rw [hrun, hentry]
  dsimp only
  rw [if_neg (by rw [htaken]; decide)]
  split at hwritten
  · next hcode =>
    rw [if_pos hcode]
    exact (runM_bind_ok hwritten).trans hrest
  · next hcode =>
    rw [if_neg hcode]
    exact (runM_bind_ok hwritten).trans hrest

end

end

end

end Sys2Proof.Machine
end

section
/-! PROOFS. Contributions at the owner, deadlines and forwarded writes of the reduction engines (R707, R708, R710, R716,
R730). -/

namespace Sys2Proof.Machine

section
variable {s t u v w x y : State} {n : Nat} {data : List Byte} {e : RedEntry} {r f : AccRecord}

/-! ### Contributions (R705, R707, R708, R716) -/

/-- What a contribution names: its entry, its step, its rank and its chunk. -/
def contribEntry (data : List Byte) : Nat := fld data 4 2 % 1024
def contribStep (data : List Byte) : Nat := fld data 0 4
def contribRank (data : List Byte) : Nat := fld data 6 2
def contribChunk (data : List Byte) : Nat := fld data 8 4

/-- The record with the contribution added. -/
def AccRecord.added (r : AccRecord) (data : List Byte) (k : Nat) : AccRecord :=
  { r with
    present := r.present + 1, e := fld data 0xC 2, sum := (r.sum + fld data 0x10 8) % 2 ^ 64
    arrived := r.arrived + 2 ^ contribRank data
    elems := r.elems.zipIdx.map fun x =>
      match ((List.range k).map fun i => signedOf 64 (fld data (64 + 8 * i) 8))[x.2]? with
      | some q => (x.1.1 + q, x.1.2 || q == -(2 ^ 63))
      | none => x.1 }

/-- The contribution's step is near, and its rank, chunk and length are ones that this owner expects. -/
structure ContribFits (s : State) (n : Nat) (e : RedEntry) (data : List Byte) : Prop where
  near : (contribStep data + 1 + 2 ^ 32 - rd s pgGeneration Reg.GEN_STEP) % 2 ^ 32 ≤ 2
  rank : contribRank data < sizeOf_ s n e
  chunk : contribChunk data < e.chunks
  owned : contribChunk data % sizeOf_ s n e = rankOf s n e
  length : fld data 0xE 2 = e.chunkLen (contribChunk data)

/-- The same, as the engine asks it. -/
def contribStray (s : State) (n : Nat) (e : RedEntry) (data : List Byte) : Bool :=
  !decide ((contribStep data + 1 + 2 ^ 32 - rd s pgGeneration Reg.GEN_STEP) % 2 ^ 32 ≤ 2) ||
    decide (sizeOf_ s n e ≤ contribRank data) || decide (e.chunks ≤ contribChunk data) ||
    contribChunk data % sizeOf_ s n e != rankOf s n e || fld data 0xE 2 != e.chunkLen (contribChunk data)

theorem contribStray_iff : contribStray s n e data = true ↔
    2 < (contribStep data + 1 + 2 ^ 32 - rd s pgGeneration Reg.GEN_STEP) % 2 ^ 32 ∨ sizeOf_ s n e ≤ contribRank data ∨
      e.chunks ≤ contribChunk data ∨ contribChunk data % sizeOf_ s n e ≠ rankOf s n e ∨
      fld data 0xE 2 ≠ e.chunkLen (contribChunk data) := by
  unfold contribStray
  simp only [Bool.or_eq_true, Bool.not_eq_true', decide_eq_false_iff_not, decide_eq_true_eq, bne_iff_ne, Nat.not_le, or_assoc]

theorem ContribFits.not_stray (h : ContribFits s n e data) : contribStray s n e data = false := by
  obtain ⟨hnear, hrank, hchunk, howned, hlength⟩ := h
  rw [Bool.eq_false_iff, Ne, contribStray_iff]
  rintro (h | h | h | h | h)
  exacts [Nat.not_lt.mpr hnear h, Nat.not_le.mpr hrank h, Nat.not_le.mpr hchunk h, h howned, h hlength]

/-- The contribution is added to its record; the last one closes the chunk. -/
def contribAdds (s : State) (n : Nat) (e : RedEntry) (data : List Byte) (f : AccRecord) : M Unit := do
  storeRecord n e (contribChunk data / sizeOf_ s n e) f
  if bitOf (fld data 0x18 1) 0 then
    setMaskBit n e (contribStep data) 1 (contribRank data)
    modify fun s => raiseOnce n (contribEntry data) (contribStep data) 5 (bump (pgReduction n) Reg.RD_OVERFLOWS 1 s)
  if allIn s n e f then closeChunk n (contribEntry data) e (contribStep data) (contribChunk data)

/-- The work on a contribution to an entry of the table, from the state in which the engine is ready. -/
def contribWork (s : State) (n : Nat) (e : RedEntry) (data : List Byte) : M Unit := do
  if contribStray s n e data then modify (bump (pgReduction n) Reg.RD_STRAY 1)
  else if (getRed s n).aborted.contains (contribStep data) then modify (bump (pgReduction n) Reg.RD_LATE 1)
  else
    let r ← loadRecord n e (contribStep data) (contribChunk data / sizeOf_ s n e)
    if r.closed then modify (bump (pgReduction n) Reg.RD_LATE 1)
    else if bitOf r.arrived (contribRank data) || rankLocked s n e (contribRank data) then return ()
    else if r.present ≠ 0 ∧ r.e ≠ fld data 0xC 2 then
      setMaskBit n e (contribStep data) 0 (contribRank data)
      modify (bump (pgReduction n) Reg.RD_WINDOW_MISMATCH 1)
    else contribAdds s n e data (r.added data (e.chunkLen (contribChunk data)))

theorem exec_contrib (hp : s.powered = true) (hengine : engineOf data = n) (h : Works (redContrib n data) s t) :
    exec (.contrib data) s = .next (after (redWho n) t) := by
  subst hengine
  have hworks : Works (contribMessage data) s t := by
    unfold contribMessage contribArrives
    exact runM_bind_ok (runM_codeOf h)
  exact exec_on hp (congrArg (whileOn s) (attempt_works hworks))

section
variable (hready : Reads (redReady n) s () u)
include hready

/-- An engine that does not work, or an entry that its table does not hold: the contribution is stray. -/
theorem redContrib_stray (h : redActive u n = false ∨ redEntry u n (contribEntry data) = none) :
    Works (redContrib n data) s (bump (pgReduction n) Reg.RD_STRAY 1 u) := by
  have hnone : (if redActive u n then redEntry u n (contribEntry data) else none) = none := by
    rcases h with h | h
    · rw [if_neg (by rw [h]; decide)]
    · rw [h, ite_self]
  unfold redContrib
  refine (runM_bind_ok hready).trans ?_
  refine (runM_bind_ok (runM_get u)).trans ?_
  dsimp only
  unfold contribEntry at hnone
  rw [hnone]
  exact runM_modify _ u

theorem redContrib_works (hactive : redActive u n = true) (hentry : redEntry u n (contribEntry data) = some e)
    (h : Works (contribWork u n e data) u t) : Works (redContrib n data) s t := by
  have hsome : (if redActive u n then redEntry u n (contribEntry data) else none) = some e := (if_pos hactive).trans hentry
  unfold redContrib
  refine (runM_bind_ok hready).trans ?_
  refine (runM_bind_ok (runM_get u)).trans ?_
  dsimp only
  unfold contribEntry at hsome
  rw [hsome]
  exact h

end

theorem contribWork_stray (h : contribStray u n e data = true) :
    Works (contribWork u n e data) u (bump (pgReduction n) Reg.RD_STRAY 1 u) := by
  unfold contribWork
  rw [if_pos h]
  exact runM_modify _ u

theorem ContribFits.contribWork_aborted (h : ContribFits u n e data)
    (haborted : (getRed u n).aborted.contains (contribStep data) = true) :
    Works (contribWork u n e data) u (bump (pgReduction n) Reg.RD_LATE 1 u) := by
  unfold contribWork
  rw [if_neg (by rw [h.not_stray]; decide), if_pos haborted]
  exact runM_modify _ u

/-- The record of the contribution's chunk is loaded: what comes next depends on it. -/
structure ContribLoads (u : State) (n : Nat) (e : RedEntry) (data : List Byte) (r : AccRecord) (v : State) : Prop where
  fits : ContribFits u n e data
  runs : (getRed u n).aborted.contains (contribStep data) = false
  load : Reads (loadRecord n e (contribStep data) (contribChunk data / sizeOf_ u n e)) u r v

theorem ContribLoads.runM_contribWork (h : ContribLoads u n e data r v) : runM (contribWork u n e data) u = runM (do
    if r.closed then modify (bump (pgReduction n) Reg.RD_LATE 1)
    else if bitOf r.arrived (contribRank data) || rankLocked u n e (contribRank data) then return ()
    else if r.present ≠ 0 ∧ r.e ≠ fld data 0xC 2 then
      setMaskBit n e (contribStep data) 0 (contribRank data)
      modify (bump (pgReduction n) Reg.RD_WINDOW_MISMATCH 1)
    else contribAdds u n e data (r.added data (e.chunkLen (contribChunk data)))) v := by
  unfold contribWork
  rw [if_neg (by rw [h.fits.not_stray]; decide), if_neg (by rw [h.runs]; decide)]
  exact runM_bind_ok h.load

theorem ContribLoads.late (h : ContribLoads u n e data r v) (hclosed : r.closed = true) :
    Works (contribWork u n e data) u (bump (pgReduction n) Reg.RD_LATE 1 v) := by
  refine h.runM_contribWork.trans ?_
  rw [if_pos hclosed]
  exact runM_modify _ v

section
variable (h : ContribLoads u n e data r v) (hopen : r.closed = false)
include h hopen

theorem ContribLoads.dropped
    (hin : bitOf r.arrived (contribRank data) = true ∨ rankLocked u n e (contribRank data) = true) :
    Works (contribWork u n e data) u v := by
  refine h.runM_contribWork.trans ?_
  rw [if_neg (by rw [hopen]; decide), if_pos (Bool.or_eq_true_iff.mpr hin)]
  rfl

variable (hnew : bitOf r.arrived (contribRank data) = false) (hfree : rankLocked u n e (contribRank data) = false)
include hnew hfree

theorem ContribLoads.leftOut (hpresent : r.present ≠ 0) (hother : r.e ≠ fld data 0xC 2)
    (hmask : Reads (setMaskBit n e (contribStep data) 0 (contribRank data)) v () w) :
    Works (contribWork u n e data) u (bump (pgReduction n) Reg.RD_WINDOW_MISMATCH 1 w) := by
  refine h.runM_contribWork.trans ?_
  rw [if_neg (by rw [hopen]; decide), if_neg (by rw [hnew, hfree]; decide), if_pos ⟨hpresent, hother⟩]
  exact (runM_bind_ok hmask).trans (runM_modify _ w)

theorem ContribLoads.adds (hsame : r.present = 0 ∨ r.e = fld data 0xC 2)
    (hadds : Works (contribAdds u n e data (r.added data (e.chunkLen (contribChunk data)))) v t) :
    Works (contribWork u n e data) u t := by
  have hwindow : ¬ (r.present ≠ 0 ∧ r.e ≠ fld data 0xC 2) := fun ⟨h₁, h₂⟩ => hsame.elim h₁ h₂
  refine h.runM_contribWork.trans ?_
  rw [if_neg (by rw [hopen]; decide), if_neg (by rw [hnew, hfree]; decide), if_neg hwindow]
  exact hadds

end

theorem contribAdds_works (hstore : Reads (storeRecord n e (contribChunk data / sizeOf_ u n e) f) v () w)
    (hclean : bitOf (fld data 0x18 1) 0 = false → x = w)
    (hheld : bitOf (fld data 0x18 1) 0 = true → ∃ z, Reads (setMaskBit n e (contribStep data) 1 (contribRank data)) w () z ∧
      x = raiseOnce n (contribEntry data) (contribStep data) 5 (bump (pgReduction n) Reg.RD_OVERFLOWS 1 z))
    (hmore : allIn u n e f = false → y = x)
    (hlast : allIn u n e f = true →
      Reads (closeChunk n (contribEntry data) e (contribStep data) (contribChunk data)) x () y) :
    Works (contribAdds u n e data f) v y := by
  have hend : Works (do if allIn u n e f then closeChunk n (contribEntry data) e (contribStep data) (contribChunk data)) x y := by
    cases hin : allIn u n e f with
    | false =>
      rw [hmore hin]
      rfl
    | true => exact hlast hin
  unfold contribAdds
  refine (runM_bind_ok hstore).trans ?_
  cases hbit : bitOf (fld data 0x18 1) 0 with
  | false =>
    rw [hclean hbit] at hend
    exact hend
  | true =>
    obtain ⟨z, hmask, hx⟩ := hheld hbit
    refine (runM_bind_ok hmask).trans ?_
    refine (runM_bind_ok (runM_modify _ z)).trans ?_
    rw [hx] at hend
    exact hend

/-! ### Deadlines and forwarded writes (R710, R730) -/

variable {step us : Nat}

theorem exec_chunkDeadline (hp : s.powered = true) : exec (.chunkDeadline n step us) s = .next (chunkDeadline n step us s) :=
  whileOn_powered _ hp

theorem chunkDeadline_early (h : us < rd s (pgReduction n) Reg.RD_DEADLINE) : chunkDeadline n step us s = s := by
  unfold chunkDeadline
  dsimp only
  rw [if_pos (.inr (.inr (.inl h)))]

/-- A passed deadline marks the step expired; the engine then closes what is due. -/
theorem chunkDeadline_passed (hn : n < 2) (hd : rd s (pgReduction n) Reg.RD_DEADLINE ≠ 0)
    (hus : rd s (pgReduction n) Reg.RD_DEADLINE ≤ us) (hopen : stepOpen s step = true) (hactive : redActive s n = true)
    (hu : u = modRed n (fun x => { x with expired := x.expired.filter (fun t => t != step) ++ [step] }) s)
    (hsweep : Works (do redSweep n; sweepRuns n (endedRuns (← get) n)) u v) :
    chunkDeadline n step us s = after (redWho n) v := by
  have hstill : redActive u n = true := by rw [hu, redActive_modRed, hactive]
  have hswept : sweepEngine n u = after (redWho n) v := by
    unfold sweepEngine
    rw [if_pos hstill, attempt_works hsweep]
  unfold chunkDeadline
  dsimp only
  rw [if_neg (by simp [hn, hd, hus, hopen, hactive]), ← hu, hswept]

theorem exec_twinForwardFail {entry j : Nat} (hp : s.powered = true)
    (h : (s.bus.writeErr.any fun e => e.who == forwardWho n entry step j) = true) :
    exec (.twinForwardFail n entry step j) s = .next (tryComplete n entry step (twinStale { s with bus := { s.bus with
      writeErr := s.bus.writeErr.filter fun e => e.who != forwardWho n entry step j } })) :=
  exec_on hp (congrArg (whileOn s) (if_pos h))

end

/-- Settles O56: the table, the start of a run, a contribution by what its record says, a result, a deadline, a forwarded
write that failed. -/
theorem reductions : Obligations.reductions := by
  intro s n hp hn
  refine ⟨fun k d u t es hw hoff hk hmin hmax halign hread ht hes => ⟨fun maps ws v w hcheck hmaps hwaits => ?loads,
      fun c i hcheck => ?refused⟩, fun hw hon => ?clears,
    fun i u e step used v p w x hready hactive hentry hnext hused hcount henough hahead hx => ?run,
    ?contrib, fun data entry step j hengine hentry hstep hj => ?result, fun step us u hd hu => ?deadline,
    fun entry step j h => exec_twinForwardFail hp h⟩
  case loads =>
    rw [exec_rdEnable true hp,
      rdEnable_sets hn hw hoff (redStart_loads hk hmin hmax halign hread ht hes hcheck hmaps hwaits)]
  case refused =>
    rw [exec_rdEnable true hp, rdEnable_sets hn hw hoff (redStart_refused hk hmin hmax halign hread ht hes hcheck)]
  case clears => rw [exec_rdEnable false hp, rdEnable_clears hn hw hon]
  case run =>
    have h : RunIn s n i u e step used v p w := ⟨hready, hactive, hentry, hnext, hused, hcount, henough, hahead⟩
    have hx' : x = runTaken n i e step used w := hx
    rw [hx']
    refine ⟨fun coarse x₁ E x₂ y z hcoarse hwindow hsend hsweep => ?_, fun c x₁ hcoarse hc => ?_⟩
    · exact exec_reductionRunStart hp hn (h.runStart_sends hcoarse hwindow hsend hsweep)
    · obtain ⟨t, hworks, hgone⟩ := h.runStart_ends hcoarse hc
      exact ⟨_, exec_reductionRunStart hp hn hworks, (findRun_of_reds rfl n i step).trans hgone⟩
  case contrib =>
    rintro data u _ _ _ _ hengine rfl rfl rfl rfl hready
    refine ⟨fun h => exec_contrib hp hengine (redContrib_stray hready h), ?_⟩
    rintro e _ hactive hentry rfl
    have hexec : ∀ {t}, Works (contribWork u n e data) u t → exec (.contrib data) s = .next (after (redWho n) t) :=
      fun hwork => exec_contrib hp hengine (redContrib_works hready hactive hentry hwork)
    refine ⟨fun h => hexec (contribWork_stray (contribStray_iff.mpr h)), fun hnear hrank hchunk howned hlength => ?_⟩
    have hfits : ContribFits u n e data := ⟨hnear, hrank, hchunk, howned, hlength⟩
    refine ⟨fun haborted => hexec (hfits.contribWork_aborted haborted), fun r v hruns hload => ?_⟩
    have h : ContribLoads u n e data r v := ⟨hfits, hruns, hload⟩
    refine ⟨fun hclosed => hexec (h.late hclosed), fun hopen hin => hexec (h.dropped hopen hin),
      fun hopen hnew hfree => ⟨fun w hpresent hother hmask => hexec (h.leftOut hopen hnew hfree hpresent hother hmask),
        fun f w x y hsame hf hstore hclean hheld hmore hlast => ?_⟩⟩
    have hf' : f = r.added data (e.chunkLen (contribChunk data)) := hf
    rw [hf'] at hstore hmore hlast
    exact hexec (h.adds hopen hnew hfree hsame (contribAdds_works hstore hclean hheld hmore hlast))
  case result =>
    subst hentry hstep hj
    refine ⟨fun hrun => exec_result hp hengine (redResult_strays hrun), fun r e hrun hentry => ⟨fun hknown => ?_,
      fun hnew hin => ?_⟩⟩
    · exact exec_result hp hengine (redResult_known hrun hentry hknown)
    · obtain ⟨t, hworks, hhas⟩ := redResult_takes hrun hentry hnew hin
      exact ⟨_, exec_result hp hengine hworks, hhas.of_reds rfl⟩
  case deadline =>
    refine ⟨fun hearly => ?_, fun v hus hopen hactive hsweep => ?_⟩
    · rw [exec_chunkDeadline hp, chunkDeadline_early hearly]
    · rw [exec_chunkDeadline hp, chunkDeadline_passed hn hd hus hopen hactive hu hsweep]

end Sys2Proof.Machine
end
